-- ==== Sys2Proof/Word.lean ====
section
/-! DEFINITION. The byte and the bit-field reader that every other file uses (R10, R11). -/

namespace Sys2Proof

/-- One byte of memory or of a message. -/
abbrev Byte := BitVec 8

/-- Bits `[hi:lo]` of a number (R11: bit 0 is the least significant). -/
def fld (w lo hi : Nat) : Nat := (w >>> lo) % 2 ^ (hi + 1 - lo)

/-- One bit of a number, as a truth value (R11). -/
def bitAt (w n : Nat) : Bool := (w >>> n) % 2 == 1

/-- A truth value as a number. -/
def b2n (b : Bool) : Nat := if b then 1 else 0

/-- Rounding up of a quotient. -/
def cdiv (a b : Nat) : Nat := (a + b - 1) / b

/-- A number held in a field of `w` bits that saturates (R119, R154, R523). -/
def sat (w n : Nat) : Nat := min n (2 ^ w - 1)

/-- A number held in a field of `w` bits that wraps (R14). -/
def wrap (w n : Nat) : Nat := n % 2 ^ w

/-- A two's-complement reading of the low `w` bits (R45: E_BASE is an s8). -/
def signed (w n : Nat) : Int :=
  let m := n % 2 ^ w
  if m < 2 ^ (w - 1) then (m : Int) else (m : Int) - (2 ^ w : Nat)

/-- The two's-complement code of `w` bits of an integer. -/
def unsigned (w : Nat) (i : Int) : Nat := (i % ((2 ^ w : Nat) : Int)).toNat

end Sys2Proof
end

