-- ==== Sys2Proof/Syntax.lean ====
section
/-! DEFINITION. The commands of the block: one constructor for each row of the table of operations and events, with the
row's operands. Records that a rule lays out bit by bit are carried as bit vectors; byte strings as lists of bytes. -/

namespace Sys2Proof

/-- What the management core takes from the stamp of a host command (R410): the sending basin, its CTAG (R373) and the
Ethernet port that carried it. -/
structure Hdr where
  basin : Nat
  ctag : Nat
  port : Nat
  deriving DecidableEq, Repr

/-- The SecTAG of a protected frame (R359): the SCI, the association number and the packet number. -/
structure SecTag where
  sci : Nat
  an : Nat
  pn : Nat
  deriving DecidableEq, Repr

/-- A frame that arrives at a port (R355, R357, R359). -/
structure RxFrame where
  port : Nat
  /-- Its frame check sequence is right (R355). -/
  fcsOk : Bool
  /-- The 16 bytes of its SecTAG, when its protection was valid under the key of that association (R359, R365). -/
  secTag : Option (List Byte)
  /-- The port's receive buffer had room (R31). -/
  bufferRoom : Bool
  /-- Its bytes from destination address to the last before the FCS, the SecTAG and ICV of a valid protection taken off. -/
  bytes : List Byte
  deriving DecidableEq, Repr

/-- A PTP message of the Delay Request-Response profile (R360). Times are in ns. -/
inductive PtpMsg where
  /-- Announce: the time transmitter's identity and whether it is the one to select. -/
  | announce (source : Nat) (best : Bool)
  | sync (source : Nat) (twoStep : Bool) (t1 t2 : Nat)
  | followUp (source : Nat) (t1 : Nat)
  | delayResp (source : Nat) (t3 t4 : Nat)
  deriving DecidableEq, Repr

/-- The identity frame of a partner ford (R427 step 3). -/
structure IdFrame where
  serial : Nat
  ford : Nat
  verMaj : Nat
  verMin : Nat
  dxM1 : Nat
  dyM1 : Nat
  dzM1 : Nat
  cx : Nat
  cy : Nat
  cz : Nat
  valid : Bool
  /-- The partner ford's state (R427 step 3). -/
  state : Nat
  deriving DecidableEq, Repr

/-- The partner reports that this module's identity matches at its own end (R427 step 7): its ford waits for this one, or is UP. -/
def IdFrame.matched (fr : IdFrame) : Bool := fr.state == 8 || fr.state == 9

/-- One unit that a flit carries or completes (R419 to R421). The header of its transfer says for which step it is. -/
inductive FlitUnit where
  /-- A heartbeat (R432). -/
  | heartbeat (serial ford counter : Nat)
  /-- A partial sum of a slice tree (R108): epilogue descriptor, output row, token, sender's coordinate on the axis. -/
  | treeSum (epi tok row axis leaf : Nat) (code : BitVec 25) (p : Nat)
  /-- An attention partial of a merge across modules (R146): m (or none), l and the o elements as F32. -/
  | attPartial (desc r head row leaf : Nat) (m : Option Int) (l : BitVec 32) (o : List (BitVec 32))
  /-- Finished bytes of a descriptor from the root (R108, R146): area 0 OUT, 1 ESC, 2 CNT, and the offset in it. -/
  | result (desc area off : Nat) (data : List Byte)
  /-- A coded or plain gradient segment of the update tree (R347, R348): object, update entry, first element, axis and leaf of the
  sender's node (axis 3: the root's sums), and the segment's bytes. -/
  | gradient (tid entry first axis leaf : Nat) (data : List Byte)
  /-- The module at these coordinates has bound a part (R437): job kind, identifier. -/
  | partBound (x y z kind ident : Nat)
  /-- Every module of the slice has bound the part (R437). -/
  | partsJoined (kind ident : Nat)
  /-- A window transfer with the slice job, the window, the direction, the offset, the length in units and a write's data (R201, R202). -/
  | transfer (job wid : Nat) (isRead : Bool) (roff len : Nat) (data : List Byte)
  /-- A data unit of a window read that this module asked for (R201): transfer descriptor and unit index. -/
  | windowData (desc idx : Nat) (data : List Byte)
  /-- A refusal of a transfer that this module sent (R202). -/
  | windowRefused (desc : Nat)
  /-- The partner asks for flits to be sent again (R420): from the flit of this number on the ford. -/
  | resendAsk (from_ : Nat)
  /-- Credits that the partner gives for a channel (R421, R427 step 8): 0 LM, 1 SR, 2 WX. -/
  | credits (chan n : Nat)
  /-- A module of the slice, at these coordinates, asks to borrow frames of a tier for a job (R246). -/
  | lendAsk (x y z job tier count : Nat)
  /-- A lender, at these coordinates, has lent frames under its record (R246, R247); and the pages that firmware homes there. -/
  | lendGrant (index x y z tier first count wid job : Nat) (pages : List Nat)
  /-- A borrower, at these coordinates, gives the frames of a record back (R248). -/
  | lendReturn (x y z index : Nat)
  /-- The lender's data of a unit that this module read in lent memory (R247): record and unit offset; or its refusal (R202). -/
  | lentData (index off : Nat) (data : List Byte)
  | lentRefused (index off : Nat)
  /-- Any other flit of the channel. -/
  | other
  deriving DecidableEq, Repr

/-- The channel of a unit (R421): 0 LM, 1 SR, 2 WX; none for any other flit. -/
def FlitUnit.chan : FlitUnit → Option Nat
  | .heartbeat .. => some 0
  | .treeSum .. => some 1
  | .attPartial .. => some 1
  | .result .. => some 1
  | .gradient .. => some 1
  | .partBound .. => some 0
  | .partsJoined .. => some 0
  | .transfer .. => some 2
  | .windowData .. => some 2
  | .windowRefused .. => some 2
  | .resendAsk .. => some 0
  | .credits .. => some 0
  | .lendAsk .. => some 2
  | .lendGrant .. => some 2
  | .lendReturn .. => some 2
  | .lentData .. => some 2
  | .lentRefused .. => some 2
  | .other => none

/-- What the header of a transfer's flits says (R419, R422, R437, R438): the channel, the stream sequence of the first flit, how many
flits it takes, the originator's slice coordinates once a hub has stamped them, the destination's, and the slice job (its kind and
identifier) with its step number. -/
structure FlitHead where
  chan : Nat
  seq : Nat
  flits : Nat
  src : Option (Nat × Nat × Nat)
  dst : Nat × Nat × Nat
  job : Option (Nat × Nat × Nat) := none
  deriving DecidableEq, Repr

/-- A record of a self-test (R511). -/
structure BistRec where
  block : Nat
  part : Nat
  result : Nat
  fails : Nat
  time : Nat
  misr : Nat
  expect : Nat
  deriving DecidableEq, Repr

/-- Which memory an error was found in (R232, R236): a tier frame, or a granule of a pool. -/
inductive Place where
  | hbm (frame : Nat)
  | lpx (frame : Nat)
  | pool (granule : Nat)
  deriving DecidableEq, Repr

/-- Who found an uncorrectable error (R235). -/
inductive Reader where
  /-- A unit of the step with this number, and the descriptor it worked for. -/
  | step (sid desc : Nat)
  | copyPath
  | move
  | scrub
  | host
  deriving DecidableEq, Repr

/-- What the scrubber's read of a frame found (R234). -/
inductive ScrubResult where
  | clean
  | corrected
  | uncorrectable
  deriving DecidableEq, Repr

/-- The address of one node of a confluence tree (R103): the stage (0: chunk tree, 1: row merge, 2, 3, 4: slice axes
x, y, z), the lowest leaf and the number of leaves. -/
structure CNode where
  stage : Nat
  lo : Nat
  n : Nat
  deriving DecidableEq, Repr

/-- The commands. The rule a row names stands in its docstring. -/
inductive Instr where
  /-- R256 -/
  | modelCreate (h : Hdr) (mid ntensor addr hdrs pages : Nat)
  /-- R256 -/
  | modelSeal (h : Hdr) (mid crcs : Nat)
  /-- R256 -/
  | sealVerifyComplete (basin mid : Nat)
  /-- R254 -/
  | modelDelete (h : Hdr) (mid : Nat)
  /-- R254 -/
  | modelQuery (h : Hdr) (mid : Nat)
  /-- R308 -/
  | modelProgram (h : Hdr) (rec : BitVec 384)
  /-- R240 -/
  | modelRepair (h : Hdr) (mid page crc : Nat) (data : List Byte)
  /-- R258 -/
  | variantCreate (h : Hdr) (vid setPages set crcs daddr dlen : Nat)
  /-- R268 -/
  | variantUpdate (h : Hdr) (vid setPages set crcs daddr dlen : Nat)
  /-- R258 -/
  | deltaVerifyComplete (basin vid : Nat)
  /-- R270 -/
  | variantDelete (h : Hdr) (vid : Nat)
  /-- R270 -/
  | variantRetireComplete (basin vid : Nat)
  /-- R266 -/
  | variantPin (h : Hdr) (vid pin : Nat)
  /-- R259 -/
  | variantQuery (h : Hdr) (vid : Nat)
  /-- R264 -/
  | variantPrefetch (h : Hdr) (vid : Nat)
  /-- R264 -/
  | materialisationStart (basin vid : Nat)
  /-- R260 -/
  | materialisationComplete (basin vid : Nat)
  /-- R311 -/
  | reqSubmit (h : Hdr) (blk : BitVec 512) (tokens : List Nat)
  /-- R312 -/
  | reqCancel (h : Hdr) (tag : Nat)
  /-- R312 -/
  | reqQuery (h : Hdr) (tag : Nat)
  /-- R306 -/
  | reqGroup (h : Hdr) (rec : BitVec 64)
  /-- R279 -/
  | kvConfigure (h : Hdr) (rec : BitVec 384)
  /-- R278 -/
  | kvQuery (h : Hdr) (conv : Nat)
  /-- R299 -/
  | kvResume (h : Hdr) (conv : Nat)
  /-- R300 -/
  | kvDrop (h : Hdr) (conv : Nat)
  /-- R287 -/
  | kvPrefixFlush (h : Hdr) (vid : Nat)
  /-- R303 -/
  | kvStats (h : Hdr)
  /-- R334 -/
  | trainCreate (h : Hdr) (rec : BitVec 512)
  /-- R337 -/
  | trainFeed (h : Hdr) (tid addr : Nat)
  /-- R336 -/
  | trainStart (h : Hdr) (tid : Nat)
  /-- R336 -/
  | trainStop (h : Hdr) (tid : Nat)
  /-- R333 -/
  | trainQuery (h : Hdr) (tid : Nat)
  /-- R352 -/
  | trainExport (h : Hdr) (tid : Nat)
  /-- R333 -/
  | trainDelete (h : Hdr) (tid : Nat)
  /-- R402 -/
  | basinCreate (h : Hdr) (rec : BitVec 1024)
  /-- R415 -/
  | basinDestroy (h : Hdr) (b : Nat)
  /-- R415 -/
  | basinTeardownComplete (b : Nat)
  /-- R415 -/
  | teardownFlushExpiry (b : Nat)
  /-- R405 -/
  | basinQuery (h : Hdr) (b : Nat)
  /-- R403 -/
  | basinQuota (h : Hdr) (rec : BitVec 1024)
  /-- R407 -/
  | basinHosts (h : Hdr) (b : Nat) (rec : List Byte)
  /-- R379 -/
  | basinMap (h : Hdr) (addr pages kind tier : Nat)
  /-- R379 -/
  | basinUnmap (h : Hdr) (addr pages : Nat)
  /-- R379 -/
  | basinPlace (h : Hdr) (addr pages tier : Nat)
  /-- R215 -/
  | basinPageq (h : Hdr) (addr : Nat)
  /-- R382 -/
  | basinRead (h : Hdr) (addr len xid : Nat)
  /-- R390 -/
  | regRead (h : Hdr) (addr count : Nat)
  /-- R390 -/
  | regWrite (h : Hdr) (addr : Nat) (mask value : BitVec 64)
  /-- R392 -/
  | ethPortCtrlWrite (h : Hdr) (n : Nat) (mask value : BitVec 64)
  /-- R443 -/
  | frdEnableWrite (h : Hdr) (ford : Nat) (mask value : BitVec 64)
  /-- R443 -/
  | frdRetrain (h : Hdr) (ford : Nat) (mask value : BitVec 64)
  /-- R445 -/
  | frdClrCnt (h : Hdr) (ford : Nat) (mask value : BitVec 64)
  /-- R518 -/
  | restart (h : Hdr) (mask value : BitVec 64)
  /-- R507 -/
  | confirm (h : Hdr) (mask value : BitVec 64)
  /-- R517 -/
  | stwBootCfgWrite (h : Hdr) (mask value : BitVec 64)
  /-- R494 -/
  | pwrLimitCfgWrite (h : Hdr) (mask value : BitVec 64)
  /-- R510 -/
  | testBist (h : Hdr) (scope target : Nat)
  /-- R512 -/
  | bistComplete (recs : List BistRec)
  /-- R511 -/
  | testResult (h : Hdr) (run : Nat)
  /-- R377 -/
  | testEcho (h : Hdr) (bytes : List Byte)
  /-- R459 -/
  | secAttest (h : Hdr) (nonce : BitVec 256) (named : Option Nat)
  /-- R453 -/
  | secCerts (h : Hdr)
  /-- R458 -/
  | secFwUpdate (h : Hdr) (addr len : Nat)
  /-- R462, KIND 0 -/
  | cakInstall (h : Hdr) (ports keyId : Nat) (ckn : BitVec 256) (ciphertext wrapped : List Byte)
  /-- R462, KIND 1 -/
  | sciBind (h : Hdr) (ports basin sci : Nat)
  /-- R462, KIND 2 -/
  | sciUnbind (h : Hdr) (ports basin sci : Nat)
  /-- R466 -/
  | secZeroize (h : Hdr) (eraseId : Nat)
  /-- R494 -/
  | pwrStatus (h : Hdr)
  /-- R489 -/
  | pwrDomain (h : Hdr) (domain op wakeS : Nat)
  /-- R489, OP 3 -/
  | standby (h : Hdr) (domain wakeS : Nat)
  /-- R494 -/
  | pwrLimit (h : Hdr) (mask value : BitVec 64)
  /-- R494, OP 0 -/
  | pwrStoreQuery (h : Hdr)
  /-- R493, OP 1 -/
  | pwrStoreSwap (h : Hdr)
  /-- R426 -/
  | linkTopology (h : Hdr) (rec : BitVec 512)
  /-- R435, OP 0 -/
  | linkSliceBind (h : Hdr) (rec : BitVec 256)
  /-- R435, OP 1 -/
  | linkSliceUnbind (h : Hdr) (rec : BitVec 256)
  /-- R442 -/
  | linkStatus (h : Hdr)
  /-- R526 -/
  | logRead (h : Hdr) (start max : Nat)
  /-- R528 -/
  | logFaults (h : Hdr) (start max : Nat)
  /-- R529 -/
  | logCounters (h : Hdr) (set index : Nat)
  /-- R377 -/
  | logSubscribe (h : Hdr) (mask : BitVec 64)
  /-- R367 -/
  | woreoSegmentReceive (f : RxFrame)
  /-- R366 -/
  | syn (f : RxFrame)
  /-- R368 -/
  | rtoExpiry (basin flow seq : Nat)
  /-- R367 -/
  | ackDelayExpiry (basin flow : Nat)
  /-- R372 -/
  | evtCoalesceExpiry (basin : Nat)
  /-- R381 -/
  | dataWriteResume (basin : Nat)
  /-- R370 -/
  | queueRoomReturn (basin flow : Nat)
  /-- R371 -/
  | tokSent (basin flow : Nat)
  /-- R358 -/
  | arpRequest (f : RxFrame)
  /-- R358 -/
  | neighbourSolicitation (f : RxFrame)
  /-- R358 -/
  | icmpEcho (f : RxFrame)
  /-- R360: a frame and the PTP message it carries. -/
  | ptpMessage (f : RxFrame) (m : PtpMsg)
  /-- R359: a frame of the key server on the port's CAK, with the SAK it distributes, if any, and the live peer flag. -/
  | mkaFrame (f : RxFrame) (ckn : Nat) (icvOk : Bool) (sak : Option Nat)
  /-- R356: with the PHYs that the other end offers, as rates and media. -/
  | ethLink (port : Nat) (up : Bool) (partner : List (Nat × Nat)) (lanes : Nat)
  /-- R315 -/
  | batchForm (basin gid : Nat)
  /-- R555 -/
  | stepBind (sid : Nat)
  /-- R319 -/
  | stepBoundary (sid : Nat)
  /-- R321 -/
  | offstepSettle (basin : Nat)
  /-- R92 -/
  | itemPrologue (sid pos : Nat)
  /-- R83 -/
  | windowLoad (sid pos : Nat)
  /-- R82 -/
  | decoderRead (sid pos lane : Nat)
  /-- R85 -/
  | laneBeat (sid pos lane : Nat)
  /-- R84 -/
  | itemJoin (sid pos : Nat)
  /-- R84 -/
  | drainComplete (sid pos : Nat)
  /-- R90 -/
  | stepFault (sid : Nat)
  /-- R104 -/
  | confluenceAdd (sid epi tok row : Nat) (node : CNode)
  /-- R117 -/
  | epilogueBlock (sid epi tok blk : Nat)
  /-- R119 -/
  | epilogueFinish (sid epi : Nat)
  /-- R138 -/
  | millraceUnitStart (sid desc mill : Nat)
  /-- R163: the stream of the weir (token, expert) or of a page (request, head, page, row). -/
  | riffleStream (sid desc a b c d : Nat)
  /-- R148 -/
  | millraceTile (sid mill : Nat)
  /-- R135 -/
  | rangeMerge (sid desc r head row : Nat) (node : CNode)
  /-- R172 -/
  | weirRoute (sid desc : Nat)
  /-- R176 -/
  | weirCombine (sid desc : Nat)
  /-- R339 -/
  | lossCompute (sid desc : Nat)
  /-- R346 -/
  | gradientAccumulate (sid desc rt ct : Nat)
  /-- R190 -/
  | eddyWrite (sid eid unit off : Nat) (data : List Byte)
  /-- R190 -/
  | eddyRead (sid eid unit off : Nat)
  /-- R190 -/
  | eddyAccessResume (sid eid : Nat)
  /-- R198 -/
  | eddyWatchdogExpiry (sid eid : Nat)
  /-- R202: an arriving transfer with the coordinates of the partner identity, its basin's slice job, the window, the
  direction, the offset, the length in units, for a write the data, and the part with its step number (R437), if it has one. -/
  | windowTransferReceive (ford sx sy sz basin job wid : Nat) (isRead : Bool) (roff len : Nat) (data : List Byte)
      (part : Option (Nat × Nat × Nat))
  /-- R210 -/
  | jobKill (basin job : Nat)
  /-- R206 -/
  | granuleClearComplete (granule : Nat) (verified : Bool)
  /-- R210 -/
  | jobCleared (basin job : Nat)
  /-- R227 -/
  | pageMoveStart (basin page : Nat)
  /-- R227: with whether a unit was uncorrectable in step 2. -/
  | pageMoveComplete (basin page : Nat) (uncorrectable : Bool)
  /-- R219: a copy of the page into HBM3E, or into a granule of a job at an offset. -/
  | pageCopy (basin page : Nat) (toPool : Option (Nat × Nat))
  /-- R231 -/
  | hbmReclaim
  /-- R236 -/
  | uncorrectableError (place : Place) (reader : Reader)
  /-- R239 -/
  | modelHomeRepair (basin page : Nat)
  /-- R240 -/
  | refetchTimer (basin page : Nat)
  /-- R233 -/
  | correctedError (place : Place)
  /-- R234 -/
  | scrubRead (place : Place) (found : ScrubResult)
  /-- R248: on the borrower, the lender names the record. -/
  | memLendReclaim (record : Nat)
  /-- R248 -/
  | lendReclaimExpiry (record : Nat)
  /-- R298 -/
  | kvTtlCheck
  /-- R410 -/
  | runnelMessage (sender basin job endpoint type len : Nat) (data : BitVec 352)
  /-- R413 -/
  | doorbellRing (sender basin job endpoint : Nat) (mask : BitVec 64)
  /-- R412 -/
  | runnelHoldExpiry (endpoint : Nat)
  /-- R28 -/
  | domainWake (domain : Nat)
  /-- R486 -/
  | domainWakeComplete (domain : Nat)
  /-- R487 -/
  | domainFault (domain : Nat)
  /-- R488 -/
  | autoIdleExpiry (domain : Nat)
  /-- R489 -/
  | standbyWakeTimer
  /-- R427: the lane tests, whether the lanes aligned, and the reversal and polarity corrected. -/
  | fordTrain (ford lane0 lane1 : Nat) (aligned laneRev pol0 pol1 : Bool)
  /-- R427 -/
  | fordTrainRetry (ford lane0 lane1 : Nat) (aligned laneRev pol0 pol1 : Bool)
  /-- R429 -/
  | identityFrame (ford : Nat) (fr : IdFrame)
  /-- R432 -/
  | heartbeatSend (ford : Nat)
  /-- R420: with the outcome of its CRC, the FEC corrections counted, and what it carries. -/
  | flitReceive (ford : Nat) (crcOk : Bool) (fecCorr fecUncorr : Nat) (head : FlitHead) (u : FlitUnit)
  /-- R432 -/
  | fordLostTimeout (ford : Nat)
  /-- R432 -/
  | moduleLostTimeout (ford : Nat)
  /-- R436 -/
  | sliceReadyReceive (sliceId x y z minor : Nat)
  /-- R436 -/
  | sliceGoReceive (sliceId minor : Nat)
  /-- R436 -/
  | sliceBindTimeout (sliceId : Nat)
  /-- R437: the kind (0 training object, 1 serving group) and the identifier of the part. -/
  | sliceJoinTimeout (basin kind ident : Nat)
  /-- R440 -/
  | sliceStopReceive (ford sliceId serial cause : Nat)
  /-- R475: VCORE at a sense point has been at this level, below 0.68 V, for the given time. -/
  | vcoreDip (point mv forNs : Nat)
  /-- R475 -/
  | pwrClear
  /-- R476: the fault (0 VCORE, 1 OVER) with the sense point and the level. -/
  | brownout (cause point mv : Nat)
  /-- R476 -/
  | brownoutRecovery
  /-- R474: rail (0 VCORE, 1 VSTW, 2 VMEM, 3 VLPX, 4 VSER, 5 VAUX) and kind (UNDER, OVER, CURRENT, TEMPERATURE). -/
  | railFault (rail kind : Nat)
  /-- R474 -/
  | railWarn (rail mv : Nat)
  /-- R474 -/
  | vserRecovery
  /-- R477: the mean input power of 10 µs, in W, and the input voltage in 0.1 V. -/
  | powerSample (watts vin : Nat)
  /-- R477 -/
  | limiterStep
  /-- R483 -/
  | thermalLoop
  /-- R481: readings of sensors (number, °C), and of LPDDR5X packages (number, °C), and the module sensors that did not acknowledge (R485). -/
  | sensorRead (readings lpx : List (Nat × Int)) (noAck : List Nat)
  /-- R485: the sensors whose reference check failed, and those whose check passed. -/
  | sensorCheck (failed : List Nat)
  /-- R485: whether the line is still low after the recovery pulses. -/
  | sensorBusFault (stillLow : Bool)
  /-- R485 -/
  | sensorBusRetry (ok : Bool)
  /-- R484 -/
  | inputReversed
  /-- R484 -/
  | inputLow (vin : Nat)
  /-- R484 -/
  | inputUndervoltage (vin : Nat)
  /-- R484 -/
  | inputHigh (vin : Nat)
  /-- R484 -/
  | inputOvervoltage (vin : Nat)
  /-- R541 -/
  | senseMate
  /-- R541 -/
  | senseBreak
  /-- R502: the levels of TEST_MODE and RECOVER# (asserted) and the input voltage in 0.1 V. -/
  | powerOn (testMode recover : Bool) (vin : Nat)
  /-- R502: the frames whose initialisation failed, and the records of the boot self-test. -/
  | memoryInitComplete (badHbm badLpx : List Nat) (recs : List BistRec)
  /-- R504 -/
  | ptpWaitExpiry
  /-- R502 -/
  | bootReady
  /-- R507 -/
  | confirmTimeout
  /-- R508 -/
  | sp0WatchdogExpiry
  /-- R503 -/
  | moduleRestart
  /-- R538: how long MOD_RESET# has been low, in ns. -/
  | modReset (lowNs : Nat)
  /-- R493: whether the program and read-back succeeded at the first and at the second position. -/
  | storeWrite (firstOk secondOk otherBankOk : Bool)
  /-- R493 -/
  | storeEraseComplete
  /-- R464: the test that failed, if any, by ERR_CAUSE. -/
  | selftestPeriodic (failed : Option Nat)
  /-- R465 -/
  | entropyHealthFail
  /-- R461: 0 for D0, 1 for D1. -/
  | drbgReseed (inst : Nat)
  /-- R522 -/
  | counterFold
  /-- R546 code 0x01. `pec`: the request's PEC is right, or it has none, as over I3C (R545). -/
  | mgStatus (pec : Bool)
  /-- R546 code 0x02 -/
  | mgSensors (pec : Bool)
  /-- R546 code 0x03 -/
  | mgEvents (pec : Bool) (start : Nat)
  /-- R546 code 0x04 -/
  | mgFaults (pec : Bool) (start : Nat)
  /-- R546 code 0x05 -/
  | mgSelftest (pec : Bool) (first : Nat)
  /-- R546 code 0x10 -/
  | mgRestart (pec : Bool)
  /-- R546 code 0x11 -/
  | mgWake (pec : Bool)
  /-- R546, R547 code 0x20 -/
  | mgAdminHosts (pec : Bool) (offset : Nat) (piece : List Byte)
  /-- R547 -/
  | mgAdminHostsTimeout
  /-- R548 code 0x21 -/
  | mgAdminMove (pec : Bool) (b : Nat)
  /-- R547 code 0x30 -/
  | mgImage (pec : Bool) (offset : Nat) (chunk : List Byte)
  /-- R508 code 0x31 -/
  | mgImageCommit (pec : Bool) (len : Nat)
  /-- R549 -/
  | mgBusTimeout
  /-- R514 -/
  | bypass
  /-- R514 -/
  | idcode
  /-- R514: the levels sampled on the covered pins, and the bits shifted in for the preload. -/
  | samplePreload (pins shifted : List Bool)
  /-- R515 -/
  | extest (pins : List Bool)
  /-- R515 -/
  | clamp
  /-- R515 -/
  | highz
  /-- R514 -/
  | extestPulse (pins : List Bool)
  /-- R514 -/
  | extestTrain (pins : List Bool)
  /-- R312 -/
  | tagExpiry (basin tag : Nat)
  /-- R205: the frame cleared, and whether its clearing succeeded. -/
  | tierPageClearComplete (place : Place) (ok : Bool)
  /-- R203 -/
  | windowCloseComplete (basin job wid : Nat)
  /-- R395 -/
  | ptpTransmitterLost
  /-- R486 -/
  | domainOffComplete (domain : Nat)
  /-- R475 -/
  | vcoreReturn
  /-- R474 -/
  | vauxRecovery
  /-- R436: on a ford, the neighbour's declaration: SLICE_ID, origin and lengths minus 1. -/
  | sliceDeclareReceive (ford sliceId ox oy oz lx ly lz minor : Nat)
  /-- R336 -/
  | shadowStateSet (basin tid : Nat)
  /-- R458 -/
  | fwSlotWriteComplete
  /-- R358 -/
  | addressResolutionReply (f : RxFrame)
  deriving DecidableEq, Repr

end Sys2Proof
end

