-- ==== Sys2Proof/Config.lean ====
section
/-! DEFINITION. The free values: what an implementation fixes or what the spec leaves open. Each is a constant without a
body, so that nothing can be proved of its value. -/

namespace Sys2Proof

/-- Free: the place in a list of free frames or slots from which the n-th choice is taken (log entry 7). -/
opaque Config.pick : Nat → Nat

/-- Free: the n-th sample of the noise source in SP1 (R460, log entry 8). -/
opaque Config.noise : Nat → Bool

/-- Free: the 128-bit nonce with which the n-th instantiation of a DRBG starts (R461, log entry 8). -/
opaque Config.drbgNonce : Nat → List (BitVec 8)

/-- Free: whether a self-test of the function with an ERR_CAUSE passes at its n-th run (R464, log entry 62). -/
opaque Config.selfTest : Nat → Nat → Bool

/-- Free: the nonce of the n-th record that is encrypted under the store key, of 12 bytes (R491, log entry 66). -/
opaque Config.storeNonce : Nat → List (BitVec 8)

/-- Free: the root K_PUF that the PUF and the helper record give (R451, log entry 8). -/
opaque Config.kPuf : BitVec 256

/-- Free: whether the n-th reconstruction of K_PUF succeeds (R451, log entry 8). -/
opaque Config.pufOk : Nat → Bool

/-- Free: the public key that SLH-DSA-SHA2-128f key generation gives for its seeds (R452, log entry 9). -/
opaque Config.slhPublic : List Byte → BitVec 256

/-- Free: the SLH-DSA-SHA2-128f signature of a message under the key of its seeds (R459, log entry 9). -/
opaque Config.slhSign : List Byte → List Byte → List Byte

/-- Free: whether an SLH-DSA-SHA2-256s signature of a message verifies under a key of the ROM (R454, R456, log entry 9). -/
opaque Config.slhVerify : Nat → List Byte → List Byte → Bool

/-- Free: the ML-KEM-768 decapsulation of a ciphertext with the key of its seeds (R462, log entry 9). -/
opaque Config.mlkemDecaps : List Byte → List Byte → Option (BitVec 256)

/-- Free: the DER bytes of a certificate of R453 by its place in SEC.CERTS and what it certifies (log entry 9). -/
opaque Config.certificate : Nat → List Byte → List Byte

/-- Free: the SHA-256 of the boot ROM (R457, log entry 9). -/
opaque Config.romDigest : List Byte

/-- Free: the bytes of the security configuration that M6 measures (R457, log entry 61): the ports' KEY_IDs, the SCI bindings
and MACSEC_REQ. -/
opaque Config.secCfgBytes : List (Nat × Nat) → List (Nat × Nat × Nat) → List Nat → List Byte

/-- Free: the number of cells of the boundary register (R514, log entry 10). -/
opaque Config.boundaryLen : Nat

/-- Free: the receive credits of a ford for a channel, which it gives its partner as it comes UP (R421, R427 step 8, log entry 137). -/
opaque Config.fordCredits : Nat → Nat

/-- Free: the 68 bytes of a flit but for its CRC (R419), by ford and number on the ford: the rule gives what a flit holds and no layout of it
(log entry 137). -/
opaque Config.flitBytes : Nat → Nat → List (BitVec 8)

/-- Free: the share of HBM3E bandwidth, in 1/256, that the VC-P traffic of a C0 step needs, by its program and the number of its requests
(R326 condition 1, R400): no rule states how much a step transfers (log entry 151). -/
opaque Config.vcpShare : BitVec 384 → Nat → Nat

/-- Free: the address that a port must resolve to reach an address: the address itself or a gateway, of which R358 speaks and which no
rule sets (log entry 139). -/
opaque Config.nextHop : Nat → Nat → Nat

/-- Free: where a port's Delay_Req goes on a transport: its own address, the destination's and the destination MAC address (R360, log entry
140). -/
opaque Config.ptpRoute : Nat → Nat → Nat × Nat × Nat

/-- Free: the device's PTP port identity, and the sequence number of a Delay_Req sent at a time (R360, log entry 140). -/
opaque Config.ptpIdentity : Nat → Nat
opaque Config.ptpSeq : Nat → Nat

/-- Free: the bytes of a frame under a secure association, encrypted and with their ICV, by port, association number and packet number
(R359, log entry 140). -/
opaque Config.macsecSeal : Nat → Nat → Nat → List Byte → List Byte

/-- Free: TYPE, LEN and DATA of the runnel message by which a port delivers the n-th CMD message: they name a buffer in its receive area,
which no rule lays out (R410, log entry 148). -/
opaque Config.cmdBuffer : Nat → Nat × Nat × BitVec 352

/-- Free: the SCI of a port's transmit secure channel, which IEEE 802.1AE forms from its MAC address (R359, log entry 144). -/
opaque Config.ownSci : Nat → Nat

/-- Free: the MKA frame of a port, which IEEE 802.1X fixes: destination address, EtherType, and what stands before and after the key server
priority (R359, R462, log entry 140). -/
opaque Config.mkaBytes : Nat → List Byte × Nat × List Byte × List Byte

/-- Free: P of R343 for a key above the row's recorded maximum, which the spec does not state: from m, l and the score (log
entry 34). -/
opaque Config.backProb : Option Int → BitVec 32 → Int → BitVec 32

/-- Free: the weight of a logit of +INF in R339, by its index, which the spec does not state (log entry 36). -/
opaque Config.infWeight : Nat → Nat

end Sys2Proof
end

