-- ==== Sys2Proof/Machine/State.lean ====
section
/-! DEFINITION. The state of the block, as plain data, and the state after reset. Each structure names the rules that give
the machine what it holds. -/

namespace Sys2Proof.Machine

/-- Why a command stops. No meaning of this model raises one: the constructor is kept so that a run could name a broken
invariant of the model itself. Safe: a stop proves nothing about the machine. -/
inductive Fault where
  /-- Raised by no command. Safe. -/
  | modelInvariant
  deriving DecidableEq, Repr

/-- Why a command is not given a meaning. -/
inductive Refusal where
  /-- Raised by an arm of exec whose command has no meaning yet. Safe: nothing is claimed about it. -/
  | notModelled (mnemonic : String)
  deriving DecidableEq, Repr

/-! ### Messages (R364 to R374, R328, R329, R383) -/

/-- A field of a message, laid at a multiple of its size (R374). -/
inductive Field where
  | u8 (n : Nat)
  | u16 (n : Nat)
  | u32 (n : Nat)
  | u64 (n : Nat)
  /-- A record of the given number of bytes, 8-byte aligned. -/
  | record (size w : Nat)
  /-- A trailing array, laid without a gap. -/
  | bytes (l : List Byte)
  deriving DecidableEq, Repr

/-- An entry of a step record (R329). -/
structure TokEntry where
  tag : Nat
  token : Nat := 0
  pos : Nat := 0
  hasToken : Bool := false
  final : Bool := false
  baseFb : Bool := false
  status : Nat := 0
  deriving DecidableEq, Repr

/-- A step record with its entries (R328). -/
structure StepRec where
  stepSeq : Nat := 0
  gid : Nat := 0
  cls : Nat := 0
  guar : Bool := false
  offstep : Bool := false
  void : Nat := 0
  formT : Nat := 0
  t : Nat := 0
  vid : Nat := 0
  gen : Nat := 0
  entries : List TokEntry := []
  deriving DecidableEq, Repr

/-- An event record (R383); the payload is a list of u64 (R385). -/
structure EvtRec where
  code : Nat
  src : Nat
  sseq : Nat := 0
  time : Nat := 0
  payload : List Nat := []
  deriving DecidableEq, Repr

/-- A message of the device (R364). -/
inductive Msg where
  | rsp (opcode status ctag : Nat) (data : List Field)
  | tok (recs : List StepRec)
  | evt (recs : List EvtRec)
  | data (addr xid : Nat) (last : Bool) (bytes : List Byte)
  deriving DecidableEq, Repr

/-- A C0 step record whose latency a TOK message ends (R325, R327). -/
structure Measure where
  gid : Nat
  stepSeq : Nat
  formT : Nat
  bound : Nat
  guar : Bool
  deriving DecidableEq, Repr

/-- A TOK message that did not fit its queue (R370): flow and group. -/
structure TokPend where
  flow : Nat
  gid : Nat
  msg : Msg
  measure : List Measure := []
  /-- It has waited for room that a stalled or full flow withheld (R326 condition 6). -/
  blocked : Bool := false
  deriving DecidableEq, Repr

/-- A message in the queue of a flow (R370), with the segments already sent of it and, for a TOK message, the latency
measurement it carries (R325, R327). -/
structure QMsg where
  msg : Msg
  ident : Nat
  /-- Segments of the message sent at least once. -/
  segsSent : Nat := 0
  /-- SEQ of its first segment, once sent. -/
  firstSeq : Nat := 0
  /-- C0 step records whose latency this message ends. -/
  measure : List Measure := []
  /-- It has waited on a stalled flow or a full window (R326 condition 6, R371). -/
  blocked : Bool := false
  deriving DecidableEq, Repr

/-- A segment sent and not yet acknowledged (R368). -/
structure SentSeg where
  seq : Nat
  ident : Nat
  part : Nat
  sends : Nat := 1
  /-- Expiries of its timer (R363). -/
  exps : Nat := 0
  timer : Nat
  due : Nat
  fastSent : Bool := false
  deriving DecidableEq, Repr

/-- The fields of a Woreo header that a sender fills (R364). -/
structure WoreoHdr where
  kind : Nat
  synBit : Bool := false
  more : Bool := false
  retx : Bool := false
  flow : Nat
  basin : Nat
  seq : Nat
  ack : Nat
  sack : Nat
  rwnd : Nat
  len : Nat
  time : Nat
  maxpay : Nat := 0
  deriving DecidableEq, Repr

/-- What a frame that leaves carries. -/
inductive OutBody where
  /-- A Woreo segment from port 47077 of one of the basin's addresses to a host's address and UDP port (R362 to R364). -/
  | woreo (h : WoreoHdr) (src dst dport : Nat) (payload : List Byte)
  | arpReply (toIp ourIp : Nat)
  | neighbourAdvert (toIp ourIp : Nat)
  | echoReply (toIp ourIp : Nat) (echoed : List Byte)
  /-- An ARP request or a Neighbour Solicitation for an address (R358). -/
  | resolve (ip ourIp : Nat)
  /-- A PTP Delay_Req of a transport and domain, sent at a time of the module's clock (R360). -/
  | delayReq (transport domain t3 : Nat)
  /-- An MKA frame with the key server priority it announces (R462). -/
  | mka (prio : Nat)
  deriving DecidableEq, Repr

/-- A frame that leaves a port (R357, R359): the VID of its tag, none when it is untagged, the PCP, the MAC address that the neighbour
table gives, and its SecTAG when it leaves under the port's secure association. -/
structure OutFrame where
  port : Nat
  vid : Option Nat
  pcp : Nat
  toMac : Option Nat
  sec : Option SecTag
  body : OutBody
  deriving DecidableEq, Repr

/-- A Woreo segment that waits for its port (R371): the address it goes to and comes from, the host's UDP port, and its PCP. -/
structure PortSeg where
  port : Nat
  ip : Nat
  src : Nat
  dport : Nat
  pcp : Nat
  hdr : WoreoHdr
  payload : List Byte
  deriving DecidableEq, Repr

/-- One direction pair of a basin's flow (R363 to R371). -/
structure Flow where
  opened : Bool := false
  stalled : Bool := false
  rxNext : Nat := 0
  held : List RxFrame := []
  txNext : Nat := 0
  sent : List SentSeg := []
  queue : List QMsg := []
  nextIdent : Nat := 0
  maxpay : Nat := 0
  peerIp : Nat := 0
  peerPort : Nat := 0
  /-- The host's UDP port and the basin's address of the last segment received (R363). -/
  peerUdp : Nat := 0
  ownIp : Nat := 0
  peerAck : Nat := 0
  peerWnd : Nat := 0
  ackDue : Option Nat := none
  deriving DecidableEq, Repr

/-! ### Commands of a host (R373 to R376) -/

/-- The object that a command names (R376 order 4). -/
inductive Obj where
  | model (n : Nat)
  | variant (n : Nat)
  | conv (n : Nat)
  | tag (n : Nat)
  | train (n : Nat)
  | basin (n : Nat)
  | region (first count : Nat)
  | domain (n : Nat)
  | store
  | slice (id : Nat)
  | fwSlot
  | test
  | ptree (vid : Nat)
  | read (xid : Nat)
  deriving DecidableEq, Repr

/-- An unanswered deferred command (R375). `arg` is what the command's completion needs: the accept time of a
cancellation, the tier of a placement, the operation of a domain command. -/
structure Deferred where
  h : Hdr
  opcode : Nat
  obj : Obj
  arg : Nat := 0
  at_ : Nat := 0
  deriving DecidableEq, Repr

/-- A delivered CMD message that the management core has not started: its bytes in the port's receive area, and the runnel message by which
the port has delivered it (R410). -/
structure CmdMsg where
  opcode : Nat
  ctag : Nat
  bytes : List Byte
  /-- The check of R376, of the first two, that it fails: its status, or 0. -/
  bad : Nat := 0
  /-- It has come through a MACsec receive channel that is bound to its basin (R450). -/
  auth : Bool := false
  /-- Its place among the messages and DATA segments of the flow (R375). -/
  order : Nat := 0
  /-- SENDER, RSEQ, TIME, TYPE, LEN and DATA; BASIN is the flow's, and JOB is 0. -/
  sender : Nat := 0
  rseq : Nat := 0
  time : Nat := 0
  type : Nat := 0
  len : Nat := 0
  data : BitVec 352 := 0
  deriving DecidableEq, Repr

/-- A DATA segment (R380). -/
structure DataSeg where
  addr : Nat
  xid : Nat
  bytes : List Byte
  /-- Its place among the messages and DATA segments of the flow (R375). -/
  order : Nat := 0
  deriving DecidableEq, Repr

/-- What the device keeps for the host of a basin (R370 to R387). -/
structure Link where
  woreoCfg : BitVec 64
  /-- Payloads of the segments of a CMD message not yet complete (R365). -/
  partialCmd : List Byte := []
  /-- They have all come through a receive channel that is bound to the basin (R450). -/
  partialAuth : Bool := true
  inbox : List CmdMsg := []
  /-- Messages and DATA segments that have come on flow 0, and the basin's mark in the round of those served (R375). -/
  arrived : Nat := 0
  turn : Nat := 0
  dataWait : List DataSeg := []
  deferred : List Deferred := []
  gather : List EvtRec := []
  gatherSince : Option Nat := none
  lost : Nat := 0
  lostFirst : Nat := 0
  lostLast : Nat := 0
  /-- RSP messages that did not fit (R370). -/
  rspWait : List Msg := []
  subs : BitVec 64 := 0
  flow0 : Flow := {}
  flow1 : Flow := {}
  /-- TOK messages that did not fit (R370). -/
  tokWait : List TokPend := []
  deriving DecidableEq, Repr

/-! ### Events and logs (R383, R525 to R534) -/

/-- An entry of the event log (R525). -/
structure LogEntry where
  lseq : Nat
  basins : Nat
  evt : EvtRec
  deriving DecidableEq, Repr

/-- A fault record (R527). -/
structure FaultRec where
  fseq : Nat := 0
  status : Nat := 0
  src : Nat := 0
  time : Nat := 0
  basin : Nat := 0
  module_ : Bool := false
  kind : Nat := 0
  job : Nat := 0
  tag : Nat := 0
  aux : Nat := 0
  addr : Nat := 0
  arg0 : Nat := 0
  arg1 : Nat := 0
  suppressed : Nat := 0
  deriving DecidableEq, Repr

/-- One set of performance counters (R529 to R534). -/
structure CtrSet where
  set : Nat
  index : Nat
  /-- The basin for set 6, otherwise 0. -/
  basin : Nat := 0
  vals : List Nat
  deriving DecidableEq, Repr

structure Logs where
  sseq : List (Nat × Nat) := []
  ring : List LogEntry := []
  lseq : Nat := 0
  lost : Nat := 0
  mgRing : List LogEntry := []
  mgLseq : Nat := 0
  /-- LSEQ of the management ring up to which entries have been read (MG_ALERT#, R546). -/
  mgRead : Nat := 0
  fseq : Nat := 0
  suppressed : Nat := 0
  /-- The whole second of the last records and how many it took (R528). -/
  second : Nat := 0
  inSecond : Nat := 0
  ctrs : List CtrSet := []
  /-- Local counts of the units, not yet added (R522). -/
  localCtrs : List CtrSet := []
  deriving DecidableEq, Repr

/-! ### Boot, firmware and store (R501 to R520, R490 to R493) -/

/-- A firmware image in a slot (R455), as bytes. -/
abbrev Image := List Byte

structure BistRun where
  run : Nat
  scope : Nat
  target : Nat
  recs : List BistRec := []
  deriving DecidableEq, Repr

structure Boot where
  stage : Nat := 0
  slot : Nat := 0
  trial : Bool := false
  triesLeft : Nat := 0
  cause : Nat := 0
  reverted : Bool := false
  abandoned : Nat := 0
  fullRan : Bool := false
  timeSync : Bool := false
  timeStep : Nat := 0
  bootMs : Nat := 0
  restarts : Nat := 0
  bootCfg : BitVec 64
  /-- STW_BOOT_CFG as the boot in progress took it (R517). -/
  bootCfgInForce : BitVec 64
  linksAt : Option Nat := none
  readyAt : Option Nat := none
  restartDue : Option (Nat × Nat) := none
  /-- PTP_WAIT_S has passed in LINKS without a lock (R504). -/
  waitOver : Bool := false
  recover : Bool := false
  fenced : List Nat := []
  /-- Events raised before READY, sent after BOOT.READY (R502 step 12). -/
  heldEvents : List (Nat × EvtRec) := []
  runs : List BistRun := []
  bootRecs : List BistRec := []
  nextRun : Nat := 1
  /-- Outstanding TEST.BIST: run, scope, target. -/
  testing : Option (Nat × Nat × Nat) := none
  /-- Reaches and domains whose test was aborted by a brown-out (R520). -/
  testAborted : Bool := false
  deriving DecidableEq, Repr

/-- A record of the configuration store (R491). Payloads are numbers read little-endian, or bytes. -/
structure StoreRec where
  type : Nat
  index : Nat
  len : Nat
  seq : Nat
  tomb : Bool := false
  macd : Bool := false
  enc : Bool := false
  payload : List Nat := []
  deriving DecidableEq, Repr

structure Bank where
  recs : List StoreRec := []
  usedBytes : Nat := 0
  complete : Bool := false
  erased : Bool := true
  /-- A torn or invalid header ends the bank's valid records (R492). -/
  torn : Bool := false
  erases : Nat := 0
  deriving DecidableEq, Repr

structure Store where
  bankA : Bank := {}
  bankB : Bank := {}
  /-- false: bank A is active. -/
  activeB : Bool := false
  seq : Nat := 0
  /-- Records whose write has been asked for and has not completed. -/
  waiting : List StoreRec := []
  swapping : Bool := false
  faulted : Bool := false
  slot0 : Image := []
  slot1 : Image := []
  deriving DecidableEq, Repr

/-! ### Security (R447 to R470) -/

structure Cak where
  port : Nat
  keyId : Nat
  ckn : BitVec 256
  key : BitVec 256
  deriving DecidableEq, Repr

structure Sci where
  port : Nat
  sci : Nat
  basin : Nat
  deriving DecidableEq, Repr

/-- A secure association of a port (R359): its number, its key, and the packet number of the next frame it protects. -/
structure Sak where
  port : Nat
  an : Nat
  key : Nat
  pn : Nat := 1
  deriving DecidableEq, Repr

/-- A receive secure channel of a port (R359): its SCI, and the association and highest packet number that it has taken in. -/
structure RxSc where
  port : Nat
  sci : Nat
  an : Nat
  top : Nat
  deriving DecidableEq, Repr

/-- A CTR_DRBG (R461): healthy, its key and V, the generate requests since it was seeded, and how often it has been seeded. -/
structure Drbg where
  ok : Bool := false
  key : BitVec 256 := 0
  v : BitVec 128 := 0
  gens : Nat := 0
  reseeds : Nat := 0
  deriving DecidableEq, Repr

/-- A report that is being signed (R459, R470): the command and the report's body. -/
structure Signing where
  h : Hdr
  word : Nat
  deriving DecidableEq, Repr

structure Sec where
  mode : Nat := 0
  errCause : Nat := 0
  identity : Bool := false
  /-- The store holds the helper record (R451). -/
  helper : Bool := false
  keysLive : Bool := false
  meas : List (BitVec 256)
  d0 : Drbg := {}
  d1 : Drbg := {}
  caks : List Cak := []
  scis : List Sci := []
  /-- The secure associations in use, two at most on a port, the newest last. -/
  saks : List Sak := []
  rxScs : List RxSc := []
  minSvn : Nat := 0
  key0Revoked : Bool := false
  svn : Nat := 0
  build : Nat := 0
  linkMaj : Nat := 1
  linkMin : Nat := 2
  revoke0 : Bool := false
  /-- M0 to M5 that the stored alias certificate carries (R453). -/
  aliasFor : List (BitVec 256) := []
  reportSeq : Nat := 0
  selftestOk : Bool := true
  lastSelftest : Nat := 0
  /-- Functions a failed self-test has closed: ERR_CAUSE values (R465). -/
  failedCauses : List Nat := []
  /-- Firmware update whose slot is being written: slot and image (R458). -/
  staging : Option (Nat × Image) := none
  signing : Option Signing := none
  /-- Samples taken from the noise source so far (R460). -/
  samples : Nat := 0
  deriving DecidableEq, Repr

/-! ### Power (R471 to R500) -/

structure Warn where
  start : Nat
  low : Nat
  point : Nat
  /-- Last return above 0.68 V everywhere; none while below. -/
  returned : Option Nat := none
  /-- Throttling was in force when the dip began, so that its cause came first (R327, R500). -/
  paced : Bool := false
  deriving DecidableEq, Repr

structure Brown where
  start : Nat
  begun : Nat
  low : Nat
  cause : Nat
  /-- The ports whose links were up when it began (R476 step 8). -/
  ports : List Nat := []
  /-- Steps 6 and 7: the die wakes. -/
  waking : Bool := false
  /-- VCORE above 0.68 V everywhere since. -/
  good : Option Nat := none
  deriving DecidableEq, Repr

/-- A power domain (R27, R487, R488). `mode`: 0 off by command, 1 on, 2 AUTO. -/
structure Dom where
  state : Nat := 0
  mode : Nat := 1
  idleSince : Nat := 0
  wakeAt : Nat := 0
  switchingOff : Bool := false
  wakeAgain : Bool := false
  /-- The message that waits for the switch-off to complete and the wake to begin: endpoint, sender and basin (R414). -/
  waker : Option (Nat × Nat × Nat) := none
  deriving DecidableEq, Repr

structure Power where
  vcore : List Nat
  warn : Option Warn := none
  brown : Option Brown := none
  /-- PWR_HEALTH W1C bits [5:0] and [53:48], at their places. -/
  health : BitVec 64 := 0
  railWarn : List Nat := []
  serHeld : Bool := false
  serGood : Option Nat := none
  auxBad : Bool := false
  limitCfg : BitVec 64
  setpoint : Nat := 750
  /-- Input power of the last 10 µs samples, newest first, at most 100 (R477). -/
  samples : List Nat := []
  limiting : Bool := false
  /-- Since when the setpoint has been at 0.70 V with the 1 ms mean above PLIMIT. -/
  atFloorSince : Option Nat := none
  lastStep : Nat := 0
  pacing : Bool := false
  metSince : Option Nat := none
  vin : Nat := 0
  inputOn : Bool := false
  inputLow : Bool := false
  inputHigh : Bool := false
  senseMated : Option Nat := none
  /-- The 50 ms since SENSE mated are over (R541). -/
  senseReady : Bool := false
  reverseBit : Bool := false
  highBit : Bool := false
  paceT : Nat := 256
  paceP : Nat := 256
  temps : List Int
  lpxTemps : List Int
  sensorFail : List Nat := []
  /-- Failed for good readings of the reference check. -/
  refFail : List Nat := []
  busFaulted : Bool := false
  /-- When the faulted sensor bus is tried again (R485). -/
  busRetryAt : Nat := 0
  /-- Transactions of each module sensor without acknowledgement, in a row (R485). -/
  noAcks : List Nat := [0, 0, 0, 0]
  /-- Die sensors at or above the trip point, and since when (R481). -/
  hot : List (Nat × Nat) := []
  /-- Last run of the loop of R483. -/
  lastLoop : Nat := 0
  /-- A rail fault that restarts the module, to be raised once SP0 runs again (R474): rail and kind. -/
  railPend : Option (Nat × Nat) := none
  halvedHbm : List Nat := []
  halvedLpx : List Nat := []
  /-- The rows of R481 that have tripped since VCORE went off: 0 die, 1 HBM3E, 2 LPDDR5X. -/
  tripped : List Nat := []
  doms : List Dom
  standbyUntil : Option (Option Nat) := none
  deriving DecidableEq, Repr

/-! ### Ethernet and PTP (R355 to R360, R392 to R394) -/

structure Port where
  ctrl : BitVec 64
  linkUp : Bool := false
  rateNow : Nat := 0
  lanes : Nat := 0
  /-- The neighbour table: address and MAC. -/
  neighbours : List (Nat × Nat) := []
  resolving : List Nat := []
  /-- The time at which the segment on the wire has left, that segment, and the basin served last in each flow (R371). -/
  busyUntil : Nat := 0
  sending : Option PortSeg := none
  served : List Nat := [15, 15]
  deriving DecidableEq, Repr

structure Ptp where
  cfg : BitVec 64
  source : Option Nat := none
  locked : Bool := false
  offset : Int := 0
  t1 : Option Nat := none
  t2 : Option Nat := none
  t3 : Option Nat := none
  waitFollow : Bool := false
  /-- Slewing toward the time transmitter (R504): ns still to take out. -/
  slew : Int := 0
  /-- A measurement of the selected source has been judged (R504). -/
  judged : Bool := false
  /-- Ticks since the last slewed nanosecond: 10,000 make 100 ppm (R504). -/
  slewCtr : Nat := 0
  deriving DecidableEq, Repr

structure Eth where
  ports : List Port
  ptp : Ptp
  out : List OutFrame := []
  /-- Segments that wait for their port, in the order in which their flows issued them (R371). -/
  waits : List PortSeg := []
  deriving DecidableEq, Repr

/-! ### Basins and runnels (R396 to R417) -/

/-- A host record (R406). -/
structure HostRec where
  local0 : List Nat := []
  local1 : List Nat := []
  hosts : List Nat := []
  deriving DecidableEq, Repr

structure Teardown where
  start : Nat
  /-- When step 3 of R415 began. -/
  flushAt : Nat := 0
  /-- The last step of R415 taken. -/
  step : Nat
  deriving DecidableEq, Repr

structure Basin where
  id : Nat
  word : BitVec 1024
  host : HostRec := {}
  teardown : Option Teardown := none
  deriving DecidableEq, Repr

/-- A runnel message (R410). -/
structure RMsg where
  sender : Nat
  basin : Nat
  job : Nat
  rseq : Nat
  time : Nat
  type : Nat
  len : Nat
  data : BitVec 352
  deriving DecidableEq, Repr

/-- An on-die endpoint of the hub (R409). -/
structure Endpoint where
  num : Nat
  queue : List RMsg := []
  held : List (RMsg × Nat) := []
  bell : BitVec 64 := 0
  dropped : Nat := 0
  deriving DecidableEq, Repr

structure Runnels where
  ends : List Endpoint
  rseq : List (Nat × Nat) := []
  refused : Nat := 0
  deriving DecidableEq, Repr

/-! ### Pools and jobs (R183 to R211) -/

inductive GState where
  | free
  | owned
  | clearing
  | fenced
  deriving DecidableEq, Repr

/-- A granule that is not FREE and unowned (R184, R185). -/
structure Gran where
  g : Nat
  state : GState
  basin : Nat := 0
  job : Nat := 0
  deriving DecidableEq, Repr

/-- A job: a group's steps of one class (R562). -/
structure Job where
  basin : Nat
  num : Nat
  cls : Nat
  gid : Nat
  /-- Granules by slot: 0 to 255 reach positions, 256 to 271 tributaries, 272 to 275 trunk banks (R213). -/
  slots : List (Nat × List Nat) := []
  /-- The save area of a job of class C1 to C3 on a group that admits C0: three granules for each position of the group (R323). No
  address of the pool aperture names them. -/
  save : List (Nat × List Nat) := []
  /-- A cause of R210 has ended the job; JOB_KILL has not yet come. -/
  killAsked : Bool := false
  /-- When the job's units were stopped (R210 step 2). -/
  killed : Option Nat := none
  /-- When the last of its granules left CLEARING (R210 step 7). -/
  lastClear : Nat := 0
  status : Nat := 0
  /-- Poisoned WORK and TRAIN pages that its steps read: freed when it ends (R236). -/
  poisoned : List Nat := []
  /-- WORK and TRAIN pages that its steps have named: those that are poisoned are freed when it ends (R236). -/
  named : List Nat := []
  /-- The job closes when its group stops admitting its class or the object ends. -/
  closed : Bool := false
  /-- Granules that enter CLEARING once the job's windows have closed (R203). -/
  toClear : List Nat := []
  deriving DecidableEq, Repr

/-- A firmware region (R187). -/
structure Region where
  task : Nat
  basin : Nat
  job : Nat
  base : Nat
  bound : Nat
  rd : Bool
  wr : Bool
  deriving DecidableEq, Repr

/-- An open or closing window (R200 to R203). -/
structure Window where
  basin : Nat
  job : Nat
  sid : Nat
  wid : Nat
  rd : Bool
  wr : Bool
  any : Bool
  life : Nat
  px : Nat
  py : Nat
  pz : Nat
  lbase : Nat
  len : Nat
  tag : Nat
  closing : Option Nat := none
  /-- The lend record whose frames the window carries (R247). -/
  lend : Option Nat := none
  deriving DecidableEq, Repr

/-- An accepted window transfer that has not been carried out: the sender, the address and the window offset of the next unit,
how many units are left, and the data of a write (R202 to R204, R228). -/
structure WinAcc where
  basin : Nat
  job : Nat
  wid : Nat
  x : Nat
  y : Nat
  z : Nat
  isRead : Bool
  addr : Nat
  roff : Nat
  left : Nat
  data : List Byte := []
  /-- The sender's part and step number, which an answer carries back (R437). -/
  part : Option (Nat × Nat × Nat) := none
  /-- The channel and the flits by ford whose credits are withheld until the transfer is through (R204). -/
  chan : Nat := 0
  credits : List (Nat × Nat) := []
  deriving DecidableEq, Repr

structure Pools where
  grans : List Gran := []
  jobs : List Job := []
  regions : List Region := []
  windows : List Window := []
  /-- Accepted transfers of windows, oldest first (R202, R204). -/
  accepted : List WinAcc := []
  deriving DecidableEq, Repr

/-! ### Memory tiers (R212 to R250) -/

inductive PKind where
  | model
  | derived
  | kv
  | work
  | train
  deriving DecidableEq, Repr

/-- The entry of a mapped page (R215) with its kind and the time of its last access. -/
structure PageEnt where
  basin : Nat
  page : Nat
  kind : PKind
  homeT : Nat
  homeLoc : Nat
  /-- Destination tier and frame of a move in progress (R227). -/
  moving : Option (Nat × Nat) := none
  poison : Bool := false
  copy : Option Nat := none
  crc : Nat := 0
  /-- The entry's CRC-64 was lost to an uncorrectable error in the device reserve (R240). -/
  crcLost : Bool := false
  lastUse : Nat := 0
  /-- Uncorrectable mark found before the page was withdrawn (R236). -/
  poisonAt : Nat := 0
  deriving DecidableEq, Repr

/-- A move, or a copy into HBM3E, that waits in the tier queue (R226). -/
structure MoveReq where
  basin : Nat
  page : Nat
  tier : Nat
  since : Nat
  /-- A copy of a read-only page, not a move (R225). -/
  copy : Bool := false
  /-- The copy is there and is made again in another frame (R233). -/
  again : Bool := false
  /-- 0 ahead of other moves (R291 stage 1), 1, or 2 behind the moves of running requests (R297). -/
  rank : Nat := 1
  deriving DecidableEq, Repr

/-- A frame being zero-filled (R205), with the basin it leaves and the model or variant whose clearing it belongs to, 0 for
none (R253, R270). -/
structure FrameClear where
  tier : Nat
  frame : Nat
  basin : Nat := 0
  obj : Nat := 0
  /-- The page whose home it was (R208). -/
  page : Option PageEnt := none
  deriving DecidableEq, Repr

structure FrameErr where
  tier : Nat
  frame : Nat
  times : List Nat
  deriving DecidableEq, Repr

structure Refetch where
  basin : Nat
  page : Nat
  next : Nat
  deriving DecidableEq, Repr

/-- A lend record (R247), held by the borrower (lender coordinates) or by the lender (borrower side). -/
structure Lend where
  index : Nat
  basin : Nat
  asLender : Bool
  x : Nat
  y : Nat
  z : Nat
  tier : Nat
  first : Nat
  count : Nat
  wid : Nat
  /-- The borrowing job (R247). -/
  job : Nat := 0
  /-- The frames have been cleared and are lent (R246). -/
  live : Bool := true
  /-- The frames have come back to the lender and are being cleared (R246). -/
  back : Bool := false
  /-- The pages homed in the record at the borrower: place among the frames, and page. -/
  slots : List (Nat × Nat) := []
  reclaimDue : Option Nat := none
  deriving DecidableEq, Repr

/-- A copy of a page in a granule of a job (R219, R225, R267): the granule and offset, the page named, and the page that was copied,
which is the DERIVED page where the overlay of the job's step selects one (R263). -/
structure PoolCopy where
  g : Nat
  off : Nat
  basin : Nat
  page : Nat
  src : Nat
  /-- The variant, or the base, whose step made it. -/
  vid : Nat := 0
  deriving DecidableEq, Repr

/-- A unit of lent memory asked of its lender (R201, R247): its basin and address, the step that asked, 0 for firmware, the host or a
window, and the unit that waits. `answer`: 0 none yet, 1 its data have come, 2 refused. -/
structure LentAsk where
  basin : Nat
  addr : Nat
  who : Nat
  unit : Nat
  answer : Nat := 0
  deriving DecidableEq, Repr

structure Tiers where
  pages : List PageEnt := []
  retired : List (Nat × Nat) := []
  /-- Frames to be retired when their page leaves them (R233). -/
  retiring : List (Nat × Nat) := []
  clearing : List FrameClear := []
  errs : List FrameErr := []
  /-- Pins: basin, page, step (R220). -/
  pins : List (Nat × Nat × Nat) := []
  moves : List MoveReq := []
  memCtrl : BitVec 64
  reclaiming : Bool := false
  refetch : List Refetch := []
  lends : List Lend := []
  /-- Frames that the scrubber has read in the pass in progress, and when the pass began (R234). -/
  scrubSeen : List (Nat × Nat) := []
  scrubFrom : Nat := 0
  poolCopies : List PoolCopy := []
  /-- Reads of lent memory on their way (R247). -/
  lentAsks : List LentAsk := []
  deriving DecidableEq, Repr

/-! ### Models and variants (R251 to R273, R307) -/

structure Model where
  basin : Nat
  mid : Nat
  sealed_ : Bool
  ntensor : Nat
  addr : Nat
  pages : Nat
  hdrs : Nat
  pinned : Bool := false
  /-- CRC list address of the seal in progress. -/
  sealing : Option Nat := none
  /-- MODEL.DELETE accepted; its frames are being cleared (R253). -/
  deleted : Bool := false
  /-- The pages of a deleted model have been unmapped (R253). -/
  unmapped : Bool := false
  deriving DecidableEq, Repr

inductive VState where
  | free
  | verifying
  | cold
  | materialising
  | resident
  | retiring
  deriving DecidableEq, Repr

/-- One generation of a variant: its delta set, its derived window and the pages made under R262. -/
structure GenSet where
  gen : Nat := 0
  set : Nat
  setPages : Nat
  daddr : Nat
  dlen : Nat
  dpages : Nat := 0
  /-- Pairs of base page and DERIVED page (R263). -/
  overlay : List (Nat × Nat) := []
  /-- Base pages that steps of this generation do not read: overlaid ones, and those of rebuilt tensors (R273). -/
  covered : List Nat := []
  /-- For each DERIVED page of the generation, the base pages that its making reads (R262, R273). -/
  sources : List (Nat × List Nat) := []
  rebuilt : Bool := false
  /-- Which of two generations that share one derived window this is (R350, log entry 23). -/
  half : Nat := 0
  /-- The CRC list that the command named (R559). -/
  crcs : Nat := 0
  deriving DecidableEq, Repr

structure Variant where
  basin : Nat
  vid : Nat
  index : Nat
  base : Nat
  state : VState
  pinned : Bool := false
  blocked : Bool := false
  blockPage : Nat := 0
  cur : GenSet
  pend : Option GenSet := none
  /-- The pending generation has been built, or the variant is cold and it needs no build. -/
  pendBuilt : Bool := false
  /-- Which build runs: 0 none, 1 the current generation, 2 the pending one. -/
  building : Nat := 0
  lastStep : Nat := 0
  mats : Nat := 0
  /-- Replaced generations whose pages wait for the last step bound to them (R268). -/
  old : List GenSet := []
  /-- The pages of a retiring variant have been unmapped (R270). -/
  unmapped : Bool := false
  deriving DecidableEq, Repr

/-- A delta set being verified (R258). `tid` names the training object that submitted it, none for a host. -/
structure Verify where
  basin : Nat
  vid : Nat
  update : Bool
  crcs : Nat
  gs : GenSet
  tid : Option Nat := none
  deriving DecidableEq, Repr

structure Program where
  basin : Nat
  word : BitVec 384
  /-- The record that a group still uses until its next step boundary, by GID (R308). -/
  held : List (Nat × BitVec 384) := []
  deriving DecidableEq, Repr

structure Models where
  models : List Model := []
  variants : List Variant := []
  verifies : List Verify := []
  programs : List Program := []
  deriving DecidableEq, Repr

/-! ### KV store (R274 to R304) -/

inductive RState where
  | priv
  | shared
  | paused
  | suspended
  | clearing
  deriving DecidableEq, Repr

/-- A page row that is not FREE (R275, R280). -/
structure Row where
  id : Nat
  /-- Slots of the arena, by layer then head. -/
  slots : List Nat
  state : RState
  /-- 1 HBM3E, 2 LPDDR5X. -/
  tier : Nat
  /-- Destination tier of a move of the row in progress. -/
  moving : Option Nat := none
  /-- Pages of the row still to be moved or cleared. -/
  c0 : Bool := false
  /-- The row is a group's pad row (R309). -/
  pad : Bool := false
  deriving DecidableEq, Repr

/-- A node of a prefix tree (R281). -/
structure Node where
  id : Nat
  vid : Nat
  gen : Nat
  parent : Option Nat
  key : BitVec 128
  tokens : List Nat
  row : Nat
  adopted : Nat
  order : Nat
  /-- The tree is closed to adoption and publication (R287). -/
  closed : Bool := false
  deriving DecidableEq, Repr

/-- A paused conversation (R297). -/
structure Conv where
  conv : Nat
  rows : List Nat
  committed : Nat
  toks : List Nat
  pauseSec : Nat
  ttl : Nat
  vid : Nat
  base : Nat
  cleanGen : Option Nat
  layers : Nat
  heads : Nat
  dh : Nat
  /-- Its booking in the list area: for each layer the pages of its page list and of its summary array, first page and count (R561). -/
  book : List (Nat × Nat)
  /-- KV.RESUME in progress (R299). -/
  resuming : Bool := false
  deriving DecidableEq, Repr

structure KvStats where
  hits : Nat := 0
  misses : Nat := 0
  collisions : Nat := 0
  expiredTtl : Nat := 0
  expiredReclaim : Nat := 0
  cacheWaits : Nat := 0
  deriving DecidableEq, Repr

structure Kv where
  cfg : BitVec 384
  rows : List Row := []
  nodes : List Node := []
  convs : List Conv := []
  /-- Identifiers of conversations that expired or were dropped (R299). -/
  gone : List Nat := []
  stats : KvStats := {}
  nextRow : Nat := 0
  nextNode : Nat := 0
  /-- Flushes not yet answered: variant or 0, nodes freed, and their rows (R287). -/
  flushing : List (Nat × Nat × List Nat) := []
  deriving DecidableEq, Repr

/-! ### Serving (R305 to R331) -/

inductive QState where
  | queued
  | running
  | suspended
  | ended
  deriving DecidableEq, Repr

structure Request where
  basin : Nat
  tag : Nat
  blk : BitVec 512
  prompt : List Nat
  state : QState := .queued
  /-- Committed positions. -/
  committed : Nat := 0
  /-- Position of the first prompt token (R317): committed positions of the conversation at admission. -/
  start : Nat := 0
  newTok : Nat := 0
  /-- Every token of the sequence whose position is known, from position 0. -/
  toks : List Nat := []
  rows : List Nat := []
  /-- Layers, heads and DH of its base's programs. -/
  layers : Nat := 0
  heads : Nat := 0
  dh : Nat := 0
  base : Nat := 0
  /-- Its booking in the list area: for each layer the pages of its page list and of its summary array, first page and count (R561). -/
  book : List (Nat × Nat) := []
  c0Slots : Nat := 0
  order : Nat := 0
  admitted : Nat := 0
  /-- Generation by which every committed entry was written, none when mixed or by the base (R285). -/
  cleanGen : Option Nat := none
  endStatus : Nat := 0
  finalAt : Option Nat := none
  lastGid : Nat := 255
  suspendedAt : Nat := 0
  suspendCause : Nat := 0
  /-- Stage 2 of R291 has chosen the running request: suspend it at its boundary. -/
  suspendNext : Bool := false
  /-- The boundary at which stages 1 and 2 of R291 began to make room for its new row. -/
  growAt : Option Nat := none
  fallback : Bool := false
  lastStatus : Nat := 0
  deriving DecidableEq, Repr

/-- An ending outside any step that waits for its OFFSTEP record (R321). -/
structure OffEnd where
  basin : Nat
  cls : Nat
  tag : Nat
  status : Nat
  at_ : Nat
  deriving DecidableEq, Repr

structure Group where
  basin : Nat
  word : BitVec 64
  next : Option (BitVec 64) := none
  stepSeq : Nat := 0
  run : Option Nat := none
  heldStep : Option Nat := none
  padRow : Option Nat := none
  /-- The booking of the pad row's page lists in the list area (R309, R561). -/
  padBook : List (Nat × Nat) := []
  /-- The boundary waits at step 11 of R319 for room in a queue (R370). -/
  tokWaiting : Bool := false
  /-- Step 12 of R319 is still to come (R370). -/
  twelve : Bool := false
  deriving DecidableEq, Repr

/-- Tiles or additions that a basin has taken in the present round of a unit that basins share (R399): the tributary, the unit (0
millrace, 1 weir, 2 epilogue unit, 3 riffle unit, 4 confluence adders), the basin and how many. -/
structure Turn where
  trib : Nat
  unit : Nat
  basin : Nat
  used : Nat
  deriving DecidableEq, Repr

structure Serving where
  groups : List Group := []
  requests : List Request := []
  offends : List OffEnd := []
  nextOrder : Nat := 0
  nextSid : Nat := 1
  /-- Step boundaries so far: stage 3 of R291 counts in them. -/
  bounds : Nat := 0
  /-- Models deleted whose direct requests and conversations end at the next boundary of the basin (R288). -/
  modelEnds : List (Nat × Nat) := []
  /-- The rounds of the units that basins share (R399). -/
  turns : List Turn := []
  deriving DecidableEq, Repr

/-! ### Units of a step (R73 to R182, R339 to R346) -/

/-- A fault detected in a step (R525). -/
structure Flt where
  status : Nat
  src : Nat
  desc : Nat
  tag : Nat
  aux : Nat
  addr : Nat := 0
  arg0 : Nat := 0
  arg1 : Nat := 0
  deriving DecidableEq, Repr

/-- An aligned operand (R75, R76): a finite integer or a G8 infinity. -/
inductive Opnd where
  | fin (v : Int)
  | inf (neg : Bool)
  deriving DecidableEq, Repr

/-- A sub-accumulator or an A24 accumulator (R59, R60, R78). -/
inductive Acc where
  | fin (v : Int)
  | inf (neg : Bool)
  | nan
  deriving DecidableEq, Repr

/-- A staged group of a decoder (R85): the group, its non-zero trits (column offset, negative). -/
structure Staged where
  grp : Nat
  trits : List (Nat × Bool)
  deriving DecidableEq, Repr

/-- A lane with its decoder and its cells. `pos` is the decoder's place: a byte address and, for TZ, the symbol's half. -/
structure Lane where
  lane : Nat
  row : Nat
  bytePos : Nat := 0
  half : Nat := 0
  endPos : Nat := 0
  /-- Next group the decoder reads. -/
  rdGrp : Nat := 0
  staged : List Staged := []
  /-- Group the lane works on, and how many of its beats it has taken. -/
  grp : Nat := 0
  beat : Nat := 0
  /-- Beats counted since the prologue (R91). -/
  clock : Nat := 0
  u : List Acc := []
  acc : List Acc := []
  deriving DecidableEq, Repr

/-- A loaded activation window (R83): the group and, per token, the operands of its 16 columns. -/
structure Win where
  grp : Nat
  rows : List (List Opnd)
  deriving DecidableEq, Repr

structure Item where
  idx : Nat
  refs : List Nat := []
  wins : List Win := []
  lanes : List Lane := []
  /-- Codes and exponent bytes of the operands, read once at the prologue: activation or gradient rows, and saved rows. -/
  acts : List (List Nat × List Nat) := []
  saved : List (List Nat × List Nat) := []
  firstGrp : Nat := 0
  /-- F of R91 for finished groups: group and its largest finish beat. -/
  finish : List (Nat × Nat) := []
  deriving DecidableEq, Repr

/-- A record being drained (R84): item, per lane the token accumulators, and the exponents. -/
structure Drain where
  idx : Nat
  desc : Nat
  accs : List (Nat × List Acc)
  exps : List Nat
  stalled : Bool := false
  deriving DecidableEq, Repr

structure ReachCtx where
  pos : Nat
  /-- Descriptor whose items the reach runs now, by index in the program. -/
  desc : Nat := 0
  item : Option Item := none
  drain : Option Drain := none
  /-- Items finished of each descriptor: descriptor and count. -/
  doneItems : List (Nat × Nat) := []
  tabChecked : List Nat := []
  saved : Bool := false
  deriving DecidableEq, Repr

/-- Counts of a matrix or weight-gradient descriptor (R99, R346). -/
structure MatCtx where
  desc : Nat
  drained : Nat := 0
  nz : Nat := 0
  beats : Nat := 0
  overCap : Nat := 0
  spill : Nat := 0
  products : Nat := 0
  nonfinite : Nat := 0
  accDone : List (Nat × Nat) := []
  statusDone : Bool := false
  deriving DecidableEq, Repr

/-- A partial sum with its exponent (R79, R104). -/
structure PSum where
  v : Acc
  p : Nat
  deriving DecidableEq, Repr

/-- A finished node of a confluence tree for one value. -/
structure NodeVal where
  epi : Nat
  tok : Nat
  row : Nat
  node : CNode
  sum : PSum
  deriving DecidableEq, Repr

/-- An escaped block (R118). -/
structure Escape where
  tok : Nat
  blk : Nat
  flags : Nat
  elems : List Nat
  x : Nat
  record : Bool
  deriving DecidableEq, Repr

/-- Counts of an epilogue descriptor (R119). -/
structure EpiCtx where
  desc : Nat
  done : List (Nat × Nat) := []
  replays : Nat := 0
  escapes : List Escape := []
  /-- Per block column: SATC, ZEROC, ESCC, flags. -/
  cols : List (Nat × Nat × Nat × Nat × Nat) := []
  flags : Nat := 0
  finished : Bool := false
  /-- What the shoal coder has put into the pools (R33 step 15): by address, runs of zero bytes each with the byte that ends it, and the
  zeros after the last (log entry 141). -/
  runs : List (Nat × List (Nat × Byte) × Nat) := []
  deriving DecidableEq, Repr

/-- The three values of a query row (R130). -/
structure RowPart where
  m : Option Int := none
  l : BitVec 32 := 0
  o : List (BitVec 32)
  deriving DecidableEq, Repr

/-- A millrace at work on a unit (R138). -/
structure Mill where
  mill : Nat
  desc : Nat
  r : Nat
  head : Nat
  range : Nat
  pages : List Nat
  rowGrp : Nat := 0
  pageAt : Nat := 0
  pass : Nat := 0
  rows : List RowPart := []
  /-- Codes and exponents of the row group's query rows, read once. -/
  q : List (List Nat × List Nat) := []
  /-- For kind 0x31: the dO rows, the LSE records and D of each row (R343). -/
  grads : List (List Nat × List Nat) := []
  lse : List (Option Int × BitVec 32) := []
  dsum : List (BitVec 32) := []
  deriving DecidableEq, Repr

/-- A partial of a row over a node of the range tree (R134). -/
structure PartVal where
  desc : Nat
  r : Nat
  head : Nat
  row : Nat
  node : CNode
  part : RowPart
  deriving DecidableEq, Repr

/-- A readout of a stream (R164): descriptor, its four indices, the integer and its exponent. -/
structure Readout where
  desc : Nat
  a : Nat
  b : Nat
  c : Nat
  d : Nat
  num : Int
  exp : Int
  deriving DecidableEq, Repr

structure AttCtx where
  desc : Nat
  /-- Request, head and range of the next work unit. -/
  nextR : Nat := 0
  nextH : Nat := 0
  nextI : Nat := 0
  /-- By request and head: the millrace of range 0 and the selected pages. -/
  sel : List (Nat × Nat × Nat × List Nat) := []
  tiles : Nat := 0
  cands : Nat := 0
  chosen : Nat := 0
  empty : Nat := 0
  scoreSat : Nat := 0
  poisoned : List Nat := []
  rowsDone : List (Nat × Nat × Nat) := []
  /-- What the memory of each written output held before: request, address, bytes. A request fault puts it back (R149). -/
  before : List (Nat × Nat × List Byte) := []
  statusDone : Bool := false
  deriving DecidableEq, Repr

/-- A token that a route pass has scored: its row's bytes, its shortlist with σ and whether it was special, and the same of the
fallback expert where that stands outside the shortlist (R169 to R172). -/
structure WScore where
  row : List Byte
  sig : List (Nat × Int × Bool)
  fall : Option (Int × Bool) := none
  deriving DecidableEq, Repr

structure WeirCtx where
  desc : Nat
  estimated : Nat := 0
  /-- Tokens that the route pass has scored, in order (R181). -/
  scored : List WScore := []
  /-- Tokens whose outputs the pass has written (R181). -/
  tok : Nat := 0
  done : Bool := false
  deriving DecidableEq, Repr

/-- A physical slot of an eddy (R189). -/
structure ESlot where
  gen : Nat
  full : Bool := false
  written : Nat := 0
  read : Nat := 0
  deriving DecidableEq, Repr

/-- An access stalled on an eddy (R190): the unit, a write or a read, the unit's number in the logical range, the data, and
since when. `direct`: it came by a command of its own, with the byte offset `at_`; else its unit's command comes again. -/
structure EStall where
  unit : Nat
  isWrite : Bool
  off : Nat
  data : List Byte
  since : Nat
  direct : Bool := false
  at_ : Nat := 0
  deriving DecidableEq, Repr

/-- An eddy of a step (R189 to R198). -/
structure Eddy where
  eid : Nat
  desc : Nat
  slots : List ESlot
  stalls : List EStall := []
  filled : Nat := 0
  released : Nat := 0
  pstall : Nat := 0
  cstall : Nat := 0
  /-- Watchdog: the time from which it runs, and what it had counted before a hold. -/
  wdogSince : Option Nat := none
  wdogSum : Nat := 0
  deriving DecidableEq, Repr

/-- Transfer descriptor in progress (R201): units done. -/
structure Xfer where
  desc : Nat
  done : Nat := 0
  /-- The units of a transfer that reads have been asked for (R201). -/
  asked : Bool := false
  deriving DecidableEq, Repr

/-- What a unit has done of an access of several 64-byte units that an eddy or a lender holds back (R190, R247): the unit, its
descriptor and its piece of work, the cuts of the access, how many are done, and the bytes read so far. -/
structure Piece where
  unit : Nat
  desc : Nat
  task : List Nat
  isWrite : Bool
  cuts : List (Nat × Nat)
  done : Nat
  bytes : List Byte := []
  deriving DecidableEq, Repr

structure Units where
  reaches : List ReachCtx := []
  mats : List MatCtx := []
  /-- Partial-sum records that the confluence adders have read, by consuming descriptor and item. -/
  records : List (Nat × Nat × List Byte) := []
  sums : List NodeVal := []
  epis : List EpiCtx := []
  mills : List Mill := []
  parts : List PartVal := []
  readouts : List Readout := []
  atts : List AttCtx := []
  weirs : List WeirCtx := []
  losses : List Nat := []
  eddies : List Eddy := []
  xfers : List Xfer := []
  /-- The riffle seeds: those drawn so far while the bind draws, all of them once bound (R158). -/
  seeds : List Nat := []
  /-- The bytes of gradient sums that the step has added to, as they stood before (R71, R90): place and bytes. -/
  before : List (Nat × List Byte) := []
  /-- Units that have detected a fault and have stopped at it, by unit number (R90). -/
  halted : List Nat := []
  /-- Accesses that have been done in part, and those done for a piece of work that has still to end (R190). -/
  pieces : List Piece := []
  deriving DecidableEq, Repr

/-- A slot of a batch (R309). -/
structure Slot where
  tag : Nat
  nq : Nat
  yields : Bool
  /-- The request runs on its base under R243. -/
  fb : Bool := false
  /-- Addresses of the slot's request table entries and of its logits. -/
  rtab : Nat := 0
  logits : Nat := 0
  deriving DecidableEq, Repr

/-- What a step runs: serving with a program kind, or a phase of a training object's micro-step (R337, R347). -/
inductive StepKind where
  | serve (prefill : Bool)
  | train (tid phase : Nat)
  deriving DecidableEq, Repr

/-- A formed, bound, running or held step. -/
structure Step where
  sid : Nat
  basin : Nat
  gid : Nat
  /-- Step number of the group (R328). -/
  seq : Nat := 0
  kind : StepKind
  cls : Nat
  job : Nat
  vid : Nat
  base : Nat
  gen : Nat
  /-- The logical positions of the group's record as the step was formed (R305, R306). -/
  first : Nat := 0
  count : Nat := 0
  slots : List Slot := []
  prog : BitVec 384 := 0
  descs : List (BitVec 512) := []
  bound : Bool := false
  held : Bool := false
  heldSince : Nat := 0
  formT : Nat
  void : Nat := 0
  /-- MLR_WEIGHT and C0_BW of the basin at the step boundary that formed the step (R403). -/
  weight : Nat := 1
  c0bw : Nat := 0
  /-- Condition 6 of R326 has held since its batch was formed. -/
  egress : Bool := true
  faults : List Flt := []
  /-- Step-fault handling done: the reported status (R90). -/
  status : Nat := 0
  /-- Slots whose requests a request fault has ended (R149). -/
  reqFaults : List Nat := []
  stopped : Bool := false
  /-- Slots that firmware has still to write (R309): the requests of the batch and the next slot. -/
  fill : Option (List Nat × Nat) := none
  /-- Number of the slice-bound step (R437). -/
  sliceNo : Nat := 0
  units : Units := {}
  deriving DecidableEq, Repr

/-! ### Training (R333 to R354) -/

inductive TState where
  | creating
  | idle
  | running
  | stopped
  | failed
  deriving DecidableEq, Repr

structure Train where
  basin : Nat
  word : BitVec 512
  state : TState := .creating
  feeds : List Nat := []
  /-- Next phase: 0 teacher forward, 1 student forward, 2 student backward, 3 update. -/
  phase : Nat := 0
  inAcc : Nat := 0
  micro : Nat := 0
  updates : Nat := 0
  pubs : Nat := 0
  last : Nat := 0
  nonfinite : Nat := 0
  empty : Nat := 0
  match_ : Nat := 0
  readyAt : Nat := 0
  stopping : Bool := false
  /-- What has arrived of the update's sums across modules (R347 stage 1): update entry, axis, sender's leaf, and elements. -/
  reduced : List (Nat × Nat × Nat × Nat) := []
  /-- Segments of sums that have come ahead of their turn (R25, R347): entry, axis, leaf, first element and values. -/
  early : List (Nat × Nat × Nat × Nat × List (BitVec 32)) := []
  deriving DecidableEq, Repr

/-! ### Fords and slices (R418 to R446) -/

structure Ford where
  enable : Bool := true
  state : Nat := 0
  lane0 : Nat := 7
  lane1 : Nat := 7
  laneRev : Bool := false
  pol0 : Bool := false
  pol1 : Bool := false
  serial : Nat := 0
  partner : Nat := 0
  verMaj : Nat := 0
  verMin : Nat := 0
  miswire : Nat := 0
  fecCorr : Nat := 0
  fecUncorr : Nat := 0
  crcErr : Nat := 0
  retries : Nat := 0
  /-- Consecutive failures of one flit (R420). -/
  failRun : Nat := 0
  lastFlit : Nat := 0
  peerCtr : Nat := 0
  peerCtrAt : Nat := 0
  peerLost : Bool := false
  ctr : Nat := 0
  retryAt : Option Nat := none
  /-- Credits that the partner has given, by channel: LM, SR, WX (R421). -/
  credits : List Nat := [0, 0, 0]
  /-- Both lanes are aligned: identity frames go out (R427 step 3). -/
  trained : Bool := false
  lastFrame : Option IdFrame := none
  /-- Flits that the ford has sent, and good flits that it has taken in, since it came UP (R420). -/
  txCount : Nat := 0
  rxCount : Nat := 0
  /-- A flit that failed its CRC: this one is awaited again, and every other is discarded (R420). -/
  awaited : Option (FlitHead × FlitUnit) := none
  /-- When the flits of LM among the last 4,096 flit times left (R421). -/
  lmAt : List Nat := []
  /-- The neighbour's last slice declaration: SLICE_ID, and origin and lengths as bits [95:72] of the record (R436). -/
  decl : Option (Nat × Nat) := none
  deriving DecidableEq, Repr

/-- What a ford hub sends: frames of LM for a ford, and units of SR and WX for a module of the slice (R421). -/
inductive LmFrame where
  /-- An identity frame of one of this module's fords (R427 step 3). -/
  | identity (fr : IdFrame)
  | heartbeat (ford serial ctr : Nat)
  /-- A slice declaration with origin and lengths as bits [95:72] of the record (R436 step 1); SLICE_ID 0 withdraws it (R439). -/
  | declare (ford sliceId block : Nat)
  | ready (ford sliceId x y z minor : Nat)
  /-- The module at these coordinates has bound a part; and, from the origin, every module has (R437). -/
  | partBound (ford sliceId x y z kind ident : Nat)
  | partsJoined (ford sliceId kind ident : Nat)
  | go (ford sliceId minor : Nat)
  | stop (ford sliceId serial cause : Nat)
  /-- A flit failed: send again from the flit of this number on (R420). -/
  | resend (ford from_ : Nat)
  | refuse (x y z wid : Nat)
  | window (x y z wid roff : Nat) (data : List Byte)
  | windowAsk (x y z wid roff : Nat)
  | sum (x y z epi tok row : Nat) (code : BitVec 25) (p : Nat)
  /-- Finished bytes of a descriptor for another module: area 0 OUT, 1 ESC, 2 CNT, and the offset in it (R108, R146). -/
  | result (x y z desc area off : Nat) (data : List Byte)
  | part (x y z desc r head row : Nat) (m : Option Int) (l : BitVec 32) (o : List (BitVec 32))
  /-- A segment of gradient sums (R347), coded from minor version 1 on (R348). -/
  | grad (x y z tid entry axis leaf first : Nat) (coded : Bool) (data : List Byte)
  /-- Credits for the partner of a ford (R421, R427 step 8): channel and number. -/
  | credit (ford chan n : Nat)
  | lendGrant (x y z index tier first count wid job : Nat)
  | lendReturn (x y z index : Nat)
  | memReclaim (x y z index : Nat)
  deriving DecidableEq, Repr

/-- A job part bound to a slice (R437). -/
structure Part where
  kind : Nat
  ident : Nat
  boundAt : Nat
  /-- Every module has bound a part with the same identity. -/
  joined : Bool := false
  /-- The other modules have been told of it. -/
  told : Bool := false
  /-- Slice-bound steps so far. -/
  stepNo : Nat := 0
  deriving DecidableEq, Repr

structure Slice where
  word : BitVec 256
  /-- 1 DECLARED, 2 READY, 3 FAULTED (R442). -/
  state : Nat := 1
  minor : Nat := 0
  bound : List Nat := []
  /-- Coordinates reported READY, and the lowest minor version of each (R436 step 4). -/
  ready : List (Nat × Nat × Nat) := []
  readyMinor : Nat := 255
  sentReady : Bool := false
  /-- READY reports that wait for a bound ford toward the origin: coordinates and minor version (R436). -/
  readyWait : List ((Nat × Nat × Nat) × Nat) := []
  bindAt : Nat := 0
  parts : List Part := []
  /-- At the origin: the modules that have reported a part, as kind, identifier and coordinates (R437). -/
  joins : List (Nat × Nat × Nat × Nat × Nat) := []
  deriving DecidableEq, Repr

/-- A unit at the local input of the module's ford hubs (R424): its basin, the part and step number that it carries (R437), if any. -/
structure OutUnit where
  basin : Nat
  job : Option (Nat × Nat × Nat)
  unit : LmFrame
  deriving DecidableEq, Repr

/-- What a transfer in a hub carries: a unit of this module, or one in transit (R423). -/
inductive HubUnit where
  | own (f : LmFrame)
  | transit (u : FlitUnit)
  deriving DecidableEq, Repr

/-- A transfer that waits in a hub for its outgoing direction (R422 to R424). -/
structure HubXfer where
  slice : Nat
  /-- 1 SR, 2 WX. -/
  chan : Nat
  dir : Nat
  /-- The input of the hub: 0 the local one, 1 + d the arriving direction d. -/
  inp : Nat
  src : Option (Nat × Nat × Nat)
  dst : Nat × Nat × Nat
  /-- Stream sequence of its first flit, how many flits it takes, and how many have left. -/
  seq : Nat
  flits : Nat
  sent : Nat := 0
  /-- The slice job and its step number (R419, R437): kind, identifier, number. -/
  job : Option (Nat × Nat × Nat) := none
  unit : HubUnit
  deriving DecidableEq, Repr

/-- A flit that has left over a ford (R419): its number on the ford, whose parity is its lane, and its stream sequence; the first flit of
a transfer carries the coordinates and the job, the last one completes the unit. `crc` is its CRC-32C. -/
structure WireFlit where
  ford : Nat
  number : Nat
  chan : Nat
  seq : Nat
  crc : Nat
  head : Option (Option (Nat × Nat × Nat) × (Nat × Nat × Nat) × Option (Nat × Nat × Nat))
  unit : Option HubUnit
  deriving DecidableEq, Repr

/-- A unit that has come ahead of its turn in its stream (R422). -/
structure HeldUnit where
  seq : Nat
  flits : Nat
  ford : Nat
  job : Option (Nat × Nat × Nat)
  unit : FlitUnit
  deriving DecidableEq, Repr

/-- A stream of a slice (R422): one channel from one source to one destination, with the next sequence to send and to take in. -/
structure Stream where
  slice : Nat
  chan : Nat
  src : Nat × Nat × Nat
  dst : Nat × Nat × Nat
  txNext : Nat := 0
  rxNext : Nat := 0
  held : List HeldUnit := []
  deriving DecidableEq, Repr

/-- A unit held for a job's next step, with its credits withheld (R437): the slice, the part with the step number, the channel, the
credits by ford, the ford by which it came, and its originator. -/
structure Owed where
  slice : Nat
  kind : Nat
  ident : Nat
  stepNo : Nat
  chan : Nat
  credits : List (Nat × Nat)
  ford : Nat
  src : Nat × Nat × Nat
  unit : FlitUnit
  deriving DecidableEq, Repr

structure Fords where
  fords : List Ford
  topo : BitVec 512 := 0
  slices : List Slice := []
  /-- Frames of LM that have left. -/
  lm : List LmFrame := []
  /-- The local input of the hubs: units of SR and WX in the order in which they were issued. -/
  out : List OutUnit := []
  hub : List HubXfer := []
  streams : List Stream := []
  /-- The input that an outgoing direction served last, by slice, direction and channel (R424). -/
  turns : List (Nat × Nat × Nat × Nat) := []
  owed : List Owed := []
  /-- Flits of the three channels that have left, for as long as their ford keeps its link. -/
  wire : List WireFlit := []
  /-- Frames of LM that wait for a credit or for their share of the flits (R421), oldest first. -/
  lmWait : List LmFrame := []
  deriving DecidableEq, Repr

/-! ### Management port and TAP (R544 to R549, R514) -/

/-- A reply of the management port (R545): status byte and data. -/
structure MgReply where
  status : Nat
  data : List Byte := []
  deriving DecidableEq, Repr

structure Mgmt where
  hostBuf : List Byte := []
  hostAt : Option Nat := none
  imageChunks : List (Nat × List Byte) := []
  replies : List MgReply := []
  busResets : Nat := 0
  /-- PEC failures (R549). -/
  pecFails : Nat := 0
  deriving DecidableEq, Repr

inductive TapIr where
  | bypass
  | idcode
  | sample
  | extest
  | clamp
  | highz
  | extestPulse
  | extestTrain
  deriving DecidableEq, Repr

structure Tap where
  ir : TapIr := .idcode
  /-- What the selected data register captured, to be shifted out. -/
  dr : List Bool := []
  boundary : List Bool := []
  /-- Levels driven on the covered pins; none where the pin is at high impedance; empty when the TAP drives nothing. -/
  driven : List (Option Bool) := []
  deriving DecidableEq, Repr

/-! ### The whole state -/

structure State where
  pending : List Instr := []
  /-- The timebase (R32). -/
  now : Nat := 0
  /-- The model's own counter of free values drawn. -/
  freeCtr : Nat := 0
  boot : Boot
  store : Store := {}
  sec : Sec
  pwr : Power
  eth : Eth
  links : List Link
  logs : Logs := {}
  basins : List Basin := []
  admin : Nat := 0
  runnels : Runnels
  mem : List Host.Cell := []
  pools : Pools := {}
  tiers : Tiers
  models : Models := {}
  kvs : List Kv
  serving : Serving := {}
  steps : List Step := []
  trains : List Train := []
  fords : Fords
  mgmt : Mgmt := {}
  tap : Tap := {}
  deriving DecidableEq, Repr

/-! ### Reset -/

/-- ETH_WOREO_CFG at reset (R372): RTO_INIT 50, RTO_MAX 100, MAX_RETRY 12, ACK_DELAY 5, EVT_COALESCE 10, PCP_C0 5. -/
def woreoCfgReset : BitVec 64 :=
  BitVec.ofNat 64 (50 + 100 * 2 ^ 16 + 12 * 2 ^ 32 + 5 * 2 ^ 40 + 10 * 2 ^ 48 + 5 * 2 ^ 56)

/-- TRK_MEM_CTRL at reset, 0x0000_0018_010A_0540 (R230, R390). -/
def memCtrlReset : BitVec 64 := 0x00000018010A0540

/-- STW_BOOT_CFG at reset (R517): PTP_WAIT_EN 1, PTP_WAIT_S 5, CONFIRM_S 600. -/
def bootCfgReset : BitVec 64 := BitVec.ofNat 64 (2 + 5 * 2 ^ 8 + 600 * 2 ^ 16)

/-- PWR_LIMIT_CFG at reset (R496): PLIMIT 1,200, VSET 15, TJ_THR 105, HBM_THR 95, AUTO_IDLE_MS 10. -/
def limitCfgReset : BitVec 64 :=
  BitVec.ofNat 64 (1200 + 15 * 2 ^ 16 + 105 * 2 ^ 24 + 95 * 2 ^ 32 + 10 * 2 ^ 40)

/-- ETH_PORT_CTRL at reset (R392): ENABLE 1, AN_EN 1. -/
def portCtrlReset : BitVec 64 := 0x11

/-- ETH_PTP_CFG at reset (R394): PTP_EN 1. -/
def ptpCfgReset : BitVec 64 := 1

/-- The KV configuration record at reset (R279): DH_MAX 1, PREFIX_EN 1, TTL_S 3,600. -/
def kvCfgReset : BitVec 384 := BitVec.ofNat 384 (1 + 4 + 3600 * 2 ^ 32)

/-- The mode in which a power domain starts (R488): AUTO for reaches, commons, millraces and riffle groups, else ON. -/
def domModeReset (d : Nat) : Nat := if d < 292 then 2 else 1

/-- The 372 power domains before power comes: OFF (R498). -/
def domsReset : List Dom := (List.range 372).map fun d => { mode := domModeReset d }

/-- The store as it leaves manufacture (R451, R453, R491): the helper record and the DevID certificate in bank A, which is complete. Their
bytes are manufacturing's, and the model leaves them out (DESIGN CHOICE, log entry 65). -/
def storeReset : Store where
  bankA := { recs := [{ type := 0x10, index := 0, len := 0, seq := 1 }, { type := 0x11, index := 0, len := 0, seq := 2 },
                      { type := 0x01, index := 0, len := 0, seq := 3 }]
             usedBytes := 96, complete := true, erased := false }
  seq := 3

/-- The state right after reset: no input power yet, stage ROM, every register at its reset value, memory with nothing
listed. -/
def State.reset : State where
  boot := { bootCfg := bootCfgReset, bootCfgInForce := bootCfgReset }
  store := storeReset
  sec := { meas := List.replicate 8 0 }
  pwr := { vcore := List.replicate 20 0, limitCfg := limitCfgReset, temps := List.replicate 32 25,
           lpxTemps := List.replicate 16 25, doms := domsReset }
  eth := { ports := List.replicate 2 { ctrl := portCtrlReset }, ptp := { cfg := ptpCfgReset } }
  links := List.replicate 16 { woreoCfg := woreoCfgReset }
  runnels := { ends := (List.range 16).map (fun t => { num := 0x100 + t }) ++ [{ num := 0x160 }] }
  tiers := { memCtrl := memCtrlReset }
  kvs := List.replicate 16 { cfg := kvCfgReset }
  fords := { fords := List.replicate 48 {} }

end Sys2Proof.Machine
end

