-- ==== Sys2Proof/Machine/Codes.lean ====
section
/-! DEFINITION. The status and event codes (R388, R389, R417, R446, R469, R499, R519, R525) and the sources of events
(R384). -/

namespace Sys2Proof.Machine

/-! ### Status codes -/

abbrev stOk : Nat := 0x0000
abbrev stOpcodeUnknown : Nat := 0x0001
abbrev stBadLength : Nat := 0x0002
abbrev stNotPermitted : Nat := 0x0003
abbrev stBusy : Nat := 0x0004
abbrev stRegInvalid : Nat := 0x0005
abbrev stFormatInvalid : Nat := 0x0100
abbrev stIndexRange : Nat := 0x0101
abbrev stCapViolation : Nat := 0x0102
abbrev stDescInvalid : Nat := 0x0103
abbrev stDeltaInvalid : Nat := 0x0104
abbrev stStreamCorrelated : Nat := 0x0105
abbrev stRngUnavailable : Nat := 0x0106
abbrev stKvReadonly : Nat := 0x0107
abbrev stPoolAccess : Nat := 0x0108
abbrev stEddyOrder : Nat := 0x0109
abbrev stEddyStall : Nat := 0x010A
abbrev stWindowFault : Nat := 0x010B
abbrev stProgramInvalid : Nat := 0x010C
abbrev stMemQuota : Nat := 0x0200
abbrev stWeightPoisoned : Nat := 0x0201
abbrev stDataPoisoned : Nat := 0x0202
abbrev stCrcMismatch : Nat := 0x0203
abbrev stBorrowReclaimed : Nat := 0x0204
abbrev stModelUnknown : Nat := 0x0300
abbrev stModelInUse : Nat := 0x0301
abbrev stModelSealed : Nat := 0x0302
abbrev stVariantUnknown : Nat := 0x0303
abbrev stVariantDeleted : Nat := 0x0304
abbrev stVariantSpace : Nat := 0x0305
abbrev stVariantLimit : Nat := 0x0306
abbrev stModelLimit : Nat := 0x0307
abbrev stIdInUse : Nat := 0x0308
abbrev stKvPoisoned : Nat := 0x0400
abbrev stKvBusy : Nat := 0x0401
abbrev stKvReserveFull : Nat := 0x0402
abbrev stKvExpired : Nat := 0x0403
abbrev stKvUnknown : Nat := 0x0404
abbrev stCacheWait : Nat := 0x0405
abbrev stBaseFallback : Nat := 0x0500
abbrev stCancelled : Nat := 0x0501
abbrev stAlreadyComplete : Nat := 0x0502
abbrev stDeadlineMissed : Nat := 0x0503
abbrev stReqInvalid : Nat := 0x0504
abbrev stTagInUse : Nat := 0x0505
abbrev stReqUnknown : Nat := 0x0506
abbrev stClassUnavailable : Nat := 0x0507
abbrev stContextLimit : Nat := 0x0508
abbrev stQueueFull : Nat := 0x0509
abbrev stTrainState : Nat := 0x0600
abbrev stTrainActive : Nat := 0x0601
abbrev stSliceFault : Nat := 0x0700
abbrev stSliceInvalid : Nat := 0x0701
abbrev stSliceBusy : Nat := 0x0702
abbrev stFordNotReady : Nat := 0x0703
abbrev stSliceMismatch : Nat := 0x0704
abbrev stSliceJoinTimeout : Nat := 0x0705
abbrev stSigInvalid : Nat := 0x0800
abbrev stFwInvalid : Nat := 0x0801
abbrev stFwRollback : Nat := 0x0802
abbrev stKeyInvalid : Nat := 0x0803
abbrev stSecError : Nat := 0x0804
abbrev stDomainBusy : Nat := 0x0900
abbrev stDomainDependent : Nat := 0x0901
abbrev stDomainHeld : Nat := 0x0902
abbrev stPowerFault : Nat := 0x0903
abbrev stStoreFault : Nat := 0x0904
abbrev stTestBusy : Nat := 0x0A00
abbrev stTestUnknown : Nat := 0x0A01
abbrev stBasinExists : Nat := 0x0B00
abbrev stBasinUnknown : Nat := 0x0B01
abbrev stResourceBusy : Nat := 0x0B02
abbrev stBasinDestroyed : Nat := 0x0B03

/-! ### Event codes -/

abbrev evModelRefetch : Nat := 0x0101
abbrev evVariantEvicted : Nat := 0x0201
abbrev evVariantPublished : Nat := 0x0202
abbrev evVariantBlocked : Nat := 0x0203
abbrev evVariantUnblocked : Nat := 0x0204
abbrev evReqC0Overrun : Nat := 0x0301
abbrev evKvSuspended : Nat := 0x0401
abbrev evKvResumed : Nat := 0x0402
abbrev evKvExpired : Nat := 0x0403
abbrev evTrainPublishSkipped : Nat := 0x0501
abbrev evTrainStopped : Nat := 0x0502
abbrev evTrainFailed : Nat := 0x0503
abbrev evJobCleared : Nat := 0x0601
abbrev evEddyStall : Nat := 0x0602
abbrev evWindowRefused : Nat := 0x0603
abbrev evPoolClearFail : Nat := 0x0604
abbrev evMemPoisoned : Nat := 0x0701
abbrev evMemRepaired : Nat := 0x0702
abbrev evMemFrameRetired : Nat := 0x0703
abbrev evMemLendReclaim : Nat := 0x0704
abbrev evDataRefused : Nat := 0x0801
abbrev evEvtLost : Nat := 0x0802
abbrev evPwrWarn : Nat := 0x0901
abbrev evPwrClear : Nat := 0x0902
abbrev evPwrBrownout : Nat := 0x0903
abbrev evPwrThrottle : Nat := 0x0904
abbrev evPwrLimiting : Nat := 0x0905
abbrev evPwrRailFault : Nat := 0x0906
abbrev evPwrSensorFail : Nat := 0x0907
abbrev evPwrInputFault : Nat := 0x0908
abbrev evPwrDomainFault : Nat := 0x0909
abbrev evPwrThermalTrip : Nat := 0x090A
abbrev evStoreSwap : Nat := 0x090B
abbrev evPwrRailWarn : Nat := 0x090C
abbrev evFordMiswired : Nat := 0x0A01
abbrev evFordUp : Nat := 0x0A02
abbrev evFordDown : Nat := 0x0A03
abbrev evFordVersionHold : Nat := 0x0A04
abbrev evSliceBound : Nat := 0x0A05
abbrev evSliceFault : Nat := 0x0A06
abbrev evSliceUnbound : Nat := 0x0A07
abbrev evEthLink : Nat := 0x0B01
abbrev evBasinCreated : Nat := 0x0C01
abbrev evBasinDestroyed : Nat := 0x0C02
abbrev evBasinChanged : Nat := 0x0C03
abbrev evRunnelMessage : Nat := 0x0C04
abbrev evRunnelWake : Nat := 0x0C05
abbrev evSecMode : Nat := 0x0D01
abbrev evSecSelftestFail : Nat := 0x0D02
abbrev evSecFwStaged : Nat := 0x0D03
abbrev evSecCak : Nat := 0x0D04
abbrev evBootReady : Nat := 0x0E01
abbrev evFwReverted : Nat := 0x0E02
abbrev evFwConfirmed : Nat := 0x0E03
abbrev evReachFenced : Nat := 0x0E04
abbrev evTestDone : Nat := 0x0E05
abbrev evBootTimeUnsynced : Nat := 0x0E06
abbrev evFaultRecord : Nat := 0x0F01

/-! ### Sources (R384) -/

/-- Reach t.r is numbered 16t + r (R384). -/
abbrev srcReach (r : Nat) : Nat := r
/-- The steward of tributary t (R384). -/
abbrev srcSteward (t : Nat) : Nat := 0x0100 + t
/-- Trunk segment (R384). -/
abbrev srcTrunk (n : Nat) : Nat := 0x0110 + n
/-- Ford (R384). -/
abbrev srcFord (n : Nat) : Nat := 0x0120 + n
/-- Port (R384). -/
abbrev srcPort (n : Nat) : Nat := 0x0150 + n
/-- Management core (R384). -/
abbrev srcCore : Nat := 0x0160
/-- Stewipen power, health and security functions (R384). -/
abbrev srcStewipen : Nat := 0x0161

/-! ### CRC-64 (R219) and CRC-32C (R419, R491) -/

/-- One bit of a reflected CRC. -/
def crcBit (poly c : Nat) : Nat := if c % 2 = 1 then (c / 2) ^^^ poly else c / 2

/-- A number of bits of a reflected CRC. -/
def crcBits (poly : Nat) : Nat → Nat → Nat
  | 0, c => c
  | n + 1, c => crcBits poly n (crcBit poly c)

/-- A reflected CRC over bytes from a running value. -/
def crcRun (poly : Nat) : Nat → List Byte → Nat
  | c, [] => c
  | c, b :: l => crcRun poly (crcBits poly 8 (c ^^^ b.toNat)) l

/-- CRC-64 of R219: the ECMA-182 polynomial reflected, all ones in and out. -/
def crc64 (l : List Byte) : Nat := crcRun 0xC96C5795D7870F42 (2 ^ 64 - 1) l ^^^ (2 ^ 64 - 1)

/-- CRC-32C of R419 and R491. -/
def crc32c (l : List Byte) : Nat := crcRun 0x82F63B78 (2 ^ 32 - 1) l ^^^ (2 ^ 32 - 1)

end Sys2Proof.Machine
end

