-- ==== Sys2Proof/Machine/Frames.lean ====
section
/-! DEFINITION. Bytes and frames: byte order (R10, R361), what a port reads from the bytes of a frame, the checks of R355 and
R358 on them, and the bytes of the frames that leave. -/

namespace Sys2Proof.Machine

/-! ### Bytes (R10, R361) -/

/-- The little-endian bytes of a number in `n` bytes (R10). -/
def le : Nat → Nat → List Byte
  | 0, _ => []
  | n + 1, w => BitVec.ofNat 8 w :: le n (w / 256)

/-- The number that little-endian bytes spell (R10). -/
def ofLe : List Byte → Nat
  | [] => 0
  | b :: l => b.toNat + 256 * ofLe l

/-- The network-order bytes of a number in `n` bytes: the exception of R10 for the standard headers (R361). -/
def be (n w : Nat) : List Byte := (le n w).reverse

/-- The number that bytes in network order spell (R361). -/
def ofBe (l : List Byte) : Nat := l.foldl (fun n b => 256 * n + b.toNat) 0

/-- A byte of a list as a number. -/
def byteAt (l : List Byte) (n : Nat) : Nat := (l.getD n 0).toNat

/-- The 16-bit field of a standard header at a place. -/
def be16At (l : List Byte) (n : Nat) : Nat := ofBe ((l.drop n).take 2)

/-! ### The checksum of IPv4, UDP and ICMP (R358) -/

/-- The sum of the 16-bit words of some bytes, a last odd byte filled up with 0. -/
def wordSum : List Byte → Nat
  | a :: b :: l => 256 * a.toNat + b.toNat + wordSum l
  | [a] => 256 * a.toNat
  | [] => 0

/-- Bytes that carry their own checksum add up to 0 in ones' complement. -/
def sumsUp (l : List Byte) : Bool := wordSum l % 65535 == 0

/-- The checksum that makes bytes whose checksum field is 0 add up. -/
def sumOf (l : List Byte) : Nat := (65535 - wordSum l % 65535) % 65535

/-! ### Addresses (R406) -/

/-- The first twelve bytes of an IPv4-mapped IPv6 address (R406). -/
def mappedPrefix : List Byte := List.replicate 10 0 ++ [0xFF, 0xFF]

/-- An address as its sixteen bytes in the order of the wire: byte 0 of the number is the first. The spec fixes no byte order for the
addresses of a host record (R361, R406): this one is the model's choice (DESIGN CHOICE, log entry 138). -/
def ipBytes (ip : Nat) : List Byte := le 16 ip

/-- The address that four bytes of IPv4 or sixteen of IPv6 spell: IPv4 in its mapped form. -/
def ipOf (l : List Byte) : Nat := ofLe (if l.length = 4 then mappedPrefix ++ l else l)

/-- An address is an IPv4 address. -/
def isV4 (ip : Nat) : Bool := (ipBytes ip).take 12 == mappedPrefix

/-- The bytes of an address in a header of its version. -/
def hdrAddr (ip : Nat) : List Byte := if isV4 ip then (ipBytes ip).drop 12 else ipBytes ip

/-- The pseudo-header of the checksums of UDP and ICMPv6, for a header's address bytes, protocol and length. -/
def pseudo (src dst : List Byte) (proto len : Nat) : List Byte := src ++ dst ++ be 4 len ++ be 4 proto

end Sys2Proof.Machine

namespace Sys2Proof
open Machine

/-! ### What a frame carries (R355, R357, R361) -/

/-- The SecTAG of a protected frame, its fields in network order (R359, R361): association number, packet number and SCI. Where they lie in
its 16 bytes is IEEE 802.1AE's (PRESUMED, log entry 140). -/
def RxFrame.sec (f : RxFrame) : Option SecTag :=
  f.secTag.map fun l => { sci := ofBe ((l.drop 8).take 8), an := byteAt l 2 % 4, pn := ofBe ((l.drop 4).take 4) }

/-- The SCI of its SecTAG (R359). -/
def RxFrame.sci (f : RxFrame) : Option Nat := f.sec.map (·.sci)

/-- A frame's length on the wire, from destination address to FCS: its SecTAG and ICV, taken off, count 32 bytes (R355, R365). -/
def RxFrame.length (f : RxFrame) : Nat := f.bytes.length + 4 + (if f.sci.isSome then 32 else 0)

/-- The frame carries an IEEE 802.1Q tag. -/
def RxFrame.tagged (f : RxFrame) : Bool := be16At f.bytes 12 == 0x8100

/-- The VID of its tag (R357). -/
def RxFrame.vlan (f : RxFrame) : Option Nat := if f.tagged then some (be16At f.bytes 14 % 4096) else none

/-- The EtherType after the tag. -/
def RxFrame.etherType (f : RxFrame) : Nat := be16At f.bytes (if f.tagged then 16 else 12)

/-- What follows the EtherType. -/
def RxFrame.net (f : RxFrame) : List Byte := f.bytes.drop (if f.tagged then 18 else 14)

/-- The MAC address that sent it. -/
def RxFrame.srcMac (f : RxFrame) : Nat := ofBe ((f.bytes.drop 6).take 6)

/-- The checks of R355 on any frame: 64 to 9,216 bytes, a good FCS, no stacked tag. -/
def RxFrame.linkOk (f : RxFrame) : Bool :=
  f.fcsOk && 64 ≤ f.length && f.length ≤ 9216 && f.etherType != 0x8100 && f.etherType != 0x88A8

/-! ### IP (R355, R358) -/

/-- The frame's network protocol is IPv4. -/
def RxFrame.v4 (f : RxFrame) : Bool := f.etherType == 0x0800

/-- IPv4 without options and not fragmented, its header's checksum verified; or IPv6. Nothing else is taken (R355, R358). -/
def RxFrame.ipOk (f : RxFrame) : Bool :=
  let h := f.net
  if f.v4 then
    byteAt h 0 == 0x45 && 20 ≤ be16At h 2 && be16At h 2 ≤ h.length && be16At h 6 % 16384 == 0 && sumsUp (h.take 20)
  else f.etherType == 0x86DD && byteAt h 0 / 16 == 6 && 40 + be16At h 4 ≤ h.length

/-- The protocol of IPv4 or the next header of IPv6: an extension header is none of those the device knows (R355). -/
def RxFrame.proto (f : RxFrame) : Nat := byteAt f.net (if f.v4 then 9 else 6)

/-- The address fields of the header. -/
def RxFrame.srcField (f : RxFrame) : List Byte := if f.v4 then (f.net.drop 12).take 4 else (f.net.drop 8).take 16
def RxFrame.dstField (f : RxFrame) : List Byte := if f.v4 then (f.net.drop 16).take 4 else (f.net.drop 24).take 16

def RxFrame.srcIp (f : RxFrame) : Nat := ipOf f.srcField
def RxFrame.dstIp (f : RxFrame) : Nat := ipOf f.dstField

/-- What the IP header carries. -/
def RxFrame.ipBody (f : RxFrame) : List Byte :=
  if f.v4 then (f.net.take (be16At f.net 2)).drop 20 else (f.net.drop 40).take (be16At f.net 4)

/-- The bytes over which the checksum of UDP and of ICMPv6 is taken. -/
def RxFrame.summed (f : RxFrame) (body : List Byte) : List Byte := pseudo f.srcField f.dstField f.proto body.length ++ body

/-! ### UDP (R355, R358) -/

def RxFrame.srcPort (f : RxFrame) : Nat := be16At f.ipBody 0
def RxFrame.dstPort (f : RxFrame) : Nat := be16At f.ipBody 2
def RxFrame.udpLen (f : RxFrame) : Nat := be16At f.ipBody 4

/-- A UDP datagram whose checksum holds: over IPv4, zero is accepted (R358). -/
def RxFrame.udpOk (f : RxFrame) : Bool :=
  let u := f.ipBody.take f.udpLen
  f.ipOk && f.proto == 17 && 8 ≤ f.udpLen && f.udpLen ≤ f.ipBody.length && ((f.v4 && be16At u 6 == 0) || sumsUp (f.summed u))

/-- The payload of the datagram. -/
def RxFrame.data (f : RxFrame) : List Byte := (f.ipBody.take f.udpLen).drop 8

/-! ### The Woreo header, little-endian (R10, R361, R364) -/

/-- So many bytes of the header, from a place on, as a little-endian number. -/
def RxFrame.hdr (f : RxFrame) (at_ n : Nat) : Nat := ofLe ((f.data.drop at_).take n)

def RxFrame.ver (f : RxFrame) : Nat := f.hdr 0 1 % 16
def RxFrame.kind (f : RxFrame) : Nat := f.hdr 1 1
def RxFrame.synBit (f : RxFrame) : Bool := bitAt (f.hdr 2 1) 0
def RxFrame.more (f : RxFrame) : Bool := bitAt (f.hdr 2 1) 1
def RxFrame.retx (f : RxFrame) : Bool := bitAt (f.hdr 2 1) 2
def RxFrame.flow (f : RxFrame) : Nat := f.hdr 2 1 / 8 % 2
def RxFrame.basin (f : RxFrame) : Nat := f.hdr 3 1 % 16
def RxFrame.seq (f : RxFrame) : Nat := f.hdr 4 4
def RxFrame.ack (f : RxFrame) : Nat := f.hdr 8 4
def RxFrame.sack (f : RxFrame) : Nat := f.hdr 12 8
def RxFrame.rwnd (f : RxFrame) : Nat := f.hdr 20 2
def RxFrame.len (f : RxFrame) : Nat := f.hdr 22 2
def RxFrame.time (f : RxFrame) : Nat := f.hdr 24 8
def RxFrame.maxpay (f : RxFrame) : Nat := f.hdr 32 2

/-- Some reserved bit of the header is set. -/
def RxFrame.reservedSet (f : RxFrame) : Bool :=
  f.hdr 0 1 / 16 != 0 || f.hdr 2 1 / 16 != 0 || f.hdr 3 1 / 16 != 0 || f.hdr 34 6 != 0

/-- The payload after the 40-byte header. -/
def RxFrame.payload (f : RxFrame) : List Byte := f.data.drop 40

/-! ### ARP, Neighbour Discovery and ICMP (R358) -/

/-- An ARP packet for IPv4 over Ethernet, with an operation. -/
def RxFrame.arp (f : RxFrame) (op : Nat) : Bool :=
  f.etherType == 0x0806 && 28 ≤ f.net.length && f.net.take 8 == [0, 1, 8, 0, 6, 4, 0, BitVec.ofNat 8 op]

/-- The sender's and the target's address of an ARP packet, and the sender's MAC address. -/
def RxFrame.arpSender (f : RxFrame) : Nat := ipOf ((f.net.drop 14).take 4)
def RxFrame.arpTarget (f : RxFrame) : Nat := ipOf ((f.net.drop 24).take 4)
def RxFrame.arpMac (f : RxFrame) : Nat := ofBe ((f.net.drop 8).take 6)

/-- An ICMPv6 message of a type, code 0, at least so long, whose checksum holds. -/
def RxFrame.icmp6 (f : RxFrame) (type n : Nat) : Bool :=
  f.ipOk && !f.v4 && f.proto == 58 && n ≤ f.ipBody.length && byteAt f.ipBody 0 == type && byteAt f.ipBody 1 == 0 &&
    sumsUp (f.summed f.ipBody)

/-- The target of a Neighbour Solicitation or Advertisement. -/
def RxFrame.ndTarget (f : RxFrame) : Nat := ipOf ((f.ipBody.drop 8).take 16)

/-- The MAC address that an advertisement names in its option, else the one that sent it. -/
def RxFrame.ndMac (f : RxFrame) : Nat :=
  if byteAt f.ipBody 24 == 2 && byteAt f.ipBody 25 == 1 then ofBe ((f.ipBody.drop 26).take 6) else f.srcMac

/-- An echo request of ICMP or of ICMPv6 whose checksum holds. -/
def RxFrame.echo (f : RxFrame) : Bool :=
  f.icmp6 128 8 || (f.ipOk && f.v4 && f.proto == 1 && 8 ≤ f.ipBody.length && byteAt f.ipBody 0 == 8 && byteAt f.ipBody 1 == 0 &&
    sumsUp f.ipBody)

/-- The identifier, sequence number and data of an echo request, which the reply returns. -/
def RxFrame.echoed (f : RxFrame) : List Byte := f.ipBody.drop 4

/-! ### PTP and EAPOL (R359, R394) -/

/-- The transport of a PTP message as ETH_PTP_CFG numbers it: UDP over IPv4 or IPv6 to port 319 or 320, or Ethernet. -/
def RxFrame.ptpTransport (f : RxFrame) : Option Nat :=
  if f.etherType == 0x88F7 then some 2
  else if f.udpOk && (f.dstPort == 319 || f.dstPort == 320) then some (if f.v4 then 0 else 1)
  else none

/-- The PTP domain: byte 4 of the message. -/
def RxFrame.ptpDomain (f : RxFrame) : Nat := byteAt (if f.etherType == 0x88F7 then f.net else f.data) 4

/-- The PTP message that a frame carries. -/
def RxFrame.ptpBytes (f : RxFrame) : List Byte := if f.etherType == 0x88F7 then f.net else f.data

/-- A PTP timestamp at a place: 48 bits of seconds and 32 of nanoseconds, in network order (R361). -/
def ptpTime (l : List Byte) (at_ : Nat) : Nat := 1000000000 * ofBe ((l.drop at_).take 6) + ofBe ((l.drop (at_ + 6)).take 4)

/-- A PTP message as its bytes spell it (R360, R361): the sender's identity, the two-step flag and the timestamps; what the bytes do not
say, the time of arrival and the choice among transmitters, is the command's. None where they spell another message. Where the fields
lie is IEEE 1588's (PRESUMED, log entry 140). -/
def RxFrame.ptp (f : RxFrame) (m : PtpMsg) : Option PtpMsg :=
  let l := f.ptpBytes
  let src := ofBe ((l.drop 20).take 10)
  let type := byteAt l 0 % 16
  match m with
  | .announce _ best => if type = 11 && 64 ≤ l.length then some (.announce src best) else none
  | .sync _ _ _ t2 => if type = 0 && 44 ≤ l.length then some (.sync src (bitAt (byteAt l 6) 1) (ptpTime l 34) t2) else none
  | .followUp _ _ => if type = 8 && 44 ≤ l.length then some (.followUp src (ptpTime l 34)) else none
  | .delayResp _ t3 _ => if type = 9 && 54 ≤ l.length then some (.delayResp src t3 (ptpTime l 34)) else none

/-- The frame uses the uncontrolled port: EAPOL or PTP (R359). -/
def RxFrame.uncontrolled (f : RxFrame) : Bool := f.etherType == 0x888E || f.ptpTransport.isSome

end Sys2Proof

namespace Sys2Proof.Machine

/-! ### The bytes of the frames that leave (R355, R357, R358, R361) -/

/-- A datagram in the IP version of its addresses: DF set, a TTL or hop limit of 64 and a DSCP of 8 × PCP (R358). -/
def ipPacket (pcp src dst proto : Nat) (body : List Byte) : List Byte :=
  if isV4 dst then
    let h (sum : Nat) := [0x45, BitVec.ofNat 8 (32 * pcp)] ++ be 2 (20 + body.length) ++ [0, 0, 0x40, 0, 64, BitVec.ofNat 8 proto] ++
      be 2 sum ++ hdrAddr src ++ hdrAddr dst
    h (sumOf (h 0)) ++ body
  else be 4 (6 * 2 ^ 28 + 32 * pcp * 2 ^ 20) ++ be 2 body.length ++ [BitVec.ofNat 8 proto, 64] ++ hdrAddr src ++ hdrAddr dst ++ body

/-- A UDP datagram with its checksum, which is never sent as 0 (R358). -/
def udpDatagram (src dst sport dport : Nat) (data : List Byte) : List Byte :=
  let n := 8 + data.length
  let u (sum : Nat) := be 2 sport ++ be 2 dport ++ be 2 n ++ be 2 sum ++ data
  let sum := sumOf (pseudo (hdrAddr src) (hdrAddr dst) 17 n ++ u 0)
  u (if sum = 0 then 65535 else sum)

/-- An ICMP or ICMPv6 message with its checksum (R358). -/
def icmpMessage (src dst type : Nat) (body : List Byte) : List Byte :=
  let m (sum : Nat) := [BitVec.ofNat 8 type, 0] ++ be 2 sum ++ body
  let covered := if isV4 dst then m 0 else pseudo (hdrAddr src) (hdrAddr dst) 58 (4 + body.length) ++ m 0
  m (sumOf covered)

/-- The 40-byte Woreo header, every field little-endian (R361, R364). -/
def woreoHeader (x : WoreoHdr) : List Byte :=
  [1, BitVec.ofNat 8 x.kind, BitVec.ofNat 8 ((if x.synBit then 1 else 0) + (if x.more then 2 else 0) + (if x.retx then 4 else 0) + 8 * x.flow),
    BitVec.ofNat 8 x.basin] ++ le 4 x.seq ++ le 4 x.ack ++ le 8 x.sack ++ le 2 x.rwnd ++ le 2 x.len ++ le 8 x.time ++ le 2 x.maxpay ++ le 6 0

/-- An ARP packet (R358). -/
def arpPacket (op : Nat) (ourMac : List Byte) (ourIp : Nat) (mac : List Byte) (ip : Nat) : List Byte :=
  [0, 1, 8, 0, 6, 4, 0, BitVec.ofNat 8 op] ++ ourMac ++ hdrAddr ourIp ++ mac ++ hdrAddr ip

/-- The solicited-node multicast address of an address, and its MAC address. -/
def solicited (ip : Nat) : Nat := ofLe ([0xFF, 2] ++ List.replicate 9 0 ++ [1, 0xFF] ++ (ipBytes ip).drop 13)
def solicitedMac (ip : Nat) : List Byte := [0x33, 0x33, 0xFF] ++ (ipBytes ip).drop 13

/-- The IP protocol number of ICMP in the version of an address. -/
def icmpProto (ip : Nat) : Nat := if isV4 ip then 1 else 58

/-- The EtherType of the version of an address. -/
def ipType (ip : Nat) : Nat := if isV4 ip then 0x0800 else 0x86DD

/-- A Delay_Req, its fields in network order (R360, R361). Its layout is IEEE 1588's (PRESUMED, log entry 140); the device's identity and
the sequence number are free values. -/
def delayReq (port domain t3 : Nat) : List Byte :=
  [1, 2] ++ be 2 44 ++ [BitVec.ofNat 8 domain, 0] ++ be 2 0 ++ be 8 0 ++ be 4 0 ++ be 10 (Config.ptpIdentity port) ++ be 2 (Config.ptpSeq t3) ++
    [1, 0x7F] ++ be 6 (t3 / 1000000000) ++ be 4 (t3 % 1000000000)

/-- The SecTAG of a frame that leaves, its fields in network order (R359, R361): EtherType 0x88E5, the association number with the SCI
present and the frame encrypted, the short length, the packet number and the SCI. The layout is IEEE 802.1AE's (PRESUMED, log entry 140). -/
def secTagBytes (t : SecTag) (n : Nat) : List Byte :=
  be 2 0x88E5 ++ [BitVec.ofNat 8 (0x2C + t.an % 4), BitVec.ofNat 8 (if n < 48 then n else 0)] ++ be 4 t.pn ++ be 8 t.sci

/-- What a frame carries: its destination address, its EtherType and what follows. The contents of an MKA frame are those of IEEE 802.1X,
which the spec only names, but for the key server priority of R462: a free value (log entry 140). Where a Delay_Req goes, and from which
address, the spec does not say either: free values. -/
def bodyBytes (ourMac : List Byte) (x : OutFrame) : List Byte × Nat × List Byte :=
  let toMac := be 6 (x.toMac.getD 0)
  match x.body with
  | .woreo h src dst dport payload =>
    (toMac, ipType dst, ipPacket x.pcp src dst 17 (udpDatagram src dst 47077 dport (woreoHeader h ++ payload)))
  | .arpReply toIp ourIp => (toMac, 0x0806, arpPacket 2 ourMac ourIp toMac toIp)
  | .neighbourAdvert toIp ourIp =>
    (toMac, 0x86DD, ipPacket x.pcp ourIp toIp 58 (icmpMessage ourIp toIp 136 ([0x60, 0, 0, 0] ++ ipBytes ourIp ++ [2, 1] ++ ourMac)))
  | .echoReply toIp ourIp echoed =>
    (toMac, ipType toIp, ipPacket x.pcp ourIp toIp (icmpProto toIp) (icmpMessage ourIp toIp (if isV4 toIp then 0 else 129) echoed))
  | .resolve ip ourIp =>
    if isV4 ip then (List.replicate 6 0xFF, 0x0806, arpPacket 1 ourMac ourIp (List.replicate 6 0) ip)
    else (solicitedMac ip, 0x86DD,
      ipPacket x.pcp ourIp (solicited ip) 58 (icmpMessage ourIp (solicited ip) 135 ([0, 0, 0, 0] ++ ipBytes ip ++ [1, 1] ++ ourMac)))
  | .delayReq transport domain t3 =>
    let (src, dst, mac) := Config.ptpRoute x.port transport
    let msg := delayReq x.port domain t3
    (be 6 mac, if transport = 2 then 0x88F7 else ipType dst,
      if transport = 2 then msg else ipPacket x.pcp src dst 17 (udpDatagram src dst 319 319 msg))
  | .mka prio =>
    let (mac, type, before, after) := Config.mkaBytes x.port
    (mac, type, before ++ [BitVec.ofNat 8 prio] ++ after)

/-- The bytes of a frame that leaves, from destination address to the last before the FCS, filled up to 64 bytes with the FCS
(R355); with VLAN_EN, tagged with the VID and the PCP (R357). Under a secure association the SecTAG follows the addresses, and what comes
after it is protected (R359); the protected bytes are a free function. -/
def frameBytes (ourMac : List Byte) (x : OutFrame) : List Byte :=
  let (toMac, type, body) := bodyBytes ourMac x
  let tag := match x.vid with
    | some v => be 2 0x8100 ++ be 2 (8192 * x.pcp + v)
    | none => []
  match x.sec with
  | none =>
    let l := toMac ++ ourMac ++ tag ++ be 2 type ++ body
    l ++ List.replicate (60 - l.length) 0
  | some t =>
    let inner := tag ++ be 2 type ++ body
    toMac ++ ourMac ++ secTagBytes t inner.length ++ Config.macsecSeal x.port t.an t.pn inner

end Sys2Proof.Machine
end

