-- ==== Sys2Proof/Machine/Messages.lean ====
section
/-! DEFINITION. The parameters of the host commands as their messages carry them (R374, R377). -/

namespace Sys2Proof.Machine

/-- The parameters of REG.WRITE (R377). -/
def writeParams (addr : Nat) (mask value : BitVec 64) : List Field := [.u32 addr, .u64 mask.toNat, .u64 value.toNat]

/-- The parameters of SEC.MACSEC_KEY (R462). -/
def keyParams (kind ports basin keyId sci : Nat) (ckn : BitVec 256) (ciphertext wrapped : List Byte) : List Field :=
  [.u8 kind, .u8 ports, .u8 basin, .u32 keyId, .u64 sci, .record 32 ckn.toNat, .bytes ciphertext, .bytes wrapped]

end Sys2Proof.Machine

namespace Sys2Proof

open Sys2Proof.Machine

/-- The parameters of a host command in the order of its opcode's row; an event has none (R374, R377). -/
def Instr.params : Instr → List Field
  | .modelCreate _ mid ntensor addr hdrs pages => [.u32 mid, .u32 ntensor, .u64 addr, .u64 hdrs, .u32 pages]
  | .modelSeal _ mid crcs => [.u32 mid, .u64 crcs]
  | .modelDelete _ mid => [.u32 mid]
  | .modelQuery _ mid => [.u32 mid]
  | .modelProgram _ rec => [.record 48 rec.toNat]
  | .modelRepair _ mid page crc data => [.u32 mid, .u64 page, .u64 crc, .bytes data]
  | .variantCreate _ vid setPages set crcs daddr dlen => [.u32 vid, .u32 setPages, .u64 set, .u64 crcs, .u64 daddr, .u32 dlen]
  | .variantUpdate _ vid setPages set crcs daddr dlen => [.u32 vid, .u32 setPages, .u64 set, .u64 crcs, .u64 daddr, .u32 dlen]
  | .variantDelete _ vid => [.u32 vid]
  | .variantPin _ vid pin => [.u32 vid, .u8 pin]
  | .variantQuery _ vid => [.u32 vid]
  | .variantPrefetch _ vid => [.u32 vid]
  | .reqSubmit _ blk tokens => [.record 64 blk.toNat, .bytes ((tokens.map (le 4)).flatten)]
  | .reqCancel _ tag => [.u32 tag]
  | .reqQuery _ tag => [.u32 tag]
  | .reqGroup _ rec => [.record 8 rec.toNat]
  | .kvConfigure _ rec => [.record 48 rec.toNat]
  | .kvQuery _ conv => [.u64 conv]
  | .kvResume _ conv => [.u64 conv]
  | .kvDrop _ conv => [.u64 conv]
  | .kvPrefixFlush _ vid => [.u32 vid]
  | .kvStats _ => []
  | .trainCreate _ rec => [.record 64 rec.toNat]
  | .trainFeed _ tid addr => [.u32 tid, .u64 addr]
  | .trainStart _ tid => [.u32 tid]
  | .trainStop _ tid => [.u32 tid]
  | .trainQuery _ tid => [.u32 tid]
  | .trainExport _ tid => [.u32 tid]
  | .trainDelete _ tid => [.u32 tid]
  | .basinCreate _ rec => [.record 128 rec.toNat]
  | .basinDestroy _ b => [.u8 b]
  | .basinQuery _ b => [.u8 b]
  | .basinQuota _ rec => [.record 128 rec.toNat]
  | .basinHosts _ b rec => [.u8 b, .record rec.length (ofLe rec)]
  | .basinMap _ addr pages kind tier => [.u64 addr, .u32 pages, .u8 kind, .u8 tier]
  | .basinUnmap _ addr pages => [.u64 addr, .u32 pages]
  | .basinPlace _ addr pages tier => [.u64 addr, .u32 pages, .u8 tier]
  | .basinPageq _ addr => [.u64 addr]
  | .basinRead _ addr len xid => [.u64 addr, .u32 len, .u32 xid]
  | .regRead _ addr count => [.u32 addr, .u16 count]
  | .regWrite _ addr mask value => writeParams addr mask value
  | .ethPortCtrlWrite _ n mask value => writeParams (0x40000 + 0x1000 * n) mask value
  | .frdEnableWrite _ ford mask value => writeParams (0x50000 + 0x400 * ford) mask value
  | .frdRetrain _ ford mask value => writeParams (0x50000 + 0x400 * ford) mask value
  | .frdClrCnt _ ford mask value => writeParams (0x50000 + 0x400 * ford) mask value
  | .restart _ mask value => writeParams 0x10 mask value
  | .confirm _ mask value => writeParams 0x10 mask value
  | .stwBootCfgWrite _ mask value => writeParams 0x8 mask value
  | .pwrLimitCfgWrite _ mask value => writeParams 0x10008 mask value
  | .testBist _ scope target => [.u8 scope, .u16 target]
  | .testResult _ run => [.u32 run]
  | .testEcho _ bytes => [.bytes bytes]
  | .secAttest _ nonce named => .record 32 nonce.toNat :: named.toList.map .u8
  | .secCerts _ => []
  | .secFwUpdate _ addr len => [.u64 addr, .u32 len]
  | .cakInstall _ ports keyId ckn ciphertext wrapped => keyParams 0 ports 0 keyId 0 ckn ciphertext wrapped
  | .sciBind _ ports basin sci => keyParams 1 ports basin 0 sci 0 (List.replicate 1088 0) (List.replicate 40 0)
  | .sciUnbind _ ports basin sci => keyParams 2 ports basin 0 sci 0 (List.replicate 1088 0) (List.replicate 40 0)
  | .secZeroize _ eraseId => [.u8 eraseId]
  | .pwrStatus _ => []
  | .pwrDomain _ domain op wakeS => [.u16 domain, .u8 op, .u32 wakeS]
  | .standby _ domain wakeS => [.u16 domain, .u8 3, .u32 wakeS]
  | .pwrLimit _ mask value => [.u64 mask.toNat, .u64 value.toNat]
  | .pwrStoreQuery _ => [.u8 0]
  | .pwrStoreSwap _ => [.u8 1]
  | .linkTopology _ rec => [.record 64 rec.toNat]
  | .linkSliceBind _ rec => [.record 32 rec.toNat]
  | .linkSliceUnbind _ rec => [.record 32 rec.toNat]
  | .linkStatus _ => []
  | .logRead _ start max => [.u32 start, .u16 max]
  | .logFaults _ start max => [.u32 start, .u16 max]
  | .logCounters _ set index => [.u8 set, .u16 index]
  | .logSubscribe _ mask => [.u64 mask.toNat]
  | .sealVerifyComplete .. | .deltaVerifyComplete .. | .variantRetireComplete .. | .materialisationStart .. |
    .materialisationComplete .. | .basinTeardownComplete .. | .teardownFlushExpiry .. | .bistComplete .. |
    .woreoSegmentReceive .. | .syn .. | .rtoExpiry .. | .ackDelayExpiry .. | .evtCoalesceExpiry .. | .dataWriteResume .. |
    .queueRoomReturn .. | .tokSent .. | .arpRequest .. | .neighbourSolicitation .. | .icmpEcho .. | .ptpMessage .. |
    .mkaFrame .. | .ethLink .. | .batchForm .. | .stepBind .. | .stepBoundary .. | .offstepSettle .. | .itemPrologue .. |
    .windowLoad .. | .decoderRead .. | .laneBeat .. | .itemJoin .. | .drainComplete .. | .stepFault .. | .confluenceAdd .. |
    .epilogueBlock .. | .epilogueFinish .. | .millraceUnitStart .. | .riffleStream .. | .millraceTile .. | .rangeMerge .. |
    .weirRoute .. | .weirCombine .. | .lossCompute .. | .gradientAccumulate .. | .eddyWrite .. | .eddyRead .. |
    .eddyAccessResume .. | .eddyWatchdogExpiry .. | .windowTransferReceive .. | .jobKill .. | .granuleClearComplete .. |
    .jobCleared .. | .pageMoveStart .. | .pageMoveComplete .. | .pageCopy .. | .hbmReclaim .. | .uncorrectableError .. |
    .modelHomeRepair .. | .refetchTimer .. | .correctedError .. | .scrubRead .. | .memLendReclaim .. |
    .lendReclaimExpiry .. | .kvTtlCheck .. | .runnelMessage .. | .doorbellRing .. | .runnelHoldExpiry .. | .domainWake .. |
    .domainWakeComplete .. | .domainFault .. | .autoIdleExpiry .. | .standbyWakeTimer .. | .fordTrain .. |
    .fordTrainRetry .. | .identityFrame .. | .heartbeatSend .. | .flitReceive .. | .fordLostTimeout .. |
    .moduleLostTimeout .. | .sliceReadyReceive .. | .sliceGoReceive .. | .sliceBindTimeout .. | .sliceJoinTimeout .. |
    .sliceStopReceive .. | .vcoreDip .. | .pwrClear .. | .brownout .. | .brownoutRecovery .. | .railFault .. |
    .railWarn .. | .vserRecovery .. | .powerSample .. | .limiterStep .. | .thermalLoop .. | .sensorRead .. |
    .sensorCheck .. | .sensorBusFault .. | .sensorBusRetry .. | .inputReversed .. | .inputLow .. | .inputUndervoltage .. |
    .inputHigh .. | .inputOvervoltage .. | .senseMate .. | .senseBreak .. | .powerOn .. | .memoryInitComplete .. |
    .ptpWaitExpiry .. | .bootReady .. | .confirmTimeout .. | .sp0WatchdogExpiry .. | .moduleRestart .. | .modReset .. |
    .storeWrite .. | .storeEraseComplete .. | .selftestPeriodic .. | .entropyHealthFail .. | .drbgReseed .. |
    .counterFold .. | .mgStatus .. | .mgSensors .. | .mgEvents .. | .mgFaults .. | .mgSelftest .. | .mgRestart .. |
    .mgWake .. | .mgAdminHosts .. | .mgAdminHostsTimeout .. | .mgAdminMove .. | .mgImage .. | .mgImageCommit .. |
    .mgBusTimeout .. | .bypass .. | .idcode .. | .samplePreload .. | .extest .. | .clamp .. | .highz .. | .extestPulse .. |
    .extestTrain .. | .tagExpiry .. | .tierPageClearComplete .. | .windowCloseComplete .. | .ptpTransmitterLost .. |
    .domainOffComplete .. | .vcoreReturn .. | .vauxRecovery .. | .sliceDeclareReceive .. | .shadowStateSet .. |
    .fwSlotWriteComplete .. | .addressResolutionReply .. => []

end Sys2Proof
end

