-- ==== Sys2Proof/Machine/Ops.lean ====
section
/-! DEFINITION. The named operations over the state: lists, memory, free values, events and logs, the store, the queues of
the flows, replies, and the checks that every host command passes first. -/

namespace Sys2Proof.Machine

/-- The outcome of a command. -/
abbrev Res := Host.Outcome State Fault Refusal

/-! ### Lists -/

/-- Change the elements that satisfy a test. -/
def updW {α : Type} (p : α → Bool) (f : α → α) (l : List α) : List α := l.map fun x => if p x then f x else x

/-- Remove the elements that satisfy a test. -/
def dropW {α : Type} (p : α → Bool) (l : List α) : List α := l.filter fun x => !p x

/-- Remove the first element that satisfies a test. -/
def dropFirst {α : Type} (p : α → Bool) : List α → List α
  | [] => []
  | x :: l => if p x then l else x :: dropFirst p l

/-- Put an element into a sorted list, before the first that it need not follow. -/
def putSorted {α : Type} (le : α → α → Bool) (x : α) : List α → List α
  | [] => [x]
  | y :: l => if le x y then x :: y :: l else y :: putSorted le x l

/-- Sort a list; equal elements keep their order. -/
def sortBy {α : Type} (le : α → α → Bool) (l : List α) : List α := l.foldr (putSorted le) []

/-- The free element: the first that satisfies the test at or after the place a free value picks, cyclically (log entry
7). -/
def pickFree (p : Nat → Bool) (count start : Nat) : Option Nat :=
  let st := if count = 0 then 0 else start % count
  ((List.range count).map fun k => (st + k) % count).find? p

/-- A 32-bit sequence number before another, in serial-number arithmetic (R367). -/
def seqBefore (a b : Nat) : Bool :=
  let d := (b + 2 ^ 32 - a % 2 ^ 32) % 2 ^ 32
  1 ≤ d && d ≤ 2 ^ 31 - 1

/-- The distance from one 32-bit sequence number to a later one (R367). -/
def seqDist (a b : Nat) : Nat := (b + 2 ^ 32 - a % 2 ^ 32) % 2 ^ 32

/-! ### Memory: sorted cells, an unlisted address reads 0 (R206, R502 step 7) -/

/-- What an address reads as when no cell lists it: 0 (R502 step 7, R206). -/
def memDefault : Byte := 0

/-- One byte of memory. -/
def memGet (m : List Host.Cell) (a : Nat) : Byte :=
  match m with
  | [] => memDefault
  | (k, b) :: l => if k = a then b else memGet l a

/-- Write one byte, keeping the canonical form. -/
def memPut (m : List Host.Cell) (a : Nat) (b : Byte) : List Host.Cell :=
  match m with
  | [] => if b = memDefault then [] else [(a, b)]
  | (k, c) :: l =>
    if k < a then (k, c) :: memPut l a b
    else if k = a then (if b = memDefault then l else (a, b) :: l)
    else (if b = memDefault then (k, c) :: l else (a, b) :: (k, c) :: l)

/-- Memory's canonical form: addresses strictly rising, none equal to the default. -/
def Memory.wf : List Host.Cell → Bool
  | [] => true
  | [(_, b)] => b != memDefault
  | (k, b) :: (k', b') :: l => b != memDefault && (k < k') && Memory.wf ((k', b') :: l)

/-- Write consecutive bytes. -/
def memPuts (m : List Host.Cell) (a : Nat) : List Byte → List Host.Cell
  | [] => m
  | b :: l => memPuts (memPut m a b) (a + 1) l

/-- Clear the addresses from `a` for `n` bytes (R205, R206). -/
def memClear (m : List Host.Cell) (a n : Nat) : List Host.Cell := m.filter fun c => !(a ≤ c.1 && c.1 < a + n)

/-- Consecutive bytes of memory. -/
def memGets (m : List Host.Cell) (a n : Nat) : List Byte := (List.range n).map fun k => memGet m (a + k)

/-- Where the bytes of HBM3E, LPDDR5X, the pools and lent frames stand in the model's one memory (log entry 11). -/
def lpxBase : Nat := 2 ^ 40
def poolBase : Nat := 2 ^ 42
def lentBase : Nat := 2 ^ 43

/-- The place of a page's bytes by tier and frame: 1 HBM3E, 2 LPDDR5X, 3 lent (R215). -/
def frameAt (tier loc : Nat) : Nat :=
  (if tier = 1 then 0 else if tier = 2 then lpxBase else lentBase) + 4096 * loc

/-- The place of a granule's bytes (R184). -/
def granAt (g : Nat) : Nat := poolBase + 65536 * g

/-! ### Free values -/

/-- Draw the next free choice and advance the counter. -/
def drawPick (s : State) : Nat × State := (Config.pick s.freeCtr, { s with freeCtr := s.freeCtr + 1 })

/-! ### Basins and links -/

/-- A live basin's entry. -/
def basinOf (s : State) (b : Nat) : Option Basin := s.basins.find? fun x => x.id == b

/-- Whether a basin exists. -/
def basinLive (s : State) (b : Nat) : Bool := s.basins.any fun x => x.id == b

/-- A field of a basin's record (R396). -/
def basinFld (s : State) (b lo hi : Nat) : Nat :=
  match basinOf s b with
  | some x => fld x.word.toNat lo hi
  | none => 0

/-- Whether a basin is being torn down (R415). -/
def inTeardown (s : State) (b : Nat) : Bool := s.basins.any fun x => x.id == b && x.teardown.isSome

/-- Whether a basin holds the administration right (R404). -/
def isAdmin (s : State) (b : Nat) : Bool := s.admin == b

/-- What the device keeps for the host of a basin; the reset contents outside 0 to 15. -/
def linkOf (s : State) (b : Nat) : Link := s.links.getD b { woreoCfg := woreoCfgReset }

/-- Change what the device keeps for the host of a basin. -/
def setLink (s : State) (b : Nat) (f : Link → Link) : State := { s with links := s.links.modify b f }

/-- A flow of a basin (R363). -/
def flowOf (s : State) (b f : Nat) : Flow := if f = 1 then (linkOf s b).flow1 else (linkOf s b).flow0

/-- Change a flow of a basin. -/
def setFlow (s : State) (b f : Nat) (g : Flow → Flow) : State :=
  setLink s b fun l => if f = 1 then { l with flow1 := g l.flow1 } else { l with flow0 := g l.flow0 }

/-! ### The bytes of a message (R328, R329, R374, R380, R383) -/

/-- Lay a list of fields from an offset, each at a multiple of its own size (R374). -/
def layFields (off : Nat) : List Field → List Byte
  | [] => []
  | x :: l =>
    let sz := match x with
      | .u8 _ => 1
      | .u16 _ => 2
      | .u32 _ => 4
      | .u64 _ => 8
      | .record _ _ => 8
      | .bytes _ => 1
    let gap := (sz - off % sz) % sz
    let body := match x with
      | .u8 n => le 1 n
      | .u16 n => le 2 n
      | .u32 n => le 4 n
      | .u64 n => le 8 n
      | .record n w => le n w
      | .bytes b => b
    List.replicate gap 0 ++ body ++ layFields (off + gap + body.length) l

/-- An entry of 16 bytes (R329). -/
def tokEntryBytes (e : TokEntry) : List Byte :=
  le 4 e.tag ++ le 4 e.token ++ le 4 e.pos ++
    le 2 (b2n e.hasToken + 2 * b2n e.final + 4 * b2n e.baseFb) ++ le 2 e.status

/-- A step record of 32 bytes and its entries (R328). -/
def stepRecBytes (r : StepRec) : List Byte :=
  le 4 r.stepSeq ++
    le 2 (r.gid % 16 + 16 * (r.cls % 4) + 64 * b2n r.guar + 128 * b2n r.offstep + 256 * (r.void % 8)) ++
    le 2 r.entries.length ++ le 8 r.formT ++ le 8 r.t ++ le 4 r.vid ++ le 4 r.gen ++
    (r.entries.map tokEntryBytes).flatten

/-- An event record: the 24-byte head and the payload (R383). -/
def evtBytes (e : EvtRec) : List Byte :=
  le 2 e.code ++ le 2 (8 * e.payload.length) ++ le 2 e.src ++ le 2 0 ++ le 4 e.sseq ++ le 4 0 ++ le 8 e.time ++
    (e.payload.map (le 8)).flatten

/-- The payload bytes of a message. -/
def Msg.bytes : Msg → List Byte
  | .rsp op st ct fs => le 2 op ++ le 2 st ++ le 4 ct ++ layFields 8 fs
  | .tok rs => (rs.map stepRecBytes).flatten
  | .evt rs => (rs.map evtBytes).flatten
  | .data a x last bs => le 8 a ++ le 4 x ++ le 2 (b2n last) ++ le 2 0 ++ bs

/-- The KIND of a message's segments (R364). -/
def Msg.kind : Msg → Nat
  | .rsp .. => 2
  | .tok .. => 3
  | .evt .. => 4
  | .data .. => 5

/-! ### Woreo configuration (R372) -/

def cfgOf (s : State) (b : Nat) : Nat := (linkOf s b).woreoCfg.toNat

/-- RTO_INIT in ns; 0 is read as 1 (R372). -/
def rtoInit (s : State) (b : Nat) : Nat := 1000 * max 1 (fld (cfgOf s b) 0 15)

/-- RTO_MAX in ns; a value below RTO_INIT is read as RTO_INIT (R372). -/
def rtoMax (s : State) (b : Nat) : Nat := max (rtoInit s b) (100000 * fld (cfgOf s b) 16 31)

/-- MAX_RETRY; values below 4 are read as 4 (R372). -/
def maxRetry (s : State) (b : Nat) : Nat := max 4 (fld (cfgOf s b) 32 35)

/-- ACK_DELAY in ns (R372). -/
def ackDelay (s : State) (b : Nat) : Nat := 1000 * fld (cfgOf s b) 40 47

/-- EVT_COALESCE in ns (R372). -/
def evtCoalesce (s : State) (b : Nat) : Nat := 1000 * fld (cfgOf s b) 48 55

/-- The PCP of a flow (R372). -/
def pcpOf (s : State) (b f : Nat) : Nat := if f = 1 then fld (cfgOf s b) 56 58 else fld (cfgOf s b) 59 61

/-! ### Counters (R522, R529 to R534) -/

/-- The number of counters of a set. -/
def ctrWidth (set : Nat) : Nat := if set = 0 || set = 2 || set = 3 then 7 else 6

/-- Add to one counter of a list of sets, wrapping at 64 bits (R523). -/
def ctrAdd (l : List CtrSet) (set index basin field n : Nat) : List CtrSet :=
  let hit := fun c : CtrSet => c.set == set && c.index == index && c.basin == basin
  let l := if l.any hit then l
    else l ++ [{ set := set, index := index, basin := basin, vals := List.replicate (ctrWidth set) 0 }]
  updW hit (fun c => { c with vals := c.vals.modify field fun v => (v + n) % 2 ^ 64 }) l

/-- A unit counts locally, until the counts are folded into SP0 (R522). -/
def count (s : State) (set index basin field n : Nat) : State :=
  if n = 0 then s
  else { s with logs := { s.logs with localCtrs := ctrAdd s.logs.localCtrs set index basin field n } }

/-- A sender's next runnel sequence number (R410): one series over all endpoints, which wraps. -/
def takeRseq (s : State) (sender : Nat) : Nat × State :=
  let n := ((s.runnels.rseq.find? fun x => x.1 == sender).map (·.2)).getD 0
  (n, { s with runnels := { s.runnels with
    rseq := (sender, wrap 32 (n + 1)) :: dropW (fun x => x.1 == sender) s.runnels.rseq } })

/-! ### Fords and their channel LM (R418, R421) -/

def fordOf (s : State) (n : Nat) : Ford := s.fords.fords.getD n {}

def setFord (s : State) (n : Nat) (f : Ford → Ford) : State :=
  { s with fords := { s.fords with fords := s.fords.fords.modify n f } }

/-- The credits of a ford for a channel. -/
def creditsOf (s : State) (n chan : Nat) : Nat := (fordOf s n).credits.getD chan 0

def addCredits (s : State) (n chan k : Nat) : State := setFord s n fun f => { f with credits := f.credits.modify chan (· + k) }

/-- The ford that an LM frame leaves by. -/
def lmFord : LmFrame → Option Nat
  | .identity fr => some fr.ford
  | .heartbeat n .. => some n
  | .declare n .. => some n
  | .ready n .. => some n
  | .partBound n .. => some n
  | .partsJoined n .. => some n
  | .resend n _ => some n
  | .go n .. => some n
  | .stop n .. => some n
  | .credit n .. => some n
  | _ => none

/-- Frames that need no credit: identity frames, which go before credits are exchanged (R427 step 8), and credit returns themselves (DESIGN
CHOICE, log entry 137). -/
def lmFree : LmFrame → Bool
  | .identity _ => true
  | .credit .. => true
  | _ => false

/-- A frame may leave over its ford (R421): it has a credit, and LM keeps to 64 of the flits in any 4,096. A flit time is a nanosecond
here (log entry 137). -/
def lmMay (s : State) (n : Nat) (fr : LmFrame) : Bool :=
  (lmFree fr || 0 < creditsOf s n 0) && ((fordOf s n).lmAt.filter fun t => s.now < t + 4096).length < 64

/-- A frame of LM leaves: a flit that its ford counts (R421, R533). -/
def putLm (s : State) (n : Nat) (fr : LmFrame) : State :=
  let f := fordOf s n
  let w : WireFlit := { ford := n, number := f.txCount, chan := 0, seq := f.txCount, crc := crc32c (Config.flitBytes n f.txCount)
                        head := none, unit := some (.own fr) }
  let s := setFord s n fun f => { f with
    credits := if lmFree fr then f.credits else f.credits.modify 0 (· - 1)
    txCount := f.txCount + 1, lmAt := (f.lmAt.filter fun t => s.now < t + 4096) ++ [s.now] }
  count { s with fords := { s.fords with lm := s.fords.lm ++ [fr], wire := s.fords.wire ++ [w] } } 4 n 0 0 1

/-- A frame that waits: credits for one ford and channel wait in one frame. -/
def queueLm (l : List LmFrame) (fr : LmFrame) : List LmFrame :=
  match fr with
  | .credit n c k =>
    if l.any fun x => match x with
        | .credit m d _ => m == n && d == c
        | _ => false
    then l.map fun x => match x with
      | .credit m d j => if m == n && d == c then .credit m d (j + k) else x
      | y => y
    else l ++ [fr]
  | _ => l ++ [fr]

/-- Put a frame on LM: it leaves at once, or waits behind what its ford already has waiting. -/
def sendOne (s : State) (fr : LmFrame) : State :=
  match lmFord fr with
  | none => { s with fords := { s.fords with lm := s.fords.lm ++ [fr] } }
  | some n =>
    if (s.fords.lmWait.any fun x => lmFord x == some n) || !lmMay s n fr then
      { s with fords := { s.fords with lmWait := queueLm s.fords.lmWait fr } }
    else putLm s n fr

/-- Put frames on LM. -/
def sendLm (s : State) (l : List LmFrame) : State := l.foldl sendOne s

/-- Waiting frames are tried again, in order. -/
def sendWaiting (s : State) : State := sendLm { s with fords := { s.fords with lmWait := [] } } s.fords.lmWait

/-- Credit for received flits goes back to the partners of the fords that brought them. -/
def giveCredits (s : State) (chan : Nat) (l : List (Nat × Nat)) : State :=
  sendLm s ((l.filter fun x => x.2 != 0).map fun x => .credit x.1 chan x.2)

/-! ### Frames that leave a port (R358, R363, R371) -/

/-- The ports serve: Ethernet runs in LINKS and READY (R501). -/
def portsServe (s : State) : Bool := s.boot.stage == 5 || s.boot.stage == 6

/-- The uncontrolled port carries frames: it is enabled, its link is up and its SerDes is not held (R356, R392, R474). -/
def portLink (s : State) (n : Nat) : Bool :=
  match s.eth.ports[n]? with
  | none => false
  | some p => p.linkUp && p.ctrl.toNat % 2 == 1 && !s.pwr.serHeld && portsServe s && s.pwr.standbyUntil.isNone

def portCtrl (s : State) (n : Nat) : Nat := ((s.eth.ports[n]?).map fun p => p.ctrl.toNat).getD 0

/-- A secure association is in use on a port (R359). -/
def hasSak (s : State) (n : Nat) : Bool := s.sec.saks.any fun k => k.port == n

/-- The controlled port carries frames: with MACSEC_REQ set, only under a secure association (R359, R465). -/
def portUp (s : State) (n : Nat) : Bool := portLink s n && (!bitAt (portCtrl s n) 5 || hasSak s n)

/-- The SecTAG of the next frame that a port protects: the newest association's number, and the next packet number (R359, log entry
144). -/
def nextTag (s : State) (n : Nat) : Option SecTag :=
  ((s.sec.saks.filter fun k => k.port == n).getLast?).map fun k => { sci := Config.ownSci n, an := k.an, pn := k.pn }

/-- A packet number has been used. -/
def useTag (s : State) (n : Nat) (tag : Option SecTag) : State :=
  match tag with
  | some t => { s with sec := { s.sec with
      saks := updW (fun k => k.port == n && k.an == t.an) (fun k => { k with pn := k.pn + 1 }) s.sec.saks } }
  | none => s

/-- A frame leaves a port and is counted (R534); with VLAN_EN it is tagged (R357). -/
def putFrame (s : State) (port pcp : Nat) (toMac : Option Nat) (sec : Option SecTag) (x : OutBody) : State :=
  let s := count s 5 port 0 1 1
  let c := portCtrl s port
  let vid := if bitAt c 6 then some (fld c 8 19) else none
  { s with eth := { s.eth with out := s.eth.out ++
    [{ port := port, vid := vid, pcp := pcp, toMac := toMac, sec := sec, body := x }] } }

/-- The domain's entry. -/
def domOf (s : State) (d : Nat) : Dom := s.pwr.doms.getD d {}

def setDom (s : State) (d : Nat) (f : Dom → Dom) : State :=
  { s with pwr := { s.pwr with doms := s.pwr.doms.modify d f } }

/-- A port carries a frame: its domain is not idle (R488). -/
def usePort (s : State) (port : Nat) : State := setDom s (364 + port) fun x => { x with idleSince := s.now }

/-- A frame of the controlled port: it is lost where the port does not carry frames (R359, R395). -/
def sendFrame (s : State) (port pcp : Nat) (toMac : Option Nat) (x : OutBody) : State :=
  if portUp s port then useTag (putFrame (usePort s port) port pcp toMac (nextTag s port) x) port (nextTag s port) else s

/-- An EAPOL or PTP frame, on the uncontrolled port (R359). -/
def sendUncontrolled (s : State) (port : Nat) (x : OutBody) : State :=
  if portLink s port then putFrame s port 0 none none x else s

/-- The MAC address by which a port reaches an address, if the neighbour table has it. -/
def macFor (s : State) (port ip : Nat) : Option Nat :=
  (s.eth.ports[port]?).bind fun p => (p.neighbours.find? fun n => n.1 == Config.nextHop port ip).map (·.2)

/-- An address that the port must resolve, that of a host or of a gateway, is asked for once (R358, log entries 12 and 139). -/
def resolveFor (s : State) (port ip ourIp pcp : Nat) : State :=
  match s.eth.ports[port]? with
  | none => s
  | some p =>
    let hop := Config.nextHop port ip
    if !portUp s port || p.neighbours.any (fun n => n.1 == hop) || p.resolving.contains hop then s
    else
      let s := { s with eth := { s.eth with ports := s.eth.ports.modify port fun q => { q with resolving := hop :: q.resolving } } }
      sendFrame s port pcp none (.resolve hop ourIp)

/-- Send a datagram to an address, which is resolved first where it must be (R358). -/
def sendTo (s : State) (port ip ourIp pcp : Nat) (x : OutBody) : State :=
  sendFrame (resolveFor s port ip ourIp pcp) port pcp (macFor s port ip) x

/-- Local addresses of a basin on a port. -/
def localAddrs (x : HostRec) (port : Nat) : List Nat := if port = 0 then x.local0 else x.local1

/-- The local address from which a basin's segment leaves: the one its host last sent to or, on the other port, the first there of the same
IP version (R362, R363, log entry 139). -/
def ownAddrFor (s : State) (b f port : Nat) : Nat :=
  let fl := flowOf s b f
  if fl.peerPort = port then fl.ownIp
  else
    let l := ((basinOf s b).map fun x => localAddrs x.host port).getD []
    (l.find? fun a => isV4 a == isV4 fl.peerIp).getD (l.headD fl.ownIp)

/-- The acknowledgement fields that any segment of a flow carries (R367): ACK and SACK. -/
def sackOf (fl : Flow) : Nat :=
  fl.held.foldl (fun m h => let d := seqDist fl.rxNext h.seq
    if 1 ≤ d && d ≤ 64 then m ||| 2 ^ (d - 1) else m) 0

/-- The RWND the device advertises: 4,096 on flow 0 and 64 on flow 1 (R367). -/
def ownWindow (f : Nat) : Nat := if f = 1 then 64 else 4096

/-- The device's own MAXPAY: one segment buffer (R365). -/
def ownMaxpay : Nat := 8256

/-- Hand one segment of a flow to its port, with the acknowledgement fields filled in; a pending acknowledgement rides on it (R367,
R371). -/
def emitSegment (s : State) (b f kind seq : Nat) (syn more retx : Bool) (maxpay port ip : Nat) (payload : List Byte) :
    State :=
  let fl := flowOf s b f
  let h : WoreoHdr :=
    { kind := kind, synBit := syn, more := more, retx := retx, flow := f, basin := b, seq := seq, ack := fl.rxNext,
      sack := sackOf fl, rwnd := ownWindow f, len := payload.length, time := 0, maxpay := maxpay }
  let w : PortSeg := { port := port, ip := ip, src := ownAddrFor s b f port, dport := fl.peerUdp, pcp := pcpOf s b f, hdr := h, payload := payload }
  let s := { s with eth := { s.eth with waits := s.eth.waits ++ [w] } }
  setFlow s b f fun fl => { fl with ackDue := none }

/-- Send a standalone acknowledgement (R367). -/
def sendAck (s : State) (b f : Nat) : State :=
  let fl := flowOf s b f
  if fl.opened then emitSegment s b f 6 fl.txNext false false false 0 fl.peerPort fl.peerIp [] else s

/-! ### The queues of a flow (R370) and the segments of a message (R365, R380) -/

/-- The number of segments of a message: one for DATA, else as many as MAXPAY cuts it into (R365). -/
def segCount (maxpay : Nat) (m : Msg) : Nat :=
  match m with
  | .data .. => 1
  | m => max 1 (cdiv m.bytes.length (max 1 maxpay))

/-- One segment's payload. -/
def segPayload (maxpay : Nat) (m : Msg) (k : Nat) : List Byte :=
  match m with
  | .data .. => m.bytes
  | m => (m.bytes.drop (k * maxpay)).take maxpay

/-- Bytes held in a flow's queue. -/
def queueBytes (fl : Flow) : Nat := (fl.queue.map fun q => q.msg.bytes.length).sum

/-- The capacity of a flow's queue: 32 MiB or 1 MiB (R370). -/
def queueCap (f : Nat) : Nat := if f = 1 then 1048576 else 33554432

/-- Whether a message fits (R370). -/
def fits (s : State) (b f : Nat) (m : Msg) : Bool := queueBytes (flowOf s b f) + m.bytes.length ≤ queueCap f

/-- Whether the peer's window and the flow's state let one more new segment go (R367, R368). -/
def windowOpen (fl : Flow) : Bool :=
  fl.opened && !fl.stalled && seqDist fl.peerAck fl.txNext < fl.peerWnd

/-- The tags of the final entries that a message carries. -/
def finalTags : Msg → List Nat
  | .tok rs => (rs.map fun r => (r.entries.filter (·.final)).map (·.tag)).flatten
  | _ => []

/-- The last segment of a message has been sent: its requests' final entries are out (R312). -/
def noteFinals (s : State) (b : Nat) (m : Msg) : State :=
  let l := finalTags m
  if l.isEmpty then s
  else { s with serving := { s.serving with
    requests := updW (fun r => r.basin == b && l.contains r.tag && r.finalAt.isNone) (fun r => { r with finalAt := some s.now })
      s.serving.requests } }

/-- Send the next unsent segment of a flow, if the window lets it (R365, R368, R371). -/
def sendNext (s : State) (b f : Nat) : State :=
  let fl := flowOf s b f
  if !windowOpen fl then s
  else match fl.queue.find? fun q => q.segsSent < segCount fl.maxpay q.msg with
    | none => s
    | some q =>
      let k := q.segsSent
      let more := k + 1 < segCount fl.maxpay q.msg
      let seq := fl.txNext
      let s := emitSegment s b f q.msg.kind seq false more false 0 fl.peerPort fl.peerIp (segPayload fl.maxpay q.msg k)
      let s := if more then s else noteFinals s b q.msg
      setFlow s b f fun fl => { fl with
        txNext := (seq + 1) % 2 ^ 32
        sent := fl.sent ++ [{ seq := seq, ident := q.ident, part := k, timer := rtoInit s b, due := s.now + rtoInit s b }]
        queue := updW (fun x => x.ident == q.ident) (fun x => { x with segsSent := k + 1, firstSeq := if k = 0 then seq else x.firstSeq })
          fl.queue }

/-- Send a number of segments at most. -/
def sendSome (s : State) (b f : Nat) : Nat → State
  | 0 => s
  | n + 1 => sendSome (sendNext s b f) b f n

/-- Condition 6 of R326 fails for the C0 steps of a basin, and for measured messages that flow 1 still holds (R327). -/
def loseEgress (s : State) (b : Nat) (p : QMsg → Bool) : State :=
  let s := { s with steps := updW (fun t => t.basin == b && t.cls == 0) (fun t => { t with egress := false }) s.steps }
  setFlow s b 1 fun fl => { fl with queue := updW p (fun q => { q with blocked := true }) fl.queue }

/-- Flow 1 is STALLED or its window is full: it waits on a retransmission (R326 condition 6, R371). -/
def markBlocked (s : State) (b f : Nat) : State :=
  let fl := flowOf s b f
  if f = 1 && fl.opened && !windowOpen fl then loseEgress s b fun q => q.segsSent < segCount fl.maxpay q.msg else s

/-- Send everything of a flow that the window lets go. -/
def pump (s : State) (b f : Nat) : State :=
  let fl := flowOf s b f
  if fl.opened then
    markBlocked (sendSome s b f (min fl.peerWnd ((fl.queue.map fun q => segCount fl.maxpay q.msg - q.segsSent).sum))) b f
  else s

/-- Hand units of SR and WX to the ford hubs, for a basin and the part and step number that they carry, if any (R421, R424, R437). -/
def sendUnits (s : State) (b : Nat) (job : Option (Nat × Nat × Nat)) (l : List LmFrame) : State :=
  { s with fords := { s.fords with out := s.fords.out ++ l.map fun f => { basin := b, job := job, unit := f } } }

/-- Condition 6 of R326 holds now: the port of flow 1 is up, and the flow does not wait on a retransmission (R371). -/
def egressOk (s : State) (b : Nat) : Bool :=
  let fl := flowOf s b 1
  portUp s fl.peerPort && (!fl.opened || windowOpen fl)

/-- Put a message into a flow's queue (R370); the caller has checked that it fits. `blocked`: it has waited for that (R327). -/
def enqueueAs (s : State) (b f : Nat) (m : Msg) (measure : List Measure) (blocked : Bool) : State :=
  let s := setFlow s b f fun fl => { fl with
    queue := fl.queue ++ [{ msg := m, ident := fl.nextIdent, measure := measure, blocked := blocked }], nextIdent := fl.nextIdent + 1 }
  pump s b f

/-- Put a message that has not waited into a flow's queue (R370). -/
def enqueue (s : State) (b f : Nat) (m : Msg) (measure : List Measure) : State := enqueueAs s b f m measure false

/-- Queue a reply or, without room, keep it: the core then takes no further command of the basin (R370). -/
def queueRsp (s : State) (b : Nat) (m : Msg) : State :=
  if (linkOf s b).rspWait.isEmpty && fits s b 0 m then enqueue s b 0 m []
  else setLink s b fun l => { l with rspWait := l.rspWait ++ [m] }

/-- Queue a bulk DATA message (R382). It is kept like a reply when it does not fit. -/
def queueData (s : State) (b : Nat) (m : Msg) : State := queueRsp s b m

/-- The reply to a command (R373): reply data only with ST_OK unless the caller gives it. -/
def reply (s : State) (h : Hdr) (opcode status : Nat) (data : List Field) : State :=
  queueRsp s h.basin (.rsp opcode status h.ctag data)

/-! ### Events (R383 to R387, R525, R546) -/

/-- The basins of a mask, as numbers. -/
def maskBasins (m : Nat) : List Nat := (List.range 16).filter fun b => bitAt m b

/-- The mask of a list of basins. -/
def basinsMask (l : List Nat) : Nat := l.foldl (fun m b => m ||| 2 ^ b) 0

/-- The basins to which an event goes (R386, R417, R446, R469, R519, R525): `own` are the basins it is about. When MACsec is lost, with the
identity or with AES, security events go over the management port alone (R465). -/
def evtTargets (s : State) (code : Nat) (own : List Nat) : List Nat :=
  let fam := code / 256
  let subs := fun b : Nat => bitAt (linkOf s b).subs.toNat fam
  (List.range 16).filter fun b => basinLive s b &&
    (if fam = 0xF then own.contains b && subs b
     else if fam = 0xC then own.contains b || (code < 0x0C04 && s.admin == b)
     else if fam = 0xD && (s.sec.failedCauses.contains 1 || s.sec.failedCauses.contains 2) then false
     else if 9 ≤ fam then own.contains b || s.admin == b || subs b
     else own.contains b)

/-- The event log takes an entry, overwriting the oldest of 65,536 (R525). -/
def logPut (lg : Logs) (mask : Nat) (e : EvtRec) : Logs :=
  let ring := lg.ring ++ [{ lseq := lg.lseq, basins := mask, evt := e }]
  let full := 65536 < ring.length
  { lg with ring := if full then ring.drop 1 else ring, lseq := wrap 32 (lg.lseq + 1),
            lost := if full then sat 32 (lg.lost + 1) else lg.lost }

/-- The management ring takes events of families 0x09, 0x0D and 0x0E (R546). -/
def mgPut (lg : Logs) (mask : Nat) (e : EvtRec) : Logs :=
  if [9, 13, 14].contains (e.code / 256) then
    let x : LogEntry := { lseq := lg.mgLseq, basins := mask, evt := e }
    { lg with mgRing := (lg.mgRing ++ [x]).drop (lg.mgRing.length + 1 - 256), mgLseq := wrap 32 (lg.mgLseq + 1) }
  else lg

/-- Gather an event record for a basin (R372); the first of a gathering starts its time. -/
def gatherEvt (s : State) (b : Nat) (e : EvtRec) : State :=
  setLink s b fun l => { l with gather := l.gather ++ [e],
                                gatherSince := some (l.gatherSince.getD s.now) }

/-- Deliver an event: into the log, and to each basin it is addressed to (R386, R525). -/
def deliverEvt (s : State) (own : List Nat) (e : EvtRec) : State :=
  let ts := evtTargets s e.code own
  let s := { s with logs := logPut s.logs (basinsMask ts) e }
  ts.foldl (fun s b => gatherEvt s b e) s

/-- Raise an event: it takes the source's next SSEQ (R384) and the present time. Before READY it is held, to follow
BOOT.READY (R502 step 12), and in a brown-out to follow PWR.BROWNOUT (R476 step 8); the management ring takes it at once. -/
def raise (s : State) (src code : Nat) (payload own : List Nat) : State :=
  let n := ((s.logs.sseq.find? fun x => x.1 == src).map (·.2)).getD 0
  let e : EvtRec := { code := code, src := src, sseq := n, time := s.now, payload := payload.map (· % 2 ^ 64) }
  let sq := (src, wrap 32 (n + 1)) :: dropW (fun x => x.1 == src) s.logs.sseq
  let lg := mgPut { s.logs with sseq := sq } (basinsMask (evtTargets s code own)) e
  let s := { s with logs := lg }
  if s.boot.stage == 6 && s.pwr.brown.isNone then deliverEvt s own e
  else { s with boot := { s.boot with heldEvents := s.boot.heldEvents ++ [(basinsMask own, e)] } }

/-- The longest start of some records that one message holds (R365) and the queue has room for (R370). -/
def evtFit (s : State) (b : Nat) : List EvtRec → List EvtRec → List EvtRec
  | now, [] => now
  | now, e :: l =>
    let m := Msg.evt (now ++ [e])
    if fits s b 0 m && m.bytes.length ≤ 16777216 then evtFit s b (now ++ [e]) l else now

/-- Records that are left unsent are counted (R370, R387). -/
def loseEvents (s : State) (b : Nat) (l : List EvtRec) : State :=
  let times := l.map (·.time)
  setLink s b fun k => { k with
    lost := sat 32 (k.lost + times.length)
    lostFirst := if k.lost = 0 then times.headD 0 else k.lostFirst
    lostLast := times.getLastD k.lostLast }

/-- Send records in as few EVT messages as hold them; those that do not fit are left unsent (R365, R370). -/
def sendEvents (b : Nat) : Nat → List EvtRec → State → State
  | 0, _, s => s
  | n + 1, l, s =>
    if l.isEmpty then s
    else
      let now := evtFit s b [] l
      if now.isEmpty then loseEvents s b l else sendEvents b n (l.drop now.length) (enqueue s b 0 (.evt now) [])

/-- Send the gathered records as an EVT message (R372). Once records have been left unsent, those that follow are counted until EVT.LOST has
told of them (R370, R387). -/
def flushEvents (s : State) (b : Nat) : State :=
  let l := linkOf s b
  if l.gather.isEmpty then s
  else
    let s := setLink s b fun l => { l with gather := [], gatherSince := none }
    if l.lost = 0 then sendEvents b l.gather.length l.gather s else loseEvents s b l.gather

/-! ### The configuration store (R491 to R493) -/

/-- The bytes a record takes: a 32-byte header and the payload padded to 8 bytes (R491). -/
def recBytes (len : Nat) : Nat := 32 + 8 * cdiv len 8

/-- The bank in use, and the other. -/
def activeBank (st : Store) : Bank := if st.activeB then st.bankB else st.bankA
def otherBank (st : Store) : Bank := if st.activeB then st.bankA else st.bankB
def setActive (st : Store) (b : Bank) : Store := if st.activeB then { st with bankB := b } else { st with bankA := b }
def setOther (st : Store) (b : Bank) : Store := if st.activeB then { st with bankA := b } else { st with bankB := b }

/-- The record in force for a key: the valid one of highest SEQ, unless it is a TOMB (R492). -/
def storeFind (b : Bank) (type index : Nat) : Option StoreRec :=
  let l := b.recs.filter fun r => r.type == type && r.index == index
  match l.foldl (fun best r => match best with
      | none => some r
      | some q => if q.seq < r.seq then some r else best) none with
  | some r => if r.tomb then none else some r
  | none => none

/-- The winning records of a bank that are not TOMBs (R493 step 2), without COMPLETE. -/
def liveRecs (b : Bank) : List StoreRec :=
  b.recs.filter fun r => r.type != 1 && !r.tomb && b.recs.all fun q =>
    !(q.type == r.type && q.index == r.index) || q.seq ≤ r.seq

/-- Programme one record into a bank under the module's next SEQ (R491). -/
def bankAppend (b : Bank) (seq : Nat) (r : StoreRec) : Bank :=
  { b with recs := dropW (fun q => q.type == r.type && q.index == r.index) b.recs ++ [{ r with seq := seq }],
           usedBytes := b.usedBytes + recBytes r.len, erased := false }

/-- The writes a bank takes before a swap: 48 MiB (R493). -/
def bankLimit : Nat := 50331648

/-- Steps 2 to 4 of the bank swap of R493: live records, then COMPLETE, go into the other bank, which becomes active, and
the old bank is left to be erased. -/
def swapBanks (s : State) : State :=
  let st := s.store
  let live := liveRecs (activeBank st)
  let start : Bank × Nat := ({ (otherBank st) with recs := [], usedBytes := 0, erased := false }, st.seq)
  let (nb, sq) := live.foldl (fun (p : Bank × Nat) r => (bankAppend p.1 (p.2 + 1) r, p.2 + 1)) start
  let nb := bankAppend nb (sq + 1) { type := 1, index := 0, len := 0, seq := 0 }
  let nb : Bank := { nb with complete := true, torn := false }
  let old : Bank := { (activeBank st) with complete := false, erased := false }
  let st := setOther (setActive st old) nb
  let st := { st with activeB := !st.activeB, seq := sq + 1, swapping := false }
  let bytes := (live.map fun r => recBytes r.len).sum
  raise { s with store := st } srcStewipen evStoreSwap [b2n st.activeB, bytes, sq + 1] []

/-- Whether a write must first swap banks (R493). -/
def needsSwap (st : Store) (len : Nat) : Bool :=
  (activeBank st).torn || bankLimit < (activeBank st).usedBytes + recBytes len

/-- The store takes writes at this moment: no swap waits for an erasure, and VAUX is good (R474, R493). A write that needs
a swap waits until the other bank is erased. -/
def storeReady (s : State) : Bool :=
  !s.store.swapping && !s.pwr.auxBad &&
    (!needsSwap s.store 1048576 || (otherBank s.store).erased || s.store.faulted)

/-- Programme a record at once: the write of a command's own step (R493, log entry 13). -/
def storeWriteNow (s : State) (r : StoreRec) : State :=
  let s := if needsSwap s.store r.len then swapBanks s else s
  { s with store := { setActive s.store (bankAppend (activeBank s.store) (s.store.seq + 1) r) with
      seq := s.store.seq + 1 } }

/-- Ask for a record to be written later by STORE_WRITE: a write that no reply waits for (R493). -/
def storeAsk (s : State) (r : StoreRec) : State :=
  if s.store.faulted then s else { s with store := { s.store with waiting := s.store.waiting ++ [r] } }

/-- Programme a record that must be in the store before an event reports it (R512), or let it wait when the store cannot
write now. -/
def storePut (s : State) (r : StoreRec) : State :=
  if storeReady s && !s.store.faulted then storeWriteNow s r else storeAsk s r

/-! ### The fault log (R527, R528) -/

/-- The 64-byte payload of a fault record (R527). -/
def faultWord (f : FaultRec) : Nat :=
  f.fseq + f.status * 2 ^ 32 + f.src * 2 ^ 48 + f.time * 2 ^ 64 + f.basin * 2 ^ 128 + b2n f.module_ * 2 ^ 132 +
    f.kind * 2 ^ 136 + f.job * 2 ^ 144 + f.tag * 2 ^ 160 + f.aux * 2 ^ 176 + f.addr * 2 ^ 192 + f.arg0 * 2 ^ 256 +
    f.arg1 * 2 ^ 320 + f.suppressed * 2 ^ 384

/-- Write a fault record within the cap of 10 a second (R528): it waits for the store under INDEX FSEQ mod 1,024. -/
def faultRecord (s : State) (f : FaultRec) : State :=
  if s.store.faulted then s
  else
    let sec := s.now / 1000000000
    let n := if s.logs.second == sec then s.logs.inSecond else 0
    if 10 ≤ n then { s with logs := { s.logs with second := sec, inSecond := n, suppressed := sat 32 (s.logs.suppressed + 1) } }
    else
      let f := { f with fseq := s.logs.fseq, time := s.now, suppressed := s.logs.suppressed }
      let s := storeAsk s { type := 0x50, index := s.logs.fseq % 1024, len := 64, seq := 0, payload := [faultWord f] }
      { s with logs := { s.logs with second := sec, inSecond := n + 1, suppressed := 0, fseq := wrap 32 (s.logs.fseq + 1) } }

/-- A fault of a step, a request or a bind (R525): FAULT.RECORD and a fault record of KIND STEP. -/
def stepFaultRecord (s : State) (basin job : Nat) (f : Flt) : State :=
  let s := raise s f.src evFaultRecord [f.status, f.src, 0, job, f.tag, f.aux] [basin]
  faultRecord s { status := f.status, src := f.src, basin := basin, kind := 0, job := job, tag := f.tag, aux := f.aux,
                  addr := f.addr, arg0 := f.arg0, arg1 := f.arg1 }

/-- A fault record of another kind (R527), for a basin or for the module. -/
def otherFaultRecord (s : State) (kind src status : Nat) (basin : Option Nat) (job aux addr arg0 arg1 : Nat) : State :=
  faultRecord s { status := status, src := src, basin := basin.getD 0, module_ := basin.isNone, kind := kind,
                  job := job, aux := aux, addr := addr, arg0 := arg0, arg1 := arg1 }

/-! ### Taking a host command (R370, R373, R375, R376, R410) -/

/-- The pages that an address range touches. -/
def pagesOf (addr len : Nat) : Nat × Nat := (addr / 4096, (addr + max 1 len - 1) / 4096)

/-- A DATA segment reaches a page of one of these ranges. -/
def dataHits (d : DataSeg) (ranges : List (Nat × Nat)) : Bool :=
  let (p, q) := pagesOf d.addr d.bytes.length
  ranges.any fun r => let (x, y) := pagesOf r.1 r.2
    p ≤ y && x ≤ q

/-- A waiting DATA segment that came before a place in the flow reaches a page of one of these ranges (R375). -/
def dataAhead (s : State) (b order : Nat) (ranges : List (Nat × Nat)) : Bool :=
  (linkOf s b).dataWait.any fun d => d.order < order && dataHits d ranges

/-- A waiting DATA segment ahead of a command reaches a page of one of these ranges (R375). A command that no message has brought comes
last. -/
def dataBlocks (s : State) (h : Hdr) (ranges : List (Nat × Nat)) : Bool :=
  let l := linkOf s h.basin
  dataAhead s h.basin (((l.inbox.find? fun c => c.ctag == h.ctag).map (·.order)).getD l.arrived) ranges

/-- The module is about to restart (R466, R518): no more commands are taken. -/
def restartNow (s : State) : Bool := s.boot.restartDue.any fun r => r.1 ≤ s.now

/-- The ranges that a command names, by its opcode and the places of its parameters in the message (R374, R375). -/
def cmdRanges (opcode : Nat) (m : List Byte) : List (Nat × Nat) :=
  let num (at_ n : Nat) : Nat := ofLe ((m.drop at_).take n)
  if [0x0610, 0x0611, 0x0612].contains opcode then [(num 8 8, 4096 * num 16 4)]
  else if opcode = 0x0613 then [(num 8 8, 1)]
  else if opcode = 0x0614 then [(num 8 8, num 16 4)]
  else if opcode = 0x0100 then [(num 16 8, 4096 * num 32 4)]
  else if opcode = 0x0101 then [(num 16 8, 8)]
  else if opcode = 0x0104 then [(num 32 6, 64 * num 28 4)]
  else if opcode = 0x0105 then [(num 16 8, 4096)]
  else if opcode = 0x0200 || opcode = 0x0201 then
    [(num 16 8, 4096 * num 12 4), (num 24 8, 8 * num 12 4), (num 32 8, 4096 * num 40 4)]
  else if opcode = 0x0400 then
    [(num 16 6, 4096 * cdiv (272 * 64 * 2 ^ (num 8 1 % 4) + 320) 4096 * (num 24 4 + num 32 4)), (num 40 6, 4096 * num 48 4)]
  else if opcode = 0x0500 then
    [(num 32 6, 48 + 64 * num 38 2), (num 40 6, 4096 * num 46 4)] ++ if num 50 6 = 0 then [] else [(num 50 6, 8)]
  else if opcode = 0x0501 then [(num 16 8, 8)]
  else if opcode = 0x0902 then [(num 8 8, num 16 4)]
  else []

/-- The ranges that a delivered command names. -/
def CmdMsg.ranges (c : CmdMsg) : List (Nat × Nat) := cmdRanges c.opcode c.bytes

/-- Parameters are those of the command's message: its bytes after the header are the fields as R374 lays them. -/
def CmdMsg.carries (c : CmdMsg) (ps : List Field) : Bool := c.bytes.drop 8 == layFields 8 ps

/-- A delivered command starts after those delivered before it, but for the ones that a waiting DATA segment holds back (R375). -/
def cmdTurn (s : State) (h : Hdr) : Bool :=
  let l := (linkOf s h.basin).inbox
  (l.all fun c => c.ctag != h.ctag) ||
    (l.takeWhile fun c => c.ctag != h.ctag).all fun c => c.bad != 0 || dataAhead s h.basin c.order c.ranges

/-- The management core could start a command of a basin now (R370, R375, R415). -/
def cmdWaits (s : State) (b : Nat) : Bool :=
  let l := linkOf s b
  basinLive s b && !inTeardown s b && l.rspWait.isEmpty && l.deferred.length < 256 &&
    l.inbox.any fun c => c.bad == 0 && !dataAhead s b c.order c.ranges

/-- It is the basin's turn: commands of different basins are served round-robin (R375), the basin served longest ago first. -/
def basinTurn (s : State) (b : Nat) : Bool :=
  let mine := (linkOf s b).turn
  (List.range 16).all fun c => let other := (linkOf s c).turn
    c == b || !cmdWaits s c || mine < other || (mine == other && b < c)

/-- Whether the management core can take a command of this basin now: READY, not in standby nor restarting, the basin live and not in
teardown (R415), no reply waiting for room (R370), fewer than 256 deferred commands, no report of it being signed, no earlier DATA segment
that must go first, no earlier command that must start before it, no other basin whose turn it is (R375), and with its message in the inbox
the parameters that the message carries (R374). -/
def taken (s : State) (h : Hdr) (opcode : Nat) (ps : List Field) : Bool :=
  s.boot.stage == 6 && s.pwr.standbyUntil.isNone && !restartNow s && basinLive s h.basin && !inTeardown s h.basin &&
    (linkOf s h.basin).rspWait.isEmpty && (linkOf s h.basin).deferred.length < 256 &&
    !dataBlocks s h (cmdRanges opcode (List.replicate 8 0 ++ layFields 8 ps)) &&
    ((linkOf s h.basin).inbox.all fun c => c.ctag != h.ctag || c.opcode != opcode || c.carries ps) &&
    (s.sec.signing.all fun x => x.h.basin != h.basin) && cmdTurn s h && basinTurn s h.basin

/-- An unanswered deferred command of the basin names the object (R376 order 4). -/
def objBusy (s : State) (b : Nat) (o : Obj) : Bool :=
  (linkOf s b).deferred.any fun d =>
    d.obj == o || (match d.obj, o with
      | .region f n, .region f' n' => f < f' + n' && f' < f + n
      | _, _ => false)

/-- The mark of the basin that is served now: above every other's. -/
def nextTurn (s : State) : Nat := (s.links.map (·.turn)).foldl max 0 + 1

/-- A frame's receive channel is bound to a basin (R450, R462). -/
def frameAuth (s : State) (b : Nat) (f : RxFrame) : Bool :=
  f.sci.any fun c => s.sec.scis.any fun k => k.port == f.port && k.sci == c && k.basin == b

/-- The operator's role of a security command (R450): it came through a MACsec receive channel bound to its basin, or it is SEC.MACSEC_KEY
from B0 in PROVISIONING over a port without a CAK. A command without its message in the inbox counts as one of its port's secure
association (log entry 68). -/
def roleHeld (s : State) (h : Hdr) (opcode : Nat) : Bool :=
  opcode / 256 != 9 ||
    (opcode == 0x0903 && h.basin == 0 && s.sec.mode == 0 && !(s.sec.caks.any fun k => k.port == h.port)) ||
    (match (linkOf s h.basin).inbox.find? fun c => c.opcode == opcode && c.ctag == h.ctag with
     | some c => c.auth
     | none => (s.sec.saks.any fun k => k.port == h.port) && s.sec.scis.any fun k => k.port == h.port && k.basin == h.basin)

/-- A host command: taken from the inbox, checked under R376 orders 3 and 4, then run. A security command needs its operator's role. A
command that the core cannot take now leaves the state as it is (log entry 14). -/
def hostCmd (s : State) (h : Hdr) (opcode : Nat) (adminOnly : Bool) (obj : Option Obj) (c : Instr) (body : State → State) : Res :=
  if !taken s h opcode c.params then .next s
  else
    let role := roleHeld s h opcode
    let s := setLink s h.basin fun l => { l with
      inbox := dropFirst (fun c => c.opcode == opcode && c.ctag == h.ctag) l.inbox, turn := nextTurn s }
    if (adminOnly && !isAdmin s h.basin) || !role then .next (reply s h opcode stNotPermitted [])
    else match obj with
      | some o => if objBusy s h.basin o then .next (reply s h opcode stBusy []) else .next (body s)
      | none => .next (body s)

/-- A host command that writes the store: it also waits while the store cannot write (R474, R493), and a store that has
failed answers ST_STORE_FAULT and changes nothing. -/
def hostStoreCmd (s : State) (h : Hdr) (opcode : Nat) (adminOnly : Bool) (obj : Option Obj) (c : Instr) (body : State → State) : Res :=
  if !storeReady s then .next s
  else hostCmd s h opcode adminOnly obj c fun s =>
    if s.store.faulted then reply s h opcode stStoreFault [] else body s

/-- DATA segments of a transfer, each of D bytes but the last, with ADDR rising from a start and LAST on the final one (R380,
R382). -/
def sendData (s : State) (b addr xid : Nat) (bs : List Byte) : State :=
  let d := max 1 (min 8192 ((flowOf s b 0).maxpay - 16))
  let n := cdiv bs.length d
  (List.range n).foldl (fun s k => queueData s b (.data (addr + k * d) xid (k + 1 == n) ((bs.drop (k * d)).take d))) s

/-- Defer a command's reply (R375). -/
def deferCmd (s : State) (d : Deferred) : State :=
  setLink s d.h.basin fun l => { l with deferred := l.deferred ++ [d] }

/-- Answer the deferred commands of a basin that satisfy a test, each with a status and data, in order. -/
def answerDeferred (s : State) (b : Nat) (p : Deferred → Bool) (status : Nat) (data : List Field) : State :=
  let ds := (linkOf s b).deferred.filter p
  let s := setLink s b fun l => { l with deferred := dropW p l.deferred }
  ds.foldl (fun s d => reply s d.h d.opcode status data) s

/-- Answer a command that every basin's list of deferred commands may hold. -/
def answerAll (s : State) (p : Deferred → Bool) (status : Nat) (data : List Field) : State :=
  (List.range 16).foldl (fun s b => answerDeferred s b p status data) s

/-- Answer the PWR.DOMAIN that waits for a domain to be on or off (R489). -/
def answerDomain (s : State) (d : Nat) (on : Bool) (status : Nat) : State :=
  answerAll s (fun x => x.opcode == 0x0A01 && x.obj == .domain d && x.arg == b2n on) status []

/-- A domain is HELD: it stays off for a fault, and whoever waits for it to be switched is told so (R487, R489). -/
def holdDomain (s : State) (d : Nat) : State :=
  let s := setDom s d fun x => { x with state := 3, switchingOff := false, wakeAgain := false, waker := none }
  answerDomain (answerDomain s d true stDomainHeld) d false stDomainHeld

end Sys2Proof.Machine
end

