-- ==== Sys2Proof/Machine/Pages.lean ====
section
/-! DEFINITION. The tiered memory: page entries, frames, quotas, clearing, retirement, and the reads and writes of whole
pages by the host and the device (R205, R212 to R221, R227, R233). -/

namespace Sys2Proof.Machine

/-! ### The address range (R212) -/

/-- First byte of the tiered range. -/
def tieredBase : Nat := 0x40000000

/-- A range of bytes lies in the tiered range of R212. -/
def inTiered (addr len : Nat) : Bool := tieredBase ≤ addr && addr + len ≤ 2 ^ 48

/-! ### Page entries (R215, R216) -/

/-- The entry of a mapped page. -/
def pageOf (s : State) (b p : Nat) : Option PageEnt := s.tiers.pages.find? fun e => e.basin == b && e.page == p

def pageMapped (s : State) (b p : Nat) : Bool := s.tiers.pages.any fun e => e.basin == b && e.page == p

/-- Change the entry of a page. -/
def setPage (s : State) (b p : Nat) (f : PageEnt → PageEnt) : State :=
  { s with tiers := { s.tiers with pages := updW (fun e => e.basin == b && e.page == p) f s.tiers.pages } }

/-- Read-only kinds (R216). -/
def PKind.readOnly : PKind → Bool
  | .model => true
  | .derived => true
  | _ => false

/-- The number of a kind in the list of R216. -/
def PKind.num : PKind → Nat
  | .model => 0
  | .derived => 1
  | .kv => 2
  | .work => 3
  | .train => 4

/-- The 128-bit entry that BASIN.PAGEQ returns (R215). -/
def pageWord (e : PageEnt) : Nat :=
  e.homeT + 4 * b2n e.kind.readOnly + 8 * b2n (e.kind == .derived) + 16 * b2n e.moving.isSome + 32 * b2n e.poison +
    64 * b2n e.copy.isSome + 128 * e.homeLoc + 2 ^ 36 * e.copy.getD 0 + 2 ^ 64 * (if e.kind.readOnly then e.crc else 0)

/-- The place of a page's bytes by tier and location: a frame, or, for a home in lent memory, the page's own place (log entry 11). -/
def placeAt (b p tier loc : Nat) : Nat := if tier = 3 then lentBase + 2 ^ 48 * b + 4096 * p else frameAt tier loc

/-- Where the bytes of a page's home stand in the model's memory. -/
def homeAt (e : PageEnt) : Nat := placeAt e.basin e.page e.homeT e.homeLoc

/-- The pages of an address range, as page numbers. -/
def pageRange (addr len : Nat) : List Nat :=
  let (p, q) := pagesOf addr len
  (List.range (q + 1 - p)).map (· + p)

/-- Whether a page is pinned (R220). -/
def pinned (s : State) (b p : Nat) : Bool := s.tiers.pins.any fun x => x.1 == b && x.2.1 == p

/-! ### Frames (R221, R233) -/

/-- Frames of a tier: 1,024 GiB of HBM3E, and 2,048 GiB of LPDDR5X less the device reserve of 16 GiB. -/
def frameCount (tier : Nat) : Nat := if tier = 1 then 2 ^ 28 else 2 ^ 29 - 2 ^ 22

/-- A frame is held: by a page, a copy, a move, a clearing, a lend record of this module as lender, or it is retired. -/
def frameUsed (s : State) (tier f : Nat) : Bool :=
  s.tiers.pages.any (fun e => (e.homeT == tier && e.homeLoc == f) || e.moving == some (tier, f) ||
      (tier == 1 && e.copy == some f)) ||
    s.tiers.clearing.any (fun c => c.tier == tier && c.frame == f) ||
    s.tiers.retired.contains (tier, f) ||
    s.tiers.lends.any (fun l => l.asLender && l.tier == tier && l.first ≤ f && f < l.first + l.count)

/-- How many frames of a tier are held. -/
def framesHeld (s : State) (tier : Nat) : Nat :=
  (s.tiers.pages.map fun e => b2n (e.homeT == tier) + b2n ((e.moving.map (·.1)) == some tier) +
      b2n (tier == 1 && e.copy.isSome)).sum +
    (s.tiers.clearing.filter fun c => c.tier == tier && !s.tiers.retired.contains (tier, c.frame) &&
      !(s.tiers.pages.any fun e => e.homeT == tier && e.homeLoc == c.frame)).length +
    (s.tiers.retired.filter fun r => r.1 == tier).length +
    ((s.tiers.lends.filter fun l => l.asLender && l.tier == tier).map (·.count)).sum

/-- Free frames of a tier. -/
def framesFree (s : State) (tier : Nat) : Nat := frameCount tier - framesHeld s tier

/-- The first frame that is not held, from a place onward, cyclically. -/
def firstFree (s : State) (tier start : Nat) : Nat → Option Nat
  | 0 => none
  | fuel + 1 =>
    let f := start % frameCount tier
    if frameUsed s tier f then firstFree s tier (start + 1) fuel else some f

/-- Take a free frame: which one is a free value (log entry 7). -/
def takeFrame (s : State) (tier : Nat) : Option Nat × State :=
  let (k, s) := drawPick s
  if framesFree s tier = 0 then (none, s) else (firstFree s tier k (framesHeld s tier + 1), s)

/-- The capacity of a tier now reported, in bytes (R233, log entry 15). -/
def tierCapacity (s : State) (tier : Nat) : Nat :=
  4096 * (frameCount tier - (s.tiers.retired.filter fun r => r.1 == tier).length)

/-- Raise a memory event from the trunk segment that found it; which segment is a free value (R250, log entry 7). -/
def raiseTrunk (s : State) (code : Nat) (payload own : List Nat) : State :=
  let (k, s) := drawPick s
  raise s (srcTrunk (k % 4)) code payload own

/-- A stack or package has detected an error: field 2 CORRECTED or 4 UNCORRECTED, and the units it has read again (R232, R532). A frame
is spread over every stack or package of its tier; which of them met the error is a free value (log entry 116). -/
def countError (s : State) (tier field rereads : Nat) : State :=
  let (k, s) := drawPick s
  let at_ (set i : Nat) : State := count (count s set i 0 field 1) set i 0 3 rereads
  if tier = 1 then at_ 2 (k % 8) else if tier = 2 then at_ 3 (k % 16) else s

/-- A frame that is retired counts at every stack or package that it is spread over (R222, R223, R532). -/
def countRetired (s : State) (tier : Nat) : State :=
  if tier = 1 then (List.range 8).foldl (fun s i => count s 2 i 0 6 1) s
  else (List.range 16).foldl (fun s i => count s 3 i 0 6 1) s

/-- Retire a frame (R233): never allocated again, recorded in the store, and reported. Cause 0: corrected limit, 1:
uncorrectable. -/
def retireFrame (s : State) (tier f cause : Nat) : State :=
  if s.tiers.retired.contains (tier, f) then s
  else
    let n := s.tiers.retired.length
    let s := { s with tiers := { s.tiers with
      retired := s.tiers.retired ++ [(tier, f)]
      retiring := dropW (fun r => r == (tier, f)) s.tiers.retiring
      errs := dropW (fun x => x.tier == tier && x.frame == f) s.tiers.errs } }
    let chunk := n / 512
    let l := (s.tiers.retired.drop (512 * chunk)).take 512
    let s := storeAsk s { type := 0x40, index := chunk, len := 8 * l.length, seq := 0,
                          payload := l.map fun r => r.1 * 2 ^ 32 + r.2 }
    let s := raiseTrunk (countRetired s tier) evMemFrameRetired [tier, f, cause, tierCapacity s tier] [s.admin]
    otherFaultRecord s 2 srcCore 0 none 0 0 f tier cause

/-- A frame is to be retired as soon as its page leaves it (R233). -/
def noteRetiring (s : State) (tier f : Nat) : State :=
  if tier = 3 || s.tiers.retired.contains (tier, f) || s.tiers.retiring.contains (tier, f) then s
  else { s with tiers := { s.tiers with retiring := s.tiers.retiring ++ [(tier, f)] } }

/-- An uncorrectable error in a frame: the unit was read again, the error was still there, and the frame is to be retired (R232, R233). -/
def markRetiring (s : State) (tier f : Nat) : State := noteRetiring (countError s tier 4 1) tier f

/-- Why a frame that is to be retired is retired: 0 corrected limit, 1 uncorrectable (R233, R250). -/
def retireCause (s : State) (tier f : Nat) : Nat :=
  b2n (!(s.tiers.errs.any fun x => x.tier == tier && x.frame == f && 16 ≤ x.times.length))

/-- A frame leaves its basin, with the object it belonged to: it is zero-filled before it can pass on (R205). A frame marked
to be retired is retired as its page leaves it (R233). -/
def releasePage (s : State) (b obj tier f : Nat) (page : Option PageEnt) : State :=
  if tier = 3 || s.tiers.clearing.any (fun c => c.tier == tier && c.frame == f) then s
  else
    let x : FrameClear := { tier := tier, frame := f, basin := b, obj := obj, page := page }
    let s := { s with tiers := { s.tiers with clearing := s.tiers.clearing ++ [x] } }
    if s.tiers.retiring.contains (tier, f) then retireFrame s tier f (retireCause s tier f) else s

/-- A frame that was not a page's home. -/
def releaseFrame (s : State) (b obj tier f : Nat) : State := releasePage s b obj tier f none

/-- A page leaves its place in a lend record (R247). -/
def leaveLend (s : State) (b p : Nat) : State :=
  { s with tiers := { s.tiers with
    lends := updW (fun l => !l.asLender && l.basin == b) (fun l => { l with slots := dropW (fun x => x.2 == p) l.slots }) s.tiers.lends } }

/-- Unmap a page of an object: its home, its copy and a move's destination are cleared (R205). -/
def unmapObj (s : State) (b obj p : Nat) : State :=
  match pageOf s b p with
  | none => s
  | some e =>
    let s := { s with tiers := { s.tiers with
      pages := dropW (fun e => e.basin == b && e.page == p) s.tiers.pages
      moves := dropW (fun m => m.basin == b && m.page == p) s.tiers.moves
      refetch := dropW (fun m => m.basin == b && m.page == p) s.tiers.refetch } }
    let s := leaveLend (if e.homeT = 3 then { s with mem := memClear s.mem (homeAt e) 4096 }
      else releasePage s b obj e.homeT e.homeLoc (some e)) b p
    let s := match e.copy with
      | some f => releaseFrame s b obj 1 f
      | none => s
    match e.moving with
    | some (t, f) => releaseFrame s b obj t f
    | none => s

/-- Unmap a page of no model or variant. -/
def unmapPage (s : State) (b p : Nat) : State := unmapObj s b 0 p

/-- Unmap a list of pages. -/
def unmapPages (s : State) (b : Nat) (ps : List Nat) : State := ps.foldl (fun s p => unmapPage s b p) s

/-! ### Quotas (R221) -/

/-- HBM3E pages of a basin: homes, copies, DERIVED pages and the destinations of moves. -/
def hbmUsed (s : State) (b : Nat) : Nat :=
  (s.tiers.pages.map fun e => if e.basin == b then b2n (e.homeT == 1) + b2n e.copy.isSome +
    b2n ((e.moving.map (·.1)) == some 1 && e.homeT != 1) else 0).sum

/-- LPDDR5X pages of a basin. -/
def lpxUsed (s : State) (b : Nat) : Nat :=
  (s.tiers.pages.map fun e => if e.basin == b then b2n (e.homeT == 2) +
    b2n ((e.moving.map (·.1)) == some 2 && e.homeT != 2) else 0).sum

/-- Pages of a basin homed in borrowed memory, or moving there. -/
def borrowUsed (s : State) (b : Nat) : Nat :=
  (s.tiers.pages.filter fun e => e.basin == b && (e.homeT == 3 || (e.moving.map (·.1)) == some 3)).length

def borrowQuota (s : State) (b : Nat) : Nat := basinFld s b 576 607
def hbmQuota (s : State) (b : Nat) : Nat := basinFld s b 512 543
def lpxQuota (s : State) (b : Nat) : Nat := basinFld s b 544 575

/-- `n` more pages of a tier are within the basin's quota. -/
def quotaOk (s : State) (b tier n : Nat) : Bool :=
  if tier = 1 then hbmUsed s b + n ≤ hbmQuota s b
  else if tier = 3 then borrowUsed s b + n ≤ borrowQuota s b
  else lpxUsed s b + n ≤ lpxQuota s b

/-- A lender asks for the frames of a tier that it has lent (R248): MEM.LEND_RECLAIM goes to each borrower, once for a record. -/
def reclaimLends (s : State) (tier : Nat) : State :=
  let due (l : Lend) : Bool := l.asLender && l.live && l.tier == tier && l.reclaimDue.isNone
  let s' := (s.tiers.lends.filter due).foldl (fun s l => sendUnits s l.basin none [.memReclaim l.x l.y l.z l.index]) s
  { s' with tiers := { s'.tiers with
      lends := updW due (fun l => { l with reclaimDue := some (s.now + 5000000000) }) s'.tiers.lends } }

/-! ### Mapping -/

/-- Map one page to a new frame of a tier; the frame was cleared before. -/
def mapPage (s : State) (b p : Nat) (k : PKind) (tier : Nat) : State :=
  match takeFrame s tier with
  | (none, s) => s
  | (some f, s) => { s with tiers := { s.tiers with pages := s.tiers.pages ++
      [{ basin := b, page := p, kind := k, homeT := tier, homeLoc := f, lastUse := s.now }] } }

/-- Map a list of pages. -/
def mapPages (s : State) (b : Nat) (k : PKind) (tier : Nat) (ps : List Nat) : State :=
  ps.foldl (fun s p => mapPage s b p k tier) s

/-! ### Bytes of pages -/

/-- The bytes of a page's home. -/
def homeBytes (s : State) (e : PageEnt) : List Byte := memGets s.mem (homeAt e) 4096

/-- The place that serves reads of a page: a read-only page's HBM3E copy where there is one, else the home (R216, R236). -/
def readAt (e : PageEnt) : Nat :=
  match e.copy with
  | some f => frameAt 1 f
  | none => homeAt e

/-- One byte of a basin's tiered memory as a reader gets it: none where unmapped, or poisoned without a clean copy (R235). -/
def tierGet (s : State) (b addr : Nat) : Option Byte :=
  match pageOf s b (addr / 4096) with
  | none => none
  | some e => if e.poison && e.copy.isNone then none else some (memGet s.mem (readAt e + addr % 4096))

/-- Consecutive bytes of a basin's tiered memory, or none when one cannot be read. -/
def tierGets (s : State) (b addr n : Nat) : Option (List Byte) := ((List.range n).map fun k => addr + k).mapM (tierGet s b)

/-- Consecutive bytes as the device reads its own tables; what cannot be read counts as 0. -/
def tierBytes (s : State) (b addr n : Nat) : List Byte := (List.range n).map fun k => (tierGet s b (addr + k)).getD 0

/-- One byte of a mapped page as it stands, poisoned or not: what the device has read of a sealed model or a verified set stays known
to it, so that work which does not read a poisoned page goes on (R241, R273). -/
def keptByte (s : State) (b addr : Nat) : Byte :=
  match pageOf s b (addr / 4096) with
  | none => 0
  | some e => memGet s.mem (readAt e + addr % 4096)

/-- Consecutive bytes as they stand. -/
def keptBytes (s : State) (b addr n : Nat) : List Byte := (List.range n).map fun k => keptByte s b (addr + k)

/-- A number of `n` bytes as they stand. -/
def keptNum (s : State) (b addr n : Nat) : Nat := ofLe (keptBytes s b addr n)

/-- A number of `n` bytes of a basin's memory. -/
def tierNum (s : State) (b addr n : Nat) : Nat := ofLe (tierBytes s b addr n)

/-- Write one byte of a mapped page's home. -/
def tierPut (s : State) (b addr : Nat) (v : Byte) : State :=
  match pageOf s b (addr / 4096) with
  | none => s
  | some e => { s with mem := memPut s.mem (homeAt e + addr % 4096) v }

/-- Write consecutive bytes. -/
def tierPuts (s : State) (b addr : Nat) : List Byte → State
  | [] => s
  | v :: l => tierPuts (tierPut s b addr v) b (addr + 1) l

/-- The bytes of a frame are copied to another place of memory (R219, R227). -/
def copyFrame (s : State) (src dst : Nat) : State :=
  { s with mem := memPuts (memClear s.mem dst 4096) dst (memGets s.mem src 4096) }

/-- The lend record of a page's home, with the page's place among its frames (R247). -/
def lendOf (s : State) (e : PageEnt) : Option (Lend × Nat) :=
  (s.tiers.lends.find? fun l => !l.asLender && l.basin == e.basin && l.index == e.homeLoc).bind fun l =>
    (l.slots.find? fun x => x.2 == e.page).map fun x => (l, x.1)

/-- A 64-byte unit of a page homed in lent memory travels as a window transfer to the lender, or is asked of it (R201, R247). -/
def lentUnit (s : State) (e : PageEnt) (isWrite : Bool) (k : Nat) : State :=
  match lendOf s e with
  | none => s
  | some (l, i) =>
    let x : LmFrame := if isWrite then .window l.x l.y l.z l.wid (64 * i + k) (memGets s.mem (homeAt e + 64 * k) 64)
      else .windowAsk l.x l.y l.z l.wid (64 * i + k)
    sendUnits s e.basin none [x]

/-- What a read of a unit in lent memory meets. -/
inductive LentOut where
  | here
  | wait
  | refused
  deriving DecidableEq, Repr

/-- A unit of a page homed in lent memory is read: it is asked of the lender, and the reader waits until its data have come (R201, R247). -/
def lentGet (s : State) (e : PageEnt) (who unit addr : Nat) : LentOut × State :=
  let a := addr / 64 * 64
  let mine (x : LentAsk) : Bool := x.basin == e.basin && x.addr == a && x.who == who && x.unit == unit
  if e.homeT != 3 then (.here, s)
  else match s.tiers.lentAsks.find? mine with
    | none =>
      let x : LentAsk := { basin := e.basin, addr := a, who := who, unit := unit }
      (.wait, lentUnit { s with tiers := { s.tiers with lentAsks := s.tiers.lentAsks ++ [x] } } e false (addr % 4096 / 64))
    | some x =>
      if x.answer = 0 then (.wait, s)
      else (if x.answer = 1 then .here else .refused,
        { s with tiers := { s.tiers with lentAsks := dropW mine s.tiers.lentAsks } })

/-- The first units of a range that lie in pages homed in lent memory: page and address. -/
def lentUnits (s : State) (b addr len : Nat) : List (PageEnt × Nat) :=
  if len = 0 then []
  else ((List.range ((addr + len - 1) / 64 - addr / 64 + 1)).map fun k => addr / 64 * 64 + 64 * k).filterMap fun a =>
    ((pageOf s b (a / 4096)).filter fun e => e.homeT == 3).map fun e => (e, a)

/-- Every unit of ranges that lies in lent memory is asked for; `here` when all have come, each then used up (R247). -/
def lentRanges (s : State) (b : Nat) (l : List (Nat × Nat)) (who unit : Nat) : LentOut × State :=
  let us := (l.map fun x => lentUnits s b x.1 x.2).flatten
  let mine (x : LentAsk) : Bool := x.basin == b && x.who == who && x.unit == unit && us.any fun u => u.2 == x.addr
  let asked (a : Nat) : Bool := s.tiers.lentAsks.any fun x => mine x && x.addr == a
  let s := us.foldl (fun s u => if asked u.2 then s else (lentGet s u.1 who unit u.2).2) s
  let got := s.tiers.lentAsks.filter mine
  if got.any fun x => x.answer = 0 then (.wait, s)
  else (if got.all fun x => x.answer = 1 then .here else .refused,
    { s with tiers := { s.tiers with lentAsks := dropW mine s.tiers.lentAsks } })

/-- The units of one range (R247). -/
def lentRange (s : State) (b addr len who unit : Nat) : LentOut × State := lentRanges s b [(addr, len)] who unit

/-- Bytes have been written: their units in lent memory travel to the lender (R201, R247), and the pages keep the time of the access (R231). -/
def narrowWritten (s : State) (b addr len : Nat) : State :=
  let s := (lentUnits s b addr len).foldl (fun s u => lentUnit s u.1 true (u.2 % 4096 / 64)) s
  (pageRange addr len).foldl (fun s p => setPage s b p fun e => { e with lastUse := s.now }) s

/-- The lender's answer to a read of lent memory (R247): with data, they stand at the page's home from now on. -/
def lentAnswer (s : State) (b index off : Nat) (data : Option (List Byte)) : State :=
  match (s.tiers.lends.find? fun l => !l.asLender && l.basin == b && l.index == index).bind fun l =>
      (l.slots.find? fun x => x.1 == off / 64).bind fun x => pageOf s b x.2 with
  | none => s
  | some e =>
    let a := 4096 * e.page + 64 * (off % 64)
    let mark (x : LentAsk) : LentAsk := { x with answer := if data.isSome then 1 else 2 }
    let s := { s with tiers := { s.tiers with
      lentAsks := updW (fun x => x.basin == b && x.addr == a && x.answer == 0) mark s.tiers.lentAsks } }
    match data with
    | some l => { s with mem := memPuts s.mem (homeAt e + 64 * (off % 64)) (l.take 64) }
    | none => s

/-- All the units of a page that is homed in lent memory. -/
def lentPage (s : State) (e : PageEnt) (isWrite : Bool) : State :=
  if e.homeT = 3 then (List.range 64).foldl (fun s k => lentUnit s e isWrite k) s else s

/-! ### Moves (R225 to R228) -/

/-- Ask for a page to be moved to a tier: by rank, and oldest first within a rank (R226, R291, R297). -/
def askMove (s : State) (b p tier rank : Nat) : State :=
  let x : MoveReq := { basin := b, page := p, tier := tier, since := s.now, rank := rank }
  let l := dropW (fun m => !m.copy && m.basin == b && m.page == p) s.tiers.moves
  { s with tiers := { s.tiers with moves := l.filter (fun m => m.rank ≤ rank) ++ [x] ++ l.filter fun m => rank < m.rank } }

/-- A page waits for a move, or moves. -/
def moveOpen (s : State) (b p : Nat) : Bool :=
  (s.tiers.moves.any fun m => !m.copy && m.basin == b && m.page == p) || ((pageOf s b p).bind (·.moving)).isSome

/-- Mark a page poisoned at this moment (R235). -/
def poisonPage (s : State) (b p : Nat) : State :=
  setPage s b p fun e => { e with poison := true, poisonAt := s.now }

/-- MEM.POISONED (R250): the page's address, kind, tier, the detecting reader (R235) and whether a clean copy exists. -/
def raisePoisoned (s : State) (e : PageEnt) (reader : Nat) : State :=
  let s := raiseTrunk s evMemPoisoned [4096 * e.page, e.kind.num, e.homeT, reader, b2n e.copy.isSome] [e.basin]
  otherFaultRecord s 2 srcCore 0 (some e.basin) 0 0 (4096 * e.page) e.kind.num e.homeT

end Sys2Proof.Machine
end

