-- ==== Sys2Proof/Machine/Formats.lean ====
section
/-! DEFINITION. Ternary tensors: T5 and TZ packing, S8 scales, weight headers, deltas, and the merged pages of a variant
(R38 to R49, R66 to R70, R89, R255, R262). -/

namespace Sys2Proof.Machine

/-! ### T5 (R38, R39) -/

/-- The trit of a base-3 digit (R38). -/
def tritOf (d : Nat) : Int := if d = 0 then 0 else if d = 1 then 1 else -1

/-- The base-3 digit of a trit (R38). -/
def digitOf (t : Int) : Nat := if t = 0 then 0 else if t = 1 then 1 else 2

/-- The five trits of a valid T5 byte; none for 243 to 255 (R38). -/
def t5Trits (b : Nat) : Option (List Int) :=
  if 242 < b then none
  else some [tritOf (b % 3), tritOf (b / 3 % 3), tritOf (b / 9 % 3), tritOf (b / 27 % 3), tritOf (b / 81 % 3)]

/-- Bytes of a T5 row (R39). -/
def t5RowBytes (cols : Nat) : Nat := cdiv cols 5

/-- The trits of a T5 row from its bytes, padding digits dropped; none at an invalid byte. -/
def t5Row (cols : Nat) (l : List Byte) : Option (List Int) :=
  ((l.take (t5RowBytes cols)).mapM fun b => t5Trits b.toNat).map fun x => x.flatten.take cols

/-- Pack trits into T5 bytes, padding digits 0 (R39). -/
def t5Pack : Nat → List Int → List Byte
  | 0, _ => []
  | n + 1, l =>
    let d := fun k => digitOf (l.getD k 0)
    BitVec.ofNat 8 (d 0 + 3 * d 1 + 9 * d 2 + 27 * d 3 + 81 * d 4) :: t5Pack n (l.drop 5)

/-! ### TZ (R40 to R43, R262) -/

/-- The 4-bit symbols of bytes, low nibble first (R40). -/
def nibbles (l : List Byte) : List Nat := (l.map fun b => [b.toNat % 16, b.toNat / 16]).flatten

/-- Pack symbols into bytes, low nibble first, a last odd one padded with 0x0 (R40, R262). -/
def packNibbles : List Nat → List Byte
  | [] => []
  | [a] => [BitVec.ofNat 8 a]
  | a :: b :: l => BitVec.ofNat 8 (a + 16 * b) :: packNibbles l

/-- Decode one group of length n from a position on (R40, R41, R43): its non-zero trits as (column, negative) and the symbols
left; none for a range fault. -/
def tzGroup (n : Nat) : Nat → List Nat → Option (List (Nat × Bool) × List Nat)
  | pos, l =>
    if n ≤ pos then some ([], l)
    else match l with
      | [] => none
      | s :: l =>
        if s = 15 then some ([], l)
        else if s = 7 then (if n < pos + 7 then none else tzGroup n (pos + 7) l)
        else
          let p := pos + s % 8
          if n ≤ p then none
          else (tzGroup n (p + 1) l).map fun r => ((p, 8 ≤ s) :: r.1, r.2)

/-- The trits of a group from its non-zeros. -/
def groupTrits (n : Nat) (nz : List (Nat × Bool)) : List Int :=
  (List.range n).map fun c => match nz.find? fun x => x.1 == c with
    | some x => if x.2 then -1 else 1
    | none => 0

/-- The trits of a TZ row from its symbols: every group of 16, the last shorter (R41). -/
def tzRow : Nat → Nat → List Nat → Option (List Int)
  | 0, _, _ => some []
  | fuel + 1, cols, l =>
    if cols = 0 then some []
    else
      let n := min 16 cols
      match tzGroup n 0 l with
      | none => none
      | some (nz, l) => (tzRow fuel (cols - n) l).map fun r => groupTrits n nz ++ r

/-- The gap symbols and the trit symbol of one non-zero (R262): 0x7 while the gap is 7 or more. -/
def tzGap : Nat → Nat → Bool → List Nat
  | 0, g, neg => [(if neg then 8 else 0) + g]
  | fuel + 1, g, neg => if 7 ≤ g then 7 :: tzGap fuel (g - 7) neg else [(if neg then 8 else 0) + g]

/-- The symbols of one group (R262). -/
def tzGroupSyms (l : List Int) : List Nat :=
  let (out, pos) := (l.zipIdx).foldl (fun (p : List Nat × Nat) x =>
    if x.1 = 0 then p else (p.1 ++ tzGap 2 (x.2 - p.2) (x.1 < 0), x.2 + 1)) ([], 0)
  if pos < l.length then out ++ [15] else out

/-- The symbols of a row, group by group (R262). -/
def tzRowSyms : Nat → List Int → List Nat
  | 0, _ => []
  | fuel + 1, l => if l.isEmpty then [] else tzGroupSyms (l.take 16) ++ tzRowSyms fuel (l.drop 16)

/-! ### S8 (R45, R46) -/

def s8A (c : Nat) : Nat := fld c 0 3
def s8C (c : Nat) : Nat := fld c 4 7
def s8D (c : Nat) : Bool := bitAt c 8
def s8N (c : Nat) : Bool := bitAt c 9

/-- Validity of an S8 code under a base exponent (R46). -/
def s8Valid (eBase : Int) (c : Nat) : Bool :=
  fld c 10 15 == 0 && (if s8D c then s8C c < s8A c else s8C c == 0 && !s8N c) &&
    -64 ≤ eBase + s8A c && eBase + s8A c ≤ 63

/-- The value of a valid code: an integer times a power of two (R46). -/
def s8Val (eBase : Int) (c : Nat) : Int × Int :=
  if s8D c then ((2 : Int) ^ (s8A c - s8C c) + (if s8N c then -1 else 1), eBase + s8C c) else (1, eBase + s8A c)

/-! ### Weight headers (R49) -/

/-- A weight tensor header (R49). -/
structure WHdr where
  fmt : Nat
  cap : Nat
  sg : Nat
  eBase : Int
  rows : Nat
  cols : Nat
  data : Nat
  rowTable : Nat
  scales : Nat
  reserved : Bool
  deriving DecidableEq, Repr

def whdrOf (w : Nat) : WHdr where
  fmt := fld w 0 3
  cap := fld w 4 7
  sg := fld w 8 9
  eBase := signed 8 (fld w 16 23)
  rows := fld w 32 63
  cols := fld w 64 95
  data := fld w 96 143
  rowTable := fld w 144 191
  scales := fld w 192 239
  reserved := fld w 10 15 != 0 || fld w 24 31 != 0 || fld w 240 255 != 0

/-- Scale group size G (R49). -/
def WHdr.g (h : WHdr) : Nat := 64 * 2 ^ h.sg

/-- Scale groups of a row (R48). -/
def WHdr.groups (h : WHdr) : Nat := cdiv h.cols h.g

/-- The extent limit of a TZ tensor (R89). -/
def WHdr.extent (h : WHdr) : Nat := h.rows * (8 * cdiv h.cols 16 + 1)

/-- Validity of a header (R42, R49). -/
def WHdr.ok (h : WHdr) : Bool :=
  !h.reserved && (h.fmt == 1 || h.fmt == 2) && h.sg != 3 && 1 ≤ h.rows && h.rows ≤ 16777216 && 1 ≤ h.cols &&
    h.cols ≤ 1048576 && h.data % 64 == 0 && h.scales % 8 == 0 &&
    (if h.fmt = 1 then h.rowTable == 0 else h.rowTable % 8 == 0 && h.extent ≤ 4294967295)

/-- Entry i of a row table (R42), through a reader of numbers of `n` bytes. -/
def rowEntry (rd : Nat → Nat → Nat) (h : WHdr) (i : Nat) : Nat := rd (h.rowTable + 4 * i) 4

/-- A row table is good: entry 0 is 0, the entries never decrease, the last lies within the extent (R43). -/
def rowTableOk (rd : Nat → Nat → Nat) (h : WHdr) : Bool :=
  rowEntry rd h 0 == 0 && (List.range h.rows).all (fun i => rowEntry rd h i ≤ rowEntry rd h (i + 1)) &&
    rowEntry rd h h.rows ≤ h.extent

/-- Bytes of the data area. -/
def dataBytes (rd : Nat → Nat → Nat) (h : WHdr) : Nat :=
  if h.fmt = 1 then h.rows * t5RowBytes h.cols else rowEntry rd h h.rows

/-- Bytes of the scale array (R48). -/
def WHdr.scaleBytes (h : WHdr) : Nat := 2 * h.rows * h.groups

/-- The bytes of a row. -/
def rowBytesOf (rd : Nat → Nat → Nat) (h : WHdr) (i : Nat) : List Byte :=
  if h.fmt = 1 then
    let n := t5RowBytes h.cols
    (List.range n).map fun k => BitVec.ofNat 8 (rd (h.data + i * n + k) 1)
  else
    let p := rowEntry rd h i
    (List.range (rowEntry rd h (i + 1) - p)).map fun k => BitVec.ofNat 8 (rd (h.data + p + k) 1)

/-- The trits of a row: none for an invalid byte or symbol. -/
def rowTrits (rd : Nat → Nat → Nat) (h : WHdr) (i : Nat) : Option (List Int) :=
  if h.fmt = 1 then t5Row h.cols (rowBytesOf rd h i)
  else tzRow h.cols h.cols (nibbles (rowBytesOf rd h i))

/-- The S8 code of a row and scale group (R48). -/
def scaleCode (rd : Nat → Nat → Nat) (h : WHdr) (i g : Nat) : Nat := rd (h.scales + 2 * (i * h.groups + g)) 2

/-! ### Checking a model (R255, R256) -/

/-- The areas of a tensor: start and length. -/
def areasOf (rd : Nat → Nat → Nat) (h : WHdr) : List (Nat × Nat) :=
  [(h.data, dataBytes rd h), (h.scales, h.scaleBytes)] ++ (if h.fmt = 2 then [(h.rowTable, 4 * (h.rows + 1))] else [])

/-- No two areas overlap. -/
def disjoint : List (Nat × Nat) → Bool
  | [] => true
  | a :: l => l.all (fun b => a.1 + a.2 ≤ b.1 || b.1 + b.2 ≤ a.1) && disjoint l

/-- A range of bytes lies within a region. -/
def within (addr len base size : Nat) : Bool := base ≤ addr && addr + len ≤ base + size

/-- The header of a tensor names bytes outside the region. Of an invalid header only what its fields still fix counts: where an
area starts, and its length when FMT, and for scales SG, is valid (R256 step 6). -/
def namesOutside (rd : Nat → Nat → Nat) (base size : Nat) (h : WHdr) : Bool :=
  let fixed (a : Nat × Nat) : Nat × Nat :=
    (a.1, if !(h.fmt == 1 || h.fmt == 2) || (h.sg == 3 && a.1 == h.scales) then 1 else max 1 a.2)
  ((areasOf rd h).map fixed).any fun a => !within a.1 a.2 base size

/-- The breaches of one tensor of a model: 1 ST_INDEX_RANGE, 2 ST_FORMAT_INVALID, 0 none (R256 steps 4, 6). -/
def tensorBreach (rd : Nat → Nat → Nat) (base size : Nat) (h : WHdr) : Nat :=
  if !h.ok then (if namesOutside rd base size h then 1 else 2)
  else if h.fmt = 2 && (!within h.rowTable (4 * (h.rows + 1)) base size || !rowTableOk rd h) then 1
  else
    let as := areasOf rd h
    let pad (a : Nat × Nat) : Bool := (List.range ((4096 - (a.1 + a.2) % 4096) % 4096)).all fun k => rd (a.1 + a.2 + k) 1 == 0
    let bad43 := h.fmt == 2 && (List.range h.rows).any fun i => (rowTrits rd h i).isNone
    if as.any (fun a => !within a.1 a.2 base size) || bad43 then 1
    else if as.any (fun a => a.1 % 4096 != 0 || !pad a) ||
        (h.fmt == 1 && (List.range h.rows).any fun i => (rowTrits rd h i).isNone) ||
        (List.range h.rows).any fun i => (List.range h.groups).any fun g => !s8Valid h.eBase (scaleCode rd h i g) then 2
    else 0

/-- The headers of a model (R255). -/
def modelHdrs (rd : Nat → Nat → Nat) (hdrs n : Nat) : List WHdr := (List.range n).map fun i => whdrOf (rd (hdrs + 32 * i) 32)

/-- The status of the format checks of a seal: 0 when all pass (R256). -/
def modelBreach (rd : Nat → Nat → Nat) (base size hdrs n : Nat) : Nat :=
  if !within hdrs (32 * n) base size then stIndexRange
  else
    let hs := modelHdrs rd hdrs n
    let bs := hs.map (tensorBreach rd base size)
    if bs.contains 1 then stIndexRange
    else if bs.contains 2 then stFormatInvalid
    else if disjoint ((hdrs, 32 * n) :: (hs.map (areasOf rd)).flatten) then 0 else stFormatInvalid

/-! ### Deltas (R66 to R69, R257) -/

/-- A tensor delta, decoded. Changes of a row: column and whether the rotation is down. -/
structure TDelta where
  tensor : Nat
  fmt : Nat
  cap : Nat
  rows : List (Nat × List (Nat × Bool))
  scales : List (Nat × Nat × Nat)
  deriving DecidableEq, Repr

/-- Rotate a trit: up is −1, 0, +1, −1; down is one place back (R66). -/
def rotate (down : Bool) (t : Int) : Int :=
  if down then (if t = -1 then 1 else t - 1) else (if t = 1 then -1 else t + 1)

/-- Decode the symbols of a row record from a column on (R67, R69); none when refused. -/
def deltaRow (cols : Nat) : Nat → Nat → List Nat → Option (List (Nat × Bool))
  | 0, _, l => if l.isEmpty then some [] else none
  | fuel + 1, pos, l =>
    match l with
    | [] => some []
    | s :: l =>
      if cols ≤ pos then none
      else if s = 7 then
        match l with
        | [] => none
        | e :: l => if cols < pos + 7 + e then none else deltaRow cols fuel (pos + 7 + e) l
      else if s = 15 then
        match l with
        | e0 :: e1 :: e2 :: l =>
          let p := pos + 23 + e0 + 16 * e1 + 256 * e2
          if cols < p then none else deltaRow cols fuel p l
        | _ => none
      else
        let p := pos + s % 8
        if cols ≤ p then none else (deltaRow cols fuel (p + 1) l).map fun r => (p, 8 ≤ s) :: r

/-- A number does not rise above the one before it. -/
def notAfter (prev : Option Nat) (n : Nat) : Bool :=
  match prev with
  | some p => n ≤ p
  | none => false

/-- Decode a number of row records; answers them and the bytes left (R68, R69). A record with symbol count 0 is refused: R68 counts symbols
from 1, and R69 does not name it (DESIGN CHOICE, log entry 154). -/
def deltaRows (rows cols : Nat) : Nat → Option Nat → List Byte → Option (List (Nat × List (Nat × Bool)) × List Byte)
  | 0, _, l => some ([], l)
  | n + 1, prev, l =>
    if l.length < 6 then none
    else
      let i := ofLe (l.take 4)
      let c := ofLe ((l.drop 4).take 2)
      let nb := cdiv c 2
      let l := l.drop 6
      if c = 0 || rows ≤ i || l.length < nb || notAfter prev i then none
      else match deltaRow cols c 0 ((nibbles (l.take nb)).take c) with
        | none => none
        | some ch => (deltaRows rows cols n (some i) (l.drop nb)).map fun r => ((i, ch) :: r.1, r.2)

/-- Decode a number of scale records (R68, R69). -/
def deltaScales (h : WHdr) : Nat → Option (Nat × Nat) → List Byte → Option (List (Nat × Nat × Nat))
  | 0, _, _ => some []
  | n + 1, prev, l =>
    if l.length < 8 then none
    else
      let i := ofLe (l.take 4)
      let g := ofLe ((l.drop 4).take 2)
      let c := ofLe ((l.drop 6).take 2)
      if h.rows ≤ i || h.groups ≤ g || !s8Valid h.eBase c || (match prev with
          | some (p, q) => i < p || (i == p && g ≤ q)
          | none => false) then none
      else (deltaScales h n (some (i, g)) (l.drop 8)).map fun r => (i, g, c) :: r

/-- Decode one tensor delta at the start of bytes, against the base's headers; answers it and its length (R68, R69). -/
def deltaTensor (hs : List WHdr) (l : List Byte) : Option (TDelta × Nat) :=
  if l.length < 24 then none
  else
    let w := ofLe (l.take 24)
    let t := fld w 0 31
    match hs[t]? with
    | none => none
    | some h =>
      let fmt := fld w 32 35
      let rb := fld w 128 159
      let merged : WHdr := { h with fmt := fmt }
      if fld w 40 63 != 0 || fld w 160 191 != 0 || !(fmt == 1 || fmt == 2) || l.length < 24 + rb ||
          (fmt == 2 && 4294967295 < merged.extent) then none
      else match deltaRows h.rows h.cols (fld w 64 95) none ((l.drop 24).take rb) with
        | some (rs, []) =>
          let at_ := 8 * cdiv (24 + rb) 8
          let ns := fld w 96 127
          if ns != 0 && l.length < at_ + 8 * ns then none
          else (deltaScales h ns none (l.drop at_)).map fun sc =>
            ({ tensor := t, fmt := fmt, cap := fld w 36 39, rows := rs, scales := sc }, if ns = 0 then 24 + rb else at_ + 8 * ns)
        | _ => none

/-- Decode a number of tensor deltas from an offset on: each starts at the next 8-byte boundary, gaps are zero, TENSOR rises
(R257). Answers them and the end. -/
def deltaTensors (hs : List WHdr) (l : List Byte) : Nat → Nat → Option Nat → Option (List TDelta × Nat)
  | 0, off, _ => some ([], off)
  | n + 1, off, prev =>
    let at_ := 8 * cdiv off 8
    if ((l.drop off).take (at_ - off)).any (· != 0) then none
    else match deltaTensor hs (l.drop at_) with
      | none => none
      | some (d, len) =>
        if notAfter prev d.tensor then none
        else (deltaTensors hs l n (at_ + len) (some d.tensor)).map fun r => (d :: r.1, r.2)

/-- Decode and verify a whole delta set (R257, R258 step 3); none for ST_DELTA_INVALID. -/
def deltaSet (hs : List WHdr) (l : List Byte) : Option (List TDelta) :=
  let w := ofLe (l.take 16)
  let n := fld w 32 47
  if l.length < 16 || n = 0 || fld w 48 63 != 0 || fld w 96 127 != 0 || l.length < fld w 64 95 then none
  else match deltaTensors hs (l.take (fld w 64 95)) n 16 none with
    | some (ds, e) => if e = fld w 64 95 then some ds else none
    | none => none

/-! ### The merged pages of a variant (R262) -/

/-- The merged trits of a row. -/
def mergedRow (rd : Nat → Nat → Nat) (h : WHdr) (d : TDelta) (i : Nat) : List Int :=
  let base := (rowTrits rd h i).getD (List.replicate h.cols 0)
  match d.rows.find? fun r => r.1 == i with
  | none => base
  | some r => r.2.foldl (fun l c => l.modify c.1 (rotate c.2)) base

/-- The merged S8 code of a row and group. -/
def mergedScale (rd : Nat → Nat → Nat) (h : WHdr) (d : TDelta) (i g : Nat) : Nat :=
  ((d.scales.find? fun x => x.1 == i && x.2.1 == g).map (·.2.2)).getD (scaleCode rd h i g)

/-- A header word with some fields replaced. -/
def whdrWord (h : WHdr) : Nat :=
  h.fmt + 16 * h.cap + 256 * h.sg + 2 ^ 16 * unsigned 8 h.eBase + 2 ^ 32 * h.rows + 2 ^ 64 * h.cols + 2 ^ 96 * h.data +
    2 ^ 144 * h.rowTable + 2 ^ 192 * h.scales

/-- The overlay form applies (R262): base and merged are both T5. -/
def overlayForm (h : WHdr) (d : TDelta) : Bool := h.fmt == 1 && d.fmt == 1

/-- The patches of a tensor in overlay form: addresses and new bytes. -/
def overlayPatches (rd : Nat → Nat → Nat) (hdrs : Nat) (h : WHdr) (d : TDelta) : List (Nat × List Byte) :=
  let n := t5RowBytes h.cols
  d.rows.map (fun r => (h.data + r.1 * n, t5Pack n (mergedRow rd h d r.1))) ++
    d.scales.map (fun x => (h.scales + 2 * (x.1 * h.groups + x.2.1), le 2 x.2.2)) ++
    (if d.cap = h.cap then [] else [(hdrs + 32 * d.tensor, le 32 (whdrWord { h with cap := d.cap }))])

/-- Pad bytes to whole pages with zeros. -/
def padPage (l : List Byte) : List Byte := l ++ List.replicate ((4096 - l.length % 4096) % 4096) 0

/-- The merged rows of a tensor as bytes, one list for each row (R262). -/
def rebuiltRows (rd : Nat → Nat → Nat) (h : WHdr) (d : TDelta) : List (List Byte) :=
  (List.range h.rows).map fun i =>
    let t := mergedRow rd h d i
    if d.fmt = 1 then t5Pack (t5RowBytes h.cols) t else packNibbles (tzRowSyms h.cols t)

/-- The row table of rows laid one after another (R42). -/
def rowOffsets (off : Nat) : List (List Byte) → List Nat
  | [] => [off]
  | r :: l => off :: rowOffsets (off + r.length) l

/-- A tensor in rebuilt form from an address on: its bytes, each area on whole pages, and its new header (R262). -/
def rebuiltTensor (rd : Nat → Nat → Nat) (h : WHdr) (d : TDelta) (addr : Nat) : List Byte × WHdr :=
  let rows := rebuiltRows rd h d
  let data := padPage rows.flatten
  let table := if d.fmt = 2 then padPage ((rowOffsets 0 rows).map (le 4)).flatten else []
  let codes := (List.range h.rows).map fun i => ((List.range h.groups).map fun g => le 2 (mergedScale rd h d i g)).flatten
  let scales := padPage codes.flatten
  let ta := addr + data.length
  (data ++ table ++ scales,
   { h with fmt := d.fmt, cap := d.cap, data := addr, rowTable := if d.fmt = 2 then ta else 0, scales := ta + table.length })

/-- All rebuilt tensors from DADDR on: their bytes and the patches of the header array. -/
def rebuiltAll (rd : Nat → Nat → Nat) (hdrs : Nat) (hs : List WHdr) : Nat → List TDelta → List Byte × List (Nat × List Byte)
  | _, [] => ([], [])
  | addr, d :: l =>
    match hs[d.tensor]? with
    | none => rebuiltAll rd hdrs hs addr l
    | some h =>
      if overlayForm h d then rebuiltAll rd hdrs hs addr l
      else
        let (bs, h') := rebuiltTensor rd h d addr
        let r := rebuiltAll rd hdrs hs (addr + bs.length) l
        (bs ++ r.1, (hdrs + 32 * d.tensor, le 32 (whdrWord h')) :: r.2)

/-- Apply patches to the bytes of a page at an address. -/
def patchPage (addr : Nat) (page : List Byte) (ps : List (Nat × List Byte)) : List Byte :=
  ps.foldl (fun l p => (p.2.zipIdx).foldl (fun l x =>
    let a := p.1 + x.2
    if addr ≤ a && a < addr + 4096 then l.set (a - addr) x.1 else l) l) page

/-- The page numbers that patches touch, increasing, each once. -/
def patchedPages (ps : List (Nat × List Byte)) : List Nat :=
  sortBy (fun a b => a ≤ b) ((ps.map fun p => pageRange p.1 p.2.length).flatten.eraseDups)

/-- The DERIVED pages of a generation in the order of its window (R262): rebuilt pages first, then the overlay pages by base
page. Each carries the base page it overlays, if any, and its bytes. -/
def derivedPages (rd : Nat → Nat → Nat) (hdrs daddr : Nat) (hs : List WHdr) (ds : List TDelta) :
    List (Option Nat × List Byte) :=
  let (bs, hp) := rebuiltAll rd hdrs hs daddr ds
  let ov := (ds.map fun d => match hs[d.tensor]? with
    | some h => if overlayForm h d then overlayPatches rd hdrs h d else []
    | none => []).flatten
  let ps := ov ++ hp
  let rebuilt := (List.range (bs.length / 4096)).map fun k => (none, (bs.drop (4096 * k)).take 4096)
  rebuilt ++ (patchedPages ps).map fun p =>
    (some p, patchPage (4096 * p) ((List.range 4096).map fun k => BitVec.ofNat 8 (rd (4096 * p + k) 1)) ps)

/-! ### The device's own delta encoder (R70) -/

/-- The symbols of one gap and its change. -/
def deltaGap : Nat → Nat → Bool → List Nat
  | fuel + 1, g, down =>
    if 4118 < g then
      let u := 4118 - 23
      [15, u % 16, u / 16 % 16, u / 256] ++ deltaGap fuel (g - 4118) down
    else if 23 ≤ g then
      let u := g - 23
      [15, u % 16, u / 16 % 16, u / 256, if down then 8 else 0]
    else if 7 ≤ g then [7, g - 7, if down then 8 else 0]
    else [(if down then 8 else 0) + g]
  | 0, g, down => [(if down then 8 else 0) + g % 7]

/-- The symbols of a row's changes (R70). -/
def deltaRowSyms (cols : Nat) : Nat → List (Nat × Bool) → List Nat
  | _, [] => []
  | pos, c :: l => deltaGap (cols + 1) (c.1 - pos) c.2 ++ deltaRowSyms cols (c.1 + 1) l

/-- The changes between two rows of trits (R66). -/
def rowChanges (base new : List Int) : List (Nat × Bool) :=
  ((base.zip new).zipIdx).filterMap fun x => if x.1.1 = x.1.2 then none else some (x.2, rotate true x.1.1 == x.1.2)

end Sys2Proof.Machine
end

