-- ==== Sys2Proof/Machine/Commands.lean ====
section
/-! DEFINITION. The opcodes of R377 and the length of each command's parameters (R373, R374, R376 order 2). -/

namespace Sys2Proof.Machine

/-- The opcodes with parameters of one length, and the length of the whole message, the 8-byte header included (R374,
R377). -/
def fixedLengths : List (Nat × Nat) :=
  [(0x0100, 36), (0x0101, 24), (0x0102, 12), (0x0103, 12), (0x0104, 56), (0x0105, 4128),
   (0x0200, 44), (0x0201, 44), (0x0202, 12), (0x0203, 13), (0x0204, 12), (0x0205, 12),
   (0x0311, 12), (0x0312, 12), (0x0313, 16),
   (0x0400, 56), (0x0401, 16), (0x0402, 16), (0x0403, 16), (0x0404, 12), (0x0405, 8),
   (0x0500, 72), (0x0501, 24), (0x0502, 12), (0x0503, 12), (0x0504, 12), (0x0505, 12), (0x0506, 12)] ++
  [(0x0600, 136), (0x0601, 9), (0x0602, 9), (0x0603, 136), (0x0610, 22), (0x0611, 20), (0x0612, 21), (0x0613, 16),
   (0x0614, 24), (0x0700, 14), (0x0701, 32), (0x0800, 12), (0x0801, 12),
   (0x0901, 8), (0x0902, 20), (0x0903, 1184), (0x0904, 9),
   (0x0A00, 8), (0x0A01, 16), (0x0A02, 24), (0x0A03, 9),
   (0x0B00, 72), (0x0B01, 40), (0x0B02, 8), (0x0C00, 14), (0x0C01, 14), (0x0C02, 12), (0x0C03, 16)]

/-- The opcodes whose parameters vary in length: REQ.SUBMIT, BASIN.HOSTS, TEST.ECHO, SEC.ATTEST (R310, R406, R377, R459). -/
def varOpcodes : List Nat := [0x0310, 0x0604, 0x0802, 0x0900]

/-- Whether the opcode is in the table (R376 order 1). -/
def opcodeKnown (op : Nat) : Bool := fixedLengths.any (fun p => p.1 == op) || varOpcodes.contains op

/-- Whether a message has the length its opcode asks for (R376 order 2). -/
def lengthOk (op : Nat) (m : List Byte) : Bool :=
  match fixedLengths.find? fun p => p.1 == op with
  | some p => m.length == p.2
  | none =>
    if op = 0x0310 then 72 ≤ m.length && m.length == 72 + 4 * ofLe ((m.drop 40).take 4)
    else if op = 0x0604 then 24 ≤ m.length && m.length == 24 + 16 * (byteAt m 16 + byteAt m 17 + byteAt m 18)
    else if op = 0x0802 then true
    else if op = 0x0900 then m.length == 40 || m.length == 41
    else false

/-- The longest message (R365). -/
def messageMax : Nat := 16777216

/-- What the first two checks of R376 say to a message: 0, or their status. A message of more than 16 MiB has no right length (R365, DESIGN
CHOICE, log entry 148). -/
def cmdBad (op : Nat) (m : List Byte) : Nat :=
  if !opcodeKnown op then stOpcodeUnknown else if messageMax < m.length || !lengthOk op m then stBadLength else 0

/-- Malformed messages at the front of the inbox are answered in their turn, while no reply waits for room (R370, R375, R376). -/
def answerBad (b : Nat) : Nat → State → State
  | 0, s => s
  | n + 1, s =>
    let l := linkOf s b
    match l.inbox with
    | c :: rest =>
      if c.bad = 0 || !l.rspWait.isEmpty then s
      else answerBad b n (reply (setLink s b fun l => { l with inbox := rest }) { basin := b, ctag := c.ctag, port := c.sender - 0x150 } c.opcode c.bad [])
    | [] => s

/-- Every basin's. -/
def answerBads (s : State) : State := (List.range 16).foldl (fun s b => answerBad b (linkOf s b).inbox.length s) s

/-- A whole CMD message reaches the management core as one runnel message of its port, stamped as it arrives (R365, R373, R410): it waits to
be started in its turn. -/
def deliverCmd (s : State) (b port : Nat) (auth : Bool) (m : List Byte) : State :=
  let op := ofLe (m.take 2)
  let (n, s) := takeRseq s (0x150 + port)
  let (type, len, data) := Config.cmdBuffer n
  let s := setLink s b fun l => { l with
    arrived := l.arrived + 1
    inbox := l.inbox ++ [{ opcode := op, ctag := ofLe ((m.drop 4).take 4), bytes := m, bad := cmdBad op m, auth := auth, order := l.arrived,
                           sender := 0x150 + port, rseq := n, time := s.now, type := type, len := len, data := data }] }
  answerBad b (linkOf s b).inbox.length s

/-- The kept entries of a basin's port-originated messages at the management core (R409). -/
def keptMessages : Nat := 4096

end Sys2Proof.Machine
end

