-- ==== Sys2Proof/Machine/Hash.lean ====
section
/-! DEFINITION. The digests the spec names: SHA-256 and HMAC-SHA-256 with the
counter-mode derivation (R450, R452). -/

namespace Sys2Proof.Machine

/-! ### SHA-256 (FIPS 180-4, named by R450) -/

abbrev W32 := BitVec 32

/-- The largest number of `n` bits above `r` whose `k`-th power is at most `x`. -/
def rootBits (k x : Nat) : Nat → Nat → Nat
  | 0, r => r
  | n + 1, r => rootBits k x n (if (r + 2 ^ n) ^ k ≤ x then r + 2 ^ n else r)

/-- The first 32 bits of the fraction of the `k`-th root of a number below 512. -/
def rootFraction (k p : Nat) : W32 := BitVec.ofNat 32 (rootBits k (p * 2 ^ (32 * k)) 37 0)

/-- The first 64 primes: below 324 a number without a divisor below 18 but itself is prime. -/
def shaPrimes : List Nat :=
  (List.range 312).filter fun n => 1 < n && (List.range 18).all fun d => d < 2 || d == n || n % d != 0

/-- The round constants are cube roots, and the initial hash is of square roots. -/
def shaK : List W32 := shaPrimes.map (rootFraction 3)
def shaInit : List W32 := (shaPrimes.take 8).map (rootFraction 2)

/-- The exclusive or of a word turned right by some distances. -/
def turned (x : W32) (l : List Nat) : W32 := l.foldl (fun y n => y ^^^ x.rotateRight n) 0

/-- Bits of `y` where `x` has ones, and of `z` elsewhere. -/
def choose (x y z : W32) : W32 := z ^^^ (x &&& (y ^^^ z))

/-- Bits that at least two of three words have. -/
def majority (x y z : W32) : W32 := (x &&& (y ||| z)) ||| (y &&& z)

/-- The message schedule, newest word first, grown by a number of words. -/
def shaSchedule : Nat → List W32 → List W32
  | 0, l => l.reverse
  | n + 1, l =>
    let back (i : Nat) : W32 := l.getD (i - 1) 0
    let small (i p q sh : Nat) : W32 := turned (back i) [p, q] ^^^ (back i >>> sh)
    shaSchedule n ((small 2 17 19 10 + back 7 + small 15 7 18 3 + back 16) :: l)

/-- One round. The eight working words are two histories of four, newest first: those that the standard calls a to d, and e to h. -/
def shaRound (v : List W32 × List W32) (kw : W32 × W32) : List W32 × List W32 :=
  let p (i : Nat) : W32 := v.1.getD i 0
  let q (i : Nat) : W32 := v.2.getD i 0
  let t := kw.1 + kw.2 + q 3 + choose (q 0) (q 1) (q 2) + turned (q 0) [6, 11, 25]
  ((t + turned (p 0) [2, 13, 22] + majority (p 0) (p 1) (p 2)) :: v.1.take 3, (p 3 + t) :: v.2.take 3)

/-- One block of 64 bytes. -/
def shaBlock (h : List W32) (blk : List Byte) : List W32 :=
  let first := (List.range 16).map fun i => BitVec.ofNat 32 (ofBe ((blk.drop (4 * i)).take 4))
  let (p, q) := (shaK.zip (shaSchedule 48 first.reverse)).foldl shaRound (h.take 4, h.drop 4)
  List.zipWith (· + ·) h (p ++ q)

def shaBlocks : Nat → List W32 → List Byte → List W32
  | 0, h, _ => h
  | n + 1, h, l => shaBlocks n (shaBlock h (l.take 64)) (l.drop 64)

/-- SHA-256 of a byte string, as 32 bytes. -/
def sha256 (m : List Byte) : List Byte :=
  let pad := (64 - (m.length + 9) % 64) % 64
  let l := m ++ [0x80] ++ List.replicate pad 0 ++ be 8 (8 * m.length)
  ((shaBlocks (l.length / 64) shaInit l).map fun w => be 4 w.toNat).flatten

/-- HMAC-SHA-256 under a key. -/
def hmac256 (key m : List Byte) : List Byte :=
  let k := if 64 < key.length then sha256 key else key
  let k := k ++ List.replicate (64 - k.length) 0
  sha256 (k.map (· ^^^ 0x5c) ++ sha256 (k.map (· ^^^ 0x36) ++ m))

/-- A 256-bit number from 32 bytes as stored, and back. -/
def word256 (l : List Byte) : BitVec 256 := BitVec.ofNat 256 (ofLe l)
def bytes256 (w : BitVec 256) : List Byte := le 32 w.toNat

/-- The bytes of a text of plain characters. -/
def asciiBytes (t : String) : List Byte := t.toList.map fun c => BitVec.ofNat 8 c.toNat

/-! ### Derivation (R452) -/

/-- Blocks of the counter-mode derivation of SP 800-108r1, counters from `i`. -/
def kdfBlocks (key body : List Byte) : Nat → Nat → List Byte
  | _, 0 => []
  | i, n + 1 => hmac256 key (be 4 i ++ body) ++ kdfBlocks key body (i + 1) n

/-- KDF of R452: counter, label, the zero byte, the context and the length in bits. -/
def kdf (key : List Byte) (label : String) (ctx : List Byte) (len : Nat) : List Byte :=
  (kdfBlocks key (asciiBytes label ++ [0] ++ ctx ++ be 4 (8 * len)) 1 (cdiv len 32)).take len

/-- A key derived from K_PUF (R452). -/
def pufKdf (label : String) (ctx : List Byte) (len : Nat) : List Byte := kdf (bytes256 Config.kPuf) label ctx len

/-- The seeds of the DevID key, of the alias key for M0 to M5, and of the transport key (R452). -/
def devIdSeeds : List Byte := pufKdf "devid" [] 48
def aliasSeeds (meas : List (BitVec 256)) : List Byte := pufKdf "alias" ((meas.take 6).map bytes256).flatten 48
def kemSeeds : List Byte := pufKdf "kem" [] 64

/-! ### The module's serial (R453) -/

/-- A number with bit 63 set. -/
def withBit63 (x : Nat) : Nat := x ||| 2 ^ 63

/-- Bytes 0 to 7 of SHA-256 of the DevID public key, with bit 63 set. -/
def moduleSerial : Nat := withBit63 (ofLe ((sha256 (bytes256 (Config.slhPublic devIdSeeds))).take 8))

/-- The MAC address of port En as its six octets (R453). -/
def portMac (n : Nat) : List Byte :=
  BitVec.ofNat 8 2 :: (le 4 moduleSerial ++ [BitVec.ofNat 8 (moduleSerial / 2 ^ 32 % 256 / 2 * 2 + n % 2)])

/-- The bytes on the wire of a frame that leaves (R355 to R358, R361). -/
def wireBytes (x : OutFrame) : List Byte := frameBytes (portMac x.port) x

end Sys2Proof.Machine
end

