-- ==== Sys2Proof/Machine/Regions.lean ====
section
/-! DEFINITION. Which pages of a basin belong to an object: a model, a variant's set, a program, the KV store or a training
object (R378, R381). -/

namespace Sys2Proof.Machine

/-- A page lies in a region of pages. -/
def inRegion (addr pages p : Nat) : Bool := addr / 4096 ≤ p && p < addr / 4096 + pages

/-- A page lies in a region of bytes. -/
def inBytes (addr len p : Nat) : Bool := 0 < len && addr / 4096 ≤ p && p ≤ (addr + len - 1) / 4096

/-- The page belongs to a model (R254). -/
def ofModel (s : State) (b p : Nat) : Bool := s.models.models.any fun m => m.basin == b && !m.unmapped && inRegion m.addr m.pages p

/-- The page belongs to a sealed model. -/
def ofSealed (s : State) (b p : Nat) : Bool :=
  s.models.models.any fun m => m.basin == b && m.sealed_ && !m.unmapped && inRegion m.addr m.pages p

/-- The generation sets of a variant whose regions it holds. -/
def genSets (v : Variant) : List GenSet := if v.unmapped then [] else v.cur :: v.old ++ v.pend.toList

/-- The page lies in a set region that a VARIANT.CREATE or VARIANT.UPDATE has named. -/
def ofSet (s : State) (b p : Nat) : Bool :=
  s.models.variants.any (fun v => v.basin == b && (genSets v).any fun g => inRegion g.set g.setPages p) ||
    s.models.verifies.any fun v => v.basin == b && inRegion v.gs.set v.gs.setPages p

/-- The page holds descriptors of a registered program (R307). -/
def ofProgram (s : State) (b p : Nat) : Bool :=
  s.models.programs.any fun q => q.basin == b &&
    inBytes (fld q.word.toNat 192 239) (64 * fld q.word.toNat 160 191) p

/-- The page lies in a CRC list that a VARIANT.CREATE or VARIANT.UPDATE has named: while the set is being verified, and in a MODEL page as
long as the generation lasts (R381, R559; DEDUCED, log entry 149). -/
def ofCrcList (s : State) (b p : Nat) : Bool :=
  let lists (g : GenSet) : Bool := g.crcs != 0 && inBytes g.crcs (8 * g.setPages) p
  s.models.verifies.any (fun v => v.basin == b && v.tid.isNone && lists v.gs) ||
    ((pageOf s b p).any fun e => e.kind == .model) && s.models.variants.any fun v => v.basin == b && (genSets v).any lists

/-- The page lies in the slot table of a registered program (R309, R381). -/
def ofSlotTable (s : State) (b p : Nat) : Bool :=
  s.models.programs.any fun q => q.basin == b && inBytes (fld q.word.toNat 256 303) (32 * fld q.word.toNat 64 79) p

/-- A host DATA write to the page is refused with ST_MODEL_SEALED (R381). -/
def dataSealed (s : State) (b p : Nat) : Bool := ofSealed s b p || ofSet s b p || ofProgram s b p || ofCrcList s b p || ofSlotTable s b p

end Sys2Proof.Machine
end

