-- ==== Sys2Proof/Machine/Kv.lean ====
section
/-! DEFINITION. The KV store of a basin: slots, page rows, the prefix trees, paused conversations, and the commands over them
(R274 to R304, R561). -/

namespace Sys2Proof.Machine

/-! ### The store and its configuration (R274, R276, R279) -/

def kvOf (s : State) (b : Nat) : Kv := s.kvs.getD b { cfg := kvCfgReset }

def setKv (s : State) (b : Nat) (f : Kv → Kv) : State := { s with kvs := s.kvs.modify b f }

/-- A field of a configuration record (R279). -/
def kvFld (k : Kv) (lo hi : Nat) : Nat := fld k.cfg.toNat lo hi

/-- DH of a code (R274). -/
def dhOf (code : Nat) : Nat := 64 * 2 ^ code

/-- Bytes of a summary record: 128, 192 or 320 (R126, R274). -/
def srecOf (dh : Nat) : Nat := 64 + dh

/-- Pages of a slot: ceil((272 × DH + SREC) / 4,096) (R274). -/
def slotPages (code : Nat) : Nat := cdiv (272 * dhOf code + srecOf (dhOf code)) 4096

/-- Pages of a slot of this store. -/
def kvSpan (k : Kv) : Nat := slotPages (kvFld k 0 1)

def hotSlots (k : Kv) : Nat := kvFld k 128 159
def c0Slots (k : Kv) : Nat := kvFld k 160 191
def bwSlots (k : Kv) : Nat := kvFld k 192 223

/-- First byte of a slot. -/
def slotAddr (k : Kv) (slot : Nat) : Nat := kvFld k 64 111 + 4096 * kvSpan k * slot

/-- The pages of a slot. -/
def slotPageList (k : Kv) (slot : Nat) : List Nat :=
  (List.range (kvSpan k)).map (· + slotAddr k slot / 4096)

/-- A page lies in the arena or the list area of the store (R276). -/
def inStore (k : Kv) (p : Nat) : Bool :=
  inRegion (kvFld k 64 111) ((hotSlots k + bwSlots k) * kvSpan k) p || inRegion (kvFld k 256 303) (kvFld k 320 351) p

/-! ### Rows (R275, R280) -/

def rowOf (k : Kv) (id : Nat) : Option Row := k.rows.find? fun r => r.id == id

def setRow (s : State) (b id : Nat) (f : Row → Row) : State :=
  setKv s b fun k => { k with rows := updW (fun r => r.id == id) f k.rows }

/-- The pages of a row. -/
def rowPages (k : Kv) (r : Row) : List Nat := (r.slots.map (slotPageList k)).flatten

/-- The row that holds a page. -/
def rowAtPage (k : Kv) (p : Nat) : Option Row :=
  let base := kvFld k 64 111 / 4096
  if p < base || kvSpan k = 0 then none else k.rows.find? fun r => r.slots.contains ((p - base) / kvSpan k)

/-! ### The fields of a request (R310) -/

def rFld (r : Request) (lo hi : Nat) : Nat := fld r.blk.toNat lo hi
def rVid (r : Request) : Nat := rFld r 32 63
def rCls (r : Request) : Nat := rFld r 64 65
def rFallback (r : Request) : Bool := rFld r 66 66 == 1
def rKeep (r : Request) : Bool := rFld r 67 67 == 1
def rSample (r : Request) : Bool := rFld r 68 68 == 1
def rTopk (r : Request) : Nat := rFld r 69 75
def rNstop (r : Request) : Nat := rFld r 76 79
def rTscale (r : Request) : Nat := rFld r 80 95
def rMaxnew (r : Request) : Nat := rFld r 96 111
def rConv (r : Request) : Nat := rFld r 128 191
def rDeadline (r : Request) : Nat := rFld r 192 255
def rStops (r : Request) : List Nat := (List.range (rNstop r)).map fun k => rFld r (320 + 32 * k) (351 + 32 * k)

/-- Live requests of a basin. -/
def liveReqs (s : State) (b : Nat) : List Request :=
  s.serving.requests.filter fun r => r.basin == b && r.state != .ended

/-- The refcount of a row (R280). -/
def rowRefs (s : State) (b id : Nat) : Nat :=
  ((liveReqs s b).filter fun r => r.rows.contains id).length + ((kvOf s b).convs.filter fun c => c.rows.contains id).length

/-- A row named by a running or queued request is hot (R280). -/
def rowHot (s : State) (b id : Nat) : Bool :=
  (liveReqs s b).any fun r => (r.state == .queued || r.state == .running) && r.rows.contains id

/-- Slots of rows that satisfy a test. -/
def slotsOf (p : Row → Bool) (k : Kv) : Nat := ((k.rows.filter p).map fun r => r.slots.length).sum

/-- A row takes HBM3E capacity: it is homed there or comes back to it. -/
def rowInHbm (r : Row) : Bool := r.tier == 1 || r.moving == some 1

/-- A row takes backwater capacity for good: it is homed there or on its way, and is not being cleared. What is being cleared there holds
its slots until it is clear: a move into LPDDR5X waits for them (R276, `rowEnters`). -/
def rowInBw (r : Row) : Bool := r.state != .clearing && (r.tier == 2 || r.moving == some 2)

/-- Slots of the general hot capacity in use (R295). -/
def genUsed (k : Kv) : Nat := slotsOf (fun r => rowInHbm r && !r.c0) k

/-- Free slots of the general hot capacity (R295). -/
def genFree (k : Kv) : Nat := hotSlots k - c0Slots k - genUsed k

/-- Slots booked for C0 requests (R295). -/
def c0Booked (s : State) (b : Nat) : Nat := ((liveReqs s b).map (·.c0Slots)).sum

/-- Slots of pad rows taken from C0_SLOTS (R309). -/
def c0Pads (k : Kv) : Nat := slotsOf (fun r => r.c0 && r.pad) k

/-- Slots in the backwater. -/
def bwUsed (k : Kv) : Nat := slotsOf rowInBw k

/-- Free slots, from a place onward: `n` of them. -/
def freeSlots (used : List Nat) (total n : Nat) : Nat → Nat → List Nat
  | 0, _ => []
  | fuel + 1, start =>
    if n = 0 || total = 0 then []
    else
      let x := start % total
      if used.contains x then freeSlots used total n fuel (start + 1)
      else x :: freeSlots (x :: used) total (n - 1) fuel (start + 1)

/-- Slots of the arena that hold mapped pages. -/
def busySlots (s : State) (b : Nat) (k : Kv) : List Nat :=
  let first := kvFld k 64 111 / 4096
  let n := kvSpan k
  ((s.tiers.pages.filter fun e => e.basin == b && first ≤ e.page && e.page < first + n * (hotSlots k + bwSlots k)).map
    fun e => (e.page - first) / n) ++ (k.rows.map (·.slots)).flatten

/-- Give a basin a new row of `n` slots, mapped with homes in HBM3E (R289): the slots are a free choice (log entry 7). The
caller has checked the capacity. Answers the row's identifier. -/
def newRow (s : State) (b n : Nat) (st : RState) (c0 pad : Bool) : Nat × State :=
  let (start, s) := drawPick s
  let k := kvOf s b
  let used := (busySlots s b k).eraseDups
  let sl := freeSlots used (hotSlots k + bwSlots k) n (used.length + n) start
  let id := k.nextRow
  let r : Row := { id := id, slots := sl, state := st, tier := 1, c0 := c0, pad := pad }
  let s := setKv s b fun k => { k with rows := k.rows ++ [r], nextRow := id + 1 }
  (id, mapPages s b .kv 1 (rowPages k r))

/-- A page of a row in CLEARING starts to be cleared, once no move of it is in progress (R205, R302). -/
def clearRowPage (s : State) (b p : Nat) : State :=
  match pageOf s b p with
  | none => s
  | some e =>
    if e.moving.isSome then s
    else
      let s := { s with tiers := { s.tiers with moves := dropW (fun m => m.basin == b && m.page == p) s.tiers.moves } }
      releaseFrame s b 0 e.homeT e.homeLoc

/-- A row enters CLEARING (R280); a page homed with a lender is given up at once. -/
def clearRow (s : State) (b id : Nat) : State :=
  match rowOf (kvOf s b) id with
  | none => s
  | some r =>
    if r.state == .clearing then s
    else
      let s := setRow s b id fun r => { r with state := .clearing }
      (rowPages (kvOf s b) r).foldl (fun s p =>
        if (pageOf s b p).any (fun e => e.homeT == 3) then unmapPage s b p else clearRowPage s b p) s

/-- The row's tier changes when the last of its pages has come (R275). A private row that comes back for a queued request is PRIVATE again
(R280, R293, R299), and a row that has left HBM3E leaves the part of it that C0 booked (R295). -/
def rowSettled (s : State) (b id : Nat) : State :=
  match rowOf (kvOf s b) id with
  | none => s
  | some r => match r.moving with
    | none => s
    | some t =>
      if (rowPages (kvOf s b) r).all fun q => (pageOf s b q).any fun e => (e.homeT == t || e.homeT == 3) && e.moving.isNone then
        setRow s b id fun r => { r with
          tier := t, moving := none, c0 := r.c0 && t == 1
          state := if t = 1 && (r.state == .paused || r.state == .suspended) && rowHot s b id then .priv else r.state }
      else s

/-- Ask for a row to move to a tier (R275): the moves of its pages wait under R226, in place of any that waited before. A page on its way
already goes on with that move first (R302). -/
def moveRow (s : State) (b id tier rank : Nat) : State :=
  match rowOf (kvOf s b) id with
  | none => s
  | some r =>
    if r.state == .clearing || (r.tier == tier && r.moving.isNone) then s
    else
      let s := setRow s b id fun r => { r with moving := some tier }
      let s := (rowPages (kvOf s b) r).foldl (fun s p =>
        let there := (pageOf s b p).any fun e => match e.moving with
          | some m => m.1 == tier
          | none => e.homeT == tier || e.homeT == 3
        if there then { s with tiers := { s.tiers with moves := dropW (fun m => !m.copy && m.basin == b && m.page == p) s.tiers.moves } }
        else askMove s b p tier rank) s
      rowSettled s b id

/-- A row waits to leave HBM3E and no page of it has begun to. -/
def rowWaits (s : State) (b : Nat) (r : Row) : Bool :=
  r.tier == 1 && r.moving == some 2 &&
    (rowPages (kvOf s b) r).all fun p => (pageOf s b p).any fun e => e.homeT == 1 && e.moving.isNone

/-- A row that waits to leave HBM3E and has not begun to stays there (R280, R302). -/
def keepHot (s : State) (b id : Nat) : State :=
  match rowOf (kvOf s b) id with
  | none => s
  | some r => if rowWaits s b r then moveRow s b id 1 1 else s

/-- A page of a row may start to move into LPDDR5X (R276): the row has begun to, or its slots fit beside what is homed there. -/
def rowEnters (s : State) (b p : Nat) : Bool :=
  let k := kvOf s b
  let inside (r : Row) : Bool := r.tier == 2 || (rowPages k r).any fun q => (pageOf s b q).any fun e => e.homeT == 2 || (e.moving.map (·.1)) == some 2
  match rowAtPage k p with
  | none => true
  | some r => inside r || slotsOf inside k + r.slots.length ≤ bwSlots k

/-! ### Nodes (R281 to R287) -/

def nodeOfRow (k : Kv) (row : Nat) : Option Node := k.nodes.find? fun n => n.row == row

def hasChild (k : Kv) (id : Nat) : Bool := k.nodes.any fun n => n.parent == some id

/-- An idle leaf in a tier, least recently adopted (R290, R292). -/
def idleLeaf (s : State) (b tier : Nat) : Option Node :=
  let k := kvOf s b
  let ok (n : Node) : Bool := rowRefs s b n.row == 0 && !hasChild k n.id &&
    (rowOf k n.row).any fun r => r.tier == tier && (r.moving.isNone || rowWaits s b r)
  (k.nodes.filter ok).foldl (fun best n => match best with
    | none => some n
    | some m => if n.adopted < m.adopted || (n.adopted == m.adopted && n.id < m.id) then some n else some m) none

/-- Remove a node and clear its row. -/
def freeNode (s : State) (b : Nat) (n : Node) : State :=
  clearRow (setKv s b fun k => { k with nodes := dropW (fun x => x.id == n.id) k.nodes }) b n.row

/-- Free idle leaves of a tier while a test asks for more. -/
def freeLeaves (s : State) (b tier : Nat) (more : State → Bool) : Nat → State
  | 0 => s
  | fuel + 1 =>
    if more s then
      match idleLeaf s b tier with
      | some n => freeLeaves (freeNode s b n) b tier more fuel
      | none => s
    else s

/-- The key of a page's tokens (R282). -/
def pageKey (toks : List Nat) : BitVec 128 := BitVec.ofNat 128 (ofLe ((sha256 ((toks.map (le 4)).flatten)).take 16))

/-- Close the trees of an identifier to adoption and publication (R287). -/
def closeTrees (s : State) (b vid : Nat) : State :=
  setKv s b fun k => { k with nodes := updW (fun n => n.vid == vid) (fun n => { n with closed := true }) k.nodes }

/-- What follows when refcounts have fallen (R287, R301): idle nodes of closed trees go, and SHARED rows that no node and
nobody names are cleared. -/
def sweepKv (s : State) (b : Nat) : State :=
  let s := ((kvOf s b).nodes.filter fun n => n.closed && rowRefs s b n.row == 0).foldl (fun s n => freeNode s b n) s
  ((kvOf s b).rows.filter fun r => r.state == .shared && (nodeOfRow (kvOf s b) r.id).isNone && rowRefs s b r.id == 0).foldl
    (fun s r => clearRow s b r.id) s

/-- Answer the flushes whose rows have all been cleared (R287, R377). -/
def settleFlush (s : State) (b : Nat) : State :=
  (kvOf s b).flushing.foldl (fun s f =>
    if f.2.2.any fun id => (rowOf (kvOf s b) id).isSome then s
    else
      let s := setKv s b fun k => { k with flushing := dropW (fun x => x.1 == f.1) k.flushing }
      answerDeferred s b (fun d => d.opcode == 0x0404 && d.obj == .ptree f.1) stOk [.u32 f.2.1]) s

/-- The clearing of a mapped page of a row is complete: it is unmapped, and a row with no page left is FREE (R280). -/
def kvPageCleared (s : State) (b p : Nat) : State :=
  let s := { s with tiers := { s.tiers with pages := dropW (fun e => e.basin == b && e.page == p) s.tiers.pages } }
  match rowAtPage (kvOf s b) p with
  | none => s
  | some r =>
    if r.state == .clearing && !((rowPages (kvOf s b) r).any fun q => pageMapped s b q) then
      settleFlush (setKv s b fun k => { k with rows := dropW (fun x => x.id == r.id) k.rows }) b
    else s

/-- A page of a row has moved (R275): a row being cleared goes on with that (R302); a page that has come to a tier the row no longer goes
to moves on. -/
def kvPageMoved (s : State) (b p : Nat) : State :=
  match rowAtPage (kvOf s b) p with
  | none => s
  | some r =>
    if r.state == .clearing then clearRowPage s b p
    else match r.moving with
      | none => s
      | some t =>
        let away := (pageOf s b p).any fun e => e.homeT != t
        if away && !moveOpen s b p then askMove s b p t 1 else rowSettled s b r.id

/-! ### Conversations (R297 to R300) -/

/-- The time-to-live clock: the low 32 bits of whole seconds (R298). -/
def ttlNow (s : State) : Nat := (s.now / 1000000000) % 2 ^ 32

/-- Second E of a conversation (R298). -/
def convEnd (c : Conv) : Nat := (c.pauseSec + c.ttl) % 2 ^ 32

/-- E has been reached, over a window of 2³¹ (R298). -/
def convDue (s : State) (c : Conv) : Bool := seqDist (convEnd c) (ttlNow s) < 2 ^ 31

/-- Remaining time to live in seconds. -/
def convLeft (s : State) (c : Conv) : Nat := if convDue s c then 0 else seqDist (ttlNow s) (convEnd c)

def convOf (s : State) (b c : Nat) : Option Conv := (kvOf s b).convs.find? fun x => x.conv == c

/-- A live request that holds the conversation (R297, R300). -/
def convTaken (s : State) (b c : Nat) : Option Request :=
  if c = 0 then none else (liveReqs s b).find? fun r => fld r.blk.toNat 128 191 == c

/-- End a paused conversation with a reason: 0 TTL, 1 RECLAIMED, 2 POISONED, 3 DROPPED, 4 VARIANT (R298, R304). A basin's
teardown raises none (R302, R415). -/
def endConv (s : State) (b c reason : Nat) : State :=
  match convOf s b c with
  | none => s
  | some x =>
    let mine := x.rows.filter fun id => (rowOf (kvOf s b) id).any fun r => r.state == .paused
    let s := setKv s b fun k => { k with
      convs := dropW (fun y => y.conv == c) k.convs
      gone := c :: dropW (· == c) k.gone
      stats := { k.stats with
        expiredTtl := if reason = 0 then sat 32 (k.stats.expiredTtl + 1) else k.stats.expiredTtl
        expiredReclaim := if reason = 1 then sat 32 (k.stats.expiredReclaim + 1) else k.stats.expiredReclaim } }
    let s := mine.foldl (fun s id => clearRow s b id) s
    let s := sweepKv s b
    let s := answerDeferred s b (fun d => d.opcode == 0x0402 && d.obj == .conv c) stKvExpired []
    if inTeardown s b then s else raise s srcCore evKvExpired [c, reason, mine.length] [b]

/-- Answer the KV.RESUME commands whose rows are all in HBM3E (R299, R377). -/
def settleResumes (s : State) (b : Nat) : State :=
  let back (c : Conv) : Bool := c.resuming && c.rows.all fun id => (rowOf (kvOf s b) id).any fun r => r.tier == 1 && r.moving.isNone
  ((kvOf s b).convs.filter back).foldl (fun s c =>
    let s := setKv s b fun k => { k with convs := updW (fun x => x.conv == c.conv) (fun x => { x with resuming := false }) k.convs }
    answerDeferred s b (fun d => d.opcode == 0x0402 && d.obj == .conv c.conv) stOk []) s

/-! ### Room in the backwater (R292) -/

/-- The paused conversation whose rows all lie in LPDDR5X with the shortest time to live, then the lower identifier. -/
def convByTtl (s : State) (b : Nat) (ok : Conv → Bool) : Option Conv :=
  ((kvOf s b).convs.filter ok).foldl (fun best c => match best with
    | none => some c
    | some d =>
      let l := convLeft s c
      let m := convLeft s d
      if l < m || (l == m && c.conv < d.conv) then some c else some d) none

/-- All rows of a conversation lie in LPDDR5X. -/
def convInLpx (s : State) (b : Nat) (c : Conv) : Bool :=
  !c.resuming && c.rows.all fun id => (rowOf (kvOf s b) id).any fun r => r.tier == 2 && r.moving.isNone

/-- End conversations while a test asks for more room. -/
def endForRoom (s : State) (b : Nat) (more : State → Bool) : Nat → State
  | 0 => s
  | fuel + 1 =>
    if more s then
      match convByTtl s b (convInLpx s b) with
      | some c => endForRoom (endConv s b c.conv 1) b more fuel
      | none => s
    else s

/-- Backwater slots that R292 could give. -/
def bwCan (s : State) (b : Nat) : Nat :=
  let k := kvOf s b
  let idle (r : Row) : Bool := rowInBw r && r.state == .shared && rowRefs s b r.id == 0
  let conv (r : Row) : Bool := r.state == .paused && k.convs.any fun c => convInLpx s b c && c.rows.contains r.id
  bwSlots k - bwUsed k + slotsOf (fun r => idle r || conv r) k

/-- Make room for `n` slots in the backwater (R292): idle leaves there, then conversations; nothing when the room cannot be
made. Answers whether it is there. -/
def bwRoom (s : State) (b n : Nat) : Bool × State :=
  let short (s : State) : Bool := bwSlots (kvOf s b) < bwUsed (kvOf s b) + n
  if !short s then (true, s)
  else if bwCan s b < n then (false, s)
  else
    let s := freeLeaves s b 2 short (kvOf s b).nodes.length
    let s := endForRoom s b short (kvOf s b).convs.length
    (!short s, s)

/-- Slots of rows. -/
def rowSlots (k : Kv) (ids : List Nat) : Nat := (ids.map fun id => ((rowOf k id).map fun r => r.slots.length).getD 0).sum

/-- Move rows to LPDDR5X where the backwater has or gets room (R291, R292, R297): those in HBM3E or on their way back to it. Rows that wait
to leave already are asked again where the new rank goes ahead (R291 stage 1). -/
def rowsOut (s : State) (b rank : Nat) (ids : List Nat) : Bool × State :=
  let k := kvOf s b
  let out := ids.filter fun id => (rowOf k id).any fun r => r.state != .clearing && (r.tier == 1 || r.moving == some 1)
  match bwRoom s b (rowSlots k (out.filter fun id => (rowOf k id).any fun r => !rowInBw r)) with
  | (false, s) => (false, s)
  | (true, s) => (true, out.foldl (fun s id => moveRow s b id 2 rank) s)

/-! ### The list area (R561) -/

/-- Pages of a page list and of a summary array of `np` pages, for one layer (R561). -/
def listPages (k : Kv) (heads np : Nat) : Nat × Nat :=
  (cdiv (np * heads * 16) 4096, cdiv (np * heads * srecOf (dhOf (kvFld k 0 1))) 4096)

/-- The arrays of a booking for a context, in pages: for each layer a page list and a summary array (R561). -/
def bookShape (k : Kv) (layers heads ctx : Nat) : List Nat :=
  let (a, b) := listPages k heads (cdiv ctx 256)
  (List.replicate layers [a, b]).flatten

/-- First page of the second part of the list area, and its pages (R561). -/
def listPart (k : Kv) : Nat × Nat :=
  let n := cdiv (kvFld k 224 255 * 1088) 4096
  (kvFld k 256 303 / 4096 + n, kvFld k 320 351 - n)

/-- The booked ranges of the list area, of requests, of pad rows and of conversations but one. -/
def bookings (s : State) (b skip : Nat) : List (Nat × Nat) :=
  (((liveReqs s b).map (·.book)).flatten ++
    ((s.serving.groups.filter fun g => g.basin == b && g.padRow.isSome).map (·.padBook)).flatten ++
    (((kvOf s b).convs.filter fun c => c.conv != skip).map (·.book)).flatten).filter fun x => x.2 != 0

/-- The lowest place among ranges of a part (first page, pages) where an array of `n` pages fits. -/
def arrayAt (part : Nat × Nat) (bs : List (Nat × Nat)) (n : Nat) : Option Nat :=
  let fit (p : Nat) : Bool := part.1 ≤ p && p + n ≤ part.1 + part.2 && bs.all fun x => x.1 + x.2 ≤ p || p + n ≤ x.1
  if n = 0 then some part.1
  else ((part.1 :: bs.map fun x => x.1 + x.2).filter fit).foldl (fun best p => match best with
    | none => some p
    | some q => some (min q p)) none

/-- Book arrays of a list area, each in whole consecutive pages (R125, R561). The pages that are unbooked need not lie together. -/
def bookArrays (part : Nat × Nat) (bs : List (Nat × Nat)) : List Nat → Option (List (Nat × Nat))
  | [] => some []
  | n :: l => match arrayAt part bs n with
    | none => none
    | some p => (bookArrays part ((p, n) :: bs) l).map fun r => (p, n) :: r

/-- A booking of a context in the unbooked part of a basin's list area, none where it does not fit (R561). -/
def bookingAt (s : State) (b skip layers heads ctx : Nat) : Option (List (Nat × Nat)) :=
  let k := kvOf s b
  bookArrays (listPart k) ((bookings s b skip).filter fun x => x.2 != 0) (bookShape k layers heads ctx)

/-- A booking cut to what a context uses (R561): each array keeps its first pages. -/
def bookCut (k : Kv) (layers heads ctx : Nat) (book : List (Nat × Nat)) : List (Nat × Nat) :=
  (book.zip (bookShape k layers heads ctx)).map fun x => (x.1.1, min x.1.2 x.2)

/-- A page of the list area lies in a booking. -/
def inBook (book : List (Nat × Nat)) (p : Nat) : Bool := book.any fun x => x.1 ≤ p && p < x.1 + x.2

/-- Address of a layer's page list and of its summary array in a booking (R561). -/
def listAt (book : List (Nat × Nat)) (layer : Nat) : Nat × Nat :=
  (4096 * (book.getD (2 * layer) (0, 0)).1, 4096 * (book.getD (2 * layer + 1) (0, 0)).1)

/-! ### Commands (R278, R377) -/

/-- The record names a change other than TTL_S. -/
def kvMoreThanTtl (old new : BitVec 384) : Bool :=
  let m : BitVec 384 := BitVec.ofNat 384 (0xFFFFFFFF * 2 ^ 32)
  (old &&& ~~~m) != (new &&& ~~~m)

/-- The checks of KV.CONFIGURE in order (R279); ST_OK when all pass. -/
def kvCfgCheck (s : State) (b : Nat) (rec : BitVec 384) : Nat :=
  let k := kvOf s b
  let n : Kv := { cfg := rec }
  let f := kvFld n
  let arena := (hotSlots n + bwSlots n) * kvSpan n
  let taken (addr pages : Nat) : Bool := 0 < pages && s.tiers.pages.any fun e =>
    e.basin == b && inRegion addr pages e.page && !(e.kind == .kv && inStore k e.page)
  if f 3 31 != 0 || f 112 127 != 0 || f 304 319 != 0 || f 352 383 != 0 || f 0 1 == 3 || f 32 63 < 1 || 604800 < f 32 63 ||
      hotSlots n < c0Slots n || f 64 111 % 4096 != 0 || f 256 303 % 4096 != 0 || 4096 * f 320 351 < 1088 * f 224 255 then stDescInvalid
  else if (arena != 0 && !inTiered (f 64 111) (4096 * arena)) || (f 320 351 != 0 && !inTiered (f 256 303) (4096 * f 320 351)) then
    stIndexRange
  else if !disjoint' (f 64 111) (4096 * arena) (f 256 303) (4096 * f 320 351) || taken (f 64 111) arena || taken (f 256 303) (f 320 351) then
    stDescInvalid
  else if kvMoreThanTtl k.cfg rec && k.rows.any (fun r => !r.pad) then stKvBusy
  else
    let out (t : Nat) : Nat := (s.tiers.pages.map fun e => if e.basin == b && e.kind != .kv then
      b2n (e.homeT == t) + b2n (t == 1 && e.copy.isSome) + b2n ((e.moving.map (·.1)) == some t && e.homeT != t) else 0).sum
    if hbmQuota s b < out 1 + hotSlots n * kvSpan n + f 320 351 || lpxQuota s b < out 2 + bwSlots n * kvSpan n then stMemQuota
    else stOk
where
  disjoint' (a n c m : Nat) : Bool := n = 0 || m = 0 || a + n ≤ c || c + m ≤ a

/-- A new booking for each live request after a new list area (log entry 22). -/
def rebook (s : State) (b : Nat) : State :=
  (liveReqs s b).foldl (fun s r =>
    let put (book : List (Nat × Nat)) (s : State) : State := { s with serving := { s.serving with
      requests := updW (fun x => x.basin == b && x.tag == r.tag) (fun x => { x with book := book }) s.serving.requests } }
    let s := put [] s
    put ((bookingAt s b 0 r.layers r.heads (r.start + r.prompt.length + rMaxnew r)).getD []) s) s

/-- KV.CONFIGURE (R279): checked in order; more than a new TTL_S maps the new list area and releases every pad row. -/
def execKvConfigure (h : Hdr) (rec : BitVec 384) (s : State) : Res :=
  hostCmd s h 0x0400 false none (.kvConfigure h rec) fun s =>
    let b := h.basin
    let st := kvCfgCheck s b rec
    if st != stOk then reply s h 0x0400 st []
    else
      let k := kvOf s b
      let s :=
        if kvMoreThanTtl k.cfg rec then
          let old := (s.tiers.pages.filter fun e => e.basin == b && e.kind == .kv).map (·.page)
          let s := unmapPages s b old
          let s := { s with serving := { s.serving with
            groups := updW (fun g => g.basin == b) (fun g => { g with padRow := none, padBook := [] }) s.serving.groups } }
          let s := setKv s b fun k => { k with cfg := rec, rows := [], nodes := [] }
          let la := kvFld (kvOf s b) 256 303 / 4096
          rebook (mapPages s b .kv 1 ((List.range (kvFld (kvOf s b) 320 351)).map (· + la))) b
        else setKv s b fun k => { k with cfg := rec }
      reply (setKv s b fun k => { k with stats := {} }) h 0x0400 stOk []

/-- ROWS_HBM, ROWS_LPX and SHARED_NAMED of a list of rows (R377). -/
def rowCounts (k : Kv) (ids : List Nat) : Nat × Nat × Nat :=
  let rs := ids.filterMap (rowOf k)
  ((rs.filter fun r => r.state != .shared && r.tier == 1).length, (rs.filter fun r => r.state != .shared && r.tier == 2).length,
    (rs.filter fun r => r.state == .shared).length)

/-- The status for an identifier that names no conversation (R299). -/
def convMissing (s : State) (b c : Nat) : Nat := if (kvOf s b).gone.contains c then stKvExpired else stKvUnknown

/-- KV.QUERY (R278, R377): STATE 1 RESUMING while a KV.RESUME is open, or while rows of a conversation that a request has taken over are
still on their way to HBM3E (R299). -/
def execKvQuery (h : Hdr) (conv : Nat) (s : State) : Res :=
  hostCmd s h 0x0401 false none (.kvQuery h conv) fun s =>
    let k := kvOf s h.basin
    let ans (st : Nat) (ids : List Nat) (left : Nat) : State :=
      let c := rowCounts k ids
      reply s h 0x0401 stOk [.u8 st, .u32 c.1, .u32 c.2.1, .u32 c.2.2, .u32 left]
    let back (ids : List Nat) : Bool := ids.all fun id => (rowOf k id).any fun r => r.tier == 1 && r.moving.isNone
    match convOf s h.basin conv, convTaken s h.basin conv with
    | some c, _ => ans (b2n c.resuming) c.rows (convLeft s c)
    | none, some r => ans (if r.state == .queued && !back r.rows then 1 else 2) r.rows 0
    | none, none => reply s h 0x0401 (convMissing s h.basin conv) []

/-- KV.DROP (R300): ends a paused conversation, unless it is being resumed or has been taken over. -/
def execKvDrop (h : Hdr) (conv : Nat) (s : State) : Res :=
  let b := h.basin
  let busy := (convOf s b conv).any (·.resuming) || (convTaken s b conv).isSome
  hostCmd s h 0x0403 false (if busy then none else some (.conv conv)) (.kvDrop h conv) fun s =>
    if busy then reply s h 0x0403 stKvBusy []
    else match convOf s b conv with
      | none => reply s h 0x0403 (convMissing s b conv) []
      | some _ => reply (endConv s b conv 3) h 0x0403 stOk []

/-- KV.PREFIX_FLUSH (R287): every idle node of the variant, or of all, is freed; the reply follows the clearing. -/
def execKvPrefixFlush (h : Hdr) (vid : Nat) (s : State) : Res :=
  hostCmd s h 0x0404 false (some (.ptree vid)) (.kvPrefixFlush h vid) fun s =>
    let b := h.basin
    let ns := (kvOf s b).nodes.filter fun n => (vid == 0 || n.vid == vid) && rowRefs s b n.row == 0
    let s := ns.foldl (fun s n => freeNode s b n) s
    if ns.isEmpty then reply s h 0x0404 stOk [.u32 0]
    else
      let s := setKv s b fun k => { k with flushing := k.flushing ++ [(vid, ns.length, ns.map (·.row))] }
      let s := deferCmd s { h := h, opcode := 0x0404, obj := .ptree vid }
      settleFlush s b

/-- The accounting record (R303). -/
def kvStatsWord (s : State) (b : Nat) : Nat :=
  let k := kvOf s b
  let idle := (k.nodes.filter fun n => rowRefs s b n.row == 0).length
  let susp := ((liveReqs s b).filter fun r => r.state == .suspended).length
  slotsOf (fun r => r.tier == 1) k + 2 ^ 32 * c0Booked s b + 2 ^ 64 * slotsOf (fun r => r.tier == 2) k +
    2 ^ 96 * (k.rows.filter fun r => r.state == .shared).length + 2 ^ 128 * idle + 2 ^ 160 * k.convs.length +
    2 ^ 192 * sat 16 susp + 2 ^ 256 * k.stats.hits + 2 ^ 320 * k.stats.misses + 2 ^ 352 * k.stats.collisions +
    2 ^ 384 * k.stats.expiredTtl + 2 ^ 416 * k.stats.expiredReclaim + 2 ^ 448 * k.stats.cacheWaits

/-- KV.STATS (R303). -/
def execKvStats (h : Hdr) (s : State) : Res :=
  hostCmd s h 0x0405 false none (.kvStats h) fun s => reply s h 0x0405 stOk [.record 64 (kvStatsWord s h.basin)]

/-- KV_TTL_CHECK (R298): at a whole second, every conversation whose E has been reached ends, but not one whose rows a
KV.RESUME started anew. -/
def execKvTtlCheck (s : State) : Res :=
  if s.now % 1000000000 != 0 then .next s
  else .next ((List.range 16).foldl (fun s b =>
    ((kvOf s b).convs.filter (convDue s)).foldl (fun s c => endConv s b c.conv 0) s) s)

end Sys2Proof.Machine
end

