-- ==== Sys2Proof/Machine/Pools.lean ====
section
/-! DEFINITION. The pools: granules and their owners, jobs, the pool aperture, and the clearing of granules (R183 to R188,
R205 to R213, R562). -/

namespace Sys2Proof.Machine

/-! ### Granules (R183 to R185) -/

/-- Granules are numbered through the pools: 16 for each reach, 64 for each tributary, 256 for each trunk bank (R183). -/
def granCount : Nat := 6144

/-- The granules of a pool: pools 0 to 255 are the reaches', 256 to 271 the tributaries', 272 to 275 the trunk banks'. -/
def poolGrans (pool : Nat) : List Nat :=
  if pool < 256 then (List.range 16).map (· + 16 * pool)
  else if pool < 272 then (List.range 64).map (· + (4096 + 64 * (pool - 256)))
  else (List.range 256).map (· + (5120 + 256 * (pool - 272)))

/-- The pool that holds a granule. -/
def poolOf (g : Nat) : Nat :=
  if g < 4096 then g / 16 else if g < 5120 then 256 + (g - 4096) / 64 else 272 + (g - 5120) / 256

/-- The power domain of a pool (R183, R27): the reach, the tributary common, the trunk segment. -/
def poolDomain (pool : Nat) : Nat := if pool < 272 then pool else 366 + (pool - 272)

/-- The granule's entry: FREE and unowned when none is listed. -/
def granOf (s : State) (g : Nat) : Gran := (s.pools.grans.find? fun x => x.g == g).getD { g := g, state := .free }

/-- Set a granule's state and owner; a FREE granule is not listed. -/
def setGran (s : State) (g : Nat) (st : GState) (basin job : Nat) : State :=
  let rest := dropW (fun x => x.g == g) s.pools.grans
  { s with pools := { s.pools with grans := if st == .free then rest else rest ++ [{ g := g, state := st, basin := basin, job := job }] } }

/-! ### Jobs (R562) -/

def jobOf (s : State) (b n : Nat) : Option Job := s.pools.jobs.find? fun j => j.basin == b && j.num == n

def setJob (s : State) (b n : Nat) (f : Job → Job) : State :=
  { s with pools := { s.pools with jobs := updW (fun j => j.basin == b && j.num == n) f s.pools.jobs } }

/-! ### The pool aperture (R212, R213) -/

/-- The slot of a pool-aperture address and the offset in it: slots 0 to 255 by reach position, 256 to 271 by logical
tributary, 272 to 275 by trunk bank. -/
def slotOf (addr : Nat) : Option (Nat × Nat) :=
  if addr < 0x10000000 then some (addr / 0x100000, addr % 0x100000)
  else if addr < 0x14000000 then some (256 + (addr - 0x10000000) / 0x400000, (addr - 0x10000000) % 0x400000)
  else if addr < 0x18000000 then some (272 + (addr - 0x14000000) / 0x1000000, (addr - 0x14000000) % 0x1000000)
  else none

/-- The granule of a job at a pool-aperture address (R213). -/
def granAtAddr (s : State) (b n addr : Nat) : Option Nat :=
  match slotOf addr, jobOf s b n with
  | some (sl, off), some j => ((j.slots.find? fun x => x.1 == sl).bind fun x => x.2[off / 65536]?)
  | _, _ => none

/-- The lowest job number of 1 to 4,095 that no live job of the basin holds (R562). -/
def nextJobNum (s : State) (b : Nat) : Option Nat :=
  ((List.range 4095).map (· + 1)).find? fun n => !(s.pools.jobs.any fun j => j.basin == b && j.num == n)

/-- Open a job (R562). Answers its number, 0 when none is left. -/
def openJob (s : State) (b : Nat) (cls gid : Nat) : Nat × State :=
  match nextJobNum s b with
  | none => (0, s)
  | some n => (n, { s with pools := { s.pools with jobs := s.pools.jobs ++
      [{ basin := b, num := n, cls := cls, gid := gid }] } })

/-- The granules a job holds: those of its slots and of its save area (R213, R323). -/
def jobGrans (j : Job) : List Nat := ((j.slots ++ j.save).map (·.2)).flatten

/-- A job is live: neither killed nor closed. -/
def jobLive (j : Job) : Bool := !j.killAsked && j.killed.isNone && !j.closed

/-- The granules of a job that are still listed as its own. -/
def jobHeld (s : State) (b n : Nat) : List Nat :=
  (s.pools.grans.filter fun x => x.basin == b && x.job == n && (x.state == .owned || x.state == .clearing)).map (·.g)

/-- The aperture address of a slot's first byte (R212). -/
def slotBase (sl : Nat) : Nat :=
  if sl < 256 then 0x100000 * sl else if sl < 272 then 0x10000000 + 0x400000 * (sl - 256) else 0x14000000 + 0x1000000 * (sl - 272)

/-- The aperture address at which a job's granule appears (R184, R213). -/
def granAddr (s : State) (b n g : Nat) : Option Nat :=
  (jobOf s b n).bind fun j => j.slots.findSome? fun x => (x.2.findIdx? (· == g)).map fun k => slotBase x.1 + 65536 * k

/-- A firmware region lies over a granule of its job (R187). -/
def regionOver (s : State) (b n g : Nat) (r : Region) : Bool :=
  r.basin == b && r.job == n && (granAddr s b n g).any fun a => r.base < a + 65536 && a < r.bound

/-- Every firmware region over a granule is revoked (R188). -/
def revokeOver (s : State) (b n g : Nat) : State :=
  { s with pools := { s.pools with regions := dropW (regionOver s b n g) s.pools.regions } }

/-- Every firmware region of a job is revoked (R188, R210 step 4). -/
def revokeJob (s : State) (b n : Nat) : State :=
  { s with pools := { s.pools with regions := dropW (fun r => r.basin == b && r.job == n) s.pools.regions } }

/-- A granule enters CLEARING with its owner, so that it can return to the job that still holds it (R185). Firmware regions
over it are revoked first (R188); a FENCED granule stays fenced (R208). -/
def clearGran (s : State) (g : Nat) : State :=
  let x := granOf s g
  if x.state == .fenced || x.state == .clearing then s else setGran (revokeOver s x.basin x.job g) g .clearing x.basin x.job

/-- Windows of a job that are open or closing. -/
def jobWindows (s : State) (b n : Nat) : List Window := s.pools.windows.filter fun w => w.basin == b && w.job == n

/-- Begin to close windows (R203). -/
def closeWindows (s : State) (p : Window → Bool) : State :=
  let ws := updW (fun w => p w && w.closing.isNone) (fun w => { w with closing := some s.now }) s.pools.windows
  { s with pools := { s.pools with windows := ws } }

/-- All granules of a job enter CLEARING, unless a window of the job is still open or closing (R203, R210 step 5). -/
def clearJob (s : State) (b n : Nat) : State :=
  if (jobWindows s b n).isEmpty then
    (s.pools.grans.filter fun x => x.basin == b && x.job == n && x.state == .owned).foldl (fun s x => clearGran s x.g) s
  else s

/-- A job's granule is to enter CLEARING: at once, or, where windows of the job are open or closing, when they have closed, with the
units that they have accepted done (R203). Until then the granule is reached no more. -/
def clearSoon (s : State) (g : Nat) : State :=
  let x := granOf s g
  if x.state != .owned || (jobWindows s x.basin x.job).isEmpty then clearGran s g
  else
    let s := closeWindows s fun w => w.basin == x.basin && w.job == x.job
    setJob (revokeOver s x.basin x.job g) x.basin x.job fun j => { j with toClear := dropW (· == g) j.toClear ++ [g] }

/-- A pool's power domain has gone or woken: its granules enter CLEARING (R185, R188, R203, R209). -/
def clearPool (s : State) (p : Nat) (all_ : Bool) : State :=
  ((poolGrans p).filter fun g => all_ || (granOf s g).state == .owned).foldl clearSoon s

/-- The poisoned WORK and TRAIN pages of a job that ends are freed (R236). -/
def freeNamed (s : State) (j : Job) : State :=
  unmapPages s j.basin ((j.named ++ j.poisoned).eraseDups.filter fun p => !pinned s j.basin p && (pageOf s j.basin p).any (·.poison))

/-- A job that has ended, whose granules have all been cleared and that raises no JOB.CLEARED, gives up its number. -/
def dropClosedJob (s : State) (b n : Nat) : State :=
  match jobOf s b n with
  | none => s
  | some j =>
    if j.closed && j.killed.isNone && !j.killAsked && (jobHeld s b n).isEmpty && (jobWindows s b n).isEmpty &&
        !(s.steps.any fun t => t.basin == b && t.job == n) then
      let s := freeNamed s j
      { s with pools := { s.pools with jobs := dropW (fun j => j.basin == b && j.num == n) s.pools.jobs } }
    else s

/-- A job closes: its stream has ended (R562). Its windows close and its granules are cleared (R203, R205). -/
def closeJob (s : State) (b n : Nat) : State :=
  let s := setJob s b n fun j => { j with closed := true }
  if s.steps.any fun t => t.basin == b && t.job == n then s
  else
    let s := closeWindows s fun w => w.basin == b && w.job == n
    dropClosedJob (clearJob s b n) b n

/-- A cause of R210 ends a job with a status: its steps stop at once, and JOB_KILL takes it from there. The end is a fault
record (R527). -/
def endJob (s : State) (b n status : Nat) : State :=
  match jobOf s b n with
  | none => s
  | some j =>
    if j.killAsked || j.killed.isSome then s
    else
      let s := setJob s b n fun j => { j with killAsked := true, status := status }
      let stop : Step → Step := fun t => { t with stopped := true, status := if t.status = 0 then status else t.status }
      let s := { s with steps := updW (fun t => t.basin == b && t.job == n) stop s.steps }
      if status = 0 then s else otherFaultRecord s 1 srcCore status (some b) n 0 0 0 0

/-- Steps 2 to 5 of R210: the units stop, windows close, regions are revoked, and clearing starts. -/
def killJob (s : State) (b n : Nat) : State :=
  let s := setJob s b n fun j => { j with killed := some s.now }
  let s := closeWindows s fun w => w.basin == b && w.job == n
  clearJob (revokeJob s b n) b n

/-- The place in memory of a job's byte in the aperture: only a granule OWNED by the job is reached (R186). -/
def poolPlace (s : State) (b n addr : Nat) : Option Nat :=
  match granAtAddr s b n addr with
  | none => none
  | some g =>
    let x := granOf s g
    let leaving := (jobOf s b n).any fun j => j.toClear.contains g
    if x.state == .owned && x.basin == b && x.job == n && !leaving then some (granAt g + addr % 65536) else none

/-! ### Fencing (R2, R208, R512) -/

/-- The fenced-items record of the store (type 0x41): reaches, then granules as 256 + number. -/
def storeFences (s : State) : State :=
  let gs := (s.pools.grans.filter fun x => x.state == .fenced).map fun x => 256 + x.g
  let l := s.boot.fenced ++ gs
  storePut s { type := 0x41, index := 0, len := 8 * l.length, seq := 0, payload := l }

/-- Reaches in service: 256 less the fenced ones (R2). -/
def reachesLive (s : State) : Nat := 256 - s.boot.fenced.length

/-- The basin that owns a reach: by REACHES or by TRIBS of its record (R397). -/
def reachOwner (s : State) (r : Nat) : Option Nat :=
  (s.basins.find? fun x => bitAt x.word.toNat (192 + r) || bitAt x.word.toNat (128 + r / 16)).map (·.id)

/-- A granule is FENCED: no job holds it, and nothing reaches it again (R185, R208). -/
def fenceGran (s : State) (g : Nat) : State :=
  let x := granOf s g
  let s := if x.state == .owned then revokeOver s x.basin x.job g else s
  let lose : Job → Job := fun j => { j with
    slots := j.slots.map fun q => (q.1, dropW (· == g) q.2), toClear := dropW (· == g) j.toClear }
  setGran { s with pools := { s.pools with jobs := s.pools.jobs.map lose } } g .fenced 0 0

/-- A reach is fenced (R2) with the granules of its pool, which is held off and never cleared again (R209, log entry 120): recorded, held off, reported by REACH.FENCED with the cause (0 BIST, 1 CLEAR, 2 COMMON) and the
reaches now live. -/
def fenceReach (s : State) (r cause : Nat) : State :=
  if s.boot.fenced.contains r then s
  else
    let s := { s with boot := { s.boot with fenced := s.boot.fenced ++ [r] } }
    let s := holdDomain s r
    let s := (poolGrans r).foldl fenceGran s
    let s := storeFences s
    let s := raise s srcStewipen evReachFenced [r, cause, reachesLive s] ((reachOwner s r).toList)
    otherFaultRecord s 5 (srcReach r) 0 (reachOwner s r) 0 r 0 cause 0

/-! ### The events of clearing -/

/-- The source that reports for a pool: its reach, its tributary's steward, its trunk segment (R384). -/
def poolSrc (pool : Nat) : Nat :=
  if pool < 256 then srcReach pool else if pool < 272 then srcSteward (pool - 256) else srcTrunk (pool - 272)

/-- GRANULE_CLEAR_COMPLETE (R206, R208): a cleared granule is FREE, or OWNED by the job that holds it or that it was assigned to meanwhile; one
that fails its verification is FENCED, and a failure in a reach pool fences the reach. -/
def execGranuleClearComplete (granule : Nat) (verified : Bool) (s : State) : Res :=
  let x := granOf s granule
  let pool := poolOf granule
  if x.state != .clearing || (s.pwr.doms.getD (poolDomain pool) {}).state != 2 then .next s
  else
    let s := setJob s x.basin x.job fun j => { j with lastClear := s.now }
    if verified then
      let s := { s with mem := memClear s.mem (granAt granule) 65536 }
      match s.pools.jobs.find? fun j => jobLive j && (jobGrans j).contains granule with
      | some j => .next (dropClosedJob (setGran s granule .owned j.basin j.num) x.basin x.job)
      | none => .next (dropClosedJob (setGran s granule .free 0 0) x.basin x.job)
    else
      let s := fenceGran s granule
      let own := if x.job = 0 then [] else [x.basin]
      let s := raise s (poolSrc pool) evPoolClearFail [pool, granule - (poolGrans pool).headD 0] own
      let s := otherFaultRecord s 2 (poolSrc pool) 0 (own.head?) x.job (poolDomain pool) granule 0 0
      let s := if pool < 256 then fenceReach s pool 1 else storeFences s
      .next (dropClosedJob s x.basin x.job)

/-- JOB_KILL (R210): a job that a cause has ended is stopped, its windows and regions go, and clearing starts. -/
def execJobKill (basin job : Nat) (s : State) : Res :=
  match jobOf s basin job with
  | some j => if j.killAsked && j.killed.isNone then .next (killJob s basin job) else .next s
  | none => .next s

/-- JOB_CLEARED (R210 step 7): every granule of a killed job has left CLEARING; poisoned pages that ended it are freed (R236), and JOB.CLEARED carries the job number and the
time from step 2 to its last granule, and the number is free again (R562). -/
def execJobCleared (basin job : Nat) (s : State) : Res :=
  match jobOf s basin job with
  | some j =>
    match j.killed with
    | some t =>
      if (jobHeld s basin job).isEmpty && (jobWindows s basin job).isEmpty then
        let s := freeNamed s j
        let s := { s with pools := { s.pools with jobs := dropW (fun j => j.basin == basin && j.num == job) s.pools.jobs } }
        .next (raise s srcCore evJobCleared [job, max t j.lastClear - t] [basin])
      else .next s
    | none => .next s
  | none => .next s

/-- An accepted unit of a window has still to be carried out. -/
def windowBusy (s : State) (b n wid : Nat) : Bool := s.pools.accepted.any fun a => a.basin == b && a.job == n && a.wid == wid

/-- WINDOW_CLOSE_COMPLETE (R203): the last accepted unit is through, or 10 µs have passed, and the window is gone. A killed or closed job, or one
whose step has faulted, has its granules cleared once no window is left. -/
def execWindowCloseComplete (basin job wid : Nat) (s : State) : Res :=
  if s.pools.windows.any fun w => w.basin == basin && w.job == job && w.wid == wid &&
      w.closing.any fun t => !windowBusy s basin job wid || t + 10000 ≤ s.now then
    let ws := dropW (fun w => w.basin == basin && w.job == job && w.wid == wid && w.closing.isSome) s.pools.windows
    let mine (a : WinAcc) : Bool := a.basin == basin && a.job == job && a.wid == wid
    let s := (s.pools.accepted.filter mine).foldl (fun s a => giveCredits s a.chan a.credits) s
    let s := { s with pools := { s.pools with windows := ws, accepted := dropW mine s.pools.accepted } }
    match jobOf s basin job with
    | some j =>
      let faulted := s.steps.any fun t => t.basin == basin && t.job == job && t.stopped && !t.faults.isEmpty
      if j.killed.isSome || j.closed || faulted then .next (dropClosedJob (clearJob s basin job) basin job)
      else if (jobWindows s basin job).isEmpty then
        .next (j.toClear.foldl clearGran (setJob s basin job fun j => { j with toClear := [] }))
      else .next s
    | none => .next s
  else .next s

end Sys2Proof.Machine
end

