-- ==== Sys2Proof/Machine/Models.lean ====
section
/-! DEFINITION. Base models and variants: their commands, verification, materialisation, publication, eviction and the effects
of poisoned pages (R251 to R273, R379, R558 to R560). -/

namespace Sys2Proof.Machine

/-! ### Lookups -/

/-- A live base model, LOADING or SEALED. -/
def modelOf (s : State) (b mid : Nat) : Option Model :=
  s.models.models.find? fun m => m.basin == b && m.mid == mid && !m.deleted

def setModel (s : State) (b mid : Nat) (f : Model → Model) : State :=
  { s with models := { s.models with models := updW (fun m => m.basin == b && m.mid == mid) f s.models.models } }

/-- A sealed base model. -/
def sealedOf (s : State) (b mid : Nat) : Option Model := (modelOf s b mid).filter (·.sealed_)

def variantOf (s : State) (b vid : Nat) : Option Variant :=
  s.models.variants.find? fun v => v.basin == b && v.vid == vid && v.state != .free

def setVariant (s : State) (b vid : Nat) (f : Variant → Variant) : State :=
  { s with models := { s.models with variants := updW (fun v => v.basin == b && v.vid == vid) f s.models.variants } }

/-- A variant that serves: COLD, MATERIALISING or RESIDENT. -/
def VState.serves : VState → Bool
  | .cold => true
  | .materialising => true
  | .resident => true
  | _ => false

def VState.num : VState → Nat
  | .free => 0
  | .verifying => 1
  | .cold => 2
  | .materialising => 3
  | .resident => 4
  | .retiring => 5

/-- The identifier is taken by an object not yet cleared (R251, R253). -/
def idLive (s : State) (b id : Nat) : Bool :=
  s.models.models.any (fun m => m.basin == b && m.mid == id) ||
    s.models.variants.any fun v => v.basin == b && v.vid == id && v.state != .free

/-- Reader of little-endian numbers in a basin's memory, as they were read when the object was sealed or verified. -/
def rdB (s : State) (b a n : Nat) : Nat := keptNum s b a n

/-- The tensor headers of a model. -/
def hdrsOf (s : State) (m : Model) : List WHdr := modelHdrs (rdB s m.basin) m.hdrs m.ntensor

/-- Pages of a model. -/
def modelPages (m : Model) : List Nat := (List.range m.pages).map (· + m.addr / 4096)

/-! ### Training objects' pages (R334, R335, R378) -/

/-- The object's table, its regions for sets, and the arrays and headers of each update entry. -/
def trainAreas (s : State) (t : Train) : List (Nat × Nat) :=
  let b := t.basin
  let w := t.word.toNat
  let table := fld w 192 239
  let n := fld w 240 255
  let hs := match (variantOf s b (fld w 32 63)).bind (fun v => modelOf s b v.base) with
    | some m => hdrsOf s m
    | none => []
  let progs := (List.range 3).map fun i => (rdB s b (table + 16 * i) 8 % 2 ^ 48, 64 * rdB s b (table + 16 * i + 8) 4)
  let entry (u : Nat) : List (Nat × Nat) :=
    let e := table + 48 + 48 * u
    let cells := ((hs[rdB s b e 4]?).map fun h => h.rows * h.cols).getD 0
    let a := fun k => rdB s b (e + 8 + 8 * k) 8 % 2 ^ 48
    let copy (x : Nat) : List (Nat × Nat) := (x, 32) :: areasOf (rdB s b) (whdrOf (rdB s b x 32))
    [(a 0, 2 * cells), (a 1, 4 * cells), (a 2, 4 * cells)] ++ copy (a 3) ++ copy (a 4)
  [(table, 48 + 48 * n), (fld w 256 303, 4096 * fld w 304 335)] ++ progs ++ ((List.range n).map entry).flatten

/-- The page belongs to a training object. -/
def ofTrain (s : State) (b p : Nat) : Bool :=
  s.trains.any fun t => t.basin == b && (trainAreas s t).any fun a => inBytes a.1 a.2 p

/-! ### Region checks (R379, R559) -/

/-- The page of a basin's range at which an entry lies: a DERIVED page of the second of two generations that share a window has its entry
2^36 pages higher (log entry 23). -/
def windowPage (p : Nat) : Nat := p % 2 ^ 36

/-- R379 for a mapping of `pages` pages at `addr` in a tier, KIND and TIER having been checked; ST_OK when it passes. -/
def mapCheck (s : State) (b addr pages tier : Nat) : Nat :=
  if addr % 4096 != 0 || pages = 0 then stDescInvalid
  else if !inTiered addr (4096 * pages) then stIndexRange
  else if s.tiers.pages.any (fun e => e.basin == b && inRegion addr pages (windowPage e.page)) then stResourceBusy
  else if !quotaOk s b tier pages || framesFree s tier < pages then stMemQuota
  else stOk

/-- A mapping that the quotas allow finds its frames lent (R248): it waits until they return. -/
def lendShort (s : State) (b addr pages tier : Nat) : Bool :=
  mapCheck s b addr pages tier == stMemQuota && quotaOk s b tier pages && s.tiers.lends.any fun l => l.asLender && l.tier == tier

/-- How many pages of a region are mapped. -/
def mappedIn (s : State) (b : Nat) (p : Nat → Bool) : Nat := (s.tiers.pages.filter fun e => e.basin == b && p e.page).length

/-- The page is part of a model, program, training object or variant generation (R559 order 4). -/
def pageTied (s : State) (b p : Nat) : Bool := ofModel s b p || ofProgram s b p || ofTrain s b p || ofSet s b p

/-- The CRC list of `n` entries (R559). -/
def crcListBreach (s : State) (b crcs n : Nat) : Nat :=
  let (p, q) := pagesOf crcs (8 * n)
  let ins (x : Nat) : Bool := p ≤ x && x ≤ q
  if crcs % 8 != 0 then stDescInvalid
  else if !inTiered crcs (8 * n) then stIndexRange
  else if mappedIn s b ins != q + 1 - p then stIndexRange
  else if s.tiers.pages.any (fun e => e.basin == b && ins e.page && e.kind != .work && e.kind != .model) then stNotPermitted
  else stOk

/-- R559 for VARIANT.CREATE and VARIANT.UPDATE. -/
def setBreach (s : State) (b setPages set crcs daddr dlen : Nat) : Nat :=
  let l := crcListBreach s b crcs setPages
  let ins (x : Nat) : Bool := inRegion set setPages x
  if crcs % 8 != 0 || set % 4096 != 0 || daddr % 4096 != 0 || setPages = 0 || dlen = 0 then stDescInvalid
  else if !inTiered crcs (8 * setPages) || !inTiered set (4096 * setPages) || !inTiered daddr (4096 * dlen) then stIndexRange
  else if l == stIndexRange || mappedIn s b ins != setPages then stIndexRange
  else if l != stOk || s.tiers.pages.any (fun e => e.basin == b && ins e.page && (e.kind != .model || pageTied s b e.page)) then
    stNotPermitted
  else if s.tiers.pages.any (fun e => e.basin == b && inRegion daddr dlen (windowPage e.page)) then stResourceBusy
  else stOk

/-! ### Steps that use a model or variant -/

/-- A step of the base model itself is bound or formed. -/
def stepsOfBase (s : State) (b mid : Nat) : Bool := s.steps.any fun t => t.basin == b && t.base == mid

def stepsOfVariant (s : State) (b vid : Nat) : Bool := s.steps.any fun t => t.basin == b && t.vid == vid

def stepsOfGen (s : State) (b vid gen : Nat) : Bool := s.steps.any fun t => t.basin == b && t.vid == vid && t.gen == gen

/-- Live requests that name an identifier. -/
def reqsOf (s : State) (b vid : Nat) : List Request := (liveReqs s b).filter fun r => fld r.blk.toNat 32 63 == vid

/-- ACTIVE of R259: requests queued or running. -/
def activeOf (s : State) (b vid : Nat) : Nat :=
  ((reqsOf s b vid).filter fun r => r.state == .queued || r.state == .running).length

/-! ### Residency (R259 to R261) -/

/-- The place of a DERIVED page of a generation: two generations that share a window are kept apart (log entry 23). -/
def derivedKey (g : GenSet) (k : Nat) : Nat := g.daddr / 4096 + k + 2 ^ 36 * g.half

/-- The DERIVED pages of a generation that are mapped. -/
def derivedMapped (s : State) (b : Nat) (g : GenSet) : List Nat :=
  ((List.range (max g.dpages g.dlen)).map (derivedKey g)).filter fun p => (pageOf s b p).any fun e => e.kind == .derived

/-- A base page has a clean HBM3E copy. -/
def copyClean (s : State) (b p : Nat) : Bool := (pageOf s b p).any fun e => e.copy.isSome

/-- A page can be read without poison. -/
def pageClean (s : State) (b p : Nat) : Bool := (pageOf s b p).any fun e => !e.poison || e.copy.isSome

/-- A job holds a good copy of a page in its pool (R243): the bytes of a granule that it owns still have the entry's CRC-64. -/
def poolCopied (s : State) (b p : Nat) : Bool :=
  (pageOf s b p).any fun e => s.tiers.poolCopies.any fun c => c.basin == b && c.src == p &&
    s.pools.grans.any (fun x => x.g == c.g && x.basin == b && x.state == .owned) && crc64 (memGets s.mem (granAt c.g + c.off) 4096) == e.crc

/-- A base model served directly is resident (R261). -/
def baseResident (s : State) (b mid : Nat) : Bool :=
  (modelOf s b mid).any fun m => (modelPages m).all fun p => copyClean s b p && (pageOf s b p).any fun e => !e.poison

/-- Every page of a generation is there (R261): its DERIVED pages, and a clean HBM3E copy of each base page that it reads without an
overlay. A base page whose home is poisoned beside a clean copy counts as there, as R273 has it (DEDUCED, log entry 133). -/
def genResident (s : State) (b base : Nat) (g : GenSet) : Bool :=
  (List.range g.dpages).all (fun k => pageClean s b (derivedKey g k)) &&
    (modelOf s b base).any fun m => (modelPages m).all fun p => g.covered.contains p || copyClean s b p

/-- A variant is resident (R261). -/
def variantResident (s : State) (v : Variant) : Bool := v.state == .resident && genResident s v.basin v.base v.cur

/-- What VID names is resident: a variant or a base served without a delta. -/
def vidResident (s : State) (b vid : Nat) : Bool :=
  match variantOf s b vid with
  | some v => variantResident s v
  | none => baseResident s b vid

/-- The variant table entry (R259). -/
def variantWord (s : State) (v : Variant) : Nat :=
  v.vid + 2 ^ 32 * v.base + 2 ^ 64 * v.state.num + 2 ^ 68 * b2n v.pinned + 2 ^ 69 * b2n v.blocked +
    2 ^ 70 * b2n v.pend.isSome + 2 ^ 71 * b2n v.cur.rebuilt + 2 ^ 96 * v.cur.gen + 2 ^ 128 * v.cur.set +
    2 ^ 192 * v.cur.daddr + 2 ^ 256 * v.cur.dpages + 2 ^ 288 * v.cur.dlen + 2 ^ 320 * v.lastStep +
    2 ^ 384 * sat 16 (activeOf s v.basin v.vid) + 2 ^ 416 * v.mats

/-! ### Building a generation (R258, R262) -/

/-- The delta set of a generation, decoded. -/
def setOf (s : State) (b : Nat) (m : Model) (g : GenSet) : Option (List TDelta) :=
  deltaSet (hdrsOf s m) (keptBytes s b g.set (4096 * g.setPages))

/-- The DERIVED pages of a generation: the base page overlaid, if any, and the bytes (R262). -/
def buildPages (s : State) (b : Nat) (m : Model) (g : GenSet) : List (Option Nat × List Byte) :=
  match setOf s b m g with
  | none => []
  | some ds => derivedPages (rdB s b) m.hdrs g.daddr (hdrsOf s m) ds

/-- A generation's set has at least one tensor in rebuilt form. -/
def rebuiltOf (s : State) (b : Nat) (m : Model) (g : GenSet) : List WHdr :=
  let hs := hdrsOf s m
  (((setOf s b m g).getD []).filterMap fun d => (hs[d.tensor]?).bind fun h => if overlayForm h d then none else some h)

/-- The pages of a tensor's areas. -/
def areaPages (s : State) (b : Nat) (h : WHdr) : List Nat :=
  ((areasOf (rdB s b) h).map fun a => if a.2 = 0 then [] else pageRange a.1 a.2).flatten

/-- For each rebuilt page of a generation, in order, the base pages that its making reads: those of the tensor's areas (R262). -/
def rebuiltReads (s : State) (b : Nat) (m : Model) (g : GenSet) : List (List Nat) :=
  let hs := hdrsOf s m
  (((setOf s b m g).getD []).map fun d => match hs[d.tensor]? with
    | none => []
    | some h => if overlayForm h d then []
      else List.replicate ((rebuiltTensor (rdB s b) h d 0).1.length / 4096) (areaPages s b h)).flatten

/-- A generation with what its pages come to: DPAGES, the overlay, what steps do not read, what making each page reads, and REBUILT. -/
def sizedGen (s : State) (b : Nat) (m : Model) (g : GenSet) : GenSet :=
  let ps := buildPages s b m g
  let rb := rebuiltOf s b m g
  let ov := (ps.zipIdx).filterMap fun x => x.1.1.map fun p => (p, derivedKey g x.2)
  let reads := rebuiltReads s b m g
  let src := ps.zipIdx.map fun x => (derivedKey g x.2, x.1.1.elim (reads.getD x.2 []) fun p => [p])
  { g with dpages := ps.length, overlay := ov, covered := ov.map (·.1) ++ (rb.map (areaPages s b)).flatten, sources := src,
           rebuilt := !rb.isEmpty }

/-- The pages of a generation's delta set. -/
def setPagesOf (g : GenSet) : List Nat := (List.range g.setPages).map (· + g.set / 4096)

/-- The DERIVED pages of a generation that are not there. -/
def missingOf (s : State) (b : Nat) (g : GenSet) : List (Nat × List Nat) := g.sources.filter fun x => !pageMapped s b x.1

/-- The pages that making the missing DERIVED pages of a generation reads (R262, R264): their base pages, and the delta set. -/
def buildReads (s : State) (b : Nat) (g : GenSet) : List Nat :=
  let l := missingOf s b g
  if l.isEmpty then [] else (l.map (·.2)).flatten.eraseDups ++ setPagesOf g

/-- The base pages of which a generation needs an HBM3E copy that is not there (R261, R264). -/
def copiesFor (s : State) (m : Model) (g : GenSet) : List Nat :=
  (modelPages m).filter fun p => !g.covered.contains p && !copyClean s m.basin p

/-- Map the DERIVED pages of a generation that are missing, with their bytes and CRCs (R262, R264). A page of the window that has been
mapped since R559 checked it stays as it is, whoever mapped it: the spec says nothing of it (DESIGN CHOICE, log entry 130). -/
def placeDerived (s : State) (b : Nat) (g : GenSet) (ps : List (Option Nat × List Byte)) : State :=
  (ps.zipIdx).foldl (fun s x =>
    let p := derivedKey g x.2
    if pageMapped s b p then s
    else
      let s := mapPage s b p .derived 1
      let s := setPage s b p fun e => { e with crc := crc64 x.1.2 }
      match pageOf s b p with
      | some e => { s with mem := memPuts s.mem (homeAt e) x.1.2 }
      | none => s) s

/-! ### Copies that are needed (R225, R226, R266) -/

/-- Something needs the variant: a prefetch, an admitted request, or a training step that reads it (R260). -/
def variantNeeded (s : State) (b vid : Nat) : Bool :=
  (linkOf s b).deferred.any (fun d => d.opcode == 0x0205 && d.obj == .model vid) || !(reqsOf s b vid).isEmpty ||
    s.trains.any fun t => t.basin == b && (fld t.word.toNat 32 63 == vid || fld t.word.toNat 64 95 == vid)

/-- A step or a materialisation needs a base page of a SEALED model in HBM3E, or the model is PINNED (R225, R243, R266). -/
def copyNeeded (s : State) (b p : Nat) : Bool :=
  s.models.models.any fun m => m.basin == b && m.sealed_ && !m.deleted && inRegion m.addr m.pages p &&
    (m.pinned || !(reqsOf s b m.mid).isEmpty || (s.trains.any fun t => t.basin == b && fld t.word.toNat 64 95 == m.mid) ||
      s.models.variants.any fun v => v.basin == b && v.base == m.mid && v.state.serves &&
        ((variantNeeded s b v.vid && (!v.cur.covered.contains p || (reqsOf s b v.vid).any rFallback)) ||
          (v.building == 2 && v.pend.any fun g => !g.covered.contains p)))

/-- The copy is needed by a class C0 step (R226). -/
def copyForC0 (s : State) (b p : Nat) : Bool :=
  (liveReqs s b).any fun r => rCls r = 0 && (modelOf s b r.base).any fun m => inRegion m.addr m.pages p

/-- The copies that are needed and wait nowhere yet are put into the tier queue, behind what waits there (R225, R226). -/
def askCopies (s : State) (b : Nat) : State :=
  let l := s.tiers.pages.filter fun e => e.basin == b && e.kind == .model && e.homeT == 2 && e.copy.isNone && !e.poison &&
    copyNeeded s b e.page && !(s.tiers.moves.any fun m => m.copy && m.basin == b && m.page == e.page)
  let ask (e : PageEnt) : MoveReq := { basin := b, page := e.page, tier := 1, since := s.now, copy := true, rank := 1 }
  { s with tiers := { s.tiers with
    moves := s.tiers.moves.filter (fun m => m.rank ≤ 1) ++ l.map ask ++ s.tiers.moves.filter fun m => 1 < m.rank } }

/-! ### Poison (R236, R273) -/

/-- The page belongs to a variant's base. -/
def ofBase (s : State) (v : Variant) (p : Nat) : Bool := (modelOf s v.basin v.base).any fun m => inRegion m.addr m.pages p

/-- A page is poisoned with no clean copy. -/
def badPage (s : State) (b p : Nat) : Bool := (pageOf s b p).any fun e => e.poison && e.copy.isNone

/-- The variant needs a page (R273): a base page that its steps read without an overlay or that its current or pending build reads, or,
while it is not resident, a page of its current delta set that its build reads. -/
def needsPage (s : State) (v : Variant) (p : Nat) : Bool :=
  (v.state.serves || v.state == .verifying) &&
    if ofBase s v p then
      !v.cur.covered.contains p || (buildReads s v.basin v.cur).contains p ||
        (!v.pendBuilt && v.pend.any fun g => !g.covered.contains p || (buildReads s v.basin g).contains p)
    else v.state != .resident && inRegion v.cur.set v.cur.setPages p && (buildReads s v.basin v.cur).contains p

/-- The poisoned page without a clean source that a variant needs, if there is one (R259). -/
def neededBad (s : State) (v : Variant) : Option Nat :=
  ((s.tiers.pages.filter fun e => e.basin == v.basin && e.poison && e.copy.isNone).find? fun e => needsPage s v e.page).map (·.page)

/-- A poisoned page stops a variant (R273): BLOCKED, a build in progress returns to COLD, a prefetch is answered. VARIANT.BLOCKED is
raised for a poisoned delta page too (DESIGN CHOICE, log entry 132). -/
def blockVariant (s : State) (v : Variant) (p : Nat) : State :=
  let b := v.basin
  let s := setVariant s b v.vid fun v => { v with
    blocked := true
    blockPage := if v.blocked then v.blockPage else p
    state := if v.state == .materialising then .cold else v.state }
  let s := answerDeferred s b (fun d => d.opcode == 0x0205 && d.obj == .model v.vid) stWeightPoisoned []
  if v.blocked then s else raise s srcCore evVariantBlocked [v.vid, v.base, v.cur.gen, 4096 * p] [b]

/-- Every variant that needs a poisoned page is blocked (R273). -/
def blockVariants (s : State) (b p : Nat) : State :=
  (s.models.variants.filter fun v => v.basin == b && needsPage s v p).foldl (fun s v => blockVariant s v p) s

/-- A page is clean again: BLOCKED goes unless another page holds it, and a stopped build resumes (R273). -/
def unblockVariants (s : State) (b p : Nat) : State :=
  (s.models.variants.filter fun v => v.basin == b && v.blocked && v.blockPage == p).foldl (fun s v =>
    match neededBad s v with
    | some q => setVariant s b v.vid fun v => { v with blockPage := q }
    | none =>
      let s := setVariant s b v.vid fun v => { v with
        blocked := false, state := if v.state == .cold && v.building = 1 then .materialising else v.state }
      raise s srcCore evVariantUnblocked [v.vid, v.base, v.cur.gen, 4096 * p] [b]) s

/-- BLOCKED follows what the variant now needs, where its generation or what is there of it has changed (R259, R268, R273, log entry 134):
one that comes to need a page already poisoned is blocked with its event. -/
def resetBlocked (s : State) (b vid : Nat) : State :=
  match variantOf s b vid with
  | none => s
  | some v => match v.blocked, neededBad s v with
    | true, some p => setVariant s b vid fun v => { v with blockPage := p }
    | true, none => setVariant s b vid fun v => { v with blocked := false }
    | false, some p => blockVariant s v p
    | false, none => s

/-- Condition 5 of R326 fails for the C0 steps that run one of these identifiers (R327). -/
def voidVids (s : State) (b : Nat) (vids : List Nat) : State :=
  { s with steps := updW (fun t => t.basin == b && vids.contains t.vid && t.cls == 0 && t.void == 0) (fun t => { t with void := 5 }) s.steps }

/-- With the pin gone, condition 5 of R326 fails for the C0 steps that run the identifier (R327). -/
def unpinVoid (s : State) (b vid pin : Nat) : State := if pin != 0 then s else voidVids s b [vid]

/-- A variant that read the copy of a base page is no longer resident: it has lost a page (R260, R261), its build of a pending generation
stops, and condition 5 of R326 fails for the C0 steps that run it, or the base without a delta (R327). -/
def coldWithout (s : State) (b p : Nat) : State :=
  let loses (v : Variant) : Bool := v.basin == b && v.state == .resident && ofBase s v p && !v.cur.covered.contains p
  let vids := (s.models.variants.filter loses).map (·.vid) ++ ((s.models.models.filter fun m => m.basin == b && (modelPages m).contains p).map (·.mid))
  let cold (v : Variant) : Variant := { v with state := .cold, building := 0 }
  voidVids { s with models := { s.models with variants := updW loses cold s.models.variants } } b vids

/-- Drop the HBM3E copy of a page; its frame is cleared (R231, R236). The variants that read it turn COLD (R260), and where the home is
poisoned those that need the page are blocked (R273). -/
def dropCopy (s : State) (b p : Nat) : State :=
  match pageOf s b p with
  | none => s
  | some e => match e.copy with
    | none => s
    | some f =>
      let s := coldWithout (releaseFrame (setPage s b p fun e => { e with copy := none }) b 0 1 f) b p
      if e.poison then blockVariants s b p else s

/-- An uncorrectable error, or a CRC-64 mismatch, in the HBM3E copy of a page: the copy goes, and the home serves the next read (R236,
R272). A copy that is still needed waits to be made again (R225, R266). -/
def poisonCopy (s : State) (e : PageEnt) (f : Nat) : State := askCopies (dropCopy (markRetiring s 1 f) e.basin e.page) e.basin

/-- An uncorrectable error, or a CRC-64 mismatch, in the home of a MODEL page (R235, R236, R239, R272). `mark`: its present frame is the
one that failed. -/
def poisonModel (s : State) (e : PageEnt) (reader : Nat) (mark : Bool) : State :=
  if e.poison then s
  else
    let s := if mark then markRetiring s e.homeT e.homeLoc else s
    let s := raisePoisoned (poisonPage s e.basin e.page) e reader
    if e.copy.isNone then blockVariants s e.basin e.page else s

/-- The bytes at a place have the entry's CRC-64: the check of the copy path (R219, R272). Without the entry's CRC it cannot pass (R240). -/
def crcGood (s : State) (e : PageEnt) (at_ : Nat) : Bool := !e.crcLost && crc64 (memGets s.mem at_ 4096) == e.crc

/-- A read of the copy path has failed its check: the copy that served it, or the home, is poisoned (R219, R235, R272). -/
def failedRead (s : State) (e : PageEnt) : State :=
  match e.copy with
  | some f => poisonCopy s e f
  | none => poisonModel s e 1 true

/-- The copy path makes an HBM3E copy of a read-only page (R219): the frame must be there, and the page's CRC-64 right. -/
def makeCopy (s : State) (b p : Nat) : State :=
  match pageOf s b p with
  | none => s
  | some e =>
    if e.copy.isSome || e.poison then s
    else if !crcGood s e (homeAt e) then poisonModel s e 1 true
    else match takeFrame s 1 with
      | (some f, s) => setPage (copyFrame s (homeAt e) (frameAt 1 f)) b p fun e => { e with copy := some f, lastUse := s.now }
      | (none, s) => s

/-- A poisoned page of a build's sources, if there is one: what it still reads or copies (R264, R273). -/
def badSource (s : State) (m : Model) (g : GenSet) : Option Nat :=
  (buildReads s m.basin g ++ copiesFor s m g).find? (badPage s m.basin)

/-- A page of a build's sources whose CRC-64 the copy path finds wrong (R264, R272). -/
def failingSource (s : State) (m : Model) (g : GenSet) : Option PageEnt :=
  (buildReads s m.basin g ++ copiesFor s m g).findSome? fun p => (pageOf s m.basin p).filter fun e => !crcGood s e (readAt e)

/-! ### Clearing (R253, R268, R270) -/

/-- A set region that lies in a training object's DSPACE keeps its pages mapped: they are cleared in place (R350). -/
def inDspace (s : State) (b addr : Nat) : Bool :=
  s.trains.any fun t => t.basin == b && inRegion (fld t.word.toNat 256 303) (fld t.word.toNat 304 335) (addr / 4096)

/-- The DERIVED pages and the delta region of a generation are cleared (R268, R270). -/
def clearGen (s : State) (b vid : Nat) (g : GenSet) : State :=
  let s := (derivedMapped s b g).foldl (fun s p => unmapObj s b vid p) s
  if inDspace s b g.set then
    (setPagesOf g).foldl (fun s p => match pageOf s b p with
      | some e => { s with mem := memClear s.mem (homeAt e) 4096 }
      | none => s) s
  else (setPagesOf g).foldl (fun s p => unmapObj s b vid p) s

/-- Replaced generations go once no step is bound to them (R268). -/
def clearOldGens (s : State) (b vid : Nat) : State :=
  match variantOf s b vid with
  | none => s
  | some v =>
    let done := v.old.filter fun g => !stepsOfGen s b vid g.gen
    let s := done.foldl (fun s g => clearGen s b vid g) s
    setVariant s b vid fun v => { v with old := dropW (fun g => done.contains g) v.old }

/-- A retiring variant's pages are cleared after its last step (R270). -/
def clearRetiring (s : State) (b vid : Nat) : State :=
  match variantOf s b vid with
  | none => s
  | some v =>
    if v.state != .retiring || v.unmapped || stepsOfVariant s b vid then s
    else
      let s := (genSets v).foldl (fun s g => clearGen s b vid g) s
      setVariant s b vid fun v => { v with old := [], pend := none, unmapped := true }

/-- A deleted model's pages are cleared once no step reads it (R254, R288). -/
def clearDeleted (s : State) (b mid : Nat) : State :=
  match s.models.models.find? fun m => m.basin == b && m.mid == mid && m.deleted && !m.unmapped with
  | none => s
  | some m =>
    if stepsOfBase s b mid then s
    else setModel ((modelPages m).foldl (fun s p => unmapObj s b mid p) s) b mid fun m => { m with unmapped := true }

/-- A deleted model whose clearing is complete gives its identifier back (R253). -/
def dropDeleted (s : State) : State :=
  let done (m : Model) : Bool := m.deleted && m.unmapped && !(s.tiers.clearing.any fun c => c.basin == m.basin && c.obj == m.mid)
  { s with models := { s.models with models := dropW done s.models.models } }

/-- After a step of a basin has ended: old generations, retiring variants and deleted models (R268, R270, R288). -/
def clearUnused (s : State) (b : Nat) : State :=
  let s := (s.models.variants.filter fun v => v.basin == b).foldl (fun s v => clearOldGens (clearRetiring s b v.vid) b v.vid) s
  dropDeleted ((s.models.models.filter fun m => m.basin == b && m.deleted).foldl (fun s m => clearDeleted s b m.mid) s)

/-! ### Eviction and publication (R266, R268) -/

/-- Evict a variant (R266): the DERIVED pages of its current generation, and of its pending one when built, are dropped. -/
def evictVariant (s : State) (b vid : Nat) : State :=
  match variantOf s b vid with
  | none => s
  | some v =>
    let cur := derivedMapped s b v.cur
    let pend := (v.pend.map (derivedMapped s b)).getD []
    let s := unmapPages s b (cur ++ pend)
    let s := setVariant s b vid fun v => { v with state := .cold, pendBuilt := false, building := 0 }
    let s := voidVids s b [vid]
    let s := raise s srcCore evVariantEvicted [vid, v.base, v.cur.gen, (cur ++ pend).length] [b]
    resetBlocked s b vid

/-- Publish the pending generations of a basin that are ready (R268): built ones, and those of COLD variants. The variant is RESIDENT
where every page of the new generation is there, else COLD until it is next needed. -/
def publishVariants (s : State) (b : Nat) : State :=
  let ready (v : Variant) : Bool := v.basin == b && v.pend.isSome && v.state.serves && (v.state == .cold || v.pendBuilt)
  (s.models.variants.filter ready).foldl (fun s v =>
    match v.pend with
    | none => s
    | some g =>
      let gen := wrap 32 (v.cur.gen + 1)
      let s := closeTrees s b v.vid
      let on := v.pendBuilt && genResident s b v.base g
      let s := setVariant s b v.vid fun v => { v with
        state := if on then .resident else .cold
        cur := { g with gen := gen }, pend := none, pendBuilt := false, building := 0, old := v.old ++ [v.cur] }
      let s := raise s srcCore evVariantPublished [v.vid, v.base, gen] [b]
      let s := if on then answerDeferred s b (fun d => d.opcode == 0x0205 && d.obj == .model v.vid) stOk [] else s
      clearOldGens (sweepKv (resetBlocked s b v.vid) b) b v.vid) s

/-! ### Base models (R253 to R256) -/

/-- The checks of MODEL.CREATE in order (R253); ST_OK when all pass. -/
def modelCreateCheck (s : State) (b mid ntensor addr hdrs pages : Nat) : Nat :=
  if mid = 0 || ntensor = 0 || 65536 < ntensor || hdrs % 4096 != 0 || hdrs < addr || addr + 4096 * pages ≤ hdrs then stDescInvalid
  else if idLive s b mid then stIdInUse
  else if 1024 ≤ (s.models.models.filter fun m => !m.deleted).length then stModelLimit
  else mapCheck s b addr pages 2

/-- A command that maps pages would be taken and finds nothing amiss but that the frames are lent: it waits for them (R248). `st` is what
its checks answer. -/
def waitsForLent (s : State) (h : Hdr) (opcode : Nat) (c : Instr) (o : Obj) (st addr pages tier : Nat) : Bool :=
  taken s h opcode c.params && !objBusy s h.basin o && st == stMemQuota && lendShort s h.basin addr pages tier

/-- MODEL.CREATE (R253, R256): the region is mapped as MODEL pages homed in LPDDR5X, and the model is LOADING. Where only lent frames are
missing, it waits for them (R248). -/
def execModelCreate (h : Hdr) (mid ntensor addr hdrs pages : Nat) (s : State) : Res :=
  if waitsForLent s h 0x0100 (.modelCreate h mid ntensor addr hdrs pages) (.model mid)
      (modelCreateCheck s h.basin mid ntensor addr hdrs pages) addr pages 2 then .next (reclaimLends s 2) else
  hostCmd s h 0x0100 false (some (.model mid)) (.modelCreate h mid ntensor addr hdrs pages) fun s =>
    let st := modelCreateCheck s h.basin mid ntensor addr hdrs pages
    if st != stOk then reply s h 0x0100 st []
    else
      let m : Model := { basin := h.basin, mid := mid, sealed_ := false, ntensor := ntensor, addr := addr, pages := pages, hdrs := hdrs }
      let s := mapPages s h.basin .model 2 (modelPages m)
      reply { s with models := { s.models with models := s.models.models ++ [m] } } h 0x0100 stOk []

/-- MODEL.SEAL (R256, R559, R560): verification starts, and the reply waits for it. -/
def execModelSeal (h : Hdr) (mid crcs : Nat) (s : State) : Res :=
  hostCmd s h 0x0101 false (some (.model mid)) (.modelSeal h mid crcs) fun s =>
    match modelOf s h.basin mid with
    | none => reply s h 0x0101 stModelUnknown []
    | some m =>
      let st := crcListBreach s h.basin crcs m.pages
      if st != stOk then reply s h 0x0101 st []
      else if m.sealed_ then reply s h 0x0101 stModelSealed []
      else
        let s := setModel s h.basin mid fun m => { m with sealing := some crcs }
        deferCmd s { h := h, opcode := 0x0101, obj := .model mid }

/-- The CRC-64 of a page as its bytes are read. -/
def pageCrc (s : State) (b p : Nat) : Nat := crc64 (tierBytes s b (4096 * p) 4096)

/-- Every page of a list is readable and has the CRC of a list in memory (R256, R258). A poisoned page has no data to check, and the
seal or the verification answers ST_CRC_MISMATCH (DESIGN CHOICE, log entry 131). -/
def crcsAgree (s : State) (b crcs : Nat) (ps : List Nat) : Bool :=
  ps.zipIdx.all fun x => pageClean s b x.1 && pageCrc s b x.1 == tierNum s b (crcs + 8 * x.2) 8

/-- Record the CRCs of pages in their entries. -/
def recordCrcs (s : State) (b : Nat) (ps : List Nat) : State :=
  ps.foldl (fun s p => setPage s b p fun e => { e with crc := pageCrc s b p }) s

/-- SEAL_VERIFY_COMPLETE (R255, R256): the first failure in the order CRC, range, format; otherwise the model is SEALED. -/
def execSealVerifyComplete (basin mid : Nat) (s : State) : Res :=
  match modelOf s basin mid with
  | none => .next s
  | some m =>
    match m.sealing with
    | none => .next s
    | some crcs =>
      let st := if !crcsAgree s basin crcs (modelPages m) then stCrcMismatch
        else modelBreach (rdB s basin) m.addr (4096 * m.pages) m.hdrs m.ntensor
      let s := if st = 0 then recordCrcs s basin (modelPages m) else s
      let s := setModel s basin mid fun m => { m with sealing := none, sealed_ := st == 0 }
      .next (answerDeferred s basin (fun d => d.opcode == 0x0101 && d.obj == .model mid) st [])

/-- A variant that is not FREE, or a training object's teacher, names the model (R254, R354). -/
def modelInUse (s : State) (b mid : Nat) : Bool :=
  s.models.variants.any (fun v => v.basin == b && v.base == mid && v.state != .free) ||
    s.trains.any fun t => t.basin == b && fld t.word.toNat 64 95 == mid

/-- MODEL.DELETE (R254, R271, R288, R308): programs and trees go at once; the pages are cleared when no step reads them. -/
def execModelDelete (h : Hdr) (mid : Nat) (s : State) : Res :=
  hostCmd s h 0x0102 false (some (.model mid)) (.modelDelete h mid) fun s =>
    let b := h.basin
    match modelOf s b mid with
    | none => reply s h 0x0102 stModelUnknown []
    | some _ =>
      if modelInUse s b mid then reply s h 0x0102 stModelInUse []
      else
        let s := setModel s b mid fun m => { m with deleted := true, pinned := false }
        let ps := dropW (fun p => p.basin == b && fld p.word.toNat 0 31 == mid) s.models.programs
        let s := { s with models := { s.models with programs := ps } }
        let s := { s with serving := { s.serving with modelEnds := s.serving.modelEnds ++ [(b, mid)] } }
        let s := sweepKv (closeTrees s b mid) b
        reply (dropDeleted (clearDeleted s b mid)) h 0x0102 stOk []

/-- MODEL.QUERY (R254, R377). -/
def execModelQuery (h : Hdr) (mid : Nat) (s : State) : Res :=
  hostCmd s h 0x0103 false (some (.model mid)) (.modelQuery h mid) fun s =>
    match modelOf s h.basin mid with
    | none => reply s h 0x0103 stModelUnknown []
    | some m =>
      let n := (s.models.variants.filter fun v => v.basin == h.basin && v.base == mid && v.state != .free).length
      reply s h 0x0103 stOk [.u8 (b2n m.sealed_), .u32 m.ntensor, .u32 m.pages, .u32 n, .u8 (b2n m.pinned)]

/-- The identifier that MODEL.REFETCH names: the model of the page, or the variant of a delta page (R240, R273). -/
def refetchId (s : State) (b p : Nat) : Nat :=
  match s.models.models.find? fun m => m.basin == b && !m.deleted && inRegion m.addr m.pages p with
  | some m => m.mid
  | none => ((s.models.variants.find? fun v => v.basin == b && (genSets v).any fun g => inRegion g.set g.setPages p).map (·.vid)).getD 0

/-- MODEL.REFETCH (R240). -/
def raiseRefetch (s : State) (e : PageEnt) : State :=
  raiseTrunk s evModelRefetch [refetchId s e.basin e.page, 4096 * e.page, e.crc] [e.basin]

/-- Step 5 of R239: the copy is dropped, and the host is asked for the page, again every 10 s (R240). -/
def askRefetch (s : State) (e : PageEnt) : State :=
  let s := dropCopy s e.basin e.page
  if s.tiers.refetch.any fun r => r.basin == e.basin && r.page == e.page then s
  else
    let x : Refetch := { basin := e.basin, page := e.page, next := s.now + 10000000000 }
    raiseRefetch { s with tiers := { s.tiers with refetch := s.tiers.refetch ++ [x] } } e

/-- Steps 3 and 4 of R239: the page is written to a new frame of its tier and read back; with the right CRC-64 the home is switched, the
old frame retired and MEM.REPAIRED raised, else step 5 follows. `crc` is the entry's CRC, or the host's where the entry's was lost (R240).
Source 0: the copy, 1: the host. -/
def repairPage (s : State) (e : PageEnt) (data : List Byte) (crc source : Nat) : State :=
  match takeFrame s 2 with
  | (none, s) => s
  | (some f, s) =>
    let b := e.basin
    let s := { s with mem := memPuts (memClear s.mem (frameAt 2 f) 4096) (frameAt 2 f) data }
    if crc64 (memGets s.mem (frameAt 2 f) 4096) != crc then askRefetch (retireFrame s 2 f 1) e
    else
      let s := setPage s b e.page fun e => { e with homeT := 2, homeLoc := f, poison := false, crc := crc, crcLost := false }
      let s := { s with tiers := { s.tiers with refetch := dropW (fun r => r.basin == b && r.page == e.page) s.tiers.refetch } }
      let s := releaseFrame (noteRetiring s e.homeT e.homeLoc) b 0 e.homeT e.homeLoc
      let s := raiseTrunk s evMemRepaired [4096 * e.page, source, s.now - e.poisonAt] [b]
      askCopies (unblockVariants s b e.page) b

/-- The page belongs to the model or variant that an identifier names. -/
def pageOfId (s : State) (b id p : Nat) : Bool :=
  s.models.models.any (fun m => m.basin == b && m.mid == id && !m.deleted && inRegion m.addr m.pages p) ||
    s.models.variants.any fun v => v.basin == b && v.vid == id && (genSets v).any fun g => inRegion g.set g.setPages p

/-- MODEL.REPAIR (R240): the page's CRC-64 is checked against its entry, or, for a page whose entry has none yet or has lost it, against
the CRC that the host supplies; a match becomes the new home. A page that is not poisoned stays as it is (log entry 24). -/
def execModelRepair (h : Hdr) (mid page crc : Nat) (data : List Byte) (s : State) : Res :=
  hostCmd s h 0x0105 false (some (.model mid)) (.modelRepair h mid page crc data) fun s =>
    let b := h.basin
    if (modelOf s b mid).isNone && (variantOf s b mid).isNone then reply s h 0x0105 stModelUnknown []
    else match pageOf s b (page / 4096) with
      | none => reply s h 0x0105 stIndexRange []
      | some e =>
        if page % 4096 != 0 || !pageOfId s b mid e.page then reply s h 0x0105 stIndexRange []
        else
          let want := if (ofSealed s b e.page || ofSet s b e.page) && !e.crcLost then e.crc else crc
          if crc64 data != want then reply s h 0x0105 stCrcMismatch []
          else if !e.poison then reply s h 0x0105 stOk []
          else if framesFree s 2 = 0 then reply s h 0x0105 stMemQuota []
          else reply (repairPage s e data want 1) h 0x0105 stOk []

/-! ### Variants (R257 to R271) -/

/-- The index of a new variant in the variant table (R252): the lowest unused one (DESIGN CHOICE, log entry 129). -/
def freeIndex (s : State) : Nat :=
  ((List.range (s.models.variants.length + 1)).find? fun i =>
    !(s.models.variants.any fun v => v.state != .free && v.index == i)).getD 0

/-- VARIANT_MAX of the basin or the module's table is full (R252, R258 step 5). Entries in VERIFYING are not counted: the spec does not
say whether they are (DESIGN CHOICE, log entry 129). -/
def variantsFull (s : State) (b : Nat) : Bool :=
  let held := s.models.variants.filter fun v => v.state != .free && v.state != .verifying
  basinFld s b 32 63 ≤ (held.filter fun v => v.basin == b).length || 65536 ≤ held.length

/-- Enter a delta set for verification. -/
def addVerify (s : State) (x : Verify) : State := { s with models := { s.models with verifies := s.models.verifies ++ [x] } }

/-- VARIANT.CREATE (R253, R559, R258): VERIFYING until the set has been checked. -/
def execVariantCreate (h : Hdr) (vid setPages set crcs daddr dlen : Nat) (s : State) : Res :=
  hostCmd s h 0x0200 false (some (.model vid)) (.variantCreate h vid setPages set crcs daddr dlen) fun s =>
    let b := h.basin
    let st := if vid = 0 then stDescInvalid else if idLive s b vid then stIdInUse else setBreach s b setPages set crcs daddr dlen
    if st != stOk then reply s h 0x0200 st []
    else
      let g : GenSet := { set := set, setPages := setPages, daddr := daddr, dlen := dlen, crcs := crcs }
      let v : Variant := { basin := b, vid := vid, index := freeIndex s, base := tierNum s b set 4, state := .verifying, cur := g }
      let s := { s with models := { s.models with variants := s.models.variants ++ [v] } }
      deferCmd (addVerify s { basin := b, vid := vid, update := false, crcs := crcs, gs := g })
        { h := h, opcode := 0x0200, obj := .model vid }

/-- VARIANT.UPDATE (R253, R354, R559, R268): a new delta set for a serving variant. ST_TRAIN_ACTIVE ranks after the checks of R253 and
before those of R559 (DESIGN CHOICE, log entry 128). -/
def execVariantUpdate (h : Hdr) (vid setPages set crcs daddr dlen : Nat) (s : State) : Res :=
  hostCmd s h 0x0201 false (some (.model vid)) (.variantUpdate h vid setPages set crcs daddr dlen) fun s =>
    let b := h.basin
    let ok := (variantOf s b vid).any fun v => v.state.serves
    let st := if vid = 0 then stDescInvalid else if !ok then stVariantUnknown
      else if s.trains.any (fun t => t.basin == b && fld t.word.toNat 32 63 == vid) then stTrainActive
      else setBreach s b setPages set crcs daddr dlen
    if st != stOk then reply s h 0x0201 st []
    else
      let g : GenSet := { set := set, setPages := setPages, daddr := daddr, dlen := dlen, crcs := crcs }
      deferCmd (addVerify s { basin := b, vid := vid, update := true, crcs := crcs, gs := g })
        { h := h, opcode := 0x0201, obj := .model vid }

/-- The status of a delta set's verification (R258, in its order), the model and the sized generation when it passes. -/
def verifyStatus (s : State) (x : Verify) : Nat × GenSet :=
  let b := x.basin
  let base := tierNum s b x.gs.set 4
  if x.tid.isNone && !crcsAgree s b x.crcs (setPagesOf x.gs) then (stCrcMismatch, x.gs)
  else match sealedOf s b base, variantOf s b x.vid with
    | none, _ => (stModelUnknown, x.gs)
    | some _, none => (stVariantUnknown, x.gs)
    | some m, some v =>
      if x.update && v.base != base then (stDeltaInvalid, x.gs)
      else if (setOf s b m x.gs).isNone then (stDeltaInvalid, x.gs)
      else
        let g := sizedGen s b m { x.gs with half := if x.update && x.gs.daddr = v.cur.daddr then 1 - v.cur.half else 0 }
        if x.gs.dlen < g.dpages then (stVariantSpace, x.gs)
        else if !x.update && variantsFull s b then (stVariantLimit, x.gs)
        else (stOk, g)

/-- A passed set of an update becomes the pending generation, in place of one not yet published (R268, R269). What becomes of the replaced
set's region the spec does not say: its pages stay mapped, and they belong to no generation any more (DESIGN CHOICE, log entry 128). -/
def setPending (s : State) (b vid : Nat) (g : GenSet) : State :=
  match variantOf s b vid with
  | none => s
  | some v =>
    let s := unmapPages s b ((v.pend.map (derivedMapped s b)).getD [])
    setVariant s b vid fun v => { v with pend := some g, pendBuilt := false, building := if v.building = 2 then 0 else v.building }

/-- DELTA_VERIFY_COMPLETE (R257, R258): the set passes, with its page CRCs recorded, or the variant stays as it was. -/
def execDeltaVerifyComplete (basin vid : Nat) (s : State) : Res :=
  match s.models.verifies.find? fun x => x.basin == basin && x.vid == vid with
  | none => .next s
  | some x =>
    let (st, g) := verifyStatus s x
    let s := { s with models := { s.models with verifies := dropFirst (fun y => y.basin == basin && y.vid == vid) s.models.verifies } }
    let s :=
      if st = stOk then
        let s := recordCrcs s basin (setPagesOf g)
        if x.update then resetBlocked (setPending s basin vid g) basin vid
        else resetBlocked (setVariant s basin vid fun v => { v with cur := g, state := .cold, base := tierNum s basin g.set 4 }) basin vid
      else if x.update then s
      else { s with models := { s.models with variants := dropW (fun v => v.basin == basin && v.vid == vid) s.models.variants } }
    match x.tid with
    | some t =>
      let mine (x : Train) : Bool := x.basin == basin && fld x.word.toNat 0 31 == t
      if st = stOk then .next { s with trains := updW mine (fun x => { x with pubs := wrap 32 (x.pubs + 1) }) s.trains }
      else .next (raise s srcCore evTrainPublishSkipped [t, 3, st] [basin])
    | none => .next (answerDeferred s basin (fun d => d.opcode == (if x.update then 0x0201 else 0x0200) && d.obj == .model vid) st [])

/-- VARIANT.DELETE (R270, R271, R287, R354): RETIRING; an outstanding prefetch is answered, a build stops. PINNED and BLOCKED are cleared
(DESIGN CHOICE, log entry 128), and C0 steps of the variant have lost its pin (R327). -/
def execVariantDelete (h : Hdr) (vid : Nat) (s : State) : Res :=
  let b := h.basin
  let busy := (linkOf s b).deferred.any fun d => d.obj == .model vid && d.opcode != 0x0205
  hostCmd s h 0x0202 false (if busy then some (.model vid) else none) (.variantDelete h vid) fun s =>
    match (variantOf s b vid).filter fun v => v.state != .retiring with
    | none => reply s h 0x0202 stVariantUnknown []
    | some _ =>
      if s.trains.any fun t => t.basin == b && fld t.word.toNat 64 95 == vid then reply s h 0x0202 stModelInUse []
      else
        let s := answerDeferred s b (fun d => d.opcode == 0x0205 && d.obj == .model vid) stVariantDeleted []
        let s := setVariant s b vid fun v => { v with state := .retiring, building := 0, blocked := false, pinned := false }
        let s := voidVids s b [vid]
        let s := { s with models := { s.models with verifies := dropW (fun x => x.basin == b && x.vid == vid) s.models.verifies } }
        let s := sweepKv (closeTrees s b vid) b
        reply (clearRetiring s b vid) h 0x0202 stOk []

/-- VARIANT_RETIRE_COMPLETE (R270): the entry returns to FREE when its pages are cleared and no request of it is left. -/
def execVariantRetireComplete (basin vid : Nat) (s : State) : Res :=
  match variantOf s basin vid with
  | none => .next s
  | some v =>
    let left := stepsOfVariant s basin vid || !(reqsOf s basin vid).isEmpty || ((kvOf s basin).convs.any fun c => c.vid == vid) ||
      (s.tiers.clearing.any fun c => c.basin == basin && c.obj == vid) ||
      !v.unmapped || (s.trains.any fun t => t.basin == basin && fld t.word.toNat 32 63 == vid)
    if v.state != .retiring || left then .next s
    else .next { s with models := { s.models with
      variants := dropW (fun v => v.basin == basin && v.vid == vid) s.models.variants } }

/-- VARIANT.PIN (R266, R560): of a variant, or of a SEALED base model, whose missing copies are then asked for. Any PIN byte but 0 sets PINNED
(DESIGN CHOICE, log entry 128). -/
def execVariantPin (h : Hdr) (vid pin : Nat) (s : State) : Res :=
  hostCmd s h 0x0203 false (some (.model vid)) (.variantPin h vid pin) fun s =>
    let b := h.basin
    match (variantOf s b vid).filter (fun v => v.state != .retiring), sealedOf s b vid with
    | some _, _ => reply (unpinVoid (setVariant s b vid fun v => { v with pinned := pin != 0 }) b vid pin) h 0x0203 stOk []
    | none, some _ =>
      reply (askCopies (unpinVoid (setModel s b vid fun m => { m with pinned := pin != 0 }) b vid pin) b) h 0x0203 stOk []
    | none, none => reply s h 0x0203 stVariantUnknown []

/-- VARIANT.QUERY (R259, R560). -/
def execVariantQuery (h : Hdr) (vid : Nat) (s : State) : Res :=
  hostCmd s h 0x0204 false (some (.model vid)) (.variantQuery h vid) fun s =>
    match variantOf s h.basin vid with
    | none => reply s h 0x0204 stVariantUnknown []
    | some v => reply s h 0x0204 stOk [.record 64 (variantWord s v)]

/-- VARIANT.PREFETCH (R264, R377): answered when the variant is RESIDENT, or becomes BLOCKED. -/
def execVariantPrefetch (h : Hdr) (vid : Nat) (s : State) : Res :=
  hostCmd s h 0x0205 false (some (.model vid)) (.variantPrefetch h vid) fun s =>
    match (variantOf s h.basin vid).filter fun v => v.state != .retiring with
    | none => reply s h 0x0205 stVariantUnknown []
    | some v =>
      if v.state == .resident then reply s h 0x0205 stOk []
      else if v.blocked then reply s h 0x0205 stWeightPoisoned []
      else deferCmd s { h := h, opcode := 0x0205, obj := .model vid }

/-- MATERIALISATION_START (R260, R264, R268, R273): a needed COLD variant starts to build, or a serving one its pending
generation; a poisoned source blocks it. -/
def execMaterialisationStart (basin vid : Nat) (s : State) : Res :=
  match variantOf s basin vid with
  | none => .next s
  | some v =>
    match modelOf s basin v.base with
    | none => .next s
    | some m =>
      if v.state == .cold && v.building = 0 && !v.blocked && variantNeeded s basin vid then
        match badSource s m v.cur with
        | some p => .next (setVariant (blockVariant s v p) basin vid fun v => { v with building := 1 })
        | none => .next (askCopies (setVariant s basin vid fun v => { v with state := .materialising, building := 1 }) basin)
      else if v.state == .resident && v.building = 0 && !v.pendBuilt then
        match v.pend with
        | none => .next s
        | some g => match badSource s m g with
          | some p => .next (if ofBase s v p && !v.blocked then blockVariant s v p else s)
          | none => .next (askCopies (setVariant s basin vid fun v => { v with building := 2 }) basin)
      else .next s

/-- A build makes the DERIVED pages that a generation lacks (R262, R264); the pages that it reads have been used (R231). -/
def makeGen (s : State) (m : Model) (g : GenSet) : State :=
  let s' := (buildReads s m.basin g).foldl (fun s p => setPage s m.basin p fun e => { e with lastUse := s.now }) s
  placeDerived s' m.basin g (buildPages s m.basin m g)

/-- A build may place what it makes: the HBM3E copies of base pages that R261 asks for have been made in the tier queue (R226), and HBM3E has
room for the DERIVED pages (R221, R242). -/
def genFits (s : State) (m : Model) (g : GenSet) : Bool :=
  let n := (missingOf s m.basin g).length
  (copiesFor s m g).isEmpty && quotaOk s m.basin 1 n && n ≤ framesFree s 1

/-- The poisoned DERIVED pages of a generation that no step pins are dropped, to be built again (R236, R273). -/
def dropBadDerived (s : State) (b : Nat) (g : GenSet) : State :=
  unmapPages s b ((derivedMapped s b g).filter fun p => badPage s b p && !pinned s b p)

/-- Poisoned DERIVED pages that were pinned when they were lost are dropped once they are not (R220, R236). -/
def dropLostDerived (s : State) (b : Nat) : State :=
  unmapPages s b ((s.tiers.pages.filter fun e => e.basin == b && e.kind == .derived && e.poison && !pinned s b e.page).map (·.page))

/-- MATERIALISATION_COMPLETE (R219, R262, R264, R268, R272): the pages that the build reads have passed the CRC-64 check, and what it makes
is placed where HBM3E has room for it; else the build goes on waiting. -/
def execMaterialisationComplete (basin vid : Nat) (s : State) : Res :=
  match variantOf s basin vid with
  | none => .next s
  | some v =>
    match modelOf s basin v.base with
    | none => .next s
    | some m =>
      if v.state == .materialising && v.building = 1 then
        let s := dropBadDerived s basin v.cur
        match badSource s m v.cur, failingSource s m v.cur with
        | some p, _ => .next (blockVariant s v p)
        | none, some e => .next (failedRead s e)
        | none, none =>
          if (derivedMapped s basin v.cur).any (badPage s basin) || !genFits s m v.cur then .next s
          else
            let s := setVariant (makeGen s m v.cur) basin vid fun v => { v with
              state := .resident, building := 0, mats := sat 32 (v.mats + 1) }
            .next (answerDeferred s basin (fun d => d.opcode == 0x0205 && d.obj == .model vid) stOk [])
      else if v.state == .resident && v.building = 2 then
        match v.pend with
        | none => .next s
        | some g => match badSource s m g, failingSource s m g with
          | some _, _ => .next s
          | none, some e => .next (failedRead s e)
          | none, none =>
            if !genFits s m g then .next s
            else .next (setVariant (makeGen s m g) basin vid fun v => { v with
              pendBuilt := true, building := 0, mats := sat 32 (v.mats + 1) })
      else .next s

end Sys2Proof.Machine
end

