-- ==== Sys2Proof/Machine/BasinMem.lean ====
section
/-! DEFINITION. The host's commands over its basin's pages: BASIN.MAP, BASIN.UNMAP, BASIN.PLACE, BASIN.PAGEQ and BASIN.READ (R215, R228,
R377 to R379, R382). -/

namespace Sys2Proof.Machine

/-- The page belongs to an object named in R378. -/
def pageOwned (s : State) (b p : Nat) : Bool :=
  pageTied s b p || inStore (kvOf s b) p || (pageOf s b p).any fun e => e.kind == .kv || e.kind == .derived

/-- The pages of a region. -/
def regionPages (addr pages : Nat) : List Nat := (List.range pages).map (· + addr / 4096)

/-- What BASIN.MAP checks, in order (R378, R379): KIND and TIER, then the mapping. -/
def basinMapCheck (s : State) (b addr pages kind tier : Nat) : Nat :=
  if (kind = 1 && (tier = 1 || tier = 2)) || ((kind = 0 || kind = 2) && tier = 0) then
    mapCheck s b addr pages (if kind = 1 then tier else 2)
  else stDescInvalid

/-- BASIN.MAP (R378, R379). Where only lent frames are missing, it waits for them (R248). -/
def execBasinMap (h : Hdr) (addr pages kind tier : Nat) (s : State) : Res :=
  let t := if kind = 1 then tier else 2
  let o : Obj := .region (addr / 4096) pages
  if waitsForLent s h 0x0610 (.basinMap h addr pages kind tier) o (basinMapCheck s h.basin addr pages kind tier) addr pages t then
    .next (reclaimLends s t) else
  hostCmd s h 0x0610 false (some o) (.basinMap h addr pages kind tier) fun s =>
    let k : PKind := if kind = 0 then .model else if kind = 1 then .work else .train
    let st := basinMapCheck s h.basin addr pages kind tier
    if st != stOk then reply s h 0x0610 st [] else reply (mapPages s h.basin k t (regionPages addr pages)) h 0x0610 stOk []

/-- The checks of BASIN.UNMAP and BASIN.PLACE on their region, but for quotas (R379). -/
def regionCheck (s : State) (b addr pages : Nat) (place : Bool) : Nat :=
  let ps := regionPages addr pages
  if addr % 4096 != 0 || pages = 0 then stDescInvalid
  else if !inTiered addr (4096 * pages) then stIndexRange
  else if ps.any fun p => !pageMapped s b p then stIndexRange
  else if ps.any (pageOwned s b) || (place && ps.any fun p => !((pageOf s b p).any fun e => e.kind == .work)) then stNotPermitted
  else stOk

/-- The pages of a deferred command's region. -/
def Deferred.pages (d : Deferred) : List Nat :=
  match d.obj with
  | .region f n => (List.range n).map (· + f)
  | _ => []

/-- Unmap the regions whose pages are no longer pinned, and answer (R377). -/
def settleUnmaps (s : State) (b : Nat) : State :=
  ((linkOf s b).deferred.filter fun d => d.opcode == 0x0611 && !(d.pages.any (pinned s b))).foldl
    (fun s d => answerDeferred (unmapPages s b d.pages) b (fun x => x == d) stOk []) s

/-- BASIN.UNMAP (R379): answered when no page is pinned. -/
def execBasinUnmap (h : Hdr) (addr pages : Nat) (s : State) : Res :=
  let o : Obj := .region (addr / 4096) pages
  hostCmd s h 0x0611 false (some o) (.basinUnmap h addr pages) fun s =>
    let st := regionCheck s h.basin addr pages false
    if st != stOk then reply s h 0x0611 st []
    else settleUnmaps (deferCmd s { h := h, opcode := 0x0611, obj := o }) h.basin

/-- Answer the placements whose pages have all moved (R377). -/
def settlePlaces (s : State) (b : Nat) : State :=
  ((linkOf s b).deferred.filter fun d => d.opcode == 0x0612 &&
      d.pages.all fun p => (pageOf s b p).any fun e => e.homeT == d.arg && e.moving.isNone).foldl
    (fun s d => answerDeferred s b (fun x => x == d) stOk []) s

/-- BASIN.PLACE (R225, R379): the pages that are elsewhere wait to be moved. -/
def execBasinPlace (h : Hdr) (addr pages tier : Nat) (s : State) : Res :=
  let b := h.basin
  let o : Obj := .region (addr / 4096) pages
  hostCmd s h 0x0612 false (some o) (.basinPlace h addr pages tier) fun s =>
    let away := (regionPages addr pages).filter fun p => !((pageOf s b p).any fun e => e.homeT == tier && e.moving.isNone)
    let st := if tier != 1 && tier != 2 then stDescInvalid else regionCheck s b addr pages true
    if st != stOk then reply s h 0x0612 st []
    else if !quotaOk s b tier away.length || framesFree s tier < away.length then reply s h 0x0612 stMemQuota []
    else
      let s := away.foldl (fun s p => askMove s b p tier 1) s
      settlePlaces (deferCmd s { h := h, opcode := 0x0612, obj := o, arg := tier }) b

/-- BASIN.PAGEQ (R215, R377). -/
def execBasinPageq (h : Hdr) (addr : Nat) (s : State) : Res :=
  hostCmd s h 0x0613 false none (.basinPageq h addr) fun s =>
    if !inTiered addr 1 then reply s h 0x0613 stIndexRange []
    else reply s h 0x0613 stOk [.record 16
      (((pageOf s h.basin (addr / 4096)).orElse fun _ => pageOf s h.basin (addr / 4096 + 2 ^ 36)).elim 0 pageWord)]

/-- Bytes of a range before the first poisoned page that no clean copy serves. -/
def readable (s : State) (b addr len : Nat) : Nat :=
  match (pageRange addr len).find? (badPage s b) with
  | some p => 4096 * p - addr
  | none => len

/-- The transfer of a BASIN.READ and its reply (R382). -/
def runRead (s : State) (h : Hdr) (addr len xid : Nat) : State :=
  let b := h.basin
  let n := readable s b addr len
  let s := (pageRange addr (max 1 n)).foldl (fun s p => setPage s b p fun e => { e with lastUse := s.now }) s
  let s := sendData s b addr xid (tierBytes s b addr n)
  reply s h 0x0614 (if n = len then stOk else stDataPoisoned) [.u32 n]

/-- A read goes on: the units that lie in lent memory come from their lender first (R247). -/
def readOrWait (s : State) (h : Hdr) (addr len xid : Nat) : State :=
  match lentRange s h.basin addr (readable s h.basin addr len) 0 (16 * xid + 7) with
  | (.here, s) => runRead s h addr len xid
  | (.wait, s) => deferCmd s { h := h, opcode := 0x0614, obj := .read xid, arg := addr, at_ := len }
  | (.refused, s) => reply s h 0x0614 stDataPoisoned [.u32 0]

/-- A range holds a moving page (R228). -/
def rangeMoving (s : State) (b addr len : Nat) : Bool :=
  (pageRange addr len).any fun p => ((pageOf s b p).bind (·.moving)).isSome

/-- Reads that waited for moving pages or for a lender go on (R228, R247). -/
def settleReads (s : State) (b : Nat) : State :=
  ((linkOf s b).deferred.filter fun d => d.opcode == 0x0614 && !rangeMoving s b d.arg d.at_).foldl (fun s d =>
    let s := setLink s b fun l => { l with deferred := dropW (fun x => x == d) l.deferred }
    match d.obj with
    | .read x => readOrWait s d.h d.arg d.at_ x
    | _ => s) s

/-- BASIN.READ (R228, R382). -/
def execBasinRead (h : Hdr) (addr len xid : Nat) (s : State) : Res :=
  let b := h.basin
  hostCmd s h 0x0614 false (some (.read xid)) (.basinRead h addr len xid) fun s =>
    if len < 1 || 16777216 < len then reply s h 0x0614 stDescInvalid []
    else if !inTiered addr len || (pageRange addr len).any (fun p => !pageMapped s b p) then reply s h 0x0614 stIndexRange []
    else if rangeMoving s b addr len then deferCmd s { h := h, opcode := 0x0614, obj := .read xid, arg := addr, at_ := len }
    else readOrWait s h addr len xid

end Sys2Proof.Machine
end

