-- ==== Sys2Proof/Machine/Floats.lean ====
section
/-! DEFINITION. The narrow formats and the binary floating formats: F4, P2, G8 blocks, A24 codes, F32 and BF16, their
conversions, and the exponential table (R50 to R64, R104, R105, R131, R135). -/

namespace Sys2Proof.Machine

/-! ### Values -/

/-- A value: a sign, a magnitude m and an exponent e for m × 2^e; an infinity; or NaN. -/
inductive FVal where
  | fin (neg : Bool) (m : Nat) (e : Int)
  | inf (neg : Bool)
  | nan
  deriving DecidableEq, Repr

/-- An exact value from an integer and an exponent. -/
def fvalOf (v e : Int) : FVal := .fin (v < 0) v.natAbs e

/-- A shift left by a non-negative integer. -/
def shlI (m : Nat) (d : Int) : Nat := m <<< d.toNat

/-- Divide by 2^k, to nearest, ties to even. -/
def rneShift (m k : Nat) : Nat :=
  let q := m >>> k
  let r := m % 2 ^ k
  if k = 0 then m else if 2 ^ (k - 1) < r || (r == 2 ^ (k - 1) && q % 2 == 1) then q + 1 else q

/-- The magnitude code of a binary format with 8-bit exponent and `p` significand bits: round to nearest even, subnormals
kept, overflow to infinity (R57). `sticky`: bits below m are set. -/
def roundMag (p m : Nat) (e : Int) (sticky : Bool) : Nat :=
  if m = 0 && !sticky then 0
  else
    let m := 4 * m + (if sticky then 1 else 0)
    let e := e - 2
    let top : Int := e + Nat.log2 m
    let emin : Int := -126 - (p - 1 : Nat)
    let q : Int := max emin (top - (p - 1 : Nat))
    let k := q - e
    let r := if 0 ≤ k then rneShift m k.toNat else shlI m (-k)
    let (r, q) := if r = 2 ^ p then (r / 2, q + 1) else (r, q)
    if r < 2 ^ (p - 1) then r
    else
      let ex := q + (p - 1 : Nat) + 127
      if 255 ≤ ex then 255 * 2 ^ (p - 1) else ex.toNat * 2 ^ (p - 1) + (r - 2 ^ (p - 1))

/-- The F32 code of a value (R57, R62). -/
def toF32 (v : FVal) : BitVec 32 :=
  match v with
  | .nan => 0x7FC00000
  | .inf n => if n then 0xFF800000 else 0x7F800000
  | .fin n m e => BitVec.ofNat 32 ((if n then 2 ^ 31 else 0) + roundMag 24 m e false)

/-- Narrow a wider value to F32: a result of zero is positive (R57). Operations on F32 values keep the sign that IEEE 754 gives a
zero (R61, R110). -/
def narrow32 (v : FVal) : BitVec 32 := if toF32 v = 0x80000000 then 0 else toF32 v

/-- The value of an F32 code (R61, R62). -/
def ofF32 (w : BitVec 32) : FVal :=
  let n := w.toNat
  let neg := bitAt n 31
  let ex := fld n 23 30
  let fr := fld n 0 22
  if ex = 255 then (if fr = 0 then .inf neg else .nan)
  else if ex = 0 then .fin neg fr (-149)
  else .fin neg (fr + 2 ^ 23) ((ex : Int) - 150)

/-- The BF16 code of a value, a result of zero being positive (R57, R63). -/
def toBf16 (v : FVal) : Nat :=
  match v with
  | .nan => 0x7FC0
  | .inf n => if n then 0xFF80 else 0x7F80
  | .fin n m e => if n && roundMag 8 m e false != 0 then 2 ^ 15 + roundMag 8 m e false else roundMag 8 m e false

/-- The value of a BF16 code: 16 zero bits are appended (R63). -/
def ofBf16 (n : Nat) : FVal := ofF32 (BitVec.ofNat 32 (n * 65536))

/-! ### F32 arithmetic: every operation rounds to nearest even (R57, R110) -/

/-- The exact signed sum of two finite magnitudes at the lower exponent. -/
def addFin (n1 : Bool) (m1 : Nat) (e1 : Int) (n2 : Bool) (m2 : Nat) (e2 : Int) : FVal :=
  let e := min e1 e2
  let a : Int := (if n1 then -1 else 1) * (shlI m1 (e1 - e) : Int)
  let b : Int := (if n2 then -1 else 1) * (shlI m2 (e2 - e) : Int)
  if a + b = 0 then .fin (n1 && n2) 0 e else fvalOf (a + b) e

def addV (a b : FVal) : FVal :=
  match a, b with
  | .nan, _ => .nan
  | _, .nan => .nan
  | .inf x, .inf y => if x = y then .inf x else .nan
  | .inf x, _ => .inf x
  | _, .inf y => .inf y
  | .fin n1 m1 e1, .fin n2 m2 e2 => addFin n1 m1 e1 n2 m2 e2

def negV (a : FVal) : FVal :=
  match a with
  | .fin n m e => .fin (!n) m e
  | .inf n => .inf (!n)
  | .nan => .nan

def mulV (a b : FVal) : FVal :=
  match a, b with
  | .nan, _ => .nan
  | _, .nan => .nan
  | .inf x, .inf y => .inf (x != y)
  | .inf x, .fin n m _ => if m = 0 then .nan else .inf (x != n)
  | .fin n m _, .inf y => if m = 0 then .nan else .inf (n != y)
  | .fin n1 m1 e1, .fin n2 m2 e2 => .fin (n1 != n2) (m1 * m2) (e1 + e2)

def f32Add (a b : BitVec 32) : BitVec 32 := toF32 (addV (ofF32 a) (ofF32 b))
def f32Sub (a b : BitVec 32) : BitVec 32 := toF32 (addV (ofF32 a) (negV (ofF32 b)))
def f32Mul (a b : BitVec 32) : BitVec 32 := toF32 (mulV (ofF32 a) (ofF32 b))

/-- Division, rounded to nearest even (R136). -/
def f32Div (a b : BitVec 32) : BitVec 32 :=
  match ofF32 a, ofF32 b with
  | .nan, _ => 0x7FC00000
  | _, .nan => 0x7FC00000
  | .inf _, .inf _ => 0x7FC00000
  | .inf x, .fin n _ _ => toF32 (.inf (x != n))
  | .fin n m _, .inf y => toF32 (.fin (n != y) (m - m) 0)
  | .fin n1 m1 e1, .fin n2 m2 e2 =>
    if m2 = 0 then (if m1 = 0 then 0x7FC00000 else toF32 (.inf (n1 != n2)))
    else
      let q := (m1 <<< 60) / m2
      BitVec.ofNat 32 ((if n1 != n2 then 2 ^ 31 else 0) + roundMag 24 q (e1 - e2 - 60) ((m1 <<< 60) % m2 != 0))

/-- Multiplication by a power of two, by exponent adjustment (R130, R347). -/
def f32Scale (a : BitVec 32) (k : Int) : BitVec 32 :=
  match ofF32 a with
  | .fin n m e => toF32 (.fin n m (e + k))
  | v => toF32 v

/-- A value times an S8 value, exactly (R46). -/
def mulS8 (v : FVal) (base : Int) (c : Nat) : FVal :=
  let s := s8Val base c
  mulV v (fvalOf s.1 s.2)

/-- An order on F32 values as numbers, NaN apart: the value as a scaled integer pair compared exactly. -/
def ltV (a b : FVal) : Bool :=
  match a, b with
  | .nan, _ => false
  | _, .nan => false
  | .inf x, .inf y => x && !y
  | .inf x, _ => x
  | _, .inf y => !y
  | .fin n1 m1 e1, .fin n2 m2 e2 =>
    let e := min e1 e2
    let x : Int := (if n1 then -1 else 1) * (shlI m1 (e1 - e) : Int)
    let y : Int := (if n2 then -1 else 1) * (shlI m2 (e2 - e) : Int)
    x < y

/-! ### Block formats (R51 to R56) -/

inductive BFmt where
  | f4
  | p2
  | g8
  deriving DecidableEq, Repr

/-- Magnitudes of the 8 non-negative F4 codes in units of 2^(X − 128) (R51), and of P2 in units of 2^(X − 132) (R52). -/
def f4Mags : List Nat := [0, 1, 2, 3, 4, 6, 8, 12]
def p2Mags : List Nat := [0, 1, 4, 8, 12, 16, 24, 32]

/-- The magnitude of a G8 code of sign 0 in units of 2^(X − 143) (R53). -/
def g8Mag (c : Nat) : Nat := if c / 4 = 0 then c % 4 else (4 + c % 4) * 2 ^ (c / 4 - 1)

/-- The magnitude of a code without its sign, in the format's unit. -/
def BFmt.mag (f : BFmt) (c : Nat) : Nat :=
  match f with
  | .f4 => f4Mags.getD c 0
  | .p2 => p2Mags.getD c 0
  | .g8 => g8Mag c

/-- The largest finite code of sign 0. -/
def BFmt.top (f : BFmt) : Nat :=
  match f with
  | .g8 => 0x7B
  | _ => 7

/-- The exponent of the format's unit at block exponent X. -/
def BFmt.unit (f : BFmt) (x : Nat) : Int :=
  match f with
  | .f4 => (x : Int) - 128
  | .p2 => (x : Int) - 132
  | .g8 => (x : Int) - 143

/-- The sign bit of the format's codes. -/
def BFmt.sign (f : BFmt) : Nat :=
  match f with
  | .g8 => 0x80
  | _ => 8

/-- The signed integer operand of an F4 or P2 code (R51, R52, R56). -/
def opInt (f : BFmt) (c : Nat) : Int :=
  let m : Int := f.mag (c % f.sign)
  if f.sign ≤ c then -m else m

/-- Compare m × 2^e with g × 2^u: less, equal or greater. -/
def cmpMag (m : Nat) (e : Int) (g : Nat) (u : Int) : Ordering :=
  let b := min e u
  compare (shlI m (e - b)) (shlI g (u - b))

/-- The block holds the magnitude at exponent X: amax ≤ M × 2^(X − 127) (R55). -/
def fitsAt (f : BFmt) (x m : Nat) (e : Int) : Bool := cmpMag m e (f.mag f.top) (f.unit x) != .gt

/-- The largest finite magnitude of values. -/
def amax (l : List FVal) : Nat × Int :=
  l.foldl (fun a v => match v with
    | .fin _ m e => if cmpMag a.1 a.2 m e == .lt then (m, e) else a
    | _ => a) (0, 0)

/-- The fitted exponent (R55). -/
def fitExp (f : BFmt) (l : List FVal) : Nat :=
  let a := amax l
  if a.1 = 0 then 127 else ((List.range 255).find? fun x => fitsAt f x a.1 a.2).getD 254

/-- The largest code whose magnitude does not exceed the value. -/
def floorCode (f : BFmt) (x m : Nat) (e : Int) : Nat :=
  ((List.range (f.top + 1)).filter fun c => cmpMag (f.mag c) (f.unit x) m e != .gt).getLast?.getD 0

/-- Round a finite magnitude to a code at block exponent X: to nearest, ties to the even code, or by a draw (R57, R58). -/
def roundCode (f : BFmt) (x m : Nat) (e : Int) (draw : Option Nat) : Nat :=
  let lo := floorCode f x m e
  if f.top ≤ lo then f.top
  else
    let u := f.unit x
    let b := min e u
    let v := shlI m (e - b)
    let l := shlI (f.mag lo) (u - b)
    let h := shlI (f.mag (lo + 1)) (u - b)
    if v = l then lo
    else match draw with
      | some r => if r < 65536 * (v - l) / (h - l) then lo + 1 else lo
      | none => if 2 * v < l + h then lo else if l + h < 2 * v then lo + 1 else if lo % 2 = 0 then lo else lo + 1

/-- One element's code at block exponent X, with its sign; zero is positive, and an infinity or NaN takes the largest
magnitude (R57, R64). -/
def elemCode (f : BFmt) (x : Nat) (v : FVal) (draw : Option Nat) : Nat :=
  match v with
  | .nan => f.top
  | .inf n => (if n then f.sign else 0) + f.top
  | .fin n m e =>
    let c := roundCode f x m e draw
    if n && c != 0 then f.sign + c else c

/-- An element saturates at X (R116). -/
def elemSat (f : BFmt) (x : Nat) (v : FVal) : Bool :=
  match v with
  | .fin _ m e => !fitsAt f x m e
  | _ => false

/-- A finite non-zero element whose code is zero (R116). -/
def elemZero (f : BFmt) (x : Nat) (v : FVal) (draw : Option Nat) : Bool :=
  match v with
  | .fin _ m _ => m != 0 && elemCode f x v draw == 0
  | _ => false

/-- The value of an element (R51 to R53); none for a G8 NaN. -/
def elemVal (f : BFmt) (x c : Nat) : Option FVal :=
  let n := f.sign ≤ c
  let c := c % f.sign
  match f with
  | .g8 => if c = 0x7C then some (.inf n) else if 0x7C < c then none else some (.fin (n && c != 0) (g8Mag c) (f.unit x))
  | f => some (.fin (n && c != 0) (f.mag c) (f.unit x))

/-- Bytes of the element plane and of the exponent plane of a row of `n` elements (R54). -/
def BFmt.elemBytes (f : BFmt) (n : Nat) : Nat :=
  match f with
  | .g8 => n
  | _ => n / 2

def BFmt.rowBytes (f : BFmt) (n : Nat) : Nat := f.elemBytes n + n / 32

/-- The code of element e of a row of `n` elements (R54). -/
def rowCode (f : BFmt) (l : List Byte) (e : Nat) : Nat :=
  match f with
  | .g8 => (l.getD e 0).toNat
  | _ => let b := (l.getD (e / 2) 0).toNat
    if e % 2 = 0 then b % 16 else b / 16

/-- The exponent byte of block k of a row. -/
def rowExp (f : BFmt) (n : Nat) (l : List Byte) (k : Nat) : Nat := (l.getD (f.elemBytes n + k) 0).toNat

/-- The element bytes of codes (R54). -/
def packCodes (f : BFmt) (l : List Nat) : List Byte :=
  match f with
  | .g8 => l.map (BitVec.ofNat 8)
  | _ => packNibbles l

/-- Narrow a block with its fitted exponent, to nearest (R55, R57): its codes and exponent. -/
def fitBlock (f : BFmt) (l : List FVal) : List Nat × Nat :=
  let x := fitExp f l
  (l.map fun v => elemCode f x v none, x)

/-- Cut a list into pieces of `n`. -/
def pieces {α : Type} (n : Nat) : Nat → List α → List (List α)
  | 0, _ => []
  | k + 1, l => if l.isEmpty then [] else l.take n :: pieces n k (l.drop n)

/-- A whole row narrowed in blocks of 32 with fitted exponents (R54, R55). -/
def fitRow (f : BFmt) (l : List FVal) : List Byte :=
  let bs := (pieces 32 l.length l).map (fitBlock f)
  packCodes f (bs.map (·.1)).flatten ++ bs.map fun b => BitVec.ofNat 8 b.2

/-! ### A24 (R59, R60, R104, R105) -/

/-- An exact sum as an A24 value (R59). -/
def a24 (v : Int) : Acc := if 8388606 < v then .inf false else if v < -8388607 then .inf true else .fin v

/-- Infinity meets infinity, sticky (R78). -/
def infJoin (a b : Bool) : Acc := if a = b then .inf a else .nan

/-- Add to an accumulator (R59, R78, R105). -/
def accAdd (a b : Acc) : Acc :=
  match a, b with
  | .nan, _ => .nan
  | _, .nan => .nan
  | .inf x, .inf y => infJoin x y
  | .inf x, _ => .inf x
  | _, .inf y => .inf y
  | .fin x, .fin y => a24 (x + y)

/-- The 32-bit container (R60). -/
def accCode (a : Acc) : Nat :=
  match a with
  | .nan => 2 ^ 24
  | .inf n => if n then 0x800000 else 0x7FFFFF
  | .fin v => unsigned 24 v

/-- The value of a container (R60). -/
def accOf (w : Nat) : Acc :=
  if bitAt w 24 then .nan
  else
    let c := w % 2 ^ 24
    if c = 0x7FFFFF then .inf false else if c = 0x800000 then .inf true else .fin (signed 24 c)

/-- Shift a magnitude right, toward zero (R104). -/
def truncShift (v : Int) (k : Nat) : Int := if v < 0 then -((v.natAbs >>> k : Nat) : Int) else ((v.natAbs >>> k : Nat) : Int)

/-- A confluence addition of two partial sums (R104, R105). -/
def confAdd (a b : PSum) : PSum :=
  match a.v, b.v with
  | .fin x, .fin y =>
    if x = 0 && y = 0 then { v := .fin 0, p := min a.p b.p }
    else if x = 0 then b
    else if y = 0 then a
    else
      let p := max a.p b.p
      { v := a24 (truncShift x (p - a.p) + truncShift y (p - b.p)), p := p }
  | x, y => { v := accAdd x y, p := max a.p b.p }

/-! ### Confluence order (R103) -/

/-- The largest power of two below n, for n at least 2. -/
def powBelow : Nat → Nat → Nat → Nat
  | 0, p, _ => p
  | k + 1, p, n => if 2 * p < n then powBelow k (2 * p) n else p

/-- The two children of the node over `n` leaves from `lo`. -/
def confSplit (lo n : Nat) : (Nat × Nat) × (Nat × Nat) :=
  let p := powBelow n 1 n
  ((lo, p), (lo + p, n - p))

/-- The node (lo, n) is a node of the tree over `total` leaves from 0. -/
def confNode : Nat → Nat → Nat → Nat → Nat → Bool
  | 0, _, _, _, _ => false
  | k + 1, lo, n, a, total =>
    if lo = a && n = total then true
    else if total ≤ 1 then false
    else
      let s := confSplit a total
      confNode k lo n s.1.1 s.1.2 || confNode k lo n s.2.1 s.2.2

/-- A fold over the tree of `n` leaves from `lo`. -/
def confFold {α : Type} (add : α → α → α) (leaf : Nat → α) : Nat → Nat → Nat → α
  | 0, lo, _ => leaf lo
  | k + 1, lo, n =>
    if n ≤ 1 then leaf lo
    else
      let s := confSplit lo n
      add (confFold add leaf k s.1.1 s.1.2) (confFold add leaf k s.2.1 s.2.2)

/-! ### The exponential table (R131) -/

def expTable : List Nat :=
  [65536, 65359, 65182, 65006, 64830, 64655, 64480, 64306, 64132, 63958, 63785, 63613, 63441, 63269, 63098, 62928] ++
  [62757, 62588, 62419, 62250, 62081, 61914, 61746, 61579, 61413, 61247, 61081, 60916, 60751, 60587, 60423, 60260] ++
  [60097, 59934, 59772, 59611, 59449, 59289, 59128, 58968, 58809, 58650, 58491, 58333, 58176, 58018, 57861, 57705] ++
  [57549, 57393, 57238, 57083, 56929, 56775, 56622, 56468, 56316, 56163, 56012, 55860, 55709, 55558, 55408, 55258] ++
  [55109, 54960, 54811, 54663, 54515, 54368, 54221, 54074, 53928, 53782, 53637, 53492, 53347, 53203, 53059, 52916] ++
  [52773, 52630, 52488, 52346, 52204, 52063, 51922, 51782, 51642, 51502, 51363, 51224, 51085, 50947, 50810, 50672] ++
  [50535, 50399, 50262, 50126, 49991, 49856, 49721, 49586, 49452, 49319, 49185, 49052, 48920, 48787, 48655, 48524] ++
  [48393, 48262, 48131, 48001, 47871, 47742, 47613, 47484, 47356, 47228, 47100, 46973, 46846, 46719, 46593, 46467] ++
  [46341, 46216, 46091, 45966, 45842, 45718, 45594, 45471, 45348, 45225, 45103, 44981, 44859, 44738, 44617, 44497] ++
  [44376, 44256, 44137, 44017, 43898, 43780, 43661, 43543, 43425, 43308, 43191, 43074, 42958, 42841, 42726, 42610] ++
  [42495, 42380, 42265, 42151, 42037, 41923, 41810, 41697, 41584, 41472, 41360, 41248, 41136, 41025, 40914, 40804] ++
  [40693, 40583, 40473, 40364, 40255, 40146, 40037, 39929, 39821, 39714, 39606, 39499, 39392, 39286, 39180, 39074] ++
  [38968, 38863, 38757, 38653, 38548, 38444, 38340, 38236, 38133, 38030, 37927, 37824, 37722, 37620, 37518, 37417] ++
  [37316, 37215, 37114, 37014, 36914, 36814, 36715, 36615, 36516, 36417, 36319, 36221, 36123, 36025, 35928, 35831] ++
  [35734, 35637, 35541, 35445, 35349, 35253, 35158, 35063, 34968, 34874, 34779, 34685, 34591, 34498, 34405, 34312] ++
  [34219, 34126, 34034, 33942, 33850, 33759, 33667, 33576, 33486, 33395, 33305, 33215, 33125, 33035, 32946, 32857]

/-- The probability of a distance δ in units of 2^−8, as a weight in units of 2^−16 (R132, R173, R318, R339). -/
def expWeight (d : Nat) : Nat := if 17 ≤ d / 256 then 0 else expTable.getD (d % 256) 0 >>> (d / 256)

/-- The score of a difference: floor(v × s × 256) clamped below (R318, R339): none for an infinite distance. -/
def scaledFloor (v : FVal) (base : Int) (c : Nat) : Int :=
  match mulS8 v base c with
  | .fin n m e =>
    let k := e + 8
    let a : Int := if 0 ≤ k then (shlI m k : Nat) else ((m >>> (-k).toNat : Nat) : Int)
    let exact := 0 ≤ k || (m % 2 ^ (-k).toNat == 0)
    let r := if n then (if exact then -a else -a - 1) else a
    max r (-8388607)
  | _ => -8388607

end Sys2Proof.Machine
end

