-- ==== Sys2Proof/Machine/Access.lean ====
section
/-! DEFINITION. The wide view of a step: which bytes a unit reaches at a basin address, eddies and their stalls, and the faults
that a step detects (R71, R186, R189 to R192, R197, R213, R214, R220, R235, R236, R238, R263, R525). -/

namespace Sys2Proof.Machine

/-! ### Steps -/

def stepOf (s : State) (sid : Nat) : Option Step := s.steps.find? fun t => t.sid == sid

def setStep (s : State) (sid : Nat) (f : Step → Step) : State := { s with steps := updW (fun t => t.sid == sid) f s.steps }

def setUnits (s : State) (sid : Nat) (f : Units → Units) : State := setStep s sid fun t => { t with units := f t.units }

/-- A step whose units work: bound, not held, not stopped. -/
def stepRuns (t : Step) : Bool := t.bound && !t.held && !t.stopped

/-- A step whose units may finish the piece of work they have begun, held or not (R80, R120, R138, R322). -/
def stepWorks (t : Step) : Bool := t.bound && !t.stopped

/-- A unit that has detected a fault of the step stops at it (R90). -/
def haltUnit (s : State) (sid unit : Nat) : State :=
  setUnits s sid fun u => { u with halted := unit :: dropW (fun x => x == unit) u.halted }

/-- A unit goes on with its work: it has detected no fault (R90). -/
def unitGoes (t : Step) (unit : Nat) : Bool := !t.units.halted.contains unit

/-- A field of a descriptor. -/
def dfld (d : BitVec 512) (lo hi : Nat) : Nat := fld d.toNat lo hi

/-- A descriptor of a step by index. -/
def descOf (t : Step) (i : Nat) : BitVec 512 := t.descs.getD i 0

/-- The KIND of a descriptor (R555). -/
def kindOf (d : BitVec 512) : Nat := dfld d 0 7

/-- The step's descriptor of a kind at an index, and the step, when it runs. -/
def runsDesc (s : State) (sid i kind : Nat) : Option Step :=
  match stepOf s sid with
  | some t => if stepRuns t && i < t.descs.length && kindOf (descOf t i) == kind then some t else none
  | none => none

/-! ### Reaches of a basin by logical position (R398, R513) -/

/-- Whole tributaries of a basin, increasing. -/
def wholeTribs (s : State) (b : Nat) : List Nat := (List.range 16).filter fun t => bitAt (basinFld s b 128 143) t

/-- Physical reaches by logical position. -/
def logReaches (s : State) (b : Nat) : List Nat :=
  ((wholeTribs s b).map fun t => (List.range 16).map (· + 16 * t)).flatten ++
    (List.range 256).filter fun r => bitAt (basinFld s b 192 447) r

/-- Positions of fenced reaches among those of a group take host reaches in turn (R513): pairs of position and host position. -/
def hostsOf (s : State) (b first n : Nat) : List (Nat × Nat) :=
  let rs := logReaches s b
  let ps := (List.range n).map (· + first)
  let fenced (p : Nat) : Bool := s.boot.fenced.contains (rs.getD p 256)
  (ps.filter fenced).foldl (fun hs p =>
    let free := ps.filter fun q => !fenced q && !(hs.any fun h => h.2 == q)
    match free.find? (fun q => q / 16 = p / 16), free.head? with
    | some q, _ => hs ++ [(p, q)]
    | none, some q => hs ++ [(p, q)]
    | none, none => hs) []

/-- The physical reach that runs a position among those of a group (R26, R513). -/
def reachAt (s : State) (b first n p : Nat) : Nat :=
  let p := ((hostsOf s b first n).find? fun h => h.1 == p).elim p (·.2)
  (logReaches s b).getD p 0

/-- The physical tributary of a logical tributary (R398): that of the reach at its first position. -/
def tribAt (s : State) (b u : Nat) : Nat := (logReaches s b).getD (16 * u) 0 / 16

/-- The steward of the lowest tributary of a step's positions: the source of faults of units that are not tied to one place. -/
def stepSteward (s : State) (t : Step) : Nat := srcSteward (tribAt s t.basin (t.first / 16))

/-! ### Faults of a step (R90, R238, R525) -/

/-- A unit detects a fault: it joins the step's faults and is recorded (R72, R525), and condition 4 of R326 fails for a step of class
C0 (R327). -/
def stepFlt (s : State) (t : Step) (f : Flt) : State :=
  stepFaultRecord (setStep s t.sid fun t => { t with
    faults := t.faults ++ [f], void := if t.cls = 0 && t.void = 0 then 4 else t.void }) t.basin t.job f

/-- The TAG of a descriptor by kind, with the TAG at MAT for an epilogue descriptor (R525). -/
def tagOfDesc (t : Step) (i : Nat) : Nat :=
  let d := descOf t i
  match kindOf d with
  | 0x10 => dfld d 368 383
  | 0x11 => dfld d 368 383
  | 0x20 => dfld (BitVec.ofNat 512 0 ||| ((t.descs.zipIdx.find? fun x =>
      kindOf x.1 == 0x10 && fld t.prog.toNat 192 239 + 64 * x.2 == dfld d 96 143).elim 0 (·.1))) 368 383
  | 0x30 => dfld d 368 383
  | 0x31 => dfld d 368 383
  | 0x50 => dfld d 240 255
  | 0x60 => dfld d 304 319
  | 0x61 => dfld d 160 175
  | 0x62 => dfld d 80 95
  | 0x70 => dfld d 112 127
  | _ => 0

/-- A fault of descriptor `i`, detected by a source, at an address. -/
def descFault (s : State) (t : Step) (src status i addr : Nat) : State :=
  stepFlt s t { status := status, src := src, desc := i, tag := tagOfDesc t i, aux := i, addr := addr }

/-- A unit detects a fault of descriptor `i` and stops at it (R90). -/
def unitFault (s : State) (t : Step) (src unit status i addr : Nat) : State :=
  haltUnit (descFault s t src status i addr) t.sid unit

/-- Precedence of statuses (R72, R150, R199, R238): lower first. -/
def statusRank (st : Nat) : Nat :=
  let l := [stDataPoisoned, stWeightPoisoned, stPoolAccess, stIndexRange, stKvReadonly, stEddyOrder, stWindowFault,
            stFormatInvalid, stCapViolation, stEddyStall]
  l.idxOf st

/-- The status that ranks first among faults. -/
def worstStatus (l : List Flt) : Nat :=
  (l.foldl (fun b f => match b with
    | none => some f.status
    | some x => if statusRank f.status < statusRank x then some f.status else some x) none).getD 0

/-! ### Translation (R213, R214, R235, R236, R263) -/

/-- The generation of the variant that a step runs, none for a base. -/
def stepGen (s : State) (t : Step) : Option GenSet :=
  (variantOf s t.basin t.vid).bind fun v => (v.cur :: v.old ++ v.pend.toList).find? fun g => g.gen == t.gen

/-- The page that serves a step's wide-view read of a page (R263). -/
def viewPage (s : State) (t : Step) (p : Nat) : Nat :=
  match stepGen s t with
  | none => p
  | some g => match g.overlay.find? fun x => x.1 == p with
    | some x => x.2
    | none => if g.daddr / 4096 ≤ p && p < g.daddr / 4096 + g.dlen then p + 2 ^ 36 * g.half else p

/-- The status of a read of a poisoned page by its kind (R236). -/
def poisonStatus (k : PKind) : Nat :=
  match k with
  | .model => stWeightPoisoned
  | .derived => stWeightPoisoned
  | .kv => stKvPoisoned
  | .work => stDataPoisoned
  | .train => stDataPoisoned

/-- Where a byte lies, or the status of the refused access. -/
inductive Where where
  | at_ (place : Nat)
  | refused (status : Nat)
  deriving DecidableEq, Repr

/-- The place that serves a read. -/
def readPlace (s : State) (t : Step) (addr : Nat) : Where :=
  if addr < 0x18000000 then
    match poolPlace s t.basin t.job addr with
    | some p => .at_ p
    | none => .refused stPoolAccess
  else match pageOf s t.basin (viewPage s t (addr / 4096)) with
    | none => .refused stIndexRange
    | some e => if e.poison && e.copy.isNone then .refused (poisonStatus e.kind) else .at_ (readAt e + addr % 4096)

/-- The place of a write: a read-only page refuses it (R214). -/
def writePlace (s : State) (t : Step) (addr : Nat) : Where :=
  if addr < 0x18000000 then
    match poolPlace s t.basin t.job addr with
    | some p => .at_ p
    | none => .refused stPoolAccess
  else match pageOf s t.basin (addr / 4096) with
    | none => .refused stIndexRange
    | some e => if e.kind.readOnly then .refused stIndexRange else .at_ (homeAt e + addr % 4096)

/-- A 64-byte unit of HBM3E or LPDDR5X traffic is counted at its stack or package (R222, R223, R532). -/
def countUnit (s : State) (place field : Nat) : State :=
  if place < lpxBase then count s 2 (place % 4096 / 512) 0 field 1
  else if place < poolBase then
    let o := place - lpxBase
    count s 3 ((o % 4096 / 64 + o / 4096) % 64 / 4) 0 field 1
  else s

/-! ### Eddies (R189 to R192, R197) -/

def eddySlot (d : BitVec 512) : Nat := 64 * (dfld d 32 43 + 1)
def eddyNslot (d : BitVec 512) : Nat := dfld d 48 55 + 1
def eddyRing (d : BitVec 512) : Nat := dfld d 64 111
def eddyLbase (d : BitVec 512) : Nat := dfld d 128 175
def eddyNlog (d : BitVec 512) : Nat := dfld d 192 223

/-- The eddy whose logical range holds an address, with the offset in it. -/
def eddyAt (t : Step) (addr : Nat) : Option (Eddy × Nat) :=
  (t.units.eddies.find? fun e =>
    let d := descOf t e.desc
    eddyLbase d ≤ addr && addr < eddyLbase d + eddySlot d * eddyNlog d).map fun e => (e, addr - eddyLbase (descOf t e.desc))

/-- The address in the ring of an offset of the logical range (R189). -/
def ringAddr (d : BitVec 512) (off : Nat) : Nat :=
  eddyRing d + eddySlot d * (off / eddySlot d % eddyNslot d) + off % eddySlot d

/-- Head: the lowest logical slot not yet released; tail: the lowest not yet FULL (R192). -/
def eddyHead (e : Eddy) : Nat := e.slots.foldl (fun m x => min m x.gen) (2 ^ 64)
def eddyTail (e : Eddy) : Nat := e.slots.foldl (fun m x => min m (if x.full then x.gen + e.slots.length else x.gen)) (2 ^ 64)

inductive EddyOut where
  | done (e : Eddy)
  | stall
  | order
  deriving DecidableEq, Repr

/-- A progress event restarts the watchdog from zero (R197). -/
def eddyProgress (now : Nat) (e : Eddy) : Eddy :=
  { e with wdogSum := 0, wdogSince := if e.stalls.isEmpty then none else some now }

/-- One unit access (R190, R191). -/
def eddyUnit (now : Nat) (d : BitVec 512) (e : Eddy) (isWrite : Bool) (off : Nat) : EddyOut :=
  let n := off / eddySlot d
  let p := n % eddyNslot d
  match e.slots[p]? with
  | none => .order
  | some x =>
    let put (y : ESlot) : Eddy := { e with slots := e.slots.set p y }
    if n < x.gen then .order
    else if isWrite then
      if x.gen < n then .stall
      else if x.full then .order
      else if x.written + 1 = eddySlot d / 64 then
        .done (eddyProgress now { put { x with written := x.written + 1, full := true } with filled := sat 32 (e.filled + 1) })
      else .done (put { x with written := x.written + 1 })
    else if x.gen < n || !x.full then .stall
    else if x.read + 1 = dfld d 224 247 then
      .done (eddyProgress now { put { gen := x.gen + eddyNslot d } with released := sat 32 (e.released + 1) })
    else .done (put { x with read := x.read + 1 })

/-- A unit's access stalls: it is listed once, and the watchdog runs from the first (R190, R197). -/
def eddyStalls (now : Nat) (e : Eddy) (x : EStall) : Eddy :=
  if e.stalls.any fun y => y.unit == x.unit && y.off == x.off && y.isWrite == x.isWrite then e
  else { e with stalls := e.stalls ++ [x], wdogSince := some (e.wdogSince.getD now) }

/-- A stall ends: its time is added to PSTALL or CSTALL (R196). -/
def eddyUnstall (now : Nat) (e : Eddy) (unit : Nat) (isWrite : Bool) (off : Nat) : Eddy :=
  match e.stalls.find? fun y => y.unit == unit && y.off == off && y.isWrite == isWrite with
  | none => e
  | some y =>
    let e := { e with stalls := dropW (fun z => z == y) e.stalls }
    let e := if isWrite then { e with pstall := sat 32 (e.pstall + (now - y.since)) }
      else { e with cstall := sat 32 (e.cstall + (now - y.since)) }
    if e.stalls.isEmpty then { e with wdogSince := none, wdogSum := 0 } else e

def setEddy (s : State) (sid eid : Nat) (f : Eddy → Eddy) : State :=
  setUnits s sid fun u => { u with eddies := updW (fun e => e.eid == eid) f u.eddies }

/-- Put bytes back where a write has replaced them. -/
def putBack (t : Step) (s : State) (x : Nat × List Byte) : State :=
  x.2.zipIdx.foldl (fun s y => match writePlace s t (x.1 + y.2) with
    | .at_ p => { s with mem := memPut s.mem p y.1 }
    | .refused _ => s) s

/-- A step stops on a fault: its outputs are discarded, sums added to GACC among them (log entry 96), and the job's windows close and its
pools are cleared (R71, R90, R185, R203, R205). -/
def stopStep (s : State) (t : Step) (status : Nat) : State :=
  let s := t.units.before.reverse.foldl (putBack t) s
  let s := setStep s t.sid fun t => { t with stopped := true, status := status, fill := none, units := {} }
  let s := revokeJob s t.basin t.job
  clearJob (closeWindows s fun w => w.basin == t.basin && w.job == t.job) t.basin t.job

/-- A read of poisoned data ends the job, whose poisoned pages are then freed (R236). -/
def endPoisoned (s : State) (t : Step) (hit : List Nat) : State :=
  endJob (setJob s t.basin t.job fun j => { j with poisoned := j.poisoned ++ hit }) t.basin t.job stDataPoisoned

/-! ### The kinds of units (R198, log entry 25): REACH 0, ADDERS 1, EPILOGUE 2, MILLRACE 3, WEIR 4, STEWARD 5, WINDOW 6. A
unit number is its kind plus 16 times its place. Firmware's accesses in the narrow view count as kind 7. -/

def uReach (p : Nat) : Nat := 16 * p
def uAdder : Nat := 1
def uEpi : Nat := 2
def uMill (m : Nat) : Nat := 3 + 16 * m
def uWeir : Nat := 4
def uSteward : Nat := 5
def uWindow (w : Nat) : Nat := 6 + 16 * w
def uFirmware : Nat := 7

/-! ### Reading and writing in the wide view -/

/-- The outcome of an access: a value and the state, or the state after a stall or a fault. -/
inductive Got (α : Type) where
  | ok (a : α) (s : State)
  | stop (s : State)

/-- Who accesses: the step, the source that reports its faults, the unit, its descriptor, and its piece of work where a unit has more
than one at a time. -/
structure Acc3 where
  sid : Nat
  src : Nat
  unit : Nat
  desc : Nat
  task : List Nat := []

/-- The first addresses of the 64-byte units that a range touches, with the part of the range in each. -/
def unitCuts : Nat → Nat → Nat → List (Nat × Nat)
  | 0, _, _ => []
  | fuel + 1, addr, n =>
    if n = 0 then []
    else
      let k := min n (64 - addr % 64)
      (addr, k) :: unitCuts fuel (addr + k) (n - k)

/-- Pages touched keep the time of their last access (R231): the page that serves it. -/
def touch (s : State) (b page : Nat) : State :=
  if page < tieredBase / 4096 then s else setPage s b page fun e => { e with lastUse := s.now }

/-- A step's read of a byte at a place: in lent memory it waits for the lender's data (R247). -/
def lentRead (s : State) (t : Step) (unit page addr : Nat) : LentOut × State :=
  match pageOf s t.basin page with
  | some e => if addr < tieredBase then (.here, s) else lentGet s e t.sid unit addr
  | none => (.here, s)

/-- Access one piece inside a unit; an eddy's unit is counted (R189, R190). Answers the place of its first byte. -/
def touchUnit (s : State) (a : Acc3) (isWrite : Bool) (addr : Nat) : Got Nat :=
  match stepOf s a.sid with
  | none => .stop s
  | some t =>
    let fin (s : State) (t : Step) (addr : Nat) : Got Nat :=
      let page := if isWrite then addr / 4096 else viewPage s t (addr / 4096)
      match (if isWrite then writePlace s t addr else readPlace s t addr) with
      | .refused st =>
        .stop (if st = stKvPoisoned && a.unit % 16 == 3 then s else haltUnit (descFault s t a.src st a.desc addr) a.sid a.unit)
      | .at_ p => match (if isWrite then (.here, s) else lentRead s t a.unit page addr) with
        | (.here, s) => .ok p (touch (countUnit s p (b2n isWrite)) t.basin page)
        | (.wait, s) => .stop s
        | (.refused, s) => .stop (haltUnit (descFault s t a.src stWindowFault a.desc addr) a.sid a.unit)
    match eddyAt t addr with
    | none => fin s t addr
    | some (e, off) =>
      let d := descOf t e.desc
      match eddyUnit s.now d e isWrite off with
      | .done e' =>
        let since := (e.stalls.find? fun y => y.unit == a.unit && y.off == off / 64 && y.isWrite == isWrite).map (·.since)
        let s := match since with
          | some x => if a.unit % 16 = 0 then count s 0 a.src 0 5 (s.now - x) else s
          | none => s
        fin (setEddy s a.sid e.eid fun _ => eddyUnstall s.now e' a.unit isWrite (off / 64)) t (ringAddr d off)
      | .stall =>
        let x : EStall := { unit := a.unit, isWrite := isWrite, off := off / 64, data := [], since := s.now }
        .stop (setEddy s a.sid e.eid fun e => eddyStalls s.now e x)
      | .order =>
        let f : Flt := { status := stEddyOrder, src := a.src, desc := e.desc, tag := dfld d 304 319, aux := e.eid,
                         addr := addr, arg0 := eddyHead e, arg1 := eddyTail e }
        .stop (haltUnit (stepFlt s t f) a.sid a.unit)

/-- A unit written to a page homed in lent memory travels as a window transfer over the fords (R201, R202, R247). -/
def lentTraffic (s : State) (place : Nat) : State :=
  let o := place - lentBase
  if place < lentBase then s
  else match pageOf s (o / 2 ^ 48) (o % 2 ^ 48 / 4096) with
    | some e => lentUnit s e true (o % 4096 / 64)
    | none => s

/-! A stalled access holds its unit's handshake, and nothing is lost or repeated (R190): the units of an access that are done stay done,
and the unit's command, coming again, goes on from the one that was held back. -/

/-- An access of a unit's piece of work. -/
def isPiece (a : Acc3) (isWrite : Bool) (cuts : List (Nat × Nat)) (p : Piece) : Bool :=
  p.unit == a.unit && p.desc == a.desc && p.task == a.task && p.isWrite == isWrite && p.cuts == cuts

/-- What is done of an access. -/
def pieceOf (s : State) (a : Acc3) (isWrite : Bool) (cuts : List (Nat × Nat)) : Option Piece :=
  (stepOf s a.sid).bind fun t => t.units.pieces.find? (isPiece a isWrite cuts)

/-- An access has been done up to a cut, and waits there. -/
def keepPiece (s : State) (a : Acc3) (isWrite : Bool) (cuts : List (Nat × Nat)) (done : Nat) (bytes : List Byte) : State :=
  setUnits s a.sid fun u =>
    let rest := dropW (isPiece a isWrite cuts) u.pieces
    { u with pieces := if done = 0 then rest else rest ++
      [{ unit := a.unit, desc := a.desc, task := a.task, isWrite := isWrite, cuts := cuts, done := done, bytes := bytes }] }

/-- A unit's piece of work has ended: nothing of its accesses is kept. -/
def endPiece (s : State) (a : Acc3) : State :=
  setUnits s a.sid fun u => { u with pieces := dropW (fun p => p.unit == a.unit && p.desc == a.desc && p.task == a.task) u.pieces }

/-- Read pieces in turn, from one on: `k` are done and have given `acc`. -/
def readCuts (a : Acc3) (cuts : List (Nat × Nat)) : Nat → List Byte → List (Nat × Nat) → State → Got (List Byte)
  | _, acc, [], s => .ok acc s
  | k, acc, (addr, n) :: l, s =>
    match touchUnit s a false addr with
    | .stop s => .stop (keepPiece s a false cuts k acc)
    | .ok p s => readCuts a cuts (k + 1) (acc ++ memGets s.mem p n) l s

/-- Write pieces in turn, from one on: `k` are done. -/
def writeCuts (a : Acc3) (cuts : List (Nat × Nat)) : Nat → List (Nat × Nat) → List Byte → State → Got Unit
  | _, [], _, s => .ok () s
  | k, (addr, n) :: l, bs, s =>
    match touchUnit s a true addr with
    | .stop s => .stop (keepPiece s a true cuts k [])
    | .ok p s => writeCuts a cuts (k + 1) l (bs.drop n) (lentTraffic { s with mem := memPuts s.mem p (bs.take n) } p)

/-- Read an access, going on from what is done of it. -/
def readPieces (s : State) (a : Acc3) (cuts : List (Nat × Nat)) : Got (List Byte) :=
  let p := pieceOf s a false cuts
  let k := p.elim 0 (·.done)
  readCuts a cuts k (p.elim [] (·.bytes)) (cuts.drop k) s

/-- Write an access, going on from what is done of it. With it the piece of work ends. -/
def writePieces (s : State) (a : Acc3) (cuts : List (Nat × Nat)) (bs : List Byte) : Got Unit :=
  let k := (pieceOf s a true cuts).elim 0 (·.done)
  match writeCuts a cuts k (cuts.drop k) (bs.drop ((cuts.take k).map (·.2)).sum) s with
  | .ok _ s => .ok () (endPiece s a)
  | .stop s => .stop s

/-- The cuts of several ranges. -/
def manyCuts (l : List (Nat × Nat)) : List (Nat × Nat) := (l.map fun x => unitCuts (x.2 / 64 + 2) x.1 x.2).flatten

/-- Read `n` bytes in the wide view; the piece of work that needs them ends with it. -/
def wideRead (s : State) (a : Acc3) (addr n : Nat) : Got (List Byte) :=
  match readPieces s a (manyCuts [(addr, n)]) with
  | .ok bs s => .ok bs (endPiece s a)
  | .stop s => .stop s

/-- Write bytes in the wide view. -/
def wideWrite (s : State) (a : Acc3) (addr : Nat) (bs : List Byte) : Got Unit := writePieces s a (manyCuts [(addr, bs.length)]) bs

/-- Read a number of `n` bytes. -/
def wideNum (s : State) (a : Acc3) (addr n : Nat) : Got Nat :=
  match wideRead s a addr n with
  | .ok bs s => .ok (ofLe bs) s
  | .stop s => .stop s

/-- Cut a list into pieces of given lengths. -/
def cutAt {α : Type} : List Nat → List α → List (List α)
  | [], _ => []
  | n :: ns, l => l.take n :: cutAt ns (l.drop n)

/-- Read several ranges as one access; the piece of work that needs them ends with it. -/
def wideMany (s : State) (a : Acc3) (l : List (Nat × Nat)) : Got (List (List Byte)) :=
  match readPieces s a (manyCuts l) with
  | .ok bs s => .ok (cutAt (l.map (·.2)) bs) (endPiece s a)
  | .stop s => .stop s

/-- Read several ranges as one access of a piece of work that goes on: what has been read is not read again (R190). In a step that has
no eddy and no lent memory nothing can be held back, and nothing is kept. -/
def wideHold (s : State) (a : Acc3) (l : List (Nat × Nat)) : Got (List (List Byte)) :=
  let cuts := manyCuts l
  match readPieces s a cuts with
  | .ok bs s =>
    let holds := (stepOf s a.sid).any fun t => !t.units.eddies.isEmpty || s.tiers.lends.any fun l => !l.asLender && l.basin == t.basin
    .ok (cutAt (l.map (·.2)) bs) (if holds then keepPiece s a false cuts cuts.length bs else s)
  | .stop s => .stop s

/-- Write several ranges as one access. With it the piece of work ends. -/
def wideWriteMany (s : State) (a : Acc3) (l : List (Nat × List Byte)) : Got Unit :=
  writePieces s a (manyCuts (l.map fun x => (x.1, x.2.length))) (l.map (·.2)).flatten

/-- A number of a step's memory as the device looks at it without an access of a unit: headers and tables at a bind. -/
def peek (s : State) (t : Step) (addr n : Nat) : Nat :=
  ofLe ((List.range n).map fun k => match readPlace s t (addr + k) with
    | .at_ p => memGet s.mem p
    | .refused _ => 0)

/-- The kinds of refusal that a range meets when it is peeked. -/
def peekBad (s : State) (t : Step) (addr n : Nat) : Option Nat :=
  ((List.range n).map fun k => readPlace s t (addr + k)).findSome? fun w => match w with
    | .refused st => some st
    | _ => none

end Sys2Proof.Machine
end

