-- ==== Sys2Proof/Machine/Runnels.lean ====
section
/-! DEFINITION. Waking and switching off power domains, as every family asks for it (R28, R486, R488), and the runnel hub
(R409 to R414). -/

namespace Sys2Proof.Machine

/-! ### Domains (R27, R28, R498) -/

/-- The trunk segment whose controllers, hub or port a domain's interface belongs to: HBM PHY n on segment n / 2, LPDDR5X
PHY p on p / 4, ford nn on nn / 12, port E0 on 0 and E1 on 2 (R21). -/
def segmentOf (d : Nat) : Nat :=
  if d < 300 then (d - 292) / 2 else if d < 316 then (d - 300) / 4 else if d < 364 then (d - 316) / 12 else 2 * (d - 364)

/-- The domains that a domain depends on directly (R28). -/
def dependsOn (d : Nat) : List Nat :=
  if d < 256 then [256 + d / 16]
  else if d < 272 then [366 + (d - 256) / 4]
  else if d < 288 then [256 + (d - 272)]
  else if d < 292 then (List.range 4).map fun k => 256 + 4 * (d - 288) + k
  else if d < 366 then [366 + segmentOf d]
  else if d < 370 then [370]
  else if d = 371 then [370]
  else []

/-- A domain's logic is on and ready. -/
def domOn (s : State) (d : Nat) : Bool := (domOf s d).state == 2 && !(domOf s d).switchingOff

/-- A domain is powered: on, waking or switching off. -/
def domPowered (s : State) (d : Nat) : Bool := (domOf s d).state == 1 || (domOf s d).state == 2

/-- Begin to wake one domain that is off; one that is switching off wakes again after it (R414, R486). -/
def wakeOne (s : State) (d : Nat) : State :=
  let x := domOf s d
  if x.state = 0 then setDom s d fun x => { x with state := 1, wakeAt := s.now }
  else if x.switchingOff then setDom s d fun x => { x with wakeAgain := true }
  else s

/-- The domains that must be on for a domain to be on (R28). A riffle group runs without the commons that are HELD, which lose their
tributaries' use of it (R487); with all four HELD it does not run. -/
def needs (s : State) (d : Nat) : List Nat :=
  let up := (dependsOn d).filter fun x => (domOf s x).state != 3
  if 288 ≤ d && d < 292 && !up.isEmpty then up else dependsOn d

/-- No domain but SP0 and SP1 wakes: VCORE is not good again in a brown-out, or the module is in standby (R476, R489). -/
def noWakes (s : State) : Bool := s.pwr.brown.any (!·.waking) || s.pwr.standbyUntil.isSome

/-- Request a wake of a domain: each off domain it depends on wakes first, outermost first (R28). A HELD domain, or one that
depends on a HELD domain, does not wake (R487). -/
def wakeDomain (s : State) (d : Nat) : State :=
  let l1 := needs s d
  let l2 := (l1.map dependsOn).flatten
  let l3 := (l2.map dependsOn).flatten
  let chain := (l3 ++ l2 ++ l1 ++ [d]).eraseDups
  if noWakes s || chain.any (fun x => (domOf s x).state == 3) then s else chain.foldl wakeOne s

/-- The domains that a TEST.BIST tests (R510). -/
def testDomains (scope target : Nat) : List Nat :=
  if scope = 0 then [target]
  else if scope = 1 then [256 + target, 272 + target, 288 + target / 4] ++ (List.range 16).map (· + 16 * target)
  else if scope = 2 then [316 + target]
  else [364 + target]

/-- The domains reserved by a TEST.BIST in progress (R510). -/
def reserved (s : State) : List Nat := s.boot.testing.elim [] fun x => testDomains x.2.1 x.2.2

/-! ### Endpoints (R409) -/

def endOf (s : State) (n : Nat) : Option Endpoint := s.runnels.ends.find? fun e => e.num == n

def setEnd (s : State) (n : Nat) (f : Endpoint → Endpoint) : State :=
  { s with runnels := { s.runnels with ends := updW (fun e => e.num == n) f s.runnels.ends } }

/-- The power domain of an on-die endpoint: a steward's tributary common, or SP0 (R27). -/
def endDomain (n : Nat) : Nat := if n = 0x160 then 370 else 256 + (n - 0x100)

/-- The hub stamps a message with the sender's next RSEQ and the time (R410). -/
def stampMsg (s : State) (sender basin job type len : Nat) (data : BitVec 352) : RMsg × State :=
  let (n, s) := takeRseq s sender
  ({ sender := sender, basin := basin, job := job, rseq := n, time := s.now, type := type, len := len, data := data }, s)

/-- The 48 bytes from TYPE to the end as six u64 (R411, R417). -/
def msgWords (m : RMsg) : List Nat :=
  let w := m.type + 2 ^ 16 * m.len + 2 ^ 32 * m.data.toNat
  (List.range 6).map fun k => fld w (64 * k) (64 * k + 63)

/-- A message to an endpoint whose domain is off wakes it, and RUNNEL.WAKE goes to the basin in the stamp (R414). A domain that is switching
off does so first: the event waits for that, and for it alone of the messages that come meanwhile. A wake that is not begun raises
none. -/
def wakeEndpoint (s : State) (n sender basin : Nat) : State :=
  let d := endDomain n
  let x := domOf s d
  if x.state = 0 then
    let s := wakeDomain s d
    if (domOf s d).state = 1 then raise s srcCore evRunnelWake [n, sender, d] [basin] else s
  else if x.switchingOff && !x.wakeAgain then
    let s := wakeDomain s d
    if (domOf s d).wakeAgain then setDom s d fun x => { x with waker := some (n, sender, basin) } else s
  else s

def addDropped (s : State) (n : Nat) : State := setEnd s n fun e => { e with dropped := sat 32 (e.dropped + 1) }

def addRefused (s : State) : State := { s with runnels := { s.runnels with refused := s.runnels.refused + 1 } }

/-- A message comes from a port (R384, R409). -/
def fromPort (m : RMsg) : Bool := m.sender == 0x150 || m.sender == 0x151

/-- A message has a kept entry: it comes from a port to the management core, where each basin has 4,096 of them (R409). -/
def hasKept (e : Endpoint) (m : RMsg) : Bool :=
  e.num == 0x160 && fromPort m && (e.queue.filter fun q => fromPort q && q.basin == m.basin).length < 4096

/-- Put a stamped message into an on-die queue of 256, or a kept entry, or hold it at the hub (R409, R412). -/
def putMsg (s : State) (n : Nat) (m : RMsg) : State :=
  setEnd s n fun e =>
    let plain (q : RMsg) : Bool := e.num != 0x160 || !fromPort q
    if hasKept e m || (plain m && (e.queue.filter plain).length < 256 && e.held.isEmpty) then { e with queue := e.queue ++ [m] }
    else { e with held := e.held ++ [(m, s.now)] }

/-- A doorbell ring: the mask is ORed into the endpoint's word and takes no queue entry (R413). -/
def ringBell (s : State) (n : Nat) (mask : BitVec 64) : State := setEnd s n fun e => { e with bell := e.bell ||| mask }

/-- A message or a ring arrives for an endpoint; `put` stores it once it is accepted. -/
def arriveAt (s : State) (sender basin n : Nat) (put : State → State) : State :=
  match endOf s n with
  | none => addRefused s
  | some _ =>
    if (domOf s (endDomain n)).state = 3 then addDropped s n
    else wakeEndpoint (put s) n sender basin

/-- RUNNEL_MESSAGE (R410 to R414): stamped, and queued, held, passed to a host, refused or dropped. TYPE 0xFFFF is a
doorbell ring. -/
def execRunnelMessage (sender basin job endpoint type len : Nat) (data : BitVec 352) (s : State) : Res :=
  let (m, s) := stampMsg s sender basin job type len data
  if 0x170 ≤ endpoint && endpoint < 0x180 then
    if endpoint == 0x170 + basin && type != 0xFFFF then .next (raise s sender evRunnelMessage (msgWords m) [basin])
    else .next (addRefused s)
  else if type = 0xFFFF then
    .next (arriveAt s sender basin endpoint fun s => ringBell s endpoint (BitVec.ofNat 64 data.toNat))
  else .next (arriveAt s sender basin endpoint fun s => putMsg s endpoint m)

/-- DOORBELL_RING (R413): stamped like every message; a ring to a host endpoint is refused. -/
def execDoorbellRing (sender basin job endpoint : Nat) (mask : BitVec 64) (s : State) : Res :=
  let (_, s) := stampMsg s sender basin job 0xFFFF 8 (BitVec.ofNat 352 mask.toNat)
  if 0x170 ≤ endpoint && endpoint < 0x180 then .next (addRefused s)
  else .next (arriveAt s sender basin endpoint fun s => ringBell s endpoint mask)

/-- RUNNEL_HOLD_EXPIRY (R412): the oldest message held for 10 µs at a full queue is discarded and counted; the hold does not
run while the endpoint wakes (R414). A port's message to the management core is never discarded. -/
def execRunnelHoldExpiry (endpoint : Nat) (s : State) : Res :=
  match endOf s endpoint with
  | none => .next s
  | some e =>
    match e.held with
    | [] => .next s
    | (m, t) :: l =>
      if domOn s (endDomain endpoint) && t + 10000 ≤ s.now && !(endpoint == 0x160 && fromPort m) then
        .next (addDropped (setEnd s endpoint fun e => { e with held := l }) endpoint)
      else .next s

/-- An awake endpoint reads its queue and its doorbell word, which clears it (R413, R414); held messages follow into the
queue and are read too. -/
def readEndpoint (s : State) (e : Endpoint) : Endpoint :=
  if domOn s (endDomain e.num) then { e with queue := [], held := [], bell := 0 } else e

/-- Every awake endpoint reads (log entry 2). -/
def readEndpoints (s : State) : State :=
  { s with runnels := { s.runnels with ends := s.runnels.ends.map (readEndpoint s) } }

/-- The holds of a waking endpoint start anew when its domain is ready (R414): the steward starts and reads. -/
def endpointReady (s : State) (d : Nat) : State :=
  { s with runnels := { s.runnels with ends := updW (fun e => endDomain e.num == d) (readEndpoint s) s.runnels.ends } }

end Sys2Proof.Machine
end

