-- ==== Sys2Proof/Machine/Aes.lean ====
section
/-! DEFINITION. AES-256 and what the spec builds on it: GCM, key unwrapping and CTR_DRBG (R450, R452, R460 to R462). The algorithms are those of
FIPS 197, SP 800-38D, SP 800-38F and SP 800-90A, which the spec names (PRESUMED where it gives no step of them, log entry 152). -/

namespace Sys2Proof.Machine

/-! ### The field of 256 elements and the S-box (FIPS 197) -/

/-- A byte times x. -/
def xTimes (a : Byte) : Byte := (a <<< 1) ^^^ (if a.msb then 0x1B else 0)

/-- The product of two bytes, from the low `n` bits of the second. -/
def gfMul : Nat → Byte → Byte → Byte
  | 0, _, _ => 0
  | n + 1, a, b => (if b.getLsbD 0 then a else 0) ^^^ gfMul n (xTimes a) (b >>> 1)

/-- The square of a byte, and its inverse, which is its 254th power: the product of its powers 2, 4, up to 128. -/
def gfSquare (a : Byte) : Byte := gfMul 8 a a
def gfInv (a : Byte) : Byte :=
  ((List.range 7).foldl (fun (p : Byte × Byte) _ => (gfSquare p.1, gfMul 8 p.2 (gfSquare p.1))) (a, 1)).2

/-- A byte turned left by some distances, and the exclusive or of what comes. -/
def turnedLeft (x : Byte) (l : List Nat) : Byte := l.foldl (fun y n => y ^^^ x.rotateLeft n) 0

/-- The substitution of a byte, and the one that undoes it. -/
def subByte (a : Byte) : Byte := turnedLeft (gfInv a) [0, 1, 2, 3, 4] ^^^ 0x63
def unsubByte (a : Byte) : Byte := gfInv (turnedLeft a [1, 3, 6] ^^^ 0x05)

/-! ### The cipher (FIPS 197) -/

/-- The exclusive or of two strings of bytes. -/
def xorBytes (a b : List Byte) : List Byte := List.zipWith (· ^^^ ·) a b

/-- x to the n-th power. -/
def xPower : Nat → Byte
  | 0 => 1
  | n + 1 => xTimes (xPower n)

/-- The words of the key schedule, newest first, grown by a number of words from word `i` on. -/
def growKey : Nat → Nat → List (List Byte) → List (List Byte)
  | 0, _, l => l
  | n + 1, i, l =>
    let last := l.headD []
    let t := if i % 8 = 0 then xorBytes ((last.drop 1 ++ last.take 1).map subByte) [xPower (i / 8 - 1), 0, 0, 0]
      else if i % 8 = 4 then last.map subByte else last
    growKey n (i + 1) (xorBytes (l.getD 7 []) t :: l)

/-- The fifteen round keys of a 256-bit key. -/
def roundKeys (key : List Byte) : List (List Byte) :=
  let ws := (growKey 52 8 ((List.range 8).map fun i => (key.drop (4 * i)).take 4).reverse).reverse
  (List.range 15).map fun r => ((ws.drop (4 * r)).take 4).flatten

/-- The rows of a block turned: row r by r columns, or back. -/
def shiftRows (back : Bool) (l : List Byte) : List Byte :=
  (List.range 16).map fun i => l.getD (i % 4 + 4 * ((i / 4 + (if back then 4 - i % 4 else i % 4)) % 4)) 0

/-- The columns of a block multiplied by a circulant of four bytes. -/
def mixColumns (m : List Byte) (l : List Byte) : List Byte :=
  (List.range 16).map fun i => (List.range 4).foldl (fun x k => x ^^^ gfMul 8 (l.getD (4 * (i / 4) + k) 0) (m.getD ((k + 4 - i % 4) % 4) 0)) 0

/-- One block encrypted under a key, and decrypted. -/
def aesBlock (key blk : List Byte) : List Byte :=
  let ks := roundKeys key
  let mid := ((ks.drop 1).take 13).foldl (fun x k => xorBytes (mixColumns [2, 3, 1, 1] (shiftRows false (x.map subByte))) k)
    (xorBytes blk (ks.headD []))
  xorBytes (shiftRows false (mid.map subByte)) (ks.getD 14 [])
def aesUnblock (key blk : List Byte) : List Byte :=
  let ks := (roundKeys key).reverse
  let mid := ((ks.drop 1).take 13).foldl (fun x k => mixColumns [14, 11, 13, 9] (xorBytes ((shiftRows true x).map unsubByte) k))
    (xorBytes blk (ks.headD []))
  xorBytes ((shiftRows true mid).map unsubByte) (ks.getD 14 [])

/-! ### GCM (SP 800-38D) -/

/-- The product of two blocks in the field of GCM, whose bit 0 is the first of the block: from bit `n` of the first down to the last. -/
def gcmMul : Nat → BitVec 128 → BitVec 128 → BitVec 128
  | 0, _, _ => 0
  | n + 1, x, v => (if x.getLsbD n then v else 0) ^^^ gcmMul n x ((v >>> 1) ^^^ (if v.getLsbD 0 then 0xE1 <<< 120 else 0))

/-- A string filled up with zeros to whole blocks, as its blocks. -/
def blocks16 (l : List Byte) : List (List Byte) := (List.range (cdiv l.length 16)).map fun i =>
  let b := (l.drop (16 * i)).take 16
  b ++ List.replicate (16 - b.length) 0

/-- GHASH of a ciphertext without additional data. -/
def ghash (h : List Byte) (c : List Byte) : List Byte :=
  let y := (blocks16 c ++ [be 8 0 ++ be 8 (8 * c.length)]).foldl
    (fun (y : BitVec 128) b => gcmMul 128 (y ^^^ BitVec.ofNat 128 (ofBe b)) (BitVec.ofNat 128 (ofBe h))) 0
  be 16 y.toNat

/-- A string under the counter blocks of a 12-byte nonce, from a counter on. -/
def ctrBytes (key nonce : List Byte) (from_ : Nat) (l : List Byte) : List Byte :=
  xorBytes l (((List.range (cdiv l.length 16)).map fun i => aesBlock key (nonce ++ be 4 (from_ + i))).flatten)

/-- The tag of a ciphertext. -/
def gcmTag (key nonce c : List Byte) : List Byte :=
  xorBytes (ghash (aesBlock key (List.replicate 16 0)) c) (aesBlock key (nonce ++ be 4 1))

/-- AES-256-GCM: the ciphertext and its tag of 16 bytes; and the plaintext, where the tag is right. -/
def gcmSeal (key nonce m : List Byte) : List Byte :=
  let c := ctrBytes key nonce 2 m
  c ++ gcmTag key nonce c
def gcmOpen (key nonce l : List Byte) : Option (List Byte) :=
  let c := l.take (l.length - 16)
  if gcmTag key nonce c = l.drop (l.length - 16) then some (ctrBytes key nonce 2 c) else none

/-! ### Key unwrapping (SP 800-38F, AES-KW) -/

/-- The steps of the unwrapping of four semiblocks, from step `t` down. -/
def unwrapSteps (key : List Byte) : Nat → List Byte × List (List Byte) → List Byte × List (List Byte)
  | 0, x => x
  | t + 1, (a, rs) =>
    let b := aesUnblock key (xorBytes a (be 8 (t + 1)) ++ rs.getD (t % 4) [])
    unwrapSteps key t (b.take 8, rs.set (t % 4) (b.drop 8))

/-- A 256-bit key from its 40 wrapped bytes, where they are in order (R462). -/
def kwUnwrap (key l : List Byte) : Option (BitVec 256) :=
  let (a, rs) := unwrapSteps key 24 (l.take 8, (List.range 4).map fun i => (l.drop (8 + 8 * i)).take 8)
  if l.length = 40 && a == List.replicate 8 0xA6 then some (word256 rs.flatten) else none

/-! ### CTR_DRBG with AES-256 and the derivation function (SP 800-90A, R461) -/

/-- The working state of a DRBG: the key and V, most significant byte first. -/
abbrev DrbgState := BitVec 256 × BitVec 128

/-- Counter blocks after V under the key. -/
def drbgBlocks (x : DrbgState) (n : Nat) : List Byte :=
  ((List.range n).map fun i => aesBlock (be 32 x.1.toNat) (be 16 (x.2 + BitVec.ofNat 128 (i + 1)).toNat)).flatten

/-- CTR_DRBG_Update with 48 bytes; `x.2` has already been advanced by the blocks that a request took. -/
def drbgUpdate (x : DrbgState) (data : List Byte) : DrbgState :=
  let l := xorBytes (drbgBlocks x 3) data
  (BitVec.ofNat 256 (ofBe (l.take 32)), BitVec.ofNat 128 (ofBe (l.drop 32)))

/-- The chain of blocks of the derivation function. -/
def drbgChain (key : List Byte) (l : List Byte) : List Byte := (blocks16 l).foldl (fun c b => aesBlock key (xorBytes c b)) (List.replicate 16 0)

/-- 48 bytes derived from a string: Block_Cipher_df. -/
def drbgDerive (l : List Byte) : List Byte :=
  let m := be 4 l.length ++ be 4 48 ++ l ++ [0x80]
  let key := (List.range 32).map fun i => BitVec.ofNat 8 i
  let t := ((List.range 3).map fun i => drbgChain key (be 4 i ++ List.replicate 12 0 ++ m)).flatten
  let k := t.take 32
  let b1 := aesBlock k (t.drop 32)
  let b2 := aesBlock k b1
  b1 ++ b2 ++ aesBlock k b2

/-- Instantiation with entropy and a nonce, and a reseed. -/
def drbgStart (entropy nonce : List Byte) : DrbgState := drbgUpdate (0, 0) (drbgDerive (entropy ++ nonce))
def drbgReseed (x : DrbgState) (entropy : List Byte) : DrbgState := drbgUpdate x (drbgDerive entropy)

/-- One generate request of 64 bits: its bits and the state after it. -/
def drbgGenerate (x : DrbgState) : BitVec 64 × DrbgState :=
  (BitVec.ofNat 64 (ofBe ((drbgBlocks x 1).take 8)), drbgUpdate (x.1, x.2 + 1) (List.replicate 48 0))

/-! ### The entropy source (R460) -/

/-- A sample is like the 40 before it: the repetition count test, cutoff 41, over samples from the first on. -/
def repeats : Bool → Nat → List Bool → Bool
  | _, _, [] => false
  | last, n, x :: l => let k := if x == last then n + 1 else 1
    41 ≤ k || repeats x k l

/-- The adaptive proportion test over one window of 1,024 samples: the first value occurs 793 times or more, the cutoff of SP 800-90B for 0.5
bit per sample. -/
def lopsided (l : List Bool) : Bool := match l with
  | [] => false
  | x :: _ => 793 ≤ (l.filter (· == x)).length

/-- Samples of the noise source from the n-th on. -/
def noise (n k : Nat) : List Bool := (List.range k).map fun i => Config.noise (n + i)

/-- The start-up test of 1,024 samples passes. -/
def startUpOk (n : Nat) : Bool :=
  let l := noise n 1024
  !repeats (!l.headD false) 0 l && !lopsided l

/-- 256 bits of full entropy from 640 samples: SHA-256, eight samples to a byte, the first the most significant (DESIGN CHOICE, log entry 152). -/
def entropy (n : Nat) : List Byte :=
  sha256 ((List.range 80).map fun i => BitVec.ofNat 8 ((noise (n + 8 * i) 8).foldl (fun x b => 2 * x + b2n b) 0))

end Sys2Proof.Machine
end

