-- ==== Sys2Proof/Machine/Woreo.lean ====
section
/-! DEFINITION. Frames and Woreo flows: receiving, opening, acknowledging, retransmitting, and the queues' timers (R355 to
R372, R380, R381, R387, R395). -/

namespace Sys2Proof.Machine

/-! ### Addresses (R362, R406) -/

/-- The basin that owns a destination address on a port. -/
def ownerOf (s : State) (port ip : Nat) : Option Nat :=
  (s.basins.find? fun x => (localAddrs x.host port).contains ip).map (·.id)

/-- Read the 16-byte addresses of a host record. -/
def addrsFrom (l : List Byte) : Nat → List Nat
  | 0 => []
  | n + 1 => ofLe (l.take 16) :: addrsFrom (l.drop 16) n

/-- A host record from its bytes (R406). -/
def hostRecOf (l : List Byte) : HostRec :=
  let n0 := byteAt l 0
  let n1 := byteAt l 1
  let nh := byteAt l 2
  let l := l.drop 8
  { local0 := addrsFrom l n0, local1 := addrsFrom (l.drop (16 * n0)) n1, hosts := addrsFrom (l.drop (16 * (n0 + n1))) nh }

/-- The bytes of a host record (R406). -/
def hostRecBytes (x : HostRec) : List Byte :=
  [BitVec.ofNat 8 x.local0.length, BitVec.ofNat 8 x.local1.length, BitVec.ofNat 8 x.hosts.length] ++
    List.replicate 5 0 ++ ((x.local0 ++ x.local1 ++ x.hosts).map (le 16)).flatten

/-- Host records that the store holds, before the basins are restored (R502 step 11). -/
def storedHosts (s : State) : List HostRec :=
  (List.range 16).filterMap fun b => (storeFind (activeBank s.store) 0x21 b).map fun r =>
    hostRecOf (r.payload.map (BitVec.ofNat 8))

/-- An address is the device's own on a port (R358). -/
def ownAddr (s : State) (port ip : Nat) : Bool :=
  if s.boot.stage = 6 then (ownerOf s port ip).isSome
  else (storedHosts s).any fun x => (localAddrs x port).contains ip

/-! ### Acknowledgements and retransmission (R367, R368) -/

/-- Send a segment again, with RETX set, on a port (R368). -/
def resend (s : State) (b f port : Nat) (g : SentSeg) : State :=
  let fl := flowOf s b f
  match fl.queue.find? fun q => q.ident == g.ident with
  | none => s
  | some q => emitSegment s b f q.msg.kind g.seq false (g.part + 1 < segCount fl.maxpay q.msg) true 0 port fl.peerIp
      (segPayload fl.maxpay q.msg g.part)

/-- Change a sent segment. -/
def setSent (s : State) (b f seq : Nat) (g : SentSeg → SentSeg) : State :=
  setFlow s b f fun fl => { fl with sent := updW (fun x => x.seq == seq) g fl.sent }

/-- A segment has been transmitted MAX_RETRY times: the flow is STALLED (R368). -/
def stallIfSpent (s : State) (b f sends : Nat) : State :=
  if maxRetry s b ≤ sends then markBlocked (setFlow s b f fun fl => { fl with stalled := true }) b f else s

/-- The port for a retransmission: the other one after two expiries, when the basin has an address there (R363). -/
def retxPort (s : State) (b f exps : Nat) : Nat :=
  let p := (flowOf s b f).peerPort
  let q := 1 - p
  let there := ((basinOf s b).map fun x => !(localAddrs x.host q).isEmpty).getD false
  if 2 ≤ exps && there then q else p

/-- FAST_RETRANSMIT (R368): at once, the first time a later segment is shown received while this one is missing. -/
def fastRetransmit (s : State) (b f : Nat) (top : Nat) : State :=
  (flowOf s b f).sent.foldl (fun s g =>
    if seqBefore g.seq top && !g.fastSent then
      let s := resend s b f (retxPort s b f g.exps) g
      let s := setSent s b f g.seq fun x => { x with fastSent := true, sends := x.sends + 1 }
      stallIfSpent s b f (g.sends + 1)
    else s) s

/-- The segments that an ACK and a SACK field acknowledge (R364, R367). -/
def acked (ack sack : Nat) (q : Nat) : Bool :=
  seqBefore q ack || (let d := seqDist ack q
    1 ≤ d && d ≤ 64 && bitAt sack (d - 1))

/-- Take the acknowledgement fields of a received segment: free what it acknowledges, reopen a stalled flow that advances,
retransmit a shown hole at once, and send what the window now lets go (R367, R368, R370). -/
def takeAck (s : State) (b f ack sack rwnd : Nat) : State :=
  let fl := flowOf s b f
  let adv := seqDist fl.peerAck ack
  if seqDist fl.peerAck fl.txNext < adv then s
  else
    let s := setFlow s b f fun fl =>
      let sent := dropW (fun g => acked ack sack g.seq) fl.sent
      { fl with
        sent := sent
        peerAck := ack
        peerWnd := rwnd
        stalled := fl.stalled && adv == 0
        queue := dropW (fun q => q.segsSent == segCount fl.maxpay q.msg && !(sent.any fun g => g.ident == q.ident)) fl.queue }
    let tops := (List.range 64).filter fun i => bitAt sack i
    let s := match tops.getLast? with
      | some i => fastRetransmit s b f ((ack + 1 + i) % 2 ^ 32)
      | none => s
    pump s b f

/-! ### DATA segments (R375, R380, R381) -/

/-- A BASIN.UNMAP of the page waits for it to be unpinned: DATA that comes after the command meets no page (R395). -/
def unmapAsked (s : State) (b p : Nat) : Bool :=
  (linkOf s b).deferred.any fun d => d.opcode == 0x0611 && match d.obj with
    | .region first n => first ≤ p && p < first + n
    | _ => false

/-- The status that refuses a DATA segment, if any (R381). -/
def dataRefusal (s : State) (b : Nat) (d : DataSeg) : Option Nat :=
  let ps := pageRange d.addr d.bytes.length
  if !inTiered d.addr d.bytes.length || ps.any (fun p => !pageMapped s b p || unmapAsked s b p) then some stIndexRange
  else if ps.any fun p => match pageOf s b p with
      | some e => e.kind == .kv || e.kind == .derived
      | none => false then some stNotPermitted
  else if ps.any (dataSealed s b) then some stModelSealed
  else none

/-- An earlier command that has not started holds a DATA segment back: segments and commands go on in SEQ order (R375), past a command
that an earlier waiting segment holds back, but for one that names a page the segment reaches (R395). -/
def cmdAhead (s : State) (b : Nat) (d : DataSeg) : Bool :=
  (linkOf s b).inbox.any fun c =>
    c.bad == 0 && c.order < d.order && (!dataAhead s b c.order c.ranges || dataHits d c.ranges)

/-- A DATA segment must wait: an earlier command or an earlier waiting segment comes first, or it is not refused and a page it reaches is
pinned or moving (R375, R381). -/
def dataMustWait (s : State) (b : Nat) (earlier : List DataSeg) (d : DataSeg) : Bool :=
  let ps := pageRange d.addr d.bytes.length
  cmdAhead s b d || ps.any (fun p => earlier.any fun e => (pageRange e.addr e.bytes.length).contains p) ||
    ((dataRefusal s b d).isNone && ps.any fun p => pinned s b p || ((pageOf s b p).bind (·.moving)).isSome)

/-- DATA_SEGMENT_APPLY (R381): write it, or refuse it whole and raise DATA.REFUSED. -/
def applyData (s : State) (b : Nat) (d : DataSeg) : State :=
  match dataRefusal s b d with
  | some st => raise s srcCore evDataRefused [d.xid, d.addr, st] [b]
  | none =>
    narrowWritten (tierPuts s b d.addr d.bytes) b d.addr d.bytes.length

/-- A DATA segment reaches its turn. -/
def takeData (s : State) (b : Nat) (d : DataSeg) : State :=
  if dataMustWait s b (linkOf s b).dataWait d then setLink s b fun l => { l with dataWait := l.dataWait ++ [d] }
  else applyData s b d

/-- Apply each waiting DATA segment that waits no longer, in order. -/
def resumeData (s : State) (b : Nat) : List DataSeg → List DataSeg → State
  | kept, [] => setLink s b fun l => { l with dataWait := kept }
  | kept, d :: l => if dataMustWait s b kept d then resumeData s b (kept ++ [d]) l else resumeData (applyData s b d) b kept l

/-- DATA_WRITE_RESUME (R381, R228): waiting host writes whose pages are unpinned and still are written. -/
def execDataWriteResume (basin : Nat) (s : State) : Res := .next (resumeData s basin [] (linkOf s basin).dataWait)

/-! ### Receiving (R355, R357, R359, R362, R364, R365, R367, R463) -/

/-- One in-order segment is passed on (R365, R367). -/
def passOn (s : State) (b : Nat) (f : RxFrame) : State :=
  if f.kind = 1 then
    let m := ((linkOf s b).partialCmd ++ f.payload).take (messageMax + 1)
    let a := (linkOf s b).partialAuth && frameAuth s b f
    if f.more then setLink s b fun l => { l with partialCmd := m, partialAuth := a }
    else deliverCmd (setLink s b fun l => { l with partialCmd := [], partialAuth := true }) b f.port a m
  else
    let n := (linkOf s b).arrived
    takeData (setLink s b fun l => { l with arrived := n + 1 }) b
      { addr := ofLe (f.payload.take 8), xid := ofLe ((f.payload.drop 8).take 4), bytes := f.payload.drop 16, order := n }

/-- A segment finds room: one that completes a CMD message needs a kept entry of the basin at the management core (R409). Without one it is
not accepted, and its sender transmits it again (DESIGN CHOICE, log entry 148). -/
def hasRoom (s : State) (b : Nat) (x : RxFrame) : Bool := x.kind != 1 || x.more || (linkOf s b).inbox.length < keptMessages

/-- Pass on the held segments that are now in order. -/
def passHeld (s : State) (b f : Nat) : Nat → State
  | 0 => s
  | n + 1 =>
    let fl := flowOf s b f
    match fl.held.find? fun h => h.seq == fl.rxNext with
    | none => s
    | some h =>
      if !hasRoom s b h then s else
      let s := setFlow s b f fun fl => { fl with rxNext := (fl.rxNext + 1) % 2 ^ 32, held := dropW (fun x => x.seq == h.seq) fl.held }
      passHeld (passOn s b h) b f n

/-- A segment with a sequence number arrives (R367). -/
def takeSegment (s : State) (b f : Nat) (x : RxFrame) : State :=
  let fl := flowOf s b f
  let d := seqDist fl.rxNext x.seq
  if d = 0 && !hasRoom s b x then s
  else if d = 0 then
    let s := setFlow s b f fun fl => { fl with rxNext := (fl.rxNext + 1) % 2 ^ 32,
                                               ackDue := some (fl.ackDue.getD (s.now + ackDelay s b)) }
    let s := passHeld (passOn s b x) b f fl.held.length
    if ackDelay s b = 0 && (flowOf s b f).ackDue.isSome then sendAck s b f else s
  else if d < ownWindow f then
    let s := setFlow s b f fun fl => if fl.held.any fun h => h.seq == x.seq then fl else { fl with held := fl.held ++ [x] }
    sendAck s b f
  else if seqBefore x.seq fl.rxNext then sendAck s b f
  else s

/-- The messages that a queued one is sent again as, at a flow's MAXPAY: a DATA message cut for a larger one is cut anew (R365, R369,
R380, log entry 148). -/
def recut (maxpay : Nat) (q : QMsg) : List QMsg :=
  match q.msg with
  | .data addr xid last bytes =>
    let d := min 8192 (maxpay - 16)
    if bytes.length ≤ d then [q]
    else
      let n := cdiv bytes.length d
      (List.range n).map fun k => { q with msg := .data (addr + k * d) xid (last && k + 1 == n) ((bytes.drop (k * d)).take d) }
  | _ => [q]

/-- SYN (R366, R369): open or reopen a flow. Messages not wholly acknowledged are sent again, whole and in order, under new
numbers, after the SYN reply. -/
def openFlow (s : State) (b f : Nat) (x : RxFrame) : State :=
  if x.maxpay < 1024 || 8256 < x.maxpay then s
  else
    let maxpay := min ownMaxpay x.maxpay
    let s := setFlow s b f fun fl => { fl with
      opened := true, stalled := false, rxNext := x.seq, held := [], sent := [],
      queue := (fl.queue.map (recut maxpay)).flatten.zipIdx.map fun q => { q.1 with segsSent := 0, ident := fl.nextIdent + q.2 },
      nextIdent := fl.nextIdent + (fl.queue.map (recut maxpay)).flatten.length,
      maxpay := maxpay, peerIp := x.srcIp, peerPort := x.port,
      peerUdp := x.srcPort, ownIp := x.dstIp, peerAck := fl.txNext, peerWnd := x.rwnd,
      ackDue := none }
    let s := if f = 0 then setLink s b fun l => { l with partialCmd := [] } else s
    let fl := flowOf s b f
    let s := emitSegment s b f 6 fl.txNext true false false ownMaxpay fl.peerPort fl.peerIp []
    pump s b f

/-- A frame is accepted on its VLAN tag (R357). -/
def vlanOk (s : State) (x : RxFrame) : Bool :=
  let c := portCtrl s x.port
  if bitAt c 6 then x.vlan == some (fld c 8 19) else x.vlan == none || x.vlan == some 0

/-- The header checks of R364: version, kind, reserved bits, length, and the kinds of the direction and flow (R363). -/
def headerOk (x : RxFrame) : Bool :=
  x.ver == 1 && !x.reservedSet && x.udpLen == x.len + 48 && x.payload.length == x.len &&
    (x.kind == 6 || (x.flow == 0 && (x.kind == 1 || x.kind == 5) && !x.synBit)) && x.flow < 2

/-- A link error of a port: condition 4 of R326 fails for the C0 steps of the basins whose flow 1 is on it (R327). Losing the link and a
frame whose FCS fails are such errors (DEDUCED, log entry 135). -/
def voidPort (s : State) (port : Nat) : State :=
  let hit (t : Step) : Bool :=
    t.cls == 0 && t.void == 0 && (flowOf s t.basin 1).opened && (flowOf s t.basin 1).peerPort == port
  { s with steps := updW hit (fun t => { t with void := 4 }) s.steps }

/-- The link of a port is lost: a link error, and condition 6 of R326 fails for the basins whose flow 1 is on it (R327). -/
def portLost (s : State) (port : Nat) : State :=
  let s := voidPort s port
  ((List.range 16).filter fun b => (flowOf s b 1).peerPort == port).foldl (fun s b => loseEgress s b fun q => !q.measure.isEmpty) s

/-- A protected frame is taken on a receive channel (R359): under an association that the port holds, on one of at most 16 channels, and
less than 64 packets behind the highest packet number of its association (log entry 144). -/
def protectedOk (s : State) (x : RxFrame) : Bool :=
  match x.sec with
  | none => false
  | some t =>
    let mine := s.sec.rxScs.filter fun r => r.port == x.port
    (s.sec.saks.any fun k => k.port == x.port && k.an == t.an) &&
      ((mine.any fun r => r.sci == t.sci) || ((mine.map (·.sci)).eraseDups).length < 16) &&
      mine.all fun r => r.sci != t.sci || r.an != t.an || r.top < t.pn + 64

/-- A receive channel has taken the packet number of a frame of the controlled port (R359). -/
def notePn (s : State) (x : RxFrame) : State :=
  match x.sec with
  | none => s
  | some t =>
    if x.uncontrolled || !protectedOk s x then s
    else
      let hit (r : RxSc) : Bool := r.port == x.port && r.sci == t.sci && r.an == t.an
      let l := if s.sec.rxScs.any hit then s.sec.rxScs else s.sec.rxScs ++ [{ port := x.port, sci := t.sci, an := t.an, top := t.pn }]
      { s with sec := { s.sec with rxScs := updW hit (fun r => { r with top := max r.top t.pn }) l } }

/-- A port takes a frame: the checks of R355 on any frame, its tag (R357), room in the receive buffer (R31) and, on the controlled port,
valid protection where MACSEC_REQ asks for it or the frame has any (R359); then what its contents do. -/
def portTakes (s : State) (x : RxFrame) (go : State → State) : State :=
  if !x.linkOk then
    let s := count s 5 x.port 0 2 1
    if x.fcsOk then s else voidPort s x.port
  else if !vlanOk s x then s
  else if !x.bufferRoom then count s 5 x.port 0 3 1
  else if !x.uncontrolled && (x.sec.isSome || bitAt (portCtrl s x.port) 5) && !protectedOk s x then count s 5 x.port 0 4 1
  else go (usePort (notePn s x) x.port)

/-- A datagram of a basin in READY (R362, R363, R463). Of a basin in teardown only acknowledgements are taken (R415 steps 1 and 3). -/
def takeDatagram (s : State) (x : RxFrame) (b : Nat) : State :=
  let hosts := ((basinOf s b).map (·.host.hosts)).getD []
  let bound := s.sec.scis.any fun k => k.port == x.port && some k.sci == x.sci && k.basin == b
  if bitAt (portCtrl s x.port) 5 && !bound then count s 5 x.port 0 4 1
  else if !hosts.contains x.srcIp || x.basin != b || !headerOk x then count s 5 x.port 0 5 1
  else if inTeardown s b then
    if x.synBit || !(flowOf s b x.flow).opened then s else takeAck s b x.flow x.ack x.sack x.rwnd
  else
    let s := count s 5 x.port 0 0 1
    if x.synBit then openFlow s b x.flow x
    else if !(flowOf s b x.flow).opened then s
    else
      let s := setFlow s b x.flow fun fl => { fl with
        peerIp := x.srcIp, peerPort := x.port, peerUdp := x.srcPort, ownIp := x.dstIp }
      let s := takeAck s b x.flow x.ack x.sack x.rwnd
      if x.kind = 6 then s else takeSegment s b x.flow x

/-- A frame arrives with a Woreo datagram: UDP to port 47077. Anything else than IP and UDP as R355 and R358 want it is dropped and
counted; no other UDP port is anyone's, and no ICMP error is sent. -/
def receiveWoreo (s : State) (x : RxFrame) : State :=
  portTakes s x fun s =>
    if !x.udpOk then count s 5 x.port 0 2 1
    else if x.dstPort != 47077 then count s 5 x.port 0 5 1
    else match ownerOf s x.port x.dstIp with
      | none => count s 5 x.port 0 5 1
      | some b => takeDatagram s x b

/-- WOREO_SEGMENT_RECEIVE (R367). In LINKS a segment is dropped without being counted (R501); on a port that is down none
arrives. -/
def execWoreoSegmentReceive (f : RxFrame) (s : State) : Res :=
  if portLink s f.port && s.boot.stage == 6 then .next (receiveWoreo s f) else .next s

/-- SYN (R366, R369): a segment with SYN set, under the same checks. -/
def execSyn (f : RxFrame) (s : State) : Res :=
  if portLink s f.port && s.boot.stage == 6 && f.synBit then .next (receiveWoreo s f) else .next s

/-! ### Timers and queues -/

/-- RTO_EXPIRY (R368): the timer of a sent segment expires, and it is transmitted again; with MAX_RETRY transmissions the flow is STALLED. A
stalled flow retransmits only its oldest segment, every RTO_MAX. -/
def execRtoExpiry (basin flow seq : Nat) (s : State) : Res :=
  let fl := flowOf s basin flow
  match fl.sent.find? fun g => g.seq == seq with
  | none => .next s
  | some g =>
    if s.now < g.due then .next s
    else
      let oldest := (fl.sent.head?.map (·.seq)) == some seq
      if fl.stalled && !oldest then .next (setSent s basin flow seq fun x => { x with due := s.now + rtoMax s basin })
      else
        let t := if fl.stalled || maxRetry s basin ≤ g.sends + 1 then rtoMax s basin else min (2 * g.timer) (rtoMax s basin)
        let s := resend s basin flow (retxPort s basin flow (g.exps + 1)) g
        let s := setSent s basin flow seq fun x => { x with timer := t, due := s.now + t, sends := x.sends + 1, exps := x.exps + 1 }
        .next (stallIfSpent s basin flow (g.sends + 1))

/-- ACK_DELAY_EXPIRY (R367): nothing was sent within ACK_DELAY, so an ACK segment is. -/
def execAckDelayExpiry (basin flow : Nat) (s : State) : Res :=
  match (flowOf s basin flow).ackDue with
  | some d => if d ≤ s.now then .next (sendAck s basin flow) else .next s
  | none => .next s

/-- EVT_COALESCE_EXPIRY (R372): the gathering time of the event records is over. -/
def execEvtCoalesceExpiry (basin : Nat) (s : State) : Res :=
  match (linkOf s basin).gatherSince with
  | some t => if t + evtCoalesce s basin ≤ s.now then .next (flushEvents s basin) else .next s
  | none => .next s

/-- Queue the replies that waited, in order, as far as they fit (R370); then the core goes on with the basin's messages. -/
def drainRsp (s : State) (b : Nat) : List Msg → State
  | [] =>
    let s := setLink s b fun l => { l with rspWait := [] }
    answerBad b (linkOf s b).inbox.length s
  | m :: l => if fits s b 0 m then drainRsp (enqueue s b 0 m []) b l else setLink s b fun k => { k with rspWait := m :: l }

/-- Queue the TOK messages of a flow that waited; the boundary of a group goes on with the last of its own (R370). -/
def drainTok (s : State) (b f : Nat) : List TokPend → List TokPend → State
  | kept, [] =>
    let through (g : Group) : Bool := g.basin == b && !(kept.any fun k => k.gid == g.word.toNat % 16)
    let s := setLink s b fun l => { l with tokWait := kept }
    { s with serving := { s.serving with groups := updW through (fun g => { g with tokWaiting := false }) s.serving.groups } }
  | kept, m :: l =>
    if m.flow == f && fits s b f m.msg && !(kept.any fun k => k.flow == f) then drainTok (enqueueAs s b f m.msg m.measure m.blocked) b f kept l
    else drainTok s b f (kept ++ [m]) l

/-- When records were left unsent and room returns, EVT.LOST goes first, in a message of its own (R387). -/
def sendLost (s : State) (b : Nat) : State :=
  let l := linkOf s b
  if l.lost = 0 || !fits s b 0 (.evt [{ code := evEvtLost, src := srcCore, payload := [0, 0, 0] }]) then s
  else
    let held := l.gather
    let since := l.gatherSince
    let s := setLink s b fun l => { l with lost := 0, lostFirst := 0, lostLast := 0, gather := [], gatherSince := none }
    let s := flushEvents (raise s srcCore evEvtLost [l.lost, l.lostFirst, l.lostLast] [b]) b
    setLink s b fun k => { k with gather := k.gather ++ held, gatherSince := since.orElse fun _ => k.gatherSince }

/-- QUEUE_ROOM_RETURN (R370, R387): room has returned in a flow's queue. -/
def execQueueRoomReturn (basin flow : Nat) (s : State) : Res :=
  if flow = 0 then
    let s := drainRsp s basin (linkOf s basin).rspWait
    let s := sendLost s basin
    .next (drainTok s basin 0 [] (linkOf s basin).tokWait)
  else .next (drainTok s basin flow [] (linkOf s basin).tokWait)

/-- A message has a segment whose first transmission waits for its port or is still on the wire (R371). -/
def waitsForPort (s : State) (b f : Nat) (q : QMsg) : Bool :=
  ((flowOf s b f).sent.filter fun g => g.ident == q.ident).any fun g =>
    let hit (w : PortSeg) : Bool := w.hdr.basin == b && w.hdr.flow == f && w.hdr.kind != 6 && !w.hdr.retx && w.hdr.seq == g.seq
    s.eth.waits.any hit || s.eth.ports.any fun p => decide (s.now < p.busyUntil) && p.sending.any hit

/-- TOK_SENT (R371): the last byte of a TOK message's first transmission has left, which ends the step latency (R325). A
step whose GUAR was set and whose latency exceeds its bound raises REQ.C0_OVERRUN, unless condition 6 failed (R327). -/
def execTokSent (basin flow : Nat) (s : State) : Res :=
  let fl := flowOf s basin flow
  match fl.queue.find? fun q => !q.measure.isEmpty && q.segsSent == segCount fl.maxpay q.msg && !waitsForPort s basin flow q with
  | none => .next s
  | some q =>
    let s := setFlow s basin flow fun fl => { fl with queue := updW (fun x => x.ident == q.ident) (fun x => { x with measure := [] }) fl.queue }
    .next (q.measure.foldl (fun s m =>
      if m.guar && !q.blocked && portUp s fl.peerPort && m.bound < s.now - m.formT then
        raise s srcCore evReqC0Overrun [m.gid, m.stepSeq, s.now - m.formT] [basin]
      else s) s)

/-! ### A port's turns (R371) -/

/-- How long a segment's frame takes on the wire, in ns: from destination address to FCS, with the tags and headers that it has (R355,
R365), at the port's rate. -/
def wireTime (s : State) (w : PortSeg) : Nat :=
  let n := 18 + (if bitAt (portCtrl s w.port) 6 then 4 else 0) + (if hasSak s w.port then 32 else 0) + (if isV4 w.ip then 20 else 40) + 48 +
    w.payload.length
  let n := max 64 n
  if ((s.eth.ports[w.port]?).map (·.rateNow)) == some 1 then cdiv n 100 else cdiv n 50

/-- The segment that a port sends next: flow 1 before flow 0, and within a flow the basin after the one served last, round and round
(R371). -/
def nextSeg (s : State) (n : Nat) : Option PortSeg :=
  [1, 0].findSome? fun f =>
    let last := ((s.eth.ports[n]?).map fun p => p.served.getD f 15).getD 15
    (List.range 16).findSome? fun k =>
      s.eth.waits.find? fun w => w.port == n && w.hdr.flow == f && w.hdr.basin == (last + 1 + k) % 16

/-- A port whose wire is free sends its next segment, with the time of its transmission (R364, R371). What waits for a port that carries no
frames is lost (R359, R395). -/
def servePort (s : State) (n : Nat) : State :=
  if s.eth.waits.isEmpty || !((s.eth.ports[n]?).any (·.busyUntil ≤ s.now)) then s
  else if !portUp s n then { s with eth := { s.eth with waits := dropW (fun w => w.port == n) s.eth.waits } }
  else match nextSeg s n with
    | none => s
    | some w =>
      let s := { s with eth := { s.eth with
        waits := dropFirst (· == w) s.eth.waits
        ports := s.eth.ports.modify n fun p => { p with
          busyUntil := s.now + wireTime s w, sending := some w, served := p.served.set w.hdr.flow w.hdr.basin } } }
      sendTo s n w.ip w.src w.pcp (.woreo { w.hdr with time := s.now } w.src w.ip w.dport w.payload)

/-- What the ports do as time passes (log entry 2). -/
def servePorts (s : State) : State := servePort (servePort s 0) 1

/-! ### ARP, Neighbour Discovery and ICMP (R358) -/

/-- The PCP of a frame about a local address: PCP_OTHER of the basin that owns it, else 0 (R357, R372, log entry 139). -/
def pcpAt (s : State) (port ip : Nat) : Nat := ((ownerOf s port ip).map fun b => pcpOf s b 0).getD 0

/-- A frame that asks for one of the device's own addresses is counted and answered; any other is not the device's. -/
def answerFor (s : State) (port ip : Nat) (go : State → State) : State :=
  if ownAddr s port ip then go (count s 5 port 0 0 1) else s

/-- A frame of the controlled port arrives and must be what its command says: else it is dropped and counted (R355, R358). -/
def onPort (s : State) (f : RxFrame) (is : Bool) (go : State → State) : Res :=
  if portLink s f.port then .next (portTakes s f fun s => if is then go s else count s 5 f.port 0 2 1) else .next s

/-- ARP_REQUEST (R358): answered for the device's own addresses. -/
def execArpRequest (f : RxFrame) (s : State) : Res :=
  onPort s f (f.arp 1) fun s => answerFor s f.port f.arpTarget fun s =>
    sendFrame s f.port (pcpAt s f.port f.arpTarget) (some f.arpMac) (.arpReply f.arpSender f.arpTarget)

/-- NEIGHBOUR_SOLICITATION (R358). -/
def execNeighbourSolicitation (f : RxFrame) (s : State) : Res :=
  onPort s f (f.icmp6 135 24) fun s => answerFor s f.port f.ndTarget fun s =>
    sendFrame s f.port (pcpAt s f.port f.ndTarget) (some f.srcMac) (.neighbourAdvert f.srcIp f.ndTarget)

/-- ICMP_ECHO (R358): the echo reply returns the data. -/
def execIcmpEcho (f : RxFrame) (s : State) : Res :=
  onPort s f f.echo fun s => answerFor s f.port f.dstIp fun s =>
    sendTo s f.port f.srcIp f.dstIp (pcpAt s f.port f.dstIp) (.echoReply f.srcIp f.dstIp f.echoed)

/-- The address and the MAC address that an ARP reply or a Neighbour Advertisement gives. -/
def resolved (f : RxFrame) : Option (Nat × Nat) :=
  if f.arp 2 then some (f.arpSender, f.arpMac) else if f.icmp6 136 24 then some (f.ndTarget, f.ndMac) else none

/-- An address being resolved gets its entry. -/
def fillNeighbour (s : State) (port ip mac : Nat) : State :=
  match s.eth.ports[port]? with
  | none => s
  | some p =>
    if p.resolving.contains ip then
      let s := count s 5 port 0 0 1
      { s with eth := { s.eth with ports := s.eth.ports.modify port fun q => { q with
        resolving := dropW (· == ip) q.resolving
        neighbours := (ip, mac) :: dropW (fun n => n.1 == ip) q.neighbours } } }
    else s

/-- ADDRESS_RESOLUTION_REPLY (R358): an address being resolved gets its entry. -/
def execAddressResolutionReply (f : RxFrame) (s : State) : Res :=
  onPort s f (resolved f).isSome fun s => match resolved f with
    | none => s
    | some (ip, mac) => fillNeighbour s f.port ip mac

/-! ### The link of a port (R356, R392) -/

/-- The rates that a port offers for its medium, highest first: both with RATE 0, which 3 is read as, else the one it names (R356, R392). -/
def ownRates (ctrl : Nat) : List Nat :=
  let want := fld ctrl 1 2
  [1, 2].filter fun r => want == 0 || want == 3 || want == r

/-- The rate at which a port comes up: the highest that both ends share for the medium that MEDIUM selects (R355, R356). Without
auto-negotiation the port likewise tries the rates that RATE allows (DESIGN CHOICE, log entry 139). -/
def sharedRate (ctrl : Nat) (partner : List (Nat × Nat)) : Option Nat :=
  (ownRates ctrl).find? fun r => partner.contains (r, fld ctrl 3 3)

/-- Step 8 of R476, once the woken domains are ready and every port that had its link in step 1 has it again, unless it is off since (log
entry 72): the brown-out is over, and PWR.BROWNOUT goes ahead of the events held since. -/
def endBrown (s : State) : State :=
  let up (n : Nat) : Bool := portLink s n || s.pwr.serHeld || portCtrl s n % 2 == 0 || (domOf s (364 + n)).state != 2
  match s.pwr.brown with
  | none => s
  | some b =>
    if !b.waking || s.pwr.doms.any (·.state == 1) || !(b.ports.all up) then s
    else
      let held := s.boot.heldEvents
      let s := { s with pwr := { s.pwr with brown := none }, boot := { s.boot with heldEvents := [] } }
      let s := otherFaultRecord s 3 srcStewipen stPowerFault none 0 366 0 b.low (s.now - b.start)
      let s := raise s srcStewipen evPwrBrownout [b.start, s.now - b.start, b.low, b.cause] []
      if s.boot.stage = 6 then held.foldl (fun s x => deliverEvt s (maskBasins x.1) x.2) s
      else { s with boot := { s.boot with heldEvents := s.boot.heldEvents ++ held } }

/-- ETH_LINK (R356): a change of a port's link state, which raises ETH.LINK with the port, the new state and the rate. A
port comes up only while it is enabled, at the highest rate that both ends share, and not from LINKS's predecessors on (R502 step 9). -/
def execEthLink (port : Nat) (up : Bool) (partner : List (Nat × Nat)) (lanes : Nat) (s : State) : Res :=
  match s.eth.ports[port]? with
  | none => .next s
  | some p =>
    let rate := (sharedRate p.ctrl.toNat partner).getD 0
    let allowed := p.ctrl.toNat % 2 == 1 && !s.pwr.serHeld && rate != 0 && (s.pwr.doms.getD (364 + port) {}).state == 2 && 2 ≤ s.boot.stage && s.boot.stage ≤ 6
    if p.linkUp == up || (up && !allowed) then .next s
    else
      let s := { s with eth := { s.eth with ports := s.eth.ports.modify port fun q => { q with
        linkUp := up, rateNow := if up then rate else 0, lanes := if up then lanes % 16 else 0 } } }
      let s := if up then s else portLost { s with sec := { s.sec with saks := dropW (fun k => k.port == port) s.sec.saks } } port
      .next (endBrown (raise s (srcPort port) evEthLink [port, b2n up, if up then rate else 0] []))

end Sys2Proof.Machine
end

