-- ==== Sys2Proof/Machine/SecMode.lean ====
section
/-! DEFINITION. The mode of the security module and what changes it: the conditions of R449, failures, the measured
configuration (R448, R449, R457, R465, R468). -/

namespace Sys2Proof.Machine

/-- Every enabled port has a CAK and requires MACsec (R449). -/
def portsKeyed (s : State) : Bool :=
  (List.range 2).all fun n => !bitAt (portCtrl s n) 0 || (bitAt (portCtrl s n) 5 && s.sec.caks.any fun k => k.port == n)

/-- Every basin that has local addresses has a bound SCI (R449). -/
def basinsBound (s : State) : Bool :=
  s.basins.all fun x => (x.host.local0 ++ x.host.local1).isEmpty || s.sec.scis.any fun k => k.basin == x.id

/-- The mode that the conditions of R448 and R449 give. -/
def modeNow (s : State) : Nat :=
  if !s.sec.failedCauses.isEmpty then 2
  else if s.sec.identity && s.sec.selftestOk && portsKeyed s && basinsBound s then 1 else 0

/-- Enter the mode that the conditions give; a change raises SEC.MODE (R448). -/
def settleMode (s : State) : State :=
  let m := modeNow s
  if m = s.sec.mode then s
  else raise { s with sec := { s.sec with mode := m } } srcStewipen evSecMode [s.sec.mode, m, s.sec.errCause] []

/-- Measurement register Mi is extended with a digest (R457). -/
def extendMeas (s : State) (i : Nat) (d : List Byte) : State :=
  { s with sec := { s.sec with meas := s.sec.meas.modify i fun m => word256 (sha256 (bytes256 m ++ d)) } }

/-- The security configuration: the ports' CAK KEY_IDs, the SCI bindings and the ports with MACSEC_REQ (R457). -/
def secCfg (s : State) : List (Nat × Nat) × List (Nat × Nat × Nat) × List Nat :=
  (s.sec.caks.map fun k => (k.port, k.keyId), s.sec.scis.map fun k => (k.port, k.sci, k.basin),
    (List.range 2).filter fun n => bitAt (portCtrl s n) 5)

/-- M6 is extended with the security configuration (R457). -/
def measureCfg (s : State) : State :=
  extendMeas s 6 (sha256 (Config.secCfgBytes (secCfg s).1 (secCfg s).2.1 (secCfg s).2.2))

/-- M6 is extended where the configuration is no longer that of another state (R457). -/
def measureChange (s0 s : State) : State := if secCfg s0 = secCfg s then s else measureCfg s

/-! ### The random sources (R452, R460, R461) -/

/-- A generate request of 64 bits of a DRBG: its bits and the DRBG after it (log entry 28). -/
def Drbg.draw (d : Drbg) : Nat × Drbg :=
  let (w, x) := drbgGenerate (d.key, d.v)
  (w.toNat, { d with key := x.1, v := x.2, gens := d.gens + 1 })

/-- D0 or D1, and its change. -/
def drbgOf (s : State) (n : Nat) : Drbg := if n = 0 then s.sec.d0 else s.sec.d1
def setDrbg (s : State) (n : Nat) (d : Drbg) : State := { s with sec := if n = 0 then { s.sec with d0 := d } else { s.sec with d1 := d } }

/-- Seed a DRBG with 256 bits of fresh entropy: instantiation with a nonce, or a reseed of what it holds. -/
def seedDrbg (s : State) (n : Nat) (fresh : Bool) : State :=
  let d := drbgOf s n
  let e := entropy s.sec.samples
  let x := if fresh then drbgStart e (Config.drbgNonce s.sec.samples) else drbgReseed (d.key, d.v) e
  let s := { s with sec := { s.sec with samples := s.sec.samples + 640 } }
  setDrbg s n { ok := true, key := x.1, v := x.2, gens := 0, reseeds := d.reseeds + 1 }

/-- A DRBG stops, and its state is gone. -/
def stopDrbg (s : State) (n : Nat) : State := setDrbg s n { reseeds := (drbgOf s n).reseeds }

/-- Both DRBGs have a function that has failed: the entropy source or CTR_DRBG (R465). -/
def drbgFailed (s : State) : Bool := s.sec.failedCauses.contains 3 || s.sec.failedCauses.contains 4

/-- The states of both DRBGs are zeroised (R452). Where neither the entropy source nor CTR_DRBG has failed they start anew, for what needs no
failed function goes on (R465, log entry 63). -/
def zeroiseDrbgs (s : State) : State :=
  let again (s : State) (n : Nat) : State := if (drbgOf s n).ok && !drbgFailed s then seedDrbg s n true else stopDrbg s n
  again (again s 0) 1

/-! ### Reports (R459, R470) -/

/-- A signature of SLH-DSA-SHA2-128f: 17,088 bytes. -/
def signed128f (seeds m : List Byte) : List Byte :=
  let l := (Config.slhSign seeds m).take 17088
  l ++ List.replicate (17088 - l.length) 0

/-- The report that is being signed is complete: it is sent (R459). -/
def finishSigning (s : State) : State :=
  match s.sec.signing with
  | none => s
  | some x =>
    let s := { s with sec := { s.sec with signing := none, reportSeq := wrap 32 (s.sec.reportSeq + 1) } }
    reply s x.h 0x0900 stOk [.record 512 x.word, .bytes (signed128f (aliasSeeds s.sec.meas) (le 512 x.word))]

/-- A self-test fails while a report is being signed: it is not sent (R470). -/
def dropSigning (s : State) : State :=
  match s.sec.signing with
  | none => s
  | some x => reply { s with sec := { s.sec with signing := none } } x.h 0x0900 stSecError []

/-- A failure of a self-test or of identity (R465, R468): ERROR until the restart, in the registers, the fault log and, for a
self-test, as SEC.SELFTEST_FAIL. -/
def failSec (s : State) (test : Option Nat) (cause : Nat) : State :=
  let x := s.sec
  let x := { x with
    failedCauses := if x.failedCauses.contains cause then x.failedCauses else x.failedCauses ++ [cause]
    errCause := if x.errCause = 0 then cause else x.errCause
    selftestOk := x.selftestOk && test.isNone
    saks := if cause = 2 then [] else x.saks }
  let s := settleMode (zeroiseDrbgs { s with sec := x })
  let s := if test.isSome then dropSigning s else s
  let s := match test with
    | some t => raise s srcStewipen evSecSelftestFail [t, cause] []
    | none => s
  otherFaultRecord s 4 srcStewipen 0 none 0 371 0 cause 0

/-- SEC_STATUS (R468). -/
def secStatus (s : State) : Nat :=
  let x := s.sec
  let cak := fun n : Nat => b2n (x.caks.any fun k => k.port == n)
  x.mode + x.errCause * 2 ^ 2 + b2n x.d0.ok * 2 ^ 5 + b2n x.d1.ok * 2 ^ 6 + b2n x.key0Revoked * 2 ^ 7 + cak 0 * 2 ^ 8 + cak 1 * 2 ^ 9 +
    basinsMask (((List.range 16).filter fun b => x.scis.any fun k => k.basin == b)) * 2 ^ 16 + x.minSvn % 2 ^ 32 * 2 ^ 32

end Sys2Proof.Machine
end

