-- ==== Sys2Proof/Machine/Bind.lean ====
section
/-! DEFINITION. Step programs: the checks of every descriptor at a bind and at registration, the riffle seeds, the pins, and the
bind itself (R26, R98, R122, R153, R156 to R162, R179, R193, R195, R200, R201, R220, R307, R308, R338, R342, R344, R437,
R513, R555, R556). -/

namespace Sys2Proof.Machine

/-! ### Tiles of matrix work (R73, R80, R345) -/

def tileC (cw : Nat) : Nat := 32 * 2 ^ cw
def tileNL (cw : Nat) : Nat := 512 / 2 ^ cw

/-- The size of a partial-sum record (R81). -/
def recSize : Nat := 65792

def mCw (d : BitVec 512) : Nat := if kindOf d = 0x11 then dfld d 8 9 else dfld d 16 17
def mRows (d : BitVec 512) : Nat := dfld d 288 311 + 1
def mRow0 (d : BitVec 512) : Nat := dfld d 256 279
def mK0 (d : BitVec 512) : Nat := dfld d 320 335
def mKlen (d : BitVec 512) : Nat := dfld d 336 351 + 1
def mTok (d : BitVec 512) : Nat := dfld d 352 367 + 1
def mFirst (d : BitVec 512) : Nat := dfld d 24 31
def mCount (d : BitVec 512) : Nat := dfld d 32 40
def mPsum (d : BitVec 512) : Nat := dfld d 192 239
def mMode1 (d : BitVec 512) : Bool := dfld d 8 9 == 1
def mKch (d : BitVec 512) : Nat := 256 * 2 ^ dfld d 12 14
def mEpi (d : BitVec 512) : Nat := dfld d 384 431

/-- NRT, then NTT or NCT, then NK or NKC (R80, R345). -/
def mNrt (d : BitVec 512) : Nat := cdiv (mRows d) (tileNL (mCw d))
def gT (d : BitVec 512) : Nat := 32 * 2 ^ dfld d 12 14
def mNtt (d : BitVec 512) : Nat := if kindOf d = 0x11 then cdiv (32 * mKlen d) (tileC (mCw d)) else cdiv (mTok d) (tileC (mCw d))
def mNk (d : BitVec 512) : Nat := if kindOf d = 0x11 then cdiv (mTok d) (gT d) else cdiv (32 * mKlen d) (mKch d)
def mItems (d : BitVec 512) : Nat := mNrt d * mNtt d * mNk d

/-! ### Row lengths (R54) -/

/-- Bytes of a row of `n` elements in an output format: 0 F4, 1 P2, 2 G8, 3 BF16, 4 F32 (R121). -/
def outBytes (ofmt n : Nat) : Nat :=
  match ofmt with
  | 0 => BFmt.rowBytes .f4 n
  | 1 => BFmt.rowBytes .p2 n
  | 2 => BFmt.rowBytes .g8 n
  | 3 => 2 * n
  | _ => 4 * n

/-- The bytes that `n` rows at a stride in units of 64 bytes span. -/
def span (n stride row : Nat) : Nat := (n - 1) * stride * 64 + row

/-! ### Checks in common -/

/-- Reserved fields by kind (R97, R121, R151, R156, R178, R194, R200, R201, R338, R344). -/
def reservedOf (k : Nat) : List (Nat × Nat) :=
  match k with
  | 0x10 => [(11, 11), (15, 15), (18, 23), (41, 63), (112, 127), (240, 255), (280, 287), (312, 319), (432, 447), (496, 511)]
  | 0x11 => [(11, 11), (15, 23), (41, 63), (240, 255), (280, 287), (312, 319), (496, 511)]
  | 0x20 => [(11, 11), (23, 23), (38, 39), (46, 47), (72, 79), (480, 511)]
  | 0x30 => [(20, 20), (23, 23), (123, 127), (496, 511)]
  | 0x31 => [(20, 20), (23, 23), (123, 127), (496, 511)]
  | 0x40 => [(9, 15), (27, 31), (44, 63), (112, 127), (176, 511)]
  | 0x50 => [(11, 11), (15, 15), (25, 31), (56, 63), (120, 127), (496, 511)]
  | 0x60 => [(14, 15), (24, 31), (44, 47), (56, 63), (112, 127), (176, 191), (248, 255), (320, 511)]
  | 0x61 => [(18, 23), (36, 63), (112, 127), (176, 511)]
  | 0x62 => [(9, 13), (160, 511)]
  | _ => [(13, 15), (56, 63), (432, 511)]

def reservedClear (d : BitVec 512) : Bool := (reservedOf (kindOf d)).all fun r => dfld d r.1 r.2 == 0

/-- The kinds of R555. -/
def kinds : List Nat := [0x10, 0x11, 0x20, 0x30, 0x31, 0x40, 0x50, 0x60, 0x61, 0x62, 0x70]

/-- The regions named with a length do not overlap. -/
def apart (l : List (Nat × Nat)) : Bool := disjoint (l.filter fun a => a.2 != 0)

/-- A range of bytes lies within the basin's address range: its job's pool aperture, and the tiered pages mapped now
(R214). -/
def inRange (s : State) (b a n : Nat) : Bool :=
  let n := max 1 n
  if a < 0x18000000 then a + n ≤ 0x18000000
  else inTiered a n &&
    (let (p, q) := pagesOf a n
     mappedIn s b (fun x => p ≤ x && x ≤ q) == q + 1 - p)

/-- Regions in range and apart. -/
def regionsOk (s : State) (b : Nat) (l : List (Nat × Nat)) : Bool := apart l && l.all fun a => a.2 == 0 || inRange s b a.1 a.2

/-- An S8 code and its base at two places of a descriptor (R46). -/
def s8At (d : BitVec 512) (cLo bLo : Nat) : Bool := s8Valid (signed 8 (dfld d bLo (bLo + 7))) (dfld d cLo (cLo + 15))

/-- The slice bound for a basin and READY (R442). -/
def sliceOf (s : State) (b : Nat) : Option Slice :=
  s.fords.slices.find? fun x => fld x.word.toNat 64 67 == b && x.state == 2

/-- The slice's lengths on x, y and z (R434). -/
def sliceLen (x : Slice) (axis : Nat) : Nat := fld x.word.toNat (84 + 4 * axis) (87 + 4 * axis) + 1

/-- This module's slice coordinate on an axis (R433). -/
def sliceCoord (s : State) (x : Slice) (axis : Nat) : Nat :=
  let dim := fld s.fords.topo.toNat (4 * axis) (4 * axis + 3) + 1
  let c := fld s.fords.topo.toNat (16 + 4 * axis) (19 + 4 * axis)
  let o := fld x.word.toNat (72 + 4 * axis) (75 + 4 * axis)
  (c + dim - o % dim) % dim

/-- Coordinates inside the slice. -/
def inSlice (s : State) (b x y z : Nat) : Bool :=
  (sliceOf s b).any fun q => x < sliceLen q 0 && y < sliceLen q 1 && z < sliceLen q 2

/-- A consuming descriptor's RSTREAM names a record of the riffle binding that stands before it (R156, R161). -/
def streamNamed (ds : List (BitVec 512)) (i n : Nat) : Bool :=
  (ds.take i).any fun r => kindOf r == 0x40 && 1 ≤ n && n ≤ dfld r 32 43

/-- The riffle binding descriptor of a step. -/
def riffleOf (t : Step) : Option (BitVec 512) := t.descs.find? fun r => kindOf r == 0x40

/-- Stream record n (R157). -/
def streamRec (s : State) (t : Step) (n : Nat) : Nat :=
  match riffleOf t with
  | some r => peek s t (dfld r 128 175 + 8 * (n - 1)) 8
  | none => 0

/-- RSTREAM names a record of the right use (R161). -/
def streamOk (s : State) (t : Step) (i n use : Nat) : Bool :=
  streamNamed t.descs i n && fld (streamRec s t n) 0 3 == use

/-- The address of a descriptor of the step program. -/
def descAddr (base i : Nat) : Nat := base + 64 * i

/-- The base address and the count of descriptors of a step's program (R307). -/
def progBase (t : Step) : Nat := fld t.prog.toNat 192 239
def progCount (t : Step) : Nat := fld t.prog.toNat 160 191

/-- The logical positions bound for a step (R26, R307). -/
def stepPositions (t : Step) : Nat := fld t.prog.toNat 40 48

/-- The descriptor of a program at an address. -/
def descAt (base : Nat) (ds : List (BitVec 512)) (a : Nat) : Option (BitVec 512) :=
  if a < base || (a - base) % 64 != 0 then none else ds[(a - base) / 64]?

/-! ### Matrix operation descriptors (R98) -/

/-- The checks on the descriptor's own bits. -/
def matStatic (d : BitVec 512) : Bool :=
  reservedClear d && dfld d 8 9 ≤ 1 && dfld d 12 14 ≤ 4 && dfld d 16 17 ≤ 2 && 1 ≤ mCount d && mCount d ≤ 256 &&
    1 ≤ dfld d 176 191 && dfld d 64 111 % 32 == 0 && dfld d 128 175 % 64 == 0 && mPsum d % 64 == 0 && mEpi d % 64 == 0 &&
    dfld d 448 495 % 32 == 0

def mFmt (d : BitVec 512) : BFmt := if mMode1 d then .g8 else .f4

/-- The regions a matrix descriptor names, for a tensor of `cols` columns. -/
def matRegions (cols : Nat) (d : BitVec 512) : List (Nat × Nat) :=
  [(dfld d 64 111, 32), (dfld d 128 175, span (mTok d) (dfld d 176 191) ((mFmt d).rowBytes (32 * cdiv cols 32))),
   (mPsum d, mItems d * recSize), (dfld d 448 495, 32), (mEpi d, if mEpi d = 0 then 0 else 64)]

/-- A matrix descriptor with EPI names an epilogue descriptor of its program whose MAT names it (R122). -/
def epiLinked (base : Nat) (ds : List (BitVec 512)) (i : Nat) (d : BitVec 512) : Bool :=
  mEpi d == 0 || (descAt base ds (mEpi d)).any fun e => kindOf e == 0x20 && dfld e 96 143 == descAddr base i

/-- The weight header of a matrix descriptor as the device reads it. -/
def headerAt (s : State) (t : Step) (a : Nat) : WHdr := whdrOf (peek s t a 32)

/-- The checks of R98 on memory, in order; 0 when they pass. -/
def bindMatrix (s : State) (t : Step) (d : BitVec 512) (positions : Bool) : Nat :=
  let w := dfld d 64 111
  if w % 32 != 0 || !inRange s t.basin w 32 then stDescInvalid
  else match peekBad s t w 32 with
    | some st => st
    | none =>
      let h := headerAt s t w
      if !h.ok then stFormatInvalid
      else if matStatic d && (!positions || mFirst d + mCount d ≤ stepPositions t) && mRow0 d + mRows d ≤ h.rows &&
          32 * mK0 d < h.cols && mK0 d + mKlen d ≤ cdiv h.cols 32 &&
          (mFmt d).rowBytes (32 * cdiv h.cols 32) ≤ 64 * dfld d 176 191 && regionsOk s t.basin (matRegions h.cols d) then 0
      else stDescInvalid

/-! ### Weight-gradient descriptors (R344, log entry 27) -/

/-- Row lengths in elements of GRAD and SAVED: up to the last row or column that the descriptor covers (log entry 27). -/
def gradElems (d : BitVec 512) : Nat := 32 * cdiv (mRow0 d + mRows d) 32
def savedElems (d : BitVec 512) : Nat := 32 * (mK0 d + mKlen d)

def gradRegions (d : BitVec 512) : List (Nat × Nat) :=
  [(dfld d 64 111, span (mTok d) (dfld d 112 127) (BFmt.rowBytes .g8 (gradElems d))),
   (dfld d 128 175, span (mTok d) (dfld d 176 191) (BFmt.rowBytes .p2 (savedElems d))),
   (mPsum d, mItems d * recSize), (dfld d 384 431, span (mRows d) (dfld d 432 447) (128 * mKlen d)), (dfld d 448 495, 32)]

def gradStatic (d : BitVec 512) : Bool :=
  reservedClear d && dfld d 8 9 ≤ 2 && dfld d 12 14 ≤ 3 && 1 ≤ mCount d && mCount d ≤ 256 && dfld d 64 111 % 64 == 0 &&
    dfld d 128 175 % 64 == 0 && mPsum d % 64 == 0 && dfld d 384 431 % 64 == 0 && dfld d 448 495 % 32 == 0 &&
    BFmt.rowBytes .g8 (gradElems d) ≤ 64 * dfld d 112 127 && BFmt.rowBytes .p2 (savedElems d) ≤ 64 * dfld d 176 191 &&
    128 * mKlen d ≤ 64 * dfld d 432 447 && apart (gradRegions d)

def bindGrad (s : State) (t : Step) (d : BitVec 512) : Nat :=
  if gradStatic d && mFirst d + mCount d ≤ stepPositions t && regionsOk s t.basin (gradRegions d) then 0 else stDescInvalid

/-! ### Epilogue descriptors (R122) -/

def eOfmt (d : BitVec 512) : Nat := dfld d 12 14
def eActf (d : BitVec 512) : Nat := dfld d 8 10
def eMat (d : BitVec 512) : Nat := dfld d 96 143
def eMerges (d : BitVec 512) : Nat := dfld d 80 95
def eOut (d : BitVec 512) : Nat := dfld d 192 239
def eAxes (d : BitVec 512) : Nat := dfld d 20 22

def epiStatic (d : BitVec 512) : Bool :=
  let sr := bitAt d.toNat 16
  let xmode := bitAt d.toNat 15
  reservedClear d && eActf d ≤ 4 && eOfmt d ≤ 4 && (!sr || eOfmt d == 2) && (!xmode || eOfmt d ≤ 2) && dfld d 24 31 ≤ 254 &&
    dfld d 32 37 ≤ 32 && dfld d 40 45 ≤ 32 && s8At d 48 64 && 1 ≤ dfld d 240 255 &&
    ((dfld d 256 303 != 0) == (eActf d == 3 || eActf d == 4)) && (bitAt d.toNat 17 || dfld d 144 191 == 0) &&
    (eMerges d != 0 || dfld d 304 351 == 0) && (dfld d 448 463 != 0 || dfld d 352 399 == 0) && (sr || dfld d 464 479 == 0) &&
    eMat d % 64 == 0 && dfld d 144 191 % 8 == 0 && eOut d % 64 == 0 && dfld d 256 303 % 64 == 0 && dfld d 304 351 % 8 == 0 &&
    dfld d 352 399 % 64 == 0 && dfld d 400 447 % 32 == 0

/-- The regions of an epilogue descriptor over `oc` output columns, with the matrix descriptor at MAT where it is known. -/
def epiRegions (m : Option (BitVec 512)) (oc : Nat) (d : BitVec 512) : List (Nat × Nat) :=
  let toks := (m.map mTok).getD 0
  [(eMat d, 64), (dfld d 144 191, if bitAt d.toNat 17 then (if bitAt d.toNat 18 then 2 else 4) * oc else 0),
   (eOut d, if oc = 0 || toks = 0 then 0 else span toks (dfld d 240 255) (outBytes (eOfmt d) oc)),
   (dfld d 256 303, if dfld d 256 303 = 0 then 0 else 528), (dfld d 304 351, 8 * eMerges d),
   (dfld d 352 399, 48 * dfld d 448 463), (dfld d 400 447, 32 + 8 * cdiv oc 32)] ++
    (match m with
     | some m => [(mPsum m, mItems m * recSize)]
     | none => [])

/-- The row-merge entries (R107): first row and count. -/
def mergeList (s : State) (t : Step) (d : BitVec 512) : List (Nat × Nat × Nat) :=
  (List.range (eMerges d)).map fun k =>
    let w := peek s t (dfld d 304 351 + 8 * k) 8
    (fld w 0 31, fld w 32 47, fld w 48 63)

/-- The entries rise, do not overlap and lie within the rows (R122). -/
def mergesOk (lo hi : Nat) : List (Nat × Nat × Nat) → Bool
  | [] => true
  | (f, m, r) :: l => lo ≤ f && f + m ≤ hi && 2 ≤ m && m ≤ 16 && r == 0 && mergesOk (f + m) hi l

/-- OUT_COLS (R107). -/
def outCols (rows : Nat) (l : List (Nat × Nat × Nat)) : Nat := rows - (l.map fun x => x.2.1 - 1).sum

/-- An activation table is well formed (R114, R122). -/
def tableOk (s : State) (t : Step) (a : Nat) : Bool :=
  let wsh := signed 8 (peek s t a 1)
  let tb := signed 8 (peek s t (a + 1) 1)
  peek s t (a + 2) 14 == 0 && (-8 : Int) ≤ wsh && wsh ≤ 4 && (List.range 64).all fun i =>
    let w := peek s t (a + 16 + 8 * i) 8
    fld w 12 31 == 0 && (if bitAt w 11 then fld w 0 10 == 0 else s8Valid tb (fld w 0 9)) && fld w 55 62 != 255

/-- The matrix descriptor that MAT names: of the program, or from memory. One that lies outside the program on a poisoned or unreachable page
reads as zeros, so that the bind fails with ST_DESC_INVALID (DESIGN CHOICE, log entry 154). -/
def matOf (s : State) (t : Step) (d : BitVec 512) : BitVec 512 :=
  (descAt (progBase t) t.descs (eMat d)).getD (BitVec.ofNat 512 (peek s t (eMat d) 64))

/-- The checks of R122. A matrix descriptor whose EPI is not 0 lies in this program. DESIGN CHOICE (log entry 119): every reduced
axis that the bound slice has, of whatever length, counts as an axis of the slice. -/
def bindEpilogue (s : State) (t : Step) (i : Nat) (d : BitVec 512) : Nat :=
  let m := matOf s t d
  if !epiStatic d || !inRange s t.basin (eMat d) 64 || kindOf m != 0x10 ||
      !(mEpi m == 0 || (mEpi m == descAddr (progBase t) i && (descAt (progBase t) t.descs (eMat d)).isSome)) then stDescInvalid
  else
    let st := bindMatrix s t m false
    if st != 0 then st
    else
      let tabs := [(dfld d 304 351, 8 * eMerges d), (dfld d 256 303, if dfld d 256 303 = 0 then 0 else 528)]
      if !(tabs.all fun a => a.2 == 0 || inRange s t.basin a.1 a.2) then stDescInvalid
      else match tabs.findSome? fun a => if a.2 = 0 then none else peekBad s t a.1 a.2 with
        | some st => st
        | none =>
          let l := mergeList s t d
          let oc := outCols (mRows m) l
          if mergesOk (mRow0 m) (mRow0 m + mRows m) l && (2 < eOfmt d || oc % 32 == 0) &&
              outBytes (eOfmt d) oc ≤ 64 * dfld d 240 255 && (dfld d 256 303 == 0 || tableOk s t (dfld d 256 303)) &&
              (eAxes d == 0 || (sliceOf s t.basin).isSome) &&
              (!bitAt d.toNat 16 || streamOk s t i (dfld d 464 479) 2) && regionsOk s t.basin (epiRegions (some m) oc d) then 0
          else stDescInvalid

/-! ### Attention descriptors (R153, R342) -/

def aDh (d : BitVec 512) : Nat := 64 * 2 ^ dfld d 8 9
def aG (d : BitVec 512) : Nat := dfld d 16 19 + 1
def aHeads (d : BitVec 512) : Nat := dfld d 24 31 + 1
def aQh (d : BitVec 512) : Nat := aHeads d * aG d
def aNq (d : BitVec 512) : Nat := dfld d 80 87 + 1
def aReqs (d : BitVec 512) : Nat := dfld d 88 95 + 1
def aPpr (d : BitVec 512) : Nat := dfld d 56 63
def aTable (d : BitVec 512) : Nat := dfld d 192 239
def aBack (d : BitVec 512) : Bool := kindOf d == 0x31

/-- SREC of R126. -/
def summSize (dh : Nat) : Nat := if dh = 64 then 128 else if dh = 128 then 192 else 320

/-- The fixed regions of an attention descriptor, forward or backward. -/
def attRegions (d : BitVec 512) : List (Nat × Nat) :=
  let rows := aReqs d * aNq d
  let n := aQh d * aDh d
  let kv := BFmt.rowBytes .p2 (aHeads d * aDh d)
  let opt (a l : Nat) : Nat × Nat := (a, if a = 0 then 0 else l)
  [(dfld d 128 175, span rows (dfld d 176 191) (BFmt.rowBytes .f4 n)), (aTable d, 32 * aReqs d), (dfld d 448 495, 32),
   (dfld d 256 303, span rows (dfld d 240 255) (outBytes (dfld d 10 12) n))] ++
    (if aBack d then [(dfld d 320 367, span rows (dfld d 176 191) (BFmt.rowBytes .g8 n))]
     else [opt (dfld d 320 367) (span rows (dfld d 304 319) kv), opt (dfld d 384 431) (span rows (dfld d 304 319) kv)])

def attStatic (ds : List (BitVec 512)) (i : Nat) (d : BitVec 512) : Bool :=
  let n := aQh d * aDh d
  let sel := bitAt d.toNat 15
  let noSel := dfld d 64 79 == 0 && dfld d 120 122 == 0 && dfld d 432 447 == 0
  let strides := if aBack d then
      BFmt.rowBytes .g8 n ≤ 64 * dfld d 176 191 && BFmt.rowBytes .g8 n ≤ 64 * dfld d 240 255 &&
        8 * aHeads d * aDh d ≤ 64 * dfld d 304 319
    else BFmt.rowBytes .f4 n ≤ 64 * dfld d 176 191 && outBytes (dfld d 10 12) n ≤ 64 * dfld d 240 255 &&
      ((dfld d 320 367 == 0 && dfld d 384 431 == 0) || BFmt.rowBytes .p2 (aHeads d * aDh d) ≤ 64 * dfld d 304 319)
  reservedClear d && dfld d 8 9 ≤ 2 && dfld d 13 14 ≤ 1 && dfld d 120 122 != 7 && aQh d ≤ 256 && 1 ≤ aPpr d &&
    (dfld d 32 47 == 0 || dfld d 13 14 == 1) && s8At d 96 112 && strides && dfld d 128 175 % 64 == 0 && aTable d % 32 == 0 &&
    dfld d 256 303 % 64 == 0 && dfld d 320 367 % 64 == 0 && dfld d 384 431 % 64 == 0 && dfld d 448 495 % 32 == 0 &&
    (if aBack d then dfld d 10 12 == 2 && !sel && dfld d 21 22 == 0 && noSel && dfld d 384 431 == 0
     else [0, 3, 4].contains (dfld d 10 12) && (if sel then streamNamed ds i (dfld d 432 447) else noSel)) &&
    apart (attRegions d)

/-- A request table entry (R152). -/
structure ReqEnt where
  pl : Nat
  npages : Nat
  summ : Nat
  append : Bool
  reserved : Bool
  pos0 : Nat
  qpos : Nat
  lse : Nat
  /-- Query tokens of the request in this step (R309, R317, log entry 38). -/
  nq : Nat := 0
  deriving DecidableEq, Repr

def reqEntOf (w : Nat) : ReqEnt where
  pl := fld w 0 47
  npages := fld w 48 63
  summ := fld w 64 111
  append := bitAt w 112
  reserved := fld w 113 127 != 0 || fld w 240 255 != 0
  pos0 := fld w 128 159
  qpos := fld w 160 191
  lse := fld w 192 239

/-- The batch slot whose request table entries hold entry r of a descriptor's table (R309); slot r when none does. -/
def entrySlot (t : Step) (d : BitVec 512) (r : Nat) : Nat :=
  let a := aTable d + 32 * r
  (t.slots.findIdx? fun x => x.rtab ≤ a && a < x.rtab + 32 * fld t.prog.toNat 352 367).getD r

/-- The query tokens of request r that the step runs: in a serving step the positions of its slot (R317, log entry 38). -/
def attNq (t : Step) (d : BitVec 512) (r : Nat) : Nat :=
  match t.kind with
  | .serve _ => min (aNq d) (((t.slots[entrySlot t d r]?).map (·.nq)).getD (aNq d))
  | .train _ _ => aNq d

def reqEnt (s : State) (t : Step) (d : BitVec 512) (r : Nat) : ReqEnt :=
  { reqEntOf (peek s t (aTable d + 32 * r) 32) with nq := attNq t d r }

/-- The regions that a request's entry names: page list, summaries or dKV area, LSE records. -/
def entRegions (d : BitVec 512) (e : ReqEnt) : List (Nat × Nat) :=
  let pages := e.npages * aHeads d
  [(e.pl, 16 * pages),
   (e.summ, if aBack d then span (256 * (e.npages - 1) + 1) (dfld d 304 319) (8 * aHeads d * aDh d)
            else summSize (aDh d) * pages),
   (e.lse, if e.lse = 0 then 0 else 8 * aNq d * aQh d)]

def entOk (d : BitVec 512) (e : ReqEnt) : Bool :=
  !e.reserved && 1 ≤ e.npages && e.pl % 16 == 0 && e.summ % 64 == 0 && e.lse % 8 == 0 && (!aBack d || e.lse != 0)

/-- The checks of R153 and R342. -/
def bindAttention (s : State) (t : Step) (i : Nat) (d : BitVec 512) : Nat :=
  if !attStatic t.descs i d || !inRange s t.basin (aTable d) (32 * aReqs d) then stDescInvalid
  else match peekBad s t (aTable d) (32 * aReqs d) with
    | some st => st
    | none =>
      let es := (List.range (aReqs d)).map (reqEnt s t d)
      let lse := es.map fun e => (e.lse, if e.lse = 0 then 0 else 8 * aNq d * aQh d)
      if es.all (entOk d) && (aBack d || (dfld d 320 367 != 0 && dfld d 384 431 != 0) || !(es.any (·.append))) &&
          (dfld d 21 22 == 0 || (sliceOf s t.basin).isSome) &&
          (!bitAt d.toNat 15 || streamOk s t i (dfld d 432 447) 1) &&
          regionsOk s t.basin (attRegions d ++ lse) &&
          es.all (fun e => (entRegions d e).all fun a => a.2 == 0 || inRange s t.basin a.1 a.2) then 0
      else stDescInvalid

/-! ### Riffle bindings (R156, R160, R161, R556) -/

def rNgen (d : BitVec 512) : Nat := dfld d 16 26
def rNstr (d : BitVec 512) : Nat := dfld d 32 43
def rSeedm (d : BitVec 512) : Bool := bitAt d.toNat 8

/-- The explicit seeds and the stream records of a riffle descriptor. -/
def riffleRegions (d : BitVec 512) : List (Nat × Nat) :=
  [(dfld d 64 111, if rSeedm d then 4 * rNgen d else 0), (dfld d 128 175, 8 * rNstr d)]

def riffleStatic (ds : List (BitVec 512)) (i : Nat) (d : BitVec 512) : Bool :=
  reservedClear d && 1 ≤ rNgen d && rNgen d ≤ 1024 && 1 ≤ rNstr d && rNstr d ≤ 4095 && (rSeedm d || dfld d 64 111 == 0) &&
    dfld d 64 111 % 8 == 0 && dfld d 128 175 % 8 == 0 && !((ds.take i).any fun r => kindOf r == 0x40) &&
    apart (riffleRegions d)

/-- A stream record passes R161. -/
def recOk (n w : Nat) : Bool :=
  let ga := fld w 16 25
  let gb := fld w 26 35
  let gs := fld w 36 45
  fld w 4 15 == 0 && fld w 46 63 == 0 && ga < n &&
    (if fld w 0 3 = 1 then gb < n && gs < n else fld w 0 3 == 2 && gb == 0 && gs == 0)

/-- Three things are pairwise different. -/
def distinct3 (a b c : Nat) : Bool := a != b && b != c && a != c

/-- A stream record passes R160. -/
def recApart (seeds : Option (Nat → Nat)) (w : Nat) : Bool :=
  let ga := fld w 16 25
  let gb := fld w 26 35
  let gs := fld w 36 45
  fld w 0 3 != 1 || (distinct3 ga gb gs &&
    (match seeds with
     | some f => distinct3 (f ga) (f gb) (f gs)
     | none => true))

/-- DRBG D1 can supply a step: SP1 is on and no self-test has closed it (R162, R461, R465). -/
def d1Ok (s : State) : Bool := s.sec.d1.ok && domOn s 371

/-- D1 waits for its reseed (R461). -/
def d1Waits (s : State) : Bool := 2 ^ 20 ≤ s.sec.d1.gens

/-- The checks of R556. SEEDS or STREAMS that are unmapped or overlap fail it with ST_DESC_INVALID, which no rule says (DESIGN CHOICE, log
entry 154). -/
def bindRiffle (s : State) (t : Step) (i : Nat) (d : BitVec 512) : Nat :=
  let n := rNgen d
  let seedAt (g : Nat) : Nat := peek s t (dfld d 64 111 + 4 * g) 4
  let regs := [(dfld d 64 111, if rSeedm d then 4 * n else 0), (dfld d 128 175, 8 * rNstr d)]
  if !riffleStatic t.descs i d || !regionsOk s t.basin regs then stDescInvalid
  else match regs.findSome? fun a => if a.2 = 0 then none else peekBad s t a.1 a.2 with
    | some st => st
    | none =>
      let recs := (List.range (rNstr d)).map fun k => peek s t (dfld d 128 175 + 8 * k) 8
      if !(recs.all (recOk n)) || (rSeedm d && (List.range n).any fun g => seedAt g == 0) then stDescInvalid
      else if !(recs.all (recApart (if rSeedm d then some seedAt else none))) then stStreamCorrelated
      else if !rSeedm d && !d1Ok s then stRngUnavailable
      else 0

/-- One 64-bit output of D1, counted as one generate request (log entry 28). -/
def drawD1 (s : State) : Nat × State :=
  let (w, d) := s.sec.d1.draw
  (w, setDrbg s 1 d)

/-- Draw until a number is not 0 and not one of those drawn before (R158). After 64 failing draws, and when a reseed falls due, which runs
first (R470), the bind waits with what it has, and draws on when it is tried again (log entry 28). -/
def drawSeed (old : List Nat) : Nat → State → Option Nat × State
  | 0, s => (none, s)
  | k + 1, s =>
    if d1Waits s then (none, s) else
    let (w, s) := drawD1 s
    let x := w % 2 ^ 32
    if x = 0 || old.contains x then drawSeed old k s else (some x, s)

/-- Draw the seeds that are still missing (R158). -/
def drawSeeds : Nat → List Nat → State → List Nat × State
  | 0, l, s => (l, s)
  | k + 1, l, s =>
    match drawSeed l 64 s with
    | (some x, s) => drawSeeds k (l ++ [x]) s
    | (none, s) => (l, s)

/-! ### Weir descriptors (R179) -/

def wExpert (d : BitVec 512) : Bool := !bitAt d.toNat 9
def wRoute (d : BitVec 512) : Bool := !bitAt d.toNat 8
def wTopk (d : BitVec 512) : Nat := dfld d 12 14 + 1
def wExps (d : BitVec 512) : Nat := dfld d 32 39 + 1
def wShort (d : BitVec 512) : Nat := dfld d 40 47 + 1
def wToks (d : BitVec 512) : Nat := dfld d 64 79 + 1
def wCape (d : BitVec 512) : Nat := dfld d 80 95
def wH (d : BitVec 512) : Nat := 32 * (dfld d 432 447 + 1)
def wPre (d : BitVec 512) : Bool := bitAt d.toNat 10
def wYbytes (d : BitVec 512) : Nat := (if bitAt d.toNat 24 then 2 else 4) * wH d

/-- The size of the routing area (R175). -/
def wCounts (d : BitVec 512) : Nat := 32 * wToks d
def wStatus (d : BitVec 512) : Nat := 32 * cdiv (wCounts d + 2 * wExps d) 32

def weirRegions (d : BitVec 512) : List (Nat × Nat) :=
  let slots := wExps d * wCape d
  [(dfld d 256 303, span (wToks d) (dfld d 160 175) (BFmt.rowBytes .f4 (wH d))), (dfld d 384 431, wStatus d + 32)] ++
    (if wRoute d then [(dfld d 192 239, 32), (dfld d 320 367, span slots (dfld d 160 175) (BFmt.rowBytes .f4 (wH d)))]
     else [(dfld d 320 367, span slots (dfld d 176 191) (wYbytes d)),
           (dfld d 448 495, span (wToks d) (dfld d 368 383) (outBytes (dfld d 21 23) (wH d)))])

/-- The checks of R179 on the descriptor's own bits. DESIGN CHOICE (log entry 123): PRE_EN with RSTREAM 0 is refused, since the
pre-scores have no stream. -/
def weirStatic (ds : List (BitVec 512)) (i : Nat) (d : BitVec 512) : Bool :=
  let th := signed 32 (dfld d 128 159)
  reservedClear d && dfld d 16 17 ≤ 2 && dfld d 18 20 != 7 && [0, 3, 4].contains (dfld d 21 23) && 1 ≤ wCape d &&
    wTopk d ≤ wShort d && wShort d ≤ wExps d && (dfld d 16 17 != 2 || dfld d 48 55 < wExps d) &&
    (-8388607 : Int) ≤ th && th ≤ 8388607 &&
    (wExpert d || (wExps d == 1 && wTopk d == 1 && wShort d == 1 && !wPre d && dfld d 16 17 == 0)) &&
    (if wPre d then streamNamed ds i (dfld d 304 319) else dfld d 304 319 == 0 && dfld d 18 20 == 0) &&
    BFmt.rowBytes .f4 (wH d) ≤ 64 * dfld d 160 175 &&
    (if wRoute d then dfld d 448 495 == 0 && dfld d 176 191 == 0 && dfld d 368 383 == 0 && dfld d 21 23 == 0 &&
        !bitAt d.toNat 24 && dfld d 192 239 % 32 == 0
     else dfld d 192 239 == 0 && dfld d 304 319 == 0 && !wPre d && wYbytes d ≤ 64 * dfld d 176 191 &&
       outBytes (dfld d 21 23) (wH d) ≤ 64 * dfld d 368 383) &&
    dfld d 256 303 % 64 == 0 && dfld d 320 367 % 64 == 0 && dfld d 384 431 % 32 == 0 && dfld d 448 495 % 64 == 0 &&
    apart (weirRegions d)

def bindWeir (s : State) (t : Step) (i : Nat) (d : BitVec 512) : Nat :=
  let r := dfld d 192 239
  if !weirStatic t.descs i d || !regionsOk s t.basin (weirRegions d) ||
      (wPre d && !streamOk s t i (dfld d 304 319) 1) then stDescInvalid
  else if !wRoute d then 0
  else match peekBad s t r 32 with
    | some st => st
    | none =>
      let h := headerAt s t r
      if h.ok && h.rows == wExps d && h.cols == wH d then 0 else stDescInvalid

/-! ### Eddy descriptors (R193, R195) -/

def eddyLen (d : BitVec 512) : Nat := eddySlot d * eddyNslot d
def eddySpan (d : BitVec 512) : Nat := eddySlot d * eddyNlog d

/-- The ring, the logical range and the status record of an eddy. -/
def eddyRegions (d : BitVec 512) : List (Nat × Nat) :=
  [(eddyRing d, eddyLen d), (eddyLbase d, eddySpan d), (dfld d 256 303, 32)]

def eddyStatic (ds : List (BitVec 512)) (i : Nat) (d : BitVec 512) : Bool :=
  let before := (ds.take i).filter fun e => kindOf e == 0x60
  reservedClear d && 1 ≤ dfld d 48 55 && 1 ≤ eddyNlog d && 1 ≤ dfld d 224 247 && eddyRing d % 64 == 0 &&
    eddyLbase d % 64 == 0 && dfld d 256 303 % 32 == 0 && !(before.any fun e => dfld e 8 13 == dfld d 8 13) &&
    disjoint [(eddyLbase d, eddySpan d), (eddyRing d, eddyLen d)] && disjoint [(eddyLbase d, eddySpan d), (dfld d 256 303, 32)] &&
    before.all fun e => disjoint [(eddyLbase d, eddySpan d), (eddyRing e, eddyLen e)] &&
      disjoint [(eddyLbase d, eddySpan d), (eddyLbase e, eddySpan e)] &&
      disjoint [(eddyRing d, eddyLen d), (eddyLbase e, eddySpan e)]

/-- The first and the last byte of the ring lie in one slot of the pool aperture, and so in one pool (R195, R213). -/
def ringOnePool (d : BitVec 512) : Bool :=
  match slotOf (eddyRing d), slotOf (eddyRing d + eddyLen d - 1) with
  | some (p, _), some (q, _) => p == q
  | _, _ => false

/-- The ring lies in one pool, in granules OWNED by the job (R195). -/
def ringOk (s : State) (t : Step) (d : BitVec 512) : Bool :=
  let a := eddyRing d
  let n := eddyLen d
  match slotOf a, slotOf (a + n - 1) with
  | some (p, off), some (q, _) => p == q &&
      (List.range ((off + n - 1) / 65536 + 1 - off / 65536)).all fun k =>
        (poolPlace s t.basin t.job (a - off + 65536 * (off / 65536 + k))).isSome
  | _, _ => false

/-! ### Windows and transfers (R200, R201) -/

def winStatic (d : BitVec 512) : Bool :=
  reservedClear d && dfld d 14 15 != 0 && dfld d 64 111 % 64 == 0 && 1 ≤ dfld d 128 159

def bindWindow (s : State) (t : Step) (i : Nat) (d : BitVec 512) : Nat :=
  let wid := dfld d 8 13
  if winStatic d && !(s.pools.windows.any fun w => w.basin == t.basin && w.job == t.job && w.wid == wid && w.closing.isNone) &&
      !((t.descs.take i).any fun e => kindOf e == 0x61 && dfld e 8 13 == wid) &&
      inSlice s t.basin (dfld d 24 27) (dfld d 28 31) (dfld d 32 35) && inRange s t.basin (dfld d 64 111) (64 * dfld d 128 159)
  then 0 else stDescInvalid

def xferStatic (d : BitVec 512) : Bool := reservedClear d && dfld d 32 79 % 64 == 0 && 1 ≤ dfld d 128 159

/-- A transfer's local side is checked at the bind; a module outside the slice is refused there too (log entry 29). -/
def bindXfer (s : State) (t : Step) (d : BitVec 512) : Nat :=
  if xferStatic d && inRange s t.basin (dfld d 32 79) (64 * dfld d 128 159) &&
      inSlice s t.basin (dfld d 20 23) (dfld d 24 27) (dfld d 28 31) then 0 else stDescInvalid

/-! ### Loss descriptors (R338) -/

def lVocab (d : BitVec 512) : Nat := dfld d 64 95
def lToks (d : BitVec 512) : Nat := dfld d 96 111 + 1

def lossRegions (d : BitVec 512) : List (Nat × Nat) :=
  let v := lVocab d
  [(dfld d 128 175, span (lToks d) (dfld d 176 191) (4 * v)), (dfld d 192 239, span (lToks d) (dfld d 240 255) (4 * v)),
   (dfld d 256 303, span (lToks d) (dfld d 304 319) (BFmt.rowBytes .g8 v)),
   (dfld d 320 367, if bitAt d.toNat 9 then 4 * lToks d else 0), (dfld d 384 431, 32)]

def lossStatic (ds : List (BitVec 512)) (i : Nat) (d : BitVec 512) : Bool :=
  let v := lVocab d
  let sr := bitAt d.toNat 8
  let lab := bitAt d.toNat 9
  reservedClear d && (lab || (dfld d 10 12 == 0 && dfld d 320 367 == 0)) && s8Valid (-8) (dfld d 16 31) && s8At d 32 48 &&
    1 ≤ v && v ≤ 1048576 && v % 32 == 0 && dfld d 128 175 % 64 == 0 && dfld d 192 239 % 64 == 0 && dfld d 256 303 % 64 == 0 &&
    dfld d 320 367 % 8 == 0 && dfld d 384 431 % 32 == 0 && 4 * v ≤ 64 * dfld d 176 191 && 4 * v ≤ 64 * dfld d 240 255 &&
    BFmt.rowBytes .g8 v ≤ 64 * dfld d 304 319 && (if sr then streamNamed ds i (dfld d 368 383) else dfld d 368 383 == 0) &&
    apart (lossRegions d)

def bindLoss (s : State) (t : Step) (i : Nat) (d : BitVec 512) : Nat :=
  if lossStatic t.descs i d && regionsOk s t.basin (lossRegions d) &&
      (!bitAt d.toNat 8 || streamOk s t i (dfld d 368 383) 2) then 0 else stDescInvalid

/-! ### All the regions of a descriptor, and the pins (R195, R220) -/

/-- The regions a bound descriptor names. -/
def descRegions (s : State) (t : Step) (d : BitVec 512) : List (Nat × Nat) :=
  match kindOf d with
  | 0x10 => matRegions (headerAt s t (dfld d 64 111)).cols d
  | 0x11 => gradRegions d
  | 0x20 => epiRegions (some (matOf s t d)) (outCols (mRows (matOf s t d)) (mergeList s t d)) d
  | 0x30 => attRegions d ++ ((List.range (aReqs d)).map fun r => entRegions d (reqEnt s t d r)).flatten
  | 0x31 => attRegions d ++ ((List.range (aReqs d)).map fun r => entRegions d (reqEnt s t d r)).flatten
  | 0x40 => riffleRegions d
  | 0x50 => weirRegions d
  | 0x60 => eddyRegions d
  | 0x61 => [(dfld d 64 111, 64 * dfld d 128 159)]
  | 0x62 => [(dfld d 32 79, 64 * dfld d 128 159)]
  | 0x70 => lossRegions d
  | _ => []

/-- The slots of the pages that an attention descriptor's page lists name (R125, R145). -/
def listedSlots (s : State) (t : Step) (d : BitVec 512) : List (Nat × Nat) :=
  ((List.range (aReqs d)).map fun r =>
    let e := reqEnt s t d r
    (List.range (e.npages * aHeads d)).map fun k => (fld (peek s t (e.pl + 16 * k) 16) 0 47, 272 * aDh d)).flatten

/-- The data, scales and row table of the tensor a descriptor reads. -/
def tensorAreas (s : State) (t : Step) (d : BitVec 512) : List (Nat × Nat) :=
  let rd := fun a n => peek s t a n
  match kindOf d with
  | 0x10 => areasOf rd (headerAt s t (dfld d 64 111))
  | 0x50 => if wRoute d then areasOf rd (headerAt s t (dfld d 192 239)) else []
  | _ => []

/-- The pages as whose view a page serves a step: itself, and those that the step's generation lays it over (R263). -/
def servesFor (s : State) (t : Step) (p : Nat) : List Nat :=
  p :: match stepGen s t with
    | none => []
    | some g => (g.overlay.filter fun x => x.2 == p).map (·.1) ++ (if p < 2 ^ 36 then [] else [p - 2 ^ 36 * g.half])

/-- The mapped pages that a step pins: of regions, of listed slots, and of tensors, with the DERIVED pages that serve in their place (R145,
R220, R263). -/
def pinsOf (s : State) (t : Step) : List Nat :=
  let l := (t.descs.map fun d => descRegions s t d ++ tensorAreas s t d ++
    (if kindOf d = 0x30 || kindOf d = 0x31 then listedSlots s t d else [])).flatten
  (s.tiers.pages.filter fun e => e.basin == t.basin &&
    (servesFor s t e.page).any fun p => l.any fun a => a.2 != 0 && inBytes a.1 a.2 p).map (·.page)

/-- The eddy descriptor comes before every descriptor whose regions touch its logical range (R195). -/
def eddyFirst (s : State) (t : Step) (i : Nat) (d : BitVec 512) : Bool :=
  (t.descs.take i).all fun e => (descRegions s t e).all fun a =>
    a.2 == 0 || disjoint [a, (eddyLbase d, eddySpan d)]

def bindEddy (s : State) (t : Step) (i : Nat) (d : BitVec 512) : Nat :=
  if eddyStatic t.descs i d && ringOk s t d && inRange s t.basin (eddyLbase d) (eddySpan d) &&
      inRange s t.basin (dfld d 256 303) 32 && eddyFirst s t i d then 0 else stDescInvalid

/-! ### The bind (R555) -/

/-- The status of descriptor `i` at a bind: 0 when it passes. -/
def bindStatus (s : State) (t : Step) (i : Nat) : Nat :=
  let d := descOf t i
  match peekBad s t (descAddr (progBase t) i) 64 with
  | some st => st
  | none =>
    match kindOf d with
    | 0x10 =>
      let st := bindMatrix s t d true
      if st != 0 then st else if epiLinked (progBase t) t.descs i d then 0 else stDescInvalid
    | 0x11 => bindGrad s t d
    | 0x20 => bindEpilogue s t i d
    | 0x30 => bindAttention s t i d
    | 0x31 => bindAttention s t i d
    | 0x40 => bindRiffle s t i d
    | 0x50 => bindWeir s t i d
    | 0x60 => bindEddy s t i d
    | 0x61 => bindWindow s t i d
    | 0x62 => bindXfer s t d
    | 0x70 => bindLoss s t i d
    | _ => stDescInvalid

/-- The descriptors of a step as memory holds them now. -/
def readDescs (s : State) (t : Step) : List (BitVec 512) :=
  (List.range (progCount t)).map fun i => BitVec.ofNat 512 (peek s t (descAddr (progBase t) i) 64)

/-- The reach that runs a step's position, and the tributary of a step's logical tributary (R26, R213, R513, log entry
30). -/
def stepReach (s : State) (t : Step) (p : Nat) : Nat := reachAt s t.basin t.first t.count (t.first + p)
def stepTrib (s : State) (t : Step) (u : Nat) : Nat := stepReach s t (16 * u) / 16

/-- The tributaries of the step's positions. -/
def stepTribs (s : State) (t : Step) : List Nat :=
  ((List.range (stepPositions t)).map fun p => stepReach s t p / 16).eraseDups

/-! ### Units that basins share (R399) -/

/-- The tiles or additions that a basin has taken in the present round of a tributary's unit. -/
def turnsUsed (s : State) (trib unit b : Nat) : Nat :=
  ((s.serving.turns.find? fun x => x.trib == trib && x.unit == unit && x.basin == b).map (·.used)).getD 0

/-- Change the rounds. -/
def setTurns (s : State) (f : List Turn → List Turn) : State := { s with serving := { s.serving with turns := f s.serving.turns } }

/-- A basin takes a tile of a tributary's unit; in a new round the others' counts start again. -/
def takeTurn (s : State) (trib unit b : Nat) (fresh : Bool) : State :=
  let n := if fresh then 1 else turnsUsed s trib unit b + 1
  setTurns s fun l => dropW (fun x => x.trib == trib && x.unit == unit && (fresh || x.basin == b)) l ++
    [{ trib := trib, unit := unit, basin := b, used := n }]

/-- The steps of other basins that wait for this unit: one of their tiles could be taken now. -/
def rivals (s : State) (b : Nat) (tiles : Step → List (State → State)) : List Step :=
  s.steps.filter fun t => t.basin != b && stepRuns t && (tiles t).any fun f => f s != s

/-- A step's share of the present round is used up: its basin's MLR_WEIGHT of tiles (R399). -/
def shareSpent (s : State) (trib unit : Nat) (t : Step) : Bool := t.weight ≤ turnsUsed s trib unit t.basin

/-- A tile or addition in a unit that basins share (R399): with no other basin waiting it is taken. While several wait, weighted
round-robin: a basin takes its MLR_WEIGHT of tiles a round, and the round ends when every waiting basin has had its own. A tile out of its
turn is not taken. `tiles` gives the next tiles of a step in this unit. -/
def byTurn (s : State) (t : Step) (trib unit : Nat) (tiles : Step → List (State → State)) (op : State → State) : State :=
  let rs := rivals s t.basin tiles
  if rs.isEmpty then op s
  else if op s == s then s
  else if !shareSpent s trib unit t then takeTurn (op s) trib unit t.basin false
  else if rs.all (shareSpent s trib unit) then takeTurn (op s) trib unit t.basin true
  else s

/-- The tributary whose weir, epilogue unit and riffle unit work for a step: its lowest-numbered. For the weir's assignment R172 says so; for
the rest of a step that spans several tributaries the spec names none (DESIGN CHOICE, log entry 150). -/
def unitTrib (s : State) (t : Step) : Nat := (stepTribs s t).foldl min ((stepTribs s t).headD 0)

/-- The domains a step uses (R162, R488): every page lies over all the stacks or all the packages (R222, R223). -/
def stepDomains (s : State) (t : Step) : List Nat :=
  let ts := stepTribs s t
  let has (k : Nat) : Bool := t.descs.any fun d => kindOf d == k
  (List.range (stepPositions t)).map (stepReach s t) ++ ts.map (256 + ·) ++
    (if has 0x30 || has 0x31 then ts.map (272 + ·) else []) ++
    (if has 0x40 then (ts.map fun x => 288 + x / 4).eraseDups else []) ++ (List.range 24).map (292 + ·)

/-- The domains of a step fall idle (R488). -/
def idleDomains (s : State) (t : Step) : State := (stepDomains s t).foldl (fun s d => setDom s d fun x => { x with idleSince := s.now }) s

/-- The step's job is bound to the slice (R437). -/
def sliceBound (s : State) (t : Step) : Bool :=
  (t.descs.any fun d => [0x61, 0x62].contains (kindOf d) || (kindOf d == 0x20 && eAxes d != 0) ||
      (kindOf d == 0x30 && dfld d 21 22 != 0)) ||
    (match t.kind with
     | .train tid _ => s.trains.any fun x => x.basin == t.basin && fld x.word.toNat 0 31 == tid && fld x.word.toNat 102 104 != 0
     | .serve _ => false)

/-- The part's identity (R437): 0 and TID, or 1 and GID. -/
def partIdent (t : Step) : Nat × Nat :=
  match t.kind with
  | .train tid _ => (0, tid)
  | .serve _ => (1, t.gid)

/-- The slice job and the step number that a step's units carry (R419, R437). -/
def unitJob (s : State) (sid : Nat) : Option (Nat × Nat × Nat) :=
  (stepOf s sid).map fun t => ((partIdent t).1, (partIdent t).2, t.sliceNo)

/-- Change the READY slice of a basin: a FAULTED one binds no new job (R440). -/
def setSlice (s : State) (b : Nat) (f : Slice → Slice) : State :=
  { s with fords := { s.fords with slices := updW (fun x => fld x.word.toNat 64 67 == b && x.state == 2) f s.fords.slices } }

/-- A part's job has ended: another of the same identity binds a part of its own (R437). -/
def leavePart (s : State) (b k n : Nat) : State :=
  setSlice s b fun x => { x with
    parts := dropW (fun p => p.kind == k && p.ident == n) x.parts, joins := dropW (fun j => j.1 == k && j.2.1 == n) x.joins }

/-- Bind a part to the slice (R437); a slice of one module has joined at once. -/
def bindPart (s : State) (b k n : Nat) : State :=
  setSlice s b fun x =>
    if x.parts.any fun p => p.kind == k && p.ident == n then x
    else { x with parts := x.parts ++ [{ kind := k, ident := n, boundAt := s.now,
                                         joined := sliceLen x 0 * sliceLen x 1 * sliceLen x 2 == 1 }] }

def partJoined (s : State) (b k n : Nat) : Bool :=
  (sliceOf s b).any fun x => x.parts.any fun p => p.kind == k && p.ident == n && p.joined

/-- The eddies of a step at its bind (R189). -/
def newEddies (t : Step) : List Eddy :=
  (t.descs.zipIdx.filter fun x => kindOf x.1 == 0x60).map fun x =>
    { eid := dfld x.1 8 13, desc := x.2, slots := (List.range (eddyNslot x.1)).map fun p => { gen := p } }

/-- The windows of a step (R200). -/
def newWindows (t : Step) : List Window :=
  (t.descs.filter fun d => kindOf d == 0x61).map fun d =>
    { basin := t.basin, job := t.job, sid := t.sid, wid := dfld d 8 13, rd := bitAt d.toNat 14, wr := bitAt d.toNat 15,
      any := bitAt d.toNat 16, life := dfld d 17 17, px := dfld d 24 27, py := dfld d 28 31, pz := dfld d 32 35,
      lbase := dfld d 64 111, len := dfld d 128 159, tag := dfld d 160 175 }

/-- The indexes of the descriptors of a kind. -/
def indexes (t : Step) (k : Nat) : List Nat := (t.descs.zipIdx.filter fun x => kindOf x.1 == k).map (·.2)

/-- The units of a step that has just been bound. -/
def newUnits (t : Step) (seeds : List Nat) : Units where
  reaches := (List.range (stepPositions t)).map fun p => { pos := p }
  mats := (indexes t 0x10 ++ indexes t 0x11).map fun i => { desc := i }
  epis := (indexes t 0x20).map fun i => { desc := i }
  atts := (indexes t 0x30 ++ indexes t 0x31).map fun i => { desc := i }
  weirs := (indexes t 0x50).map fun i => { desc := i }
  xfers := (indexes t 0x62).map fun i => { desc := i }
  eddies := newEddies t
  seeds := seeds

/-- How many seeds a step uses. -/
def seedCount (t : Step) : Nat := (riffleOf t).elim 0 rNgen

/-- The seeds of a step as far as they could be drawn (R158), and the state after drawing them. -/
def stepSeeds (s : State) (t : Step) : List Nat × State :=
  match riffleOf t with
  | none => ([], s)
  | some r =>
    if rSeedm r then ((List.range (rNgen r)).map fun g => peek s t (dfld r 64 111 + 4 * g) 4, s)
    else drawSeeds (rNgen r - t.units.seeds.length) t.units.seeds s

/-- The bind succeeds with these seeds: pins, windows, seeds and units are set up, and the variant's LAST_STEP is this step's start (R259). -/
def bindDone (s : State) (t : Step) (seeds : List Nat) : State :=
  let ps := pinsOf s t
  let pins := ps.map fun p => (t.basin, p, t.sid)
  let named := ps.filter fun p => (pageOf s t.basin p).any fun e => e.kind == .work || e.kind == .train
  let (k, n) := partIdent t
  let sl := sliceBound s t
  let s := if sl then setSlice s t.basin fun x => { x with
      parts := updW (fun p => p.kind == k && p.ident == n) (fun p => { p with stepNo := p.stepNo + 1 }) x.parts } else s
  let no := ((sliceOf s t.basin).bind fun x => x.parts.find? fun p => p.kind == k && p.ident == n).elim 0 (·.stepNo)
  let s := { s with
    tiers := { s.tiers with pins := s.tiers.pins ++ pins }
    pools := { s.pools with windows := s.pools.windows ++ newWindows t } }
  let s := setJob s t.basin t.job fun j => { j with named := (j.named ++ named).eraseDups }
  let s := setStep s t.sid fun _ => { t with bound := true, units := newUnits t seeds, sliceNo := if sl then no else 0 }
  setVariant s t.basin t.vid fun v => { v with lastStep := s.now }

/-- The last act of a bind: the seeds are drawn (R158), and with all of them the step is bound. -/
def bindSeeded (s : State) (t : Step) : State :=
  let (seeds, s) := stepSeeds s t
  if seeds.length < seedCount t then setUnits s t.sid fun u => { u with seeds := seeds } else bindDone s t seeds

/-- The bind fails at a descriptor: the step does not start, and FAULT.RECORD is raised by the management core (R525,
R555). -/
def bindFailed (s : State) (t : Step) (i status : Nat) : State :=
  let f : Flt := { status := status, src := srcCore, desc := i, tag := tagOfDesc t i, aux := i }
  let s := stepFlt s t f
  setStep s t.sid fun x => { x with stopped := true, status := status, descs := t.descs }

/-- What a reach holds in a step: no work, or work that an eddy stalls and that its save area takes (R323). -/
def reachHolds (t : Step) (r : ReachCtx) : Bool :=
  (r.item.isNone && r.drain.isNone) || (r.drain.any (·.stalled)) ||
    t.units.eddies.any fun e => e.stalls.any fun x => x.unit == uReach r.pos

/-- The steps of a group that hold for this one (R322). -/
def heldBy (s : State) (t : Step) : List Step :=
  s.steps.filter fun x => x.basin == t.basin && x.gid == t.gid && x.sid != t.sid && x.held

/-- Every unit of the held steps has finished its piece of work or saved it (R322, R323). -/
def heldQuiet (s : State) (t : Step) : Bool := (heldBy s t).all fun x => x.units.reaches.all (reachHolds x)

/-- What a reach saves: both accumulators, then for each lane the place of its decoder (R323). How the save area lays them out is the
model's choice (DESIGN CHOICE, log entry 136): only the reach itself reads it back. -/
def saveImage (r : ReachCtx) : List Byte :=
  let accs (l : List Acc) : List Byte := (l.map fun a => le 4 (accCode a)).flatten
  let lanes := (r.item.map (·.lanes)).getD []
  (((r.drain.map (·.accs)).getD []).map fun x => accs x.2).flatten ++
    (lanes.map fun l => accs l.u ++ accs l.acc).flatten ++
    (lanes.map fun l => le 6 l.bytePos ++ le 1 l.half ++ le 6 l.endPos ++ le 2 l.rdGrp ++ le 2 l.grp ++ le 1 l.beat).flatten

/-- A reach writes its state to the save area of its job, at most three granules (R323). -/
def putSaved (s : State) (t : Step) (r : ReachCtx) : State :=
  let gs := ((jobOf s t.basin t.job).bind fun j => j.save.find? fun x => x.1 == r.pos).elim [] (·.2)
  gs.zipIdx.foldl (fun s g => { s with mem := memPuts s.mem (granAt g.1) (((saveImage r).drop (65536 * g.2)).take 65536) }) s

/-- The reaches that an eddy stalls save their state; each counts a save (R323, R530). -/
def saveHeld (s : State) (t : Step) : State :=
  let saves (r : ReachCtx) : Bool := (r.item.isSome || r.drain.isSome) && !r.saved
  (heldBy s t).foldl (fun s x =>
    let s := (x.units.reaches.filter saves).foldl (fun s r => count (putSaved s x r) 0 (stepReach s x r.pos) 0 6 1) s
    setUnits s x.sid fun u => { u with reaches := u.reaches.map fun r => if saves r then { r with saved := true } else r }) s

/-- Some granule of a job is being cleared, or is not yet its own: requests for it wait (R207). -/
def jobClearing (s : State) (b n : Nat) : Bool :=
  match jobOf s b n with
  | some j => (jobGrans j).any fun g =>
      let x := granOf s g
      !(x.state == .owned && x.basin == b && x.job == n)
  | none => false

/-- The bind of a step (R555): the descriptors are bound in program order. A bind waits for granules to be cleared, for a TEST.BIST (R510, R520), for domains to wake, for pages under move, for
a reseed of D1 and for the other parts of a slice-bound job. -/
def bindStep (sid : Nat) (s : State) : State :=
  match stepOf s sid with
  | none => s
  | some t =>
    if t.bound || t.stopped || t.held || t.fill.isSome || !heldQuiet s t || s.boot.stage != 6 || jobClearing s t.basin t.job then s
    else
      let s := saveHeld s t
      let t := { t with descs := readDescs s t }
      match (List.range t.descs.length).find? fun i => bindStatus s t i != 0 with
      | some i => (bindFailed s t i (bindStatus s t i))
      | none =>
        let doms := stepDomains s t
        let normal := (riffleOf t).any fun r => !rSeedm r
        let (k, n) := partIdent t
        if doms.any (reserved s).contains then
          setStep s sid fun t => if t.cls = 0 && t.void = 0 then { t with void := 1 } else t
        else if doms.any fun d => !domOn s d then doms.foldl wakeDomain s
        else if (normal && d1Waits s) || (pinsOf s t).any fun p => ((pageOf s t.basin p).bind (·.moving)).isSome then s
        else if sliceBound s t && !partJoined s t.basin k n then
          let s := bindPart s t.basin k n
          if partJoined s t.basin k n then bindSeeded s t else s
        else bindSeeded s t

/-! ### MODEL.PROGRAM (R307, R308) -/

/-- The regions a descriptor names, as far as the program's own bytes give them (R308). -/
def byteRegions (base : Nat) (ds : List (BitVec 512)) (d : BitVec 512) : List (Nat × Nat) :=
  match kindOf d with
  | 0x10 => matRegions (32 * (mK0 d + mKlen d)) d
  | 0x11 => gradRegions d
  | 0x20 =>
    let m := descAt base ds (eMat d)
    epiRegions m (if eMerges d = 0 then (m.map mRows).getD 0 else 0) d
  | 0x30 => attRegions d
  | 0x31 => attRegions d
  | 0x40 => riffleRegions d
  | 0x50 => weirRegions d
  | 0x60 => eddyRegions d
  | 0x61 => [(dfld d 64 111, 64 * dfld d 128 159)]
  | 0x62 => [(dfld d 32 79, 64 * dfld d 128 159)]
  | 0x70 => lossRegions d
  | _ => []

/-- The order rule of R195, as far as the program's own bytes show it: no descriptor before an eddy's names its logical range. -/
def eddyLeads (base : Nat) (ds : List (BitVec 512)) (i : Nat) (d : BitVec 512) : Bool :=
  (ds.take i).all fun e => (byteRegions base ds e).all fun a => a.2 == 0 || disjoint [a, (eddyLbase d, eddySpan d)]

/-- The checks of one descriptor that depend on the program's bytes alone (R308). -/
def staticOk (base : Nat) (ds : List (BitVec 512)) (i : Nat) : Bool :=
  let d := ds.getD i 0
  match kindOf d with
  | 0x10 => matStatic d && apart (byteRegions base ds d) && epiLinked base ds i d
  | 0x11 => gradStatic d
  | 0x20 =>
    let m := descAt base ds (eMat d)
    epiStatic d && apart (byteRegions base ds d) &&
      m.all (fun m => kindOf m == 0x10 && (mEpi m == 0 || mEpi m == descAddr base i)) &&
      (!bitAt d.toNat 16 || streamNamed ds i (dfld d 464 479)) &&
      (2 < eOfmt d || eMerges d != 0 || m.all fun m => mRows m % 32 == 0)
  | 0x30 => attStatic ds i d
  | 0x31 => attStatic ds i d
  | 0x40 => riffleStatic ds i d
  | 0x50 => weirStatic ds i d
  | 0x60 => eddyStatic ds i d && ringOnePool d && eddyLeads base ds i d
  | 0x61 => winStatic d && !((ds.take i).any fun e => kindOf e == 0x61 && dfld e 8 13 == dfld d 8 13)
  | 0x62 => xferStatic d
  | 0x70 => lossStatic ds i d
  | _ => false

/-- What a bounded program must also meet (R308). -/
def boundedOk (d : BitVec 512) : Bool :=
  match kindOf d with
  | 0x10 => bitAt d.toNat 10
  | 0x20 => eAxes d == 0
  | 0x30 => dfld d 21 22 == 0
  | 0x61 => false
  | 0x62 => false
  | _ => true

/-- The fields of a program record (R307). -/
def progFieldsOk (w : Nat) : Bool :=
  fld w 33 39 == 0 && fld w 49 63 == 0 && fld w 89 95 == 0 && fld w 240 255 == 0 && fld w 304 319 == 0 &&
    fld w 368 383 == 0 && 1 ≤ fld w 40 48 && fld w 40 48 ≤ 256 && 1 ≤ fld w 64 79 && fld w 64 79 ≤ 4096 &&
    1 ≤ fld w 80 88 && fld w 80 88 ≤ 256 && (bitAt w 32 || fld w 80 88 == 1) && fld w 96 127 % 256 == 0 &&
    fld w 96 127 ≤ 16776960 && fld w 192 239 % 64 == 0 && fld w 256 303 % 32 == 0 && 1 ≤ fld w 320 351 &&
    fld w 320 351 ≤ 1048576

/-- The program's pages are mapped and of kind MODEL (R307). -/
def progMapped (s : State) (b a n : Nat) : Bool :=
  let (p, q) := pagesOf a n
  inTiered a n && (s.tiers.pages.filter fun e => e.basin == b && p ≤ e.page && e.page ≤ q && e.kind == .model).length == q + 1 - p

def programOk (s : State) (b : Nat) (r : BitVec 384) : Bool :=
  let w := r.toNat
  let n := fld w 160 191
  let a := fld w 192 239
  progFieldsOk w && (sealedOf s b (fld w 0 31)).isSome && (n == 0 || progMapped s b a (64 * n)) &&
    (let ds := (List.range n).map fun i => BitVec.ofNat 512 (rdB s b (a + 64 * i) 64)
     (List.range n).all (staticOk a ds) && (fld w 128 159 == 0 || ds.all boundedOk))

/-- What the groups with a step, running or held, go on using in place of a replaced program until their next step boundary
(R308). -/
def heldProgs (s : State) (b : Nat) : Option Program → List (Nat × BitVec 384)
  | none => []
  | some p => (s.serving.groups.filter fun g => g.basin == b && (g.run.isSome || g.heldStep.isSome)).map fun g =>
      let i := fld g.word.toNat 0 3
      (i, ((p.held.find? fun x => x.1 == i).map (·.2)).getD p.word)

/-- MODEL_PROGRAM (R307, R308). -/
def execModelProgram (h : Hdr) (r : BitVec 384) (s : State) : Res :=
  let w := r.toNat
  hostCmd s h 0x0104 false (some (.model (fld w 0 31))) (.modelProgram h r) fun s =>
    if !programOk s h.basin r then reply s h 0x0104 stProgramInvalid []
    else
      let same (p : Program) : Bool := p.basin == h.basin && fld p.word.toNat 0 32 == fld w 0 32 && fld p.word.toNat 40 48 == fld w 40 48
      let s := { s with models := { s.models with
        programs := dropW same s.models.programs ++
          [{ basin := h.basin, word := r, held := heldProgs s h.basin (s.models.programs.find? same) }] } }
      reply s h 0x0104 stOk []

end Sys2Proof.Machine
end

