-- ==== Sys2Proof/Machine/Reclaim.lean ====
section
/-! DEFINITION. Freeing HBM3E by dropping what can be built again: stages 1 and 2 of R231, over the whole module or for one
basin (R231, R266, R289). -/

namespace Sys2Proof.Machine

/-- The HBM3E copy of a base page that a PINNED variant or a PINNED base model reads (R231, R266). -/
def copyKept (s : State) (e : PageEnt) : Bool :=
  (s.models.models.any fun m => m.basin == e.basin && m.pinned && inRegion m.addr m.pages e.page) ||
    s.models.variants.any fun v => v.basin == e.basin && v.pinned && v.state != .retiring && ofBase s v e.page &&
      !v.cur.covered.contains e.page

/-- The copy that stage 1 drops next: least recently read; of several, the one of the lower basin, then of the lower page (DESIGN CHOICE,
log entry 102). -/
def nextCopy (s : State) (ok : PageEnt → Bool) : Option PageEnt :=
  (s.tiers.pages.filter fun e => e.copy.isSome && e.kind == .model && ok e && !pinned s e.basin e.page && !copyKept s e).foldl
    (fun best e => match best with
      | none => some e
      | some d => if e.lastUse < d.lastUse || (e.lastUse == d.lastUse &&
          (e.basin < d.basin || (e.basin == d.basin && e.page < d.page))) then some e else some d) none

/-- A variant may be evicted (R266). `idle` asks for ACTIVE 0, otherwise for requests queued and none running. -/
def evictable (s : State) (idle : Bool) (v : Variant) : Bool :=
  let rs := reqsOf s v.basin v.vid
  (v.state == .resident || v.state == .cold) && !v.pinned && !stepsOfVariant s v.basin v.vid &&
    !(derivedMapped s v.basin v.cur ++ (v.pend.map (derivedMapped s v.basin)).getD []).isEmpty &&
    (if idle then !(rs.any fun r => r.state == .queued || r.state == .running)
     else rs.any (·.state == .queued) && !(rs.any (·.state == .running)))

/-- The variant that stage 2 evicts next: earliest last step, then the lower table index (R266). -/
def nextEvict (s : State) (ok : Nat → Bool) : Option Variant :=
  let pick (idle : Bool) : Option Variant :=
    (s.models.variants.filter fun v => ok v.basin && evictable s idle v).foldl (fun best v => match best with
      | none => some v
      | some w => if v.lastStep < w.lastStep || (v.lastStep == w.lastStep && v.index < w.index) then some v else some w) none
  (pick true).orElse fun _ => pick false

/-- Stage 1: drop copies while a test asks for more. -/
def dropCopies (ok : PageEnt → Bool) (more : State → Bool) : Nat → State → State
  | 0, s => s
  | fuel + 1, s =>
    if more s then
      match nextCopy s ok with
      | some e => dropCopies ok more fuel (dropCopy s e.basin e.page)
      | none => s
    else s

/-- Stage 2: evict whole variants while a test asks for more. -/
def evictMore (ok : Nat → Bool) (more : State → Bool) : Nat → State → State
  | 0, s => s
  | fuel + 1, s =>
    if more s then
      match nextEvict s ok with
      | some v => evictMore ok more fuel (evictVariant s v.basin v.vid)
      | none => s
    else s

/-- Stages 1 and 2 of R231, for the basins that a test names. A dropped copy that is still needed waits to be made again (R225). -/
def dropRebuildable (s : State) (ok : Nat → Bool) (more : State → Bool) : State :=
  let s := dropCopies (fun e => ok e.basin) more s.tiers.pages.length s
  ((List.range 16).filter ok).foldl askCopies (evictMore ok more s.models.variants.length s)

/-! ### Frames to be retired (R220, R233) -/

/-- The page that a frame serves, as its home or as its copy. -/
def pageAtFrame (s : State) (tier f : Nat) : Option (PageEnt × Bool) :=
  ((s.tiers.pages.find? fun e => e.homeT == tier && e.homeLoc == f).map fun e => (e, false)).orElse fun _ =>
    if tier = 1 then (s.tiers.pages.find? fun e => e.copy == some f).map fun e => (e, true) else none

/-- The copy of a page is made again in another frame, from the home (R218, R233); its old frame is cleared and retired. -/
def recopy (s : State) (e : PageEnt) (f : Nat) : State :=
  if !crcGood s e (homeAt e) then poisonModel s e 1 true
  else match takeFrame s 1 with
    | (none, s) => s
    | (some g, s) =>
      releaseFrame (setPage (copyFrame s (homeAt e) (frameAt 1 g)) e.basin e.page fun e => { e with copy := some g }) e.basin 0 1 f

/-- The copy of a page in a frame that is to be retired waits in the tier queue to be made again (R226, R233); while the home is poisoned
there is nothing to make it from, and it stays (R218). -/
def askRecopy (s : State) (e : PageEnt) : State :=
  if e.poison || s.tiers.moves.any fun m => m.again && m.basin == e.basin && m.page == e.page then s
  else
    let x : MoveReq := { basin := e.basin, page := e.page, tier := 1, since := s.now, copy := true, again := true }
    { s with tiers := { s.tiers with
      moves := s.tiers.moves.filter (fun m => m.rank ≤ 1) ++ [x] ++ s.tiers.moves.filter fun m => 1 < m.rank } }

/-- The page of a frame that is to be retired leaves it (R233). What a step pins waits for its boundary (R220), and a frame that is being
cleared, or is the destination of a move, waits for that. -/
def leaveFrame (s : State) (tier f : Nat) : State :=
  let s := noteRetiring s tier f
  match pageAtFrame s tier f with
  | none => if frameUsed s tier f then s else retireFrame s tier f (retireCause s tier f)
  | some (e, true) => if pinned s e.basin e.page then s else askRecopy s e
  | some (e, false) => if moveOpen s e.basin e.page then s else askMove s e.basin e.page tier 1

/-- The frames to be retired are tried again, as at a step boundary (R220, R233). -/
def settleRetiring (s : State) : State := s.tiers.retiring.foldl (fun s x => leaveFrame s x.1 x.2) s

end Sys2Proof.Machine
end

