-- ==== Sys2Proof/Machine/Serving.lean ====
section
/-! DEFINITION. Requests and serving groups: REQ.SUBMIT, REQ.CANCEL, REQ.QUERY, REQ.GROUP, the expiry of a tag, and the jobs of a
group (R283, R284, R299, R305, R306, R310 to R313, R331, R513, R561, R562). -/

namespace Sys2Proof.Machine

/-! ### Requests -/

/-- The position after the prompt's last token (R317). -/
def promptEnd (r : Request) : Nat := r.start + r.prompt.length

def reqOf (s : State) (b tag : Nat) : Option Request := s.serving.requests.find? fun r => r.basin == b && r.tag == tag

def setReq (s : State) (b tag : Nat) (f : Request → Request) : State :=
  { s with serving := { s.serving with requests := updW (fun r => r.basin == b && r.tag == tag) f s.serving.requests } }

/-! ### Groups and programs (R305 to R308) -/

def gGid (w : BitVec 64) : Nat := fld w.toNat 0 3
def gClasses (w : BitVec 64) : Nat := fld w.toNat 4 7
def gFirst (w : BitVec 64) : Nat := fld w.toNat 8 15
def gCount (w : BitVec 64) : Nat := fld w.toNat 16 24
def gC0Gran (w : BitVec 64) : Nat := fld w.toNat 28 31

/-- A group admits a class. -/
def admits (w : BitVec 64) (cls : Nat) : Bool := bitAt w.toNat (4 + cls)

def groupOf (s : State) (b gid : Nat) : Option Group := s.serving.groups.find? fun g => g.basin == b && gGid g.word == gid

def setGroup (s : State) (b gid : Nat) (f : Group → Group) : State :=
  { s with serving := { s.serving with groups := updW (fun g => g.basin == b && gGid g.word == gid) f s.serving.groups } }

def basinGroups (s : State) (b : Nat) : List Group := s.serving.groups.filter fun g => g.basin == b

/-- Some group of the basin admits the class. -/
def classAdmitted (s : State) (b cls : Nat) : Bool := (basinGroups s b).any fun g => admits g.word cls

/-- The program of a base and a kind that a group uses (R308): the registered one, or the one it replaced until the group's next step
boundary. -/
def programOf (s : State) (b base : Nat) (prefill : Bool) (g : BitVec 64) : Option (BitVec 384) :=
  (s.models.programs.find? fun p => p.basin == b && fld p.word.toNat 0 31 == base && bitAt p.word.toNat 32 == prefill &&
    fld p.word.toNat 40 48 == gCount g).map fun p => ((p.held.find? fun x => x.1 == gGid g).map (·.2)).getD p.word

def pNb (w : BitVec 384) : Nat := fld w.toNat 64 79
def pNq (w : BitVec 384) : Nat := fld w.toNat 80 88
def pCtx (w : BitVec 384) : Nat := fld w.toNat 96 127
def pBound (w : BitVec 384) : Nat := fld w.toNat 128 159
def pParam (w : BitVec 384) : Nat := fld w.toNat 256 303
def pVocab (w : BitVec 384) : Nat := fld w.toNat 320 351
def pNatt (w : BitVec 384) : Nat := fld w.toNat 352 367

/-- The base model of an identifier: itself, or a variant's base. -/
def baseOf (s : State) (b vid : Nat) : Nat := (variantOf s b vid).elim vid (·.base)

/-- The GEN that an identifier runs now (R259): 0 for a base served without a delta. -/
def genNow (s : State) (b vid : Nat) : Nat := (variantOf s b vid).elim 0 (·.cur.gen)

/-- VID names a SEALED base model, or a variant that serves (R311 order 3). -/
def vidUsable (s : State) (b vid : Nat) : Bool := (sealedOf s b vid).isSome || (variantOf s b vid).any (·.state.serves)

/-- The pairs of decode and prefill programs of the groups that take a class (R311 order 4). -/
def servingPrograms (s : State) (b base cls : Nat) : List (BitVec 384 × BitVec 384) :=
  ((basinGroups s b).filter fun g => admits g.word cls).filterMap fun g =>
    match programOf s b base false g.word, programOf s b base true g.word with
    | some d, some p => some (d, p)
    | _, _ => none

/-- Heads and DH of a program's attention: those of its first attention descriptor; one head of 64 when it has none. -/
def programHeads (s : State) (b : Nat) (w : BitVec 384) : Nat × Nat :=
  let ds := (List.range (fld w.toNat 160 191)).map fun i => BitVec.ofNat 512 (rdB s b (fld w.toNat 192 239 + 64 * i) 64)
  match ds.find? fun d => kindOf d == 0x30 with
  | some d => (aHeads d, aDh d)
  | none => (1, 64)

/-! ### Late fetches (R229, R242 to R245, R265) -/

/-- The times of R229 at the share MIG_SHARE, in ns: `run` pages in aligned runs of eight LPDDR5X frames and `iso` isolated ones (R224), or `n`
pages of HBM3E. -/
def migShare (s : State) : Nat := max 1 (fld s.tiers.memCtrl.toNat 0 7)
def lpxNs (s : State) (run iso : Nat) : Nat := cdiv (4096 * 256 * (run * 683 + iso * 1213)) (migShare s * 1213 * 683)
def hbmNs (s : State) (n : Nat) : Nat := cdiv (4096 * 256 * n) (migShare s * 12290)

/-- How many LPDDR5X frames of a list lie in aligned runs of eight that the list holds whole, and how many do not (R224). -/
def inRuns (fs : List Nat) : Nat × Nat :=
  let run := (fs.filter fun f => (List.range 8).all fun k => fs.contains (f / 8 * 8 + k)).length
  (run, fs.length - run)

/-- The time of `n` pages to or from lent memory, at the ford rate of 355.6 GB/s (R229, R247). -/
def fordNs (s : State) (n : Nat) : Nat := cdiv (4096 * 256 * 10 * n) (migShare s * 3556)

/-- The time of the work queued ahead in the tiers (R229): the moves and copies that wait, but for the fetch's own copies, and the moves under
way. A page whose LPDDR5X frame is not yet taken counts at the rate of a run, one to or from lent memory at the ford rate. -/
def queuedNs (s : State) (own : MoveReq → Bool) : Nat :=
  let ents := (s.tiers.moves.filter fun m => !own m).filterMap fun m => (pageOf s m.basin m.page).map fun e => (e, m.tier)
  let going := s.tiers.pages.filterMap fun e => e.moving.map fun m => (e, m.1)
  let lent (x : PageEnt × Nat) : Bool := x.1.homeT == 3 || x.2 == 3
  let all := (ents ++ going).filter fun x => !lent x
  let (run, iso) := inRuns ((all.filter fun x => x.1.homeT == 2).map fun x => x.1.homeLoc)
  let out := (all.filter fun x => x.1.homeT != 2 && x.2 != 1).length
  lpxNs s (run + out) iso + hbmNs s (all.filter fun x => x.1.homeT != 2 && x.2 == 1).length +
    fordNs s ((ents ++ going).filter lent).length

/-- What a variant or a base still needs (R242, R265, log entry 47): the source pages, those that are read from HBM3E copies, the DERIVED pages
that the engines write, and the copies. -/
structure Fetch where
  sources : List Nat := []
  fromHbm : Nat := 0
  derived : Nat := 0
  copies : Nat := 0
  deriving DecidableEq, Repr

/-- The fetch of an identifier that is not resident. -/
def fetchOf (s : State) (b vid : Nat) : Fetch :=
  match variantOf s b vid with
  | none =>
    let ps := ((modelOf s b vid).elim [] modelPages).filter fun p => !copyClean s b p
    { sources := ps, copies := ps.length }
  | some v => match modelOf s b v.base with
    | none => {}
    | some m =>
      let reads := buildReads s b v.cur
      let copies := copiesFor s m v.cur
      { sources := copies ++ reads, fromHbm := (reads.filter (copyClean s b)).length, derived := (missingOf s b v.cur).length,
        copies := copies.length }

/-- A page is homed on a lender that is reclaiming it (R242, R248). -/
def lenderTakes (s : State) (b p : Nat) : Bool :=
  (pageOf s b p).any fun e => e.homeT == 3 && s.tiers.lends.any fun l => !l.asLender && l.index == e.homeLoc && l.reclaimDue.isSome

/-- How long a fetch takes from now on (R242, R265): the queue ahead, then the latest of the tiers and the engines. The engines write
1,024 bytes per beat, of 0.62 ns at corner W (R471). -/
def fetchNs (s : State) (b : Nat) (f : Fetch) : Nat :=
  let (run, iso) := inRuns ((f.sources.filter fun p => !copyClean s b p).filterMap fun p => (pageOf s b p).map (·.homeLoc))
  queuedNs s (fun m => m.copy && m.basin == b && f.sources.contains m.page) + max (lpxNs s run iso) (max (hbmNs s (f.fromHbm + f.derived + f.copies)) (cdiv (f.derived * 248) 100))

/-- The fetch of an identifier is late for a latest start, none without a deadline (R242). -/
def fetchLate (s : State) (b vid : Nat) (latest : Option Int) : Bool :=
  let f := fetchOf s b vid
  let n := f.derived + f.copies
  (latest.any fun (l : Int) => decide (l < (s.now : Int) + (fetchNs s b f : Int))) ||
    f.sources.any (fun p => badPage s b p || lenderTakes s b p) || !quotaOk s b 1 n || framesFree s 1 < n

/-- A request's next step is a prefill chunk (R317). -/
def inPrompt (r : Request) : Bool := r.committed < promptEnd r

/-- The latest start of a request on a program: its deadline less the bound, none without a deadline (R242, R315). -/
def latestStart (r : Request) (p : BitVec 384) : Option Int := if rDeadline r = 0 then none else some ((rDeadline r : Int) - pBound p)

/-- The base pages that a step of a program on the base alone would read: those of the model that its descriptors name (R220, R243). -/
def baseReads (s : State) (b : Nat) (m : Model) (p : BitVec 384) : List Nat :=
  let t : Step := { sid := 0, basin := b, gid := 0, kind := .serve (bitAt p.toNat 32), cls := 0, job := 0, vid := m.mid, base := m.mid, gen := 0,
                    prog := p, formT := s.now }
  (pinsOf s { t with descs := readDescs s t }).filter fun x => inRegion m.addr m.pages x

/-- The base may serve a step alone (R243): every page that the step reads has a clean copy in HBM3E or in a pool, or is a clean DERIVED page,
and none of them is poisoned. -/
def baseReady (s : State) (b base : Nat) (p : BitVec 384) : Bool :=
  (sealedOf s b base).any fun m => (baseReads s b m p).all fun x =>
    (copyClean s b x || poolCopied s b x || (pageOf s b x).any fun e => e.kind == .derived) && (pageOf s b x).any fun e => !e.poison

/-- A request with a late fetch runs on its base (R243). A step of a variant that is not resident is a late fetch when R242 says so. -/
def fallsBack (s : State) (b : Nat) (r : Request) (p : BitVec 384) : Bool :=
  rFallback r && r.base != rVid r && fetchLate s b (rVid r) (latestStart r p) && baseReady s b r.base p

/-! ### Waiting cancellations (R312, R375) -/

/-- The deferred REQ.CANCEL for a tag. -/
def cancelOf (s : State) (b tag : Nat) : Option Deferred :=
  (linkOf s b).deferred.find? fun d => d.opcode == 0x0311 && d.obj == .tag tag

/-- Answer the cancellation of a tag with a status and the end status. -/
def answerCancel (s : State) (b tag status endSt : Nat) : State :=
  answerDeferred s b (fun d => d.opcode == 0x0311 && d.obj == .tag tag) status [.u16 endSt]

/-! ### REQ.SUBMIT (R310, R311) -/

/-- Check 1 of R311. -/
def submitFieldsOk (r : Request) : Bool :=
  rFld r 0 31 != 0 && rFld r 112 127 == 0 && rFld r 288 319 == 0 && rFld r 448 511 == 0 && 1 ≤ rMaxnew r &&
    1 ≤ rFld r 256 287 && rNstop r ≤ 4 && (!rKeep r || rConv r != 0) &&
    (if rSample r then 1 ≤ rTopk r && rTopk r ≤ 64 && s8Valid (-8) (rTscale r) else rTopk r == 0 && rTscale r == 0) &&
    (List.range 4).all fun k => k < rNstop r || rFld r (320 + 32 * k) (351 + 32 * k) == 0

/-- Check 6 of R311: the conversation. -/
def submitConv (s : State) (b : Nat) (r : Request) : Nat :=
  if rConv r = 0 then stOk
  else if (convTaken s b (rConv r)).isSome then stKvBusy
  else match convOf s b (rConv r) with
    | some c => if c.resuming then stKvBusy else stOk
    | none => if rKeep r then stOk else convMissing s b (rConv r)

/-- The paused conversation that a submission resumes. -/
def submitPaused (s : State) (b : Nat) (r : Request) : Option Conv := if rConv r = 0 then none else convOf s b (rConv r)

/-- Committed positions of the conversation. -/
def submitStart (s : State) (b : Nat) (r : Request) : Nat := ((submitPaused s b r).map (·.committed)).getD 0

/-- Slots of the C0 booking of a request (R295). -/
def c0Need (r : Request) : Nat := if rCls r = 0 then cdiv (r.prompt.length + rMaxnew r) 256 * r.layers * r.heads else 0

/-- The request with what its programs and its conversation give it. -/
def sizedReq (s : State) (b : Nat) (r : Request) : Request :=
  let base := baseOf s b (rVid r)
  let start := submitStart s b r
  match servingPrograms s b base (rCls r) with
  | [] => { r with base := base, start := start, committed := start }
  | (d, _) :: _ =>
    let (h, dh) := programHeads s b d
    { r with base := base, start := start, committed := start, layers := pNatt d, heads := h, dh := dh }

/-- CTX of a request's list-area booking (R561). -/
def bookCtx (r : Request) : Nat := r.start + r.prompt.length + rMaxnew r

/-- The list-area booking of a request, none where it does not fit (R561). -/
def bookFor (s : State) (b : Nat) (r : Request) : Option (List (Nat × Nat)) :=
  bookingAt s b (rConv r) r.layers r.heads (bookCtx r)

/-- The checks of R311 in order, for a request already sized; ST_OK when all pass. -/
def submitCheck (s : State) (b : Nat) (r : Request) : Nat :=
  let ps := servingPrograms s b r.base (rCls r)
  let ctx := (ps.map fun p => min (pCtx p.1) (pCtx p.2)).foldl min (2 ^ 32)
  if !submitFieldsOk r then stReqInvalid
  else if (reqOf s b r.tag).isSome then stTagInUse
  else if !vidUsable s b (rVid r) then stVariantUnknown
  else if ps.isEmpty then stClassUnavailable
  else if rDeadline r != 0 && rDeadline r ≤ s.now then stDeadlineMissed
  else if submitConv s b r != stOk then submitConv s b r
  else if ctx < r.start + r.prompt.length + rMaxnew r then stContextLimit
  else if basinFld s b 64 95 ≤ (s.serving.requests.filter fun x => x.basin == b).length || 262144 ≤ s.serving.requests.length then
    stQueueFull
  else if (bookFor s b r).isNone ||
      (c0Need r != 0 && fld (kvOf s b).cfg.toNat 160 191 < c0Booked s b + c0Pads (kvOf s b) + c0Need r) then stKvReserveFull
  else stOk

/-- The children of a node, or of the root of a variant generation's tree, that share a key, earliest first (R281, R283). -/
def childrenOf (k : Kv) (vid gen : Nat) (parent : Option Nat) (key : BitVec 128) : List Node :=
  k.nodes.filter fun n => n.vid == vid && n.gen == gen && n.parent == parent && n.key == key && !n.closed

/-- Match a prompt page by page (R283): the nodes matched, the comparisons that failed, and whether it stopped at a page. -/
def matchPages (k : Kv) (vid gen : Nat) : Nat → Option Nat → List Nat → List Node × Nat × Bool
  | 0, _, _ => ([], 0, false)
  | fuel + 1, parent, toks =>
    if toks.length ≤ 256 then ([], 0, false)
    else
      let page := toks.take 256
      let cs := childrenOf k vid gen parent (pageKey page)
      match cs.findIdx? fun n => n.tokens == page with
      | none => ([], cs.length, true)
      | some i =>
        let n := cs.getD i { id := 0, vid := 0, gen := 0, parent := none, key := 0, tokens := [], row := 0, adopted := 0, order := 0 }
        let (l, c, stop) := matchPages k vid gen fuel (some n.id) (toks.drop 256)
        (n :: l, i + c, stop)

/-- The summary record of a page and head in a booking's arrays: its address (R126, R561). -/
def summaryAt (dh : Nat) (book : List (Nat × Nat)) (heads layer page head : Nat) : Nat :=
  (listAt book layer).2 + srecOf dh * (page * heads + head)

/-- Every layer, page and head of a number of pages. -/
def pageHeads (layers heads pages : Nat) : List (Nat × Nat × Nat) :=
  ((List.range layers).map fun l => ((List.range pages).map fun p => (List.range heads).map fun h => (l, p, h)).flatten).flatten

/-- Copy the slots' summary records of rows into a request's arrays (R284). -/
def copySummaries (s : State) (b : Nat) (r : Request) (rows : List Row) : State :=
  let k := kvOf s b
  let n := srecOf r.dh
  (pageHeads r.layers r.heads rows.length).foldl (fun s x =>
    match rows[x.2.1]?.bind fun w => w.slots[x.1 * r.heads + x.2.2]? with
    | some sl => tierPuts s b (summaryAt r.dh r.book r.heads x.1 x.2.1 x.2.2)
        (tierBytes s b (slotAddr k sl + 272 * r.dh) n)
    | none => s) s

/-- Carry the summary records of a number of pages from one booking to another (R299, R561). -/
def carrySummaries (s : State) (b layers heads dh pages : Nat) (old new : List (Nat × Nat)) : State :=
  let n := srecOf dh
  let xs := pageHeads layers heads pages
  let bs := xs.map fun x => tierBytes s b (summaryAt dh old heads x.1 x.2.1 x.2.2) n
  (xs.zip bs).foldl (fun s x => tierPuts s b (summaryAt dh new heads x.1.1 x.1.2.1 x.1.2.2) x.2) s

/-- A request takes over a paused conversation (R299): rows, positions and tokens. Its rows stay in HBM3E or come back to it, and a PAUSED
row is PRIVATE once it is there (R280). -/
def takeOver (s : State) (b : Nat) (r : Request) (c : Conv) : State :=
  let s := setKv s b fun k => { k with convs := dropW (fun x => x.conv == c.conv) k.convs }
  let s := carrySummaries s b c.layers c.heads r.dh (min c.rows.length (cdiv (bookCtx r) 256)) c.book r.book
  let s := { s with serving := { s.serving with requests := s.serving.requests ++
    [{ r with rows := c.rows, toks := c.toks ++ r.prompt, cleanGen := if c.vid = rVid r then c.cleanGen else none }] } }
  c.rows.foldl (fun s id =>
    let s := keepHot s b id
    setRow s b id fun w => if w.state == .paused && w.tier == 1 && w.moving.isNone then { w with state := .priv } else w) s

/-- The matched nodes that a request may adopt: a C0 request none from the first on whose row is not in HBM3E (R296). -/
def adoptable (k : Kv) (cls : Nat) (ns : List Node) : List Node :=
  if cls = 0 then ns.takeWhile fun n => (rowOf k n.row).any fun w => w.tier == 1 else ns

/-- A new request matches its prompt and adopts what it finds (R283, R284, R296). An adopted row that has not begun to leave HBM3E stays there
(R302). -/
def adopt (s : State) (b : Nat) (r : Request) : State :=
  let k := kvOf s b
  let gen := genNow s b (rVid r)
  let (ns, bad, stop) := if bitAt k.cfg.toNat 2 then matchPages k (rVid r) gen (r.prompt.length / 256 + 1) none r.prompt else ([], 0, false)
  let ns := adoptable k (rCls r) ns
  let ids := ns.map (·.id)
  let s := setKv s b fun k => { k with
    nodes := updW (fun n => ids.contains n.id) (fun n => { n with adopted := s.now }) k.nodes
    stats := { k.stats with
      hits := sat 64 (k.stats.hits + ns.length)
      misses := sat 32 (k.stats.misses + b2n stop)
      collisions := sat 32 (k.stats.collisions + bad) } }
  let r := { r with
    rows := ns.map (·.row)
    committed := 256 * ns.length
    toks := r.prompt
    cleanGen := if ns.isEmpty then none else some gen }
  let s := { s with serving := { s.serving with requests := s.serving.requests ++ [r] } }
  let s := r.rows.foldl (fun s id => keepHot s b id) s
  copySummaries s b r (r.rows.filterMap (rowOf (kvOf s b)))

/-- Admit a request that passes every check (R311): bookings, then its conversation or its prompt's matched pages. The copies that its base
needs are asked for (R225). -/
def takeIn (s : State) (b : Nat) (r : Request) : State :=
  let r := { r with
    book := (bookFor s b r).getD []
    c0Slots := c0Need r
    order := s.serving.nextOrder
    admitted := s.now }
  let s := { s with serving := { s.serving with nextOrder := s.serving.nextOrder + 1 } }
  askCopies (match submitPaused s b r with
    | some c => takeOver s b r c
    | none => adopt s b r) b

/-- REQ.SUBMIT (R310, R311). -/
def execReqSubmit (h : Hdr) (blk : BitVec 512) (tokens : List Nat) (s : State) : Res :=
  let b := h.basin
  let tag := fld blk.toNat 0 31
  hostCmd s h 0x0310 false (some (.tag tag)) (.reqSubmit h blk tokens) fun s =>
    let r := sizedReq s b { basin := b, tag := tag, blk := blk, prompt := tokens }
    let st := submitCheck s b r
    if st != stOk then reply s h 0x0310 st [] else reply (takeIn s b r) h 0x0310 stOk []

/-! ### REQ.CANCEL and REQ.QUERY (R312) -/

/-- REQ.CANCEL (R312): recorded with its time of acceptance, and answered when it is settled. -/
def execReqCancel (h : Hdr) (tag : Nat) (s : State) : Res :=
  hostCmd s h 0x0311 false (some (.tag tag)) (.reqCancel h tag) fun s =>
    match reqOf s h.basin tag with
    | none => reply s h 0x0311 stReqUnknown []
    | some r =>
      if r.state == .ended then reply s h 0x0311 stAlreadyComplete [.u16 r.endStatus]
      else deferCmd s { h := h, opcode := 0x0311, obj := .tag tag, arg := s.now, at_ := s.now }

def QState.num : QState → Nat
  | .queued => 0
  | .running => 1
  | .suspended => 2
  | .ended => 3

/-- A request that is not resident runs on its base in some group that takes its class (R243). -/
def mayFallBack (s : State) (r : Request) : Bool :=
  (servingPrograms s r.basin r.base (rCls r)).any fun p => fallsBack s r.basin r (if inPrompt r then p.2 else p.1)

/-- The wait reason of a QUEUED request (R313): 1 VARIANT for a variant that is not resident, a late fetch by R261, unless the request may run
on its base; 3 RETURN, 2 ROW, else 4 PRIORITY. -/
def waitReason (s : State) (r : Request) : Nat :=
  let k := kvOf s r.basin
  if !vidResident s r.basin (rVid r) && !mayFallBack s r then 1
  else if r.rows.any fun id => !((rowOf k id).any fun w => w.tier == 1 && w.moving.isNone) then 3
  else if 0 < r.layers * r.heads && 256 * r.rows.length ≤ r.committed then 2
  else 4

/-- REQ.QUERY (R312). END is the end status, or the status of the step that was last discarded (R332). -/
def execReqQuery (h : Hdr) (tag : Nat) (s : State) : Res :=
  hostCmd s h 0x0312 false (some (.tag tag)) (.reqQuery h tag) fun s =>
    match reqOf s h.basin tag with
    | none => reply s h 0x0312 stReqUnknown []
    | some r =>
      let st := if r.state == .ended then r.endStatus else r.lastStatus
      reply s h 0x0312 stOk [.u8 r.state.num, .u8 (if r.state == .queued then waitReason s r else 0), .u8 (rCls r), .u8 r.lastGid, .u16 st,
        .u32 r.newTok, .u32 r.committed, .u64 (rDeadline r)]

/-- TAG_EXPIRY (R312): 10 s after its final entry was sent, a tag is no longer known and its entry is freed. -/
def execTagExpiry (basin tag : Nat) (s : State) : Res :=
  match reqOf s basin tag with
  | none => .next s
  | some r =>
    if r.state == .ended && r.finalAt.any fun t => t + 10000000000 ≤ s.now then
      .next { s with serving := { s.serving with
        requests := dropW (fun r => r.basin == basin && r.tag == tag) s.serving.requests } }
    else .next s

/-! ### Endings (R297, R300, R313, R321) -/

/-- The rows that a request owns: PRIVATE, or PAUSED or SUSPENDED ones that are still on their way back to it. -/
def ownRows (s : State) (r : Request) : List Nat :=
  r.rows.filter fun id => (rowOf (kvOf s r.basin) id).any fun w => w.state == .priv || w.state == .suspended || w.state == .paused

/-- A request pauses (R297): its PRIVATE rows become PAUSED and are queued for LPDDR5X behind other moves, and the conversation keeps the
part of the booking that its committed pages use (R561). -/
def pauseConv (s : State) (b : Nat) (r : Request) : State :=
  let k := kvOf s b
  let mine := ownRows s r
  let s := mine.foldl (fun s id => setRow s b id fun w => { w with state := .paused, c0 := false }) s
  let c : Conv :=
    { conv := rConv r, rows := r.rows, committed := r.committed, toks := r.toks.take r.committed, pauseSec := ttlNow s,
      ttl := kvFld k 32 63, vid := rVid r, base := r.base, cleanGen := r.cleanGen, layers := r.layers, heads := r.heads,
      dh := r.dh, book := bookCut k r.layers r.heads r.committed r.book }
  let s := setKv s b fun k => { k with convs := k.convs ++ [c], gone := dropW (· == rConv r) k.gone }
  (rowsOut s b 2 mine).2

/-- A request ends: its entry keeps the end status, and its C0 booking and list booking are released (R295, R313). -/
def markEnded (s : State) (b tag status : Nat) : State :=
  setReq s b tag fun r => { r with
    state := .ended, endStatus := status, rows := [], book := [], c0Slots := 0, suspendNext := false }

/-- A request's rows are released or paused as it ends (R297, R320): KEEP pauses, unless its step faulted or its row was lost, or its basin
is being torn down, where every row is cleared (R302). -/
def endReq (s : State) (b tag status : Nat) (release : Bool) : State :=
  match reqOf s b tag with
  | none => s
  | some r =>
    if r.state == .ended then s
    else
      let keep := rKeep r && !release && !inTeardown s b
      let mine := ownRows s r
      let s := markEnded (if keep then pauseConv s b r else s) b tag status
      sweepKv (if keep then s else mine.foldl (fun s id => clearRow s b id) s) b

/-- End a request outside any step: its final entry travels in an OFFSTEP record (R321). -/
def endOff (s : State) (b tag status : Nat) (release : Bool) : State :=
  match reqOf s b tag with
  | none => s
  | some r =>
    let s := endReq s b tag status release
    let x : OffEnd := { basin := b, cls := rCls r, tag := tag, status := status, at_ := s.now }
    { s with serving := { s.serving with offends := s.serving.offends ++ [x] } }

/-! ### The jobs of a group (R213, R323, R513, R562) -/

/-- A granule that no live job has been assigned. -/
def granFree (s : State) (g : Nat) : Bool :=
  (granOf s g).state != .fenced && !(s.pools.jobs.any fun j => jobLive j && (jobGrans j).contains g)

/-- The first granules of a pool that can be assigned, FREE ones first. -/
def granPick (s : State) (pool n : Nat) : List Nat :=
  let l := (poolGrans pool).filter (granFree s)
  let free (g : Nat) : Bool := (granOf s g).state == .free
  (l.filter free ++ dropW free l).take n

/-- Granules listed by slot: those of a share that lie in its pool, up to its number. -/
def shareHeld (l : List (Nat × List Nat)) (x : Nat × Nat × Nat) : List Nat :=
  (((l.find? fun y => y.1 == x.1).elim [] (·.2)).filter fun g => poolOf g == x.2.1).take x.2.2

/-- A FREE granule becomes OWNED by a job at once. One that an earlier job still owns or that is being cleared passes on when it is clear:
until then the new job does not reach it, and its binds wait (R185, R205, R207). -/
def takeGrans (s : State) (b job : Nat) (gs : List Nat) : State :=
  gs.foldl (fun s g => if (granOf s g).state == .free then setGran s g .owned b job else s) s

/-- Assign granules of a pool to a slot of a job (R185, R213), beside those of the share that it holds already. -/
def giveSlot (s : State) (b job : Nat) (x : Nat × Nat × Nat) : State :=
  let held := shareHeld ((jobOf s b job).elim [] (·.slots)) x
  let gs := granPick s x.2.1 (x.2.2 - held.length)
  if gs.isEmpty then s
  else takeGrans (setJob s b job fun j => { j with slots := dropW (fun y => y.1 == x.1) j.slots ++ [(x.1, held ++ gs)] }) b job gs

/-- Single reaches of a basin. -/
def singles (s : State) (b : Nat) : Nat := ((List.range 256).filter fun r => bitAt (basinFld s b 192 447) r).length

/-- The granules that firmware gives a new job of a group (R213; how many is its choice, log entry 40): the slot, the pool and the
count. A position's slot counts from the group's first position, a logical tributary's is that of the basin's numbering (R26, R398, log entry
30). A fenced position takes granules of its host's tributary pool (R513). -/
def jobShares (s : State) (b : Nat) (w : BitVec 64) (cls : Nat) : List (Nat × Nat × Nat) :=
  let lows := ((List.range 4).filter fun c => c != 0 && admits w c).length
  let c0 := b2n (admits w 0)
  let each := if cls = 0 then gC0Gran w else (16 - gC0Gran w - 3 * c0) / max 1 lows
  let rs := logReaches s b
  let ps := List.range (gCount w)
  let reach := ps.map fun q =>
    let p := gFirst w + q
    let r := rs.getD p 0
    if s.boot.fenced.contains r then (q, 256 + reachAt s b (gFirst w) (gCount w) p / 16, each) else (q, r, each)
  if cls = 0 then reach
  else
    let whole := 16 * (wholeTribs s b).length
    let at_ (q : Nat) : Nat := (gFirst w + q) / 16
    let trib := (ps.map at_).eraseDups.map fun u =>
      let n := (ps.filter fun q => at_ q = u).length
      let quota := if 16 * u < whole then 4 * n else basinFld s b 448 479 * n / max 1 (singles s b)
      (256 + u, 256 + tribAt s b u, quota / max 1 lows)
    let bank := basinFld s b 480 511 * gCount w / max 1 rs.length / 4 / max 1 lows
    reach ++ trib ++ (List.range 4).map fun k => (272 + k, 272 + k, bank)

/-- A job gets the granules of its shares that it does not hold. -/
def growJob (s : State) (b num : Nat) (w : BitVec 64) (cls : Nat) : State :=
  (jobShares s b w cls).foldl (fun s x => giveSlot s b num x) s

/-- The shares of a save area: three granules of each reach pool of the group, a fenced position's in its host's tributary pool (R323). -/
def saveShares (s : State) (b : Nat) (w : BitVec 64) : List (Nat × Nat × Nat) := (jobShares s b w 0).map fun x => (x.1, x.2.1, 3)

/-- Granules are taken from a job (R185) that its shares under a record of its group no longer hold: of a slot, or of the save area. -/
def trimJob (w : BitVec 64) (s : State) (j : Job) : State :=
  let kept (l : List (Nat × List Nat)) (xs : List (Nat × Nat × Nat)) : List (Nat × List Nat) :=
    (xs.map fun x => (x.1, shareHeld l x)).filter fun y => !y.2.isEmpty
  let slots := kept j.slots (jobShares s j.basin w j.cls)
  let save := kept j.save (if j.cls != 0 && admits w 0 then saveShares s j.basin w else [])
  let stays (g : Nat) : Bool := (slots ++ save).any fun y => y.2.contains g
  let mine (g : Nat) : Bool := let x := granOf s g; x.state == .owned && x.basin == j.basin && x.job == j.num
  let s := (((j.slots ++ j.save).map (·.2)).flatten.filter fun g => mine g && !stays g).foldl clearSoon s
  setJob s j.basin j.num fun j => { j with slots := slots, save := save }

/-- A group opens a job for a class (R562). -/
def openClassJob (s : State) (b : Nat) (w : BitVec 64) (cls : Nat) : State :=
  let (n, s) := openJob s b cls (gGid w)
  growJob s b n w cls

/-- The live job of a group's class. -/
def classJob (s : State) (b gid cls : Nat) : Option Job :=
  s.pools.jobs.find? fun j => j.basin == b && j.gid == gid && j.cls == cls && jobLive j

/-- Close the jobs of the classes that a group stops admitting, and open those it comes to admit (R562). The others change to the shares of
the new record: its positions' pools, and the granules that C0_GRAN keeps for C0 jobs (R305). -/
def groupJobs (s : State) (b gid : Nat) (w : BitVec 64) : State :=
  let mine (j : Job) : Bool := j.basin == b && j.gid == gid && jobLive j
  let s := (s.pools.jobs.filter fun j => mine j && !admits w j.cls).foldl (fun s j => closeJob s b j.num) s
  let s := (s.pools.jobs.filter fun j => mine j && admits w j.cls).foldl (trimJob w) s
  ((List.range 4).filter fun c => admits w c).foldl (fun s c => match classJob s b gid c with
    | some j => growJob s b j.num w c
    | none => openClassJob s b w c) s

/-- The save area of a job of class C1 to C3 that comes to run on a group admitting C0 (R323). The group has one save area: another job of
the group that held it, and runs no step now, gives its granules up, and they pass on when they are clear (R205, log entry 40). -/
def takeSave (s : State) (b : Nat) (w : BitVec 64) (n : Nat) : State :=
  let other (j : Job) : Bool := j.basin == b && j.gid == gGid w && j.num != n && jobLive j && !j.save.isEmpty
  let s := (s.pools.jobs.filter other).foldl (fun s j =>
    (j.save.map (·.2)).flatten.foldl clearSoon (setJob s b j.num fun j => { j with save := [] })) s
  (saveShares s b w).foldl (fun s x =>
    let held := shareHeld ((jobOf s b n).elim [] (·.save)) x
    let gs := granPick s x.2.1 (3 - held.length)
    if gs.isEmpty then s
    else takeGrans (setJob s b n fun j => { j with save := dropW (fun y => y.1 == x.1) j.save ++ [(x.1, held ++ gs)] }) b n gs) s

/-- At its next step of a class, a group opens a job in place of one that was killed (R562), and binds the positions of reaches
fenced since (R513). -/
def refreshJob (s : State) (b : Nat) (w : BitVec 64) (cls : Nat) : State :=
  let s := match classJob s b (gGid w) cls with
    | none => openClassJob s b w cls
    | some j => growJob (trimJob w s j) b j.num w cls
  match classJob s b (gGid w) cls with
  | some j => if cls != 0 && admits w 0 then takeSave s b w j.num else s
  | none => s

/-! ### REQ.GROUP (R306) -/

/-- A group's pad row is released (R309). -/
def dropPad (s : State) (b gid : Nat) : State :=
  match (groupOf s b gid).bind (·.padRow) with
  | none => s
  | some id => clearRow (setGroup s b gid fun g => { g with padRow := none, padBook := [] }) b id

/-- The record obeys R305 and R306. -/
def groupOk (s : State) (b : Nat) (w : BitVec 64) : Bool :=
  let n := w.toNat
  let w16 := 16 * (wholeTribs s b).length
  let reserved := fld n 25 27 == 0 && fld n 32 63 == 0
  let range := 1 ≤ gCount w && gCount w ≤ 256 && gFirst w + gCount w ≤ (logReaches s b).length
  let c0 := if admits w 0 then 1 ≤ gC0Gran w && gC0Gran w ≤ 13 && gFirst w % 16 == 0 && gCount w % 16 == 0 && gFirst w + gCount w ≤ w16
    else gC0Gran w == 0
  let clear (o : BitVec 64) : Bool := gClasses o == 0 || gFirst o + gCount o ≤ gFirst w || gFirst w + gCount w ≤ gFirst o
  let apart := (basinGroups s b).all fun g => gGid g.word == gGid w || (clear g.word && g.next.all clear)
  reserved && (gClasses w == 0 || (range && c0 && apart))

/-- QUEUED requests whose class no group admits any more end with ST_CLASS_UNAVAILABLE (R306, R331). -/
def endUnadmitted (s : State) (b : Nat) : State :=
  ((liveReqs s b).filter fun r => r.state == .queued && !classAdmitted s b (rCls r)).foldl
    (fun s r => endOff s b r.tag stClassUnavailable false) s

/-- A group runs no step and holds none. -/
def groupIdle (g : Group) : Bool := g.run.isNone && g.heldStep.isNone

/-- A group's new record takes effect (R306). A group that is removed while it still holds a step goes when that has ended. -/
def applyGroup (s : State) (b gid : Nat) (w : BitVec 64) : State :=
  let s := groupJobs s b gid w
  let s :=
    if gClasses w = 0 && (groupOf s b gid).all groupIdle then
      let s := leavePart (dropPad s b gid) b 1 gid
      { s with serving := { s.serving with groups := dropW (fun g => g.basin == b && gGid g.word == gid) s.serving.groups } }
    else if (groupOf s b gid).isSome then setGroup s b gid fun g => { g with word := w, next := none }
    else { s with serving := { s.serving with groups := s.serving.groups ++ [{ basin := b, word := w }] } }
  endUnadmitted s b

/-- REQ.GROUP (R305, R306). -/
def execReqGroup (h : Hdr) (rec : BitVec 64) (s : State) : Res :=
  hostCmd s h 0x0313 false none (.reqGroup h rec) fun s =>
    let b := h.basin
    if !groupOk s b rec then reply s h 0x0313 stDescInvalid []
    else
      let s := match groupOf s b (gGid rec) with
        | none => if gClasses rec = 0 then s else applyGroup s b (gGid rec) rec
        | some g =>
          if groupIdle g then applyGroup s b (gGid rec) rec
          else setGroup s b (gGid rec) fun g => { g with next := some rec }
      reply s h 0x0313 stOk []

/-- At a boundary of a group its waiting record takes effect, and the programs that were registered since come into use (R306, R308); a
group with no live reach is removed (R513), and one that had been removed goes when it holds no step. -/
def settleGroup (s : State) (b gid : Nat) : State :=
  let fresh (p : Program) : Program := if p.basin == b then { p with held := dropW (fun x => x.1 == gid) p.held } else p
  let s := { s with models := { s.models with programs := s.models.programs.map fresh } }
  match groupOf s b gid with
  | none => s
  | some g =>
    let s := match g.next with
      | some w => applyGroup s b gid w
      | none => if gClasses g.word = 0 && groupIdle g then applyGroup s b gid g.word else s
    match groupOf s b gid with
    | none => s
    | some g =>
      let rs := logReaches s b
      if gClasses g.word != 0 && groupIdle g &&
          (List.range (gCount g.word)).all fun q => s.boot.fenced.contains (rs.getD (gFirst g.word + q) 256) then
        applyGroup s b gid (BitVec.ofNat 64 gid)
      else s

end Sys2Proof.Machine
end

