-- ==== Sys2Proof/Machine/Train.lean ====
section
/-! DEFINITION. Training objects: their record and table, the shadow state, the update, re-quantisation, the regenerated delta set,
and the commands (R333 to R337, R341, R347, R349 to R354). -/

namespace Sys2Proof.Machine

/-! ### The record and the table (R334, R335) -/

def tnFld (t : Train) (lo hi : Nat) : Nat := fld t.word.toNat lo hi
def tnTid (t : Train) : Nat := tnFld t 0 31
def tnVid (t : Train) : Nat := tnFld t 32 63
def tnTeacher (t : Train) : Nat := tnFld t 64 95
def tnCls (t : Train) : Nat := tnFld t 96 97
def tnGid (t : Train) : Nat := tnFld t 98 101
def tnAxes (t : Train) : Nat := tnFld t 102 104
def tnNacc (t : Train) : Nat := tnFld t 112 119
def tnPub (t : Train) : Nat := tnFld t 120 127
def tnTable (t : Train) : Nat := tnFld t 192 239
def tnNupd (t : Train) : Nat := tnFld t 240 255
def tnDspace (t : Train) : Nat × Nat := (tnFld t 256 303, tnFld t 304 335)
def tnXtable (t : Train) : Nat := tnFld t 336 383

def trainOf (s : State) (b tid : Nat) : Option Train := s.trains.find? fun t => t.basin == b && tnTid t == tid

def setTrain (s : State) (b tid : Nat) (f : Train → Train) : State :=
  { s with trains := updW (fun t => t.basin == b && tnTid t == tid) f s.trains }

/-- An update entry (R335). -/
structure Upd where
  tensor : Nat
  zero : Nat
  shadow : Nat
  mom : Nat
  gacc : Nat
  fwd : Nat
  bwd : Nat
  deriving DecidableEq, Repr

def updAt (s : State) (t : Train) (u : Nat) : Upd :=
  let e := tnTable t + 48 + 48 * u
  let a := fun k => rdB s t.basin (e + 8 + 8 * k) 8
  { tensor := rdB s t.basin e 4, zero := rdB s t.basin (e + 4) 4, shadow := a 0, mom := a 1, gacc := a 2, fwd := a 3, bwd := a 4 }

def trainUpds (s : State) (t : Train) : List Upd := (List.range (tnNupd t)).map (updAt s t)

/-- The program of a phase as a step takes it: address, descriptors and positions (R335). -/
def trainProg (s : State) (t : Train) (phase : Nat) : BitVec 384 :=
  if 3 ≤ phase then 0
  else
    let e := tnTable t + 16 * phase
    let rd := rdB s t.basin
    BitVec.ofNat 384 (rd (e + 12) 2 % 512 * 2 ^ 40 + rd (e + 8) 4 * 2 ^ 160 + rd e 8 % 2 ^ 48 * 2 ^ 192)

/-- The student's base model. -/
def trainBase (s : State) (t : Train) : Option Model := (variantOf s t.basin (tnVid t)).bind fun v => modelOf s t.basin v.base

/-- Pages of an area are mapped to the basin with a kind. -/
def areaKind (s : State) (b : Nat) (k : PKind) (addr len : Nat) : Bool :=
  len == 0 || (inTiered addr len && (pageRange addr len).all fun p => (pageOf s b p).any fun e => e.kind == k)

/-- The delta of a tensor in the current generation; an empty one when the set leaves it out. -/
def curDelta (s : State) (b : Nat) (m : Model) (v : Variant) (tensor : Nat) (h : WHdr) : TDelta :=
  (((setOf s b m v.cur).getD []).find? fun d => d.tensor == tensor).getD
    { tensor := tensor, fmt := h.fmt, cap := h.cap, rows := [], scales := [] }

/-- The most symbols that a group of a row takes with a number of non-zeros allowed in it: the trits, their gaps and the end (R40, R262). -/
def tzGroupMost (most : Nat) : Nat := let c := min 16 most; min 16 (c + (16 - c) / 7 + 1)

/-- The areas that the device writes of a training copy through a header: data, scale codes and, for TZ, the row table, at their greatest
extent under a cap (R335, R341, R349). -/
def copyAreas (fmt rows cols groups cap : Nat) (c : WHdr) : List (Nat × Nat) :=
  [(c.data, rows * (if fmt = 2 then cdiv (cdiv cols 16 * tzGroupMost (cap + 1)) 2 else t5RowBytes cols)),
   (c.scales, 2 * rows * groups)] ++ (if fmt = 2 then [(c.rowTable, 4 * (rows + 1))] else [])

/-- One update entry is well formed: its tensor, its arrays and its copies, each all of its kind (R335). -/
def updOk (s : State) (b : Nat) (m : Model) (v : Variant) (hs : List WHdr) (u : Upd) : Bool :=
  match hs[u.tensor]? with
  | none => false
  | some h =>
    let n := h.rows * h.cols
    let copy (x : Nat) (areas : WHdr → List (Nat × Nat)) : Bool := x % 8 == 0 && areaKind s b .work x 32 &&
      (areas (whdrOf (rdB s b x 32))).all fun a => areaKind s b .work a.1 a.2
    u.zero == 0 && [u.shadow, u.mom, u.gacc, u.fwd, u.bwd].all (· < 2 ^ 48) && areaKind s b .train u.shadow (2 * n) &&
      areaKind s b .train u.mom (4 * n) && areaKind s b .work u.gacc (4 * n) &&
      copy u.fwd (copyAreas h.fmt h.rows h.cols h.groups (curDelta s b m v u.tensor h).cap) &&
      copy u.bwd (copyAreas 1 h.cols h.rows (cdiv h.rows h.g) 15)

/-- A program entry is well formed. -/
def trainProgOk (s : State) (t : Train) (i : Nat) : Bool :=
  let e := tnTable t + 16 * i
  let rd := rdB s t.basin
  let n := rd (e + 12) 2
  rd (e + 14) 2 == 0 && rd e 8 % 64 == 0 && rd e 8 < 2 ^ 48 && 1 ≤ n && n ≤ 256

/-- The fields of a training record (R334). -/
def trainFieldsOk (s : State) (t : Train) : Bool :=
  let w := t.word.toNat
  let s8 (base lo : Nat) : Bool := s8Valid (signed 8 (fld w base (base + 7))) (fld w lo (lo + 15))
  fld w 107 111 == 0 && fld w 184 191 == 0 && fld w 384 511 == 0 && tnTid t != 0 && tnCls t != 0 && 1 ≤ tnNacc t &&
    s8 144 128 && (!bitAt w 106 || s8 176 160) && 1 ≤ fld w 152 155 && 1 ≤ fld w 156 159 && tnTable t % 64 == 0 && 1 ≤ tnNupd t &&
    (tnDspace t).1 % 4096 == 0 && (tnDspace t).2 % 2 == 0 && tnXtable t % 8 == 0 &&
    (tnAxes t == 0 || (sliceOf s t.basin).isSome)

/-- The table and the areas it names (R335). -/
def trainTableOk (s : State) (t : Train) : Bool :=
  let b := t.basin
  let len := 48 + 48 * tnNupd t
  let us := trainUpds s t
  inTiered (tnTable t) len && (pageRange (tnTable t) len).all (pageMapped s b) &&
    areaKind s b .model (tnDspace t).1 (4096 * (tnDspace t).2) &&
    (tnXtable t == 0 || (inTiered (tnXtable t) 8 && (pageRange (tnXtable t) 8).all (pageMapped s b))) &&
    (List.range 3).all (trainProgOk s t) && (us.map (·.tensor)).Nodup &&
    (match variantOf s b (tnVid t), trainBase s t with
     | some v, some m => us.all (updOk s b m v (hdrsOf s m))
     | _, _ => true)

/-- The F32 elements of an array. -/
def f32At (s : State) (b addr n : Nat) : List (BitVec 32) := (List.range n).map fun k => BitVec.ofNat 32 (rdB s b (addr + 4 * k) 4)

/-- Every element of an F32 array is finite. -/
def allFinite (l : List (BitVec 32)) : Bool := l.all fun x => x.toNat / 2 ^ 23 % 256 != 255

/-- With INIT 1, MOM holds finite values (R336). -/
def momFinite (s : State) (t : Train) : Bool :=
  tnFld t 105 105 == 0 || match trainBase s t with
    | none => true
    | some m => (trainUpds s t).all fun u => ((hdrsOf s m)[u.tensor]?).any fun h => allFinite (f32At s t.basin u.mom (h.rows * h.cols))

/-- The checks of TRAIN.CREATE in order (R334). -/
def trainCheck (s : State) (t : Train) : Nat :=
  let b := t.basin
  if !trainFieldsOk s t || !trainTableOk s t || !momFinite s t then stDescInvalid
  else if (trainOf s b (tnTid t)).isSome then stIdInUse
  else if !((variantOf s b (tnVid t)).any (·.state.serves)) || !vidUsable s b (tnTeacher t) then stVariantUnknown
  else if s.trains.any fun x => x.basin == b && tnVid x == tnVid t then stTrainActive
  else if !((groupOf s b (tnGid t)).any fun g => admits g.word (tnCls t)) then stClassUnavailable
  else if !quotaOk s b 1 0 || !quotaOk s b 2 0 then stMemQuota
  else stOk

/-! ### The current generation's tensor (R336, R349) -/

/-- The value of the scale of an element. -/
def scaleVal (h : WHdr) (code : Nat) : FVal := mulS8 (.fin false 1 0) h.eBase code

/-- The scale codes of a tensor, row by row. -/
def tensorCodes (rd : Nat → Nat → Nat) (h : WHdr) (d : TDelta) : List (List Nat) :=
  (List.range h.rows).map fun i => (List.range h.groups).map fun g => mergedScale rd h d i g

/-- The trits of a tensor in the current generation. -/
def tensorTrits (rd : Nat → Nat → Nat) (h : WHdr) (d : TDelta) : List (List Int) := (List.range h.rows).map (mergedRow rd h d)

/-- A trit times its scale (R336). -/
def tritVal (v : FVal) (x : Int) : FVal := if x = 0 then .fin false 0 0 else if x < 0 then negV v else v

/-- SHADOW from the current generation: t × s as BF16 (R336, R63). -/
def shadowInit (h : WHdr) (trits : List (List Int)) (codes : List (List Nat)) : List Nat :=
  ((trits.zip codes).map fun r => r.1.zipIdx.map fun x => toBf16 (tritVal (scaleVal h (r.2.getD (x.2 / h.g) 0)) x.1)).flatten

/-! ### Re-quantisation (R349) -/

/-- Half of a value. -/
def halfV : FVal → FVal
  | .fin n m e => .fin n m (e - 1)
  | v => v

/-- The magnitude of a value. -/
def absV : FVal → FVal
  | .fin _ m e => .fin false m e
  | .inf _ => .inf false
  | .nan => .nan

/-- The candidate of an element: its trit before the cap. -/
def candidate (half w : FVal) : Int := if ltV half w then 1 else if ltV w (negV half) then -1 else 0

/-- How many candidates of a group rank before an element: larger magnitude, or equal and a lower column. -/
def rankOf (xs : List (Int × FVal)) (k : Nat) : Nat :=
  let me := (xs.getD k (0, .nan)).2
  (xs.zipIdx.filter fun x => x.1.1 != 0 && x.2 != k &&
    (ltV (absV me) (absV x.1.2) || (!ltV (absV x.1.2) (absV me) && x.2 < k))).length

/-- One group of 16 under its cap. -/
def capGroup (cap : Nat) (xs : List (Int × FVal)) : List Int :=
  xs.zipIdx.map fun x => if x.1.1 = 0 || cap ≤ rankOf xs x.2 then 0 else x.1.1

/-- One row re-quantised: the weights, the cap and the row's scale codes. -/
def requantRow (h : WHdr) (cap : Nat) (codes : List Nat) (ws : List FVal) : List Int :=
  let xs := ws.zipIdx.map fun x => (candidate (halfV (scaleVal h (codes.getD (x.2 / h.g) 0))) x.1, x.1)
  ((pieces 16 xs.length xs).map (capGroup cap)).flatten

/-- The rows of a BF16 array. -/
def shadowRows (s : State) (b addr rows cols : Nat) : List (List FVal) :=
  (List.range rows).map fun i => (List.range cols).map fun j => ofBf16 (rdB s b (addr + 2 * (i * cols + j)) 2)

/-! ### The training copies (R341, R349) -/

/-- Write a tensor of trits through a header that names its areas: the header's other fields, the rows and the scale codes. The
areas stay where the header at the address has them (log entry 42). -/
def writeTensor (s : State) (b at_ : Nat) (h : WHdr) (trits : List (List Int)) (codes : List (List Nat)) : State :=
  let old := whdrOf (rdB s b at_ 32)
  let h : WHdr := { h with data := old.data, rowTable := if h.fmt = 2 then old.rowTable else 0, scales := old.scales, reserved := false }
  let rows := trits.map fun t => if h.fmt = 2 then packNibbles (tzRowSyms h.cols t) else t5Pack (t5RowBytes h.cols) t
  let s := tierPuts s b at_ (le 32 (whdrWord h))
  let s := tierPuts s b h.data rows.flatten
  let s := if h.fmt = 2 then tierPuts s b h.rowTable ((rowOffsets 0 rows).map (le 4)).flatten else s
  tierPuts s b h.scales ((codes.map fun r => (r.map (le 2)).flatten).flatten)

/-- The code of largest value among forward rows of a group; equal values keep the lower row (R341). -/
def topCode (h : WHdr) (l : List Nat) : Nat :=
  (l.foldl (fun best c => match best with
    | none => some c
    | some d => if ltV (scaleVal h d) (scaleVal h c) then some c else some d) none).getD 0

/-- Write the backward tensor (R341). -/
def writeBack (s : State) (b at_ : Nat) (h : WHdr) (trits : List (List Int)) (codes : List (List Nat)) : State :=
  let bh : WHdr := { h with fmt := 1, cap := 15, rows := h.cols, cols := h.rows, rowTable := 0 }
  let bt := (List.range h.cols).map fun j => trits.map fun r => r.getD j 0
  let bc := (List.range h.cols).map fun j => (List.range bh.groups).map fun g =>
    topCode h (((codes.drop (g * h.g)).take h.g).map fun r => r.getD (j / h.g) 0)
  writeTensor s b at_ bh bt bc

/-- Re-quantise a tensor's SHADOW and rewrite FWD and BWD (R341, R349). -/
def rewriteCopies (s : State) (b : Nat) (m : Model) (v : Variant) (u : Upd) (h : WHdr) : State :=
  let d := curDelta s b m v u.tensor h
  let codes := tensorCodes (rdB s b) h d
  let trits := ((shadowRows s b u.shadow h.rows h.cols).zip codes).map fun x => requantRow h (d.cap + 1) x.2 x.1
  let fh : WHdr := { h with cap := d.cap }
  writeBack (writeTensor s b u.fwd fh trits codes) b u.bwd fh trits codes

/-- Write +0 over an F32 array. -/
def zeroF32 (s : State) (b addr n : Nat) : State := tierPuts s b addr (List.replicate (4 * n) 0)

/-- A function over every update entry with its tensor's header. -/
def eachUpd (s : State) (t : Train) (f : Model → Variant → Upd → WHdr → State → State) : State :=
  match variantOf s t.basin (tnVid t), trainBase s t with
  | some v, some m =>
    let hs := hdrsOf s m
    (trainUpds s t).foldl (fun s u => match hs[u.tensor]? with
      | some h => f m v u h s
      | none => s) s
  | _, _ => s

/-- GACC is cleared (R354). -/
def clearGacc (s : State) (t : Train) : State :=
  eachUpd s t fun _ _ u h s => zeroF32 s t.basin u.gacc (h.rows * h.cols)

/-- The shadow state of a new object (R336). -/
def setShadow (s : State) (t : Train) : State :=
  let b := t.basin
  eachUpd s t fun m v u h s =>
    let n := h.rows * h.cols
    let s :=
      if tnFld t 105 105 = 0 then
        let d := curDelta s b m v u.tensor h
        let sh := shadowInit h (tensorTrits (rdB s b) h d) (tensorCodes (rdB s b) h d)
        zeroF32 (zeroF32 (tierPuts s b u.shadow ((sh.map (le 2)).flatten)) b u.mom n) b u.gacc n
      else s
    rewriteCopies s b m v u h

/-! ### The update of an element (R347 stage 2) -/

/-- The sign of an F32 value: 0 for zeros. -/
def signF32 (x : BitVec 32) : Int :=
  match ofF32 x with
  | .fin n m _ => if m = 0 then 0 else if n then -1 else 1
  | .inf n => if n then -1 else 1
  | .nan => 0

/-- What an element becomes: shadow, momentum, and whether its gradient was not finite. -/
def updateElem (t : Train) (shadow : Nat) (m g : BitVec 32) : Nat × BitVec 32 × Bool :=
  let w := t.word.toNat
  if !allFinite [g] then (shadow, m, true)
  else
    let s8 (base lo : Nat) : FVal := mulS8 (.fin false 1 0) (signed 8 (fld w base (base + 7))) (fld w lo (lo + 15))
    let blend (b : Nat) : BitVec 32 := f32Add (f32Sub m (f32Scale m (-(b : Int)))) (f32Scale g (-(b : Int)))
    let c := signF32 (blend (fld w 152 155))
    let x := toF32 (ofBf16 shadow)
    let lr := toF32 (s8 144 128)
    let x2 := if c = 0 then x else if c < 0 then f32Add x lr else f32Sub x lr
    let x2 := if bitAt w 106 then f32Sub x2 (toF32 (mulV (ofF32 x) (s8 176 160))) else x2
    (toBf16 (ofF32 x2), blend (fld w 156 159), false)

/-- One entry's arrays updated; answers the elements whose gradient was not finite. -/
def updateArrays (s : State) (t : Train) (u : Upd) (n : Nat) : Nat × State :=
  let b := t.basin
  let sh := (List.range n).map fun k => rdB s b (u.shadow + 2 * k) 2
  let r := (sh.zip ((f32At s b u.mom n).zip (f32At s b u.gacc n))).map fun x => updateElem t x.1 x.2.1 x.2.2
  let s := tierPuts s b u.shadow ((r.map fun x => le 2 x.1).flatten)
  let s := tierPuts s b u.mom ((r.map fun x => le 4 x.2.1.toNat).flatten)
  ((r.filter (·.2.2)).length, zeroF32 s b u.gacc n)

/-- What refuses reads of these pages: of the statuses of poisoned pages the first of R238, else that of an unmapped page (R214, R235). -/
def pagesRefused (s : State) (b : Nat) (ps : List Nat) : Option Nat :=
  let bad := ps.filterMap fun p => ((pageOf s b p).filter fun e => e.poison && e.copy.isNone).map fun e => poisonStatus e.kind
  if bad.contains stDataPoisoned then some stDataPoisoned
  else bad.head?.orElse fun _ => if ps.any fun p => !pageMapped s b p then some stIndexRange else none

/-- The pages of areas of a basin's range. -/
def areaRange (l : List (Nat × Nat)) : List Nat := (l.map fun a => if a.2 = 0 then [] else pageRange a.1 a.2).flatten

/-- What refuses an update the arrays of its stage 2, before an element is written (R347, R354). -/
def updateRefused (s : State) (t : Train) : Option Nat :=
  (trainBase s t).bind fun m =>
    pagesRefused s t.basin (areaRange ((trainUpds s t).map fun u => match (hdrsOf s m)[u.tensor]? with
      | some h => [(u.shadow, 2 * h.rows * h.cols), (u.mom, 4 * h.rows * h.cols), (u.gacc, 4 * h.rows * h.cols)]
      | none => []).flatten)

/-- The pages that stages 3 and 4 of an update read beside the arrays of stage 2 (R349, R350): the base's headers and scale codes, the
current delta set, the headers of FWD and BWD, and with a publication the base's trits. -/
def copyReads (s : State) (t : Train) (m : Model) (v : Variant) (publish : Bool) : List Nat :=
  let us := trainUpds s t
  let hs := us.filterMap fun u => (hdrsOf s m)[u.tensor]?
  areaRange ((m.hdrs, 32 * m.ntensor) :: (us.map fun u => [(u.fwd, 32), (u.bwd, 32)]).flatten ++
    hs.map fun h => (h.scales, 2 * h.rows * h.groups)) ++ setPagesOf v.cur ++
    (if publish then (hs.map (areaPages s t.basin)).flatten else [])

/-- What refuses an update the reads of its stages 3 and 4. -/
def copiesRefused (s : State) (t : Train) (publish : Bool) : Option Nat :=
  match variantOf s t.basin (tnVid t), trainBase s t with
  | some v, some m => pagesRefused s t.basin (copyReads s t m v publish)
  | _, _ => none

/-! ### The regenerated delta set (R350) -/

/-- The tensor delta of an entry: none when nothing differs from the base; and whether the trits differ from the current ones. -/
def regenTensor (s : State) (b : Nat) (m : Model) (v : Variant) (u : Upd) (h : WHdr) : Option (List Byte) × Bool :=
  let rd := rdB s b
  let d := curDelta s b m v u.tensor h
  let codes := tensorCodes rd h d
  let new := ((shadowRows s b u.shadow h.rows h.cols).zip codes).map fun x => requantRow h (d.cap + 1) x.2 x.1
  let recs := new.zipIdx.filterMap fun x =>
    let ch := rowChanges ((rowTrits rd h x.2).getD (List.replicate h.cols 0)) x.1
    if ch.isEmpty then none
    else
      let syms := deltaRowSyms h.cols 0 ch
      some (le 4 x.2 ++ le 2 syms.length ++ packNibbles syms)
  let rows := recs.flatten
  let head := le 4 u.tensor ++ le 4 (h.fmt + 16 * d.cap) ++ le 4 recs.length ++ le 4 d.scales.length ++ le 4 rows.length ++ le 4 0
  let gap := List.replicate ((8 - (24 + rows.length) % 8) % 8) 0
  let sc := (d.scales.map fun x => le 4 x.1 ++ le 2 x.2.1 ++ le 2 x.2.2).flatten
  (if recs.isEmpty && d.scales.isEmpty then none
   else some (if d.scales.isEmpty then head ++ rows else head ++ rows ++ gap ++ sc),
   new != tensorTrits rd h d)

/-- Lay tensor deltas one after another, each at an 8-byte boundary (R257). -/
def laySet (off : Nat) : List (List Byte) → List Byte
  | [] => []
  | x :: l =>
    let gap := (8 - off % 8) % 8
    List.replicate gap 0 ++ x ++ laySet (off + gap + x.length) l

/-- Update entries by increasing tensor. -/
def byTensor (l : List Upd) : List Upd :=
  l.foldr (fun x acc => acc.takeWhile (fun y => y.tensor < x.tensor) ++ x :: acc.dropWhile (fun y => y.tensor < x.tensor)) []

/-- A new set, its tensors' number, and whether any trit differs from the current generation's. -/
def regenSet (s : State) (t : Train) (m : Model) (v : Variant) : List Byte × Nat × Bool :=
  let hs := hdrsOf s m
  let rs := (byTensor (trainUpds s t)).filterMap fun u => (hs[u.tensor]?).map (regenTensor s t.basin m v u)
  let ds := rs.filterMap (·.1)
  let body := laySet 16 ds
  (le 4 v.base ++ le 2 ds.length ++ le 2 0 ++ le 4 (16 + body.length) ++ le 4 0 ++ body, ds.length, rs.any (·.2))

/-- The half of DSPACE that the current generation does not occupy. -/
def freeHalf (t : Train) (v : Variant) : Nat :=
  let (a, n) := tnDspace t
  if a ≤ v.cur.set && v.cur.set < a + 2048 * n then a + 2048 * n else a

/-- A publication (R350): the set is written and submitted as a VARIANT.UPDATE, or it is skipped with its reason: 0 EMPTY, 1 UNCHANGED,
2 SPACE (log entry 44). -/
def publishSet (s : State) (t : Train) : State :=
  let b := t.basin
  match variantOf s b (tnVid t), trainBase s t with
  | some v, some m =>
    let (l, n, changed) := regenSet s t m v
    let half := (tnDspace t).2 / 2
    let skip (r : Nat) : State := raise s srcCore evTrainPublishSkipped [tnTid t, r, 0] [b]
    if n = 0 then skip 0
    else if !changed then skip 1
    else if 4096 * half < l.length then skip 2
    else
      let a := freeHalf t v
      let put (s : State) (x : Byte × Nat) : State := match pageOf s b ((a + x.2) / 4096) with
        | some e => { s with mem := memPut s.mem (homeAt e + (a + x.2) % 4096) x.1 }
        | none => s
      let s := (padPage l).zipIdx.foldl put s
      let g : GenSet := { set := a, setPages := cdiv l.length 4096, daddr := v.cur.daddr, dlen := v.cur.dlen }
      let s := { s with models := { s.models with verifies := dropW (fun x => x.basin == b && x.vid == tnVid t && x.tid.isSome) s.models.verifies } }
      addVerify s { basin := b, vid := tnVid t, update := true, crcs := 0, gs := g, tid := some (tnTid t) }
  | _, _ => s

/-! ### States (R336, R354) -/

/-- The object stops (R336, R354): partial gradients go, TRAIN.STOP is answered, and a fault is reported. -/
def stopTrain (s : State) (t : Train) (status : Nat) : State :=
  let b := t.basin
  let s := clearGacc s t
  let s := setTrain s b (tnTid t) fun t => { t with
    state := .stopped, phase := 0, inAcc := 0, stopping := false, last := status, reduced := []
    feeds := if status = 0 then t.feeds else [] }
  let s := answerDeferred s b (fun d => d.opcode == 0x0503 && d.obj == .train (tnTid t)) stOk []
  if status = 0 then s else raise s srcCore evTrainStopped [tnTid t, status] [b]

/-- Shadow or momentum state is lost (R354). -/
def failTrain (s : State) (t : Train) (status : Nat) : State :=
  let b := t.basin
  let s := setTrain s b (tnTid t) fun t => { t with state := .failed, phase := 0, stopping := false, last := status, feeds := [], reduced := [] }
  let s := answerDeferred s b (fun d => d.opcode == 0x0503 && d.obj == .train (tnTid t)) stTrainState []
  raise s srcCore evTrainFailed [tnTid t, status] [b]

/-- Pages of an object that end with it: those of its areas that no live delta set holds (log entry 45). -/
def trainPages (s : State) (t : Train) : List Nat :=
  let as_ := trainAreas s t
  (s.tiers.pages.filter fun e => e.basin == t.basin && (as_.any fun a => inBytes a.1 a.2 e.page)).map (·.page)

/-- The object ends and its pages are cleared (R333, R354). -/
def dropTrain (s : State) (t : Train) (status : Nat) : State :=
  let b := t.basin
  let ps := trainPages s t
  let s := { s with trains := dropW (fun x => x.basin == b && tnTid x == tnTid t) s.trains }
  let s := leavePart s b 0 (tnTid t)
  let s := answerDeferred s b (fun d => d.obj == .train (tnTid t)) status []
  unmapPages s b (ps.filter fun p => !ofSet s b p && !ofModel s b p && !ofProgram s b p && !ofTrain s b p)

/-! ### Steps of an object (R337, R347, R353) -/

/-- The object has a step to run, and what that step reads is resident. After a TRAIN.STOP the micro-step in progress goes on to its end
(R333). -/
def trainReady (s : State) (t : Train) : Bool :=
  t.state == .running && (!t.stopping || t.phase == 1 || t.phase == 2) && (t.phase != 0 || !t.feeds.isEmpty) &&
    !(s.steps.any fun x => x.basin == t.basin && match x.kind with
      | .train tid _ => tid == tnTid t
      | .serve _ => false) &&
    (if t.phase = 0 then vidResident s t.basin (tnTeacher t) else if t.phase < 3 then vidResident s t.basin (tnVid t) else true)

/-- The leaves of an axis that a module's tree takes in, in order: the right children of the nodes whose lowest leaf it is (R103,
R347). -/
def axisLeaves (c : Nat) : Nat → Nat → Nat → List Nat
  | 0, _, _ => []
  | fuel + 1, lo, n =>
    if n ≤ 1 then []
    else
      let (x, y) := confSplit lo n
      if c < y.1 then axisLeaves c fuel x.1 x.2 ++ (if lo = c then [y.1] else []) else axisLeaves c fuel y.1 y.2

/-- The elements of an entry. -/
def updCells (s : State) (t : Train) (u : Nat) : Nat :=
  ((trainBase s t).bind fun m => (hdrsOf s m)[(updAt s t u).tensor]?).elim 0 fun h => h.rows * h.cols

/-- The axes that an update reduces, in order, with this module's coordinate and the axis' length. -/
def trainAxes (s : State) (t : Train) : List (Nat × Nat × Nat) :=
  match sliceOf s t.basin with
  | none => []
  | some x => ((List.range 3).filter fun a => bitAt (tnAxes t) a && 1 < sliceLen x a).map fun a => (a, sliceCoord s x a, sliceLen x a)

/-- What a module takes in before it sends on: the leaves of each axis up to the first on which it is not the root (R108, R347). -/
def treeNeeds : List (Nat × Nat × Nat) → List (Nat × Nat)
  | [] => []
  | (a, c, n) :: l => (axisLeaves c 16 0 n).map (fun x => (a, x)) ++ (if c = 0 then treeNeeds l else [])

/-- This module is the root of the reduced group. -/
def treeRoot (l : List (Nat × Nat × Nat)) : Bool := l.all fun x => x.2.1 == 0

/-- Everything that comes to this module for an entry: the partial sums below it, and, off the root, the root's sums, as axis 3. -/
def gradNeeds (s : State) (t : Train) : List (Nat × Nat) :=
  let l := trainAxes s t
  treeNeeds l ++ (if treeRoot l then [] else [(3, 0)])

/-- Elements of an entry that have arrived from a leaf. -/
def gradGot (t : Train) (u : Nat) (x : Nat × Nat) : Nat :=
  ((t.reduced.find? fun r => r.1 == u && r.2.1 == x.1 && r.2.2.1 == x.2).map (·.2.2.2)).getD 0

/-- Stage 1 of the update is complete (R347). -/
def reduceDone (s : State) (t : Train) : Bool :=
  (gradNeeds s t).all fun x => (List.range (tnNupd t)).all fun u => updCells s t u ≤ gradGot t u x

/-- Add the counts of the step's status records (R333, R339, R346): NONFINITE, EMPTY and MATCH. -/
def trainCounts (s : State) (t : Step) (tid : Nat) : State :=
  t.descs.foldl (fun s d =>
    let st := peek s t
    if kindOf d = 0x70 then setTrain s t.basin tid fun x => { x with
      match_ := sat 32 (x.match_ + st (dfld d 384 431 + 4) 4), empty := sat 32 (x.empty + st (dfld d 384 431 + 8) 2) }
    else if kindOf d = 0x11 then setTrain s t.basin tid fun x => { x with
      nonfinite := sat 32 (x.nonfinite + st (dfld d 448 495 + 16) 4) }
    else s) s

/-- A micro-step has ended well: its feed is consumed (R337, R347). -/
def microDone (s : State) (t : Train) : State :=
  setTrain s t.basin (tnTid t) fun t => { t with
    feeds := t.feeds.drop 1, micro := wrap 32 (t.micro + 1), inAcc := t.inAcc + 1
    phase := if t.inAcc + 1 = tnNacc t then 3 else 0, readyAt := s.now }

/-- Stages 2 to 4 of the update (R347). A read that is refused once stage 2 has written its elements leaves the object FAILED (R354). -/
def runUpdate (s : State) (t : Train) : State :=
  let b := t.basin
  let publish := tnPub t != 0 && (t.updates + 1) % tnPub t = 0
  let s := eachUpd s t fun _ _ u h s =>
    let (bad, s) := updateArrays s t u (h.rows * h.cols)
    setTrain s b (tnTid t) fun t => { t with nonfinite := sat 32 (t.nonfinite + bad) }
  match copiesRefused s t publish with
  | some st => failTrain s t st
  | none =>
    let s := eachUpd s t fun m v u h s => rewriteCopies s b m v u h
    let s := setTrain s b (tnTid t) fun t => { t with
      updates := wrap 32 (t.updates + 1), inAcc := 0, phase := 0, readyAt := s.now, reduced := [] }
    if publish then publishSet s t else s

/-- The boundary of an object's step (R337, R347, R354): the next phase, or what a fault leaves. A micro-step discarded with
ST_WEIGHT_POISONED runs again on the same feed; after a TRAIN.STOP it has ended, and the feed waits for the next TRAIN.START. -/
def trainBoundary (s : State) (t : Step) (tid phase status : Nat) : State :=
  match trainOf s t.basin tid with
  | none => s
  | some x =>
    if status = stWeightPoisoned && phase < 3 then
      if x.stopping then stopTrain s x 0 else setTrain s t.basin tid fun x => { x with phase := 0, readyAt := s.now }
    else if status = stDataPoisoned && phase = 3 then failTrain s x status
    else if status != 0 then stopTrain s x status
    else
      let s :=
        if phase < 2 then setTrain s t.basin tid fun x => { x with phase := phase + 1, readyAt := s.now }
        else if phase = 2 then microDone (trainCounts s t tid) x
        else runUpdate s x
      match trainOf s t.basin tid with
      | some x => if x.stopping && 2 ≤ phase then stopTrain s x 0 else s
      | none => s

/-- Objects whose student is being deleted end at a boundary, when they have no step (R354). -/
def endOrphans (s : State) (b : Nat) : State :=
  (s.trains.filter fun t => t.basin == b && !((variantOf s b (tnVid t)).any (·.state.serves)) &&
    !(s.steps.any fun x => x.basin == b && match x.kind with
      | .train tid _ => tid == tnTid t
      | .serve _ => false)).foldl
    (fun s t => dropTrain (raise s srcCore evTrainStopped [tnTid t, stVariantDeleted] [b]) t stVariantDeleted) s

/-! ### Commands (R333) -/

/-- TRAIN.CREATE (R334, R336): the reply waits until the shadow state is set. -/
def execTrainCreate (h : Hdr) (rec : BitVec 512) (s : State) : Res :=
  let tid := fld rec.toNat 0 31
  hostCmd s h 0x0500 false (some (.train tid)) (.trainCreate h rec) fun s =>
    let t : Train := { basin := h.basin, word := rec }
    let st := trainCheck s t
    if st != stOk then reply s h 0x0500 st []
    else deferCmd (askCopies { s with trains := s.trains ++ [t] } h.basin) { h := h, opcode := 0x0500, obj := .train tid }

/-- SHADOW_STATE_SET (R336): the engines have written the copies, and the object is IDLE. -/
def execShadowStateSet (basin tid : Nat) (s : State) : Res :=
  match trainOf s basin tid with
  | none => .next s
  | some t =>
    if t.state != .creating then .next s
    else
      let s := setTrain (setShadow s t) basin tid fun t => { t with state := .idle }
      .next (answerDeferred s basin (fun d => d.opcode == 0x0500 && d.obj == .train tid) stOk [])

/-- The bytes of a feed's sequences from an address on are well formed (R337). -/
def feedOk (s : State) (b : Nat) : Nat → Nat → Bool
  | 0, _ => true
  | n + 1, a =>
    let len := rdB s b a 4
    2 ≤ len && areaKind s b .work a (4 + 4 * len) && feedOk s b n (a + 8 * cdiv (4 + 4 * len) 8)

/-- Feeds that wait: those that no micro-step in progress has taken (R333, R337). -/
def feedsWaiting (s : State) (t : Train) : Nat :=
  t.feeds.length - b2n (t.phase == 1 || t.phase == 2 || s.steps.any fun x => x.basin == t.basin && match x.kind with
    | .train tid p => tid == tnTid t && p == 0
    | .serve _ => false)

/-- TRAIN.FEED (R333, R337). An unknown object answers ST_TRAIN_STATE (log entry 46). -/
def execTrainFeed (h : Hdr) (tid addr : Nat) (s : State) : Res :=
  hostCmd s h 0x0501 false (some (.train tid)) (.trainFeed h tid addr) fun s =>
    let b := h.basin
    match trainOf s b tid with
    | none => reply s h 0x0501 stTrainState []
    | some t =>
      if t.state == .failed || t.state == .creating then reply s h 0x0501 stTrainState []
      else if addr % 8 != 0 || !areaKind s b .work addr 8 || rdB s b (addr + 4) 4 != 0 ||
          !feedOk s b (rdB s b addr 4) (addr + 8) then reply s h 0x0501 stDescInvalid []
      else if 16 ≤ feedsWaiting s t then reply s h 0x0501 stQueueFull []
      else
        let s := setTrain s b tid fun t => { t with
          feeds := t.feeds ++ [addr], readyAt := if t.feeds.isEmpty && t.phase = 0 then s.now else t.readyAt }
        reply s h 0x0501 stOk []

/-- TRAIN.START (R333, R336). -/
def execTrainStart (h : Hdr) (tid : Nat) (s : State) : Res :=
  hostCmd s h 0x0502 false (some (.train tid)) (.trainStart h tid) fun s =>
    match trainOf s h.basin tid with
    | none => reply s h 0x0502 stTrainState []
    | some t =>
      if t.state == .idle || t.state == .stopped then
        reply (setTrain s h.basin tid fun t => { t with state := .running, stopping := false, readyAt := s.now }) h 0x0502 stOk []
      else reply s h 0x0502 stTrainState []

/-- A micro-step or an update of the object is in progress. -/
def trainBusy (s : State) (t : Train) : Bool :=
  (t.phase != 0 && t.phase != 3) || s.steps.any fun x => x.basin == t.basin && match x.kind with
    | .train tid _ => tid == tnTid t
    | .serve _ => false

/-- TRAIN.STOP (R333, R336): answered once STOPPED. -/
def execTrainStop (h : Hdr) (tid : Nat) (s : State) : Res :=
  hostCmd s h 0x0503 false (some (.train tid)) (.trainStop h tid) fun s =>
    match trainOf s h.basin tid with
    | none => reply s h 0x0503 stTrainState []
    | some t =>
      if t.state != .running then reply s h 0x0503 stTrainState []
      else
        let busy := trainBusy s t
        let s := deferCmd s { h := h, opcode := 0x0503, obj := .train tid }
        if busy then setTrain s h.basin tid fun t => { t with stopping := true } else stopTrain s t 0

def TState.num : TState → Nat
  | .running => 1
  | .stopped => 2
  | .failed => 3
  | _ => 0

/-- TRAIN.QUERY (R333, R377). -/
def execTrainQuery (h : Hdr) (tid : Nat) (s : State) : Res :=
  hostCmd s h 0x0504 false (some (.train tid)) (.trainQuery h tid) fun s =>
    match trainOf s h.basin tid with
    | none => reply s h 0x0504 stTrainState []
    | some t => reply s h 0x0504 stOk [.u8 t.state.num, .u16 t.last, .u32 t.micro, .u32 t.updates, .u32 t.pubs, .u32 t.nonfinite,
        .u32 t.empty, .u32 t.match_]

/-! ### TRAIN.EXPORT (R348, R352) -/

/-- The 16 code lengths of an export table: even symbols in bits [3:0] of a byte (R348). -/
def codeLens (l : List Byte) : List Nat := (List.range 16).map fun k => byteAt l (k / 2) / (if k % 2 = 0 then 1 else 16) % 16

/-- A complete code whose lengths are from 1 to 15 (R352). -/
def codeComplete (ls : List Nat) : Bool := ls.all (fun n => 1 ≤ n) && (ls.map fun n => 2 ^ (15 - n)).sum == 2 ^ 15

/-- The canonical code of a symbol: in increasing length and then increasing symbol; a length of 0 takes no code (R348). -/
def canonCode (ls : List Nat) (k : Nat) : Nat :=
  let n := ls.getD k 0
  (ls.map fun m => if 0 < m && m < n then 2 ^ (n - m) else 0).sum + ((ls.take k).filter (· == n)).length

/-- The bits of a symbol's code, most significant first. -/
def codeBits (ls : List Nat) (k : Nat) : List Bool :=
  let n := ls.getD k 0
  (List.range n).map fun j => bitAt (canonCode ls k) (n - 1 - j)

/-- Bits packed least significant first, padded to a byte. -/
def packBits (l : List Bool) : List Byte :=
  (pieces 8 l.length l).map fun x => BitVec.ofNat 8 (x.zipIdx.foldl (fun n y => n + b2n y.1 * 2 ^ y.2) 0)

/-- The row records of a tensor delta, recoded: what is sent, and the rest. -/
def exportRows (ls : List Nat) : Nat → List Byte → List Byte × List Byte
  | 0, l => ([], l)
  | n + 1, l =>
    let cnt := ofLe ((l.drop 4).take 2)
    let body := (l.drop 6).take (cdiv cnt 2)
    let syms := (List.range cnt).map fun k => byteAt body (k / 2) / (if k % 2 = 0 then 1 else 16) % 16
    let coded := packBits ((syms.map (codeBits ls)).flatten)
    let (o, rest) := exportRows ls n (l.drop (6 + cdiv cnt 2))
    (l.take 6 ++ le 4 coded.length ++ coded ++ o, rest)

/-- The tensor deltas of a set, recoded, from a place in it. -/
def exportTensors (ls : List Nat) : Nat → Nat → List Byte → List Byte
  | 0, _, _ => []
  | n + 1, off, l =>
    let gap := (8 - off % 8) % 8
    let l := l.drop gap
    let (rows, rest) := exportRows ls (ofLe ((l.drop 8).take 4)) (l.drop 24)
    let end_ := off + gap + (l.length - rest.length)
    let ns := ofLe ((l.drop 12).take 4)
    let sg := if ns = 0 then 0 else (8 - end_ % 8) % 8
    List.replicate gap 0 ++ l.take 24 ++ rows ++ rest.take (sg + 8 * ns) ++
      exportTensors ls n (end_ + sg + 8 * ns) (rest.drop (sg + 8 * ns))

/-- The export stream of a stored set; none when the table is not a complete code (R352). -/
def exportSet (ls : Option (List Nat)) (l : List Byte) : Option (List Byte) :=
  match ls with
  | none => some l
  | some ls => if codeComplete ls then some (l.take 16 ++ exportTensors ls (ofLe ((l.drop 4).take 2)) 16 (l.drop 16)) else none

/-- TRAIN.EXPORT (R352): the current delta set in DATA segments, with the CTAG as XID (R382), then the reply. -/
def execTrainExport (h : Hdr) (tid : Nat) (s : State) : Res :=
  hostCmd s h 0x0505 false (some (.train tid)) (.trainExport h tid) fun s =>
    let b := h.basin
    match trainOf s b tid with
    | none => reply s h 0x0505 stTrainState []
    | some t =>
      if t.state == .failed then reply s h 0x0505 stTrainState []
      else match variantOf s b (tnVid t) with
        | none => reply s h 0x0505 stVariantUnknown []
        | some v =>
          let n := tierNum s b (v.cur.set + 8) 4
          let ls := if tnXtable t = 0 then none else some (codeLens (tierBytes s b (tnXtable t) 8))
          match exportSet ls (tierBytes s b v.cur.set (min n (4096 * v.cur.setPages))) with
          | none => reply s h 0x0505 stDescInvalid []
          | some l => reply (sendData s b 0 h.ctag l) h 0x0505 stOk [.u32 l.length]

/-- TRAIN.DELETE (R333). -/
def execTrainDelete (h : Hdr) (tid : Nat) (s : State) : Res :=
  hostCmd s h 0x0506 false (some (.train tid)) (.trainDelete h tid) fun s =>
    match trainOf s h.basin tid with
    | none => reply s h 0x0506 stTrainState []
    | some t => if t.state == .running then reply s h 0x0506 stTrainState [] else reply (dropTrain s t stOk) h 0x0506 stOk []

end Sys2Proof.Machine
end

