-- ==== Sys2Proof/Machine/Growth.lean ====
section
/-! DEFINITION. The capacity of the KV store at a step boundary: rows that come back, resumption, new rows, reclaim and pad rows (R284,
R289 to R293, R295, R297, R299, R302, R309). -/

namespace Sys2Proof.Machine

/-! ### Capacity that is being freed (R290, R291) -/

/-- A page waits to be moved behind the moves of running requests (R297): stage 1 of R291 has not chosen it. -/
def movesLate (s : State) (b p : Nat) : Bool := s.tiers.moves.any fun m => !m.copy && m.basin == b && m.page == p && m.rank == 2

/-- Slots on their way out of HBM3E, or being cleared. An idle row that only waits to leave is not one of them: it counts as free (R290). -/
def leaving (s : State) (b : Nat) : Nat :=
  let k := kvOf s b
  let goes (w : Row) : Bool := w.moving == some 2 && !((rowPages k w).any (movesLate s b)) && !(rowRefs s b w.id == 0 && rowWaits s b w)
  slotsOf (fun w => w.tier == 1 && !w.c0 && (w.state == .clearing || goes w)) k

/-- Still short of `need`, counting what is leaving and `extra` slots to come. -/
def stillShort (s : State) (b need extra : Nat) : Bool := genFree (kvOf s b) + leaving s b + extra < need

/-- Free idle hot leaves, as many as `need` slots take beside what is leaving already (R290). -/
def leavesFor (s : State) (b need : Nat) : State := freeLeaves s b 1 (fun s => stillShort s b need 0) (kvOf s b).nodes.length

/-! ### Rows that come back to HBM3E (R284, R293, R299) -/

/-- A row lies in LPDDR5X and no move of it is under way. -/
def rowCold (k : Kv) (id : Nat) : Bool := (rowOf k id).any fun w => w.tier == 2 && w.moving.isNone && w.state != .clearing

/-- A row is in HBM3E and stays there. -/
def rowHere (k : Kv) (id : Nat) : Bool := (rowOf k id).any fun w => w.tier == 1 && w.moving.isNone

/-- Bring rows back where FREE capacity holds them; idle hot leaves are freed for the others. -/
def bringRows (s : State) (b : Nat) (ids : List Nat) : State :=
  let s := leavesFor s b (rowSlots (kvOf s b) (ids.filter (rowCold (kvOf s b))))
  ids.foldl (fun s id =>
    if rowCold (kvOf s b) id && rowSlots (kvOf s b) [id] ≤ genFree (kvOf s b) then moveRow s b id 1 1 else s) s

/-- Bring back what QUEUED requests and conversations being resumed wait for. -/
def bringBack (s : State) (b : Nat) : State :=
  let s := ((liveReqs s b).filter fun r => r.state == .queued).foldl (fun s r => bringRows s b r.rows) s
  ((kvOf s b).convs.filter (·.resuming)).foldl (fun s c => bringRows s b c.rows) s

/-- KV.RESUME (R299): the rows come back without a request, and the time to live starts again. -/
def execKvResume (h : Hdr) (conv : Nat) (s : State) : Res :=
  let b := h.basin
  let busy := (convOf s b conv).any (·.resuming) || (convTaken s b conv).isSome
  hostCmd s h 0x0402 false (if busy then none else some (.conv conv)) (.kvResume h conv) fun s =>
    if busy then reply s h 0x0402 stKvBusy []
    else match convOf s b conv with
      | none => reply s h 0x0402 (convMissing s b conv) []
      | some _ =>
        let s := setKv s b fun k => { k with
          convs := updW (fun c => c.conv == conv) (fun c => { c with resuming := true, pauseSec := ttlNow s }) k.convs }
        settleResumes (bringBack (deferCmd s { h := h, opcode := 0x0402, obj := .conv conv }) b) b

/-! ### Suspension and resumption (R291 to R293) -/

/-- Its own rows in HBM3E that no move takes. -/
def hotPriv (s : State) (r : Request) : List Nat := (ownRows s r).filter (rowHere (kvOf s r.basin))

/-- Its own rows that are in HBM3E or on their way back to it. -/
def nearRows (s : State) (r : Request) : List Nat :=
  (ownRows s r).filter fun id => (rowOf (kvOf s r.basin) id).any rowInHbm

/-- Suspend a request (R291): cause 0 RECLAIM, which needs room in the backwater (R292), or 1 CACHE_WAIT. -/
def suspendReq (s : State) (b tag cause : Nat) : State :=
  match reqOf s b tag with
  | none => s
  | some r =>
    let mine := ownRows s r
    let hot := nearRows s r
    let (ok, s') := rowsOut s b 1 hot
    if !ok && cause = 0 then setReq s b tag fun r => { r with suspendNext := false }
    else
      let s := if ok then s' else s
      let s := mine.foldl (fun s id => setRow s b id fun w => { w with state := .suspended }) s
      let s := setReq s b tag fun r => { r with
        state := .suspended, suspendedAt := s.now, suspendCause := cause, suspendNext := false, growAt := none }
      let s := if cause = 1 then setKv s b fun k => { k with stats := { k.stats with cacheWaits := sat 32 (k.stats.cacheWaits + 1) } } else s
      raise s srcCore evKvSuspended [tag, cause, if ok then hot.length else 0] [b]

/-- The suspended request that resumes next: C1 before C2 before C3, then the earliest suspended (R293). -/
def nextResume (s : State) (b : Nat) : Option Request :=
  ((liveReqs s b).filter fun r => r.state == .suspended).foldl (fun best r => match best with
    | none => some r
    | some q =>
      let k (x : Request) : Nat × Nat × Nat := (rCls x, x.suspendedAt, x.order)
      let (a1, a2, a3) := k r
      let (b1, b2, b3) := k q
      if a1 < b1 || (a1 == b1 && (a2 < b2 || (a2 == b2 && a3 < b3))) then some r else some q) none

/-- Resume suspended requests in strict order, as long as FREE capacity holds their rows and one further row (R293). A SUSPENDED row is
PRIVATE as soon as it is in HBM3E, and the SHARED rows it names are hot again (R280). -/
def resumeSuspended (b : Nat) : Nat → State → State
  | 0, s => s
  | fuel + 1, s =>
    match nextResume s b with
    | none => s
    | some r =>
      let k := kvOf s b
      let mine := r.rows.filter fun id => (rowOf k id).any fun w => w.state == .suspended
      if genFree k < rowSlots k (mine.filter fun id => (rowOf k id).any fun w => !rowInHbm w) + r.layers * r.heads then s
      else
        let s := setReq s b r.tag fun r => { r with state := .queued }
        let s := (r.rows.filter fun id => !mine.contains id).foldl (fun s id => keepHot s b id) s
        let s := mine.foldl (fun s id => moveRow (setRow s b id fun w => if w.tier == 1 && w.moving.isNone then { w with state := .priv } else w)
          b id 1 1) s
        resumeSuspended b fuel (raise s srcCore evKvResumed [r.tag, s.now - r.suspendedAt] [b])

/-! ### Reclaim (R290, R291) -/

/-- Stage 1 (R291): conversations by remaining time to live, then identifier; their PAUSED rows in HBM3E, those that wait to leave it behind
other moves included, and the cold SHARED rows they name, go ahead of other moves. -/
def stageOne (b need : Nat) : Nat → List Nat → State → State
  | 0, _, s => s
  | fuel + 1, seen, s =>
    if !stillShort s b need 0 then s
    else match convByTtl s b fun c => !c.resuming && !seen.contains c.conv with
      | none => s
      | some c =>
        let k := kvOf s b
        let ids := c.rows.filter fun id => (rowOf k id).any fun w => w.tier == 1 && (w.state == .paused || (w.state == .shared && !rowHot s b id))
        stageOne b need fuel (c.conv :: seen) (rowsOut s b 0 ids).2

/-- Slots that candidates chosen while RUNNING will give at their boundaries. -/
def chosenSlots (s : State) (b cls : Nat) : Nat :=
  (((liveReqs s b).filter fun r => r.state == .running && r.suspendNext && cls < rCls r).map fun r => rowSlots (kvOf s b) (hotPriv s r)).sum

/-- The next candidate of stage 2 (R291): C3 before C2, then the most recently admitted. -/
def nextVictim (s : State) (b cls : Nat) (seen : List Nat) : Option Request :=
  ((liveReqs s b).filter fun r => cls < rCls r && !r.suspendNext && !seen.contains r.tag && (r.state == .queued || r.state == .running) &&
    !(hotPriv s r).isEmpty).foldl (fun best r => match best with
      | none => some r
      | some q => if rCls q < rCls r || (rCls q == rCls r && q.order < r.order) then some r else some q) none

/-- Stage 2 (R291): a QUEUED candidate is suspended at once, a RUNNING one at its step's boundary. -/
def stageTwo (b cls need : Nat) : Nat → List Nat → State → State
  | 0, _, s => s
  | fuel + 1, seen, s =>
    if !stillShort s b need (chosenSlots s b cls) then s
    else match nextVictim s b cls seen with
      | none => s
      | some r =>
        let s := if r.state == .queued then suspendReq s b r.tag 0
          else if rowSlots (kvOf s b) (hotPriv s r) ≤ bwCan s b then setReq s b r.tag fun r => { r with suspendNext := true } else s
        stageTwo b cls need fuel (r.tag :: seen) s

/-- Stages 1 and 2 began to make room for the grower before the present boundary, and the room is not there yet (R291). -/
def growLate (s : State) (grower : Request) : Bool := grower.growAt.any fun n => n < s.serving.bounds

/-- Make room for `need` slots of general hot capacity beside the `owed` slots that earlier growers wait for (R290, R291): idle
leaves, then stages 1 and 2, then, where `last` allows, the grower itself: when the first two stages cannot cover the rest, or have not by
the next step boundary. Answers whether the room is there now. -/
def makeRoom (s : State) (b need owed : Nat) (grower : Request) (last : Bool) : Bool × State :=
  if need ≤ genFree (kvOf s b) then (true, setReq s b grower.tag fun r => { r with growAt := none })
  else
    let all := need + owed
    let s := leavesFor s b all
    let s := stageOne b all (kvOf s b).convs.length [] s
    let s := stageTwo b (rCls grower) all (liveReqs s b).length [] s
    if last && rCls grower != 0 && (growLate s grower || stillShort s b all (chosenSlots s b (rCls grower))) then
      (false, suspendReq s b grower.tag 1)
    else (false, setReq s b grower.tag fun r => { r with growAt := some (r.growAt.getD s.serving.bounds) })

/-! ### New rows (R277, R289, R295) -/

/-- Slots of a row of a request. -/
def rowNeed (r : Request) : Nat := r.layers * r.heads

/-- The coming step would append beyond the request's pages (R277). -/
def wantsRow (r : Request) : Bool := rowNeed r != 0 && 256 * r.rows.length ≤ r.committed

/-- Slot places of the arena that no row holds. -/
def placesFree (s : State) (b : Nat) : Nat :=
  hotSlots (kvOf s b) + bwSlots (kvOf s b) - (busySlots s b (kvOf s b)).eraseDups.length

/-- The quota and the frames hold `n` more HBM3E pages; the basin's own copies and DERIVED pages make way for the quota (R289). -/
def pagesFit (s : State) (b n : Nat) : Bool × State :=
  let over' (s : State) : Bool := !quotaOk s b 1 n
  let s := if over' s then dropRebuildable s (· == b) over' else s
  (!over' s && n ≤ framesFree s 1, s)

/-- A new row of `n` slots, when its pages fit. -/
def allocRow (s : State) (b n : Nat) (c0 pad : Bool) : Option Nat × State :=
  if placesFree s b < n then (none, s)
  else match pagesFit s b (n * kvSpan (kvOf s b)) with
    | (false, s) => (none, s)
    | (true, s) =>
      let (id, s) := newRow s b n .priv c0 pad
      (some id, s)

/-- Slots of general hot capacity that a QUEUED request takes before its step: cold rows that come back, and a new row (R289). -/
def growNeed (s : State) (b : Nat) (r : Request) : Nat :=
  rowSlots (kvOf s b) (r.rows.filter (rowCold (kvOf s b))) + (if wantsRow r && r.c0Slots = 0 then rowNeed r else 0)

/-- A C0 request's new row finds FREE capacity (R276, R289, R295): C0 rows, those being cleared included, stay within C0_SLOTS, and all rows in
HBM3E within HOT_SLOTS. -/
def c0Room (k : Kv) (n : Nat) : Bool :=
  slotsOf (fun w => w.c0 && rowInHbm w) k + n ≤ c0Slots k && slotsOf rowInHbm k + n ≤ hotSlots k

/-- What a QUEUED request still waits for. -/
def owedTo (s : State) (b tag : Nat) : Nat :=
  match reqOf s b tag with
  | none => 0
  | some r => if r.state == .queued then growNeed s b r else 0

/-- What a QUEUED request needs before a step gets it, at a boundary (R289, R291, R299), where earlier ones wait for `owed` slots.
Answers whether it is ready. -/
def growReq (s : State) (b tag owed : Nat) : Bool × State :=
  match reqOf s b tag with
  | none => (false, s)
  | some r =>
    if r.state != .queued then (false, s)
    else
      let n := rowNeed r
      let new := wantsRow r
      let own := new && r.c0Slots != 0
      let cold := r.rows.filter (rowCold (kvOf s b))
      let need := growNeed s b r
      let (ok, s) := if need = 0 then (true, s) else makeRoom s b need owed r true
      if !ok then (false, s)
      else
        let s := cold.foldl (fun s id => moveRow s b id 1 1) s
        let (ok, s) :=
          if own && !c0Room (kvOf s b) n then (false, s)
          else if new then
            match allocRow s b n own false with
            | (some id, s) => (true, setReq s b tag fun r => { r with rows := r.rows ++ [id] })
            | (none, s) => (false, s)
          else (true, s)
        (ok && (match reqOf s b tag with
          | some r => r.rows.all (rowHere (kvOf s b))
          | none => false), s)

/-- Grow requests in order until a batch is full (R289): the tags of those that are ready. -/
def growAll (b : Nat) : Nat → Nat → List Nat → State → List Nat × State
  | _, _, [], s => ([], s)
  | _, 0, _, s => ([], s)
  | owed, limit + 1, tag :: l, s =>
    match growReq s b tag owed with
    | (true, s) =>
      let (r, s) := growAll b owed limit l s
      (tag :: r, s)
    | (false, s) => growAll b (owed + owedTo s b tag) (limit + 1) l s

/-! ### Pad rows (R309) -/

/-- A place in the list area for the pad row's page lists. -/
def padLists (s : State) (b gid layers heads : Nat) : Bool × State :=
  match groupOf s b gid with
  | none => (false, s)
  | some g =>
    let shape := bookShape (kvOf s b) layers heads 256
    if shape.length ≤ g.padBook.length && (shape.zip g.padBook).all (fun x => x.1 ≤ x.2.2) then (true, s)
    else
      let s0 := setGroup s b gid fun g => { g with padBook := [] }
      match bookingAt s0 b 0 layers heads 256 with
      | some l => (true, setGroup s b gid fun g => { g with padBook := l })
      | none => (false, s)

/-- The group has a pad row of enough slots, or takes one: from the general hot capacity, from the part of C0_SLOTS that nobody has
booked, or after stages 1 and 2 of R291 (R309). -/
def takePad (s : State) (b gid : Nat) (grower : Request) : Bool × State :=
  let n := rowNeed grower
  match groupOf s b gid with
  | none => (false, s)
  | some g =>
    if n = 0 then (true, s)
    else if (g.padRow.bind (rowOf (kvOf s b))).any fun w => n ≤ w.slots.length && !((rowPages (kvOf s b) w).any (badPage s b)) then padLists s b gid grower.layers grower.heads
    else
      let s := dropPad s b gid
      let s := if genFree (kvOf s b) < n then leavesFor s b n else s
      let k := kvOf s b
      let c0 := stillShort s b n 0 && admits g.word 0 && c0Booked s b + c0Pads k + n ≤ c0Slots k && c0Room k n
      let (ok, s) := if c0 then (true, s) else makeRoom s b n 0 grower false
      if !ok then (false, s)
      else match allocRow s b n c0 true with
        | (none, s) => (false, s)
        | (some id, s) => padLists (setGroup s b gid fun g => { g with padRow := some id }) b gid grower.layers grower.heads

end Sys2Proof.Machine
end

