-- ==== Sys2Proof/Machine/Batch.lean ====
section
/-! DEFINITION. Forming a step: late fetches, the order of ready work, batches, slots and padding, the areas that firmware writes,
preemption and resumption (R35, R63, R70, R152, R237, R242 to R245, R277, R309, R313 to R317, R322, R323, R326, R327, R337). -/

namespace Sys2Proof.Machine

/-! ### Ready work and its order (R314, R315) -/

/-- Ready work: a request, or a training object's next phase. -/
structure Work where
  tid : Option Nat := none
  tag : Nat := 0
  cls : Nat
  /-- What the step runs: identifier, generation, base, kind, base fallback. -/
  vid : Nat
  gen : Nat
  base : Nat
  prefill : Bool := false
  fallback : Bool := false
  /-- Place in the order: no deadline, latest start, time, admission. -/
  late : Nat
  start : Int
  time : Nat
  order : Nat
  deriving DecidableEq, Repr

/-- The order of R315: class, latest start, then admission or the time it became ready. -/
def workLt (a b : Work) : Bool :=
  if a.cls != b.cls then a.cls < b.cls
  else if a.late != b.late then a.late < b.late
  else if a.start != b.start then a.start < b.start
  else if a.time != b.time then a.time < b.time
  else a.order < b.order

/-- Insert by the order. -/
def workInsert (x : Work) : List Work → List Work
  | [] => [x]
  | y :: l => if workLt x y then x :: y :: l else y :: workInsert x l

def workSort (l : List Work) : List Work := l.foldr workInsert []

/-- A QUEUED request as work of a group, when its variant is resident or it falls back (R243, R314). -/
def reqWork (s : State) (b : Nat) (w : BitVec 64) (r : Request) : Option Work :=
  match programOf s b r.base (inPrompt r) w with
  | none => none
  | some p =>
    let latest := latestStart r p
    let x : Work :=
      { tag := r.tag, cls := rCls r, vid := rVid r, gen := genNow s b (rVid r), base := r.base, prefill := inPrompt r,
        late := b2n latest.isNone, start := latest.getD 0, time := r.admitted, order := r.order }
    if vidResident s b (rVid r) then some x
    else if fallsBack s b r p then some { x with vid := r.base, gen := 0, fallback := true }
    else none

/-- A step of another group, running or held, still uses positions of the group (R35, R306): they alternate at step boundaries. -/
def rangeBusy (s : State) (b gid : Nat) (w : BitVec 64) : Bool :=
  s.steps.any fun t => t.basin == b && t.gid != gid && t.first < gFirst w + gCount w && gFirst w < t.first + t.count

/-- A pool of a group's jobs holds copies that a variant's steps have made (R267). -/
def holdsCopies (s : State) (b gid vid : Nat) : Bool :=
  s.tiers.poolCopies.any fun c => c.basin == b && c.vid == vid && (jobOf s b (granOf s c.g).job).any fun j => j.gid == gid

/-- A request is left to another group (R267, log entry 155): one that is free now, admits it and has a program for it, and whose pools hold copies of its
variant, where those of this group hold none. -/
def leftTo (s : State) (b gid : Nat) (r : Request) : Bool :=
  !holdsCopies s b gid (rVid r) && (basinGroups s b).any fun g =>
    gGid g.word != gid && admits g.word (rCls r) && groupIdle g && !g.tokWaiting && !rangeBusy s b (gGid g.word) g.word &&
      holdsCopies s b (gGid g.word) (rVid r) && (programOf s b r.base (inPrompt r) g.word).isSome

/-- The work that is ready for a group, in order, but for what its rows still need. -/
def groupWork (s : State) (b gid : Nat) (onlyC0 : Bool) : List Work :=
  match groupOf s b gid with
  | none => []
  | some g =>
    let w := g.word
    let ok (c : Nat) : Bool := admits w c && (!onlyC0 || c = 0)
    let rs := (liveReqs s b).filter fun r => r.state == .queued && ok (rCls r) && (cancelOf s b r.tag).isNone && !leftTo s b gid r
    let ts := s.trains.filter fun t => t.basin == b && tnGid t == gid && ok (tnCls t) && trainReady s t
    let train (t : Train) : Work :=
      let v := if t.phase = 0 then tnTeacher t else tnVid t
      { tid := some (tnTid t), cls := tnCls t, vid := v, gen := genNow s b v, base := baseOf s b v, late := 1, start := 0,
        time := t.readyAt, order := 2 ^ 40 + tnTid t }
    workSort (rs.filterMap (reqWork s b w) ++ ts.map train)

/-- The same batch: variant generation, class and kind (R35, R315). Requests that fall back count as requests of the base. -/
def sameBatch (a b : Work) : Bool :=
  a.tid.isNone && b.tid.isNone && a.cls == b.cls && a.vid == b.vid && a.gen == b.gen && a.prefill == b.prefill

/-! ### The areas that firmware writes (R152, R277, R309) -/

/-- A region of the job's task covers a byte with the permission that the access needs (R187). -/
def inRegions (s : State) (t : Step) (write : Bool) (a : Nat) : Bool :=
  s.pools.regions.any fun r => r.basin == t.basin && r.job == t.job && r.base ≤ a && a < r.bound && (if write then r.wr else r.rd)

/-- What refuses firmware a byte of a step's area (R309): no region of its task, or the access itself (R187). -/
def areaRefusal (s : State) (t : Step) (write : Bool) (a : Nat) : Option Nat :=
  if !inRegions s t write a then some stPoolAccess
  else match (if write then writePlace s t a else readPlace s t a) with
  | .refused st => some st
  | .at_ _ => if tieredBase ≤ a && badPage s t.basin (a / 4096) then some stDataPoisoned else none

/-- What refuses firmware a range: address and status. -/
def rangeRefusal (s : State) (t : Step) (write : Bool) (a len : Nat) : Option (Nat × Nat) :=
  (List.range len).findSome? fun k => (areaRefusal s t write (a + k)).map fun st => (a + k, st)

/-- Firmware writes bytes of a step's area, or meets a refusal. -/
def areaWrite (s : State) (t : Step) (a : Nat) (bs : List Byte) : Option (Nat × Nat) × State :=
  match rangeRefusal s t true a bs.length with
  | some x => (some x, s)
  | none =>
    let s := bs.zipIdx.foldl (fun s x => match writePlace s t (a + x.2) with
      | .at_ p => { s with mem := memPut s.mem p x.1 }
      | .refused _ => s) s
    (none, narrowWritten s t.basin a bs.length)

/-- Firmware writes several areas until one is refused. -/
def areaWrites (t : Step) : List (Nat × List Byte) → State → Option (Nat × Nat) × State
  | [], s => (none, s)
  | (a, bs) :: l, s =>
    match areaWrite s t a bs with
    | (some x, s) => (some x, s)
    | (none, s) => areaWrites t l s

/-- Page lists of rows: for each layer and page and head the slot, its COUNT and SHARED (R125, R277). -/
def listEntries (s : State) (b : Nat) (book : List (Nat × Nat)) (layers heads committed : Nat) (pad : Bool) (rows : List Row) :
    List (Nat × List Byte) :=
  let k := kvOf s b
  (pageHeads layers heads rows.length).filterMap fun x =>
    (rows[x.2.1]?.bind fun w => (w.slots[x.1 * heads + x.2.2]?).map fun sl => (w, sl)).map fun (w, sl) =>
      let cnt := if pad then 0 else min 256 (committed - 256 * x.2.1)
      ((listAt book x.1).1 + 16 * (x.2.1 * heads + x.2.2),
        le 16 (slotAddr k sl + 2 ^ 64 * cnt + 2 ^ 80 * b2n (w.state == .shared)))

/-- Firmware writes entries of page lists. -/
def writeLists (s : State) (b : Nat) (l : List (Nat × List Byte)) : State :=
  l.foldl (fun s x => narrowWritten (tierPuts s b x.1 x.2) b x.1 x.2.length) s

/-- A request table entry (R152). -/
def tableEntry (pl npages summ qpos : Nat) (append : Bool) : List Byte :=
  le 32 (pl + 2 ^ 48 * npages + 2 ^ 64 * summ + 2 ^ 112 * b2n append + 2 ^ 160 * qpos)

/-- Positions of a request's chunk (R317). -/
def chunkLen (r : Request) (nqMax : Nat) : Nat :=
  if inPrompt r then min (min (promptEnd r) ((r.committed / 256 + 1) * 256)) (r.committed + nqMax) - r.committed else 1

/-- The chunk yields a token (R317). -/
def chunkYields (r : Request) (nqMax : Nat) : Bool := promptEnd r ≤ r.committed + chunkLen r nqMax

/-- The slot table entry r of a step's program (R309). -/
def slotEntry (s : State) (t : Step) (r : Nat) : Nat := peek s t (pParam t.prog + 32 * r) 32

/-- The areas of a batch slot: tokens and request table entries. -/
def slotAreas (t : Step) (e : Nat) (toks : List Nat) (entry : Nat → List Byte) : List (Nat × List Byte) :=
  let nq := pNq t.prog
  (fld e 0 47, ((List.range nq).map fun k => le 4 (toks.getD k 0)).flatten) ::
    (List.range (pNatt t.prog)).map fun l => (fld e 64 111 + 32 * l, entry l)

/-- What firmware writes for a slot of a batch: the entries of the page lists, and the slot's areas. -/
structure SlotWork where
  slot : Slot
  lists : List (Nat × List Byte) := []
  areas : List (Nat × List Byte) := []

/-- The lists of a request and the areas of its slot. -/
def askedWork (s : State) (t : Step) (r : Request) (e : Nat) : SlotWork :=
  let entry (l : Nat) : List Byte :=
    let a := listAt r.book l
    tableEntry a.1 r.rows.length a.2 r.committed true
  { slot := { tag := r.tag, nq := chunkLen r (pNq t.prog), yields := chunkYields r (pNq t.prog), fb := r.fallback, rtab := fld e 64 111,
              logits := fld e 128 175 }
    lists := listEntries s t.basin r.book r.layers r.heads r.committed false (r.rows.filterMap (rowOf (kvOf s t.basin)))
    areas := slotAreas t e ((r.toks.drop r.committed).take (chunkLen r (pNq t.prog))) entry }

/-- The lists of the pad row and the areas of a padding slot (R309). -/
def padWork (s : State) (t : Step) (g : Group) (layers heads e : Nat) : SlotWork :=
  let entry (l : Nat) : List Byte :=
    let a := listAt g.padBook l
    tableEntry a.1 1 a.2 0 false
  { slot := { tag := 0, nq := pNq t.prog, yields := false, rtab := fld e 64 111, logits := fld e 128 175 }
    lists := listEntries s t.basin g.padBook layers heads 0 true ((g.padRow.bind (rowOf (kvOf s t.basin))).toList)
    areas := slotAreas t e [] entry }

/-- The work of slot r with its entry of the slot table: a request's, or padding. -/
def slotWork (s : State) (t : Step) (reqs : List Nat) (r e : Nat) : SlotWork :=
  match (reqs[r]?).bind (reqOf s t.basin), groupOf s t.basin t.gid with
  | some q, _ => askedWork s t q e
  | none, some g => padWork s t g (pNatt t.prog) ((((reqs.head?).bind (reqOf s t.basin)).map (·.heads)).getD 0) e
  | none, none => { slot := { tag := 0, nq := pNq t.prog, yields := false } }

/-- The slots of the pool aperture that a step's slot table and the areas of its entries lie in, in the order in which firmware comes to
them. -/
def areaSlots (s : State) (t : Step) : List Nat :=
  let es := (List.range (pNb t.prog)).map fun r =>
    let e := slotEntry s t r
    [pParam t.prog + 32 * r, fld e 0 47, fld e 64 111, fld e 128 175]
  (es.flatten.filterMap fun a => (slotOf a).map (·.1)).eraseDups

/-- The regions of the task that acts for a step's job, set as the job is bound to it (R187): the tier memory of the basin, and up to seven
slots of the aperture, each as far as its granules are OWNED by the job (R188). Which of its areas firmware covers is its choice (DESIGN
CHOICE, log entry 90). -/
def taskRegions (s : State) (t : Step) : List Region :=
  let own (g : Nat) : Bool := let x := granOf s g; x.state == .owned && x.basin == t.basin && x.job == t.job
  let region (base bound : Nat) : Region :=
    { task := 0, basin := t.basin, job := t.job, base := base, bound := bound, rd := true, wr := true }
  let pool (sl : Nat) : Option Region := ((jobOf s t.basin t.job).bind fun j => j.slots.find? fun x => x.1 == sl).bind fun x =>
    let n := (x.2.takeWhile own).length
    if n = 0 then none else some (region (slotBase sl) (slotBase sl + 65536 * n))
  region tieredBase (2 ^ 48) :: (areaSlots s t).filterMap pool |>.take 8

/-- The job of a step is bound to its task. -/
def bindTask (s : State) (sid : Nat) : State :=
  match stepOf s sid with
  | none => s
  | some t =>
    let s := revokeJob s t.basin t.job
    { s with pools := { s.pools with regions := s.pools.regions ++ taskRegions s t } }

/-- A refusal that firmware meets faults the step (R309): it stops, and its pools are cleared (R71, R185). An access outside its regions, or
to poisoned data, ends the job (R187, R236). -/
def areaFault (s : State) (sid : Nat) (x : Nat × Nat) : State :=
  match stepOf s sid with
  | none => s
  | some t =>
    let s := stepFlt s t { status := x.2, src := srcCore, desc := 0, tag := 0, aux := 0, addr := x.1 }
    let s := stopStep s t x.2
    if x.2 = stPoolAccess then endJob s t.basin t.job x.2
    else if x.2 = stDataPoisoned then endPoisoned s t [x.1 / 4096]
    else s

/-- Firmware writes one slot of a step: its lists and areas, until one is refused. -/
def putSlot (s : State) (t : Step) (w : SlotWork) : State :=
  let s := writeLists s t.basin w.lists
  let s := setStep s t.sid fun t => { t with slots := t.slots ++ [w.slot], fill := t.fill.map fun x => (x.1, x.2 + 1) }
  match areaWrites t w.areas s with
  | (some x, s) => areaFault s t.sid x
  | (none, s) => s

/-- Firmware reads a slot's entry of the slot table and writes the slot. An access to a page under move, or to lent memory whose data have
not come, keeps firmware waiting (R228, R247): it tries again at the next STEP_BIND. -/
def fillSlot (s : State) (t : Step) (reqs : List Nat) (r : Nat) : State :=
  let a := pParam t.prog + 32 * r
  if rangeMoving s t.basin a 32 then s
  else match rangeRefusal s t false a 32 with
  | some x => areaFault s t.sid x
  | none => match lentRange s t.basin a 32 t.sid uFirmware with
    | (.wait, s) => s
    | (.refused, s) => areaFault s t.sid (a, stWindowFault)
    | (.here, s) =>
      let w := slotWork s t reqs r (slotEntry s t r)
      if (w.lists ++ w.areas).any fun x => rangeMoving s t.basin x.1 x.2.length then s else putSlot s t w

/-- Firmware writes the slots of a step from the one it has come to: requests first, then padding (R309). -/
def fillSlots (sid : Nat) : Nat → State → State
  | 0, s => s
  | n + 1, s =>
    match (stepOf s sid).bind fun t => t.fill.map fun x => (t, x) with
    | none => s
    | some (t, reqs, r) =>
      if pNb t.prog ≤ r then setStep s sid fun t => { t with fill := none } else fillSlots sid n (fillSlot s t reqs r)

/-- Firmware goes on with the slots of a step. -/
def fillStep (sid : Nat) (s : State) : State := fillSlots sid (((stepOf s sid).map fun t => pNb t.prog).getD 0 + 1) s

/-! ### Temperatures (R480, R485) -/

/-- The sensor is now failed: its range, its reference check, its bus or its missing acknowledgement. -/
def sensorFailed (s : State) (n : Nat) : Bool :=
  s.pwr.sensorFail.contains n || s.pwr.refFail.contains n ||
    (28 ≤ n && n < 32 && (s.pwr.busFaulted || s.pwr.auxBad || 3 ≤ s.pwr.noAcks.getD (n - 28) 0))

/-- The sensors of the same kind. -/
def sameKind (n : Nat) : List Nat :=
  if n < 20 then List.range 20 else if n < 28 then (List.range 8).map (· + 20) else (List.range 4).map (· + 28)

/-- The highest of some readings. -/
def maxInt (l : List Int) : Int := l.foldl max (-128)

def rawTemp (s : State) (n : Nat) : Int := s.pwr.temps.getD n 0

/-- A sensor's value; a failed one counts as the highest working sensor of its kind plus 10 °C (R485). With none working, the highest
last reading stands in. -/
def tempOf (s : State) (n : Nat) : Int :=
  if sensorFailed s n then
    let good := (sameKind n).filter fun k => !sensorFailed s k
    maxInt ((if good.isEmpty then sameKind n else good).map (rawTemp s)) + 10
  else rawTemp s n

/-! ### The conditions of the guarantee (R326, R327) -/

/-- Throttling of any kind is in force (R478, R481, R483). -/
def throttled (s : State) : Bool :=
  s.pwr.paceT < 256 || s.pwr.paceP < 256 || !s.pwr.halvedHbm.isEmpty || !s.pwr.halvedLpx.isEmpty

/-- VCORE or a junction temperature is outside the operating conditions, as the last readings have them (R326, R543). -/
def outOfConditions (s : State) : Bool :=
  (s.pwr.vcore.any fun v => v < 680 || 835 < v) || (List.range 20).any fun n => tempOf s n < 10 || 105 < tempOf s n

/-- Condition 2 of R326 fails. -/
def badEnvironment (s : State) : Bool := throttled s || outOfConditions s

/-- What a step runs is pinned (R266). -/
def vidPinned (s : State) (b vid : Nat) : Bool :=
  match variantOf s b vid with
  | some v => v.pinned
  | none => (modelOf s b vid).any (·.pinned)

/-- The first cause at the formation of a C0 batch of `n` requests (R327, R500, log entry 39). Condition 1 takes the basin's C0_BW at this
boundary (R403, R416); how large a share the VC-P traffic of a step needs the spec does not state: a free value (log entry 151). -/
def voidAt (s : State) (b : Nat) (g : BitVec 64) (p : BitVec 384) (w : Work) (falls : Bool) (ctx n : Nat) : Nat :=
  if s.pwr.warn.isSome then (if throttled s && s.pwr.warn.any (·.paced) then 2 else 3)
  else if pBound p = 0 || pCtx p < ctx || !(hostsOf s b (gFirst g) (gCount g)).isEmpty || basinFld s b 16 23 < Config.vcpShare p n then 1
  else if badEnvironment s then 2
  else if falls || !vidPinned s b w.vid || !vidResident s b w.vid then 5
  else 0

/-- A cause occurs while C0 steps are in flight: the first to occur stands (R327, R500, log entry 39). -/
def voidSteps (s : State) (cause : Nat) : State :=
  { s with steps := updW (fun t => t.cls == 0 && t.void == 0) (fun t => { t with void := cause }) s.steps }

/-! ### Preemption (R197, R322, R323) -/

/-- A step holds: its eddy watchdogs stand still. -/
def holdStep (s : State) (sid : Nat) : State :=
  setStep s sid fun t => { t with
    held := true, heldSince := s.now
    units := { t.units with eddies := t.units.eddies.map fun e => { e with
      wdogSum := e.wdogSum + e.wdogSince.elim 0 (s.now - ·), wdogSince := none } } }

/-- A held step resumes where it stopped (R316, R322, R323). -/
def resumeStep (s : State) (sid : Nat) : State :=
  setStep s sid fun t => { t with
    held := false
    units := { t.units with
      reaches := t.units.reaches.map fun r => { r with saved := false }
      eddies := t.units.eddies.map fun e => { e with wdogSince := if e.stalls.isEmpty then none else some s.now } } }

/-! ### Starting a step -/

/-- Put a new step on its group: a C0 step holds the lower one that runs (R316, R322). -/
def placeStep (s : State) (t : Step) : State :=
  let s := { s with steps := s.steps ++ [t], serving := { s.serving with nextSid := s.serving.nextSid + 1 } }
  let low := ((groupOf s t.basin t.gid).bind (·.run)).filter fun x => t.cls = 0 && x != t.sid
  let s := match low with
    | some x => holdStep s x
    | none => s
  setGroup s t.basin t.gid fun g => { g with
    run := some t.sid, heldStep := low.orElse fun _ => g.heldStep, stepSeq := wrap 32 (g.stepSeq + 1) }

/-- The step of a batch or a phase, in the group's job of its class (R562). -/
def newStep (s : State) (b gid : Nat) (w : Work) (kind : StepKind) (p : BitVec 384) (void : Nat) : Step :=
  { sid := s.serving.nextSid, basin := b, gid := gid, seq := ((groupOf s b gid).map (·.stepSeq)).getD 0, kind := kind, cls := w.cls,
    job := ((classJob s b gid w.cls).map (·.num)).getD 0, vid := w.vid, base := w.base, gen := w.gen,
    first := ((groupOf s b gid).map fun g => gFirst g.word).getD 0, count := ((groupOf s b gid).map fun g => gCount g.word).getD 0,
    prog := p, formT := s.now, void := void, egress := egressOk s b, weight := basinFld s b 8 15, c0bw := basinFld s b 16 23 }

/-- Start the step of a batch: its requests are RUNNING, `falls` of them on their base under R243, and firmware writes its slots (R309, R313,
R317). -/
def startBatch (s : State) (b gid : Nat) (w : Work) (p : BitVec 384) (tags falls : List Nat) : State :=
  match groupOf s b gid with
  | none => s
  | some g =>
    let s := refreshJob s b g.word w.cls
    let ctx := (tags.map fun tag => ((reqOf s b tag).map fun r => promptEnd r + rMaxnew r).getD 0).foldl max 0
    let t := newStep s b gid w (.serve w.prefill) p (if w.cls = 0 then voidAt s b g.word p w (tags.any falls.contains) ctx tags.length else 0)
    let s := placeStep s t
    let s := tags.foldl (fun s tag => setReq s b tag fun r => { r with state := .running, lastGid := gid, fallback := falls.contains tag }) s
    fillStep t.sid (bindTask (setStep s t.sid fun t => { t with fill := some (tags, 0) }) t.sid)

/-- Start the step of a training object's phase (R337, R347). -/
def startPhase (s : State) (b gid tid : Nat) (w : Work) : State :=
  match groupOf s b gid, trainOf s b tid with
  | some g, some x =>
    let s := refreshJob s b g.word w.cls
    placeStep s (newStep s b gid w (.train tid x.phase) (trainProg s x x.phase) 0)
  | _, _ => s

/-- Grow a batch and start it (R289, R309, R315). A batch that comes out short of NB_MAX needs the pad row, which the group takes before any
row is allocated for a request: growth then begins anew with the pad row there. Answers whether the group has its step or waits for
its pad row, or for granules of its job that are being cleared (R207). -/
def tryBatch (s : State) (b gid : Nat) (ws : List Work) : Bool × State :=
  match ws with
  | [] => (false, s)
  | w :: _ =>
    let s := match groupOf s b gid with
      | some g => refreshJob s b g.word w.cls
      | none => s
    if (classJob s b gid w.cls).any fun j => jobClearing s b j.num then (true, s)
    else match w.tid with
    | some tid => (true, startPhase s b gid tid w)
    | none =>
      match (groupOf s b gid).bind fun g => programOf s b w.base w.prefill g.word, reqOf s b w.tag with
      | some p, some r =>
        let tags := ws.map (·.tag)
        let falls := (ws.filter (·.fallback)).map (·.tag)
        let (ready, s') := growAll b 0 (pNb p) tags s
        if ready.isEmpty then (false, s')
        else if pNb p ≤ ready.length then (true, startBatch s' b gid w p ready falls)
        else match takePad s b gid r with
          | (false, s) => (true, s)
          | (true, s) =>
            let (ready, s) := growAll b 0 (pNb p) tags s
            if ready.isEmpty then (false, s) else (true, startBatch s b gid w p ready falls)
      | _, _ => (false, s)

/-- Take batches in order until one starts (R315). -/
def tryBatches (b gid : Nat) : Nat → List Work → State → State
  | 0, _, s => s
  | fuel + 1, ws, s =>
    match ws with
    | [] => s
    | w :: _ =>
      let mine := if w.tid.isSome then [w] else ws.filter (sameBatch w)
      match tryBatch s b gid mine with
      | (true, s) => s
      | (false, s) => tryBatches b gid fuel (ws.filter fun x => !mine.contains x) s

/-- Form the next batch of a group (R314, R315), once no step of another group is on its positions. -/
def formBatch (s : State) (b gid : Nat) (onlyC0 : Bool) : State :=
  if (groupOf s b gid).any fun g => rangeBusy s b gid g.word then s
  else
    let ws := groupWork s b gid onlyC0
    tryBatches b gid ws.length ws s

/-- A group takes its next work: a C0 batch first, then the step it holds, then the other classes (R315, R316). -/
def nextWork (s : State) (b gid : Nat) : State :=
  match groupOf s b gid with
  | none => s
  | some g =>
    if g.tokWaiting || s.boot.stage != 6 || s.pwr.brown.isSome then s
    else if inTeardown s b then match g.run, g.heldStep with
      | none, some sid => setGroup (resumeStep s sid) b gid fun g => { g with run := some sid, heldStep := none }
      | _, _ => s
    else match g.run, g.heldStep with
      | none, none => formBatch s b gid false
      | none, some sid =>
        let s := formBatch s b gid true
        if ((groupOf s b gid).bind (·.run)).isSome then s
        else setGroup (resumeStep s sid) b gid fun g => { g with run := some sid, heldStep := none }
      | some sid, none =>
        if (stepOf s sid).any fun t => t.cls != 0 && !t.stopped then formBatch s b gid true else s
      | some _, some _ => s

/-- BATCH_FORM (R314 to R316): a free group forms its next batch; a group that runs a lower step takes a C0 batch. A boundary that has waited
for its TOK message goes on with step 12 of R319 (R370). -/
def execBatchForm (basin gid : Nat) (s : State) : Res :=
  let goes := (groupOf s basin gid).any fun g => g.twelve && !g.tokWaiting
  let s := if goes then resumeSuspended basin (liveReqs s basin).length (setGroup s basin gid fun g => { g with twelve := false }) else s
  .next (nextWork (settleResumes (bringBack s basin) basin) basin gid)

end Sys2Proof.Machine
end

