-- ==== Sys2Proof/Machine/Reach.lean ====
section
/-! DEFINITION. The reaches: items, activation windows, decoders, lane beats, folds, joins and drains, of matrix operations and
of weight-gradient products, and the stop of a faulting step (R73 to R99, R101, R185, R342 to R346). -/

namespace Sys2Proof.Machine

/-! ### The order of descriptors within a step (R34, R35, R557, log entry 31) -/

/-- Memory a descriptor reads, as address and length. -/
def descReads (s : State) (t : Step) (d : BitVec 512) : List (Nat × Nat) :=
  let rs := descRegions s t d
  match kindOf d with
  | 0x10 => rs.take 2
  | 0x11 => [rs.getD 0 (0, 0), rs.getD 1 (0, 0), rs.getD 3 (0, 0)]
  | 0x20 => (rs.take 5).eraseIdx 2 ++ rs.drop 7
  | 0x30 => rs.eraseIdx 3
  | 0x31 => rs.take 4
  | 0x50 => if wRoute d then rs.take 1 else rs.take 3
  | 0x62 => if bitAt d.toNat 8 then [] else rs
  | 0x70 => [rs.getD 0 (0, 0), rs.getD 1 (0, 0), rs.getD 3 (0, 0)]
  | _ => []

/-- Memory a descriptor writes. -/
def descWrites (s : State) (t : Step) (d : BitVec 512) : List (Nat × Nat) :=
  let rs := descRegions s t d
  match kindOf d with
  | 0x10 => [rs.getD 2 (0, 0), rs.getD 3 (0, 0)]
  | 0x11 => rs.drop 2
  | 0x20 => [rs.getD 2 (0, 0), rs.getD 5 (0, 0), rs.getD 6 (0, 0)]
  | 0x30 => [rs.getD 2 (0, 0), rs.getD 3 (0, 0)] ++ (List.range (aReqs d)).map fun r => rs.getD (6 + 3 * r + 2) (0, 0)
  | 0x31 => [rs.getD 2 (0, 0), rs.getD 4 (0, 0)] ++ (List.range (aReqs d)).map fun r => rs.getD (5 + 3 * r + 1) (0, 0)
  | 0x50 => if wRoute d then [rs.getD 1 (0, 0), rs.getD 3 (0, 0)] else rs.drop 3
  | 0x62 => if bitAt d.toNat 8 then rs else []
  | 0x70 => [rs.getD 2 (0, 0), rs.getD 4 (0, 0)]
  | _ => []

/-- Two lists of regions meet, apart from the logical ranges of the step's eddies. -/
def meets (t : Step) (l m : List (Nat × Nat)) : Bool :=
  let inEddy (a : Nat × Nat) : Bool := t.descs.any fun e => kindOf e == 0x60 && eddyLbase e ≤ a.1 && a.1 < eddyLbase e + eddySpan e
  let real := fun x : List (Nat × Nat) => x.filter fun a => a.2 != 0 && !inEddy a
  (real l).any fun a => (real m).any fun b => !(disjoint [a, b])

/-- The index of the matrix descriptor of the program that an epilogue descriptor names. -/
def matIndex (t : Step) (d : BitVec 512) : Option Nat :=
  if eMat d < progBase t then none
  else
    let k := (eMat d - progBase t) / 64
    if k < t.descs.length && (eMat d - progBase t) % 64 == 0 then some k else none

/-- The place of a descriptor in the order of work: an epilogue whose matrix names it runs with its matrix, and one that
stands before its matrix runs after it (R557). -/
def orderKey (t : Step) (i : Nat) : Nat :=
  let d := descOf t i
  if kindOf d = 0x20 then
    match matIndex t d with
    | some k => if mEpi (descOf t k) != 0 || i < k then 2 * k + 1 else 2 * i
    | none => 2 * i
  else 2 * i

/-- A descriptor has finished. -/
def descDone (t : Step) (i : Nat) : Bool :=
  let d := descOf t i
  match kindOf d with
  | 0x10 => t.units.mats.any fun m => m.desc == i && m.statusDone
  | 0x11 => t.units.mats.any fun m => m.desc == i && m.statusDone
  | 0x20 => t.units.epis.any fun e => e.desc == i && e.finished
  | 0x30 => t.units.atts.any fun a => a.desc == i && a.statusDone
  | 0x31 => t.units.atts.any fun a => a.desc == i && a.statusDone
  | 0x50 => t.units.weirs.any fun w => w.desc == i && w.done
  | 0x62 => t.units.xfers.any fun x => x.desc == i && dfld d 128 159 ≤ x.done
  | 0x70 => t.units.losses.contains i
  | _ => true

/-- An epilogue descriptor and its matrix: R557 alone orders them. -/
def paired (t : Step) (i j : Nat) : Bool :=
  (kindOf (descOf t i) == 0x20 && matIndex t (descOf t i) == some j) ||
    (kindOf (descOf t j) == 0x20 && matIndex t (descOf t j) == some i)

/-- A descriptor may start: every descriptor before it that meets its memory has finished. -/
def descReady (s : State) (t : Step) (i : Nat) : Bool :=
  let ri := descReads s t (descOf t i)
  let wi := descWrites s t (descOf t i)
  (List.range t.descs.length).all fun j =>
    orderKey t i ≤ orderKey t j || i == j || descDone t j || paired t i j ||
      !(meets t (descWrites s t (descOf t j)) (ri ++ wi) || meets t (descReads s t (descOf t j)) wi)

/-! ### Transfers (R201) -/

/-- Change the progress of a transfer descriptor. -/
def setXfer (s : State) (sid i : Nat) (f : Xfer → Xfer) : State :=
  setUnits s sid fun u => { u with xfers := updW (fun x => x.desc == i) f u.xfers }

/-- Ask the remote module for the units of a transfer that reads (R201). -/
def askTransfer (s : State) (b sid : Nat) (d : BitVec 512) (i : Nat) : State :=
  let asks := (List.range (dfld d 128 159)).map fun k =>
    LmFrame.windowAsk (dfld d 20 23) (dfld d 24 27) (dfld d 28 31) (dfld d 14 19) (dfld d 96 127 + k)
  setXfer (sendUnits s b (unitJob s sid) asks) sid i fun x => { x with asked := true }

/-- Send the units of a writing transfer one after another; a unit that an eddy holds back waits (R190, R201). -/
def sendTransfer (sid : Nat) (d : BitVec 512) (i : Nat) : Nat → State → State
  | 0, s => s
  | fuel + 1, s =>
    match stepOf s sid with
    | none => s
    | some t => match t.units.xfers.find? fun x => x.desc == i with
      | none => s
      | some x =>
        if dfld d 128 159 ≤ x.done || !stepRuns t then s
        else
          let a : Acc3 := { sid := sid, src := srcTrunk (stepTrib s t 0 / 4), unit := uWindow i, desc := i }
          match wideRead s a (dfld d 32 79 + 64 * x.done) 64 with
          | .stop s => s
          | .ok bs s =>
            let s := sendUnits s t.basin (unitJob s sid)
              [.window (dfld d 20 23) (dfld d 24 27) (dfld d 28 31) (dfld d 14 19) (dfld d 96 127 + x.done) bs]
            sendTransfer sid d i fuel (setXfer s sid i fun y => { y with done := y.done + 1 })

/-- A transfer goes on as far as it can, once every earlier descriptor that meets its memory has finished (R201, log entry
109). -/
def serveTransfer (sid : Nat) (s : State) (x : Xfer) : State :=
  match stepOf s sid with
  | none => s
  | some t =>
    let d := descOf t x.desc
    if !stepRuns t || !unitGoes t (uWindow x.desc) || !descReady s t x.desc then s
    else if bitAt d.toNat 8 then (if x.asked then s else askTransfer s t.basin sid d x.desc)
    else sendTransfer sid d x.desc (dfld d 128 159 - x.done) s

/-- Every transfer of a step goes on as far as it can. -/
def sendTransfers (s : State) (sid : Nat) : State :=
  match stepOf s sid with
  | none => s
  | some t => t.units.xfers.foldl (serveTransfer sid) s

/-! ### Lookups -/

def reachOf (t : Step) (p : Nat) : Option ReachCtx := t.units.reaches.find? fun r => r.pos == p

/-- A reach goes on with its work, unless it has detected a fault (R90) or a held step's save area keeps it (R323). -/
def reachWorks (t : Step) (p : Nat) : Bool := stepWorks t && unitGoes t (uReach p) && !(t.held && (reachOf t p).any (·.saved))

def setReach (s : State) (sid p : Nat) (f : ReachCtx → ReachCtx) : State :=
  setUnits s sid fun u => { u with reaches := updW (fun r => r.pos == p) f u.reaches }

def setMat (s : State) (sid i : Nat) (f : MatCtx → MatCtx) : State :=
  setUnits s sid fun u => { u with mats := updW (fun m => m.desc == i) f u.mats }

/-- The reach of a position as it accesses memory for a descriptor. -/
def reachAcc (s : State) (t : Step) (p i : Nat) : Acc3 :=
  { sid := t.sid, src := srcReach (stepReach s t p), unit := uReach p, desc := i }

/-- The stewards of a step, and its epilogue's scale stage. -/
def stewAcc (s : State) (t : Step) (i : Nat) : Acc3 := { sid := t.sid, src := stepSteward s t, unit := uSteward, desc := i }
def scaleAcc (s : State) (t : Step) (p i : Nat) : Acc3 :=
  { sid := t.sid, src := srcSteward (stepReach s t p / 16), unit := uEpi, desc := i }

/-- A fault of a position's reach, which stops at it (R90). -/
def reachFault (s : State) (t : Step) (p i status addr : Nat) : State :=
  unitFault s t (srcReach (stepReach s t p)) (uReach p) status i addr

/-- The address whose bytes serve an address of a step: an eddy's ring stands for its logical range (R189). -/
def ringOr (t : Step) (addr : Nat) : Nat :=
  match eddyAt t addr with
  | some (e, off) => ringAddr (descOf t e.desc) off
  | none => addr

/-- The places at which a range may pass from one granule, or from one eddy, to another: its start, the granule boundaries in
it, and the ends of the step's eddies. An eddy's ring lies in one pool (R195). -/
def rangeCuts (t : Step) (addr n : Nat) : List Nat :=
  let bounds := (List.range (n / 65536 + 1)).map fun k => 65536 * (addr / 65536 + 1 + k)
  let ends := (t.units.eddies.map fun e =>
    let d := descOf t e.desc
    [eddyLbase d, eddyLbase d + eddySpan d]).flatten
  addr :: (bounds ++ ends).filter fun x => addr ≤ x && x < addr + n

/-- A range lies wholly in the executing reach's own pool: the ring of an eddy decides for its logical range (R84, R91, R92,
R189). -/
def ownPool (s : State) (t : Step) (p addr n : Nat) : Bool :=
  (rangeCuts t addr n).all fun x =>
    ringOr t x < 0x18000000 && (granAtAddr s t.basin t.job (ringOr t x)).any fun g => poolOf g == stepReach s t p

/-- How many items of a descriptor a position has finished. -/
def itemsDone (r : ReachCtx) (i : Nat) : Nat := ((r.doneItems.find? fun x => x.1 == i).map (·.2)).getD 0

/-- The next item of a position: its descriptor and index, in program order and increasing index (R80). -/
def nextItem (t : Step) (r : ReachCtx) : Option (Nat × Nat) :=
  (t.descs.zipIdx).findSome? fun x =>
    let d := x.1
    if (kindOf d == 0x10 || kindOf d == 0x11) && mFirst d ≤ r.pos && r.pos < mFirst d + mCount d then
      let k := r.pos - mFirst d + itemsDone r x.2 * mCount d
      if k < mItems d then some (x.2, k) else none
    else none

/-! ### The geometry of an item (R80, R345) -/

structure Geo where
  row0 : Nat
  rows : Nat
  tok0 : Nat
  toks : Nat
  col0 : Nat
  cols : Nat
  deriving DecidableEq, Repr

/-- Rows, tokens and columns that an item covers. -/
def geoOf (d : BitVec 512) (i : Nat) : Geo :=
  let nl := tileNL (mCw d)
  let c := tileC (mCw d)
  let rt := i / (mNtt d * mNk d)
  let tt := i / mNk d % mNtt d
  let kc := i % mNk d
  let rows := min nl (mRows d - rt * nl)
  if kindOf d = 0x11 then
    { row0 := mRow0 d + rt * nl, rows := rows, tok0 := kc * gT d, toks := min (gT d) (mTok d - kc * gT d),
      col0 := 32 * mK0 d + tt * c, cols := min c (32 * mKlen d - tt * c) }
  else
    { row0 := mRow0 d + rt * nl, rows := rows, tok0 := tt * c, toks := min c (mTok d - tt * c),
      col0 := 32 * mK0 d + kc * mKch d, cols := min (mKch d) (32 * mKlen d - kc * mKch d) }

/-- Groups of 16 columns in the item's column range. -/
def Geo.grps (g : Geo) : Nat := cdiv g.cols 16

/-! ### Operands (R75, R76) -/

/-- Effective exponent and mantissa integer of a finite G8 element (R76). -/
def g8Parts (x c : Nat) : Nat × Nat :=
  let e := c / 4 % 32
  (x + max e 1, if e = 0 then c % 4 else 4 + c % 4)

/-- X_ref of a token over its elements below COLS (R75). -/
def xrefOf (n : Nat) (codes exps : List Nat) : Nat :=
  ((codes.zipIdx).foldl (fun (m : Option Nat) y =>
    if y.2 < n && y.1 % 8 != 0 then some (max (m.getD 0) (exps.getD (y.2 / 32) 0)) else m) none).getD 127

/-- Z_ref of a token (R76). -/
def zrefOf (n : Nat) (codes exps : List Nat) : Nat :=
  ((codes.zipIdx).foldl (fun (m : Option Nat) y =>
    let c := y.1 % 128
    if y.2 < n && c != 0 && c < 0x7C then some (max (m.getD 0) (g8Parts (exps.getD (y.2 / 32) 0) c).1) else m) none).getD 145

/-- An aligned F4 operand (R75). -/
def alignF4 (ref x code : Nat) : Opnd :=
  let q := opInt .f4 code
  .fin (truncShift (q * 64) (ref - x))

/-- An aligned G8 operand (R76, R78). -/
def alignG8 (ref x code : Nat) : Opnd :=
  let neg := 128 ≤ code
  let c := code % 128
  if c = 0x7C then .inf neg
  else
    let (z, n) := g8Parts x c
    let v : Int := ((n * 256) >>> (ref - z) : Nat)
    .fin (if neg then -v else v)

/-- A product of a weight-gradient item, aligned (R345). -/
def gradOpnd (eref gx gcode sx scode : Nat) : Opnd :=
  let q := opInt .p2 scode
  let neg := 128 ≤ gcode
  let c := gcode % 128
  if c = 0x7C then (if q = 0 then .fin 0 else .inf (neg != (decide (q < 0))))
  else
    let (z, n) := g8Parts gx c
    let v := truncShift (q * n * 64) (eref - (z + sx))
    .fin (if neg then -v else v)

/-- Add an operand, or its negative, to a sub-accumulator: finite sums are exact (R74, R78). -/
def subAdd (u : Acc) (neg : Bool) (a : Opnd) : Acc :=
  match u, a with
  | .nan, _ => .nan
  | .fin x, .fin y => .fin (if neg then x - y else x + y)
  | .fin _, .inf n => .inf (n != neg)
  | .inf m, .inf n => infJoin m (n != neg)
  | .inf m, .fin _ => .inf m

/-! ### The prologue (R75, R76, R80, R88, R89, R92) -/

/-- The ranges of memory of a row of `n` elements from element `e` on: elements and exponents. -/
def rowCuts (f : BFmt) (base total e n : Nat) : List (Nat × Nat) :=
  [(base + f.elemBytes e, f.elemBytes n), (base + f.elemBytes total + e / 32, cdiv (e % 32 + n) 32)]

/-- Codes and exponent bytes of the rows read. -/
def rowsRead (f : BFmt) (n : Nat) : List (List Byte) → List (List Nat × List Nat)
  | a :: b :: l => ((List.range n).map (rowCode f a), b.map (·.toNat)) :: rowsRead f n l
  | _ => []

/-- The lanes of an item at its start. -/
def newLanes (g : Geo) (toks : Nat) : List Lane :=
  (List.range g.rows).map fun k =>
    { lane := k, row := g.row0 + k, rdGrp := 0, u := List.replicate toks (.fin 0), acc := List.replicate toks (.fin 0) }

/-- The row-table check of a reach's first TZ item of a tensor (R88, R89): the fault's address, if any. -/
def tableBad (h : WHdr) (first last : Nat) : Option Nat :=
  if first != 0 then some h.rowTable else if h.extent < last then some (h.rowTable + 4 * h.rows) else none

/-- ITEM_PROLOGUE of a matrix operation item. -/
def matPrologue (s : State) (t : Step) (r : ReachCtx) (i k : Nat) : State :=
  let d := descOf t i
  let h := headerAt s t (dfld d 64 111)
  let g := geoOf d k
  let a := reachAcc s t r.pos i
  let f := mFmt d
  let total := 32 * cdiv h.cols 32
  let cuts := ((List.range g.toks).map fun c =>
    rowCuts f (dfld d 128 175 + (g.tok0 + c) * dfld d 176 191 * 64) total g.col0 g.cols).flatten
  let tab := if h.fmt = 2 && !r.tabChecked.contains i then
    [(h.rowTable, 4), (h.rowTable + 4 * h.rows, 4)] else []
  match wideMany s { a with task := [0, k] } (tab ++ cuts) with
  | .stop s => s
  | .ok ls s =>
    let bad := match tab, ls with
      | _ :: _, x :: y :: _ => tableBad h (ofLe x) (ofLe y)
      | _, _ => none
    match bad with
    | some addr => reachFault s t r.pos i stIndexRange addr
    | none =>
      let acts := rowsRead f g.cols (ls.drop tab.length)
      if acts.any fun x => x.2.contains 255 then reachFault s t r.pos i stFormatInvalid (dfld d 128 175)
      else
        let n := h.cols - g.col0
        let refs := acts.map fun x => if mMode1 d then zrefOf n x.1 x.2 else xrefOf n x.1 x.2
        let item : Item := { idx := k, refs := refs, lanes := newLanes g g.toks, acts := acts, firstGrp := g.col0 / 16 }
        setReach s t.sid r.pos fun r => { r with desc := i, item := some item,
                                                 tabChecked := if tab.isEmpty then r.tabChecked else i :: r.tabChecked }

/-- Eref of one pair of a 32-row block and a 32-column block over the chunk's tokens (R345). -/
def erefOf (grads saves : List (List Nat × List Nat)) (gOff sOff rb cb : Nat) : Nat :=
  ((grads.zip saves).map fun x =>
    let zs := (List.range 32).filterMap fun k =>
      let c := x.1.1.getD (32 * rb + k) 0 % 128
      if c = 0 || 0x7C ≤ c then none else some (g8Parts (x.1.2.getD ((gOff + 32 * rb + k) / 32) 0) c).1
    let xs := (List.range 32).filterMap fun k =>
      if x.2.1.getD (32 * cb + k) 0 % 8 = 0 then none else some (x.2.2.getD ((sOff + 32 * cb + k) / 32) 0)
    if zs.isEmpty || xs.isEmpty then 0 else zs.foldl max 0 + xs.foldl max 0).foldl max 0

/-- ITEM_PROLOGUE of a weight-gradient item. -/
def gradPrologue (s : State) (t : Step) (r : ReachCtx) (i k : Nat) : State :=
  let d := descOf t i
  let g := geoOf d k
  let a := reachAcc s t r.pos i
  let gr0 := g.row0 / 2 * 2
  let gn := g.rows + (g.row0 - gr0)
  let gc := ((List.range g.toks).map fun c => rowCuts .g8 (dfld d 64 111 + (g.tok0 + c) * dfld d 112 127 * 64) (gradElems d)
    gr0 gn).flatten
  let sc := ((List.range g.toks).map fun c => rowCuts .p2 (dfld d 128 175 + (g.tok0 + c) * dfld d 176 191 * 64) (savedElems d)
    g.col0 g.cols).flatten
  match wideMany s { a with task := [0, k] } (gc ++ sc) with
  | .stop s => s
  | .ok ls s =>
    let grads := (rowsRead .g8 gn (ls.take gc.length)).map fun x => (x.1.drop (g.row0 - gr0), x.2)
    let saves := rowsRead .p2 g.cols (ls.drop gc.length)
    if (grads ++ saves).any (fun x => x.2.contains 255) || grads.any fun x => x.1.any fun c => 0x7C < c % 128 then
      reachFault s t r.pos i stFormatInvalid (dfld d 64 111)
    else
      let refs := ((List.range (tileNL (mCw d) / 32)).map fun rb => (List.range (tileC (mCw d) / 32)).map fun cb =>
        erefOf grads saves (g.row0 % 32) (g.col0 % 32) rb cb).flatten
      let item : Item := { idx := k, refs := refs, lanes := newLanes g g.cols, acts := grads, saved := saves }
      setReach s t.sid r.pos fun r => { r with desc := i, item := some item }

/-- ITEM_PROLOGUE (R92): a reach that is free starts its next item; none starts while a preemption is pending (R80). -/
def execItemPrologue (sid pos : Nat) (s : State) : Res :=
  match stepOf s sid with
  | none => .next s
  | some t =>
    match reachOf t pos with
    | none => .next s
    | some r =>
      if !stepRuns t || !unitGoes t (uReach pos) || r.item.isSome then .next s
      else match nextItem t r with
        | none => .next s
        | some (i, k) =>
          if !descReady s t i then .next s
          else if kindOf (descOf t i) = 0x11 then .next (gradPrologue s t r i k)
          else .next (matPrologue s t r i k)

/-! ### Windows (R83) -/

/-- Every lane of the item has finished a group. -/
def groupFinished (it : Item) (n : Nat) : Bool := it.lanes.all fun l => n < it.firstGrp + l.grp

/-- WINDOW_LOAD (R83, R88): the next window of 16 columns and all tokens. -/
def execWindowLoad (sid pos : Nat) (s : State) : Res :=
  match (stepOf s sid).bind fun t => (reachOf t pos).bind fun r => r.item.map fun it => (t, r, it) with
  | none => .next s
  | some (t, r, it) =>
    let d := descOf t r.desc
    let g := geoOf d it.idx
    let n := (it.wins.getLast?.map fun w => w.grp + 1).getD it.firstGrp
    if !reachWorks t pos || kindOf d != 0x10 || it.firstGrp + g.grps ≤ n || !(n < it.firstGrp + 4 || groupFinished it (n - 4)) then
      .next s
    else
      let h := headerAt s t (dfld d 64 111)
      let off := 16 * (n - it.firstGrp)
      let live (j : Nat) : Bool := 16 * n + j < h.cols
      if mMode1 d && it.acts.any fun x => (List.range 16).any fun j => live j && 0x7C < x.1.getD (off + j) 0 % 128 then
        .next (reachFault s t pos r.desc stFormatInvalid (dfld d 128 175))
      else
        let rows := (it.acts.zip it.refs).map fun x => (List.range 16).map fun j =>
          if !live j then Opnd.fin 0
          else if mMode1 d then alignG8 x.2 (x.1.2.getD ((off + j) / 32) 0) (x.1.1.getD (off + j) 0)
          else alignF4 x.2 (x.1.2.getD ((off + j) / 32) 0) (x.1.1.getD (off + j) 0)
        let wins := dropW (fun w => w.grp + 4 ≤ n) it.wins ++ [{ grp := n, rows := rows }]
        .next (setReach s sid pos fun r => { r with item := some { it with wins := wins } })

/-! ### Decoders (R82, R86, R88, R89) -/

/-- Change one lane of a reach's item. -/
def setLane (s : State) (sid p lane : Nat) (f : Lane → Lane) : State :=
  let g : Item → Item := fun it => { it with lanes := updW (fun l => l.lane == lane) f it.lanes }
  setReach s sid p fun r => { r with item := r.item.map g }

/-- What a decoder found: a place and the staged non-zeros, or a fault. -/
inductive Decoded where
  | ok (bytePos half : Nat) (trits : List (Nat × Bool))
  | bad (status : Nat)

/-- One TZ group of `n` columns from a place in the row's bytes. -/
def decodeTz (n bytePos half : Nat) (bytes : List Byte) : Decoded :=
  let syms := (nibbles bytes).drop half
  match tzGroup n 0 syms with
  | none => .bad stIndexRange
  | some (nz, rest) =>
    let used := half + (syms.length - rest.length)
    .ok (bytePos + used / 2) (used % 2) nz

/-- One T5 group: its trits from the bytes that hold them. -/
def decodeT5 (grp n : Nat) (bytes : List Byte) : Decoded :=
  match (bytes.mapM fun b => t5Trits b.toNat) with
  | none => .bad stFormatInvalid
  | some ts =>
    let l := (ts.flatten.drop (16 * grp % 5)).take n
    .ok 0 0 ((l.zipIdx.filter fun x => x.1 != 0).map fun x => (x.2, decide (x.1 < 0)))

/-- The bytes that a decoder reads for a group. -/
def groupCut (h : WHdr) (row grp bytePos endPos : Nat) : Nat × Nat :=
  if h.fmt = 1 then
    let n := min 16 (h.cols - 16 * grp)
    (h.data + row * t5RowBytes h.cols + 16 * grp / 5, (16 * grp + n - 1) / 5 + 1 - 16 * grp / 5)
  else (h.data + bytePos, min 9 (endPos - bytePos))

/-- Decode groups from `grp` up to `last`, staging only the last one (R82). -/
def decodeTo (s : State) (a : Acc3) (h : WHdr) (row endPos last : Nat) : Nat → Nat → Nat → Nat → Got Decoded
  | 0, _, _, _ => .ok (.bad stIndexRange) s
  | fuel + 1, grp, bp, hf =>
    let n := min 16 (h.cols - 16 * grp)
    let cut := groupCut h row grp bp endPos
    match wideHold s a [cut] with
    | .stop s => .stop s
    | .ok ls s =>
      let bs := ls.headD []
      match (if h.fmt = 1 then decodeT5 grp n bs else decodeTz n bp hf bs) with
      | .bad st => .ok (.bad st) s
      | .ok bp hf nz => if last ≤ grp then .ok (.ok bp hf nz) s else decodeTo s a h row endPos last fuel (grp + 1) bp hf

/-- The row's table entries at the start of a row (R82, R88): start and end, or a range fault. -/
def rowStart (s : State) (a : Acc3) (h : WHdr) (row : Nat) : Got (Option (Nat × Nat)) :=
  if h.fmt = 1 then .ok (some (0, 0)) s
  else match wideHold s a [(h.rowTable + 4 * row, 4), (h.rowTable + 4 * row + 4, 4)] with
    | .stop s => .stop s
    | .ok ls s =>
      let p := ofLe (ls.getD 0 [])
      let e := ofLe (ls.getD 1 [])
      .ok (if e < p || h.extent < e then none else some (p, e)) s

/-- The group cap of a tensor (R44). -/
def WHdr.k (h : WHdr) : Nat := h.cap + 1

/-- Decode the next group of a lane from the lane's place. The whole group is decoded before STRICT_CAP is judged, so that a group over its
cap and malformed after that reports its malformed status; R90 leaves the set detected open (DESIGN CHOICE, log entry 154). -/
def decodeNext (s : State) (t : Step) (p i : Nat) (h : WHdr) (it : Item) (l : Lane) : State :=
  let a := { reachAcc s t p i with task := [1, l.lane] }
  let grp := it.firstGrp + l.rdGrp
  let stage (s : State) (bp hf e : Nat) (nz : List (Nat × Bool)) : State :=
    setLane (endPiece s a) t.sid p l.lane fun l => { l with
      bytePos := bp, half := hf, endPos := e, rdGrp := l.rdGrp + 1, staged := l.staged ++ [{ grp := l.rdGrp, trits := nz }] }
  if h.cols ≤ 16 * grp then stage s l.bytePos l.half l.endPos []
  else
    let started : Got (Option (Nat × Nat)) := if l.rdGrp = 0 then rowStart s a h l.row else .ok (some (l.bytePos, l.endPos)) s
    match started with
    | .stop s => s
    | .ok none s => reachFault s t p i stIndexRange (h.rowTable + 4 * l.row)
    | .ok (some (bp, e)) s =>
      let from_ := if l.rdGrp = 0 && h.fmt = 2 then 0 else grp
      match decodeTo s a h l.row e grp (grp + 2) from_ bp (if l.rdGrp = 0 then 0 else l.half) with
      | .stop s => s
      | .ok (.bad st) s => reachFault s t p i st h.data
      | .ok (.ok bp hf nz) s =>
        if bitAt (descOf t i).toNat 10 && h.k < nz.length then reachFault s t p i stCapViolation h.data
        else stage s bp hf e nz

/-- DECODER_READ (R82): a lane's decoder reads its next group, up to two groups ahead of the lane. -/
def execDecoderRead (sid pos lane : Nat) (s : State) : Res :=
  match (stepOf s sid).bind fun t => (reachOf t pos).bind fun r => r.item.map fun it => (t, r, it) with
  | none => .next s
  | some (t, r, it) =>
    let d := descOf t r.desc
    match it.lanes.find? fun l => l.lane == lane with
    | none => .next s
    | some l =>
      if !reachWorks t pos || kindOf d != 0x10 || (geoOf d it.idx).grps ≤ l.rdGrp || l.grp + 2 < l.rdGrp then .next s
      else .next (decodeNext s t pos r.desc (headerAt s t (dfld d 64 111)) it l)

/-! ### Lane beats and folds (R74, R77, R78, R85, R91, R101) -/

/-- Events a group of `nz` non-zeros takes under cap k (R85). -/
def groupEvents (k nz : Nat) : Nat := nz + (if k < nz then 1 else 0)

/-- The non-zero that event b of a group applies, none for a spill-entry (R85). -/
def tritAt (k : Nat) (nz : List (Nat × Bool)) (b : Nat) : Option (Nat × Bool) :=
  if nz.length ≤ k then nz[b]? else if b < k then nz[b]? else if b = k then none else nz[b - 1]?

/-- Fold u into the accumulators with an S8 code (R77). -/
def foldCell (code : Nat) (u acc : Acc) : Acc :=
  match u with
  | .fin x =>
    let v := x * 2 ^ s8A code
    let w := x * 2 ^ s8C code
    accAdd acc (.fin (if s8D code then (if s8N code then v - w else v + w) else v))
  | y => accAdd acc y

def foldLane (code : Nat) (l : Lane) : Lane :=
  { l with acc := (l.u.zip l.acc).map fun x => foldCell code x.1 x.2, u := l.u.map fun _ => .fin 0 }

/-- A unit whose work another unit's fault ends stops with it (R90). -/
def haltWith (s : State) (sid unit with_ : Nat) : State :=
  match stepOf s sid with
  | some t => if unitGoes t unit then s else haltUnit s sid with_
  | none => s

/-- The scale stage reads and checks the code of a row and scale group, and the lane folds with it (R77, R110). -/
def foldAt (s : State) (t : Step) (p i : Nat) (h : WHdr) (l : Lane) (grp : Nat) : Got Lane :=
  let a := { scaleAcc s t p i with task := [2, l.lane] }
  let addr := h.scales + 2 * (l.row * h.groups + 16 * grp / h.g)
  match wideNum s a addr 2 with
  | .stop s => .stop (haltWith s t.sid uEpi (uReach p))
  | .ok c s =>
    if s8Valid h.eBase c then .ok (foldLane c l) s
    else .stop (unitFault s t a.src (uReach p) stFormatInvalid i addr)

/-- The load time f of a window (R91). -/
def loadTime (s : State) (t : Step) (p : Nat) (d : BitVec 512) : Nat :=
  let c := tileC (mCw d)
  let cols := 32 * cdiv (headerAt s t (dfld d 64 111)).cols 32
  if ownPool s t p (dfld d 128 175) (span (mTok d) (dfld d 176 191) ((mFmt d).rowBytes cols)) then 0
  else if mMode1 d then cdiv (16 * c + c / 2) 64 else cdiv (8 * c + c / 2) 64

/-- A lane passes over finished groups: its clock, the spill counts and the folds at scale-group boundaries (R77, R87, R91). -/
def settleLane (s : State) (t : Step) (p i : Nat) (h : WHdr) (lane grps f : Nat) : Nat → State
  | 0 => s
  | fuel + 1 =>
    match ((stepOf s t.sid).bind fun t => reachOf t p).bind fun r => r.item.bind fun it =>
        (it.lanes.find? fun l => l.lane == lane).map fun l => (it, l) with
    | none => s
    | some (it, l) =>
      match l.staged.find? fun x => x.grp == l.grp with
      | none => s
      | some g =>
        let nz := g.trits.length
        if !(it.wins.any fun w => w.grp == it.firstGrp + l.grp) || l.beat < groupEvents h.k nz then s
        else
          let fin4 := if l.grp < 4 then 0 else ((it.finish.find? fun x => x.1 == l.grp - 4).map (·.2)).getD 0
          let avail := max ((l.grp + 1) * f) fin4
          let r := if mMode1 (descOf t i) then 2 else 1
          let clock := max l.clock avail + r * groupEvents h.k nz
          let n := it.firstGrp + l.grp
          let folds := 16 * (n + 1) % h.g = 0 && l.grp + 1 < grps
          let got : Got Lane := if folds then foldAt s t p i h l n else .ok l s
          match got with
          | .stop s => s
          | .ok l s =>
            let l' : Lane := { l with grp := l.grp + 1, beat := 0, clock := clock,
                                      staged := dropW (fun x => x.grp == l.grp) l.staged }
            let fin := if it.finish.any fun x => x.1 == l.grp then
                updW (fun x => x.1 == l.grp) (fun x => (x.1, max x.2 clock)) it.finish
              else it.finish ++ [(l.grp, clock)]
            let it' : Item := { it with lanes := updW (fun x => x.lane == lane) (fun _ => l') it.lanes, finish := fin }
            let s := setReach s t.sid p fun r => { r with item := some it' }
            let s := if h.k < nz then setMat s t.sid i fun m =>
                { m with overCap := sat 32 (m.overCap + 1), spill := sat 32 (m.spill + (nz - h.k + 1)) } else s
            let s := if h.k < nz then
                let reach := stepReach s t p
                let tag := tagOfDesc t i
                count (count (count (count s 0 reach 0 3 1) 0 reach 0 2 (nz - h.k + 1)) 6 tag t.basin 2 1) 6 tag t.basin 3 (nz - h.k + 1)
              else s
            settleLane s t p i h lane grps f fuel

/-- Apply the lane's next event of its group: one non-zero, or a spill-entry beat. -/
def applyBeat (s : State) (t : Step) (p i : Nat) (h : WHdr) (it : Item) (l : Lane) : State :=
  match l.staged.find? fun x => x.grp == l.grp, it.wins.find? fun w => w.grp == it.firstGrp + l.grp with
  | some g, some w =>
    if groupEvents h.k g.trits.length ≤ l.beat then s
    else match tritAt h.k g.trits l.beat with
      | none => setLane s t.sid p l.lane fun l => { l with beat := l.beat + 1 }
      | some (c, neg) =>
        let u := (l.u.zip w.rows).map fun x => subAdd x.1 neg (x.2.getD c (.fin 0))
        let s := setLane s t.sid p l.lane fun l => { l with beat := l.beat + 1, u := u }
        let s := setMat s t.sid i fun m => { m with nz := (m.nz + 1) % 2 ^ 64 }
        count s 0 (stepReach s t p) 0 1 1
  | _, _ => s

/-- One token's products of a lane of a weight-gradient item (R345). -/
def gradBeat (s : State) (t : Step) (p : Nat) (it : Item) (l : Lane) : State :=
  let d := descOf t ((reachOf t p).elim 0 (·.desc))
  let g := geoOf d it.idx
  match it.acts[l.grp]?, it.saved[l.grp]? with
  | some gr, some sv =>
    let gx := gr.2.getD ((g.row0 % 32 + l.lane) / 32) 0
    let gc := gr.1.getD l.lane 0
    let u := l.u.zipIdx.map fun x =>
      let eref := it.refs.getD (l.lane / 32 * (tileC (mCw d) / 32) + x.2 / 32) 0
      subAdd x.1 false (gradOpnd eref gx gc (sv.2.getD ((g.col0 % 32 + x.2) / 32) 0) (sv.1.getD x.2 0))
    setLane s t.sid p l.lane fun l => { l with u := u, grp := l.grp + 1, clock := l.clock + 2 }
  | _, _ => s

/-- LANE_BEAT (R74, R85): the lane takes its next beat, then passes over the groups it has finished. -/
def execLaneBeat (sid pos lane : Nat) (s : State) : Res :=
  match (stepOf s sid).bind fun t => (reachOf t pos).bind fun r => r.item.map fun it => (t, r, it) with
  | none => .next s
  | some (t, r, it) =>
    let d := descOf t r.desc
    match it.lanes.find? fun l => l.lane == lane with
    | none => .next s
    | some l =>
      if !reachWorks t pos then .next s
      else if kindOf d = 0x11 then .next (gradBeat s t pos it l)
      else
        let h := headerAt s t (dfld d 64 111)
        let s := applyBeat s t pos r.desc h it l
        .next (settleLane s t pos r.desc h lane (geoOf d it.idx).grps (loadTime s t pos d) ((geoOf d it.idx).grps + 1))

/-! ### Joins (R84, R91, R345) -/

/-- The final folds of the lanes of an item (R77, R101). -/
def finalFolds (s : State) (t : Step) (p i : Nat) (h : WHdr) (n : Nat) : List Lane → Got (List Lane)
  | [] => .ok [] s
  | l :: ls =>
    match foldAt s t p i h l n with
    | .stop s => .stop s
    | .ok l s => match finalFolds s t p i h n ls with
      | .stop s => .stop s
      | .ok ls s => .ok (l :: ls) s

/-- The compute beats of a weight-gradient item (R345). -/
def gradBeats (s : State) (t : Step) (p : Nat) (d : BitVec 512) (toks : Nat) : Nat :=
  let nl := tileNL (mCw d)
  let c := tileC (mCw d)
  if ((gradRegions d).take 2).all fun a => ownPool s t p a.1 a.2 then 2 * toks
  else max (2 * toks) (cdiv (toks * (nl + nl / 32 + c / 2 + c / 32)) 64)

/-- The item has ended with these accumulators and exponents: the drain takes them and the reach is free. -/
def joined (s : State) (t : Step) (p i : Nat) (it : Item) (beats : Nat) (accs : List (Nat × List Acc)) (exps : List Nat)
    (products : Nat) : State :=
  let s := setReach s t.sid p fun r => { r with
    item := none
    drain := some { idx := it.idx, desc := i, accs := accs, exps := exps }
    doneItems := (i, itemsDone r i + 1) :: dropW (fun x => x.1 == i) r.doneItems }
  let s := setMat s t.sid i fun m => { m with beats := (m.beats + beats) % 2 ^ 64, products := (m.products + products) % 2 ^ 64 }
  let reach := stepReach s t p
  count (count s 0 reach 0 0 beats) 6 (tagOfDesc t i) t.basin 1 beats

/-- ITEM_JOIN (R84): the last lane has finished its last group, and the other accumulator is free of a drain. -/
def execItemJoin (sid pos : Nat) (s : State) : Res :=
  match (stepOf s sid).bind fun t => (reachOf t pos).bind fun r => r.item.map fun it => (t, r, it) with
  | none => .next s
  | some (t, r, it) =>
    let d := descOf t r.desc
    let g := geoOf d it.idx
    let back := kindOf d == 0x11
    let all_ := if back then g.toks else g.grps
    if !reachWorks t pos || r.drain.isSome || it.lanes.any fun l => l.grp < all_ then .next s
    else if back then
      .next (joined s t pos r.desc it (gradBeats s t pos d g.toks) (it.lanes.map fun l => (l.lane, l.u)) it.refs
        (g.rows * g.cols * g.toks))
    else
      let h := headerAt s t (dfld d 64 111)
      match finalFolds s t pos r.desc h (it.firstGrp + g.grps - 1) it.lanes with
      | .stop s => .next s
      | .ok ls s =>
        let ps := it.refs.map fun x => if mMode1 d then x else x + 18
        let beats := (ls.map (·.clock)).foldl max 0
        .next (joined s t pos r.desc it beats (ls.map fun l => (l.lane, l.acc)) ps 0)

/-! ### Drains (R81, R99, R346) -/

/-- The 65,792 bytes of a record: 16,384 containers, then 128 exponents (R81). -/
def recordBytes (nl c : Nat) (x : Drain) : List Byte :=
  ((List.range nl).map fun l =>
    let row := ((x.accs.find? fun a => a.1 == l).map (·.2)).getD []
    ((List.range c).map fun k => le 4 (((row[k]?).map accCode).getD 0)).flatten).flatten ++
    ((List.range 128).map fun k => le 2 (x.exps.getD k 0)).flatten

/-- The status record of a matrix descriptor (R99). -/
def matStatus (m : MatCtx) (tag : Nat) : List Byte :=
  le 8 m.nz ++ le 8 m.beats ++ le 4 m.overCap ++ le 4 m.spill ++ le 2 tag ++ List.replicate 6 0

/-- Every item of a matrix descriptor has drained: the stewards write its status record (R99), unless a fault has been
detected in the step (R90). -/
def matFinish (s : State) (sid i : Nat) : State :=
  match stepOf s sid with
  | none => s
  | some t =>
    let d := descOf t i
    match t.units.mats.find? fun m => m.desc == i with
    | none => s
    | some m =>
      if kindOf d != 0x10 || m.statusDone || m.drained != mItems d || !t.faults.isEmpty then s
      else match wideWrite s (stewAcc s t i) (dfld d 448 495) (matStatus m (dfld d 368 383)) with
        | .stop s => s
        | .ok _ s => setMat s sid i fun m => { m with statusDone := true }

/-- DRAIN_COMPLETE (R84): the record of the drained item is in memory. A drain that an eddy holds back goes on when the slot is
free (R190). -/
def execDrainComplete (sid pos : Nat) (s : State) : Res :=
  match (stepOf s sid).bind fun t => (reachOf t pos).bind fun r => r.drain.map fun x => (t, x) with
  | none => .next s
  | some (t, x) =>
    if !reachWorks t pos then .next s
    else
      let d := descOf t x.desc
      let addr := mPsum d + x.idx * recSize
      match wideWrite s { reachAcc s t pos x.desc with task := [3] } addr (recordBytes (tileNL (mCw d)) (tileC (mCw d)) x) with
      | .stop s => .next (setReach s sid pos fun r => { r with drain := r.drain.map fun y => { y with stalled := true } })
      | .ok _ s =>
        let s := setReach s sid pos fun r => { r with drain := none }
        let s := setMat s sid x.desc fun m => { m with drained := m.drained + 1 }
        let reach := stepReach s t pos
        let s := count (count s 0 reach 0 4 1) 0 reach 0 0 (if ownPool s t pos addr recSize then 65 else 1028)
        let s := count s 6 (tagOfDesc t x.desc) t.basin 0 1
        .next (matFinish s sid x.desc)

/-! ### The stop of a faulting step (R71, R90, R185) -/

/-- The bytes that a write will replace, piece by piece; what lies in an eddy has been taken up and is not kept. -/
def bytesBefore (s : State) (t : Step) (l : List (Nat × List Byte)) : List (Nat × List Byte) :=
  (l.filter fun x => (eddyAt t x.1).isNone).map fun x => (x.1, (List.range x.2.length).map fun k => BitVec.ofNat 8 (peek s t (x.1 + k) 1))

/-- A step is discarded on reading pages already poisoned when it was formed: MEM.POISONED is raised for each (R237). A page found
poisoned during the step raised it then. -/
def raiseWeights (s : State) (t : Step) : State :=
  let ps := ((t.faults.filter fun f => f.status == stWeightPoisoned).map fun f =>
    let p := f.addr / 4096
    [p, viewPage s t p]).flatten.eraseDups
  (s.tiers.pages.filter fun e => e.basin == t.basin && e.poison && e.poisonAt < t.formT && ps.contains e.page).foldl
    (fun s e => raisePoisoned s e 0) s

/-- STEP_FAULT (R90): the steward stops every unit of a step in which a fault has been detected; its outputs are discarded, sums
added to GACC among them (log entry 96), and the job's windows close and its pools are cleared (R71, R185, R203). A read of poisoned
data ends the job (R236). The step reports the status that ranks first (R72, R150, R199, R238). -/
def execStepFault (sid : Nat) (s : State) : Res :=
  match stepOf s sid with
  | none => .next s
  | some t =>
    if t.faults.isEmpty || t.stopped then .next s
    else
      let s := stopStep s t (worstStatus t.faults)
      let hit := (t.faults.filter fun f => f.status == stDataPoisoned).map fun f => f.addr / 4096
      if worstStatus t.faults = stDataPoisoned then .next (endPoisoned s t hit)
      else if worstStatus t.faults = stWeightPoisoned then .next (raiseWeights s t)
      else .next s

end Sys2Proof.Machine
end

