-- ==== Sys2Proof/Machine/Epilogue.lean ====
section
/-! DEFINITION. The confluence adders and the epilogue: chunk trees, row merges, slice trees, scale, bias, activation, narrowing
with replay and escape, and the counter area (R100 to R119, R155 to R159, R168, R557). -/

namespace Sys2Proof.Machine

/-! ### Riffle generators (R155, R159, R168) -/

/-- One step of a generator: its output bit and its next state (R155). -/
def lfsrStep (st : Nat) : Nat × Nat :=
  let o := st % 2
  (o, if o = 1 then (st / 2) ^^^ 0x80200003 else st / 2)

/-- A number of steps. -/
def lfsrSkip : Nat → Nat → Nat
  | 0, st => st
  | n + 1, st => lfsrSkip n (lfsrStep st).2

/-- A value of `w` bits: the first step's output is bit 0. -/
def lfsrDraw : Nat → Nat → Nat × Nat
  | 0, st => (0, st)
  | w + 1, st =>
    let (o, st) := lfsrStep st
    let (v, st) := lfsrDraw w st
    (o + 2 * v, st)

/-- The start state of a descriptor's stream (R159). -/
def startState (seed tag : Nat) : Nat :=
  let x := seed ^^^ (tag * 0x9E3779B9 % 2 ^ 32)
  if x = 0 then seed else x

/-- The start state of a generator of a stream record of a step: 0 for GA, 1 for GB, 2 for GS. DESIGN CHOICE (log entry 124): the
record is read from memory whenever a stream or a draw needs it, as it stands there then (R157). -/
def genStart (s : State) (t : Step) (stream tag which : Nat) : Nat :=
  let g := fld (streamRec s t stream) (16 + 10 * which) (25 + 10 * which)
  startState (t.units.seeds.getD g 0) tag

/-- The rounding draw of an element (R168). -/
def roundDraw (start e : Nat) : Nat := (lfsrDraw 16 (lfsrSkip (16 * e) start)).1

/-! ### Records and leaves (R81, R106, R557) -/

/-- The item whose record holds tensor row, token and chunk of a matrix descriptor (R80). -/
def leafItem (m : BitVec 512) (row tok kc : Nat) : Nat :=
  (row / tileNL (mCw m) * mNtt m + tok / tileC (mCw m)) * mNk m + kc

/-- The steward of the tributary whose reach ran an item: its adders compute the nodes whose lowest leaf that item gives
(R106). -/
def itemSteward (s : State) (t : Step) (m : BitVec 512) (k : Nat) : Nat :=
  srcSteward (stepReach s t (mFirst m + k % mCount m) / 16)

def adderAcc (s : State) (t : Step) (m : BitVec 512) (i low : Nat) : Acc3 :=
  { sid := t.sid, src := itemSteward s t m low, unit := uAdder, desc := i }
def epiAcc (s : State) (t : Step) (i : Nat) : Acc3 := { sid := t.sid, src := stepSteward s t, unit := uEpi, desc := i }

/-- Item k of matrix descriptor i has drained. -/
def itemDrained (t : Step) (i k : Nat) : Bool :=
  let d := descOf t i
  (reachOf t (mFirst d + k % mCount d)).any fun r =>
    k / mCount d < itemsDone r i && !(r.drain.any fun x => x.desc == i && x.idx == k)

/-- The record of an item may be read by an epilogue descriptor (R557). -/
def recordReady (t : Step) (d : BitVec 512) (k : Nat) : Bool :=
  match matIndex t d with
  | some i =>
    if mEpi (descOf t i) != 0 then itemDrained t i k
    else t.units.mats.any fun m => m.desc == i && m.drained == mItems (descOf t i)
  | none => true

/-- The bytes of a record for a consuming descriptor, read once by the adders named. -/
def recordRead (s : State) (t : Step) (a : Acc3) (i psum k : Nat) (ready : Bool) : Got (Option (List Byte)) :=
  match t.units.records.find? fun x => x.1 == i && x.2.1 == k with
  | some x => .ok (some x.2.2) s
  | none =>
    if !ready then .ok none s
    else match wideRead s { a with task := [k] } (psum + k * recSize) recSize with
      | .stop s => .stop s
      | .ok bs s => .ok (some bs) (setUnits s t.sid fun u => { u with records := u.records ++ [(i, k, bs)] })

/-- A value of a record: lane L, token c (R60, R81). -/
def recordVal (c l k : Nat) (bs : List Byte) : PSum :=
  let w := ofLe ((bs.drop (4 * (l * c + k))).take 4)
  { v := accOf w, p := ofLe ((bs.drop (65536 + 2 * k)).take 2) }

/-- The leaf of the chunk tree of a tensor row and token (R100 stage 3), for an addition whose lowest leaf is item `low`. -/
def leafVal (s : State) (t : Step) (i : Nat) (m : BitVec 512) (low row tok kc : Nat) : Got (Option PSum) :=
  let nl := tileNL (mCw m)
  let c := tileC (mCw m)
  let k := leafItem m row tok kc
  match recordRead s t (adderAcc s t m i low) i (mPsum m) k (recordReady t (descOf t i) k) with
  | .stop s => .stop s
  | .ok none s => .ok none s
  | .ok (some bs) s => .ok (some (recordVal c (row % nl) (tok % c) bs)) s

/-- A node's value that has been computed or has arrived. -/
def nodeVal (t : Step) (i tok row : Nat) (n : CNode) : Option PSum :=
  (t.units.sums.find? fun x => x.epi == i && x.tok == tok && x.row == row && x.node == n).map (·.sum)

def putNode (s : State) (sid i tok row : Nat) (n : CNode) (v : PSum) : State :=
  setUnits s sid fun u => { u with sums := u.sums ++ [{ epi := i, tok := tok, row := row, node := n, sum := v }] }

/-! ### Output rows (R107) -/

/-- Output rows in order, `left` tensor rows from row r: the first tensor row (counted from ROW0) and the number
of sub-rows. -/
def outRows (row0 : Nat) (l : List (Nat × Nat × Nat)) : Nat → Nat → Nat → List (Nat × Nat)
  | 0, _, _ => []
  | _ + 1, 0, _ => []
  | fuel + 1, left + 1, r =>
    match l.find? fun x => x.1 == row0 + r with
    | some x => (r, x.2.1) :: outRows row0 l fuel (left + 1 - x.2.1) (r + x.2.1)
    | none => (r, 1) :: outRows row0 l fuel left (r + 1)

/-- The output rows of an epilogue descriptor. -/
def epiRows (s : State) (t : Step) (i : Nat) : List (Nat × Nat) :=
  let m := matOf s t (descOf t i)
  outRows (mRow0 m) (mergeList s t (descOf t i)) (mRows m) (mRows m) 0

/-! ### The slice tree (R108) -/

/-- The number of leaves below the largest node whose lowest leaf is `lo`. -/
def ownSpan : Nat → Nat → Nat → Nat → Nat
  | 0, _, n, _ => n
  | k + 1, a, n, lo =>
    if lo = a || n ≤ 1 then n
    else
      let p := (confSplit a n).1.2
      if lo < a + p then ownSpan k a p lo else ownSpan k (a + p) (n - p) lo

/-- The lowest leaf of the node whose right child starts at `lo`. -/
def parentLeaf : Nat → Nat → Nat → Nat → Nat
  | 0, a, _, _ => a
  | k + 1, a, n, lo =>
    let p := (confSplit a n).1.2
    if n ≤ 1 || lo = a + p then a
    else if lo < a + p then parentLeaf k a p lo else parentLeaf k (a + p) (n - p) lo

/-- The slice's length on an axis that an axis mask reduces, 1 otherwise, and this module's coordinate. -/
def axisLen (s : State) (b axes k : Nat) : Nat := if bitAt axes k then (sliceOf s b).elim 1 fun x => sliceLen x k else 1
def axisPos (s : State) (b axes k : Nat) : Nat := if bitAt axes k then (sliceOf s b).elim 0 fun x => sliceCoord s x k else 0

/-- The first reduced axis on which this module is not at coordinate 0. -/
def stopAxis (s : State) (b axes : Nat) : Option Nat := [0, 1, 2].find? fun k => axisPos s b axes k != 0

/-- This module's own coordinates. -/
def ownCoord (s : State) (b k : Nat) : Nat := (sliceOf s b).elim 0 fun x => sliceCoord s x k

/-- The coordinates of the module on axis k at c, and this module's on the others. -/
def coordsAt (s : State) (b k c : Nat) : Nat × Nat × Nat :=
  let f := fun j => if j = k then c else ownCoord s b j
  (f 0, f 1, f 2)

/-- The other modules of the group that a mask of axes reduces. -/
def groupMates (s : State) (b axes : Nat) : List (Nat × Nat × Nat) :=
  let r := fun k => if bitAt axes k then List.range (axisLen s b axes k) else [ownCoord s b k]
  let me := (ownCoord s b 0, ownCoord s b 1, ownCoord s b 2)
  (((r 0).map fun x => (r 1).map fun y => (r 2).map fun z => (x, y, z)).flatten.flatten).filter fun c => c != me

/-! ### Roots (R100) -/

/-- A child of a node: a leaf where it has one leaf, else a computed node. -/
def childVal (t : Step) (i tok row stage : Nat) (x : Nat × Nat) (leaf : State → Nat → Got (Option PSum)) (s : State) :
    Got (Option PSum) :=
  if x.2 = 1 then leaf s x.1 else .ok (nodeVal t i tok row { stage := stage, lo := x.1, n := x.2 }) s

/-- The root of the chunk tree of a tensor row and token. -/
def chunkRoot (t : Step) (i : Nat) (m : BitVec 512) (low row tok : Nat) (s : State) : Got (Option PSum) :=
  childVal t i tok row 0 (0, mNk m) (fun s kc => leafVal s ((stepOf s t.sid).getD t) i m low row tok kc) s

/-- The root of the row merge of an output row. -/
def mergeRoot (t : Step) (i : Nat) (m : BitVec 512) (rows : List (Nat × Nat)) (o tok : Nat) (s : State) : Got (Option PSum) :=
  let r := rows.getD o (0, 1)
  childVal t i tok o 1 (0, r.2) (fun s j => chunkRoot t i m (leafItem m r.1 tok 0) (r.1 + j) tok s) s

/-- The value of an output row after the axes below k. -/
def axisRoot (t : Step) (i : Nat) (m : BitVec 512) (rows : List (Nat × Nat)) (o tok : Nat) : Nat → State → Got (Option PSum)
  | 0, s => mergeRoot t i m rows o tok s
  | k + 1, s =>
    let axes := eAxes (descOf t i)
    let len := axisLen s t.basin axes k
    let c := axisPos s t.basin axes k
    childVal t i tok o (2 + k) (c, ownSpan len 0 len c) (fun s _ => axisRoot t i m rows o tok k s) s

/-- The leaves of a stage of a value's tree: chunks, sub-rows, or modules along an axis. -/
def stageLen (s : State) (t : Step) (epi row stage : Nat) : Nat :=
  let d := descOf t epi
  if stage = 0 then mNk (matOf s t d) else if stage = 1 then ((epiRows s t epi).getD row (0, 1)).2 else axisLen s t.basin (eAxes d) (stage - 2)

/-- The rows of a stage: tensor rows from ROW0 in stage 0, output rows in the others. -/
def stageRows (s : State) (t : Step) (epi stage : Nat) : Nat :=
  if stage = 0 then mRows (matOf s t (descOf t epi)) else (epiRows s t epi).length

/-- The item that gives the lowest leaf of a node. -/
def nodeItem (s : State) (t : Step) (epi tok row : Nat) (node : CNode) : Nat :=
  let m := matOf s t (descOf t epi)
  if node.stage = 0 then leafItem m row tok node.lo
  else leafItem m (((epiRows s t epi).getD row (0, 1)).1 + (if node.stage = 1 then node.lo else 0)) tok 0

/-- One addition of one value's tree (R103 to R108). A node of axis k is formed by the modules at coordinate 0 of the reduced axes below
k: the others have sent their values there (R108). -/
def addNode (t : Step) (epi tok row : Nat) (node : CNode) (s : State) : State :=
  let sid := t.sid
  let d := descOf t epi
  let m := matOf s t d
  let rows := epiRows s t epi
  let k := node.stage - 2
  let len := stageLen s t epi row node.stage
  let axes := eAxes d
  let here := node.stage < 2 ||
    (node.lo == axisPos s t.basin axes k && (List.range k).all fun j => axisPos s t.basin axes j == 0)
  let first := (rows.getD row (0, 1)).1
  let low := nodeItem s t epi tok row node
  let known := row < stageRows s t epi node.stage && tok < mTok m && node.stage ≤ 4
  if !unitGoes t uAdder || kindOf d != 0x20 || !known || node.n < 2 || !confNode (len + 1) node.lo node.n 0 len || !here ||
      (nodeVal t epi tok row node).isSome then s
  else
    let leaf (s : State) (j : Nat) : Got (Option PSum) :=
      if node.stage = 0 then leafVal s ((stepOf s sid).getD t) epi m low row tok j
      else if node.stage = 1 then chunkRoot t epi m low (first + j) tok s
      else if j = node.lo then axisRoot t epi m rows row tok k s
      else .ok (nodeVal t epi tok row { stage := node.stage, lo := j, n := 1 }) s
    let c := confSplit node.lo node.n
    match childVal t epi tok row node.stage c.1 leaf s with
    | .ok (some x) s =>
      match childVal t epi tok row node.stage c.2 leaf s with
      | .ok (some y) s => putNode s sid epi tok row node (confAdd x y)
      | .ok none s => s
      | .stop s => s
    | .ok none s => s
    | .stop s => s

/-- The tributary whose adders compute a node (R106). -/
def adderTrib (s : State) (t : Step) (epi tok row : Nat) (node : CNode) : Nat :=
  let m := matOf s t (descOf t epi)
  stepReach s t (mFirst m + nodeItem s t epi tok row node % mCount m) / 16

/-- The additions of an epilogue descriptor in a tributary's adders. -/
def epiAdds (s : State) (trib : Nat) (t : Step) (epi : Nat) : List (State → State) :=
  let m := matOf s t (descOf t epi)
  let nodes (k row : Nat) : List CNode :=
    let n := stageLen s t epi row k
    ((List.range n).map fun lo => (List.range (n + 1)).map fun c => ({ stage := k, lo := lo, n := c } : CNode)).flatten
  let at_ (tok k row : Nat) := ((nodes k row).filter fun x => adderTrib s t epi tok row x == trib).map (addNode t epi tok row)
  ((List.range (mTok m)).map fun tok => ((List.range 5).map fun k =>
    ((List.range (stageRows s t epi k)).map (at_ tok k)).flatten).flatten).flatten

/-- The additions of a step in a tributary's adders. -/
def addTiles (s : State) (trib : Nat) (t : Step) : List (State → State) :=
  (((List.range t.descs.length).filter fun i => kindOf (descOf t i) == 0x20).map (epiAdds s trib t)).flatten

/-- CONFLUENCE_ADD (R103 to R108, R399): one addition. `row` counts tensor rows from ROW0 in stage 0 and output rows in the others. -/
def execConfluenceAdd (sid epi tok row : Nat) (node : CNode) (s : State) : Res :=
  match (stepOf s sid).filter stepRuns with
  | none => .next s
  | some t =>
    let trib := adderTrib s t epi tok row node
    .next (byTurn s t trib 4 (addTiles s trib) (addNode t epi tok row node))

/-! ### Stages 1 to 3 (R110 to R114) -/

/-- Stage 1 (R111): the tensor scale and the output scale, one rounding. -/
def scaleStage (d : BitVec 512) (eBase : Int) (x : PSum) : BitVec 32 :=
  match x.v with
  | .nan => 0x7FC00000
  | .inf n => toF32 (.inf n)
  | .fin v => narrow32 (mulS8 (fvalOf v ((x.p : Int) - 152 + eBase)) (signed 8 (dfld d 64 71)) (dfld d 48 63))

/-- Largest integer not above m × 2^k with its sign. -/
def floorAt (neg : Bool) (m : Nat) (k : Int) : Int :=
  if 0 ≤ k then (if neg then -1 else 1) * (shlI m k : Int)
  else
    let q := m >>> (-k).toNat
    if neg then (if m % 2 ^ (-k).toNat = 0 then -(q : Int) else -(q : Int) - 1) else q

/-- GELU and SiLU by table (R114), from the table's bytes. -/
def tableAct (tab : List Byte) (x : BitVec 32) : BitVec 32 :=
  let wsh := signed 8 (ofLe (tab.take 1))
  let tb := signed 8 (ofLe ((tab.drop 1).take 1))
  match ofF32 x with
  | .fin neg m e =>
    let i := floorAt neg m (e - wsh) + 32
    if i < 0 then 0
    else if 64 ≤ i then x
    else
      let w := ofLe ((tab.drop (16 + 8 * i.toNat)).take 8)
      let b := BitVec.ofNat 32 (fld w 32 63)
      let p := if bitAt w 11 then FVal.fin neg 0 0 else
        (let q := mulS8 (.fin neg m e) tb (fld w 0 9)
         if bitAt w 10 then negV q else q)
      f32Add (toF32 p) b
  | _ => x

/-- Stage 3 (R113). -/
def actStage (actf : Nat) (tab : List Byte) (x : BitVec 32) : BitVec 32 :=
  match ofF32 x with
  | .fin neg m _ =>
    if actf = 0 then x
    else if actf = 1 then (if neg || m = 0 then 0 else x)
    else if actf = 2 then (if neg || m = 0 then 0 else f32Mul x x)
    else tableAct tab x
  | _ => x

/-! ### Narrowing, replay and escape (R115 to R118) -/

/-- A block narrowed at an exponent: codes, saturated and zeroed elements. -/
structure Narrow where
  codes : List Nat
  x : Nat
  nsat : Nat
  nzero : Nat

def narrow (f : BFmt) (vs : List FVal) (draws : List (Option Nat)) (x : Nat) : Narrow where
  codes := (vs.zip draws).map fun v => elemCode f x v.1 v.2
  x := x
  nsat := (vs.filter fun v => elemSat f x v).length
  nzero := ((vs.zip draws).filter fun v => elemZero f x v.1 v.2).length

/-- The passes of R117: the block as written, whether it was replayed and whether it escaped. -/
def narrowBlock (f : BFmt) (fixed : Option Nat) (satTh zeroTh : Nat) (vs : List FVal) (draws : List (Option Nat)) :
    Narrow × Bool × Bool :=
  let xf := fitExp f vs
  let x := fixed.getD xf
  let n1 := narrow f vs draws x
  let trips := fun n : Narrow => decide (satTh < n.nsat) || decide (zeroTh < n.nzero)
  if trips n1 then
    let x2 := if satTh < n1.nsat then (if x < xf then xf else min (x + 1) 254) else (if xf < x then xf else x - 1)
    let n2 := narrow f vs draws x2
    (n2, true, trips n2)
  else (n1, false, false)

/-- The flags SAT_INF and SAT_NAN of a block (R64). -/
def satFlags (vs : List FVal) : Nat :=
  b2n (vs.any fun v => match v with
    | .inf _ => true
    | _ => false) +
  2 * b2n (vs.any fun v => match v with
    | .nan => true
    | _ => false)

/-- Replace or append one column's counts (R119). -/
def addCol (l : List (Nat × Nat × Nat × Nat × Nat)) (b sc zc ec fl : Nat) : List (Nat × Nat × Nat × Nat × Nat) :=
  match l.find? fun x => x.1 == b with
  | some (_, a, z, e, f) =>
    updW (fun x => x.1 == b) (fun _ => (b, sat 16 (a + sc), sat 16 (z + zc), sat 16 (e + ec), f ||| fl)) l
  | none => l ++ [(b, sc, zc, ec, fl)]

def epiOf (t : Step) (i : Nat) : Option EpiCtx := t.units.epis.find? fun e => e.desc == i

def setEpi (s : State) (sid i : Nat) (f : EpiCtx → EpiCtx) : State :=
  setUnits s sid fun u => { u with epis := updW (fun e => e.desc == i) f u.epis }

/-- The axes whose sums this module's roots hold: those below the first reduced axis on which it is not at coordinate 0, and
that one, whose largest own node it sends on (R108). -/
def rootAxes (s : State) (b axes : Nat) : Nat := ((stopAxis s b axes).map (· + 1)).getD 3

/-- The roots of consecutive output rows of a token. -/
def blockRoots (t : Step) (i : Nat) (m : BitVec 512) (rows : List (Nat × Nat)) (tok : Nat) : List Nat → State → Got (Option (List PSum))
  | [], s => .ok (some []) s
  | o :: l, s =>
    match axisRoot t i m rows o tok (rootAxes s t.basin (eAxes (descOf t i))) s with
    | .stop s => .stop s
    | .ok none s => .ok none s
    | .ok (some x) s =>
      match blockRoots t i m rows tok l s with
      | .stop s => .stop s
      | .ok none s => .ok none s
      | .ok (some r) s => .ok (some (x :: r)) s

/-- Bias and table bytes of a block (R112, R114). -/
def epiSide (s : State) (t : Step) (a : Acc3) (i o n : Nat) : Got (List Byte × List Byte) :=
  let d := descOf t i
  let w := if bitAt d.toNat 18 then 2 else 4
  let bias := if bitAt d.toNat 17 then [(dfld d 144 191 + w * o, w * n)] else [(0, 0)]
  let tab := if dfld d 256 303 = 0 then [(0, 0)] else [(dfld d 256 303, 528)]
  match wideHold s a (bias ++ tab) with
  | .stop s => .stop s
  | .ok ls s => .ok (ls.getD 0 [], ls.getD 1 []) s

/-- Stages 1 to 3 of a block. -/
def stageValues (d : BitVec 512) (eBase : Int) (roots : List PSum) (bias tab : List Byte) : List (BitVec 32) :=
  roots.zipIdx.map fun x =>
    let y := scaleStage d eBase x.1
    let y := if bitAt d.toNat 17 then
        (let b := if bitAt d.toNat 18 then toF32 (ofBf16 (ofLe ((bias.drop (2 * x.2)).take 2)))
           else BitVec.ofNat 32 (ofLe ((bias.drop (4 * x.2)).take 4))
         f32Add y b)
      else toF32 (ofF32 y)
    actStage (eActf d) tab y

/-- The format of a block output. -/
def blkFmt (ofmt : Nat) : Option BFmt :=
  match ofmt with
  | 0 => some .f4
  | 1 => some .p2
  | 2 => some .g8
  | _ => none

/-- The bytes of a block's values in BF16 or F32 (R63, R115). -/
def plainBytes (ofmt : Nat) (vs : List (BitVec 32)) : List Byte :=
  (vs.map fun v => if ofmt = 3 then le 2 (toBf16 (ofF32 v)) else le 4 (toF32 (ofF32 v)).toNat).flatten

/-- Where a block of an output row lies: each range with its bytes. -/
def blockOut (ofmt base oc blk : Nat) (codes : List Nat) (x : Nat) (plain : List Byte) : List (Nat × List Byte) :=
  match blkFmt ofmt with
  | some f => [(base + f.elemBytes (32 * blk), packCodes f codes), (base + f.elemBytes oc + blk, [BitVec.ofNat 8 x])]
  | none => [(base + (if ofmt = 3 then 64 else 128) * blk, plain)]

/-- Send finished bytes of a descriptor to other modules (R108, R146). -/
def sendResult (s : State) (b sid : Nat) (mates : List (Nat × Nat × Nat)) (desc area base : Nat) (l : List (Nat × List Byte)) : State :=
  let fs := (mates.map fun c => l.map fun x => LmFrame.result c.1 c.2.1 c.2.2 desc area (x.1 - base) x.2).flatten
  sendUnits s b (unitJob s sid) fs

/-- A module that is not the root sends its roots of a block toward the root (R108, log entry 33). -/
def sendRoots (s : State) (t : Step) (i tok blk k : Nat) (roots : List PSum) : State :=
  let axes := eAxes (descOf t i)
  let c := axisPos s t.basin axes k
  let len := axisLen s t.basin axes k
  let (x, y, z) := coordsAt s t.basin k (parentLeaf len 0 len c)
  let fs := roots.zipIdx.map fun r =>
    LmFrame.sum x y z i tok (32 * blk + r.2) (BitVec.ofNat 25 (accCode r.1.v)) r.1.p
  setEpi (sendUnits s t.basin (unitJob s t.sid) fs) t.sid i fun e => { e with done := e.done ++ [(tok, blk)] }

/-! ### The shoal coder (R20, R33 step 15) -/

/-- The zero runs of some bytes: each byte that is not 0 with the zeros before it, then the zeros at the end. -/
def zeroRuns : Nat → List Byte → List (Nat × Byte) × Nat
  | n, [] => ([], n)
  | n, b :: l =>
    if b = 0 then zeroRuns (n + 1) l
    else ((n, b) :: (zeroRuns 0 l).1, (zeroRuns 0 l).2)

/-- The bytes of zero runs. -/
def expandRuns (r : List (Nat × Byte) × Nat) : List Byte :=
  (r.1.map fun p => List.replicate p.1 0 ++ [p.2]).flatten ++ List.replicate r.2 0

/-- A layer output passes the shoal coder, which compresses it as zero runs (R33 step 15). The spec gives the runs no format, and a reader
meets the bytes of R117 (DESIGN CHOICE, log entry 141). -/
def shoal (l : List (Nat × List Byte)) : List (Nat × List (Nat × Byte) × Nat) := l.map fun p => (p.1, zeroRuns 0 p.2)

/-- The bytes that a reader of shoaled output meets. -/
def unshoal (l : List (Nat × List (Nat × Byte) × Nat)) : List (Nat × List Byte) := l.map fun p => (p.1, expandRuns p.2)

/-- One block of the root's epilogue, from its roots (R110 to R118). -/
def runBlock (s : State) (t : Step) (i tok blk oc : Nat) (m : BitVec 512) (roots : List PSum) : State :=
  let d := descOf t i
  let a := { epiAcc s t i with task := [tok, blk] }
  match epiSide s t a i (32 * blk) roots.length with
  | .stop s => s
  | .ok (bias, tab) s =>
    let vs := stageValues d (headerAt s t (dfld m 64 111)).eBase roots bias tab
    let fs := vs.map ofF32
    let sr := bitAt d.toNat 16
    let st := genStart s t (dfld d 464 479) (dfld m 368 383) 0
    let draws := (List.range vs.length).map fun k => if sr then some (roundDraw st (tok * oc + 32 * blk + k)) else none
    let fixed := if bitAt d.toNat 15 then some (dfld d 24 31) else none
    let f := (blkFmt (eOfmt d)).getD .f4
    let (n, replay, esc) := narrowBlock f fixed (dfld d 32 37) (dfld d 40 45) fs draws
    let narrowOut := (blkFmt (eOfmt d)).isSome
    let packed := shoal (blockOut (eOfmt d) (eOut d + tok * dfld d 240 255 * 64) oc blk n.codes n.x (plainBytes (eOfmt d) vs))
    let out := unshoal packed
    match wideWriteMany s a out with
    | .stop s => s
    | .ok _ s =>
      let s := if bitAt d.toNat 19 then sendResult s t.basin t.sid (groupMates s t.basin (eAxes d)) i 0 (eOut d) out else s
      let flags := if !narrowOut then 0 else satFlags fs + (if !esc then 0 else if eOfmt d = 2 then 8 else 4)
      let wide := fitBlock .g8 fs
      setEpi s t.sid i fun e =>
        let e := { e with done := e.done ++ [(tok, blk)], runs := e.runs ++ packed.filter fun p => p.1 < tieredBase }
        if !narrowOut then e
        else { e with
          replays := sat 32 (e.replays + b2n replay)
          flags := e.flags ||| flags
          cols := addCol e.cols blk n.nsat n.nzero (b2n esc) flags
          escapes := if esc then e.escapes ++ [{ tok := tok, blk := blk, flags := flags, elems := wide.1, x := wide.2,
                                                 record := eOfmt d != 2 }] else e.escapes }

/-- A block of an epilogue descriptor whose roots are all available (R110, R117). -/
def epiBlock (t : Step) (e : EpiCtx) (epi tok blk : Nat) (s : State) : State :=
  let d := descOf t epi
  let m := matOf s t d
  let rows := epiRows s t epi
  let oc := rows.length
  if !unitGoes t uEpi || e.finished || mTok m ≤ tok || cdiv oc 32 ≤ blk || e.done.contains (tok, blk) || !descReady s t epi then s
  else match blockRoots t epi m rows tok ((List.range (min 32 (oc - 32 * blk))).map (· + 32 * blk)) s with
    | .stop s => s
    | .ok none s => s
    | .ok (some roots) s =>
      match stopAxis s t.basin (eAxes d) with
      | some k => sendRoots s t epi tok blk k roots
      | none => runBlock s t epi tok blk oc m roots

/-- The blocks of a step in a tributary's epilogue unit. -/
def epiTiles (s : State) (trib : Nat) (t : Step) : List (State → State) :=
  if unitTrib s t != trib then []
  else (t.units.epis.map fun e => ((List.range (mTok (matOf s t (descOf t e.desc)))).map fun tok =>
    (List.range (cdiv (epiRows s t e.desc).length 32)).map fun blk => epiBlock t e e.desc tok blk).flatten).flatten

/-- EPILOGUE_BLOCK (R110, R117, R120, R399): one block whose roots are all available. -/
def execEpilogueBlock (sid epi tok blk : Nat) (s : State) : Res :=
  match ((stepOf s sid).filter stepRuns).bind fun t => (epiOf t epi).map fun e => (t, e) with
  | none => .next s
  | some (t, e) => .next (byTurn s t (unitTrib s t) 2 (epiTiles s (unitTrib s t)) (epiBlock t e epi tok blk))

/-! ### The end of an epilogue (R118, R119) -/

/-- Order escapes by token, then block (R118). -/
def escapeOrder (l : List Escape) : List Escape := sortBy (fun a b => a.tok < b.tok || (a.tok == b.tok && a.blk ≤ b.blk)) l

/-- An escape record (R118). -/
def escapeBytes (x : Escape) : List Byte :=
  le 4 x.tok ++ le 2 x.blk ++ le 2 x.flags ++ x.elems.map (BitVec.ofNat 8) ++ le 1 x.x ++ List.replicate 7 0

/-- The counter area (R119). -/
def cntBytes (e : EpiCtx) (tag lost nb : Nat) : List Byte :=
  le 4 e.replays ++ le 4 (sat 32 e.escapes.length) ++ le 4 (sat 32 lost) ++ le 2 tag ++ le 1 e.flags ++ List.replicate 17 0 ++
    ((List.range nb).map fun b => match e.cols.find? fun x => x.1 == b with
      | some (_, a, z, c, f) => le 2 a ++ le 2 z ++ le 2 c ++ le 2 f
      | none => le 8 0).flatten

/-- EPILOGUE_FINISH (R108, R119): every block is through; the escape records and the counter area are written. -/
def execEpilogueFinish (sid epi : Nat) (s : State) : Res :=
  match (stepOf s sid).bind fun t => (epiOf t epi).map fun e => (t, e) with
  | none => .next s
  | some (t, e) =>
    let d := descOf t epi
    let m := matOf s t d
    let oc := (epiRows s t epi).length
    if !stepWorks t || !t.faults.isEmpty || e.finished || e.done.length < mTok m * cdiv oc 32 then .next s
    else if (stopAxis s t.basin (eAxes d)).isSome then
      if bitAt d.toNat 19 then .next s else .next (setEpi s sid epi fun e => { e with finished := true })
    else
      let recs := (escapeOrder (e.escapes.filter (·.record)))
      let kept := recs.take (dfld d 448 463)
      let esc := (kept.zipIdx).map fun x => (dfld d 352 399 + 48 * x.2, escapeBytes x.1)
      let tag := dfld m 368 383
      let cnt := (dfld d 400 447, cntBytes e tag (recs.length - kept.length) (cdiv oc 32))
      match wideWriteMany s (epiAcc s t epi) (esc ++ [cnt]) with
      | .stop s => .next s
      | .ok _ s =>
        let s := if bitAt d.toNat 19 then
            (let ms := groupMates s t.basin (eAxes d)
             sendResult (sendResult s t.basin t.sid ms epi 1 (dfld d 352 399) esc) t.basin t.sid ms epi 2 (dfld d 400 447) [cnt])
          else s
        let s := count (count s 6 tag t.basin 4 e.replays) 6 tag t.basin 5 e.escapes.length
        .next (setEpi s sid epi fun e => { e with finished := true })

/-! ### What arrives from other modules (R108) -/

/-- A partial sum from the module at a leaf of an axis. -/
def putSum (s : State) (t : Step) (i tok row axis leaf : Nat) (code : BitVec 25) (p : Nat) : State :=
  let len := axisLen s t.basin (eAxes (descOf t i)) axis
  putNode s t.sid i tok row { stage := 2 + axis, lo := leaf, n := ownSpan len 0 len leaf } { v := accOf code.toNat, p := p }

/-- Finished bytes of an epilogue descriptor from the root: the counter area comes last. A receiving module lays them at the root's offsets in
its own areas, so at the root's OUT_STRIDE and number of escape records; R108 names its OUT, ESC and CNT alone (DESIGN CHOICE, log entry
154). -/
def putResult (s : State) (t : Step) (i area off : Nat) (data : List Byte) : State :=
  let d := descOf t i
  let base := if area = 0 then eOut d else if area = 1 then dfld d 352 399 else dfld d 400 447
  match wideWrite s { epiAcc s t i with task := [area, off, 0] } (base + off) data with
  | .stop s => s
  | .ok _ s => if area = 2 then setEpi s t.sid i fun e => { e with finished := true } else s

end Sys2Proof.Machine
end

