-- ==== Sys2Proof/Machine/Millrace.lean ====
section
/-! DEFINITION. Attention: page selection with its estimates, units and tiles, scores, the online softmax, merges and finished
rows, and the attention backward pass (R123 to R150, R154, R163 to R168, R342, R343). -/

namespace Sys2Proof.Machine

/-! ### Streams (R163, R164) -/

/-- The exponent k of the smallest power of two that is at least n (R163). -/
def ceilLog2 (n : Nat) : Nat := if n ≤ 1 then 0 else Nat.log2 (n - 1) + 1

/-- Ones among the bits of a stream, with the states of GS, GA and GB (R163). -/
def streamOnes (k : Nat) (x y : List Int) : Nat → Nat → Nat → Nat → Nat
  | 0, _, _, _ => 0
  | n + 1, gs, ga, gb =>
    let (d, gs) := lfsrDraw k gs
    let (ra, ga) := lfsrDraw 8 ga
    let (rb, gb) := lfsrDraw 8 gb
    let a := decide ((ra : Int) < x.getD d 0 + 128)
    let b := decide ((rb : Int) < y.getD d 0 + 128)
    b2n (a == b) + streamOnes k x y n gs ga gb

/-- The readout of a stream of L = 64 × 2^RLEN bits: (2c − L) × N, and the exponent E − log2 L (R164). -/
def readoutOf (rlen : Nat) (x y : List Int) (e : Int) (gs ga gb : Nat) : Int × Int :=
  let l := 64 * 2 ^ rlen
  let k := ceilLog2 x.length
  let c := streamOnes k x y l gs ga gb
  ((2 * (c : Int) - l) * 2 ^ k, e - (6 + rlen : Nat))

/-- A readout before another as a signed number with its exponent (R164). -/
def readoutLt (a b : Int × Int) : Bool :=
  let e := min a.2 b.2
  a.1 * 2 ^ (a.2 - e).toNat < b.1 * 2 ^ (b.2 - e).toNat

/-- Keep the best of a ranking: the highest readouts, equal ones by the lower number (R141, R171). -/
def bestOf (n : Nat) (l : List (Nat × Int × Int)) : List Nat :=
  ((sortBy (fun a b => readoutLt b.2 a.2 || (!readoutLt a.2 b.2 && a.1 ≤ b.1)) l).take n).map (·.1)

/-- A magnitude shifted left and then right, with its sign (R167, R171). -/
def shiftPair (v : Int) (l r : Nat) : Int := truncShift (v * 2 ^ l) r

/-- The largest exponent byte among elements that are not zero. -/
def topExp (l : List (Int × Nat)) : Option Nat :=
  l.foldl (fun m x => if x.1 = 0 then m else some (max (m.getD 0) x.2)) none

/-- The first operand of an estimate from a row's F4 elements: integers with their block exponents (R167). -/
def estX (l : List (Int × Nat)) (xq : Nat) : List Int := l.map fun x => shiftPair x.1 3 (xq - x.2)

/-- The elements of a row as integers with block exponents. -/
def opndsOf (f : BFmt) (x : List Nat × List Nat) : List (Int × Nat) :=
  x.1.zipIdx.map fun c => (opInt f c.1, x.2.getD (c.2 / 32) 0)

/-! ### Rows, pages and positions (R123, R125, R129, R138, R143) -/

def attOf (t : Step) (i : Nat) : Option AttCtx := t.units.atts.find? fun a => a.desc == i

def setAtt (s : State) (sid i : Nat) (f : AttCtx → AttCtx) : State :=
  setUnits s sid fun u => { u with atts := updW (fun a => a.desc == i) f u.atts }

/-- The tributary of a step's millrace. -/
def millTrib (s : State) (t : Step) (m : Nat) : Nat := (stepTribs s t).getD m 0

def millAcc (s : State) (t : Step) (m i : Nat) : Acc3 :=
  { sid := t.sid, src := srcSteward (millTrib s t m), unit := uMill m, desc := i }

/-- Rows of a unit, and the query head and token of row ρ (R138). -/
def aRows (t : Step) (d : BitVec 512) (r : Nat) : Nat := aG d * attNq t d r
def rowHq (d : BitVec 512) (h row : Nat) : Nat := h * aG d + row % aG d
def rowTok (d : BitVec 512) (row : Nat) : Nat := row / aG d

/-- Row (r, t) of an area with a stride (R123). -/
def rowAt (d : BitVec 512) (base stride r tok : Nat) : Nat := base + (r * aNq d + tok) * stride * 64

/-- APPEND of a request; kind 0x31 reads the bit as FINAL (R342). -/
def appends (d : BitVec 512) (e : ReqEnt) : Bool := !aBack d && e.append

/-- A page-list entry's word (R125). -/
def pageListAt (d : BitVec 512) (e : ReqEnt) (h k : Nat) : Nat := e.pl + 16 * (k * aHeads d + h)
def listWord (s : State) (t : Step) (d : BitVec 512) (e : ReqEnt) (h k : Nat) : Nat := peek s t (pageListAt d e h k) 16
def entAddr (w : Nat) : Nat := fld w 0 47
def entCount (w : Nat) : Nat := fld w 64 72

/-- A list entry is out of order (R149). -/
def entBad (s : State) (t : Step) (d : BitVec 512) (e : ReqEnt) (k w : Nat) : Bool :=
  256 < entCount w || (k + 1 < e.npages && entCount w < 256) || entAddr w % 1024 != 0 ||
    !inRange s t.basin (entAddr w) (272 * aDh d) || fld w 48 63 != 0 || fld w 73 79 != 0 || fld w 81 127 != 0

/-- New keys that page k receives: all of them in the last page (R143). -/
def newKeys (d : BitVec 512) (e : ReqEnt) (k : Nat) : Nat := if appends d e && k + 1 = e.npages then e.nq else 0

/-- The visibility of a position to a query position (R129). -/
def visible (d : BitVec 512) (p q : Nat) : Bool :=
  dfld d 13 14 == 0 || (p ≤ q && (dfld d 32 47 == 0 || q < p + dfld d 32 47))

/-- Page entry j of page k is visible to query token tok. -/
def sees (d : BitVec 512) (e : ReqEnt) (k j tok : Nat) : Bool := visible d (e.pos0 + 256 * k + j) (e.qpos + tok)

/-- Some token of a list sees some key of page k. -/
def pageSeen (d : BitVec 512) (e : ReqEnt) (k w : Nat) (toks : List Nat) : Bool :=
  (List.range (entCount w + newKeys d e k)).any fun j => toks.any (sees d e k j)

/-- A page is forced (R139). -/
def pageForced (d : BitVec 512) (e : ReqEnt) (k w : Nat) : Bool :=
  let n := entCount w + newKeys d e k
  let p := e.pos0 + 256 * k
  p < 256 * dfld d 48 51 || e.qpos + e.nq ≤ p + n - 1 + 256 * dfld d 52 55 || 0 < newKeys d e k

/-- Pages that hold a visible key, and the candidates among them (R139, R140). -/
def seenPages (s : State) (t : Step) (d : BitVec 512) (e : ReqEnt) (h : Nat) : List Nat :=
  (List.range e.npages).filter fun k => pageSeen d e k (listWord s t d e h k) (List.range e.nq)

def candPages (s : State) (t : Step) (d : BitVec 512) (e : ReqEnt) (h : Nat) : List Nat :=
  if !bitAt d.toNat 15 then [] else (seenPages s t d e h).filter fun k => !pageForced d e k (listWord s t d e h k)

/-! ### Request faults (R149) -/

/-- The first refusal among ranges. -/
def badRange (s : State) (t : Step) (l : List (Nat × Nat)) : Option (Nat × Nat) :=
  l.findSome? fun a => if (eddyAt t a.1).isSome then none else (peekBad s t a.1 a.2).map fun st => (a.1, st)

/-- Every row of the requests that go on has been written (R154). -/
def attComplete (t : Step) (d : BitVec 512) (a : AttCtx) : Bool :=
  (List.range (aReqs d)).all fun r => a.poisoned.contains r ||
    (List.range (aHeads d)).all fun h => (List.range (aRows t d r)).all fun w => a.rowsDone.contains (r, h, w)

/-- The status record (R154). -/
def attRecord (d : BitVec 512) (a : AttCtx) : List Byte :=
  le 4 (sat 32 a.tiles) ++ le 4 (sat 32 a.cands) ++ le 4 (sat 32 a.chosen) ++ le 2 (sat 16 a.empty) ++ le 2 (sat 16 a.scoreSat) ++
    le 2 (sat 16 a.poisoned.length) ++ le 2 (dfld d 368 383) ++ List.replicate 12 0

/-- Write the status record once everything has been written; none is written in a step that faults (R154). -/
def attFinish (s : State) (sid i : Nat) : State :=
  match (stepOf s sid).bind fun t => (attOf t i).map fun a => (t, a) with
  | none => s
  | some (t, a) =>
    let d := descOf t i
    if a.statusDone || !attComplete t d a || !t.faults.isEmpty then s
    else match wideWrite s (stewAcc s t i) (dfld d 448 495) (attRecord d a) with
      | .stop s => s
      | .ok _ s => setAtt s sid i fun a => { a with statusDone := true }

/-- A request fault: the request ends without output, MEM.POISONED is raised, and the others go on; condition 4 of R326 fails (R327). The
outputs that the request's other heads have written are taken back. With the last of the other requests complete, the status record follows (R154). -/
def reqFault (s : State) (t : Step) (src i r addr : Nat) : State :=
  let s := stepFaultRecord s t.basin t.job
    { status := stKvPoisoned, src := src, desc := i, tag := tagOfDesc t i, aux := i, addr := addr }
  let s := match pageOf s t.basin (addr / 4096) with
    | some e => raisePoisoned s e 0
    | none => s
  let old := ((attOf t i).elim [] (·.before)).filter fun x => x.1 == r
  let s := old.reverse.foldl (fun s x => putBack t s x.2) s
  let s := setStep s t.sid fun t => { t with
    reqFaults := (dropW (· == entrySlot t (descOf t i) r) t.reqFaults) ++ [entrySlot t (descOf t i) r]
    void := if t.cls = 0 && t.void = 0 then 4 else t.void
    units := { t.units with
      mills := dropW (fun m => m.desc == i && m.r == r) t.units.mills
      atts := updW (fun a => a.desc == i) (fun a => { a with poisoned := r :: dropW (· == r) a.poisoned }) t.units.atts } }
  attFinish s t.sid i

/-- What refuses a look at memory ends the request or faults the step. -/
def lookFault (s : State) (t : Step) (src unit i r addr status : Nat) : State :=
  if status = stKvPoisoned then reqFault s t src i r addr else unitFault s t src unit status i addr

/-! ### Estimates (R140, R167) -/

/-- The summary record of a page (R126). -/
def summAt (d : BitVec 512) (e : ReqEnt) (h k : Nat) : Nat := e.summ + summSize (aDh d) * (k * aHeads d + h)

/-- Query row ρ of a head: its two ranges of memory. -/
def qCuts (d : BitVec 512) (r h row : Nat) : List (Nat × Nat) :=
  rowCuts .f4 (rowAt d (dfld d 128 175) (dfld d 176 191) r (rowTok d row)) (aQh d * aDh d) (rowHq d h row * aDh d) (aDh d)

/-- The chosen bounds of a summary record against a query row: integers with exponents (R167). -/
def boundsOf (dh : Nat) (q : List (Int × Nat)) (sm : List Byte) : List (Int × Nat) :=
  let el (plane e : Nat) : Int :=
    let b := (sm.getD (plane * (dh / 2) + e / 2) 0).toNat
    opInt .p2 (if e % 2 = 0 then b % 16 else b / 16)
  let ex (plane e : Nat) : Nat := (sm.getD (dh + plane * (dh / 32) + e / 32) 0).toNat
  q.zipIdx.map fun x => let p := if 0 ≤ x.1.1 then 1 else 0
    (el p x.2, ex p x.2)

/-- The readout of row ρ against a candidate page; rows without a stream read out 0. -/
def pageReadout (s : State) (t : Step) (d : BitVec 512) (q : List Nat × List Nat) (sm : List Byte) : Int × Int :=
  let x := opndsOf .f4 q
  let y := boundsOf (aDh d) x sm
  match topExp x, topExp y with
  | some xq, some xk =>
    let st := genStart s t (dfld d 432 447) (dfld d 368 383)
    readoutOf (dfld d 120 122) (estX x xq) (y.map fun b => shiftPair b.1 2 (xk - b.2)) (xq + xk) (st 2) (st 0) (st 1)
  | _, _ => (0, 0)

/-- One stream of an attention descriptor: request, head, page, row. With at most BUDGET candidates the riffle unit is not used
(R141). -/
def attStream (s : State) (t : Step) (i r h k row : Nat) : State :=
  let d := descOf t i
  let e := reqEnt s t d r
  let old := t.units.readouts.any fun x => x.desc == i && x.a == r && x.b == h && x.c == k && x.d == row
  match attOf t i with
  | none => s
  | some a =>
    if old || !unitGoes t (uMill 0) || aReqs d ≤ r || aHeads d ≤ h || aRows t d r ≤ row || a.poisoned.contains r || !descReady s t i ||
        a.sel.any (fun x => x.1 == r && x.2.1 == h) || !(candPages s t d e h).contains k ||
        (candPages s t d e h).length ≤ dfld d 64 79 then s
    else
      let src := stepSteward s t
      let sm := (summAt d e h k, 2 * (aDh d / 2 + aDh d / 32))
      match badRange s t [sm] with
      | some (addr, st) => lookFault s t src (uMill 0) i r addr st
      | none =>
        match wideMany s { sid := t.sid, src := src, unit := uMill 0, desc := i, task := [1, r, h, k, row] } (sm :: qCuts d r h row) with
        | .stop s => s
        | .ok ls s =>
          let q := (rowsRead .f4 (aDh d) (ls.drop 1)).headD ([], [])
          let sb := ls.headD []
          if q.2.contains 255 || (sb.drop (aDh d)).any (·.toNat == 255) then unitFault s t src (uMill 0) stFormatInvalid i sm.1
          else
            let ro := pageReadout s t d q sb
            setUnits s t.sid fun u => { u with
              readouts := u.readouts ++ [{ desc := i, a := r, b := h, c := k, d := row, num := ro.1, exp := ro.2 }] }

/-! ### Selection and units (R138 to R141) -/

/-- The readouts of a candidate page over the unit's rows: the largest, when all are in. -/
def pageEst (t : Step) (i r h k rows : Nat) : Option (Int × Int) :=
  let l := (List.range rows).map fun w =>
    t.units.readouts.find? fun x => x.desc == i && x.a == r && x.b == h && x.c == k && x.d == w
  if l.all (·.isSome) then
    l.foldl (fun m x => match m, x with
      | none, some x => some (x.num, x.exp)
      | some m, some x => if readoutLt m (x.num, x.exp) then some (x.num, x.exp) else some m
      | m, none => m) none
  else none

/-- The chosen candidates, when the estimates they need are in (R141). -/
def chosenPages (t : Step) (d : BitVec 512) (i r h : Nat) (cs : List Nat) : Option (List Nat) :=
  let b := dfld d 64 79
  if cs.length ≤ b then some cs
  else
    (cs.mapM fun k => (pageEst t i r h k (aRows t d r)).map fun x => (k, x)).map (bestOf b)

/-- The selected pages of a request's head: forced and chosen, in increasing index. -/
def selectedPages (s : State) (t : Step) (d : BitVec 512) (e : ReqEnt) (h : Nat) (chosen : List Nat) : List Nat :=
  (seenPages s t d e h).filter fun k =>
    !bitAt d.toNat 15 || pageForced d e k (listWord s t d e h k) || chosen.contains k

/-- Pages of range n; kind 0x31 takes all pages of a head as one unit (log entry 35). -/
def rangeSize (d : BitVec 512) (pages : List Nat) : Nat := if aBack d then max 1 pages.length else aPpr d
def rangeCount (d : BitVec 512) (pages : List Nat) : Nat := max 1 (cdiv pages.length (rangeSize d pages))

/-- What is wrong with the page list of a request's head as it is read: address and status (R149). -/
def listFault (s : State) (t : Step) (d : BitVec 512) (e : ReqEnt) (h : Nat) : Option (Nat × Nat) :=
  match badRange s t [(e.pl, 16 * e.npages * aHeads d)] with
  | some x => some x
  | none =>
    let ws := (List.range e.npages).map fun k => (k, listWord s t d e h k)
    let last := listWord s t d e h (e.npages - 1)
    let a : Int := (e.qpos : Int) - e.pos0
    match ws.find? fun x => entBad s t d e x.1 x.2 with
    | some x => some (pageListAt d e h x.1, stIndexRange)
    | none =>
      if !appends d e then none
      else if a != (256 * (e.npages - 1) + entCount last : Nat) || (256 * e.npages : Nat) < a + e.nq then some (e.pl, stIndexRange)
      else if bitAt last 80 then some (pageListAt d e h (e.npages - 1), stKvReadonly)
      else none

/-- The unit after (r, h, n). -/
def nextUnit (d : BitVec 512) (a : AttCtx) (r h n ranges : Nat) : AttCtx :=
  if n + 1 < ranges then { a with nextR := r, nextH := h, nextI := n + 1 }
  else if h + 1 < aHeads d then { a with nextR := r, nextH := h + 1, nextI := 0 }
  else { a with nextR := r + 1, nextH := 0, nextI := 0 }

/-- A millrace takes a unit of known pages. -/
def takeUnit (s : State) (t : Step) (i mill r h n : Nat) (pages : List Nat) : State :=
  let d := descOf t i
  let k := rangeSize d pages
  let m : Mill := { mill := mill, desc := i, r := r, head := h, range := n, pages := (pages.drop (n * k)).take k }
  setAtt (setUnits s t.sid fun u => { u with mills := u.mills ++ [m] }) t.sid i fun a => nextUnit d a r h n (rangeCount d pages)

/-- The dKV rows of a request: every committed local key (R342, R343). -/
def dkvRows (s : State) (t : Step) (d : BitVec 512) (e : ReqEnt) : List (Nat × Nat) :=
  let n := 256 * (e.npages - 1) + entCount (listWord s t d e 0 (e.npages - 1))
  (List.range n).map fun x => (e.summ + x * dfld d 304 319 * 64, 8 * aHeads d * aDh d)

/-- The last descriptor before `i` that adds into the dKV area at an address: whether it was its layer's last, FINAL (R342). -/
def dkvLast (s : State) (t : Step) (i area : Nat) : Option Bool :=
  ((List.range i).reverse.map fun j =>
    let d := descOf t j
    if aBack d then ((List.range (aReqs d)).map (reqEnt s t d)).find? (fun e => e.summ == area) else none).findSome?
      fun x => x.map (·.append)

/-- Firmware writes a request's dKV area as +0 before the layer's first descriptor: one that no earlier descriptor of the step
shares the area with, or whose predecessor there was FINAL (R343). -/
def zeroDkv (s : State) (t : Step) (i r : Nat) : State :=
  let d := descOf t i
  let e := reqEnt s t d r
  if !aBack d || dkvLast s t i e.summ == some false then s
  else (dkvRows s t d e).foldl (fun s x => putBack t s (x.1, List.replicate x.2 0)) s

/-- MILLRACE_UNIT_START (R138 to R141): a free millrace takes the next unit; the first of a head selects its pages. -/
def execMillraceUnitStart (sid i mill : Nat) (s : State) : Res :=
  match (stepOf s sid).bind fun t => (attOf t i).map fun a => (t, a) with
  | none => .next s
  | some (t, a) =>
    let d := descOf t i
    if !stepRuns t || !unitGoes t (uMill mill) || (stepTribs s t).length ≤ mill || (t.units.mills.any fun m => m.mill == mill) || aReqs d ≤ a.nextR ||
        !descReady s t i then .next s
    else if a.poisoned.contains a.nextR then
      .next (attFinish (setAtt s sid i fun a => { a with nextR := a.nextR + 1, nextH := 0, nextI := 0 }) sid i)
    else
      let (r, h) := (a.nextR, a.nextH)
      let e := reqEnt s t d r
      let src := srcSteward (millTrib s t mill)
      match a.sel.find? fun x => x.1 == r && x.2.1 == h with
      | some x => .next (takeUnit s t i mill r h a.nextI x.2.2.2)
      | none =>
        match listFault s t d e h with
        | some (addr, st) => .next (lookFault s t src (uMill mill) i r addr st)
        | none =>
          let cs := candPages s t d e h
          match chosenPages t d i r h cs with
          | none => .next s
          | some ch =>
            let pages := selectedPages s t d e h ch
            let s := setAtt s sid i fun a => { a with
              sel := a.sel ++ [(r, h, mill, pages)], cands := a.cands + cs.length, chosen := a.chosen + ch.length }
            let s := count (count s 1 (millTrib s t mill) 0 2 cs.length) 1 (millTrib s t mill) 0 3 ch.length
            let s := if h = 0 then zeroDkv s t i r else s
            .next (takeUnit s ((stepOf s sid).getD t) i mill r h a.nextI pages)

/-! ### Scores (R127, R128) -/

/-- R and Emax of a query row against a key row (R127). -/
def rawScore (q k : List (Int × Nat)) : Int × Nat :=
  let bs := (pieces 32 q.length (q.zip k)).map fun b =>
    ((b.map fun x => x.1.1 * x.2.1).sum, (b.headD ((0, 0), (0, 0))).1.2 + (b.headD ((0, 0), (0, 0))).2.2)
  let live := bs.filter fun b => b.1 != 0
  let em := live.foldl (fun m b => max m b.2) 0
  ((live.map fun b => truncShift (b.1 * 256) (em - b.2)).sum, em)

/-- An assignment to a signed variable of 64 bits wraps (R14). -/
def s64 (x : Int) : Int := (x + 2 ^ 63) % 2 ^ 64 - 2 ^ 63

/-- A scale by an S8 code and a shift with floor, clamped to s24 (R128, R170): the score and whether it saturated. Each assignment
to the s64 variable wraps (R14). -/
def clampScore (v : Int) (code : Nat) (sh : Int) : Int × Bool :=
  let w := s64 (v * 2 ^ s8A code)
  let w := if s8D code then s64 (if s8N code then w - v * 2 ^ s8C code else w + v * 2 ^ s8C code) else w
  let w := if 0 ≤ sh then s64 (w * 2 ^ sh.toNat) else w >>> (-sh).toNat
  (max (-8388607) (min 8388607 w), w < -8388607 || 8388607 < w)

/-- σ of a query row against a key row (R128). -/
def scoreOf (d : BitVec 512) (q k : List (Int × Nat)) : Int × Bool :=
  let r := rawScore q k
  clampScore r.1 (dfld d 96 111) ((r.2 : Int) - 260 + signed 8 (dfld d 112 119))

/-! ### The online softmax (R130 to R133) -/

/-- Round a score up to a whole power of two (R130). -/
def wholeMax (x : Int) : Int := 256 * -((-x) / 256)

/-- A row takes a new maximum (R130). -/
def raiseMax (p : RowPart) (m : Int) : RowPart :=
  match p.m with
  | none => { p with m := some m }
  | some old =>
    if old < m then { m := some m, l := f32Scale p.l ((old - m) / 256), o := p.o.map fun x => f32Scale x ((old - m) / 256) }
    else p

/-- A fetched key: its page entry, its key row and its value row as integers with exponents. -/
abbrev KeyRow := Nat × List (Int × Nat) × (List Nat × List Nat)

/-- The P2 codes and exponent of a probability block (R132). -/
def probBlock (m : Int) (b : Nat) (scores : List (Nat × Int)) : List Nat × Nat :=
  fitBlock .p2 ((List.range 32).map fun j => match scores.find? fun x => x.1 == 32 * b + j with
    | some x => .fin false (expWeight (m - x.2).toNat) (-16)
    | none => .fin false 0 0)

/-- The value of a narrow element, as a number. -/
def elemOr (f : BFmt) (x c : Nat) : FVal := (elemVal f x c).getD .nan

/-- Add one key's weighted values into a row (R133). -/
def addKey (p : RowPart) (w : FVal) (v : List Nat × List Nat) : RowPart :=
  { p with
    l := f32Add p.l (toF32 w)
    o := p.o.zipIdx.map fun x =>
      f32Add x.1 (toF32 (mulV w (elemOr .p2 (v.2.getD (x.2 / 32) 0) (v.1.getD x.2 0)))) }

/-- A row passes a page, given the scores of its visible keys in order of entry (R130 to R133). -/
def passPage (p : RowPart) (keys : List KeyRow) (scores : List (Nat × Int)) : RowPart :=
  match scores.map (·.2) with
  | [] => p
  | x :: l =>
    let top := wholeMax (l.foldl max x)
    let m := match p.m with
      | none => top
      | some old => max old top
    let p := raiseMax p m
    let bs := (List.range 8).map fun b => probBlock m b scores
    keys.foldl (fun p k =>
      let b := bs.getD (k.1 / 32) ([], 0)
      let c := b.1.getD (k.1 % 32) 0
      if c = 0 then p else addKey p (elemOr .p2 b.2 c) k.2.2) p

/-! ### Tiles (R138, R148) -/

def setMill (s : State) (sid mill : Nat) (f : Mill → Mill) : State :=
  setUnits s sid fun u => { u with mills := updW (fun m => m.mill == mill) f u.mills }

/-- The rows of the unit's row group (R138). -/
def grpRows (n g : Nat) : List Nat := (List.range (min 64 (n - 64 * g))).map (· + 64 * g)

/-- Blocks of committed keys that a row group fetches of a page (R148). -/
def liveBlocks (d : BitVec 512) (e : ReqEnt) (k count : Nat) (rows : List Nat) : List Nat :=
  (List.range 8).filter fun b => (List.range 32).any fun j =>
    32 * b + j < count && rows.any fun w => sees d e k (32 * b + j) (rowTok d w)

/-- The ranges of one block of 32 committed keys: K elements and exponents, V elements and exponents (R124). -/
def blockCuts (dh addr b : Nat) : List (Nat × Nat) :=
  [(addr + 16 * dh * b, 16 * dh), (addr + 128 * dh + dh * b, dh), (addr + 136 * dh + 16 * dh * b, 16 * dh),
   (addr + 264 * dh + dh * b, dh)]

/-- The ranges of a new key and value (R123, R143). -/
def newCuts (d : BitVec 512) (r h tok : Nat) : List (Nat × Nat) :=
  rowCuts .p2 (rowAt d (dfld d 320 367) (dfld d 304 319) r tok) (aHeads d * aDh d) (h * aDh d) (aDh d) ++
    rowCuts .p2 (rowAt d (dfld d 384 431) (dfld d 304 319) r tok) (aHeads d * aDh d) (h * aDh d) (aDh d)

/-- One token of the fetched planes of a block or a new row. -/
def tokenRow (dh j : Nat) (el ex : List Byte) : List Nat × List Nat :=
  let e := (el.drop (j * (dh / 2))).take (dh / 2)
  ((List.range dh).map (rowCode .p2 e), ((ex.drop (j * (dh / 32))).take (dh / 32)).map (·.toNat))

/-- The keys of fetched blocks, in order of page entry: entry, key and value as codes and exponents. -/
def blockKeys (dh count : Nat) : List Nat → List (List Byte) → List (Nat × (List Nat × List Nat) × (List Nat × List Nat))
  | b :: bs, ke :: kx :: ve :: vx :: l =>
    ((List.range 32).filter fun j => 32 * b + j < count).map
      (fun j => (32 * b + j, tokenRow dh j ke kx, tokenRow dh j ve vx)) ++ blockKeys dh count bs l
  | _, _ => []

/-- The new keys. -/
def freshKeys (dh : Nat) : List Nat → List (List Byte) → List (Nat × (List Nat × List Nat) × (List Nat × List Nat))
  | j :: js, ke :: kx :: ve :: vx :: l => (j, tokenRow dh 0 ke kx, tokenRow dh 0 ve vx) :: freshKeys dh js l
  | _, _ => []

/-- A fetched page: its keys, its width in blocks of 32 tokens, and its bytes (R148). -/
structure Fetched where
  keys : List (Nat × (List Nat × List Nat) × (List Nat × List Nat))
  beats : Nat

/-- Fetch a page for a row group. -/
def fetchPage (s : State) (t : Step) (m : Mill) (k : Nat) (rows : List Nat) : Got Fetched :=
  let d := descOf t m.desc
  let dh := aDh d
  let e := reqEnt s t d m.r
  let w := listWord s t d e m.head k
  let src := srcSteward (millTrib s t m.mill)
  let bs := liveBlocks d e k (entCount w) rows
  let kn := newKeys d e k
  let cuts := (bs.map (blockCuts dh (entAddr w))).flatten
  match badRange s t cuts with
  | some (addr, st) => .stop (lookFault s t src (uMill m.mill) m.desc m.r addr st)
  | none =>
    match wideHold s (millAcc s t m.mill m.desc) (cuts ++ ((List.range kn).map (newCuts d m.r m.head)).flatten) with
    | .stop s => .stop s
    | .ok ls s =>
      let keys := blockKeys dh (entCount w) bs ls ++
        freshKeys dh ((List.range kn).map (· + entCount w)) (ls.drop (4 * bs.length))
      if keys.any fun x => x.2.1.2.contains 255 || x.2.2.2.contains 255 then
        .stop (unitFault s t src (uMill m.mill) stFormatInvalid m.desc (entAddr w))
      else
        let kc := (bs.map fun b => min 32 (entCount w - 32 * b)).sum
        let bytes := (32 * cdiv kc 32 + kn) * (dh + dh / 16)
        let tk := 32 * cdiv (kc + kn) 32
        .ok { keys := keys, beats := 8 + max (cdiv bytes 512) (cdiv (rows.length * tk * dh) 2048) } s

/-- A tile has run: counts of the millrace and of the descriptor (R154, R531). -/
def tileCounts (s : State) (t : Step) (m : Mill) (beats sats : Nat) : State :=
  let x := millTrib s t m.mill
  let s := count (count (count s 1 x 0 0 1) 1 x 0 1 beats) 1 x 0 4 sats
  setAtt s t.sid m.desc fun a => { a with tiles := a.tiles + 1, scoreSat := a.scoreSat + sats }

/-- The scores of a row's visible keys, with the number that saturated. -/
def rowScores (d : BitVec 512) (e : ReqEnt) (k row : Nat) (q : List (Int × Nat)) (keys : List KeyRow) : List (Nat × Int) × Nat :=
  let l := (keys.filter fun x => sees d e k x.1 (rowTok d row)).map fun x => (x.1, scoreOf d q x.2.1)
  (l.map fun x => (x.1, x.2.1), (l.filter fun x => x.2.2).length)

/-- The fetched keys with integer key operands. -/
def keyRows (f : Fetched) : List KeyRow := f.keys.map fun x => (x.1, opndsOf .p2 x.2.1, x.2.2)

/-- A row at the start of a range (R130). -/
def freshRow (dh : Nat) : RowPart := { o := List.replicate dh 0 }

/-- The row group has passed every page: its partials are leaves of the range tree, and the next group or unit follows (R134). -/
def grpEnd (s : State) (t : Step) (m : Mill) : State :=
  let d := descOf t m.desc
  let rows := grpRows (aRows t d m.r) m.rowGrp
  let node : CNode := { stage := 0, lo := m.range, n := 1 }
  let val (x : Nat × Nat) : PartVal :=
    { desc := m.desc, r := m.r, head := m.head, row := x.1, node := node, part := m.rows.getD x.2 (freshRow (aDh d)) }
  let vs := rows.zipIdx.map val
  let s := setUnits s t.sid fun u => { u with parts := u.parts ++ vs }
  if 64 * (m.rowGrp + 1) < aRows t d m.r then
    setMill s t.sid m.mill fun m => { m with rowGrp := m.rowGrp + 1, pageAt := 0, rows := [], q := [] }
  else setUnits s t.sid fun u => { u with mills := dropW (fun x => x.mill == m.mill) u.mills }

/-- Read the query rows of a row group, once. -/
def readRows (s : State) (t : Step) (m : Mill) (f : BFmt) (cuts : Nat → List (Nat × Nat)) (rows : List Nat) :
    Got (List (List Nat × List Nat)) :=
  let d := descOf t m.desc
  match wideHold s (millAcc s t m.mill m.desc) (rows.map cuts).flatten with
  | .stop s => .stop s
  | .ok ls s =>
    let q := rowsRead f (aDh d) ls
    if q.any fun x => x.2.contains 255 || (f == .g8 && x.1.any fun c => 0x7C < c % 128) then
      .stop (unitFault s t (srcSteward (millTrib s t m.mill)) (uMill m.mill) stFormatInvalid m.desc 0)
    else .ok q s

/-- One forward tile, with the group's query rows. -/
def fwdTile (s : State) (t : Step) (m : Mill) (k : Nat) : State :=
  let d := descOf t m.desc
  let e := reqEnt s t d m.r
  let rows := grpRows (aRows t d m.r) m.rowGrp
  match fetchPage s t m k rows with
  | .stop s => s
  | .ok f s =>
    let keys := keyRows f
    let outs := rows.zipIdx.map fun x =>
      let sc := rowScores d e k x.1 (opndsOf .f4 (m.q.getD x.2 ([], []))) keys
      (passPage (m.rows.getD x.2 (freshRow (aDh d))) keys sc.1, sc.2)
    let m := { m with rows := outs.map (·.1), pageAt := m.pageAt + 1 }
    let s := tileCounts (endPiece s (millAcc s t m.mill m.desc)) t m f.beats ((outs.map (·.2)).sum)
    let s := setMill s t.sid m.mill fun _ => m
    if m.pageAt < m.pages.length then s else grpEnd s t m

/-- A forward row group goes on: its query rows first, then its next page. -/
def fwdStep (s : State) (t : Step) (m : Mill) : State :=
  let d := descOf t m.desc
  match m.pages[m.pageAt]? with
  | none => grpEnd s t m
  | some k =>
    if !m.q.isEmpty then fwdTile s t m k
    else match readRows s t m .f4 (qCuts d m.r m.head) (grpRows (aRows t d m.r) m.rowGrp) with
      | .stop s => s
      | .ok q s =>
        let m := { m with q := q }
        fwdTile (setMill s t.sid m.mill fun _ => m) ((stepOf s t.sid).getD t) m k

/-! ### The backward pass (R342, R343) -/

/-- P of a key (R343); above the recorded maximum the spec states no value (log entry 34). -/
def backProb (m : Option Int) (l : BitVec 32) (x : Int) : BitVec 32 :=
  match m with
  | some m => if x ≤ m then f32Div (toF32 (.fin false (expWeight (m - x).toNat) (-16))) l else Config.backProb (some m) l x
  | none => Config.backProb none l x

/-- The factor c (R343). -/
def backScale (d : BitVec 512) : BitVec 32 := toF32 (mulS8 (ofF32 0x3F317218) (signed 8 (dfld d 112 119)) (dfld d 96 111))

/-- Values of a narrow row. -/
def rowVals (f : BFmt) (x : List Nat × List Nat) : List FVal := x.1.zipIdx.map fun c => elemOr f (x.2.getD (c.2 / 32) 0) c.1

/-- Σ over elements in order, each product and each sum rounded (R343). -/
def dotF32 (a b : List FVal) : BitVec 32 := (a.zip b).foldl (fun w x => f32Add w (toF32 (mulV x.1 x.2))) 0

/-- One visible key of a row: entry, score, P and dP (R343 pass 1). -/
def backKeys (d : BitVec 512) (e : ReqEnt) (m : Mill) (k row n : Nat) (keys : List KeyRow) : List (Nat × BitVec 32 × BitVec 32) :=
  let q := opndsOf .f4 (m.q.getD n ([], []))
  let g := rowVals .g8 (m.grads.getD n ([], []))
  let (lm, ll) := m.lse.getD n (none, 0)
  (keys.filter fun x => sees d e k x.1 (rowTok d row)).map fun x =>
    (x.1, backProb lm ll (scoreOf d q x.2.1).1, dotF32 g (rowVals .p2 x.2.2))

/-- Local key x has its dKV row here: the ranges of its K and V parts for a head (R342, R343). -/
def dkvCuts (d : BitVec 512) (e : ReqEnt) (h x : Nat) : List (Nat × Nat) :=
  let a := e.summ + x * dfld d 304 319 * 64
  [(a + 4 * h * aDh d, 4 * aDh d), (a + 4 * (aHeads d + h) * aDh d, 4 * aDh d)]

/-- F32 values of bytes. -/
def f32sOf (l : List Byte) : List (BitVec 32) := (List.range (l.length / 4)).map fun k => BitVec.ofNat 32 (ofLe ((l.drop (4 * k)).take 4))

def f32Bytes (l : List (BitVec 32)) : List Byte := (l.map fun w => le 4 w.toNat).flatten

/-- Add one row's share into the dK and dV values of a key (R343 pass 2). -/
def dkvAdd (c ds p : BitVec 32) (q g : List FVal) (x : List (BitVec 32) × List (BitVec 32)) : List (BitVec 32) × List (BitVec 32) :=
  let cs := ofF32 (f32Mul c ds)
  ((x.1.zip q).map fun y => f32Add y.1 (toF32 (mulV cs y.2)),
   (x.2.zip g).map fun y => f32Add y.1 (toF32 (mulV (ofF32 p) y.2)))

/-- dQ rows of a row group as they are written: narrowed to G8 per block (R343). -/
def dqOut (d : BitVec 512) (e : ReqEnt) (m : Mill) : List (Nat × List Byte) :=
  let c := backScale d
  ((grpRows (aG d * e.nq) m.rowGrp).zipIdx.map fun x =>
    let vs := ((m.rows.getD x.2 (freshRow (aDh d))).o).map fun w => ofF32 (f32Mul c w)
    let bs := (pieces 32 vs.length vs).map (fitBlock .g8)
    let cuts := rowCuts .g8 (rowAt d (dfld d 320 367) (dfld d 176 191) m.r (rowTok d x.1)) (aQh d * aDh d)
      (rowHq d m.head x.1 * aDh d) (aDh d)
    [((cuts.getD 0 (0, 0)).1, packCodes .g8 (bs.map (·.1)).flatten), ((cuts.getD 1 (0, 0)).1, bs.map fun b => BitVec.ofNat 8 b.2)]).flatten

/-- The row group has had both passes: dQ rows, and with FINAL the dKV rows as G8, are written. -/
def backEnd (s : State) (t : Step) (m : Mill) : State :=
  let d := descOf t m.desc
  let e := reqEnt s t d m.r
  let rows := grpRows (aRows t d m.r) m.rowGrp
  let done := ((attOf t m.desc).map (·.rowsDone)).getD [] ++ rows.map fun w => (m.r, m.head, w)
  let last := (List.range (aHeads d)).all fun h => (List.range (aRows t d m.r)).all fun w => done.contains (m.r, h, w)
  let fin := if e.append && last then dkvRows s t d e else []
  match wideHold s (millAcc s t m.mill m.desc) fin with
  | .stop s => s
  | .ok ls s =>
    let out := dqOut d e m ++ (fin.zip ls).map fun x => (x.1.1, fitRow .g8 ((f32sOf x.2).map ofF32))
    match wideWriteMany s (millAcc s t m.mill m.desc) out with
    | .stop s => s
    | .ok _ s =>
      let s := setAtt s t.sid m.desc fun a => { a with rowsDone := done }
      let s := if 64 * (m.rowGrp + 1) < aRows t d m.r then
          setMill s t.sid m.mill fun m => { m with
            rowGrp := m.rowGrp + 1, pageAt := 0, pass := 0, rows := [], q := [], grads := [], lse := [], dsum := [] }
        else setUnits s t.sid fun u => { u with mills := dropW (fun x => x.mill == m.mill) u.mills }
      attFinish s t.sid m.desc

/-- Pass 1 of a row group over a page: D of each row (R343). -/
def backFirst (d : BitVec 512) (e : ReqEnt) (m : Mill) (k : Nat) (keys : List KeyRow) : Mill :=
  { m with dsum := (grpRows (aG d * e.nq) m.rowGrp).zipIdx.map fun x =>
      (backKeys d e m k x.1 x.2 keys).foldl (fun w y => f32Add w (f32Mul y.2.1 y.2.2)) (m.dsum.getD x.2 0) }

/-- Pass 2 of a row group over a page: dQ sums, and the dK and dV values of the keys, by increasing ρ (R343). -/
def backSecond (d : BitVec 512) (e : ReqEnt) (m : Mill) (k : Nat) (keys : List KeyRow)
    (kv : List (Nat × List (BitVec 32) × List (BitVec 32))) : Mill × List (Nat × List (BitVec 32) × List (BitVec 32)) :=
  let c := backScale d
  (grpRows (aG d * e.nq) m.rowGrp).zipIdx.foldl (fun st x =>
    let dS := fun y : Nat × BitVec 32 × BitVec 32 => f32Mul y.2.1 (f32Sub y.2.2 (st.1.dsum.getD x.2 0))
    let ks := backKeys d e st.1 k x.1 x.2 keys
    let q := rowVals .f4 (m.q.getD x.2 ([], []))
    let g := rowVals .g8 (m.grads.getD x.2 ([], []))
    let row := ks.foldl (fun p y => match keys.find? fun z => z.1 == y.1 with
      | some z =>
        let step (u : BitVec 32 × Int × Nat) : BitVec 32 :=
          f32Add u.1 (toF32 (mulV (ofF32 (dS y)) (fvalOf u.2.1 (BFmt.unit .p2 u.2.2))))
        { p with o := (p.o.zip z.2.1).map step }
      | none => p) (st.1.rows.getD x.2 (freshRow (aDh d)))
    let kv := st.2.map fun v => match ks.find? fun y => y.1 == v.1 with
      | some y => (v.1, dkvAdd c (dS y) y.2.1 q g v.2)
      | none => v
    ({ st.1 with rows := st.1.rows.set x.2 row }, kv)) (m, kv)

/-- The page after this one, and the pass after this one. -/
def backNext (m : Mill) : Mill :=
  if m.pageAt + 1 < m.pages.length then { m with pageAt := m.pageAt + 1 }
  else if m.pass = 0 then { m with pass := 1, pageAt := 0 } else { m with pass := 2, pageAt := 0 }

/-- One backward tile. -/
def backTile (s : State) (t : Step) (m : Mill) (k : Nat) : State :=
  let d := descOf t m.desc
  let e := reqEnt s t d m.r
  let rows := grpRows (aRows t d m.r) m.rowGrp
  match fetchPage s t m k rows with
  | .stop s => s
  | .ok f s =>
    let keys := keyRows f
    let sats := ((rows.zipIdx.map fun x => (rowScores d e k x.1 (opndsOf .f4 (m.q.getD x.2 ([], []))) keys).2)).sum
    if m.pass = 0 then
      let m := backNext (backFirst d e m k keys)
      setMill (tileCounts (endPiece s (millAcc s t m.mill m.desc)) t m f.beats sats) t.sid m.mill fun _ => m
    else
      let js := (keys.filter fun x => rows.any fun w => sees d e k x.1 (rowTok d w)).map (·.1)
      let cuts := (js.map fun j => dkvCuts d e m.head (256 * k + j)).flatten
      match wideHold s (millAcc s t m.mill m.desc) cuts with
      | .stop s => s
      | .ok ls s =>
        let kv := js.zipIdx.map fun x => (x.1, f32sOf (ls.getD (2 * x.2) []), f32sOf (ls.getD (2 * x.2 + 1) []))
        let (m, kv) := backSecond d e m k keys kv
        let out := (kv.map fun v => [f32Bytes v.2.1, f32Bytes v.2.2]).flatten
        match wideWriteMany s (millAcc s t m.mill m.desc) ((cuts.map (·.1)).zip out) with
        | .stop s => s
        | .ok _ s =>
          let m := backNext m
          let s := setMill (tileCounts s t m f.beats 0) t.sid m.mill fun _ => m
          if m.pass < 2 then s else backEnd s ((stepOf s t.sid).getD t) m

/-- The LSE records of rows (R137). -/
def lseCuts (d : BitVec 512) (e : ReqEnt) (h row : Nat) : Nat × Nat := (e.lse + 8 * (rowTok d row * aQh d + rowHq d h row), 8)

def lseOf (l : List Byte) : Option Int × BitVec 32 :=
  let m := ofLe (l.take 4)
  (if m = 2 ^ 31 then none else some (signed 32 m), BitVec.ofNat 32 (ofLe (l.drop 4)))

/-- A backward row group goes on: its rows first, then its next page. -/
def backStep (s : State) (t : Step) (m : Mill) : State :=
  let d := descOf t m.desc
  let e := reqEnt s t d m.r
  let rows := grpRows (aRows t d m.r) m.rowGrp
  if !m.q.isEmpty then
    match m.pages[m.pageAt]? with
    | some k => if m.pass < 2 then backTile s t m k else backEnd s t m
    | none => backEnd s t m
  else match readRows s t m .f4 (qCuts d m.r m.head) rows with
    | .stop s => s
    | .ok q s =>
      let gCuts := fun w => rowCuts .g8 (rowAt d (dfld d 256 303) (dfld d 240 255) m.r (rowTok d w)) (aQh d * aDh d)
        (rowHq d m.head w * aDh d) (aDh d)
      match readRows s t m .g8 gCuts rows with
      | .stop s => s
      | .ok g s =>
        match wideMany s (millAcc s t m.mill m.desc) (rows.map (lseCuts d e m.head)) with
        | .stop s => s
        | .ok ls s =>
          let m := { m with
            q := q
            grads := g
            lse := ls.map lseOf
            dsum := rows.map fun _ => 0
            rows := rows.map fun _ => freshRow (aDh d) }
          let s := setMill s t.sid m.mill fun _ => m
          let t := (stepOf s t.sid).getD t
          match m.pages[m.pageAt]? with
          | some k => backTile s t m k
          | none => backEnd s t m

/-- A millrace's row group passes its next page (R138). -/
def millTile (t : Step) (m : Mill) (s : State) : State := if aBack (descOf t m.desc) then backStep s t m else fwdStep s t m

/-- The next tiles of a step in a tributary's millrace. -/
def millTiles (s : State) (trib : Nat) (t : Step) : List (State → State) :=
  (t.units.mills.filter fun m => unitGoes t (uMill m.mill) && (stepTribs s t)[m.mill]? == some trib).map (millTile t)

/-- MILLRACE_TILE (R138, R148, R399): the millrace's row group passes its next page. No tile starts while a preemption is pending. -/
def execMillraceTile (sid mill : Nat) (s : State) : Res :=
  match (stepOf s sid).bind fun t => (t.units.mills.find? fun m => m.mill == mill).map fun m => (t, m) with
  | none => .next s
  | some (t, m) =>
    let trib := (stepTribs s t).getD mill 0
    if !stepRuns t || !unitGoes t (uMill mill) then .next s
    else .next (byTurn s t trib 0 (millTiles s trib) (millTile t m))

/-! ### Merges and finished rows (R134 to R137, R146) -/

/-- A partial of nothing. -/
def emptyPart (p : RowPart) : Bool := p.m.isNone && p.l == 0

/-- Merge two partials (R135). -/
def mergeParts (a b : RowPart) : RowPart :=
  if emptyPart a then b
  else if emptyPart b then a
  else
    let m := max (a.m.getD 0) (b.m.getD 0)
    let ka := (a.m.getD m - m) / 256
    let kb := (b.m.getD m - m) / 256
    { m := some m, l := f32Add (f32Scale a.l ka) (f32Scale b.l kb),
      o := (a.o.zip b.o).map fun x => f32Add (f32Scale x.1 ka) (f32Scale x.2 kb) }

def partOf (t : Step) (i r h row : Nat) (n : CNode) : Option RowPart :=
  (t.units.parts.find? fun x => x.desc == i && x.r == r && x.head == h && x.row == row && x.node == n).map (·.part)

def putPart (s : State) (sid i r h row : Nat) (n : CNode) (p : RowPart) : State :=
  setUnits s sid fun u => { u with parts := u.parts ++ [{ desc := i, r := r, head := h, row := row, node := n, part := p }] }

/-- The axes of R146 as a mask, and the axis number. -/
def attAxes (d : BitVec 512) : Nat := if dfld d 21 22 = 0 then 0 else 2 ^ (dfld d 21 22 - 1)
def attAxis (d : BitVec 512) : Nat := dfld d 21 22 - 1

/-- Ranges of a request's head, once its pages are selected. -/
def headRanges (t : Step) (i r h : Nat) : Option (Nat × Nat) :=
  (attOf t i).bind fun a => (a.sel.find? fun x => x.1 == r && x.2.1 == h).map fun x => (x.2.2.1, rangeCount (descOf t i) x.2.2.2)

/-- The value at the root of a row's range tree. -/
def rangeRoot (t : Step) (i r h row n : Nat) : Option RowPart := partOf t i r h row { stage := 0, lo := 0, n := n }

/-- A child of a node of the slice tree: this module's own stretch, or what has arrived (R146). -/
def sliceLeaf (t : Step) (i r h row n own : Nat) (x : Nat × Nat) : Option RowPart :=
  if x.2 = 1 && x.1 = own then rangeRoot t i r h row n else partOf t i r h row { stage := 1, lo := x.1, n := x.2 }

/-- This module's value of a row: its range root, or the node of the slice tree that it computes. -/
def ownPart (s : State) (t : Step) (i r h row n : Nat) : Option RowPart :=
  let d := descOf t i
  let len := axisLen s t.basin (attAxes d) (attAxis d)
  let c := axisPos s t.basin (attAxes d) (attAxis d)
  sliceLeaf t i r h row n c (c, ownSpan len 0 len c)

/-- A finished row's outputs (R136). -/
def rowOut (p : RowPart) : List (BitVec 32) := if p.l = 0 then p.o.map fun _ => 0 else p.o.map fun x => f32Div x p.l

/-- Where a finished row is written, the exponents first. -/
def rowRanges (d : BitVec 512) (r h row : Nat) (vs : List (BitVec 32)) : List (Nat × List Byte) :=
  let base := rowAt d (dfld d 256 303) (dfld d 240 255) r (rowTok d row)
  let e := rowHq d h row * aDh d
  let of_ := dfld d 10 12
  if of_ = 0 then
    let bs := (pieces 32 vs.length (vs.map ofF32)).map (fitBlock .f4)
    [(base + aQh d * aDh d / 2 + e / 32, bs.map fun b => BitVec.ofNat 8 b.2), (base + e / 2, packCodes .f4 (bs.map (·.1)).flatten)]
  else [(base + (if of_ = 3 then 2 else 4) * e, plainBytes of_ vs)]

/-- The LSE record of a row (R137). -/
def lseBytes (p : RowPart) : List Byte :=
  le 4 (match p.m with
    | some m => unsigned 32 m
    | none => 2 ^ 31) ++ le 4 p.l.toNat

/-- The root writes a row, and its LSE record; with AXIS the row goes to every module of the axis (R136, R137, R146). -/
def finishRow (s : State) (t : Step) (i r h row mill : Nat) (p : RowPart) : State :=
  let d := descOf t i
  let e := reqEnt s t d r
  let out := rowRanges d r h row (rowOut p)
  let lse := if e.lse = 0 then [] else [((lseCuts d e h row).1, lseBytes p)]
  let a := { millAcc s t mill i with task := [2, r, h, row] }
  let begun := t.units.pieces.any fun p => p.unit == a.unit && p.desc == i && p.task == a.task
  let old := if begun then [] else (bytesBefore s t (out ++ lse)).map fun x => (r, x)
  let s := setAtt s t.sid i fun a => { a with before := a.before ++ old }
  match wideWriteMany s a (out ++ lse) with
  | .stop s => s
  | .ok _ s =>
    let s := sendResult s t.basin t.sid (groupMates s t.basin (attAxes d)) i 0 (dfld d 256 303) out
    let empty := b2n (p.l == 0)
    let s := count s 1 (millTrib s t mill) 0 5 empty
    let s := setAtt s t.sid i fun a => { a with
      rowsDone := a.rowsDone ++ [(r, h, row)], empty := a.empty + empty }
    attFinish s t.sid i

/-- A mark that this module has sent its value of a row on. -/
def sentNode : CNode := { stage := 2, lo := 0, n := 0 }

/-- Send this module's value of a row to the module that holds the lower leaf (R146). -/
def sendPart (s : State) (t : Step) (i r h row : Nat) (p : RowPart) : State :=
  let d := descOf t i
  if (partOf t i r h row sentNode).isSome then s
  else
    let k := attAxis d
    let len := axisLen s t.basin (attAxes d) k
    let c := axisPos s t.basin (attAxes d) k
    let (x, y, z) := coordsAt s t.basin k (parentLeaf len 0 len c)
    let s := sendUnits s t.basin (unitJob s t.sid) [.part x y z i r h row p.m p.l p.o]
    putPart s t.sid i r h row sentNode p

/-- Compute a node whose children are there. -/
def mergeNode (s : State) (t : Step) (i r h row ranges : Nat) (n : CNode) : State :=
  let d := descOf t i
  let k := attAxis d
  let len := if n.stage = 0 then ranges else axisLen s t.basin (attAxes d) k
  let own := axisPos s t.basin (attAxes d) k
  if n.n < 2 || 1 < n.stage || (partOf t i r h row n).isSome || !confNode (len + 1) n.lo n.n 0 len ||
      (n.stage == 1 && n.lo != own) then s
  else
    let c := confSplit n.lo n.n
    let get (x : Nat × Nat) : Option RowPart :=
      if n.stage = 0 then partOf t i r h row { stage := 0, lo := x.1, n := x.2 } else sliceLeaf t i r h row ranges own x
    match get c.1, get c.2 with
    | some a, some b => putPart s t.sid i r h row n (mergeParts a b)
    | _, _ => s

/-- RANGE_MERGE (R134 to R137, R146): one merge of a row's tree; a complete row is written, or sent on. -/
def execRangeMerge (sid i r h row : Nat) (node : CNode) (s : State) : Res :=
  match (stepOf s sid).bind fun t => (headRanges t i r h).map fun x => (t, x) with
  | none => .next s
  | some (t, mill, ranges) =>
    let d := descOf t i
    let ended := ((attOf t i).map fun a => a.poisoned.contains r || a.rowsDone.contains (r, h, row)).getD true
    if !stepRuns t || kindOf d != 0x30 || !unitGoes t (uMill mill) then .next s
    else if ended then .next (attFinish s sid i)
    else
      let s := mergeNode s t i r h row ranges node
      let t := (stepOf s sid).getD t
      match ownPart s t i r h row ranges with
      | none => .next s
      | some p =>
        if axisPos s t.basin (attAxes d) (attAxis d) = 0 then .next (finishRow s t i r h row mill p)
        else .next (sendPart s t i r h row p)

/-! ### What arrives from other modules (R146) -/

/-- A partial from the module at a leaf of the axis. -/
def putAttPart (s : State) (t : Step) (i r h row leaf : Nat) (p : RowPart) : State :=
  let d := descOf t i
  let len := axisLen s t.basin (attAxes d) (attAxis d)
  let n : CNode := { stage := 1, lo := leaf, n := ownSpan len 0 len leaf }
  if (partOf t i r h row n).isSome then s else putPart s t.sid i r h row n p

/-- Bytes of a finished row from the root: its elements come last. -/
def putAttRow (s : State) (t : Step) (i off : Nat) (data : List Byte) : State :=
  let d := descOf t i
  match wideWrite s { stewAcc s t i with task := [off] } (dfld d 256 303 + off) data with
  | .stop s => s
  | .ok _ s =>
    let st := dfld d 240 255 * 64
    let of_ := dfld d 10 12
    let el := if of_ = 0 then off % st * 2 else off % st / (if of_ = 3 then 2 else 4)
    if aQh d * aDh d ≤ el then s
    else
      let hq := el / aDh d
      let n := off / st
      let x := (n / aNq d, hq / aG d, n % aNq d * aG d + hq % aG d)
      let s := setAtt s t.sid i fun a => { a with rowsDone := if a.rowsDone.contains x then a.rowsDone else a.rowsDone ++ [x] }
      attFinish s t.sid i

end Sys2Proof.Machine
end

