-- ==== Sys2Proof/Machine/Weir.lean ====
section
/-! DEFINITION. The weir's route and combine passes, the streams of the riffle units, the loss gradient and the accumulation of
weight gradients (R163 to R181, R338, R339, R344 to R346). -/

namespace Sys2Proof.Machine

/-! ### Router rows and scores (R169, R170) -/

def weirAcc (s : State) (t : Step) (i : Nat) : Acc3 := { sid := t.sid, src := stepSteward s t, unit := uWeir, desc := i }

/-- A token's F4 row in the area at ACT (R123, R178). -/
def actAt (d : BitVec 512) (tok : Nat) : Nat := dfld d 256 303 + tok * dfld d 160 175 * 64

/-- Slot s of expert e in the area at BUF. -/
def slotPlace (d : BitVec 512) (stride e sl : Nat) : Nat := dfld d 320 367 + (e * wCape d + sl) * stride * 64

/-- The place of a router row's bytes, or none when its table entries are bad (R43, R71). -/
def routerPlace (s : State) (a : Acc3) (h : WHdr) (e : Nat) : Got (Option (Nat × Nat)) :=
  if h.fmt = 1 then .ok (some (h.data + e * t5RowBytes h.cols, t5RowBytes h.cols)) s
  else match wideHold s a [(h.rowTable, 4), (h.rowTable + 4 * h.rows, 4), (h.rowTable + 4 * e, 8)] with
    | .stop s => .stop s
    | .ok ls s =>
      let w := ofLe (ls.getD 2 [])
      let (x, y) := (fld w 0 31, fld w 32 63)
      let bad := tableBad h (ofLe (ls.getD 0 [])) (ofLe (ls.getD 1 []))
      .ok (if bad.isNone && x ≤ y && y ≤ h.extent then some (h.data + x, y - x) else none) s

/-- The weir detects a fault and stops at it (R90). -/
def weirFault (s : State) (t : Step) (status i addr : Nat) : State := unitFault s t (stepSteward s t) uWeir status i addr

/-- A router row: its trits, and the S8 codes of its scale groups, checked under R46. -/
def routerRow (s : State) (t : Step) (a : Acc3) (i : Nat) (h : WHdr) (e : Nat) : Got (List Int × List Nat) :=
  match routerPlace s a h e with
  | .stop s => .stop s
  | .ok none s => .stop (weirFault s t stIndexRange i h.rowTable)
  | .ok (some (addr, n)) s =>
    match wideHold s a [(addr, n), (h.scales + 2 * e * h.groups, 2 * h.groups)] with
    | .stop s => .stop s
    | .ok ls s =>
      let row := ls.headD []
      let codes := (List.range h.groups).map fun g => ofLe (((ls.getD 1 []).drop (2 * g)).take 2)
      match (if h.fmt = 1 then t5Row h.cols row else tzRow h.cols h.cols (nibbles row)) with
      | none => .stop (weirFault s t (if h.fmt = 1 then stFormatInvalid else stIndexRange) i addr)
      | some ts => if codes.all (s8Valid h.eBase) then .ok (ts, codes) s
        else .stop (weirFault s t stFormatInvalid i (h.scales + 2 * e * h.groups))

/-- Router rows of a list of experts. -/
def routerRows (t : Step) (a : Acc3) (i : Nat) (h : WHdr) : List Nat → State → Got (List (Nat × List Int × List Nat))
  | [], s => .ok [] s
  | e :: l, s =>
    match routerRow s t a i h e with
    | .stop s => .stop s
    | .ok r s => match routerRows t a i h l s with
      | .stop s => .stop s
      | .ok rs s => .ok ((e, r) :: rs) s

/-- The exact sum of a router row over a token's row, folded at every scale group (R77, R169). -/
def routerSum (h : WHdr) (row : List Int × List Nat) (ops : List Opnd) : Acc :=
  let gs := pieces h.g ops.length (row.1.zip ops)
  (gs.zip row.2).foldl (fun acc g =>
    let u := g.1.foldl (fun u x => if x.1 = 0 then u else subAdd u (x.1 < 0) x.2) (.fin 0)
    foldCell g.2 u acc) (.fin 0)

/-- σ of a token for an expert, and whether it was special (R169, R170). -/
def routerScore (d : BitVec 512) (h : WHdr) (row : List Int × List Nat) (x : List Nat × List Nat) : Int × Bool :=
  let ref := xrefOf h.cols x.1 x.2
  let ops := x.1.zipIdx.map fun c => alignF4 ref (x.2.getD (c.2 / 32) 0) c.1
  match routerSum h row ops with
  | .fin v => ((clampScore v (dfld d 96 111) ((ref : Int) + 18 - 144 + h.eBase + signed 8 (dfld d 112 119))).1, false)
  | .inf false => (8388607, true)
  | _ => (-8388607, true)

/-! ### Pre-scores (R171) -/

/-- The second operand of a pre-score, and AM (R171). -/
def routerOpnd (h : WHdr) (row : List Int × List Nat) : List Int × Nat :=
  let am := row.2.foldl (fun m c => max m (s8A c)) 0
  (row.1.zipIdx.map fun x =>
    let c := row.2.getD (x.2 / h.g) 0
    let w : Nat := if s8D c then (if s8N c then 64 - (64 >>> (s8A c - s8C c)) else 64 + (64 >>> (s8A c - s8C c))) else 64
    x.1 * ((w >>> (am - s8A c) : Nat) : Int), am)

/-- One stream of a weir: token and expert. A row of zeros has no stream and reads out 0. -/
def weirStream (s : State) (t : Step) (i tok e : Nat) : State :=
  let d := descOf t i
  let old := t.units.readouts.any fun x => x.desc == i && x.a == tok && x.b == e
  if old || !wRoute d || !wPre d || wToks d ≤ tok || wExps d ≤ e || descDone t i || !descReady s t i then s
  else
    let h := headerAt s t (dfld d 192 239)
    let a := { weirAcc s t i with task := [tok, e] }
    match wideHold s a (rowCuts .f4 (actAt d tok) (wH d) 0 (wH d)) with
    | .stop s => s
    | .ok ls s =>
      let x := (rowsRead .f4 (wH d) ls).headD ([], [])
      if x.2.contains 255 then weirFault s t stFormatInvalid i (actAt d tok)
      else
        let put (s : State) (num exp : Int) (formed : Nat) : State :=
          setUnits (endPiece s a) t.sid fun u => { u with
            readouts := u.readouts ++ [{ desc := i, a := tok, b := e, c := 0, d := 0, num := num, exp := exp }]
            weirs := updW (fun w => w.desc == i) (fun w => { w with estimated := w.estimated + formed }) u.weirs }
        let xs := opndsOf .f4 x
        match topExp xs with
        | none => put s 0 0 0
        | some xa =>
          match routerRow s t a i h e with
          | .stop s => s
          | .ok row s =>
            let (y, am) := routerOpnd h row
            let st := genStart s t (dfld d 304 319) (dfld d 240 255)
            let r := readoutOf (dfld d 18 20) (estX xs xa) y (xa + am) (st 2) (st 0) (st 1)
            put s r.1 r.2 1

/-- One stream of an attention or weir descriptor (R163). -/
def stream (t : Step) (i a b c d : Nat) (s : State) : State :=
  if kindOf (descOf t i) = 0x30 then attStream s t i a b c d
  else if kindOf (descOf t i) = 0x50 then weirStream s t i a b
  else s

/-- The streams of a descriptor: by token and expert, or by request, head, page and row. -/
def descStreams (s : State) (t : Step) (i : Nat) : List (State → State) :=
  let d := descOf t i
  if kindOf d = 0x50 then
    ((List.range (wToks d)).map fun a => (List.range (wExps d)).map fun b => stream t i a b 0 0).flatten
  else if kindOf d = 0x30 then
    ((List.range (aReqs d)).map fun r => ((List.range (aHeads d)).map fun h =>
      ((candPages s t d (reqEnt s t d r) h).map fun k => (List.range (aRows t d r)).map fun row => stream t i r h k row).flatten).flatten).flatten
  else []

/-- The streams of a step in a tributary's riffle unit. -/
def streamTiles (s : State) (trib : Nat) (t : Step) : List (State → State) :=
  if unitTrib s t != trib then [] else ((List.range t.descs.length).map (descStreams s t)).flatten

/-- RIFFLE_STREAM (R163, R166, R399): one stream of an attention or weir descriptor. -/
def execRiffleStream (sid i a b c d : Nat) (s : State) : Res :=
  match (stepOf s sid).filter stepRuns with
  | none => .next s
  | some t => .next (byTurn s t (unitTrib s t) 3 (streamTiles s (unitTrib s t)) (stream t i a b c d))

/-! ### Assignment (R172, R177) -/

/-- A token's place in the assignment: its candidates, its cursor, what it holds (expert, slot), and its flags. -/
structure WTok where
  cand : List Nat
  cur : Nat := 0
  held : List (Nat × Nat) := []
  flags : Nat := 0

structure WAsg where
  toks : List WTok
  counts : List Nat
  dropped : Nat := 0
  moved : Nat := 0
  fellback : Nat := 0

def WTok.holds (w : WTok) (e : Nat) : Bool := w.held.any fun x => x.1 == e

/-- The first place from `k` on whose candidate is not held (and, with a bound, has room). -/
def nextCand (w : WTok) (room : Nat → Bool) (k : Nat) : Option Nat :=
  ((List.range w.cand.length).filter fun j => k ≤ j).find? fun j => !w.holds (w.cand.getD j 0) && room (w.cand.getD j 0)

/-- One rank of one token (R172). -/
def assignOne (d : BitVec 512) (x : WAsg) (n : Nat) : WAsg :=
  match x.toks[n]? with
  | none => x
  | some w =>
    let cape := wCape d
    let room := fun e => decide (x.counts.getD e 0 < cape)
    let fall := dfld d 48 55
    let put (w : WTok) : WAsg := { x with toks := x.toks.set n w }
    let give (w : WTok) (e cur fl : Nat) : WAsg :=
      { x with toks := x.toks.set n { w with cur := cur, held := w.held ++ [(e, x.counts.getD e 0)], flags := w.flags ||| fl }
               counts := x.counts.modify e (· + 1) }
    match nextCand w (fun _ => true) w.cur with
    | none => { put { w with cur := w.cand.length, flags := w.flags ||| 1 } with dropped := x.dropped + 1 }
    | some cur =>
      let e := w.cand.getD cur 0
      if room e then give w e (cur + 1) 0
      else match dfld d 16 17 with
        | 0 => { put { w with cur := cur + 1, flags := w.flags ||| 1 } with dropped := x.dropped + 1 }
        | 1 => match nextCand w room (cur + 1) with
          | some k => { give w (w.cand.getD k 0) (k + 1) 2 with moved := x.moved + 1 }
          | none => { put { w with cur := w.cand.length, flags := w.flags ||| 1 } with dropped := x.dropped + 1 }
        | _ => if room fall && !w.holds fall then { give w fall cur 4 with fellback := x.fellback + 1 }
          else { put { w with cur := cur, flags := w.flags ||| 1 } with dropped := x.dropped + 1 }

/-- The whole assignment, rank by rank. -/
def assignAll (d : BitVec 512) (cands : List (List Nat)) : WAsg :=
  let start : WAsg := { toks := cands.map fun c => { cand := c }, counts := List.replicate (wExps d) 0 }
  (List.range (wTopk d)).foldl (fun x _ => (List.range (wToks d)).foldl (assignOne d) x) start

/-- The candidates of a token by exact σ (R171); the assignment looks at the first SHORT of them (R172, log entry 115). -/
def rankBy (l : List (Nat × Int)) : List Nat := (sortBy (fun a b => b.2 < a.2 || (a.2 == b.2 && a.1 ≤ b.1)) l).map (·.1)

/-- The shortlist of a token, when the estimates it needs are in (R171). -/
def shortlist (t : Step) (i : Nat) (d : BitVec 512) (tok : Nat) : Option (List Nat) :=
  if !wPre d then some (List.range (wExps d))
  else ((List.range (wExps d)).mapM fun e =>
    (t.units.readouts.find? fun x => x.desc == i && x.a == tok && x.b == e).map fun x => (e, x.num, x.exp)).map (bestOf (wShort d))

/-! ### Gates and records (R173, R175) -/

/-- The gate codes and exponent of a token from the σ of what it holds (R173). -/
def gatesOf (d : BitVec 512) (ss : List Int) : List Nat × Nat :=
  match ss with
  | [] => ([], 127)
  | x :: l =>
    if !wExpert d then ([7], 127)
    else
      let m := wholeMax (l.foldl max x)
      let ps := ss.map fun v => expWeight (m - v).toNat
      let total := toF32 (.fin false ps.sum 0)
      let gs := ps.map fun p => ofF32 (f32Div (toF32 (.fin false p 0)) total)
      let b := fitBlock .p2 (gs ++ List.replicate (32 - gs.length) (.fin false 0 0))
      (b.1.take ss.length, b.2)

/-- A routing record (R175). -/
def routeBytes (held : List (Nat × Nat)) (flags : Nat) (g : List Nat × Nat) : List Byte :=
  let pad := List.replicate (8 - held.length) 0
  le 1 held.length ++ le 1 flags ++ le 1 g.2 ++ le 1 0 ++ ((held.map (·.1)) ++ pad).map (BitVec.ofNat 8) ++
    packNibbles (g.1 ++ pad) ++ (((held.map (·.2)) ++ pad).map (le 2)).flatten

/-- What a route pass counts (R180). -/
structure WCounts where
  exact : Nat := 0
  skipped : Nat := 0
  skippedCap : Nat := 0
  special : Nat := 0

/-- Tokens in skip mode, in order (R177): what each holds, with its flags, and the counts. -/
def skipAssign (d : BitVec 512) : List Int → Nat → WCounts → List (List (Nat × Nat) × Nat) × WCounts
  | [], _, c => ([], c)
  | x :: l, n, c =>
    let th := signed 32 (dfld d 128 159)
    if th ≤ x && n < wCape d then
      let r := skipAssign d l (n + 1) c
      (([(0, n)], 0) :: r.1, r.2)
    else
      let c := if th ≤ x then { c with skippedCap := c.skippedCap + 1 } else { c with skipped := c.skipped + 1 }
      let r := skipAssign d l n c
      (([], 8) :: r.1, r.2)

/-- The tokens' rows, as bytes. -/
def tokenBytes (s : State) (t : Step) (i : Nat) (toks : List Nat) : Got (List (List Byte)) :=
  let d := descOf t i
  match wideHold s (weirAcc s t i) (toks.map fun n => (actAt d n, BFmt.rowBytes .f4 (wH d))) with
  | .stop s => .stop s
  | .ok rows s =>
    match rows.findIdx? fun r => (r.drop (wH d / 2)).any (·.toNat == 255) with
    | some n => .stop (weirFault s t stFormatInvalid i (actAt d (toks.getD n 0)))
    | none => .ok rows s

/-- Codes and exponents of a whole F4 row. -/
def f4Row (n : Nat) (l : List Byte) : List Nat × List Nat :=
  ((List.range n).map (rowCode .f4 l), (List.range (n / 32)).map (rowExp .f4 n l))

/-- σ of a token for an expert among the router rows read. -/
def sigmaOf (d : BitVec 512) (h : WHdr) (rs : List (Nat × List Int × List Nat)) (row : List Byte) (e : Nat) : Int × Bool :=
  routerScore d h (((rs.find? fun x => x.1 == e).map (·.2)).getD ([], [])) (f4Row (wH d) row)

/-- The fallback expert, where OVF names one. -/
def wFall (d : BitVec 512) : Option Nat := if dfld d 16 17 = 2 then some (dfld d 48 55) else none

/-- A scored token, from its row, the router's rows and its shortlist (R169 to R171). -/
def scoreTok (d : BitVec 512) (h : WHdr) (rs : List (Nat × List Int × List Nat)) (row : List Byte) (short : List Nat) : WScore where
  row := row
  sig := short.map fun e => (e, sigmaOf d h rs row e)
  fall := (wFall d).bind fun e => if short.contains e then none else some (sigmaOf d h rs row e)

/-- σ of an expert that a scored token holds; one outside the shortlist is the fallback (R172). -/
def sigOf (w : WScore) (e : Nat) : Int × Bool :=
  match w.sig.find? fun x => x.1 == e with
  | some x => x.2
  | none => w.fall.getD (0, false)

/-- The outcome of the assignment over all scored tokens: what each holds, with its flags, the counts of the experts, and the
status record's counts (R172, R177, R180). -/
structure WPlan where
  held : List (List (Nat × Nat) × Nat)
  counts : List Nat
  asg : WAsg
  cnt : WCounts

def routePlan (d : BitVec 512) (l : List WScore) : WPlan :=
  let spec (x : List (Int × Bool)) : Nat := (x.filter (·.2)).length
  let asg := assignAll d (l.map fun w => (rankBy (w.sig.map fun x => (x.1, x.2.1))).take (wShort d))
  let first : WCounts := { exact := (l.map fun w => w.sig.length).sum, special := (l.map fun w => spec (w.sig.map (·.2))).sum }
  if wExpert d then
    let held := asg.toks.map fun w => (w.held, w.flags)
    let late := ((held.zip l).map fun x => (x.1.1.filter fun y => !(x.2.sig.any fun z => z.1 == y.1)).map fun y => sigOf x.2 y.1).flatten
    { held := held, counts := asg.counts, asg := asg
      cnt := { first with exact := first.exact + late.length, special := first.special + spec late } }
  else
    let sk := skipAssign d (l.map fun w => ((w.sig.head?).map fun x => x.2.1).getD 0) 0 first
    { held := sk.1, counts := [(sk.1.filter fun x => !x.1.isEmpty).length], asg := asg, cnt := sk.2 }

/-- What a route pass writes for token n: its row into every slot that it holds, and its routing record (R174, R175). -/
def tokenOut (d : BitVec 512) (l : List WScore) (p : WPlan) (n : Nat) : List (Nat × List Byte) :=
  match l[n]?, p.held[n]? with
  | some w, some x =>
    x.1.map (fun y => (slotPlace d (dfld d 160 175) y.1 y.2, w.row)) ++
      [(dfld d 384 431 + 32 * n, routeBytes x.1 x.2 (gatesOf d (x.1.map fun y => (sigOf w y.1).1)))]
  | _, _ => []

/-- A row of zeros in F4 (R55). -/
def zeroRow (d : BitVec 512) : List Byte := List.replicate (wH d / 2) 0 ++ List.replicate (wH d / 32) 0x7F

/-- The route pass's status record (R180). -/
def routeStatus (d : BitVec 512) (p : WPlan) (estimated : Nat) : List Byte :=
  let lost := if wExpert d then le 2 (sat 16 p.asg.dropped) ++ le 2 (sat 16 p.asg.moved) ++ le 2 (sat 16 p.asg.fellback) else le 6 0
  le 4 (sat 32 p.cnt.exact) ++ le 4 (sat 32 (if wExpert d then estimated else 0)) ++ lost ++ le 2 (sat 16 p.cnt.skipped) ++
    le 2 (sat 16 p.cnt.skippedCap) ++ le 2 (sat 16 p.cnt.special) ++ le 2 (dfld d 240 255) ++ List.replicate 10 0

/-- What a route pass writes after its last token: zero rows in the slots that no token holds, the counts and the status record
(R174, R175, R180). -/
def routeEnd (d : BitVec 512) (p : WPlan) (estimated : Nat) : List (Nat × List Byte) :=
  let slots := ((List.range (wExps d)).map fun e =>
    ((List.range (wCape d)).filter fun sl => !(p.held.any fun x => x.1.contains (e, sl))).map fun sl =>
      (slotPlace d (dfld d 160 175) e sl, zeroRow d)).flatten
  slots ++ [(dfld d 384 431 + wCounts d, (p.counts.map (le 2)).flatten), (dfld d 384 431 + wStatus d, routeStatus d p estimated)]

/-- Change the progress of a weir descriptor. -/
def setWeir (s : State) (sid i : Nat) (f : WeirCtx → WeirCtx) : State :=
  setUnits s sid fun u => { u with weirs := updW (fun w => w.desc == i) f u.weirs }

/-- The step, when descriptor `i` is of this kind, runs, is ready and has not finished. -/
def readyDesc (s : State) (sid i kind : Nat) : Option Step :=
  (runsDesc s sid i kind).bind fun t => if descDone t i || !descReady s t i then none else some t

/-- Score the next token of a route pass, when the estimates that its shortlist needs are in. The scale's code is checked as it is
read (R46, R71). -/
def routeScore (s : State) (t : Step) (i n : Nat) : State :=
  let d := descOf t i
  match shortlist t i d n with
  | none => s
  | some short =>
    if !s8At d 96 112 then weirFault s t stFormatInvalid i (descAddr (progBase t) i)
    else
      let h := headerAt s t (dfld d 192 239)
      match tokenBytes s t i [n] with
      | .stop s => s
      | .ok rows s =>
        match routerRows t (weirAcc s t i) i h (short ++ (wFall d).toList).eraseDups s with
        | .stop s => s
        | .ok rs s => setWeir (endPiece s (weirAcc s t i)) t.sid i fun w => { w with scored := w.scored ++ [scoreTok d h rs (rows.headD []) short] }

/-- Write the outputs of the next token of a route pass; the last token's take the counts, the empty slots and the status record
with them. -/
def routeWrite (s : State) (t : Step) (i : Nat) (w : WeirCtx) : State :=
  let d := descOf t i
  let p := routePlan d w.scored
  let last := w.tok + 1 == wToks d
  match wideWriteMany s (weirAcc s t i) (tokenOut d w.scored p w.tok ++ (if last then routeEnd d p w.estimated else [])) with
  | .stop s => s
  | .ok _ s => setWeir s t.sid i fun w => { w with tok := w.tok + 1, done := last }

/-- The weir's context of a descriptor whose pass may take its next token: the weir yields between tokens (R181, R322). -/
def weirReady (s : State) (sid i : Nat) : Option (Step × WeirCtx) :=
  (readyDesc s sid i 0x50).bind fun t =>
    if !unitGoes t uWeir then none else (t.units.weirs.find? fun w => w.desc == i).map fun w => (t, w)

/-- A route pass takes its next token (R169 to R177, R180, R181). Every token is scored; the assignment runs over all of them; then each
token's record and slots are written. A fallback expert outside the shortlist counts as scored when a token falls back to it (log entry
37). -/
def routeTok (t : Step) (i : Nat) (w : WeirCtx) (s : State) : State :=
  if w.scored.length < wToks (descOf t i) then routeScore s t i w.scored.length else routeWrite s t i w

/-! ### Combine (R176) -/

/-- A routing record read back: the experts with slots and gates, SKIPPED, and whether it is in range (R179). -/
structure WRoute where
  items : List (Nat × Nat × FVal)
  skipped : Bool
  ok : Bool

def routeOf (d : BitVec 512) (l : List Byte) : WRoute :=
  let n := byteAt l 0
  let items := (List.range (min n 8)).map fun j =>
    let g := byteAt l (12 + j / 2)
    (byteAt l (4 + j), ofLe ((l.drop (16 + 2 * j)).take 2), elemOr .p2 (byteAt l 2) (if j % 2 = 0 then g % 16 else g / 16))
  { items := items, skipped := bitAt (byteAt l 1) 3,
    ok := n ≤ wTopk d && items.all fun x => x.1 < wExps d && x.2.1 < wCape d }

/-- The status with which a combine pass refuses a record: indices out of range (R179), or gates whose exponent byte is 255
(R71). -/
def recordFault (d : BitVec 512) (l : List Byte) : Option Nat :=
  if !(routeOf d l).ok then some stIndexRange
  else if !(routeOf d l).skipped && byteAt l 0 != 0 && byteAt l 2 == 255 then some stFormatInvalid
  else none

/-- The values of an expert's output row (R176). -/
def yVals (d : BitVec 512) (l : List Byte) : List FVal :=
  (List.range (wH d)).map fun k => if bitAt d.toNat 24 then ofBf16 (ofLe ((l.drop (2 * k)).take 2))
    else ofF32 (BitVec.ofNat 32 (ofLe ((l.drop (4 * k)).take 4)))

/-- An output row in OFMT (R176). -/
def combineRow (d : BitVec 512) (vs : List (BitVec 32)) : List Byte :=
  if dfld d 21 23 = 0 then fitRow .f4 (vs.map ofF32) else plainBytes (dfld d 21 23) vs

/-- A skipped token's own row (R176). -/
def skippedRow (d : BitVec 512) (l : List Byte) : List Byte :=
  if dfld d 21 23 = 0 then l
  else
    let x := f4Row (wH d) l
    plainBytes (dfld d 21 23) ((rowVals .f4 x).map toF32)

/-- Weighted sum of the rows that a token holds (R176). DESIGN CHOICE (log entry 125): a gate code of 0 times an infinite element is
NaN, as in IEEE 754 multiplication; the rule speaks of shifts of the element only. -/
def combineSum (d : BitVec 512) (ys : List (FVal × List Byte)) : List (BitVec 32) :=
  ys.foldl (fun acc y => (acc.zip (yVals d y.2)).map fun x => f32Add x.1 (toF32 (mulV y.1 x.2))) (List.replicate (wH d) 0)

/-- The output row of token n, from its record (R176). -/
def combineTok (s : State) (t : Step) (i n : Nat) (r : WRoute) : Got (List Byte) :=
  let d := descOf t i
  if r.skipped then
    match tokenBytes s t i [n] with
    | .stop s => .stop s
    | .ok rows s => .ok (skippedRow d (rows.headD [])) s
  else
    match wideHold s (weirAcc s t i) (r.items.map fun x => (slotPlace d (dfld d 176 191) x.1 x.2.1, wYbytes d)) with
    | .stop s => .stop s
    | .ok ys s => .ok (combineRow d (combineSum d ((r.items.map (·.2.2)).zip ys))) s

/-- A combine pass takes its next token, by the token's record in the routing area (R176, R179, R181). -/
def combineNext (t : Step) (i : Nat) (w : WeirCtx) (s : State) : State :=
  let d := descOf t i
  let n := w.tok
  match wideHold s (weirAcc s t i) [(dfld d 384 431 + 32 * n, 32)] with
  | .stop s => s
  | .ok ls s =>
    let l := ls.headD []
    match recordFault d l with
    | some st => weirFault s t st i (dfld d 384 431 + 32 * n)
    | none =>
      match combineTok s t i n (routeOf d l) with
      | .stop s => s
      | .ok row s =>
        match wideWrite s (weirAcc s t i) (dfld d 448 495 + n * dfld d 368 383 * 64) row with
        | .stop s => s
        | .ok _ s => setWeir s t.sid i fun w => { w with tok := n + 1, done := n + 1 = wToks d }

/-- The next token of a weir descriptor. -/
def weirTok (t : Step) (i : Nat) (w : WeirCtx) (s : State) : State :=
  if wRoute (descOf t i) then routeTok t i w s else combineNext t i w s

/-- The next tokens of a step in a tributary's weir. -/
def weirTiles (s : State) (trib : Nat) (t : Step) : List (State → State) :=
  if unitTrib s t != trib then [] else
    (t.units.weirs.filter fun w => (weirReady s t.sid w.desc).isSome).map fun w => weirTok t w.desc w

/-- The weir takes the next token of a descriptor, in its basin's turn (R399). -/
def weirTurn (s : State) (sid i : Nat) (route : Bool) : State :=
  match weirReady s sid i with
  | none => s
  | some (t, w) =>
    if wRoute (descOf t i) != route then s
    else byTurn s t (unitTrib s t) 1 (weirTiles s (unitTrib s t)) (weirTok t i w)

/-- WEIR_ROUTE (R169 to R177, R180, R181, R399). -/
def execWeirRoute (sid i : Nat) (s : State) : Res := .next (weirTurn s sid i true)

/-- WEIR_COMBINE (R176, R179, R181, R399). -/
def execWeirCombine (sid i : Nat) (s : State) : Res := .next (weirTurn s sid i false)

/-! ### The loss gradient (R338, R339) -/

/-- A logit, NaN read as −INF. -/
def logitOf (w : BitVec 32) : FVal :=
  match ofF32 w with
  | .nan => .inf true
  | v => v

/-- The largest finite logit. -/
def topLogit (l : List FVal) : Option FVal :=
  l.foldl (fun m v => match v with
    | .fin .. => match m with
      | some x => if ltV x v then some v else m
      | none => some v
    | _ => m) none

/-- The index of the largest logit, the lower one of equals. -/
def argMax (l : List FVal) : Nat :=
  (l.zipIdx.foldl (fun m x => match m with
    | none => some x
    | some y => if ltV y.1 x.1 then some x else m) none).elim 0 (·.2)

/-- The weight of a logit against the largest finite one (R339); of +INF the spec states none (log entry 36). -/
def logitWeight (top v : FVal) (j : Nat) (base : Int) (code : Nat) : Nat :=
  match v with
  | .inf false => Config.infWeight j
  | v => expWeight (-(scaledFloor (addV v (negV top)) base code)).toNat

/-- The weights of a side, none when it has no finite logit. -/
def sideWeights (l : List FVal) (base : Int) (code : Nat) : Option (List Nat) :=
  (topLogit l).map fun top => l.zipIdx.map fun x => logitWeight top x.1 x.2 base code

/-- w / W as an F32 (R136, R339). -/
def ratioF32 (w total : Nat) : BitVec 32 :=
  if total = 0 then 0x7FC00000 else BitVec.ofNat 32 (roundMag 24 ((w <<< 90) / total) (-90) ((w <<< 90) % total != 0))

/-- The gradient of one position: values of d, none when a side has no finite logit (R339). -/
def lossVals (d : BitVec 512) (sl tl : List FVal) (label : Nat) : Option (List (BitVec 32)) :=
  match sideWeights sl (-8) (dfld d 16 31), sideWeights tl (-8) (dfld d 16 31) with
  | some ws, some wt =>
    let (sa, ta) := (ws.sum, wt.sum)
    let lab := bitAt d.toNat 9
    let al := if lab then p2Mags.getD (dfld d 10 12) 0 else 0
    some ((ws.zip wt).zipIdx.map fun x =>
      let y := toF32 (mulV (ofF32 (ratioF32 x.1.2 ta)) (.fin false (32 - al) (-5)))
      let y := if lab && x.2 = label then f32Add y (toF32 (.fin false al (-5))) else y
      toF32 (mulS8 (ofF32 (f32Sub (ratioF32 x.1.1 sa) y)) (signed 8 (dfld d 48 55)) (dfld d 32 47)))
  | _, _ => none

/-- A gradient row as written: G8 with fitted exponents, rounded to nearest or by draws (R339 step 6). -/
def lossRow (vs : List FVal) (draw : Nat → Option Nat) : List Byte :=
  let bs := (pieces 32 vs.length vs).zipIdx.map fun b =>
    let x := fitExp .g8 b.1
    (b.1.zipIdx.map fun v => elemCode .g8 x v.1 (draw (32 * b.2 + v.2)), x)
  packCodes .g8 (bs.map (·.1)).flatten ++ bs.map fun b => BitVec.ofNat 8 b.2

/-- The F32 logits of a position. -/
def logitsOf (l : List Byte) : List FVal := (f32sOf l).map logitOf

/-- The whole of a loss descriptor from its inputs: rows and status record. -/
def lossOut (s : State) (t : Step) (i : Nat) (sl tl : List (List Byte)) (labels : List Nat) : List (Nat × List Byte) :=
  let d := descOf t i
  let st := genStart s t (dfld d 368 383) (dfld d 112 127) 0
  let vocab := lVocab d
  let pos := ((sl.zip tl).map fun x => (logitsOf x.1, logitsOf x.2)).zipIdx
  let vals := pos.map fun x => lossVals d x.1.1 x.1.2 (labels.getD x.2 vocab)
  let rows := vals.zipIdx.map fun x =>
    let vs := (x.1.getD (List.replicate vocab 0)).map ofF32
    (dfld d 256 303 + x.2 * dfld d 304 319 * 64,
     lossRow vs fun j => if bitAt d.toNat 8 then some (roundDraw st (x.2 * vocab + j)) else none)
  let same := (pos.filter fun x => argMax x.1.1 == argMax x.1.2).length
  let empty := (vals.filter (·.isNone)).length
  rows ++ [(dfld d 384 431, le 4 (sat 32 (lToks d)) ++ le 4 (sat 32 same) ++ le 2 (sat 16 empty) ++ le 2 (dfld d 112 127) ++
    List.replicate 20 0)]

/-- LOSS_COMPUTE (R339): the gradient at the student output and the status record. -/
def execLossCompute (sid i : Nat) (s : State) : Res :=
  match (readyDesc s sid i 0x70).filter fun t => unitGoes t uSteward with
  | none => .next s
  | some t =>
    let d := descOf t i
    let a := stewAcc s t i
    let toks := List.range (lToks d)
    let lab := bitAt d.toNat 9
    let cuts := toks.map (fun n => (dfld d 128 175 + n * dfld d 176 191 * 64, 4 * lVocab d)) ++
      toks.map (fun n => (dfld d 192 239 + n * dfld d 240 255 * 64, 4 * lVocab d)) ++
      (if lab then [(dfld d 320 367, 4 * lToks d)] else [])
    match wideHold s a cuts with
    | .stop s => .next s
    | .ok ls s =>
      let labels := if lab then toks.map fun n => ofLe (((ls.getLastD []).drop (4 * n)).take 4) else []
      match labels.findIdx? fun x => lVocab d ≤ x with
      | some n => .next (unitFault s t a.src uSteward stIndexRange i (dfld d 320 367 + 4 * n))
      | none =>
        match wideWriteMany s a (lossOut s t i (ls.take (lToks d)) ((ls.drop (lToks d)).take (lToks d)) labels) with
        | .stop s => .next s
        | .ok _ s => .next (setUnits s sid fun u => { u with losses := u.losses ++ [i] })

/-! ### Weight gradients (R346) -/

/-- The value of a container as F32 at an exponent (R346, R111). -/
def gradTerm (a : Acc) (eref : Nat) : BitVec 32 :=
  match a with
  | .fin v => narrow32 (fvalOf v ((eref : Int) - 282))
  | .inf n => toF32 (.inf n)
  | .nan => 0x7FC00000

/-- One element through the records of its chunks. -/
def gradElem (c l k : Nat) (start : BitVec 32) (recs : List (List Byte)) : BitVec 32 :=
  recs.foldl (fun acc r =>
    let v := accOf (ofLe ((r.drop (4 * (l * c + k))).take 4))
    let e := ofLe ((r.drop (65536 + 2 * (l / 32 * (c / 32) + k / 32))).take 2)
    f32Add acc (gradTerm v e)) start

/-- An F32 that is infinity or NaN. -/
def nonFinite (w : BitVec 32) : Bool := fld w.toNat 23 30 == 255

/-- The status record (R346). -/
def gradStatusBytes (m : MatCtx) (tag : Nat) : List Byte :=
  le 8 (sat 64 m.products) ++ le 8 (sat 64 m.beats) ++ le 4 (sat 32 m.nonfinite) ++ le 2 tag ++ List.replicate 10 0

/-- Every tile has been accumulated: the status record follows (R346). -/
def gradFinish (s : State) (sid i : Nat) : State :=
  match (stepOf s sid).bind fun t => (t.units.mats.find? fun m => m.desc == i).map fun m => (t, m) with
  | none => s
  | some (t, m) =>
    let d := descOf t i
    if m.statusDone || m.accDone.length < mNrt d * mNtt d || !t.faults.isEmpty then s
    else match wideWrite s (stewAcc s t i) (dfld d 448 495) (gradStatusBytes m (dfld d 368 383)) with
      | .stop s => s
      | .ok _ s => setMat s sid i fun m => { m with statusDone := true }

/-- GRADIENT_ACCUMULATE (R346): the records of one tile of rows and columns are added into GACC. What stood there is kept until the step
ends: a discarded step adds nothing (R71, R90). -/
def execGradientAccumulate (sid i rt ct : Nat) (s : State) : Res :=
  match (runsDesc s sid i 0x11).bind fun t => (t.units.mats.find? fun m => m.desc == i).map fun m => (t, m) with
  | none => .next s
  | some (t, m) =>
    let d := descOf t i
    let nk := mNk d
    let items := (List.range nk).map fun kc => (rt * mNtt d + ct) * nk + kc
    if !unitGoes t uAdder || mNrt d ≤ rt || mNtt d ≤ ct || !items.all (itemDrained t i) then .next s
    else if m.accDone.contains (rt, ct) then .next (gradFinish s sid i)
    else
      let a := { adderAcc s t d i (items.headD 0) with task := [rt, ct] }
      let c := tileC (mCw d)
      let nl := tileNL (mCw d)
      let rows := List.range (min nl (mRows d - rt * nl))
      let cols := min c (32 * mKlen d - ct * c)
      let place (l : Nat) : Nat := dfld d 384 431 + (rt * nl + l) * dfld d 432 447 * 64 + 4 * (ct * c)
      let init := bitAt d.toNat 10
      let cuts := items.map (fun k => (mPsum d + k * recSize, recSize)) ++ (if init then [] else rows.map fun l => (place l, 4 * cols))
      let begun := t.units.pieces.any fun p => p.unit == a.unit && p.desc == i && p.task == a.task && p.isWrite
      match wideHold s a cuts with
      | .stop s => .next s
      | .ok ls s =>
        let recs := ls.take nk
        let out := rows.map fun l =>
          let old := f32sOf ((ls.drop nk).getD l [])
          (place l, (List.range cols).map fun k => gradElem c l k (if init then 0 else old.getD k 0) recs)
        let old := if begun then [] else bytesBefore s t (out.map fun x => (x.1, f32Bytes x.2))
        let s := setUnits s sid fun u => { u with before := u.before ++ old }
        match wideWriteMany s a (out.map fun x => (x.1, f32Bytes x.2)) with
        | .stop s => .next s
        | .ok _ s =>
          let bad := (out.map fun x => (x.2.filter nonFinite).length).sum
          let s := setMat s sid i fun m => { m with accDone := m.accDone ++ [(rt, ct)], nonfinite := m.nonfinite + bad }
          .next (gradFinish s sid i)

end Sys2Proof.Machine
end

