-- ==== Sys2Proof/Machine/Eddies.lean ====
section
/-! DEFINITION. Accesses to eddies by a command of their own, the stall watchdog, the status record, and transfers that arrive
at a window (R189 to R204). -/

namespace Sys2Proof.Machine

/-- The source that reports for a unit (R525, log entry 25). -/
def unitSrc (s : State) (t : Step) (unit : Nat) : Nat :=
  match unit % 16 with
  | 0 => srcReach (stepReach s t (unit / 16))
  | 3 => srcSteward (millTrib s t (unit / 16))
  | 6 => srcTrunk (stepTrib s t 0 / 4)
  | _ => stepSteward s t

/-- The eddy of a step. -/
def eddyOf (t : Step) (eid : Nat) : Option Eddy := t.units.eddies.find? fun e => e.eid == eid

/-- One access to an eddy at a byte offset of its logical range; a stall keeps it with its data (R190). -/
def eddyAccess (s : State) (t : Step) (e : Eddy) (unit off : Nat) (isWrite : Bool) (data : List Byte) : State :=
  let d := descOf t e.desc
  let a : Acc3 := { sid := t.sid, src := unitSrc s t unit, unit := unit, desc := e.desc }
  let n := min data.length (64 - off % 64)
  match touchUnit s a isWrite (eddyLbase d + off) with
  | .ok p s => if isWrite then { s with mem := memPuts s.mem p (data.take n) } else s
  | .stop s => setEddy s t.sid e.eid fun e => { e with
      stalls := updW (fun y => y.unit == unit && y.off == off / 64 && y.isWrite == isWrite)
        (fun y => { y with direct := true, at_ := off, data := data }) e.stalls }

/-- An access command: the eddy is bound, the offset lies in its logical range, and the unit does not already wait there. -/
def eddyCmd (sid eid unit off : Nat) (isWrite : Bool) (data : List Byte) (s : State) : Res :=
  match (stepOf s sid).bind fun t => (eddyOf t eid).map fun e => (t, e) with
  | none => .next s
  | some (t, e) =>
    if !stepWorks t || eddySpan (descOf t e.desc) ≤ off ||
        e.stalls.any fun y => y.unit == unit && y.off == off / 64 && y.isWrite == isWrite then .next s
    else .next (eddyAccess s t e unit off isWrite data)

/-- EDDY_WRITE (R190): a unit writes one unit of a logical slot. -/
def execEddyWrite (sid eid unit off : Nat) (data : List Byte) (s : State) : Res := eddyCmd sid eid unit off true data s

/-- EDDY_READ (R190): a unit reads one unit of a logical slot. -/
def execEddyRead (sid eid unit off : Nat) (s : State) : Res := eddyCmd sid eid unit off false [] s

/-- The waiting accesses that came by a command of their own are tried again, in the order in which they stalled. -/
def resumeStalls (sid eid : Nat) : List EStall → State → State
  | [], s => s
  | y :: l, s =>
    match (stepOf s sid).bind fun t => (eddyOf t eid).map fun e => (t, e) with
    | none => s
    | some (t, e) =>
      resumeStalls sid eid l
        (if y.direct && stepWorks t && e.stalls.contains y then eddyAccess s t e y.unit y.at_ y.isWrite y.data else s)

/-- The watchdog's length in ns (R194). -/
def wdogLimit (d : BitVec 512) : Nat := if dfld d 16 23 = 0 then 2000000 else 100000 * dfld d 16 23

/-- What an eddy's watchdog has counted (R197). -/
def wdogCount (now : Nat) (e : Eddy) : Nat := e.wdogSum + e.wdogSince.elim 0 (now - ·)

/-- EDDY_WATCHDOG_EXPIRY (R197, R198): a stall without progress for the watchdog's length ends the job. The expiry takes effect when
the nanosecond in which the limit is reached is over, so that progress in that nanosecond wins. The step reports what ranks first
among the faults it has detected (R199). -/
def execEddyWatchdogExpiry (sid eid : Nat) (s : State) : Res :=
  match (stepOf s sid).bind fun t => (eddyOf t eid).map fun e => (t, e) with
  | none => .next s
  | some (t, e) =>
    let d := descOf t e.desc
    if !stepWorks t || t.held || e.stalls.isEmpty || wdogCount s.now e ≤ wdogLimit d then .next s
    else
      let src := stepSteward s t
      let (hd, tl) := (eddyHead e, eddyTail e)
      let kind := (e.stalls.head?.map fun y => y.unit % 16).getD 0
      let s := raise s src evEddyStall [e.eid, dfld d 304 319, hd, tl, kind] [t.basin]
      let f : Flt := { status := stEddyStall, src := src, desc := e.desc, tag := dfld d 304 319, aux := e.eid,
                       arg0 := hd, arg1 := tl }
      let s := stepFlt s t f
      let s := setStep s sid fun t => { t with status := worstStatus t.faults }
      .next (endJob s t.basin t.job stEddyStall)

/-- The status record of an eddy at the end of its step (R196). -/
def eddyRecord (d : BitVec 512) (e : Eddy) : List Byte :=
  le 4 e.filled ++ le 4 e.released ++ le 4 e.pstall ++ le 4 e.cstall ++ le 2 (sat 16 (e.slots.filter (·.full)).length) ++
    le 2 e.eid ++ le 2 (dfld d 304 319) ++ List.replicate 10 0

/-- Unbind the eddies of a step and write their status records (R193, R196). -/
def unbindEddies (s : State) (t : Step) : State :=
  let s := setUnits s t.sid fun u => { u with eddies := [] }
  t.units.eddies.foldl (fun s e =>
    let d := descOf t e.desc
    let t0 := { t with units := { t.units with eddies := [] } }
    (eddyRecord d e).zipIdx.foldl (fun s x => match writePlace s t0 (dfld d 256 303 + x.2) with
      | .at_ p => { s with mem := memPut s.mem p x.1 }
      | .refused _ => s) s) s

/-! ### Windows (R202 to R204) -/

/-- A job of a basin is this module's part of a slice job (R437): of the group named, or of the group that runs the training object
named. -/
def jobInPart (s : State) (b n : Nat) (p : Nat × Nat) : Bool :=
  (jobOf s b n).any fun j =>
    if p.1 = 1 then j.gid == p.2 else s.trains.any fun t => t.basin == b && fld t.word.toNat 0 31 == p.2 && tnGid t == j.gid

/-- A window belongs to the slice job of a transfer (R202, R437): the part in the transfer's header, or, of a transfer outside a step, the
job it names. -/
def windowOf (s : State) (w : Window) (job : Nat) (part : Option (Nat × Nat × Nat)) : Bool :=
  match part with
  | some p => w.lend.isNone && jobInPart s w.basin w.job (p.1, p.2.1)
  | none => w.job == job

/-- The open window that a transfer names (R202): of its job, else another job's of the same number. -/
def windowNamed (s : State) (basin job wid : Nat) (part : Option (Nat × Nat × Nat)) : Option Window :=
  let ws := s.pools.windows.filter fun w => w.basin == basin && w.wid == wid && w.closing.isNone
  (ws.find? fun w => windowOf s w job part).orElse fun _ => ws.head?

/-- The first check of R202 that a transfer fails, by its place in the list. -/
def windowCheck (s : State) (sx sy sz basin job wid : Nat) (part : Option (Nat × Nat × Nat)) (isRead : Bool) (roff len : Nat) :
    Option Nat :=
  match windowNamed s basin job wid part with
  | none => some 0
  | some w =>
    if !windowOf s w job part then some 1
    else if !w.any && !(w.px == sx && w.py == sy && w.pz == sz) then some 2
    else if !(if isRead then w.rd else w.wr) then some 3
    else if w.len < roff + len then some 4
    else none

/-- The step through which a window's accesses run: the one bound for its job, or none between steps. -/
def windowStep (s : State) (b n : Nat) : Option Step :=
  s.steps.find? fun t => t.basin == b && t.job == n && t.bound && !t.stopped

/-- A job's memory between its steps (R202): the place of a byte, by job alone. -/
def jobStep (b n : Nat) : Step :=
  { sid := 0, basin := b, gid := 0, kind := .serve false, cls := 0, job := n, vid := 0, base := 0, gen := 0, formT := 0 }

/-- What became of one unit of an accepted transfer. -/
inductive WinOut where
  | done
  | wait
  | denied
  deriving DecidableEq, Repr

/-- A page under move keeps a window access waiting until step 4 of R227 (R228). -/
def pageMoving (s : State) (b addr : Nat) : Bool := tieredBase ≤ addr && ((pageOf s b (addr / 4096)).bind (·.moving)).isSome

/-- A unit of a remote read goes back to the module that asked (R201). -/
def windowReply (s : State) (a : WinAcc) (bs : List Byte) : State :=
  sendUnits s a.basin a.part [.window a.x a.y a.z a.wid a.roff bs]

/-- The borrower's answer of a unit in memory lent to this module, where the access reaches one (R228, R247). -/
def idleLent (s : State) (a : WinAcc) : LentOut × State :=
  match if a.isRead && tieredBase ≤ a.addr then pageOf s a.basin (a.addr / 4096) else none with
  | some e => lentGet s e 0 (uWindow a.wid) a.addr
  | none => (.here, s)

/-- An accepted transfer that reaches what it may not: nothing is read or written, and the sender is told as by a failed check
(log entry 122). -/
def windowDenied (s : State) (a : WinAcc) : State :=
  sendUnits s a.basin a.part [.refuse a.x a.y a.z a.wid]

/-- The refusal of a window access that no step of the job covers: poisoned WORK or TRAIN data ends the job (R236); anything else
is a fault of the job (R186, log entry 122). -/
def idleDenied (s : State) (a : WinAcc) (st : Nat) : State :=
  let f : Flt := { status := st, src := srcTrunk 0, desc := 0xFFFF, tag := 0, aux := a.wid, addr := a.addr }
  let s := stepFaultRecord s a.basin a.job f
  if st = stDataPoisoned then endJob s a.basin a.job st else s

/-- The place of a unit in frames that this module has lent, when the transfer's window carries them (R246, R247). -/
def lendPlace (s : State) (a : WinAcc) : Option Nat :=
  (s.pools.windows.find? fun w => w.basin == a.basin && w.job == a.job && w.wid == a.wid && w.lend.isSome).bind fun w =>
    (s.tiers.lends.find? fun l => l.asLender && l.live && some l.index == w.lend).map fun l => frameAt l.tier l.first + 64 * a.roff

/-- A unit read or written at its place; the page it reaches has been used (R231). -/
def unitAt (s : State) (a : WinAcc) (p : Nat) : State :=
  let s := touch s a.basin (a.addr / 4096)
  if a.isRead then windowReply s a (memGets s.mem p 64) else lentTraffic { s with mem := memPuts s.mem p (a.data.take 64) } p

/-- A unit that a step of the job could not read or write: it stalls, unless the step took a fault for it. -/
def windowStop (s : State) (t : Step) (a : WinAcc) : WinOut × State :=
  if (stepOf s t.sid).any fun t1 => t1.faults.length = t.faults.length then (.wait, s) else (.denied, windowDenied s a)

/-- One unit of an accepted transfer, in the wide view of the window's job (R186, R190, R202, R204). A unit is 64 bytes at a
multiple of 64, so it lies in one granule or one page. -/
def windowUnit (s : State) (a : WinAcc) : WinOut × State :=
  match lendPlace s a with
  | some p => (.done, unitAt s a p)
  | none =>
  if pageMoving s a.basin a.addr then (.wait, s)
  else match windowStep s a.basin a.job with
    | some t =>
      let acc : Acc3 := { sid := t.sid, src := srcTrunk (stepTrib s t 0 / 4), unit := uWindow a.wid, desc := 0xFFFF }
      if a.isRead then match wideRead s acc a.addr 64 with
        | .ok bs s => (.done, windowReply s a bs)
        | .stop s => windowStop s t a
      else match wideWrite s acc a.addr (a.data.take 64) with
        | .ok _ s => (.done, s)
        | .stop s => windowStop s t a
    | none =>
      match (if a.isRead then readPlace s (jobStep a.basin a.job) a.addr else writePlace s (jobStep a.basin a.job) a.addr) with
      | .refused st => (.denied, windowDenied (idleDenied s a st) a)
      | .at_ p => match idleLent s a with
        | (.here, s) => (.done, unitAt s a p)
        | (.wait, s) => (.wait, s)
        | (.refused, s) => (.denied, windowDenied (idleDenied s a stWindowFault) a)

/-- The units of an accepted transfer in turn, as far as they go: what is left of it, if anything (R203). -/
def windowUnits : Nat → WinAcc → State → Option WinAcc × State
  | 0, _, s => (none, s)
  | k + 1, a, s =>
    match windowUnit s a with
    | (.done, s) => windowUnits k { a with addr := a.addr + 64, roff := a.roff + 1, left := k, data := a.data.drop 64 } s
    | (.wait, s) => (some a, s)
    | (.denied, s) => (none, s)

/-- The accepted transfers go on, each window's in the order in which they were accepted. -/
def serveWindows (s : State) : State :=
  s.pools.accepted.foldl (fun s a =>
    let kept := s.pools.accepted.takeWhile (· != a)
    if kept.any fun x => x.basin == a.basin && x.job == a.job && x.wid == a.wid then s
    else
      let (rest, s) := windowUnits a.left a s
      let s := if rest.isNone then giveCredits s a.chan a.credits else s
      let l := s.pools.accepted
      { s with pools := { s.pools with accepted := kept ++ rest.toList ++ l.drop (kept.length + 1) } }) s

/-- A transfer is accepted, and does what it can at once. -/
def acceptWindow (s : State) (a : WinAcc) : State :=
  serveWindows { s with pools := { s.pools with accepted := s.pools.accepted ++ [a] } }

/-- What the fords and windows of bound steps do whenever time passes: accepted transfers and transfers of the steps go on
(R201, R204). -/
def serveTransfers (s : State) : State :=
  let s := if s.pools.accepted.isEmpty then s else serveWindows s
  s.steps.foldl (fun s t => sendTransfers s t.sid) s

/-- The stewards' status records that an eddy has held back are written when its slot is ready (R99, R154, R190, R346). -/
def finishRecords (s : State) (sid : Nat) : State :=
  match stepOf s sid with
  | none => s
  | some t =>
    if !stepWorks t then s
    else
      let s := t.units.mats.foldl (fun s m => gradFinish (matFinish s sid m.desc) sid m.desc) s
      t.units.atts.foldl (fun s a => attFinish s sid a.desc) s

/-- EDDY_ACCESS_RESUME (R190): stalled accesses whose slot has become ready go on, those of windows and transfers included (R204). -/
def execEddyAccessResume (sid eid : Nat) (s : State) : Res :=
  match (stepOf s sid).bind fun t => (eddyOf t eid).map fun e => (t, e) with
  | none => .next s
  | some (_, e) => .next (finishRecords (serveTransfers (resumeStalls sid eid e.stalls s)) sid)

/-- A window transfer arrives (R202): the checks in order; a refusal answers the sender and raises WINDOW.REFUSED. The credits of its flits
are withheld until it is through (R204). The sender's coordinates are the stamp that the hub puts on the transfer from link training, no part of the packet. -/
def takeTransfer (ford sx sy sz basin job wid : Nat) (isRead : Bool) (roff len : Nat) (data : List Byte)
    (part : Option (Nat × Nat × Nat)) (credits : List (Nat × Nat)) (s : State) : State :=
  match windowCheck s sx sy sz basin job wid part isRead roff len with
  | some c =>
    let s := sendUnits (giveCredits s 2 credits) basin part [.refuse sx sy sz wid]
    raise s (srcFord ford) evWindowRefused [wid, sx + 16 * sy + 256 * sz, c] [basin]
  | none =>
    match windowNamed s basin job wid part with
    | some w => acceptWindow s { basin := basin, job := w.job, wid := wid, x := sx, y := sy, z := sz, isRead := isRead,
                                 addr := w.lbase + 64 * roff, roff := roff, left := len, data := data.take (64 * len), part := part
                                 chan := 2, credits := credits }
    | none => s

/-! ### Replies to this module's own transfers (R201, R202) -/

/-- A unit of a read that this module asked for; a step stopped or gone takes no notice. -/
def putWindowData (s : State) (t : Step) (i idx : Nat) (data : List Byte) : State :=
  let d := descOf t i
  let a : Acc3 := { sid := t.sid, src := srcTrunk (stepTrib s t 0 / 4), unit := uWindow i, desc := i }
  match wideWrite s a (dfld d 32 79 + 64 * idx) (data.take 64) with
  | .stop s => s
  | .ok _ s => setUnits s t.sid fun u => { u with xfers := updW (fun x => x.desc == i) (fun x => { x with done := x.done + 1 }) u.xfers }

/-- A refusal faults the sending step (R202). -/
def windowRefusal (s : State) (t : Step) (i : Nat) : State :=
  let d := descOf t i
  stepFlt s t { status := stWindowFault, src := srcTrunk (stepTrib s t 0 / 4), desc := i, tag := dfld d 80 95, aux := dfld d 14 19 }

end Sys2Proof.Machine
end

