-- ==== Sys2Proof/Machine/Boundary.lean ====
section
/-! DEFINITION. The step boundary: sampling, deadlines, the KV commit, publication of pages, cancellations, endings, token messages and
the next work of the group; and endings outside any step (R33, R35, R126, R144, R193, R237, R270, R285, R288, R293, R301, R313,
R318 to R332). -/

namespace Sys2Proof.Machine

/-! ### Sampling (R318) -/

/-- Candidates in order: larger logits first, equal ones by the lower identifier. -/
def candInsert (x : FVal × Nat) : List (FVal × Nat) → List (FVal × Nat)
  | [] => [x]
  | y :: l => if ltV y.1 x.1 || (!ltV x.1 y.1 && x.2 < y.2) then x :: y :: l else y :: candInsert x l

def topCands (k : Nat) (l : List FVal) : List (FVal × Nat) := (l.zipIdx.foldr candInsert []).take k

/-- The weight of a candidate against the largest (R318). -/
def candWeight (top v : FVal) (code : Nat) : Nat :=
  match top with
  | .inf true => expWeight 0
  | .inf false => if v = .inf false then expWeight 0 else expWeight 8388607
  | _ => expWeight (-(scaledFloor (addV v (negV top)) (-8) code)).toNat

/-- The first candidate at which the running sum exceeds the target. -/
def pickCand (target : Nat) : Nat → List (Nat × Nat) → Nat
  | _, [] => 0
  | _, [x] => x.2
  | sum, x :: l => if target < sum + x.1 then x.2 else pickCand target (sum + x.1) l

/-- The token of a sampled request for a draw u. -/
def sampleToken (k code u : Nat) (l : List FVal) : Nat :=
  let cs := topCands k l
  let top := (cs.head?.map (·.1)).getD (.inf true)
  let ws := cs.map fun c => (candWeight top c.1 code, c.2)
  pickCand (u * (ws.map (·.1)).sum / 2 ^ 32) 0 ws

/-- The bytes of a slot's logits. -/
def logitRange (t : Step) (x : Slot) : List Nat := (List.range (4 * pVocab t.prog)).map (· + x.logits)

/-- The logits of a slot. -/
def slotLogits (s : State) (t : Step) (x : Slot) : List FVal :=
  (List.range (pVocab t.prog)).map fun k => logitOf (BitVec.ofNat 32 (peek s t (x.logits + 4 * k) 4))

/-- The token that a slot yields, with the draw of a sampled request taken from D1. A reseed that falls due among a boundary's draws runs
first (R461, R470). -/
def slotToken (s : State) (t : Step) (x : Slot) (r : Request) : Nat × State :=
  let l := slotLogits s t x
  if rSample r then
    let (w, s) := drawD1 (if d1Waits s then seedDrbg s 1 false else s)
    (sampleToken (rTopk r) (rTscale r) (w % 2 ^ 32) l, s)
  else (argMax l, s)

/-! ### What each request of a step comes to (R319 steps 2 to 4 and 7, R320, R331) -/

/-- The outcome of a request of a step. -/
structure Outc where
  tag : Nat
  slot : Nat
  nq : Nat
  token : Option Nat := none
  final : Option Nat := none
  release : Bool := false
  /-- Its positions are committed. -/
  commits : Bool := false
  deriving DecidableEq, Repr

/-- The identifier is no longer served: its variant is RETIRING, or its base model is being deleted (R270, R288). -/
def vidGone (s : State) (b vid : Nat) : Bool :=
  match variantOf s b vid with
  | some v => v.state == .retiring
  | none => (sealedOf s b vid).isNone

/-- A cancellation accepted before a time. -/
def cancelledBy (s : State) (b tag time : Nat) : Bool := (cancelOf s b tag).any fun d => d.arg < time

/-- A deadline has passed at a time. -/
def deadlinePast (r : Request) (time : Nat) : Bool := rDeadline r != 0 && rDeadline r < time

/-- The token completes the request (R317). -/
def completes (r : Request) (token : Option Nat) : Bool :=
  token.any fun k => (rStops r).contains k || rMaxnew r ≤ r.newTok + 1

/-- The outcome of one slot of a step that did not fault. -/
def slotOutc (s : State) (t : Step) (time i : Nat) (x : Slot) (r : Request) : Outc × State :=
  let o : Outc := { tag := x.tag, slot := i, nq := x.nq }
  if t.reqFaults.contains i then ({ o with final := some stKvPoisoned, release := true }, s)
  else
    let o := { o with commits := true }
    let dead := rSample r && !d1Ok s
    let (tok, s) := if x.yields && !dead then
        let (k, s) := slotToken s t x r
        (some k, s)
      else (none, s)
    let o : Outc :=
      if deadlinePast r time then { o with final := some stDeadlineMissed }
      else if dead then { o with final := some stRngUnavailable }
      else if completes r tok then { o with token := tok, final := some stOk }
      else if inTeardown s t.basin then { o with token := tok, final := some stBasinDestroyed }
      else if vidGone s t.basin (rVid r) then { o with token := tok, final := some stVariantDeleted }
      else if cancelledBy s t.basin r.tag time then { o with token := tok, final := some stCancelled }
      else { o with token := tok }
    (o, s)

/-- The real slots of a step with their requests. -/
def stepSlots (s : State) (t : Step) : List (Nat × Slot × Request) :=
  t.slots.zipIdx.filterMap fun x => if x.1.tag = 0 then none else (reqOf s t.basin x.1.tag).map fun r => (x.2, x.1, r)

/-- The outcomes of a step without a step fault, in slot order. -/
def goodOutcs (t : Step) (time : Nat) : List (Nat × Slot × Request) → State → List Outc × State
  | [], s => ([], s)
  | x :: l, s =>
    let (o, s) := slotOutc s t time x.1 x.2.1 x.2.2
    let (os, s) := goodOutcs t time l s
    (o :: os, s)

/-- The outcomes of a step that faulted (R320). -/
def badOutcs (s : State) (t : Step) (status : Nat) : List Outc :=
  (stepSlots s t).map fun x =>
    if status = stWeightPoisoned && !inTeardown s t.basin then { tag := x.2.1.tag, slot := x.1, nq := 0 }
    else if status = stWeightPoisoned then { tag := x.2.1.tag, slot := x.1, nq := 0, final := some stBasinDestroyed, release := true }
    else { tag := x.2.1.tag, slot := x.1, nq := 0, final := some status, release := true }

/-! ### The KV commit (R124 to R126, R144) -/

/-- The least code of a magnitude not below the value. -/
def ceilCode (f : BFmt) (x m : Nat) (e : Int) : Nat :=
  let lo := floorCode f x m e
  if cmpMag (f.mag lo) (f.unit x) m e == .eq then lo else min f.top (lo + 1)

/-- A P2 code rounded outward: toward +∞ when `up`, else toward −∞ (R144). -/
def outward (x : Nat) (up : Bool) (v : FVal) : Nat :=
  match v with
  | .fin n m e =>
    let c := if n == up then floorCode .p2 x m e else ceilCode .p2 x m e
    if n && c != 0 then BFmt.sign .p2 + c else c
  | v => elemCode .p2 x v none

/-- Bounds in a summary's planes: codes and exponents of lo or hi (R126). -/
def boundPlane (up : Bool) (vs : List FVal) : List Nat × List Nat :=
  let bs := (pieces 32 vs.length vs).map fun b =>
    let x := fitExp .p2 b
    (b.map (outward x up), x)
  ((bs.map (·.1)).flatten, bs.map (·.2))

/-- The values of one plane of a summary record. -/
def planeVals (dh : Nat) (hi : Bool) (l : List Byte) : List FVal :=
  let el := (l.drop (if hi then dh / 2 else 0)).take (dh / 2)
  let ex := (l.drop (dh + if hi then dh / 32 else 0)).take (dh / 32)
  (List.range dh).map fun k => elemOr .p2 ((ex.getD (k / 32) 0).toNat) (rowCode .p2 el k)

/-- The smaller or larger of values, place by place. -/
def extremes (hi : Bool) (a b : List FVal) : List FVal :=
  (a.zip b).map fun x => if ltV x.2 x.1 == hi then x.1 else x.2

/-- A summary record over old bounds, none for an empty page, and new keys (R126, R144). -/
def summaryRecord (dh : Nat) (old : Option (List Byte)) (keys : List (List FVal)) : List Byte :=
  let fold (hi : Bool) : List FVal :=
    (keys.foldl (fun acc k => match acc with
      | none => some k
      | some a => some (extremes hi a k)) (old.map (planeVals dh hi))).getD (List.replicate dh (.fin false 0 0))
  let lo := boundPlane false (fold false)
  let hi := boundPlane true (fold true)
  packCodes .p2 lo.1 ++ packCodes .p2 hi.1 ++ lo.2.map (BitVec.ofNat 8) ++ hi.2.map (BitVec.ofNat 8) ++
    List.replicate (srecOf dh - dh - dh / 16) 0

/-- Bytes of a step's memory as the commit reads them. -/
def stepBytes (s : State) (t : Step) (a n : Nat) : List Byte := le n (peek s t a n)

/-- Write bytes of a step's memory. -/
def stepPuts (s : State) (t : Step) (a : Nat) (bs : List Byte) : State :=
  bs.zipIdx.foldl (fun s x => match writePlace s t (a + x.2) with
    | .at_ p => { s with mem := memPut s.mem p x.1 }
    | .refused _ => s) s

/-- Copy the new rows of one request and head into the last page, update its summary, and raise its COUNT (R144). -/
def commitHead (s : State) (t : Step) (d : BitVec 512) (r h : Nat) : State :=
  let e := reqEnt s t d r
  let k := e.npages - 1
  let w := listWord s t d e h k
  let dh := aDh d
  let a := entAddr w
  let rows := (List.range e.nq).map fun tok => (newCuts d r h tok).map fun c => stepBytes s t c.1 c.2
  let keys := rows.map fun x =>
    (List.range dh).map fun j => elemOr .p2 (((x.getD 1 []).getD (j / 32) 0).toNat) (rowCode .p2 (x.getD 0 []) j)
  let sm := summAt d e h k
  let old := if entCount w = 0 then none else some (stepBytes s t sm (srecOf dh))
  let rec_ := summaryRecord dh old keys
  let s := rows.zipIdx.foldl (fun s x =>
    let j := entCount w + x.2
    let s := stepPuts s t (a + j * (dh / 2)) (x.1.getD 0 [])
    let s := stepPuts s t (a + 128 * dh + j * (dh / 32)) (x.1.getD 1 [])
    let s := stepPuts s t (a + 136 * dh + j * (dh / 2)) (x.1.getD 2 [])
    stepPuts s t (a + 264 * dh + j * (dh / 32)) (x.1.getD 3 [])) s
  let s := narrowWritten (stepPuts s t sm rec_) t.basin sm rec_.length
  narrowWritten (stepPuts s t (pageListAt d e h k) (le 16 (w + 2 ^ 64 * e.nq))) t.basin (pageListAt d e h k) 16

/-- The appends of a step (R144): descriptor, request and head of every attention descriptor, but those of ended slots. -/
def appendsOf (s : State) (t : Step) : List (Nat × Nat × Nat) :=
  ((t.descs.zipIdx.filter fun x => kindOf x.1 == 0x30).map fun x =>
    (((List.range (aReqs x.1)).filter fun r => appends x.1 (reqEnt s t x.1 r) && !t.reqFaults.contains (entrySlot t x.1 r)).map fun r =>
      (List.range (aHeads x.1)).map fun h => (x.2, r, h)).flatten).flatten

/-- The step's KV writes (R144). -/
def commitKv (s : State) (t : Step) : State :=
  (appendsOf s t).foldl (fun s x => commitHead s t (descOf t x.1) x.2.1 x.2.2) s

/-- The old summary that a commit reads: that of a page with committed tokens (R144). -/
def oldSummary (s : State) (t : Step) (x : Nat × Nat × Nat) : Option (Nat × Nat) :=
  let d := descOf t x.1
  let e := reqEnt s t d x.2.1
  if entCount (listWord s t d e x.2.2 (e.npages - 1)) = 0 then none else some (summAt d e x.2.2 (e.npages - 1), srecOf (aDh d))

/-- What is wrong with an old summary (R149): a refused byte, or an exponent of 255. -/
def summaryBad (s : State) (t : Step) (dh : Nat) (c : Nat × Nat) : Option (Nat × Nat) :=
  match badRange s t [c] with
  | some x => some x
  | none => if (((stepBytes s t c.1 c.2).drop dh).take (dh / 16)).contains 255 then some (c.1, stFormatInvalid) else none

/-- The old summaries are read before anything is committed: an uncorrectable one ends its request (R149), anything else wrong faults the
step, which then commits nothing. The first in descriptor order is the one reported. -/
def lookSummaries (t : Step) : List (Nat × Nat × Nat) → State → Option (Nat × Nat) × State
  | [], s => (none, s)
  | x :: l, s =>
    match (oldSummary s t x).bind (summaryBad s t (aDh (descOf t x.1))) with
    | some (a, st) => if st = stKvPoisoned then lookSummaries t l (reqFault s t (stepSteward s t) x.1 x.2.1 a) else (some (a, st), s)
    | none => lookSummaries t l s

/-- A request moves on past the positions that its step committed. -/
def advance (s : State) (t : Step) (o : Outc) : State :=
  if !o.commits then s
  else setReq s t.basin o.tag fun r => { r with
    committed := r.committed + o.nq
    toks := r.toks ++ o.token.toList
    newTok := r.newTok + b2n o.token.isSome
    lastStatus := 0
    cleanGen := if r.fallback then none else if r.committed = 0 || r.cleanGen == some t.gen then some t.gen else none }

/-! ### Publication of pages (R285) -/

/-- Room for one more node: under NODE_MAX, or an idle leaf makes way. -/
def nodeRoom (s : State) (b : Nat) : Bool × State :=
  let full (s : State) : Bool := kvFld (kvOf s b) 224 255 ≤ (kvOf s b).nodes.length
  if !full s then (true, s)
  else match (idleLeaf s b 1).orElse fun _ => idleLeaf s b 2 with
    | some n =>
      let s := freeNode s b n
      (!full s, s)
    | none => (false, s)

/-- The node of a request's page before page k, none for the root; the tree must be the current one. -/
def parentOf (s : State) (t : Step) (r : Request) (k : Nat) : Option (Option Node) :=
  if k = 0 then some none
  else ((r.rows[k - 1]?).bind (nodeOfRow (kvOf s t.basin))).bind fun n =>
    if n.vid == rVid r && n.gen == t.gen && !n.closed then some (some n) else none

/-- Publish page k of a request, in place: the row becomes SHARED, its summaries go into the slots, and its list entries are marked. -/
def publishPage (s : State) (t : Step) (r : Request) (k : Nat) (parent : Option Node) (row : Row) : State :=
  let b := t.basin
  let kv := kvOf s b
  let toks := (r.toks.drop (256 * k)).take 256
  let n := srecOf r.dh
  let s := (pageHeads r.layers r.heads 1).foldl (fun s x => match row.slots[x.1 * r.heads + x.2.2]? with
    | some sl =>
      let s := tierPuts s b (slotAddr kv sl + 272 * r.dh)
        (tierBytes s b (summaryAt r.dh r.book r.heads x.1 k x.2.2) n)
      let a := (listAt r.book x.1).1 + 16 * (k * r.heads + x.2.2)
      tierPuts s b (a + 10) (le 1 (tierNum s b (a + 10) 1 ||| 1))
    | none => s) s
  let s := setRow s b row.id fun w => { w with state := .shared, c0 := false }
  setKv s b fun kv => { kv with
    nextNode := kv.nextNode + 1
    nodes := kv.nodes ++ [{ id := kv.nextNode, vid := rVid r, gen := t.gen, parent := parent.map (·.id), key := pageKey toks, tokens := toks,
                            row := row.id, adopted := s.now, order := kv.nextNode }] }

/-- A request's page that has just reached COUNT 256 is published when every condition of R285 holds. -/
def publishReq (s : State) (t : Step) (tag : Nat) : State :=
  match reqOf s t.basin tag with
  | none => s
  | some r =>
    let b := t.basin
    let k := r.committed / 256 - 1
    let toks := (r.toks.drop (256 * k)).take 256
    if r.committed % 256 != 0 || r.committed = 0 || !bitAt (kvOf s b).cfg.toNat 2 || r.fallback || r.cleanGen != some t.gen ||
        vidGone s b (rVid r) || genNow s b (rVid r) != t.gen then s
    else match parentOf s t r k, (r.rows[k]?).bind (rowOf (kvOf s b)) with
      | some parent, some row =>
        let cs := childrenOf (kvOf s b) (rVid r) t.gen (parent.map (·.id)) (pageKey toks)
        let n := row.slots.length
        if row.state != .priv || cs.any (fun c => c.tokens == toks) || 4 ≤ cs.length || (row.c0 && genFree (kvOf s b) < n) then s
        else match nodeRoom s b with
          | (false, s) => s
          | (true, s) => publishPage s t r k parent row
      | _, _ => s

/-! ### Endings (R288, R319 steps 7 to 9, R320, R321) -/

/-- A request of the step ends or returns to the queue, and its cancellation is answered (R312, R313). -/
def settleOutc (s : State) (t : Step) (time status : Nat) (o : Outc) : State :=
  let b := t.basin
  match o.final with
  | none => setReq s b o.tag fun r => { r with state := .queued, lastStatus := status }
  | some st =>
    let was := cancelledBy s b o.tag time
    let s := endReq s b o.tag st o.release
    if was then answerCancel s b o.tag (if st = stCancelled then stOk else stAlreadyComplete) st else s

/-- Cancellations and deadlines of requests outside any step (R319 steps 7 and 8, R321), and, with `gone`, the endings of R270. -/
def settleOut (s : State) (b time : Nat) (boundary gone : Bool) : State :=
  let s := ((liveReqs s b).filter fun r => r.state == .queued || r.state == .suspended).foldl (fun s r =>
    let cut := (cancelOf s b r.tag).any fun d => if boundary then d.arg < time else d.arg ≤ time
    let stop (st : Nat) : State :=
      let s := endOff s b r.tag st false
      if cut then answerCancel s b r.tag (if st = stCancelled then stOk else stAlreadyComplete) st else s
    if deadlinePast r time then stop stDeadlineMissed
    else if gone && vidGone s b (rVid r) then stop stVariantDeleted
    else if cut then stop stCancelled
    else s) s
  (s.serving.requests.filter fun r => r.basin == b && r.state == .ended && (cancelOf s b r.tag).isSome).foldl
    (fun s r => answerCancel s b r.tag stAlreadyComplete r.endStatus) s

/-- Paused conversations of a retiring variant or a deleted model end (R288). -/
def endConvs (s : State) (b : Nat) : State :=
  let gone (c : Conv) : Bool := (variantOf s b c.vid).any (·.state == .retiring) || s.serving.modelEnds.contains (b, c.vid)
  let s := ((kvOf s b).convs.filter gone).foldl (fun s c => endConv s b c.conv 4) s
  { s with serving := { s.serving with
    modelEnds := dropW (fun x => x.1 == b && !((liveReqs s b).any fun r => rVid r == x.2)) s.serving.modelEnds } }

/-! ### Token messages (R319 step 11, R321, R327 to R330, R363, R370) -/

/-- The request ran on its base in this step (R243). -/
def ranOnBase (t : Step) (tag : Nat) : Bool := t.slots.any fun x => x.tag == tag && x.fb

/-- The entry of a request of a step (R329, R330). -/
def outcEntry (s : State) (t : Step) (o : Outc) : Option TokEntry :=
  if o.token.isNone && o.final.isNone then none
  else some {
    tag := o.tag
    token := o.token.getD 0
    pos := if o.token.isSome then ((reqOf s t.basin o.tag).map (·.committed)).getD 0 else 0
    hasToken := o.token.isSome
    final := o.final.isSome
    baseFb := ranOnBase t o.tag && o.token.isSome
    status := o.final.getD (if ranOnBase t o.tag then stBaseFallback else stOk) }

/-- Records of endings outside any step, one for each class that has some (R321, R328). -/
def offRecs (s : State) (b : Nat) (cs : List Nat) : List StepRec :=
  (cs.filter fun c => s.serving.offends.any fun x => x.basin == b && x.cls == c).map fun c =>
    { cls := c, offstep := true, t := s.now,
      entries := (s.serving.offends.filter fun x => x.basin == b && x.cls == c).map fun x => { tag := x.tag, final := true, status := x.status } }

/-- Queue a TOK message, or let it wait for room (R370). Answers whether it is queued. -/
def sendTok (s : State) (b flow gid : Nat) (rs : List StepRec) (ms : List Measure) : Bool × State :=
  if rs.isEmpty then (true, s)
  else
    let m := Msg.tok rs
    if !((linkOf s b).tokWait.any fun x => x.flow == flow) && fits s b flow m then (true, enqueue s b flow m ms)
    else (false, setLink s b fun l => { l with tokWait := l.tokWait ++ [{ flow := flow, gid := gid, msg := m, measure := ms, blocked := true }] })

/-- Endings outside any step, once their records are queued, are forgotten. -/
def dropOffends (s : State) (b : Nat) : State :=
  { s with serving := { s.serving with offends := dropW (fun x => x.basin == b) s.serving.offends } }

/-- The VOID of a C0 step as its packet is queued (R327). -/
def finalVoid (s : State) (t : Step) : Nat :=
  if t.cls != 0 then 0
  else if t.void != 0 then t.void
  else if s.pwr.warn.isSome then 3
  else if t.status != 0 || !t.faults.isEmpty || !t.reqFaults.isEmpty then 4
  else if badEnvironment s then 2
  else if !vidPinned s t.basin t.vid || !vidResident s t.basin t.vid then 5
  else 0

/-- A failure of condition 6 alone clears GUAR and names no cause: VOID has none for it (DEDUCED, log entry 39).
The step's record, with the records of endings outside any step that join it (R321, R328). -/
def boundaryTok (s : State) (t : Step) (time : Nat) (es : List TokEntry) : State :=
  let b := t.basin
  let void := finalVoid s t
  let egress := t.egress && egressOk s b
  let guar := t.cls == 0 && void == 0 && egress
  let r : StepRec := {
    stepSeq := t.seq, gid := t.gid, cls := t.cls, guar := guar, void := void, formT := t.formT, t := time, vid := t.vid, gen := t.gen
    entries := es }
  let own := if t.cls = 0 || !es.isEmpty then [r] else []
  let ms : List Measure := if t.cls = 0 then
      [{ gid := t.gid, stepSeq := t.seq, formT := t.formT, bound := pBound t.prog + 270000, guar := guar }] else []
  let on1 := offRecs s b [0]
  let on0 := offRecs s b [1, 2, 3]
  let (f1, f0) := if t.cls = 0 then (own ++ on1, on0) else (on1, own ++ on0)
  let (ok1, s) := sendTok s b 1 t.gid f1 (if t.cls = 0 then ms else [])
  let (ok0, s) := sendTok s b 0 t.gid f0 []
  let s := dropOffends s b
  if ok1 && ok0 then s else setGroup s b t.gid fun g => { g with tokWaiting := true }

/-! ### The end of a step -/

/-- The step gives up what it holds: its eddies, its windows of LIFE 0, its pins, the regions of its task, and its place on the group (R187,
R193, R200, R220). -/
def dropStep (s : State) (t : Step) : State :=
  let b := t.basin
  let s := closeWindows (idleDomains s t) fun w => w.basin == b && w.sid == t.sid && w.life == 0
  let s := { s with
    tiers := { s.tiers with pins := dropW (fun p => p.2.2 == t.sid) s.tiers.pins }
    steps := dropW (fun x => x.sid == t.sid) s.steps }
  let s := setGroup s b t.gid fun g => { g with
    run := g.run.filter (· != t.sid), heldStep := g.heldStep.filter (· != t.sid) }
  let s := revokeJob s b t.job
  let s := if (jobOf s b t.job).any (·.closed) then closeJob s b t.job else s
  settleUnmaps (askCopies (settleRetiring (clearUnused (dropLostDerived s b) b)) b) b

/-- Requests of the step that stage 2 of R291 chose are suspended (R291). -/
def suspendChosen (s : State) (b : Nat) (os : List Outc) : State :=
  os.foldl (fun s o => match reqOf s b o.tag with
    | some r => if r.suspendNext && r.state == .queued then suspendReq s b r.tag 0 else s
    | none => s) s

/-- Step 12 of R319. -/
def nextStep (s : State) (b gid : Nat) : State :=
  let s := resumeSuspended b (liveReqs s b).length s
  nextWork (settleResumes (bringBack s b) b) b gid

/-- A basin in teardown has no admitted request left: its messages are flushed (R415 step 3). -/
def startFlush (s : State) (b : Nat) : State :=
  if (liveReqs s b).isEmpty then
    { s with basins := updW (fun x => x.id == b) (fun x => { x with teardown := x.teardown.map fun t =>
        if t.step = 2 then { t with step := 3, flushAt := s.now } else t }) s.basins }
  else s

/-- Steps 6 to 12 of R319 for outcomes already known. While the TOK message waits for room, step 12 is left to the group's next BATCH_FORM
(R370). -/
def closeBoundary (s : State) (t : Step) (time status : Nat) (os : List Outc) : State :=
  let b := t.basin
  let s := if status = 0 then os.foldl (fun s o => if o.commits then publishReq s t o.tag else s) s else s
  let es := os.filterMap (outcEntry s t)
  let s := os.foldl (fun s o => settleOutc s t time status o) s
  let s := match t.kind with
    | .train tid phase => trainBoundary s t tid phase status
    | .serve _ => s
  let s := settleOut s b time true true
  let s := { sweepKv (endConvs s b) b with serving.bounds := s.serving.bounds + 1 }
  let s := publishVariants s b
  let s := boundaryTok s t time es
  let s := dropStep s t
  let s := suspendChosen (endOrphans (settleGroup s b t.gid) b) b os
  let waits := (groupOf s b t.gid).any (·.tokWaiting)
  startFlush (if waits then setGroup s b t.gid fun g => { g with twelve := true } else nextStep s b t.gid) b

/-- What refuses the boundary its reads: a slot's logits, or the arrays of an update (R309, R354). -/
def boundaryRefusal (s : State) (t : Step) : Option (Nat × Nat) :=
  match t.kind with
  | .train tid phase =>
    if phase = 3 then ((trainOf s t.basin tid).bind (updateRefused s)).map fun st => (0, st) else none
  | .serve _ => (stepSlots s t).findSome? fun x =>
      if x.2.1.yields && !t.reqFaults.contains x.1 then
        (logitRange t x.2.1).findSome? fun a => (areaRefusal s t false a).map fun st => (a, st)
      else none

/-- Every unit of the step has stopped (R319). -/
def unitsStopped (s : State) (t : Step) : Bool :=
  if t.stopped then (jobWindows s t.basin t.job).all fun w => w.closing.isNone
  else t.bound && t.faults.isEmpty && (List.range t.descs.length).all (descDone t) &&
    (match t.kind with
     | .train tid 3 => (trainOf s t.basin tid).all (reduceDone s)
     | _ => true)

/-- Sampling waits while D1 has to be reseeded (R461). -/
def drawWaits (s : State) (t : Step) : Bool :=
  !t.stopped && d1Ok s && d1Waits s && (stepSlots s t).any fun x => x.2.1.yields && rSample x.2.2

/-- What the boundary of a step that has not faulted reads in memory: logits to sample from, and the old summaries. -/
def boundaryRanges (s : State) (t : Step) : List (Nat × Nat) :=
  match t.kind with
  | .train _ _ => []
  | .serve _ => ((stepSlots s t).filter fun x => x.2.1.yields && !t.reqFaults.contains x.1).map (fun x => (x.2.1.logits, 4 * pVocab t.prog)) ++
      (appendsOf s t).filterMap (oldSummary s t)

/-- The boundary's reads: it waits for data in lent memory (R247), or meets what faults the step (R149, R309, R354). -/
def boundaryReads (s : State) (t : Step) : Got (Option (Nat × Nat)) :=
  match boundaryRefusal s t with
  | some x => .ok (some x) s
  | none => match lentRanges s t.basin (boundaryRanges s t) t.sid uFirmware with
    | (.wait, s) => .stop s
    | (.refused, s) => .ok (some (0, stWindowFault)) s
    | (.here, s) =>
      let (x, s) := lookSummaries t (appendsOf s t) s
      .ok x s

/-- The boundary of a step that has not faulted (R319). -/
def closeGood (s : State) (t : Step) : State :=
  let time := s.now
  let (os, s) := match t.kind with
    | .serve _ => goodOutcs t time (stepSlots s t) s
    | .train _ _ => ([], s)
  let s := commitKv s t
  let s := unbindEddies s t
  let s := os.foldl (fun s o => advance s t o) s
  closeBoundary s t time 0 os

/-- The boundary of a step that has stopped on a fault (R320); it waits while windows of its job close (R203). -/
def closeStopped (s : State) (t : Step) : State :=
  if unitsStopped s t then closeBoundary s t s.now t.status (badOutcs s t t.status) else s

/-- STEP_BOUNDARY (R319, R320). -/
def execStepBoundary (sid : Nat) (s : State) : Res :=
  match stepOf s sid with
  | none => .next s
  | some t =>
    if t.held || !unitsStopped s t || drawWaits s t then .next s
    else if t.stopped then .next (closeStopped s t)
    else match boundaryReads s t with
      | .stop s => .next s
      | .ok (some x) s =>
        let s := areaFault s sid x
        .next ((stepOf s sid).elim s (closeStopped s))
      | .ok none s => .next ((stepOf s sid).elim s (closeGood s))

/-- OFFSTEP_SETTLE (R321): cancellations and passed deadlines of requests outside any step take effect, and the OFFSTEP records are
queued. A basin with no step has no boundary at which the requests and paused conversations of a retiring variant or a deleted model
could end (R270, R288): they end here (log entry 97). -/
def execOffstepSettle (basin : Nat) (s : State) : Res :=
  let idle := !(s.steps.any fun t => t.basin == basin)
  let s := settleOut s basin s.now false idle
  let s := if idle then sweepKv (endConvs s basin) basin else s
  let (_, s) := sendTok s basin 1 255 (offRecs s basin [0]) []
  let (_, s) := sendTok s basin 0 255 (offRecs s basin [1, 2, 3]) []
  .next (dropOffends s basin)

end Sys2Proof.Machine
end

