-- ==== Sys2Proof/Machine/Hub.lean ====
section
/-! DEFINITION. The ford hubs: the fords and their directions, the slices that bind them, streams spread over the fords of a direction and
put in order again, dimension-order routes, round-robin over a hub's inputs, and credits (R418, R419, R421 to R424, R433, R437, R438). -/

namespace Sys2Proof.Machine

/-! ### Fords (R418, R431, R444, R445) -/

/-- The direction of a ford, and the partner's ford number (R418). -/
def fordDir (n : Nat) : Nat := n % 12 / 2
def partnerFord (n : Nat) : Nat := if fordDir n % 2 = 0 then n + 2 else n - 2

/-- A field of the topology record (R425). -/
def topoFld (s : State) (lo hi : Nat) : Nat := fld s.fords.topo.toNat lo hi
def topoValid (s : State) : Bool := bitAt s.fords.topo.toNat 31
def topoLen (s : State) (a : Nat) : Nat := topoFld s (4 * a) (4 * a + 3) + 1
def topoCoord (s : State) (a : Nat) : Nat := topoFld s (16 + 4 * a) (19 + 4 * a)
def topoNb (s : State) (d : Nat) : Nat := topoFld s (64 + 64 * d) (127 + 64 * d)

/-- The ford's domain is on and its lanes are enabled. -/
def fordLive (s : State) (n : Nat) : Bool := n < 48 && domOn s (316 + n) && (fordOf s n).enable

/-- The basin that owns a ford (R396). -/
def fordOwner (s : State) (n : Nat) : List Nat := (s.basins.filter fun x => bitAt x.word.toNat (144 + n)).map (·.id)

/-- FRD_STATUS (R444). -/
def frdStatus (f : Ford) : Nat :=
  f.state + 16 * f.lane0 + 256 * f.lane1 + 2048 * b2n f.laneRev + 4096 * b2n f.pol0 + 8192 * b2n f.pol1 + 65536 * f.partner +
    2 ^ 24 * f.verMaj + 2 ^ 32 * f.verMin + 2 ^ 40 * f.miswire

/-- FRD_ERRA and FRD_ERRB (R445). -/
def frdErrA (f : Ford) : Nat := f.fecCorr + 2 ^ 32 * f.fecUncorr
def frdErrB (f : Ford) : Nat := f.crcErr + 2 ^ 32 * f.retries

/-! ### Slices (R433 to R436) -/

def swFld (w : BitVec 256) (lo hi : Nat) : Nat := fld w.toNat lo hi
def swId (w : BitVec 256) : Nat := swFld w 0 63
def swBasin (w : BitVec 256) : Nat := swFld w 64 67

/-- Origin and lengths of a record, as its bits [95:72]. -/
def swBlock (w : BitVec 256) : Nat := swFld w 72 95

/-- The directions that the module uses in a slice (R433). -/
def usedDirs (s : State) (x : Slice) : List Nat :=
  ((List.range 3).map fun a =>
    let n := sliceLen x a
    let c := sliceCoord s x a
    if n = 1 then []
    else if n = topoLen s a then [2 * a, 2 * a + 1]
    else (if c + 1 < n then [2 * a] else []) ++ (if c = 0 then [] else [2 * a + 1])).flatten

/-- The fords that a slice offers in the directions the module uses. -/
def offered (s : State) (x : Slice) : List Nat :=
  (List.range 48).filter fun n => bitAt x.word.toNat (96 + n) && (usedDirs s x).contains (fordDir n)

/-- This module's slice coordinates as R385 packs them. -/
def slicePlace (s : State) (x : Slice) : Nat := sliceCoord s x 0 + 16 * sliceCoord s x 1 + 256 * sliceCoord s x 2

def setSliceId (s : State) (id : Nat) (f : Slice → Slice) : State :=
  { s with fords := { s.fords with slices := updW (fun x => swId x.word == id) f s.fords.slices } }

/-- The fords that a slice has bound are idle from now on (R488). -/
def idleFords (s : State) (l : List Nat) : State := l.foldl (fun s n => setDom s (316 + n) fun x => { x with idleSince := s.now }) s

def sliceById (s : State) (id : Nat) : Option Slice := s.fords.slices.find? fun x => swId x.word == id

/-- The READY slice that has bound a ford. -/
def sliceAtFord (s : State) (n : Nat) : Option Slice := s.fords.slices.find? fun x => x.state == 2 && x.bound.contains n

/-- A slice is removed by teardown: its declaration is withdrawn at the far ends of its UP fords (R439). -/
def withdrawSlices (s : State) (b : Nat) : State :=
  let mine (x : Slice) : Bool := swBasin x.word == b
  let fords := ((s.fords.slices.filter mine).map fun x => (offered s x).filter fun n => (fordOf s n).state == 9).flatten
  let s := idleFords (sendLm s (fords.map fun n => .declare n 0 0)) ((s.fords.slices.filter mine).map (·.bound)).flatten
  { s with fords := { s.fords with slices := dropW mine s.fords.slices } }

/-! ### Routes (R423, R438) -/

/-- The slice coordinates of this module. -/
def ownPlace (s : State) (x : Slice) : Nat × Nat × Nat := (sliceCoord s x 0, sliceCoord s x 1, sliceCoord s x 2)

/-- A coordinate of a place. -/
def axisOf (p : Nat × Nat × Nat) (a : Nat) : Nat := if a = 0 then p.1 else if a = 1 then p.2.1 else p.2.2

/-- The next direction toward a place of the slice: first along x, then y, then z; inside the block on a line, the shorter way round on a
ring, + when both are equally long (R423). None: the place is this module. -/
def nextDir (s : State) (x : Slice) (dst : Nat × Nat × Nat) : Option Nat :=
  (List.range 3).findSome? fun a =>
    let n := sliceLen x a
    let c := sliceCoord s x a
    let t := axisOf dst a
    if c = t then none
    else if n < topoLen s a then some (if c < t then 2 * a else 2 * a + 1)
    else some (if 2 * ((t + n - c) % n) ≤ n then 2 * a else 2 * a + 1)

/-- The slice coordinates of the neighbour in a direction: the stamp of a unit that comes straight from it (R202, R438). -/
def neighbourPlace (s : State) (x : Slice) (d : Nat) : Nat × Nat × Nat :=
  let at_ (a : Nat) : Nat :=
    let n := sliceLen x a
    let c := sliceCoord s x a
    if a != d / 2 then c else if d % 2 = 0 then (c + 1) % n else (c + n - 1) % n
  (at_ 0, at_ 1, at_ 2)

/-- The bound fords of a direction in increasing number (R422). -/
def dirFords (x : Slice) (d : Nat) : List Nat := (List.range 48).filter fun n => x.bound.contains n && fordDir n == d

/-- The ford that carries flit `k` of a stream in a direction (R422). -/
def spreadFord (x : Slice) (d k : Nat) : Option Nat := let l := dirFords x d; l[k % max 1 l.length]?

/-! ### Units and streams (R419, R421, R422) -/

/-- The channel of a unit: 1 SR, 2 WX; 0 is LM (R421). -/
def unitChan : LmFrame → Nat
  | .refuse .. => 2
  | .window .. => 2
  | .windowAsk .. => 2
  | .sum .. => 1
  | .result .. => 1
  | .part .. => 1
  | .grad .. => 1
  | .lendGrant .. => 2
  | .lendReturn .. => 2
  | .memReclaim .. => 2
  | _ => 0

/-- The place that a unit is for. -/
def unitDst : LmFrame → Nat × Nat × Nat
  | .refuse x y z _ => (x, y, z)
  | .window x y z .. => (x, y, z)
  | .windowAsk x y z .. => (x, y, z)
  | .sum x y z .. => (x, y, z)
  | .result x y z .. => (x, y, z)
  | .part x y z .. => (x, y, z)
  | .grad x y z .. => (x, y, z)
  | .lendGrant x y z .. => (x, y, z)
  | .lendReturn x y z _ => (x, y, z)
  | .memReclaim x y z _ => (x, y, z)
  | _ => (0, 0, 0)

/-- How many flits of 64 payload bytes a unit takes: its data, or one flit for what fits into a flit (R419, log entry 137). -/
def unitFlits : LmFrame → Nat
  | .window _ _ _ _ _ data => max 1 (cdiv data.length 64)
  | .result _ _ _ _ _ _ data => max 1 (cdiv data.length 64)
  | .part _ _ _ _ _ _ _ _ _ o => cdiv (8 + 4 * o.length) 64
  | .grad _ _ _ _ _ _ _ _ _ data => max 1 (cdiv data.length 64)
  | _ => 1

/-- A stream of a slice. -/
def streamOf (s : State) (id chan : Nat) (src dst : Nat × Nat × Nat) : Stream :=
  (s.fords.streams.find? fun t => t.slice == id && t.chan == chan && t.src == src && t.dst == dst).getD
    { slice := id, chan := chan, src := src, dst := dst }

def setStream (s : State) (t : Stream) : State :=
  { s with fords := { s.fords with
      streams := (dropW (fun q => q.slice == t.slice && q.chan == t.chan && q.src == t.src && q.dst == t.dst) s.fords.streams) ++ [t] } }

/-- A unit of this module enters its stream, numbered, at the local input of the hub for its direction. Without a READY slice it goes
nowhere. -/
def admitUnit (s : State) (u : OutUnit) : State :=
  match sliceOf s u.basin with
  | none => s
  | some x =>
    let dst := unitDst u.unit
    match nextDir s x dst with
    | none => s
    | some d =>
      let n := unitFlits u.unit
      let t := streamOf s (swId x.word) (unitChan u.unit) (ownPlace s x) dst
      let h : HubXfer := { slice := swId x.word, chan := t.chan, dir := d, inp := 0, src := none, dst := dst, seq := t.txNext,
                           flits := n, job := u.job, unit := .own u.unit }
      let s := setStream s { t with txNext := t.txNext + n }
      { s with fords := { s.fords with hub := s.fords.hub ++ [h] } }

/-! ### Credits (R31, R421, R424) -/

/-- The flits of a transfer by the ford of a direction that brings each (R422). -/
def flitFords (x : Slice) (d seq flits : Nat) : List (Nat × Nat) :=
  let l := dirFords x d
  let m := max 1 l.length
  l.zipIdx.map fun n => (n.1, (flits + m - 1 - (n.2 + m - seq % m) % m) / m)

/-! ### The hub's turns (R424) -/

/-- The first transfer of an input for a direction and a channel. -/
def inputHead (s : State) (id d chan i : Nat) : Option HubXfer :=
  s.fords.hub.find? fun h => h.slice == id && h.dir == d && h.chan == chan && h.inp == i

/-- The next flit of a transfer may leave: its ford is UP and has a credit for the channel. -/
def flitReady (s : State) (x : Slice) (h : HubXfer) : Option Nat :=
  (spreadFord x h.dir (h.seq + h.sent)).bind fun n => if (fordOf s n).state == 9 && 0 < creditsOf s n h.chan then some n else none

/-- The input that an outgoing direction served last. -/
def lastTurn (s : State) (id d chan : Nat) : Nat :=
  ((s.fords.turns.find? fun t => t.1 == id && t.2.1 == d && t.2.2.1 == chan).map (·.2.2.2)).getD 6

/-- The counts of a flit that leaves (R533): TX_FLITS, and with the first flit of a coded segment its bytes before and after coding (log
entry 116). -/
def countFlit (s : State) (n : Nat) (h : HubXfer) : State :=
  let s := count s 4 n 0 0 1
  match h.unit with
  | .own (.grad _ _ _ _ _ _ _ _ true data) =>
    if h.sent = 0 then count (count s 4 n 0 3 (4 * ofLe (data.take 4))) 4 n 0 4 data.length else s
  | _ => s

/-- Flits that wait for credit (R533): each nanosecond counts at the fords that have one waiting. -/
def countWaits (s : State) : State :=
  let waits := s.fords.hub.filterMap fun h =>
    ((s.fords.slices.find? fun x => swId x.word == h.slice).bind fun x => spreadFord x h.dir (h.seq + h.sent)).filter fun n =>
      creditsOf s n h.chan == 0
  waits.eraseDups.foldl (fun s n => count s 4 n 0 2 1) s

/-- One flit of a transfer leaves over a ford; with its last flit the transfer is through, and one in transit gives its credits back. -/
def sendFlit (s : State) (x : Slice) (h : HubXfer) (n : Nat) : State :=
  let last := h.sent + 1 = h.flits
  let w : WireFlit := { ford := n, number := (fordOf s n).txCount, chan := h.chan, seq := h.seq + h.sent
                        crc := crc32c (Config.flitBytes n (fordOf s n).txCount)
                        head := if h.sent = 0 then some (h.src, h.dst, h.job) else none
                        unit := if last then some h.unit else none }
  let left := if last then dropFirst (· == h) s.fords.hub
    else s.fords.hub.map fun q => if q == h then { q with sent := q.sent + 1 } else q
  let turns := dropW (fun t => t.1 == h.slice && t.2.1 == h.dir && t.2.2.1 == h.chan) s.fords.turns ++ [(h.slice, h.dir, h.chan, h.inp)]
  let s := setFord s n fun f => { f with credits := f.credits.modify h.chan (· - 1), txCount := f.txCount + 1 }
  let s := countFlit s n h
  let s := { s with fords := { s.fords with hub := left, turns := turns, wire := s.fords.wire ++ [w] } }
  if last && h.inp != 0 then giveCredits s h.chan (flitFords x (h.inp - 1) h.seq h.flits) else s

/-- An outgoing direction serves the next of its inputs that has a flit to send: one flit (R424). -/
def serveDir (x : Slice) (chan : Nat) (s : State) (d : Nat) : State :=
  let id := swId x.word
  let last := lastTurn s id d chan
  match (List.range 7).findSome? fun k =>
      (inputHead s id d chan ((last + 1 + k) % 7)).bind fun h => (flitReady s x h).map fun n => (h, n) with
  | some (h, n) => sendFlit s x h n
  | none => s

/-- Streams, transfers and turns of slices that are not READY are gone. -/
def dropStreams (s : State) : State :=
  let live (id : Nat) : Bool := s.fords.slices.any fun x => swId x.word == id && x.state == 2
  { s with fords := { s.fords with
      hub := s.fords.hub.filter fun h => live h.slice
      streams := s.fords.streams.filter fun t => live t.slice
      turns := s.fords.turns.filter fun t => live t.1 } }

/-- The bytes of coded data that wait in a hub for a direction (R348). -/
def codedBytes (s : State) (id d : Nat) : Nat :=
  (s.fords.hub.map fun h => match h.unit with
    | .own (.grad _ _ _ _ _ _ _ _ true data) => if h.slice == id && h.dir == d then data.length else 0
    | _ => 0).sum

/-- A coded segment for which the queues of its direction's fords, 8 MiB each, have no room: the coder holds (R348). A segment longer
than the queues enters them when they are empty. -/
def coderHolds (s : State) (u : OutUnit) : Bool :=
  match u.unit, sliceOf s u.basin with
  | .grad _ _ _ _ _ _ _ _ true data, some x => (nextDir s x (unitDst u.unit)).any fun d =>
      let q := codedBytes s (swId x.word) d
      q != 0 && 8388608 * (dirFords x d).length < q + data.length
  | _, _ => false

/-- Units of this module join their streams in turn; what follows a held segment on SR waits behind it (R348). -/
def admitUnits : Bool → List OutUnit → State → State
  | _, [], s => s
  | held, u :: l, s =>
    let wait := unitChan u.unit == 1 && (held || coderHolds s u)
    admitUnits (held || wait) l (if wait then { s with fords := { s.fords with out := s.fords.out ++ [u] } } else admitUnit s u)

/-- What the hubs do in a nanosecond (log entry 2): waiting frames of LM leave, units of this module join their streams, and each outgoing
direction of a READY slice sends one flit of each of SR and WX (R421 to R424). -/
def hubTick (s : State) : State :=
  let s := sendWaiting (dropStreams s)
  let s := admitUnits false s.fords.out { s with fords := { s.fords with out := [] } }
  let s := countWaits s
  (s.fords.slices.filter fun x => x.state == 2).foldl (fun s x =>
    (usedDirs s x).foldl (serveDir x 2) ((usedDirs s x).foldl (serveDir x 1) s)) s

/-! ### Arrivals (R422, R438) -/

/-- A unit for another module goes on through the hub: its next direction's input for the direction in which it came (R423, R424). -/
def forwardUnit (s : State) (x : Slice) (from_ chan seq flits : Nat) (src dst : Nat × Nat × Nat) (job : Option (Nat × Nat × Nat))
    (u : FlitUnit) : State :=
  match nextDir s x dst with
  | none => s
  | some d =>
    let h : HubXfer := { slice := swId x.word, chan := chan, dir := d, inp := 1 + from_, src := some src, dst := dst, seq := seq,
                         flits := flits, job := job, unit := .transit u }
    { s with fords := { s.fords with hub := s.fords.hub ++ [h] } }

end Sys2Proof.Machine
end

