-- ==== Sys2Proof/Machine/Basins.lean ====
section
/-! DEFINITION. Basins: their record, creation, change, hosts and teardown (R246, R396 to R407, R415, R416). -/

namespace Sys2Proof.Machine

/-! ### The record (R396, R397) -/

def bwFld (w : BitVec 1024) (lo hi : Nat) : Nat := fld w.toNat lo hi
def bwId (w : BitVec 1024) : Nat := bwFld w 0 3

/-- Reserved bits are 0 and the fields in range, but for ADMIN (R396, R402 order 1). -/
def basinFieldsOk (w : BitVec 1024) : Bool :=
  bwFld w 5 7 == 0 && bwFld w 24 31 == 0 && bwFld w 96 127 == 0 && bwFld w 640 1023 == 0 && 1 ≤ bwFld w 8 15 && bwFld w 16 23 ≤ 192 &&
    bwFld w 32 63 ≤ 65536 && bwFld w 64 95 ≤ 262144 && bwFld w 448 479 ≤ 1024 && bwFld w 480 511 ≤ 1024 &&
    (List.range 256).all fun r => !(bitAt w.toNat (192 + r) && bitAt w.toNat (128 + r / 16))

/-- The reaches of a record: of its whole tributaries, and single ones. -/
def hasReach (w : BitVec 1024) (r : Nat) : Bool := bitAt w.toNat (192 + r) || bitAt w.toNat (128 + r / 16)

/-- The other basins of a record's basin. -/
def others (s : State) (b : Nat) : List Basin := s.basins.filter fun x => x.id != b

/-- The named reaches and fords are free of other basins and of fences (R402 order 3). -/
def resourcesFree (s : State) (w : BitVec 1024) (reaches : Bool) : Bool :=
  let os := others s (bwId w)
  let reachBad (r : Nat) : Bool := hasReach w r && (os.any (fun x => hasReach x.word r) ||
    (bitAt w.toNat (192 + r) && s.boot.fenced.contains r))
  let tribBad (t : Nat) : Bool := bitAt w.toNat (128 + t) && (List.range 16).all fun r => s.boot.fenced.contains (16 * t + r)
  (!reaches || ((List.range 256).any (hasReach w) && !((List.range 256).any reachBad) && !((List.range 16).any tribBad))) &&
    !((List.range 48).any fun f => bitAt w.toNat (144 + f) && os.any fun x => bitAt x.word.toNat (144 + f))

/-- A sum over the other basins' records with a new one's field. -/
def sumWith (s : State) (w : BitVec 1024) (lo hi : Nat) : Nat :=
  bwFld w lo hi + ((others s (bwId w)).map fun x => bwFld x.word lo hi).sum

/-- The tributaries in which a record holds single reaches. -/
def sharedTribs (w : BitVec 1024) : List Nat := (List.range 16).filter fun t => (List.range 16).any fun r => bitAt w.toNat (192 + 16 * t + r)

/-- FENCED granules of some pools: the capacity falls by them (R208). -/
def fencedIn (s : State) (p : Nat → Bool) : Nat := (s.pools.grans.filter fun x => x.state == .fenced && p (poolOf x.g)).length

/-- The pages that neighbours could lend: those of the other modules of the declared torus, each of this module's capacity (R246, R402; log
entry 51). -/
def borrowCapacity (s : State) : Nat :=
  if topoValid s then (topoLen s 0 * topoLen s 1 * topoLen s 2 - 1) * ((tierCapacity s 1 + tierCapacity s 2) / 4096) else 0

/-- Quotas fit the capacity that FENCED granules leave (R208, R221, R402 order 5). TRIB_GRAN fits in the pools of the tributaries it
shares, BORROW_Q in what neighbours could lend (log entry 51). -/
def quotasFit (s : State) (w : BitVec 1024) : Bool :=
  let sh := sharedTribs w
  let near := (others s (bwId w)).filter fun x => (sharedTribs x.word).any sh.contains
  bwFld w 448 479 + (near.map fun x => bwFld x.word 448 479).sum + fencedIn s (fun p => sh.any fun t => p == 256 + t) ≤
      64 * sh.length && sumWith s w 480 511 + fencedIn s (272 ≤ ·) ≤ 1024 &&
    4096 * sumWith s w 512 543 ≤ tierCapacity s 1 && 4096 * sumWith s w 544 575 ≤ tierCapacity s 2 &&
    sumWith s w 576 607 ≤ borrowCapacity s &&
    bwFld w 608 639 ≤ bwFld w 512 543 + bwFld w 544 575

/-- The module's limits hold (R402 order 4). -/
def limitsFit (s : State) (w : BitVec 1024) : Bool :=
  sumWith s w 16 23 ≤ 192 && sumWith s w 32 63 ≤ 65536 && sumWith s w 64 95 ≤ 262144

/-- The store's record of a basin (R491). -/
def basinRec (w : BitVec 1024) : StoreRec := { type := 0x20, index := bwId w, len := 128, seq := 0, payload := [w.toNat] }

/-- A basin number starts with nothing of an earlier basin. -/
def freshBasin (s : State) (b : Nat) : State :=
  let s := setLink s b fun _ => { woreoCfg := woreoCfgReset }
  setKv s b fun _ => { cfg := kvCfgReset }

/-! ### BASIN.CREATE and BASIN.QUOTA (R401 to R404) -/

/-- The checks of R402 in order. -/
def createCheck (s : State) (w : BitVec 1024) : Nat :=
  if !basinFieldsOk w || bitAt w.toNat 4 then stDescInvalid
  else if basinLive s (bwId w) then stBasinExists
  else if !resourcesFree s w true || !limitsFit s w then stResourceBusy
  else if !quotasFit s w then stMemQuota
  else stOk

/-- BASIN.CREATE (R401, R402). -/
def execBasinCreate (h : Hdr) (rec : BitVec 1024) (s : State) : Res :=
  hostStoreCmd s h 0x0600 true (some (.basin (bwId rec))) (.basinCreate h rec) fun s =>
    let st := createCheck s rec
    if st != stOk then reply s h 0x0600 st []
    else
      let s := freshBasin (storeWriteNow s (basinRec rec)) (bwId rec)
      let s := { s with basins := s.basins ++ [{ id := bwId rec, word := rec }] }
      reply (raise s srcCore evBasinCreated [bwId rec] [bwId rec]) h 0x0600 stOk []

/-- Pages that a basin's lendable part now lends (R246, R405). -/
def lentPages (s : State) (b : Nat) : Nat := ((s.tiers.lends.filter fun l => l.asLender && l.basin == b).map (·.count)).sum

/-- Granules of tributary and trunk pools owned by jobs of a basin (R405). -/
def granUsed (s : State) (b : Nat) (p : Nat → Bool) : Nat :=
  (s.pools.grans.filter fun x => x.basin == b && x.state == .owned && 256 ≤ poolOf x.g && p (poolOf x.g)).length

/-- A quota below what is in use (R403). -/
def quotaUnder (s : State) (w : BitVec 1024) : Bool :=
  let b := bwId w
  bwFld w 512 543 < hbmUsed s b || bwFld w 544 575 < lpxUsed s b || bwFld w 576 607 < borrowUsed s b || bwFld w 608 639 < lentPages s b ||
    bwFld w 448 479 < granUsed s b (fun p => p < 272 && !bitAt w.toNat (128 + (p - 256))) || bwFld w 480 511 < granUsed s b (272 ≤ ·)

/-- Entries in use beyond the new limits (R403). -/
def entriesOver (s : State) (w : BitVec 1024) : Bool :=
  let b := bwId w
  bwFld w 32 63 < (s.models.variants.filter fun v => v.basin == b).length + (s.models.verifies.filter fun v => v.basin == b && !v.update).length ||
    bwFld w 64 95 < (s.serving.requests.filter fun r => r.basin == b).length

/-- A ford that is removed carries a job, or a slice names it (R403). -/
def fordKept (s : State) (old w : BitVec 1024) : Bool :=
  (List.range 48).any fun f => bitAt old.toNat (144 + f) && !bitAt w.toNat (144 + f) &&
    s.fords.slices.any fun x => fld x.word.toNat 64 67 == bwId w && (bitAt x.word.toNat (96 + f) || (x.bound.contains f && !x.parts.isEmpty))

/-- The checks of BASIN.QUOTA (R402, R403); a fence of one's own reach does not count against it (log entry 52). -/
def quotaCheck (s : State) (w : BitVec 1024) : Nat :=
  match basinOf s (bwId w) with
  | none => if basinFieldsOk w then stBasinUnknown else stDescInvalid
  | some x =>
    if x.teardown.isSome then stBasinUnknown
    else if !basinFieldsOk w || bwFld w 128 143 != bwFld x.word 128 143 || bwFld w 192 447 != bwFld x.word 192 447 ||
        (s.admin == x.id && !bitAt w.toNat 4) then stDescInvalid
    else if !resourcesFree s w false || !limitsFit s w || entriesOver s w || fordKept s x.word w then stResourceBusy
    else if !quotasFit s w || quotaUnder s w then stMemQuota
    else stOk

/-- Take the ADMIN bit from a record. -/
def noAdmin (w : BitVec 1024) : BitVec 1024 := w &&& ~~~(BitVec.ofNat 1024 16)

/-- BASIN.QUOTA (R403): ADMIN 1 for another basin moves the administration right in the same write. For a basin in teardown R416 gives
the outcome, which is not ST_BUSY. -/
def execBasinQuota (h : Hdr) (rec : BitVec 1024) (s : State) : Res :=
  hostStoreCmd s h 0x0603 true none (.basinQuota h rec) fun s =>
    let st := quotaCheck s rec
    if st != stOk then reply s h 0x0603 st []
    else
      let b := bwId rec
      let moved := bitAt rec.toNat 4 && s.admin != b
      let old := (basinOf s s.admin).map fun x => noAdmin x.word
      let s := storeWriteNow s (basinRec rec)
      let s := { s with basins := updW (fun x => x.id == b) (fun x => { x with word := rec }) s.basins }
      let s := match moved, old with
        | true, some w =>
          let s := storeWriteNow s (basinRec w)
          { s with admin := b, basins := updW (fun x => x.id == bwId w) (fun x => { x with word := w }) s.basins }
        | _, _ => s
      reply (raise s srcCore evBasinChanged [b, b2n moved] [b]) h 0x0603 stOk []

/-! ### BASIN.QUERY and BASIN.HOSTS (R405 to R407) -/

/-- The usage block (R405). -/
def usageWord (s : State) (b : Nat) : Nat :=
  let w := ((basinOf s b).map (·.word)).getD 0
  let live := ((List.range 256).filter fun r => hasReach w r && !s.boot.fenced.contains r).length
  live + 2 ^ 16 * granUsed s b (fun _ => true) + 2 ^ 32 * hbmUsed s b + 2 ^ 64 * lpxUsed s b + 2 ^ 96 * borrowUsed s b +
    2 ^ 128 * lentPages s b + 2 ^ 160 * (s.models.variants.filter fun v => v.basin == b).length +
    2 ^ 192 * (s.serving.requests.filter fun r => r.basin == b).length

/-- BASIN.QUERY (R405). -/
def execBasinQuery (h : Hdr) (b : Nat) (s : State) : Res :=
  hostCmd s h 0x0602 false (some (.basin b)) (.basinQuery h b) fun s =>
    if b != h.basin && !isAdmin s h.basin then reply s h 0x0602 stNotPermitted []
    else match basinOf s b with
      | none => reply s h 0x0602 stBasinUnknown []
      | some x => reply s h 0x0602 stOk [.record 128 x.word.toNat, .record 64 (usageWord s b)]

/-- Byte k of an address. -/
def addrByte (ip k : Nat) : Nat := fld ip (8 * k) (8 * k + 7)

/-- An IPv4-mapped address (R406). -/
def mapped4 (ip : Nat) : Bool := fld ip 0 79 == 0 && fld ip 80 95 == 0xFFFF

/-- A multicast or unspecified address (R406), its sixteen bytes read in the order of the wire: of IPv6, a first byte of FFH is multicast; of
an IPv4-mapped address bytes 10 and 11 are FFH and byte 12 is the first of the IPv4 address. The spec fixes no byte order for the
addresses of the record: this one is the model's choice (DESIGN CHOICE, log entry 138). -/
def badLocal (ip : Nat) : Bool :=
  ip == 0 || addrByte ip 0 == 0xFF || (mapped4 ip && (fld ip 96 127 == 0 || addrByte ip 12 / 16 == 14))

/-- The checks of a host record for a basin (R406). -/
def hostsCheck (s : State) (b : Nat) (rec : List Byte) : Nat :=
  let x := hostRecOf rec
  let ls := x.local0 ++ x.local1
  if 4 < byteAt rec 0 || 4 < byteAt rec 1 || 16 < byteAt rec 2 || ((rec.drop 3).take 5).any (· != 0) || ls.any badLocal then stDescInvalid
  else if (others s b).any fun o => (o.host.local0 ++ o.host.local1).any ls.contains then stResourceBusy
  else stOk

/-- A host record takes effect, and is in the store (R401, R407); the security mode follows (R449). -/
def setHosts (s : State) (b : Nat) (rec : List Byte) : State :=
  let s := storeWriteNow s { type := 0x21, index := b, len := rec.length, seq := 0, payload := rec.map (·.toNat) }
  settleMode { s with basins := updW (fun x => x.id == b) (fun x => { x with host := hostRecOf rec }) s.basins }

/-- BASIN.HOSTS (R401, R406, R407). -/
def execBasinHosts (h : Hdr) (b : Nat) (rec : List Byte) (s : State) : Res :=
  hostStoreCmd s h 0x0604 true (some (.basin b)) (.basinHosts h b rec) fun s =>
    if !basinLive s b || inTeardown s b then reply s h 0x0604 stBasinUnknown []
    else
      let st := hostsCheck s b rec
      if st != stOk then reply s h 0x0604 st [] else reply (setHosts s b rec) h 0x0604 stOk []

/-! ### Teardown (R415) -/

def setTeardown (s : State) (b : Nat) (t : Teardown) : State :=
  { s with basins := updW (fun x => x.id == b) (fun x => { x with teardown := some t }) s.basins }

def teardownOf (s : State) (b : Nat) : Option Teardown := (basinOf s b).bind (·.teardown)

/-- Steps 1 and 2: no more commands, requests outside steps end, and deferred commands are answered. -/
def startTeardown (s : State) (b : Nat) : State :=
  let s := setTeardown s b { start := s.now, step := 2 }
  let s := setLink s b fun l => { l with inbox := [], dataWait := [], partialCmd := [] }
  let s := ((liveReqs s b).filter fun r => r.state == .queued || r.state == .suspended).foldl
    (fun s r => endOff s b r.tag stBasinDestroyed true) s
  let (_, s) := sendTok s b 1 255 (offRecs s b [0]) []
  let (_, s) := sendTok s b 0 255 (offRecs s b [1, 2, 3]) []
  startFlush (answerDeferred (dropOffends s b) b (fun _ => true) stBasinDestroyed []) b

/-- Everything of the basin has been sent and acknowledged (R415 step 3). -/
def flushed (s : State) (b : Nat) : Bool :=
  let l := linkOf s b
  let done (f : Flow) : Bool := f.queue.isEmpty && f.sent.isEmpty
  l.rspWait.isEmpty && l.tokWait.isEmpty && done l.flow0 && done l.flow1

/-- A job of the basin is killed (R210), and its steps are discarded. -/
def killAll (s : State) (b : Nat) : State :=
  let s := (s.steps.filter fun t => t.basin == b).foldl idleDomains s
  let s := { s with
    tiers := { s.tiers with pins := dropW (fun p => p.1 == b) s.tiers.pins }
    steps := dropW (fun t => t.basin == b) s.steps }
  (s.pools.jobs.filter fun j => j.basin == b).foldl (fun s j => if j.killed.isSome then s else killJob (endJob s b j.num 0) b j.num) s

/-- Steps 4 to 6: flows and addresses, jobs and training objects, and every page. Lent pages are reclaimed and borrowed ones given back. -/
def closeBasin (s : State) (b : Nat) : State :=
  let s := setLink s b fun l => { woreoCfg := l.woreoCfg }
  let s := settleMode { s with basins := updW (fun x => x.id == b) (fun x => { x with host := {} }) s.basins }
  let s := killAll s b
  let mine := fun l : Lend => l.basin == b
  let s := sendUnits s b none ((s.tiers.lends.filter mine).map fun l =>
    if l.asLender then LmFrame.memReclaim l.x l.y l.z l.index else LmFrame.lendReturn l.x l.y l.z l.index)
  let s := { s with
    trains := dropW (fun t => t.basin == b) s.trains
    serving := { s.serving with
      groups := dropW (fun g => g.basin == b) s.serving.groups, requests := dropW (fun r => r.basin == b) s.serving.requests
      offends := dropW (fun x => x.basin == b) s.serving.offends, modelEnds := dropW (fun x => x.1 == b) s.serving.modelEnds }
    models := { s.models with
      models := dropW (fun m => m.basin == b) s.models.models, variants := dropW (fun v => v.basin == b) s.models.variants
      verifies := dropW (fun v => v.basin == b) s.models.verifies, programs := dropW (fun p => p.basin == b) s.models.programs } }
  let s := unmapPages s b ((s.tiers.pages.filter fun e => e.basin == b).map (·.page))
  let s := { s with tiers := { s.tiers with lends := dropW (fun l => mine l && !l.asLender) s.tiers.lends } }
  let s := setKv s b fun _ => { cfg := kvCfgReset }
  setTeardown s b { (teardownOf s b).getD { start := s.now, step := 6 } with step := 6 }

/-- BASIN.DESTROY (R404, R415). With a failed store its definition cannot be removed: ST_STORE_FAULT, as for every write (R493). -/
def execBasinDestroy (h : Hdr) (b : Nat) (s : State) : Res :=
  hostCmd s h 0x0601 true (some (.basin b)) (.basinDestroy h b) fun s =>
    if !basinLive s b then reply s h 0x0601 stBasinUnknown []
    else if inTeardown s b then reply s h 0x0601 stBusy []
    else if isAdmin s b then reply s h 0x0601 stNotPermitted []
    else if s.store.faulted then reply s h 0x0601 stStoreFault []
    else startTeardown (deferCmd s { h := h, opcode := 0x0601, obj := .basin b }) b

/-- TEARDOWN_FLUSH_EXPIRY (R415 steps 3 to 6): the basin's messages have all been acknowledged, or 100 ms are over. -/
def execTeardownFlushExpiry (b : Nat) (s : State) : Res :=
  match teardownOf s b with
  | some t => if t.step = 3 && (flushed s b || t.flushAt + 100000000 ≤ s.now) then .next (closeBasin s b) else .next s
  | none => .next s

/-- Every granule and page of the basin is cleared. -/
def basinClear (s : State) (b : Nat) : Bool :=
  !(s.pools.jobs.any fun j => j.basin == b) && !(s.pools.grans.any fun x => x.basin == b && x.state != .fenced) &&
    !(s.tiers.clearing.any fun c => c.basin == b) && !(s.tiers.pages.any fun e => e.basin == b) &&
    !(s.tiers.lends.any fun l => l.basin == b && l.asLender)

/-- BASIN_TEARDOWN_COMPLETE (R415 step 7). When the store has failed meanwhile, the definition stays in use as R493 has it: the basin is
there, empty, and the command is answered with ST_STORE_FAULT (log entry 151). -/
def execBasinTeardownComplete (b : Nat) (s : State) : Res :=
  match teardownOf s b with
  | none => .next s
  | some t =>
    if t.step != 6 || !basinClear s b || !storeReady s then .next s
    else
      let tomb (ty : Nat) : StoreRec := { type := ty, index := b, len := 0, seq := 0, tomb := true }
      let asks (d : Deferred) : Bool := d.opcode == 0x0601 && d.obj == .basin b
      let s := withdrawSlices s b
      if s.store.faulted then
        .next (answerAll { s with basins := updW (fun x => x.id == b) (fun x => { x with teardown := none }) s.basins } asks stStoreFault [])
      else
        let s := storeWriteNow (storeWriteNow s (tomb 0x20)) (tomb 0x21)
        let s := freshBasin { s with basins := dropW (fun x => x.id == b) s.basins } b
        let ns := s.now - t.start
        .next (answerAll (raise s srcCore evBasinDestroyed [b, ns] []) asks stOk [.u64 ns])

end Sys2Proof.Machine
end

