-- ==== Sys2Proof/Machine/Coder.lean ====
section
/-! DEFINITION. The coder of gradient segments at a ford hub: the count of exponents, the code lengths, the coded stream and its reading
(R348). -/

namespace Sys2Proof.Machine

/-! ### Code lengths from counts (R348 steps 1 and 2) -/

/-- The exponent byte of an F32 value, bits [30:23]. -/
def expByte (v : BitVec 32) : Nat := v.toNat / 2 ^ 23 % 256

/-- The counts of the exponents that occur, by increasing exponent. -/
def expCounts (vs : List (BitVec 32)) : List (Nat × Nat) :=
  let cs := vs.foldl (fun l v => l.modify (expByte v) (· + 1)) (List.replicate 256 0)
  cs.zipIdx.filterMap fun c => if c.1 = 0 then none else some (c.2, c.1)

/-- A coin of the length-limited construction: its weight and the symbols in it. -/
abbrev Coin := Nat × List Nat

def insertCoin (x : Coin) : List Coin → List Coin
  | [] => [x]
  | y :: l => if x.1 ≤ y.1 then x :: y :: l else y :: insertCoin x l

def sortCoins (l : List Coin) : List Coin := l.foldr insertCoin []

/-- Pairs of neighbouring coins become one; a last single one is left out. -/
def pairCoins : List Coin → List Coin
  | x :: y :: l => (x.1 + y.1, x.2 ++ y.2) :: pairCoins l
  | _ => []

/-- One denomination after another: the symbols' own coins with the pairs of the one before. -/
def coinRounds (own : List Coin) : Nat → List Coin
  | 0 => []
  | n + 1 => sortCoins (own ++ pairCoins (coinRounds own n))

/-- The code lengths of the 256 exponents (R348 step 2): of all complete codes with lengths up to 15 one whose coded length is least. The
spec leaves open which complete code the hub builds (DESIGN CHOICE, log entry 94). A segment with one exponent gives it length 1. -/
def expLengths (vs : List (BitVec 32)) : List Nat :=
  match expCounts vs with
  | [] => List.replicate 256 0
  | [c] => (List.range 256).map fun k => if k = c.1 then 1 else 0
  | cs =>
    let taken := ((coinRounds (sortCoins (cs.map fun c => (c.2, [c.1]))) 15).take (2 * cs.length - 2)).map (·.2)
    taken.flatten.foldl (fun l k => l.modify k (· + 1)) (List.replicate 256 0)

/-! ### The segment (R348 step 3) -/

/-- The bits of a value in the stream: its exponent's code, then bit 31 and bits [22:0], the lowest first. -/
def valueBits (ls : List Nat) (v : BitVec 32) : List Bool :=
  codeBits ls (expByte v) ++ bitAt v.toNat 31 :: (List.range 23).map fun k => bitAt v.toNat k

/-- A coded segment: the count of values, the table of lengths, and the stream. -/
def codeSegment (vs : List (BitVec 32)) : List Byte :=
  let ls := expLengths vs
  le 4 vs.length ++ (List.range 128).map (fun k => BitVec.ofNat 8 (ls.getD (2 * k) 0 + 16 * ls.getD (2 * k + 1) 0)) ++
    packBits ((vs.map (valueBits ls)).flatten)

/-- The table of lengths of a segment. -/
def segLens (l : List Byte) : List Nat := (List.range 256).map fun k => byteAt l (k / 2) / (if k % 2 = 0 then 1 else 16) % 16

/-- A receiver accepts a complete code, and a single code of length 1 (R348). -/
def segCodeOk (ls : List Nat) : Bool :=
  let used := ls.filter (· != 0)
  used == [1] || (used.map fun n => 2 ^ (15 - n)).sum == 2 ^ 15

/-- The symbol at the front of a stream: bit after bit joins the code until it is one of those of its length. -/
def readSymbol (cs : List (Nat × Nat × Nat)) : Nat → Nat → Nat → List Bool → Option (Nat × List Bool)
  | 0, _, _, _ => none
  | _ + 1, _, _, [] => none
  | fuel + 1, n, code, b :: l =>
    let c := 2 * code + b2n b
    match cs.find? fun x => x.1 == n + 1 && x.2.1 == c with
    | some x => some (x.2.2, l)
    | none => readSymbol cs fuel (n + 1) c l

/-- The values of a stream; what is left of it is less than a byte. -/
def readValues (cs : List (Nat × Nat × Nat)) : Nat → List Bool → Option (List (BitVec 32))
  | 0, l => if l.length < 8 then some [] else none
  | n + 1, l => (readSymbol cs 15 0 0 l).bind fun x =>
    if x.2.length < 24 then none
    else
      let man := ((x.2.drop 1).take 23).zipIdx.foldl (fun m y => m + b2n y.1 * 2 ^ y.2) 0
      let v := b2n (x.2.headD false) * 2 ^ 31 + x.1 * 2 ^ 23 + man
      (readValues cs n (x.2.drop 24)).map fun vs => BitVec.ofNat 32 v :: vs

/-- The codes in use: length, code and symbol. -/
def segCodes (ls : List Nat) : List (Nat × Nat × Nat) :=
  (ls.zipIdx.filter fun x => x.1 != 0).map fun x => (x.1, canonCode ls x.2, x.2)

/-- The bits of bytes, least significant first. -/
def byteBits (l : List Byte) : List Bool := (l.map fun b => (List.range 8).map fun k => bitAt b.toNat k).flatten

/-- The values of a coded segment; none when it is malformed (R348). -/
def decodeSegment (l : List Byte) : Option (List (BitVec 32)) :=
  let n := ofLe (l.take 4)
  let ls := segLens (l.drop 4)
  if l.length < 132 || 262144 < n || !segCodeOk ls then none else readValues (segCodes ls) n (byteBits (l.drop 132))

/-- The values of a segment as its slice's minor version has it: coded, or plain F32 values (R348, R430). -/
def segmentValues (coded : Bool) (l : List Byte) : Option (List (BitVec 32)) :=
  if coded then decodeSegment l
  else if l.length % 4 != 0 || 1048576 < l.length then none
  else some ((List.range (l.length / 4)).map fun k => BitVec.ofNat 32 (ofLe ((l.drop (4 * k)).take 4)))

/-- The bytes of a segment (R348, R430). -/
def segmentBytes (coded : Bool) (vs : List (BitVec 32)) : List Byte :=
  if coded then codeSegment vs else (vs.map fun v => le 4 v.toNat).flatten

end Sys2Proof.Machine
end

