-- ==== Sys2Proof/Machine/MemEvents.lean ====
section
/-! DEFINITION. The events of the tiered memory: moves and copies, reclaim of HBM3E, errors, poison and repair, scrubbing, lent
memory, and the clearing of frames (R205, R219, R225 to R250, R273, R294, R301). -/

namespace Sys2Proof.Machine

/-! ### What waits for pages (R228, R299, R377) -/

/-- Pages of a basin have moved: resumptions, placements and reads that waited for them go on. -/
def settleMoved (s : State) (b : Nat) : State := settleReads (settlePlaces (settleResumes s b) b) b

/-! ### Lent memory (R247 to R249) -/

/-- The pages homed under a lend record. -/
def lentHere (s : State) (l : Lend) : List PageEnt :=
  s.tiers.pages.filter fun e => e.basin == l.basin && e.homeT == 3 && e.homeLoc == l.index

/-- A borrowed record that is being reclaimed and holds no page any more goes back to its lender (R248). -/
def returnLends (s : State) : State :=
  let done (l : Lend) : Bool := !l.asLender && l.reclaimDue.isSome && (lentHere s l).isEmpty
  let s' := (s.tiers.lends.filter done).foldl (fun s l => sendUnits s l.basin none [.lendReturn l.x l.y l.z l.index]) s
  { s' with tiers := { s'.tiers with lends := dropW done s'.tiers.lends } }

/-! ### Moves and copies that wait (R219, R225 to R228) -/

/-- A place in the lent memory of a basin: record and place among its frames (R247). -/
def lendRoom (s : State) (b : Nat) : Option (Nat × Nat) :=
  s.tiers.lends.findSome? fun l =>
    if l.asLender || !l.live || l.basin != b || l.reclaimDue.isSome then none
    else ((List.range l.count).find? fun k => !l.slots.any fun x => x.1 == k).map fun k => (l.index, k)

/-- A waiting operation may start (R221, R227 step 1): a move, when the page is unpinned and a frame is free within the quota; a copy, when
it is still needed and the quota and a free frame hold it. -/
def canStart (s : State) (m : MoveReq) : Bool :=
  match pageOf s m.basin m.page with
  | none => false
  | some e =>
    if m.again then
      e.copy.any (fun f => s.tiers.retiring.contains (1, f)) && !e.poison && !pinned s m.basin m.page && 0 < framesFree s 1
    else if m.copy then e.kind == .model && e.homeT == 2 && e.copy.isNone && !e.poison && e.moving.isNone && copyNeeded s m.basin m.page &&
      quotaOk s m.basin 1 1 && 0 < framesFree s 1
    else e.moving.isNone && !pinned s m.basin m.page && (if m.tier = 3 then (lendRoom s m.basin).isSome else 0 < framesFree s m.tier) &&
      (e.homeT == m.tier || quotaOk s m.basin m.tier 1) && (e.kind != .kv || m.tier != 2 || rowEnters s m.basin m.page)

/-- The operation that is served next (R226): a copy that a class C0 step needs, else the first of the queue that can start. -/
def nextOp (s : State) : Option MoveReq :=
  (s.tiers.moves.find? fun m => m.copy && copyForC0 s m.basin m.page && canStart s m).orElse fun _ => s.tiers.moves.find? (canStart s)

/-- An operation leaves the queue. -/
def dropOp (s : State) (m : MoveReq) : State := { s with tiers := { s.tiers with moves := dropFirst (fun x => x == m) s.tiers.moves } }

/-- A frame of the destination tier is taken for a page's move, or a place of a lend record: its location (R227 step 1). -/
def takePlace (s : State) (b p tier : Nat) : Option Nat × State :=
  if tier = 3 then match lendRoom s b with
    | none => (none, s)
    | some (i, k) => (some i, { s with tiers := { s.tiers with
        lends := updW (fun l => !l.asLender && l.index == i) (fun l => { l with slots := l.slots ++ [(k, p)] }) s.tiers.lends } })
  else takeFrame s tier

/-- PAGE_MOVE_START (R226, R227 step 1): the move that is served next takes a free frame, and MOVING is set. -/
def execPageMoveStart (basin page : Nat) (s : State) : Res :=
  match nextOp s with
  | none => .next s
  | some m =>
    if m.copy || m.basin != basin || m.page != page then .next s
    else match takePlace s basin page m.tier with
      | (none, s) => .next s
      | (some f, s) => .next (setPage (dropOp s m) basin page fun e => { e with moving := some (m.tier, f) })

/-! ### Poison (R235 to R237, R273, R301) -/

/-- The number of a reader in the list of R235. -/
def readerNum : Reader → Nat
  | .step _ _ => 0
  | .copyPath => 1
  | .move => 2
  | .scrub => 3
  | .host => 4

/-- A request ends because a row it names is lost, or its memory was reclaimed: at once outside a step, else with its step. -/
def loseReq (s : State) (b tag status : Nat) : State :=
  match reqOf s b tag with
  | none => s
  | some r =>
    if r.state == .running then
      let hit (t : Step) : List Nat := (t.slots.zipIdx.filter fun x => x.1.tag == tag).map (·.2)
      let add (t : Step) : Step := { t with reqFaults := t.reqFaults ++ (hit t).filter fun i => !t.reqFaults.contains i }
      { s with steps := updW (fun t => t.basin == b) add s.steps }
    else if r.state == .ended then s
    else endOff s b tag status true

/-- A node and every node below it. -/
def subtree (k : Kv) : Nat → List Nat → List Nat
  | 0, l => l
  | fuel + 1, l =>
    let more := (k.nodes.filter fun n => n.parent.any l.contains && !l.contains n.id).map (·.id)
    if more.isEmpty then l else subtree k fuel (l ++ more)

/-- The node of a row and all nodes below it are removed from the tree (R301). -/
def dropSubtree (s : State) (b row : Nat) : State :=
  let k := kvOf s b
  match nodeOfRow k row with
  | none => s
  | some n =>
    let ids := subtree k k.nodes.length [n.id]
    setKv s b fun k => { k with nodes := dropW (fun n => ids.contains n.id) k.nodes }

/-- Everyone who names a row ends with a status; a conversation ends with KV.EXPIRED, reason POISONED (R301). -/
def loseRow (s : State) (b row status : Nat) : State :=
  let s := dropSubtree s b row
  let s := ((liveReqs s b).filter fun r => r.rows.contains row).foldl (fun s r => loseReq s b r.tag status) s
  let s := ((kvOf s b).convs.filter fun c => c.rows.contains row).foldl (fun s c => endConv s b c.conv 2) s
  sweepKv s b

/-- A KV page is lost: its row, or, in the list area, the requests and conversations booked there (R301, log entry 53). -/
def loseKvPage (s : State) (b p status : Nat) : State :=
  match rowAtPage (kvOf s b) p with
  | some r => if r.state == .clearing then s else loseRow s b r.id status
  | none =>
    let s := ((liveReqs s b).filter fun r => inBook r.book p).foldl (fun s r => loseReq s b r.tag status) s
    ((kvOf s b).convs.filter fun c => inBook c.book p).foldl (fun s c => endConv s b c.conv 2) s

/-- A poisoned DERIVED page is dropped, unless it is pinned, and its variant builds it again (R236, R273). -/
def loseDerived (s : State) (b p : Nat) : State :=
  let has (g : GenSet) : Bool := (derivedMapped s b g).contains p
  let vs := s.models.variants.filter fun v => v.basin == b
  let s := match vs.find? fun v => has v.cur, vs.find? fun v => v.pend.any has with
    | some v, _ => setVariant s b v.vid fun v => if v.state == .resident then
        { v with state := .materialising, building := 1, pendBuilt := v.pendBuilt } else v
    | none, some v => setVariant s b v.vid fun v => { v with pendBuilt := false, building := if v.building = 2 then 0 else v.building }
    | none, none => s
  if pinned s b p then s else unmapPage s b p

/-- An uncorrectable error in the home of a page (R236, R273, R301). `mark`: its present frame is the one that failed. -/
def poisonHome (s : State) (e : PageEnt) (reader : Nat) (mark : Bool) : State :=
  if e.poison then s
  else if e.kind == .model then poisonModel s e reader mark
  else
    let s := if mark then markRetiring s e.homeT e.homeLoc else s
    let s := raisePoisoned (poisonPage s e.basin e.page) e reader
    match e.kind with
    | .model => s
    | .derived => loseDerived s e.basin e.page
    | .kv => loseKvPage s e.basin e.page stKvPoisoned
    | .work => s
    | .train => s

/-- What the reader meets: a step of the page's basin faults by the page's kind; a KV page ends requests, not the step (R236). -/
def faultReader (s : State) (b : Nat) (r : Reader) (status addr : Nat) : State :=
  match r with
  | .step sid desc =>
    match stepOf s sid with
    | none => s
    | some t =>
      if t.basin != b || !t.bound || t.stopped then s
      else if status = stKvPoisoned then stepFaultRecord s t.basin t.job
        { status := status, src := stepSteward s t, desc := desc, tag := tagOfDesc t desc, aux := desc, addr := addr }
      else descFault s t (stepSteward s t) status desc addr
  | _ => s

/-- An uncorrectable error in a frame (R235, R236). A move's finding takes effect when the move completes (R228). A frame that is no page's
home or copy, lent or the destination of a move, is retired when it is left, a free one at once (R233). -/
def frameError (s : State) (tier f : Nat) (r : Reader) : State :=
  match pageAtFrame s tier f with
  | none => if f < frameCount tier && !s.tiers.retired.contains (tier, f) then leaveFrame (markRetiring s tier f) tier f else s
  | some (e, isCopy) =>
    if r == .move then s
    else if isCopy then
      let s := poisonCopy s e f
      let s := match r with
        | .step _ _ => raisePoisoned s { e with copy := none } (readerNum r)
        | _ => s
      faultReader s e.basin r stWeightPoisoned (4096 * e.page)
    else faultReader (poisonHome s e (readerNum r) true) e.basin r (poisonStatus e.kind) (4096 * e.page)

/-- An error in the device reserve (R240): the CRC-64 of one page entry is lost. Which entry a frame of the reserve holds the spec does
not say: a free value (log entry 127). -/
def reserveError (s : State) : State :=
  let l := s.tiers.pages.filter fun e => e.kind.readOnly
  let (k, s) := drawPick s
  match l[k % max 1 l.length]? with
  | none => s
  | some e => setPage s e.basin e.page fun e => { e with crcLost := true }

/-- An error in a granule of a pool: the copies of pages in it are lost with its contents, MEM.POISONED is raised for each, and the step
that reads them faults (R185, R236, R237, log entry 54). -/
def poolError (s : State) (g : Nat) (r : Reader) : State :=
  let x := granOf s g
  if x.state != .owned then s
  else
    let l := s.tiers.poolCopies.filter fun c => c.g == g
    let s := { s with tiers := { s.tiers with poolCopies := dropW (fun c => c.g == g) s.tiers.poolCopies } }
    let s := l.foldl (fun s c => match pageOf s c.basin c.src with
      | some e => raisePoisoned s { e with homeT := 0 } (readerNum r)
      | none => s) s
    faultReader s x.basin r stWeightPoisoned 0

/-- UNCORRECTABLE_ERROR (R232, R235 to R237, R240, R301): in a frame of a tier, in the device reserve, or in a granule of a pool. -/
def execUncorrectableError (place : Place) (reader : Reader) (s : State) : Res :=
  match place with
  | .hbm f => .next (frameError s 1 f reader)
  | .lpx f => .next (if frameCount 2 ≤ f then reserveError s else frameError s 2 f reader)
  | .pool g => .next (poolError s g reader)

/-- PAGE_MOVE_COMPLETE (R227 steps 2 to 5, R228): the bytes are in the new frame, the home is switched, and the old frame is
cleared. A page found uncorrectable in step 2 becomes poisoned. -/
def execPageMoveComplete (basin page : Nat) (uncorrectable : Bool) (s : State) : Res :=
  match pageOf s basin page with
  | none => .next s
  | some e =>
    match e.moving with
    | none => .next s
    | some (tier, f) =>
      match lentRange s basin (if e.homeT = 3 then 4096 * page else 0) (if e.homeT = 3 then 4096 else 0) 0 0 with
      | (.wait, s) => .next s
      | (_, s) =>
      let s := copyFrame s (homeAt e) (placeAt basin page tier f)
      let s := setPage s basin page fun e => { e with homeT := tier, homeLoc := f, moving := none }
      let s := if uncorrectable then markRetiring s e.homeT e.homeLoc else s
      let s := if e.homeT = 3 then leaveLend { s with mem := memClear s.mem (homeAt e) 4096 } basin page
        else releaseFrame s basin 0 e.homeT e.homeLoc
      let s := if tier = 3 then lentPage s { e with homeT := 3, homeLoc := f } true
        else if s.tiers.retiring.contains (tier, f) then leaveFrame s tier f else s
      let s := if uncorrectable && !e.poison then
          match pageOf s basin page with
          | some e => poisonHome s e 2 false
          | none => s
        else s
      .next (settleMoved (returnLends (kvPageMoved s basin page)) basin)

/-! ### Copies (R219, R225) -/

/-- The page that a copy into a job's pool holds (R263): what the overlay of the step that the job runs selects for the page named. -/
def copySource (s : State) (b job p : Nat) : Nat :=
  match s.steps.find? fun t => t.basin == b && t.job == job && t.bound && !t.stopped with
  | some t => viewPage s t p
  | none => p

/-- A page's bytes go into a granule (R219, R267); what a copy held there before is gone. -/
def putPoolCopy (s : State) (b p src g off at_ : Nat) : State :=
  let s := setPage s b src fun e => { e with lastUse := s.now }
  let keep (c : PoolCopy) : Bool := c.g != g || c.off + 4096 ≤ off || off + 4096 ≤ c.off
  let vid := (s.steps.find? fun t => t.basin == b && t.job == (granOf s g).job && t.bound && !t.stopped).elim 0 (·.vid)
  let x : PoolCopy := { g := g, off := off, basin := b, page := p, src := src, vid := vid }
  { s with
    tiers := { s.tiers with poolCopies := s.tiers.poolCopies.filter keep ++ [x] }
    mem := memPuts (memClear s.mem (granAt g + off) 4096) (granAt g + off) (memGets s.mem at_ 4096) }

/-- It is the turn of a copy into a job's pool (R226): nothing waits in the tier queue that can start and is older than the step whose program
places the weights, and no copy for class C0 unless the step is of that class. -/
def poolTurn (s : State) (b job : Nat) : Bool :=
  match nextOp s, s.steps.find? fun t => t.basin == b && t.job == job && t.bound && !t.stopped with
  | none, _ => true
  | some _, none => false
  | some m, some t => t.formT < m.since || (t.cls == 0 && !(m.copy && copyForC0 s m.basin m.page))

/-- PAGE_COPY (R218, R219, R221, R225, R226): the copy that is served next is made in HBM3E; or a page of a read-only kind is copied into
a granule of a job. Its CRC-64 is checked on the way. -/
def execPageCopy (basin page : Nat) (toPool : Option (Nat × Nat)) (s : State) : Res :=
  match toPool with
  | none => match nextOp s with
    | none => .next s
    | some m =>
      if !m.copy || m.basin != basin || m.page != page then .next s
      else if m.again then match pageOf s basin page with
        | some e => .next (recopy (dropOp s m) e (e.copy.getD 0))
        | none => .next s
      else .next (makeCopy (dropOp s m) basin page)
  | some (g, off) =>
    let x := granOf s g
    let p := copySource s basin x.job page
    match pageOf s basin p with
    | none => .next s
    | some e =>
      if !e.kind.readOnly || (e.poison && e.copy.isNone) || x.state != .owned || x.basin != basin || off % 4096 != 0 ||
          65536 < off + 4096 || !poolTurn s basin x.job || !((ofSealed s basin p || ofSet s basin p) || e.kind == .derived) then .next s
      else if crcGood s e (readAt e) then .next (putPoolCopy s basin page p g off (readAt e))
      else match e.copy with
        | some f => .next (poisonCopy s e f)
        | none => .next (poisonHome s e 1 true)

/-! ### HBM reclaim (R231, R294) -/

/-- Frames of a tier that are being cleared and come free. -/
def clearingFree (s : State) (tier : Nat) : Nat :=
  (s.tiers.clearing.filter fun c => c.tier == tier && !s.tiers.retired.contains (tier, c.frame)).length

/-- Pages of a basin that leave HBM3E for LPDDR5X: those on their way, and of those that wait as many as its quota takes. -/
def leavingHbm (s : State) (b : Nat) : Nat :=
  let l := s.tiers.pages.filter fun e => e.basin == b && e.homeT == 1
  (l.filter fun e => (e.moving.map (·.1)) == some 2).length +
    min (lpxQuota s b - lpxUsed s b) (l.filter fun e => e.moving.isNone && s.tiers.moves.any fun m =>
      !m.copy && m.basin == e.basin && m.page == e.page && m.tier == 2).length

/-- Frames of a tier that come free when clearings, and moves from HBM3E to LPDDR5X that find room, are through. -/
def tierComing (s : State) (tier : Nat) : Nat :=
  clearingFree s tier + (if tier = 1 then min (framesFree s 2) (((List.range 16).map (leavingHbm s)).sum) else 0)

/-- HBM_LOW and HBM_HIGH in frames; HBM_HIGH not above HBM_LOW is read as HBM_LOW + 1 (R230). -/
def hbmLow (s : State) : Nat := fld s.tiers.memCtrl.toNat 8 15 * (tierCapacity s 1 / 4096) / 256
def hbmHigh (s : State) : Nat :=
  max (fld s.tiers.memCtrl.toNat 16 23) (fld s.tiers.memCtrl.toNat 8 15 + 1) * (tierCapacity s 1 / 4096) / 256

/-- Free HBM3E, with what is coming, is still below HBM_HIGH. -/
def hbmShort (s : State) : Bool := framesFree s 1 + tierComing s 1 < hbmHigh s

/-- A WORK page that stage 3 may move: in HBM3E, unpinned, with no move open. -/
def workMovable (s : State) (e : PageEnt) : Bool :=
  e.kind == .work && e.homeT == 1 && !pinned s e.basin e.page && !moveOpen s e.basin e.page

/-- Stage 3: WORK pages of the basins that a test names, least recently accessed first, are moved to LPDDR5X while another asks for more. -/
def moveWork (ok : Nat → Bool) (more : State → Bool) : Nat → State → State
  | 0, s => s
  | fuel + 1, s =>
    if !more s then s
    else match (s.tiers.pages.filter fun e => ok e.basin && workMovable s e).foldl (fun best e => match best with
        | none => some e
        | some d => if e.lastUse < d.lastUse || (e.lastUse == d.lastUse &&
            (e.basin < d.basin || (e.basin == d.basin && e.page < d.page))) then some e else some d) none with
      | none => s
      | some e => moveWork ok more fuel (askMove s e.basin e.page 2 1)

/-- Paused conversations of all basins by remaining time to live, then identifier, then basin (R291 stage 1, R294). -/
def convOrder (s : State) : List (Nat × Conv) :=
  let l := ((List.range 16).map fun b => (kvOf s b).convs.map fun c => (b, c)).flatten
  let before (x y : Nat × Conv) : Bool :=
    let p := convLeft s x.2
    let q := convLeft s y.2
    p < q || (p == q && (x.2.conv < y.2.conv || (x.2.conv == y.2.conv && x.1 ≤ y.1)))
  l.foldl (fun acc x => acc.takeWhile (fun y => before y x) ++ x :: acc.dropWhile fun y => before y x) []

/-- Move a row out where the backwater of its basin has room already (R294). -/
def rowOutIfRoom (short : State → Bool) (s : State) (b id : Nat) : State :=
  let k := kvOf s b
  if short s && bwUsed k + rowSlots k [id] ≤ bwSlots k && (rowOf k id).any (fun w => w.tier == 1 && w.moving.isNone && !w.c0) then
    moveRow s b id 2 1
  else s

/-- Stage 4 (R294): PAUSED rows, then cold SHARED rows: those that conversations name in the same order, then the others. -/
def moveKv (short : State → Bool) (s : State) : State :=
  let cs := convOrder s
  let pick (p : Nat → Row → Bool) (s : State) : State := cs.foldl (fun s x => x.2.rows.foldl (fun s id =>
    if (rowOf (kvOf s x.1) id).any (p x.1) then rowOutIfRoom short s x.1 id else s) s) s
  let cold (s : State) (b : Nat) (w : Row) : Bool := w.state == .shared && !rowHot s b w.id
  let s := pick (fun _ w => w.state == .paused) s
  let s := pick (cold s) s
  (List.range 16).foldl (fun s b => ((kvOf s b).rows.filter (cold s b)).foldl (fun s w => rowOutIfRoom short s b w.id) s) s

/-- HBM_RECLAIM (R231): from free HBM3E below HBM_LOW until it reaches HBM_HIGH. -/
def execHbmReclaim (s : State) : Res :=
  if !s.tiers.reclaiming && hbmLow s ≤ framesFree s 1 then .next s
  else
    let s := dropRebuildable s (fun _ => true) hbmShort
    let s := moveKv hbmShort (moveWork (fun _ => true) hbmShort s.tiers.pages.length s)
    let s := if hbmShort s then reclaimLends s 1 else s
    .next { s with tiers := { s.tiers with reclaiming := framesFree s 1 < hbmHigh s } }

/-! ### Repair (R239, R240) -/

/-- MODEL_HOME_REPAIR (R239): from the copy, when its CRC-64 is right and LPDDR5X has a free frame; without a good copy the host is
asked for the page. -/
def execModelHomeRepair (basin page : Nat) (s : State) : Res :=
  match pageOf s basin page with
  | none => .next s
  | some e =>
    if e.kind != .model || !e.poison || s.tiers.refetch.any (fun r => r.basin == basin && r.page == page) then .next s
    else
      match e.copy.filter fun f => crcGood s e (frameAt 1 f) with
      | some f => if framesFree s 2 = 0 then .next s else .next (repairPage s e (memGets s.mem (frameAt 1 f) 4096) e.crc 0)
      | none => .next (askRefetch s e)

/-- REFETCH_TIMER (R240): every 10 s while the page stays poisoned. -/
def execRefetchTimer (basin page : Nat) (s : State) : Res :=
  let mine (r : Refetch) : Bool := r.basin == basin && r.page == page
  match s.tiers.refetch.find? mine, pageOf s basin page with
  | some r, some e =>
    if s.now < r.next || !e.poison then .next s
    else
      let s := { s with tiers := { s.tiers with
        refetch := updW mine (fun r => { r with next := r.next + 10000000000 }) s.tiers.refetch } }
      .next (raiseRefetch s e)
  | _, _ => .next s

/-! ### Corrected errors and scrubbing (R233, R234) -/

/-- The window over which corrected errors of a frame count: 24 h. -/
def errWindow : Nat := 86400000000000

/-- A corrected error in a frame is counted; 16 within 24 h retire the frame. Whether the unit had to be read again is a free value. -/
def correctedIn (s : State) (tier f : Nat) : State :=
  let (k, s) := drawPick s
  let s := countError s tier 2 (k % 2)
  if s.tiers.retired.contains (tier, f) then s
  else
    let mine (x : FrameErr) : Bool := x.tier == tier && x.frame == f
    let old := ((s.tiers.errs.find? mine).map (·.times)).getD []
    let times := (old.filter fun t => s.now < t + errWindow) ++ [s.now]
    let s := { s with tiers := { s.tiers with errs := dropW mine s.tiers.errs ++ [{ tier := tier, frame := f, times := times }] } }
    if 16 ≤ times.length then leaveFrame s tier f else s

/-- CORRECTED_ERROR (R233): pools are not counted. -/
def execCorrectedError (place : Place) (s : State) : Res :=
  match place with
  | .hbm f => if f < frameCount 1 then .next (correctedIn s 1 f) else .next s
  | .lpx f => if f < frameCount 2 then .next (correctedIn s 2 f) else .next s
  | .pool _ => .next s

/-- The scrub period in ns: SCRUB_HOURS of 1 to 168, any other value read as 24 (R230). -/
def scrubPeriod (s : State) : Nat :=
  let h := fld s.tiers.memCtrl.toNat 32 47
  3600000000000 * (if 1 ≤ h && h ≤ 168 then h else 24)

/-- The pass that is in progress at this moment: a new one begins when SCRUB_HOURS are over (R234). -/
def scrubPass (s : State) : State :=
  if s.now < s.tiers.scrubFrom + scrubPeriod s then s
  else { s with tiers := { s.tiers with scrubSeen := [], scrubFrom := s.now } }

/-- SCRUB_READ (R234): while SCRUB_EN is 1, a mapped frame is read, once in a pass of SCRUB_HOURS; a corrected unit is written back and
counted, an uncorrectable one poisons. -/
def execScrubRead (place : Place) (found : ScrubResult) (s : State) : Res :=
  let run (tier f : Nat) : Res :=
    let s := scrubPass s
    if !bitAt s.tiers.memCtrl.toNat 24 || (pageAtFrame s tier f).isNone || s.tiers.scrubSeen.contains (tier, f) then .next s
    else
      let s := { s with tiers := { s.tiers with scrubSeen := s.tiers.scrubSeen ++ [(tier, f)] } }
      match found with
      | .clean => .next s
      | .corrected => .next (correctedIn s tier f)
      | .uncorrectable => .next (frameError s tier f .scrub)
  match place with
  | .hbm f => run 1 f
  | .lpx f => run 2 f
  | .pool _ => .next s

/-! ### Lending (R246, R248) -/

/-- Frames of a tier that no basin's quota holds. -/
def unheld (s : State) (tier : Nat) : Nat :=
  let q := (s.basins.map fun x => if tier = 1 then fld x.word.toNat 512 543 else fld x.word.toNat 544 575).sum
  tierCapacity s tier / 4096 - q

/-- Frames of a tier that this module has lent. -/
def lentOut (s : State) (tier : Nat) : Nat := ((s.tiers.lends.filter fun l => l.asLender && l.tier == tier).map (·.count)).sum

/-- `n` more frames of a tier may be lent (R246): they are free, and what is lent beyond the frames that no quota holds stays within the
quota that basins have marked lendable. -/
def mayLend (s : State) (tier n : Nat) : Bool :=
  let beyond (t m : Nat) : Nat := lentOut s t + m - unheld s t
  n ≤ framesFree s tier && beyond tier n + beyond (3 - tier) 0 ≤ (s.basins.map fun x => fld x.word.toNat 608 639).sum

/-- A run of free frames, from a place onward: the search goes on behind each frame that is held. -/
def freeRun (s : State) (tier n start : Nat) : Nat → Option Nat
  | 0 => none
  | fuel + 1 =>
    let f := start % frameCount tier
    if frameCount tier < f + n then freeRun s tier n 0 fuel
    else match (List.range n).find? fun i => frameUsed s tier (f + i) with
      | some i => freeRun s tier n (f + i + 1) fuel
      | none => some f

/-- A neighbour of the slice asks for frames (R246): a run of free frames is taken for it and cleared before it is lent. Which message
asks the spec does not say (DESIGN CHOICE, log entry 126). -/
def askLend (s : State) (x y z basin job tier count : Nat) : State :=
  let (k, s) := drawPick s
  let index := s.tiers.lends.foldl (fun m l => if l.asLender then max m (l.index + 1) else m) 0
  let wid := ((List.range 64).find? fun w => !(s.pools.windows.any fun v => v.basin == basin && v.job == job && v.wid == w)).getD 0
  if count = 0 || (tier != 1 && tier != 2) || !mayLend s tier count then s
  else match freeRun s tier count k (framesHeld s tier + 2) with
    | none => s
    | some f =>
      let l : Lend := { index := index, basin := basin, asLender := true, x := x, y := y, z := z, tier := tier, first := f, count := count,
                        wid := wid, job := job, live := false }
      let cl := (List.range count).map fun i => ({ tier := tier, frame := f + i, basin := 16 } : FrameClear)
      { s with tiers := { s.tiers with lends := s.tiers.lends ++ [l], clearing := s.tiers.clearing ++ cl } }

/-- Lent frames have come back, or their borrower has failed: the window closes, and they are cleared before they are free (R246, R249). -/
def takeBack (s : State) (l : Lend) : State :=
  let cl := (List.range l.count).map fun i => ({ tier := l.tier, frame := l.first + i, basin := 16 } : FrameClear)
  { s with
    tiers := { s.tiers with
      lends := updW (fun m => m == l) (fun m => { m with back := true, live := false }) s.tiers.lends
      clearing := s.tiers.clearing ++ cl.filter fun c => !s.tiers.clearing.contains c }
    pools := { s.pools with windows := dropW (fun w => w.lend == some l.index) s.pools.windows } }

/-- A record whose frames have all been cleared: lent now, with the lender's firmware opening the window for the borrowing job (R200, R247),
or, when they had come back, ended. -/
def lendCleared (s : State) : State :=
  let clear (l : Lend) : Bool := l.asLender && !l.live && !(s.tiers.clearing.any fun c => c.tier == l.tier && l.first ≤ c.frame &&
    c.frame < l.first + l.count)
  (s.tiers.lends.filter clear).foldl (fun s l =>
    if l.back then { s with tiers := { s.tiers with lends := dropW (fun m => m == l) s.tiers.lends } }
    else
      let w : Window := { basin := l.basin, job := l.job, sid := 0, wid := l.wid, rd := true, wr := true, any := false, life := 1,
                          px := l.x, py := l.y, pz := l.z, lbase := 0, len := 64 * l.count, tag := 0, lend := some l.index }
      let g : LmFrame := .lendGrant l.x l.y l.z l.index l.tier l.first l.count l.wid l.job
      let s := sendUnits s l.basin none [g]
      { s with
        tiers := { s.tiers with lends := updW (fun m => m == l) (fun m => { m with live := true }) s.tiers.lends }
        pools := { s.pools with windows := s.pools.windows ++ [w] } }) s

/-- A page may be homed in lent memory as its record arrives (R247): a WORK page that nothing holds and in which nothing has been written,
so that nothing is moved. -/
def mayHome (s : State) (b : Nat) (e : PageEnt) : Bool :=
  e.kind == .work && e.homeT != 3 && !e.poison && !pinned s b e.page && !moveOpen s b e.page && quotaOk s b 3 1 &&
    (homeBytes s e).all (· == 0)

/-- A page gets its home in lent memory; the frame that it leaves is cleared. -/
def homeLent (s : State) (b p : Nat) : State :=
  match pageOf s b p with
  | none => s
  | some e =>
    if !mayHome s b e then s
    else match takePlace s b p 3 with
      | (none, s) => s
      | (some i, s) => releaseFrame (setPage s b p fun e => { e with homeT := 3, homeLoc := i }) b 0 e.homeT e.homeLoc

/-- A grant arrives at the borrower (R246, R247): the record is held, and the pages that firmware homes there are given their home. R225 has no
move into lent memory and no rule says which pages have their home there: the model's are WORK pages not yet written (DESIGN CHOICE, log
entry 126). -/
def takeGrant (s : State) (l : Lend) (ps : List Nat) : State :=
  ps.foldl (fun s p => homeLent s l.basin p) { s with tiers := { s.tiers with lends := s.tiers.lends ++ [l] } }

/-- The tier to which a lent page comes home (R248): its row's, else HBM3E where it has room, else LPDDR5X (DESIGN CHOICE, log entry 126). -/
def homeTier (s : State) (e : PageEnt) : Nat :=
  match (if e.kind == .kv then rowAtPage (kvOf s e.basin) e.page else none) with
  | some r => r.moving.getD r.tier
  | none => if quotaOk s e.basin 1 1 && 0 < framesFree s 1 then 1 else 2

/-- MEM_LEND_RECLAIM (R248, R250): the lender names a record; its pages are to move to the borrower's own tiers within 5 s. A borrower
that lacks space frees HBM3E under R231 and the KV reclaim rules. -/
def execMemLendReclaim (record : Nat) (s : State) : Res :=
  match s.tiers.lends.find? fun l => !l.asLender && l.index == record with
  | none => .next s
  | some l =>
    if l.reclaimDue.isSome then .next s
    else
      let due := s.now + 5000000000
      let s := { s with tiers := { s.tiers with
        lends := updW (fun l => !l.asLender && l.index == record) (fun l => { l with reclaimDue := some due }) s.tiers.lends } }
      let s := raiseTrunk s evMemLendReclaim [record, l.x + 16 * l.y + 256 * l.z, l.count, due] [l.basin]
      let n := (lentHere s l).length
      let lacks (s : State) (t : Nat) : Bool := !quotaOk s l.basin t n || framesFree s t + tierComing s t < n
      let short (s : State) : Bool := lacks s 1 && lacks s 2
      let s := if short s then
          moveKv short (moveWork (fun b => b == l.basin) short s.tiers.pages.length (dropRebuildable s (fun b => b == l.basin) short))
        else s
      .next (returnLends ((lentHere s l).foldl (fun s e => askMove s e.basin e.page (homeTier s e) 1) s))

/-- Pages that are lost with their lender: KV pages end their owners with a status, others are unmapped. -/
def loseLent (s : State) (l : Lend) (status : Nat) : State :=
  (lentHere s l).foldl (fun s e =>
    if e.kind == .kv then
      let s := loseKvPage s e.basin e.page status
      if pageMapped s e.basin e.page && (rowAtPage (kvOf s e.basin) e.page).all (·.state == .clearing) then unmapPage s e.basin e.page else s
    else unmapPage s e.basin e.page) s

/-- LEND_RECLAIM_EXPIRY (R248): the job that owns pages still lent, the record's borrowing job, ends with ST_BORROW_RECLAIMED, and the
frames go back. -/
def execLendReclaimExpiry (record : Nat) (s : State) : Res :=
  match s.tiers.lends.find? fun l => !l.asLender && l.index == record with
  | none => .next s
  | some l =>
    if !(l.reclaimDue.any fun t => t ≤ s.now) then .next s
    else
      .next (returnLends (loseLent (endJob s l.basin l.job stBorrowReclaimed) l stBorrowReclaimed))

/-! ### Frames that have been cleared (R205, R208, R253, R280) -/

/-- Frames to be retired that nothing holds any more are retired (R233). -/
def retireFree (s : State) : State :=
  s.tiers.retiring.foldl (fun s x => if frameUsed s x.1 x.2 then s else retireFrame s x.1 x.2 (retireCause s x.1 x.2)) s

/-- TIER_PAGE_CLEAR_COMPLETE (R205, R208, R233): a cleared frame is free, unless it is to be retired. A page that fails its clearing is
poisoned, also one that has been unmapped before, and its frame is never used again (log entry 55). A page of a row in CLEARING is unmapped with it (R280). -/
def execTierPageClearComplete (place : Place) (ok : Bool) (s : State) : Res :=
  let run (tier f : Nat) : Res :=
    match s.tiers.clearing.find? fun c => c.tier == tier && c.frame == f with
    | none => .next s
    | some c =>
      let s := { s with
        tiers := { s.tiers with clearing := dropW (fun c => c.tier == tier && c.frame == f) s.tiers.clearing }
        mem := memClear s.mem (frameAt tier f) 4096 }
      let s := if ok then s else noteRetiring s tier f
      let s := match s.tiers.pages.find? fun e => e.kind == .kv && e.homeT == tier && e.homeLoc == f with
        | some e =>
          let s := if ok then s else raisePoisoned (poisonPage s e.basin e.page) e 1
          if (rowAtPage (kvOf s e.basin) e.page).any (·.state == .clearing) then kvPageCleared s e.basin e.page else s
        | none => match c.page with
          | some e => if ok then s else raisePoisoned s e 1
          | none => s
      .next (retireFree (lendCleared (dropDeleted s)))
  match place with
  | .hbm f => run 1 f
  | .lpx f => run 2 f
  | .pool _ => .next s

end Sys2Proof.Machine
end

