-- ==== Sys2Proof/Machine/Fords.lean ====
section
/-! DEFINITION. The fords and what crosses them: training, identity, heartbeats, flits; the torus topology; slices, their agreement, their
jobs and their faults (R347, R348, R418 to R446). -/

namespace Sys2Proof.Machine

/-! ### The agreement of a slice (R436) -/

/-- Answer the LINK.SLICE that waits for a slice. -/
def answerSlice (s : State) (id status : Nat) : State :=
  (List.range 16).foldl (fun s b => answerDeferred s b (fun d => d.opcode == 0x0B01 && d.obj == .slice id) status []) s

/-- Remove a slice that has not become READY, and answer its bind (R436 step 6, R441). -/
def dropSlice (s : State) (id : Nat) : State :=
  let s := idleFords s ((s.fords.slices.filter fun x => swId x.word == id).map (·.bound)).flatten
  answerSlice { s with fords := { s.fords with slices := dropW (fun x => swId x.word == id) s.fords.slices } } id stSliceMismatch

/-- GO: the slice is READY (R436 step 5), and GO goes on over its bound fords. -/
def goReady (s : State) (id minor : Nat) : State :=
  match sliceById s id with
  | none => s
  | some x =>
    if x.state != 1 then s
    else
      let s := sendLm s (x.bound.map fun n => LmFrame.go n id minor)
      let s := setSliceId s id fun x => { x with state := 2, minor := minor }
      answerSlice (raise s srcCore evSliceBound [id, slicePlace s x, minor] [swBasin x.word]) id stOk

/-- A module's READY reaches the origin; with every module's, GO follows (R436 step 4). -/
def noteReady (s : State) (id x y z minor : Nat) : State :=
  let s := setSliceId s id fun q => { q with
    ready := if q.ready.contains (x, y, z) then q.ready else q.ready ++ [(x, y, z)], readyMinor := min q.readyMinor minor }
  match sliceById s id with
  | none => s
  | some q =>
    if q.sentReady && sliceLen q 0 * sliceLen q 1 * sliceLen q 2 ≤ q.ready.length then goReady s id q.readyMinor else s

/-- Report a module READY toward slice coordinate (0, 0, 0), over the first bound ford of the next direction (R436 step 3). Until one is
bound the report waits. -/
def sendReady (s : State) (x : Slice) (place : Nat × Nat × Nat) (minor : Nat) : State :=
  match (nextDir s x (0, 0, 0)).bind fun d => (x.bound.filter fun n => fordDir n == d).head? with
  | some n => sendLm s [.ready n (swId x.word) place.1 place.2.1 place.2.2 minor]
  | none => setSliceId s (swId x.word) fun x => { x with readyWait := x.readyWait ++ [(place, minor)] }

/-- READY reports that waited for a bound ford go on. -/
def passReady (s : State) (id : Nat) : State :=
  match sliceById s id with
  | none => s
  | some x =>
    if x.readyWait.isEmpty then s
    else x.readyWait.foldl (fun s r => sendReady s x r.1 r.2) (setSliceId s id fun x => { x with readyWait := [] })

/-- Mark the fords whose far end declared the identical slice, and report READY once each used direction has one (R436 steps 2
and 3). -/
def settleSlice (s : State) (id : Nat) : State :=
  match sliceById s id with
  | none => s
  | some x =>
    if x.state != 1 then s
    else
      let bound := (offered s x).filter fun n => (fordOf s n).state == 9 && (fordOf s n).decl == some (id, swBlock x.word)
      let s := passReady (setSliceId s id fun x => { x with bound := bound }) id
      if x.sentReady || !((usedDirs s x).all fun d => bound.any fun n => fordDir n == d) then s
      else
        let minor := (bound.map fun n => (fordOf s n).verMin).foldl min s.sec.linkMin
        let s := setSliceId s id fun x => { x with sentReady := true }
        if slicePlace s x = 0 then noteReady s id 0 0 0 minor
        else sendReady s { x with bound := bound } (ownPlace s x) minor

/-! ### Slice faults (R249, R437, R439, R440) -/

/-- End the jobs of a part with a status (R437, R440): the step of a training object and its job, or the jobs of a group. -/
def endPart (s : State) (b : Nat) (p : Part) (status : Nat) : State :=
  if p.kind = 0 then
    match s.steps.find? fun t => t.basin == b && (match t.kind with
        | .train tid _ => tid == p.ident
        | .serve _ => false) with
    | some t => endJob s b t.job status
    | none => match trainOf s b p.ident with
      | some t => if t.state == .running then stopTrain s t status else s
      | none => s
  else (s.pools.jobs.filter fun j => j.basin == b && j.gid == p.ident && jobLive j).foldl (fun s j => endJob s b j.num status) s

/-- Lent memory that is lost (R249): pages homed on a lost lender are poisoned and their owners treated under R236, and frames lent to a
borrower that has failed are cleared by this module and then free again. A stopped slice carries nothing any more, so no module of it is
within reach: all of its lenders and borrowers count as lost (DESIGN CHOICE, log entry 60). The event names no reader: 0 (DESIGN CHOICE,
log entry 60). -/
def loseLends (s : State) (b : Nat) (lost : Lend → Bool) : State :=
  let ls := s.tiers.lends.filter fun l => l.basin == b && lost l
  let s := (ls.filter fun l => !l.asLender).foldl (fun s l => (lentHere s l).foldl (fun s e => poisonHome s e 0 false) s) s
  (ls.filter (·.asLender)).foldl takeBack s

/-- A slice fault (R439, R440 steps 1 to 3): the slice is FAULTED, STOP goes over its UP bound fords, and its jobs end. Causes: 0
FORD_DOWN, 1 IDENTITY, 2 MODULE_LOST, 3 LINK_ERROR, 4 VERSION, 5 PEER_STOP. -/
def sliceFault (s : State) (x : Slice) (cause ford serial sentCause : Nat) : State :=
  let b := swBasin x.word
  let id := swId x.word
  let s := raise s srcCore evSliceFault [id, cause, ford, serial] [b]
  let s := otherFaultRecord s 6 srcCore stSliceFault (some b) 0 ford 0 cause serial
  let s := sendLm s ((x.bound.filter fun n => (fordOf s n).state == 9).map fun n => LmFrame.stop n id serial sentCause)
  let s := setSliceId (idleFords s x.bound) id fun x => { x with state := 3, parts := [] }
  loseLends (x.parts.foldl (fun s p => endPart s b p stSliceFault) s) b fun _ => true

/-- A fault at a ford during the agreement (R441): the ford is not bound, and where its direction is used and has no other bound ford the
bind ends. -/
def unbindFord (s : State) (n : Nat) : State :=
  (s.fords.slices.filter fun x => x.state == 1 && x.bound.contains n).foldl (fun s x =>
    let left := dropW (· == n) x.bound
    if left.any fun m => fordDir m == fordDir n then setSliceId s (swId x.word) fun x => { x with bound := left }
    else dropSlice s (swId x.word)) (setFord s n fun f => { f with decl := none })

/-- A fault at a ford: the READY slice that has bound it stops, and one in its agreement does without it; no other job is affected
(R439, R441). -/
def faultAtFord (s : State) (n cause : Nat) : State :=
  match sliceAtFord s n with
  | some x => sliceFault s x cause n moduleSerial cause
  | none => unbindFord s n

/-- A ford's link is gone: its state, what its training held, and the flits and link management frames that waited for it. -/
def quietFord (s : State) (n st : Nat) : State :=
  let s := setFord s n fun f => { f with
    state := st, trained := false, decl := none, failRun := 0, lastFrame := none, awaited := none
    retryAt := if f.enable && st != 0 then some (s.now + 1000000000) else none }
  { s with fords := { s.fords with
    wire := dropW (fun w => w.ford == n) s.fords.wire, lmWait := dropW (fun x => lmFord x == some n) s.fords.lmWait } }

/-- A ford leaves UP, or fails to train: DOWN, FAULT or OFF (R431, R432). -/
def fordDown (s : State) (n st cause : Nat) : State :=
  let f := fordOf s n
  let s := quietFord s n st
  let s := if f.state == st then s else raise s (srcFord n) evFordDown [n, st, f.lane0, f.lane1] (fordOwner s n)
  if f.state = 9 then faultAtFord s n cause else s

/-! ### Training (R427 to R431) -/

/-- The conditions of R428 that are shorts. -/
def laneShort (c : Nat) : Bool := c == 2 || c == 3

/-- The lanes have nothing to train against: both OPEN or NO_SIGNAL. -/
def lanesBare (f : Ford) : Bool := (f.lane0 == 1 || f.lane0 == 4) && (f.lane1 == 1 || f.lane1 == 4)

/-- A ford is declared uncabled (R425, R431). -/
def uncabled (s : State) (n : Nat) : Bool := topoValid s && topoNb s (fordDir n) == 0

/-- The identity frame of a ford (R427 step 3): the serial, the ford number, the version, the declared lengths, place and VALID, and the
ford's state. -/
def ownFrame (s : State) (n : Nat) : IdFrame :=
  { serial := moduleSerial, ford := n, verMaj := s.sec.linkMaj, verMin := s.sec.linkMin
    dxM1 := topoFld s 0 3, dyM1 := topoFld s 4 7, dzM1 := topoFld s 8 11, cx := topoCoord s 0, cy := topoCoord s 1, cz := topoCoord s 2
    valid := topoValid s, state := (fordOf s n).state }

/-- Every trained ford sends its identity frame each millisecond (R427 step 3). -/
def sendIdentities (was : Nat) (s : State) : State :=
  if was / 1000000 = s.now / 1000000 then s
  else sendLm s (((List.range 48).filter fun n => (fordOf s n).trained).map fun n => .identity (ownFrame s n))

/-- Steps 1 to 3 of R427: the lane tests and the alignment give FAULT, UNUSED, DOWN, or identity frames on both lanes. -/
def trainFord (s : State) (n lane0 lane1 : Nat) (aligned laneRev pol0 pol1 : Bool) : State :=
  let s := setFord s n fun f => { f with
    lane0 := lane0, lane1 := lane1, laneRev := laneRev, pol0 := pol0, pol1 := pol1, retryAt := none, serial := 0, partner := 0
    verMaj := 0, verMin := 0, miswire := 0 }
  let s := count s 4 n 0 5 1
  if laneShort lane0 || laneShort lane1 then fordDown s n 2 0
  else if uncabled s n && lanesBare (fordOf s n) then setFord s n fun f => { f with state := 4, trained := false }
  else if lane0 = 0 && lane1 = 0 && aligned then
    sendLm (setFord s n fun f => { f with state := 3, trained := true }) [.identity (ownFrame s n)]
  else fordDown s n 1 0

/-- FORD_TRAIN (R427): a ford whose domain has woken, or that RETRAIN has started, tests and aligns its lanes. -/
def execFordTrain (ford lane0 lane1 : Nat) (aligned laneRev pol0 pol1 : Bool) (s : State) : Res :=
  let f := fordOf s ford
  if fordLive s ford && f.state == 3 && !f.trained then .next (trainFord s ford lane0 lane1 aligned laneRev pol0 pol1) else .next s

/-- FORD_TRAIN_RETRY (R427): 1 s after a failed attempt, while the ford is DOWN or FAULT. -/
def execFordTrainRetry (ford lane0 lane1 : Nat) (aligned laneRev pol0 pol1 : Bool) (s : State) : Res :=
  let f := fordOf s ford
  if fordLive s ford && (f.state == 1 || f.state == 2) && f.retryAt.any (· ≤ s.now) then
    .next (trainFord s ford lane0 lane1 aligned laneRev pol0 pol1)
  else .next s

/-- The partner's place is this module's stepped by one along the ford's direction (R429 reason 3). -/
def placeOk (s : State) (n : Nat) (fr : IdFrame) : Bool :=
  let d := fordDir n
  let at_ (a c : Nat) : Bool :=
    let m := topoLen s a
    c == (if a != d / 2 then topoCoord s a else if d % 2 = 0 then (topoCoord s a + 1) % m else (topoCoord s a + m - 1) % m)
  fr.dxM1 + 1 == topoLen s 0 && fr.dyM1 + 1 == topoLen s 1 && fr.dzM1 + 1 == topoLen s 2 && at_ 0 fr.cx && at_ 1 fr.cy && at_ 2 fr.cz

/-- Why a ford is MISWIRED (R429): the first reason that applies, 0 for none. A direction declared uncabled has no declared serial. -/
def miswired (s : State) (n : Nat) (fr : IdFrame) : Nat :=
  let nb := topoNb s (fordDir n)
  if nb != 0 && fr.serial != nb then 1
  else if fr.ford != partnerFord n then 2
  else if !placeOk s n fr then 3
  else if nb = 0 then 4
  else if fr.serial = moduleSerial then 5
  else 0

/-- A ford enters UP (R427 steps 8 and 9): its receive credits go to the partner, heartbeats start, and declared slices are offered over
it. -/
def fordUp (s : State) (n : Nat) (fr : IdFrame) : State :=
  let minor := min s.sec.linkMin fr.verMin
  let s := setFord s n fun f => { f with
    state := 9, verMin := minor, lastFlit := s.now, peerCtrAt := s.now, peerLost := false, failRun := 0, credits := [0, 0, 0]
    txCount := 0, rxCount := 0, awaited := none }
  let s := raise s (srcFord n) evFordUp [n, fr.serial, minor] (fordOwner s n)
  let s := sendLm s ((List.range 3).map fun c => .credit n c (Config.fordCredits c))
  sendLm s ((s.fords.slices.filter fun x => x.state == 1 && (offered s x).contains n).map fun x => LmFrame.declare n (swId x.word) (swBlock x.word))

/-- A ford that was UP enters another state for a reason of its identity. -/
def leaveUp (s : State) (n cause : Nat) : State :=
  if (fordOf s n).state = 9 then faultAtFord (setFord s n fun f => { f with state := 3, decl := none }) n cause else s

/-- Steps 4 to 9 of R427 with an identity frame of the partner. -/
def identify (s : State) (n : Nat) (fr : IdFrame) : State :=
  let f := fordOf s n
  let s := setFord s n fun f => { f with
    lastFrame := some fr, serial := fr.serial, partner := fr.ford, verMaj := fr.verMaj, miswire := 0 }
  if fr.verMaj != s.sec.linkMaj then
    let s := setFord (leaveUp s n 4) n fun f => { f with state := 5 }
    if f.state = 5 then s else raise s (srcFord n) evFordVersionHold [n, s.sec.linkMaj, fr.verMaj] (fordOwner s n)
  else if !topoValid s then setFord (leaveUp s n 1) n fun f => { f with state := 6 }
  else
    let why := miswired s n fr
    if why != 0 then
      let s := setFord (leaveUp s n 1) n fun f => { f with state := 7, miswire := why }
      if f.state = 7 && f.miswire = why then s
      else raise s (srcFord n) evFordMiswired [n, why, topoNb s (fordDir n), fr.serial, fr.ford] (fordOwner s n)
    else if !fr.matched then setFord (leaveUp s n 1) n fun f => { f with state := 8 }
    else if f.state = 9 then s
    else fordUp s n fr

/-- A flit has come over a ford (R432). -/
def heardFord (s : State) (n : Nat) : State := setFord s n fun f => { f with lastFlit := s.now }

/-- IDENTITY_FRAME (R427, R429, R430). -/
def execIdentityFrame (ford : Nat) (fr : IdFrame) (s : State) : Res :=
  if fordLive s ford && (fordOf s ford).trained then .next (identify (heardFord (count s 4 ford 0 1 1) ford) ford fr) else .next s

/-! ### Heartbeats (R432) -/

/-- HEARTBEAT_SEND (R432). -/
def execHeartbeatSend (ford : Nat) (s : State) : Res :=
  let f := fordOf s ford
  if ford < 48 && f.state == 9 then
    let s := setFord s ford fun f => { f with ctr := f.ctr + 1 }
    .next (sendLm s [.heartbeat ford moduleSerial (f.ctr + 1)])
  else .next s

/-- FORD_LOST_TIMEOUT (R432): no flit for 1 ms. -/
def execFordLostTimeout (ford : Nat) (s : State) : Res :=
  let f := fordOf s ford
  if ford < 48 && f.state == 9 && f.lastFlit + 1000000 ≤ s.now then .next (fordDown s ford 1 0) else .next s

/-- MODULE_LOST_TIMEOUT (R432): the partner's counter has not advanced for 1 ms, while flits still arrive. The ford stays UP. -/
def execModuleLostTimeout (ford : Nat) (s : State) : Res :=
  let f := fordOf s ford
  if ford < 48 && f.state == 9 && !f.peerLost && f.peerCtrAt + 1000000 ≤ s.now && s.now < f.lastFlit + 1000000 then
    .next (faultAtFord (setFord s ford fun f => { f with peerLost := true }) ford 2)
  else .next s

/-! ### The update tree across modules (R347, R348) -/

/-- The place of a module that differs from this one on one axis. -/
def placeOn (s : State) (x : Slice) (a c : Nat) : Nat × Nat × Nat :=
  let k (i : Nat) : Nat := if i = a then c else sliceCoord s x i
  (k 0, k 1, k 2)

/-- The segments of an entry's sums, of at most 262,144 values (R348). -/
def gradSegs (s : State) (t : Train) (x : Slice) (u axis leaf : Nat) (to_ : Nat × Nat × Nat) : List LmFrame :=
  let n := updCells s t u
  let vs := f32At s t.basin (updAt s t u).gacc n
  (List.range (cdiv n 262144)).map fun k =>
    .grad to_.1 to_.2.1 to_.2.2 (tnTid t) u axis leaf (262144 * k) (1 ≤ x.minor)
      (segmentBytes (1 ≤ x.minor) ((vs.drop (262144 * k)).take 262144))

/-- The coordinates of the reduced group, this module apart. -/
def groupPlaces (s : State) (x : Slice) (axes : List (Nat × Nat × Nat)) : List (Nat × Nat × Nat) :=
  let opts (a : Nat) : List Nat := match axes.find? fun y => y.1 == a with
    | some y => List.range y.2.2
    | none => [sliceCoord s x a]
  ((((opts 0).map fun p => (opts 1).map fun q => (opts 2).map fun r => (p, q, r)).flatten).flatten).filter fun p =>
    p != (sliceCoord s x 0, sliceCoord s x 1, sliceCoord s x 2)

/-- The step of an object's update, 0 when there is none. -/
def updateSid (s : State) (t : Train) : Nat :=
  (s.steps.find? fun x => x.basin == t.basin && (match x.kind with
    | .train tid 3 => tid == tnTid t
    | _ => false)).elim 0 (·.sid)

/-- An entry has taken in what lies below this module: its sum goes up the tree, or, from the root, to every module (R347). -/
def sendGrads (s : State) (t : Train) (u : Nat) : State :=
  match sliceOf s t.basin with
  | none => s
  | some x =>
    let axes := trainAxes s t
    if !((treeNeeds axes).all fun l => updCells s t u ≤ gradGot t u l) then s
    else match axes.find? fun a => a.2.1 != 0 with
      | some (a, c, n) => sendUnits s t.basin (unitJob s (updateSid s t)) (gradSegs s t x u a c (placeOn s x a (parentLeaf 16 0 n c)))
      | none => sendUnits s t.basin (unitJob s (updateSid s t)) ((groupPlaces s x axes).map (gradSegs s t x u 3 0)).flatten

/-- An update step that has just been bound sends what needs nothing from below. -/
def startReduce (was : Option Step) (s : State) (sid : Nat) : State :=
  match stepOf s sid with
  | none => s
  | some t =>
    if !t.bound || t.stopped || was.any (·.bound) then s
    else match t.kind with
      | .train tid 3 => match trainOf s t.basin tid with
        | some x => if treeNeeds (trainAxes s x) = [] then (List.range (tnNupd x)).foldl (fun s u => sendGrads s x u) s else s
        | none => s
      | _ => s

/-- STEP_BIND (R347, R555): the bind, and the start of an update's reduction. -/
def execStepBind (sid : Nat) (s : State) : Res := 
  let s := fillStep sid s
  .next (startReduce (stepOf s sid) (bindStep sid s) sid)

/-- The running update step of an object. -/
def updateStep (s : State) (b tid : Nat) : Bool :=
  s.steps.any fun t => t.basin == b && t.bound && !t.stopped && (match t.kind with
    | .train x 3 => x == tid
    | _ => false)

/-- A segment takes effect: it is added to GACC, left operand here, or, from the root, replaces it. With an entry's last one its sum
goes on (R347). -/
def addGrads (s : State) (b tid u axis leaf first : Nat) (vals : List (BitVec 32)) : State :=
  match trainOf s b tid with
  | none => s
  | some t =>
    let n := updCells s t u
    let a := (updAt s t u).gacc + 4 * first
    let own := f32At s b a vals.length
    let new := if axis = 3 then vals else (own.zip vals).map fun p => f32Add p.1 p.2
    let s := tierPuts s b a ((new.map fun v => le 4 v.toNat).flatten)
    let mine (r : Nat × Nat × Nat × Nat) : Bool := r.1 == u && r.2.1 == axis && r.2.2.1 == leaf
    let s := setTrain s b tid fun t => { t with reduced := dropW mine t.reduced ++ [(u, axis, leaf, first + vals.length)] }
    match trainOf s b tid with
    | some t => if axis != 3 && first + vals.length = n then sendGrads s t u else s
    | none => s

/-- It is the turn of a segment: of the next leaf in the tree's order, and the next elements of it. -/
def gradTurn (s : State) (t : Train) (u axis leaf first : Nat) : Bool :=
  ((gradNeeds s t).find? fun y => gradGot t u y < updCells s t u) == some (axis, leaf) && gradGot t u (axis, leaf) == first

/-- The segments that have come take effect in the tree's order, whatever the order of their arrival (R25, R347). -/
def settleGrads (b tid : Nat) : Nat → State → State
  | 0, s => s
  | fuel + 1, s =>
    match trainOf s b tid with
    | none => s
    | some t => match t.early.find? fun e => gradTurn s t e.1 e.2.1 e.2.2.1 e.2.2.2.1 with
      | none => s
      | some e =>
        let s := setTrain s b tid fun t => { t with early := dropFirst (· == e) t.early }
        settleGrads b tid fuel (addGrads s b tid e.1 e.2.1 e.2.2.1 e.2.2.2.1 e.2.2.2.2)

/-- A segment of sums arrives (R347, R348). One that is malformed, or that nothing waits for, is a link error. -/
def takeGrads (s : State) (ford : Nat) (x : Slice) (tid u first axis leaf : Nat) (data : List Byte) : State :=
  let b := swBasin x.word
  match trainOf s b tid, segmentValues (1 ≤ x.minor) data with
  | some t, some vals =>
    if !updateStep s b tid || tnNupd t ≤ u || !(gradNeeds s t).contains (axis, leaf) || updCells s t u < first + vals.length then
      faultAtFord s ford 3
    else if first < gradGot t u (axis, leaf) then s
    else
      let s := setTrain s b tid fun t => { t with early := t.early ++ [(u, axis, leaf, first, vals)] }
      settleGrads b tid (t.early.length + 1) s
  | _, _ => faultAtFord s ford 3

/-! ### Flits (R420, R421, R432, R437, R438) -/

/-- The turn of a unit of SR or WX (R437): taken now, held for the part's next step, or for no step that this module has bound. -/
inductive UnitTurn where
  | now
  | later
  | bad
  deriving DecidableEq, Repr

/-- The part that a unit names, with its step number. -/
def partNamed (x : Slice) (job : Option (Nat × Nat × Nat)) : Option Part :=
  job.bind fun j => x.parts.find? fun p => p.kind == j.1 && p.ident == j.2.1

/-- A receiver takes units for its current step and holds those for its next; any other is a link error (R437). -/
def unitTurn (x : Slice) (job : Option (Nat × Nat × Nat)) : UnitTurn :=
  match partNamed x job with
  | none => .bad
  | some p =>
    let no := job.elim 0 (·.2.2)
    if no = 0 then .bad else if no = p.stepNo then .now else if no = p.stepNo + 1 then .later else .bad

/-- A unit that belongs to no step: one of lent memory, or of a transfer outside a step (R246 to R248). -/
def stepless (job : Option (Nat × Nat × Nat)) : FlitUnit → Bool
  | .lendAsk .. => true
  | .lendGrant .. => true
  | .lendReturn .. => true
  | .lentData .. => true
  | .lentRefused .. => true
  | .transfer .. => job.isNone
  | .other => true
  | _ => false

/-- The turn of a unit in the slice that brings it. -/
def turnOf (x : Slice) (job : Option (Nat × Nat × Nat)) (u : FlitUnit) : UnitTurn := if stepless job u then .now else unitTurn x job

/-- The bound step of the slice's basin that a unit names. One that has ended or stopped takes no notice. -/
def unitStep (s : State) (x : Slice) (job : Option (Nat × Nat × Nat)) : Option Step :=
  job.bind fun j => s.steps.find? fun t =>
    t.basin == swBasin x.word && t.bound && !t.stopped && partIdent t == (j.1, j.2.1) && t.sliceNo == j.2.2

/-- Give a unit to its step. -/
def giveUnit (s : State) (x : Slice) (job : Option (Nat × Nat × Nat)) (f : Step → State) : State :=
  match unitStep s x job with
  | none => s
  | some t => f t

/-! ### The join of a part (R437, log entry 145) -/

/-- The first bound ford toward the slice's origin. -/
def fordToOrigin (s : State) (x : Slice) : Option Nat :=
  (nextDir s x (0, 0, 0)).bind fun d => (x.bound.filter fun n => fordDir n == d).head?

/-- Every module has bound the part: its first step may run, and the news goes on. -/
def joinPart (s : State) (x : Slice) (from_ : Option Nat) (kind ident : Nat) : State :=
  let s := setSliceId s (swId x.word) fun x => { x with
    parts := updW (fun p => p.kind == kind && p.ident == ident) (fun p => { p with joined := true }) x.parts
    joins := dropW (fun j => j.1 == kind && j.2.1 == ident) x.joins }
  sendLm s ((x.bound.filter fun n => some n != from_).map fun n => .partsJoined n (swId x.word) kind ident)

/-- The origin gathers the modules that have bound a part; with all of them the part has joined. -/
def noteBound (s : State) (x : Slice) (place : Nat × Nat × Nat) (kind ident : Nat) : State :=
  let e := (kind, ident, place)
  let l := if x.joins.contains e then x.joins else x.joins ++ [e]
  let s := setSliceId s (swId x.word) fun x => { x with joins := l }
  if sliceLen x 0 * sliceLen x 1 * sliceLen x 2 ≤ (l.filter fun j => j.1 == kind && j.2.1 == ident).length then
    joinPart s x none kind ident
  else s

/-- The news that a module has bound a part: gathered at the origin, passed on toward it elsewhere. -/
def reportPart (s : State) (x : Slice) (place : Nat × Nat × Nat) (kind ident : Nat) : State :=
  match fordToOrigin s x with
  | none => noteBound s x place kind ident
  | some n => sendLm s [.partBound n (swId x.word) place.1 place.2.1 place.2.2 kind ident]

/-- A part that this module has bound is announced. -/
def announceParts (s : State) : State :=
  (s.fords.slices.filter fun x => x.state == 2).foldl (fun s x =>
    (x.parts.filter fun p => !p.told && !p.joined).foldl (fun s p =>
      let s := setSliceId s (swId x.word) fun x => { x with
        parts := updW (fun q => q.kind == p.kind && q.ident == p.ident) (fun q => { q with told := true }) x.parts }
      match sliceById s (swId x.word) with
      | some x => reportPart s x (ownPlace s x) p.kind p.ident
      | none => s) s) s

/-- Every module has bound a part: the news from the origin goes on once. -/
def takeJoined (s : State) (ford : Nat) (x : Slice) (kind ident : Nat) : State :=
  if x.parts.any fun p => p.kind == kind && p.ident == ident && !p.joined then joinPart s x (some ford) kind ident else s

/-! ### Units that arrive (R202, R246 to R248, R420, R421, R432) -/

/-- A module of the slice asks to borrow frames (R246): only its own slice's modules, and from minor version 2 on (R430). -/
def takeLendAsk (s : State) (x : Slice) (px py pz job tier count : Nat) : State :=
  if x.minor < 2 || !(px < sliceLen x 0 && py < sliceLen x 1 && pz < sliceLen x 2) then s
  else askLend s px py pz (swBasin x.word) job tier count

/-- Lent frames come back from their borrower (R248). -/
def takeLendReturn (s : State) (x : Slice) (px py pz index : Nat) : State :=
  match s.tiers.lends.find? fun l => l.asLender && l.index == index && l.basin == swBasin x.word && l.x == px && l.y == py && l.z == pz with
  | some l => takeBack s l
  | none => s

/-- What a unit does in the slice that its ford carries. -/
def withSlice (s : State) (ford : Nat) (g : Slice → State → State) : State :=
  match sliceAtFord s ford with
  | none => s
  | some x => g x s

/-- The partner asks for flits to be sent again (R420): all that left over the ford, of every channel, from the failed one on, leave once
more in their order. -/
def resendFlits (s : State) (ford from_ : Nat) : State :=
  let again := (s.fords.wire.filter fun w => w.ford == ford && from_ ≤ w.number).eraseDups
  let s := setFord s ford fun f => { f with retries := sat 32 (f.retries + again.length) }
  { s with fords := { s.fords with wire := s.fords.wire ++ again } }

/-- What a flit of LM carries takes effect (R420, R421, R432, R437). -/
def takeLm (s : State) (ford : Nat) (u : FlitUnit) : State :=
  let f := fordOf s ford
  match u with
  | .heartbeat serial n ctr =>
    if serial != f.serial || n != f.partner then fordDown s ford 1 1
    else if ctr = f.peerCtr then s
    else setFord s ford fun f => { f with peerCtr := ctr, peerCtrAt := s.now, peerLost := false }
  | .resendAsk n => resendFlits s ford n
  | .credits c n => addCredits s ford c n
  | .partBound x y z kind ident => withSlice s ford fun q s => reportPart s q (x, y, z) kind ident
  | .partsJoined kind ident => withSlice s ford fun q s => takeJoined s ford q kind ident
  | _ => s

/-- A unit of SR or WX takes effect, for the step that its header names (R437, R438). -/
def takeFlitUnit (s : State) (ford : Nat) (x : Slice) (job : Option (Nat × Nat × Nat)) (u : FlitUnit) : State :=
  match u with
  | .treeSum epi tok row axis leaf code p => giveUnit s x job fun t => putSum s t epi tok row axis leaf code p
  | .attPartial d r h row leaf m l o => giveUnit s x job fun t => putAttPart s t d r h row leaf { m := m, l := l, o := o }
  | .result d area off data => giveUnit s x job fun t =>
      if kindOf (descOf t d) = 0x20 then putResult s t d area off data else putAttRow s t d off data
  | .gradient tid e first axis leaf data => takeGrads s ford x tid e first axis leaf data
  | .windowData d idx data => giveUnit s x job fun t => putWindowData s t d idx data
  | .windowRefused d => giveUnit s x job fun t => windowRefusal s t d
  | .lendAsk px py pz n tier count => takeLendAsk s x px py pz n tier count
  | .lendGrant index px py pz tier first count wid n pages =>
      takeGrant s { index := index, basin := swBasin x.word, asLender := false, x := px, y := py, z := pz, tier := tier, first := first,
                    count := count, wid := wid, job := n } pages
  | .lendReturn px py pz index => takeLendReturn s x px py pz index
  | .lentData index off data => settleReads (serveTransfers (lentAnswer s (swBasin x.word) index off (some data))) (swBasin x.word)
  | .lentRefused index off => settleReads (serveTransfers (lentAnswer s (swBasin x.word) index off none)) (swBasin x.word)
  | _ => s

/-! ### Streams that arrive (R422, R437, R438) -/

/-- A unit is taken in and its credits are given; those of a window transfer are withheld until it is through (R204). -/
def takeWith (s : State) (chan : Nat) (cr : List (Nat × Nat)) (ford : Nat) (x : Slice) (src : Nat × Nat × Nat)
    (job : Option (Nat × Nat × Nat)) (u : FlitUnit) : State :=
  match u with
  | .transfer n wid isRead roff len data =>
    takeTransfer ford src.1 src.2.1 src.2.2 (swBasin x.word) n wid isRead roff len data job cr s
  | u => takeFlitUnit (giveCredits s chan cr) ford x job u

/-- A unit for this module in its turn (R437): taken; held for the part's next step, its credits with it;
or a link error. -/
def receiveUnit (s : State) (x : Slice) (t : Stream) (h : HeldUnit) : State :=
  let cr := flitFords x (fordDir h.ford) h.seq h.flits
  match turnOf x h.job h.unit with
  | .now => takeWith s t.chan cr h.ford x t.src h.job h.unit
  | .bad => faultAtFord (giveCredits s t.chan cr) h.ford 3
  | .later =>
    let j := h.job.getD (0, 0, 0)
    { s with fords := { s.fords with
        owed := s.fords.owed ++ [{ slice := swId x.word, kind := j.1, ident := j.2.1, stepNo := j.2.2, chan := t.chan, credits := cr
                                   ford := h.ford, src := t.src, unit := h.unit }] } }

/-- The part that a held unit waits for. -/
def owedPart (s : State) (o : Owed) : Option (Slice × Part) :=
  (s.fords.slices.find? fun x => swId x.word == o.slice && x.state == 2).bind fun x =>
    (x.parts.find? fun p => p.kind == o.kind && p.ident == o.ident).map fun p => (x, p)

/-- A held unit whose step has come is taken in, and its credits are given; one whose part is gone is dropped (R437). -/
def payOne (s : State) (o : Owed) : State :=
  let s' := { s with fords := { s.fords with owed := dropFirst (· == o) s.fords.owed } }
  match owedPart s o with
  | none => giveCredits s' o.chan o.credits
  | some (x, p) =>
    if p.stepNo < o.stepNo then s else takeWith s' o.chan o.credits o.ford x o.src (some (o.kind, o.ident, o.stepNo)) o.unit

/-- Held units in the order in which they came. -/
def payOwed (s : State) : State := s.fords.owed.foldl payOne s

/-- A unit whose turn in its stream has come: taken in here, or passed on (R422, R423). -/
def deliverUnit (s : State) (x : Slice) (t : Stream) (h : HeldUnit) : State :=
  if t.dst = ownPlace s x then
    receiveUnit s x t h
  else forwardUnit s x (fordDir h.ford) t.chan h.seq h.flits t.src t.dst h.job h.unit

/-- The units of a stream whose turn has come, in stream order (R25, R422). -/
def settleStream (x : Slice) (chan : Nat) (src dst : Nat × Nat × Nat) : Nat → State → State
  | 0, s => s
  | fuel + 1, s =>
    let t := streamOf s (swId x.word) chan src dst
    match t.held.find? fun h => h.seq == t.rxNext with
    | none => s
    | some h =>
      let s := setStream s { t with rxNext := t.rxNext + h.flits, held := dropFirst (· == h) t.held }
      settleStream x chan src dst fuel (deliverUnit s x t h)

/-- A unit of SR or WX is complete (R422): it joins its stream. The first hub stamps it with its originator's coordinates (R438); one that
has been taken in already is not taken twice (R420). -/
def arriveUnit (s : State) (ford : Nat) (x : Slice) (head : FlitHead) (u : FlitUnit) : State :=
  let src := head.src.getD (neighbourPlace s x (fordDir ford))
  let t := streamOf s (swId x.word) head.chan src head.dst
  if head.seq < t.rxNext || t.held.any fun h => h.seq == head.seq then s
  else
    let t := { t with held := t.held ++ [{ seq := head.seq, flits := head.flits, ford := ford, job := head.job, unit := u }] }
    settleStream x head.chan src head.dst t.held.length (setStream s t)

/-- The credit of a flit of LM goes back, but for one that needed none (R421). -/
def lmCredit (s : State) (ford : Nat) (u : FlitUnit) : State :=
  match u with
  | .credits .. => s
  | _ => giveCredits s 0 [(ford, 1)]

/-- A good flit: LM acts at once; what SR and WX carry between the modules of a slice goes by its stream. -/
def takeArrival (s : State) (ford : Nat) (head : FlitHead) (u : FlitUnit) : State :=
  if head.chan = 0 then takeLm (lmCredit s ford u) ford u else withSlice s ford fun x s => arriveUnit s ford x head u

/-- A flit whose CRC fails (R420): it is discarded and awaited again, every later one is discarded, and the partner is asked for it by its
number on the ford. At the eighth failure in a row it is a link error. -/
def flitFailed (s : State) (ford : Nat) (head : FlitHead) (u : FlitUnit) : State :=
  let f := fordOf s ford
  let s := setFord s ford fun f => { f with
    crcErr := sat 32 (f.crcErr + 1), failRun := (f.failRun + 1) % 8, awaited := some (f.awaited.getD (head, u)) }
  let s := sendLm s [.resend ford f.rxCount]
  if f.failRun + 1 = 8 then faultAtFord s ford 3 else s

/-- FLIT_RECEIVE (R420 to R423, R432, R438, R445): a flit whose CRC fails is discarded and asked for again; until it has come, every other
flit is discarded too; a good one is taken in. -/
def execFlitReceive (ford : Nat) (crcOk : Bool) (fecCorr fecUncorr : Nat) (head : FlitHead) (u : FlitUnit) (s : State) : Res :=
  let f := fordOf s ford
  if !(ford < 48) || f.state != 9 then .next s
  else
    let s := setFord (heardFord s ford) ford fun f => { f with
      fecCorr := sat 32 (f.fecCorr + fecCorr), fecUncorr := sat 32 (f.fecUncorr + fecUncorr) }
    let due := f.awaited.all fun a => a == (head, u)
    if !due then .next s
    else if crcOk then
      .next (takeArrival (count (setFord s ford fun f => { f with failRun := 0, awaited := none, rxCount := f.rxCount + 1 }) 4 ford 0 1 1)
        ford head u)
    else .next (flitFailed s ford head u)

/-! ### The topology (R425, R426) -/

/-- The record obeys R426. -/
def topologyOk (w : BitVec 512) : Bool :=
  let n := w.toNat
  let nb (d : Nat) : Nat := fld n (64 + 64 * d) (127 + 64 * d)
  let axis (a : Nat) : Bool :=
    let m := fld n (4 * a) (4 * a + 3) + 1
    let p := nb (2 * a)
    let q := nb (2 * a + 1)
    fld n (16 + 4 * a) (19 + 4 * a) < m && (m != 1 || (p == 0 && q == 0)) && (m != 2 || p == 0 || q == 0 || p == q)
  fld n 12 15 == 0 && fld n 28 30 == 0 && fld n 448 511 == 0 && (List.range 3).all axis && (List.range 6).all fun d => nb d != moduleSerial

/-- A ford checks its partner's identity anew, without retraining (R426): it is UP again when the partner has reported its own match. -/
def recheckFord (s : State) (n : Nat) : State :=
  let f := fordOf s n
  if f.state = 1 || f.state = 4 then
    if f.state = 1 && uncabled s n && lanesBare f then setFord s n fun f => { f with state := 4, retryAt := none }
    else if f.state = 4 && !uncabled s n then fordDown s n 1 0
    else s
  else if !f.trained then s
  else match f.lastFrame with
    | some fr => identify (setFord s n fun f => { f with state := if f.state = 9 then 3 else f.state }) n { fr with state := 3 }
    | none => s

/-- LINK_TOPOLOGY (R425, R426). -/
def execLinkTopology (h : Hdr) (rec : BitVec 512) (s : State) : Res :=
  hostStoreCmd s h 0x0B00 true none (.linkTopology h rec) fun s =>
    if !topologyOk rec then reply s h 0x0B00 stDescInvalid []
    else if !s.fords.slices.isEmpty then reply s h 0x0B00 stSliceBusy []
    else
      let s := storeWriteNow s { type := 0x30, index := 0, len := 64, seq := 0, payload := [rec.toNat] }
      let s := { s with fords := { s.fords with topo := rec } }
      reply ((List.range 48).foldl recheckFord s) h 0x0B00 stOk []

/-! ### LINK.SLICE and LINK.STATUS (R434 to R436, R442) -/

/-- The checks of a bind in order (R435). -/
def sliceCheck (s : State) (w : BitVec 256) : Nat :=
  let x : Slice := { word := w }
  let axis (a : Nat) : Bool :=
    let o := swFld w (72 + 4 * a) (75 + 4 * a)
    o < topoLen s a && sliceLen x a ≤ topoLen s a && sliceCoord s x a < sliceLen x a
  let fs := swFld w 96 143
  if swFld w 69 71 != 0 || swFld w 144 255 != 0 || swId w = 0 || !topoValid s || !((List.range 3).all axis) then stSliceInvalid
  else if !basinLive s (swBasin w) || (List.range 48).any (fun n => bitAt fs n && !bitAt (basinFld s (swBasin w) 144 191) n) ||
      s.fords.slices.any (fun q => swBasin q.word == swBasin w || swId q.word == swId w) then stSliceBusy
  else if (usedDirs s x).any fun d => !((offered s x).any fun n => fordDir n == d && (fordOf s n).state == 9) then stFordNotReady
  else stOk

/-- LINK.SLICE OP 0 (R435, R436): DECLARED, and declared to the far ends; the reply waits for the agreement. -/
def bindSlice (s : State) (h : Hdr) (w : BitVec 256) : State :=
  let st := sliceCheck s w
  if st != stOk then reply s h 0x0B01 st []
  else
    let x : Slice := { word := w, bindAt := s.now }
    let s := { s with fords := { s.fords with slices := s.fords.slices ++ [x] } }
    let s := sendLm s (((offered s x).filter fun n => (fordOf s n).state == 9).map fun n => LmFrame.declare n (swId w) (swBlock w))
    settleSlice (deferCmd s { h := h, opcode := 0x0B01, obj := .slice (swId w), at_ := s.now }) (swId w)

/-- A part is a job that still exists: a running training object, or a group. -/
def partLive (s : State) (b : Nat) (p : Part) : Bool :=
  if p.kind = 0 then (trainOf s b p.ident).any (·.state == .running) else (groupOf s b p.ident).isSome

/-- LINK.SLICE OP 1 (R435, R446): refused while a job is bound to the slice. A module lends within its slice only (R246), so what is still
lent ends as with a lost module (log entry 60). -/
def unbindSlice (s : State) (h : Hdr) (w : BitVec 256) : State :=
  match s.fords.slices.find? fun x => swId x.word == swId w && swBasin x.word == swBasin w with
  | none => reply s h 0x0B01 stSliceInvalid []
  | some x =>
    if x.parts.any (partLive s (swBasin w)) then reply s h 0x0B01 stSliceBusy []
    else
      let s := idleFords (loseLends s (swBasin w) fun _ => true) x.bound
      let s := { s with fords := { s.fords with
        slices := dropW (fun x => swId x.word == swId w) s.fords.slices
        fords := s.fords.fords.map fun f => if f.decl.any fun d => d.1 == swId w then { f with decl := none } else f } }
      reply (raise s srcCore evSliceUnbound [swId w] [swBasin w]) h 0x0B01 stOk []

/-- Either operation of LINK.SLICE, as OP says (R434). -/
def linkSlice (h : Hdr) (rec : BitVec 256) (s : State) : Res :=
  hostCmd s h 0x0B01 true (some (.slice (swId rec))) (.linkSliceBind h rec) fun s => if bitAt rec.toNat 68 then unbindSlice s h rec else bindSlice s h rec

/-- LINK_SLICE_BIND (R434 to R436). -/
def execLinkSliceBind (h : Hdr) (rec : BitVec 256) (s : State) : Res := linkSlice h rec s

/-- LINK_SLICE_UNBIND (R434, R435). -/
def execLinkSliceUnbind (h : Hdr) (rec : BitVec 256) (s : State) : Res := linkSlice h rec s

/-- LINK_STATUS (R442). -/
def execLinkStatus (h : Hdr) (s : State) : Res :=
  hostCmd s h 0x0B02 false none (.linkStatus h) fun s =>
    let x := s.fords.slices.find? fun x => swBasin x.word == h.basin
    let fs := (s.fords.fords.map fun f => [Field.u64 f.serial, .u64 (frdStatus f), .u64 (frdErrA f), .u64 (frdErrB f)]).flatten
    reply s h 0x0B02 stOk ([.record 64 s.fords.topo.toNat, .record 32 (x.elim 0 (·.word.toNat)), .u8 (x.elim 0 (·.state)),
      .u8 (x.elim 0 (·.minor))] ++ fs)

/-- SLICE_DECLARE_RECEIVE (R436 step 2, R439): the declaration is kept for the ford; an identical one binds the ford. One that is withdrawn
(SLICE_ID 0) is the loss of the module to a slice that has bound the ford. -/
def execSliceDeclareReceive (ford sliceId ox oy oz lx ly lz minor : Nat) (s : State) : Res :=
  if !(ford < 48) || (fordOf s ford).state != 9 then .next s
  else
    let _ := minor
    let block := ox % 16 + 16 * (oy % 16) + 256 * (oz % 16) + 4096 * (lx % 16) + 65536 * (ly % 16) + 1048576 * (lz % 16)
    let s := heardFord s ford
    if sliceId = 0 then .next (faultAtFord (setFord s ford fun f => { f with decl := none }) ford 2)
    else .next (settleSlice (setFord s ford fun f => { f with decl := some (sliceId, block) }) sliceId)

/-- SLICE_READY_RECEIVE (R436 step 4): gathered at the origin, passed on elsewhere. -/
def execSliceReadyReceive (sliceId x y z minor : Nat) (s : State) : Res :=
  match sliceById s sliceId with
  | none => .next s
  | some q =>
    if q.state != 1 then .next s
    else if slicePlace s q = 0 then .next (noteReady s sliceId x y z minor)
    else .next (sendReady s q (x, y, z) minor)

/-- SLICE_GO_RECEIVE (R436 step 5). -/
def execSliceGoReceive (sliceId minor : Nat) (s : State) : Res :=
  if (sliceById s sliceId).any (·.sentReady) then .next (goReady s sliceId minor) else .next s

/-- SLICE_BIND_TIMEOUT (R436 step 6): 10 s without GO. -/
def execSliceBindTimeout (sliceId : Nat) (s : State) : Res :=
  if (sliceById s sliceId).any fun x => x.state == 1 && x.bindAt + 10000000000 ≤ s.now then .next (dropSlice s sliceId) else .next s

/-- SLICE_JOIN_TIMEOUT (R437): a part still alone 1 s after its bind ends. -/
def execSliceJoinTimeout (basin kind ident : Nat) (s : State) : Res :=
  match sliceOf s basin with
  | none => .next s
  | some x =>
    match x.parts.find? fun p => p.kind == kind && p.ident == ident && !p.joined && p.boundAt + 1000000000 ≤ s.now with
    | none => .next s
    | some p =>
      let s := setSliceId s (swId x.word) fun x => { x with
        parts := dropW (fun q => q.kind == kind && q.ident == ident) x.parts
        joins := dropW (fun j => j.1 == kind && j.2.1 == ident) x.joins }
      .next (endPart s basin p stSliceJoinTimeout)

/-- SLICE_STOP_RECEIVE (R440 step 4): the first STOP stops the slice here with cause PEER_STOP and is forwarded. -/
def execSliceStopReceive (ford sliceId serial cause : Nat) (s : State) : Res :=
  if !(ford < 48) || (fordOf s ford).state != 9 then .next s
  else
    let s := heardFord s ford
    match sliceById s sliceId with
    | some x => if x.state == 2 then .next (sliceFault s x 5 ford serial cause) else .next s
    | none => .next s

/-- WINDOW_TRANSFER_RECEIVE (R202, R431, R437): a transfer of a part's step in its turn, by an UP ford; one outside a step, or by a ford that
no slice has bound, meets the checks at once. -/
def execWindowTransferReceive (ford sx sy sz basin job wid : Nat) (isRead : Bool) (roff len : Nat) (data : List Byte)
    (part : Option (Nat × Nat × Nat)) (s : State) : Res :=
  if !(ford < 48) || (fordOf s ford).state != 9 then .next s
  else
    let s := heardFord s ford
    let go := takeTransfer ford sx sy sz basin job wid isRead roff len data part [] s
    match sliceAtFord s ford with
    | none => .next go
    | some x =>
      let u := FlitUnit.transfer job wid isRead roff len data
      match turnOf x part u with
      | .now => .next go
      | .bad => .next (faultAtFord s ford 3)
      | .later => .next (receiveUnit s x { slice := swId x.word, chan := 2, src := (sx, sy, sz), dst := ownPlace s x }
          { seq := 0, flits := 0, ford := ford, job := part, unit := u })

end Sys2Proof.Machine
end

