-- ==== Sys2Proof/Machine/Security.lean ====
section
/-! DEFINITION. The security commands and events: attestation, certificates, firmware images, MACsec keys, zeroisation, self-tests
and the random sources (R447 to R470). -/

namespace Sys2Proof.Machine

/-! ### Records under the store key (R452, R491, R492, R505) -/

/-- A record under the store key is valid only while that key exists (R492). -/
def recValid (s : State) (r : StoreRec) : Bool := !(r.macd || r.enc) || s.sec.identity

/-- The valid record in force for a key. -/
def recOf (s : State) (type index : Nat) : Option StoreRec := (storeFind (activeBank s.store) type index).filter (recValid s)

/-- The firmware slot state as its number of 24 bytes (R505); missing or invalid, it is read as slot 0 without a trial and
the reset configuration. -/
def slotWord (s : State) : Nat :=
  match recOf s 0x60 0 with
  | some r => r.payload.headD 0
  | none => bootCfgReset.toNat * 2 ^ 128

def slotPref (w : Nat) : Nat := fld w 0 0
def slotTrial (w : Nat) : Bool := bitAt w 1
def slotTries (w : Nat) : Nat := fld w 2 3

/-- Slot state from its fields. -/
def mkSlot (pref : Nat) (trial : Bool) (tries svn0 svn1 cfg : Nat) : Nat :=
  pref % 2 + 2 * b2n trial + 4 * (tries % 4) + 2 ^ 32 * (svn0 % 2 ^ 32) + 2 ^ 64 * (svn1 % 2 ^ 32) + 2 ^ 128 * (cfg % 2 ^ 64)

/-- The record of the slot state. -/
def slotRecord (w : Nat) : StoreRec := { type := 0x60, index := 0, len := 56, seq := 0, macd := true, payload := [w] }

/-- A slot state with another preferred slot, trial and tries, and the SVN of one slot. -/
def slotWith (w pref : Nat) (trial : Bool) (tries : Nat) (svn : Option (Nat × Nat)) : Nat :=
  let sv (n : Nat) : Nat := match svn with
    | some (k, v) => if k = n then v else fld w (32 + 32 * n) (63 + 32 * n)
    | none => fld w (32 + 32 * n) (63 + 32 * n)
  mkSlot pref trial tries (sv 0) (sv 1) (fld w 128 191)

/-! ### Firmware images (R455, R456) -/

def imgFld (img : Image) (lo hi : Nat) : Nat := fld (ofLe (img.take 64)) lo hi

/-- Component entry k of the manifest: KIND, LEN, OFFSET and the digest (R455). -/
def imgEntry (img : Image) (k : Nat) : Nat × Nat × Nat × List Byte :=
  let e := (img.drop (64 + 48 * k)).take 48
  (ofLe (e.take 4), ofLe ((e.drop 4).take 4), ofLe ((e.drop 8).take 8), (e.drop 16).take 32)

def imgEntries (img : Image) : List (Nat × Nat × Nat × List Byte) := (List.range 4).map (imgEntry img)

/-- The entry of a component kind. -/
def imgKind (img : Image) (kind : Nat) : Nat × Nat × Nat × List Byte :=
  ((imgEntries img).find? fun e => e.1 == kind).getD (kind, 0, 0, [])

def imgManifest (img : Image) : List Byte := img.take 256

/-- Two component ranges do not overlap. -/
def imgApart (a b : Nat × Nat × Nat × List Byte) : Bool := a.2.2.1 + a.2.1 ≤ b.2.2.1 || b.2.2.1 + b.2.1 ≤ a.2.2.1

/-- Check 1 of R456, with R455's word that only an image under key 1 may revoke key 0. -/
def imgFormOk (img : Image) : Bool :=
  let es := imgEntries img
  let pairs := (List.range 4).all fun i => (List.range i).all fun j => imgApart (imgEntry img i) (imgEntry img j)
  imgFld img 0 15 == 1 && imgFld img 16 23 == 4 && imgFld img 128 191 == img.length && img.length ≤ 67108864 && 30048 ≤ img.length &&
    ([1, 2, 3, 4].all fun k => es.any fun e => e.1 == k) && (es.all fun e => e.2.2.1 + e.2.1 ≤ img.length) && pairs &&
    (imgFld img 25 25 == 0 || imgFld img 24 24 == 1)

/-- Check 4 of R456. -/
def imgDigestsOk (img : Image) : Bool :=
  (imgEntries img).all fun e => sha256 ((img.drop e.2.2.1).take e.2.1) == e.2.2.2

/-- The checks of R456 in order, with the status of R458 for the first that fails. -/
def fwCheck (s : State) (img : Image) : Nat :=
  if !imgFormOk img then stFwInvalid
  else if imgFld img 24 24 == 0 && s.sec.key0Revoked then stSigInvalid
  else if !Config.slhVerify (imgFld img 24 24) (imgManifest img) ((img.drop 256).take 29792) then stSigInvalid
  else if !imgDigestsOk img then stFwInvalid
  else if imgFld img 32 63 < s.sec.minSvn then stFwRollback
  else stOk

/-! ### Refusal after a failure (R465) -/

/-- Identity lost, or a signature, key-encapsulation or hash function failed: the four services are refused. -/
def secRefused (s : State) : Bool := s.sec.failedCauses.any fun c => c == 1 || c == 5 || c == 6 || c == 7

/-! ### SEC.ATTEST and SEC.CERTS (R453, R459) -/

/-- The report body as a number of 512 bytes (R459). -/
def reportWord (s : State) (x : Basin) (nonce : BitVec 256) : Nat :=
  let meas := (s.sec.meas.zipIdx.map fun m => m.1.toNat * 2 ^ (512 + 256 * m.2)).sum
  let dig (l : List Byte) : Nat := ofLe (sha256 l)
  1 + 512 * 2 ^ 16 + x.id % 16 * 2 ^ 32 + b2n (s.sec.mode == 1) * 2 ^ 36 + b2n s.sec.selftestOk * 2 ^ 37 + s.boot.slot % 2 * 2 ^ 38 +
    moduleSerial * 2 ^ 64 + s.now * 2 ^ 128 + s.sec.svn * 2 ^ 192 + s.sec.reportSeq * 2 ^ 224 + nonce.toNat * 2 ^ 256 + meas +
    dig (le 128 x.word.toNat ++ hostRecBytes x.host) * 2 ^ 2560 + dig (le 64 s.fords.topo.toNat) * 2 ^ 2816 +
    usageWord s x.id % 2 ^ 16 * 2 ^ 3072

/-- A report waits: another is being signed, the alias certificate is being issued, or D0 has to be reseeded (R459, R461, R470). -/
def reportWaits (s : State) : Bool :=
  s.sec.signing.isSome || (s.store.waiting.any fun r => r.type == 0x12) || (s.sec.d0.ok && 2 ^ 20 ≤ s.sec.d0.gens)

/-- SEC.ATTEST (R459): the report's body is formed, with a draw of D0, and its signing begins. It ends, and the reply goes, with the next idle
nanosecond (log entry 153). A stopped D0 serves no report (R461, R465). -/
def execSecAttest (h : Hdr) (nonce : BitVec 256) (named : Option Nat) (s : State) : Res :=
  if reportWaits s then .next s
  else hostCmd s h 0x0900 false none (.secAttest h nonce named) fun s =>
    let b := named.getD h.basin
    if b != h.basin && !isAdmin s h.basin then reply s h 0x0900 stNotPermitted []
    else if secRefused s || !s.sec.d0.ok then reply s h 0x0900 stSecError []
    else match basinOf s b with
      | none => reply s h 0x0900 stBasinUnknown []
      | some x =>
        let s := setDrbg s 0 s.sec.d0.draw.2
        { s with sec := { s.sec with signing := some { h := h, word := reportWord s x nonce } } }

/-- What each certificate of the chain certifies, leaf first (R453). -/
def certSubject (s : State) (k : Nat) : List Byte :=
  if k ≤ 1 then (s.sec.aliasFor.map bytes256).flatten ++ le 4 s.sec.svn else le 8 moduleSerial

/-- SEC.CERTS (R453). -/
def execSecCerts (h : Hdr) (s : State) : Res :=
  hostCmd s h 0x0901 false none (.secCerts h) fun s =>
    if secRefused s then reply s h 0x0901 stSecError []
    else
      let cert (k : Nat) : List Field :=
        let d := Config.certificate k (certSubject s k)
        [.u32 d.length, .bytes d]
      reply s h 0x0901 stOk (.u32 5 :: ((List.range 5).map cert).flatten)

/-! ### SEC.FW_UPDATE (R458, R507) -/

/-- The image's region lies in WORK pages of the basin, and no byte of it is poisoned. -/
def imageBreach (s : State) (b addr len : Nat) : Nat :=
  let ps := pageRange addr (max 1 len)
  if !inTiered addr (max 1 len) || ps.any (fun p => !pageMapped s b p) then stIndexRange
  else if ps.any fun p => !((pageOf s b p).any fun e => e.kind == .work) then stNotPermitted
  else if readable s b addr len != len then stDataPoisoned
  else stOk

/-- SEC.FW_UPDATE (R458): refused while a trial image stands unconfirmed (R507). -/
def execSecFwUpdate (h : Hdr) (addr len : Nat) (s : State) : Res :=
  hostStoreCmd s h 0x0902 true (some .fwSlot) (.secFwUpdate h addr len) fun s =>
    let st := imageBreach s h.basin addr len
    if slotTrial (slotWord s) then reply s h 0x0902 stBusy []
    else if secRefused s then reply s h 0x0902 stSecError []
    else if st != stOk then reply s h 0x0902 st []
    else
      let img := tierBytes s h.basin addr len
      let st := fwCheck s img
      if st != stOk then reply s h 0x0902 st []
      else deferCmd { s with sec := { s.sec with staging := some (1 - s.boot.slot, img) } } { h := h, opcode := 0x0902, obj := .fwSlot }

/-- Write a slot of the configuration flash. -/
def putSlotImage (s : State) (n : Nat) (img : Image) : State :=
  { s with store := if n = 0 then { s.store with slot0 := img } else { s.store with slot1 := img } }

/-- FW_SLOT_WRITE_COMPLETE (R458, R505): the slot is read back, the slot state stored, SEC.FW_STAGED raised and the command
answered. -/
def execFwSlotWriteComplete (s : State) : Res :=
  match s.sec.staging with
  | none => .next s
  | some (n, img) =>
    if !storeReady s then .next s
    else
      let s := putSlotImage { s with sec := { s.sec with staging := none } } n img
      if s.store.faulted then .next (answerAll s (fun d => d.obj == .fwSlot) stStoreFault [])
      else
        let s := storeWriteNow s (slotRecord (slotWith (slotWord s) n true 2 (some (n, imgFld img 32 63))))
        let s := raise s srcStewipen evSecFwStaged [n, imgFld img 32 63, imgFld img 96 127] []
        .next (answerAll s (fun d => d.obj == .fwSlot) stOk [])

/-! ### SEC.MACSEC_KEY (R462) -/

def portsOf (m : Nat) : List Nat := (List.range 2).filter (bitAt m)

/-- The store key (R452). -/
def storeKey : List Byte := pufKdf "store" [] 32

/-- A CAK as the store holds it: KEY_ID, CKN and the key, under AES-256-GCM and the store key, with the nonce before the ciphertext and the
tag after it (R447, R452, R491; log entry 66). -/
def cakRec (s : State) (k : Cak) : StoreRec :=
  let nonce := Config.storeNonce s.store.seq
  let l := nonce ++ gcmSeal storeKey nonce (le 4 k.keyId ++ bytes256 k.ckn ++ bytes256 k.key)
  { type := 0x14, index := k.port, len := 96, seq := 0, enc := true, payload := l.map (·.toNat) }

def sciRec (l : List Sci) : StoreRec :=
  { type := 0x15, index := 0, len := 16 * l.length + 32, seq := 0, macd := true, payload := (l.map fun k => [k.port, k.sci, k.basin]).flatten }

/-- The CAK of a command, under the transport key and the KEY_ID (R462). -/
def openCak (keyId : Nat) (ciphertext wrapped : List Byte) : Option (BitVec 256) :=
  (Config.mlkemDecaps kemSeeds ciphertext).bind fun ss =>
    kwUnwrap (kdf (bytes256 ss) "cak-wrap" (le 4 keyId) 32) wrapped

/-- SEC.MACSEC_KEY KIND 0 (R462): the CAK replaces that of the named ports; SAKs in use stay. -/
def execCakInstall (h : Hdr) (ports keyId : Nat) (ckn : BitVec 256) (ciphertext wrapped : List Byte) (s : State) : Res :=
  hostStoreCmd s h 0x0903 true none (.cakInstall h ports keyId ckn ciphertext wrapped) fun s =>
    if secRefused s then reply s h 0x0903 stSecError []
    else if (portsOf ports).isEmpty || 3 < ports then reply s h 0x0903 stDescInvalid []
    else match openCak keyId ciphertext wrapped with
      | none => reply s h 0x0903 stKeyInvalid []
      | some key =>
        let ks : List Cak := (portsOf ports).map fun n => { port := n, keyId := keyId, ckn := ckn, key := key }
        let u := ks.foldl (fun s k => storeWriteNow s (cakRec s k)) s
        let u := { u with sec := { u.sec with caks := dropW (fun k => bitAt ports k.port) u.sec.caks ++ ks } }
        let s := settleMode (raise (measureChange s u) srcStewipen evSecCak [ports, keyId] [])
        reply s h 0x0903 stOk []

/-- A change of the SCI bindings: stored, measured and judged (R449, R457, R462). -/
def setScis (s : State) (l : List Sci) : State :=
  settleMode (measureChange s { storeWriteNow s (sciRec l) with sec := { s.sec with scis := l } })

/-- SEC.MACSEC_KEY KIND 1 (R462): a receive SCI is bound to one basin on the named ports, at most 16 on a port (R359). -/
def execSciBind (h : Hdr) (ports basin sci : Nat) (s : State) : Res :=
  hostStoreCmd s h 0x0903 true none (.sciBind h ports basin sci) fun s =>
    let kept := dropW (fun k => bitAt ports k.port && k.sci == sci) s.sec.scis
    let l := kept ++ (portsOf ports).map fun n => { port := n, sci := sci, basin := basin }
    if secRefused s then reply s h 0x0903 stSecError []
    else if (portsOf ports).isEmpty || 3 < ports || 15 < basin then reply s h 0x0903 stDescInvalid []
    else if !basinLive s basin then reply s h 0x0903 stBasinUnknown []
    else if (portsOf ports).any fun n => 16 < (l.filter fun k => k.port == n).length then reply s h 0x0903 stResourceBusy []
    else reply (setScis s l) h 0x0903 stOk []

/-- SEC.MACSEC_KEY KIND 2 (R462, R470): the binding goes; the reply is still sent. -/
def execSciUnbind (h : Hdr) (ports basin sci : Nat) (s : State) : Res :=
  hostStoreCmd s h 0x0903 true none (.sciUnbind h ports basin sci) fun s =>
    if secRefused s then reply s h 0x0903 stSecError []
    else if (portsOf ports).isEmpty || 3 < ports || 15 < basin then reply s h 0x0903 stDescInvalid []
    else reply (setScis s (dropW (fun k => bitAt ports k.port && k.sci == sci && k.basin == basin) s.sec.scis)) h 0x0903 stOk []

/-- The association number that a port sends with, 1 before the first key (R359, log entry 144). -/
def curAn (s : State) (port : Nat) : Nat := ((s.sec.saks.filter fun k => k.port == port).getLast?).elim 1 (·.an)

/-- What a frame of the key agreement does (R359, R462): one of the key server under the port's CAK is answered, and the SAK it distributes is used from
then on, beside the one before it. -/
def takeMka (s : State) (port ckn : Nat) (icvOk : Bool) (sak : Option Nat) : State :=
  let known := s.sec.caks.any fun k => k.port == port && k.ckn.toNat == ckn
  if !known || !icvOk || !s.sec.keysLive || s.sec.failedCauses.contains 2 then s
  else
    let s := match sak with
      | some k => { s with sec := { s.sec with 
        saks := (s.sec.saks.filter fun x => x.port != port || x.an == curAn s port) ++ [{ port := port, an := 1 - curAn s port, key := k }]
        rxScs := s.sec.rxScs.filter fun r => r.port != port || r.an == curAn s port } }
      | none => s
    sendUncontrolled (count s 5 port 0 0 1) port (.mka 255)

/-- MKA_FRAME (R359, R462): an EAPOL frame on the uncontrolled port. -/
def execMkaFrame (f : RxFrame) (ckn : Nat) (icvOk : Bool) (sak : Option Nat) (s : State) : Res :=
  if !portLink s f.port then .next s
  else .next (portTakes s f fun s => if f.etherType == 0x888E then takeMka s f.port ckn icvOk sak else count s 5 f.port 0 2 1)

/-! ### SEC.ZEROIZE (R466) -/

/-- Every job is killed and reported, and every pool and tier page is cleared (R205, R210). -/
def wipe (s : State) : State :=
  let s := s.basins.foldl (fun s x => killAll s x.id) s
  let jobs := s.pools.jobs
  let s := { s with mem := [], pools := { grans := s.pools.grans.filter fun x => x.state == .fenced } }
  jobs.foldl (fun s j => raise s srcCore evJobCleared [j.num, s.now - j.killed.getD s.now] [j.basin]) s

/-- CAKs, SCI bindings and alias certificates leave a bank, and with the identity the helper record (R466). -/
def eraseKeys (id : Bool) (b : Bank) : Bank :=
  { b with recs := dropW (fun r => r.type == 0x14 || r.type == 0x15 || r.type == 0x12 || (id && r.type == 0x10)) b.recs }

/-- The keys of SP1 and of the ports are overwritten (R452, R466); M6 sees the configuration change (R457). -/
def dropKeys (s : State) (eraseId : Bool) : State :=
  let u := stopDrbg (stopDrbg s 0) 1
  let x := u.sec
  let x := { x with
    keysLive := false, caks := [], scis := [], saks := [], aliasFor := [], helper := x.helper && !eraseId, signing := none }
  let st := { s.store with
    bankA := eraseKeys eraseId s.store.bankA, bankB := eraseKeys eraseId s.store.bankB
    waiting := dropW (fun r => r.type == 0x12) s.store.waiting }
  settleMode (measureChange s { u with sec := x, store := st })

/-- SEC.ZEROIZE (R466): the reply goes before the keys, and the module restarts at once with cause ZEROIZE. -/
def execSecZeroize (h : Hdr) (eraseId : Nat) (s : State) : Res :=
  hostCmd s h 0x0904 true none (.secZeroize h eraseId) fun s =>
    if 1 < eraseId then reply s h 0x0904 stDescInvalid []
    else
      let s := wipe (answerAll s (fun _ => true) stSecError [])
      let s := dropKeys (reply s h 0x0904 stOk []) (eraseId == 1)
      { s with boot := { s.boot with restartDue := some (s.now, 3) } }

/-! ### Self-tests and random numbers (R460, R461, R464, R465) -/

/-- SP1 works: the module is past ROM, and not in boundary-scan mode (R501, R515). -/
def sp1On (s : State) : Bool := 1 ≤ s.boot.stage && s.boot.stage ≤ 8 && s.sec.keysLive

/-- Nanoseconds between two runs of the known-answer tests: 24 h (R464). -/
def selftestPeriod : Nat := 86400000000000

/-- SELFTEST_PERIODIC (R464, R465): the known-answer tests run again, and a failure, named by its ERR_CAUSE, enters ERROR. -/
def execSelftestPeriodic (failed : Option Nat) (s : State) : Res :=
  if !sp1On s || s.now < s.sec.lastSelftest + selftestPeriod then .next s
  else
    let s := { s with sec := { s.sec with lastSelftest := s.now } }
    match failed with
    | some c => if [2, 4, 5, 6, 7].contains c then .next (failSec s (some 1) c) else .next s
    | none => .next s

/-- ENTROPY_HEALTH_FAIL (R460, R465): both DRBGs stop. -/
def execEntropyHealthFail (s : State) : Res := if sp1On s then .next (failSec s (some 2) 3) else .next s

/-- DRBG_RESEED (R461): due after 2^20 generate requests. -/
def execDrbgReseed (inst : Nat) (s : State) : Res :=
  let d := if inst = 0 then s.sec.d0 else s.sec.d1
  if 1 < inst || !sp1On s || !d.ok || d.gens < 2 ^ 20 then .next s
  else .next (seedDrbg s inst false)

end Sys2Proof.Machine
end

