-- ==== Sys2Proof/Machine/Domains.lean ====
section
/-! DEFINITION. Power domains: waking, switching off, faults, idling, the domain commands and standby (R27, R28, R209, R486 to R489,
R498). -/

namespace Sys2Proof.Machine

/-! ### What a domain holds -/

/-- The pool whose granules lie in a domain (R183): a reach, a tributary common, a trunk segment. -/
def domainPool (d : Nat) : Option Nat := if d < 272 then some d else if 366 ≤ d && d ≤ 369 then some (272 + (d - 366)) else none

/-- A granule of the domain is OWNED. -/
def domainOwned (s : State) (d : Nat) : Bool :=
  (domainPool d).any fun p => s.pools.grans.any fun x => x.state == .owned && poolOf x.g == p

/-- A job is bound to the domain: it owns a granule there, or a step of it uses the domain (R489). -/
def domainBound (s : State) (d : Nat) : Bool := domainOwned s d || s.steps.any fun t => (stepDomains s t).contains d

/-- A memory PHY has pages to move, to copy or to build (R226, R269). -/
def phyBusy (s : State) (d : Nat) : Bool :=
  292 ≤ d && d ≤ 315 && (!s.tiers.moves.isEmpty || !s.tiers.clearing.isEmpty || s.tiers.pages.any (·.moving.isSome) ||
    s.models.variants.any (·.building != 0))

/-- A slice has bound the ford of a domain. -/
def fordBound (s : State) (d : Nat) : Bool :=
  316 ≤ d && d < 364 && s.fords.slices.any fun x => (x.state == 1 || x.state == 2) && x.bound.contains (d - 316)

/-- A domain that depends on this one is powered (R28). -/
def dependantPowered (s : State) (d : Nat) : Bool := (List.range 372).any fun x => (dependsOn x).contains d && domPowered s x

/-- The wake time at corner W in ns (R486). -/
def wakeTime (d : Nat) : Nat :=
  if d < 256 then 4500 else if d < 272 then 30000 else if d < 292 then 3000 else if d < 300 then 60000
  else if d < 316 then 40000 else if d < 364 then 110000000 else if d < 366 then 500000000 else if d < 370 then 7500 else 150000000

/-- AUTO_IDLE_MS in ns; 0 is read as 10 (R496). -/
def autoIdle (s : State) : Nat :=
  let n := fld s.pwr.limitCfg.toNat 40 47
  1000000 * (if n = 0 then 10 else n)

/-! ### Links and keys that go with a domain -/

/-- The link of a port drops (R356). -/
def dropPort (s : State) (n : Nat) : State :=
  if (s.eth.ports[n]?).any (·.linkUp) then
    let s := { s with
      eth := { s.eth with ports := s.eth.ports.modify n fun q => { q with linkUp := false, rateNow := 0, lanes := 0 } }
      sec := { s.sec with saks := dropW (fun k => k.port == n) s.sec.saks } }
    raise (portLost s n) (srcPort n) evEthLink [n, 0, 0] []
  else s

/-- Fords switch off together: no STOP can leave, and the slices they carry stop with cause FORD_DOWN (R439, R476, R474). -/
def fordsOff (s : State) (l : List Nat) : State :=
  let s := l.foldl (fun s n =>
    let f := fordOf s n
    let s := quietFord s n 0
    if f.state = 9 then raise s (srcFord n) evFordDown [n, 0, f.lane0, f.lane1] (fordOwner s n) else s) s
  let s := (s.fords.slices.filter fun x => x.state == 2 && x.bound.any l.contains).foldl
    (fun s x => sliceFault s x 0 ((x.bound.filter l.contains).headD 0) moduleSerial 0) s
  l.foldl unbindFord s

/-- SP1 loses what it holds (R452, R486). -/
def sp1Off (s : State) : State :=
  let s := stopDrbg (stopDrbg s 0) 1
  { s with sec := { s.sec with keysLive := false, saks := [], signing := none } }

/-- A self-test runs: of the functions with these ERR_CAUSEs, each that fails enters ERROR (R464, R465). -/
def runTests (s : State) (test : Nat) (causes : List Nat) : State :=
  let n := s.freeCtr
  causes.foldl (fun s c => if Config.selfTest c n then s else failSec s (some test) c) { s with freeCtr := n + 1 }

/-- SP1 runs IDENTITY: the PUF is tried three times with the helper record of the store (R451); the known-answer tests and the start-up test
of the entropy source run, and both DRBGs are instantiated anew unless their functions have failed since the restart (R460, R461, R464,
R465); the keys derived then pass their pairwise tests. -/
def sp1Start (s : State) : State :=
  let n := s.freeCtr
  let helper := (storeFind (activeBank s.store) 0x10 0).isSome
  let ok := helper && (Config.pufOk n || Config.pufOk (n + 1) || Config.pufOk (n + 2))
  let s := { s with
    freeCtr := n + 3, sec := { s.sec with identity := ok, keysLive := ok, helper := helper, lastSelftest := s.now } }
  let s := runTests (if ok then s else failSec s none 1) 1 [7, 2, 4, 5, 6]
  let n := s.sec.samples
  let s := { s with sec := { s.sec with samples := n + 1024 } }
  let s := if startUpOk n then s else failSec s (some 2) 3
  let s := if drbgFailed s then s else seedDrbg (seedDrbg s 0 true) 1 true
  if ok then runTests s 3 [5, 6] else s

/-! ### Waking and switching off -/

/-- The domain's logic is ready: its granules are cleared (R185, R209), and what it holds starts. -/
def domainReady (s : State) (d : Nat) : State :=
  let s := setDom s d fun x => { x with state := 2, idleSince := s.now }
  let s := match domainPool d with
    | some p => clearPool s p true
    | none => s
  if 256 ≤ d && d < 272 then endpointReady s d
  else if 316 ≤ d && d < 364 then
    setFord s (d - 316) fun f => { f with state := if !f.enable then 1 else if s.pwr.serHeld then 0 else 3, trained := false, retryAt := none }
  else if d = 371 then sp1Start s
  else s

/-- DOMAIN_WAKE (R28): a request to wake a domain. -/
def execDomainWake (domain : Nat) (s : State) : Res :=
  if domain < 372 && 3 ≤ s.boot.stage && s.boot.stage ≤ 6 then .next (wakeDomain s domain) else .next s

/-- DOMAIN_WAKE_COMPLETE (R28, R486): the domain is ready once all it depends on is. -/
def execDomainWakeComplete (domain : Nat) (s : State) : Res :=
  if (domOf s domain).state = 1 && (needs s domain).all (domOn s) then
    .next (endBrown (answerDomain (domainReady s domain) domain true stOk))
  else .next s

/-- The domain is off (R209, R486): granules leave their owners, and links and keys go. -/
def domainOff (s : State) (d : Nat) : State :=
  let again := (domOf s d).wakeAgain
  let waker := (domOf s d).waker
  let s := setDom s d fun x => { x with state := 0, switchingOff := false, wakeAgain := false, waker := none }
  let s := match domainPool d with
    | some p => clearPool s p false
    | none => s
  let s := if 316 ≤ d && d < 364 then fordsOff s [d - 316] else if 364 ≤ d && d < 366 then dropPort s (d - 364)
    else if d = 371 then sp1Off s else s
  let s := answerDomain s d false stOk
  let s := if again then wakeDomain s d else s
  match waker with
  | some (n, sender, basin) => if (domOf s d).state = 1 then raise s srcCore evRunnelWake [n, sender, d] [basin] else s
  | none => s

/-- DOMAIN_OFF_COMPLETE (R414, R486): a switch-off is over; a domain asked for meanwhile wakes. -/
def execDomainOffComplete (domain : Nat) (s : State) : Res :=
  if (domOf s domain).switchingOff && ((domOf s domain).state == 1 || (domOf s domain).state == 2) then .next (domainOff s domain)
  else .next s

/-- The common of a tributary is HELD with its millrace, and its reaches are fenced (R487, R512). -/
def holdTrib (s : State) (t : Nat) : State :=
  let s := holdDomain (holdDomain s (256 + t)) (272 + t)
  (List.range 16).foldl (fun s r => fenceReach s (16 * t + r) 2) s

/-- DOMAIN_FAULT (R487): a waking domain's switch has not reached its voltage within twice the wake time. It is HELD; a common takes its
millrace and reaches with it, and a segment or PHY the module. -/
def execDomainFault (domain : Nat) (s : State) : Res :=
  let x := domOf s domain
  if x.state != 1 || s.now < x.wakeAt + 2 * wakeTime domain then .next s
  else
    let s := holdDomain s domain
    let s := raise s srcStewipen evPwrDomainFault [domain] []
    let s := otherFaultRecord s 3 srcStewipen 0 none 0 domain 0 0 0
    if domain < 256 then .next (endBrown (fenceReach s domain 2))
    else if domain < 272 then .next (endBrown (holdTrib s (domain - 256)))
    else if (292 ≤ domain && domain < 316) || (366 ≤ domain && domain < 370) then
      .next { s with boot := { s.boot with restartDue := some (s.now, 5) } }
    else .next (endBrown s)

/-- AUTO_IDLE_EXPIRY (R488): an AUTO domain without a job, an OWNED granule or a powered dependant, idle for AUTO_IDLE_MS, is
switched off; a ford that a slice has bound and a memory PHY with pages to move or build are in use. -/
def execAutoIdleExpiry (domain : Nat) (s : State) : Res :=
  let x := domOf s domain
  if domain < 370 && x.mode = 2 && domOn s domain && x.idleSince + autoIdle s ≤ s.now && !domainBound s domain &&
      !dependantPowered s domain && !(reserved s).contains domain && !fordBound s domain && !phyBusy s domain then
    .next (setDom s domain fun x => { x with switchingOff := true })
  else .next s

/-! ### PWR.DOMAIN and standby (R489) -/

/-- The checks of R489 for one domain. SP0 and SP1 are never switched off by command (R28). -/
def domainCheck (s : State) (d op : Nat) : Nat :=
  if 371 < d || 2 < op || (op = 0 && 370 ≤ d) then stDescInvalid
  else if (domOf s d).state = 3 then stDomainHeld
  else if op = 0 && dependantPowered s d then stDomainDependent
  else if op = 0 && (domainBound s d || (reserved s).contains d) then stDomainBusy
  else if fordBound s d then stSliceBusy
  else stOk

/-- Start what a PWR.DOMAIN asks, its reply being deferred (R489). -/
def startDomain (s : State) (d op : Nat) : State :=
  let s := setDom s d fun x => { x with mode := op }
  let x := domOf s d
  if op = 2 then answerAll s (fun q => q.opcode == 0x0A01 && q.obj == .domain d && q.arg == 2) stOk []
  else if op = 1 then
    if domOn s d then answerDomain s d true stOk
    else
      let s := wakeDomain s d
      if (domOf s d).state = 0 && !noWakes s then answerDomain s d true stDomainHeld else s
  else if x.state = 0 then answerDomain s d false stOk
  else setDom s d fun x => { x with switchingOff := true, wakeAgain := false, waker := none }

/-- PWR.DOMAIN, OP 0 to 2 (R489), which do not use WAKE_S. -/
def execPwrDomain (h : Hdr) (domain op wakeS : Nat) (s : State) : Res :=
  hostCmd s h 0x0A01 true (some (.domain domain)) (.pwrDomain h domain op wakeS) fun s =>
    let st := domainCheck s domain op
    if st != stOk then reply s h 0x0A01 st []
    else startDomain (deferCmd s { h := h, opcode := 0x0A01, obj := .domain domain, arg := op }) domain op

/-- A job is bound, or a request is admitted (R489 check 4). -/
def moduleBusy (s : State) : Bool :=
  !s.steps.isEmpty || s.pools.jobs.any jobLive || s.pools.grans.any (fun x => x.state == .owned) || s.serving.requests.any fun r => r.state != .ended

/-- Every domain but SP0 goes off at once, HELD ones staying HELD (R476, R489); a switch-off that a reply waits for is over. -/
def dieOff (s : State) (sp1 : Bool) : State :=
  let s := fordsOff s (List.range 48)
  let s := dropPort (dropPort s 0) 1
  let goes (d : Nat) : Bool := d != 370 && (d != 371 || sp1)
  let turn (d : Nat) (x : Dom) : Dom :=
    if goes d && x.state != 3 then { x with state := 0, switchingOff := false, wakeAgain := false, waker := none } else x
  let s := { s with pwr := { s.pwr with doms := s.pwr.doms.mapIdx turn } }
  ((List.range s.pwr.doms.length).filter goes).foldl (fun s d => answerDomain s d false stOk) s

/-- The domains that start ON wake again, and those that a command holds on; AUTO ones wake on demand. SP1 is off in standby and
in TEST_HOLD only, whatever mode a command has given it (R28). -/
def wakeFixed (s : State) : State := ((List.range 372).filter fun d => d = 371 || (domOf s d).mode = 1).foldl wakeDomain s

/-- PWR.DOMAIN, OP 3 (R489): standby. The reply leaves before the ports do. -/
def execStandby (h : Hdr) (domain wakeS : Nat) (s : State) : Res :=
  hostCmd s h 0x0A01 true (some (.domain domain)) (.standby h domain wakeS) fun s =>
    if domain != 0xFFFF then reply s h 0x0A01 stDescInvalid []
    else if moduleBusy s || s.boot.testing.isSome then reply s h 0x0A01 stDomainBusy []
    else if s.fords.slices.any (fun x => !x.bound.isEmpty) then reply s h 0x0A01 stSliceBusy []
    else
      let s := sp1Off (dieOff (reply s h 0x0A01 stOk []) true)
      { s with pwr := { s.pwr with standbyUntil := some (if wakeS = 0 then none else some (s.now + 1000000000 * wakeS)) } }

/-- The module leaves standby. -/
def leaveStandby (s : State) : State := wakeFixed { s with pwr := { s.pwr with standbyUntil := none } }

/-- STANDBY_WAKE_TIMER (R489): WAKE_S seconds are over. -/
def execStandbyWakeTimer (s : State) : Res :=
  match s.pwr.standbyUntil with
  | some (some t) => if t ≤ s.now then .next (leaveStandby s) else .next s
  | _ => .next s

/-- PWR_DOM_STATE n (R498). -/
def domStateReg (s : State) (n : Nat) : Nat :=
  ((List.range 32).map fun k => if 32 * n + k < 372 then (domOf s (32 * n + k)).state % 4 * 4 ^ k else 0).sum

end Sys2Proof.Machine
end

