-- ==== Sys2Proof/Machine/Restart.lean ====
section
/-! DEFINITION. What a restart and a loss of input leave, and how a restart is asked for (R474, R484, R491 to R493, R503, R541). -/

namespace Sys2Proof.Machine

/-- A module restart is asked for, with its cause (R516) and the time from which it may run; an earlier one stands. -/
def askRestart (s : State) (at_ cause : Nat) : State :=
  match s.boot.restartDue with
  | some (t, _) => if t ≤ at_ then s else { s with boot := { s.boot with restartDue := some (at_, cause) } }
  | none => { s with boot := { s.boot with restartDue := some (at_, cause) } }

/-- Everything outside the configuration flash is lost (R503); the readings and marks of the input stage stay, as does what has left
the module. -/
def loseAll (s : State) : State :=
  let r := State.reset
  { r with
    pending := s.pending
    now := s.now
    freeCtr := s.freeCtr
    store := { s.store with waiting := [], swapping := false, faulted := false }
    sec := { r.sec with samples := s.sec.samples }
    eth := { r.eth with out := s.eth.out }
    fords := { r.fords with lm := s.fords.lm, wire := s.fords.wire }
    mgmt := { r.mgmt with replies := s.mgmt.replies }
    tap := s.tap
    pwr := { r.pwr with
      vin := s.pwr.vin, inputOn := s.pwr.inputOn, senseMated := s.pwr.senseMated, senseReady := s.pwr.senseReady
      reverseBit := s.pwr.reverseBit
      highBit := s.pwr.highBit, railPend := s.pwr.railPend } }

/-- The record that was being written when the input stopped is torn, and a slot that was being written holds no valid image (R492,
R541). -/
def tearStore (s : State) : State :=
  let s := if s.store.waiting.isEmpty || s.store.faulted then s
    else { s with store := setActive s.store { activeBank s.store with torn := true } }
  match s.sec.staging with
  | some (n, _) => putSlotImage s n []
  | none => s

/-- The module powers off (R484, R541). -/
def powerOff (s : State) : State :=
  if !s.pwr.inputOn then s
  else
    let s := loseAll (tearStore s)
    { s with pwr := { s.pwr with inputOn := false, railPend := none }, tap := {} }

end Sys2Proof.Machine
end

