-- ==== Sys2Proof/Machine/StoreCmds.lean ====
section
/-! DEFINITION. The configuration store's commands and events (R490 to R494). -/

namespace Sys2Proof.Machine

/-- The reply data of PWR.STORE (R494); RECORDS counts the latest record of each key (log entry 156). -/
def storeData (s : State) : List Field :=
  let b := activeBank s.store
  [.u8 (b2n s.store.activeB), .u32 (cdiv b.usedBytes 1024), .u32 b.recs.length, .u64 s.store.seq, .u32 s.store.bankA.erases,
   .u32 s.store.bankB.erases]

/-- PWR.STORE OP 0 (R494). -/
def execPwrStoreQuery (h : Hdr) (s : State) : Res :=
  hostCmd s h 0x0A03 true (some .store) (.pwrStoreQuery h) fun s => reply s h 0x0A03 stOk (storeData s)

/-- The commands that a bank swap answers: PWR.STORE OP 1 (R494). -/
def answerSwap (s : State) (st : Nat) : State := answerAll s (fun d => d.opcode == 0x0A03) st (if st = stOk then storeData s else [])

/-- Swap banks now, or once the other bank is erased and the flash has power (R474, R493). -/
def startSwap (s : State) : State :=
  if s.store.swapping then s
  else if (otherBank s.store).erased && !s.pwr.auxBad then answerSwap (swapBanks s) stOk
  else { s with store := { s.store with swapping := true } }

/-- PWR.STORE OP 1 (R493, R494): deferred until STORE.SWAP. -/
def execPwrStoreSwap (h : Hdr) (s : State) : Res :=
  hostCmd s h 0x0A03 true (some .store) (.pwrStoreSwap h) fun s =>
    if s.store.faulted then reply s h 0x0A03 stStoreFault []
    else startSwap (deferCmd s { h := h, opcode := 0x0A03, obj := .store })

/-- Programme the record that waits first, and answer what waits for it: PWR.LIMIT, with the last record of its kind (R494). -/
def landRecord (s : State) (r : StoreRec) : State :=
  let s := storeWriteNow { s with store := { s.store with waiting := s.store.waiting.drop 1 } } r
  if r.type = 0x31 && !(s.store.waiting.any fun q => q.type == 0x31) then answerAll s (fun d => d.opcode == 0x0A02) stOk [.u64 s.pwr.limitCfg.toNat] else s

/-- A failed attempt leaves its bytes behind, and the next lies after them (R493). -/
def spoil (s : State) (len : Nat) : State :=
  { s with store := setActive s.store { activeBank s.store with usedBytes := (activeBank s.store).usedBytes + recBytes len } }

/-- Both banks have failed: writes are answered with ST_STORE_FAULT from now on (R493). -/
def storeFails (s : State) : State :=
  let s := { s with store := { s.store with faulted := true, waiting := [], swapping := false } }
  answerSwap (answerAll s (fun d => d.opcode == 0x0A02) stStoreFault []) stStoreFault

/-- STORE_WRITE (R493): the first waiting record is programmed and read back. A failure retries once behind it, and a second one swaps
banks; a write waits while VAUX is bad, and for the other bank's erasure when it needs a swap. -/
def execStoreWrite (firstOk secondOk otherBankOk : Bool) (s : State) : Res :=
  match s.store.waiting with
  | [] => .next s
  | r :: _ =>
    if s.pwr.auxBad || s.store.swapping || s.store.faulted then .next s
    else if needsSwap s.store r.len && !(otherBank s.store).erased then .next { s with store := { s.store with swapping := true } }
    else if firstOk then .next (landRecord s r)
    else if secondOk then .next (landRecord (spoil s r.len) r)
    else
      let s := spoil (spoil s r.len) r.len
      if !(otherBank s.store).erased then .next { s with store := { s.store with swapping := true } }
      else if otherBankOk then .next (landRecord (swapBanks s) r)
      else .next (storeFails s)

/-- STORE_ERASE_COMPLETE (R493): the old bank is erased, and a swap that waited for it runs. -/
def execStoreEraseComplete (s : State) : Res :=
  let b := otherBank s.store
  if b.erased || s.pwr.auxBad then .next s
  else
    let nb : Bank := { erased := true, erases := b.erases + 1 }
    let s := { s with store := setOther s.store nb }
    if s.store.swapping then .next (answerSwap (swapBanks s) stOk) else .next s

end Sys2Proof.Machine
end

