-- ==== Sys2Proof/Machine/Supply.lean ====
section
/-! DEFINITION. The supply: rails, dips and brown-outs, the power limit, temperatures and pacing, the input stage and the sensors, and the
power commands (R471 to R485, R494 to R497, R541). -/

namespace Sys2Proof.Machine

/-! ### PWR_LIMIT_CFG (R473, R478, R496) -/

def limitFld (s : State) (lo hi : Nat) : Nat := fld s.pwr.limitCfg.toNat lo hi

/-- A value outside its range is read as another. -/
def readAs (lo hi other n : Nat) : Nat := if n < lo || hi < n then other else n

/-- PLIMIT in W; with the input below 40 V at most 30 A × VIN (R478, R496). -/
def plimit (s : State) : Nat :=
  let p := max 400 (min 1200 (limitFld s 0 10))
  if s.pwr.vin < 400 then min p (3 * s.pwr.vin) else p

/-- VSET in mV (R496). -/
def vsetMv (s : State) : Nat := 600 + 10 * readAs 10 22 15 (limitFld s 16 23)
def tjThr (s : State) : Int := readAs 85 105 105 (limitFld s 24 31)
def hbmThr (s : State) : Int := readAs 85 95 95 (limitFld s 32 39)

/-- The writable bits of PWR_LIMIT_CFG (R496). -/
def limitMask : BitVec 64 := 0x0000FFFFFFFF07FF

/-- A masked write of RW bits (R390). -/
def maskWrite (old mask value rw : BitVec 64) : BitVec 64 := (old &&& ~~~(mask &&& rw)) ||| (value &&& mask &&& rw)

/-- The running setpoint moves, and VCORE with it at the sense points (R473); where it lies below 0.68 V or above
0.90 V it has dipped, is off or has a fault. -/
def regulate (s : State) (mv : Nat) : State :=
  { s with pwr := { s.pwr with setpoint := mv, vcore := s.pwr.vcore.map fun v => if v < 680 || 900 < v then v else mv } }

/-- The register takes a new value; a running setpoint that nothing limits follows VSET, and none exceeds it. One that VSET has come
down to is limited no longer, and PWR.LIMITING says so (R473, R477). -/
def setLimitCfg (s : State) (w : BitVec 64) : State :=
  let s := { s with pwr := { s.pwr with limitCfg := w } }
  let v := vsetMv s
  let mv := if s.pwr.limiting then min s.pwr.setpoint v else v
  let ended := s.pwr.limiting && v ≤ mv
  let s := regulate { s with pwr := { s.pwr with limiting := s.pwr.limiting && !ended } } mv
  if ended then raise s srcStewipen evPwrLimiting [0, mv] [] else s

/-! ### Means of the input power (R477) -/

/-- The sum of the last n samples, and how many there are. -/
def sampleSum (s : State) (n : Nat) : Nat × Nat := ((s.pwr.samples.take n).sum, (s.pwr.samples.take n).length)

/-- The mean of the last n samples exceeds a number of watts. -/
def meanAbove (s : State) (n w : Nat) : Bool := (sampleSum s n).2 * w < (sampleSum s n).1

/-- The mean of the last n samples is below a number of watts. -/
def meanBelow (s : State) (n w : Nat) : Bool := (sampleSum s n).1 < (sampleSum s n).2 * w

/-- PIN_W: the 1 ms mean (R495). -/
def pinW (s : State) : Nat := (sampleSum s 100).1 / max 1 (sampleSum s 100).2

/-! ### Sensors (R480, R485) -/

/-- TJ_MAX (R495). -/
def tjMax (s : State) : Int := maxInt ((List.range 20).map (tempOf s))

/-- PACE of R483: the smaller of the thermal and the power value. -/
def pace (s : State) : Nat := min s.pwr.paceT s.pwr.paceP

/-- Raise PWR.THROTTLE (R483): cause 0 THERMAL, 1 POWER, 2 HBM, 3 LPDDR5X. A start takes the C0 guarantee (R326). -/
def raiseThrottle (s : State) (cause : Nat) (on : Bool) : State :=
  let s := raise s srcStewipen evPwrThrottle [cause, b2n on, pace s] []
  if on then voidSteps s 2 else s

/-- Set a latch of PWR_HEALTH (R497). -/
def latch (s : State) (bit : Nat) : State := { s with pwr := { s.pwr with health := s.pwr.health ||| BitVec.ofNat 64 (2 ^ bit) } }

/-- PWR_HEALTH with its SENSOR_FAIL bits (R497). -/
def pwrHealth (s : State) : Nat :=
  s.pwr.health.toNat + (((List.range 32).filter (sensorFailed s)).map fun n => 2 ^ (16 + n)).sum

/-- PWR_STATUS (R495). -/
def pwrStatusReg (s : State) : Nat :=
  let p := pace s
  (s.pwr.vcore.foldl min 65535) % 2 ^ 16 + pinW s % 2 ^ 16 * 2 ^ 16 + s.pwr.vin % 2 ^ 10 * 2 ^ 32 + b2n s.pwr.warn.isSome * 2 ^ 42 +
    b2n (throttled s) * 2 ^ 43 + b2n s.pwr.limiting * 2 ^ 44 + unsigned 8 (tjMax s) * 2 ^ 48 + (if p = 256 then 0 else p) * 2 ^ 56

/-! ### Dips (R475) -/

def setVcore (s : State) (point mv : Nat) : State := { s with pwr := { s.pwr with vcore := s.pwr.vcore.set point mv } }

/-- The record of a warning takes a new reading: the lowest VCORE with its point, and the hold starts again. -/
def warnLow (w : Warn) (point mv : Nat) : Warn :=
  { w with low := min w.low mv, point := if mv < w.low then point else w.point, returned := none }

/-- The controller has switched VCORE off after a trip (R482). -/
def vcoreOff (s : State) : Bool := s.pwr.brown.any fun b => b.cause == 2 && !b.waking

/-- VCORE_DIP (R475): below 0.68 V at a sense point; for 1 µs without a warning in force, PWR.WARN. In a hold a dip of any length
restarts it. -/
def execVcoreDip (point mv forNs : Nat) (s : State) : Res :=
  if 20 ≤ point || 680 ≤ mv || s.boot.stage < 3 || 6 < s.boot.stage || vcoreOff s then .next s
  else
    let s := setVcore s point mv
    match s.pwr.brown.filter (!·.waking), s.pwr.warn with
    | some b, _ => .next { s with pwr := { s.pwr with brown := some { b with low := min b.low mv, good := none } } }
    | none, some w => .next { s with pwr := { s.pwr with warn := some (warnLow w point mv) } }
    | none, none =>
      if forNs < 1000 then .next (voidSteps s 2)
      else
        let t := s.now - forNs
        let s := { s with pwr := { s.pwr with warn := some { start := t, low := mv, point := point, paced := throttled s } } }
        .next (voidSteps (raise s srcStewipen evPwrWarn [t, point] []) 3)

/-- VCORE_RETURN (R475): VCORE lies above 0.68 V everywhere again. -/
def execVcoreReturn (s : State) : Res :=
  let p := s.pwr
  let p := { p with
    vcore := p.vcore.map fun v => if v < 680 || 900 < v then p.setpoint else v
    warn := p.warn.map fun w => { w with returned := w.returned.orElse fun _ => some s.now }
    brown := p.brown.map fun b => { b with good := b.good.orElse fun _ => some s.now } }
  if s.boot.stage < 3 || 6 < s.boot.stage || vcoreOff s then .next s else .next { s with pwr := p }

/-- PWR_CLEAR (R475): the hold of 100 µs is complete. -/
def execPwrClear (s : State) : Res :=
  match s.pwr.warn with
  | some w =>
    match w.returned with
    | some t =>
      if t + 100000 ≤ s.now then
        .next (raise { s with pwr := { s.pwr with warn := none } } srcStewipen evPwrClear [w.start, t - w.start, w.low, w.point] [])
      else .next s
    | none => .next s
  | none => .next s

/-! ### Brown-outs (R476, R482) -/

/-- The brown-out that begins, from the dip before it on (R476); a fault while the die wakes goes on with the one in progress (log entry
72). -/
def brownOf (s : State) (cause low : Nat) : Brown :=
  let start := (s.pwr.warn.map (·.start)).getD s.now
  let low := min low ((s.pwr.warn.map (·.low)).getD low)
  match s.pwr.brown with
  | none => { start := start, begun := s.now, low := low, cause := cause, ports := (List.range 2).filter (portLink s) }
  | some b => { b with low := min b.low low, cause := cause, good := none, waking := false }

/-- Steps 1 to 4 of R476: the die is off, and every job ends with ST_POWER_FAULT. Causes: 0 VCORE, 1 OVER, 2 THERMAL, in which VCORE itself
is switched off (R482). -/
def startBrown (s : State) (cause low : Nat) : State :=
  let s := { s with pwr := { s.pwr with
    brown := some (brownOf s cause low), warn := none, vcore := if cause = 2 then s.pwr.vcore.map fun _ => 0 else s.pwr.vcore } }
  let s := dieOff (latch s 53) false
  let s := (s.pools.jobs.filter jobLive).foldl (fun s j => endJob s j.basin j.num stPowerFault) s
  match s.boot.testing with
  | some _ => { s with boot := { s.boot with testAborted := true } }
  | none => s

/-- The die runs, or wakes after a brown-out: one can begin. -/
def dieRuns (s : State) : Bool := 3 ≤ s.boot.stage && s.boot.stage ≤ 6 && s.pwr.brown.all (·.waking) && s.pwr.standbyUntil.isNone

/-- BROWNOUT (R474, R476): VCORE beyond a fault level. -/
def execBrownout (cause point mv : Nat) (s : State) : Res :=
  if !dieRuns s || 1 < cause || 20 ≤ point || (cause = 0 && 600 ≤ mv) || (cause = 1 && mv ≤ 900) then .next s
  else
    let s := raise (latch (setVcore s point mv) 0) srcStewipen evPwrRailFault [0, cause] []
    .next (startBrown s cause mv)

/-- The recovery condition of a row of R481 holds. -/
def rowRecovered (s : State) (row : Nat) : Bool :=
  if row = 0 then (List.range 20).all fun n => tempOf s n ≤ 95
  else if row = 1 then (List.range 8).all fun n => tempOf s (20 + n) ≤ 90
  else s.pwr.lpxTemps.all (· ≤ 90)

/-- The rows that have tripped have recovered (R481). -/
def tripRecovered (s : State) : Bool := s.pwr.tripped.all (rowRecovered s)

/-- BROWNOUT_RECOVERY (R476 steps 5 to 8): VCORE has been good for 100 µs, after a trip with the sensors that tripped cool again; the die
wakes, and what waits for that ends the brown-out. -/
def execBrownoutRecovery (s : State) : Res :=
  match s.pwr.brown with
  | none => .next s
  | some b =>
    let ready := if b.cause = 2 then tripRecovered s else b.good.any (· + 100000 ≤ s.now)
    if b.waking || !ready then .next (endBrown s)
    else
      let s := { s with pwr := { s.pwr with
        brown := some { b with waking := true }, tripped := [], hot := [], vcore := List.replicate 20 s.pwr.setpoint } }
      .next (endBrown (((List.range 272).filter fun d => (domOf s d).mode = 2).foldl wakeDomain (wakeFixed s)))

/-! ### Rails (R474) -/

/-- The warning levels of the rails but VCORE, in mV. -/
def railWarnMv (rail : Nat) : Nat := [0, 760, 1050, 1000, 860, 3130].getD rail 0

/-- RAIL_WARN (R474): a rail other than VCORE below its warning level. -/
def execRailWarn (rail mv : Nat) (s : State) : Res :=
  if rail = 0 || 5 < rail || !s.pwr.inputOn then .next s
  else if railWarnMv rail ≤ mv then .next { s with pwr := { s.pwr with railWarn := dropW (· == rail) s.pwr.railWarn } }
  else if s.pwr.railWarn.contains rail then .next s
  else .next (raise { s with pwr := { s.pwr with railWarn := rail :: s.pwr.railWarn } } srcStewipen evPwrRailWarn [rail, mv] [])

/-- Module sensors that have just failed are reported (R485): kind 0 RANGE, 1 REFERENCE, 2 OPEN, 3 BUS. -/
def raiseNewFails (before : State) (s : State) (kind : Nat → Nat) : State :=
  ((List.range 32).filter fun n => sensorFailed s n && !sensorFailed before n).foldl
    (fun s n => raise s srcStewipen evPwrSensorFail [n, kind n] []) s

/-- The effect of a rail's fault. -/
def railEffect (s : State) (rail kind : Nat) : State :=
  if rail = 0 then if dieRuns s then startBrown s (if kind = 1 then 1 else 0) (s.pwr.vcore.foldl min 65535) else s
  else if rail ≤ 3 then askRestart { s with pwr := { s.pwr with railPend := some (rail, kind) } } s.now 1
  else if rail = 4 then
    let s := { s with pwr := { s.pwr with serHeld := true, serGood := none } }
    dropPort (dropPort (fordsOff s (List.range 48)) 0) 1
  else
    let s' := { s with pwr := { s.pwr with auxBad := true } }
    raiseNewFails s s' fun _ => 3

/-- RAIL_FAULT (R474): a fault of VSTW, VMEM or VLPX is raised once SP0 runs again. -/
def execRailFault (rail kind : Nat) (s : State) : Res :=
  if 5 < rail || 3 < kind || !s.pwr.inputOn || (1 ≤ rail && rail ≤ 3 && s.pwr.railPend.isSome) then .next s
  else
    let s := latch s rail
    let s := if 1 ≤ rail && rail ≤ 3 then s
      else otherFaultRecord (raise s srcStewipen evPwrRailFault [rail, kind] []) 3 srcStewipen 0 none 0 370 0 rail kind
    .next (railEffect s rail kind)

/-- VSER_RECOVERY (R474): VSER has been good for 10 ms, and the fords and ports train again. The first call marks the return. -/
def execVserRecovery (s : State) : Res :=
  if !s.pwr.serHeld then .next s
  else match s.pwr.serGood with
    | none => .next { s with pwr := { s.pwr with serGood := some s.now } }
    | some t =>
      if s.now < t + 10000000 then .next s
      else
        let s := { s with pwr := { s.pwr with serHeld := false, serGood := none } }
        .next (((List.range 48).filter (fordLive s)).foldl (fun s n => setFord s n fun f => { f with state := 3, trained := false, retryAt := none }) s)

/-- VAUX_RECOVERY (R474): VAUX is good again; store writes and a swap that waited go on, and the module sensors are read. -/
def execVauxRecovery (s : State) : Res :=
  let s := { s with pwr := { s.pwr with auxBad := false } }
  .next (if s.store.swapping && (otherBank s.store).erased then answerSwap (swapBanks s) stOk else s)

/-! ### The power limit (R477, R478) -/

/-- A 100 µs mean exceeds 1,450 W (R477). -/
def overMean (s : State) : Bool := meanAbove s 10 1450

/-- Power pacing starts, and PLIMIT has not been met since (R478, R483). -/
def startPacing (s : State) : State :=
  if s.pwr.pacing then s
  else raiseThrottle { s with pwr := { s.pwr with pacing := true, paceP := 240, metSince := none } } 1 true

/-- POWER_SAMPLE (R477, R478): the mean input power of 10 µs, and the input voltage; a 100 µs mean above 1,450 W paces the die at once. -/
def execPowerSample (watts vin : Nat) (s : State) : Res :=
  if !s.pwr.inputOn then .next s
  else
    let s := { s with pwr := { s.pwr with
      samples := watts :: s.pwr.samples.take 99, vin := vin, inputLow := s.pwr.inputLow && vin < 400
      inputHigh := s.pwr.inputHigh && 600 < vin } }
    .next (if dieRuns s && overMean s then startPacing s else s)

/-- The running setpoint moves, and PWR.LIMITING follows the state of limiting (R477). -/
def setSetpoint (s : State) (mv : Nat) : State :=
  let on := mv < vsetMv s
  let was := s.pwr.limiting
  let s := regulate { s with pwr := { s.pwr with limiting := on, lastStep := s.now } } mv
  if on = was then s else raise s srcStewipen evPwrLimiting [b2n on, mv] []

/-- One step of the setpoint, when one is due (R477). -/
def moveSetpoint (s : State) : State :=
  let v := s.pwr.setpoint
  if meanAbove s 100 (plimit s) && 700 < v && s.pwr.lastStep + 50000 ≤ s.now then setSetpoint s (max 700 (v - 10))
  else if meanBelow s 100 (plimit s - 50) && v < vsetMv s && s.pwr.lastStep + 1000000 ≤ s.now then setSetpoint s (min (vsetMv s) (v + 10))
  else s

/-- The condition of R478 that power pacing needs. -/
def mustPace (s : State) : Bool := s.pwr.atFloorSince.any (· + 5000000 ≤ s.now) || overMean s

/-- LIMITER_STEP (R477, R478): the setpoint moves, and power pacing starts when it has not been enough. -/
def execLimiterStep (s : State) : Res :=
  if !dieRuns s then .next s
  else
    let s := moveSetpoint s
    let floor := s.pwr.setpoint ≤ 700 && meanAbove s 100 (plimit s)
    let s := { s with pwr := { s.pwr with
      atFloorSince := if floor then s.pwr.atFloorSince.orElse fun _ => some s.now else none
      metSince := if meanAbove s 100 (plimit s) || overMean s then none else s.pwr.metSince.orElse fun _ => some s.now } }
    .next (if mustPace s then startPacing s else s)

/-! ### Temperature and pacing (R481 to R483) -/

/-- THERMAL_LOOP (R483): every 1 ms. The power value steps down while R478 holds and returns to 256 once PLIMIT has been met for 100
ms. -/
def execThermalLoop (s : State) : Res :=
  if !dieRuns s || s.now < s.pwr.lastLoop + 1000000 then .next s
  else
    let tj := tjMax s
    let t0 := s.pwr.paceT
    let t1 := if tjThr s ≤ tj then max (t0 - 16) 64 else if tj ≤ tjThr s - 3 then min (t0 + 16) 256 else t0
    let p0 := s.pwr.paceP
    let done := s.pwr.metSince.any (· + 100000000 ≤ s.now)
    let p1 := if !s.pwr.pacing then p0 else if mustPace s then max (p0 - 16) 64 else if done then 256 else p0
    let s := { s with pwr := { s.pwr with paceT := t1, paceP := p1, pacing := s.pwr.pacing && p1 != 256, lastLoop := s.now } }
    let s := if (t0 = 256) = (t1 = 256) then s else raiseThrottle s 0 (t1 != 256)
    .next (if (p0 = 256) = (p1 = 256) then s else raiseThrottle s 1 (p1 != 256))

/-- The row of R481 of a sensor; the packages follow the 32 sensors. -/
def tripRow (sensor : Nat) : Nat := if sensor < 20 then 0 else if sensor < 28 then 1 else 2

/-- A thermal trip (R482): PWR.THERMAL_TRIP, and the die goes off as in a brown-out with cause THERMAL. While it is off for one, a further row
that trips must recover too. -/
def thermalTrip (s : State) (sensor : Nat) (t : Int) (rows : List Nat) : State :=
  if dieRuns s then
    let s := raise (latch s 52) srcStewipen evPwrThermalTrip [sensor, unsigned 64 t] []
    startBrown { s with pwr := { s.pwr with tripped := rows } } 2 (s.pwr.vcore.foldl min 65535)
  else if s.pwr.brown.any (·.cause == 2) then { s with pwr := { s.pwr with tripped := (s.pwr.tripped ++ rows).eraseDups } }
  else s

/-- The halving of a memory controller's rate starts or ends (R481). -/
def setHalved (s : State) (hbm : Bool) (n : Nat) (on : Bool) : State :=
  let l := if hbm then s.pwr.halvedHbm else s.pwr.halvedLpx
  if l.contains n = on then s
  else
    let l := if on then l ++ [n] else dropW (· == n) l
    let s := { s with pwr := if hbm then { s.pwr with halvedHbm := l } else { s.pwr with halvedLpx := l } }
    raiseThrottle s (if hbm then 2 else 3) on

/-- The thresholds of R481 after a reading: the die's trip holds for 100 µs; the memories throttle and trip at once. -/
def judgeTemps (s : State) : State :=
  let hot := (List.range 20).filterMap fun n =>
    if 115 ≤ tempOf s n then some (n, ((s.pwr.hot.find? fun h => h.1 == n).map (·.2)).getD s.now) else none
  let s := { s with pwr := { s.pwr with hot := hot } }
  let s := (List.range 8).foldl (fun s n => setHalved s true n (hbmThr s ≤ tempOf s (20 + n))) s
  let s := (List.range 16).foldl (fun s n => setHalved s false n (95 ≤ s.pwr.lpxTemps.getD n 0)) s
  let trips := (hot.filter fun h => h.2 + 100000 ≤ s.now).map (fun h => (h.1, tempOf s h.1)) ++
    ((List.range 8).filter fun n => 105 ≤ tempOf s (20 + n)).map (fun n => (20 + n, tempOf s (20 + n))) ++
    ((List.range 16).filter fun n => 105 ≤ s.pwr.lpxTemps.getD n 0).map fun n => (32 + n, s.pwr.lpxTemps.getD n 0)
  match trips with
  | x :: _ => thermalTrip s x.1 x.2 (trips.map fun y => tripRow y.1).eraseDups
  | [] => s

/-- A reading lies outside −40 °C to 150 °C (R485). -/
def outOfRange (t : Int) : Bool := t < -40 || 150 < t

/-- SENSOR_READ (R480, R481, R485): readings, the packages' indications, and the module sensors that did not acknowledge. -/
def execSensorRead (readings lpx : List (Nat × Int)) (noAck : List Nat) (s : State) : Res :=
  if !s.pwr.inputOn || s.boot.stage < 3 then .next s
  else
    let rs := readings.filter fun r => r.1 < 32
    let acks := s.pwr.noAcks.mapIdx fun k n => if rs.any (fun r => r.1 == 28 + k) then 0 else if noAck.contains (28 + k) then min 3 (n + 1) else n
    let fails := (List.range 28).filter fun n => match rs.find? fun r => r.1 == n with
      | some r => outOfRange r.2
      | none => s.pwr.sensorFail.contains n
    let p := s.pwr
    let p := { p with
      temps := rs.foldl (fun l r => l.set r.1 r.2) p.temps
      lpxTemps := lpx.foldl (fun l r => l.set r.1 r.2) p.lpxTemps
      noAcks := acks, sensorFail := fails }
    let s' := { s with pwr := p }
    let s := judgeTemps (raiseNewFails s s' fun n => if n < 28 then 0 else 2)
    .next (if outOfConditions s then voidSteps s 2 else s)

/-- SENSOR_CHECK (R485): the reference check of the die and HBM3E sensors. -/
def execSensorCheck (failed : List Nat) (s : State) : Res :=
  if !s.pwr.inputOn then .next s
  else
    let s' := { s with pwr := { s.pwr with refFail := failed.filter (· < 28) } }
    .next (judgeTemps (raiseNewFails s s' fun _ => 1))

/-- SENSOR_BUS_FAULT (R485): a line has stayed low for 35 ms; when the pulses do not free it, the bus is faulted. -/
def execSensorBusFault (stillLow : Bool) (s : State) : Res :=
  if !s.pwr.inputOn || s.pwr.busFaulted then .next s
  else if !stillLow then .next (latch s 51)
  else
    let s := latch s 51
    let s' := { s with pwr := { s.pwr with busFaulted := true, busRetryAt := s.now + 10000000000 } }
    .next (raiseNewFails s s' fun _ => 3)

/-- SENSOR_BUS_RETRY (R485): every 10 s. -/
def execSensorBusRetry (ok : Bool) (s : State) : Res :=
  if !s.pwr.busFaulted || s.now < s.pwr.busRetryAt then .next s
  else .next { s with pwr := { s.pwr with busFaulted := !ok, busRetryAt := s.now + 10000000000 } }

/-! ### The input stage (R484, R541) -/

/-- PWR.INPUT_FAULT (R484, R499): cause 0 REVERSE, 1 LOW, 2 HIGH, with its latch and its fault record. -/
def inputFault (s : State) (cause vin bit : Nat) : State :=
  let s := raise (latch s bit) srcStewipen evPwrInputFault [cause, vin] []
  otherFaultRecord s 3 srcStewipen 0 none 0 370 0 cause vin

/-- INPUT_REVERSED (R484): the controller sets its bit; nothing else happens. -/
def execInputReversed (s : State) : Res :=
  if s.pwr.inputOn then .next s else .next { s with pwr := { s.pwr with reverseBit := true } }

/-- INPUT_LOW (R484): the 1 ms mean of the input lies below 40 V. -/
def execInputLow (vin : Nat) (s : State) : Res :=
  if !s.pwr.inputOn || 400 ≤ vin || s.pwr.inputLow then .next s
  else .next (inputFault { s with pwr := { s.pwr with inputLow := true, vin := vin } } 1 vin 50)

/-- INPUT_UNDERVOLTAGE (R484): below 36 V the module powers off. -/
def execInputUndervoltage (vin : Nat) (s : State) : Res :=
  if 360 ≤ vin then .next s else .next (powerOff { s with pwr := { s.pwr with vin := vin } })

/-- INPUT_HIGH (R484): the 1 ms mean of the input lies above 60 V. -/
def execInputHigh (vin : Nat) (s : State) : Res :=
  if !s.pwr.inputOn || vin ≤ 600 || s.pwr.inputHigh then .next s
  else .next (inputFault { s with pwr := { s.pwr with inputHigh := true, vin := vin } } 2 vin 49)

/-- INPUT_OVERVOLTAGE (R484): above 64 V the input switch opens, and the HIGH bit is set for the next power-up. -/
def execInputOvervoltage (vin : Nat) (s : State) : Res :=
  if vin ≤ 640 then .next s else .next (powerOff { s with pwr := { s.pwr with highBit := true, vin := vin } })

/-- SENSE_MATE (R541): the input stage may start 50 ms later. -/
def execSenseMate (s : State) : Res :=
  if s.pwr.senseMated.isSome then .next s else .next { s with pwr := { s.pwr with senseMated := some s.now } }

/-- SENSE_BREAK (R541): the effect of a loss of input. -/
def execSenseBreak (s : State) : Res := .next (powerOff { s with pwr := { s.pwr with senseMated := none, senseReady := false } })

/-! ### Commands (R494) -/

/-- The temperatures as PWR.STATUS gives them: −128 for a failed sensor. -/
def tempByte (s : State) (n : Nat) : Byte := BitVec.ofNat 8 (unsigned 8 (if sensorFailed s n then -128 else rawTemp s n))

/-- PWR.STATUS (R494). -/
def execPwrStatus (h : Hdr) (s : State) : Res :=
  hostCmd s h 0x0A00 false none (.pwrStatus h) fun s =>
    reply s h 0x0A00 stOk ([.u64 (pwrStatusReg s), .u64 s.pwr.limitCfg.toNat, .u64 (pwrHealth s),
      .bytes ((List.range 32).map (tempByte s))] ++ s.pwr.vcore.map .u16)

/-- The record of the power configuration (R491). -/
def limitRec (s : State) : StoreRec := { type := 0x31, index := 0, len := 8, seq := 0, payload := [s.pwr.limitCfg.toNat] }

/-- PWR.LIMIT (R494, R500): the register changes at once, and the reply waits for the stored record; a bank swap in progress does not
make it ST_BUSY. -/
def execPwrLimit (h : Hdr) (mask value : BitVec 64) (s : State) : Res :=
  hostCmd s h 0x0A02 true none (.pwrLimit h mask value) fun s =>
    if s.store.faulted then reply s h 0x0A02 stStoreFault []
    else
      let ready := storeReady s
      let s := setLimitCfg s (maskWrite s.pwr.limitCfg mask value limitMask)
      if ready then reply (storeWriteNow s (limitRec s)) h 0x0A02 stOk [.u64 s.pwr.limitCfg.toNat]
      else deferCmd (storeAsk s (limitRec s)) { h := h, opcode := 0x0A02, obj := .store }

end Sys2Proof.Machine
end

