-- ==== Sys2Proof/Machine/SelfTest.lean ====
section
/-! DEFINITION. Self-test at run time, its records, and the effect of a failed block (R509 to R513, R520). -/

namespace Sys2Proof.Machine

/-! ### Failed blocks (R512) -/

/-- A block, named by its power domain, has failed (R512). A riffle group fails for the tributary that was tested, else for its four. -/
def failBlock (s : State) (d : Nat) (trib : Option Nat) : State :=
  if d < 256 then fenceReach s d 0
  else if d < 272 then holdTrib s (d - 256)
  else if d < 288 then holdTrib s (d - 272)
  else if d < 292 then match trib with
    | some t => holdTrib s t
    | none => (List.range 4).foldl (fun s k => holdTrib s (4 * (d - 288) + k)) s
  else if 316 ≤ d && d < 364 then
    holdDomain (fordsOff (otherFaultRecord s 5 (srcFord (d - 316)) 0 none 0 d 0 0 0) [d - 316]) d
  else if 364 ≤ d && d < 366 then holdDomain (dropPort (otherFaultRecord s 5 (srcPort (d - 364)) 0 none 0 d 0 0 0) (d - 364)) d
  else { otherFaultRecord s 5 srcStewipen 0 none 0 d 0 0 0 with boot := { s.boot with stage := 8 } }

/-- What a test that has run to its end shows (R511): logic passes when the signature is the expected one, a memory when no line failed
besides, and a loopback when no lane error came. -/
def judged (r : BistRec) : BistRec :=
  let good := if r.part = 0 then r.misr == r.expect else if r.part = 1 then r.fails == 0 && r.misr == r.expect else r.fails == 0
  if 2 ≤ r.result then r else { r with result := if good then 0 else 1 }

/-- The blocks that failed a test, each once. -/
def failedBlocks (recs : List BistRec) : List Nat := ((recs.filter fun r => r.result == 1).map (·.block)).eraseDups

/-- A record of 48 bytes (R511). -/
def bistWord (r : BistRec) : Nat :=
  r.block % 2 ^ 16 + r.part % 2 ^ 8 * 2 ^ 16 + r.result % 2 ^ 8 * 2 ^ 24 + r.fails % 2 ^ 32 * 2 ^ 32 + r.time % 2 ^ 64 * 2 ^ 64 +
    r.misr % 2 ^ 128 * 2 ^ 128 + r.expect % 2 ^ 128 * 2 ^ 256

/-! ### TEST.BIST (R510, R520) -/

/-- A granule of the domain is in CLEARING: no TEST command reaches it (R207, log entry 121). -/
def domainClearing (s : State) (d : Nat) : Bool :=
  (domainPool d).any fun p => s.pools.grans.any fun x => x.state == .clearing && poolOf x.g == p

/-- The checks of R510 in order. A pool that is still being cleared is busy. -/
def bistCheck (s : State) (port scope target : Nat) : Nat :=
  let ds := testDomains scope target
  let limit := [256, 16, 48, 2].getD scope 0
  if limit ≤ target then stDescInvalid
  else if (domOf s (ds.headD 0)).state = 3 || (scope = 0 && s.boot.fenced.contains target) then stDomainHeld
  else if s.boot.testing.isSome then stTestBusy
  else if scope ≤ 1 && ds.any (domainBound s) then stTestBusy
  else if scope ≤ 1 && ds.any (domainClearing s) then stTestBusy
  else if scope = 2 && fordBound s (316 + target) then stTestBusy
  else if scope = 3 && port = target then stTestBusy
  else stOk

/-- TEST.BIST (R510): the target is reserved, woken, and taken out of use until the test ends. -/
def execTestBist (h : Hdr) (scope target : Nat) (s : State) : Res :=
  hostCmd s h 0x0800 true none (.testBist h scope target) fun s =>
    let st := bistCheck s h.port scope target
    if st != stOk then reply s h 0x0800 st []
    else
      let run := s.boot.nextRun
      let s := { s with boot := { s.boot with
        testing := some (run, scope, target), testAborted := false, nextRun := wrap 32 (run + 1) } }
      let s := (testDomains scope target).foldl wakeDomain s
      let s := if scope = 2 then fordsOff s [target] else if scope = 3 then dropPort s target else s
      deferCmd s { h := h, opcode := 0x0800, obj := .test, arg := run }

/-- The memory that was tested is cleared (R206, R510), and a ford trains again. -/
def afterTest (s : State) (scope target : Nat) : State :=
  if scope ≤ 1 then
    ((testDomains scope target).filterMap domainPool).foldl (fun s p =>
      if (domOf s (poolDomain p)).state = 3 then s else (poolGrans p).foldl clearGran s) s
  else if scope = 2 && fordLive s target then setFord s target fun f => { f with state := 3, trained := false, retryAt := none }
  else s

/-- The outcome of a test (R511, R520): aborted by a brown-out, or where its block's domain has been HELD meanwhile; a block that was not
run stays so. -/
def bistJudged (s : State) (r : BistRec) : BistRec :=
  if s.boot.testAborted || ((domOf s r.block).state == 3 && r.result != 2) then { r with result := 3 } else judged r

/-- BIST_COMPLETE (R510 to R512, R520): the test ends. -/
def execBistComplete (recs : List BistRec) (s : State) : Res :=
  match s.boot.testing with
  | none => .next s
  | some (run, scope, target) =>
    let recs := recs.map (bistJudged s)
    let fails := (recs.filter fun r => r.result == 1).length
    let x : BistRun := { run := run, scope := scope, target := target, recs := recs }
    let s := { s with boot := { s.boot with
      testing := none, testAborted := false, runs := (s.boot.runs ++ [x]).drop (s.boot.runs.length + 1 - 16) } }
    let s := (failedBlocks recs).foldl (fun s d => failBlock s d (if scope = 1 then some target else none)) s
    let s := raise (afterTest s scope target) srcCore evTestDone [run, recs.length, fails] []
    .next (answerAll s (fun d => d.opcode == 0x0800) stOk [.u32 run, .u16 recs.length, .u16 fails])

/-- TEST.RESULT (R511): the boot run, or one of the last 16. -/
def execTestResult (h : Hdr) (run : Nat) (s : State) : Res :=
  hostCmd s h 0x0801 false none (.testResult h run) fun s =>
    let data (scope target : Nat) (recs : List BistRec) : List Field :=
      [.u32 run, .u8 scope, .u16 target, .u16 recs.length] ++ recs.map fun r => .record 48 (bistWord r)
    if run = 0 then reply s h 0x0801 stOk (data 0xFF 0 s.boot.bootRecs)
    else match s.boot.runs.find? fun r => r.run == run with
      | some r => reply s h 0x0801 stOk (data r.scope r.target r.recs)
      | none => reply s h 0x0801 stTestUnknown []

end Sys2Proof.Machine
end

