-- ==== Sys2Proof/Machine/Boot.lean ====
section
/-! DEFINITION. Start-up: the boot stages, the firmware slots, restoring from the store, restarts, and PTP (R360, R404, R451 to R457,
R492, R501 to R508, R538). -/

namespace Sys2Proof.Machine

/-! ### Bank and records (R492) -/

/-- SEQ of a bank's COMPLETE record. -/
def completeSeq (b : Bank) : Nat := ((b.recs.filter fun r => r.type == 1).map (·.seq)).foldl max 0

/-- The bank with the higher SEQ of those that hold a COMPLETE record; without one the bank stays. -/
def chooseBank (st : Store) : Store :=
  if st.bankA.complete && st.bankB.complete then { st with activeB := completeSeq st.bankA < completeSeq st.bankB }
  else if st.bankA.complete then { st with activeB := false }
  else if st.bankB.complete then { st with activeB := true }
  else st

/-- Triples of a list of numbers as SCI bindings. -/
def scisFrom : List Nat → List Sci
  | a :: b :: c :: l => { port := a, sci := b, basin := c } :: scisFrom l
  | _ => []

/-- The CAK that the store holds for a port, where its authentication passes (R492). -/
def storedCak (s : State) (n : Nat) : Option Cak :=
  (recOf s 0x14 n).bind fun r =>
    let l := r.payload.map (BitVec.ofNat 8)
    (gcmOpen storeKey (l.take 12) (l.drop 12)).map fun m =>
      { port := n, keyId := ofLe (m.take 4), ckn := word256 ((m.drop 4).take 32), key := word256 (m.drop 36) }

/-- The security records, the fences, the retired frames and the fault log's next number (R233, R502 steps 7 and 11, R527). -/
def loadStore (s : State) : State :=
  let sv := (recOf s 0x13 0).elim [] (·.payload)
  let scis := (recOf s 0x15 0).elim [] fun r => scisFrom r.payload
  let fs := (storeFind (activeBank s.store) 0x41 0).elim [] (·.payload)
  let bank := activeBank s.store
  let chunks := sortBy (fun a b => a.index ≤ b.index) ((liveRecs bank).filter fun r => r.type == 0x40)
  let logs := (liveRecs bank).filter fun r => r.type == 0x50
  let last := logs.foldl (fun (m : Nat × Nat) r => if m.1 < r.seq then (r.seq, fld (r.payload.headD 0) 0 31 + 1) else m) (0, 0)
  let fence (d : Nat) (x : Dom) : Dom := if d < 256 && fs.contains d then { x with state := 3 } else x
  { s with
    sec := { s.sec with
      minSvn := sv.headD 0, key0Revoked := sv.getD 1 0 == 1, scis := scis, caks := (List.range 2).filterMap (storedCak s)
      aliasFor := (storeFind (activeBank s.store) 0x12 0).elim [] fun r => (r.payload.take 6).map (BitVec.ofNat 256) }
    boot := { s.boot with fenced := fs.filter (· < 256) }
    pwr := { s.pwr with doms := s.pwr.doms.mapIdx fence }
    pools := { s.pools with grans := (fs.filter (256 ≤ ·)).map fun g => { g := g - 256, state := .fenced } }
    tiers := { s.tiers with retired := ((chunks.map (·.payload)).flatten).map fun w => (w / 2 ^ 32, w % 2 ^ 32) }
    logs := { s.logs with fseq := wrap 32 last.2 } }

/-! ### Slots (R506) -/

def slotImage (s : State) (n : Nat) : Image := if n = 0 then s.store.slot0 else s.store.slot1

def slotVerified (s : State) (n : Nat) : Bool := fwCheck s (slotImage s n) == stOk

/-- What R506 chooses: the slot to boot, none for RECOVERY; the slot state's PREF, TRIAL and TRIES_LEFT; and whether it reverted. -/
def selectSlot (s : State) (w : Nat) : Option Nat × Nat × Bool × Nat × Bool :=
  let p := slotPref w
  let spent := slotTrial w && slotTries w == 0
  let s0 := if spent then 1 - p else p
  let trial := slotTrial w && !spent
  let tries := if slotTrial w && !spent then slotTries w - 1 else slotTries w
  if slotVerified s s0 then (some s0, (if spent then s0 else p), trial, tries, spent)
  else if slotVerified s (1 - s0) then (some (1 - s0), 1 - s0, false, tries, true)
  else (none, (if spent then s0 else p), trial, tries, spent)

/-- Store the slot state when it has changed (R506). -/
def putSlotState (s : State) (w : Nat) : State := if w = slotWord s then s else storePut s (slotRecord w)

/-- The measurements of firmware that is about to run, its alias certificate when they are not those of the stored one, and M6 (R453, R457).
Of the stored certificate the model keeps M0 to M5, which its extensions carry, before its bytes. -/
def measureFw (s : State) (img : Image) : State :=
  let s := extendMeas s 1 (sha256 (imgManifest img))
  let s := (List.range 4).foldl (fun s k => extendMeas s (2 + k) (imgKind img (k + 1)).2.2.2) s
  let m := s.sec.meas.take 6
  let s := if s.sec.aliasFor = m || !s.sec.keysLive then s
    else
      let s := runTests { s with sec := { s.sec with aliasFor := m } } 3 [5]
      let d := Config.certificate 0 (certSubject s 0) ++ Config.certificate 1 (certSubject s 1)
      storePut s { type := 0x12, index := 0, len := d.length, seq := 0, payload := m.map (·.toNat) ++ d.map (·.toNat) }
  measureCfg s

/-- The firmware of a slot starts, and the management core wakes the segments, PHYs, fords and ports (R486, R502 steps 5, 6 and 9). -/
def startFirmware (s : State) (n : Nat) (trial reverted : Bool) : State :=
  let img := slotImage s n
  let s := { s with
    sec := { s.sec with
      svn := imgFld img 32 63, build := imgFld img 96 127, linkMin := imgFld img 64 71, linkMaj := imgFld img 72 79
      revoke0 := imgFld img 25 25 == 1 }
    boot := { s.boot with stage := 3, slot := n, trial := trial, reverted := reverted, abandoned := 1 - n }
    pwr := { s.pwr with vcore := List.replicate 20 s.pwr.setpoint } }
  wakeFixed (measureFw s img)

/-- What SP0 reports of the time before it ran: the input's marks, a rail's fault, a watchdog restart (R474, R484, R502 step 2,
R527). -/
def reportMarks (s : State) : State :=
  let s := if s.pwr.reverseBit then inputFault { s with pwr := { s.pwr with reverseBit := false } } 0 s.pwr.vin 48 else s
  let s := if s.pwr.highBit then inputFault { s with pwr := { s.pwr with highBit := false } } 2 s.pwr.vin 49 else s
  let s := match s.pwr.railPend with
    | some (r, k) =>
      let s := raise (latch { s with pwr := { s.pwr with railPend := none } } r) srcStewipen evPwrRailFault [r, k] []
      otherFaultRecord s 3 srcStewipen 0 none 0 370 0 r k
    | none => s
  if s.boot.cause = 4 then otherFaultRecord s 7 srcCore 0 none 0 370 0 4 0 else s

/-- SP0 and SP1 are on. -/
def spOn (s : State) (l : List Nat) : State := l.foldl (fun s d => setDom s d fun x => { x with state := 2 }) s

/-- Stages ROM, IDENTITY and FIRMWARE (R501, R502 steps 2 to 6), with the cause of the start. -/
def runBoot (s : State) (cause restarts : Nat) (recover : Bool) : State :=
  let s := { s with now := 0, store := chooseBank s.store, boot := { s.boot with cause := cause, restarts := restarts, recover := recover } }
  let s := extendMeas (spOn s [370, 371]) 0 Config.romDigest
  let s := loadStore (sp1Start { s with boot := { s.boot with stage := 1 } })
  let w := slotWord s
  let (slot, pref, trial, tries, reverted) := selectSlot s w
  let cfg := BitVec.ofNat 64 (fld w 128 191)
  let s := { s with boot := { s.boot with
    stage := 2, bootCfg := cfg, bootCfgInForce := cfg, triesLeft := tries, fullRan := bitAt cfg.toNat 0 && slot.isSome } }
  let svn := slot.map fun n => (n, imgFld (slotImage s n) 32 63)
  let s := putSlotState s (slotWith w pref trial tries svn)
  match slot with
  | none => { s with boot := { s.boot with stage := 7, reverted := reverted } }
  | some n => reportMarks (startFirmware s n trial reverted)

/-- POWER_ON (R484, R502, R515, R541): the input comes within range, 50 ms after SENSE has mated and above 38 V. TEST_MODE leads to
TEST_HOLD, in which neither SP1 nor firmware starts. -/
def execPowerOn (testMode recover : Bool) (vin : Nat) (s : State) : Res :=
  if s.pwr.inputOn || vin ≤ 380 || 640 < vin || !(s.pwr.senseReady || s.pwr.senseMated.any (· + 50000000 ≤ s.now)) then .next s
  else
    let s := { s with pwr := { s.pwr with inputOn := true, senseReady := true, vin := vin } }
    if testMode then .next (spOn { s with now := 0, boot := { s.boot with stage := 9, recover := recover } } [370])
    else .next (runBoot s 0 0 recover)

/-! ### Memory, LINKS and READY (R502 steps 7 to 12) -/

/-- A tier has lost more than 1/64 of its frames (R502). -/
def tierLost (s : State) (tier : Nat) : Bool :=
  frameCount tier < 64 * (s.tiers.retired.filter fun r => r.1 == tier).length

/-- The segments and memory PHYs are on. -/
def memoryUp (s : State) : Bool := ((List.range 24).map (· + 292) ++ (List.range 4).map (· + 366)).all (domOn s)

/-- The tested domains are on and their pools clean. -/
def diePrepared (s : State) : State :=
  let on (d : Nat) (x : Dom) : Dom := if d < 292 && x.state != 3 then { x with state := 2, idleSince := s.now } else x
  { s with
    pwr := { s.pwr with doms := s.pwr.doms.mapIdx on }
    pools := { s.pools with grans := s.pools.grans.filter fun x => x.state == .fenced } }

/-- MEMORY_INIT_COMPLETE (R502 steps 7, 8 and 10, R512): frames that failed are retired and failed blocks fenced; LINKS follows, or
FAILED. -/
def execMemoryInitComplete (badHbm badLpx : List Nat) (recs : List BistRec) (s : State) : Res :=
  if s.boot.stage != 3 || !memoryUp s then .next s
  else
    let recs := recs.map judged
    let s := { s with boot := { s.boot with stage := 4, bootRecs := recs } }
    let s := (badHbm.filter (· < frameCount 1)).foldl (fun s f => retireFrame s 1 f 1) s
    let s := (badLpx.filter (· < frameCount 2)).foldl (fun s f => retireFrame s 2 f 1) s
    let s := (failedBlocks recs).foldl (fun s d => failBlock s d none) (diePrepared s)
    if s.boot.stage = 8 || tierLost s 1 || tierLost s 2 then .next { s with boot := { s.boot with stage := 8 } }
    else .next { s with boot := { s.boot with stage := 5, linksAt := some s.now } }

/-- PTP_WAIT_EN, and PTP_WAIT_S in ns; a value outside 1 to 60 is read as 5 (R517). -/
def ptpWaits (s : State) : Bool := bitAt s.boot.bootCfgInForce.toNat 1
def ptpWaitNs (s : State) : Nat := 1000000000 * readAs 1 60 5 (fld s.boot.bootCfgInForce.toNat 8 15)

/-- PTP_WAIT_EXPIRY (R504): PTP_WAIT_S has passed in LINKS without a lock. -/
def execPtpWaitExpiry (s : State) : Res :=
  if s.boot.stage = 5 && !s.boot.timeSync && s.boot.linksAt.any (· + ptpWaitNs s ≤ s.now) then
    .next { s with boot := { s.boot with waitOver := true } }
  else .next s

/-- The basin that a new module creates (R404). -/
def firstBasin (s : State) : BitVec 1024 :=
  BitVec.ofNat 1024 (16 + 2 ^ 8 + 192 * 2 ^ 16 + 65536 * 2 ^ 32 + 262144 * 2 ^ 64 + (2 ^ 16 - 1) * 2 ^ 128 + (2 ^ 48 - 1) * 2 ^ 144 +
    1024 * 2 ^ 480 + tierCapacity s 1 / 4096 * 2 ^ 512 + tierCapacity s 2 / 4096 * 2 ^ 544)

/-- Basins, hosts, topology and power configuration come back from the store; without a basin record B0 is created (R404, R502 step
11). -/
def restoreStore (s : State) : State :=
  let bank := activeBank s.store
  let bs : List Basin := (List.range 16).filterMap fun b => (storeFind bank 0x20 b).map fun r =>
    { id := b, word := BitVec.ofNat 1024 (r.payload.headD 0)
      host := (storeFind bank 0x21 b).elim {} fun h => hostRecOf (h.payload.map (BitVec.ofNat 8)) }
  let w := firstBasin s
  let s := if bs.isEmpty then storePut { s with basins := [{ id := 0, word := w }] } (basinRec w) else { s with basins := bs }
  let adm := ((s.basins.find? fun x => bitAt x.word.toNat 4).map (·.id)).getD 0
  let topo := BitVec.ofNat 512 ((storeFind bank 0x30 0).elim 0 fun r => r.payload.headD 0)
  let s := { s with admin := adm, fords := { s.fords with topo := topo } }
  match storeFind bank 0x31 0 with
  | some r => setLimitCfg s (BitVec.ofNat 64 (r.payload.headD 0))
  | none => s

/-- BOOT_READY (R502 steps 11 and 12): READY is entered once LINKS need wait no longer, and not in a brown-out (log entry 72); BOOT.READY goes first, then every event raised
since step 2. -/
def execBootReady (s : State) : Res :=
  if s.boot.stage != 5 || s.pwr.brown.isSome || (ptpWaits s && !s.boot.timeSync && !s.boot.waitOver) then .next s
  else
    let held := s.boot.heldEvents
    let ms := sat 16 ((s.now + 2 ^ 64 - s.boot.timeStep % 2 ^ 64) % 2 ^ 64 / 1000000)
    let s := restoreStore s
    let s := { s with boot := { s.boot with stage := 6, readyAt := some s.now, bootMs := ms, heldEvents := [] } }
    let s := raise s srcCore evBootReady [s.boot.slot, s.sec.svn, s.boot.cause, ms, s.boot.fenced.length, s.boot.timeStep] []
    let s := held.foldl (fun s x => deliverEvt s (maskBasins x.1) x.2) s
    let s := if s.boot.reverted then raise s srcCore evFwReverted [s.boot.slot, s.boot.abandoned] [] else s
    .next (settleMode s)

/-! ### Confirmation, watchdog and restart (R503, R507, R508, R518, R538) -/

/-- A trial image is confirmed (R507): both records are stored, and FW.CONFIRMED is raised. -/
def confirmFw (s : State) : State :=
  let x := s.sec
  let rev := x.key0Revoked || x.revoke0
  let s := { s with sec := { x with minSvn := x.svn, key0Revoked := rev }, boot := { s.boot with trial := false } }
  let w := slotWord s
  let s := storeWriteNow s (slotRecord (slotWith w (slotPref w) false (slotTries w) none))
  let s := storeWriteNow s { type := 0x13, index := 0, len := 40, seq := 0, macd := true, payload := [s.sec.minSvn, b2n rev] }
  raise s srcCore evFwConfirmed [s.boot.slot, s.sec.svn, b2n rev] []

/-- CONFIRM_S in ns; 0 is read as 600 (R517). -/
def confirmNs (s : State) : Nat :=
  let n := fld s.boot.bootCfgInForce.toNat 16 31
  1000000000 * (if n = 0 then 600 else n)

/-- CONFIRM_TIMEOUT (R507): CONFIRM_S seconds in READY confirm a trial image. -/
def execConfirmTimeout (s : State) : Res :=
  if s.boot.stage = 6 && s.boot.trial && s.boot.readyAt.any (· + confirmNs s ≤ s.now) && storeReady s && !s.store.faulted then
    .next (confirmFw s)
  else .next s

/-- SP0_WATCHDOG_EXPIRY (R508): firmware has not serviced the watchdog for 1 s. -/
def execSp0WatchdogExpiry (s : State) : Res :=
  if 3 ≤ s.boot.stage && s.boot.stage ≤ 6 then .next (askRestart s s.now 4) else .next s

/-- MOD_RESET (R538): MOD_RESET# low for at least 10 ms. -/
def execModReset (lowNs : Nat) (s : State) : Res :=
  if s.pwr.inputOn && s.boot.stage != 9 && 10000000 ≤ lowNs then .next (askRestart s s.now 6) else .next s

/-- The restart runs now: when a host or the management pins have asked for it, a store write or swap in progress completes first (R520,
R554). -/
def restartRuns (s : State) : Option Nat :=
  match s.boot.restartDue with
  | some (t, c) =>
    if s.now < t || !s.pwr.inputOn || ((c == 2 || c == 6) && !s.store.faulted && (!s.store.waiting.isEmpty || s.store.swapping)) then none else some c
  | none => none

/-- MODULE_RESTART (R503): everything outside the store is lost, and the boot runs again. -/
def execModuleRestart (s : State) : Res :=
  match restartRuns s with
  | some c => .next (runBoot (loseAll s) c (sat 16 (s.boot.restarts + 1)) s.boot.recover)
  | none => .next s

/-! ### PTP (R360, R394, R395, R504) -/

def ptpFld (s : State) (lo hi : Nat) : Nat := fld s.eth.ptp.cfg.toNat lo hi

/-- The transport that ETH_PTP_CFG selects: 3 is read as 0 (R394). -/
def ptpTransport (s : State) : Nat := if ptpFld s 2 3 = 3 then 0 else ptpFld s 2 3

def setPtp (s : State) (f : Ptp → Ptp) : State := { s with eth := { s.eth with ptp := f s.eth.ptp } }

/-- The selection is given up: LOCKED clears, and the timebase holds over (R360, R395). -/
def ptpLose (s : State) : State :=
  setPtp s fun p => { p with source := none, locked := false, t1 := none, t2 := none, t3 := none, waitFollow := false, slew := 0, judged := false }

/-- A time plus a signed offset. -/
def addTime (t : Nat) (d : Int) : Nat := unsigned 64 ((t : Int) + d)

/-- The timebase steps: marks of durations in progress move with it, so that these keep their length (R32, R504). -/
def stepTime (s : State) (d : Int) : State :=
  let at_ (t : Nat) : Nat := addTime t d
  let dom (x : Dom) : Dom := { x with idleSince := at_ x.idleSince, wakeAt := at_ x.wakeAt }
  let ford (f : Ford) : Ford := { f with lastFlit := at_ f.lastFlit, peerCtrAt := at_ f.peerCtrAt, retryAt := f.retryAt.map at_, lmAt := f.lmAt.map at_ }
  let p := s.pwr
  { s with
    now := at_ s.now
    boot := { s.boot with
      linksAt := s.boot.linksAt.map at_, timeSync := true, timeStep := unsigned 64 d
      restartDue := s.boot.restartDue.map fun r => (at_ r.1, r.2) }
    sec := { s.sec with lastSelftest := at_ s.sec.lastSelftest }
    fords := { s.fords with fords := s.fords.fords.map ford }
    mgmt := { s.mgmt with hostAt := s.mgmt.hostAt.map at_ }
    tiers := { s.tiers with errs := s.tiers.errs.map fun e => { e with times := e.times.map at_ } }
    pwr := { p with
      doms := p.doms.map dom, serGood := p.serGood.map at_, atFloorSince := p.atFloorSince.map at_, lastStep := at_ p.lastStep
      metSince := p.metSince.map at_, busRetryAt := at_ p.busRetryAt, lastLoop := at_ p.lastLoop
      hot := p.hot.map fun h => (h.1, at_ h.2)
      warn := p.warn.map fun w => { w with start := at_ w.start, returned := w.returned.map at_ }
      brown := p.brown.map fun b => { b with start := at_ b.start, begun := at_ b.begun, good := b.good.map at_ } } }

/-- A measured offset (R504): the first lock in LINKS steps the timebase; later an offset of 1 ms or less is slewed out, and a larger one
leaves LOCKED clear and is reported. -/
def ptpMeasure (s : State) (off : Int) : State :=
  let was := s.eth.ptp
  let s := setPtp s fun p => { p with offset := off, judged := true }
  if s.boot.stage = 5 && ptpWaits s && !s.boot.waitOver && !s.boot.timeSync then
    setPtp (stepTime s (-off)) fun p => { p with locked := true, slew := 0 }
  else if off.natAbs ≤ 1000000 then
    let s := setPtp s fun p => { p with locked := true, slew := off }
    { s with boot := { s.boot with timeSync := true } }
  else
    let s := setPtp s fun p => { p with locked := false, slew := 0 }
    if was.locked || !was.judged then raise s srcCore evBootTimeUnsynced [unsigned 64 off] [] else s

/-- Both times of a Sync are known: the delay is asked for. -/
def askDelay (s : State) (port : Nat) : State :=
  sendUncontrolled (setPtp s fun p => { p with waitFollow := false, t3 := some s.now }) port (.delayReq (ptpTransport s) (ptpFld s 8 15) s.now)

/-- Half of a signed number, toward zero. -/
def half (i : Int) : Int := i.tdiv 2

/-- What a message of the selected port, transport and domain does (R360, R504). -/
def takePtp (s : State) (port : Nat) (m : PtpMsg) : State :=
  let p := s.eth.ptp
  match m with
  | .announce src best =>
    if best && p.source != some src then setPtp (ptpLose s) (fun p => { p with source := some src }) else s
  | .sync src twoStep t1 t2 =>
    if p.source != some src then s
    else if twoStep then setPtp s fun p => { p with t1 := none, t2 := some t2, t3 := none, waitFollow := true }
    else askDelay (setPtp s fun p => { p with t1 := some t1, t2 := some t2 }) port
  | .followUp src t1 =>
    if p.source != some src || !p.waitFollow then s else askDelay (setPtp s fun p => { p with t1 := some t1 }) port
  | .delayResp src t3 t4 =>
    match p.t1, p.t2, p.t3 with
    | some t1, some t2, some t =>
      if p.source != some src || t3 != t then s
      else
        let off := half (((t2 : Int) - t1) - ((t4 : Int) - t))
        ptpMeasure (setPtp s fun p => { p with t3 := none }) off
    | _, _, _ => s

/-- PTP_MESSAGE (R360): a frame of the uncontrolled port, on the port, transport and domain selected. -/
def execPtpMessage (f : RxFrame) (m : PtpMsg) (s : State) : Res :=
  if ptpFld s 0 0 != 1 || f.port != ptpFld s 1 1 || !portLink s f.port then .next s
  else .next (portTakes s f fun s =>
    if f.ptpTransport.isNone then count s 5 f.port 0 2 1
    else if f.ptpTransport != some (ptpTransport s) || f.ptpDomain != ptpFld s 8 15 then s
    else match f.ptp m with
      | none => count s 5 f.port 0 2 1
      | some m => takePtp (count s 5 f.port 0 0 1) f.port m)

/-- PTP_TRANSMITTER_LOST (R395). -/
def execPtpTransmitterLost (s : State) : Res := .next (ptpLose s)

end Sys2Proof.Machine
end

