-- ==== Sys2Proof/Machine/Logs.lean ====
section
/-! DEFINITION. The commands that read the logs and the counters, subscription and echo, and the folding of local counts
(R377, R522, R525 to R534). -/

namespace Sys2Proof.Machine

/-- An entry of the event log as 96 bytes (R525). -/
def logEntryWord (e : LogEntry) : Nat :=
  e.evt.code + 2 ^ 16 * (8 * e.evt.payload.length) + 2 ^ 32 * e.evt.src + 2 ^ 48 * e.basins + 2 ^ 64 * e.evt.sseq +
    2 ^ 96 * e.lseq + 2 ^ 128 * e.evt.time + 2 ^ 192 * ofLe ((e.evt.payload.take 9).map (le 8)).flatten

/-- The oldest LSEQ of a ring, and the next (R526). -/
def ringOldest (ring : List LogEntry) (next : Nat) : Nat := (ring.head?.map (·.lseq)).getD next

/-- Entries of a ring from an LSEQ onward, by serial arithmetic (R523, R526). -/
def ringFrom (ring : List LogEntry) (start : Nat) : List LogEntry :=
  ring.filter fun e => e.lseq == start || seqBefore start e.lseq

/-- LOG_READ (R526). A basin gets the entries addressed to it, the administration basin all of them. -/
def execLogRead (h : Hdr) (start max : Nat) (s : State) : Res :=
  hostCmd s h 0x0C00 false none (.logRead h start max) fun s =>
    if max < 1 || 128 < max then reply s h 0x0C00 stDescInvalid []
    else
      let lg := s.logs
      let es := ((ringFrom lg.ring start).filter fun e => isAdmin s h.basin || bitAt e.basins h.basin).take max
      reply s h 0x0C00 stOk ([.u32 (ringOldest lg.ring lg.lseq), .u32 lg.lseq, .u32 lg.lost, .u16 es.length] ++
        es.map fun e => .record 96 (logEntryWord e))

/-- The fault records in the store, in FSEQ order (R527). -/
def faultWords (s : State) : List Nat :=
  let l := (liveRecs (activeBank s.store)).filter fun r => r.type == 0x50
  sortBy (fun a b => !seqBefore (fld b 0 31) (fld a 0 31)) (l.map fun r => r.payload.headD 0)

/-- LOG_FAULTS (R528). A basin gets its own records, the administration basin every one. -/
def execLogFaults (h : Hdr) (start max : Nat) (s : State) : Res :=
  hostCmd s h 0x0C01 false none (.logFaults h start max) fun s =>
    if max < 1 || 64 < max then reply s h 0x0C01 stDescInvalid []
    else
      let ws := faultWords s
      let mine := ws.filter fun w => (fld w 0 31 == start || seqBefore start (fld w 0 31)) &&
        (isAdmin s h.basin || (fld w 128 131 == h.basin && !bitAt w 132))
      let ws' := mine.take max
      reply s h 0x0C01 stOk ([.u32 ((ws.head?.map (fld · 0 31)).getD s.logs.fseq), .u32 s.logs.fseq, .u16 ws'.length] ++
        ws'.map fun w => .record 64 w)

/-- The number of indices of a set, none for an unknown set (R529). -/
def setSize : Nat → Option Nat
  | 0 => some 256
  | 1 => some 16
  | 2 => some 8
  | 3 => some 16
  | 4 => some 48
  | 5 => some 2
  | 6 => some 65536
  | _ => none

/-- A basin may read a set (R529). -/
def maySee (s : State) (b set index : Nat) : Bool :=
  isAdmin s b || set == 6 ||
    (let w := ((basinOf s b).map fun x => x.word.toNat).getD 0
     (set == 0 && (bitAt w (192 + index) || bitAt w (128 + index / 16))) ||
     (set == 1 && (bitAt w (128 + index) || fld w (192 + 16 * index) (192 + 16 * index + 15) != 0)) ||
     (set == 4 && bitAt w (144 + index)))

/-- The counters of a set as SP0 holds them (R522). -/
def ctrVals (l : List CtrSet) (set index basin : Nat) : List Nat :=
  ((l.find? fun c => c.set == set && c.index == index && c.basin == basin).map (·.vals)).getD
    (List.replicate (ctrWidth set) 0)

/-- LOG_COUNTERS (R529 to R534). -/
def execLogCounters (h : Hdr) (set index : Nat) (s : State) : Res :=
  hostCmd s h 0x0C02 false none (.logCounters h set index) fun s =>
    match setSize set with
    | none => reply s h 0x0C02 stDescInvalid []
    | some n =>
      if n ≤ index then reply s h 0x0C02 stDescInvalid []
      else if !maySee s h.basin set index then reply s h 0x0C02 stNotPermitted []
      else reply s h 0x0C02 stOk (.u64 s.now :: (ctrVals s.logs.ctrs set index (if set = 6 then h.basin else 0)).map .u64)

/-- LOG_SUBSCRIBE (R377): bit n subscribes to event family n. -/
def execLogSubscribe (h : Hdr) (mask : BitVec 64) (s : State) : Res :=
  hostCmd s h 0x0C03 false none (.logSubscribe h mask) fun s =>
    reply (setLink s h.basin fun l => { l with subs := mask }) h 0x0C03 stOk []

/-- TEST_ECHO (R377): the same bytes. -/
def execTestEcho (h : Hdr) (bytes : List Byte) (s : State) : Res :=
  hostCmd s h 0x0802 false none (.testEcho h bytes) fun s => reply s h 0x0802 stOk [.bytes bytes]

/-- Add one set of local counts into SP0's (R522). -/
def foldSet (l : List CtrSet) (c : CtrSet) : List CtrSet :=
  (c.vals.zipIdx).foldl (fun l v => if v.1 = 0 then l else ctrAdd l c.set c.index c.basin v.2 v.1) l

/-- Counts that the commands do not determine (R532, R533, log entry 116), as set, index and field: the traffic of a stack or package
beside that of steps, link corrections, and how many flits the LM frames of a trained ford take on its two lanes. -/
def openCounts (s : State) : List (Nat × Nat × Nat) :=
  let mem (set n : Nat) (fields : List Nat) : List (Nat × Nat × Nat) :=
    ((List.range n).map fun i => fields.map fun f => (set, i, f)).flatten
  mem 2 8 [0, 1] ++ mem 3 16 [0, 1, 5] ++
    ((List.range 48).filter fun n => (s.fords.fords.getD n {}).trained).map fun n => (4, n, 0)

/-- Such a count grows by a free value. -/
def addOpen (s : State) (x : Nat × Nat × Nat) : State :=
  let (k, s) := drawPick s
  count s x.1 x.2.1 0 x.2.2 k

/-- Every unit's local counts go into SP0's counters (R522). -/
def foldCounters (s : State) : State :=
  let s := (openCounts s).foldl addOpen s
  { s with logs := { s.logs with ctrs := s.logs.localCtrs.foldl foldSet s.logs.ctrs, localCtrs := [] } }

/-- COUNTER_FOLD (R522): every 1 ms. -/
def execCounterFold (s : State) : Res := .next (foldCounters s)

end Sys2Proof.Machine
end

