-- ==== Sys2Proof/Machine/Registers.lean ====
section
/-! DEFINITION. The control space: REG.READ and REG.WRITE, and the registers whose writes do more than store (R372, R390 to R394, R443 to
R445, R507, R516 to R518). -/

namespace Sys2Proof.Machine

/-! ### Which address is which register (R391) -/

inductive Reg where
  | bootStatus
  | bootCfg
  | fwCtrl
  | pwrStatus
  | pwrLimit
  | pwrHealth
  | domState (n : Nat)
  | secStatus
  | memCtrl
  | portCtrl (n : Nat)
  | portStatus (n : Nat)
  | ptpCfg
  | woreoCfg
  | frdCtrl (n : Nat)
  | frdStatus (n : Nat)
  | frdPartner (n : Nat)
  | frdErrA (n : Nat)
  | frdErrB (n : Nat)
  deriving DecidableEq, Repr

/-- The ford register at an offset in the ford range (R443 to R445). -/
def fordReg (off : Nat) : Option Reg :=
  let n := off / 0x400
  if 48 ≤ n then none
  else match off % 0x400 with
    | 0x00 => some (.frdCtrl n)
    | 0x08 => some (.frdStatus n)
    | 0x10 => some (.frdPartner n)
    | 0x18 => some (.frdErrA n)
    | 0x20 => some (.frdErrB n)
    | _ => none

/-- The register at an address, none where no register lies (R390, R391). -/
def regAt (a : Nat) : Option Reg :=
  if a = 0x0 then some .bootStatus
  else if a = 0x8 then some .bootCfg
  else if a = 0x10 then some .fwCtrl
  else if a = 0x10000 then some .pwrStatus
  else if a = 0x10008 then some .pwrLimit
  else if a = 0x10010 then some .pwrHealth
  else if 0x10100 ≤ a && a < 0x10160 && a % 8 = 0 then some (.domState ((a - 0x10100) / 8))
  else if a = 0x20000 then some .secStatus
  else if a = 0x30000 then some .memCtrl
  else if a = 0x40000 || a = 0x41000 then some (.portCtrl ((a - 0x40000) / 0x1000))
  else if a = 0x40008 || a = 0x41008 then some (.portStatus ((a - 0x40000) / 0x1000))
  else if a = 0x42000 then some .ptpCfg
  else if a = 0x43000 then some .woreoCfg
  else if 0x50000 ≤ a && a < 0x60000 then fordReg (a - 0x50000)
  else none

/-! ### Values read -/

/-- STW_BOOT_STATUS (R516). -/
def bootStatus (s : State) : Nat :=
  let b := s.boot
  b.stage + b2n (b.slot == 1) * 2 ^ 4 + b2n b.trial * 2 ^ 5 + b.triesLeft % 4 * 2 ^ 6 + b.cause % 8 * 2 ^ 8 + b2n b.reverted * 2 ^ 11 +
    b2n b.fullRan * 2 ^ 12 + b2n b.timeSync * 2 ^ 13 + sat 16 b.fenced.length * 2 ^ 16 + sat 16 b.bootMs * 2 ^ 32 + sat 16 b.restarts * 2 ^ 48

/-- ETH_PORT_STATUS (R393). -/
def portStatus (s : State) (n : Nat) : Nat :=
  match s.eth.ports[n]? with
  | none => 0
  | some p =>
    let auto := fld p.ctrl.toNat 1 2 == 0 || fld p.ctrl.toNat 1 2 == 3
    b2n p.linkUp + p.rateNow % 4 * 2 + b2n (auto && p.rateNow == 2) * 2 ^ 3 + p.lanes % 16 * 2 ^ 4 + b2n (hasSak s n) * 2 ^ 8 +
      ofLe (portMac n) * 2 ^ 16

/-- A signed number held in 32 bits that saturates. -/
def satS32 (i : Int) : Nat := unsigned 32 (max (-(2 ^ 31 : Int)) (min (2 ^ 31 - 1) i))

/-- ETH_PTP_CFG (R394). -/
def ptpCfgRead (s : State) : Nat :=
  let p := s.eth.ptp
  p.cfg.toNat + b2n p.locked * 2 ^ 4 + satS32 p.offset * 2 ^ 32

/-- What a basin reads from a register; WO bits read as 0 (R390). -/
def regValue (s : State) (b : Nat) : Reg → Nat
  | .bootStatus => bootStatus s
  | .bootCfg => s.boot.bootCfg.toNat
  | .fwCtrl => 0
  | .pwrStatus => pwrStatusReg s
  | .pwrLimit => s.pwr.limitCfg.toNat
  | .pwrHealth => pwrHealth s
  | .domState n => domStateReg s n
  | .secStatus => secStatus s
  | .memCtrl => s.tiers.memCtrl.toNat
  | .portCtrl n => portCtrl s n
  | .portStatus n => portStatus s n
  | .ptpCfg => ptpCfgRead s
  | .woreoCfg => cfgOf s b
  | .frdCtrl n => b2n (fordOf s n).enable
  | .frdStatus n => frdStatus (fordOf s n)
  | .frdPartner n => (fordOf s n).serial
  | .frdErrA n => frdErrA (fordOf s n)
  | .frdErrB n => frdErrB (fordOf s n)

/-- REG.READ (R390). No register of this module has RC fields. -/
def execRegRead (h : Hdr) (addr count : Nat) (s : State) : Res :=
  hostCmd s h 0x0700 false none (.regRead h addr count) fun s =>
    if count < 1 || 128 < count then reply s h 0x0700 stDescInvalid []
    else
      let rs := (List.range count).map fun k => regAt (addr + 8 * k)
      if rs.any (·.isNone) then reply s h 0x0700 stRegInvalid []
      else reply s h 0x0700 stOk (rs.filterMap fun r => r.map fun r => .u64 (regValue s h.basin r))

/-! ### Writes -/

/-- The writable bits of the plain registers (R230, R372, R392, R394, R517). -/
def bootCfgMask : BitVec 64 := 0xFFFFFF03
def memCtrlMask : BitVec 64 := 0x0000FFFF01FFFFFF
def portCtrlMask : BitVec 64 := 0xFFF7F
def ptpCfgMask : BitVec 64 := 0xFF0F
def woreoCfgMask : BitVec 64 := 0x3FFFFF0FFFFFFFFF
/-- The W1C bits of PWR_HEALTH (R497). -/
def healthMask : BitVec 64 := 0x003F00000000003F

/-- The bits that a write sets to 1. -/
def setBits (mask value : BitVec 64) : Nat := (mask &&& value).toNat

/-- The reply to a REG.WRITE: the value after the write (R377). -/
def regReply (s : State) (h : Hdr) (r : Reg) : State := reply s h 0x0701 stOk [.u64 (regValue s h.basin r)]

/-- ETH_PORT_CTRL (R392, R395): the reply is queued before a retrain; MACSEC_REQ is measured, and the security mode follows (R449,
R457). -/
def writePortCtrl (s : State) (h : Hdr) (n : Nat) (mask value : BitVec 64) : State :=
  let old := BitVec.ofNat 64 (portCtrl s n)
  let new := maskWrite old mask value portCtrlMask
  let s := { s with eth := { s.eth with ports := s.eth.ports.modify n fun p => { p with ctrl := new } } }
  let s := regReply s h (.portCtrl n)
  let changed := fld old.toNat 1 4 != fld new.toNat 1 4
  let s := if changed || !bitAt new.toNat 0 then dropPort s n else s
  let s := if bitAt old.toNat 5 = bitAt new.toNat 5 then s else measureCfg s
  settleMode s

/-- FRD_CTRL (R441, R443, R445): ENABLE, RETRAIN and CLR_CNT. A ford that a slice has bound keeps its lanes. -/
def writeFrdCtrl (s : State) (h : Hdr) (n : Nat) (mask value : BitVec 64) : State :=
  let f := fordOf s n
  let on := if bitAt mask.toNat 0 then bitAt value.toNat 0 else f.enable
  let retrain := bitAt (setBits mask value) 1
  if fordBound s (316 + n) && (!on || retrain) then reply s h 0x0701 stSliceBusy []
  else
    let s := setFord s n fun f => if bitAt (setBits mask value) 2 then { f with fecCorr := 0, fecUncorr := 0, crcErr := 0, retries := 0 } else f
    let s := setFord s n fun f => { f with enable := on }
    let ready := domOn s (316 + n) && !s.pwr.serHeld
    let s :=
      if !on then if f.enable then fordDown s n 1 0 else s
      else if ready && (retrain || !f.enable) then
        let s := if f.state = 9 then fordDown s n 3 0 else s
        setFord s n fun f => { f with state := 3, trained := false, retryAt := none }
      else s
    regReply s h (.frdCtrl n)

/-- STW_FW_CTRL (R507, R518): CONFIRM confirms a trial image, RESTART restarts the module 10 ms after the reply. -/
def writeFwCtrl (s : State) (h : Hdr) (mask value : BitVec 64) : State :=
  let bits := setBits mask value
  if bitAt bits 1 && s.boot.trial && s.store.faulted then reply s h 0x0701 stStoreFault []
  else
    let s := if bitAt bits 1 && s.boot.trial then confirmFw s else s
    let s := regReply s h .fwCtrl
    if bitAt bits 0 then askRestart s (s.now + 10000000) 2 else s

/-- STW_BOOT_CFG (R517): stored before the reply, for the next boot. -/
def writeBootCfg (s : State) (h : Hdr) (mask value : BitVec 64) : State :=
  if s.store.faulted then reply s h 0x0701 stStoreFault []
  else
    let new := maskWrite s.boot.bootCfg mask value bootCfgMask
    let w := slotWord s
    let s := storeWriteNow s (slotRecord (w % 2 ^ 128 + new.toNat * 2 ^ 128))
    regReply { s with boot := { s.boot with bootCfg := new } } h .bootCfg

/-- A write of a basin to a register (R390). RO registers keep their value. -/
def writeReg (s : State) (h : Hdr) (mask value : BitVec 64) : Reg → State
  | .bootCfg => writeBootCfg s h mask value
  | .fwCtrl => writeFwCtrl s h mask value
  | .pwrLimit => regReply (setLimitCfg s (maskWrite s.pwr.limitCfg mask value limitMask)) h .pwrLimit
  | .pwrHealth => regReply { s with pwr := { s.pwr with health := s.pwr.health &&& ~~~(mask &&& value &&& healthMask) } } h .pwrHealth
  | .memCtrl => regReply { s with tiers := { s.tiers with memCtrl := maskWrite s.tiers.memCtrl mask value memCtrlMask } } h .memCtrl
  | .portCtrl n => writePortCtrl s h n mask value
  | .ptpCfg =>
    let new := maskWrite s.eth.ptp.cfg mask value ptpCfgMask
    let s := if new = s.eth.ptp.cfg then s else ptpLose (setPtp s fun p => { p with cfg := new })
    regReply s h .ptpCfg
  | .woreoCfg => regReply (setLink s h.basin fun l => { l with woreoCfg := maskWrite l.woreoCfg mask value woreoCfgMask }) h .woreoCfg
  | .frdCtrl n => writeFrdCtrl s h n mask value
  | .bootStatus => regReply s h .bootStatus
  | .pwrStatus => regReply s h .pwrStatus
  | .domState n => regReply s h (.domState n)
  | .secStatus => regReply s h .secStatus
  | .portStatus n => regReply s h (.portStatus n)
  | .frdStatus n => regReply s h (.frdStatus n)
  | .frdPartner n => regReply s h (.frdPartner n)
  | .frdErrA n => regReply s h (.frdErrA n)
  | .frdErrB n => regReply s h (.frdErrB n)

/-- A write of the register may have to be stored before its reply (R507, R517). -/
def writeStores : Reg → Bool
  | .bootCfg => true
  | .fwCtrl => true
  | _ => false

/-- The write waits for the store (R474, R493): a RESTART without a CONFIRM of a trial image stores nothing (R518). -/
def writeWaits (s : State) (mask value : BitVec 64) (r : Reg) : Bool :=
  writeStores r && !storeReady s && (r != .fwCtrl || (bitAt (setBits mask value) 1 && s.boot.trial))

/-- A REG.WRITE at an address (R390): a module register is written only with the administration right. -/
def regWriteAt (s : State) (h : Hdr) (addr : Nat) (mask value : BitVec 64) : Res :=
  if (regAt addr).any (writeWaits s mask value) then .next s
  else hostCmd s h 0x0701 false none (.regWrite h addr mask value) fun s =>
    match regAt addr with
    | none => reply s h 0x0701 stRegInvalid []
    | some r =>
      if r != .woreoCfg && !isAdmin s h.basin then reply s h 0x0701 stNotPermitted []
      else writeReg s h mask value r

/-- REG_WRITE (R390). -/
def execRegWrite (h : Hdr) (addr : Nat) (mask value : BitVec 64) (s : State) : Res := regWriteAt s h addr mask value

/-- ETH_PORT_CTRL_WRITE (R392). -/
def execEthPortCtrlWrite (h : Hdr) (n : Nat) (mask value : BitVec 64) (s : State) : Res :=
  if n < 2 then regWriteAt s h (0x40000 + 0x1000 * n) mask value else .next s

/-- FRD_ENABLE_WRITE (R443). -/
def execFrdEnableWrite (h : Hdr) (ford : Nat) (mask value : BitVec 64) (s : State) : Res :=
  if ford < 48 then regWriteAt s h (0x50000 + 0x400 * ford) mask value else .next s

/-- FRD_RETRAIN (R443). -/
def execFrdRetrain (h : Hdr) (ford : Nat) (mask value : BitVec 64) (s : State) : Res :=
  if ford < 48 then regWriteAt s h (0x50000 + 0x400 * ford) mask value else .next s

/-- FRD_CLR_CNT (R443, R445). -/
def execFrdClrCnt (h : Hdr) (ford : Nat) (mask value : BitVec 64) (s : State) : Res :=
  if ford < 48 then regWriteAt s h (0x50000 + 0x400 * ford) mask value else .next s

/-- RESTART (R518). -/
def execRestart (h : Hdr) (mask value : BitVec 64) (s : State) : Res := regWriteAt s h 0x10 mask value

/-- CONFIRM (R507, R518). -/
def execConfirm (h : Hdr) (mask value : BitVec 64) (s : State) : Res := regWriteAt s h 0x10 mask value

/-- STW_BOOT_CFG_WRITE (R517). -/
def execStwBootCfgWrite (h : Hdr) (mask value : BitVec 64) (s : State) : Res := regWriteAt s h 0x8 mask value

/-- PWR_LIMIT_CFG_WRITE (R494): it takes effect at once and is not stored. -/
def execPwrLimitCfgWrite (h : Hdr) (mask value : BitVec 64) (s : State) : Res := regWriteAt s h 0x10008 mask value

end Sys2Proof.Machine
end

