-- ==== Sys2Proof/Machine/Mgmt.lean ====
section
/-! DEFINITION. The management port's codes, its pins, and the test access port (R508, R514, R515, R538, R544 to R549, R554). -/

namespace Sys2Proof.Machine

/-! ### Replies and pins -/

/-- Status bytes of R545. -/
abbrev mgOk : Nat := 0x00
abbrev mgNotReady : Nat := 0x02
abbrev mgNotPermitted : Nat := 0x03
abbrev mgInvalid : Nat := 0x04
abbrev mgPec : Nat := 0x05

def setMgmt (s : State) (f : Mgmt → Mgmt) : State := { s with mgmt := f s.mgmt }

/-- The port's reply to a request. -/
def mgReply (s : State) (status : Nat) (data : List Byte) : State :=
  setMgmt s fun m => { m with replies := m.replies ++ [{ status := status, data := data }] }

/-- A PEC failure is counted and entered in the event log (R549). -/
def pecFailed (s : State) : State := raise (setMgmt s fun m => { m with pecFails := m.pecFails + 1 }) srcStewipen evPwrSensorFail [0xFF, 3] []

/-- A request: answered while the input is within range, with its PEC right, and only in the stages that serve its code (R544, R545). -/
def mgCode (s : State) (pec : Bool) (stages : List Nat) (body : State → State) : Res :=
  if !s.pwr.inputOn then .next s
  else if !pec then .next (mgReply (pecFailed s) mgPec [])
  else if stages.contains s.boot.stage then .next (body s) else .next (mgReply s mgNotReady [])

/-- MG_ALERT# is low: the ring holds an entry not yet read (R546). -/
def alertLow (s : State) : Bool :=
  (s.logs.mgRing.getLast?).any fun e => e.lseq == s.logs.mgRead || seqBefore s.logs.mgRead e.lseq

/-- FAULT# is low (R538). -/
def faultLow (s : State) : Bool := s.boot.stage == 8 || s.sec.mode == 2 || s.pwr.brown.isSome

/-! ### Reading (R546) -/

/-- MG_STATUS (R546). -/
def execMgStatus (pec : Bool) (s : State) : Res :=
  mgCode s pec (List.range 10) fun s =>
    mgReply s mgOk (le 1 s.boot.stage ++ le 8 (bootStatus s) ++ le 8 (pwrStatusReg s) ++ le 8 (secStatus s))

/-- MG_SENSORS (R546). -/
def execMgSensors (pec : Bool) (s : State) : Res :=
  mgCode s pec [3, 4, 5, 6, 7, 8] fun s =>
    mgReply s mgOk ((List.range 32).map (tempByte s) ++ le 2 s.pwr.vin ++ le 2 (pinW s))

/-- MG_EVENTS (R546): up to two entries of the management ring; those read no longer hold MG_ALERT# low. -/
def execMgEvents (pec : Bool) (start : Nat) (s : State) : Res :=
  mgCode s pec [3, 4, 5, 6, 8] fun s =>
    let lg := s.logs
    let es := (ringFrom lg.mgRing start).take 2
    let s := mgReply s mgOk (le 4 (ringOldest lg.mgRing lg.mgLseq) ++ le 4 lg.mgLseq ++ (es.map fun e => le 96 (logEntryWord e)).flatten)
    match es.getLast? with
    | some e => if seqBefore e.lseq lg.mgRead then s else { s with logs := { s.logs with mgRead := wrap 32 (e.lseq + 1) } }
    | none => s

/-- MG_FAULTS (R546): up to three records of the fault log. -/
def execMgFaults (pec : Bool) (start : Nat) (s : State) : Res :=
  mgCode s pec [3, 4, 5, 6, 7, 8] fun s =>
    let ws := faultWords s
    let l := (ws.filter fun w => fld w 0 31 == start || seqBefore start (fld w 0 31)).take 3
    mgReply s mgOk (le 4 ((ws.head?.map (fld · 0 31)).getD s.logs.fseq) ++ le 4 s.logs.fseq ++ (l.map (le 64)).flatten)

/-- MG_SELFTEST (R546): up to five records of the boot run. -/
def execMgSelftest (pec : Bool) (first : Nat) (s : State) : Res :=
  mgCode s pec [4, 5, 6, 7, 8] fun s =>
    mgReply s mgOk (((s.boot.bootRecs.drop first).take 5).map fun r => le 48 (bistWord r)).flatten

/-! ### Restart and wake (R489, R546, R554) -/

/-- MG_RESTART (R546): a restart with cause MGMT_PORT. -/
def execMgRestart (pec : Bool) (s : State) : Res :=
  mgCode s pec [0, 1, 2, 3, 4, 5, 6, 7, 8] fun s => askRestart (mgReply s mgOk []) s.now 6

/-- MG_WAKE (R489, R546): only in standby. -/
def execMgWake (pec : Bool) (s : State) : Res :=
  mgCode s pec [6] fun s => if s.pwr.standbyUntil.isSome then mgReply (leaveStandby s) mgOk [] else mgReply s mgNotReady []

/-! ### The administration right (R404, R547, R548) -/

/-- ADMIN_HOSTS and ADMIN_MOVE are accepted (R548). -/
def mgMayAdmin (s : State) : Bool :=
  s.boot.recover || (basinOf s s.admin).any fun x => (x.host.local0 ++ x.host.local1).isEmpty

/-- The length that the first 8 bytes of a host record fix (R406, R547). -/
def hostRecLen (l : List Byte) : Nat := 8 + 16 * (byteAt l 0 + byteAt l 1 + byteAt l 2)

/-- The unfinished record is discarded. -/
def dropHostBuf (s : State) : State := setMgmt s fun m => { m with hostBuf := [], hostAt := none }

/-- A whole record has arrived: checked as BASIN.HOSTS is, stored and applied (R547). -/
def finishHosts (s : State) (rec : List Byte) : State :=
  let s := dropHostBuf s
  if s.store.faulted || hostsCheck s s.admin rec != stOk then mgReply s mgInvalid [] else mgReply (setHosts s s.admin rec) mgOk []

/-- MG_ADMIN_HOSTS (R547, R548): a piece of the host record of the administration basin. The piece that completes the record waits while
the store cannot write. -/
def execMgAdminHosts (pec : Bool) (offset : Nat) (piece : List Byte) (s : State) : Res :=
  let buf := if offset = 0 then [] else s.mgmt.hostBuf
  let l := buf ++ piece
  let full := 8 ≤ l.length && l.length == hostRecLen l
  let accepted := mgMayAdmin s && piece.length ≤ 240 && !piece.isEmpty && offset == buf.length
  if pec && full && accepted && !storeReady s then .next s
  else mgCode s pec [6] fun s =>
    if !mgMayAdmin s then mgReply s mgNotPermitted []
    else if piece.isEmpty || 240 < piece.length then mgReply s mgInvalid []
    else if offset != buf.length || (8 ≤ l.length && hostRecLen l < l.length) then mgReply (dropHostBuf s) mgInvalid []
    else if full then finishHosts s l
    else mgReply (setMgmt s fun m => { m with hostBuf := l, hostAt := some s.now }) mgOk []

/-- MG_ADMIN_HOSTS_TIMEOUT (R547): 10 s without a further piece. -/
def execMgAdminHostsTimeout (s : State) : Res :=
  if s.mgmt.hostAt.any (· + 10000000000 ≤ s.now) then .next (dropHostBuf s) else .next s

/-- The record of a basin with or without ADMIN. -/
def withAdmin (w : BitVec 1024) (on : Bool) : BitVec 1024 := if on then w ||| BitVec.ofNat 1024 16 else noAdmin w

/-- A basin's record takes or loses ADMIN, in the store and in force. -/
def setAdminBit (s : State) (b : Nat) (on : Bool) : State :=
  match basinOf s b with
  | none => s
  | some x =>
    let w := withAdmin x.word on
    let s := storeWriteNow s (basinRec w)
    { s with basins := updW (fun x => x.id == b) (fun x => { x with word := w }) s.basins }

/-- The administration right moves as BASIN.QUOTA moves it (R403). -/
def moveAdmin (s : State) (b : Nat) : State :=
  if s.admin = b then s
  else
    let s := setAdminBit (setAdminBit s b true) s.admin false
    raise { s with admin := b } srcCore evBasinChanged [b, 1] [b]

/-- MG_ADMIN_MOVE (R546, R548). -/
def execMgAdminMove (pec : Bool) (b : Nat) (s : State) : Res :=
  if pec && mgMayAdmin s && !storeReady s then .next s
  else mgCode s pec [6] fun s =>
    if !mgMayAdmin s then mgReply s mgNotPermitted []
    else if !basinLive s b || inTeardown s b || s.store.faulted then mgReply s mgInvalid []
    else mgReply (moveAdmin s b) mgOk []

/-! ### Image recovery (R508, R547) -/

/-- MG_IMAGE (R546, R547): a chunk of 240 bytes is programmed at a multiple of 240; slot 0 then holds no image until the commit. -/
def execMgImage (pec : Bool) (offset : Nat) (chunk : List Byte) (s : State) : Res :=
  mgCode s pec [7] fun s =>
    if offset % 240 != 0 || 67108864 ≤ offset || chunk.length != 240 then mgReply s mgInvalid []
    else
      let s := putSlotImage s 0 []
      mgReply (setMgmt s fun m => { m with imageChunks := dropW (fun c => c.1 == offset) m.imageChunks ++ [(offset, chunk)] }) mgOk []

/-- The bytes programmed so far, an erased byte reading as all ones. -/
def programmed (s : State) (len : Nat) : List Byte :=
  (((List.range (cdiv len 240)).map fun k =>
    ((s.mgmt.imageChunks.find? fun c => c.1 == 240 * k).map (·.2)).getD (List.replicate 240 0xFF)).flatten).take len

/-- MG_IMAGE_COMMIT (R508, R547): the image is checked under R456; slot 0 is then PREF without a trial, and the module restarts. -/
def execMgImageCommit (pec : Bool) (len : Nat) (s : State) : Res :=
  if pec && s.boot.stage = 7 && !storeReady s then .next s
  else mgCode s pec [7] fun s =>
    let img := if len ≤ 67108864 then programmed s len else []
    let s := setMgmt s fun m => { m with imageChunks := [] }
    if s.store.faulted || fwCheck s img != stOk then mgReply (putSlotImage s 0 []) mgInvalid []
    else
      let s := putSlotImage s 0 img
      let s := storeWriteNow s (slotRecord (slotWith (slotWord s) 0 false 0 (some (0, imgFld img 32 63))))
      askRestart (mgReply s mgOk []) s.now 6

/-- MG_BUS_TIMEOUT (R549): the interface is reset, counted, and entered in the event log. -/
def execMgBusTimeout (s : State) : Res :=
  if !s.pwr.inputOn then .next s
  else
    let s := setMgmt s fun m => { m with busResets := m.busResets + 1 }
    .next (raise s srcStewipen evPwrSensorFail [0xFF, 3] [])

/-! ### The test access port (R514, R515) -/

/-- IDCODE (R514). -/
def tapIdcode : BitVec 32 := 0x1F4730D3

/-- A number of levels as long as the boundary register. -/
def fit (l : List Bool) : List Bool := (List.range Config.boundaryLen).map fun k => l.getD k false

/-- An instruction of the TAP, with what its data register captures. -/
def setTap (s : State) (ir : TapIr) (dr : List Bool) (driven : List (Option Bool)) : State :=
  { s with tap := { s.tap with ir := ir, dr := dr, driven := driven } }

/-- The instructions that drive pins take effect only in TEST_HOLD (R515). -/
def inTestHold (s : State) : Bool := s.boot.stage == 9

/-- BYPASS (R514): the one-bit register captures 0. -/
def execBypass (s : State) : Res := if s.pwr.inputOn then .next (setTap s .bypass [false] []) else .next s

/-- IDCODE (R514). -/
def execIdcode (s : State) : Res :=
  if s.pwr.inputOn then .next (setTap s .idcode ((List.range 32).map fun k => tapIdcode.getLsbD k) []) else .next s

/-- SAMPLE/PRELOAD (R514, R515): the pins are sampled, and the boundary register is loaded. -/
def execSamplePreload (pins shifted : List Bool) (s : State) : Res :=
  if s.pwr.inputOn then
    let s := setTap s .sample (fit pins) []
    .next { s with tap := { s.tap with boundary := fit shifted } }
  else .next s

/-- The pins are driven from the boundary register. -/
def driveAll (s : State) : List (Option Bool) := (fit s.tap.boundary).map some

/-- EXTEST (R515). -/
def execExtest (pins : List Bool) (s : State) : Res :=
  if inTestHold s then .next (setTap s .extest (fit pins) (driveAll s)) else .next s

/-- CLAMP (R515): the pins hold the boundary register's levels, with the one-bit register selected. -/
def execClamp (s : State) : Res := if inTestHold s then .next (setTap s .clamp [false] (driveAll s)) else .next s

/-- HIGHZ (R515). -/
def execHighz (s : State) : Res :=
  if inTestHold s then .next (setTap s .highz [false] (List.replicate Config.boundaryLen none)) else .next s

/-- EXTEST_PULSE (R514, R515). -/
def execExtestPulse (pins : List Bool) (s : State) : Res :=
  if inTestHold s then .next (setTap s .extestPulse (fit pins) (driveAll s)) else .next s

/-- EXTEST_TRAIN (R514, R515). -/
def execExtestTrain (pins : List Bool) (s : State) : Res :=
  if inTestHold s then .next (setTap s .extestTrain (fit pins) (driveAll s)) else .next s

end Sys2Proof.Machine
end

