-- ==== Sys2Proof/Machine/Dispatch.lean ====
section
/-! DEFINITION. One arm for each command. -/

namespace Sys2Proof.Machine

def exec (i : Instr) (s : State) : Host.Outcome State Fault Refusal :=
  match i with
  | .modelCreate h mid ntensor addr hdrs pages => Sys2Proof.Machine.execModelCreate h mid ntensor addr hdrs pages s
  | .modelSeal h mid crcs => Sys2Proof.Machine.execModelSeal h mid crcs s
  | .sealVerifyComplete basin mid => Sys2Proof.Machine.execSealVerifyComplete basin mid s
  | .modelDelete h mid => Sys2Proof.Machine.execModelDelete h mid s
  | .modelQuery h mid => Sys2Proof.Machine.execModelQuery h mid s
  | .modelProgram h word => Sys2Proof.Machine.execModelProgram h word s
  | .modelRepair h mid page crc data => Sys2Proof.Machine.execModelRepair h mid page crc data s
  | .variantCreate h vid setPages set crcs daddr dlen => Sys2Proof.Machine.execVariantCreate h vid setPages set crcs daddr dlen s
  | .variantUpdate h vid setPages set crcs daddr dlen => Sys2Proof.Machine.execVariantUpdate h vid setPages set crcs daddr dlen s
  | .deltaVerifyComplete basin vid => Sys2Proof.Machine.execDeltaVerifyComplete basin vid s
  | .variantDelete h vid => Sys2Proof.Machine.execVariantDelete h vid s
  | .variantRetireComplete basin vid => Sys2Proof.Machine.execVariantRetireComplete basin vid s
  | .variantPin h vid pin => Sys2Proof.Machine.execVariantPin h vid pin s
  | .variantQuery h vid => Sys2Proof.Machine.execVariantQuery h vid s
  | .variantPrefetch h vid => Sys2Proof.Machine.execVariantPrefetch h vid s
  | .materialisationStart basin vid => Sys2Proof.Machine.execMaterialisationStart basin vid s
  | .materialisationComplete basin vid => Sys2Proof.Machine.execMaterialisationComplete basin vid s
  | .reqSubmit h blk tokens => Sys2Proof.Machine.execReqSubmit h blk tokens s
  | .reqCancel h tag => Sys2Proof.Machine.execReqCancel h tag s
  | .reqQuery h tag => Sys2Proof.Machine.execReqQuery h tag s
  | .reqGroup h word => Sys2Proof.Machine.execReqGroup h word s
  | .kvConfigure h word => Sys2Proof.Machine.execKvConfigure h word s
  | .kvQuery h conv => Sys2Proof.Machine.execKvQuery h conv s
  | .kvResume h conv => Sys2Proof.Machine.execKvResume h conv s
  | .kvDrop h conv => Sys2Proof.Machine.execKvDrop h conv s
  | .kvPrefixFlush h vid => Sys2Proof.Machine.execKvPrefixFlush h vid s
  | .kvStats h => Sys2Proof.Machine.execKvStats h s
  | .trainCreate h word => Sys2Proof.Machine.execTrainCreate h word s
  | .trainFeed h tid addr => Sys2Proof.Machine.execTrainFeed h tid addr s
  | .trainStart h tid => Sys2Proof.Machine.execTrainStart h tid s
  | .trainStop h tid => Sys2Proof.Machine.execTrainStop h tid s
  | .trainQuery h tid => Sys2Proof.Machine.execTrainQuery h tid s
  | .trainExport h tid => Sys2Proof.Machine.execTrainExport h tid s
  | .trainDelete h tid => Sys2Proof.Machine.execTrainDelete h tid s
  | .basinCreate h word => Sys2Proof.Machine.execBasinCreate h word s
  | .basinDestroy h b => Sys2Proof.Machine.execBasinDestroy h b s
  | .basinTeardownComplete b => Sys2Proof.Machine.execBasinTeardownComplete b s
  | .teardownFlushExpiry b => Sys2Proof.Machine.execTeardownFlushExpiry b s
  | .basinQuery h b => Sys2Proof.Machine.execBasinQuery h b s
  | .basinQuota h word => Sys2Proof.Machine.execBasinQuota h word s
  | .basinHosts h b word => Sys2Proof.Machine.execBasinHosts h b word s
  | .basinMap h addr pages kind tier => Sys2Proof.Machine.execBasinMap h addr pages kind tier s
  | .basinUnmap h addr pages => Sys2Proof.Machine.execBasinUnmap h addr pages s
  | .basinPlace h addr pages tier => Sys2Proof.Machine.execBasinPlace h addr pages tier s
  | .basinPageq h addr => Sys2Proof.Machine.execBasinPageq h addr s
  | .basinRead h addr len xid => Sys2Proof.Machine.execBasinRead h addr len xid s
  | .regRead h addr count => Sys2Proof.Machine.execRegRead h addr count s
  | .regWrite h addr mask value => Sys2Proof.Machine.execRegWrite h addr mask value s
  | .ethPortCtrlWrite h n mask value => Sys2Proof.Machine.execEthPortCtrlWrite h n mask value s
  | .frdEnableWrite h ford mask value => Sys2Proof.Machine.execFrdEnableWrite h ford mask value s
  | .frdRetrain h ford mask value => Sys2Proof.Machine.execFrdRetrain h ford mask value s
  | .frdClrCnt h ford mask value => Sys2Proof.Machine.execFrdClrCnt h ford mask value s
  | .restart h mask value => Sys2Proof.Machine.execRestart h mask value s
  | .confirm h mask value => Sys2Proof.Machine.execConfirm h mask value s
  | .stwBootCfgWrite h mask value => Sys2Proof.Machine.execStwBootCfgWrite h mask value s
  | .pwrLimitCfgWrite h mask value => Sys2Proof.Machine.execPwrLimitCfgWrite h mask value s
  | .testBist h scope target => Sys2Proof.Machine.execTestBist h scope target s
  | .bistComplete recs => Sys2Proof.Machine.execBistComplete recs s
  | .testResult h run => Sys2Proof.Machine.execTestResult h run s
  | .testEcho h bytes => Sys2Proof.Machine.execTestEcho h bytes s
  | .secAttest h nonce named => Sys2Proof.Machine.execSecAttest h nonce named s
  | .secCerts h => Sys2Proof.Machine.execSecCerts h s
  | .secFwUpdate h addr len => Sys2Proof.Machine.execSecFwUpdate h addr len s
  | .cakInstall h ports keyId ckn ciphertext wrapped => Sys2Proof.Machine.execCakInstall h ports keyId ckn ciphertext wrapped s
  | .sciBind h ports basin sci => Sys2Proof.Machine.execSciBind h ports basin sci s
  | .sciUnbind h ports basin sci => Sys2Proof.Machine.execSciUnbind h ports basin sci s
  | .secZeroize h eraseId => Sys2Proof.Machine.execSecZeroize h eraseId s
  | .pwrStatus h => Sys2Proof.Machine.execPwrStatus h s
  | .pwrDomain h domain op wakeS => Sys2Proof.Machine.execPwrDomain h domain op wakeS s
  | .standby h domain wakeS => Sys2Proof.Machine.execStandby h domain wakeS s
  | .pwrLimit h mask value => Sys2Proof.Machine.execPwrLimit h mask value s
  | .pwrStoreQuery h => Sys2Proof.Machine.execPwrStoreQuery h s
  | .pwrStoreSwap h => Sys2Proof.Machine.execPwrStoreSwap h s
  | .linkTopology h word => Sys2Proof.Machine.execLinkTopology h word s
  | .linkSliceBind h word => Sys2Proof.Machine.execLinkSliceBind h word s
  | .linkSliceUnbind h word => Sys2Proof.Machine.execLinkSliceUnbind h word s
  | .linkStatus h => Sys2Proof.Machine.execLinkStatus h s
  | .logRead h start max => Sys2Proof.Machine.execLogRead h start max s
  | .logFaults h start max => Sys2Proof.Machine.execLogFaults h start max s
  | .logCounters h set index => Sys2Proof.Machine.execLogCounters h set index s
  | .logSubscribe h mask => Sys2Proof.Machine.execLogSubscribe h mask s
  | .woreoSegmentReceive f => Sys2Proof.Machine.execWoreoSegmentReceive f s
  | .syn f => Sys2Proof.Machine.execSyn f s
  | .rtoExpiry basin flow seq => Sys2Proof.Machine.execRtoExpiry basin flow seq s
  | .ackDelayExpiry basin flow => Sys2Proof.Machine.execAckDelayExpiry basin flow s
  | .evtCoalesceExpiry basin => Sys2Proof.Machine.execEvtCoalesceExpiry basin s
  | .dataWriteResume basin => Sys2Proof.Machine.execDataWriteResume basin s
  | .queueRoomReturn basin flow => Sys2Proof.Machine.execQueueRoomReturn basin flow s
  | .tokSent basin flow => Sys2Proof.Machine.execTokSent basin flow s
  | .arpRequest f => Sys2Proof.Machine.execArpRequest f s
  | .neighbourSolicitation f => Sys2Proof.Machine.execNeighbourSolicitation f s
  | .icmpEcho f => Sys2Proof.Machine.execIcmpEcho f s
  | .ptpMessage f m => Sys2Proof.Machine.execPtpMessage f m s
  | .mkaFrame f ckn icvOk sak => Sys2Proof.Machine.execMkaFrame f ckn icvOk sak s
  | .ethLink port up partner lanes => Sys2Proof.Machine.execEthLink port up partner lanes s
  | .batchForm basin gid => Sys2Proof.Machine.execBatchForm basin gid s
  | .stepBind sid => Sys2Proof.Machine.execStepBind sid s
  | .stepBoundary sid => Sys2Proof.Machine.execStepBoundary sid s
  | .offstepSettle basin => Sys2Proof.Machine.execOffstepSettle basin s
  | .itemPrologue sid pos => Sys2Proof.Machine.execItemPrologue sid pos s
  | .windowLoad sid pos => Sys2Proof.Machine.execWindowLoad sid pos s
  | .decoderRead sid pos lane => Sys2Proof.Machine.execDecoderRead sid pos lane s
  | .laneBeat sid pos lane => Sys2Proof.Machine.execLaneBeat sid pos lane s
  | .itemJoin sid pos => Sys2Proof.Machine.execItemJoin sid pos s
  | .drainComplete sid pos => Sys2Proof.Machine.execDrainComplete sid pos s
  | .stepFault sid => Sys2Proof.Machine.execStepFault sid s
  | .confluenceAdd sid epi tok row node => Sys2Proof.Machine.execConfluenceAdd sid epi tok row node s
  | .epilogueBlock sid epi tok blk => Sys2Proof.Machine.execEpilogueBlock sid epi tok blk s
  | .epilogueFinish sid epi => Sys2Proof.Machine.execEpilogueFinish sid epi s
  | .millraceUnitStart sid desc mill => Sys2Proof.Machine.execMillraceUnitStart sid desc mill s
  | .riffleStream sid desc a b c d => Sys2Proof.Machine.execRiffleStream sid desc a b c d s
  | .millraceTile sid mill => Sys2Proof.Machine.execMillraceTile sid mill s
  | .rangeMerge sid desc r head row node => Sys2Proof.Machine.execRangeMerge sid desc r head row node s
  | .weirRoute sid desc => Sys2Proof.Machine.execWeirRoute sid desc s
  | .weirCombine sid desc => Sys2Proof.Machine.execWeirCombine sid desc s
  | .lossCompute sid desc => Sys2Proof.Machine.execLossCompute sid desc s
  | .gradientAccumulate sid desc rt ct => Sys2Proof.Machine.execGradientAccumulate sid desc rt ct s
  | .eddyWrite sid eid unit off data => Sys2Proof.Machine.execEddyWrite sid eid unit off data s
  | .eddyRead sid eid unit off => Sys2Proof.Machine.execEddyRead sid eid unit off s
  | .eddyAccessResume sid eid => Sys2Proof.Machine.execEddyAccessResume sid eid s
  | .eddyWatchdogExpiry sid eid => Sys2Proof.Machine.execEddyWatchdogExpiry sid eid s
  | .windowTransferReceive ford sx sy sz basin job wid isRead roff len data part => Sys2Proof.Machine.execWindowTransferReceive ford sx sy sz basin job wid isRead roff len data part s
  | .jobKill basin job => Sys2Proof.Machine.execJobKill basin job s
  | .granuleClearComplete granule verified => Sys2Proof.Machine.execGranuleClearComplete granule verified s
  | .jobCleared basin job => Sys2Proof.Machine.execJobCleared basin job s
  | .pageMoveStart basin page => Sys2Proof.Machine.execPageMoveStart basin page s
  | .pageMoveComplete basin page uncorrectable => Sys2Proof.Machine.execPageMoveComplete basin page uncorrectable s
  | .pageCopy basin page toPool => Sys2Proof.Machine.execPageCopy basin page toPool s
  | .hbmReclaim => Sys2Proof.Machine.execHbmReclaim s
  | .uncorrectableError place reader => Sys2Proof.Machine.execUncorrectableError place reader s
  | .modelHomeRepair basin page => Sys2Proof.Machine.execModelHomeRepair basin page s
  | .refetchTimer basin page => Sys2Proof.Machine.execRefetchTimer basin page s
  | .correctedError place => Sys2Proof.Machine.execCorrectedError place s
  | .scrubRead place found => Sys2Proof.Machine.execScrubRead place found s
  | .memLendReclaim record => Sys2Proof.Machine.execMemLendReclaim record s
  | .lendReclaimExpiry record => Sys2Proof.Machine.execLendReclaimExpiry record s
  | .kvTtlCheck => Sys2Proof.Machine.execKvTtlCheck s
  | .runnelMessage sender basin job endpoint type len data => Sys2Proof.Machine.execRunnelMessage sender basin job endpoint type len data s
  | .doorbellRing sender basin job endpoint mask => Sys2Proof.Machine.execDoorbellRing sender basin job endpoint mask s
  | .runnelHoldExpiry endpoint => Sys2Proof.Machine.execRunnelHoldExpiry endpoint s
  | .domainWake domain => Sys2Proof.Machine.execDomainWake domain s
  | .domainWakeComplete domain => Sys2Proof.Machine.execDomainWakeComplete domain s
  | .domainFault domain => Sys2Proof.Machine.execDomainFault domain s
  | .autoIdleExpiry domain => Sys2Proof.Machine.execAutoIdleExpiry domain s
  | .standbyWakeTimer => Sys2Proof.Machine.execStandbyWakeTimer s
  | .fordTrain ford lane0 lane1 aligned laneRev pol0 pol1 => Sys2Proof.Machine.execFordTrain ford lane0 lane1 aligned laneRev pol0 pol1 s
  | .fordTrainRetry ford lane0 lane1 aligned laneRev pol0 pol1 => Sys2Proof.Machine.execFordTrainRetry ford lane0 lane1 aligned laneRev pol0 pol1 s
  | .identityFrame ford fr => Sys2Proof.Machine.execIdentityFrame ford fr s
  | .heartbeatSend ford => Sys2Proof.Machine.execHeartbeatSend ford s
  | .flitReceive ford crcOk fecCorr fecUncorr head u => Sys2Proof.Machine.execFlitReceive ford crcOk fecCorr fecUncorr head u s
  | .fordLostTimeout ford => Sys2Proof.Machine.execFordLostTimeout ford s
  | .moduleLostTimeout ford => Sys2Proof.Machine.execModuleLostTimeout ford s
  | .sliceReadyReceive sliceId x y z minor => Sys2Proof.Machine.execSliceReadyReceive sliceId x y z minor s
  | .sliceGoReceive sliceId minor => Sys2Proof.Machine.execSliceGoReceive sliceId minor s
  | .sliceBindTimeout sliceId => Sys2Proof.Machine.execSliceBindTimeout sliceId s
  | .sliceJoinTimeout basin kind ident => Sys2Proof.Machine.execSliceJoinTimeout basin kind ident s
  | .sliceStopReceive ford sliceId serial cause => Sys2Proof.Machine.execSliceStopReceive ford sliceId serial cause s
  | .vcoreDip point mv forNs => Sys2Proof.Machine.execVcoreDip point mv forNs s
  | .pwrClear => Sys2Proof.Machine.execPwrClear s
  | .brownout cause point mv => Sys2Proof.Machine.execBrownout cause point mv s
  | .brownoutRecovery => Sys2Proof.Machine.execBrownoutRecovery s
  | .railFault rail kind => Sys2Proof.Machine.execRailFault rail kind s
  | .railWarn rail mv => Sys2Proof.Machine.execRailWarn rail mv s
  | .vserRecovery => Sys2Proof.Machine.execVserRecovery s
  | .powerSample watts vin => Sys2Proof.Machine.execPowerSample watts vin s
  | .limiterStep => Sys2Proof.Machine.execLimiterStep s
  | .thermalLoop => Sys2Proof.Machine.execThermalLoop s
  | .sensorRead readings lpx noAck => Sys2Proof.Machine.execSensorRead readings lpx noAck s
  | .sensorCheck failed => Sys2Proof.Machine.execSensorCheck failed s
  | .sensorBusFault stillLow => Sys2Proof.Machine.execSensorBusFault stillLow s
  | .sensorBusRetry ok => Sys2Proof.Machine.execSensorBusRetry ok s
  | .inputReversed => Sys2Proof.Machine.execInputReversed s
  | .inputLow vin => Sys2Proof.Machine.execInputLow vin s
  | .inputUndervoltage vin => Sys2Proof.Machine.execInputUndervoltage vin s
  | .inputHigh vin => Sys2Proof.Machine.execInputHigh vin s
  | .inputOvervoltage vin => Sys2Proof.Machine.execInputOvervoltage vin s
  | .senseMate => Sys2Proof.Machine.execSenseMate s
  | .senseBreak => Sys2Proof.Machine.execSenseBreak s
  | .powerOn testMode recover vin => Sys2Proof.Machine.execPowerOn testMode recover vin s
  | .memoryInitComplete badHbm badLpx recs => Sys2Proof.Machine.execMemoryInitComplete badHbm badLpx recs s
  | .ptpWaitExpiry => Sys2Proof.Machine.execPtpWaitExpiry s
  | .bootReady => Sys2Proof.Machine.execBootReady s
  | .confirmTimeout => Sys2Proof.Machine.execConfirmTimeout s
  | .sp0WatchdogExpiry => Sys2Proof.Machine.execSp0WatchdogExpiry s
  | .moduleRestart => Sys2Proof.Machine.execModuleRestart s
  | .modReset lowNs => Sys2Proof.Machine.execModReset lowNs s
  | .storeWrite firstOk secondOk otherBankOk => Sys2Proof.Machine.execStoreWrite firstOk secondOk otherBankOk s
  | .storeEraseComplete => Sys2Proof.Machine.execStoreEraseComplete s
  | .selftestPeriodic failed => Sys2Proof.Machine.execSelftestPeriodic failed s
  | .entropyHealthFail => Sys2Proof.Machine.execEntropyHealthFail s
  | .drbgReseed inst => Sys2Proof.Machine.execDrbgReseed inst s
  | .counterFold => Sys2Proof.Machine.execCounterFold s
  | .mgStatus pec => Sys2Proof.Machine.execMgStatus pec s
  | .mgSensors pec => Sys2Proof.Machine.execMgSensors pec s
  | .mgEvents pec start => Sys2Proof.Machine.execMgEvents pec start s
  | .mgFaults pec start => Sys2Proof.Machine.execMgFaults pec start s
  | .mgSelftest pec first => Sys2Proof.Machine.execMgSelftest pec first s
  | .mgRestart pec => Sys2Proof.Machine.execMgRestart pec s
  | .mgWake pec => Sys2Proof.Machine.execMgWake pec s
  | .mgAdminHosts pec offset piece => Sys2Proof.Machine.execMgAdminHosts pec offset piece s
  | .mgAdminHostsTimeout => Sys2Proof.Machine.execMgAdminHostsTimeout s
  | .mgAdminMove pec b => Sys2Proof.Machine.execMgAdminMove pec b s
  | .mgImage pec offset chunk => Sys2Proof.Machine.execMgImage pec offset chunk s
  | .mgImageCommit pec len => Sys2Proof.Machine.execMgImageCommit pec len s
  | .mgBusTimeout => Sys2Proof.Machine.execMgBusTimeout s
  | .bypass => Sys2Proof.Machine.execBypass s
  | .idcode => Sys2Proof.Machine.execIdcode s
  | .samplePreload pins shifted => Sys2Proof.Machine.execSamplePreload pins shifted s
  | .extest pins => Sys2Proof.Machine.execExtest pins s
  | .clamp => Sys2Proof.Machine.execClamp s
  | .highz => Sys2Proof.Machine.execHighz s
  | .extestPulse pins => Sys2Proof.Machine.execExtestPulse pins s
  | .extestTrain pins => Sys2Proof.Machine.execExtestTrain pins s
  | .tagExpiry basin tag => Sys2Proof.Machine.execTagExpiry basin tag s
  | .tierPageClearComplete place ok => Sys2Proof.Machine.execTierPageClearComplete place ok s
  | .windowCloseComplete basin job wid => Sys2Proof.Machine.execWindowCloseComplete basin job wid s
  | .ptpTransmitterLost => Sys2Proof.Machine.execPtpTransmitterLost s
  | .domainOffComplete domain => Sys2Proof.Machine.execDomainOffComplete domain s
  | .vcoreReturn => Sys2Proof.Machine.execVcoreReturn s
  | .vauxRecovery => Sys2Proof.Machine.execVauxRecovery s
  | .sliceDeclareReceive ford sliceId ox oy oz lx ly lz minor => Sys2Proof.Machine.execSliceDeclareReceive ford sliceId ox oy oz lx ly lz minor s
  | .shadowStateSet basin tid => Sys2Proof.Machine.execShadowStateSet basin tid s
  | .fwSlotWriteComplete => Sys2Proof.Machine.execFwSlotWriteComplete s
  | .addressResolutionReply f => Sys2Proof.Machine.execAddressResolutionReply f s

end Sys2Proof.Machine
end

