-- ==== Sys2Proof/Machine/Timebase.lean ====
section
/-! DEFINITION. The timebase (R32), and what the block does in a nanosecond in which no command waits. -/

namespace Sys2Proof.Machine

/-- How far the timebase moves in a nanosecond: while a PTP offset is slewed out, every 10,000th moves it by none or by two (R504). -/
def tickStep (p : Ptp) : Nat × Ptp :=
  if p.slew = 0 then (1, p)
  else if p.slewCtr < 9999 then (1, { p with slewCtr := p.slewCtr + 1 })
  else if 0 < p.slew then (0, { p with slewCtr := 0, slew := p.slew - 1 })
  else (2, { p with slewCtr := 0, slew := p.slew + 1 })

/-- One nanosecond of the 64-bit timebase, which wraps (R32, R523); the ports send what waits for them, malformed messages are
answered in their turn, a report that is being signed is complete, the awake endpoints read their runnels, the transfers and windows of bound steps go on, fords that have trained identify themselves, parts of slices are announced
and come to their units, and the ford hubs serve their inputs (log entry 2). -/
def tick (s : State) : State :=
  let (n, p) := tickStep s.eth.ptp
  let t := { s with now := (s.now + n) % 2 ^ 64, eth := { s.eth with ptp := p } }
  hubTick (payOwed (announceParts (sendIdentities s.now (serveTransfers (readEndpoints (finishSigning (answerBads (servePorts t))))))))

end Sys2Proof.Machine
end

