-- ==== Sys2Proof/Safety.lean ====
section
/-! DEFINITION. The terms in which claims are made: the invariants that every step keeps, what a state holds apart from the
traffic of its messages and logs, what a basin has been answered, and which commands a host sends. -/

namespace Sys2Proof.Machine

/-- Memory is in its canonical form, so that equal memories are equal data. -/
def State.memOk (s : State) : Prop := Memory.wf s.mem = true

/-- Each of the sixteen basins has its link and its KV store (R278, R363): the banks by basin stand whole. -/
def State.banked (s : State) : Prop := s.links.length = 16 ∧ s.kvs.length = 16

/-- A link without what a message to the host, an event or the taking of a command touches. -/
def Link.core (l : Link) : Link :=
  { woreoCfg := l.woreoCfg, partialCmd := l.partialCmd, partialAuth := l.partialAuth, arrived := l.arrived, dataWait := l.dataWait
    deferred := l.deferred, subs := l.subs }

/-- A step without the mark that flow 1 held its message back (R327). -/
def Step.core (t : Step) : Step := { t with egress := true }

/-- The state without the traffic: two states with the same core differ at most in the segments that wait for
their port, the flows, the events not yet sent and those of the logs, the counters, the records that wait for the store, the
number of free values drawn, whether a final entry has been sent, and whether flow 1 has held a step's message back. -/
def State.core (s : State) : State :=
  { s with
    freeCtr := 0
    eth := { s.eth with waits := [] }
    links := s.links.map Link.core
    steps := s.steps.map Step.core
    logs := {}
    store := { s.store with waiting := [] }
    boot := { s.boot with heldEvents := [] }
    serving := { s.serving with requests := s.serving.requests.map fun r => { r with finalAt := none } } }

/-- The messages of flow 0 that a basin's host has been sent or is to be sent, in order: those in the queue, then the replies
that did not fit (R370). -/
def State.answers (s : State) (b : Nat) : List Msg := (flowOf s b 0).queue.map (·.msg) ++ (linkOf s b).rspWait

/-- The events that the module has raised and kept, in order: those in the log (R525), then those held until READY. -/
def State.events (s : State) : List EvtRec := s.logs.ring.map (·.evt) ++ s.boot.heldEvents.map (·.2)

/-- The SSEQ that a source's next event takes (R384). -/
def State.nextSseq (s : State) (src : Nat) : Nat := ((s.logs.sseq.find? fun x => x.1 == src).map (·.2)).getD 0

/-- Between two states, a source has raised an event with this code and payload as its next one, at the earlier state's time. -/
def State.raised (s t : State) (src code : Nat) (payload : List Nat) : Prop :=
  { code := code, src := src, sseq := s.nextSseq src, time := s.now, payload := payload.map (· % 2 ^ 64) } ∈ t.events

/-- The state with a host command taken from its basin's inbox (R410), the basin being the last that was served (R375). -/
def State.took (s : State) (h : Hdr) (op : Nat) : State :=
  setLink s h.basin fun l => { l with inbox := dropFirst (fun c => c.opcode == op && c.ctag == h.ctag) l.inbox, turn := nextTurn s }

/-- The configuration store takes a record at once: no swap waits for an erasure, VAUX is good, and the store has not failed (R474,
R493). -/
def State.storeOpen (s : State) : Prop := storeReady s = true ∧ s.store.faulted = false

/-- Messages for one basin, and none for any other. -/
def only (b : Nat) (ms : List Msg) : Nat → List Msg := fun c => if c = b then ms else []

/-- The state with some deferred commands of a basin no longer waiting for their replies. -/
def State.settled (s : State) (b : Nat) (p : Deferred → Bool) : State :=
  setLink s b fun l => { l with deferred := dropW p l.deferred }

/-- The replies of those deferred commands, by the basin that sent each (R373, R375). -/
def State.settleMsgs (s : State) (b : Nat) (p : Deferred → Bool) (status : Nat) (data : List Field) : Nat → List Msg := fun c =>
  if c < s.links.length then
    (((linkOf s b).deferred.filter p).filter fun d => d.h.basin == c).map fun d => .rsp d.opcode status d.h.ctag data
  else []

/-- The command answers a next state whose core is that of `e`, after which every basin `b` has been answered the messages `ms b`
more than before. -/
def RunsTo (c : Instr) (s e : State) (ms : Nat → List Msg) : Prop :=
  ∃ t, exec c s = .next t ∧ t.core = e.core ∧ ∀ b, t.answers b = s.answers b ++ ms b

/-- The command answers a next state whose core is that of `e`, and no basin is answered anything. -/
def BecomesCore (c : Instr) (s e : State) : Prop := RunsTo c s e fun _ => []

/-- What the core sees first of a host command: who sends it, its opcode, whether it is marked (A), and the object that it names
(R376, R377). -/
structure HostCall where
  h : Hdr
  op : Nat
  admin : Bool
  obj : Option Obj
  deriving DecidableEq, Repr

end Sys2Proof.Machine

namespace Sys2Proof

open Sys2Proof.Machine

/-- The host command that an instruction is, none for an event. Of VARIANT.DELETE, KV.RESUME and KV.DROP no object is named
here: rules of their own state what an unanswered command on their object does (R270, R300). -/
def Instr.call : Instr → Option HostCall
  | .modelCreate h mid _ _ _ _ => some ⟨h, 0x0100, false, some (.model mid)⟩
  | .modelSeal h mid _ => some ⟨h, 0x0101, false, some (.model mid)⟩
  | .modelDelete h mid => some ⟨h, 0x0102, false, some (.model mid)⟩
  | .modelQuery h mid => some ⟨h, 0x0103, false, some (.model mid)⟩
  | .modelProgram h rec => some ⟨h, 0x0104, false, some (.model (fld rec.toNat 0 31))⟩
  | .modelRepair h mid _ _ _ => some ⟨h, 0x0105, false, some (.model mid)⟩
  | .variantCreate h vid _ _ _ _ _ => some ⟨h, 0x0200, false, some (.model vid)⟩
  | .variantUpdate h vid _ _ _ _ _ => some ⟨h, 0x0201, false, some (.model vid)⟩
  | .variantDelete h _ => some ⟨h, 0x0202, false, none⟩
  | .variantPin h vid _ => some ⟨h, 0x0203, false, some (.model vid)⟩
  | .variantQuery h vid => some ⟨h, 0x0204, false, some (.model vid)⟩
  | .variantPrefetch h vid => some ⟨h, 0x0205, false, some (.model vid)⟩
  | .reqSubmit h blk _ => some ⟨h, 0x0310, false, some (.tag (fld blk.toNat 0 31))⟩
  | .reqCancel h tag => some ⟨h, 0x0311, false, some (.tag tag)⟩
  | .reqQuery h tag => some ⟨h, 0x0312, false, some (.tag tag)⟩
  | .reqGroup h _ => some ⟨h, 0x0313, false, none⟩
  | .kvConfigure h _ => some ⟨h, 0x0400, false, none⟩
  | .kvQuery h _ => some ⟨h, 0x0401, false, none⟩
  | .kvResume h _ => some ⟨h, 0x0402, false, none⟩
  | .kvDrop h _ => some ⟨h, 0x0403, false, none⟩
  | .kvPrefixFlush h vid => some ⟨h, 0x0404, false, some (.ptree vid)⟩
  | .kvStats h => some ⟨h, 0x0405, false, none⟩
  | .trainCreate h rec => some ⟨h, 0x0500, false, some (.train (fld rec.toNat 0 31))⟩
  | .trainFeed h tid _ => some ⟨h, 0x0501, false, some (.train tid)⟩
  | .trainStart h tid => some ⟨h, 0x0502, false, some (.train tid)⟩
  | .trainStop h tid => some ⟨h, 0x0503, false, some (.train tid)⟩
  | .trainQuery h tid => some ⟨h, 0x0504, false, some (.train tid)⟩
  | .trainExport h tid => some ⟨h, 0x0505, false, some (.train tid)⟩
  | .trainDelete h tid => some ⟨h, 0x0506, false, some (.train tid)⟩
  | .basinCreate h rec => some ⟨h, 0x0600, true, some (.basin (bwId rec))⟩
  | .basinDestroy h b => some ⟨h, 0x0601, true, some (.basin b)⟩
  | .basinQuery h b => some ⟨h, 0x0602, false, some (.basin b)⟩
  | .basinQuota h _ => some ⟨h, 0x0603, true, none⟩
  | .basinHosts h b _ => some ⟨h, 0x0604, true, some (.basin b)⟩
  | .basinMap h addr pages _ _ => some ⟨h, 0x0610, false, some (.region (addr / 4096) pages)⟩
  | .basinUnmap h addr pages => some ⟨h, 0x0611, false, some (.region (addr / 4096) pages)⟩
  | .basinPlace h addr pages _ => some ⟨h, 0x0612, false, some (.region (addr / 4096) pages)⟩
  | .basinPageq h _ => some ⟨h, 0x0613, false, none⟩
  | .basinRead h _ _ xid => some ⟨h, 0x0614, false, some (.read xid)⟩
  | .regRead h _ _ => some ⟨h, 0x0700, false, none⟩
  | .regWrite h _ _ _ => some ⟨h, 0x0701, false, none⟩
  | .ethPortCtrlWrite h _ _ _ => some ⟨h, 0x0701, false, none⟩
  | .frdEnableWrite h _ _ _ => some ⟨h, 0x0701, false, none⟩
  | .frdRetrain h _ _ _ => some ⟨h, 0x0701, false, none⟩
  | .frdClrCnt h _ _ _ => some ⟨h, 0x0701, false, none⟩
  | .restart h _ _ => some ⟨h, 0x0701, false, none⟩
  | .confirm h _ _ => some ⟨h, 0x0701, false, none⟩
  | .stwBootCfgWrite h _ _ => some ⟨h, 0x0701, false, none⟩
  | .pwrLimitCfgWrite h _ _ => some ⟨h, 0x0701, false, none⟩
  | .testBist h _ _ => some ⟨h, 0x0800, true, none⟩
  | .testResult h _ => some ⟨h, 0x0801, false, none⟩
  | .testEcho h _ => some ⟨h, 0x0802, false, none⟩
  | .secAttest h _ _ => some ⟨h, 0x0900, false, none⟩
  | .secCerts h => some ⟨h, 0x0901, false, none⟩
  | .secFwUpdate h _ _ => some ⟨h, 0x0902, true, some .fwSlot⟩
  | .cakInstall h _ _ _ _ _ => some ⟨h, 0x0903, true, none⟩
  | .sciBind h _ _ _ => some ⟨h, 0x0903, true, none⟩
  | .sciUnbind h _ _ _ => some ⟨h, 0x0903, true, none⟩
  | .secZeroize h _ => some ⟨h, 0x0904, true, none⟩
  | .pwrStatus h => some ⟨h, 0x0A00, false, none⟩
  | .pwrDomain h domain _ _ => some ⟨h, 0x0A01, true, some (.domain domain)⟩
  | .standby h domain _ => some ⟨h, 0x0A01, true, some (.domain domain)⟩
  | .pwrLimit h _ _ => some ⟨h, 0x0A02, true, none⟩
  | .pwrStoreQuery h => some ⟨h, 0x0A03, true, some .store⟩
  | .pwrStoreSwap h => some ⟨h, 0x0A03, true, some .store⟩
  | .linkTopology h _ => some ⟨h, 0x0B00, true, none⟩
  | .linkSliceBind h rec => some ⟨h, 0x0B01, true, some (.slice (swId rec))⟩
  | .linkSliceUnbind h rec => some ⟨h, 0x0B01, true, some (.slice (swId rec))⟩
  | .linkStatus h => some ⟨h, 0x0B02, false, none⟩
  | .logRead h _ _ => some ⟨h, 0x0C00, false, none⟩
  | .logFaults h _ _ => some ⟨h, 0x0C01, false, none⟩
  | .logCounters h _ _ => some ⟨h, 0x0C02, false, none⟩
  | .logSubscribe h _ => some ⟨h, 0x0C03, false, none⟩
  | .sealVerifyComplete .. | .deltaVerifyComplete .. | .variantRetireComplete .. | .materialisationStart .. |
    .materialisationComplete .. | .basinTeardownComplete .. | .teardownFlushExpiry .. | .bistComplete .. |
    .woreoSegmentReceive .. | .syn .. | .rtoExpiry .. | .ackDelayExpiry .. | .evtCoalesceExpiry .. | .dataWriteResume .. |
    .queueRoomReturn .. | .tokSent .. | .arpRequest .. | .neighbourSolicitation .. | .icmpEcho .. | .ptpMessage .. |
    .mkaFrame .. | .ethLink .. | .batchForm .. | .stepBind .. | .stepBoundary .. | .offstepSettle .. | .itemPrologue .. |
    .windowLoad .. | .decoderRead .. | .laneBeat .. | .itemJoin .. | .drainComplete .. | .stepFault .. | .confluenceAdd .. |
    .epilogueBlock .. | .epilogueFinish .. | .millraceUnitStart .. | .riffleStream .. | .millraceTile .. | .rangeMerge .. |
    .weirRoute .. | .weirCombine .. | .lossCompute .. | .gradientAccumulate .. | .eddyWrite .. | .eddyRead .. |
    .eddyAccessResume .. | .eddyWatchdogExpiry .. | .windowTransferReceive .. | .jobKill .. | .granuleClearComplete .. |
    .jobCleared .. | .pageMoveStart .. | .pageMoveComplete .. | .pageCopy .. | .hbmReclaim .. | .uncorrectableError .. |
    .modelHomeRepair .. | .refetchTimer .. | .correctedError .. | .scrubRead .. | .memLendReclaim .. |
    .lendReclaimExpiry .. | .kvTtlCheck .. | .runnelMessage .. | .doorbellRing .. | .runnelHoldExpiry .. | .domainWake .. |
    .domainWakeComplete .. | .domainFault .. | .autoIdleExpiry .. | .standbyWakeTimer .. | .fordTrain .. |
    .fordTrainRetry .. | .identityFrame .. | .heartbeatSend .. | .flitReceive .. | .fordLostTimeout .. |
    .moduleLostTimeout .. | .sliceReadyReceive .. | .sliceGoReceive .. | .sliceBindTimeout .. | .sliceJoinTimeout .. |
    .sliceStopReceive .. | .vcoreDip .. | .pwrClear .. | .brownout .. | .brownoutRecovery .. | .railFault .. |
    .railWarn .. | .vserRecovery .. | .powerSample .. | .limiterStep .. | .thermalLoop .. | .sensorRead .. |
    .sensorCheck .. | .sensorBusFault .. | .sensorBusRetry .. | .inputReversed .. | .inputLow .. | .inputUndervoltage .. |
    .inputHigh .. | .inputOvervoltage .. | .senseMate .. | .senseBreak .. | .powerOn .. | .memoryInitComplete .. |
    .ptpWaitExpiry .. | .bootReady .. | .confirmTimeout .. | .sp0WatchdogExpiry .. | .moduleRestart .. | .modReset .. |
    .storeWrite .. | .storeEraseComplete .. | .selftestPeriodic .. | .entropyHealthFail .. | .drbgReseed .. |
    .counterFold .. | .mgStatus .. | .mgSensors .. | .mgEvents .. | .mgFaults .. | .mgSelftest .. | .mgRestart .. |
    .mgWake .. | .mgAdminHosts .. | .mgAdminHostsTimeout .. | .mgAdminMove .. | .mgImage .. | .mgImageCommit .. |
    .mgBusTimeout .. | .bypass .. | .idcode .. | .samplePreload .. | .extest .. | .clamp .. | .highz .. | .extestPulse .. |
    .extestTrain .. | .tagExpiry .. | .tierPageClearComplete .. | .windowCloseComplete .. | .ptpTransmitterLost .. |
    .domainOffComplete .. | .vcoreReturn .. | .vauxRecovery .. | .sliceDeclareReceive .. | .shadowStateSet .. |
    .fwSlotWriteComplete .. | .addressResolutionReply .. => none

end Sys2Proof

namespace Sys2Proof.Machine

/-- The core can take a host command now (R370, R375, R415), and its basin has a link. -/
def State.takes (s : State) (c : Instr) : Prop :=
  ∃ k, c.call = some k ∧ taken s k.h k.op c.params = true ∧ k.h.basin < s.links.length

/-- A host command can run now: the core can take it, its sender holds the role of a security command (R450), and no unanswered deferred
command names its object (R376 order 4). -/
def State.accepts (s : State) (c : Instr) : Prop :=
  ∃ k, c.call = some k ∧ taken s k.h k.op c.params = true ∧ k.h.basin < s.links.length ∧ roleHeld s k.h k.op = true ∧
    ∀ o ∈ k.obj, objBusy s k.h.basin o = false

end Sys2Proof.Machine
end

