-- ==== Sys2Proof/Certificates/Slice0/Obligations.lean ====
section
/-! DEFINITION. The statements about the block: for every command where it completes and with what effect; the checks that every
host command passes first; what each step keeps; and rules of the spec about formats, registers, events and memory. -/

open Sys2Proof Sys2Proof.Machine

/-- R410: a step takes the command at the front of the queue and runs it on the state with the rest of the queue. -/
def Obligations.StepRunsFrontCommand : Prop := ∀ (c : Instr) (s : State), step { s with pending := c :: s.pending } = exec c s

/-- R32, R371, R413, R421 to R424, R427, R437, R504, R523, R562: on an empty queue a step counts one nanosecond of the 64-bit timebase,
which wraps, or none or two at every 10,000th while a PTP offset is slewed out; the ports send what waits for them, malformed messages are
answered in their turn, a report that is being signed is complete, the endpoints that are awake read their runnels, the transfers of bound steps go on, trained fords identify themselves, parts of slices come to their units, and
the ford hubs serve their inputs. With no step, no accepted window access, no slice, no trained ford, no such message or report and nothing at the ports and
the hubs, only the timebase and the runnels change, and the runnels only where a message or a doorbell waits at an endpoint that is awake. That the
tick stands on the empty queue is the model's choice (log entry 2). -/
def Obligations.IdleStepCountsOneNanosecond : Prop := ∀ (s : State), s.pending = [] →
  (let run (n : Nat) (p : Ptp) : State :=
      let t := servePorts { s with now := (s.now + n) % 2 ^ 64, eth := { s.eth with ptp := p } }
      hubTick (payOwed (announceParts (sendIdentities s.now (serveTransfers (readEndpoints (finishSigning (answerBads t)))))));
    let p := s.eth.ptp;
    (p.slew = 0 → step s = .next (run 1 p)) ∧
    (p.slew ≠ 0 → p.slewCtr < 9999 → step s = .next (run 1 { p with slewCtr := p.slewCtr + 1 })) ∧
    (0 < p.slew → 9999 ≤ p.slewCtr → step s = .next (run 0 { p with slewCtr := 0, slew := p.slew - 1 })) ∧
    (p.slew < 0 → 9999 ≤ p.slewCtr → step s = .next (run 2 { p with slewCtr := 0, slew := p.slew + 1 }))) ∧
  (s.steps = [] → s.pools.accepted = [] → s.eth.waits = [] → s.fords.slices = [] → (∀ n < 48, (fordOf s n).trained = false) →
    s.fords.out = [] → s.fords.hub = [] → s.fords.owed = [] → s.fords.streams = [] →
    s.fords.turns = [] → s.fords.lmWait = [] → s.sec.signing = none →
    (∀ b < 16, (linkOf s b).inbox.head?.all (·.bad == 0) = true) → ∃ t, step s = .next t ∧
      t = { s with now := t.now, eth := { s.eth with ptp := t.eth.ptp }, runnels := t.runnels } ∧
      (s.runnels.ends.all (fun e => !domOn s (endDomain e.num) || (e.queue.isEmpty && e.held.isEmpty && e.bell == 0)) = true →
        t.runnels = s.runnels))

/-- R230, R279, R372, R390, R392, R394, R396, R496, R498, R501, R517: the registers at reset have the values that their tables give,
the machine is in stage ROM with no basin, and nothing is listed in memory. -/
def Obligations.ResetValuesOfTheTables : Prop := ∀ b < 16,
  regValue State.reset b .memCtrl = 0x00000018010A0540 ∧ regValue State.reset b .bootCfg = 0x02580502 ∧
  regValue State.reset b .pwrLimit = 0x00000A5F690F04B0 ∧ regValue State.reset b .woreoCfg = 0x050A050C00640032 ∧
  regValue State.reset b (.portCtrl 0) = 0x11 ∧ regValue State.reset b (.portCtrl 1) = 0x11 ∧ regValue State.reset b .ptpCfg = 0x1 ∧
  (∀ n < 12, regValue State.reset b (.domState n) = 0) ∧ (kvOf State.reset b).cfg = BitVec.ofNat 384 (5 + 3600 * 2 ^ 32) ∧
  regValue State.reset b .bootStatus % 16 = 0 ∧ State.reset.basins = [] ∧ State.reset.mem = [] ∧ State.reset.pending = []

/-- R205, R278, R363: at reset memory is in its canonical form, and each basin has its link and its KV store. -/
def Obligations.ResetKeepsInvariants : Prop := State.reset.memOk ∧ State.reset.banked

/-- R205, R206, R278, R363, R410: whatever command runs, or a tick, memory stays in its canonical form, each basin keeps its link and
its KV store, and of the queue exactly the front command is taken. -/
def Obligations.EveryStepKeepsMemoryAndBanks : Prop := ∀ (s t : State), s.memOk → s.banked → step s = .next t →
  t.memOk ∧ t.banked ∧ t.pending = s.pending.tail

/-- R373, R376: no command stops the machine: every one of them, in every state, answers a next state. -/
def Obligations.EveryCommandAnswersANextState : Prop := ∀ (c : Instr) (s : State), ∃ t, exec c s = .next t

/-- R370, R375, R415, R501: outside READY, in standby, from a basin that does not exist or is in teardown, while a reply waits for
room, or with 256 deferred commands outstanding, no host command is started. That the state then stays is the model's choice (log entry
14): the command is still in its inbox. -/
def Obligations.CommandNotTakenChangesNothing : Prop := ∀ (c : Instr) (s : State) (k : HostCall), c.call = some k →
  s.boot.stage ≠ 6 ∨ s.pwr.standbyUntil.isSome = true ∨ basinLive s k.h.basin = false ∨ inTeardown s k.h.basin = true ∨
    (linkOf s k.h.basin).rspWait ≠ [] ∨ 256 ≤ (linkOf s k.h.basin).deferred.length →
  exec c s = .next s

/-- R376 order 3, R377, R450: every command marked (A) from a basin without the administration right, and every security command whose sender
does not hold its role, is refused with ST_NOT_PERMITTED, and nothing changes but that it is taken and answered. A command that writes the store
waits for it first, and a report for the one before it (log entries 14 and 153). -/
def Obligations.AdminCommandsRefusedWithoutRight : Prop := ∀ (c : Instr) (s : State) (k : HostCall), c.call = some k →
  (k.admin = true ∧ isAdmin s k.h.basin = false) ∨ roleHeld s k.h k.op = false → storeReady s = true →
  (k.op = 0x0900 → reportWaits s = false) → s.takes c →
  RunsTo c s s (only k.h.basin [.rsp k.op stNotPermitted k.h.ctag []])

/-- R376 order 4: every command that names an object which an unanswered deferred command of its basin names, and for which no rule
states another outcome, is refused with ST_BUSY,
and nothing changes but that it is taken and answered. -/
def Obligations.CommandsOnBusyObjectsRefused : Prop := ∀ (c : Instr) (s : State) (k : HostCall) (o : Obj), c.call = some k →
  k.obj = some o → (k.admin = true → isAdmin s k.h.basin = true) → roleHeld s k.h k.op = true → objBusy s k.h.basin o = true →
  storeReady s = true → s.takes c →
  RunsTo c s s (only k.h.basin [.rsp k.op stBusy k.h.ctag []])

/-- R365, R376 orders 1 and 2, R410: a delivered CMD message is stamped as a runnel message of its port, and checked: an opcode outside the table
fails with ST_OPCODE_UNKNOWN, parameters of another length with ST_BAD_LENGTH (so does a message of more than 16 MiB, log entry 148). With nothing
before it, a failure is answered at once; a message that passes, or that others or a waiting reply precede, waits in the inbox as it was stamped.
Nothing else changes. -/
def Obligations.DeliveredMessageChecked : Prop := ∀ (s : State) (b port : Nat) (auth : Bool) (m : List Byte), b < s.links.length →
  let op := ofLe (m.take 2)
  let ct := ofLe ((m.drop 4).take 4)
  let st := if opcodeKnown op = false then 0x0001 else if 16777216 < m.length ∨ lengthOk op m = false then 0x0002 else 0
  let n := (takeRseq s (0x150 + port)).1
  let x : CmdMsg := {
    opcode := op, ctag := ct, bytes := m, bad := st, auth := auth, order := (linkOf s b).arrived, sender := 0x150 + port, rseq := n
    time := s.now, type := (Config.cmdBuffer n).1, len := (Config.cmdBuffer n).2.1, data := (Config.cmdBuffer n).2.2 }
  let t := deliverCmd s b port auth m
  t.core = (setLink (takeRseq s (0x150 + port)).2 b fun l => { l with arrived := l.arrived + 1 }).core ∧
  ((linkOf s b).inbox = [] → (linkOf s b).rspWait = [] → st ≠ 0 →
    (linkOf t b).inbox = [] ∧ ∀ a, t.answers a = s.answers a ++ only b [.rsp op st ct []] a) ∧
  (((linkOf s b).inbox = [] ∧ st = 0) ∨ (linkOf s b).rspWait ≠ [] ∨ (linkOf s b).inbox.head?.any (·.bad == 0) = true →
    (linkOf t b).inbox = (linkOf s b).inbox ++ [x] ∧ ∀ a, t.answers a = s.answers a)

/-- R390, R391: a REG.WRITE to a module register from a basin without the administration right is refused with ST_NOT_PERMITTED and
nothing is written; an address that is no register is refused with ST_REG_INVALID, and a REG.READ whose range holds one returns nothing. -/
def Obligations.RegisterAccessRefused : Prop := ∀ (s : State) (h : Hdr) (addr : Nat) (mask value : BitVec 64),
  (∀ r, s.takes (.regWrite h addr mask value) → (writeStores r = true → storeReady s = true) → regAt addr = some r → r ≠ .woreoCfg →
    isAdmin s h.basin = false →
    RunsTo (.regWrite h addr mask value) s s (only h.basin [.rsp 0x0701 stNotPermitted h.ctag []])) ∧
  (s.takes (.regWrite h addr mask value) → regAt addr = none →
    RunsTo (.regWrite h addr mask value) s s (only h.basin [.rsp 0x0701 stRegInvalid h.ctag []])) ∧
  (∀ count k, s.takes (.regRead h addr count) → 1 ≤ count → count ≤ 128 → k < count → regAt (addr + 8 * k) = none →
    RunsTo (.regRead h addr count) s s (only h.basin [.rsp 0x0700 stRegInvalid h.ctag []]))

/-- R230, R390: a REG.WRITE to TRK_MEM_CTRL changes only the writable bits that MASK selects, to those of VALUE, and answers the value
after the write; with the reset value in it, MASK 0xFF and VALUE 0x60 give 0x0000_0018_010A_0560. -/
def Obligations.MemCtrlWriteIsMasked : Prop := ∀ (s : State) (h : Hdr) (mask value : BitVec 64),
  s.takes (.regWrite h 0x30000 mask value) → isAdmin s h.basin = true →
  ∃ v : BitVec 64, (∀ i, v.getLsbD i = if mask.getLsbD i && memCtrlMask.getLsbD i then value.getLsbD i else s.tiers.memCtrl.getLsbD i) ∧
    (s.tiers.memCtrl = 0x00000018010A0540 → mask = 0xFF → value = 0x60 → v = 0x00000018010A0560) ∧
    RunsTo (.regWrite h 0x30000 mask value) s { s with tiers := { s.tiers with memCtrl := v } }
      (only h.basin [.rsp 0x0701 stOk h.ctag [.u64 v.toNat]])

/-- R62: NaN is written as 0x7FC0_0000 in F32 and 0x7FC0 in BF16, and any NaN encoding is taken for NaN: every code of an all-ones
exponent and a fraction that is not 0, in either sign. An operation with such an operand, and one with no number as its result, writes
the one NaN code. -/
def Obligations.NanCodes : Prop := toF32 .nan = 0x7FC00000 ∧ toBf16 .nan = 0x7FC0 ∧
  (∀ w : BitVec 32, ofF32 w = .nan ↔ w &&& 0x7F800000 = 0x7F800000 ∧ w &&& 0x007FFFFF ≠ 0) ∧
  (∀ n < 65536, ofBf16 n = .nan ↔ n / 128 % 256 = 255 ∧ n % 128 ≠ 0) ∧
  (∀ a b : BitVec 32, ofF32 a = .nan ∨ ofF32 b = .nan → f32Add a b = 0x7FC00000 ∧ f32Sub a b = 0x7FC00000 ∧ f32Mul a b = 0x7FC00000 ∧
    f32Div a b = 0x7FC00000)

/-- R38: five base-3 digits, least significant first, make the T5 byte of value d0 + 3 d1 + 9 d2 + 27 d3 + 81 d4, of which digit 0 is
trit 0, digit 1 is +1 and digit 2 is -1; 0 to 242 are valid, and 243 to 255 are not. -/
def Obligations.T5ByteHoldsFiveTrits : Prop :=
  let trit (d : Nat) : Int := if d = 0 then 0 else if d = 1 then 1 else -1
  (∀ d0 d1 d2 d3 d4 : Nat, d0 < 3 → d1 < 3 → d2 < 3 → d3 < 3 → d4 < 3 →
    d0 + 3 * d1 + 9 * d2 + 27 * d3 + 81 * d4 ≤ 242 ∧
    t5Trits (d0 + 3 * d1 + 9 * d2 + 27 * d3 + 81 * d4) = some [trit d0, trit d1, trit d2, trit d3, trit d4]) ∧
  (∀ b : Byte, (b.toNat ≤ 242 ↔ (t5Trits b.toNat).isSome = true) ∧ (243 ≤ b.toNat → t5Trits b.toNat = none))

/-- R66: up is one place along the cycle -1, 0, +1, -1, down one place back, and a changed trit always differs from its base trit. -/
def Obligations.TritRotation : Prop :=
  (rotate false (-1) = 0 ∧ rotate false 0 = 1 ∧ rotate false 1 = -1) ∧ (rotate true (-1) = 1 ∧ rotate true 0 = -1 ∧ rotate true 1 = 0) ∧
  (∀ t : Int, t = -1 ∨ t = 0 ∨ t = 1 → rotate true t ≠ t ∧ rotate false t ≠ t ∧ rotate true t ≠ rotate false t ∧
    rotate true (rotate false t) = t)

/-- R72, R150: of the faults of a step, the status reported is the one that ranks first, ST_INDEX_RANGE before ST_KV_READONLY before
ST_FORMAT_INVALID before ST_CAP_VIOLATION, in whatever order they were found. -/
def Obligations.ReportedStatusRanksFirst : Prop :=
  let order : List Nat := [stIndexRange, stKvReadonly, stFormatInvalid, stCapViolation]
  ∀ l : List Flt, l ≠ [] → (∀ f ∈ l, f.status ∈ order) →
    worstStatus l ∈ l.map (·.status) ∧ ∀ f ∈ l, order.idxOf (worstStatus l) ≤ order.idxOf f.status

/-- R498: PWR_DOM_STATE n lies at 0x0001_0100 + 8n for n = 0 to 11 and is a module register; bits [2k + 1:2k] hold the state of domain
32n + k, 0 above domain 371; it is read only and 0 at reset. -/
def Obligations.DomainStateRegisters : Prop := ∀ (s : State) (n : Nat), n < 12 →
  regAt (0x10100 + 8 * n) = some (.domState n) ∧
  (∀ b, ∀ k < 32, regValue s b (.domState n) / 2 ^ (2 * k) % 4 =
    if 32 * n + k ≤ 371 then (domOf s (32 * n + k)).state % 4 else 0) ∧
  (∀ b, regValue s b (.domState n) < 2 ^ 64 ∧ regValue State.reset b (.domState n) = 0) ∧
  (∀ h mask value, s.takes (.regWrite h (0x10100 + 8 * n) mask value) → isAdmin s h.basin = true →
    RunsTo (.regWrite h (0x10100 + 8 * n) mask value) s s
    (only h.basin [.rsp 0x0701 stOk h.ctag [.u64 (regValue s h.basin (.domState n))]])) ∧
  (∀ h mask value, s.takes (.regWrite h (0x10100 + 8 * n) mask value) → isAdmin s h.basin = false →
    RunsTo (.regWrite h (0x10100 + 8 * n) mask value) s s
    (only h.basin [.rsp 0x0701 stNotPermitted h.ctag []]))

/-- R413: a ring ORs its mask into the endpoint's doorbell word and takes no queue entry; a message of TYPE 0xFFFF with the mask in DATA
is such a ring; an endpoint that is awake reads its word, which clears it; a ring to a host endpoint is refused. -/
def Obligations.DoorbellRing : Prop := ∀ (s : State) (sender basin job : Nat) (mask : BitVec 64),
  (∀ e x, e < 0x170 ∨ 0x180 ≤ e → endOf s e = some x → (domOf s (endDomain e)).state ≠ 3 →
    ∃ t, exec (.doorbellRing sender basin job e mask) s = .next t ∧ endOf t e = some { x with bell := x.bell ||| mask } ∧
      ∀ e', e' ≠ e → endOf t e' = endOf s e') ∧
  (∀ e len, e < 0x170 ∨ 0x180 ≤ e →
    exec (.runnelMessage sender basin job e 0xFFFF len (BitVec.ofNat 352 mask.toNat)) s = exec (.doorbellRing sender basin job e mask) s) ∧
  (∀ e x, s.pending = [] → endOf s e = some x → domOn s (endDomain e) = true →
    ∃ t y, step s = .next t ∧ endOf t e = some y ∧ y.bell = 0) ∧
  (∀ e, 0x170 ≤ e → e < 0x180 →
    let u := { s with runnels := { (stampMsg s sender basin job 0xFFFF 8 (BitVec.ofNat 352 mask.toNat)).2.runnels with
      refused := s.runnels.refused + 1 } }
    exec (.doorbellRing sender basin job e mask) s = .next u ∧ u.runnels.ends = s.runnels.ends)

/-- R300: KV.DROP ends a paused conversation with reason 3 (DROPPED); of a conversation that is being resumed, or that a request has
taken over, both KV.DROP and KV.RESUME are refused with ST_KV_BUSY. -/
def Obligations.KvDropAndResumeRefusedWhenBusy : Prop := ∀ (s : State) (h : Hdr) (conv : Nat),
  (∀ c, s.takes (.kvDrop h conv) → convOf s h.basin conv = some c → c.resuming = false → convTaken s h.basin conv = none → objBusy s h.basin (.conv conv) = false →
    exec (.kvDrop h conv) s = .next (reply (endConv (s.took h 0x0403) h.basin conv 3) h 0x0403 stOk [])) ∧
  ((convOf s h.basin conv).any (·.resuming) = true ∨ (convTaken s h.basin conv).isSome = true →
    (s.takes (.kvDrop h conv) → RunsTo (.kvDrop h conv) s s (only h.basin [.rsp 0x0403 stKvBusy h.ctag []])) ∧
    (s.takes (.kvResume h conv) → RunsTo (.kvResume h conv) s s (only h.basin [.rsp 0x0402 stKvBusy h.ctag []])))

/-- R279, R303, R524: a KV.CONFIGURE whose record differs from the record in force at most in TTL_S passes its check though rows are in
use when it would pass with every row free, restarts the counts at zero, and leaves the rows, the nodes, the conversations and the
current values as they are. -/
def Obligations.KvConfigureOfTtlKeepsRows : Prop := ∀ (s : State) (h : Hdr) (rec : BitVec 384), s.takes (.kvConfigure h rec) → h.basin < s.kvs.length →
  (∀ i, i < 32 ∨ 64 ≤ i → rec.getLsbD i = (kvOf s h.basin).cfg.getLsbD i) →
  (kvCfgCheck s h.basin rec = kvCfgCheck (setKv s h.basin fun k => { k with rows := [] }) h.basin rec) ∧
  (kvCfgCheck s h.basin rec = stOk →
    let e := setKv s h.basin fun k => { k with cfg := rec, stats := {} }
    RunsTo (.kvConfigure h rec) s e (only h.basin [.rsp 0x0400 stOk h.ctag []]) ∧
    fld (kvStatsWord e h.basin) 0 255 = fld (kvStatsWord s h.basin) 0 255 ∧ (kvOf e h.basin).stats = {})

/-- R507, R518: STW_FW_CTRL lies at 0x0000_0010, is a module register and reads as 0. RESTART asks for a restart 10 ms after the reply
with cause 2 (HOST_RESTART); CONFIRM confirms a trial image and has no effect without one; no other bit has an effect. -/
def Obligations.FwCtrlWrites : Prop := ∀ (s : State) (h : Hdr) (mask value : BitVec 64),
  s.takes (.regWrite h 0x10 mask value) → s.storeOpen →
  regAt 0x10 = some .fwCtrl ∧ regValue s h.basin .fwCtrl = 0 ∧
  (isAdmin s h.basin = false → RunsTo (.regWrite h 0x10 mask value) s s (only h.basin [.rsp 0x0701 stNotPermitted h.ctag []])) ∧
  (isAdmin s h.basin = true →
    let u := if (mask &&& value).getLsbD 1 && s.boot.trial then confirmFw (s.took h 0x0701) else s.took h 0x0701
    let u := reply u h 0x0701 stOk [.u64 0]
    exec (.regWrite h 0x10 mask value) s =
      .next (if (mask &&& value).getLsbD 0 then askRestart u (s.now + 10000000) 2 else u)) ∧
  (s.boot.restartDue = none → (askRestart s (s.now + 10000000) 2) =
    { s with boot := { s.boot with restartDue := some (s.now + 10000000, 2) } }) ∧
  (confirmFw s).boot.trial = false ∧ (confirmFw s).sec.minSvn = s.sec.svn ∧
  (s.sec.revoke0 = true → (confirmFw s).sec.key0Revoked = true)

/-- R303, R390, R405, R453, R494, R511, R526, R528, R529: a command that only asks (the queries, BASIN.PAGEQ, REG.READ, TEST.RESULT,
TEST.ECHO, SEC.CERTS, PWR.STATUS, LINK.STATUS and the logs) changes nothing but the traffic of its reply, whatever it answers: memory
included, every byte reads as before. -/
def Obligations.QueriesChangeOnlyTraffic : Prop := ∀ (c : Instr) (s t : State) (k : HostCall), c.call = some k →
  k.op ∈ [0x0103, 0x0204, 0x0312, 0x0401, 0x0405, 0x0504, 0x0602, 0x0613, 0x0700, 0x0801, 0x0802, 0x0901, 0x0A00, 0x0B02, 0x0C00, 0x0C01, 0x0C02] →
  exec c s = .next t → t.core = s.core ∧ ∀ a, memGet t.mem a = memGet s.mem a

/-- R205, R206: a clearing that completes erases exactly the bytes of its frame or of its granule: those read 0, and every other
address reads as before. -/
def Obligations.ClearingErasesExactlyItsBytes : Prop := ∀ (s : State),
  (∀ g, (granOf s g).state = .clearing → (s.pwr.doms.getD (poolDomain (poolOf g)) {}).state = 2 →
    ∃ t, exec (.granuleClearComplete g true) s = .next t ∧
      ∀ a, memGet t.mem a = if granAt g ≤ a ∧ a < granAt g + 65536 then 0 else memGet s.mem a) ∧
  (∀ tier f, tier = 1 ∨ tier = 2 → (s.tiers.clearing.any fun c => c.tier == tier && c.frame == f) = true →
    (s.tiers.pages.find? fun e => e.kind == .kv && e.homeT == tier && e.homeLoc == f) = none →
    ∃ t, exec (.tierPageClearComplete (if tier = 1 then .hbm f else .lpx f) true) s = .next t ∧
      ∀ a, memGet t.mem a = if frameAt tier f ≤ a ∧ a < frameAt tier f + 4096 then 0 else memGet s.mem a)

/-- R227, R246, R247: a move to a frame, or into lent memory, that completes leaves the page's bytes as they were at its new home, where
the entry now names them and MOVING is clear (a BASIN.READ that waited for it may use it at once); every byte outside the place it moved to reads as before. A destination that has reached its
error limit meanwhile is left again at once (R233) and is not in this statement. -/
def Obligations.PageMoveKeepsContents : Prop := ∀ (s : State) (b page tier f : Nat) (e : PageEnt), s.memOk →
  pageOf s b page = some e → e.moving = some (tier, f) → e.homeT ≠ 3 → tier = 3 ∨ s.tiers.retiring.contains (tier, f) = false →
  rowAtPage (kvOf s b) page = none →
  ∃ t lastUse, exec (.pageMoveComplete b page false) s = .next t ∧
    pageOf t b page = some { e with homeT := tier, homeLoc := f, moving := none, lastUse := lastUse } ∧
    (∀ k < 4096, memGet t.mem (placeAt b page tier f + k) = memGet s.mem (homeAt e + k)) ∧
    (∀ a, a < placeAt b page tier f ∨ placeAt b page tier f + 4096 ≤ a → memGet t.mem a = memGet s.mem a)

/-- R381: a DATA segment within one page that the rule does not refuse and that need not wait stores its bytes in that page and changes
no other byte; a refused one changes no byte and DATA.REFUSED names its XID, its ADDR and the status. -/
def Obligations.DataSegmentStoresExactlyItsBytes : Prop := ∀ (s : State) (b : Nat) (d : DataSeg), s.memOk →
  dataMustWait s b (linkOf s b).dataWait d = false →
  (∀ e, dataRefusal s b d = none → pageOf s b (d.addr / 4096) = some e → d.addr % 4096 + d.bytes.length ≤ 4096 →
    ∀ a, memGet (takeData s b d).mem a =
      let p := homeAt e + d.addr % 4096
      if p ≤ a ∧ a < p + d.bytes.length then d.bytes.getD (a - p) 0 else memGet s.mem a) ∧
  (∀ st, dataRefusal s b d = some st → (takeData s b d).mem = s.mem ∧
    s.raised (takeData s b d) srcCore evDataRefused [d.xid, d.addr, st])

/-- R384: each source numbers its events with one SSEQ: an event takes its source's next number, which then counts on modulo 2^32, and
the numbers of the other sources stay. -/
def Obligations.EventsNumberedBySource : Prop := ∀ (s : State) (src code : Nat) (payload own : List Nat),
  s.raised (raise s src code payload own) src code payload ∧
  (raise s src code payload own).nextSseq src = (s.nextSseq src + 1) % 2 ^ 32 ∧
  ∀ src', src' ≠ src → (raise s src code payload own).nextSseq src' = s.nextSseq src'

/-- R28, R185, R209, R486: when a waking domain is ready, each granule of its pool that is not fenced is CLEARING, whatever it held, and
no granule of another pool changes. -/
def Obligations.WokenDomainClearsItsGranules : Prop := ∀ (s : State) (d p : Nat), (domOf s d).state = 1 → d < s.pwr.doms.length →
  (needs s d).all (domOn s) = true → domainPool d = some p →
  ∃ t, exec (.domainWakeComplete d) s = .next t ∧ (domOf t d).state = 2 ∧
    (∀ g ∈ poolGrans p, (granOf t g).state = if (granOf s g).state = .fenced then .fenced else .clearing) ∧
    (∀ g, g ∉ poolGrans p → granOf t g = granOf s g)

/-- R359, R463: on a port with MACSEC_REQ set, a frame without valid protection, or whose receive channel is bound to another basin than
that of the datagram's address, is dropped: nothing changes but the count of such frames (and the packet number noted of a frame whose protection was valid). Protection
is never valid without a tag, nor on a port that holds no association. -/
def Obligations.UnprotectedFramesDropped : Prop := ∀ (s : State) (x : RxFrame), portLink s x.port = true → s.boot.stage = 6 →
  x.linkOk = true → vlanOk s x = true → x.bufferRoom = true → bitAt (portCtrl s x.port) 5 = true → x.uncontrolled = false →
  (protectedOk s x = false → exec (.woreoSegmentReceive x) s = .next (count s 5 x.port 0 4 1)) ∧
  (x.sec = none → protectedOk s x = false) ∧ (hasSak s x.port = false → protectedOk s x = false) ∧
  (∀ b, protectedOk s x = true → x.udpOk = true → x.dstPort = 47077 → ownerOf s x.port x.dstIp = some b →
    (s.sec.scis.any fun k => k.port == x.port && some k.sci == x.sci && k.basin == b) = false →
    exec (.woreoSegmentReceive x) s = .next (count (usePort (notePn s x) x.port) 5 x.port 0 4 1))

/-- R311: a REQ.SUBMIT that fails a check is answered with the status of the first that fails, and admits nothing: not even a tag is
taken. -/
def Obligations.RefusedSubmitAdmitsNothing : Prop := ∀ (s : State) (h : Hdr) (blk : BitVec 512) (tokens : List Nat),
  let r := sizedReq s h.basin { basin := h.basin, tag := fld blk.toNat 0 31, blk := blk, prompt := tokens }
  s.takes (.reqSubmit h blk tokens) → objBusy s h.basin (.tag (fld blk.toNat 0 31)) = false → submitCheck s h.basin r ≠ stOk →
  RunsTo (.reqSubmit h blk tokens) s s (only h.basin [.rsp 0x0310 (submitCheck s h.basin r) h.ctag []]) ∧
  (submitFieldsOk r = false → submitCheck s h.basin r = stReqInvalid) ∧
  (submitFieldsOk r = true → (reqOf s h.basin r.tag).isSome = true → submitCheck s h.basin r = stTagInUse)

/-- R10, R355, R357, R358, R361, R362, R364: a Woreo segment that a port sends reads back. From its bytes on the wire a receiver takes a frame
that passes the checks of every frame, with the VID of its tag and the UDP checksum right, the addresses and ports in network order, and
every field of the header and the payload as they were sent. -/
def Obligations.SentSegmentReadsBack : Prop := ∀ (x : OutFrame) (h : WoreoHdr) (src dst dport : Nat) (payload : List Byte),
  x.body = .woreo h src dst dport payload → x.pcp < 8 → (∀ v, x.vid = some v → v < 4096) →
  src < 2 ^ 128 → dst < 2 ^ 128 → isV4 src = isV4 dst → dport < 2 ^ 16 → payload.length ≤ 8256 →
  h.kind < 256 → h.flow < 2 → h.basin < 16 → h.seq < 2 ^ 32 → h.ack < 2 ^ 32 → h.sack < 2 ^ 64 → h.rwnd < 2 ^ 16 → h.len < 2 ^ 16 →
  h.time < 2 ^ 64 → h.maxpay < 2 ^ 16 →
  let f : RxFrame := { port := x.port, fcsOk := true, secTag := none, bufferRoom := true, bytes := wireBytes x }
  f.linkOk = true ∧ f.vlan = x.vid ∧ f.uncontrolled = decide (dport = 319 ∨ dport = 320) ∧ f.udpOk = true ∧
    f.srcIp = src ∧ f.dstIp = dst ∧ f.srcPort = 47077 ∧ f.dstPort = dport ∧
    f.ver = 1 ∧ f.kind = h.kind ∧ f.synBit = h.synBit ∧ f.more = h.more ∧ f.retx = h.retx ∧ f.flow = h.flow ∧ f.basin = h.basin ∧
    f.seq = h.seq ∧ f.ack = h.ack ∧ f.sack = h.sack ∧ f.rwnd = h.rwnd ∧ f.len = h.len ∧ f.time = h.time ∧ f.maxpay = h.maxpay ∧
    f.reservedSet = false ∧ f.payload = payload

/-- R20, R117: the shoal coder is lossless: expanding the zero runs of any bytes gives the bytes. The form of the runs is the model's choice
(log entry 141). -/
def Obligations.ShoalRunsAreLossless : Prop := ∀ (l : List Byte), expandRuns (zeroRuns 0 l) = l

/-- R348, R430: a segment of gradient sums reads back at the receiver. Plain values (minor version 0) always do; coded ones do whenever the
code built for their exponents is one that a receiver accepts. -/
def Obligations.GradientSegmentReadsBack : Prop := ∀ (vs : List (BitVec 32)), vs.length ≤ 262144 →
  segmentValues false (segmentBytes false vs) = some vs ∧
  (segCodeOk (expLengths vs) = true → segmentValues true (segmentBytes true vs) = some vs)

/-- R423: traffic between two modules of a slice follows dimension order: a unit leaves along the first axis, of x, y and z, on which this
module's coordinate is not its destination's: inside the block where the slice is shorter than the torus, the shorter way round where
it is as long, and + when both ways are equally long. It leaves nowhere exactly where it is at its destination. -/
def Obligations.RoutesFollowDimensionOrder : Prop := ∀ (s : State) (x : Slice) (dst : Nat × Nat × Nat),
  (nextDir s x dst = none ↔ ∀ a < 3, sliceCoord s x a = axisOf dst a) ∧
  (∀ d, nextDir s x dst = some d →
    let a := d / 2
    let n := sliceLen x a
    let c := sliceCoord s x a
    let t := axisOf dst a
    a < 3 ∧ c ≠ t ∧ (∀ k < a, sliceCoord s x k = axisOf dst k) ∧
      (n < topoLen s a → (d % 2 = 0 ↔ c < t)) ∧
      (topoLen s a ≤ n → (d % 2 = 0 ↔ (t + n - c) % n ≤ n - (t + n - c) % n)))

/-- R71, R74, R78 to R91, R99, R185, R187, R203, R236, R237, R345, R346: the events of the reaches, and the fault of a step. A free reach that goes takes its next item;
windows and groups are loaded and decoded ahead; a lane takes its beats; the item ends when its last lane has, and its drain writes the
record; a fault stops the step, what it added to GACC is put back, the regions of its job are revoked, its windows close and its pools are
cleared; poisoned data ends its job and a poisoned weight page is reported. -/
def Obligations.ReachEventsComplete : Prop := ∀ (s : State) (sid : Nat) (t : Step), stepOf s sid = some t →
  (∀ pos r i k, reachOf t pos = some r → stepRuns t = true → unitGoes t (uReach pos) = true → r.item = none → nextItem t r = some (i, k) → descReady s t i = true →
    exec (.itemPrologue sid pos) s = .next (if kindOf (descOf t i) = 0x11 then gradPrologue s t r i k else matPrologue s t r i k)) ∧
  (∀ pos r it, reachOf t pos = some r → r.item = some it → reachWorks t pos = true →
    let d := descOf t r.desc
    let n := (it.wins.getLast?.map fun w => w.grp + 1).getD it.firstGrp
    (kindOf d = 0x10 → n < it.firstGrp + (geoOf d it.idx).grps → n < it.firstGrp + 4 ∨ groupFinished it (n - 4) = true →
      (mMode1 d && it.acts.any fun x => (List.range 16).any fun j => decide (16 * n + j < (headerAt s t (dfld d 64 111)).cols) &&
        0x7C < x.1.getD (16 * (n - it.firstGrp) + j) 0 % 128) = false →
      let row (x : (List Nat × List Nat) × Nat) : List Opnd := (List.range 16).map fun j =>
        if !decide (16 * n + j < (headerAt s t (dfld d 64 111)).cols) then Opnd.fin 0
        else if mMode1 d then alignG8 x.2 (x.1.2.getD ((16 * (n - it.firstGrp) + j) / 32) 0) (x.1.1.getD (16 * (n - it.firstGrp) + j) 0)
        else alignF4 x.2 (x.1.2.getD ((16 * (n - it.firstGrp) + j) / 32) 0) (x.1.1.getD (16 * (n - it.firstGrp) + j) 0)
      let w := dropW (fun w => w.grp + 4 ≤ n) it.wins ++ [{ grp := n, rows := (it.acts.zip it.refs).map row }]
      exec (.windowLoad sid pos) s = .next (setReach s sid pos fun r => { r with item := some { it with wins := w } })) ∧
    (∀ lane l, (it.lanes.find? fun l => l.lane == lane) = some l →
      (kindOf d = 0x10 → l.rdGrp < (geoOf d it.idx).grps → l.rdGrp ≤ l.grp + 2 →
        exec (.decoderRead sid pos lane) s = .next (decodeNext s t pos r.desc (headerAt s t (dfld d 64 111)) it l)) ∧
      (kindOf d = 0x11 → exec (.laneBeat sid pos lane) s = .next (gradBeat s t pos it l)) ∧
      (kindOf d ≠ 0x11 → let h := headerAt s t (dfld d 64 111)
        exec (.laneBeat sid pos lane) s = .next (settleLane (applyBeat s t pos r.desc h it l) t pos r.desc h lane (geoOf d it.idx).grps
          (loadTime (applyBeat s t pos r.desc h it l) t pos d) ((geoOf d it.idx).grps + 1)))) ∧
    (r.drain = none → kindOf d = 0x11 → (∀ l ∈ it.lanes, (geoOf d it.idx).toks ≤ l.grp) →
      exec (.itemJoin sid pos) s = .next (joined s t pos r.desc it (gradBeats s t pos d (geoOf d it.idx).toks)
        (it.lanes.map fun l => (l.lane, l.u)) it.refs ((geoOf d it.idx).rows * (geoOf d it.idx).cols * (geoOf d it.idx).toks))) ∧
    (∀ ls u, r.drain = none → kindOf d ≠ 0x11 → (∀ l ∈ it.lanes, (geoOf d it.idx).grps ≤ l.grp) →
      finalFolds s t pos r.desc (headerAt s t (dfld d 64 111)) (it.firstGrp + (geoOf d it.idx).grps - 1) it.lanes = .ok ls u →
      exec (.itemJoin sid pos) s = .next (joined u t pos r.desc it ((ls.map (·.clock)).foldl max 0) (ls.map fun l => (l.lane, l.acc))
        (it.refs.map fun x => if mMode1 d then x else x + 18) 0))) ∧
  (∀ pos r x u k, reachOf t pos = some r → r.drain = some x → reachWorks t pos = true →
    let d := descOf t x.desc
    let addr := mPsum d + x.idx * recSize
    wideWrite s { reachAcc s t pos x.desc with task := [3] } addr (recordBytes (tileNL (mCw d)) (tileC (mCw d)) x) = .ok k u →
    let v := setMat (setReach u sid pos fun r => { r with drain := none }) sid x.desc fun m => { m with drained := m.drained + 1 }
    let v := count (count v 0 (stepReach v t pos) 0 4 1) 0 (stepReach v t pos) 0 0 (if ownPool v t pos addr recSize then 65 else 1028)
    exec (.drainComplete sid pos) s = .next (matFinish (count v 6 (tagOfDesc t x.desc) t.basin 0 1) sid x.desc)) ∧
  (t.faults ≠ [] → t.stopped = false →
    let u := setStep (t.units.before.reverse.foldl (putBack t) s) sid fun t => { t with
      stopped := true, status := worstStatus t.faults, fill := none, units := {} }
    let u := revokeJob u t.basin t.job
    let u := clearJob (closeWindows u fun w => w.basin == t.basin && w.job == t.job) t.basin t.job
    let hit := (t.faults.filter fun f => f.status == stDataPoisoned).map fun f => f.addr / 4096
    (worstStatus t.faults ≠ stDataPoisoned → worstStatus t.faults ≠ stWeightPoisoned → exec (.stepFault sid) s = .next u) ∧
    (worstStatus t.faults = stWeightPoisoned → exec (.stepFault sid) s = .next (raiseWeights u t)) ∧
    (worstStatus t.faults = stDataPoisoned → exec (.stepFault sid) s =
      .next (endJob (setJob u t.basin t.job fun j => { j with poisoned := j.poisoned ++ hit }) t.basin t.job stDataPoisoned)))

/-- R102 to R108, R117 to R120, R399: the events of the confluence and of the epilogues. A node of a chunk tree adds its two children, and a block
with all its roots runs, or sends them on, each in its basin's turn where others wait for the tributary's adders or epilogue unit (`byTurn`); an epilogue whose blocks are all through writes its escape records and its counter area. -/
def Obligations.EpilogueEventsComplete : Prop := ∀ (s : State) (sid : Nat) (t : Step), stepOf s sid = some t →
  (∀ epi tok row node x y u v, let d := descOf t epi
    let m := matOf s t d
    let rows := epiRows s t epi
    let k := node.stage - 2
    let len := if node.stage = 0 then mNk m else if node.stage = 1 then (rows.getD row (0, 1)).2 else axisLen s t.basin (eAxes d) k
    let first := (rows.getD row (0, 1)).1
    let low := if node.stage = 0 then leafItem m row tok node.lo else leafItem m (first + (if node.stage = 1 then node.lo else 0)) tok 0
    let leaf (s : State) (j : Nat) : Got (Option PSum) :=
      if node.stage = 0 then leafVal s ((stepOf s sid).getD t) epi m low row tok j
      else if node.stage = 1 then chunkRoot t epi m low (first + j) tok s
      else if j = node.lo then axisRoot t epi m rows row tok k s
      else .ok (nodeVal t epi tok row { stage := node.stage, lo := j, n := 1 }) s
    stepRuns t = true → unitGoes t uAdder = true → kindOf d = 0x20 → row < (if node.stage = 0 then mRows m else rows.length) → tok < mTok m → node.stage ≤ 4 →
    2 ≤ node.n → confNode (len + 1) node.lo node.n 0 len = true → (2 ≤ node.stage → node.lo = axisPos s t.basin (eAxes d) k ∧ ∀ j < k, axisPos s t.basin (eAxes d) j = 0) →
    nodeVal t epi tok row node = none →
    childVal t epi tok row node.stage (confSplit node.lo node.n).1 leaf s = .ok (some x) u →
    childVal t epi tok row node.stage (confSplit node.lo node.n).2 leaf u = .ok (some y) v →
    exec (.confluenceAdd sid epi tok row node) s = .next (byTurn s t (adderTrib s t epi tok row node) 4
      (addTiles s (adderTrib s t epi tok row node)) fun _ => putNode v sid epi tok row node (confAdd x y))) ∧
  (∀ epi e, epiOf t epi = some e → e.finished = false →
    let d := descOf t epi
    let m := matOf s t d
    let oc := (epiRows s t epi).length
    (∀ tok blk roots u, stepRuns t = true → unitGoes t uEpi = true → tok < mTok m → blk < cdiv oc 32 → e.done.contains (tok, blk) = false →
      descReady s t epi = true →
      blockRoots t epi m (epiRows s t epi) tok ((List.range (min 32 (oc - 32 * blk))).map (· + 32 * blk)) s = .ok (some roots) u →
      exec (.epilogueBlock sid epi tok blk) s = .next (byTurn s t (unitTrib s t) 2 (epiTiles s (unitTrib s t)) fun _ =>
        match stopAxis u t.basin (eAxes d) with
        | some k => sendRoots u t epi tok blk k roots
        | none => runBlock u t epi tok blk oc m roots)) ∧
    (∀ u k, stepWorks t = true → t.faults = [] → mTok m * cdiv oc 32 ≤ e.done.length → stopAxis s t.basin (eAxes d) = none →
      let recs := escapeOrder (e.escapes.filter (·.record))
      let kept := recs.take (dfld d 448 463)
      let esc := kept.zipIdx.map fun x => (dfld d 352 399 + 48 * x.2, escapeBytes x.1)
      let tag := dfld m 368 383
      let cnt := (dfld d 400 447, cntBytes e tag (recs.length - kept.length) (cdiv oc 32))
      wideWriteMany s (epiAcc s t epi) (esc ++ [cnt]) = .ok k u →
      let ms := groupMates u t.basin (eAxes d)
      let v := if bitAt d.toNat 19 then sendResult (sendResult u t.basin t.sid ms epi 1 (dfld d 352 399) esc) t.basin t.sid ms epi 2
        (dfld d 400 447) [cnt] else u
      exec (.epilogueFinish sid epi) s = .next (setEpi (count (count v 6 tag t.basin 4 e.replays) 6 tag t.basin 5 e.escapes.length)
        sid epi fun e => { e with finished := true })) ∧
    (stepWorks t = true → t.faults = [] → mTok m * cdiv oc 32 ≤ e.done.length → (stopAxis s t.basin (eAxes d)).isSome = true → bitAt d.toNat 19 = false →
      exec (.epilogueFinish sid epi) s = .next (setEpi s sid epi fun e => { e with finished := true })))

/-- R130 to R148, R163, R166, R169 to R180, R338, R339, R346, R399: the events of the millraces, the riffle, the weir and the loss. A free millrace
takes the next unit, the first of a head with its pages; a row group takes its next tile; a node of a row's range tree merges its children,
and a complete row is written; a stream is read out; a pass of the weir scores, routes or combines its next token, and the passes of the loss and of a
tile of weight gradients write what they compute, when every byte they read is there; what a tile of gradients replaces is kept. A tile, a stream and a token of the weir
are taken in the basin's turn where others wait for the unit (`byTurn`). -/
def Obligations.AttentionAndWeirEventsComplete : Prop := ∀ (s : State) (sid i : Nat) (t : Step), stepOf s sid = some t →
  (∀ mill a x, attOf t i = some a → stepRuns t = true → unitGoes t (uMill mill) = true → mill < (stepTribs s t).length → (t.units.mills.any fun m => m.mill == mill) = false →
    a.nextR < aReqs (descOf t i) → descReady s t i = true → a.poisoned.contains a.nextR = false →
    (a.sel.find? fun x => x.1 == a.nextR && x.2.1 == a.nextH) = some x →
    exec (.millraceUnitStart sid i mill) s = .next (takeUnit s t i mill a.nextR a.nextH a.nextI x.2.2.2)) ∧
  (∀ mill a ch, attOf t i = some a → stepRuns t = true → unitGoes t (uMill mill) = true → mill < (stepTribs s t).length → (t.units.mills.any fun m => m.mill == mill) = false →
    a.nextR < aReqs (descOf t i) → descReady s t i = true → a.poisoned.contains a.nextR = false →
    (a.sel.find? fun x => x.1 == a.nextR && x.2.1 == a.nextH) = none →
    let e := reqEnt s t (descOf t i) a.nextR
    let cs := candPages s t (descOf t i) e a.nextH
    listFault s t (descOf t i) e a.nextH = none → chosenPages t (descOf t i) i a.nextR a.nextH cs = some ch →
    let pages := selectedPages s t (descOf t i) e a.nextH ch
    let u := setAtt s sid i fun a' => { a' with
      sel := a'.sel ++ [(a.nextR, a.nextH, mill, pages)], cands := a'.cands + cs.length, chosen := a'.chosen + ch.length }
    let u := count (count u 1 (millTrib u t mill) 0 2 cs.length) 1 (millTrib u t mill) 0 3 ch.length
    let u := if a.nextH = 0 then zeroDkv u t i a.nextR else u
    exec (.millraceUnitStart sid i mill) s = .next (takeUnit u ((stepOf u sid).getD t) i mill a.nextR a.nextH a.nextI pages)) ∧
  (∀ mill m, (t.units.mills.find? fun m => m.mill == mill) = some m → stepRuns t = true → unitGoes t (uMill mill) = true →
    let trib := (stepTribs s t).getD mill 0
    exec (.millraceTile sid mill) s = .next (byTurn s t trib 0 (millTiles s trib) fun s =>
      if aBack (descOf t m.desc) then backStep s t m else fwdStep s t m)) ∧
  (∀ r h row node a mill n p, headRanges t i r h = some (mill, n) → stepRuns t = true → unitGoes t (uMill mill) = true → kindOf (descOf t i) = 0x30 →
    attOf t i = some a → a.poisoned.contains r = false → a.rowsDone.contains (r, h, row) = false →
    let u := mergeNode s t i r h row n node
    let t' := (stepOf u sid).getD t
    ownPart u t' i r h row n = some p →
    exec (.rangeMerge sid i r h row node) s = .next (if axisPos u t'.basin (attAxes (descOf t i)) (attAxis (descOf t i)) = 0
      then finishRow u t' i r h row mill p else sendPart u t' i r h row p)) ∧
  (∀ a b c d, stepRuns t = true →
    let turn := byTurn s t (unitTrib s t) 3 (streamTiles s (unitTrib s t))
    (kindOf (descOf t i) = 0x30 → exec (.riffleStream sid i a b c d) s = .next (turn fun s => attStream s t i a b c d)) ∧
    (kindOf (descOf t i) = 0x50 → exec (.riffleStream sid i a b c d) s = .next (turn fun s => weirStream s t i a b))) ∧
  (∀ w, weirReady s sid i = some (t, w) →
    let d := descOf t i
    let turn (u : State) : State := byTurn s t (unitTrib s t) 1 (weirTiles s (unitTrib s t)) fun _ => u
    (∀ short rows rs u v, wRoute d = true → w.scored.length < wToks d → shortlist t i d w.scored.length = some short → s8At d 96 112 = true →
      tokenBytes s t i [w.scored.length] = .ok rows u →
      let h := headerAt s t (dfld d 192 239)
      routerRows t (weirAcc u t i) i h (short ++ (wFall d).toList).eraseDups u = .ok rs v →
      exec (.weirRoute sid i) s = .next (turn (setWeir (endPiece v (weirAcc v t i)) t.sid i fun w => { w with
        scored := w.scored ++ [scoreTok d h rs (rows.headD []) short] }))) ∧
    (∀ u k, wRoute d = true → wToks d ≤ w.scored.length →
      let p := routePlan d w.scored
      let last := w.tok + 1 == wToks d
      wideWriteMany s (weirAcc s t i) (tokenOut d w.scored p w.tok ++ (if last then routeEnd d p w.estimated else [])) = .ok k u →
      exec (.weirRoute sid i) s = .next (turn (setWeir u t.sid i fun w => { w with tok := w.tok + 1, done := last }))) ∧
    (∀ ls u, wRoute d = false → wideHold s (weirAcc s t i) [(dfld d 384 431 + 32 * w.tok, 32)] = .ok ls u →
      recordFault d (ls.headD []) = none →
      let r := routeOf d (ls.headD [])
      let put (v : State) (row : List Byte) : Got Unit := wideWrite v (weirAcc v t i) (dfld d 448 495 + w.tok * dfld d 368 383 * 64) row
      let next (z : State) : State := setWeir z t.sid i fun x => { x with tok := w.tok + 1, done := w.tok + 1 = wToks d }
      (∀ own v k z, r.skipped = true → tokenBytes u t i [w.tok] = .ok own v → put v (skippedRow d (own.headD [])) = .ok k z →
        exec (.weirCombine sid i) s = .next (turn (next z))) ∧
      (∀ ys v k z, r.skipped = false →
        wideHold u (weirAcc u t i) (r.items.map fun x => (slotPlace d (dfld d 176 191) x.1 x.2.1, wYbytes d)) = .ok ys v →
        put v (combineRow d (combineSum d ((r.items.map (·.2.2)).zip ys))) = .ok k z →
        exec (.weirCombine sid i) s = .next (turn (next z))))) ∧
  (∀ ls u v k, readyDesc s sid i 0x70 = some t → unitGoes t uSteward = true →
    let d := descOf t i
    let toks := List.range (lToks d)
    wideHold s (stewAcc s t i) (toks.map (fun n => (dfld d 128 175 + n * dfld d 176 191 * 64, 4 * lVocab d)) ++
      toks.map (fun n => (dfld d 192 239 + n * dfld d 240 255 * 64, 4 * lVocab d)) ++
      (if bitAt d.toNat 9 then [(dfld d 320 367, 4 * lToks d)] else [])) = .ok ls u →
    let labels := if bitAt d.toNat 9 then toks.map fun n => ofLe (((ls.getLastD []).drop (4 * n)).take 4) else []
    (labels.findIdx? fun x => lVocab d ≤ x) = none →
    wideWriteMany u (stewAcc s t i) (lossOut u t i (ls.take (lToks d)) ((ls.drop (lToks d)).take (lToks d)) labels) = .ok k v →
    exec (.lossCompute sid i) s = .next (setUnits v sid fun u => { u with losses := u.losses ++ [i] })) ∧
  (∀ rt ct m ls u v k, runsDesc s sid i 0x11 = some t → (t.units.mats.find? fun m => m.desc == i) = some m →
    let d := descOf t i
    let items := (List.range (mNk d)).map fun kc => (rt * mNtt d + ct) * mNk d + kc
    unitGoes t uAdder = true → rt < mNrt d → ct < mNtt d → items.all (itemDrained t i) = true → m.accDone.contains (rt, ct) = false →
    let rows := List.range (min (tileNL (mCw d)) (mRows d - rt * tileNL (mCw d)))
    let cols := min (tileC (mCw d)) (32 * mKlen d - ct * tileC (mCw d))
    let place (l : Nat) : Nat := dfld d 384 431 + (rt * tileNL (mCw d) + l) * dfld d 432 447 * 64 + 4 * (ct * tileC (mCw d))
    let a := { adderAcc s t d i (items.headD 0) with task := [rt, ct] }
    let begun := t.units.pieces.any fun p => p.unit == a.unit && p.desc == i && p.task == a.task && p.isWrite
    wideHold s a (items.map (fun k => (mPsum d + k * recSize, recSize)) ++
      (if bitAt d.toNat 10 then [] else rows.map fun l => (place l, 4 * cols))) = .ok ls u →
    let out := rows.map fun l => (place l, (List.range cols).map fun k =>
      gradElem (tileC (mCw d)) l k (if bitAt d.toNat 10 then 0 else (f32sOf ((ls.drop (mNk d)).getD l [])).getD k 0) (ls.take (mNk d)))
    wideWriteMany (setUnits u sid fun x => { x with
        before := x.before ++ (if begun then [] else bytesBefore u t (out.map fun x => (x.1, f32Bytes x.2))) })
      a (out.map fun x => (x.1, f32Bytes x.2)) = .ok k v →
    exec (.gradientAccumulate sid i rt ct) s = .next (gradFinish (setMat v sid i fun m => { m with
      accDone := m.accDone ++ [(rt, ct)], nonfinite := m.nonfinite + (out.map fun x => (x.2.filter nonFinite).length).sum }) sid i))

/-- R189, R190, R197, R198, R201, R202, R437: the events of the eddies and of the windows: an access to a slot, stalled accesses that go on, the
watchdog, and a transfer at a window in its turn: accepted, or refused for the first check it fails. A transfer for no step that the module has bound or
binds next is a link error, and one for the next is kept. -/
def Obligations.EddyAndWindowEventsComplete : Prop := ∀ (s : State) (sid eid : Nat) (t : Step) (e : Eddy),
  stepOf s sid = some t → eddyOf t eid = some e →
  (∀ unit off data, stepWorks t = true → off < eddySpan (descOf t e.desc) →
    ((e.stalls.any fun y => y.unit == unit && y.off == off / 64 && y.isWrite == true) = false →
      exec (.eddyWrite sid eid unit off data) s = .next (eddyAccess s t e unit off true data)) ∧
    ((e.stalls.any fun y => y.unit == unit && y.off == off / 64 && y.isWrite == false) = false →
      exec (.eddyRead sid eid unit off) s = .next (eddyAccess s t e unit off false []))) ∧
  exec (.eddyAccessResume sid eid) s = .next (finishRecords (serveTransfers (resumeStalls sid eid e.stalls s)) sid) ∧
  (stepWorks t = true → t.held = false → e.stalls ≠ [] → wdogLimit (descOf t e.desc) < wdogCount s.now e →
    let d := descOf t e.desc
    let src := stepSteward s t
    let u := raise s src evEddyStall [e.eid, dfld d 304 319, eddyHead e, eddyTail e, (e.stalls.head?.map fun y => y.unit % 16).getD 0] [t.basin]
    let f : Flt := { status := stEddyStall, src := src, desc := e.desc, tag := dfld d 304 319, aux := e.eid, arg0 := eddyHead e, arg1 := eddyTail e }
    exec (.eddyWatchdogExpiry sid eid) s = .next (endJob (setStep (stepFlt u t f) sid fun t => { t with
      status := worstStatus t.faults }) t.basin t.job stEddyStall)) ∧
  (∀ ford sx sy sz b job wid isRead roff len data part, ford < 48 → (fordOf s ford).state = 9 →
    let u := heardFord s ford
    let turn (x : Slice) : UnitTurn := turnOf x part (.transfer job wid isRead roff len data)
    let run := exec (.windowTransferReceive ford sx sy sz b job wid isRead roff len data part) s
    (∀ x, sliceAtFord u ford = some x → turn x = .bad → run = .next (faultAtFord u ford 3)) ∧
    (∀ x, sliceAtFord u ford = some x → turn x = .later → run = .next
      (receiveUnit u x { slice := swId x.word, chan := 2, src := (sx, sy, sz), dst := ownPlace u x }
        { seq := 0, flits := 0, ford := ford, job := part, unit := .transfer job wid isRead roff len data })) ∧
    ((∀ x, sliceAtFord u ford = some x → turn x = .now) →
    (∀ c, windowCheck u sx sy sz b job wid part isRead roff len = some c →
      run = .next (raise (sendUnits (giveCredits u 2 []) b part [.refuse sx sy sz wid]) (srcFord ford) evWindowRefused
          [wid, sx + 16 * sy + 256 * sz, c] [b])) ∧
    (∀ w, windowCheck u sx sy sz b job wid part isRead roff len = none → windowNamed u b job wid part = some w →
      run = .next (acceptWindow u { basin := b, job := w.job, wid := wid, x := sx, y := sy, z := sz, isRead := isRead, addr := w.lbase + 64 * roff
                                    roff := roff, left := len, data := data.take (64 * len), part := part, chan := 2, credits := [] }))))

/-- R218 to R221, R225 to R228, R233 to R240, R248: what the events of the memory tiers do: moves start in order and end with the home
switched and the old frame released; pages are copied into HBM3E or a granule; errors are counted, scrubbed and poison; poisoned model pages
are repaired from their copy or asked for; a lender's reclaim. -/
def Obligations.MemoryEventsComplete : Prop := ∀ (s : State) (b page : Nat),
  (∀ m f u, nextOp s = some m → m.copy = false → m.basin = b → m.page = page → takePlace s b page m.tier = (some f, u) →
    exec (.pageMoveStart b page) s = .next (setPage (dropOp u m) b page fun e => { e with moving := some (m.tier, f) })) ∧
  (∀ e tier f ask u, pageOf s b page = some e → e.moving = some (tier, f) →
    lentRange s b (if e.homeT = 3 then 4096 * page else 0) (if e.homeT = 3 then 4096 else 0) 0 0 = (ask, u) → ask ≠ .wait →
    let u := setPage (copyFrame u (homeAt e) (placeAt b page tier f)) b page fun e => { e with homeT := tier, homeLoc := f, moving := none }
    let left (u : State) : State :=
      if e.homeT = 3 then leaveLend { u with mem := memClear u.mem (homeAt e) 4096 } b page else releaseFrame u b 0 e.homeT e.homeLoc
    let there (u : State) : State :=
      if tier = 3 then lentPage u { e with homeT := 3, homeLoc := f } true
      else if u.tiers.retiring.contains (tier, f) then leaveFrame u tier f else u
    let v := there (left (markRetiring u e.homeT e.homeLoc))
    let w := if e.poison then v else (pageOf v b page).elim v fun e => poisonHome v e 2 false
    exec (.pageMoveComplete b page false) s = .next (settleMoved (returnLends (kvPageMoved (there (left u)) b page)) b) ∧
    exec (.pageMoveComplete b page true) s = .next (settleMoved (returnLends (kvPageMoved w b page)) b)) ∧
  (∀ m, nextOp s = some m → m.copy = true → m.basin = b → m.page = page →
    (m.again = false → exec (.pageCopy b page none) s = .next (makeCopy (dropOp s m) b page)) ∧
    (∀ e, m.again = true → pageOf s b page = some e →
      exec (.pageCopy b page none) s = .next (recopy (dropOp s m) e (e.copy.getD 0)))) ∧
  (∀ e g off, let p := copySource s b (granOf s g).job page
    pageOf s b p = some e → e.kind.readOnly = true → (e.poison = false ∨ e.copy.isSome = true) → (granOf s g).state = .owned →
    (granOf s g).basin = b → off % 4096 = 0 → off + 4096 ≤ 65536 → poolTurn s b (granOf s g).job = true →
    (ofSealed s b p || ofSet s b p || e.kind == .derived) = true → crcGood s e (readAt e) = true →
    exec (.pageCopy b page (some (g, off))) s = .next (putPoolCopy s b page p g off (readAt e))) ∧
  (s.tiers.reclaiming = true ∨ framesFree s 1 < hbmLow s →
    let u := dropRebuildable s (fun _ => true) hbmShort
    let u := moveKv hbmShort (moveWork (fun _ => true) hbmShort u.tiers.pages.length u)
    let u := if hbmShort u then reclaimLends u 1 else u
    exec .hbmReclaim s = .next { u with tiers := { u.tiers with reclaiming := decide (framesFree u 1 < hbmHigh u) } }) ∧
  (∀ e, pageOf s b page = some e → e.kind = .model → e.poison = true →
    (s.tiers.refetch.any fun r => r.basin == b && r.page == page) = false →
    (∀ f, e.copy = some f → crcGood s e (frameAt 1 f) = true → framesFree s 2 ≠ 0 →
      exec (.modelHomeRepair b page) s = .next (repairPage s e (memGets s.mem (frameAt 1 f) 4096) e.crc 0)) ∧
    (∀ f, e.copy = some f → crcGood s e (frameAt 1 f) = false → exec (.modelHomeRepair b page) s = .next (askRefetch s e)) ∧
    (e.copy = none → exec (.modelHomeRepair b page) s = .next (askRefetch s e))) ∧
  (∀ r e, let mine (r : Refetch) : Bool := r.basin == b && r.page == page
    s.tiers.refetch.find? mine = some r → pageOf s b page = some e → e.poison = true → r.next ≤ s.now →
    exec (.refetchTimer b page) s = .next (raiseRefetch { s with tiers := { s.tiers with
      refetch := updW mine (fun r => { r with next := r.next + 10000000000 }) s.tiers.refetch } } e)) ∧
  (∀ f, f < frameCount 1 → exec (.correctedError (.hbm f)) s = .next (correctedIn s 1 f)) ∧
  (∀ f, f < frameCount 2 → exec (.correctedError (.lpx f)) s = .next (correctedIn s 2 f)) ∧
  (∀ f reader, exec (.uncorrectableError (.hbm f) reader) s = .next (frameError s 1 f reader) ∧
    exec (.uncorrectableError (.lpx f) reader) s = .next (if frameCount 2 ≤ f then reserveError s else frameError s 2 f reader)) ∧
  (∀ g reader, exec (.uncorrectableError (.pool g) reader) s = .next (poolError s g reader)) ∧
  (∀ f e tier pl, (tier = 1 ∧ pl = Place.hbm f) ∨ (tier = 2 ∧ pl = Place.lpx f) → bitAt s.tiers.memCtrl.toNat 24 = true →
    pageAtFrame s tier f = some e → (scrubPass s).tiers.scrubSeen.contains (tier, f) = false →
    let u := scrubPass s
    let u := { u with tiers := { u.tiers with scrubSeen := u.tiers.scrubSeen ++ [(tier, f)] } }
    exec (.scrubRead pl .clean) s = .next u ∧ exec (.scrubRead pl .corrected) s = .next (correctedIn u tier f) ∧
      exec (.scrubRead pl .uncorrectable) s = .next (frameError u tier f .scrub)) ∧
  (∀ rec l, s.tiers.lends.find? (fun l => !l.asLender && l.index == rec) = some l →
    (l.reclaimDue = none →
      let due := s.now + 5000000000
      let u := { s with tiers := { s.tiers with
        lends := updW (fun l => !l.asLender && l.index == rec) (fun l => { l with reclaimDue := some due }) s.tiers.lends } }
      let u := raiseTrunk u evMemLendReclaim [rec, l.x + 16 * l.y + 256 * l.z, l.count, due] [l.basin]
      let n := (lentHere u l).length
      let lacks (s : State) (t : Nat) : Bool := !quotaOk s l.basin t n || framesFree s t + tierComing s t < n
      let short (s : State) : Bool := lacks s 1 && lacks s 2
      let v := if short u then moveKv short (moveWork (fun b => b == l.basin) short u.tiers.pages.length
        (dropRebuildable u (fun b => b == l.basin) short)) else u
      exec (.memLendReclaim rec) s =
        .next (returnLends ((lentHere v l).foldl (fun s e => askMove s e.basin e.page (homeTier s e) 1) v))) ∧
    (∀ t, l.reclaimDue = some t → t ≤ s.now →
      exec (.lendReclaimExpiry rec) s =
        .next (returnLends (loseLent (endJob s l.basin l.job stBorrowReclaimed) l stBorrowReclaimed)))) ∧
  (∀ f tier pl, (tier = 1 ∧ pl = Place.hbm f) ∨ (tier = 2 ∧ pl = Place.lpx f) →
    ∀ c, (s.tiers.clearing.find? fun c => c.tier == tier && c.frame == f) = some c →
    let u := { s with
      tiers := { s.tiers with clearing := dropW (fun c => c.tier == tier && c.frame == f) s.tiers.clearing }
      mem := memClear s.mem (frameAt tier f) 4096 }
    let kvp (u : State) : Option PageEnt := u.tiers.pages.find? fun e => e.kind == .kv && e.homeT == tier && e.homeLoc == f
    let gone (u : State) (e : PageEnt) : State :=
      if (rowAtPage (kvOf u e.basin) e.page).any (·.state == .clearing) then kvPageCleared u e.basin e.page else u
    let bad := noteRetiring u tier f
    exec (.tierPageClearComplete pl true) s = .next (retireFree (lendCleared (dropDeleted ((kvp u).elim u (gone u))))) ∧
    exec (.tierPageClearComplete pl false) s = .next (retireFree (lendCleared (dropDeleted ((kvp bad).elim
      (c.page.elim bad fun e => raisePoisoned bad e 1) fun e => gone (raisePoisoned (poisonPage bad e.basin e.page) e 1) e)))))

/-- R185, R203, R206, R208 to R210, R410 to R414, R562: the events of the pools, the jobs and the runnels. A granule that has been cleared, in
a pool whose domain is on, reads as zero and is OWNED by the job that holds it or was assigned it meanwhile, else FREE; one that fails its
verification is FENCED, reported and recorded, and the failure of a granule of a reach pool fences the reach. A job that a cause has ended is
stopped: its windows close, its regions are revoked, and, with no window left, its granules enter CLEARING. Once none is left, the pages that it named are free,
its number is free, and JOB.CLEARED carries the time. A closed window without a unit in flight, or after 10 µs, is gone, its credits are
returned, and its job's granules that waited for it are cleared. A message or a ring is stamped with the sender's next RSEQ and the time, and is put
at an endpoint that exists and whose domain is not HELD, which is woken; one at a HELD domain is dropped, one for no endpoint refused; a message for
the host endpoint of its own basin is raised as RUNNEL.MESSAGE. A message that has been held for 10 µs is dropped and counted; a port's
message at the management core is not. -/
def Obligations.PoolAndRunnelEventsComplete : Prop := ∀ (s : State),
  (∀ g, (granOf s g).state = .clearing → (s.pwr.doms.getD (poolDomain (poolOf g)) {}).state = 2 →
    let x := granOf s g
    let u := setJob s x.basin x.job fun j => { j with lastClear := s.now }
    let z := { u with mem := memClear u.mem (granAt g) 65536 }
    let own := if x.job = 0 then [] else [x.basin]
    let f := raise (fenceGran u g) (poolSrc (poolOf g)) evPoolClearFail [poolOf g, g - (poolGrans (poolOf g)).headD 0] own
    let f := otherFaultRecord f 2 (poolSrc (poolOf g)) 0 own.head? x.job (poolDomain (poolOf g)) g 0 0
    (∀ j, (u.pools.jobs.find? fun j => jobLive j && (jobGrans j).contains g) = some j →
      exec (.granuleClearComplete g true) s = .next (dropClosedJob (setGran z g .owned j.basin j.num) x.basin x.job)) ∧
    ((u.pools.jobs.find? fun j => jobLive j && (jobGrans j).contains g) = none →
      exec (.granuleClearComplete g true) s = .next (dropClosedJob (setGran z g .free 0 0) x.basin x.job)) ∧
    exec (.granuleClearComplete g false) s =
      .next (dropClosedJob (if poolOf g < 256 then fenceReach f (poolOf g) 1 else storeFences f) x.basin x.job)) ∧
  (∀ b job j, jobOf s b job = some j → j.killAsked = true → j.killed = none → exec (.jobKill b job) s = .next
    (clearJob (revokeJob (closeWindows (setJob s b job fun j => { j with killed := some s.now })
      fun w => w.basin == b && w.job == job) b job) b job)) ∧
  (∀ b job j t, jobOf s b job = some j → j.killed = some t → jobHeld s b job = [] → jobWindows s b job = [] →
    let u := freeNamed s j
    exec (.jobCleared b job) s = .next (raise { u with pools := { u.pools with
      jobs := dropW (fun j => j.basin == b && j.num == job) u.pools.jobs } } srcCore evJobCleared [job, max t j.lastClear - t] [b])) ∧
  (∀ b job wid, let mine (w : Window) : Bool := w.basin == b && w.job == job && w.wid == wid
    let unit (a : WinAcc) : Bool := a.basin == b && a.job == job && a.wid == wid
    let u := (s.pools.accepted.filter unit).foldl (fun s a => giveCredits s a.chan a.credits) s
    let u := { u with pools := { u.pools with
      windows := dropW (fun w => mine w && w.closing.isSome) s.pools.windows, accepted := dropW unit u.pools.accepted } }
    (s.pools.windows.any fun w => mine w && w.closing.any fun t => !windowBusy s b job wid || t + 10000 ≤ s.now) = true →
    exec (.windowCloseComplete b job wid) s = .next (match jobOf u b job with
      | none => u
      | some j =>
        if j.killed.isSome || j.closed || (u.steps.any fun t => t.basin == b && t.job == job && t.stopped && !t.faults.isEmpty)
        then dropClosedJob (clearJob u b job) b job
        else if jobWindows u b job = [] then j.toClear.foldl clearGran (setJob u b job fun j => { j with toClear := [] })
        else u)) ∧
  (∀ sender b job type len data,
    let n := (takeRseq s sender).1
    let u := (takeRseq s sender).2
    let m : RMsg :=
      { sender := sender, basin := b, job := job, rseq := n, time := u.now, type := type, len := len, data := data }
    (∀ e x, e < 0x170 ∨ 0x180 ≤ e → endOf u e = some x → (domOf u (endDomain e)).state ≠ 3 →
      (type ≠ 0xFFFF → exec (.runnelMessage sender b job e type len data) s = .next (wakeEndpoint (putMsg u e m) e sender b)) ∧
      (type = 0xFFFF → exec (.runnelMessage sender b job e type len data) s =
        .next (wakeEndpoint (setEnd u e fun x => { x with bell := x.bell ||| BitVec.ofNat 64 data.toNat }) e sender b))) ∧
    (∀ e x, e < 0x170 ∨ 0x180 ≤ e → endOf u e = some x → (domOf u (endDomain e)).state = 3 →
      exec (.runnelMessage sender b job e type len data) s = .next (addDropped u e)) ∧
    (∀ e, e < 0x170 ∨ 0x180 ≤ e → endOf u e = none →
      exec (.runnelMessage sender b job e type len data) s = .next (addRefused u)) ∧
    (b < 16 → type ≠ 0xFFFF → exec (.runnelMessage sender b job (0x170 + b) type len data) s =
      .next (raise u sender evRunnelMessage (msgWords m) [b]))) ∧
  (∀ sender b job mask, let u := (takeRseq s sender).2
    (∀ e x, e < 0x170 ∨ 0x180 ≤ e → endOf u e = some x → (domOf u (endDomain e)).state ≠ 3 →
      exec (.doorbellRing sender b job e mask) s =
        .next (wakeEndpoint (setEnd u e fun x => { x with bell := x.bell ||| mask }) e sender b)) ∧
    (∀ e x, e < 0x170 ∨ 0x180 ≤ e → endOf u e = some x → (domOf u (endDomain e)).state = 3 →
      exec (.doorbellRing sender b job e mask) s = .next (addDropped u e)) ∧
    (∀ e, (0x170 ≤ e ∧ e < 0x180) ∨ endOf u e = none → exec (.doorbellRing sender b job e mask) s = .next (addRefused u))) ∧
  (∀ e x m t rest, endOf s e = some x → x.held = (m, t) :: rest → domOn s (endDomain e) = true → t + 10000 ≤ s.now →
    (e ≠ 0x160 ∨ fromPort m = false → exec (.runnelHoldExpiry e) s =
      .next (addDropped (setEnd s e fun x => { x with held := rest }) e)) ∧
    (e = 0x160 → fromPort m = true → exec (.runnelHoldExpiry e) s = .next s))

/-- R254, R256, R308, R240, R379: what the commands of base models do when their checks pass. MODEL.CREATE maps the region as MODEL
pages homed in LPDDR5X and enters the model as LOADING, or waits where only lent frames are short; MODEL.SEAL starts verification and waits for it; the end of verification
seals the model or answers the first failure; MODEL.DELETE, for a model that no variant or teacher names, drops its programs and
closes its trees; MODEL.QUERY answers the entry; MODEL.REPAIR puts a page that matches its CRC-64 into a new frame. -/
def Obligations.BaseModelCommandsComplete : Prop := ∀ (s : State) (h : Hdr) (mid : Nat),
  (∀ ntensor addr hdrs pages, s.accepts (.modelCreate h mid ntensor addr hdrs pages) →
    (modelCreateCheck s h.basin mid ntensor addr hdrs pages = stMemQuota → lendShort s h.basin addr pages 2 = true →
      exec (.modelCreate h mid ntensor addr hdrs pages) s = .next (reclaimLends s 2)) ∧
    (modelCreateCheck s h.basin mid ntensor addr hdrs pages = stOk →
    let m : Model := { basin := h.basin, mid := mid, sealed_ := false, ntensor := ntensor, addr := addr, pages := pages, hdrs := hdrs }
    let u := mapPages (s.took h 0x0100) h.basin .model 2 (modelPages m)
    exec (.modelCreate h mid ntensor addr hdrs pages) s =
      .next (reply { u with models := { u.models with models := u.models.models ++ [m] } } h 0x0100 stOk []))) ∧
  (∀ crcs m, s.accepts (.modelSeal h mid crcs) → modelOf s h.basin mid = some m →
    crcListBreach s h.basin crcs m.pages = stOk → m.sealed_ = false →
    exec (.modelSeal h mid crcs) s =
      .next (deferCmd (setModel (s.took h 0x0101) h.basin mid fun m => { m with sealing := some crcs })
        { h := h, opcode := 0x0101, obj := .model mid })) ∧
  (∀ b m crcs, modelOf s b mid = some m → m.sealing = some crcs →
    let st := if crcsAgree s b crcs (modelPages m) then modelBreach (rdB s b) m.addr (4096 * m.pages) m.hdrs m.ntensor else stCrcMismatch
    let u := if st = stOk then recordCrcs s b (modelPages m) else s
    exec (.sealVerifyComplete b mid) s =
      .next (answerDeferred (setModel u b mid fun m => { m with sealing := none, sealed_ := st == stOk }) b
        (fun d => d.opcode == 0x0101 && d.obj == .model mid) st [])) ∧
  (∀ m, s.accepts (.modelDelete h mid) → modelOf s h.basin mid = some m → modelInUse s h.basin mid = false →
    let u := setModel (s.took h 0x0102) h.basin mid fun m => { m with deleted := true, pinned := false }
    let u := { u with
      models := { u.models with programs := dropW (fun p => p.basin == h.basin && fld p.word.toNat 0 31 == mid) u.models.programs }
      serving := { u.serving with modelEnds := u.serving.modelEnds ++ [(h.basin, mid)] } }
    exec (.modelDelete h mid) s =
      .next (reply (dropDeleted (clearDeleted (sweepKv (closeTrees u h.basin mid) h.basin) h.basin mid)) h 0x0102 stOk [])) ∧
  (s.accepts (.modelQuery h mid) →
    RunsTo (.modelQuery h mid) s s (only h.basin [match modelOf s h.basin mid with
      | none => .rsp 0x0103 stModelUnknown h.ctag []
      | some m => .rsp 0x0103 stOk h.ctag [.u8 (b2n m.sealed_), .u32 m.ntensor, .u32 m.pages,
          .u32 (s.models.variants.filter fun v => v.basin == h.basin && v.base == mid && v.state != .free).length, .u8 (b2n m.pinned)]])) ∧
  (∀ page crc data e, s.accepts (.modelRepair h mid page crc data) → pageOf s h.basin (page / 4096) = some e → page % 4096 = 0 →
    ((modelOf s h.basin mid).isSome || (variantOf s h.basin mid).isSome) = true → pageOfId s h.basin mid e.page = true →
    let want := if (ofSealed s h.basin e.page || ofSet s h.basin e.page) && !e.crcLost then e.crc else crc
    crc64 data = want → e.poison = true → 0 < framesFree s 2 →
    exec (.modelRepair h mid page crc data) s = .next (reply (repairPage (s.took h 0x0105) e data want 1) h 0x0105 stOk []))

/-- R258, R259, R264, R266, R268, R270, R559: what the commands of variants do when their checks pass, and what the end of a
verification, of a retirement and of a build do. -/
def Obligations.VariantCommandsComplete : Prop := ∀ (s : State) (h : Hdr) (vid : Nat),
  (∀ setPages set crcs daddr dlen,
    vid ≠ 0 →
    setBreach s h.basin setPages set crcs daddr dlen = stOk →
    let g : GenSet := { set := set, setPages := setPages, daddr := daddr, dlen := dlen, crcs := crcs }
    (s.accepts (.variantCreate h vid setPages set crcs daddr dlen) → idLive s h.basin vid = false →
      let u := s.took h 0x0200
      let v : Variant :=
        { basin := h.basin, vid := vid, index := freeIndex s, base := tierNum s h.basin set 4, state := .verifying, cur := g }
      exec (.variantCreate h vid setPages set crcs daddr dlen) s =
        .next (deferCmd (addVerify { u with models := { u.models with variants := u.models.variants ++ [v] } }
          { basin := h.basin, vid := vid, update := false, crcs := crcs, gs := g }) { h := h, opcode := 0x0200, obj := .model vid })) ∧
    (s.accepts (.variantUpdate h vid setPages set crcs daddr dlen) → ((variantOf s h.basin vid).any fun v => v.state.serves) = true →
      (s.trains.any fun t => t.basin == h.basin && fld t.word.toNat 32 63 == vid) = false →
      exec (.variantUpdate h vid setPages set crcs daddr dlen) s =
        .next (deferCmd (addVerify (s.took h 0x0201)
          { basin := h.basin, vid := vid, update := true, crcs := crcs, gs := g }) { h := h, opcode := 0x0201, obj := .model vid }))) ∧
  (∀ b x g, (s.models.verifies.find? fun x => x.basin == b && x.vid == vid) = some x → x.tid = none → x.update = false →
    verifyStatus s x = (stOk, g) →
    let u : State := { s with models := { s.models with verifies := dropFirst (fun y => y.basin == b && y.vid == vid) s.models.verifies } }
    let w := recordCrcs u b (setPagesOf g)
    exec (.deltaVerifyComplete b vid) s =
      .next (answerDeferred (resetBlocked (setVariant w b vid fun v => { v with cur := g, state := .cold, base := tierNum w b g.set 4 }) b vid) b
        (fun d => d.opcode == 0x0200 && d.obj == .model vid) stOk [])) ∧
  (∀ v, s.accepts (.variantDelete h vid) → ((linkOf s h.basin).deferred.any fun d => d.obj == .model vid && d.opcode != 0x0205) = false →
    variantOf s h.basin vid = some v → v.state ≠ .retiring →
    (s.trains.any fun t => t.basin == h.basin && fld t.word.toNat 64 95 == vid) = false →
    let u := answerDeferred (s.took h 0x0202) h.basin (fun d => d.opcode == 0x0205 && d.obj == .model vid) stVariantDeleted []
    let u := setVariant u h.basin vid fun v => { v with state := .retiring, building := 0, blocked := false, pinned := false }
    let u := voidVids u h.basin [vid]
    let u := { u with models := { u.models with verifies := dropW (fun x => x.basin == h.basin && x.vid == vid) u.models.verifies } }
    exec (.variantDelete h vid) s =
      .next (reply (clearRetiring (sweepKv (closeTrees u h.basin vid) h.basin) h.basin vid) h 0x0202 stOk [])) ∧
  (∀ b v, variantOf s b vid = some v → v.state = .retiring → stepsOfVariant s b vid = false → reqsOf s b vid = [] →
    ((kvOf s b).convs.any fun c => c.vid == vid) = false → (s.tiers.clearing.any fun c => c.basin == b && c.obj == vid) = false →
    v.unmapped = true →
    (s.trains.any fun t => t.basin == b && fld t.word.toNat 32 63 == vid) = false →
    BecomesCore (.variantRetireComplete b vid) s { s with models := { s.models with
      variants := dropW (fun v => v.basin == b && v.vid == vid) s.models.variants } }) ∧
  (∀ pin v, s.accepts (.variantPin h vid pin) → variantOf s h.basin vid = some v → v.state ≠ .retiring →
    exec (.variantPin h vid pin) s = .next (reply
      (unpinVoid (setVariant (s.took h 0x0203) h.basin vid fun v => { v with pinned := pin != 0 }) h.basin vid pin) h 0x0203 stOk [])) ∧
  (∀ pin m, s.accepts (.variantPin h vid pin) → variantOf s h.basin vid = none → sealedOf s h.basin vid = some m →
    exec (.variantPin h vid pin) s = .next (reply (askCopies
      (unpinVoid (setModel (s.took h 0x0203) h.basin vid fun m => { m with pinned := pin != 0 }) h.basin vid pin) h.basin) h 0x0203 stOk [])) ∧
  (s.accepts (.variantQuery h vid) →
    RunsTo (.variantQuery h vid) s s (only h.basin [match variantOf s h.basin vid with
      | none => .rsp 0x0204 stVariantUnknown h.ctag []
      | some v => .rsp 0x0204 stOk h.ctag [.record 64 (variantWord s v)]])) ∧
  (∀ v, s.accepts (.variantPrefetch h vid) → variantOf s h.basin vid = some v → v.state = .resident →
    RunsTo (.variantPrefetch h vid) s s (only h.basin [.rsp 0x0205 stOk h.ctag []])) ∧
  (∀ v, s.accepts (.variantPrefetch h vid) → variantOf s h.basin vid = some v → v.state ≠ .retiring → v.state ≠ .resident →
    v.blocked = false →
    BecomesCore (.variantPrefetch h vid) s (deferCmd s { h := h, opcode := 0x0205, obj := .model vid })) ∧
  (∀ b v m, variantOf s b vid = some v → modelOf s b v.base = some m → v.state = .cold → v.building = 0 → v.blocked = false →
    variantNeeded s b vid = true → badSource s m v.cur = none →
    exec (.materialisationStart b vid) s =
      .next (askCopies (setVariant s b vid fun v => { v with state := .materialising, building := 1 }) b)) ∧
  (∀ b v m, variantOf s b vid = some v → modelOf s b v.base = some m → v.state = .materialising → v.building = 1 →
    let u := dropBadDerived s b v.cur
    badSource u m v.cur = none → failingSource u m v.cur = none → (derivedMapped u b v.cur).any (badPage u b) = false →
    genFits u m v.cur = true →
    exec (.materialisationComplete b vid) s =
      .next (answerDeferred (setVariant (makeGen u m v.cur) b vid fun v => { v with
        state := .resident, building := 0, mats := sat 32 (v.mats + 1) }) b (fun d => d.opcode == 0x0205 && d.obj == .model vid) stOk [])) ∧
  (∀ b v m g, variantOf s b vid = some v → modelOf s b v.base = some m → v.state = .resident → v.building = 2 → v.pend = some g →
    badSource s m g = none → failingSource s m g = none → genFits s m g = true →
    exec (.materialisationComplete b vid) s =
      .next (setVariant (makeGen s m g) b vid fun v => { v with pendBuilt := true, building := 0, mats := sat 32 (v.mats + 1) }))

/-- R278, R279, R287, R298, R299, R300, R303: what the commands of the KV store do when their checks pass. KV.CONFIGURE with
nothing new but TTL_S keeps every row; with more it maps the new list area and releases the pad rows; either way the counters are
cleared. KV.QUERY answers at once, also while a resumption of the conversation is open, and KV.STATS answers the
store; KV.RESUME brings the rows back and restarts the time to live; KV.DROP ends the
conversation with reason 3 (DROPPED); KV.PREFIX_FLUSH frees every idle node of the variant, or of all, and counts them; at a whole
second every conversation that is due ends with reason 0 (TTL). -/
def Obligations.KvCommandsComplete : Prop := ∀ (s : State) (h : Hdr),
  (∀ rec, s.accepts (.kvConfigure h rec) → kvCfgCheck s h.basin rec = stOk → kvMoreThanTtl (kvOf s h.basin).cfg rec = false →
    RunsTo (.kvConfigure h rec) s
      (setKv (setKv s h.basin fun k => { k with cfg := rec }) h.basin fun k => { k with stats := {} })
      (only h.basin [.rsp 0x0400 stOk h.ctag []])) ∧
  (∀ rec, s.accepts (.kvConfigure h rec) → kvCfgCheck s h.basin rec = stOk → kvMoreThanTtl (kvOf s h.basin).cfg rec = true →
    let u := unmapPages (s.took h 0x0400) h.basin ((s.tiers.pages.filter fun e => e.basin == h.basin && e.kind == .kv).map (·.page))
    let u := { u with serving := { u.serving with
      groups := updW (fun g => g.basin == h.basin) (fun g => { g with padRow := none, padBook := [] }) u.serving.groups } }
    let u := setKv u h.basin fun k => { k with cfg := rec, rows := [], nodes := [] }
    let la := kvFld (kvOf u h.basin) 256 303 / 4096
    let u := rebook (mapPages u h.basin .kv 1 ((List.range (kvFld (kvOf u h.basin) 320 351)).map (· + la))) h.basin
    exec (.kvConfigure h rec) s = .next (reply (setKv u h.basin fun k => { k with stats := {} }) h 0x0400 stOk [])) ∧
  (∀ conv, s.accepts (.kvQuery h conv) →
    RunsTo (.kvQuery h conv) s s (only h.basin [match convOf s h.basin conv, convTaken s h.basin conv with
      | some c, _ => let n := rowCounts (kvOf s h.basin) c.rows
        .rsp 0x0401 stOk h.ctag [.u8 (b2n c.resuming), .u32 n.1, .u32 n.2.1, .u32 n.2.2, .u32 (convLeft s c)]
      | none, some r => let n := rowCounts (kvOf s h.basin) r.rows
        let back := r.rows.all fun id => (rowOf (kvOf s h.basin) id).any fun w => w.tier == 1 && w.moving.isNone
        .rsp 0x0401 stOk h.ctag [.u8 (if r.state == .queued && !back then 1 else 2), .u32 n.1, .u32 n.2.1, .u32 n.2.2, .u32 0]
      | none, none => .rsp 0x0401 (convMissing s h.basin conv) h.ctag []])) ∧
  (∀ conv c, s.accepts (.kvResume h conv) → objBusy s h.basin (.conv conv) = false → convOf s h.basin conv = some c → c.resuming = false →
    convTaken s h.basin conv = none →
    let u := setKv (s.took h 0x0402) h.basin fun k => { k with
      convs := updW (fun c => c.conv == conv) (fun c => { c with resuming := true, pauseSec := ttlNow s }) k.convs }
    exec (.kvResume h conv) s =
      .next (settleResumes (bringBack (deferCmd u { h := h, opcode := 0x0402, obj := .conv conv }) h.basin) h.basin)) ∧
  (∀ conv c, s.accepts (.kvDrop h conv) → objBusy s h.basin (.conv conv) = false → convOf s h.basin conv = some c → c.resuming = false →
    convTaken s h.basin conv = none →
    exec (.kvDrop h conv) s = .next (reply (endConv (s.took h 0x0403) h.basin conv 3) h 0x0403 stOk [])) ∧
  (∀ vid, s.accepts (.kvPrefixFlush h vid) →
    let ns := (kvOf s h.basin).nodes.filter fun n => (vid == 0 || n.vid == vid) && rowRefs s h.basin n.row == 0
    let u := ns.foldl (fun s n => freeNode s h.basin n) (s.took h 0x0404)
    (ns = [] → RunsTo (.kvPrefixFlush h vid) s s (only h.basin [.rsp 0x0404 stOk h.ctag [.u32 0]])) ∧
    (ns ≠ [] → exec (.kvPrefixFlush h vid) s = .next (settleFlush (deferCmd
      (setKv u h.basin fun k => { k with flushing := k.flushing ++ [(vid, ns.length, ns.map (·.row))] })
      { h := h, opcode := 0x0404, obj := .ptree vid }) h.basin))) ∧
  (s.accepts (.kvStats h) →
    RunsTo (.kvStats h) s s (only h.basin [.rsp 0x0405 stOk h.ctag [.record 64 (kvStatsWord s h.basin)]])) ∧
  (s.now % 1000000000 = 0 →
    exec .kvTtlCheck s = .next ((List.range 16).foldl (fun s b =>
      ((kvOf s b).convs.filter (convDue s)).foldl (fun s c => endConv s b c.conv 0) s) s))

/-- R297, R298, R300, R304: when a conversation ends it is found no more, its identifier is remembered as expired, and the event
KV.EXPIRED with the conversation, the reason and the number of its own rows is raised, but not in its basin's teardown (R302). -/
def Obligations.EndedConversationIsGone : Prop := ∀ (s : State) (b c reason : Nat) (x : Conv),
  convOf s b c = some x → b < s.kvs.length → reason < 5 →
  convOf (endConv s b c reason) b c = none ∧ convMissing (endConv s b c reason) b c = stKvExpired ∧
    let own := x.rows.filter fun id => (rowOf (kvOf s b) id).any fun r => r.state == .paused
    (inTeardown s b = false → ∃ e ∈ (endConv s b c reason).events, e.code = evKvExpired ∧ e.src = srcCore ∧ e.time = s.now ∧
      e.payload = [c % 2 ^ 64, reason, own.length % 2 ^ 64])

/-- R305, R306, R310, R311, R312: what the commands of requests and groups do when their checks pass. REQ.SUBMIT admits the request
with its bookings and its conversation or its matched prompt; REQ.CANCEL waits for the request to be settled, or answers the end
status of one that has ended; REQ.QUERY answers the entry; REQ.GROUP applies the record at once to a group that runs and holds no
step, and keeps it for the next boundary of any other; ten seconds after its final entry was sent, a tag is freed. -/
def Obligations.RequestCommandsComplete : Prop := ∀ (s : State) (h : Hdr) (tag : Nat),
  (∀ blk tokens, fld blk.toNat 0 31 = tag → s.accepts (.reqSubmit h blk tokens) →
    let r := sizedReq s h.basin { basin := h.basin, tag := tag, blk := blk, prompt := tokens }
    submitCheck s h.basin r = stOk →
    exec (.reqSubmit h blk tokens) s = .next (reply (takeIn (s.took h 0x0310) h.basin r) h 0x0310 stOk [])) ∧
  (∀ r, s.accepts (.reqCancel h tag) → reqOf s h.basin tag = some r → r.state ≠ .ended →
    BecomesCore (.reqCancel h tag) s (deferCmd s { h := h, opcode := 0x0311, obj := .tag tag, arg := s.now, at_ := s.now })) ∧
  (∀ r, s.accepts (.reqCancel h tag) → reqOf s h.basin tag = some r → r.state = .ended →
    RunsTo (.reqCancel h tag) s s (only h.basin [.rsp 0x0311 stAlreadyComplete h.ctag [.u16 r.endStatus]])) ∧
  (∀ r, s.accepts (.reqQuery h tag) → reqOf s h.basin tag = some r →
    RunsTo (.reqQuery h tag) s s (only h.basin [.rsp 0x0312 stOk h.ctag [.u8 r.state.num,
      .u8 (if r.state = .queued then waitReason s r else 0), .u8 (rCls r), .u8 r.lastGid,
      .u16 (if r.state = .ended then r.endStatus else r.lastStatus), .u32 r.newTok, .u32 r.committed, .u64 (rDeadline r)]])) ∧
  (∀ rec g, s.accepts (.reqGroup h rec) → groupOk s h.basin rec = true → groupOf s h.basin (gGid rec) = some g →
    (groupIdle g = true →
      exec (.reqGroup h rec) s = .next (reply (applyGroup (s.took h 0x0313) h.basin (gGid rec) rec) h 0x0313 stOk [])) ∧
    (groupIdle g = false → RunsTo (.reqGroup h rec) s (setGroup s h.basin (gGid rec) fun g => { g with next := some rec })
      (only h.basin [.rsp 0x0313 stOk h.ctag []]))) ∧
  (∀ rec, s.accepts (.reqGroup h rec) → groupOk s h.basin rec = true → groupOf s h.basin (gGid rec) = none → gClasses rec ≠ 0 →
    exec (.reqGroup h rec) s = .next (reply (applyGroup (s.took h 0x0313) h.basin (gGid rec) rec) h 0x0313 stOk [])) ∧
  (∀ b r, reqOf s b tag = some r → r.state = .ended → (r.finalAt.any fun t => t + 10000000000 ≤ s.now) = true →
    exec (.tagExpiry b tag) s = .next { s with serving := { s.serving with
      requests := dropW (fun r => r.basin == b && r.tag == tag) s.serving.requests } })

/-- R314 to R316, R319, R321, R555: the events of steps. A free group that holds no step forms a batch; one that runs a step of a
lower class may form only a C0 batch; one that holds a step and forms no C0 batch resumes it. A step whose descriptors all pass is
bound once firmware has filled its slots, its domains are on and its seeds are drawn. When every unit of a serving step has stopped and the
boundary's reads are done, its outcomes are committed and the boundary closes with them; a stopped step's boundary closes with its status, and
a read that fails stops the step and closes the boundary once its units have stopped. A basin's requests outside any step are settled and their records sent;
with no step in the basin, those of a retiring variant end too. -/
def Obligations.StepEventsComplete : Prop := ∀ (s : State) (sid : Nat),
  (∀ b gid g, let goes := (groupOf s b gid).any fun g => g.twelve && !g.tokWaiting
    let v := if goes then resumeSuspended b (liveReqs s b).length (setGroup s b gid fun g => { g with twelve := false }) else s
    let u := settleResumes (bringBack v b) b
    groupOf u b gid = some g → g.tokWaiting = false → u.boot.stage = 6 → u.pwr.brown = none → inTeardown u b = false →
    (g.run = none → g.heldStep = none → exec (.batchForm b gid) s = .next (formBatch u b gid false)) ∧
    (∀ x t, g.run = some x → g.heldStep = none → stepOf u x = some t → t.cls ≠ 0 → t.stopped = false →
      exec (.batchForm b gid) s = .next (formBatch u b gid true)) ∧
    (∀ x, g.run = none → g.heldStep = some x → ((groupOf (formBatch u b gid true) b gid).bind (·.run)) = none →
      exec (.batchForm b gid) s =
        .next (setGroup (resumeStep (formBatch u b gid true) x) b gid fun g => { g with run := some x, heldStep := none }))) ∧
  (let w := fillStep sid s
    ∀ t, stepOf w sid = some t → t.bound = false → t.stopped = false → t.held = false → t.fill = none → heldQuiet w t = true →
    w.boot.stage = 6 → jobClearing w t.basin t.job = false → let u := saveHeld w t
    let x := { t with descs := readDescs u t }
    (∀ i < x.descs.length, bindStatus u x i = 0) → (∀ d ∈ stepDomains u x, d ∉ reserved u ∧ domOn u d = true) →
    (((riffleOf x).any fun r => !rSeedm r) && d1Waits u) = false →
    ((pinsOf u x).any fun p => ((pageOf u x.basin p).bind (·.moving)).isSome) = false → sliceBound u x = false →
    let (seeds, v) := stepSeeds u x
    seedCount x ≤ seeds.length → exec (.stepBind sid) s = .next (startReduce (some t) (bindDone v x seeds) sid)) ∧
  (∀ t, stepOf s sid = some t → t.held = false → unitsStopped s t = true → drawWaits s t = false →
    (t.stopped = true → exec (.stepBoundary sid) s = .next (closeBoundary s t s.now t.status (badOutcs s t t.status))) ∧
    (∀ u w, t.stopped = false → boundaryReads s t = .ok none u → stepOf u sid = some w →
      (∀ p, w.kind = .serve p →
        let (os, v) := goodOutcs w u.now (stepSlots u w) u
        exec (.stepBoundary sid) s =
          .next (closeBoundary (os.foldl (fun s o => advance s w o) (unbindEddies (commitKv v w) w)) w u.now 0 os)) ∧
      (∀ tid phase, w.kind = .train tid phase →
        exec (.stepBoundary sid) s = .next (closeBoundary (unbindEddies (commitKv u w) w) w u.now 0 []))) ∧
    (∀ x u w, t.stopped = false → boundaryReads s t = .ok (some x) u → stepOf (areaFault u sid x) sid = some w →
      let v := areaFault u sid x
      exec (.stepBoundary sid) s =
        .next (if unitsStopped v w then closeBoundary v w v.now w.status (badOutcs v w w.status) else v))) ∧
  (∀ b, let idle := !(s.steps.any fun t => t.basin == b)
    let w := settleOut s b s.now false idle
    let u := if idle then sweepKv (endConvs w b) b else w
    let v := (sendTok u b 1 255 (offRecs u b [0]) []).2
    exec (.offstepSettle b) s = .next (dropOffends (sendTok v b 0 255 (offRecs v b [1, 2, 3]) []).2 b))

/-- R333, R336, R337, R348, R352, R377: what the commands of training objects do when their checks pass. -/
def Obligations.TrainingCommandsComplete : Prop := ∀ (s : State) (h : Hdr) (tid : Nat),
  (∀ word, fld word.toNat 0 31 = tid → s.accepts (.trainCreate h word) →
    trainCheck s { basin := h.basin, word := word } = stOk →
    let u : State := { s.took h 0x0500 with trains := s.trains ++ [{ basin := h.basin, word := word }] }
    exec (.trainCreate h word) s = .next (deferCmd (askCopies u h.basin) { h := h, opcode := 0x0500, obj := .train tid })) ∧
  (∀ b t, trainOf s b tid = some t → t.state = .creating →
    exec (.shadowStateSet b tid) s = .next (answerDeferred (setTrain (setShadow s t) b tid fun t => { t with state := .idle }) b
      (fun d => d.opcode == 0x0500 && d.obj == .train tid) stOk [])) ∧
  (∀ addr t, s.accepts (.trainFeed h tid addr) → trainOf s h.basin tid = some t → t.state ≠ .failed → t.state ≠ .creating →
    addr % 8 = 0 → areaKind s h.basin .work addr 8 = true → rdB s h.basin (addr + 4) 4 = 0 →
    feedOk s h.basin (rdB s h.basin addr 4) (addr + 8) = true → feedsWaiting s t < 16 →
    RunsTo (.trainFeed h tid addr) s (setTrain s h.basin tid fun t => { t with
        feeds := t.feeds ++ [addr], readyAt := if t.feeds.isEmpty && t.phase = 0 then s.now else t.readyAt })
      (only h.basin [.rsp 0x0501 stOk h.ctag []])) ∧
  (∀ t, trainOf s h.basin tid = some t →
    (s.accepts (.trainStart h tid) → t.state = .idle ∨ t.state = .stopped →
      RunsTo (.trainStart h tid) s (setTrain s h.basin tid fun t => { t with state := .running, stopping := false, readyAt := s.now })
        (only h.basin [.rsp 0x0502 stOk h.ctag []])) ∧
    (s.accepts (.trainStop h tid) → t.state = .running → trainBusy s t = true →
      BecomesCore (.trainStop h tid) s (setTrain (deferCmd s { h := h, opcode := 0x0503, obj := .train tid }) h.basin tid fun t => { t with
        stopping := true })) ∧
    (s.accepts (.trainStop h tid) → t.state = .running → trainBusy s t = false →
      exec (.trainStop h tid) s = .next (stopTrain (deferCmd (s.took h 0x0503) { h := h, opcode := 0x0503, obj := .train tid }) t 0)) ∧
    (s.accepts (.trainQuery h tid) → RunsTo (.trainQuery h tid) s s (only h.basin [.rsp 0x0504 stOk h.ctag [.u8 t.state.num, .u16 t.last, .u32 t.micro, .u32 t.updates,
      .u32 t.pubs, .u32 t.nonfinite, .u32 t.empty, .u32 t.match_]])) ∧
    (∀ v l, s.accepts (.trainExport h tid) → t.state ≠ .failed → variantOf s h.basin (tnVid t) = some v →
      exportSet (if tnXtable t = 0 then none else some (codeLens (tierBytes s h.basin (tnXtable t) 8)))
        (tierBytes s h.basin v.cur.set (min (tierNum s h.basin (v.cur.set + 8) 4) (4096 * v.cur.setPages))) = some l →
      exec (.trainExport h tid) s = .next (reply (sendData (s.took h 0x0505) h.basin 0 h.ctag l) h 0x0505 stOk [.u32 l.length])) ∧
    (s.accepts (.trainDelete h tid) → t.state ≠ .running → exec (.trainDelete h tid) s = .next (reply (dropTrain (s.took h 0x0506) t stOk) h 0x0506 stOk [])))

/-- R377, R522, R526, R528, R529: what the commands over the logs and the counters answer, and the folding of the units' counts. The
administration basin reads every entry and every record; any other basin reads those addressed to it and its own. -/
def Obligations.LogCommandsComplete : Prop := ∀ (s : State) (h : Hdr),
  (∀ start max, s.accepts (.logRead h start max) → 1 ≤ max → max ≤ 128 →
    let es := ((ringFrom s.logs.ring start).filter fun e => isAdmin s h.basin || bitAt e.basins h.basin).take max
    RunsTo (.logRead h start max) s s (only h.basin [.rsp 0x0C00 stOk h.ctag
      ([.u32 (ringOldest s.logs.ring s.logs.lseq), .u32 s.logs.lseq, .u32 s.logs.lost, .u16 es.length] ++
        es.map fun e => .record 96 (logEntryWord e))])) ∧
  (∀ start max, s.accepts (.logFaults h start max) → 1 ≤ max → max ≤ 64 →
    let ws := ((faultWords s).filter fun w => (fld w 0 31 == start || seqBefore start (fld w 0 31)) &&
      (isAdmin s h.basin || (fld w 128 131 == h.basin && !bitAt w 132))).take max
    RunsTo (.logFaults h start max) s s (only h.basin [.rsp 0x0C01 stOk h.ctag
      ([.u32 (((faultWords s).head?.map (fld · 0 31)).getD s.logs.fseq), .u32 s.logs.fseq, .u16 ws.length] ++
        ws.map fun w => .record 64 w)])) ∧
  (∀ set index n, s.accepts (.logCounters h set index) → setSize set = some n → index < n → maySee s h.basin set index = true →
    RunsTo (.logCounters h set index) s s (only h.basin [.rsp 0x0C02 stOk h.ctag
      (.u64 s.now :: (ctrVals s.logs.ctrs set index (if set = 6 then h.basin else 0)).map .u64)])) ∧
  (∀ mask, s.accepts (.logSubscribe h mask) → RunsTo (.logSubscribe h mask) s (setLink s h.basin fun l => { l with subs := mask })
    (only h.basin [.rsp 0x0C03 stOk h.ctag []])) ∧
  (∀ bytes, s.accepts (.testEcho h bytes) → RunsTo (.testEcho h bytes) s s (only h.basin [.rsp 0x0802 stOk h.ctag [.bytes bytes]])) ∧
  (let u := (openCounts s).foldl addOpen s;
    exec .counterFold s = .next { u with logs := { u.logs with
      ctrs := u.logs.localCtrs.foldl foldSet u.logs.ctrs, localCtrs := [] } })

/-- R356 to R359, R362 to R372, R381, R387, R392: the events of the ports and of Woreo. A datagram that passes every check is counted, the
packet number of its protection noted, its acknowledgement taken and its segment passed on, and with SYN it opens its flow; the timers of segments, of acknowledgements and of gathered
records; the room that returns; what resolves and answers addresses; a change of a port's link. -/
def Obligations.NetworkEventsComplete : Prop := ∀ (s : State),
  (∀ x b, portLink s x.port = true → s.boot.stage = 6 → x.linkOk = true → vlanOk s x = true → x.bufferRoom = true →
    (x.uncontrolled = false → (x.sec.isSome || bitAt (portCtrl s x.port) 5) = true → protectedOk s x = true) →
    (bitAt (portCtrl s x.port) 5 = true →
      (s.sec.scis.any fun k => k.port == x.port && some k.sci == x.sci && k.basin == b) = true) →
    x.udpOk = true → x.dstPort = 47077 → ownerOf s x.port x.dstIp = some b → x.basin = b → headerOk x = true → inTeardown s b = false →
    (((basinOf s b).map (·.host.hosts)).getD []).contains x.srcIp = true →
    let u := count (usePort (notePn s x) x.port) 5 x.port 0 0 1
    (x.synBit = true → exec (.woreoSegmentReceive x) s = .next (openFlow u b x.flow x) ∧ exec (.syn x) s = .next (openFlow u b x.flow x)) ∧
    (x.synBit = false → (flowOf u b x.flow).opened = true →
      let v := takeAck (setFlow u b x.flow fun fl => { fl with
        peerIp := x.srcIp, peerPort := x.port, peerUdp := x.srcPort, ownIp := x.dstIp }) b x.flow x.ack x.sack x.rwnd
      (x.kind = 6 → exec (.woreoSegmentReceive x) s = .next v) ∧
      (x.kind ≠ 6 → exec (.woreoSegmentReceive x) s = .next (takeSegment v b x.flow x)))) ∧
  (∀ b, exec (.dataWriteResume b) s = .next (resumeData s b [] (linkOf s b).dataWait)) ∧
  (∀ b f seq g, ((flowOf s b f).sent.find? fun g => g.seq == seq) = some g → g.due ≤ s.now → (flowOf s b f).stalled = false →
    let t := if maxRetry s b ≤ g.sends + 1 then rtoMax s b else min (2 * g.timer) (rtoMax s b)
    let v := resend s b f (retxPort s b f (g.exps + 1)) g
    let w := setSent v b f seq fun x => { x with timer := t, due := v.now + t, sends := x.sends + 1, exps := x.exps + 1 }
    exec (.rtoExpiry b f seq) s = .next (stallIfSpent w b f (g.sends + 1))) ∧
  (∀ b f t, (flowOf s b f).ackDue = some t → t ≤ s.now → exec (.ackDelayExpiry b f) s = .next (sendAck s b f)) ∧
  (∀ b t, (linkOf s b).gatherSince = some t → t + evtCoalesce s b ≤ s.now → exec (.evtCoalesceExpiry b) s = .next (flushEvents s b)) ∧
  (∀ b, let u := sendLost (drainRsp s b (linkOf s b).rspWait) b
    exec (.queueRoomReturn b 0) s = .next (drainTok u b 0 [] (linkOf u b).tokWait)) ∧
  (∀ b, exec (.queueRoomReturn b 1) s = .next (drainTok s b 1 [] (linkOf s b).tokWait)) ∧
  (∀ b f q, ((flowOf s b f).queue.find? fun q => !q.measure.isEmpty && q.segsSent == segCount (flowOf s b f).maxpay q.msg && !waitsForPort s b f q) = some q →
    let port := (flowOf s b f).peerPort
    let u := setFlow s b f fun fl => { fl with queue := updW (fun x => x.ident == q.ident) (fun x => { x with measure := [] }) fl.queue }
    exec (.tokSent b f) s = .next (q.measure.foldl (fun s m =>
      if m.guar && !q.blocked && portUp s port && m.bound < s.now - m.formT then
        raise s srcCore evReqC0Overrun [m.gid, m.stepSeq, s.now - m.formT] [b]
      else s) u)) ∧
  (∀ f, portLink s f.port = true → f.linkOk = true → vlanOk s f = true → f.bufferRoom = true →
    (f.uncontrolled = false → (f.sec.isSome || bitAt (portCtrl s f.port) 5) = true → protectedOk s f = true) →
    let u := count (usePort (notePn s f) f.port) 5 f.port 0 0 1
    (f.arp 1 = true → ownAddr s f.port f.arpTarget = true → exec (.arpRequest f) s = .next
      (sendFrame u f.port (pcpAt u f.port f.arpTarget) (some f.arpMac) (.arpReply f.arpSender f.arpTarget))) ∧
    (f.icmp6 135 24 = true → ownAddr s f.port f.ndTarget = true → exec (.neighbourSolicitation f) s = .next
      (sendFrame u f.port (pcpAt u f.port f.ndTarget) (some f.srcMac) (.neighbourAdvert f.srcIp f.ndTarget))) ∧
    (f.echo = true → ownAddr s f.port f.dstIp = true → exec (.icmpEcho f) s = .next
      (sendTo u f.port f.srcIp f.dstIp (pcpAt u f.port f.dstIp) (.echoReply f.srcIp f.dstIp f.echoed))) ∧
    (∀ ip mac p, s.eth.ports[f.port]? = some p → p.resolving.contains ip = true →
      (f.arp 2 = true ∧ ip = f.arpSender ∧ mac = f.arpMac) ∨
        (f.arp 2 = false ∧ f.icmp6 136 24 = true ∧ ip = f.ndTarget ∧ mac = f.ndMac) →
      exec (.addressResolutionReply f) s = .next { u with eth := { u.eth with ports := u.eth.ports.modify f.port fun q => { q with
        resolving := dropW (· == ip) q.resolving
        neighbours := (ip, mac) :: dropW (fun n => n.1 == ip) q.neighbours } } })) ∧
  (∀ port partner lanes p, s.eth.ports[port]? = some p →
    (p.linkUp = true → exec (.ethLink port false partner lanes) s = .next (endBrown (raise (portLost
      { s with
        eth := { s.eth with ports := s.eth.ports.modify port fun q => { q with linkUp := false, rateNow := 0, lanes := 0 } }
        sec := { s.sec with saks := dropW (fun k => k.port == port) s.sec.saks } } port) (srcPort port) evEthLink [port, 0, 0] []))) ∧
    (p.linkUp = false → bitAt p.ctrl.toNat 0 = true → s.pwr.serHeld = false →
      (s.pwr.doms.getD (364 + port) {}).state = 2 → 2 ≤ s.boot.stage → s.boot.stage ≤ 6 →
      let shared (rate : Nat) : Prop := partner.contains (rate, fld p.ctrl.toNat 3 3) = true ∧
        (fld p.ctrl.toNat 1 2 = 0 ∨ fld p.ctrl.toNat 1 2 = 3 ∨ fld p.ctrl.toNat 1 2 = rate)
      ∀ rate, (rate = 1 ∨ rate = 2 ∧ ¬shared 1) → shared rate →
      exec (.ethLink port true partner lanes) s = .next (endBrown (raise { s with eth := { s.eth with ports := s.eth.ports.modify port fun q => { q with
        linkUp := true, rateNow := rate, lanes := lanes % 16 } } } (srcPort port) evEthLink [port, 1, rate] []))))

/-- R228, R377, R378, R379, R382: what the commands over a basin's pages do when their checks pass. BASIN.MAP maps WORK pages in the tier
named and the other kinds in LPDDR5X, and waits where only lent frames are short, which are asked back; BASIN.UNMAP waits for pins; BASIN.PLACE asks for the moves; BASIN.PAGEQ answers the page's record,
zero for a page that is not mapped; BASIN.READ waits for pages that move, and otherwise sends the bytes before the first page that no
clean copy serves. -/
def Obligations.BasinMemoryCommandsComplete : Prop := ∀ (s : State) (h : Hdr) (addr pages : Nat),
  (∀ kind tier, s.accepts (.basinMap h addr pages kind tier) →
    (kind = 1 ∧ (tier = 1 ∨ tier = 2)) ∨ ((kind = 0 ∨ kind = 2) ∧ tier = 0) →
    let t := if kind = 1 then tier else 2
    (mapCheck s h.basin addr pages t = stMemQuota → lendShort s h.basin addr pages t = true → exec (.basinMap h addr pages kind tier) s = .next (reclaimLends s t)) ∧
    (mapCheck s h.basin addr pages t = stOk → exec (.basinMap h addr pages kind tier) s = .next (reply (mapPages (s.took h 0x0610) h.basin
      (if kind = 0 then .model else if kind = 1 then .work else .train) t (regionPages addr pages)) h 0x0610 stOk []))) ∧
  (s.accepts (.basinUnmap h addr pages) → regionCheck s h.basin addr pages false = stOk →
    exec (.basinUnmap h addr pages) s =
      .next (settleUnmaps (deferCmd (s.took h 0x0611) { h := h, opcode := 0x0611, obj := .region (addr / 4096) pages }) h.basin)) ∧
  (∀ tier, s.accepts (.basinPlace h addr pages tier) → tier = 1 ∨ tier = 2 →
    regionCheck s h.basin addr pages true = stOk →
    let away := (regionPages addr pages).filter fun p => !((pageOf s h.basin p).any fun e => e.homeT == tier && e.moving.isNone)
    quotaOk s h.basin tier away.length = true → away.length ≤ framesFree s tier →
    exec (.basinPlace h addr pages tier) s =
      .next (settlePlaces (deferCmd (away.foldl (fun s p => askMove s h.basin p tier 1) (s.took h 0x0612))
        { h := h, opcode := 0x0612, obj := .region (addr / 4096) pages, arg := tier }) h.basin)) ∧
  (s.accepts (.basinPageq h addr) → inTiered addr 1 = true →
    RunsTo (.basinPageq h addr) s s
      (only h.basin [.rsp 0x0613 stOk h.ctag [.record 16
        (((pageOf s h.basin (addr / 4096)).orElse fun _ => pageOf s h.basin (addr / 4096 + 2 ^ 36)).elim 0 pageWord)]])) ∧
  (∀ len xid, s.accepts (.basinRead h addr len xid) → 1 ≤ len → len ≤ 16777216 → inTiered addr len = true →
    (∀ p ∈ pageRange addr len, pageMapped s h.basin p = true) →
    (rangeMoving s h.basin addr len = true →
      BecomesCore (.basinRead h addr len xid) s
        (deferCmd s { h := h, opcode := 0x0614, obj := .read xid, arg := addr, at_ := len })) ∧
    (rangeMoving s h.basin addr len = false →
      exec (.basinRead h addr len xid) s = .next (readOrWait (s.took h 0x0614) h addr len xid)))

/-- R401 to R407, R415: what the commands over basins do when their checks pass, and the end of a teardown; with a store that has failed
meanwhile the definition stays (log entry 151). -/
def Obligations.BasinCommandsComplete : Prop := ∀ (s : State) (h : Hdr) (b : Nat),
  (∀ word, bwId word = b → isAdmin s h.basin = true → s.storeOpen →
    (s.accepts (.basinCreate h word) → createCheck s word = stOk →
      let u := freshBasin (storeWriteNow (s.took h 0x0600) (basinRec word)) b
      exec (.basinCreate h word) s =
        .next (reply (raise { u with basins := u.basins ++ [{ id := b, word := word }] } srcCore evBasinCreated [b] [b]) h 0x0600 stOk [])) ∧
    (s.accepts (.basinQuota h word) → quotaCheck s word = stOk → (bitAt word.toNat 4 = false ∨ s.admin = b) →
      let u := storeWriteNow (s.took h 0x0603) (basinRec word)
      exec (.basinQuota h word) s = .next (reply (raise
        { u with basins := updW (fun x => x.id == b) (fun x => { x with word := word }) u.basins } srcCore evBasinChanged [b, 0] [b])
        h 0x0603 stOk [])) ∧
    (∀ x, s.accepts (.basinQuota h word) → quotaCheck s word = stOk → bitAt word.toNat 4 = true → s.admin ≠ b → basinOf s s.admin = some x →
      let u := storeWriteNow (s.took h 0x0603) (basinRec word)
      let u := { u with basins := updW (fun x => x.id == b) (fun x => { x with word := word }) u.basins }
      let u := storeWriteNow u (basinRec (noAdmin x.word))
      let bs := updW (fun y => y.id == bwId (noAdmin x.word)) (fun y => { y with word := noAdmin x.word }) u.basins
      exec (.basinQuota h word) s = .next (reply (raise { u with admin := b, basins := bs }
        srcCore evBasinChanged [b, 1] [b]) h 0x0603 stOk []))) ∧
  (∀ word, s.accepts (.basinHosts h b word) → isAdmin s h.basin = true → s.storeOpen → basinLive s b = true → inTeardown s b = false →
    hostsCheck s b word = stOk →
    exec (.basinHosts h b word) s = .next (reply (setHosts (s.took h 0x0604) b word) h 0x0604 stOk [])) ∧
  (∀ x, s.accepts (.basinQuery h b) → b = h.basin ∨ isAdmin s h.basin = true → basinOf s b = some x →
    RunsTo (.basinQuery h b) s s (only h.basin [.rsp 0x0602 stOk h.ctag [.record 128 x.word.toNat, .record 64 (usageWord s b)]])) ∧
  (s.accepts (.basinDestroy h b) → isAdmin s h.basin = true → basinLive s b = true → inTeardown s b = false → isAdmin s b = false →
    s.store.faulted = false → exec (.basinDestroy h b) s =
      .next (startTeardown (deferCmd (s.took h 0x0601) { h := h, opcode := 0x0601, obj := .basin b }) b)) ∧
  (∀ t, teardownOf s b = some t → t.step = 3 → flushed s b = true ∨ t.flushAt + 100000000 ≤ s.now →
    exec (.teardownFlushExpiry b) s = .next (closeBasin s b)) ∧
  (∀ t, teardownOf s b = some t → t.step = 6 → basinClear s b = true → s.storeOpen →
    let tomb (ty : Nat) : StoreRec := { type := ty, index := b, len := 0, seq := 0, tomb := true }
    let u := storeWriteNow (storeWriteNow (withdrawSlices s b) (tomb 0x20)) (tomb 0x21)
    let u := freshBasin { u with basins := dropW (fun x => x.id == b) u.basins } b
    let ns := u.now - t.start
    exec (.basinTeardownComplete b) s = .next (answerAll (raise u srcCore evBasinDestroyed [b, ns] [])
      (fun d => d.opcode == 0x0601 && d.obj == .basin b) stOk [.u64 ns])) ∧
  (∀ t, teardownOf s b = some t → t.step = 6 → basinClear s b = true → storeReady s = true → s.store.faulted = true →
    let u := withdrawSlices s b
    exec (.basinTeardownComplete b) s = .next (answerAll
      { u with basins := updW (fun x => x.id == b) (fun x => { x with teardown := none }) u.basins }
      (fun d => d.opcode == 0x0601 && d.obj == .basin b) stStoreFault []))

/-- R377, R390, R392, R443, R494, R507, R517, R518: what reads and writes of registers do. A read answers the count of consecutive
registers; a write of a register answers its value after the write; the named writes are writes of those registers. -/
def Obligations.RegisterCommandsComplete : Prop := ∀ (s : State) (h : Hdr) (mask value : BitVec 64),
  (∀ addr count, s.accepts (.regRead h addr count) → 1 ≤ count → count ≤ 128 → (∀ k < count, (regAt (addr + 8 * k)).isSome = true) →
    RunsTo (.regRead h addr count) s s (only h.basin [.rsp 0x0700 stOk h.ctag
      ((List.range count).filterMap fun k => (regAt (addr + 8 * k)).map fun r => .u64 (regValue s h.basin r))])) ∧
  (∀ addr r, s.accepts (.regWrite h addr mask value) → regAt addr = some r → r = .woreoCfg ∨ isAdmin s h.basin = true →
    (writeStores r = true → storeReady s = true) →
    exec (.regWrite h addr mask value) s = .next (writeReg (s.took h 0x0701) h mask value r)) ∧
  (isAdmin s h.basin = true →
    (∀ n < 2, s.accepts (.ethPortCtrlWrite h n mask value) →
      exec (.ethPortCtrlWrite h n mask value) s = .next (writePortCtrl (s.took h 0x0701) h n mask value)) ∧
    (∀ n < 48,
      (s.accepts (.frdEnableWrite h n mask value) →
        exec (.frdEnableWrite h n mask value) s = .next (writeFrdCtrl (s.took h 0x0701) h n mask value)) ∧
      (s.accepts (.frdRetrain h n mask value) →
        exec (.frdRetrain h n mask value) s = .next (writeFrdCtrl (s.took h 0x0701) h n mask value)) ∧
      (s.accepts (.frdClrCnt h n mask value) →
        exec (.frdClrCnt h n mask value) s = .next (writeFrdCtrl (s.took h 0x0701) h n mask value))) ∧
    (s.accepts (.pwrLimitCfgWrite h mask value) → exec (.pwrLimitCfgWrite h mask value) s =
      .next (regReply (setLimitCfg (s.took h 0x0701) (maskWrite s.pwr.limitCfg mask value limitMask)) h .pwrLimit)) ∧
    (s.storeOpen →
      (s.accepts (.restart h mask value) → exec (.restart h mask value) s = .next (writeFwCtrl (s.took h 0x0701) h mask value)) ∧
      (s.accepts (.confirm h mask value) → exec (.confirm h mask value) s = .next (writeFwCtrl (s.took h 0x0701) h mask value)) ∧
      (s.accepts (.stwBootCfgWrite h mask value) →
        exec (.stwBootCfgWrite h mask value) s = .next (writeBootCfg (s.took h 0x0701) h mask value))))

/-- R420, R421, R427 to R432, R436, R437, R440, R445: the events of the fords and of the slices: training, identity, heartbeats, flits,
and the agreement, the fault and the end of a slice. -/
def Obligations.FordEventsComplete : Prop := ∀ (s : State),
  (∀ n l0 l1 al rev p0 p1, fordLive s n = true →
    ((fordOf s n).state = 3 → (fordOf s n).trained = false →
      exec (.fordTrain n l0 l1 al rev p0 p1) s = .next (trainFord s n l0 l1 al rev p0 p1)) ∧
    ((fordOf s n).state = 1 ∨ (fordOf s n).state = 2 → (fordOf s n).retryAt.any (· ≤ s.now) = true →
      exec (.fordTrainRetry n l0 l1 al rev p0 p1) s = .next (trainFord s n l0 l1 al rev p0 p1))) ∧
  (∀ n fr, fordLive s n = true → (fordOf s n).trained = true → exec (.identityFrame n fr) s = .next (identify (heardFord (count s 4 n 0 1 1) n) n fr)) ∧
  (∀ n, n < 48 → (fordOf s n).state = 9 →
    exec (.heartbeatSend n) s = .next (sendLm (setFord s n fun f => { f with ctr := f.ctr + 1 })
      [.heartbeat n moduleSerial ((fordOf s n).ctr + 1)]) ∧
    (∀ fc fu head u,
      let v := setFord (heardFord s n) n fun f => { f with fecCorr := sat 32 (f.fecCorr + fc), fecUncorr := sat 32 (f.fecUncorr + fu) }
      ((fordOf s n).awaited.all (fun a => a == (head, u)) = true →
        exec (.flitReceive n true fc fu head u) s = .next (takeArrival
          (count (setFord v n fun f => { f with failRun := 0, awaited := none, rxCount := f.rxCount + 1 }) 4 n 0 1 1) n head u) ∧
        exec (.flitReceive n false fc fu head u) s =
          (let w := sendLm (setFord v n fun f => { f with
              crcErr := sat 32 (f.crcErr + 1), failRun := (f.failRun + 1) % 8, awaited := some (f.awaited.getD (head, u)) })
              [.resend n (fordOf s n).rxCount]
          .next (if (fordOf s n).failRun + 1 = 8 then faultAtFord w n 3 else w))) ∧
      (∀ a ok, (fordOf s n).awaited = some a → a ≠ (head, u) → exec (.flitReceive n ok fc fu head u) s = .next v)) ∧
    ((fordOf s n).lastFlit + 1000000 ≤ s.now → exec (.fordLostTimeout n) s = .next (fordDown s n 1 0)) ∧
    ((fordOf s n).peerLost = false → (fordOf s n).peerCtrAt + 1000000 ≤ s.now → s.now < (fordOf s n).lastFlit + 1000000 →
      exec (.moduleLostTimeout n) s = .next (faultAtFord (setFord s n fun f => { f with peerLost := true }) n 2)) ∧
    (∀ id ox oy oz lx ly lz minor,
      let block := ox % 16 + 16 * (oy % 16) + 256 * (oz % 16) + 4096 * (lx % 16) + 65536 * (ly % 16) + 1048576 * (lz % 16)
      exec (.sliceDeclareReceive n id ox oy oz lx ly lz minor) s =
        .next (if id = 0 then faultAtFord (setFord (heardFord s n) n fun f => { f with decl := none }) n 2
          else settleSlice (setFord (heardFord s n) n fun f => { f with decl := some (id, block) }) id)) ∧
    (∀ id q serial cause, sliceById s id = some q → q.state = 2 → exec (.sliceStopReceive n id serial cause) s =
      .next (sliceFault (heardFord s n) q 5 n serial cause))) ∧
  (∀ id q, sliceById s id = some q →
    (∀ x y z minor, q.state = 1 → exec (.sliceReadyReceive id x y z minor) s =
      .next (if slicePlace s q = 0 then noteReady s id x y z minor else sendReady s q (x, y, z) minor)) ∧
    (∀ minor, q.sentReady = true → exec (.sliceGoReceive id minor) s = .next (goReady s id minor)) ∧
    (q.state = 1 → q.bindAt + 10000000000 ≤ s.now → exec (.sliceBindTimeout id) s = .next (dropSlice s id))) ∧
  (∀ b kind ident x p, sliceOf s b = some x →
    (x.parts.find? fun p => p.kind == kind && p.ident == ident && !p.joined && decide (p.boundAt + 1000000000 ≤ s.now)) = some p →
    exec (.sliceJoinTimeout b kind ident) s = .next (endPart (setSliceId s (swId x.word) fun x => { x with
      parts := dropW (fun q => q.kind == kind && q.ident == ident) x.parts
      joins := dropW (fun j => j.1 == kind && j.2.1 == ident) x.joins }) b p stSliceJoinTimeout))

/-- R308, R425, R426, R434 to R436, R442: what MODEL.PROGRAM and the link commands do when their checks pass. A program replaces the one of
the same base, kind and number of positions, which the groups with a step use until their next boundary; a topology is stored and every ford judged again; a slice is declared and its reply waits; a
slice without a live job is unbound, and what its modules have lent ends; LINK.STATUS answers the topology, the slice and every ford. -/
def Obligations.LinkAndProgramCommandsComplete : Prop := ∀ (s : State) (h : Hdr),
  (∀ word, s.accepts (.modelProgram h word) →
    programOk s h.basin word = true →
    let same (p : Program) : Bool := p.basin == h.basin && fld p.word.toNat 0 32 == fld word.toNat 0 32 &&
      fld p.word.toNat 40 48 == fld word.toNat 40 48
    let held : List (Nat × BitVec 384) := match s.models.programs.find? same with
      | none => []
      | some p => (s.serving.groups.filter fun g => g.basin == h.basin && (g.run.isSome || g.heldStep.isSome)).map fun g =>
          let i := fld g.word.toNat 0 3
          (i, ((p.held.find? fun x => x.1 == i).map (·.2)).getD p.word)
    RunsTo (.modelProgram h word) s { s with models := { s.models with
        programs := dropW same s.models.programs ++ [{ basin := h.basin, word := word, held := held }] } }
      (only h.basin [.rsp 0x0104 stOk h.ctag []])) ∧
  (∀ word, s.accepts (.linkTopology h word) → isAdmin s h.basin = true → s.storeOpen → topologyOk word = true → s.fords.slices = [] →
    let u := storeWriteNow (s.took h 0x0B00) { type := 0x30, index := 0, len := 64, seq := 0, payload := [word.toNat] }
    let u := { u with fords := { u.fords with topo := word } }
    exec (.linkTopology h word) s = .next (reply ((List.range 48).foldl recheckFord u) h 0x0B00 stOk [])) ∧
  (∀ word, isAdmin s h.basin = true →
    (s.accepts (.linkSliceBind h word) → bitAt word.toNat 68 = false → sliceCheck s word = stOk →
      let x : Slice := { word := word, bindAt := s.now }
      let u := { s.took h 0x0B01 with fords := { s.fords with slices := s.fords.slices ++ [x] } }
      let u := sendLm u (((offered u x).filter fun n => (fordOf u n).state == 9).map fun n => LmFrame.declare n (swId word) (swBlock word))
      exec (.linkSliceBind h word) s =
        .next (settleSlice (deferCmd u { h := h, opcode := 0x0B01, obj := .slice (swId word), at_ := u.now }) (swId word))) ∧
    (∀ x, s.accepts (.linkSliceUnbind h word) → bitAt word.toNat 68 = true →
      (s.fords.slices.find? fun x => swId x.word == swId word && swBasin x.word == swBasin word) = some x →
      x.parts.any (partLive s (swBasin word)) = false →
      let clear (f : Ford) : Ford := if f.decl.any fun d => d.1 == swId word then { f with decl := none } else f
      let u := idleFords (loseLends (s.took h 0x0B01) (swBasin word) fun _ => true) x.bound
      let u := { u with fords := { u.fords with
        slices := dropW (fun x => swId x.word == swId word) u.fords.slices, fords := u.fords.fords.map clear } }
      exec (.linkSliceUnbind h word) s =
        .next (reply (raise u srcCore evSliceUnbound [swId word] [swBasin word]) h 0x0B01 stOk []))) ∧
  (s.accepts (.linkStatus h) →
    let x := s.fords.slices.find? fun x => swBasin x.word == h.basin
    let fs := (s.fords.fords.map fun f => [Field.u64 f.serial, .u64 (frdStatus f), .u64 (frdErrA f), .u64 (frdErrB f)]).flatten
    RunsTo (.linkStatus h) s s (only h.basin [.rsp 0x0B02 stOk h.ctag ([.record 64 s.fords.topo.toNat,
      .record 32 (x.elim 0 (·.word.toNat)), .u8 (x.elim 0 (·.state)), .u8 (x.elim 0 (·.minor))] ++ fs)]))

/-- R359, R453, R454, R458 to R462, R464 to R466: what the security commands do when their checks pass, when a report has been
signed (with the next idle nanosecond, log entry 153) and when an image has been written; and the security events. Whether a signature holds or a wrapped key opens is a free value of the model (log entry 9): an
image or a key that fails is refused by name. A frame of the key server under a known CKN is counted and answered, and the SAK it
distributes replaces the port's; a failed periodic test or entropy test enters ERROR; a DRBG is reseeded after 2^20 requests. -/
def Obligations.SecurityCommandsAndEventsComplete : Prop :=
  (∀ (s : State) (h : Hdr),
  (∀ nonce named x, s.accepts (.secAttest h nonce named) → (named.getD h.basin = h.basin ∨ isAdmin s h.basin = true) → secRefused s = false →
    basinOf s (named.getD h.basin) = some x →
    s.sec.d0.ok = true → reportWaits s = false →
    let u := setDrbg (s.took h 0x0900) 0 s.sec.d0.draw.2
    exec (.secAttest h nonce named) s =
      .next { u with sec := { u.sec with signing := some { h := h, word := reportWord u x nonce } } }) ∧
  (∀ g : Signing, s.sec.signing = some g → finishSigning s =
    reply { s with sec := { s.sec with signing := none, reportSeq := wrap 32 (s.sec.reportSeq + 1) } } g.h 0x0900 stOk
      [.record 512 g.word, .bytes (signed128f (aliasSeeds s.sec.meas) (le 512 g.word))]) ∧
  (s.accepts (.secCerts h) → secRefused s = false →
    RunsTo (.secCerts h) s s (only h.basin [.rsp 0x0901 stOk h.ctag (.u32 5 :: ((List.range 5).map fun k =>
      [.u32 (Config.certificate k (certSubject s k)).length, .bytes (Config.certificate k (certSubject s k))]).flatten)])) ∧
  (∀ addr len, let img := tierBytes s h.basin addr len
    s.accepts (.secFwUpdate h addr len) → isAdmin s h.basin = true → s.storeOpen →
    slotTrial (slotWord s) = false → secRefused s = false → imageBreach s h.basin addr len = stOk →
    let u := s.took h 0x0902
    exec (.secFwUpdate h addr len) s = .next (if fwCheck s img = stOk
      then deferCmd { u with sec := { u.sec with staging := some (1 - s.boot.slot, img) } } { h := h, opcode := 0x0902, obj := .fwSlot }
      else reply u h 0x0902 (fwCheck s img) [])) ∧
  (∀ n img, s.sec.staging = some (n, img) → s.storeOpen →
    let u := putSlotImage { s with sec := { s.sec with staging := none } } n img
    let u := storeWriteNow u (slotRecord (slotWith (slotWord u) n true 2 (some (n, imgFld img 32 63))))
    exec .fwSlotWriteComplete s =
      .next (answerAll (raise u srcStewipen evSecFwStaged [n, imgFld img 32 63, imgFld img 96 127] []) (fun d => d.obj == .fwSlot) stOk [])) ∧
  (isAdmin s h.basin = true → s.storeOpen → secRefused s = false →
    (∀ ports keyId ckn ct wrapped, s.accepts (.cakInstall h ports keyId ckn ct wrapped) → 1 ≤ ports → ports ≤ 3 →
      let installed (key : BitVec 256) : State :=
        let ks : List Cak := (portsOf ports).map fun n => { port := n, keyId := keyId, ckn := ckn, key := key }
        let u := ks.foldl (fun s k => storeWriteNow s (cakRec s k)) (s.took h 0x0903)
        let u := { u with sec := { u.sec with caks := dropW (fun k => bitAt ports k.port) u.sec.caks ++ ks } }
        reply (settleMode (raise (if secCfg (s.took h 0x0903) = secCfg u then u else measureCfg u) srcStewipen evSecCak [ports, keyId] [])) h 0x0903 stOk []
      exec (.cakInstall h ports keyId ckn ct wrapped) s =
        .next ((openCak keyId ct wrapped).elim (reply (s.took h 0x0903) h 0x0903 stKeyInvalid []) installed)) ∧
    (∀ ports basin sci, 1 ≤ ports → ports ≤ 3 → basin ≤ 15 →
      let kept := dropW (fun k => bitAt ports k.port && k.sci == sci) s.sec.scis
      let l := kept ++ (portsOf ports).map fun n => { port := n, sci := sci, basin := basin }
      (s.accepts (.sciBind h ports basin sci) → basinLive s basin = true → (∀ n ∈ portsOf ports, (l.filter fun k => k.port == n).length ≤ 16) →
        exec (.sciBind h ports basin sci) s = .next (reply (setScis (s.took h 0x0903) l) h 0x0903 stOk [])) ∧
      (s.accepts (.sciUnbind h ports basin sci) → exec (.sciUnbind h ports basin sci) s = .next (reply (setScis (s.took h 0x0903)
        (dropW (fun k => bitAt ports k.port && k.sci == sci && k.basin == basin) s.sec.scis)) h 0x0903 stOk [])))) ∧
  (∀ eraseId, eraseId ≤ 1 → s.accepts (.secZeroize h eraseId) → isAdmin s h.basin = true →
    let u := dropKeys (reply (wipe (answerAll (s.took h 0x0904) (fun _ => true) stSecError [])) h 0x0904 stOk []) (eraseId == 1)
    exec (.secZeroize h eraseId) s = .next { u with boot := { u.boot with restartDue := some (u.now, 3) } })) ∧
  (∀ (s : State),
  (∀ f ckn sak, portLink s f.port = true → f.linkOk = true → vlanOk s f = true → f.bufferRoom = true → f.etherType = 0x888E →
    (s.sec.caks.any fun k => k.port == f.port && k.ckn.toNat == ckn) = true → s.sec.keysLive = true →
    s.sec.failedCauses.contains 2 = false →
    let v := usePort s f.port
    exec (.mkaFrame f ckn true (some sak)) s = .next (sendUncontrolled (count { v with sec := { v.sec with
      saks := (v.sec.saks.filter fun x => x.port != f.port || x.an == curAn v f.port) ++
        [{ port := f.port, an := 1 - curAn v f.port, key := sak }]
      rxScs := v.sec.rxScs.filter fun r => r.port != f.port || r.an == curAn v f.port } } 5 f.port 0 0 1) f.port (.mka 255)) ∧
    exec (.mkaFrame f ckn true none) s = .next (sendUncontrolled (count v 5 f.port 0 0 1) f.port (.mka 255))) ∧
  (sp1On s = true → s.sec.lastSelftest + selftestPeriod ≤ s.now →
    let u := { s with sec := { s.sec with lastSelftest := s.now } }
    exec (.selftestPeriodic none) s = .next u ∧
      ∀ c ∈ [2, 4, 5, 6, 7], exec (.selftestPeriodic (some c)) s = .next (failSec u (some 1) c)) ∧
  (sp1On s = true → exec .entropyHealthFail s = .next (failSec s (some 2) 3)) ∧
  (sp1On s = true → s.sec.d0.ok = true → 2 ^ 20 ≤ s.sec.d0.gens →
    let e := drbgReseed (s.sec.d0.key, s.sec.d0.v) (entropy s.sec.samples)
    exec (.drbgReseed 0) s = .next { s with sec := { s.sec with
      samples := s.sec.samples + 640
      d0 := { ok := true, key := e.1, v := e.2, gens := 0, reseeds := s.sec.d0.reseeds + 1 } } }) ∧
  (sp1On s = true → s.sec.d1.ok = true → 2 ^ 20 ≤ s.sec.d1.gens →
    let e := drbgReseed (s.sec.d1.key, s.sec.d1.v) (entropy s.sec.samples)
    exec (.drbgReseed 1) s = .next { s with sec := { s.sec with
      samples := s.sec.samples + 640
      d1 := { ok := true, key := e.1, v := e.2, gens := 0, reseeds := s.sec.d1.reseeds + 1 } } }))

/-- R474 to R478, R481 to R485, R499, R500, R541: the events of VCORE, of the power limiter and of the thermal loop, and those of the
rails, the sensors and the input stage. A dip of VCORE takes the C0 guarantee of the steps in flight, and one of 1 µs raises PWR.WARN; a
hold of 100 µs clears it; a brown-out is latched, raised and started; after it the die wakes, and once that is done PWR.BROWNOUT goes ahead
of the events held (log entry 72). -/
def Obligations.SupplyAndSensorEventsComplete : Prop :=
  (∀ (s : State),
  (∀ point mv forNs, point < 20 → mv < 680 → 3 ≤ s.boot.stage → s.boot.stage ≤ 6 → s.pwr.brown = none → s.pwr.warn = none →
    let u := setVcore s point mv
    (forNs < 1000 → exec (.vcoreDip point mv forNs) s = .next (voidSteps u 2)) ∧ (1000 ≤ forNs →
    let u := { u with pwr := { u.pwr with warn := some { start := s.now - forNs, low := mv, point := point, paced := throttled s } } }
    exec (.vcoreDip point mv forNs) s = .next (voidSteps (raise u srcStewipen evPwrWarn [s.now - forNs, point] []) 3))) ∧
  (∀ point mv forNs w, point < 20 → mv < 680 → 3 ≤ s.boot.stage → s.boot.stage ≤ 6 → s.pwr.brown = none → s.pwr.warn = some w →
    let u := setVcore s point mv
    exec (.vcoreDip point mv forNs) s = .next { u with pwr := { u.pwr with warn := some (warnLow w point mv) } }) ∧
  (∀ w, 3 ≤ s.boot.stage → s.boot.stage ≤ 6 → s.pwr.brown = none → s.pwr.warn = some w →
    exec .vcoreReturn s = .next { s with pwr := { s.pwr with
      vcore := s.pwr.vcore.map fun v => if v < 680 then s.pwr.setpoint else v
      warn := some { w with returned := some (w.returned.getD s.now) } } }) ∧
  (∀ w t, s.pwr.warn = some w → w.returned = some t → t + 100000 ≤ s.now →
    exec .pwrClear s = .next (raise { s with pwr := { s.pwr with warn := none } } srcStewipen evPwrClear
      [w.start, t - w.start, w.low, w.point] [])) ∧
  (∀ cause point mv, dieRuns s = true → point < 20 → (cause = 0 ∧ mv < 600) ∨ (cause = 1 ∧ 900 < mv) →
    exec (.brownout cause point mv) s =
      .next (startBrown (raise (latch (setVcore s point mv) 0) srcStewipen evPwrRailFault [0, cause] []) cause mv)) ∧
  (∀ b, s.pwr.brown = some b → b.waking = false → (if b.cause = 2 then tripRecovered s else b.good.any (· + 100000 ≤ s.now)) = true →
    let u := { s with pwr := { s.pwr with
      brown := some { b with waking := true }, tripped := [], hot := [], vcore := List.replicate 20 s.pwr.setpoint } }
    exec .brownoutRecovery s =
      .next (endBrown (((List.range 272).filter fun d => (domOf s d).mode = 2).foldl wakeDomain (wakeFixed u)))) ∧
  (∀ b, s.pwr.brown = some b → b.waking = true → (∀ x ∈ s.pwr.doms, x.state ≠ 1) → (∀ n ∈ b.ports, portLink s n = true) →
    s.boot.stage = 6 →
    let u := { s with pwr := { s.pwr with brown := none }, boot := { s.boot with heldEvents := [] } }
    let u := otherFaultRecord u 3 srcStewipen stPowerFault none 0 366 0 b.low (u.now - b.start)
    let u := raise u srcStewipen evPwrBrownout [b.start, u.now - b.start, b.low, b.cause] []
    exec .brownoutRecovery s = .next (s.boot.heldEvents.foldl (fun s x => deliverEvt s (maskBasins x.1) x.2) u)) ∧
  (dieRuns s = true → let u := moveSetpoint s
    let v := { u with pwr := { u.pwr with
      atFloorSince := if u.pwr.setpoint ≤ 700 && meanAbove u 100 (plimit u) then u.pwr.atFloorSince.orElse fun _ => some u.now else none
      metSince := if meanAbove u 100 (plimit u) || overMean u then none else u.pwr.metSince.orElse fun _ => some u.now } }
    (mustPace v = true → v.pwr.pacing = false →
      exec .limiterStep s = .next (raiseThrottle { v with pwr := { v.pwr with pacing := true, paceP := 240, metSince := none } } 1 true)) ∧
    (mustPace v = false ∨ v.pwr.pacing = true → exec .limiterStep s = .next v)) ∧
  (dieRuns s = true → s.pwr.lastLoop + 1000000 ≤ s.now → s.pwr.pacing = false →
    let t := if tjThr s ≤ tjMax s then max (s.pwr.paceT - 16) 64 else if tjMax s ≤ tjThr s - 3 then min (s.pwr.paceT + 16) 256 else s.pwr.paceT
    let u := { s with pwr := { s.pwr with paceT := t, lastLoop := s.now } }
    exec .thermalLoop s = .next (if (s.pwr.paceT = 256) = (t = 256) then u else raiseThrottle u 0 (t != 256)))) ∧
  (∀ (s : State), (s.pwr.inputOn = true →
  (∀ rail mv, 1 ≤ rail → rail ≤ 5 → mv < railWarnMv rail → rail ∉ s.pwr.railWarn →
    exec (.railWarn rail mv) s =
      .next (raise { s with pwr := { s.pwr with railWarn := rail :: s.pwr.railWarn } } srcStewipen evPwrRailWarn [rail, mv] [])) ∧
  (∀ rail mv, 1 ≤ rail → rail ≤ 5 → railWarnMv rail ≤ mv →
    exec (.railWarn rail mv) s = .next { s with pwr := { s.pwr with railWarn := dropW (· == rail) s.pwr.railWarn } }) ∧
  (∀ rail kind, rail ≤ 5 → kind ≤ 3 → (rail = 0 ∨ rail = 4 ∨ rail = 5 →
      exec (.railFault rail kind) s = .next (railEffect (otherFaultRecord (raise (latch s rail) srcStewipen evPwrRailFault [rail, kind] [])
        3 srcStewipen 0 none 0 370 0 rail kind) rail kind)) ∧
    (1 ≤ rail → rail ≤ 3 → s.pwr.railPend = none →
      exec (.railFault rail kind) s = .next (askRestart { latch s rail with pwr := { (latch s rail).pwr with railPend := some (rail, kind) } } s.now 1))) ∧
  (∀ watts vin, let u := { s with pwr := { s.pwr with
      samples := watts :: s.pwr.samples.take 99, vin := vin, inputLow := s.pwr.inputLow && decide (vin < 400)
      inputHigh := s.pwr.inputHigh && decide (600 < vin) } }
    exec (.powerSample watts vin) s = .next (if dieRuns u = true ∧ meanAbove u 10 1450 = true ∧ u.pwr.pacing = false
      then raiseThrottle { u with pwr := { u.pwr with pacing := true, paceP := 240, metSince := none } } 1 true else u)) ∧
  (∀ readings lpx noAck, 3 ≤ s.boot.stage →
    let rs := readings.filter fun r => r.1 < 32
    let p := { s.pwr with
      temps := rs.foldl (fun l r => l.set r.1 r.2) s.pwr.temps
      lpxTemps := lpx.foldl (fun l r => l.set r.1 r.2) s.pwr.lpxTemps
      noAcks := s.pwr.noAcks.mapIdx fun k n =>
        if rs.any (fun r => r.1 == 28 + k) then 0 else if noAck.contains (28 + k) then min 3 (n + 1) else n
      sensorFail := (List.range 28).filter fun n => match rs.find? fun r => r.1 == n with
        | some r => outOfRange r.2
        | none => s.pwr.sensorFail.contains n }
    let u := judgeTemps (raiseNewFails s { s with pwr := p } fun n => if n < 28 then 0 else 2)
    exec (.sensorRead readings lpx noAck) s = .next (if outOfConditions u then voidSteps u 2 else u)) ∧
  (∀ failed, exec (.sensorCheck failed) s = .next (judgeTemps (raiseNewFails s
    { s with pwr := { s.pwr with refFail := failed.filter (· < 28) } } fun _ => 1))) ∧
  (s.pwr.busFaulted = false → exec (.sensorBusFault false) s = .next (latch s 51) ∧
    exec (.sensorBusFault true) s = .next (raiseNewFails (latch s 51)
      { latch s 51 with pwr := { (latch s 51).pwr with busFaulted := true, busRetryAt := s.now + 10000000000 } } fun _ => 3)) ∧
  (∀ vin, vin < 400 → s.pwr.inputLow = false →
    exec (.inputLow vin) s = .next (inputFault { s with pwr := { s.pwr with inputLow := true, vin := vin } } 1 vin 50)) ∧
  (∀ vin, 600 < vin → s.pwr.inputHigh = false →
    exec (.inputHigh vin) s = .next (inputFault { s with pwr := { s.pwr with inputHigh := true, vin := vin } } 2 vin 49))) ∧
  (s.pwr.inputOn = false → exec .inputReversed s = .next { s with pwr := { s.pwr with reverseBit := true } }) ∧
  (s.pwr.serHeld = true → s.pwr.serGood = none → exec .vserRecovery s = .next { s with pwr := { s.pwr with serGood := some s.now } }) ∧
  (∀ t, s.pwr.serHeld = true → s.pwr.serGood = some t → t + 10000000 ≤ s.now →
    let u := { s with pwr := { s.pwr with serHeld := false, serGood := none } }
    exec .vserRecovery s = .next (((List.range 48).filter (fordLive u)).foldl (fun s n => setFord s n fun f => { f with
      state := 3, trained := false, retryAt := none }) u)) ∧
  (let u := { s with pwr := { s.pwr with auxBad := false } };
    exec .vauxRecovery s = .next
      (if s.store.swapping = true ∧ (otherBank s.store).erased = true then answerSwap (swapBanks u) stOk else u)) ∧
  (∀ ok, s.pwr.busFaulted = true → s.pwr.busRetryAt ≤ s.now →
    exec (.sensorBusRetry ok) s = .next { s with pwr := { s.pwr with busFaulted := !ok, busRetryAt := s.now + 10000000000 } }) ∧
  (∀ vin, vin < 360 → exec (.inputUndervoltage vin) s = .next (powerOff { s with pwr := { s.pwr with vin := vin } })) ∧
  (∀ vin, 640 < vin → exec (.inputOvervoltage vin) s = .next (powerOff { s with pwr := { s.pwr with highBit := true, vin := vin } })) ∧
  (s.pwr.senseMated = none → exec .senseMate s = .next { s with pwr := { s.pwr with senseMated := some s.now } }) ∧
  exec .senseBreak s = .next (powerOff { s with pwr := { s.pwr with senseMated := none, senseReady := false } }))

/-- R28, R209, R486 to R489: what the domains do: a wake, its completion, a switch-off, a fault of a waking domain, and an idle AUTO domain
without work. -/
def Obligations.DomainEventsComplete : Prop := ∀ (s : State) (d : Nat),
  (d < 372 → 3 ≤ s.boot.stage → s.boot.stage ≤ 6 → exec (.domainWake d) s = .next (wakeDomain s d)) ∧
  ((domOf s d).state = 1 → (∀ x ∈ needs s d, domOn s x = true) →
    exec (.domainWakeComplete d) s = .next (endBrown (answerDomain (domainReady s d) d true stOk))) ∧
  ((domOf s d).switchingOff = true → (domOf s d).state = 1 ∨ (domOf s d).state = 2 →
    exec (.domainOffComplete d) s = .next (domainOff s d)) ∧
  ((domOf s d).state = 1 → (domOf s d).wakeAt + 2 * wakeTime d ≤ s.now →
    let u := setDom s d fun x => { x with state := 3, switchingOff := false, wakeAgain := false, waker := none }
    let u := answerDomain (answerDomain u d true stDomainHeld) d false stDomainHeld
    let u := otherFaultRecord (raise u srcStewipen evPwrDomainFault [d] []) 3 srcStewipen 0 none 0 d 0 0 0
    (d < 256 → exec (.domainFault d) s = .next (endBrown (fenceReach u d 2))) ∧
    (256 ≤ d → d < 272 → exec (.domainFault d) s = .next (endBrown (holdTrib u (d - 256)))) ∧
    ((292 ≤ d ∧ d < 316) ∨ (366 ≤ d ∧ d < 370) →
      exec (.domainFault d) s = .next { u with boot := { u.boot with restartDue := some (u.now, 5) } })) ∧
  (d < 370 → (domOf s d).mode = 2 → domOn s d = true → (domOf s d).idleSince + autoIdle s ≤ s.now → domainBound s d = false →
    dependantPowered s d = false → d ∉ reserved s → fordBound s d = false → phyBusy s d = false →
    exec (.autoIdleExpiry d) s = .next (setDom s d fun x => { x with switchingOff := true })) ∧
  (∀ t, s.pwr.standbyUntil = some (some t) → t ≤ s.now → exec .standbyWakeTimer s = .next (leaveStandby s))

/-- R489, R490, R493, R494, R500: what the power commands do when their checks pass, and the writing of the configuration store: a record is
programmed at its first or second attempt, a failed bank is swapped for an erased one, and an erased bank lets a swap that waits run. -/
def Obligations.PowerCommandsComplete : Prop := ∀ (s : State) (h : Hdr),
  (s.accepts (.pwrStatus h) → RunsTo (.pwrStatus h) s s (only h.basin [.rsp 0x0A00 stOk h.ctag
    ([.u64 (pwrStatusReg s), .u64 s.pwr.limitCfg.toNat, .u64 (pwrHealth s), .bytes ((List.range 32).map (tempByte s))] ++
      s.pwr.vcore.map .u16)])) ∧
  (∀ d op wakeS, s.accepts (.pwrDomain h d op wakeS) → isAdmin s h.basin = true → domainCheck s d op = stOk →
    exec (.pwrDomain h d op wakeS) s =
      .next (startDomain (deferCmd (s.took h 0x0A01) { h := h, opcode := 0x0A01, obj := .domain d, arg := op }) d op)) ∧
  (∀ wakeS, s.accepts (.standby h 0xFFFF wakeS) → isAdmin s h.basin = true → moduleBusy s = false → s.boot.testing = none →
    (s.fords.slices.any fun x => !x.bound.isEmpty) = false →
    let u := sp1Off (dieOff (reply (s.took h 0x0A01) h 0x0A01 stOk []) true)
    exec (.standby h 0xFFFF wakeS) s = .next { u with pwr := { u.pwr with
      standbyUntil := some (if wakeS = 0 then none else some (u.now + 1000000000 * wakeS)) } }) ∧
  (∀ mask value, s.accepts (.pwrLimit h mask value) → isAdmin s h.basin = true → s.store.faulted = false →
    let u := setLimitCfg (s.took h 0x0A02) (maskWrite s.pwr.limitCfg mask value limitMask)
    (storeReady s = true →
      exec (.pwrLimit h mask value) s = .next (reply (storeWriteNow u (limitRec u)) h 0x0A02 stOk [.u64 u.pwr.limitCfg.toNat])) ∧
    (storeReady s = false →
      exec (.pwrLimit h mask value) s = .next (deferCmd (storeAsk u (limitRec u)) { h := h, opcode := 0x0A02, obj := .store }))) ∧
  (s.accepts (.pwrStoreQuery h) → isAdmin s h.basin = true →
    RunsTo (.pwrStoreQuery h) s s (only h.basin [.rsp 0x0A03 stOk h.ctag (storeData s)])) ∧
  (s.accepts (.pwrStoreSwap h) → isAdmin s h.basin = true → s.store.faulted = false →
    exec (.pwrStoreSwap h) s = .next (startSwap (deferCmd (s.took h 0x0A03) { h := h, opcode := 0x0A03, obj := .store }))) ∧
  (∀ r rest, s.store.waiting = r :: rest → s.pwr.auxBad = false → s.store.swapping = false → s.store.faulted = false →
    (needsSwap s.store r.len = false ∨ (otherBank s.store).erased = true) →
    (∀ o o', exec (.storeWrite true o o') s = .next (landRecord s r)) ∧
    (∀ o', exec (.storeWrite false true o') s = .next (landRecord (spoil s r.len) r)) ∧
    (let u := spoil (spoil s r.len) r.len;
      (otherBank u.store).erased = true → exec (.storeWrite false false true) s = .next (landRecord (swapBanks u) r) ∧
        exec (.storeWrite false false false) s = .next (storeFails u))) ∧
  ((otherBank s.store).erased = false → s.pwr.auxBad = false →
    let u := { s with store := setOther s.store { erased := true, erases := (otherBank s.store).erases + 1 } }
    (s.store.swapping = false → exec .storeEraseComplete s = .next u) ∧
    (s.store.swapping = true → exec .storeEraseComplete s = .next (answerSwap (swapBanks u) stOk)))

/-- R360, R394, R395, R484, R502 to R504, R507, R508, R518, R520, R538, R541: what the events of boot, restart and confirmation do, what a
message of the selected PTP port, transport and domain does (the message that the frame's bytes spell), and the loss of the transmitter. -/
def Obligations.BootAndPtpEventsComplete : Prop :=
  (∀ (s : State),
  (∀ testMode recover vin, s.pwr.inputOn = false → 380 < vin → vin ≤ 640 → (s.pwr.senseReady = true ∨ s.pwr.senseMated.any (· + 50000000 ≤ s.now) = true) →
    let u := { s with pwr := { s.pwr with inputOn := true, senseReady := true, vin := vin } }
    exec (.powerOn testMode recover vin) s = .next (if testMode = true
      then spOn { u with now := 0, boot := { u.boot with stage := 9, recover := recover } } [370] else runBoot u 0 0 recover)) ∧
  (∀ badHbm badLpx recs, s.boot.stage = 3 → memoryUp s = true →
    let rs := recs.map judged
    let u := { s with boot := { s.boot with stage := 4, bootRecs := rs } }
    let u := (badHbm.filter (· < frameCount 1)).foldl (fun s f => retireFrame s 1 f 1) u
    let u := (badLpx.filter (· < frameCount 2)).foldl (fun s f => retireFrame s 2 f 1) u
    let u := (failedBlocks rs).foldl (fun s d => failBlock s d none) (diePrepared u)
    (u.boot.stage ≠ 8 → tierLost u 1 = false → tierLost u 2 = false →
      exec (.memoryInitComplete badHbm badLpx recs) s = .next { u with boot := { u.boot with stage := 5, linksAt := some u.now } }) ∧
    (u.boot.stage = 8 ∨ tierLost u 1 = true ∨ tierLost u 2 = true →
      exec (.memoryInitComplete badHbm badLpx recs) s = .next { u with boot := { u.boot with stage := 8 } })) ∧
  (∀ t, s.boot.stage = 5 → s.boot.timeSync = false → s.boot.linksAt = some t → t + ptpWaitNs s ≤ s.now →
    exec .ptpWaitExpiry s = .next { s with boot := { s.boot with waitOver := true } }) ∧
  (s.boot.stage = 5 → s.pwr.brown = none → ptpWaits s = false ∨ s.boot.timeSync = true ∨ s.boot.waitOver = true →
    let ms := sat 16 ((s.now + 2 ^ 64 - s.boot.timeStep % 2 ^ 64) % 2 ^ 64 / 1000000)
    let u := restoreStore s
    let u := { u with boot := { u.boot with stage := 6, readyAt := some u.now, bootMs := ms, heldEvents := [] } }
    let u := raise u srcCore evBootReady [u.boot.slot, u.sec.svn, u.boot.cause, ms, u.boot.fenced.length, u.boot.timeStep] []
    let u := s.boot.heldEvents.foldl (fun s x => deliverEvt s (maskBasins x.1) x.2) u
    exec .bootReady s = .next (settleMode
      (if u.boot.reverted = true then raise u srcCore evFwReverted [u.boot.slot, u.boot.abandoned] [] else u))) ∧
  (∀ t, s.boot.stage = 6 → s.boot.trial = true → s.boot.readyAt = some t → t + confirmNs s ≤ s.now → s.storeOpen →
    exec .confirmTimeout s = .next (confirmFw s)) ∧
  (3 ≤ s.boot.stage → s.boot.stage ≤ 6 → exec .sp0WatchdogExpiry s = .next (askRestart s s.now 4)) ∧
  (∀ lowNs, s.pwr.inputOn = true → s.boot.stage ≠ 9 → 10000000 ≤ lowNs → exec (.modReset lowNs) s = .next (askRestart s s.now 6)) ∧
  (∀ c, restartRuns s = some c →
    exec .moduleRestart s = .next (runBoot (loseAll s) c (sat 16 (s.boot.restarts + 1)) s.boot.recover))) ∧
  (∀ (s : State) (f : RxFrame) (src : Nat),
  (ptpFld s 0 0 = 1 → f.port = ptpFld s 1 1 → portLink s f.port = true → f.linkOk = true → vlanOk s f = true → f.bufferRoom = true →
    f.ptpTransport = some (ptpTransport s) → f.ptpDomain = ptpFld s 8 15 → let u := count (usePort s f.port) 5 f.port 0 0 1
    let reads (x : PtpMsg) (t : State) : Prop := ∀ m, f.ptp m = some x → exec (.ptpMessage f m) s = .next t
    (s.eth.ptp.source ≠ some src → reads (.announce src true) (setPtp (ptpLose u) fun p => { p with source := some src })) ∧
    (s.eth.ptp.source = some src →
      (∀ t1 t2, reads (.sync src true t1 t2) (setPtp u fun p => { p with t1 := none, t2 := some t2, t3 := none, waitFollow := true })) ∧
      (∀ t1 t2, reads (.sync src false t1 t2) (askDelay (setPtp u fun p => { p with t1 := some t1, t2 := some t2 }) f.port)) ∧
      (∀ t1, s.eth.ptp.waitFollow = true →
        reads (.followUp src t1) (askDelay (setPtp u fun p => { p with t1 := some t1 }) f.port)) ∧
      (∀ t1 t2 t3 t4, s.eth.ptp.t1 = some t1 → s.eth.ptp.t2 = some t2 → s.eth.ptp.t3 = some t3 →
        reads (.delayResp src t3 t4) (ptpMeasure (setPtp u fun p => { p with t3 := none })
          (half (((t2 : Int) - t1) - ((t4 : Int) - t3))))))) ∧
  exec .ptpTransmitterLost s = .next (ptpLose s))

/-- R510 to R512, R514, R515: the self-test commands and the instructions of the test access port. TEST.BIST whose checks pass takes the next
run number, wakes the target's domains, takes a ford or a port out of use and leaves its reply waiting. When the test is complete, the run is
kept with the 15 before it, a record being aborted (3) where the test was or its domain is HELD (log entry 156), the blocks that failed are treated (R512), the memory that was
tested is cleared or the ford trains again, TEST.DONE is raised, and the waiting reply carries RUN, NREC and NFAIL. TEST.RESULT answers the
boot run, a kept run, and ST_TEST_UNKNOWN for any other. BYPASS, IDCODE and SAMPLE/PRELOAD are taken in every stage, and drive no pin: BYPASS
captures 0, IDCODE 0x1F47_30D3, SAMPLE/PRELOAD the pins, and loads the boundary register. The instructions that drive pins are taken in
TEST_HOLD: they drive the boundary register's levels, HIGHZ none; outside it they change nothing. -/
def Obligations.TestCommandsAndPortComplete : Prop :=
  (∀ (s : State) (h : Hdr),
  (∀ scope target, s.accepts (.testBist h scope target) → isAdmin s h.basin = true → bistCheck s h.port scope target = stOk →
    let u : State := { s.took h 0x0800 with boot := { s.boot with
      testing := some (s.boot.nextRun, scope, target), testAborted := false, nextRun := wrap 32 (s.boot.nextRun + 1) } }
    let u := (testDomains scope target).foldl wakeDomain u
    exec (.testBist h scope target) s = .next (deferCmd
      (if scope = 2 then fordsOff u [target] else if scope = 3 then dropPort u target else u)
      { h := h, opcode := 0x0800, obj := .test, arg := s.boot.nextRun })) ∧
  (∀ run scope target recs, s.boot.testing = some (run, scope, target) →
    let rs := recs.map fun r =>
      if s.boot.testAborted || ((domOf s r.block).state == 3 && r.result != 2) then { r with result := 3 } else judged r
    let fails := (rs.filter fun r => r.result == 1).length
    let x : BistRun := { run := run, scope := scope, target := target, recs := rs }
    let u := { s with boot := { s.boot with
      testing := none, testAborted := false, runs := (s.boot.runs ++ [x]).drop (s.boot.runs.length + 1 - 16) } }
    let u := (failedBlocks rs).foldl (fun s d => failBlock s d (if scope = 1 then some target else none)) u
    exec (.bistComplete recs) s =
      .next (answerAll (raise (afterTest u scope target) srcCore evTestDone [run, rs.length, fails] [])
        (fun d => d.opcode == 0x0800) stOk [.u32 run, .u16 rs.length, .u16 fails])) ∧
  (s.accepts (.testResult h 0) →
    RunsTo (.testResult h 0) s s (only h.basin [.rsp 0x0801 stOk h.ctag
      ([.u32 0, .u8 0xFF, .u16 0, .u16 s.boot.bootRecs.length] ++ s.boot.bootRecs.map fun r => .record 48 (bistWord r))])) ∧
  (∀ run, run ≠ 0 → s.accepts (.testResult h run) →
    (∀ r, (s.boot.runs.find? fun r => r.run == run) = some r →
      RunsTo (.testResult h run) s s (only h.basin [.rsp 0x0801 stOk h.ctag
        ([.u32 run, .u8 r.scope, .u16 r.target, .u16 r.recs.length] ++ r.recs.map fun r => .record 48 (bistWord r))])) ∧
    ((∀ r ∈ s.boot.runs, r.run ≠ run) →
      RunsTo (.testResult h run) s s (only h.basin [.rsp 0x0801 stTestUnknown h.ctag []])))) ∧
  (∀ (s : State) (pins : List Bool),
  (s.pwr.inputOn = true →
    exec .bypass s = .next { s with tap := { s.tap with ir := .bypass, dr := [false], driven := [] } } ∧
    exec .idcode s = .next { s with tap := { s.tap with
      ir := .idcode, dr := (List.range 32).map fun k => (0x1F4730D3 : BitVec 32).getLsbD k, driven := [] } } ∧
    ∀ shifted, exec (.samplePreload pins shifted) s = .next { s with tap := { s.tap with
      ir := .sample, dr := fit pins, driven := [], boundary := fit shifted } }) ∧
  (s.boot.stage = 9 →
    let levels := (fit s.tap.boundary).map some
    exec (.extest pins) s = .next { s with tap := { s.tap with ir := .extest, dr := fit pins, driven := levels } } ∧
    exec .clamp s = .next { s with tap := { s.tap with ir := .clamp, dr := [false], driven := levels } } ∧
    exec .highz s = .next { s with tap := { s.tap with
      ir := .highz, dr := [false], driven := List.replicate Config.boundaryLen none } } ∧
    exec (.extestPulse pins) s = .next { s with tap := { s.tap with ir := .extestPulse, dr := fit pins, driven := levels } } ∧
    exec (.extestTrain pins) s = .next { s with tap := { s.tap with ir := .extestTrain, dr := fit pins, driven := levels } }) ∧
  (s.boot.stage ≠ 9 → exec (.extest pins) s = .next s ∧ exec .clamp s = .next s ∧ exec .highz s = .next s ∧
    exec (.extestPulse pins) s = .next s ∧ exec (.extestTrain pins) s = .next s))

/-- R489, R508, R538, R546 to R549, R554: what the management port's codes do in the stages that serve them: what each answers, the pieces
of a host record and their end, the move of the administration right, the recovery of an image, a request whose PEC is
wrong, with which nothing is done, and a bus that hangs. -/
def Obligations.ManagementCodesComplete : Prop := ∀ (s : State), s.pwr.inputOn = true →
  (s.boot.stage < 10 → exec (.mgStatus true) s =
    .next (mgReply s mgOk (le 1 s.boot.stage ++ le 8 (bootStatus s) ++ le 8 (pwrStatusReg s) ++ le 8 (secStatus s)))) ∧
  (3 ≤ s.boot.stage → s.boot.stage ≤ 8 →
    exec (.mgSensors true) s = .next (mgReply s mgOk ((List.range 32).map (tempByte s) ++ le 2 s.pwr.vin ++ le 2 (pinW s))) ∧
    ∀ start, exec (.mgFaults true start) s = .next (mgReply s mgOk
      (le 4 (((faultWords s).head?.map (fld · 0 31)).getD s.logs.fseq) ++ le 4 s.logs.fseq ++
        ((((faultWords s).filter fun w => fld w 0 31 == start || seqBefore start (fld w 0 31)).take 3).map (le 64)).flatten))) ∧
  (∀ start, s.boot.stage ∈ [3, 4, 5, 6, 8] →
    let es := (ringFrom s.logs.mgRing start).take 2
    let u := mgReply s mgOk (le 4 (ringOldest s.logs.mgRing s.logs.mgLseq) ++ le 4 s.logs.mgLseq ++
      (es.map fun e => le 96 (logEntryWord e)).flatten)
    (es = [] → exec (.mgEvents true start) s = .next u) ∧
    (∀ e, es.getLast? = some e → seqBefore e.lseq s.logs.mgRead = false →
      exec (.mgEvents true start) s = .next { u with logs := { u.logs with mgRead := wrap 32 (e.lseq + 1) } })) ∧
  (∀ first, 4 ≤ s.boot.stage → s.boot.stage ≤ 8 → exec (.mgSelftest true first) s =
    .next (mgReply s mgOk (((s.boot.bootRecs.drop first).take 5).map fun r => le 48 (bistWord r)).flatten)) ∧
  (s.boot.stage ≤ 8 → exec (.mgRestart true) s = .next (askRestart (mgReply s mgOk []) s.now 6)) ∧
  (∀ t, s.boot.stage = 6 → s.pwr.standbyUntil = some t → exec (.mgWake true) s = .next (mgReply (leaveStandby s) mgOk [])) ∧
  (∀ offset piece, s.boot.stage = 6 → mgMayAdmin s = true → 1 ≤ piece.length → piece.length ≤ 240 →
    let buf := if offset = 0 then [] else s.mgmt.hostBuf
    let l := buf ++ piece
    offset = buf.length →
    (l.length < 8 ∨ l.length < hostRecLen l → exec (.mgAdminHosts true offset piece) s =
      .next (mgReply (setMgmt s fun m => { m with hostBuf := l, hostAt := some s.now }) mgOk [])) ∧
    (8 ≤ l.length → l.length = hostRecLen l → s.storeOpen → hostsCheck s s.admin l = stOk →
      exec (.mgAdminHosts true offset piece) s = .next (mgReply (setHosts (dropHostBuf s) s.admin l) mgOk []))) ∧
  (s.mgmt.hostAt.any (· + 10000000000 ≤ s.now) = true → exec .mgAdminHostsTimeout s = .next (dropHostBuf s)) ∧
  (∀ b, s.boot.stage = 6 → mgMayAdmin s = true → s.storeOpen → basinLive s b = true → inTeardown s b = false →
    exec (.mgAdminMove true b) s = .next (mgReply (moveAdmin s b) mgOk [])) ∧
  (∀ offset chunk, s.boot.stage = 7 → offset % 240 = 0 → offset < 67108864 → chunk.length = 240 →
    exec (.mgImage true offset chunk) s = .next (mgReply (setMgmt (putSlotImage s 0 []) fun m => { m with
      imageChunks := dropW (fun c => c.1 == offset) m.imageChunks ++ [(offset, chunk)] }) mgOk [])) ∧
  (∀ len, s.boot.stage = 7 → len ≤ 67108864 → s.storeOpen →
    let img := programmed s len
    let u := setMgmt s fun m => { m with imageChunks := [] }
    let v := putSlotImage u 0 img
    let v := storeWriteNow v (slotRecord (slotWith (slotWord v) 0 false 0 (some (0, imgFld img 32 63))))
    exec (.mgImageCommit true len) s = .next (if fwCheck u img = stOk then askRestart (mgReply v mgOk []) v.now 6
      else mgReply (putSlotImage u 0 []) mgInvalid [])) ∧
  (∀ n l, ∀ c ∈ [Instr.mgStatus false, .mgSensors false, .mgEvents false n, .mgFaults false n, .mgSelftest false n, .mgRestart false,
      .mgWake false, .mgAdminHosts false n l, .mgAdminMove false n, .mgImage false n l, .mgImageCommit false n],
    exec c s = .next (mgReply (pecFailed s) mgPec [])) ∧
  exec .mgBusTimeout s =
    .next (raise (setMgmt s fun m => { m with busResets := m.busResets + 1 }) srcStewipen evPwrSensorFail [0xFF, 3] [])
end

