-- ==== Sys2Proof/Laws/Memory.lean ====
section
/-! SUPPORT. The laws of memory: the canonical form, kept by every memory operation, and what a read gives after a write. -/

namespace Sys2Proof.Laws

open Sys2Proof Sys2Proof.Machine

/-- The canonical form, said of a cell list as the two facts that a proof uses. -/
theorem wf_iff (m : List Host.Cell) :
    Memory.wf m = true ↔ m.Pairwise (fun x y => x.1 < y.1) ∧ ∀ c ∈ m, c.2 ≠ memDefault := by
  induction m with
  | nil => simp [Memory.wf]
  | cons c l ih =>
    cases l with
    | nil => obtain ⟨k, b⟩ := c; simp [Memory.wf]
    | cons d l =>
      obtain ⟨k, b⟩ := c
      obtain ⟨k', b'⟩ := d
      simp only [Memory.wf, Bool.and_eq_true, bne_iff_ne, decide_eq_true_eq, ih]
      constructor
      · rintro ⟨⟨hb, hk⟩, hp, hv⟩
        refine ⟨List.pairwise_cons.2 ⟨?_, hp⟩, ?_⟩
        · intro c hc
          rcases List.mem_cons.1 hc with rfl | hc
          · exact hk
          · exact lt_trans hk ((List.pairwise_cons.1 hp).1 c hc)
        · intro c hc
          rcases List.mem_cons.1 hc with rfl | hc
          · exact hb
          · exact hv c hc
      · rintro ⟨hp, hv⟩
        exact ⟨⟨hv (k, b) (by simp), (List.pairwise_cons.1 hp).1 (k', b') (by simp)⟩, (List.pairwise_cons.1 hp).2,
          fun c hc => hv c (List.mem_cons_of_mem _ hc)⟩

theorem memEmpty_wf : Memory.wf [] = true := rfl

/-- Every cell that a write leaves was there before, or is the byte written. -/
theorem mem_memPut (m : List Host.Cell) (a : Nat) (b : Byte) :
    ∀ c ∈ memPut m a b, c ∈ m ∨ (c = (a, b) ∧ b ≠ memDefault) := by
  induction m with
  | nil => intro c; simp only [memPut]; split <;> simp_all
  | cons d l ih =>
    obtain ⟨k, e⟩ := d
    intro c
    simp only [memPut]
    split
    · intro hc
      rcases List.mem_cons.1 hc with rfl | hc
      · simp
      · rcases ih c hc with h | h
        · exact .inl (List.mem_cons_of_mem _ h)
        · exact .inr h
    · split
      · split
        · intro hc; exact .inl (List.mem_cons_of_mem _ hc)
        · intro hc
          rcases List.mem_cons.1 hc with rfl | hc
          · exact .inr ⟨rfl, by assumption⟩
          · exact .inl (List.mem_cons_of_mem _ hc)
      · split
        · intro hc; exact .inl hc
        · intro hc
          rcases List.mem_cons.1 hc with rfl | hc
          · exact .inr ⟨rfl, by assumption⟩
          · exact .inl hc

theorem memPut_wf {m : List Host.Cell} (h : Memory.wf m = true) (a : Nat) (b : Byte) : Memory.wf (memPut m a b) = true := by
  rw [wf_iff] at h ⊢
  obtain ⟨hp, hv⟩ := h
  refine ⟨?_, fun c hc => ?_⟩
  · clear hv
    induction m with
    | nil => simp only [memPut]; split <;> simp
    | cons d l ih =>
      obtain ⟨k, e⟩ := d
      obtain ⟨h1, h2⟩ := List.pairwise_cons.1 hp
      simp only [memPut]
      split
      · rename_i hk
        refine List.pairwise_cons.2 ⟨fun c hc => ?_, ih h2⟩
        rcases mem_memPut l a b c hc with h | ⟨rfl, -⟩
        · exact h1 c h
        · exact hk
      · split
        · rename_i hk
          subst hk
          split
          · exact h2
          · exact List.pairwise_cons.2 ⟨h1, h2⟩
        · split
          · exact hp
          · refine List.pairwise_cons.2 ⟨fun c hc => ?_, hp⟩
            rcases List.mem_cons.1 hc with rfl | hc
            · show a < k; omega
            · have := h1 c hc; show a < c.1; simp only at this; omega
  · rcases mem_memPut m a b c hc with h | ⟨rfl, h⟩
    · exact hv c h
    · exact h

theorem memPuts_wf {m : List Host.Cell} (h : Memory.wf m = true) (a : Nat) (l : List Byte) :
    Memory.wf (memPuts m a l) = true := by
  induction l generalizing m a with
  | nil => exact h
  | cons b l ih => exact ih (memPut_wf h a b) (a + 1)

theorem memClear_wf {m : List Host.Cell} (h : Memory.wf m = true) (a n : Nat) : Memory.wf (memClear m a n) = true := by
  rw [wf_iff] at h ⊢
  exact ⟨h.1.sublist List.filter_sublist, fun c hc => h.2 c (List.mem_of_mem_filter hc)⟩

/-- In a canonical list, no cell below the first address is listed. -/
theorem memGet_of_lt {m : List Host.Cell} {a : Nat} (h : ∀ c ∈ m, a < c.1) : memGet m a = memDefault := by
  induction m with
  | nil => rfl
  | cons c l ih =>
    obtain ⟨k, b⟩ := c
    have := h (k, b) (by simp)
    have hk : k ≠ a := by simp only at this; omega
    simp only [memGet, hk, if_false]
    exact ih fun c hc => h c (List.mem_cons_of_mem _ hc)

/-- A read of one byte after a write of one byte. -/
theorem memGet_memPut {m : List Host.Cell} (h : Memory.wf m = true) (a x : Nat) (b : Byte) :
    memGet (memPut m a b) x = if x = a then b else memGet m x := by
  obtain ⟨hp, -⟩ := (wf_iff m).1 h
  clear h
  induction m with
  | nil =>
    simp only [memPut]
    split
    · rename_i hb; subst hb; simp [memGet]
    · simp [memGet, eq_comm]
  | cons c l ih =>
    obtain ⟨k, e⟩ := c
    obtain ⟨h1, h2⟩ := List.pairwise_cons.1 hp
    simp only [memPut]
    split
    · simp only [memGet, ih h2]
      split <;> split <;> first | rfl | omega
    · rename_i hk
      split
      · rename_i hka
        subst hka
        split
        · rename_i hb
          by_cases hx : x = k
          · subst hx; simp only [if_true, hb]; exact memGet_of_lt h1
          · simp [memGet, hx, Ne.symm hx]
        · by_cases hx : x = k
          · subst hx; simp [memGet]
          · simp [memGet, hx, Ne.symm hx]
      · rename_i hka
        split
        · rename_i hb
          by_cases hx : x = a
          · subst hx
            simp only [if_true, hb]
            refine memGet_of_lt fun c hc => ?_
            rcases List.mem_cons.1 hc with rfl | hc
            · show x < k; omega
            · have := h1 c hc; simp only at this; omega
          · simp [hx]
        · by_cases hx : x = a
          · subst hx; simp [memGet]
          · have : a ≠ x := fun h => hx h.symm
            simp [memGet, hx, this]

/-- A run of bytes written leaves every byte outside it. -/
theorem memGet_memPuts_of_notMem {m : List Host.Cell} (h : Memory.wf m = true) (a x : Nat) (l : List Byte)
    (hx : x < a ∨ a + l.length ≤ x) : memGet (memPuts m a l) x = memGet m x := by
  induction l generalizing m a with
  | nil => rfl
  | cons b l ih =>
    simp only [List.length_cons] at hx
    rw [memPuts, ih (memPut_wf h a b) (a + 1) (by omega), memGet_memPut h, if_neg (by omega)]

/-- A run of bytes written reads back. -/
theorem memGet_memPuts_of_mem {m : List Host.Cell} (h : Memory.wf m = true) (a k : Nat) (l : List Byte)
    (hk : k < l.length) : memGet (memPuts m a l) (a + k) = l[k] := by
  induction l generalizing m a k with
  | nil => simp at hk
  | cons b l ih =>
    rw [memPuts]
    cases k with
    | zero =>
      rw [memGet_memPuts_of_notMem (memPut_wf h a b) _ _ _ (by omega), memGet_memPut h]
      simp
    | succ k =>
      have := ih (memPut_wf h a b) (a + 1) k (by simpa using hk)
      simpa [Nat.add_assoc, Nat.add_comm 1 k] using this

/-- A cleared range reads as the default, and the rest as before. -/
theorem memGet_memClear (m : List Host.Cell) (a n x : Nat) :
    memGet (memClear m a n) x = if a ≤ x ∧ x < a + n then memDefault else memGet m x := by
  induction m with
  | nil => simp [memClear, memGet]
  | cons c l ih =>
    obtain ⟨k, b⟩ := c
    simp only [memClear, List.filter_cons] at ih ⊢
    by_cases hk : a ≤ k ∧ k < a + n
    · simp only [hk, decide_true, Bool.and_self, Bool.not_true, Bool.false_eq_true, if_false, ih, memGet]
      split
      · rfl
      · rename_i hx
        rw [if_neg]
        rintro rfl
        exact hx hk
    · have hk' : (!(decide (a ≤ k) && decide (k < a + n))) = true := by
        simp only [Bool.not_eq_true', Bool.and_eq_false_iff, decide_eq_false_iff_not]; omega
      simp only [hk', if_true, memGet, ih]
      split
      · rename_i hx; subst hx; rw [if_neg hk]
      · rfl

end Sys2Proof.Laws
end

