-- ==== Sys2Proof/Laws/Kept.lean ====
section
/-! SUPPORT. What every command keeps: the queue of waiting commands as it was, memory in its canonical form, and a link and a KV store for
each basin. The predicate, and how it passes through the forms in which the meanings are written. -/

namespace Sys2Proof.Laws

open Sys2Proof Sys2Proof.Machine

/-- A state reached from `s0`: the queue is that of `s0`, memory is in canonical form, and each basin
has its link and its KV store. -/
structure Kept (s0 s : State) : Prop where
  pending : s.pending = s0.pending
  mem : Memory.wf s.mem = true
  links : s.links.length = 16
  kvs : s.kvs.length = 16

/-- The same of an outcome: every next state is so. -/
def KeptO (s0 : State) : Res → Prop
  | .next s => Kept s0 s
  | _ => True

/-- The state that an access leaves, whether it gave its value or stopped. -/
def gotState {α : Type} : Got α → State
  | .ok _ s => s
  | .stop s => s

theorem gotState_ok {α : Type} (a : α) (s : State) : gotState (.ok a s) = s := rfl

theorem gotState_stop {α : Type} (s : State) : gotState (.stop s : Got α) = s := rfl

variable {s0 s : State}

/-- An update of other fields. -/
theorem Kept.lit {now freeCtr boot store sec pwr eth logs basins admin runnels pools tiers models serving steps trains fords
    mgmt tap} (h : Kept s0 s) :
    Kept s0 ⟨s.pending, now, freeCtr, boot, store, sec, pwr, eth, s.links, logs, basins, admin, runnels, s.mem, pools, tiers,
      models, s.kvs, serving, steps, trains, fords, mgmt, tap⟩ := ⟨h.pending, h.mem, h.links, h.kvs⟩

/-- An update that writes memory. -/
theorem Kept.litMem {now freeCtr boot store sec pwr eth logs basins admin runnels mem pools tiers models serving steps trains
    fords mgmt tap} (h : Kept s0 s) (hm : Memory.wf mem = true) :
    Kept s0 ⟨s.pending, now, freeCtr, boot, store, sec, pwr, eth, s.links, logs, basins, admin, runnels, mem, pools, tiers,
      models, s.kvs, serving, steps, trains, fords, mgmt, tap⟩ := ⟨h.pending, hm, h.links, h.kvs⟩

/-- An update of the links that keeps their number. -/
theorem Kept.setLinks {l : List Link} (h : Kept s0 s) (hl : l.length = s.links.length) : Kept s0 { s with links := l } :=
  ⟨h.pending, h.mem, hl.trans h.links, h.kvs⟩

/-- An update of the KV stores that keeps their number. -/
theorem Kept.setKvs {l : List Kv} (h : Kept s0 s) (hl : l.length = s.kvs.length) : Kept s0 { s with kvs := l } :=
  ⟨h.pending, h.mem, h.links, hl.trans h.kvs⟩

theorem KeptO.next (h : Kept s0 s) : KeptO s0 (.next s) := h

theorem ite_keeps {α : Sort*} {P : α → Prop} {c : Prop} [Decidable c] {a b : α} (h1 : P a) (h2 : P b) :
    P (if c then a else b) := by split <;> assumption

theorem both {A B : Prop} (h : A) (g : A → B) : B := g h

theorem foldl_kept {β : Type} {f : State → β → State} {l : List β} (h : Kept s0 s)
    (hf : ∀ s x, Kept s0 s → Kept s0 (f s x)) : Kept s0 (l.foldl f s) := by
  induction l generalizing s with
  | nil => exact h
  | cons x l ih => exact ih (hf s x h)

theorem foldl_kept_snd {α β : Type} {f : α × State → β → α × State} {l : List β} {p : α × State} (h : Kept s0 p.2)
    (hf : ∀ p x, Kept s0 p.2 → Kept s0 (f p x).2) : Kept s0 (l.foldl f p).2 := by
  induction l generalizing p with
  | nil => exact h
  | cons x l ih => exact ih (hf p x h)

theorem foldl_kept_fst {α β : Type} {f : State × α → β → State × α} {l : List β} {p : State × α} (h : Kept s0 p.1)
    (hf : ∀ p x, Kept s0 p.1 → Kept s0 (f p x).1) : Kept s0 (l.foldl f p).1 := by
  induction l generalizing p with
  | nil => exact h
  | cons x l ih => exact ih (hf p x h)

end Sys2Proof.Laws
end

