-- ==== Sys2Proof/Laws/KeptOps.lean ====
section
/-! SUPPORT. What the functions of Machine/Ops.lean keep: the waiting commands and memory's canonical form. -/

namespace Sys2Proof.Laws

open Sys2Proof Sys2Proof.Machine

theorem drawPick_kept {s0 : State} (s : State) (hs1 : Kept s0 s) :
    Kept s0 (drawPick s).2 := by
  unfold drawPick
  repeat' (first
    | with_reducible assumption
    | dsimp -zeta only
    | with_reducible refine ite_keeps (P := fun p => Kept s0 p.2) ?_ ?_
    | fail_if_no_progress with_reducible refine Kept.lit ?_)

theorem setLink_kept {s0 : State} (s : State) (b : Nat) (f : Link → Link) (hs1 : Kept s0 s) :
    Kept s0 (setLink s b f) := by
  unfold setLink
  exact Kept.setLinks hs1 (by simp)

theorem setFlow_kept {s0 : State} (s : State) (b : Nat) (f : Nat) (g : Flow → Flow) (hs1 : Kept s0 s) :
    Kept s0 (setFlow s b f g) := by
  unfold setFlow
  repeat' (first
    | with_reducible assumption
    | fail_if_no_progress with_reducible refine Kept.lit ?_
    | with_reducible apply setLink_kept)

theorem count_kept {s0 : State} (s : State) (set : Nat) (index : Nat) (basin : Nat) (field : Nat) (n : Nat) (hs1 : Kept s0 s) :
    Kept s0 (count s set index basin field n) := by
  unfold count
  repeat' (first
    | with_reducible assumption
    | fail_if_no_progress with_reducible refine Kept.lit ?_
    | with_reducible refine KeptO.next ?_
    | with_reducible refine ite_keeps (P := Kept s0) ?_ ?_)

theorem takeRseq_kept {s0 : State} (s : State) (sender : Nat) (hs1 : Kept s0 s) :
    Kept s0 (takeRseq s sender).2 := by
  unfold takeRseq
  repeat' (first
    | with_reducible assumption
    | dsimp -zeta only
    | with_reducible refine ite_keeps (P := fun p => Kept s0 p.2) ?_ ?_
    | fail_if_no_progress with_reducible refine Kept.lit ?_)

theorem setFord_kept {s0 : State} (s : State) (n : Nat) (f : Ford → Ford) (hs1 : Kept s0 s) :
    Kept s0 (setFord s n f) := by
  unfold setFord
  repeat' (first
    | with_reducible assumption
    | fail_if_no_progress with_reducible refine Kept.lit ?_)

theorem addCredits_kept {s0 : State} (s : State) (n : Nat) (chan : Nat) (k : Nat) (hs1 : Kept s0 s) :
    Kept s0 (addCredits s n chan k) := by
  unfold addCredits
  repeat' (first
    | with_reducible assumption
    | fail_if_no_progress with_reducible refine Kept.lit ?_
    | with_reducible apply setFord_kept)

theorem putLm_kept {s0 : State} (s : State) (n : Nat) (fr : LmFrame) (hs1 : Kept s0 s) :
    Kept s0 (putLm s n fr) := by
  unfold putLm
  repeat' (first
    | with_reducible assumption
    | fail_if_no_progress with_reducible refine Kept.lit ?_
    | with_reducible apply setFord_kept
    | with_reducible apply count_kept)

theorem sendOne_kept {s0 : State} (s : State) (fr : LmFrame) (hs1 : Kept s0 s) :
    Kept s0 (sendOne s fr) := by
  unfold sendOne
  repeat' (first
    | with_reducible assumption
    | fail_if_no_progress with_reducible refine Kept.lit ?_
    | with_reducible apply putLm_kept
    | with_reducible refine KeptO.next ?_
    | with_reducible refine ite_keeps (P := Kept s0) ?_ ?_
    | with_reducible refine ite_keeps (P := KeptO s0) ?_ ?_
    | (intro y; intros)
    | split)

theorem sendLm_kept {s0 : State} (s : State) (l : List LmFrame) (hs1 : Kept s0 s) :
    Kept s0 (sendLm s l) := by
  unfold sendLm
  repeat' (first
    | with_reducible assumption
    | fail_if_no_progress with_reducible refine Kept.lit ?_
    | with_reducible apply sendOne_kept
    | with_reducible refine KeptO.next ?_
    | with_reducible refine ite_keeps (P := Kept s0) ?_ ?_
    | with_reducible refine ite_keeps (P := KeptO s0) ?_ ?_
    | with_reducible refine foldl_kept ?_ (fun s x hs => ?_))

theorem sendWaiting_kept {s0 : State} (s : State) (hs1 : Kept s0 s) :
    Kept s0 (sendWaiting s) := by
  unfold sendWaiting
  repeat' (first
    | with_reducible assumption
    | fail_if_no_progress with_reducible refine Kept.lit ?_
    | with_reducible apply sendLm_kept)

theorem giveCredits_kept {s0 : State} (s : State) (chan : Nat) (l : List (Nat × Nat)) (hs1 : Kept s0 s) :
    Kept s0 (giveCredits s chan l) := by
  unfold giveCredits
  repeat' (first
    | with_reducible assumption
    | fail_if_no_progress with_reducible refine Kept.lit ?_
    | with_reducible apply sendLm_kept)

theorem useTag_kept {s0 : State} (s : State) (n : Nat) (tag : Option SecTag) (hs1 : Kept s0 s) :
    Kept s0 (useTag s n tag) := by
  unfold useTag
  repeat' (first
    | with_reducible assumption
    | fail_if_no_progress with_reducible refine Kept.lit ?_
    | with_reducible refine KeptO.next ?_
    | with_reducible refine ite_keeps (P := Kept s0) ?_ ?_
    | with_reducible refine ite_keeps (P := KeptO s0) ?_ ?_
    | (intro y; intros)
    | split)

theorem putFrame_kept {s0 : State} (s : State) (port : Nat) (pcp : Nat) (toMac : Option Nat) (sec : Option SecTag) (x : OutBody) (hs1 : Kept s0 s) :
    Kept s0 (putFrame s port pcp toMac sec x) := by
  unfold putFrame
  repeat' (first
    | with_reducible assumption
    | fail_if_no_progress with_reducible refine Kept.lit ?_
    | with_reducible apply count_kept)

theorem setDom_kept {s0 : State} (s : State) (d : Nat) (f : Dom → Dom) (hs1 : Kept s0 s) :
    Kept s0 (setDom s d f) := by
  unfold setDom
  repeat' (first
    | with_reducible assumption
    | fail_if_no_progress with_reducible refine Kept.lit ?_)

theorem usePort_kept {s0 : State} (s : State) (port : Nat) (hs1 : Kept s0 s) :
    Kept s0 (usePort s port) := by
  unfold usePort
  repeat' (first
    | with_reducible assumption
    | fail_if_no_progress with_reducible refine Kept.lit ?_
    | with_reducible apply setDom_kept)

theorem sendFrame_kept {s0 : State} (s : State) (port : Nat) (pcp : Nat) (toMac : Option Nat) (x : OutBody) (hs1 : Kept s0 s) :
    Kept s0 (sendFrame s port pcp toMac x) := by
  unfold sendFrame
  repeat' (first
    | with_reducible assumption
    | fail_if_no_progress with_reducible refine Kept.lit ?_
    | with_reducible apply useTag_kept
    | with_reducible apply putFrame_kept
    | with_reducible apply usePort_kept
    | with_reducible refine KeptO.next ?_
    | with_reducible refine ite_keeps (P := Kept s0) ?_ ?_)

theorem sendUncontrolled_kept {s0 : State} (s : State) (port : Nat) (x : OutBody) (hs1 : Kept s0 s) :
    Kept s0 (sendUncontrolled s port x) := by
  unfold sendUncontrolled
  repeat' (first
    | with_reducible assumption
    | fail_if_no_progress with_reducible refine Kept.lit ?_
    | with_reducible apply putFrame_kept
    | with_reducible refine KeptO.next ?_
    | with_reducible refine ite_keeps (P := Kept s0) ?_ ?_)

theorem resolveFor_kept {s0 : State} (s : State) (port : Nat) (ip : Nat) (ourIp : Nat) (pcp : Nat) (hs1 : Kept s0 s) :
    Kept s0 (resolveFor s port ip ourIp pcp) := by
  unfold resolveFor
  repeat' (first
    | with_reducible assumption
    | fail_if_no_progress with_reducible refine Kept.lit ?_
    | with_reducible apply sendFrame_kept
    | with_reducible refine KeptO.next ?_
    | with_reducible refine ite_keeps (P := Kept s0) ?_ ?_
    | with_reducible refine ite_keeps (P := KeptO s0) ?_ ?_
    | (intro y; intros)
    | (extract_lets +onlyGivenNames z; refine both (A := Kept s0 z) ?_ (fun hz => ?_) <;> [(dsimp -zeta only [z]; clear z); clear_value z])
    | (extract_lets +onlyGivenNames z; clear_value z)
    | split)

theorem sendTo_kept {s0 : State} (s : State) (port : Nat) (ip : Nat) (ourIp : Nat) (pcp : Nat) (x : OutBody) (hs1 : Kept s0 s) :
    Kept s0 (sendTo s port ip ourIp pcp x) := by
  unfold sendTo
  repeat' (first
    | with_reducible assumption
    | fail_if_no_progress with_reducible refine Kept.lit ?_
    | with_reducible apply sendFrame_kept
    | with_reducible apply resolveFor_kept)

theorem emitSegment_kept {s0 : State} (s : State) (b : Nat) (f : Nat) (kind : Nat) (seq : Nat) (syn : Bool) (more : Bool) (retx : Bool) (maxpay : Nat) (port : Nat) (ip : Nat) (payload : List Byte) (hs1 : Kept s0 s) :
    Kept s0 (emitSegment s b f kind seq syn more retx maxpay port ip payload) := by
  unfold emitSegment
  repeat' (first
    | with_reducible assumption
    | fail_if_no_progress with_reducible refine Kept.lit ?_
    | with_reducible apply setFlow_kept)

theorem sendAck_kept {s0 : State} (s : State) (b : Nat) (f : Nat) (hs1 : Kept s0 s) :
    Kept s0 (sendAck s b f) := by
  unfold sendAck
  repeat' (first
    | with_reducible assumption
    | fail_if_no_progress with_reducible refine Kept.lit ?_
    | with_reducible apply emitSegment_kept
    | with_reducible refine KeptO.next ?_
    | with_reducible refine ite_keeps (P := Kept s0) ?_ ?_)

theorem noteFinals_kept {s0 : State} (s : State) (b : Nat) (m : Msg) (hs1 : Kept s0 s) :
    Kept s0 (noteFinals s b m) := by
  unfold noteFinals
  repeat' (first
    | with_reducible assumption
    | fail_if_no_progress with_reducible refine Kept.lit ?_
    | with_reducible refine KeptO.next ?_
    | with_reducible refine ite_keeps (P := Kept s0) ?_ ?_)

theorem sendNext_kept {s0 : State} (s : State) (b : Nat) (f : Nat) (hs1 : Kept s0 s) :
    Kept s0 (sendNext s b f) := by
  unfold sendNext
  repeat' (first
    | with_reducible assumption
    | fail_if_no_progress with_reducible refine Kept.lit ?_
    | with_reducible apply emitSegment_kept
    | with_reducible apply noteFinals_kept
    | with_reducible apply setFlow_kept
    | with_reducible refine KeptO.next ?_
    | with_reducible refine ite_keeps (P := Kept s0) ?_ ?_
    | with_reducible refine ite_keeps (P := KeptO s0) ?_ ?_
    | (intro y; intros)
    | (extract_lets +onlyGivenNames z; refine both (A := Kept s0 z) ?_ (fun hz => ?_) <;> [(dsimp -zeta only [z]; clear z); clear_value z])
    | (extract_lets +onlyGivenNames z; clear_value z)
    | split)

theorem sendSome_kept {s0 : State} (s : State) (b : Nat) (f : Nat) (z0 : Nat) (hs1 : Kept s0 s) :
    Kept s0 (sendSome s b f z0) := by
  induction z0 generalizing s b f with
  | zero =>
    first | rw [sendSome] | (rw [sendSome.eq_def]; dsimp -zeta only)
    repeat' (first
      | with_reducible assumption)
  | succ n ih =>
    first | rw [sendSome] | (rw [sendSome.eq_def]; dsimp -zeta only)
    repeat' (first
      | with_reducible assumption
      | with_reducible apply ih
      | fail_if_no_progress with_reducible refine Kept.lit ?_
      | with_reducible apply sendNext_kept)

theorem loseEgress_kept {s0 : State} (s : State) (b : Nat) (p : QMsg → Bool) (hs1 : Kept s0 s) :
    Kept s0 (loseEgress s b p) := by
  unfold loseEgress
  repeat' (first
    | with_reducible assumption
    | fail_if_no_progress with_reducible refine Kept.lit ?_
    | with_reducible apply setFlow_kept)

theorem markBlocked_kept {s0 : State} (s : State) (b : Nat) (f : Nat) (hs1 : Kept s0 s) :
    Kept s0 (markBlocked s b f) := by
  unfold markBlocked
  repeat' (first
    | with_reducible assumption
    | fail_if_no_progress with_reducible refine Kept.lit ?_
    | with_reducible apply loseEgress_kept
    | with_reducible refine KeptO.next ?_
    | with_reducible refine ite_keeps (P := Kept s0) ?_ ?_)

theorem pump_kept {s0 : State} (s : State) (b : Nat) (f : Nat) (hs1 : Kept s0 s) :
    Kept s0 (pump s b f) := by
  unfold pump
  repeat' (first
    | with_reducible assumption
    | fail_if_no_progress with_reducible refine Kept.lit ?_
    | with_reducible apply markBlocked_kept
    | with_reducible apply sendSome_kept
    | with_reducible refine KeptO.next ?_
    | with_reducible refine ite_keeps (P := Kept s0) ?_ ?_)

theorem sendUnits_kept {s0 : State} (s : State) (b : Nat) (job : Option (Nat × Nat × Nat)) (l : List LmFrame) (hs1 : Kept s0 s) :
    Kept s0 (sendUnits s b job l) := by
  unfold sendUnits
  repeat' (first
    | with_reducible assumption
    | fail_if_no_progress with_reducible refine Kept.lit ?_)

theorem enqueueAs_kept {s0 : State} (s : State) (b : Nat) (f : Nat) (m : Msg) (measure : List Measure) (blocked : Bool) (hs1 : Kept s0 s) :
    Kept s0 (enqueueAs s b f m measure blocked) := by
  unfold enqueueAs
  repeat' (first
    | with_reducible assumption
    | fail_if_no_progress with_reducible refine Kept.lit ?_
    | with_reducible apply setFlow_kept
    | with_reducible apply pump_kept)

theorem enqueue_kept {s0 : State} (s : State) (b : Nat) (f : Nat) (m : Msg) (measure : List Measure) (hs1 : Kept s0 s) :
    Kept s0 (enqueue s b f m measure) := by
  unfold enqueue
  repeat' (first
    | with_reducible assumption
    | fail_if_no_progress with_reducible refine Kept.lit ?_
    | with_reducible apply enqueueAs_kept)

theorem queueRsp_kept {s0 : State} (s : State) (b : Nat) (m : Msg) (hs1 : Kept s0 s) :
    Kept s0 (queueRsp s b m) := by
  unfold queueRsp
  repeat' (first
    | with_reducible assumption
    | fail_if_no_progress with_reducible refine Kept.lit ?_
    | with_reducible apply enqueue_kept
    | with_reducible apply setLink_kept
    | with_reducible refine KeptO.next ?_
    | with_reducible refine ite_keeps (P := Kept s0) ?_ ?_)

theorem queueData_kept {s0 : State} (s : State) (b : Nat) (m : Msg) (hs1 : Kept s0 s) :
    Kept s0 (queueData s b m) := by
  unfold queueData
  repeat' (first
    | with_reducible assumption
    | fail_if_no_progress with_reducible refine Kept.lit ?_
    | with_reducible apply queueRsp_kept)

theorem reply_kept {s0 : State} (s : State) (h : Hdr) (opcode : Nat) (status : Nat) (data : List Field) (hs1 : Kept s0 s) :
    Kept s0 (reply s h opcode status data) := by
  unfold reply
  repeat' (first
    | with_reducible assumption
    | fail_if_no_progress with_reducible refine Kept.lit ?_
    | with_reducible apply queueRsp_kept)

theorem gatherEvt_kept {s0 : State} (s : State) (b : Nat) (e : EvtRec) (hs1 : Kept s0 s) :
    Kept s0 (gatherEvt s b e) := by
  unfold gatherEvt
  repeat' (first
    | with_reducible assumption
    | fail_if_no_progress with_reducible refine Kept.lit ?_
    | with_reducible apply setLink_kept)

theorem deliverEvt_kept {s0 : State} (s : State) (own : List Nat) (e : EvtRec) (hs1 : Kept s0 s) :
    Kept s0 (deliverEvt s own e) := by
  unfold deliverEvt
  repeat' (first
    | with_reducible assumption
    | fail_if_no_progress with_reducible refine Kept.lit ?_
    | with_reducible apply gatherEvt_kept
    | with_reducible refine KeptO.next ?_
    | with_reducible refine ite_keeps (P := Kept s0) ?_ ?_
    | with_reducible refine ite_keeps (P := KeptO s0) ?_ ?_
    | (intro y; intros)
    | with_reducible refine foldl_kept ?_ (fun s x hs => ?_))

theorem raise_kept {s0 : State} (s : State) (src : Nat) (code : Nat) (payload : List Nat) (own : List Nat) (hs1 : Kept s0 s) :
    Kept s0 (raise s src code payload own) := by
  unfold raise
  repeat' (first
    | with_reducible assumption
    | fail_if_no_progress with_reducible refine Kept.lit ?_
    | with_reducible apply deliverEvt_kept
    | with_reducible refine KeptO.next ?_
    | with_reducible refine ite_keeps (P := Kept s0) ?_ ?_)

theorem loseEvents_kept {s0 : State} (s : State) (b : Nat) (l : List EvtRec) (hs1 : Kept s0 s) :
    Kept s0 (loseEvents s b l) := by
  unfold loseEvents
  repeat' (first
    | with_reducible assumption
    | fail_if_no_progress with_reducible refine Kept.lit ?_
    | with_reducible apply setLink_kept)

theorem sendEvents_kept {s0 : State} (b : Nat) (z0 : Nat) (z1 : List EvtRec) (z2 : State) (hs1 : Kept s0 z2) :
    Kept s0 (sendEvents b z0 z1 z2) := by
  induction z0 generalizing b z1 z2 with
  | zero =>
    first | rw [sendEvents] | (rw [sendEvents.eq_def]; dsimp -zeta only)
    repeat' (first
      | with_reducible assumption)
  | succ n ih =>
    first | rw [sendEvents] | (rw [sendEvents.eq_def]; dsimp -zeta only)
    repeat' (first
      | with_reducible assumption
      | with_reducible apply ih
      | fail_if_no_progress with_reducible refine Kept.lit ?_
      | with_reducible apply loseEvents_kept
      | with_reducible apply enqueue_kept
      | with_reducible refine KeptO.next ?_
      | with_reducible refine ite_keeps (P := Kept s0) ?_ ?_)

theorem flushEvents_kept {s0 : State} (s : State) (b : Nat) (hs1 : Kept s0 s) :
    Kept s0 (flushEvents s b) := by
  unfold flushEvents
  repeat' (first
    | with_reducible assumption
    | fail_if_no_progress with_reducible refine Kept.lit ?_
    | with_reducible apply setLink_kept
    | with_reducible apply sendEvents_kept
    | with_reducible apply loseEvents_kept
    | with_reducible refine KeptO.next ?_
    | with_reducible refine ite_keeps (P := Kept s0) ?_ ?_)

theorem swapBanks_kept {s0 : State} (s : State) (hs1 : Kept s0 s) :
    Kept s0 (swapBanks s) := by
  unfold swapBanks
  repeat' (first
    | with_reducible assumption
    | fail_if_no_progress with_reducible refine Kept.lit ?_
    | with_reducible apply raise_kept)

theorem storeWriteNow_kept {s0 : State} (s : State) (r : StoreRec) (hs1 : Kept s0 s) :
    Kept s0 (storeWriteNow s r) := by
  unfold storeWriteNow
  repeat' (first
    | with_reducible assumption
    | fail_if_no_progress with_reducible refine Kept.lit ?_
    | with_reducible apply swapBanks_kept
    | with_reducible refine KeptO.next ?_
    | with_reducible refine ite_keeps (P := Kept s0) ?_ ?_)

theorem storeAsk_kept {s0 : State} (s : State) (r : StoreRec) (hs1 : Kept s0 s) :
    Kept s0 (storeAsk s r) := by
  unfold storeAsk
  repeat' (first
    | with_reducible assumption
    | fail_if_no_progress with_reducible refine Kept.lit ?_
    | with_reducible refine KeptO.next ?_
    | with_reducible refine ite_keeps (P := Kept s0) ?_ ?_)

theorem storePut_kept {s0 : State} (s : State) (r : StoreRec) (hs1 : Kept s0 s) :
    Kept s0 (storePut s r) := by
  unfold storePut
  repeat' (first
    | with_reducible assumption
    | fail_if_no_progress with_reducible refine Kept.lit ?_
    | with_reducible apply storeWriteNow_kept
    | with_reducible apply storeAsk_kept
    | with_reducible refine KeptO.next ?_
    | with_reducible refine ite_keeps (P := Kept s0) ?_ ?_)

theorem faultRecord_kept {s0 : State} (s : State) (f : FaultRec) (hs1 : Kept s0 s) :
    Kept s0 (faultRecord s f) := by
  unfold faultRecord
  repeat' (first
    | with_reducible assumption
    | fail_if_no_progress with_reducible refine Kept.lit ?_
    | with_reducible apply storeAsk_kept
    | with_reducible refine KeptO.next ?_
    | with_reducible refine ite_keeps (P := Kept s0) ?_ ?_)

theorem stepFaultRecord_kept {s0 : State} (s : State) (basin : Nat) (job : Nat) (f : Flt) (hs1 : Kept s0 s) :
    Kept s0 (stepFaultRecord s basin job f) := by
  unfold stepFaultRecord
  repeat' (first
    | with_reducible assumption
    | fail_if_no_progress with_reducible refine Kept.lit ?_
    | with_reducible apply raise_kept
    | with_reducible apply faultRecord_kept)

theorem otherFaultRecord_kept {s0 : State} (s : State) (kind : Nat) (src : Nat) (status : Nat) (basin : Option Nat) (job : Nat) (aux : Nat) (addr : Nat) (arg0 : Nat) (arg1 : Nat) (hs1 : Kept s0 s) :
    Kept s0 (otherFaultRecord s kind src status basin job aux addr arg0 arg1) := by
  unfold otherFaultRecord
  repeat' (first
    | with_reducible assumption
    | fail_if_no_progress with_reducible refine Kept.lit ?_
    | with_reducible apply faultRecord_kept)

theorem hostCmd_kept {s0 : State} (s : State) (h : Hdr) (opcode : Nat) (adminOnly : Bool) (obj : Option Obj) (c : Instr) (body : State → State) (hs1 : Kept s0 s) (hb : ∀ s, Kept s0 s → Kept s0 (body s)) :
    KeptO s0 (hostCmd s h opcode adminOnly obj c body) := by
  unfold hostCmd
  repeat' (first
    | with_reducible assumption
    | apply hb
    | fail_if_no_progress with_reducible refine Kept.lit ?_
    | with_reducible apply setLink_kept
    | with_reducible apply reply_kept
    | with_reducible refine KeptO.next ?_
    | with_reducible refine ite_keeps (P := Kept s0) ?_ ?_
    | with_reducible refine ite_keeps (P := KeptO s0) ?_ ?_
    | (intro y; intros)
    | (extract_lets +onlyGivenNames z; refine both (A := Kept s0 z) ?_ (fun hz => ?_) <;> [(dsimp -zeta only [z]; clear z); clear_value z])
    | (extract_lets +onlyGivenNames z; clear_value z)
    | split)

theorem hostStoreCmd_kept {s0 : State} (s : State) (h : Hdr) (opcode : Nat) (adminOnly : Bool) (obj : Option Obj) (c : Instr) (body : State → State) (hs1 : Kept s0 s) (hb : ∀ s, Kept s0 s → Kept s0 (body s)) :
    KeptO s0 (hostStoreCmd s h opcode adminOnly obj c body) := by
  unfold hostStoreCmd
  repeat' (first
    | with_reducible assumption
    | apply hb
    | fail_if_no_progress with_reducible refine Kept.lit ?_
    | with_reducible apply hostCmd_kept
    | with_reducible apply reply_kept
    | with_reducible refine KeptO.next ?_
    | with_reducible refine ite_keeps (P := Kept s0) ?_ ?_
    | with_reducible refine ite_keeps (P := KeptO s0) ?_ ?_
    | (intro y; intros))

theorem sendData_kept {s0 : State} (s : State) (b : Nat) (addr : Nat) (xid : Nat) (bs : List Byte) (hs1 : Kept s0 s) :
    Kept s0 (sendData s b addr xid bs) := by
  unfold sendData
  repeat' (first
    | with_reducible assumption
    | fail_if_no_progress with_reducible refine Kept.lit ?_
    | with_reducible apply queueData_kept
    | with_reducible refine KeptO.next ?_
    | with_reducible refine ite_keeps (P := Kept s0) ?_ ?_
    | with_reducible refine ite_keeps (P := KeptO s0) ?_ ?_
    | (intro y; intros)
    | with_reducible refine foldl_kept ?_ (fun s x hs => ?_))

theorem deferCmd_kept {s0 : State} (s : State) (d : Deferred) (hs1 : Kept s0 s) :
    Kept s0 (deferCmd s d) := by
  unfold deferCmd
  repeat' (first
    | with_reducible assumption
    | fail_if_no_progress with_reducible refine Kept.lit ?_
    | with_reducible apply setLink_kept)

theorem answerDeferred_kept {s0 : State} (s : State) (b : Nat) (p : Deferred → Bool) (status : Nat) (data : List Field) (hs1 : Kept s0 s) :
    Kept s0 (answerDeferred s b p status data) := by
  unfold answerDeferred
  repeat' (first
    | with_reducible assumption
    | fail_if_no_progress with_reducible refine Kept.lit ?_
    | with_reducible apply setLink_kept
    | with_reducible apply reply_kept
    | with_reducible refine KeptO.next ?_
    | with_reducible refine ite_keeps (P := Kept s0) ?_ ?_
    | with_reducible refine ite_keeps (P := KeptO s0) ?_ ?_
    | (intro y; intros)
    | with_reducible refine foldl_kept ?_ (fun s x hs => ?_))

theorem answerAll_kept {s0 : State} (s : State) (p : Deferred → Bool) (status : Nat) (data : List Field) (hs1 : Kept s0 s) :
    Kept s0 (answerAll s p status data) := by
  unfold answerAll
  repeat' (first
    | with_reducible assumption
    | fail_if_no_progress with_reducible refine Kept.lit ?_
    | with_reducible apply answerDeferred_kept
    | with_reducible refine KeptO.next ?_
    | with_reducible refine ite_keeps (P := Kept s0) ?_ ?_
    | with_reducible refine ite_keeps (P := KeptO s0) ?_ ?_
    | (intro y; intros)
    | with_reducible refine foldl_kept ?_ (fun s x hs => ?_))

theorem answerDomain_kept {s0 : State} (s : State) (d : Nat) (on : Bool) (status : Nat) (hs1 : Kept s0 s) :
    Kept s0 (answerDomain s d on status) := by
  unfold answerDomain
  repeat' (first
    | with_reducible assumption
    | fail_if_no_progress with_reducible refine Kept.lit ?_
    | with_reducible apply answerAll_kept)

theorem holdDomain_kept {s0 : State} (s : State) (d : Nat) (hs1 : Kept s0 s) :
    Kept s0 (holdDomain s d) := by
  unfold holdDomain
  repeat' (first
    | with_reducible assumption
    | fail_if_no_progress with_reducible refine Kept.lit ?_
    | with_reducible apply setDom_kept
    | with_reducible apply answerDomain_kept)

end Sys2Proof.Laws
end

