-- ==== Sys2Proof/Laws/KeptCommands.lean ====
section
/-! SUPPORT. What the functions of Machine/Commands.lean keep: the waiting commands and memory's canonical form. -/

namespace Sys2Proof.Laws

open Sys2Proof Sys2Proof.Machine

theorem answerBad_kept {s0 : State} (b : Nat) (z0 : Nat) (z1 : State) (hs1 : Kept s0 z1) :
    Kept s0 (answerBad b z0 z1) := by
  induction z0 generalizing b z1 with
  | zero =>
    first | rw [answerBad] | (rw [answerBad.eq_def]; dsimp -zeta only)
    repeat' (first
      | with_reducible assumption)
  | succ n ih =>
    first | rw [answerBad] | (rw [answerBad.eq_def]; dsimp -zeta only)
    repeat' (first
      | with_reducible assumption
      | with_reducible apply ih
      | fail_if_no_progress with_reducible refine Kept.lit ?_
      | with_reducible apply reply_kept
      | with_reducible apply setLink_kept
      | with_reducible refine KeptO.next ?_
      | with_reducible refine ite_keeps (P := Kept s0) ?_ ?_
      | with_reducible refine ite_keeps (P := KeptO s0) ?_ ?_
      | (intro y; intros)
      | split)

theorem answerBads_kept {s0 : State} (s : State) (hs1 : Kept s0 s) :
    Kept s0 (answerBads s) := by
  unfold answerBads
  repeat' (first
    | with_reducible assumption
    | fail_if_no_progress with_reducible refine Kept.lit ?_
    | with_reducible apply answerBad_kept
    | with_reducible refine KeptO.next ?_
    | with_reducible refine ite_keeps (P := Kept s0) ?_ ?_
    | with_reducible refine ite_keeps (P := KeptO s0) ?_ ?_
    | (intro y; intros)
    | with_reducible refine foldl_kept ?_ (fun s x hs => ?_))

theorem deliverCmd_kept {s0 : State} (s : State) (b : Nat) (port : Nat) (auth : Bool) (m : List Byte) (hs1 : Kept s0 s) :
    Kept s0 (deliverCmd s b port auth m) := by
  unfold deliverCmd
  repeat' (first
    | with_reducible assumption
    | dsimp -zeta only
    | fail_if_no_progress with_reducible refine Kept.lit ?_
    | with_reducible apply takeRseq_kept
    | with_reducible apply setLink_kept
    | with_reducible apply answerBad_kept)

end Sys2Proof.Laws
end

