-- ==== Sys2Proof/Laws/KeptPages.lean ====
section
/-! SUPPORT. What the functions of Machine/Pages.lean keep: the waiting commands and memory's canonical form. -/

namespace Sys2Proof.Laws

open Sys2Proof Sys2Proof.Machine

theorem setPage_kept {s0 : State} (s : State) (b : Nat) (p : Nat) (f : PageEnt → PageEnt) (hs1 : Kept s0 s) :
    Kept s0 (setPage s b p f) := by
  unfold setPage
  repeat' (first
    | with_reducible assumption
    | fail_if_no_progress with_reducible refine Kept.lit ?_)

theorem takeFrame_kept {s0 : State} (s : State) (tier : Nat) (hs1 : Kept s0 s) :
    Kept s0 (takeFrame s tier).2 := by
  unfold takeFrame
  repeat' (first
    | with_reducible assumption
    | dsimp -zeta only
    | with_reducible refine ite_keeps (P := fun p => Kept s0 p.2) ?_ ?_
    | fail_if_no_progress with_reducible refine Kept.lit ?_
    | with_reducible apply drawPick_kept
    | with_reducible refine KeptO.next ?_
    | with_reducible refine ite_keeps (P := Kept s0) ?_ ?_
    | with_reducible refine ite_keeps (P := KeptO s0) ?_ ?_
    | (split <;> try (rename_i he; have hk := congrArg Prod.snd he; dsimp -zeta only at hk; subst hk)))

theorem raiseTrunk_kept {s0 : State} (s : State) (code : Nat) (payload : List Nat) (own : List Nat) (hs1 : Kept s0 s) :
    Kept s0 (raiseTrunk s code payload own) := by
  unfold raiseTrunk
  repeat' (first
    | with_reducible assumption
    | dsimp -zeta only
    | fail_if_no_progress with_reducible refine Kept.lit ?_
    | with_reducible apply drawPick_kept
    | with_reducible apply raise_kept)

theorem countError_kept {s0 : State} (s : State) (tier : Nat) (field : Nat) (rereads : Nat) (hs1 : Kept s0 s) :
    Kept s0 (countError s tier field rereads) := by
  unfold countError
  repeat' (first
    | with_reducible assumption
    | dsimp -zeta only
    | with_reducible apply hf
    | fail_if_no_progress with_reducible refine Kept.lit ?_
    | with_reducible apply drawPick_kept
    | with_reducible apply count_kept
    | with_reducible refine KeptO.next ?_
    | with_reducible refine ite_keeps (P := Kept s0) ?_ ?_)

theorem countRetired_kept {s0 : State} (s : State) (tier : Nat) (hs1 : Kept s0 s) :
    Kept s0 (countRetired s tier) := by
  unfold countRetired
  repeat' (first
    | with_reducible assumption
    | fail_if_no_progress with_reducible refine Kept.lit ?_
    | with_reducible apply count_kept
    | with_reducible refine KeptO.next ?_
    | with_reducible refine ite_keeps (P := Kept s0) ?_ ?_
    | with_reducible refine ite_keeps (P := KeptO s0) ?_ ?_
    | (intro y; intros)
    | with_reducible refine foldl_kept ?_ (fun s x hs => ?_))

theorem retireFrame_kept {s0 : State} (s : State) (tier : Nat) (f : Nat) (cause : Nat) (hs1 : Kept s0 s) :
    Kept s0 (retireFrame s tier f cause) := by
  unfold retireFrame
  repeat' (first
    | with_reducible assumption
    | fail_if_no_progress with_reducible refine Kept.lit ?_
    | with_reducible apply storeAsk_kept
    | with_reducible apply raiseTrunk_kept
    | with_reducible apply countRetired_kept
    | with_reducible apply otherFaultRecord_kept
    | with_reducible refine KeptO.next ?_
    | with_reducible refine ite_keeps (P := Kept s0) ?_ ?_)

theorem noteRetiring_kept {s0 : State} (s : State) (tier : Nat) (f : Nat) (hs1 : Kept s0 s) :
    Kept s0 (noteRetiring s tier f) := by
  unfold noteRetiring
  repeat' (first
    | with_reducible assumption
    | fail_if_no_progress with_reducible refine Kept.lit ?_
    | with_reducible refine KeptO.next ?_
    | with_reducible refine ite_keeps (P := Kept s0) ?_ ?_)

theorem markRetiring_kept {s0 : State} (s : State) (tier : Nat) (f : Nat) (hs1 : Kept s0 s) :
    Kept s0 (markRetiring s tier f) := by
  unfold markRetiring
  repeat' (first
    | with_reducible assumption
    | fail_if_no_progress with_reducible refine Kept.lit ?_
    | with_reducible apply noteRetiring_kept
    | with_reducible apply countError_kept)

theorem releasePage_kept {s0 : State} (s : State) (b : Nat) (obj : Nat) (tier : Nat) (f : Nat) (page : Option PageEnt) (hs1 : Kept s0 s) :
    Kept s0 (releasePage s b obj tier f page) := by
  unfold releasePage
  repeat' (first
    | with_reducible assumption
    | fail_if_no_progress with_reducible refine Kept.lit ?_
    | with_reducible apply retireFrame_kept
    | with_reducible refine KeptO.next ?_
    | with_reducible refine ite_keeps (P := Kept s0) ?_ ?_)

theorem releaseFrame_kept {s0 : State} (s : State) (b : Nat) (obj : Nat) (tier : Nat) (f : Nat) (hs1 : Kept s0 s) :
    Kept s0 (releaseFrame s b obj tier f) := by
  unfold releaseFrame
  repeat' (first
    | with_reducible assumption
    | fail_if_no_progress with_reducible refine Kept.lit ?_
    | with_reducible apply releasePage_kept)

theorem leaveLend_kept {s0 : State} (s : State) (b : Nat) (p : Nat) (hs1 : Kept s0 s) :
    Kept s0 (leaveLend s b p) := by
  unfold leaveLend
  repeat' (first
    | with_reducible assumption
    | fail_if_no_progress with_reducible refine Kept.lit ?_)

theorem unmapObj_kept {s0 : State} (s : State) (b : Nat) (obj : Nat) (p : Nat) (hs1 : Kept s0 s) :
    Kept s0 (unmapObj s b obj p) := by
  unfold unmapObj
  repeat' (first
    | with_reducible apply memPut_wf
    | with_reducible apply memPuts_wf
    | with_reducible apply memClear_wf
    | with_reducible refine Kept.mem (s0 := s0) ?_
    | with_reducible assumption
    | fail_if_no_progress with_reducible refine Kept.lit ?_
    | with_reducible apply leaveLend_kept
    | with_reducible apply releasePage_kept
    | with_reducible apply releaseFrame_kept
    | with_reducible refine KeptO.next ?_
    | with_reducible refine ite_keeps (P := Kept s0) ?_ ?_
    | with_reducible refine ite_keeps (P := KeptO s0) ?_ ?_
    | (intro y; intros)
    | (extract_lets +onlyGivenNames z; refine both (A := Kept s0 z) ?_ (fun hz => ?_) <;> [(dsimp -zeta only [z]; clear z); clear_value z])
    | (extract_lets +onlyGivenNames z; clear_value z)
    | split
    | with_reducible refine Kept.litMem ?_ ?_)

theorem unmapPage_kept {s0 : State} (s : State) (b : Nat) (p : Nat) (hs1 : Kept s0 s) :
    Kept s0 (unmapPage s b p) := by
  unfold unmapPage
  repeat' (first
    | with_reducible assumption
    | fail_if_no_progress with_reducible refine Kept.lit ?_
    | with_reducible apply unmapObj_kept)

theorem unmapPages_kept {s0 : State} (s : State) (b : Nat) (ps : List Nat) (hs1 : Kept s0 s) :
    Kept s0 (unmapPages s b ps) := by
  unfold unmapPages
  repeat' (first
    | with_reducible assumption
    | fail_if_no_progress with_reducible refine Kept.lit ?_
    | with_reducible apply unmapPage_kept
    | with_reducible refine KeptO.next ?_
    | with_reducible refine ite_keeps (P := Kept s0) ?_ ?_
    | with_reducible refine ite_keeps (P := KeptO s0) ?_ ?_
    | (intro y; intros)
    | with_reducible refine foldl_kept ?_ (fun s x hs => ?_))

theorem reclaimLends_kept {s0 : State} (s : State) (tier : Nat) (hs1 : Kept s0 s) :
    Kept s0 (reclaimLends s tier) := by
  unfold reclaimLends
  repeat' (first
    | with_reducible assumption
    | with_reducible apply hf
    | fail_if_no_progress with_reducible refine Kept.lit ?_
    | with_reducible apply sendUnits_kept
    | with_reducible refine KeptO.next ?_
    | with_reducible refine ite_keeps (P := Kept s0) ?_ ?_
    | with_reducible refine ite_keeps (P := KeptO s0) ?_ ?_
    | (intro y; intros)
    | with_reducible refine foldl_kept ?_ (fun s x hs => ?_))

theorem mapPage_kept {s0 : State} (s : State) (b : Nat) (p : Nat) (k : PKind) (tier : Nat) (hs1 : Kept s0 s) :
    Kept s0 (mapPage s b p k tier) := by
  unfold mapPage
  repeat' (first
    | with_reducible assumption
    | dsimp -zeta only
    | fail_if_no_progress with_reducible refine Kept.lit ?_
    | with_reducible apply takeFrame_kept
    | with_reducible refine KeptO.next ?_
    | with_reducible refine ite_keeps (P := Kept s0) ?_ ?_
    | with_reducible refine ite_keeps (P := KeptO s0) ?_ ?_
    | (split <;> try (rename_i he; have hk := congrArg Prod.snd he; dsimp -zeta only at hk; subst hk)))

theorem mapPages_kept {s0 : State} (s : State) (b : Nat) (k : PKind) (tier : Nat) (ps : List Nat) (hs1 : Kept s0 s) :
    Kept s0 (mapPages s b k tier ps) := by
  unfold mapPages
  repeat' (first
    | with_reducible assumption
    | fail_if_no_progress with_reducible refine Kept.lit ?_
    | with_reducible apply mapPage_kept
    | with_reducible refine KeptO.next ?_
    | with_reducible refine ite_keeps (P := Kept s0) ?_ ?_
    | with_reducible refine ite_keeps (P := KeptO s0) ?_ ?_
    | (intro y; intros)
    | with_reducible refine foldl_kept ?_ (fun s x hs => ?_))

theorem tierPut_kept {s0 : State} (s : State) (b : Nat) (addr : Nat) (v : Byte) (hs1 : Kept s0 s) :
    Kept s0 (tierPut s b addr v) := by
  unfold tierPut
  repeat' (first
    | with_reducible apply memPut_wf
    | with_reducible apply memPuts_wf
    | with_reducible apply memClear_wf
    | with_reducible refine Kept.mem (s0 := s0) ?_
    | with_reducible assumption
    | fail_if_no_progress with_reducible refine Kept.lit ?_
    | with_reducible refine KeptO.next ?_
    | with_reducible refine ite_keeps (P := Kept s0) ?_ ?_
    | with_reducible refine ite_keeps (P := KeptO s0) ?_ ?_
    | split
    | with_reducible refine Kept.litMem ?_ ?_)

theorem tierPuts_kept {s0 : State} (s : State) (b : Nat) (addr : Nat) (z0 : List Byte) (hs1 : Kept s0 s) :
    Kept s0 (tierPuts s b addr z0) := by
  induction z0 generalizing s b addr with
  | nil =>
    first | rw [tierPuts] | (rw [tierPuts.eq_def]; dsimp -zeta only)
    repeat' (first
      | with_reducible assumption)
  | cons x l ih =>
    first | rw [tierPuts] | (rw [tierPuts.eq_def]; dsimp -zeta only)
    repeat' (first
      | with_reducible assumption
      | with_reducible apply ih
      | fail_if_no_progress with_reducible refine Kept.lit ?_
      | with_reducible apply tierPut_kept)

theorem copyFrame_kept {s0 : State} (s : State) (src : Nat) (dst : Nat) (hs1 : Kept s0 s) :
    Kept s0 (copyFrame s src dst) := by
  unfold copyFrame
  repeat' (first
    | with_reducible apply memPut_wf
    | with_reducible apply memPuts_wf
    | with_reducible apply memClear_wf
    | with_reducible refine Kept.mem (s0 := s0) ?_
    | with_reducible assumption
    | fail_if_no_progress with_reducible refine Kept.lit ?_
    | with_reducible refine KeptO.next ?_
    | with_reducible refine ite_keeps (P := Kept s0) ?_ ?_
    | with_reducible refine ite_keeps (P := KeptO s0) ?_ ?_
    | split
    | with_reducible refine Kept.litMem ?_ ?_)

theorem lentUnit_kept {s0 : State} (s : State) (e : PageEnt) (isWrite : Bool) (k : Nat) (hs1 : Kept s0 s) :
    Kept s0 (lentUnit s e isWrite k) := by
  unfold lentUnit
  repeat' (first
    | with_reducible assumption
    | fail_if_no_progress with_reducible refine Kept.lit ?_
    | with_reducible apply sendUnits_kept
    | with_reducible refine KeptO.next ?_
    | with_reducible refine ite_keeps (P := Kept s0) ?_ ?_
    | with_reducible refine ite_keeps (P := KeptO s0) ?_ ?_
    | split)

theorem lentGet_kept {s0 : State} (s : State) (e : PageEnt) (who : Nat) (unit : Nat) (addr : Nat) (hs1 : Kept s0 s) :
    Kept s0 (lentGet s e who unit addr).2 := by
  unfold lentGet
  repeat' (first
    | with_reducible assumption
    | dsimp -zeta only
    | with_reducible refine ite_keeps (P := fun p => Kept s0 p.2) ?_ ?_
    | with_reducible apply hf
    | fail_if_no_progress with_reducible refine Kept.lit ?_
    | with_reducible apply lentUnit_kept
    | with_reducible refine KeptO.next ?_
    | with_reducible refine ite_keeps (P := Kept s0) ?_ ?_
    | with_reducible refine ite_keeps (P := KeptO s0) ?_ ?_
    | (extract_lets +onlyGivenNames z; refine both (A := Kept s0 z) ?_ (fun hz => ?_) <;> [(dsimp -zeta only [z]; clear z); clear_value z])
    | (extract_lets +onlyGivenNames z; refine both (A := ∀ a b c, Kept s0 (z a b c)) ?_ (fun hf => ?_) <;> [(dsimp -zeta only [z]; clear z); clear_value z])
    | (extract_lets +onlyGivenNames z; refine both (A := ∀ a b, Kept s0 (z a b)) ?_ (fun hf => ?_) <;> [(dsimp -zeta only [z]; clear z); clear_value z])
    | (extract_lets +onlyGivenNames z; refine both (A := ∀ a, Kept s0 (z a)) ?_ (fun hf => ?_) <;> [(dsimp -zeta only [z]; clear z); clear_value z])
    | (extract_lets +onlyGivenNames z; refine both (A := ∀ a b c d, Kept s0 a → Kept s0 (z a b c d)) ?_ (fun hf => ?_) <;> [(dsimp -zeta only [z]; clear z); clear_value z])
    | (extract_lets +onlyGivenNames z; refine both (A := ∀ a b c, Kept s0 a → Kept s0 (z a b c)) ?_ (fun hf => ?_) <;> [(dsimp -zeta only [z]; clear z); clear_value z])
    | (extract_lets +onlyGivenNames z; refine both (A := ∀ a b, Kept s0 a → Kept s0 (z a b)) ?_ (fun hf => ?_) <;> [(dsimp -zeta only [z]; clear z); clear_value z])
    | (extract_lets +onlyGivenNames z; refine both (A := ∀ a, Kept s0 a → Kept s0 (z a)) ?_ (fun hf => ?_) <;> [(dsimp -zeta only [z]; clear z); clear_value z])
    | (intro y; intros)
    | (extract_lets +onlyGivenNames z; clear_value z)
    | split)

theorem lentRanges_kept {s0 : State} (s : State) (b : Nat) (l : List (Nat × Nat)) (who : Nat) (unit : Nat) (hs1 : Kept s0 s) :
    Kept s0 (lentRanges s b l who unit).2 := by
  unfold lentRanges
  repeat' (first
    | with_reducible assumption
    | dsimp -zeta only
    | with_reducible refine ite_keeps (P := fun p => Kept s0 p.2) ?_ ?_
    | with_reducible apply hf
    | fail_if_no_progress with_reducible refine Kept.lit ?_
    | with_reducible apply lentGet_kept
    | with_reducible refine KeptO.next ?_
    | with_reducible refine ite_keeps (P := Kept s0) ?_ ?_
    | with_reducible refine ite_keeps (P := KeptO s0) ?_ ?_
    | (intro y; intros)
    | with_reducible refine foldl_kept ?_ (fun s x hs => ?_)
    | (extract_lets +onlyGivenNames z; refine both (A := Kept s0 z) ?_ (fun hz => ?_) <;> [(dsimp -zeta only [z]; clear z); clear_value z])
    | (extract_lets +onlyGivenNames z; refine both (A := ∀ a b c, Kept s0 (z a b c)) ?_ (fun hf => ?_) <;> [(dsimp -zeta only [z]; clear z); clear_value z])
    | (extract_lets +onlyGivenNames z; refine both (A := ∀ a b, Kept s0 (z a b)) ?_ (fun hf => ?_) <;> [(dsimp -zeta only [z]; clear z); clear_value z])
    | (extract_lets +onlyGivenNames z; refine both (A := ∀ a, Kept s0 (z a)) ?_ (fun hf => ?_) <;> [(dsimp -zeta only [z]; clear z); clear_value z])
    | (extract_lets +onlyGivenNames z; refine both (A := ∀ a b c d, Kept s0 a → Kept s0 (z a b c d)) ?_ (fun hf => ?_) <;> [(dsimp -zeta only [z]; clear z); clear_value z])
    | (extract_lets +onlyGivenNames z; refine both (A := ∀ a b c, Kept s0 a → Kept s0 (z a b c)) ?_ (fun hf => ?_) <;> [(dsimp -zeta only [z]; clear z); clear_value z])
    | (extract_lets +onlyGivenNames z; refine both (A := ∀ a b, Kept s0 a → Kept s0 (z a b)) ?_ (fun hf => ?_) <;> [(dsimp -zeta only [z]; clear z); clear_value z])
    | (extract_lets +onlyGivenNames z; refine both (A := ∀ a, Kept s0 a → Kept s0 (z a)) ?_ (fun hf => ?_) <;> [(dsimp -zeta only [z]; clear z); clear_value z])
    | (extract_lets +onlyGivenNames z; clear_value z)
    | (split <;> try (rename_i he; have hk := congrArg Prod.snd he; dsimp -zeta only at hk; subst hk)))

theorem lentRange_kept {s0 : State} (s : State) (b : Nat) (addr : Nat) (len : Nat) (who : Nat) (unit : Nat) (hs1 : Kept s0 s) :
    Kept s0 (lentRange s b addr len who unit).2 := by
  unfold lentRange
  repeat' (first
    | with_reducible assumption
    | dsimp -zeta only
    | with_reducible refine ite_keeps (P := fun p => Kept s0 p.2) ?_ ?_
    | fail_if_no_progress with_reducible refine Kept.lit ?_
    | with_reducible apply lentRanges_kept)

theorem narrowWritten_kept {s0 : State} (s : State) (b : Nat) (addr : Nat) (len : Nat) (hs1 : Kept s0 s) :
    Kept s0 (narrowWritten s b addr len) := by
  unfold narrowWritten
  repeat' (first
    | with_reducible assumption
    | fail_if_no_progress with_reducible refine Kept.lit ?_
    | with_reducible apply lentUnit_kept
    | with_reducible apply setPage_kept
    | with_reducible refine KeptO.next ?_
    | with_reducible refine ite_keeps (P := Kept s0) ?_ ?_
    | with_reducible refine ite_keeps (P := KeptO s0) ?_ ?_
    | (intro y; intros)
    | with_reducible refine foldl_kept ?_ (fun s x hs => ?_))

theorem lentAnswer_kept {s0 : State} (s : State) (b : Nat) (index : Nat) (off : Nat) (data : Option (List Byte)) (hs1 : Kept s0 s) :
    Kept s0 (lentAnswer s b index off data) := by
  unfold lentAnswer
  repeat' (first
    | with_reducible apply memPut_wf
    | with_reducible apply memPuts_wf
    | with_reducible apply memClear_wf
    | with_reducible refine Kept.mem (s0 := s0) ?_
    | with_reducible assumption
    | with_reducible apply hf
    | fail_if_no_progress with_reducible refine Kept.lit ?_
    | with_reducible refine KeptO.next ?_
    | with_reducible refine ite_keeps (P := Kept s0) ?_ ?_
    | with_reducible refine ite_keeps (P := KeptO s0) ?_ ?_
    | (intro y; intros)
    | (extract_lets +onlyGivenNames z; refine both (A := Kept s0 z) ?_ (fun hz => ?_) <;> [(dsimp -zeta only [z]; clear z); clear_value z])
    | (extract_lets +onlyGivenNames z; refine both (A := ∀ a b c, Kept s0 (z a b c)) ?_ (fun hf => ?_) <;> [(dsimp -zeta only [z]; clear z); clear_value z])
    | (extract_lets +onlyGivenNames z; refine both (A := ∀ a b, Kept s0 (z a b)) ?_ (fun hf => ?_) <;> [(dsimp -zeta only [z]; clear z); clear_value z])
    | (extract_lets +onlyGivenNames z; refine both (A := ∀ a, Kept s0 (z a)) ?_ (fun hf => ?_) <;> [(dsimp -zeta only [z]; clear z); clear_value z])
    | (extract_lets +onlyGivenNames z; refine both (A := ∀ a b c d, Kept s0 a → Kept s0 (z a b c d)) ?_ (fun hf => ?_) <;> [(dsimp -zeta only [z]; clear z); clear_value z])
    | (extract_lets +onlyGivenNames z; refine both (A := ∀ a b c, Kept s0 a → Kept s0 (z a b c)) ?_ (fun hf => ?_) <;> [(dsimp -zeta only [z]; clear z); clear_value z])
    | (extract_lets +onlyGivenNames z; refine both (A := ∀ a b, Kept s0 a → Kept s0 (z a b)) ?_ (fun hf => ?_) <;> [(dsimp -zeta only [z]; clear z); clear_value z])
    | (extract_lets +onlyGivenNames z; refine both (A := ∀ a, Kept s0 a → Kept s0 (z a)) ?_ (fun hf => ?_) <;> [(dsimp -zeta only [z]; clear z); clear_value z])
    | (extract_lets +onlyGivenNames z; clear_value z)
    | split
    | with_reducible refine Kept.litMem ?_ ?_)

theorem lentPage_kept {s0 : State} (s : State) (e : PageEnt) (isWrite : Bool) (hs1 : Kept s0 s) :
    Kept s0 (lentPage s e isWrite) := by
  unfold lentPage
  repeat' (first
    | with_reducible assumption
    | fail_if_no_progress with_reducible refine Kept.lit ?_
    | with_reducible apply lentUnit_kept
    | with_reducible refine KeptO.next ?_
    | with_reducible refine ite_keeps (P := Kept s0) ?_ ?_
    | with_reducible refine ite_keeps (P := KeptO s0) ?_ ?_
    | (intro y; intros)
    | with_reducible refine foldl_kept ?_ (fun s x hs => ?_))

theorem askMove_kept {s0 : State} (s : State) (b : Nat) (p : Nat) (tier : Nat) (rank : Nat) (hs1 : Kept s0 s) :
    Kept s0 (askMove s b p tier rank) := by
  unfold askMove
  repeat' (first
    | with_reducible assumption
    | fail_if_no_progress with_reducible refine Kept.lit ?_)

theorem poisonPage_kept {s0 : State} (s : State) (b : Nat) (p : Nat) (hs1 : Kept s0 s) :
    Kept s0 (poisonPage s b p) := by
  unfold poisonPage
  repeat' (first
    | with_reducible assumption
    | fail_if_no_progress with_reducible refine Kept.lit ?_
    | with_reducible apply setPage_kept)

theorem raisePoisoned_kept {s0 : State} (s : State) (e : PageEnt) (reader : Nat) (hs1 : Kept s0 s) :
    Kept s0 (raisePoisoned s e reader) := by
  unfold raisePoisoned
  repeat' (first
    | with_reducible assumption
    | fail_if_no_progress with_reducible refine Kept.lit ?_
    | with_reducible apply raiseTrunk_kept
    | with_reducible apply otherFaultRecord_kept)

end Sys2Proof.Laws
end

