-- ==== Sys2Proof/Laws/KeptWoreo.lean ====
section
/-! SUPPORT. What the functions of Machine/Woreo.lean keep: the waiting commands and memory's canonical form. -/

namespace Sys2Proof.Laws

open Sys2Proof Sys2Proof.Machine

theorem resend_kept {s0 : State} (s : State) (b : Nat) (f : Nat) (port : Nat) (g : SentSeg) (hs1 : Kept s0 s) :
    Kept s0 (resend s b f port g) := by
  unfold resend
  repeat' (first
    | with_reducible assumption
    | fail_if_no_progress with_reducible refine Kept.lit ?_
    | with_reducible apply emitSegment_kept
    | with_reducible refine KeptO.next ?_
    | with_reducible refine ite_keeps (P := Kept s0) ?_ ?_
    | with_reducible refine ite_keeps (P := KeptO s0) ?_ ?_
    | (intro y; intros)
    | (extract_lets +onlyGivenNames z; refine both (A := Kept s0 z) ?_ (fun hz => ?_) <;> [(dsimp -zeta only [z]; clear z); clear_value z])
    | (extract_lets +onlyGivenNames z; clear_value z)
    | split)

theorem setSent_kept {s0 : State} (s : State) (b : Nat) (f : Nat) (seq : Nat) (g : SentSeg → SentSeg) (hs1 : Kept s0 s) :
    Kept s0 (setSent s b f seq g) := by
  unfold setSent
  repeat' (first
    | with_reducible assumption
    | fail_if_no_progress with_reducible refine Kept.lit ?_
    | with_reducible apply setFlow_kept)

theorem stallIfSpent_kept {s0 : State} (s : State) (b : Nat) (f : Nat) (sends : Nat) (hs1 : Kept s0 s) :
    Kept s0 (stallIfSpent s b f sends) := by
  unfold stallIfSpent
  repeat' (first
    | with_reducible assumption
    | fail_if_no_progress with_reducible refine Kept.lit ?_
    | with_reducible apply markBlocked_kept
    | with_reducible apply setFlow_kept
    | with_reducible refine KeptO.next ?_
    | with_reducible refine ite_keeps (P := Kept s0) ?_ ?_)

theorem fastRetransmit_kept {s0 : State} (s : State) (b : Nat) (f : Nat) (top : Nat) (hs1 : Kept s0 s) :
    Kept s0 (fastRetransmit s b f top) := by
  unfold fastRetransmit
  repeat' (first
    | with_reducible assumption
    | fail_if_no_progress with_reducible refine Kept.lit ?_
    | with_reducible apply resend_kept
    | with_reducible apply setSent_kept
    | with_reducible apply stallIfSpent_kept
    | with_reducible refine KeptO.next ?_
    | with_reducible refine ite_keeps (P := Kept s0) ?_ ?_
    | with_reducible refine ite_keeps (P := KeptO s0) ?_ ?_
    | (intro y; intros)
    | with_reducible refine foldl_kept ?_ (fun s x hs => ?_))

theorem takeAck_kept {s0 : State} (s : State) (b : Nat) (f : Nat) (ack : Nat) (sack : Nat) (rwnd : Nat) (hs1 : Kept s0 s) :
    Kept s0 (takeAck s b f ack sack rwnd) := by
  unfold takeAck
  repeat' (first
    | with_reducible assumption
    | fail_if_no_progress with_reducible refine Kept.lit ?_
    | with_reducible apply setFlow_kept
    | with_reducible apply fastRetransmit_kept
    | with_reducible apply pump_kept
    | with_reducible refine KeptO.next ?_
    | with_reducible refine ite_keeps (P := Kept s0) ?_ ?_
    | with_reducible refine ite_keeps (P := KeptO s0) ?_ ?_
    | (intro y; intros)
    | (extract_lets +onlyGivenNames z; refine both (A := Kept s0 z) ?_ (fun hz => ?_) <;> [(dsimp -zeta only [z]; clear z); clear_value z])
    | (extract_lets +onlyGivenNames z; clear_value z)
    | split)

theorem applyData_kept {s0 : State} (s : State) (b : Nat) (d : DataSeg) (hs1 : Kept s0 s) :
    Kept s0 (applyData s b d) := by
  unfold applyData
  repeat' (first
    | with_reducible assumption
    | fail_if_no_progress with_reducible refine Kept.lit ?_
    | with_reducible apply raise_kept
    | with_reducible apply narrowWritten_kept
    | with_reducible apply tierPuts_kept
    | with_reducible refine KeptO.next ?_
    | with_reducible refine ite_keeps (P := Kept s0) ?_ ?_
    | with_reducible refine ite_keeps (P := KeptO s0) ?_ ?_
    | split)

theorem takeData_kept {s0 : State} (s : State) (b : Nat) (d : DataSeg) (hs1 : Kept s0 s) :
    Kept s0 (takeData s b d) := by
  unfold takeData
  repeat' (first
    | with_reducible assumption
    | fail_if_no_progress with_reducible refine Kept.lit ?_
    | with_reducible apply setLink_kept
    | with_reducible apply applyData_kept
    | with_reducible refine KeptO.next ?_
    | with_reducible refine ite_keeps (P := Kept s0) ?_ ?_)

theorem resumeData_kept {s0 : State} (s : State) (b : Nat) (z0 : List DataSeg) (z1 : List DataSeg) (hs1 : Kept s0 s) :
    Kept s0 (resumeData s b z0 z1) := by
  induction z1 generalizing s b z0 with
  | nil =>
    first | rw [resumeData] | (rw [resumeData.eq_def]; dsimp -zeta only)
    repeat' (first
      | with_reducible assumption
      | fail_if_no_progress with_reducible refine Kept.lit ?_
      | with_reducible apply setLink_kept)
  | cons x l ih =>
    first | rw [resumeData] | (rw [resumeData.eq_def]; dsimp -zeta only)
    repeat' (first
      | with_reducible assumption
      | with_reducible apply ih
      | fail_if_no_progress with_reducible refine Kept.lit ?_
      | with_reducible apply setLink_kept
      | with_reducible apply applyData_kept
      | with_reducible refine KeptO.next ?_
      | with_reducible refine ite_keeps (P := Kept s0) ?_ ?_)

theorem execDataWriteResume_kept {s0 : State} (basin : Nat) (s : State) (hs1 : Kept s0 s) :
    KeptO s0 (execDataWriteResume basin s) := by
  unfold execDataWriteResume
  repeat' (first
    | with_reducible assumption
    | fail_if_no_progress with_reducible refine Kept.lit ?_
    | with_reducible apply resumeData_kept
    | with_reducible refine KeptO.next ?_)

theorem passOn_kept {s0 : State} (s : State) (b : Nat) (f : RxFrame) (hs1 : Kept s0 s) :
    Kept s0 (passOn s b f) := by
  unfold passOn
  repeat' (first
    | with_reducible assumption
    | fail_if_no_progress with_reducible refine Kept.lit ?_
    | with_reducible apply setLink_kept
    | with_reducible apply deliverCmd_kept
    | with_reducible apply takeData_kept
    | with_reducible refine KeptO.next ?_
    | with_reducible refine ite_keeps (P := Kept s0) ?_ ?_)

theorem passHeld_kept {s0 : State} (s : State) (b : Nat) (f : Nat) (z0 : Nat) (hs1 : Kept s0 s) :
    Kept s0 (passHeld s b f z0) := by
  induction z0 generalizing s b f with
  | zero =>
    first | rw [passHeld] | (rw [passHeld.eq_def]; dsimp -zeta only)
    repeat' (first
      | with_reducible assumption)
  | succ n ih =>
    first | rw [passHeld] | (rw [passHeld.eq_def]; dsimp -zeta only)
    repeat' (first
      | with_reducible assumption
      | with_reducible apply ih
      | fail_if_no_progress with_reducible refine Kept.lit ?_
      | with_reducible apply setFlow_kept
      | with_reducible apply passOn_kept
      | with_reducible refine KeptO.next ?_
      | with_reducible refine ite_keeps (P := Kept s0) ?_ ?_
      | with_reducible refine ite_keeps (P := KeptO s0) ?_ ?_
      | (intro y; intros)
      | split)

theorem takeSegment_kept {s0 : State} (s : State) (b : Nat) (f : Nat) (x : RxFrame) (hs1 : Kept s0 s) :
    Kept s0 (takeSegment s b f x) := by
  unfold takeSegment
  repeat' (first
    | with_reducible assumption
    | fail_if_no_progress with_reducible refine Kept.lit ?_
    | with_reducible apply setFlow_kept
    | with_reducible apply passHeld_kept
    | with_reducible apply passOn_kept
    | with_reducible apply sendAck_kept
    | with_reducible refine KeptO.next ?_
    | with_reducible refine ite_keeps (P := Kept s0) ?_ ?_)

theorem openFlow_kept {s0 : State} (s : State) (b : Nat) (f : Nat) (x : RxFrame) (hs1 : Kept s0 s) :
    Kept s0 (openFlow s b f x) := by
  unfold openFlow
  repeat' (first
    | with_reducible assumption
    | fail_if_no_progress with_reducible refine Kept.lit ?_
    | with_reducible apply setFlow_kept
    | with_reducible apply setLink_kept
    | with_reducible apply emitSegment_kept
    | with_reducible apply pump_kept
    | with_reducible refine KeptO.next ?_
    | with_reducible refine ite_keeps (P := Kept s0) ?_ ?_)

theorem voidPort_kept {s0 : State} (s : State) (port : Nat) (hs1 : Kept s0 s) :
    Kept s0 (voidPort s port) := by
  unfold voidPort
  repeat' (first
    | with_reducible assumption
    | with_reducible apply hf
    | fail_if_no_progress with_reducible refine Kept.lit ?_)

theorem portLost_kept {s0 : State} (s : State) (port : Nat) (hs1 : Kept s0 s) :
    Kept s0 (portLost s port) := by
  unfold portLost
  repeat' (first
    | with_reducible assumption
    | fail_if_no_progress with_reducible refine Kept.lit ?_
    | with_reducible apply voidPort_kept
    | with_reducible apply loseEgress_kept
    | with_reducible refine KeptO.next ?_
    | with_reducible refine ite_keeps (P := Kept s0) ?_ ?_
    | with_reducible refine ite_keeps (P := KeptO s0) ?_ ?_
    | (intro y; intros)
    | with_reducible refine foldl_kept ?_ (fun s x hs => ?_))

theorem notePn_kept {s0 : State} (s : State) (x : RxFrame) (hs1 : Kept s0 s) :
    Kept s0 (notePn s x) := by
  unfold notePn
  repeat' (first
    | with_reducible assumption
    | with_reducible apply hf
    | fail_if_no_progress with_reducible refine Kept.lit ?_
    | with_reducible refine KeptO.next ?_
    | with_reducible refine ite_keeps (P := Kept s0) ?_ ?_
    | with_reducible refine ite_keeps (P := KeptO s0) ?_ ?_
    | (intro y; intros)
    | (extract_lets +onlyGivenNames z; refine both (A := Kept s0 z) ?_ (fun hz => ?_) <;> [(dsimp -zeta only [z]; clear z); clear_value z])
    | (extract_lets +onlyGivenNames z; refine both (A := ∀ a b c, Kept s0 (z a b c)) ?_ (fun hf => ?_) <;> [(dsimp -zeta only [z]; clear z); clear_value z])
    | (extract_lets +onlyGivenNames z; refine both (A := ∀ a b, Kept s0 (z a b)) ?_ (fun hf => ?_) <;> [(dsimp -zeta only [z]; clear z); clear_value z])
    | (extract_lets +onlyGivenNames z; refine both (A := ∀ a, Kept s0 (z a)) ?_ (fun hf => ?_) <;> [(dsimp -zeta only [z]; clear z); clear_value z])
    | (extract_lets +onlyGivenNames z; refine both (A := ∀ a b c d, Kept s0 a → Kept s0 (z a b c d)) ?_ (fun hf => ?_) <;> [(dsimp -zeta only [z]; clear z); clear_value z])
    | (extract_lets +onlyGivenNames z; refine both (A := ∀ a b c, Kept s0 a → Kept s0 (z a b c)) ?_ (fun hf => ?_) <;> [(dsimp -zeta only [z]; clear z); clear_value z])
    | (extract_lets +onlyGivenNames z; refine both (A := ∀ a b, Kept s0 a → Kept s0 (z a b)) ?_ (fun hf => ?_) <;> [(dsimp -zeta only [z]; clear z); clear_value z])
    | (extract_lets +onlyGivenNames z; refine both (A := ∀ a, Kept s0 a → Kept s0 (z a)) ?_ (fun hf => ?_) <;> [(dsimp -zeta only [z]; clear z); clear_value z])
    | (extract_lets +onlyGivenNames z; clear_value z)
    | split)

theorem portTakes_kept {s0 : State} (s : State) (x : RxFrame) (go : State → State) (hs1 : Kept s0 s) (hb : ∀ s, Kept s0 s → Kept s0 (go s)) :
    Kept s0 (portTakes s x go) := by
  unfold portTakes
  repeat' (first
    | with_reducible assumption
    | apply hb
    | fail_if_no_progress with_reducible refine Kept.lit ?_
    | with_reducible apply count_kept
    | with_reducible apply voidPort_kept
    | with_reducible apply usePort_kept
    | with_reducible apply notePn_kept
    | with_reducible refine KeptO.next ?_
    | with_reducible refine ite_keeps (P := Kept s0) ?_ ?_)

theorem takeDatagram_kept {s0 : State} (s : State) (x : RxFrame) (b : Nat) (hs1 : Kept s0 s) :
    Kept s0 (takeDatagram s x b) := by
  unfold takeDatagram
  repeat' (first
    | with_reducible assumption
    | fail_if_no_progress with_reducible refine Kept.lit ?_
    | with_reducible apply count_kept
    | with_reducible apply takeAck_kept
    | with_reducible apply openFlow_kept
    | with_reducible apply setFlow_kept
    | with_reducible apply takeSegment_kept
    | with_reducible refine KeptO.next ?_
    | with_reducible refine ite_keeps (P := Kept s0) ?_ ?_)

theorem receiveWoreo_kept {s0 : State} (s : State) (x : RxFrame) (hs1 : Kept s0 s) :
    Kept s0 (receiveWoreo s x) := by
  unfold receiveWoreo
  repeat' (first
    | with_reducible assumption
    | fail_if_no_progress with_reducible refine Kept.lit ?_
    | with_reducible apply portTakes_kept
    | with_reducible apply count_kept
    | with_reducible apply takeDatagram_kept
    | with_reducible refine KeptO.next ?_
    | with_reducible refine ite_keeps (P := Kept s0) ?_ ?_
    | with_reducible refine ite_keeps (P := KeptO s0) ?_ ?_
    | (intro y; intros)
    | split)

theorem execWoreoSegmentReceive_kept {s0 : State} (f : RxFrame) (s : State) (hs1 : Kept s0 s) :
    KeptO s0 (execWoreoSegmentReceive f s) := by
  unfold execWoreoSegmentReceive
  repeat' (first
    | with_reducible assumption
    | fail_if_no_progress with_reducible refine Kept.lit ?_
    | with_reducible apply receiveWoreo_kept
    | with_reducible refine KeptO.next ?_
    | with_reducible refine ite_keeps (P := Kept s0) ?_ ?_
    | with_reducible refine ite_keeps (P := KeptO s0) ?_ ?_)

theorem execSyn_kept {s0 : State} (f : RxFrame) (s : State) (hs1 : Kept s0 s) :
    KeptO s0 (execSyn f s) := by
  unfold execSyn
  repeat' (first
    | with_reducible assumption
    | fail_if_no_progress with_reducible refine Kept.lit ?_
    | with_reducible apply receiveWoreo_kept
    | with_reducible refine KeptO.next ?_
    | with_reducible refine ite_keeps (P := Kept s0) ?_ ?_
    | with_reducible refine ite_keeps (P := KeptO s0) ?_ ?_)

theorem execRtoExpiry_kept {s0 : State} (basin : Nat) (flow : Nat) (seq : Nat) (s : State) (hs1 : Kept s0 s) :
    KeptO s0 (execRtoExpiry basin flow seq s) := by
  unfold execRtoExpiry
  repeat' (first
    | with_reducible assumption
    | fail_if_no_progress with_reducible refine Kept.lit ?_
    | with_reducible apply setSent_kept
    | with_reducible apply resend_kept
    | with_reducible apply stallIfSpent_kept
    | with_reducible refine KeptO.next ?_
    | with_reducible refine ite_keeps (P := Kept s0) ?_ ?_
    | with_reducible refine ite_keeps (P := KeptO s0) ?_ ?_
    | (intro y; intros)
    | (extract_lets +onlyGivenNames z; refine both (A := Kept s0 z) ?_ (fun hz => ?_) <;> [(dsimp -zeta only [z]; clear z); clear_value z])
    | (extract_lets +onlyGivenNames z; clear_value z)
    | split)

theorem execAckDelayExpiry_kept {s0 : State} (basin : Nat) (flow : Nat) (s : State) (hs1 : Kept s0 s) :
    KeptO s0 (execAckDelayExpiry basin flow s) := by
  unfold execAckDelayExpiry
  repeat' (first
    | with_reducible assumption
    | fail_if_no_progress with_reducible refine Kept.lit ?_
    | with_reducible apply sendAck_kept
    | with_reducible refine KeptO.next ?_
    | with_reducible refine ite_keeps (P := Kept s0) ?_ ?_
    | with_reducible refine ite_keeps (P := KeptO s0) ?_ ?_
    | split)

theorem execEvtCoalesceExpiry_kept {s0 : State} (basin : Nat) (s : State) (hs1 : Kept s0 s) :
    KeptO s0 (execEvtCoalesceExpiry basin s) := by
  unfold execEvtCoalesceExpiry
  repeat' (first
    | with_reducible assumption
    | fail_if_no_progress with_reducible refine Kept.lit ?_
    | with_reducible apply flushEvents_kept
    | with_reducible refine KeptO.next ?_
    | with_reducible refine ite_keeps (P := Kept s0) ?_ ?_
    | with_reducible refine ite_keeps (P := KeptO s0) ?_ ?_
    | split)

theorem drainRsp_kept {s0 : State} (s : State) (b : Nat) (z0 : List Msg) (hs1 : Kept s0 s) :
    Kept s0 (drainRsp s b z0) := by
  induction z0 generalizing s b with
  | nil =>
    first | rw [drainRsp] | (rw [drainRsp.eq_def]; dsimp -zeta only)
    repeat' (first
      | with_reducible assumption
      | fail_if_no_progress with_reducible refine Kept.lit ?_
      | with_reducible apply setLink_kept
      | with_reducible apply answerBad_kept)
  | cons x l ih =>
    first | rw [drainRsp] | (rw [drainRsp.eq_def]; dsimp -zeta only)
    repeat' (first
      | with_reducible assumption
      | with_reducible apply ih
      | fail_if_no_progress with_reducible refine Kept.lit ?_
      | with_reducible apply setLink_kept
      | with_reducible apply answerBad_kept
      | with_reducible apply enqueue_kept
      | with_reducible refine KeptO.next ?_
      | with_reducible refine ite_keeps (P := Kept s0) ?_ ?_)

theorem drainTok_kept {s0 : State} (s : State) (b : Nat) (f : Nat) (z0 : List TokPend) (z1 : List TokPend) (hs1 : Kept s0 s) :
    Kept s0 (drainTok s b f z0 z1) := by
  induction z1 generalizing s b f z0 with
  | nil =>
    first | rw [drainTok] | (rw [drainTok.eq_def]; dsimp -zeta only)
    repeat' (first
      | with_reducible assumption
      | with_reducible apply hf
      | fail_if_no_progress with_reducible refine Kept.lit ?_
      | with_reducible apply setLink_kept)
  | cons x l ih =>
    first | rw [drainTok] | (rw [drainTok.eq_def]; dsimp -zeta only)
    repeat' (first
      | with_reducible assumption
      | with_reducible apply ih
      | with_reducible apply hf
      | fail_if_no_progress with_reducible refine Kept.lit ?_
      | with_reducible apply setLink_kept
      | with_reducible apply enqueueAs_kept
      | with_reducible refine KeptO.next ?_
      | with_reducible refine ite_keeps (P := Kept s0) ?_ ?_)

theorem sendLost_kept {s0 : State} (s : State) (b : Nat) (hs1 : Kept s0 s) :
    Kept s0 (sendLost s b) := by
  unfold sendLost
  repeat' (first
    | with_reducible assumption
    | fail_if_no_progress with_reducible refine Kept.lit ?_
    | with_reducible apply setLink_kept
    | with_reducible apply flushEvents_kept
    | with_reducible apply raise_kept
    | with_reducible refine KeptO.next ?_
    | with_reducible refine ite_keeps (P := Kept s0) ?_ ?_)

theorem execQueueRoomReturn_kept {s0 : State} (basin : Nat) (flow : Nat) (s : State) (hs1 : Kept s0 s) :
    KeptO s0 (execQueueRoomReturn basin flow s) := by
  unfold execQueueRoomReturn
  repeat' (first
    | with_reducible assumption
    | fail_if_no_progress with_reducible refine Kept.lit ?_
    | with_reducible apply drainRsp_kept
    | with_reducible apply sendLost_kept
    | with_reducible apply drainTok_kept
    | with_reducible refine KeptO.next ?_
    | with_reducible refine ite_keeps (P := Kept s0) ?_ ?_
    | with_reducible refine ite_keeps (P := KeptO s0) ?_ ?_)

theorem execTokSent_kept {s0 : State} (basin : Nat) (flow : Nat) (s : State) (hs1 : Kept s0 s) :
    KeptO s0 (execTokSent basin flow s) := by
  unfold execTokSent
  repeat' (first
    | with_reducible assumption
    | fail_if_no_progress with_reducible refine Kept.lit ?_
    | with_reducible apply setFlow_kept
    | with_reducible apply raise_kept
    | with_reducible refine KeptO.next ?_
    | with_reducible refine ite_keeps (P := Kept s0) ?_ ?_
    | with_reducible refine ite_keeps (P := KeptO s0) ?_ ?_
    | (intro y; intros)
    | with_reducible refine foldl_kept ?_ (fun s x hs => ?_)
    | (extract_lets +onlyGivenNames z; refine both (A := Kept s0 z) ?_ (fun hz => ?_) <;> [(dsimp -zeta only [z]; clear z); clear_value z])
    | (extract_lets +onlyGivenNames z; clear_value z)
    | split)

theorem servePort_kept {s0 : State} (s : State) (n : Nat) (hs1 : Kept s0 s) :
    Kept s0 (servePort s n) := by
  unfold servePort
  repeat' (first
    | with_reducible assumption
    | fail_if_no_progress with_reducible refine Kept.lit ?_
    | with_reducible apply sendTo_kept
    | with_reducible refine KeptO.next ?_
    | with_reducible refine ite_keeps (P := Kept s0) ?_ ?_
    | with_reducible refine ite_keeps (P := KeptO s0) ?_ ?_
    | (intro y; intros)
    | (extract_lets +onlyGivenNames z; refine both (A := Kept s0 z) ?_ (fun hz => ?_) <;> [(dsimp -zeta only [z]; clear z); clear_value z])
    | (extract_lets +onlyGivenNames z; clear_value z)
    | split)

theorem servePorts_kept {s0 : State} (s : State) (hs1 : Kept s0 s) :
    Kept s0 (servePorts s) := by
  unfold servePorts
  repeat' (first
    | with_reducible assumption
    | fail_if_no_progress with_reducible refine Kept.lit ?_
    | with_reducible apply servePort_kept)

theorem answerFor_kept {s0 : State} (s : State) (port : Nat) (ip : Nat) (go : State → State) (hs1 : Kept s0 s) (hb : ∀ s, Kept s0 s → Kept s0 (go s)) :
    Kept s0 (answerFor s port ip go) := by
  unfold answerFor
  repeat' (first
    | with_reducible assumption
    | apply hb
    | fail_if_no_progress with_reducible refine Kept.lit ?_
    | with_reducible apply count_kept
    | with_reducible refine KeptO.next ?_
    | with_reducible refine ite_keeps (P := Kept s0) ?_ ?_)

theorem onPort_kept {s0 : State} (s : State) (f : RxFrame) (is : Bool) (go : State → State) (hs1 : Kept s0 s) (hb : ∀ s, Kept s0 s → Kept s0 (go s)) :
    KeptO s0 (onPort s f is go) := by
  unfold onPort
  repeat' (first
    | with_reducible assumption
    | apply hb
    | fail_if_no_progress with_reducible refine Kept.lit ?_
    | with_reducible apply portTakes_kept
    | with_reducible apply count_kept
    | with_reducible refine KeptO.next ?_
    | with_reducible refine ite_keeps (P := Kept s0) ?_ ?_
    | with_reducible refine ite_keeps (P := KeptO s0) ?_ ?_
    | (intro y; intros))

theorem execArpRequest_kept {s0 : State} (f : RxFrame) (s : State) (hs1 : Kept s0 s) :
    KeptO s0 (execArpRequest f s) := by
  unfold execArpRequest
  repeat' (first
    | with_reducible assumption
    | fail_if_no_progress with_reducible refine Kept.lit ?_
    | with_reducible apply onPort_kept
    | with_reducible apply answerFor_kept
    | with_reducible apply sendFrame_kept
    | with_reducible refine KeptO.next ?_
    | with_reducible refine ite_keeps (P := Kept s0) ?_ ?_
    | with_reducible refine ite_keeps (P := KeptO s0) ?_ ?_
    | (intro y; intros))

theorem execNeighbourSolicitation_kept {s0 : State} (f : RxFrame) (s : State) (hs1 : Kept s0 s) :
    KeptO s0 (execNeighbourSolicitation f s) := by
  unfold execNeighbourSolicitation
  repeat' (first
    | with_reducible assumption
    | fail_if_no_progress with_reducible refine Kept.lit ?_
    | with_reducible apply onPort_kept
    | with_reducible apply answerFor_kept
    | with_reducible apply sendFrame_kept
    | with_reducible refine KeptO.next ?_
    | with_reducible refine ite_keeps (P := Kept s0) ?_ ?_
    | with_reducible refine ite_keeps (P := KeptO s0) ?_ ?_
    | (intro y; intros))

theorem execIcmpEcho_kept {s0 : State} (f : RxFrame) (s : State) (hs1 : Kept s0 s) :
    KeptO s0 (execIcmpEcho f s) := by
  unfold execIcmpEcho
  repeat' (first
    | with_reducible assumption
    | fail_if_no_progress with_reducible refine Kept.lit ?_
    | with_reducible apply onPort_kept
    | with_reducible apply answerFor_kept
    | with_reducible apply sendTo_kept
    | with_reducible refine KeptO.next ?_
    | with_reducible refine ite_keeps (P := Kept s0) ?_ ?_
    | with_reducible refine ite_keeps (P := KeptO s0) ?_ ?_
    | (intro y; intros))

theorem fillNeighbour_kept {s0 : State} (s : State) (port : Nat) (ip : Nat) (mac : Nat) (hs1 : Kept s0 s) :
    Kept s0 (fillNeighbour s port ip mac) := by
  unfold fillNeighbour
  repeat' (first
    | with_reducible assumption
    | fail_if_no_progress with_reducible refine Kept.lit ?_
    | with_reducible apply count_kept
    | with_reducible refine KeptO.next ?_
    | with_reducible refine ite_keeps (P := Kept s0) ?_ ?_
    | with_reducible refine ite_keeps (P := KeptO s0) ?_ ?_
    | (intro y; intros)
    | (extract_lets +onlyGivenNames z; refine both (A := Kept s0 z) ?_ (fun hz => ?_) <;> [(dsimp -zeta only [z]; clear z); clear_value z])
    | (extract_lets +onlyGivenNames z; clear_value z)
    | split)

theorem execAddressResolutionReply_kept {s0 : State} (f : RxFrame) (s : State) (hs1 : Kept s0 s) :
    KeptO s0 (execAddressResolutionReply f s) := by
  unfold execAddressResolutionReply
  repeat' (first
    | with_reducible assumption
    | fail_if_no_progress with_reducible refine Kept.lit ?_
    | with_reducible apply onPort_kept
    | with_reducible apply fillNeighbour_kept
    | with_reducible refine KeptO.next ?_
    | with_reducible refine ite_keeps (P := Kept s0) ?_ ?_
    | with_reducible refine ite_keeps (P := KeptO s0) ?_ ?_
    | (intro y; intros)
    | split)

theorem endBrown_kept {s0 : State} (s : State) (hs1 : Kept s0 s) :
    Kept s0 (endBrown s) := by
  unfold endBrown
  repeat' (first
    | with_reducible assumption
    | with_reducible apply hf
    | fail_if_no_progress with_reducible refine Kept.lit ?_
    | with_reducible apply otherFaultRecord_kept
    | with_reducible apply raise_kept
    | with_reducible apply deliverEvt_kept
    | with_reducible refine KeptO.next ?_
    | with_reducible refine ite_keeps (P := Kept s0) ?_ ?_
    | with_reducible refine ite_keeps (P := KeptO s0) ?_ ?_
    | (intro y; intros)
    | with_reducible refine foldl_kept ?_ (fun s x hs => ?_)
    | (extract_lets +onlyGivenNames z; refine both (A := Kept s0 z) ?_ (fun hz => ?_) <;> [(dsimp -zeta only [z]; clear z); clear_value z])
    | (extract_lets +onlyGivenNames z; refine both (A := ∀ a b c, Kept s0 (z a b c)) ?_ (fun hf => ?_) <;> [(dsimp -zeta only [z]; clear z); clear_value z])
    | (extract_lets +onlyGivenNames z; refine both (A := ∀ a b, Kept s0 (z a b)) ?_ (fun hf => ?_) <;> [(dsimp -zeta only [z]; clear z); clear_value z])
    | (extract_lets +onlyGivenNames z; refine both (A := ∀ a, Kept s0 (z a)) ?_ (fun hf => ?_) <;> [(dsimp -zeta only [z]; clear z); clear_value z])
    | (extract_lets +onlyGivenNames z; refine both (A := ∀ a b c d, Kept s0 a → Kept s0 (z a b c d)) ?_ (fun hf => ?_) <;> [(dsimp -zeta only [z]; clear z); clear_value z])
    | (extract_lets +onlyGivenNames z; refine both (A := ∀ a b c, Kept s0 a → Kept s0 (z a b c)) ?_ (fun hf => ?_) <;> [(dsimp -zeta only [z]; clear z); clear_value z])
    | (extract_lets +onlyGivenNames z; refine both (A := ∀ a b, Kept s0 a → Kept s0 (z a b)) ?_ (fun hf => ?_) <;> [(dsimp -zeta only [z]; clear z); clear_value z])
    | (extract_lets +onlyGivenNames z; refine both (A := ∀ a, Kept s0 a → Kept s0 (z a)) ?_ (fun hf => ?_) <;> [(dsimp -zeta only [z]; clear z); clear_value z])
    | (extract_lets +onlyGivenNames z; clear_value z)
    | split)

theorem execEthLink_kept {s0 : State} (port : Nat) (up : Bool) (partner : List (Nat × Nat)) (lanes : Nat) (s : State) (hs1 : Kept s0 s) :
    KeptO s0 (execEthLink port up partner lanes s) := by
  unfold execEthLink
  repeat' (first
    | with_reducible assumption
    | fail_if_no_progress with_reducible refine Kept.lit ?_
    | with_reducible apply portLost_kept
    | with_reducible apply endBrown_kept
    | with_reducible apply raise_kept
    | with_reducible refine KeptO.next ?_
    | with_reducible refine ite_keeps (P := Kept s0) ?_ ?_
    | with_reducible refine ite_keeps (P := KeptO s0) ?_ ?_
    | (intro y; intros)
    | (extract_lets +onlyGivenNames z; refine both (A := Kept s0 z) ?_ (fun hz => ?_) <;> [(dsimp -zeta only [z]; clear z); clear_value z])
    | (extract_lets +onlyGivenNames z; clear_value z)
    | split)

end Sys2Proof.Laws
end

