-- ==== Sys2Proof/Laws/KeptSecMode.lean ====
section
/-! SUPPORT. What the functions of Machine/SecMode.lean keep: the waiting commands and memory's canonical form. -/

namespace Sys2Proof.Laws

open Sys2Proof Sys2Proof.Machine

theorem settleMode_kept {s0 : State} (s : State) (hs1 : Kept s0 s) :
    Kept s0 (settleMode s) := by
  unfold settleMode
  repeat' (first
    | with_reducible assumption
    | fail_if_no_progress with_reducible refine Kept.lit ?_
    | with_reducible apply raise_kept
    | with_reducible refine KeptO.next ?_
    | with_reducible refine ite_keeps (P := Kept s0) ?_ ?_)

theorem extendMeas_kept {s0 : State} (s : State) (i : Nat) (d : List Byte) (hs1 : Kept s0 s) :
    Kept s0 (extendMeas s i d) := by
  unfold extendMeas
  repeat' (first
    | with_reducible assumption
    | fail_if_no_progress with_reducible refine Kept.lit ?_)

theorem measureCfg_kept {s0 : State} (s : State) (hs1 : Kept s0 s) :
    Kept s0 (measureCfg s) := by
  unfold measureCfg
  repeat' (first
    | with_reducible assumption
    | fail_if_no_progress with_reducible refine Kept.lit ?_
    | with_reducible apply extendMeas_kept)

theorem measureChange_kept {s0 : State} (sa : State) (s : State) (hs1 : Kept s0 sa) (hs2 : Kept s0 s) :
    Kept s0 (measureChange sa s) := by
  unfold measureChange
  repeat' (first
    | with_reducible assumption
    | fail_if_no_progress with_reducible refine Kept.lit ?_
    | with_reducible apply measureCfg_kept
    | with_reducible refine KeptO.next ?_
    | with_reducible refine ite_keeps (P := Kept s0) ?_ ?_)

theorem setDrbg_kept {s0 : State} (s : State) (n : Nat) (d : Drbg) (hs1 : Kept s0 s) :
    Kept s0 (setDrbg s n d) := by
  unfold setDrbg
  repeat' (first
    | with_reducible assumption
    | fail_if_no_progress with_reducible refine Kept.lit ?_)

theorem seedDrbg_kept {s0 : State} (s : State) (n : Nat) (fresh : Bool) (hs1 : Kept s0 s) :
    Kept s0 (seedDrbg s n fresh) := by
  unfold seedDrbg
  repeat' (first
    | with_reducible assumption
    | fail_if_no_progress with_reducible refine Kept.lit ?_
    | with_reducible apply setDrbg_kept)

theorem stopDrbg_kept {s0 : State} (s : State) (n : Nat) (hs1 : Kept s0 s) :
    Kept s0 (stopDrbg s n) := by
  unfold stopDrbg
  repeat' (first
    | with_reducible assumption
    | fail_if_no_progress with_reducible refine Kept.lit ?_
    | with_reducible apply setDrbg_kept)

theorem zeroiseDrbgs_kept {s0 : State} (s : State) (hs1 : Kept s0 s) :
    Kept s0 (zeroiseDrbgs s) := by
  unfold zeroiseDrbgs
  repeat' (first
    | with_reducible assumption
    | with_reducible apply hf
    | fail_if_no_progress with_reducible refine Kept.lit ?_
    | with_reducible apply seedDrbg_kept
    | with_reducible apply stopDrbg_kept
    | with_reducible refine KeptO.next ?_
    | with_reducible refine ite_keeps (P := Kept s0) ?_ ?_)

theorem finishSigning_kept {s0 : State} (s : State) (hs1 : Kept s0 s) :
    Kept s0 (finishSigning s) := by
  unfold finishSigning
  repeat' (first
    | with_reducible assumption
    | fail_if_no_progress with_reducible refine Kept.lit ?_
    | with_reducible apply reply_kept
    | with_reducible refine KeptO.next ?_
    | with_reducible refine ite_keeps (P := Kept s0) ?_ ?_
    | with_reducible refine ite_keeps (P := KeptO s0) ?_ ?_
    | (extract_lets +onlyGivenNames z; refine both (A := Kept s0 z) ?_ (fun hz => ?_) <;> [(dsimp -zeta only [z]; clear z); clear_value z])
    | (extract_lets +onlyGivenNames z; clear_value z)
    | split)

theorem dropSigning_kept {s0 : State} (s : State) (hs1 : Kept s0 s) :
    Kept s0 (dropSigning s) := by
  unfold dropSigning
  repeat' (first
    | with_reducible assumption
    | fail_if_no_progress with_reducible refine Kept.lit ?_
    | with_reducible apply reply_kept
    | with_reducible refine KeptO.next ?_
    | with_reducible refine ite_keeps (P := Kept s0) ?_ ?_
    | with_reducible refine ite_keeps (P := KeptO s0) ?_ ?_
    | split)

theorem failSec_kept {s0 : State} (s : State) (test : Option Nat) (cause : Nat) (hs1 : Kept s0 s) :
    Kept s0 (failSec s test cause) := by
  unfold failSec
  repeat' (first
    | with_reducible assumption
    | fail_if_no_progress with_reducible refine Kept.lit ?_
    | with_reducible apply settleMode_kept
    | with_reducible apply zeroiseDrbgs_kept
    | with_reducible apply dropSigning_kept
    | with_reducible apply raise_kept
    | with_reducible apply otherFaultRecord_kept
    | with_reducible refine KeptO.next ?_
    | with_reducible refine ite_keeps (P := Kept s0) ?_ ?_
    | with_reducible refine ite_keeps (P := KeptO s0) ?_ ?_
    | (extract_lets +onlyGivenNames z; refine both (A := Kept s0 z) ?_ (fun hz => ?_) <;> [(dsimp -zeta only [z]; clear z); clear_value z])
    | (extract_lets +onlyGivenNames z; clear_value z)
    | split)

end Sys2Proof.Laws
end

