-- ==== Sys2Proof/Laws/KeptPools.lean ====
section
/-! SUPPORT. What the functions of Machine/Pools.lean keep: the waiting commands and memory's canonical form. -/

namespace Sys2Proof.Laws

open Sys2Proof Sys2Proof.Machine

theorem setGran_kept {s0 : State} (s : State) (g : Nat) (st : GState) (basin : Nat) (job : Nat) (hs1 : Kept s0 s) :
    Kept s0 (setGran s g st basin job) := by
  unfold setGran
  repeat' (first
    | with_reducible assumption
    | fail_if_no_progress with_reducible refine Kept.lit ?_)

theorem setJob_kept {s0 : State} (s : State) (b : Nat) (n : Nat) (f : Job → Job) (hs1 : Kept s0 s) :
    Kept s0 (setJob s b n f) := by
  unfold setJob
  repeat' (first
    | with_reducible assumption
    | fail_if_no_progress with_reducible refine Kept.lit ?_)

theorem openJob_kept {s0 : State} (s : State) (b : Nat) (cls : Nat) (gid : Nat) (hs1 : Kept s0 s) :
    Kept s0 (openJob s b cls gid).2 := by
  unfold openJob
  repeat' (first
    | with_reducible assumption
    | dsimp -zeta only
    | with_reducible refine ite_keeps (P := fun p => Kept s0 p.2) ?_ ?_
    | fail_if_no_progress with_reducible refine Kept.lit ?_
    | with_reducible refine KeptO.next ?_
    | with_reducible refine ite_keeps (P := Kept s0) ?_ ?_
    | with_reducible refine ite_keeps (P := KeptO s0) ?_ ?_
    | split)

theorem revokeOver_kept {s0 : State} (s : State) (b : Nat) (n : Nat) (g : Nat) (hs1 : Kept s0 s) :
    Kept s0 (revokeOver s b n g) := by
  unfold revokeOver
  repeat' (first
    | with_reducible assumption
    | fail_if_no_progress with_reducible refine Kept.lit ?_)

theorem revokeJob_kept {s0 : State} (s : State) (b : Nat) (n : Nat) (hs1 : Kept s0 s) :
    Kept s0 (revokeJob s b n) := by
  unfold revokeJob
  repeat' (first
    | with_reducible assumption
    | fail_if_no_progress with_reducible refine Kept.lit ?_)

theorem clearGran_kept {s0 : State} (s : State) (g : Nat) (hs1 : Kept s0 s) :
    Kept s0 (clearGran s g) := by
  unfold clearGran
  repeat' (first
    | with_reducible assumption
    | fail_if_no_progress with_reducible refine Kept.lit ?_
    | with_reducible apply setGran_kept
    | with_reducible apply revokeOver_kept
    | with_reducible refine KeptO.next ?_
    | with_reducible refine ite_keeps (P := Kept s0) ?_ ?_)

theorem closeWindows_kept {s0 : State} (s : State) (p : Window → Bool) (hs1 : Kept s0 s) :
    Kept s0 (closeWindows s p) := by
  unfold closeWindows
  repeat' (first
    | with_reducible assumption
    | fail_if_no_progress with_reducible refine Kept.lit ?_)

theorem clearJob_kept {s0 : State} (s : State) (b : Nat) (n : Nat) (hs1 : Kept s0 s) :
    Kept s0 (clearJob s b n) := by
  unfold clearJob
  repeat' (first
    | with_reducible assumption
    | fail_if_no_progress with_reducible refine Kept.lit ?_
    | with_reducible apply clearGran_kept
    | with_reducible refine KeptO.next ?_
    | with_reducible refine ite_keeps (P := Kept s0) ?_ ?_
    | with_reducible refine ite_keeps (P := KeptO s0) ?_ ?_
    | (intro y; intros)
    | with_reducible refine foldl_kept ?_ (fun s x hs => ?_))

theorem clearSoon_kept {s0 : State} (s : State) (g : Nat) (hs1 : Kept s0 s) :
    Kept s0 (clearSoon s g) := by
  unfold clearSoon
  repeat' (first
    | with_reducible assumption
    | fail_if_no_progress with_reducible refine Kept.lit ?_
    | with_reducible apply clearGran_kept
    | with_reducible apply closeWindows_kept
    | with_reducible apply setJob_kept
    | with_reducible apply revokeOver_kept
    | with_reducible refine KeptO.next ?_
    | with_reducible refine ite_keeps (P := Kept s0) ?_ ?_)

theorem clearPool_kept {s0 : State} (s : State) (p : Nat) (all_ : Bool) (hs1 : Kept s0 s) :
    Kept s0 (clearPool s p all_) := by
  unfold clearPool
  repeat' (first
    | with_reducible assumption
    | fail_if_no_progress with_reducible refine Kept.lit ?_
    | with_reducible apply clearSoon_kept
    | with_reducible refine KeptO.next ?_
    | with_reducible refine ite_keeps (P := Kept s0) ?_ ?_
    | with_reducible refine ite_keeps (P := KeptO s0) ?_ ?_
    | (intro y; intros)
    | with_reducible refine foldl_kept ?_ (fun s x hs => ?_))

theorem freeNamed_kept {s0 : State} (s : State) (j : Job) (hs1 : Kept s0 s) :
    Kept s0 (freeNamed s j) := by
  unfold freeNamed
  repeat' (first
    | with_reducible assumption
    | fail_if_no_progress with_reducible refine Kept.lit ?_
    | with_reducible apply unmapPages_kept)

theorem dropClosedJob_kept {s0 : State} (s : State) (b : Nat) (n : Nat) (hs1 : Kept s0 s) :
    Kept s0 (dropClosedJob s b n) := by
  unfold dropClosedJob
  repeat' (first
    | with_reducible assumption
    | fail_if_no_progress with_reducible refine Kept.lit ?_
    | with_reducible apply freeNamed_kept
    | with_reducible refine KeptO.next ?_
    | with_reducible refine ite_keeps (P := Kept s0) ?_ ?_
    | with_reducible refine ite_keeps (P := KeptO s0) ?_ ?_
    | (intro y; intros)
    | split)

theorem closeJob_kept {s0 : State} (s : State) (b : Nat) (n : Nat) (hs1 : Kept s0 s) :
    Kept s0 (closeJob s b n) := by
  unfold closeJob
  repeat' (first
    | with_reducible assumption
    | fail_if_no_progress with_reducible refine Kept.lit ?_
    | with_reducible apply setJob_kept
    | with_reducible apply closeWindows_kept
    | with_reducible apply dropClosedJob_kept
    | with_reducible apply clearJob_kept
    | with_reducible refine KeptO.next ?_
    | with_reducible refine ite_keeps (P := Kept s0) ?_ ?_)

theorem endJob_kept {s0 : State} (s : State) (b : Nat) (n : Nat) (status : Nat) (hs1 : Kept s0 s) :
    Kept s0 (endJob s b n status) := by
  unfold endJob
  repeat' (first
    | with_reducible assumption
    | fail_if_no_progress with_reducible refine Kept.lit ?_
    | with_reducible apply setJob_kept
    | with_reducible apply otherFaultRecord_kept
    | with_reducible refine KeptO.next ?_
    | with_reducible refine ite_keeps (P := Kept s0) ?_ ?_
    | with_reducible refine ite_keeps (P := KeptO s0) ?_ ?_
    | (intro y; intros)
    | (extract_lets +onlyGivenNames z; refine both (A := Kept s0 z) ?_ (fun hz => ?_) <;> [(dsimp -zeta only [z]; clear z); clear_value z])
    | (extract_lets +onlyGivenNames z; clear_value z)
    | split)

theorem killJob_kept {s0 : State} (s : State) (b : Nat) (n : Nat) (hs1 : Kept s0 s) :
    Kept s0 (killJob s b n) := by
  unfold killJob
  repeat' (first
    | with_reducible assumption
    | fail_if_no_progress with_reducible refine Kept.lit ?_
    | with_reducible apply setJob_kept
    | with_reducible apply closeWindows_kept
    | with_reducible apply clearJob_kept
    | with_reducible apply revokeJob_kept)

theorem storeFences_kept {s0 : State} (s : State) (hs1 : Kept s0 s) :
    Kept s0 (storeFences s) := by
  unfold storeFences
  repeat' (first
    | with_reducible assumption
    | fail_if_no_progress with_reducible refine Kept.lit ?_
    | with_reducible apply storePut_kept)

theorem fenceGran_kept {s0 : State} (s : State) (g : Nat) (hs1 : Kept s0 s) :
    Kept s0 (fenceGran s g) := by
  unfold fenceGran
  repeat' (first
    | with_reducible assumption
    | fail_if_no_progress with_reducible refine Kept.lit ?_
    | with_reducible apply revokeOver_kept
    | with_reducible apply setGran_kept
    | with_reducible refine KeptO.next ?_
    | with_reducible refine ite_keeps (P := Kept s0) ?_ ?_)

theorem fenceReach_kept {s0 : State} (s : State) (r : Nat) (cause : Nat) (hs1 : Kept s0 s) :
    Kept s0 (fenceReach s r cause) := by
  unfold fenceReach
  repeat' (first
    | with_reducible assumption
    | fail_if_no_progress with_reducible refine Kept.lit ?_
    | with_reducible apply holdDomain_kept
    | with_reducible apply fenceGran_kept
    | with_reducible apply storeFences_kept
    | with_reducible apply raise_kept
    | with_reducible apply otherFaultRecord_kept
    | with_reducible refine KeptO.next ?_
    | with_reducible refine ite_keeps (P := Kept s0) ?_ ?_
    | with_reducible refine ite_keeps (P := KeptO s0) ?_ ?_
    | with_reducible refine foldl_kept ?_ (fun s x hs => ?_))

theorem execGranuleClearComplete_kept {s0 : State} (granule : Nat) (verified : Bool) (s : State) (hs1 : Kept s0 s) :
    KeptO s0 (execGranuleClearComplete granule verified s) := by
  unfold execGranuleClearComplete
  repeat' (first
    | with_reducible apply memPut_wf
    | with_reducible apply memPuts_wf
    | with_reducible apply memClear_wf
    | with_reducible refine Kept.mem (s0 := s0) ?_
    | with_reducible assumption
    | fail_if_no_progress with_reducible refine Kept.lit ?_
    | with_reducible apply setJob_kept
    | with_reducible apply dropClosedJob_kept
    | with_reducible apply setGran_kept
    | with_reducible apply fenceGran_kept
    | with_reducible apply raise_kept
    | with_reducible apply otherFaultRecord_kept
    | with_reducible apply fenceReach_kept
    | with_reducible apply storeFences_kept
    | with_reducible refine KeptO.next ?_
    | with_reducible refine ite_keeps (P := Kept s0) ?_ ?_
    | with_reducible refine ite_keeps (P := KeptO s0) ?_ ?_
    | (intro y; intros)
    | (extract_lets +onlyGivenNames z; refine both (A := Kept s0 z) ?_ (fun hz => ?_) <;> [(dsimp -zeta only [z]; clear z); clear_value z])
    | split
    | with_reducible refine Kept.litMem ?_ ?_)

theorem execJobKill_kept {s0 : State} (basin : Nat) (job : Nat) (s : State) (hs1 : Kept s0 s) :
    KeptO s0 (execJobKill basin job s) := by
  unfold execJobKill
  repeat' (first
    | with_reducible assumption
    | fail_if_no_progress with_reducible refine Kept.lit ?_
    | with_reducible apply killJob_kept
    | with_reducible refine KeptO.next ?_
    | with_reducible refine ite_keeps (P := Kept s0) ?_ ?_
    | with_reducible refine ite_keeps (P := KeptO s0) ?_ ?_
    | split)

theorem execJobCleared_kept {s0 : State} (basin : Nat) (job : Nat) (s : State) (hs1 : Kept s0 s) :
    KeptO s0 (execJobCleared basin job s) := by
  unfold execJobCleared
  repeat' (first
    | with_reducible assumption
    | fail_if_no_progress with_reducible refine Kept.lit ?_
    | with_reducible apply freeNamed_kept
    | with_reducible apply raise_kept
    | with_reducible refine KeptO.next ?_
    | with_reducible refine ite_keeps (P := Kept s0) ?_ ?_
    | with_reducible refine ite_keeps (P := KeptO s0) ?_ ?_
    | (intro y; intros)
    | (extract_lets +onlyGivenNames z; refine both (A := Kept s0 z) ?_ (fun hz => ?_) <;> [(dsimp -zeta only [z]; clear z); clear_value z])
    | (extract_lets +onlyGivenNames z; clear_value z)
    | split)

theorem execWindowCloseComplete_kept {s0 : State} (basin : Nat) (job : Nat) (wid : Nat) (s : State) (hs1 : Kept s0 s) :
    KeptO s0 (execWindowCloseComplete basin job wid s) := by
  unfold execWindowCloseComplete
  repeat' (first
    | with_reducible assumption
    | with_reducible apply hf
    | fail_if_no_progress with_reducible refine Kept.lit ?_
    | with_reducible apply giveCredits_kept
    | with_reducible apply dropClosedJob_kept
    | with_reducible apply clearJob_kept
    | with_reducible apply clearGran_kept
    | with_reducible apply setJob_kept
    | with_reducible refine KeptO.next ?_
    | with_reducible refine ite_keeps (P := Kept s0) ?_ ?_
    | with_reducible refine ite_keeps (P := KeptO s0) ?_ ?_
    | (intro y; intros)
    | with_reducible refine foldl_kept ?_ (fun s x hs => ?_)
    | (extract_lets +onlyGivenNames z; refine both (A := Kept s0 z) ?_ (fun hz => ?_) <;> [(dsimp -zeta only [z]; clear z); clear_value z])
    | (extract_lets +onlyGivenNames z; refine both (A := ∀ a b c, Kept s0 (z a b c)) ?_ (fun hf => ?_) <;> [(dsimp -zeta only [z]; clear z); clear_value z])
    | (extract_lets +onlyGivenNames z; refine both (A := ∀ a b, Kept s0 (z a b)) ?_ (fun hf => ?_) <;> [(dsimp -zeta only [z]; clear z); clear_value z])
    | (extract_lets +onlyGivenNames z; refine both (A := ∀ a, Kept s0 (z a)) ?_ (fun hf => ?_) <;> [(dsimp -zeta only [z]; clear z); clear_value z])
    | (extract_lets +onlyGivenNames z; refine both (A := ∀ a b c d, Kept s0 a → Kept s0 (z a b c d)) ?_ (fun hf => ?_) <;> [(dsimp -zeta only [z]; clear z); clear_value z])
    | (extract_lets +onlyGivenNames z; refine both (A := ∀ a b c, Kept s0 a → Kept s0 (z a b c)) ?_ (fun hf => ?_) <;> [(dsimp -zeta only [z]; clear z); clear_value z])
    | (extract_lets +onlyGivenNames z; refine both (A := ∀ a b, Kept s0 a → Kept s0 (z a b)) ?_ (fun hf => ?_) <;> [(dsimp -zeta only [z]; clear z); clear_value z])
    | (extract_lets +onlyGivenNames z; refine both (A := ∀ a, Kept s0 a → Kept s0 (z a)) ?_ (fun hf => ?_) <;> [(dsimp -zeta only [z]; clear z); clear_value z])
    | (extract_lets +onlyGivenNames z; refine both (A := ∀ a b c, KeptO s0 (z a b c)) ?_ (fun hf => ?_) <;> [(dsimp -zeta only [z]; clear z); clear_value z])
    | (extract_lets +onlyGivenNames z; refine both (A := ∀ a b, KeptO s0 (z a b)) ?_ (fun hf => ?_) <;> [(dsimp -zeta only [z]; clear z); clear_value z])
    | (extract_lets +onlyGivenNames z; refine both (A := ∀ a, KeptO s0 (z a)) ?_ (fun hf => ?_) <;> [(dsimp -zeta only [z]; clear z); clear_value z])
    | (extract_lets +onlyGivenNames z; refine both (A := ∀ a b, Kept s0 a → KeptO s0 (z a b)) ?_ (fun hf => ?_) <;> [(dsimp -zeta only [z]; clear z); clear_value z])
    | (extract_lets +onlyGivenNames z; refine both (A := ∀ a, Kept s0 a → KeptO s0 (z a)) ?_ (fun hf => ?_) <;> [(dsimp -zeta only [z]; clear z); clear_value z])
    | (extract_lets +onlyGivenNames z; clear_value z)
    | split)

end Sys2Proof.Laws
end

