-- ==== Sys2Proof/Laws/KeptRunnels.lean ====
section
/-! SUPPORT. What the functions of Machine/Runnels.lean keep: the waiting commands and memory's canonical form. -/

namespace Sys2Proof.Laws

open Sys2Proof Sys2Proof.Machine

theorem wakeOne_kept {s0 : State} (s : State) (d : Nat) (hs1 : Kept s0 s) :
    Kept s0 (wakeOne s d) := by
  unfold wakeOne
  repeat' (first
    | with_reducible assumption
    | fail_if_no_progress with_reducible refine Kept.lit ?_
    | with_reducible apply setDom_kept
    | with_reducible refine KeptO.next ?_
    | with_reducible refine ite_keeps (P := Kept s0) ?_ ?_)

theorem wakeDomain_kept {s0 : State} (s : State) (d : Nat) (hs1 : Kept s0 s) :
    Kept s0 (wakeDomain s d) := by
  unfold wakeDomain
  repeat' (first
    | with_reducible assumption
    | fail_if_no_progress with_reducible refine Kept.lit ?_
    | with_reducible apply wakeOne_kept
    | with_reducible refine KeptO.next ?_
    | with_reducible refine ite_keeps (P := Kept s0) ?_ ?_
    | with_reducible refine ite_keeps (P := KeptO s0) ?_ ?_
    | (intro y; intros)
    | with_reducible refine foldl_kept ?_ (fun s x hs => ?_))

theorem setEnd_kept {s0 : State} (s : State) (n : Nat) (f : Endpoint → Endpoint) (hs1 : Kept s0 s) :
    Kept s0 (setEnd s n f) := by
  unfold setEnd
  repeat' (first
    | with_reducible assumption
    | fail_if_no_progress with_reducible refine Kept.lit ?_)

theorem stampMsg_kept {s0 : State} (s : State) (sender : Nat) (basin : Nat) (job : Nat) (type : Nat) (len : Nat) (data : BitVec 352) (hs1 : Kept s0 s) :
    Kept s0 (stampMsg s sender basin job type len data).2 := by
  unfold stampMsg
  repeat' (first
    | with_reducible assumption
    | dsimp -zeta only
    | with_reducible refine ite_keeps (P := fun p => Kept s0 p.2) ?_ ?_
    | fail_if_no_progress with_reducible refine Kept.lit ?_
    | with_reducible apply takeRseq_kept)

theorem wakeEndpoint_kept {s0 : State} (s : State) (n : Nat) (sender : Nat) (basin : Nat) (hs1 : Kept s0 s) :
    Kept s0 (wakeEndpoint s n sender basin) := by
  unfold wakeEndpoint
  repeat' (first
    | with_reducible assumption
    | fail_if_no_progress with_reducible refine Kept.lit ?_
    | with_reducible apply wakeDomain_kept
    | with_reducible apply raise_kept
    | with_reducible apply setDom_kept
    | with_reducible refine KeptO.next ?_
    | with_reducible refine ite_keeps (P := Kept s0) ?_ ?_)

theorem addDropped_kept {s0 : State} (s : State) (n : Nat) (hs1 : Kept s0 s) :
    Kept s0 (addDropped s n) := by
  unfold addDropped
  repeat' (first
    | with_reducible assumption
    | fail_if_no_progress with_reducible refine Kept.lit ?_
    | with_reducible apply setEnd_kept)

theorem addRefused_kept {s0 : State} (s : State) (hs1 : Kept s0 s) :
    Kept s0 (addRefused s) := by
  unfold addRefused
  repeat' (first
    | with_reducible assumption
    | fail_if_no_progress with_reducible refine Kept.lit ?_)

theorem putMsg_kept {s0 : State} (s : State) (n : Nat) (m : RMsg) (hs1 : Kept s0 s) :
    Kept s0 (putMsg s n m) := by
  unfold putMsg
  repeat' (first
    | with_reducible assumption
    | with_reducible apply hf
    | fail_if_no_progress with_reducible refine Kept.lit ?_
    | with_reducible apply setEnd_kept)

theorem ringBell_kept {s0 : State} (s : State) (n : Nat) (mask : BitVec 64) (hs1 : Kept s0 s) :
    Kept s0 (ringBell s n mask) := by
  unfold ringBell
  repeat' (first
    | with_reducible assumption
    | fail_if_no_progress with_reducible refine Kept.lit ?_
    | with_reducible apply setEnd_kept)

theorem arriveAt_kept {s0 : State} (s : State) (sender : Nat) (basin : Nat) (n : Nat) (put : State → State) (hs1 : Kept s0 s) (hb : ∀ s, Kept s0 s → Kept s0 (put s)) :
    Kept s0 (arriveAt s sender basin n put) := by
  unfold arriveAt
  repeat' (first
    | with_reducible assumption
    | apply hb
    | fail_if_no_progress with_reducible refine Kept.lit ?_
    | with_reducible apply addRefused_kept
    | with_reducible apply addDropped_kept
    | with_reducible apply wakeEndpoint_kept
    | with_reducible refine KeptO.next ?_
    | with_reducible refine ite_keeps (P := Kept s0) ?_ ?_
    | with_reducible refine ite_keeps (P := KeptO s0) ?_ ?_
    | split)

theorem execRunnelMessage_kept {s0 : State} (sender : Nat) (basin : Nat) (job : Nat) (endpoint : Nat) (type : Nat) (len : Nat) (data : BitVec 352) (s : State) (hs1 : Kept s0 s) :
    KeptO s0 (execRunnelMessage sender basin job endpoint type len data s) := by
  unfold execRunnelMessage
  repeat' (first
    | with_reducible assumption
    | dsimp -zeta only
    | fail_if_no_progress with_reducible refine Kept.lit ?_
    | with_reducible apply stampMsg_kept
    | with_reducible apply raise_kept
    | with_reducible apply addRefused_kept
    | with_reducible apply arriveAt_kept
    | with_reducible apply ringBell_kept
    | with_reducible apply putMsg_kept
    | with_reducible refine KeptO.next ?_
    | with_reducible refine ite_keeps (P := Kept s0) ?_ ?_
    | with_reducible refine ite_keeps (P := KeptO s0) ?_ ?_
    | (intro y; intros))

theorem execDoorbellRing_kept {s0 : State} (sender : Nat) (basin : Nat) (job : Nat) (endpoint : Nat) (mask : BitVec 64) (s : State) (hs1 : Kept s0 s) :
    KeptO s0 (execDoorbellRing sender basin job endpoint mask s) := by
  unfold execDoorbellRing
  repeat' (first
    | with_reducible assumption
    | dsimp -zeta only
    | fail_if_no_progress with_reducible refine Kept.lit ?_
    | with_reducible apply stampMsg_kept
    | with_reducible apply addRefused_kept
    | with_reducible apply arriveAt_kept
    | with_reducible apply ringBell_kept
    | with_reducible refine KeptO.next ?_
    | with_reducible refine ite_keeps (P := Kept s0) ?_ ?_
    | with_reducible refine ite_keeps (P := KeptO s0) ?_ ?_
    | (intro y; intros))

theorem execRunnelHoldExpiry_kept {s0 : State} (endpoint : Nat) (s : State) (hs1 : Kept s0 s) :
    KeptO s0 (execRunnelHoldExpiry endpoint s) := by
  unfold execRunnelHoldExpiry
  repeat' (first
    | with_reducible assumption
    | fail_if_no_progress with_reducible refine Kept.lit ?_
    | with_reducible apply addDropped_kept
    | with_reducible apply setEnd_kept
    | with_reducible refine KeptO.next ?_
    | with_reducible refine ite_keeps (P := Kept s0) ?_ ?_
    | with_reducible refine ite_keeps (P := KeptO s0) ?_ ?_
    | (intro y; intros)
    | split)

theorem readEndpoints_kept {s0 : State} (s : State) (hs1 : Kept s0 s) :
    Kept s0 (readEndpoints s) := by
  unfold readEndpoints
  repeat' (first
    | with_reducible assumption
    | fail_if_no_progress with_reducible refine Kept.lit ?_)

theorem endpointReady_kept {s0 : State} (s : State) (d : Nat) (hs1 : Kept s0 s) :
    Kept s0 (endpointReady s d) := by
  unfold endpointReady
  repeat' (first
    | with_reducible assumption
    | fail_if_no_progress with_reducible refine Kept.lit ?_)

end Sys2Proof.Laws
end

