-- ==== Sys2Proof/Laws/KeptLogs.lean ====
section
/-! SUPPORT. What the functions of Machine/Logs.lean keep: the waiting commands and memory's canonical form. -/

namespace Sys2Proof.Laws

open Sys2Proof Sys2Proof.Machine

theorem execLogRead_kept {s0 : State} (h : Hdr) (start : Nat) (max : Nat) (s : State) (hs1 : Kept s0 s) :
    KeptO s0 (execLogRead h start max s) := by
  unfold execLogRead
  repeat' (first
    | with_reducible assumption
    | fail_if_no_progress with_reducible refine Kept.lit ?_
    | with_reducible apply hostCmd_kept
    | with_reducible apply reply_kept
    | with_reducible refine KeptO.next ?_
    | with_reducible refine ite_keeps (P := Kept s0) ?_ ?_
    | with_reducible refine ite_keeps (P := KeptO s0) ?_ ?_
    | (intro y; intros))

theorem execLogFaults_kept {s0 : State} (h : Hdr) (start : Nat) (max : Nat) (s : State) (hs1 : Kept s0 s) :
    KeptO s0 (execLogFaults h start max s) := by
  unfold execLogFaults
  repeat' (first
    | with_reducible assumption
    | fail_if_no_progress with_reducible refine Kept.lit ?_
    | with_reducible apply hostCmd_kept
    | with_reducible apply reply_kept
    | with_reducible refine KeptO.next ?_
    | with_reducible refine ite_keeps (P := Kept s0) ?_ ?_
    | with_reducible refine ite_keeps (P := KeptO s0) ?_ ?_
    | (intro y; intros))

theorem execLogCounters_kept {s0 : State} (h : Hdr) (set : Nat) (index : Nat) (s : State) (hs1 : Kept s0 s) :
    KeptO s0 (execLogCounters h set index s) := by
  unfold execLogCounters
  repeat' (first
    | with_reducible assumption
    | fail_if_no_progress with_reducible refine Kept.lit ?_
    | with_reducible apply hostCmd_kept
    | with_reducible apply reply_kept
    | with_reducible refine KeptO.next ?_
    | with_reducible refine ite_keeps (P := Kept s0) ?_ ?_
    | with_reducible refine ite_keeps (P := KeptO s0) ?_ ?_
    | (intro y; intros)
    | split)

theorem execLogSubscribe_kept {s0 : State} (h : Hdr) (mask : BitVec 64) (s : State) (hs1 : Kept s0 s) :
    KeptO s0 (execLogSubscribe h mask s) := by
  unfold execLogSubscribe
  repeat' (first
    | with_reducible assumption
    | fail_if_no_progress with_reducible refine Kept.lit ?_
    | with_reducible apply hostCmd_kept
    | with_reducible apply reply_kept
    | with_reducible apply setLink_kept
    | with_reducible refine KeptO.next ?_
    | with_reducible refine ite_keeps (P := Kept s0) ?_ ?_
    | with_reducible refine ite_keeps (P := KeptO s0) ?_ ?_
    | (intro y; intros))

theorem execTestEcho_kept {s0 : State} (h : Hdr) (bytes : List Byte) (s : State) (hs1 : Kept s0 s) :
    KeptO s0 (execTestEcho h bytes s) := by
  unfold execTestEcho
  repeat' (first
    | with_reducible assumption
    | fail_if_no_progress with_reducible refine Kept.lit ?_
    | with_reducible apply hostCmd_kept
    | with_reducible apply reply_kept
    | with_reducible refine KeptO.next ?_
    | with_reducible refine ite_keeps (P := Kept s0) ?_ ?_
    | with_reducible refine ite_keeps (P := KeptO s0) ?_ ?_
    | (intro y; intros))

theorem addOpen_kept {s0 : State} (s : State) (x : Nat × Nat × Nat) (hs1 : Kept s0 s) :
    Kept s0 (addOpen s x) := by
  unfold addOpen
  repeat' (first
    | with_reducible assumption
    | dsimp -zeta only
    | fail_if_no_progress with_reducible refine Kept.lit ?_
    | with_reducible apply drawPick_kept
    | with_reducible apply count_kept)

theorem foldCounters_kept {s0 : State} (s : State) (hs1 : Kept s0 s) :
    Kept s0 (foldCounters s) := by
  unfold foldCounters
  repeat' (first
    | with_reducible assumption
    | fail_if_no_progress with_reducible refine Kept.lit ?_
    | with_reducible apply addOpen_kept
    | with_reducible refine KeptO.next ?_
    | with_reducible refine ite_keeps (P := Kept s0) ?_ ?_
    | with_reducible refine ite_keeps (P := KeptO s0) ?_ ?_
    | with_reducible refine foldl_kept ?_ (fun s x hs => ?_))

theorem execCounterFold_kept {s0 : State} (s : State) (hs1 : Kept s0 s) :
    KeptO s0 (execCounterFold s) := by
  unfold execCounterFold
  repeat' (first
    | with_reducible assumption
    | fail_if_no_progress with_reducible refine Kept.lit ?_
    | with_reducible apply foldCounters_kept
    | with_reducible refine KeptO.next ?_)

end Sys2Proof.Laws
end

