-- ==== Sys2Proof/Laws/KeptKv.lean ====
section
/-! SUPPORT. What the functions of Machine/Kv.lean keep: the waiting commands and memory's canonical form. -/

namespace Sys2Proof.Laws

open Sys2Proof Sys2Proof.Machine

theorem setKv_kept {s0 : State} (s : State) (b : Nat) (f : Kv → Kv) (hs1 : Kept s0 s) :
    Kept s0 (setKv s b f) := by
  unfold setKv
  exact Kept.setKvs hs1 (by simp)

theorem setRow_kept {s0 : State} (s : State) (b : Nat) (id : Nat) (f : Row → Row) (hs1 : Kept s0 s) :
    Kept s0 (setRow s b id f) := by
  unfold setRow
  repeat' (first
    | with_reducible assumption
    | fail_if_no_progress with_reducible refine Kept.lit ?_
    | with_reducible apply setKv_kept)

theorem newRow_kept {s0 : State} (s : State) (b : Nat) (n : Nat) (st : RState) (c0 : Bool) (pad : Bool) (hs1 : Kept s0 s) :
    Kept s0 (newRow s b n st c0 pad).2 := by
  unfold newRow
  repeat' (first
    | with_reducible assumption
    | dsimp -zeta only
    | with_reducible refine ite_keeps (P := fun p => Kept s0 p.2) ?_ ?_
    | fail_if_no_progress with_reducible refine Kept.lit ?_
    | with_reducible apply drawPick_kept
    | with_reducible apply setKv_kept
    | with_reducible apply mapPages_kept)

theorem clearRowPage_kept {s0 : State} (s : State) (b : Nat) (p : Nat) (hs1 : Kept s0 s) :
    Kept s0 (clearRowPage s b p) := by
  unfold clearRowPage
  repeat' (first
    | with_reducible assumption
    | fail_if_no_progress with_reducible refine Kept.lit ?_
    | with_reducible apply releaseFrame_kept
    | with_reducible refine KeptO.next ?_
    | with_reducible refine ite_keeps (P := Kept s0) ?_ ?_
    | with_reducible refine ite_keeps (P := KeptO s0) ?_ ?_
    | (intro y; intros)
    | (extract_lets +onlyGivenNames z; refine both (A := Kept s0 z) ?_ (fun hz => ?_) <;> [(dsimp -zeta only [z]; clear z); clear_value z])
    | (extract_lets +onlyGivenNames z; clear_value z)
    | split)

theorem clearRow_kept {s0 : State} (s : State) (b : Nat) (id : Nat) (hs1 : Kept s0 s) :
    Kept s0 (clearRow s b id) := by
  unfold clearRow
  repeat' (first
    | with_reducible assumption
    | fail_if_no_progress with_reducible refine Kept.lit ?_
    | with_reducible apply setRow_kept
    | with_reducible apply unmapPage_kept
    | with_reducible apply clearRowPage_kept
    | with_reducible refine KeptO.next ?_
    | with_reducible refine ite_keeps (P := Kept s0) ?_ ?_
    | with_reducible refine ite_keeps (P := KeptO s0) ?_ ?_
    | (intro y; intros)
    | with_reducible refine foldl_kept ?_ (fun s x hs => ?_)
    | (extract_lets +onlyGivenNames z; refine both (A := Kept s0 z) ?_ (fun hz => ?_) <;> [(dsimp -zeta only [z]; clear z); clear_value z])
    | split)

theorem rowSettled_kept {s0 : State} (s : State) (b : Nat) (id : Nat) (hs1 : Kept s0 s) :
    Kept s0 (rowSettled s b id) := by
  unfold rowSettled
  repeat' (first
    | with_reducible assumption
    | fail_if_no_progress with_reducible refine Kept.lit ?_
    | with_reducible apply setRow_kept
    | with_reducible refine KeptO.next ?_
    | with_reducible refine ite_keeps (P := Kept s0) ?_ ?_
    | with_reducible refine ite_keeps (P := KeptO s0) ?_ ?_
    | (intro y; intros)
    | split)

theorem moveRow_kept {s0 : State} (s : State) (b : Nat) (id : Nat) (tier : Nat) (rank : Nat) (hs1 : Kept s0 s) :
    Kept s0 (moveRow s b id tier rank) := by
  unfold moveRow
  repeat' (first
    | with_reducible assumption
    | fail_if_no_progress with_reducible refine Kept.lit ?_
    | with_reducible apply setRow_kept
    | with_reducible apply askMove_kept
    | with_reducible apply rowSettled_kept
    | with_reducible refine KeptO.next ?_
    | with_reducible refine ite_keeps (P := Kept s0) ?_ ?_
    | with_reducible refine ite_keeps (P := KeptO s0) ?_ ?_
    | (intro y; intros)
    | with_reducible refine foldl_kept ?_ (fun s x hs => ?_)
    | (extract_lets +onlyGivenNames z; refine both (A := Kept s0 z) ?_ (fun hz => ?_) <;> [(dsimp -zeta only [z]; clear z); clear_value z])
    | split)

theorem keepHot_kept {s0 : State} (s : State) (b : Nat) (id : Nat) (hs1 : Kept s0 s) :
    Kept s0 (keepHot s b id) := by
  unfold keepHot
  repeat' (first
    | with_reducible assumption
    | fail_if_no_progress with_reducible refine Kept.lit ?_
    | with_reducible apply moveRow_kept
    | with_reducible refine KeptO.next ?_
    | with_reducible refine ite_keeps (P := Kept s0) ?_ ?_
    | with_reducible refine ite_keeps (P := KeptO s0) ?_ ?_
    | split)

theorem freeNode_kept {s0 : State} (s : State) (b : Nat) (n : Node) (hs1 : Kept s0 s) :
    Kept s0 (freeNode s b n) := by
  unfold freeNode
  repeat' (first
    | with_reducible assumption
    | fail_if_no_progress with_reducible refine Kept.lit ?_
    | with_reducible apply clearRow_kept
    | with_reducible apply setKv_kept)

theorem freeLeaves_kept {s0 : State} (s : State) (b : Nat) (tier : Nat) (more : State → Bool) (z0 : Nat) (hs1 : Kept s0 s) :
    Kept s0 (freeLeaves s b tier more z0) := by
  induction z0 generalizing s b tier more with
  | zero =>
    first | rw [freeLeaves] | (rw [freeLeaves.eq_def]; dsimp -zeta only)
    repeat' (first
      | with_reducible assumption)
  | succ n ih =>
    first | rw [freeLeaves] | (rw [freeLeaves.eq_def]; dsimp -zeta only)
    repeat' (first
      | with_reducible assumption
      | with_reducible apply ih
      | fail_if_no_progress with_reducible refine Kept.lit ?_
      | with_reducible apply freeNode_kept
      | with_reducible refine KeptO.next ?_
      | with_reducible refine ite_keeps (P := Kept s0) ?_ ?_
      | with_reducible refine ite_keeps (P := KeptO s0) ?_ ?_
      | split)

theorem closeTrees_kept {s0 : State} (s : State) (b : Nat) (vid : Nat) (hs1 : Kept s0 s) :
    Kept s0 (closeTrees s b vid) := by
  unfold closeTrees
  repeat' (first
    | with_reducible assumption
    | fail_if_no_progress with_reducible refine Kept.lit ?_
    | with_reducible apply setKv_kept)

theorem sweepKv_kept {s0 : State} (s : State) (b : Nat) (hs1 : Kept s0 s) :
    Kept s0 (sweepKv s b) := by
  unfold sweepKv
  repeat' (first
    | with_reducible assumption
    | fail_if_no_progress with_reducible refine Kept.lit ?_
    | with_reducible apply freeNode_kept
    | with_reducible apply clearRow_kept
    | with_reducible refine KeptO.next ?_
    | with_reducible refine ite_keeps (P := Kept s0) ?_ ?_
    | with_reducible refine ite_keeps (P := KeptO s0) ?_ ?_
    | (intro y; intros)
    | with_reducible refine foldl_kept ?_ (fun s x hs => ?_))

theorem settleFlush_kept {s0 : State} (s : State) (b : Nat) (hs1 : Kept s0 s) :
    Kept s0 (settleFlush s b) := by
  unfold settleFlush
  repeat' (first
    | with_reducible assumption
    | fail_if_no_progress with_reducible refine Kept.lit ?_
    | with_reducible apply setKv_kept
    | with_reducible apply answerDeferred_kept
    | with_reducible refine KeptO.next ?_
    | with_reducible refine ite_keeps (P := Kept s0) ?_ ?_
    | with_reducible refine ite_keeps (P := KeptO s0) ?_ ?_
    | (intro y; intros)
    | with_reducible refine foldl_kept ?_ (fun s x hs => ?_))

theorem kvPageCleared_kept {s0 : State} (s : State) (b : Nat) (p : Nat) (hs1 : Kept s0 s) :
    Kept s0 (kvPageCleared s b p) := by
  unfold kvPageCleared
  repeat' (first
    | with_reducible assumption
    | fail_if_no_progress with_reducible refine Kept.lit ?_
    | with_reducible apply settleFlush_kept
    | with_reducible apply setKv_kept
    | with_reducible refine KeptO.next ?_
    | with_reducible refine ite_keeps (P := Kept s0) ?_ ?_
    | with_reducible refine ite_keeps (P := KeptO s0) ?_ ?_
    | (intro y; intros)
    | (extract_lets +onlyGivenNames z; refine both (A := Kept s0 z) ?_ (fun hz => ?_) <;> [(dsimp -zeta only [z]; clear z); clear_value z])
    | (extract_lets +onlyGivenNames z; clear_value z)
    | split)

theorem kvPageMoved_kept {s0 : State} (s : State) (b : Nat) (p : Nat) (hs1 : Kept s0 s) :
    Kept s0 (kvPageMoved s b p) := by
  unfold kvPageMoved
  repeat' (first
    | with_reducible assumption
    | fail_if_no_progress with_reducible refine Kept.lit ?_
    | with_reducible apply clearRowPage_kept
    | with_reducible apply askMove_kept
    | with_reducible apply rowSettled_kept
    | with_reducible refine KeptO.next ?_
    | with_reducible refine ite_keeps (P := Kept s0) ?_ ?_
    | with_reducible refine ite_keeps (P := KeptO s0) ?_ ?_
    | (intro y; intros)
    | (extract_lets +onlyGivenNames z; refine both (A := Kept s0 z) ?_ (fun hz => ?_) <;> [(dsimp -zeta only [z]; clear z); clear_value z])
    | (extract_lets +onlyGivenNames z; clear_value z)
    | split)

theorem endConv_kept {s0 : State} (s : State) (b : Nat) (c : Nat) (reason : Nat) (hs1 : Kept s0 s) :
    Kept s0 (endConv s b c reason) := by
  unfold endConv
  repeat' (first
    | with_reducible assumption
    | fail_if_no_progress with_reducible refine Kept.lit ?_
    | with_reducible apply setKv_kept
    | with_reducible apply clearRow_kept
    | with_reducible apply sweepKv_kept
    | with_reducible apply answerDeferred_kept
    | with_reducible apply raise_kept
    | with_reducible refine KeptO.next ?_
    | with_reducible refine ite_keeps (P := Kept s0) ?_ ?_
    | with_reducible refine ite_keeps (P := KeptO s0) ?_ ?_
    | (intro y; intros)
    | with_reducible refine foldl_kept ?_ (fun s x hs => ?_)
    | (extract_lets +onlyGivenNames z; refine both (A := Kept s0 z) ?_ (fun hz => ?_) <;> [(dsimp -zeta only [z]; clear z); clear_value z])
    | split)

theorem settleResumes_kept {s0 : State} (s : State) (b : Nat) (hs1 : Kept s0 s) :
    Kept s0 (settleResumes s b) := by
  unfold settleResumes
  repeat' (first
    | with_reducible assumption
    | with_reducible apply hf
    | fail_if_no_progress with_reducible refine Kept.lit ?_
    | with_reducible apply setKv_kept
    | with_reducible apply answerDeferred_kept
    | with_reducible refine KeptO.next ?_
    | with_reducible refine ite_keeps (P := Kept s0) ?_ ?_
    | with_reducible refine ite_keeps (P := KeptO s0) ?_ ?_
    | (intro y; intros)
    | with_reducible refine foldl_kept ?_ (fun s x hs => ?_))

theorem endForRoom_kept {s0 : State} (s : State) (b : Nat) (more : State → Bool) (z0 : Nat) (hs1 : Kept s0 s) :
    Kept s0 (endForRoom s b more z0) := by
  induction z0 generalizing s b more with
  | zero =>
    first | rw [endForRoom] | (rw [endForRoom.eq_def]; dsimp -zeta only)
    repeat' (first
      | with_reducible assumption)
  | succ n ih =>
    first | rw [endForRoom] | (rw [endForRoom.eq_def]; dsimp -zeta only)
    repeat' (first
      | with_reducible assumption
      | with_reducible apply ih
      | fail_if_no_progress with_reducible refine Kept.lit ?_
      | with_reducible apply endConv_kept
      | with_reducible refine KeptO.next ?_
      | with_reducible refine ite_keeps (P := Kept s0) ?_ ?_
      | with_reducible refine ite_keeps (P := KeptO s0) ?_ ?_
      | split)

theorem bwRoom_kept {s0 : State} (s : State) (b : Nat) (n : Nat) (hs1 : Kept s0 s) :
    Kept s0 (bwRoom s b n).2 := by
  unfold bwRoom
  repeat' (first
    | with_reducible assumption
    | dsimp -zeta only
    | with_reducible refine ite_keeps (P := fun p => Kept s0 p.2) ?_ ?_
    | with_reducible apply hf
    | fail_if_no_progress with_reducible refine Kept.lit ?_
    | with_reducible apply freeLeaves_kept
    | with_reducible apply endForRoom_kept
    | with_reducible refine KeptO.next ?_
    | with_reducible refine ite_keeps (P := Kept s0) ?_ ?_
    | with_reducible refine ite_keeps (P := KeptO s0) ?_ ?_
    | (extract_lets +onlyGivenNames z; refine both (A := Kept s0 z) ?_ (fun hz => ?_) <;> [(dsimp -zeta only [z]; clear z); clear_value z])
    | (extract_lets +onlyGivenNames z; refine both (A := ∀ a b c, Kept s0 (z a b c)) ?_ (fun hf => ?_) <;> [(dsimp -zeta only [z]; clear z); clear_value z])
    | (extract_lets +onlyGivenNames z; refine both (A := ∀ a b, Kept s0 (z a b)) ?_ (fun hf => ?_) <;> [(dsimp -zeta only [z]; clear z); clear_value z])
    | (extract_lets +onlyGivenNames z; refine both (A := ∀ a, Kept s0 (z a)) ?_ (fun hf => ?_) <;> [(dsimp -zeta only [z]; clear z); clear_value z])
    | (extract_lets +onlyGivenNames z; refine both (A := ∀ a b c d, Kept s0 a → Kept s0 (z a b c d)) ?_ (fun hf => ?_) <;> [(dsimp -zeta only [z]; clear z); clear_value z])
    | (extract_lets +onlyGivenNames z; refine both (A := ∀ a b c, Kept s0 a → Kept s0 (z a b c)) ?_ (fun hf => ?_) <;> [(dsimp -zeta only [z]; clear z); clear_value z])
    | (extract_lets +onlyGivenNames z; refine both (A := ∀ a b, Kept s0 a → Kept s0 (z a b)) ?_ (fun hf => ?_) <;> [(dsimp -zeta only [z]; clear z); clear_value z])
    | (extract_lets +onlyGivenNames z; refine both (A := ∀ a, Kept s0 a → Kept s0 (z a)) ?_ (fun hf => ?_) <;> [(dsimp -zeta only [z]; clear z); clear_value z])
    | (intro y; intros)
    | (extract_lets +onlyGivenNames z; clear_value z)
    | split)

theorem rowsOut_kept {s0 : State} (s : State) (b : Nat) (rank : Nat) (ids : List Nat) (hs1 : Kept s0 s) :
    Kept s0 (rowsOut s b rank ids).2 := by
  unfold rowsOut
  repeat' (first
    | with_reducible assumption
    | dsimp -zeta only
    | with_reducible refine ite_keeps (P := fun p => Kept s0 p.2) ?_ ?_
    | fail_if_no_progress with_reducible refine Kept.lit ?_
    | with_reducible apply bwRoom_kept
    | with_reducible apply moveRow_kept
    | with_reducible refine KeptO.next ?_
    | with_reducible refine ite_keeps (P := Kept s0) ?_ ?_
    | with_reducible refine ite_keeps (P := KeptO s0) ?_ ?_
    | (intro y; intros)
    | with_reducible refine foldl_kept ?_ (fun s x hs => ?_)
    | (extract_lets +onlyGivenNames z; refine both (A := Kept s0 z) ?_ (fun hz => ?_) <;> [(dsimp -zeta only [z]; clear z); clear_value z])
    | (extract_lets +onlyGivenNames z; clear_value z)
    | (split <;> try (rename_i he; have hk := congrArg Prod.snd he; dsimp -zeta only at hk; subst hk)))

theorem rebook_kept {s0 : State} (s : State) (b : Nat) (hs1 : Kept s0 s) :
    Kept s0 (rebook s b) := by
  unfold rebook
  repeat' (first
    | with_reducible assumption
    | with_reducible apply hf
    | fail_if_no_progress with_reducible refine Kept.lit ?_
    | with_reducible refine KeptO.next ?_
    | with_reducible refine ite_keeps (P := Kept s0) ?_ ?_
    | with_reducible refine ite_keeps (P := KeptO s0) ?_ ?_
    | (intro y; intros)
    | with_reducible refine foldl_kept ?_ (fun s x hs => ?_))

theorem execKvConfigure_kept {s0 : State} (h : Hdr) (rec : BitVec 384) (s : State) (hs1 : Kept s0 s) :
    KeptO s0 (execKvConfigure h rec s) := by
  unfold execKvConfigure
  repeat' (first
    | with_reducible assumption
    | fail_if_no_progress with_reducible refine Kept.lit ?_
    | with_reducible apply hostCmd_kept
    | with_reducible apply reply_kept
    | with_reducible apply unmapPages_kept
    | with_reducible apply setKv_kept
    | with_reducible apply rebook_kept
    | with_reducible apply mapPages_kept
    | with_reducible refine KeptO.next ?_
    | with_reducible refine ite_keeps (P := Kept s0) ?_ ?_
    | with_reducible refine ite_keeps (P := KeptO s0) ?_ ?_
    | (intro y; intros))

theorem execKvQuery_kept {s0 : State} (h : Hdr) (conv : Nat) (s : State) (hs1 : Kept s0 s) :
    KeptO s0 (execKvQuery h conv s) := by
  unfold execKvQuery
  repeat' (first
    | with_reducible assumption
    | with_reducible apply hf
    | fail_if_no_progress with_reducible refine Kept.lit ?_
    | with_reducible apply hostCmd_kept
    | with_reducible apply reply_kept
    | with_reducible refine KeptO.next ?_
    | with_reducible refine ite_keeps (P := Kept s0) ?_ ?_
    | with_reducible refine ite_keeps (P := KeptO s0) ?_ ?_
    | (intro y; intros)
    | (extract_lets +onlyGivenNames z; refine both (A := Kept s0 z) ?_ (fun hz => ?_) <;> [(dsimp -zeta only [z]; clear z); clear_value z])
    | (extract_lets +onlyGivenNames z; refine both (A := ∀ a b c, Kept s0 (z a b c)) ?_ (fun hf => ?_) <;> [(dsimp -zeta only [z]; clear z); clear_value z])
    | (extract_lets +onlyGivenNames z; refine both (A := ∀ a b, Kept s0 (z a b)) ?_ (fun hf => ?_) <;> [(dsimp -zeta only [z]; clear z); clear_value z])
    | (extract_lets +onlyGivenNames z; refine both (A := ∀ a, Kept s0 (z a)) ?_ (fun hf => ?_) <;> [(dsimp -zeta only [z]; clear z); clear_value z])
    | (extract_lets +onlyGivenNames z; refine both (A := ∀ a b c d, Kept s0 a → Kept s0 (z a b c d)) ?_ (fun hf => ?_) <;> [(dsimp -zeta only [z]; clear z); clear_value z])
    | (extract_lets +onlyGivenNames z; refine both (A := ∀ a b c, Kept s0 a → Kept s0 (z a b c)) ?_ (fun hf => ?_) <;> [(dsimp -zeta only [z]; clear z); clear_value z])
    | (extract_lets +onlyGivenNames z; refine both (A := ∀ a b, Kept s0 a → Kept s0 (z a b)) ?_ (fun hf => ?_) <;> [(dsimp -zeta only [z]; clear z); clear_value z])
    | (extract_lets +onlyGivenNames z; refine both (A := ∀ a, Kept s0 a → Kept s0 (z a)) ?_ (fun hf => ?_) <;> [(dsimp -zeta only [z]; clear z); clear_value z])
    | (extract_lets +onlyGivenNames z; refine both (A := ∀ a b c, KeptO s0 (z a b c)) ?_ (fun hf => ?_) <;> [(dsimp -zeta only [z]; clear z); clear_value z])
    | (extract_lets +onlyGivenNames z; refine both (A := ∀ a b, KeptO s0 (z a b)) ?_ (fun hf => ?_) <;> [(dsimp -zeta only [z]; clear z); clear_value z])
    | (extract_lets +onlyGivenNames z; refine both (A := ∀ a, KeptO s0 (z a)) ?_ (fun hf => ?_) <;> [(dsimp -zeta only [z]; clear z); clear_value z])
    | (extract_lets +onlyGivenNames z; refine both (A := ∀ a b, Kept s0 a → KeptO s0 (z a b)) ?_ (fun hf => ?_) <;> [(dsimp -zeta only [z]; clear z); clear_value z])
    | (extract_lets +onlyGivenNames z; refine both (A := ∀ a, Kept s0 a → KeptO s0 (z a)) ?_ (fun hf => ?_) <;> [(dsimp -zeta only [z]; clear z); clear_value z])
    | (extract_lets +onlyGivenNames z; clear_value z)
    | split)

theorem execKvDrop_kept {s0 : State} (h : Hdr) (conv : Nat) (s : State) (hs1 : Kept s0 s) :
    KeptO s0 (execKvDrop h conv s) := by
  unfold execKvDrop
  repeat' (first
    | with_reducible assumption
    | fail_if_no_progress with_reducible refine Kept.lit ?_
    | with_reducible apply hostCmd_kept
    | with_reducible apply reply_kept
    | with_reducible apply endConv_kept
    | with_reducible refine KeptO.next ?_
    | with_reducible refine ite_keeps (P := Kept s0) ?_ ?_
    | with_reducible refine ite_keeps (P := KeptO s0) ?_ ?_
    | (intro y; intros)
    | (extract_lets +onlyGivenNames z; refine both (A := Kept s0 z) ?_ (fun hz => ?_) <;> [(dsimp -zeta only [z]; clear z); clear_value z])
    | (extract_lets +onlyGivenNames z; clear_value z)
    | split)

theorem execKvPrefixFlush_kept {s0 : State} (h : Hdr) (vid : Nat) (s : State) (hs1 : Kept s0 s) :
    KeptO s0 (execKvPrefixFlush h vid s) := by
  unfold execKvPrefixFlush
  repeat' (first
    | with_reducible assumption
    | fail_if_no_progress with_reducible refine Kept.lit ?_
    | with_reducible apply hostCmd_kept
    | with_reducible apply freeNode_kept
    | with_reducible apply reply_kept
    | with_reducible apply setKv_kept
    | with_reducible apply deferCmd_kept
    | with_reducible apply settleFlush_kept
    | with_reducible refine KeptO.next ?_
    | with_reducible refine ite_keeps (P := Kept s0) ?_ ?_
    | with_reducible refine ite_keeps (P := KeptO s0) ?_ ?_
    | (intro y; intros)
    | with_reducible refine foldl_kept ?_ (fun s x hs => ?_))

theorem execKvStats_kept {s0 : State} (h : Hdr) (s : State) (hs1 : Kept s0 s) :
    KeptO s0 (execKvStats h s) := by
  unfold execKvStats
  repeat' (first
    | with_reducible assumption
    | fail_if_no_progress with_reducible refine Kept.lit ?_
    | with_reducible apply hostCmd_kept
    | with_reducible apply reply_kept
    | with_reducible refine KeptO.next ?_
    | with_reducible refine ite_keeps (P := Kept s0) ?_ ?_
    | with_reducible refine ite_keeps (P := KeptO s0) ?_ ?_
    | (intro y; intros))

theorem execKvTtlCheck_kept {s0 : State} (s : State) (hs1 : Kept s0 s) :
    KeptO s0 (execKvTtlCheck s) := by
  unfold execKvTtlCheck
  repeat' (first
    | with_reducible assumption
    | fail_if_no_progress with_reducible refine Kept.lit ?_
    | with_reducible apply endConv_kept
    | with_reducible refine KeptO.next ?_
    | with_reducible refine ite_keeps (P := Kept s0) ?_ ?_
    | with_reducible refine ite_keeps (P := KeptO s0) ?_ ?_
    | (intro y; intros)
    | with_reducible refine foldl_kept ?_ (fun s x hs => ?_))

end Sys2Proof.Laws
end

