-- ==== Sys2Proof/Laws/KeptModels.lean ====
section
/-! SUPPORT. What the functions of Machine/Models.lean keep: the waiting commands and memory's canonical form. -/

namespace Sys2Proof.Laws

open Sys2Proof Sys2Proof.Machine

theorem setModel_kept {s0 : State} (s : State) (b : Nat) (mid : Nat) (f : Model → Model) (hs1 : Kept s0 s) :
    Kept s0 (setModel s b mid f) := by
  unfold setModel
  repeat' (first
    | with_reducible assumption
    | fail_if_no_progress with_reducible refine Kept.lit ?_)

theorem setVariant_kept {s0 : State} (s : State) (b : Nat) (vid : Nat) (f : Variant → Variant) (hs1 : Kept s0 s) :
    Kept s0 (setVariant s b vid f) := by
  unfold setVariant
  repeat' (first
    | with_reducible assumption
    | fail_if_no_progress with_reducible refine Kept.lit ?_)

theorem placeDerived_kept {s0 : State} (s : State) (b : Nat) (g : GenSet) (ps : List (Option Nat × List Byte)) (hs1 : Kept s0 s) :
    Kept s0 (placeDerived s b g ps) := by
  unfold placeDerived
  repeat' (first
    | with_reducible apply memPut_wf
    | with_reducible apply memPuts_wf
    | with_reducible apply memClear_wf
    | with_reducible refine Kept.mem (s0 := s0) ?_
    | with_reducible assumption
    | fail_if_no_progress with_reducible refine Kept.lit ?_
    | with_reducible apply mapPage_kept
    | with_reducible apply setPage_kept
    | with_reducible refine KeptO.next ?_
    | with_reducible refine ite_keeps (P := Kept s0) ?_ ?_
    | with_reducible refine ite_keeps (P := KeptO s0) ?_ ?_
    | (intro y; intros)
    | with_reducible refine foldl_kept ?_ (fun s x hs => ?_)
    | (extract_lets +onlyGivenNames z; refine both (A := Kept s0 z) ?_ (fun hz => ?_) <;> [(dsimp -zeta only [z]; clear z); clear_value z])
    | split
    | with_reducible refine Kept.litMem ?_ ?_)

theorem askCopies_kept {s0 : State} (s : State) (b : Nat) (hs1 : Kept s0 s) :
    Kept s0 (askCopies s b) := by
  unfold askCopies
  repeat' (first
    | with_reducible assumption
    | with_reducible apply hf
    | fail_if_no_progress with_reducible refine Kept.lit ?_)

theorem blockVariant_kept {s0 : State} (s : State) (v : Variant) (p : Nat) (hs1 : Kept s0 s) :
    Kept s0 (blockVariant s v p) := by
  unfold blockVariant
  repeat' (first
    | with_reducible assumption
    | fail_if_no_progress with_reducible refine Kept.lit ?_
    | with_reducible apply setVariant_kept
    | with_reducible apply answerDeferred_kept
    | with_reducible apply raise_kept
    | with_reducible refine KeptO.next ?_
    | with_reducible refine ite_keeps (P := Kept s0) ?_ ?_)

theorem blockVariants_kept {s0 : State} (s : State) (b : Nat) (p : Nat) (hs1 : Kept s0 s) :
    Kept s0 (blockVariants s b p) := by
  unfold blockVariants
  repeat' (first
    | with_reducible assumption
    | fail_if_no_progress with_reducible refine Kept.lit ?_
    | with_reducible apply blockVariant_kept
    | with_reducible refine KeptO.next ?_
    | with_reducible refine ite_keeps (P := Kept s0) ?_ ?_
    | with_reducible refine ite_keeps (P := KeptO s0) ?_ ?_
    | (intro y; intros)
    | with_reducible refine foldl_kept ?_ (fun s x hs => ?_))

theorem unblockVariants_kept {s0 : State} (s : State) (b : Nat) (p : Nat) (hs1 : Kept s0 s) :
    Kept s0 (unblockVariants s b p) := by
  unfold unblockVariants
  repeat' (first
    | with_reducible assumption
    | fail_if_no_progress with_reducible refine Kept.lit ?_
    | with_reducible apply setVariant_kept
    | with_reducible apply raise_kept
    | with_reducible refine KeptO.next ?_
    | with_reducible refine ite_keeps (P := Kept s0) ?_ ?_
    | with_reducible refine ite_keeps (P := KeptO s0) ?_ ?_
    | (intro y; intros)
    | with_reducible refine foldl_kept ?_ (fun s x hs => ?_)
    | (extract_lets +onlyGivenNames z; refine both (A := Kept s0 z) ?_ (fun hz => ?_) <;> [(dsimp -zeta only [z]; clear z); clear_value z])
    | split)

theorem resetBlocked_kept {s0 : State} (s : State) (b : Nat) (vid : Nat) (hs1 : Kept s0 s) :
    Kept s0 (resetBlocked s b vid) := by
  unfold resetBlocked
  repeat' (first
    | with_reducible assumption
    | fail_if_no_progress with_reducible refine Kept.lit ?_
    | with_reducible apply setVariant_kept
    | with_reducible apply blockVariant_kept
    | with_reducible refine KeptO.next ?_
    | with_reducible refine ite_keeps (P := Kept s0) ?_ ?_
    | with_reducible refine ite_keeps (P := KeptO s0) ?_ ?_
    | (intro y; intros)
    | split)

theorem voidVids_kept {s0 : State} (s : State) (b : Nat) (vids : List Nat) (hs1 : Kept s0 s) :
    Kept s0 (voidVids s b vids) := by
  unfold voidVids
  repeat' (first
    | with_reducible assumption
    | fail_if_no_progress with_reducible refine Kept.lit ?_)

theorem unpinVoid_kept {s0 : State} (s : State) (b : Nat) (vid : Nat) (pin : Nat) (hs1 : Kept s0 s) :
    Kept s0 (unpinVoid s b vid pin) := by
  unfold unpinVoid
  repeat' (first
    | with_reducible assumption
    | fail_if_no_progress with_reducible refine Kept.lit ?_
    | with_reducible apply voidVids_kept
    | with_reducible refine KeptO.next ?_
    | with_reducible refine ite_keeps (P := Kept s0) ?_ ?_)

theorem coldWithout_kept {s0 : State} (s : State) (b : Nat) (p : Nat) (hs1 : Kept s0 s) :
    Kept s0 (coldWithout s b p) := by
  unfold coldWithout
  repeat' (first
    | with_reducible assumption
    | with_reducible apply hf
    | fail_if_no_progress with_reducible refine Kept.lit ?_
    | with_reducible apply voidVids_kept)

theorem dropCopy_kept {s0 : State} (s : State) (b : Nat) (p : Nat) (hs1 : Kept s0 s) :
    Kept s0 (dropCopy s b p) := by
  unfold dropCopy
  repeat' (first
    | with_reducible assumption
    | fail_if_no_progress with_reducible refine Kept.lit ?_
    | with_reducible apply coldWithout_kept
    | with_reducible apply releaseFrame_kept
    | with_reducible apply setPage_kept
    | with_reducible apply blockVariants_kept
    | with_reducible refine KeptO.next ?_
    | with_reducible refine ite_keeps (P := Kept s0) ?_ ?_
    | with_reducible refine ite_keeps (P := KeptO s0) ?_ ?_
    | (intro y; intros)
    | split)

theorem poisonCopy_kept {s0 : State} (s : State) (e : PageEnt) (f : Nat) (hs1 : Kept s0 s) :
    Kept s0 (poisonCopy s e f) := by
  unfold poisonCopy
  repeat' (first
    | with_reducible assumption
    | fail_if_no_progress with_reducible refine Kept.lit ?_
    | with_reducible apply askCopies_kept
    | with_reducible apply dropCopy_kept
    | with_reducible apply markRetiring_kept)

theorem poisonModel_kept {s0 : State} (s : State) (e : PageEnt) (reader : Nat) (mark : Bool) (hs1 : Kept s0 s) :
    Kept s0 (poisonModel s e reader mark) := by
  unfold poisonModel
  repeat' (first
    | with_reducible assumption
    | fail_if_no_progress with_reducible refine Kept.lit ?_
    | with_reducible apply markRetiring_kept
    | with_reducible apply raisePoisoned_kept
    | with_reducible apply poisonPage_kept
    | with_reducible apply blockVariants_kept
    | with_reducible refine KeptO.next ?_
    | with_reducible refine ite_keeps (P := Kept s0) ?_ ?_)

theorem failedRead_kept {s0 : State} (s : State) (e : PageEnt) (hs1 : Kept s0 s) :
    Kept s0 (failedRead s e) := by
  unfold failedRead
  repeat' (first
    | with_reducible assumption
    | fail_if_no_progress with_reducible refine Kept.lit ?_
    | with_reducible apply poisonCopy_kept
    | with_reducible apply poisonModel_kept
    | with_reducible refine KeptO.next ?_
    | with_reducible refine ite_keeps (P := Kept s0) ?_ ?_
    | with_reducible refine ite_keeps (P := KeptO s0) ?_ ?_
    | split)

theorem makeCopy_kept {s0 : State} (s : State) (b : Nat) (p : Nat) (hs1 : Kept s0 s) :
    Kept s0 (makeCopy s b p) := by
  unfold makeCopy
  repeat' (first
    | with_reducible assumption
    | dsimp -zeta only
    | fail_if_no_progress with_reducible refine Kept.lit ?_
    | with_reducible apply poisonModel_kept
    | with_reducible apply takeFrame_kept
    | with_reducible apply setPage_kept
    | with_reducible apply copyFrame_kept
    | with_reducible refine KeptO.next ?_
    | with_reducible refine ite_keeps (P := Kept s0) ?_ ?_
    | with_reducible refine ite_keeps (P := KeptO s0) ?_ ?_
    | (intro y; intros)
    | (split <;> try (rename_i he; have hk := congrArg Prod.snd he; dsimp -zeta only at hk; subst hk)))

theorem clearGen_kept {s0 : State} (s : State) (b : Nat) (vid : Nat) (g : GenSet) (hs1 : Kept s0 s) :
    Kept s0 (clearGen s b vid g) := by
  unfold clearGen
  repeat' (first
    | with_reducible apply memPut_wf
    | with_reducible apply memPuts_wf
    | with_reducible apply memClear_wf
    | with_reducible refine Kept.mem (s0 := s0) ?_
    | with_reducible assumption
    | fail_if_no_progress with_reducible refine Kept.lit ?_
    | with_reducible apply unmapObj_kept
    | with_reducible refine KeptO.next ?_
    | with_reducible refine ite_keeps (P := Kept s0) ?_ ?_
    | with_reducible refine ite_keeps (P := KeptO s0) ?_ ?_
    | (intro y; intros)
    | with_reducible refine foldl_kept ?_ (fun s x hs => ?_)
    | (extract_lets +onlyGivenNames z; refine both (A := Kept s0 z) ?_ (fun hz => ?_) <;> [(dsimp -zeta only [z]; clear z); clear_value z])
    | (extract_lets +onlyGivenNames z; clear_value z)
    | split
    | with_reducible refine Kept.litMem ?_ ?_)

theorem clearOldGens_kept {s0 : State} (s : State) (b : Nat) (vid : Nat) (hs1 : Kept s0 s) :
    Kept s0 (clearOldGens s b vid) := by
  unfold clearOldGens
  repeat' (first
    | with_reducible assumption
    | fail_if_no_progress with_reducible refine Kept.lit ?_
    | with_reducible apply clearGen_kept
    | with_reducible apply setVariant_kept
    | with_reducible refine KeptO.next ?_
    | with_reducible refine ite_keeps (P := Kept s0) ?_ ?_
    | with_reducible refine ite_keeps (P := KeptO s0) ?_ ?_
    | (intro y; intros)
    | with_reducible refine foldl_kept ?_ (fun s x hs => ?_)
    | split)

theorem clearRetiring_kept {s0 : State} (s : State) (b : Nat) (vid : Nat) (hs1 : Kept s0 s) :
    Kept s0 (clearRetiring s b vid) := by
  unfold clearRetiring
  repeat' (first
    | with_reducible assumption
    | fail_if_no_progress with_reducible refine Kept.lit ?_
    | with_reducible apply clearGen_kept
    | with_reducible apply setVariant_kept
    | with_reducible refine KeptO.next ?_
    | with_reducible refine ite_keeps (P := Kept s0) ?_ ?_
    | with_reducible refine ite_keeps (P := KeptO s0) ?_ ?_
    | (intro y; intros)
    | with_reducible refine foldl_kept ?_ (fun s x hs => ?_)
    | split)

theorem clearDeleted_kept {s0 : State} (s : State) (b : Nat) (mid : Nat) (hs1 : Kept s0 s) :
    Kept s0 (clearDeleted s b mid) := by
  unfold clearDeleted
  repeat' (first
    | with_reducible assumption
    | fail_if_no_progress with_reducible refine Kept.lit ?_
    | with_reducible apply setModel_kept
    | with_reducible apply unmapObj_kept
    | with_reducible refine KeptO.next ?_
    | with_reducible refine ite_keeps (P := Kept s0) ?_ ?_
    | with_reducible refine ite_keeps (P := KeptO s0) ?_ ?_
    | (intro y; intros)
    | with_reducible refine foldl_kept ?_ (fun s x hs => ?_)
    | split)

theorem dropDeleted_kept {s0 : State} (s : State) (hs1 : Kept s0 s) :
    Kept s0 (dropDeleted s) := by
  unfold dropDeleted
  repeat' (first
    | with_reducible assumption
    | with_reducible apply hf
    | fail_if_no_progress with_reducible refine Kept.lit ?_)

theorem clearUnused_kept {s0 : State} (s : State) (b : Nat) (hs1 : Kept s0 s) :
    Kept s0 (clearUnused s b) := by
  unfold clearUnused
  repeat' (first
    | with_reducible assumption
    | fail_if_no_progress with_reducible refine Kept.lit ?_
    | with_reducible apply clearOldGens_kept
    | with_reducible apply clearRetiring_kept
    | with_reducible apply dropDeleted_kept
    | with_reducible apply clearDeleted_kept
    | with_reducible refine KeptO.next ?_
    | with_reducible refine ite_keeps (P := Kept s0) ?_ ?_
    | with_reducible refine ite_keeps (P := KeptO s0) ?_ ?_
    | (intro y; intros)
    | with_reducible refine foldl_kept ?_ (fun s x hs => ?_))

theorem evictVariant_kept {s0 : State} (s : State) (b : Nat) (vid : Nat) (hs1 : Kept s0 s) :
    Kept s0 (evictVariant s b vid) := by
  unfold evictVariant
  repeat' (first
    | with_reducible assumption
    | fail_if_no_progress with_reducible refine Kept.lit ?_
    | with_reducible apply unmapPages_kept
    | with_reducible apply setVariant_kept
    | with_reducible apply voidVids_kept
    | with_reducible apply raise_kept
    | with_reducible apply resetBlocked_kept
    | with_reducible refine KeptO.next ?_
    | with_reducible refine ite_keeps (P := Kept s0) ?_ ?_
    | with_reducible refine ite_keeps (P := KeptO s0) ?_ ?_
    | (intro y; intros)
    | split)

theorem publishVariants_kept {s0 : State} (s : State) (b : Nat) (hs1 : Kept s0 s) :
    Kept s0 (publishVariants s b) := by
  unfold publishVariants
  repeat' (first
    | with_reducible assumption
    | with_reducible apply hf
    | fail_if_no_progress with_reducible refine Kept.lit ?_
    | with_reducible apply closeTrees_kept
    | with_reducible apply setVariant_kept
    | with_reducible apply raise_kept
    | with_reducible apply answerDeferred_kept
    | with_reducible apply clearOldGens_kept
    | with_reducible apply sweepKv_kept
    | with_reducible apply resetBlocked_kept
    | with_reducible refine KeptO.next ?_
    | with_reducible refine ite_keeps (P := Kept s0) ?_ ?_
    | with_reducible refine ite_keeps (P := KeptO s0) ?_ ?_
    | (intro y; intros)
    | with_reducible refine foldl_kept ?_ (fun s x hs => ?_)
    | (extract_lets +onlyGivenNames z; refine both (A := Kept s0 z) ?_ (fun hz => ?_) <;> [(dsimp -zeta only [z]; clear z); clear_value z])
    | (extract_lets +onlyGivenNames z; refine both (A := ∀ a b c, Kept s0 (z a b c)) ?_ (fun hf => ?_) <;> [(dsimp -zeta only [z]; clear z); clear_value z])
    | (extract_lets +onlyGivenNames z; refine both (A := ∀ a b, Kept s0 (z a b)) ?_ (fun hf => ?_) <;> [(dsimp -zeta only [z]; clear z); clear_value z])
    | (extract_lets +onlyGivenNames z; refine both (A := ∀ a, Kept s0 (z a)) ?_ (fun hf => ?_) <;> [(dsimp -zeta only [z]; clear z); clear_value z])
    | (extract_lets +onlyGivenNames z; refine both (A := ∀ a b c d, Kept s0 a → Kept s0 (z a b c d)) ?_ (fun hf => ?_) <;> [(dsimp -zeta only [z]; clear z); clear_value z])
    | (extract_lets +onlyGivenNames z; refine both (A := ∀ a b c, Kept s0 a → Kept s0 (z a b c)) ?_ (fun hf => ?_) <;> [(dsimp -zeta only [z]; clear z); clear_value z])
    | (extract_lets +onlyGivenNames z; refine both (A := ∀ a b, Kept s0 a → Kept s0 (z a b)) ?_ (fun hf => ?_) <;> [(dsimp -zeta only [z]; clear z); clear_value z])
    | (extract_lets +onlyGivenNames z; refine both (A := ∀ a, Kept s0 a → Kept s0 (z a)) ?_ (fun hf => ?_) <;> [(dsimp -zeta only [z]; clear z); clear_value z])
    | (extract_lets +onlyGivenNames z; clear_value z)
    | split)

theorem execModelCreate_kept {s0 : State} (h : Hdr) (mid : Nat) (ntensor : Nat) (addr : Nat) (hdrs : Nat) (pages : Nat) (s : State) (hs1 : Kept s0 s) :
    KeptO s0 (execModelCreate h mid ntensor addr hdrs pages s) := by
  unfold execModelCreate
  repeat' (first
    | with_reducible assumption
    | fail_if_no_progress with_reducible refine Kept.lit ?_
    | with_reducible apply reclaimLends_kept
    | with_reducible apply hostCmd_kept
    | with_reducible apply reply_kept
    | with_reducible apply mapPages_kept
    | with_reducible refine KeptO.next ?_
    | with_reducible refine ite_keeps (P := Kept s0) ?_ ?_
    | with_reducible refine ite_keeps (P := KeptO s0) ?_ ?_
    | (intro y; intros))

theorem execModelSeal_kept {s0 : State} (h : Hdr) (mid : Nat) (crcs : Nat) (s : State) (hs1 : Kept s0 s) :
    KeptO s0 (execModelSeal h mid crcs s) := by
  unfold execModelSeal
  repeat' (first
    | with_reducible assumption
    | fail_if_no_progress with_reducible refine Kept.lit ?_
    | with_reducible apply hostCmd_kept
    | with_reducible apply reply_kept
    | with_reducible apply setModel_kept
    | with_reducible apply deferCmd_kept
    | with_reducible refine KeptO.next ?_
    | with_reducible refine ite_keeps (P := Kept s0) ?_ ?_
    | with_reducible refine ite_keeps (P := KeptO s0) ?_ ?_
    | (intro y; intros)
    | (extract_lets +onlyGivenNames z; refine both (A := Kept s0 z) ?_ (fun hz => ?_) <;> [(dsimp -zeta only [z]; clear z); clear_value z])
    | split)

theorem recordCrcs_kept {s0 : State} (s : State) (b : Nat) (ps : List Nat) (hs1 : Kept s0 s) :
    Kept s0 (recordCrcs s b ps) := by
  unfold recordCrcs
  repeat' (first
    | with_reducible assumption
    | fail_if_no_progress with_reducible refine Kept.lit ?_
    | with_reducible apply setPage_kept
    | with_reducible refine KeptO.next ?_
    | with_reducible refine ite_keeps (P := Kept s0) ?_ ?_
    | with_reducible refine ite_keeps (P := KeptO s0) ?_ ?_
    | (intro y; intros)
    | with_reducible refine foldl_kept ?_ (fun s x hs => ?_))

theorem execSealVerifyComplete_kept {s0 : State} (basin : Nat) (mid : Nat) (s : State) (hs1 : Kept s0 s) :
    KeptO s0 (execSealVerifyComplete basin mid s) := by
  unfold execSealVerifyComplete
  repeat' (first
    | with_reducible assumption
    | fail_if_no_progress with_reducible refine Kept.lit ?_
    | with_reducible apply recordCrcs_kept
    | with_reducible apply setModel_kept
    | with_reducible apply answerDeferred_kept
    | with_reducible refine KeptO.next ?_
    | with_reducible refine ite_keeps (P := Kept s0) ?_ ?_
    | with_reducible refine ite_keeps (P := KeptO s0) ?_ ?_
    | (intro y; intros)
    | split)

theorem execModelDelete_kept {s0 : State} (h : Hdr) (mid : Nat) (s : State) (hs1 : Kept s0 s) :
    KeptO s0 (execModelDelete h mid s) := by
  unfold execModelDelete
  repeat' (first
    | with_reducible assumption
    | fail_if_no_progress with_reducible refine Kept.lit ?_
    | with_reducible apply hostCmd_kept
    | with_reducible apply reply_kept
    | with_reducible apply setModel_kept
    | with_reducible apply sweepKv_kept
    | with_reducible apply closeTrees_kept
    | with_reducible apply dropDeleted_kept
    | with_reducible apply clearDeleted_kept
    | with_reducible refine KeptO.next ?_
    | with_reducible refine ite_keeps (P := Kept s0) ?_ ?_
    | with_reducible refine ite_keeps (P := KeptO s0) ?_ ?_
    | (intro y; intros)
    | (extract_lets +onlyGivenNames z; refine both (A := Kept s0 z) ?_ (fun hz => ?_) <;> [(dsimp -zeta only [z]; clear z); clear_value z])
    | (extract_lets +onlyGivenNames z; clear_value z)
    | split)

theorem execModelQuery_kept {s0 : State} (h : Hdr) (mid : Nat) (s : State) (hs1 : Kept s0 s) :
    KeptO s0 (execModelQuery h mid s) := by
  unfold execModelQuery
  repeat' (first
    | with_reducible assumption
    | fail_if_no_progress with_reducible refine Kept.lit ?_
    | with_reducible apply hostCmd_kept
    | with_reducible apply reply_kept
    | with_reducible refine KeptO.next ?_
    | with_reducible refine ite_keeps (P := Kept s0) ?_ ?_
    | with_reducible refine ite_keeps (P := KeptO s0) ?_ ?_
    | (intro y; intros)
    | (extract_lets +onlyGivenNames z; refine both (A := Kept s0 z) ?_ (fun hz => ?_) <;> [(dsimp -zeta only [z]; clear z); clear_value z])
    | (extract_lets +onlyGivenNames z; clear_value z)
    | split)

theorem raiseRefetch_kept {s0 : State} (s : State) (e : PageEnt) (hs1 : Kept s0 s) :
    Kept s0 (raiseRefetch s e) := by
  unfold raiseRefetch
  repeat' (first
    | with_reducible assumption
    | fail_if_no_progress with_reducible refine Kept.lit ?_
    | with_reducible apply raiseTrunk_kept)

theorem askRefetch_kept {s0 : State} (s : State) (e : PageEnt) (hs1 : Kept s0 s) :
    Kept s0 (askRefetch s e) := by
  unfold askRefetch
  repeat' (first
    | with_reducible assumption
    | fail_if_no_progress with_reducible refine Kept.lit ?_
    | with_reducible apply dropCopy_kept
    | with_reducible apply raiseRefetch_kept
    | with_reducible refine KeptO.next ?_
    | with_reducible refine ite_keeps (P := Kept s0) ?_ ?_)

theorem repairPage_kept {s0 : State} (s : State) (e : PageEnt) (data : List Byte) (crc : Nat) (source : Nat) (hs1 : Kept s0 s) :
    Kept s0 (repairPage s e data crc source) := by
  unfold repairPage
  repeat' (first
    | with_reducible apply memPut_wf
    | dsimp -zeta only
    | with_reducible apply memPuts_wf
    | with_reducible apply memClear_wf
    | with_reducible refine Kept.mem (s0 := s0) ?_
    | with_reducible assumption
    | fail_if_no_progress with_reducible refine Kept.lit ?_
    | with_reducible apply takeFrame_kept
    | with_reducible apply askRefetch_kept
    | with_reducible apply retireFrame_kept
    | with_reducible apply setPage_kept
    | with_reducible apply releaseFrame_kept
    | with_reducible apply noteRetiring_kept
    | with_reducible apply raiseTrunk_kept
    | with_reducible apply askCopies_kept
    | with_reducible apply unblockVariants_kept
    | with_reducible refine KeptO.next ?_
    | with_reducible refine ite_keeps (P := Kept s0) ?_ ?_
    | with_reducible refine ite_keeps (P := KeptO s0) ?_ ?_
    | (intro y; intros)
    | (extract_lets +onlyGivenNames z; refine both (A := Kept s0 z) ?_ (fun hz => ?_) <;> [(dsimp -zeta only [z]; clear z); clear_value z])
    | (extract_lets +onlyGivenNames z; clear_value z)
    | (split <;> try (rename_i he; have hk := congrArg Prod.snd he; dsimp -zeta only at hk; subst hk))
    | with_reducible refine Kept.litMem ?_ ?_)

theorem execModelRepair_kept {s0 : State} (h : Hdr) (mid : Nat) (page : Nat) (crc : Nat) (data : List Byte) (s : State) (hs1 : Kept s0 s) :
    KeptO s0 (execModelRepair h mid page crc data s) := by
  unfold execModelRepair
  repeat' (first
    | with_reducible assumption
    | fail_if_no_progress with_reducible refine Kept.lit ?_
    | with_reducible apply hostCmd_kept
    | with_reducible apply reply_kept
    | with_reducible apply repairPage_kept
    | with_reducible refine KeptO.next ?_
    | with_reducible refine ite_keeps (P := Kept s0) ?_ ?_
    | with_reducible refine ite_keeps (P := KeptO s0) ?_ ?_
    | (intro y; intros)
    | (extract_lets +onlyGivenNames z; refine both (A := Kept s0 z) ?_ (fun hz => ?_) <;> [(dsimp -zeta only [z]; clear z); clear_value z])
    | (extract_lets +onlyGivenNames z; clear_value z)
    | split)

theorem addVerify_kept {s0 : State} (s : State) (x : Verify) (hs1 : Kept s0 s) :
    Kept s0 (addVerify s x) := by
  unfold addVerify
  repeat' (first
    | with_reducible assumption
    | fail_if_no_progress with_reducible refine Kept.lit ?_)

theorem execVariantCreate_kept {s0 : State} (h : Hdr) (vid : Nat) (setPages : Nat) (set : Nat) (crcs : Nat) (daddr : Nat) (dlen : Nat) (s : State) (hs1 : Kept s0 s) :
    KeptO s0 (execVariantCreate h vid setPages set crcs daddr dlen s) := by
  unfold execVariantCreate
  repeat' (first
    | with_reducible assumption
    | fail_if_no_progress with_reducible refine Kept.lit ?_
    | with_reducible apply hostCmd_kept
    | with_reducible apply reply_kept
    | with_reducible apply deferCmd_kept
    | with_reducible apply addVerify_kept
    | with_reducible refine KeptO.next ?_
    | with_reducible refine ite_keeps (P := Kept s0) ?_ ?_
    | with_reducible refine ite_keeps (P := KeptO s0) ?_ ?_
    | (intro y; intros))

theorem execVariantUpdate_kept {s0 : State} (h : Hdr) (vid : Nat) (setPages : Nat) (set : Nat) (crcs : Nat) (daddr : Nat) (dlen : Nat) (s : State) (hs1 : Kept s0 s) :
    KeptO s0 (execVariantUpdate h vid setPages set crcs daddr dlen s) := by
  unfold execVariantUpdate
  repeat' (first
    | with_reducible assumption
    | fail_if_no_progress with_reducible refine Kept.lit ?_
    | with_reducible apply hostCmd_kept
    | with_reducible apply reply_kept
    | with_reducible apply deferCmd_kept
    | with_reducible apply addVerify_kept
    | with_reducible refine KeptO.next ?_
    | with_reducible refine ite_keeps (P := Kept s0) ?_ ?_
    | with_reducible refine ite_keeps (P := KeptO s0) ?_ ?_
    | (intro y; intros))

theorem setPending_kept {s0 : State} (s : State) (b : Nat) (vid : Nat) (g : GenSet) (hs1 : Kept s0 s) :
    Kept s0 (setPending s b vid g) := by
  unfold setPending
  repeat' (first
    | with_reducible assumption
    | fail_if_no_progress with_reducible refine Kept.lit ?_
    | with_reducible apply unmapPages_kept
    | with_reducible apply setVariant_kept
    | with_reducible refine KeptO.next ?_
    | with_reducible refine ite_keeps (P := Kept s0) ?_ ?_
    | with_reducible refine ite_keeps (P := KeptO s0) ?_ ?_
    | (intro y; intros)
    | split)

theorem execDeltaVerifyComplete_kept {s0 : State} (basin : Nat) (vid : Nat) (s : State) (hs1 : Kept s0 s) :
    KeptO s0 (execDeltaVerifyComplete basin vid s) := by
  unfold execDeltaVerifyComplete
  repeat' (first
    | with_reducible assumption
    | with_reducible apply hf
    | fail_if_no_progress with_reducible refine Kept.lit ?_
    | with_reducible apply recordCrcs_kept
    | with_reducible apply resetBlocked_kept
    | with_reducible apply setPending_kept
    | with_reducible apply setVariant_kept
    | with_reducible apply raise_kept
    | with_reducible apply answerDeferred_kept
    | with_reducible refine KeptO.next ?_
    | with_reducible refine ite_keeps (P := Kept s0) ?_ ?_
    | with_reducible refine ite_keeps (P := KeptO s0) ?_ ?_
    | (intro y; intros)
    | (extract_lets +onlyGivenNames z; refine both (A := Kept s0 z) ?_ (fun hz => ?_) <;> [(dsimp -zeta only [z]; clear z); clear_value z])
    | (extract_lets +onlyGivenNames z; refine both (A := ∀ a b c, Kept s0 (z a b c)) ?_ (fun hf => ?_) <;> [(dsimp -zeta only [z]; clear z); clear_value z])
    | (extract_lets +onlyGivenNames z; refine both (A := ∀ a b, Kept s0 (z a b)) ?_ (fun hf => ?_) <;> [(dsimp -zeta only [z]; clear z); clear_value z])
    | (extract_lets +onlyGivenNames z; refine both (A := ∀ a, Kept s0 (z a)) ?_ (fun hf => ?_) <;> [(dsimp -zeta only [z]; clear z); clear_value z])
    | (extract_lets +onlyGivenNames z; refine both (A := ∀ a b c d, Kept s0 a → Kept s0 (z a b c d)) ?_ (fun hf => ?_) <;> [(dsimp -zeta only [z]; clear z); clear_value z])
    | (extract_lets +onlyGivenNames z; refine both (A := ∀ a b c, Kept s0 a → Kept s0 (z a b c)) ?_ (fun hf => ?_) <;> [(dsimp -zeta only [z]; clear z); clear_value z])
    | (extract_lets +onlyGivenNames z; refine both (A := ∀ a b, Kept s0 a → Kept s0 (z a b)) ?_ (fun hf => ?_) <;> [(dsimp -zeta only [z]; clear z); clear_value z])
    | (extract_lets +onlyGivenNames z; refine both (A := ∀ a, Kept s0 a → Kept s0 (z a)) ?_ (fun hf => ?_) <;> [(dsimp -zeta only [z]; clear z); clear_value z])
    | (extract_lets +onlyGivenNames z; refine both (A := ∀ a b c, KeptO s0 (z a b c)) ?_ (fun hf => ?_) <;> [(dsimp -zeta only [z]; clear z); clear_value z])
    | (extract_lets +onlyGivenNames z; refine both (A := ∀ a b, KeptO s0 (z a b)) ?_ (fun hf => ?_) <;> [(dsimp -zeta only [z]; clear z); clear_value z])
    | (extract_lets +onlyGivenNames z; refine both (A := ∀ a, KeptO s0 (z a)) ?_ (fun hf => ?_) <;> [(dsimp -zeta only [z]; clear z); clear_value z])
    | (extract_lets +onlyGivenNames z; refine both (A := ∀ a b, Kept s0 a → KeptO s0 (z a b)) ?_ (fun hf => ?_) <;> [(dsimp -zeta only [z]; clear z); clear_value z])
    | (extract_lets +onlyGivenNames z; refine both (A := ∀ a, Kept s0 a → KeptO s0 (z a)) ?_ (fun hf => ?_) <;> [(dsimp -zeta only [z]; clear z); clear_value z])
    | (extract_lets +onlyGivenNames z; clear_value z)
    | split)

theorem execVariantDelete_kept {s0 : State} (h : Hdr) (vid : Nat) (s : State) (hs1 : Kept s0 s) :
    KeptO s0 (execVariantDelete h vid s) := by
  unfold execVariantDelete
  repeat' (first
    | with_reducible assumption
    | fail_if_no_progress with_reducible refine Kept.lit ?_
    | with_reducible apply hostCmd_kept
    | with_reducible apply reply_kept
    | with_reducible apply answerDeferred_kept
    | with_reducible apply setVariant_kept
    | with_reducible apply voidVids_kept
    | with_reducible apply sweepKv_kept
    | with_reducible apply closeTrees_kept
    | with_reducible apply clearRetiring_kept
    | with_reducible refine KeptO.next ?_
    | with_reducible refine ite_keeps (P := Kept s0) ?_ ?_
    | with_reducible refine ite_keeps (P := KeptO s0) ?_ ?_
    | (intro y; intros)
    | (extract_lets +onlyGivenNames z; refine both (A := Kept s0 z) ?_ (fun hz => ?_) <;> [(dsimp -zeta only [z]; clear z); clear_value z])
    | (extract_lets +onlyGivenNames z; clear_value z)
    | split)

theorem execVariantRetireComplete_kept {s0 : State} (basin : Nat) (vid : Nat) (s : State) (hs1 : Kept s0 s) :
    KeptO s0 (execVariantRetireComplete basin vid s) := by
  unfold execVariantRetireComplete
  repeat' (first
    | with_reducible assumption
    | fail_if_no_progress with_reducible refine Kept.lit ?_
    | with_reducible refine KeptO.next ?_
    | with_reducible refine ite_keeps (P := Kept s0) ?_ ?_
    | with_reducible refine ite_keeps (P := KeptO s0) ?_ ?_
    | (intro y; intros)
    | (extract_lets +onlyGivenNames z; refine both (A := Kept s0 z) ?_ (fun hz => ?_) <;> [(dsimp -zeta only [z]; clear z); clear_value z])
    | (extract_lets +onlyGivenNames z; clear_value z)
    | split)

theorem execVariantPin_kept {s0 : State} (h : Hdr) (vid : Nat) (pin : Nat) (s : State) (hs1 : Kept s0 s) :
    KeptO s0 (execVariantPin h vid pin s) := by
  unfold execVariantPin
  repeat' (first
    | with_reducible assumption
    | fail_if_no_progress with_reducible refine Kept.lit ?_
    | with_reducible apply hostCmd_kept
    | with_reducible apply reply_kept
    | with_reducible apply unpinVoid_kept
    | with_reducible apply setVariant_kept
    | with_reducible apply askCopies_kept
    | with_reducible apply setModel_kept
    | with_reducible refine KeptO.next ?_
    | with_reducible refine ite_keeps (P := Kept s0) ?_ ?_
    | with_reducible refine ite_keeps (P := KeptO s0) ?_ ?_
    | (intro y; intros)
    | (extract_lets +onlyGivenNames z; refine both (A := Kept s0 z) ?_ (fun hz => ?_) <;> [(dsimp -zeta only [z]; clear z); clear_value z])
    | (extract_lets +onlyGivenNames z; clear_value z)
    | split)

theorem execVariantQuery_kept {s0 : State} (h : Hdr) (vid : Nat) (s : State) (hs1 : Kept s0 s) :
    KeptO s0 (execVariantQuery h vid s) := by
  unfold execVariantQuery
  repeat' (first
    | with_reducible assumption
    | fail_if_no_progress with_reducible refine Kept.lit ?_
    | with_reducible apply hostCmd_kept
    | with_reducible apply reply_kept
    | with_reducible refine KeptO.next ?_
    | with_reducible refine ite_keeps (P := Kept s0) ?_ ?_
    | with_reducible refine ite_keeps (P := KeptO s0) ?_ ?_
    | (intro y; intros)
    | split)

theorem execVariantPrefetch_kept {s0 : State} (h : Hdr) (vid : Nat) (s : State) (hs1 : Kept s0 s) :
    KeptO s0 (execVariantPrefetch h vid s) := by
  unfold execVariantPrefetch
  repeat' (first
    | with_reducible assumption
    | fail_if_no_progress with_reducible refine Kept.lit ?_
    | with_reducible apply hostCmd_kept
    | with_reducible apply reply_kept
    | with_reducible apply deferCmd_kept
    | with_reducible refine KeptO.next ?_
    | with_reducible refine ite_keeps (P := Kept s0) ?_ ?_
    | with_reducible refine ite_keeps (P := KeptO s0) ?_ ?_
    | (intro y; intros)
    | split)

theorem execMaterialisationStart_kept {s0 : State} (basin : Nat) (vid : Nat) (s : State) (hs1 : Kept s0 s) :
    KeptO s0 (execMaterialisationStart basin vid s) := by
  unfold execMaterialisationStart
  repeat' (first
    | with_reducible assumption
    | fail_if_no_progress with_reducible refine Kept.lit ?_
    | with_reducible apply setVariant_kept
    | with_reducible apply blockVariant_kept
    | with_reducible apply askCopies_kept
    | with_reducible refine KeptO.next ?_
    | with_reducible refine ite_keeps (P := Kept s0) ?_ ?_
    | with_reducible refine ite_keeps (P := KeptO s0) ?_ ?_
    | (intro y; intros)
    | split)

theorem makeGen_kept {s0 : State} (s : State) (m : Model) (g : GenSet) (hs1 : Kept s0 s) :
    Kept s0 (makeGen s m g) := by
  unfold makeGen
  repeat' (first
    | with_reducible assumption
    | fail_if_no_progress with_reducible refine Kept.lit ?_
    | with_reducible apply setPage_kept
    | with_reducible apply placeDerived_kept
    | with_reducible refine KeptO.next ?_
    | with_reducible refine ite_keeps (P := Kept s0) ?_ ?_
    | with_reducible refine ite_keeps (P := KeptO s0) ?_ ?_
    | (intro y; intros)
    | with_reducible refine foldl_kept ?_ (fun s x hs => ?_))

theorem dropBadDerived_kept {s0 : State} (s : State) (b : Nat) (g : GenSet) (hs1 : Kept s0 s) :
    Kept s0 (dropBadDerived s b g) := by
  unfold dropBadDerived
  repeat' (first
    | with_reducible assumption
    | fail_if_no_progress with_reducible refine Kept.lit ?_
    | with_reducible apply unmapPages_kept)

theorem dropLostDerived_kept {s0 : State} (s : State) (b : Nat) (hs1 : Kept s0 s) :
    Kept s0 (dropLostDerived s b) := by
  unfold dropLostDerived
  repeat' (first
    | with_reducible assumption
    | fail_if_no_progress with_reducible refine Kept.lit ?_
    | with_reducible apply unmapPages_kept)

theorem execMaterialisationComplete_kept {s0 : State} (basin : Nat) (vid : Nat) (s : State) (hs1 : Kept s0 s) :
    KeptO s0 (execMaterialisationComplete basin vid s) := by
  unfold execMaterialisationComplete
  repeat' (first
    | with_reducible assumption
    | fail_if_no_progress with_reducible refine Kept.lit ?_
    | with_reducible apply dropBadDerived_kept
    | with_reducible apply blockVariant_kept
    | with_reducible apply failedRead_kept
    | with_reducible apply setVariant_kept
    | with_reducible apply makeGen_kept
    | with_reducible apply answerDeferred_kept
    | with_reducible refine KeptO.next ?_
    | with_reducible refine ite_keeps (P := Kept s0) ?_ ?_
    | with_reducible refine ite_keeps (P := KeptO s0) ?_ ?_
    | (intro y; intros)
    | (extract_lets +onlyGivenNames z; refine both (A := Kept s0 z) ?_ (fun hz => ?_) <;> [(dsimp -zeta only [z]; clear z); clear_value z])
    | (extract_lets +onlyGivenNames z; clear_value z)
    | split)

end Sys2Proof.Laws
end

