-- ==== Sys2Proof/Laws/KeptAccess.lean ====
section
/-! SUPPORT. What the functions of Machine/Access.lean keep: the waiting commands and memory's canonical form. -/

namespace Sys2Proof.Laws

open Sys2Proof Sys2Proof.Machine

theorem setStep_kept {s0 : State} (s : State) (sid : Nat) (f : Step → Step) (hs1 : Kept s0 s) :
    Kept s0 (setStep s sid f) := by
  unfold setStep
  repeat' (first
    | with_reducible assumption
    | fail_if_no_progress with_reducible refine Kept.lit ?_)

theorem setUnits_kept {s0 : State} (s : State) (sid : Nat) (f : Units → Units) (hs1 : Kept s0 s) :
    Kept s0 (setUnits s sid f) := by
  unfold setUnits
  repeat' (first
    | with_reducible assumption
    | fail_if_no_progress with_reducible refine Kept.lit ?_
    | with_reducible apply setStep_kept)

theorem haltUnit_kept {s0 : State} (s : State) (sid : Nat) (unit : Nat) (hs1 : Kept s0 s) :
    Kept s0 (haltUnit s sid unit) := by
  unfold haltUnit
  repeat' (first
    | with_reducible assumption
    | fail_if_no_progress with_reducible refine Kept.lit ?_
    | with_reducible apply setUnits_kept)

theorem stepFlt_kept {s0 : State} (s : State) (t : Step) (f : Flt) (hs1 : Kept s0 s) :
    Kept s0 (stepFlt s t f) := by
  unfold stepFlt
  repeat' (first
    | with_reducible assumption
    | fail_if_no_progress with_reducible refine Kept.lit ?_
    | with_reducible apply stepFaultRecord_kept
    | with_reducible apply setStep_kept)

theorem descFault_kept {s0 : State} (s : State) (t : Step) (src : Nat) (status : Nat) (i : Nat) (addr : Nat) (hs1 : Kept s0 s) :
    Kept s0 (descFault s t src status i addr) := by
  unfold descFault
  repeat' (first
    | with_reducible assumption
    | fail_if_no_progress with_reducible refine Kept.lit ?_
    | with_reducible apply stepFlt_kept)

theorem unitFault_kept {s0 : State} (s : State) (t : Step) (src : Nat) (unit : Nat) (status : Nat) (i : Nat) (addr : Nat) (hs1 : Kept s0 s) :
    Kept s0 (unitFault s t src unit status i addr) := by
  unfold unitFault
  repeat' (first
    | with_reducible assumption
    | fail_if_no_progress with_reducible refine Kept.lit ?_
    | with_reducible apply haltUnit_kept
    | with_reducible apply descFault_kept)

theorem countUnit_kept {s0 : State} (s : State) (place : Nat) (field : Nat) (hs1 : Kept s0 s) :
    Kept s0 (countUnit s place field) := by
  unfold countUnit
  repeat' (first
    | with_reducible assumption
    | fail_if_no_progress with_reducible refine Kept.lit ?_
    | with_reducible apply count_kept
    | with_reducible refine KeptO.next ?_
    | with_reducible refine ite_keeps (P := Kept s0) ?_ ?_)

theorem setEddy_kept {s0 : State} (s : State) (sid : Nat) (eid : Nat) (f : Eddy → Eddy) (hs1 : Kept s0 s) :
    Kept s0 (setEddy s sid eid f) := by
  unfold setEddy
  repeat' (first
    | with_reducible assumption
    | fail_if_no_progress with_reducible refine Kept.lit ?_
    | with_reducible apply setUnits_kept)

theorem putBack_kept {s0 : State} (t : Step) (s : State) (x : Nat × List Byte) (hs1 : Kept s0 s) :
    Kept s0 (putBack t s x) := by
  unfold putBack
  repeat' (first
    | with_reducible apply memPut_wf
    | with_reducible apply memPuts_wf
    | with_reducible apply memClear_wf
    | with_reducible refine Kept.mem (s0 := s0) ?_
    | with_reducible assumption
    | fail_if_no_progress with_reducible refine Kept.lit ?_
    | with_reducible refine KeptO.next ?_
    | with_reducible refine ite_keeps (P := Kept s0) ?_ ?_
    | with_reducible refine ite_keeps (P := KeptO s0) ?_ ?_
    | (intro y; intros)
    | with_reducible refine foldl_kept ?_ (fun s x hs => ?_)
    | split
    | with_reducible refine Kept.litMem ?_ ?_)

theorem stopStep_kept {s0 : State} (s : State) (t : Step) (status : Nat) (hs1 : Kept s0 s) :
    Kept s0 (stopStep s t status) := by
  unfold stopStep
  repeat' (first
    | with_reducible assumption
    | fail_if_no_progress with_reducible refine Kept.lit ?_
    | with_reducible apply putBack_kept
    | with_reducible apply setStep_kept
    | with_reducible apply revokeJob_kept
    | with_reducible apply clearJob_kept
    | with_reducible apply closeWindows_kept
    | with_reducible refine KeptO.next ?_
    | with_reducible refine ite_keeps (P := Kept s0) ?_ ?_
    | with_reducible refine ite_keeps (P := KeptO s0) ?_ ?_
    | (intro y; intros)
    | with_reducible refine foldl_kept ?_ (fun s x hs => ?_))

theorem endPoisoned_kept {s0 : State} (s : State) (t : Step) (hit : List Nat) (hs1 : Kept s0 s) :
    Kept s0 (endPoisoned s t hit) := by
  unfold endPoisoned
  repeat' (first
    | with_reducible assumption
    | fail_if_no_progress with_reducible refine Kept.lit ?_
    | with_reducible apply endJob_kept
    | with_reducible apply setJob_kept)

theorem touch_kept {s0 : State} (s : State) (b : Nat) (page : Nat) (hs1 : Kept s0 s) :
    Kept s0 (touch s b page) := by
  unfold touch
  repeat' (first
    | with_reducible assumption
    | fail_if_no_progress with_reducible refine Kept.lit ?_
    | with_reducible apply setPage_kept
    | with_reducible refine KeptO.next ?_
    | with_reducible refine ite_keeps (P := Kept s0) ?_ ?_)

theorem lentRead_kept {s0 : State} (s : State) (t : Step) (unit : Nat) (page : Nat) (addr : Nat) (hs1 : Kept s0 s) :
    Kept s0 (lentRead s t unit page addr).2 := by
  unfold lentRead
  repeat' (first
    | with_reducible assumption
    | dsimp -zeta only
    | with_reducible refine ite_keeps (P := fun p => Kept s0 p.2) ?_ ?_
    | fail_if_no_progress with_reducible refine Kept.lit ?_
    | with_reducible apply lentGet_kept
    | with_reducible refine KeptO.next ?_
    | with_reducible refine ite_keeps (P := Kept s0) ?_ ?_
    | with_reducible refine ite_keeps (P := KeptO s0) ?_ ?_
    | (split <;> try (rename_i he; have hk := congrArg Prod.snd he; dsimp -zeta only at hk; subst hk)))

theorem touchUnit_kept {s0 : State} (s : State) (a : Acc3) (isWrite : Bool) (addr : Nat) (hs1 : Kept s0 s) :
    Kept s0 (gotState (touchUnit s a isWrite addr)) := by
  unfold touchUnit
  repeat' (first
    | with_reducible assumption
    | dsimp -zeta only [gotState_ok, gotState_stop]
    | with_reducible refine ite_keeps (P := fun g => Kept s0 (gotState g)) ?_ ?_
    | dsimp -zeta only
    | with_reducible apply hf
    | fail_if_no_progress with_reducible refine Kept.lit ?_
    | with_reducible apply haltUnit_kept
    | with_reducible apply descFault_kept
    | with_reducible apply lentRead_kept
    | with_reducible apply touch_kept
    | with_reducible apply countUnit_kept
    | with_reducible apply count_kept
    | with_reducible apply setEddy_kept
    | with_reducible apply stepFlt_kept
    | with_reducible refine KeptO.next ?_
    | with_reducible refine ite_keeps (P := Kept s0) ?_ ?_
    | with_reducible refine ite_keeps (P := KeptO s0) ?_ ?_
    | (intro y; intros)
    | (extract_lets +onlyGivenNames z; refine both (A := Kept s0 z) ?_ (fun hz => ?_) <;> [(dsimp -zeta only [z]; clear z); clear_value z])
    | (extract_lets +onlyGivenNames z; refine both (A := Kept s0 (gotState z)) ?_ (fun hf => ?_) <;> [(dsimp -zeta only [z]; clear z); clear_value z])
    | (extract_lets +onlyGivenNames z; refine both (A := ∀ a b c, Kept s0 a → Kept s0 (gotState (z a b c))) ?_ (fun hf => ?_) <;> [(dsimp -zeta only [z]; clear z); clear_value z])
    | (extract_lets +onlyGivenNames z; refine both (A := ∀ a b, Kept s0 a → Kept s0 (gotState (z a b))) ?_ (fun hf => ?_) <;> [(dsimp -zeta only [z]; clear z); clear_value z])
    | (extract_lets +onlyGivenNames z; refine both (A := ∀ a b c, Kept s0 (z a b c)) ?_ (fun hf => ?_) <;> [(dsimp -zeta only [z]; clear z); clear_value z])
    | (extract_lets +onlyGivenNames z; refine both (A := ∀ a b, Kept s0 (z a b)) ?_ (fun hf => ?_) <;> [(dsimp -zeta only [z]; clear z); clear_value z])
    | (extract_lets +onlyGivenNames z; refine both (A := ∀ a, Kept s0 (z a)) ?_ (fun hf => ?_) <;> [(dsimp -zeta only [z]; clear z); clear_value z])
    | (extract_lets +onlyGivenNames z; refine both (A := ∀ a b c d, Kept s0 a → Kept s0 (z a b c d)) ?_ (fun hf => ?_) <;> [(dsimp -zeta only [z]; clear z); clear_value z])
    | (extract_lets +onlyGivenNames z; refine both (A := ∀ a b c, Kept s0 a → Kept s0 (z a b c)) ?_ (fun hf => ?_) <;> [(dsimp -zeta only [z]; clear z); clear_value z])
    | (extract_lets +onlyGivenNames z; refine both (A := ∀ a b, Kept s0 a → Kept s0 (z a b)) ?_ (fun hf => ?_) <;> [(dsimp -zeta only [z]; clear z); clear_value z])
    | (extract_lets +onlyGivenNames z; refine both (A := ∀ a, Kept s0 a → Kept s0 (z a)) ?_ (fun hf => ?_) <;> [(dsimp -zeta only [z]; clear z); clear_value z])
    | (extract_lets +onlyGivenNames z; clear_value z)
    | (split <;> try (rename_i he; have hk := congrArg Prod.snd he; dsimp -zeta only at hk; subst hk)))

theorem lentTraffic_kept {s0 : State} (s : State) (place : Nat) (hs1 : Kept s0 s) :
    Kept s0 (lentTraffic s place) := by
  unfold lentTraffic
  repeat' (first
    | with_reducible assumption
    | fail_if_no_progress with_reducible refine Kept.lit ?_
    | with_reducible apply lentUnit_kept
    | with_reducible refine KeptO.next ?_
    | with_reducible refine ite_keeps (P := Kept s0) ?_ ?_
    | with_reducible refine ite_keeps (P := KeptO s0) ?_ ?_
    | (extract_lets +onlyGivenNames z; refine both (A := Kept s0 z) ?_ (fun hz => ?_) <;> [(dsimp -zeta only [z]; clear z); clear_value z])
    | (extract_lets +onlyGivenNames z; clear_value z)
    | split)

theorem keepPiece_kept {s0 : State} (s : State) (a : Acc3) (isWrite : Bool) (cuts : List (Nat × Nat)) (done : Nat) (bytes : List Byte) (hs1 : Kept s0 s) :
    Kept s0 (keepPiece s a isWrite cuts done bytes) := by
  unfold keepPiece
  repeat' (first
    | with_reducible assumption
    | fail_if_no_progress with_reducible refine Kept.lit ?_
    | with_reducible apply setUnits_kept)

theorem endPiece_kept {s0 : State} (s : State) (a : Acc3) (hs1 : Kept s0 s) :
    Kept s0 (endPiece s a) := by
  unfold endPiece
  repeat' (first
    | with_reducible assumption
    | fail_if_no_progress with_reducible refine Kept.lit ?_
    | with_reducible apply setUnits_kept)

theorem readCuts_kept {s0 : State} (a : Acc3) (cuts : List (Nat × Nat)) (z0 : Nat) (z1 : List Byte) (z2 : List (Nat × Nat)) (z3 : State) (hs1 : Kept s0 z3) :
    Kept s0 (gotState (readCuts a cuts z0 z1 z2 z3)) := by
  induction z2 generalizing a cuts z0 z1 z3 with
  | nil =>
    first | rw [readCuts] | (rw [readCuts.eq_def]; dsimp -zeta only)
    repeat' (first
      | with_reducible assumption
      | dsimp -zeta only [gotState_ok, gotState_stop])
  | cons x l ih =>
    first | rw [readCuts] | (rw [readCuts.eq_def]; dsimp -zeta only)
    repeat' (first
      | with_reducible assumption
      | with_reducible apply ih
      | dsimp -zeta only [gotState_ok, gotState_stop]
      | with_reducible refine ite_keeps (P := fun g => Kept s0 (gotState g)) ?_ ?_
      | fail_if_no_progress with_reducible refine Kept.lit ?_
      | with_reducible apply touchUnit_kept
      | with_reducible apply keepPiece_kept
      | with_reducible refine KeptO.next ?_
      | with_reducible refine ite_keeps (P := Kept s0) ?_ ?_
      | with_reducible refine ite_keeps (P := KeptO s0) ?_ ?_
      | (split <;> try (rename_i he; have hk := congrArg gotState he; dsimp -zeta only [gotState_ok, gotState_stop] at hk; subst hk)))

theorem writeCuts_kept {s0 : State} (a : Acc3) (cuts : List (Nat × Nat)) (z0 : Nat) (z1 : List (Nat × Nat)) (z2 : List Byte) (z3 : State) (hs1 : Kept s0 z3) :
    Kept s0 (gotState (writeCuts a cuts z0 z1 z2 z3)) := by
  induction z1 generalizing a cuts z0 z2 z3 with
  | nil =>
    first | rw [writeCuts] | (rw [writeCuts.eq_def]; dsimp -zeta only)
    repeat' (first
      | with_reducible apply memPut_wf
      | dsimp -zeta only [gotState_ok, gotState_stop]
      | with_reducible refine ite_keeps (P := fun g => Kept s0 (gotState g)) ?_ ?_
      | with_reducible apply memPuts_wf
      | with_reducible apply memClear_wf
      | with_reducible refine Kept.mem (s0 := s0) ?_
      | with_reducible assumption)
  | cons x l ih =>
    first | rw [writeCuts] | (rw [writeCuts.eq_def]; dsimp -zeta only)
    repeat' (first
      | with_reducible apply memPut_wf
      | with_reducible apply ih
      | dsimp -zeta only [gotState_ok, gotState_stop]
      | with_reducible refine ite_keeps (P := fun g => Kept s0 (gotState g)) ?_ ?_
      | with_reducible apply memPuts_wf
      | with_reducible apply memClear_wf
      | with_reducible refine Kept.mem (s0 := s0) ?_
      | with_reducible assumption
      | fail_if_no_progress with_reducible refine Kept.lit ?_
      | with_reducible apply touchUnit_kept
      | with_reducible apply keepPiece_kept
      | with_reducible apply lentTraffic_kept
      | with_reducible refine KeptO.next ?_
      | with_reducible refine ite_keeps (P := Kept s0) ?_ ?_
      | with_reducible refine ite_keeps (P := KeptO s0) ?_ ?_
      | (split <;> try (rename_i he; have hk := congrArg gotState he; dsimp -zeta only [gotState_ok, gotState_stop] at hk; subst hk))
      | with_reducible refine Kept.litMem ?_ ?_)

theorem readPieces_kept {s0 : State} (s : State) (a : Acc3) (cuts : List (Nat × Nat)) (hs1 : Kept s0 s) :
    Kept s0 (gotState (readPieces s a cuts)) := by
  unfold readPieces
  repeat' (first
    | with_reducible assumption
    | dsimp -zeta only [gotState_ok, gotState_stop]
    | with_reducible refine ite_keeps (P := fun g => Kept s0 (gotState g)) ?_ ?_
    | fail_if_no_progress with_reducible refine Kept.lit ?_
    | with_reducible apply readCuts_kept)

theorem writePieces_kept {s0 : State} (s : State) (a : Acc3) (cuts : List (Nat × Nat)) (bs : List Byte) (hs1 : Kept s0 s) :
    Kept s0 (gotState (writePieces s a cuts bs)) := by
  unfold writePieces
  repeat' (first
    | with_reducible assumption
    | dsimp -zeta only [gotState_ok, gotState_stop]
    | with_reducible refine ite_keeps (P := fun g => Kept s0 (gotState g)) ?_ ?_
    | fail_if_no_progress with_reducible refine Kept.lit ?_
    | with_reducible apply writeCuts_kept
    | with_reducible apply endPiece_kept
    | with_reducible refine KeptO.next ?_
    | with_reducible refine ite_keeps (P := Kept s0) ?_ ?_
    | with_reducible refine ite_keeps (P := KeptO s0) ?_ ?_
    | (extract_lets +onlyGivenNames z; refine both (A := Kept s0 z) ?_ (fun hz => ?_) <;> [(dsimp -zeta only [z]; clear z); clear_value z])
    | (extract_lets +onlyGivenNames z; refine both (A := Kept s0 (gotState z)) ?_ (fun hf => ?_) <;> [(dsimp -zeta only [z]; clear z); clear_value z])
    | (extract_lets +onlyGivenNames z; clear_value z)
    | (split <;> try (rename_i he; have hk := congrArg gotState he; dsimp -zeta only [gotState_ok, gotState_stop] at hk; subst hk)))

theorem wideRead_kept {s0 : State} (s : State) (a : Acc3) (addr : Nat) (n : Nat) (hs1 : Kept s0 s) :
    Kept s0 (gotState (wideRead s a addr n)) := by
  unfold wideRead
  repeat' (first
    | with_reducible assumption
    | dsimp -zeta only [gotState_ok, gotState_stop]
    | with_reducible refine ite_keeps (P := fun g => Kept s0 (gotState g)) ?_ ?_
    | fail_if_no_progress with_reducible refine Kept.lit ?_
    | with_reducible apply readPieces_kept
    | with_reducible apply endPiece_kept
    | with_reducible refine KeptO.next ?_
    | with_reducible refine ite_keeps (P := Kept s0) ?_ ?_
    | with_reducible refine ite_keeps (P := KeptO s0) ?_ ?_
    | (split <;> try (rename_i he; have hk := congrArg gotState he; dsimp -zeta only [gotState_ok, gotState_stop] at hk; subst hk)))

theorem wideWrite_kept {s0 : State} (s : State) (a : Acc3) (addr : Nat) (bs : List Byte) (hs1 : Kept s0 s) :
    Kept s0 (gotState (wideWrite s a addr bs)) := by
  unfold wideWrite
  repeat' (first
    | with_reducible assumption
    | dsimp -zeta only [gotState_ok, gotState_stop]
    | with_reducible refine ite_keeps (P := fun g => Kept s0 (gotState g)) ?_ ?_
    | fail_if_no_progress with_reducible refine Kept.lit ?_
    | with_reducible apply writePieces_kept)

theorem wideNum_kept {s0 : State} (s : State) (a : Acc3) (addr : Nat) (n : Nat) (hs1 : Kept s0 s) :
    Kept s0 (gotState (wideNum s a addr n)) := by
  unfold wideNum
  repeat' (first
    | with_reducible assumption
    | dsimp -zeta only [gotState_ok, gotState_stop]
    | with_reducible refine ite_keeps (P := fun g => Kept s0 (gotState g)) ?_ ?_
    | fail_if_no_progress with_reducible refine Kept.lit ?_
    | with_reducible apply wideRead_kept
    | with_reducible refine KeptO.next ?_
    | with_reducible refine ite_keeps (P := Kept s0) ?_ ?_
    | with_reducible refine ite_keeps (P := KeptO s0) ?_ ?_
    | (split <;> try (rename_i he; have hk := congrArg gotState he; dsimp -zeta only [gotState_ok, gotState_stop] at hk; subst hk)))

theorem wideMany_kept {s0 : State} (s : State) (a : Acc3) (l : List (Nat × Nat)) (hs1 : Kept s0 s) :
    Kept s0 (gotState (wideMany s a l)) := by
  unfold wideMany
  repeat' (first
    | with_reducible assumption
    | dsimp -zeta only [gotState_ok, gotState_stop]
    | with_reducible refine ite_keeps (P := fun g => Kept s0 (gotState g)) ?_ ?_
    | fail_if_no_progress with_reducible refine Kept.lit ?_
    | with_reducible apply readPieces_kept
    | with_reducible apply endPiece_kept
    | with_reducible refine KeptO.next ?_
    | with_reducible refine ite_keeps (P := Kept s0) ?_ ?_
    | with_reducible refine ite_keeps (P := KeptO s0) ?_ ?_
    | (split <;> try (rename_i he; have hk := congrArg gotState he; dsimp -zeta only [gotState_ok, gotState_stop] at hk; subst hk)))

theorem wideHold_kept {s0 : State} (s : State) (a : Acc3) (l : List (Nat × Nat)) (hs1 : Kept s0 s) :
    Kept s0 (gotState (wideHold s a l)) := by
  unfold wideHold
  repeat' (first
    | with_reducible assumption
    | dsimp -zeta only [gotState_ok, gotState_stop]
    | with_reducible refine ite_keeps (P := fun g => Kept s0 (gotState g)) ?_ ?_
    | fail_if_no_progress with_reducible refine Kept.lit ?_
    | with_reducible apply readPieces_kept
    | with_reducible apply keepPiece_kept
    | with_reducible refine KeptO.next ?_
    | with_reducible refine ite_keeps (P := Kept s0) ?_ ?_
    | with_reducible refine ite_keeps (P := KeptO s0) ?_ ?_
    | (intro y; intros)
    | (extract_lets +onlyGivenNames z; refine both (A := Kept s0 z) ?_ (fun hz => ?_) <;> [(dsimp -zeta only [z]; clear z); clear_value z])
    | (extract_lets +onlyGivenNames z; refine both (A := Kept s0 (gotState z)) ?_ (fun hf => ?_) <;> [(dsimp -zeta only [z]; clear z); clear_value z])
    | (extract_lets +onlyGivenNames z; clear_value z)
    | (split <;> try (rename_i he; have hk := congrArg gotState he; dsimp -zeta only [gotState_ok, gotState_stop] at hk; subst hk)))

theorem wideWriteMany_kept {s0 : State} (s : State) (a : Acc3) (l : List (Nat × List Byte)) (hs1 : Kept s0 s) :
    Kept s0 (gotState (wideWriteMany s a l)) := by
  unfold wideWriteMany
  repeat' (first
    | with_reducible assumption
    | dsimp -zeta only [gotState_ok, gotState_stop]
    | with_reducible refine ite_keeps (P := fun g => Kept s0 (gotState g)) ?_ ?_
    | fail_if_no_progress with_reducible refine Kept.lit ?_
    | with_reducible apply writePieces_kept)

end Sys2Proof.Laws
end

