-- ==== Sys2Proof/Laws/KeptBasinMem.lean ====
section
/-! SUPPORT. What the functions of Machine/BasinMem.lean keep: the waiting commands and memory's canonical form. -/

namespace Sys2Proof.Laws

open Sys2Proof Sys2Proof.Machine

theorem execBasinMap_kept {s0 : State} (h : Hdr) (addr : Nat) (pages : Nat) (kind : Nat) (tier : Nat) (s : State) (hs1 : Kept s0 s) :
    KeptO s0 (execBasinMap h addr pages kind tier s) := by
  unfold execBasinMap
  repeat' (first
    | with_reducible assumption
    | fail_if_no_progress with_reducible refine Kept.lit ?_
    | with_reducible apply reclaimLends_kept
    | with_reducible apply hostCmd_kept
    | with_reducible apply reply_kept
    | with_reducible apply mapPages_kept
    | with_reducible refine KeptO.next ?_
    | with_reducible refine ite_keeps (P := Kept s0) ?_ ?_
    | with_reducible refine ite_keeps (P := KeptO s0) ?_ ?_
    | (intro y; intros))

theorem settleUnmaps_kept {s0 : State} (s : State) (b : Nat) (hs1 : Kept s0 s) :
    Kept s0 (settleUnmaps s b) := by
  unfold settleUnmaps
  repeat' (first
    | with_reducible assumption
    | fail_if_no_progress with_reducible refine Kept.lit ?_
    | with_reducible apply answerDeferred_kept
    | with_reducible apply unmapPages_kept
    | with_reducible refine KeptO.next ?_
    | with_reducible refine ite_keeps (P := Kept s0) ?_ ?_
    | with_reducible refine ite_keeps (P := KeptO s0) ?_ ?_
    | (intro y; intros)
    | with_reducible refine foldl_kept ?_ (fun s x hs => ?_))

theorem execBasinUnmap_kept {s0 : State} (h : Hdr) (addr : Nat) (pages : Nat) (s : State) (hs1 : Kept s0 s) :
    KeptO s0 (execBasinUnmap h addr pages s) := by
  unfold execBasinUnmap
  repeat' (first
    | with_reducible assumption
    | fail_if_no_progress with_reducible refine Kept.lit ?_
    | with_reducible apply hostCmd_kept
    | with_reducible apply reply_kept
    | with_reducible apply settleUnmaps_kept
    | with_reducible apply deferCmd_kept
    | with_reducible refine KeptO.next ?_
    | with_reducible refine ite_keeps (P := Kept s0) ?_ ?_
    | with_reducible refine ite_keeps (P := KeptO s0) ?_ ?_
    | (intro y; intros))

theorem settlePlaces_kept {s0 : State} (s : State) (b : Nat) (hs1 : Kept s0 s) :
    Kept s0 (settlePlaces s b) := by
  unfold settlePlaces
  repeat' (first
    | with_reducible assumption
    | fail_if_no_progress with_reducible refine Kept.lit ?_
    | with_reducible apply answerDeferred_kept
    | with_reducible refine KeptO.next ?_
    | with_reducible refine ite_keeps (P := Kept s0) ?_ ?_
    | with_reducible refine ite_keeps (P := KeptO s0) ?_ ?_
    | (intro y; intros)
    | with_reducible refine foldl_kept ?_ (fun s x hs => ?_))

theorem execBasinPlace_kept {s0 : State} (h : Hdr) (addr : Nat) (pages : Nat) (tier : Nat) (s : State) (hs1 : Kept s0 s) :
    KeptO s0 (execBasinPlace h addr pages tier s) := by
  unfold execBasinPlace
  repeat' (first
    | with_reducible assumption
    | fail_if_no_progress with_reducible refine Kept.lit ?_
    | with_reducible apply hostCmd_kept
    | with_reducible apply reply_kept
    | with_reducible apply askMove_kept
    | with_reducible apply settlePlaces_kept
    | with_reducible apply deferCmd_kept
    | with_reducible refine KeptO.next ?_
    | with_reducible refine ite_keeps (P := Kept s0) ?_ ?_
    | with_reducible refine ite_keeps (P := KeptO s0) ?_ ?_
    | (intro y; intros)
    | with_reducible refine foldl_kept ?_ (fun s x hs => ?_))

theorem execBasinPageq_kept {s0 : State} (h : Hdr) (addr : Nat) (s : State) (hs1 : Kept s0 s) :
    KeptO s0 (execBasinPageq h addr s) := by
  unfold execBasinPageq
  repeat' (first
    | with_reducible assumption
    | fail_if_no_progress with_reducible refine Kept.lit ?_
    | with_reducible apply hostCmd_kept
    | with_reducible apply reply_kept
    | with_reducible refine KeptO.next ?_
    | with_reducible refine ite_keeps (P := Kept s0) ?_ ?_
    | with_reducible refine ite_keeps (P := KeptO s0) ?_ ?_
    | (intro y; intros))

theorem runRead_kept {s0 : State} (s : State) (h : Hdr) (addr : Nat) (len : Nat) (xid : Nat) (hs1 : Kept s0 s) :
    Kept s0 (runRead s h addr len xid) := by
  unfold runRead
  repeat' (first
    | with_reducible assumption
    | fail_if_no_progress with_reducible refine Kept.lit ?_
    | with_reducible apply setPage_kept
    | with_reducible apply sendData_kept
    | with_reducible apply reply_kept
    | with_reducible refine KeptO.next ?_
    | with_reducible refine ite_keeps (P := Kept s0) ?_ ?_
    | with_reducible refine ite_keeps (P := KeptO s0) ?_ ?_
    | (intro y; intros)
    | with_reducible refine foldl_kept ?_ (fun s x hs => ?_))

theorem readOrWait_kept {s0 : State} (s : State) (h : Hdr) (addr : Nat) (len : Nat) (xid : Nat) (hs1 : Kept s0 s) :
    Kept s0 (readOrWait s h addr len xid) := by
  unfold readOrWait
  repeat' (first
    | with_reducible assumption
    | dsimp -zeta only
    | fail_if_no_progress with_reducible refine Kept.lit ?_
    | with_reducible apply lentRange_kept
    | with_reducible apply runRead_kept
    | with_reducible apply deferCmd_kept
    | with_reducible apply reply_kept
    | with_reducible refine KeptO.next ?_
    | with_reducible refine ite_keeps (P := Kept s0) ?_ ?_
    | with_reducible refine ite_keeps (P := KeptO s0) ?_ ?_
    | (split <;> try (rename_i he; have hk := congrArg Prod.snd he; dsimp -zeta only at hk; subst hk)))

theorem settleReads_kept {s0 : State} (s : State) (b : Nat) (hs1 : Kept s0 s) :
    Kept s0 (settleReads s b) := by
  unfold settleReads
  repeat' (first
    | with_reducible assumption
    | fail_if_no_progress with_reducible refine Kept.lit ?_
    | with_reducible apply setLink_kept
    | with_reducible apply readOrWait_kept
    | with_reducible refine KeptO.next ?_
    | with_reducible refine ite_keeps (P := Kept s0) ?_ ?_
    | with_reducible refine ite_keeps (P := KeptO s0) ?_ ?_
    | (intro y; intros)
    | with_reducible refine foldl_kept ?_ (fun s x hs => ?_)
    | (extract_lets +onlyGivenNames z; refine both (A := Kept s0 z) ?_ (fun hz => ?_) <;> [(dsimp -zeta only [z]; clear z); clear_value z])
    | split)

theorem execBasinRead_kept {s0 : State} (h : Hdr) (addr : Nat) (len : Nat) (xid : Nat) (s : State) (hs1 : Kept s0 s) :
    KeptO s0 (execBasinRead h addr len xid s) := by
  unfold execBasinRead
  repeat' (first
    | with_reducible assumption
    | fail_if_no_progress with_reducible refine Kept.lit ?_
    | with_reducible apply hostCmd_kept
    | with_reducible apply reply_kept
    | with_reducible apply deferCmd_kept
    | with_reducible apply readOrWait_kept
    | with_reducible refine KeptO.next ?_
    | with_reducible refine ite_keeps (P := Kept s0) ?_ ?_
    | with_reducible refine ite_keeps (P := KeptO s0) ?_ ?_
    | (intro y; intros))

end Sys2Proof.Laws
end

