-- ==== Sys2Proof/Laws/KeptBind.lean ====
section
/-! SUPPORT. What the functions of Machine/Bind.lean keep: the waiting commands and memory's canonical form. -/

namespace Sys2Proof.Laws

open Sys2Proof Sys2Proof.Machine

theorem drawD1_kept {s0 : State} (s : State) (hs1 : Kept s0 s) :
    Kept s0 (drawD1 s).2 := by
  unfold drawD1
  repeat' (first
    | with_reducible assumption
    | dsimp -zeta only
    | with_reducible refine ite_keeps (P := fun p => Kept s0 p.2) ?_ ?_
    | fail_if_no_progress with_reducible refine Kept.lit ?_
    | with_reducible apply setDrbg_kept)

theorem drawSeed_kept {s0 : State} (old : List Nat) (z0 : Nat) (z1 : State) (hs1 : Kept s0 z1) :
    Kept s0 (drawSeed old z0 z1).2 := by
  induction z0 generalizing old z1 with
  | zero =>
    first | rw [drawSeed] | (rw [drawSeed.eq_def]; dsimp -zeta only)
    repeat' (first
      | with_reducible assumption)
  | succ n ih =>
    first | rw [drawSeed] | (rw [drawSeed.eq_def]; dsimp -zeta only)
    repeat' (first
      | with_reducible assumption
      | with_reducible apply ih
      | dsimp -zeta only
      | with_reducible refine ite_keeps (P := fun p => Kept s0 p.2) ?_ ?_
      | fail_if_no_progress with_reducible refine Kept.lit ?_
      | with_reducible apply drawD1_kept
      | with_reducible refine KeptO.next ?_
      | with_reducible refine ite_keeps (P := Kept s0) ?_ ?_
      | with_reducible refine ite_keeps (P := KeptO s0) ?_ ?_
      | (extract_lets +onlyGivenNames z; refine both (A := Kept s0 z) ?_ (fun hz => ?_) <;> [(dsimp -zeta only [z]; clear z); clear_value z])
      | (extract_lets +onlyGivenNames z; clear_value z)
      | (split <;> try (rename_i he; have hk := congrArg Prod.snd he; dsimp -zeta only at hk; subst hk)))

theorem drawSeeds_kept {s0 : State} (z0 : Nat) (z1 : List Nat) (z2 : State) (hs1 : Kept s0 z2) :
    Kept s0 (drawSeeds z0 z1 z2).2 := by
  induction z0 generalizing z1 z2 with
  | zero => exact hs1
  | succ n ih =>
    have h := drawSeed_kept z1 64 z2 hs1
    rw [drawSeeds]
    split <;> (rename_i he; rw [he] at h)
    · exact ih _ _ h
    · exact h

theorem setTurns_kept {s0 : State} (s : State) (f : List Turn → List Turn) (hs1 : Kept s0 s) :
    Kept s0 (setTurns s f) := by
  unfold setTurns
  repeat' (first
    | with_reducible assumption
    | fail_if_no_progress with_reducible refine Kept.lit ?_)

theorem takeTurn_kept {s0 : State} (s : State) (trib : Nat) (unit : Nat) (b : Nat) (fresh : Bool) (hs1 : Kept s0 s) :
    Kept s0 (takeTurn s trib unit b fresh) := by
  unfold takeTurn
  repeat' (first
    | with_reducible assumption
    | fail_if_no_progress with_reducible refine Kept.lit ?_
    | with_reducible apply setTurns_kept)

theorem byTurn_kept {s0 : State} (s : State) (t : Step) (trib : Nat) (unit : Nat) (tiles : Step → List (State → State)) (op : State → State) (hs1 : Kept s0 s) (hb : ∀ s, Kept s0 s → Kept s0 (op s)) :
    Kept s0 (byTurn s t trib unit tiles op) := by
  unfold byTurn
  repeat' (first
    | with_reducible assumption
    | apply hb
    | fail_if_no_progress with_reducible refine Kept.lit ?_
    | with_reducible apply takeTurn_kept
    | with_reducible refine KeptO.next ?_
    | with_reducible refine ite_keeps (P := Kept s0) ?_ ?_)

theorem idleDomains_kept {s0 : State} (s : State) (t : Step) (hs1 : Kept s0 s) :
    Kept s0 (idleDomains s t) := by
  unfold idleDomains
  repeat' (first
    | with_reducible assumption
    | fail_if_no_progress with_reducible refine Kept.lit ?_
    | with_reducible apply setDom_kept
    | with_reducible refine KeptO.next ?_
    | with_reducible refine ite_keeps (P := Kept s0) ?_ ?_
    | with_reducible refine ite_keeps (P := KeptO s0) ?_ ?_
    | (intro y; intros)
    | with_reducible refine foldl_kept ?_ (fun s x hs => ?_))

theorem setSlice_kept {s0 : State} (s : State) (b : Nat) (f : Slice → Slice) (hs1 : Kept s0 s) :
    Kept s0 (setSlice s b f) := by
  unfold setSlice
  repeat' (first
    | with_reducible assumption
    | fail_if_no_progress with_reducible refine Kept.lit ?_)

theorem leavePart_kept {s0 : State} (s : State) (b : Nat) (k : Nat) (n : Nat) (hs1 : Kept s0 s) :
    Kept s0 (leavePart s b k n) := by
  unfold leavePart
  repeat' (first
    | with_reducible assumption
    | fail_if_no_progress with_reducible refine Kept.lit ?_
    | with_reducible apply setSlice_kept)

theorem bindPart_kept {s0 : State} (s : State) (b : Nat) (k : Nat) (n : Nat) (hs1 : Kept s0 s) :
    Kept s0 (bindPart s b k n) := by
  unfold bindPart
  repeat' (first
    | with_reducible assumption
    | fail_if_no_progress with_reducible refine Kept.lit ?_
    | with_reducible apply setSlice_kept)

theorem stepSeeds_kept {s0 : State} (s : State) (t : Step) (hs1 : Kept s0 s) :
    Kept s0 (stepSeeds s t).2 := by
  unfold stepSeeds
  repeat' (first
    | with_reducible assumption
    | dsimp -zeta only
    | with_reducible refine ite_keeps (P := fun p => Kept s0 p.2) ?_ ?_
    | fail_if_no_progress with_reducible refine Kept.lit ?_
    | with_reducible apply drawSeeds_kept
    | with_reducible refine KeptO.next ?_
    | with_reducible refine ite_keeps (P := Kept s0) ?_ ?_
    | with_reducible refine ite_keeps (P := KeptO s0) ?_ ?_
    | (intro y; intros)
    | (split <;> try (rename_i he; have hk := congrArg Prod.snd he; dsimp -zeta only at hk; subst hk)))

theorem bindDone_kept {s0 : State} (s : State) (t : Step) (seeds : List Nat) (hs1 : Kept s0 s) :
    Kept s0 (bindDone s t seeds) := by
  unfold bindDone
  repeat' (first
    | with_reducible assumption
    | fail_if_no_progress with_reducible refine Kept.lit ?_
    | with_reducible apply setSlice_kept
    | with_reducible apply setJob_kept
    | with_reducible apply setStep_kept
    | with_reducible apply setVariant_kept
    | with_reducible refine KeptO.next ?_
    | with_reducible refine ite_keeps (P := Kept s0) ?_ ?_)

theorem bindSeeded_kept {s0 : State} (s : State) (t : Step) (hs1 : Kept s0 s) :
    Kept s0 (bindSeeded s t) := by
  unfold bindSeeded
  repeat' (first
    | with_reducible assumption
    | dsimp -zeta only
    | fail_if_no_progress with_reducible refine Kept.lit ?_
    | with_reducible apply stepSeeds_kept
    | with_reducible apply setUnits_kept
    | with_reducible apply bindDone_kept
    | with_reducible refine KeptO.next ?_
    | with_reducible refine ite_keeps (P := Kept s0) ?_ ?_)

theorem bindFailed_kept {s0 : State} (s : State) (t : Step) (i : Nat) (status : Nat) (hs1 : Kept s0 s) :
    Kept s0 (bindFailed s t i status) := by
  unfold bindFailed
  repeat' (first
    | with_reducible assumption
    | fail_if_no_progress with_reducible refine Kept.lit ?_
    | with_reducible apply stepFlt_kept
    | with_reducible apply setStep_kept)

theorem putSaved_kept {s0 : State} (s : State) (t : Step) (r : ReachCtx) (hs1 : Kept s0 s) :
    Kept s0 (putSaved s t r) := by
  unfold putSaved
  repeat' (first
    | with_reducible apply memPut_wf
    | with_reducible apply memPuts_wf
    | with_reducible apply memClear_wf
    | with_reducible refine Kept.mem (s0 := s0) ?_
    | with_reducible assumption
    | fail_if_no_progress with_reducible refine Kept.lit ?_
    | with_reducible refine KeptO.next ?_
    | with_reducible refine ite_keeps (P := Kept s0) ?_ ?_
    | with_reducible refine ite_keeps (P := KeptO s0) ?_ ?_
    | (intro y; intros)
    | with_reducible refine foldl_kept ?_ (fun s x hs => ?_)
    | (extract_lets +onlyGivenNames z; refine both (A := Kept s0 z) ?_ (fun hz => ?_) <;> [(dsimp -zeta only [z]; clear z); clear_value z])
    | (extract_lets +onlyGivenNames z; clear_value z)
    | split
    | with_reducible refine Kept.litMem ?_ ?_)

theorem saveHeld_kept {s0 : State} (s : State) (t : Step) (hs1 : Kept s0 s) :
    Kept s0 (saveHeld s t) := by
  unfold saveHeld
  repeat' (first
    | with_reducible assumption
    | with_reducible apply hf
    | fail_if_no_progress with_reducible refine Kept.lit ?_
    | with_reducible apply count_kept
    | with_reducible apply putSaved_kept
    | with_reducible apply setUnits_kept
    | with_reducible refine KeptO.next ?_
    | with_reducible refine ite_keeps (P := Kept s0) ?_ ?_
    | with_reducible refine ite_keeps (P := KeptO s0) ?_ ?_
    | (intro y; intros)
    | with_reducible refine foldl_kept ?_ (fun s x hs => ?_))

theorem bindStep_kept {s0 : State} (sid : Nat) (s : State) (hs1 : Kept s0 s) :
    Kept s0 (bindStep sid s) := by
  unfold bindStep
  repeat' (first
    | with_reducible assumption
    | fail_if_no_progress with_reducible refine Kept.lit ?_
    | with_reducible apply saveHeld_kept
    | with_reducible apply bindFailed_kept
    | with_reducible apply setStep_kept
    | with_reducible apply wakeDomain_kept
    | with_reducible apply bindPart_kept
    | with_reducible apply bindSeeded_kept
    | with_reducible refine KeptO.next ?_
    | with_reducible refine ite_keeps (P := Kept s0) ?_ ?_
    | with_reducible refine ite_keeps (P := KeptO s0) ?_ ?_
    | (intro y; intros)
    | with_reducible refine foldl_kept ?_ (fun s x hs => ?_)
    | (extract_lets +onlyGivenNames z; refine both (A := Kept s0 z) ?_ (fun hz => ?_) <;> [(dsimp -zeta only [z]; clear z); clear_value z])
    | (extract_lets +onlyGivenNames z; clear_value z)
    | split)

theorem execModelProgram_kept {s0 : State} (h : Hdr) (r : BitVec 384) (s : State) (hs1 : Kept s0 s) :
    KeptO s0 (execModelProgram h r s) := by
  unfold execModelProgram
  repeat' (first
    | with_reducible assumption
    | with_reducible apply hf
    | fail_if_no_progress with_reducible refine Kept.lit ?_
    | with_reducible apply hostCmd_kept
    | with_reducible apply reply_kept
    | with_reducible refine KeptO.next ?_
    | with_reducible refine ite_keeps (P := Kept s0) ?_ ?_
    | with_reducible refine ite_keeps (P := KeptO s0) ?_ ?_
    | (intro y; intros))

end Sys2Proof.Laws
end

