-- ==== Sys2Proof/Laws/KeptReclaim.lean ====
section
/-! SUPPORT. What the functions of Machine/Reclaim.lean keep: the waiting commands and memory's canonical form. -/

namespace Sys2Proof.Laws

open Sys2Proof Sys2Proof.Machine

theorem dropCopies_kept {s0 : State} (ok : PageEnt → Bool) (more : State → Bool) (z0 : Nat) (z1 : State) (hs1 : Kept s0 z1) :
    Kept s0 (dropCopies ok more z0 z1) := by
  induction z0 generalizing ok more z1 with
  | zero =>
    first | rw [dropCopies] | (rw [dropCopies.eq_def]; dsimp -zeta only)
    repeat' (first
      | with_reducible assumption)
  | succ n ih =>
    first | rw [dropCopies] | (rw [dropCopies.eq_def]; dsimp -zeta only)
    repeat' (first
      | with_reducible assumption
      | with_reducible apply ih
      | fail_if_no_progress with_reducible refine Kept.lit ?_
      | with_reducible apply dropCopy_kept
      | with_reducible refine KeptO.next ?_
      | with_reducible refine ite_keeps (P := Kept s0) ?_ ?_
      | with_reducible refine ite_keeps (P := KeptO s0) ?_ ?_
      | split)

theorem evictMore_kept {s0 : State} (ok : Nat → Bool) (more : State → Bool) (z0 : Nat) (z1 : State) (hs1 : Kept s0 z1) :
    Kept s0 (evictMore ok more z0 z1) := by
  induction z0 generalizing ok more z1 with
  | zero =>
    first | rw [evictMore] | (rw [evictMore.eq_def]; dsimp -zeta only)
    repeat' (first
      | with_reducible assumption)
  | succ n ih =>
    first | rw [evictMore] | (rw [evictMore.eq_def]; dsimp -zeta only)
    repeat' (first
      | with_reducible assumption
      | with_reducible apply ih
      | fail_if_no_progress with_reducible refine Kept.lit ?_
      | with_reducible apply evictVariant_kept
      | with_reducible refine KeptO.next ?_
      | with_reducible refine ite_keeps (P := Kept s0) ?_ ?_
      | with_reducible refine ite_keeps (P := KeptO s0) ?_ ?_
      | split)

theorem dropRebuildable_kept {s0 : State} (s : State) (ok : Nat → Bool) (more : State → Bool) (hs1 : Kept s0 s) :
    Kept s0 (dropRebuildable s ok more) := by
  unfold dropRebuildable
  repeat' (first
    | with_reducible assumption
    | fail_if_no_progress with_reducible refine Kept.lit ?_
    | with_reducible apply dropCopies_kept
    | with_reducible apply askCopies_kept
    | with_reducible apply evictMore_kept
    | with_reducible refine KeptO.next ?_
    | with_reducible refine ite_keeps (P := Kept s0) ?_ ?_
    | with_reducible refine ite_keeps (P := KeptO s0) ?_ ?_
    | (intro y; intros)
    | with_reducible refine foldl_kept ?_ (fun s x hs => ?_))

theorem recopy_kept {s0 : State} (s : State) (e : PageEnt) (f : Nat) (hs1 : Kept s0 s) :
    Kept s0 (recopy s e f) := by
  unfold recopy
  repeat' (first
    | with_reducible assumption
    | dsimp -zeta only
    | fail_if_no_progress with_reducible refine Kept.lit ?_
    | with_reducible apply poisonModel_kept
    | with_reducible apply takeFrame_kept
    | with_reducible apply releaseFrame_kept
    | with_reducible apply setPage_kept
    | with_reducible apply copyFrame_kept
    | with_reducible refine KeptO.next ?_
    | with_reducible refine ite_keeps (P := Kept s0) ?_ ?_
    | with_reducible refine ite_keeps (P := KeptO s0) ?_ ?_
    | (intro y; intros)
    | (split <;> try (rename_i he; have hk := congrArg Prod.snd he; dsimp -zeta only at hk; subst hk)))

theorem askRecopy_kept {s0 : State} (s : State) (e : PageEnt) (hs1 : Kept s0 s) :
    Kept s0 (askRecopy s e) := by
  unfold askRecopy
  repeat' (first
    | with_reducible assumption
    | fail_if_no_progress with_reducible refine Kept.lit ?_
    | with_reducible refine KeptO.next ?_
    | with_reducible refine ite_keeps (P := Kept s0) ?_ ?_)

theorem leaveFrame_kept {s0 : State} (s : State) (tier : Nat) (f : Nat) (hs1 : Kept s0 s) :
    Kept s0 (leaveFrame s tier f) := by
  unfold leaveFrame
  repeat' (first
    | with_reducible assumption
    | fail_if_no_progress with_reducible refine Kept.lit ?_
    | with_reducible apply noteRetiring_kept
    | with_reducible apply retireFrame_kept
    | with_reducible apply askRecopy_kept
    | with_reducible apply askMove_kept
    | with_reducible refine KeptO.next ?_
    | with_reducible refine ite_keeps (P := Kept s0) ?_ ?_
    | with_reducible refine ite_keeps (P := KeptO s0) ?_ ?_
    | (extract_lets +onlyGivenNames z; refine both (A := Kept s0 z) ?_ (fun hz => ?_) <;> [(dsimp -zeta only [z]; clear z); clear_value z])
    | split)

theorem settleRetiring_kept {s0 : State} (s : State) (hs1 : Kept s0 s) :
    Kept s0 (settleRetiring s) := by
  unfold settleRetiring
  repeat' (first
    | with_reducible assumption
    | fail_if_no_progress with_reducible refine Kept.lit ?_
    | with_reducible apply leaveFrame_kept
    | with_reducible refine KeptO.next ?_
    | with_reducible refine ite_keeps (P := Kept s0) ?_ ?_
    | with_reducible refine ite_keeps (P := KeptO s0) ?_ ?_
    | (intro y; intros)
    | with_reducible refine foldl_kept ?_ (fun s x hs => ?_))

end Sys2Proof.Laws
end

