-- ==== Sys2Proof/Laws/KeptServing.lean ====
section
/-! SUPPORT. What the functions of Machine/Serving.lean keep: the waiting commands and memory's canonical form. -/

namespace Sys2Proof.Laws

open Sys2Proof Sys2Proof.Machine

theorem setReq_kept {s0 : State} (s : State) (b : Nat) (tag : Nat) (f : Request → Request) (hs1 : Kept s0 s) :
    Kept s0 (setReq s b tag f) := by
  unfold setReq
  repeat' (first
    | with_reducible assumption
    | fail_if_no_progress with_reducible refine Kept.lit ?_)

theorem setGroup_kept {s0 : State} (s : State) (b : Nat) (gid : Nat) (f : Group → Group) (hs1 : Kept s0 s) :
    Kept s0 (setGroup s b gid f) := by
  unfold setGroup
  repeat' (first
    | with_reducible assumption
    | fail_if_no_progress with_reducible refine Kept.lit ?_)

theorem answerCancel_kept {s0 : State} (s : State) (b : Nat) (tag : Nat) (status : Nat) (endSt : Nat) (hs1 : Kept s0 s) :
    Kept s0 (answerCancel s b tag status endSt) := by
  unfold answerCancel
  repeat' (first
    | with_reducible assumption
    | fail_if_no_progress with_reducible refine Kept.lit ?_
    | with_reducible apply answerDeferred_kept)

theorem copySummaries_kept {s0 : State} (s : State) (b : Nat) (r : Request) (rows : List Row) (hs1 : Kept s0 s) :
    Kept s0 (copySummaries s b r rows) := by
  unfold copySummaries
  repeat' (first
    | with_reducible assumption
    | fail_if_no_progress with_reducible refine Kept.lit ?_
    | with_reducible apply tierPuts_kept
    | with_reducible refine KeptO.next ?_
    | with_reducible refine ite_keeps (P := Kept s0) ?_ ?_
    | with_reducible refine ite_keeps (P := KeptO s0) ?_ ?_
    | (intro y; intros)
    | with_reducible refine foldl_kept ?_ (fun s x hs => ?_)
    | (extract_lets +onlyGivenNames z; refine both (A := Kept s0 z) ?_ (fun hz => ?_) <;> [(dsimp -zeta only [z]; clear z); clear_value z])
    | (extract_lets +onlyGivenNames z; clear_value z)
    | split)

theorem carrySummaries_kept {s0 : State} (s : State) (b : Nat) (layers : Nat) (heads : Nat) (dh : Nat) (pages : Nat) (old : List (Nat × Nat)) (new : List (Nat × Nat)) (hs1 : Kept s0 s) :
    Kept s0 (carrySummaries s b layers heads dh pages old new) := by
  unfold carrySummaries
  repeat' (first
    | with_reducible assumption
    | fail_if_no_progress with_reducible refine Kept.lit ?_
    | with_reducible apply tierPuts_kept
    | with_reducible refine KeptO.next ?_
    | with_reducible refine ite_keeps (P := Kept s0) ?_ ?_
    | with_reducible refine ite_keeps (P := KeptO s0) ?_ ?_
    | (intro y; intros)
    | with_reducible refine foldl_kept ?_ (fun s x hs => ?_))

theorem takeOver_kept {s0 : State} (s : State) (b : Nat) (r : Request) (c : Conv) (hs1 : Kept s0 s) :
    Kept s0 (takeOver s b r c) := by
  unfold takeOver
  repeat' (first
    | with_reducible assumption
    | fail_if_no_progress with_reducible refine Kept.lit ?_
    | with_reducible apply setKv_kept
    | with_reducible apply carrySummaries_kept
    | with_reducible apply keepHot_kept
    | with_reducible apply setRow_kept
    | with_reducible refine KeptO.next ?_
    | with_reducible refine ite_keeps (P := Kept s0) ?_ ?_
    | with_reducible refine ite_keeps (P := KeptO s0) ?_ ?_
    | (intro y; intros)
    | with_reducible refine foldl_kept ?_ (fun s x hs => ?_))

theorem adopt_kept {s0 : State} (s : State) (b : Nat) (r : Request) (hs1 : Kept s0 s) :
    Kept s0 (adopt s b r) := by
  unfold adopt
  repeat' (first
    | with_reducible assumption
    | fail_if_no_progress with_reducible refine Kept.lit ?_
    | with_reducible apply setKv_kept
    | with_reducible apply keepHot_kept
    | with_reducible apply copySummaries_kept
    | with_reducible refine KeptO.next ?_
    | with_reducible refine ite_keeps (P := Kept s0) ?_ ?_
    | with_reducible refine ite_keeps (P := KeptO s0) ?_ ?_
    | (intro y; intros)
    | with_reducible refine foldl_kept ?_ (fun s x hs => ?_))

theorem takeIn_kept {s0 : State} (s : State) (b : Nat) (r : Request) (hs1 : Kept s0 s) :
    Kept s0 (takeIn s b r) := by
  unfold takeIn
  repeat' (first
    | with_reducible assumption
    | fail_if_no_progress with_reducible refine Kept.lit ?_
    | with_reducible apply askCopies_kept
    | with_reducible apply takeOver_kept
    | with_reducible apply adopt_kept
    | with_reducible refine KeptO.next ?_
    | with_reducible refine ite_keeps (P := Kept s0) ?_ ?_
    | with_reducible refine ite_keeps (P := KeptO s0) ?_ ?_
    | (extract_lets +onlyGivenNames z; refine both (A := Kept s0 z) ?_ (fun hz => ?_) <;> [(dsimp -zeta only [z]; clear z); clear_value z])
    | (extract_lets +onlyGivenNames z; clear_value z)
    | split)

theorem execReqSubmit_kept {s0 : State} (h : Hdr) (blk : BitVec 512) (tokens : List Nat) (s : State) (hs1 : Kept s0 s) :
    KeptO s0 (execReqSubmit h blk tokens s) := by
  unfold execReqSubmit
  repeat' (first
    | with_reducible assumption
    | fail_if_no_progress with_reducible refine Kept.lit ?_
    | with_reducible apply hostCmd_kept
    | with_reducible apply reply_kept
    | with_reducible apply takeIn_kept
    | with_reducible refine KeptO.next ?_
    | with_reducible refine ite_keeps (P := Kept s0) ?_ ?_
    | with_reducible refine ite_keeps (P := KeptO s0) ?_ ?_
    | (intro y; intros))

theorem execReqCancel_kept {s0 : State} (h : Hdr) (tag : Nat) (s : State) (hs1 : Kept s0 s) :
    KeptO s0 (execReqCancel h tag s) := by
  unfold execReqCancel
  repeat' (first
    | with_reducible assumption
    | fail_if_no_progress with_reducible refine Kept.lit ?_
    | with_reducible apply hostCmd_kept
    | with_reducible apply reply_kept
    | with_reducible apply deferCmd_kept
    | with_reducible refine KeptO.next ?_
    | with_reducible refine ite_keeps (P := Kept s0) ?_ ?_
    | with_reducible refine ite_keeps (P := KeptO s0) ?_ ?_
    | (intro y; intros)
    | split)

theorem execReqQuery_kept {s0 : State} (h : Hdr) (tag : Nat) (s : State) (hs1 : Kept s0 s) :
    KeptO s0 (execReqQuery h tag s) := by
  unfold execReqQuery
  repeat' (first
    | with_reducible assumption
    | fail_if_no_progress with_reducible refine Kept.lit ?_
    | with_reducible apply hostCmd_kept
    | with_reducible apply reply_kept
    | with_reducible refine KeptO.next ?_
    | with_reducible refine ite_keeps (P := Kept s0) ?_ ?_
    | with_reducible refine ite_keeps (P := KeptO s0) ?_ ?_
    | (intro y; intros)
    | (extract_lets +onlyGivenNames z; refine both (A := Kept s0 z) ?_ (fun hz => ?_) <;> [(dsimp -zeta only [z]; clear z); clear_value z])
    | (extract_lets +onlyGivenNames z; clear_value z)
    | split)

theorem execTagExpiry_kept {s0 : State} (basin : Nat) (tag : Nat) (s : State) (hs1 : Kept s0 s) :
    KeptO s0 (execTagExpiry basin tag s) := by
  unfold execTagExpiry
  repeat' (first
    | with_reducible assumption
    | fail_if_no_progress with_reducible refine Kept.lit ?_
    | with_reducible refine KeptO.next ?_
    | with_reducible refine ite_keeps (P := Kept s0) ?_ ?_
    | with_reducible refine ite_keeps (P := KeptO s0) ?_ ?_
    | (intro y; intros)
    | split)

theorem pauseConv_kept {s0 : State} (s : State) (b : Nat) (r : Request) (hs1 : Kept s0 s) :
    Kept s0 (pauseConv s b r) := by
  unfold pauseConv
  repeat' (first
    | with_reducible assumption
    | fail_if_no_progress with_reducible refine Kept.lit ?_
    | with_reducible apply setRow_kept
    | with_reducible apply setKv_kept
    | with_reducible apply rowsOut_kept
    | with_reducible refine KeptO.next ?_
    | with_reducible refine ite_keeps (P := Kept s0) ?_ ?_
    | with_reducible refine ite_keeps (P := KeptO s0) ?_ ?_
    | (intro y; intros)
    | with_reducible refine foldl_kept ?_ (fun s x hs => ?_))

theorem markEnded_kept {s0 : State} (s : State) (b : Nat) (tag : Nat) (status : Nat) (hs1 : Kept s0 s) :
    Kept s0 (markEnded s b tag status) := by
  unfold markEnded
  repeat' (first
    | with_reducible assumption
    | fail_if_no_progress with_reducible refine Kept.lit ?_
    | with_reducible apply setReq_kept)

theorem endReq_kept {s0 : State} (s : State) (b : Nat) (tag : Nat) (status : Nat) (release : Bool) (hs1 : Kept s0 s) :
    Kept s0 (endReq s b tag status release) := by
  unfold endReq
  repeat' (first
    | with_reducible assumption
    | fail_if_no_progress with_reducible refine Kept.lit ?_
    | with_reducible apply markEnded_kept
    | with_reducible apply pauseConv_kept
    | with_reducible apply sweepKv_kept
    | with_reducible apply clearRow_kept
    | with_reducible refine KeptO.next ?_
    | with_reducible refine ite_keeps (P := Kept s0) ?_ ?_
    | with_reducible refine ite_keeps (P := KeptO s0) ?_ ?_
    | (intro y; intros)
    | with_reducible refine foldl_kept ?_ (fun s x hs => ?_)
    | split)

theorem endOff_kept {s0 : State} (s : State) (b : Nat) (tag : Nat) (status : Nat) (release : Bool) (hs1 : Kept s0 s) :
    Kept s0 (endOff s b tag status release) := by
  unfold endOff
  repeat' (first
    | with_reducible assumption
    | fail_if_no_progress with_reducible refine Kept.lit ?_
    | with_reducible apply endReq_kept
    | with_reducible refine KeptO.next ?_
    | with_reducible refine ite_keeps (P := Kept s0) ?_ ?_
    | with_reducible refine ite_keeps (P := KeptO s0) ?_ ?_
    | (extract_lets +onlyGivenNames z; refine both (A := Kept s0 z) ?_ (fun hz => ?_) <;> [(dsimp -zeta only [z]; clear z); clear_value z])
    | (extract_lets +onlyGivenNames z; clear_value z)
    | split)

theorem takeGrans_kept {s0 : State} (s : State) (b : Nat) (job : Nat) (gs : List Nat) (hs1 : Kept s0 s) :
    Kept s0 (takeGrans s b job gs) := by
  unfold takeGrans
  repeat' (first
    | with_reducible assumption
    | fail_if_no_progress with_reducible refine Kept.lit ?_
    | with_reducible apply setGran_kept
    | with_reducible refine KeptO.next ?_
    | with_reducible refine ite_keeps (P := Kept s0) ?_ ?_
    | with_reducible refine ite_keeps (P := KeptO s0) ?_ ?_
    | (intro y; intros)
    | with_reducible refine foldl_kept ?_ (fun s x hs => ?_))

theorem giveSlot_kept {s0 : State} (s : State) (b : Nat) (job : Nat) (x : Nat × Nat × Nat) (hs1 : Kept s0 s) :
    Kept s0 (giveSlot s b job x) := by
  unfold giveSlot
  repeat' (first
    | with_reducible assumption
    | fail_if_no_progress with_reducible refine Kept.lit ?_
    | with_reducible apply takeGrans_kept
    | with_reducible apply setJob_kept
    | with_reducible refine KeptO.next ?_
    | with_reducible refine ite_keeps (P := Kept s0) ?_ ?_)

theorem growJob_kept {s0 : State} (s : State) (b : Nat) (num : Nat) (w : BitVec 64) (cls : Nat) (hs1 : Kept s0 s) :
    Kept s0 (growJob s b num w cls) := by
  unfold growJob
  repeat' (first
    | with_reducible assumption
    | fail_if_no_progress with_reducible refine Kept.lit ?_
    | with_reducible apply giveSlot_kept
    | with_reducible refine KeptO.next ?_
    | with_reducible refine ite_keeps (P := Kept s0) ?_ ?_
    | with_reducible refine ite_keeps (P := KeptO s0) ?_ ?_
    | (intro y; intros)
    | with_reducible refine foldl_kept ?_ (fun s x hs => ?_))

theorem trimJob_kept {s0 : State} (w : BitVec 64) (s : State) (j : Job) (hs1 : Kept s0 s) :
    Kept s0 (trimJob w s j) := by
  unfold trimJob
  repeat' (first
    | with_reducible assumption
    | with_reducible apply hf
    | fail_if_no_progress with_reducible refine Kept.lit ?_
    | with_reducible apply clearSoon_kept
    | with_reducible apply setJob_kept
    | with_reducible refine KeptO.next ?_
    | with_reducible refine ite_keeps (P := Kept s0) ?_ ?_
    | with_reducible refine ite_keeps (P := KeptO s0) ?_ ?_
    | (intro y; intros)
    | with_reducible refine foldl_kept ?_ (fun s x hs => ?_))

theorem openClassJob_kept {s0 : State} (s : State) (b : Nat) (w : BitVec 64) (cls : Nat) (hs1 : Kept s0 s) :
    Kept s0 (openClassJob s b w cls) := by
  unfold openClassJob
  repeat' (first
    | with_reducible assumption
    | dsimp -zeta only
    | fail_if_no_progress with_reducible refine Kept.lit ?_
    | with_reducible apply openJob_kept
    | with_reducible apply growJob_kept)

theorem groupJobs_kept {s0 : State} (s : State) (b : Nat) (gid : Nat) (w : BitVec 64) (hs1 : Kept s0 s) :
    Kept s0 (groupJobs s b gid w) := by
  unfold groupJobs
  repeat' (first
    | with_reducible assumption
    | with_reducible apply hf
    | fail_if_no_progress with_reducible refine Kept.lit ?_
    | with_reducible apply closeJob_kept
    | with_reducible apply trimJob_kept
    | with_reducible apply growJob_kept
    | with_reducible apply openClassJob_kept
    | with_reducible refine KeptO.next ?_
    | with_reducible refine ite_keeps (P := Kept s0) ?_ ?_
    | with_reducible refine ite_keeps (P := KeptO s0) ?_ ?_
    | (intro y; intros)
    | with_reducible refine foldl_kept ?_ (fun s x hs => ?_)
    | (extract_lets +onlyGivenNames z; refine both (A := Kept s0 z) ?_ (fun hz => ?_) <;> [(dsimp -zeta only [z]; clear z); clear_value z])
    | (extract_lets +onlyGivenNames z; refine both (A := ∀ a b c, Kept s0 (z a b c)) ?_ (fun hf => ?_) <;> [(dsimp -zeta only [z]; clear z); clear_value z])
    | (extract_lets +onlyGivenNames z; refine both (A := ∀ a b, Kept s0 (z a b)) ?_ (fun hf => ?_) <;> [(dsimp -zeta only [z]; clear z); clear_value z])
    | (extract_lets +onlyGivenNames z; refine both (A := ∀ a, Kept s0 (z a)) ?_ (fun hf => ?_) <;> [(dsimp -zeta only [z]; clear z); clear_value z])
    | (extract_lets +onlyGivenNames z; refine both (A := ∀ a b c d, Kept s0 a → Kept s0 (z a b c d)) ?_ (fun hf => ?_) <;> [(dsimp -zeta only [z]; clear z); clear_value z])
    | (extract_lets +onlyGivenNames z; refine both (A := ∀ a b c, Kept s0 a → Kept s0 (z a b c)) ?_ (fun hf => ?_) <;> [(dsimp -zeta only [z]; clear z); clear_value z])
    | (extract_lets +onlyGivenNames z; refine both (A := ∀ a b, Kept s0 a → Kept s0 (z a b)) ?_ (fun hf => ?_) <;> [(dsimp -zeta only [z]; clear z); clear_value z])
    | (extract_lets +onlyGivenNames z; refine both (A := ∀ a, Kept s0 a → Kept s0 (z a)) ?_ (fun hf => ?_) <;> [(dsimp -zeta only [z]; clear z); clear_value z])
    | (extract_lets +onlyGivenNames z; clear_value z)
    | split)

theorem takeSave_kept {s0 : State} (s : State) (b : Nat) (w : BitVec 64) (n : Nat) (hs1 : Kept s0 s) :
    Kept s0 (takeSave s b w n) := by
  unfold takeSave
  repeat' (first
    | with_reducible assumption
    | with_reducible apply hf
    | fail_if_no_progress with_reducible refine Kept.lit ?_
    | with_reducible apply clearSoon_kept
    | with_reducible apply setJob_kept
    | with_reducible apply takeGrans_kept
    | with_reducible refine KeptO.next ?_
    | with_reducible refine ite_keeps (P := Kept s0) ?_ ?_
    | with_reducible refine ite_keeps (P := KeptO s0) ?_ ?_
    | (intro y; intros)
    | with_reducible refine foldl_kept ?_ (fun s x hs => ?_))

theorem refreshJob_kept {s0 : State} (s : State) (b : Nat) (w : BitVec 64) (cls : Nat) (hs1 : Kept s0 s) :
    Kept s0 (refreshJob s b w cls) := by
  unfold refreshJob
  repeat' (first
    | with_reducible assumption
    | fail_if_no_progress with_reducible refine Kept.lit ?_
    | with_reducible apply openClassJob_kept
    | with_reducible apply growJob_kept
    | with_reducible apply trimJob_kept
    | with_reducible apply takeSave_kept
    | with_reducible refine KeptO.next ?_
    | with_reducible refine ite_keeps (P := Kept s0) ?_ ?_
    | with_reducible refine ite_keeps (P := KeptO s0) ?_ ?_
    | (extract_lets +onlyGivenNames z; refine both (A := Kept s0 z) ?_ (fun hz => ?_) <;> [(dsimp -zeta only [z]; clear z); clear_value z])
    | split)

theorem dropPad_kept {s0 : State} (s : State) (b : Nat) (gid : Nat) (hs1 : Kept s0 s) :
    Kept s0 (dropPad s b gid) := by
  unfold dropPad
  repeat' (first
    | with_reducible assumption
    | fail_if_no_progress with_reducible refine Kept.lit ?_
    | with_reducible apply clearRow_kept
    | with_reducible apply setGroup_kept
    | with_reducible refine KeptO.next ?_
    | with_reducible refine ite_keeps (P := Kept s0) ?_ ?_
    | with_reducible refine ite_keeps (P := KeptO s0) ?_ ?_
    | (intro y; intros)
    | split)

theorem endUnadmitted_kept {s0 : State} (s : State) (b : Nat) (hs1 : Kept s0 s) :
    Kept s0 (endUnadmitted s b) := by
  unfold endUnadmitted
  repeat' (first
    | with_reducible assumption
    | fail_if_no_progress with_reducible refine Kept.lit ?_
    | with_reducible apply endOff_kept
    | with_reducible refine KeptO.next ?_
    | with_reducible refine ite_keeps (P := Kept s0) ?_ ?_
    | with_reducible refine ite_keeps (P := KeptO s0) ?_ ?_
    | (intro y; intros)
    | with_reducible refine foldl_kept ?_ (fun s x hs => ?_))

theorem applyGroup_kept {s0 : State} (s : State) (b : Nat) (gid : Nat) (w : BitVec 64) (hs1 : Kept s0 s) :
    Kept s0 (applyGroup s b gid w) := by
  unfold applyGroup
  repeat' (first
    | with_reducible assumption
    | fail_if_no_progress with_reducible refine Kept.lit ?_
    | with_reducible apply groupJobs_kept
    | with_reducible apply leavePart_kept
    | with_reducible apply dropPad_kept
    | with_reducible apply setGroup_kept
    | with_reducible apply endUnadmitted_kept
    | with_reducible refine KeptO.next ?_
    | with_reducible refine ite_keeps (P := Kept s0) ?_ ?_)

theorem execReqGroup_kept {s0 : State} (h : Hdr) (rec : BitVec 64) (s : State) (hs1 : Kept s0 s) :
    KeptO s0 (execReqGroup h rec s) := by
  unfold execReqGroup
  repeat' (first
    | with_reducible assumption
    | fail_if_no_progress with_reducible refine Kept.lit ?_
    | with_reducible apply hostCmd_kept
    | with_reducible apply reply_kept
    | with_reducible apply applyGroup_kept
    | with_reducible apply setGroup_kept
    | with_reducible refine KeptO.next ?_
    | with_reducible refine ite_keeps (P := Kept s0) ?_ ?_
    | with_reducible refine ite_keeps (P := KeptO s0) ?_ ?_
    | (intro y; intros)
    | (extract_lets +onlyGivenNames z; refine both (A := Kept s0 z) ?_ (fun hz => ?_) <;> [(dsimp -zeta only [z]; clear z); clear_value z])
    | (extract_lets +onlyGivenNames z; clear_value z)
    | split)

theorem settleGroup_kept {s0 : State} (s : State) (b : Nat) (gid : Nat) (hs1 : Kept s0 s) :
    Kept s0 (settleGroup s b gid) := by
  unfold settleGroup
  repeat' (first
    | with_reducible assumption
    | with_reducible apply hf
    | fail_if_no_progress with_reducible refine Kept.lit ?_
    | with_reducible apply applyGroup_kept
    | with_reducible refine KeptO.next ?_
    | with_reducible refine ite_keeps (P := Kept s0) ?_ ?_
    | with_reducible refine ite_keeps (P := KeptO s0) ?_ ?_
    | (intro y; intros)
    | (extract_lets +onlyGivenNames z; refine both (A := Kept s0 z) ?_ (fun hz => ?_) <;> [(dsimp -zeta only [z]; clear z); clear_value z])
    | (extract_lets +onlyGivenNames z; refine both (A := ∀ a b c, Kept s0 (z a b c)) ?_ (fun hf => ?_) <;> [(dsimp -zeta only [z]; clear z); clear_value z])
    | (extract_lets +onlyGivenNames z; refine both (A := ∀ a b, Kept s0 (z a b)) ?_ (fun hf => ?_) <;> [(dsimp -zeta only [z]; clear z); clear_value z])
    | (extract_lets +onlyGivenNames z; refine both (A := ∀ a, Kept s0 (z a)) ?_ (fun hf => ?_) <;> [(dsimp -zeta only [z]; clear z); clear_value z])
    | (extract_lets +onlyGivenNames z; refine both (A := ∀ a b c d, Kept s0 a → Kept s0 (z a b c d)) ?_ (fun hf => ?_) <;> [(dsimp -zeta only [z]; clear z); clear_value z])
    | (extract_lets +onlyGivenNames z; refine both (A := ∀ a b c, Kept s0 a → Kept s0 (z a b c)) ?_ (fun hf => ?_) <;> [(dsimp -zeta only [z]; clear z); clear_value z])
    | (extract_lets +onlyGivenNames z; refine both (A := ∀ a b, Kept s0 a → Kept s0 (z a b)) ?_ (fun hf => ?_) <;> [(dsimp -zeta only [z]; clear z); clear_value z])
    | (extract_lets +onlyGivenNames z; refine both (A := ∀ a, Kept s0 a → Kept s0 (z a)) ?_ (fun hf => ?_) <;> [(dsimp -zeta only [z]; clear z); clear_value z])
    | (extract_lets +onlyGivenNames z; clear_value z)
    | split)

end Sys2Proof.Laws
end

