-- ==== Sys2Proof/Laws/KeptTrain.lean ====
section
/-! SUPPORT. What the functions of Machine/Train.lean keep: the waiting commands and memory's canonical form. -/

namespace Sys2Proof.Laws

open Sys2Proof Sys2Proof.Machine

theorem setTrain_kept {s0 : State} (s : State) (b : Nat) (tid : Nat) (f : Train → Train) (hs1 : Kept s0 s) :
    Kept s0 (setTrain s b tid f) := by
  unfold setTrain
  repeat' (first
    | with_reducible assumption
    | fail_if_no_progress with_reducible refine Kept.lit ?_)

theorem writeTensor_kept {s0 : State} (s : State) (b : Nat) (at_ : Nat) (h : WHdr) (trits : List (List Int)) (codes : List (List Nat)) (hs1 : Kept s0 s) :
    Kept s0 (writeTensor s b at_ h trits codes) := by
  unfold writeTensor
  repeat' (first
    | with_reducible assumption
    | fail_if_no_progress with_reducible refine Kept.lit ?_
    | with_reducible apply tierPuts_kept
    | with_reducible refine KeptO.next ?_
    | with_reducible refine ite_keeps (P := Kept s0) ?_ ?_)

theorem writeBack_kept {s0 : State} (s : State) (b : Nat) (at_ : Nat) (h : WHdr) (trits : List (List Int)) (codes : List (List Nat)) (hs1 : Kept s0 s) :
    Kept s0 (writeBack s b at_ h trits codes) := by
  unfold writeBack
  repeat' (first
    | with_reducible assumption
    | fail_if_no_progress with_reducible refine Kept.lit ?_
    | with_reducible apply writeTensor_kept)

theorem rewriteCopies_kept {s0 : State} (s : State) (b : Nat) (m : Model) (v : Variant) (u : Upd) (h : WHdr) (hs1 : Kept s0 s) :
    Kept s0 (rewriteCopies s b m v u h) := by
  unfold rewriteCopies
  repeat' (first
    | with_reducible assumption
    | fail_if_no_progress with_reducible refine Kept.lit ?_
    | with_reducible apply writeBack_kept
    | with_reducible apply writeTensor_kept)

theorem zeroF32_kept {s0 : State} (s : State) (b : Nat) (addr : Nat) (n : Nat) (hs1 : Kept s0 s) :
    Kept s0 (zeroF32 s b addr n) := by
  unfold zeroF32
  repeat' (first
    | with_reducible assumption
    | fail_if_no_progress with_reducible refine Kept.lit ?_
    | with_reducible apply tierPuts_kept)

theorem eachUpd_kept {s0 : State} (s : State) (t : Train) (f : Model → Variant → Upd → WHdr → State → State) (hs1 : Kept s0 s) (hb1 : ∀ x0 x1 x2 x3 s, Kept s0 s → Kept s0 (f x0 x1 x2 x3 s)) :
    Kept s0 (eachUpd s t f) := by
  unfold eachUpd
  repeat' (first
    | with_reducible assumption
    | apply hb1
    | fail_if_no_progress with_reducible refine Kept.lit ?_
    | with_reducible refine KeptO.next ?_
    | with_reducible refine ite_keeps (P := Kept s0) ?_ ?_
    | with_reducible refine ite_keeps (P := KeptO s0) ?_ ?_
    | (intro y; intros)
    | with_reducible refine foldl_kept ?_ (fun s x hs => ?_)
    | (extract_lets +onlyGivenNames z; refine both (A := Kept s0 z) ?_ (fun hz => ?_) <;> [(dsimp -zeta only [z]; clear z); clear_value z])
    | (extract_lets +onlyGivenNames z; clear_value z)
    | split)

theorem clearGacc_kept {s0 : State} (s : State) (t : Train) (hs1 : Kept s0 s) :
    Kept s0 (clearGacc s t) := by
  unfold clearGacc
  repeat' (first
    | with_reducible assumption
    | fail_if_no_progress with_reducible refine Kept.lit ?_
    | with_reducible apply eachUpd_kept
    | with_reducible apply zeroF32_kept
    | with_reducible refine KeptO.next ?_
    | with_reducible refine ite_keeps (P := Kept s0) ?_ ?_
    | with_reducible refine ite_keeps (P := KeptO s0) ?_ ?_
    | (intro y; intros))

theorem setShadow_kept {s0 : State} (s : State) (t : Train) (hs1 : Kept s0 s) :
    Kept s0 (setShadow s t) := by
  unfold setShadow
  repeat' (first
    | with_reducible assumption
    | fail_if_no_progress with_reducible refine Kept.lit ?_
    | with_reducible apply eachUpd_kept
    | with_reducible apply zeroF32_kept
    | with_reducible apply tierPuts_kept
    | with_reducible apply rewriteCopies_kept
    | with_reducible refine KeptO.next ?_
    | with_reducible refine ite_keeps (P := Kept s0) ?_ ?_
    | with_reducible refine ite_keeps (P := KeptO s0) ?_ ?_
    | (intro y; intros))

theorem updateArrays_kept {s0 : State} (s : State) (t : Train) (u : Upd) (n : Nat) (hs1 : Kept s0 s) :
    Kept s0 (updateArrays s t u n).2 := by
  unfold updateArrays
  repeat' (first
    | with_reducible assumption
    | dsimp -zeta only
    | with_reducible refine ite_keeps (P := fun p => Kept s0 p.2) ?_ ?_
    | fail_if_no_progress with_reducible refine Kept.lit ?_
    | with_reducible apply tierPuts_kept
    | with_reducible apply zeroF32_kept)

theorem publishSet_kept {s0 : State} (s : State) (t : Train) (hs1 : Kept s0 s) :
    Kept s0 (publishSet s t) := by
  unfold publishSet
  repeat' (first
    | with_reducible apply memPut_wf
    | with_reducible apply memPuts_wf
    | with_reducible apply memClear_wf
    | with_reducible refine Kept.mem (s0 := s0) ?_
    | with_reducible assumption
    | with_reducible apply hf
    | fail_if_no_progress with_reducible refine Kept.lit ?_
    | with_reducible apply raise_kept
    | with_reducible apply addVerify_kept
    | with_reducible refine KeptO.next ?_
    | with_reducible refine ite_keeps (P := Kept s0) ?_ ?_
    | with_reducible refine ite_keeps (P := KeptO s0) ?_ ?_
    | (intro y; intros)
    | with_reducible refine foldl_kept ?_ (fun s x hs => ?_)
    | (extract_lets +onlyGivenNames z; refine both (A := Kept s0 z) ?_ (fun hz => ?_) <;> [(dsimp -zeta only [z]; clear z); clear_value z])
    | (extract_lets +onlyGivenNames z; refine both (A := ∀ a b c, Kept s0 (z a b c)) ?_ (fun hf => ?_) <;> [(dsimp -zeta only [z]; clear z); clear_value z])
    | (extract_lets +onlyGivenNames z; refine both (A := ∀ a b, Kept s0 (z a b)) ?_ (fun hf => ?_) <;> [(dsimp -zeta only [z]; clear z); clear_value z])
    | (extract_lets +onlyGivenNames z; refine both (A := ∀ a, Kept s0 (z a)) ?_ (fun hf => ?_) <;> [(dsimp -zeta only [z]; clear z); clear_value z])
    | (extract_lets +onlyGivenNames z; refine both (A := ∀ a b c d, Kept s0 a → Kept s0 (z a b c d)) ?_ (fun hf => ?_) <;> [(dsimp -zeta only [z]; clear z); clear_value z])
    | (extract_lets +onlyGivenNames z; refine both (A := ∀ a b c, Kept s0 a → Kept s0 (z a b c)) ?_ (fun hf => ?_) <;> [(dsimp -zeta only [z]; clear z); clear_value z])
    | (extract_lets +onlyGivenNames z; refine both (A := ∀ a b, Kept s0 a → Kept s0 (z a b)) ?_ (fun hf => ?_) <;> [(dsimp -zeta only [z]; clear z); clear_value z])
    | (extract_lets +onlyGivenNames z; refine both (A := ∀ a, Kept s0 a → Kept s0 (z a)) ?_ (fun hf => ?_) <;> [(dsimp -zeta only [z]; clear z); clear_value z])
    | (extract_lets +onlyGivenNames z; clear_value z)
    | split
    | with_reducible refine Kept.litMem ?_ ?_)

theorem stopTrain_kept {s0 : State} (s : State) (t : Train) (status : Nat) (hs1 : Kept s0 s) :
    Kept s0 (stopTrain s t status) := by
  unfold stopTrain
  repeat' (first
    | with_reducible assumption
    | fail_if_no_progress with_reducible refine Kept.lit ?_
    | with_reducible apply clearGacc_kept
    | with_reducible apply setTrain_kept
    | with_reducible apply answerDeferred_kept
    | with_reducible apply raise_kept
    | with_reducible refine KeptO.next ?_
    | with_reducible refine ite_keeps (P := Kept s0) ?_ ?_)

theorem failTrain_kept {s0 : State} (s : State) (t : Train) (status : Nat) (hs1 : Kept s0 s) :
    Kept s0 (failTrain s t status) := by
  unfold failTrain
  repeat' (first
    | with_reducible assumption
    | fail_if_no_progress with_reducible refine Kept.lit ?_
    | with_reducible apply setTrain_kept
    | with_reducible apply answerDeferred_kept
    | with_reducible apply raise_kept)

theorem dropTrain_kept {s0 : State} (s : State) (t : Train) (status : Nat) (hs1 : Kept s0 s) :
    Kept s0 (dropTrain s t status) := by
  unfold dropTrain
  repeat' (first
    | with_reducible assumption
    | fail_if_no_progress with_reducible refine Kept.lit ?_
    | with_reducible apply leavePart_kept
    | with_reducible apply answerDeferred_kept
    | with_reducible apply unmapPages_kept)

theorem trainCounts_kept {s0 : State} (s : State) (t : Step) (tid : Nat) (hs1 : Kept s0 s) :
    Kept s0 (trainCounts s t tid) := by
  unfold trainCounts
  repeat' (first
    | with_reducible assumption
    | fail_if_no_progress with_reducible refine Kept.lit ?_
    | with_reducible apply setTrain_kept
    | with_reducible refine KeptO.next ?_
    | with_reducible refine ite_keeps (P := Kept s0) ?_ ?_
    | with_reducible refine ite_keeps (P := KeptO s0) ?_ ?_
    | (intro y; intros)
    | with_reducible refine foldl_kept ?_ (fun s x hs => ?_))

theorem microDone_kept {s0 : State} (s : State) (t : Train) (hs1 : Kept s0 s) :
    Kept s0 (microDone s t) := by
  unfold microDone
  repeat' (first
    | with_reducible assumption
    | fail_if_no_progress with_reducible refine Kept.lit ?_
    | with_reducible apply setTrain_kept)

theorem runUpdate_kept {s0 : State} (s : State) (t : Train) (hs1 : Kept s0 s) :
    Kept s0 (runUpdate s t) := by
  unfold runUpdate
  repeat' (first
    | with_reducible assumption
    | dsimp -zeta only
    | fail_if_no_progress with_reducible refine Kept.lit ?_
    | with_reducible apply eachUpd_kept
    | with_reducible apply updateArrays_kept
    | with_reducible apply setTrain_kept
    | with_reducible apply failTrain_kept
    | with_reducible apply rewriteCopies_kept
    | with_reducible apply publishSet_kept
    | with_reducible refine KeptO.next ?_
    | with_reducible refine ite_keeps (P := Kept s0) ?_ ?_
    | with_reducible refine ite_keeps (P := KeptO s0) ?_ ?_
    | (intro y; intros)
    | (extract_lets +onlyGivenNames z; refine both (A := Kept s0 z) ?_ (fun hz => ?_) <;> [(dsimp -zeta only [z]; clear z); clear_value z])
    | (extract_lets +onlyGivenNames z; clear_value z)
    | (split <;> try (rename_i he; have hk := congrArg Prod.snd he; dsimp -zeta only at hk; subst hk)))

theorem trainBoundary_kept {s0 : State} (s : State) (t : Step) (tid : Nat) (phase : Nat) (status : Nat) (hs1 : Kept s0 s) :
    Kept s0 (trainBoundary s t tid phase status) := by
  unfold trainBoundary
  repeat' (first
    | with_reducible assumption
    | fail_if_no_progress with_reducible refine Kept.lit ?_
    | with_reducible apply stopTrain_kept
    | with_reducible apply setTrain_kept
    | with_reducible apply failTrain_kept
    | with_reducible apply microDone_kept
    | with_reducible apply trainCounts_kept
    | with_reducible apply runUpdate_kept
    | with_reducible refine KeptO.next ?_
    | with_reducible refine ite_keeps (P := Kept s0) ?_ ?_
    | with_reducible refine ite_keeps (P := KeptO s0) ?_ ?_
    | (intro y; intros)
    | (extract_lets +onlyGivenNames z; refine both (A := Kept s0 z) ?_ (fun hz => ?_) <;> [(dsimp -zeta only [z]; clear z); clear_value z])
    | split)

theorem endOrphans_kept {s0 : State} (s : State) (b : Nat) (hs1 : Kept s0 s) :
    Kept s0 (endOrphans s b) := by
  unfold endOrphans
  repeat' (first
    | with_reducible assumption
    | fail_if_no_progress with_reducible refine Kept.lit ?_
    | with_reducible apply dropTrain_kept
    | with_reducible apply raise_kept
    | with_reducible refine KeptO.next ?_
    | with_reducible refine ite_keeps (P := Kept s0) ?_ ?_
    | with_reducible refine ite_keeps (P := KeptO s0) ?_ ?_
    | (intro y; intros)
    | with_reducible refine foldl_kept ?_ (fun s x hs => ?_))

theorem execTrainCreate_kept {s0 : State} (h : Hdr) (rec : BitVec 512) (s : State) (hs1 : Kept s0 s) :
    KeptO s0 (execTrainCreate h rec s) := by
  unfold execTrainCreate
  repeat' (first
    | with_reducible assumption
    | fail_if_no_progress with_reducible refine Kept.lit ?_
    | with_reducible apply hostCmd_kept
    | with_reducible apply reply_kept
    | with_reducible apply deferCmd_kept
    | with_reducible apply askCopies_kept
    | with_reducible refine KeptO.next ?_
    | with_reducible refine ite_keeps (P := Kept s0) ?_ ?_
    | with_reducible refine ite_keeps (P := KeptO s0) ?_ ?_
    | (intro y; intros))

theorem execShadowStateSet_kept {s0 : State} (basin : Nat) (tid : Nat) (s : State) (hs1 : Kept s0 s) :
    KeptO s0 (execShadowStateSet basin tid s) := by
  unfold execShadowStateSet
  repeat' (first
    | with_reducible assumption
    | fail_if_no_progress with_reducible refine Kept.lit ?_
    | with_reducible apply setTrain_kept
    | with_reducible apply setShadow_kept
    | with_reducible apply answerDeferred_kept
    | with_reducible refine KeptO.next ?_
    | with_reducible refine ite_keeps (P := Kept s0) ?_ ?_
    | with_reducible refine ite_keeps (P := KeptO s0) ?_ ?_
    | (intro y; intros)
    | split)

theorem execTrainFeed_kept {s0 : State} (h : Hdr) (tid : Nat) (addr : Nat) (s : State) (hs1 : Kept s0 s) :
    KeptO s0 (execTrainFeed h tid addr s) := by
  unfold execTrainFeed
  repeat' (first
    | with_reducible assumption
    | fail_if_no_progress with_reducible refine Kept.lit ?_
    | with_reducible apply hostCmd_kept
    | with_reducible apply reply_kept
    | with_reducible apply setTrain_kept
    | with_reducible refine KeptO.next ?_
    | with_reducible refine ite_keeps (P := Kept s0) ?_ ?_
    | with_reducible refine ite_keeps (P := KeptO s0) ?_ ?_
    | (intro y; intros)
    | (extract_lets +onlyGivenNames z; refine both (A := Kept s0 z) ?_ (fun hz => ?_) <;> [(dsimp -zeta only [z]; clear z); clear_value z])
    | (extract_lets +onlyGivenNames z; clear_value z)
    | split)

theorem execTrainStart_kept {s0 : State} (h : Hdr) (tid : Nat) (s : State) (hs1 : Kept s0 s) :
    KeptO s0 (execTrainStart h tid s) := by
  unfold execTrainStart
  repeat' (first
    | with_reducible assumption
    | fail_if_no_progress with_reducible refine Kept.lit ?_
    | with_reducible apply hostCmd_kept
    | with_reducible apply reply_kept
    | with_reducible apply setTrain_kept
    | with_reducible refine KeptO.next ?_
    | with_reducible refine ite_keeps (P := Kept s0) ?_ ?_
    | with_reducible refine ite_keeps (P := KeptO s0) ?_ ?_
    | (intro y; intros)
    | split)

theorem execTrainStop_kept {s0 : State} (h : Hdr) (tid : Nat) (s : State) (hs1 : Kept s0 s) :
    KeptO s0 (execTrainStop h tid s) := by
  unfold execTrainStop
  repeat' (first
    | with_reducible assumption
    | fail_if_no_progress with_reducible refine Kept.lit ?_
    | with_reducible apply hostCmd_kept
    | with_reducible apply reply_kept
    | with_reducible apply deferCmd_kept
    | with_reducible apply setTrain_kept
    | with_reducible apply stopTrain_kept
    | with_reducible refine KeptO.next ?_
    | with_reducible refine ite_keeps (P := Kept s0) ?_ ?_
    | with_reducible refine ite_keeps (P := KeptO s0) ?_ ?_
    | (intro y; intros)
    | (extract_lets +onlyGivenNames z; refine both (A := Kept s0 z) ?_ (fun hz => ?_) <;> [(dsimp -zeta only [z]; clear z); clear_value z])
    | split)

theorem execTrainQuery_kept {s0 : State} (h : Hdr) (tid : Nat) (s : State) (hs1 : Kept s0 s) :
    KeptO s0 (execTrainQuery h tid s) := by
  unfold execTrainQuery
  repeat' (first
    | with_reducible assumption
    | fail_if_no_progress with_reducible refine Kept.lit ?_
    | with_reducible apply hostCmd_kept
    | with_reducible apply reply_kept
    | with_reducible refine KeptO.next ?_
    | with_reducible refine ite_keeps (P := Kept s0) ?_ ?_
    | with_reducible refine ite_keeps (P := KeptO s0) ?_ ?_
    | (intro y; intros)
    | split)

theorem execTrainExport_kept {s0 : State} (h : Hdr) (tid : Nat) (s : State) (hs1 : Kept s0 s) :
    KeptO s0 (execTrainExport h tid s) := by
  unfold execTrainExport
  repeat' (first
    | with_reducible assumption
    | fail_if_no_progress with_reducible refine Kept.lit ?_
    | with_reducible apply hostCmd_kept
    | with_reducible apply reply_kept
    | with_reducible apply sendData_kept
    | with_reducible refine KeptO.next ?_
    | with_reducible refine ite_keeps (P := Kept s0) ?_ ?_
    | with_reducible refine ite_keeps (P := KeptO s0) ?_ ?_
    | (intro y; intros)
    | (extract_lets +onlyGivenNames z; refine both (A := Kept s0 z) ?_ (fun hz => ?_) <;> [(dsimp -zeta only [z]; clear z); clear_value z])
    | (extract_lets +onlyGivenNames z; clear_value z)
    | split)

theorem execTrainDelete_kept {s0 : State} (h : Hdr) (tid : Nat) (s : State) (hs1 : Kept s0 s) :
    KeptO s0 (execTrainDelete h tid s) := by
  unfold execTrainDelete
  repeat' (first
    | with_reducible assumption
    | fail_if_no_progress with_reducible refine Kept.lit ?_
    | with_reducible apply hostCmd_kept
    | with_reducible apply reply_kept
    | with_reducible apply dropTrain_kept
    | with_reducible refine KeptO.next ?_
    | with_reducible refine ite_keeps (P := Kept s0) ?_ ?_
    | with_reducible refine ite_keeps (P := KeptO s0) ?_ ?_
    | (intro y; intros)
    | split)

end Sys2Proof.Laws
end

