-- ==== Sys2Proof/Laws/KeptGrowth.lean ====
section
/-! SUPPORT. What the functions of Machine/Growth.lean keep: the waiting commands and memory's canonical form. -/

namespace Sys2Proof.Laws

open Sys2Proof Sys2Proof.Machine

theorem leavesFor_kept {s0 : State} (s : State) (b : Nat) (need : Nat) (hs1 : Kept s0 s) :
    Kept s0 (leavesFor s b need) := by
  unfold leavesFor
  repeat' (first
    | with_reducible assumption
    | fail_if_no_progress with_reducible refine Kept.lit ?_
    | with_reducible apply freeLeaves_kept)

theorem bringRows_kept {s0 : State} (s : State) (b : Nat) (ids : List Nat) (hs1 : Kept s0 s) :
    Kept s0 (bringRows s b ids) := by
  unfold bringRows
  repeat' (first
    | with_reducible assumption
    | fail_if_no_progress with_reducible refine Kept.lit ?_
    | with_reducible apply leavesFor_kept
    | with_reducible apply moveRow_kept
    | with_reducible refine KeptO.next ?_
    | with_reducible refine ite_keeps (P := Kept s0) ?_ ?_
    | with_reducible refine ite_keeps (P := KeptO s0) ?_ ?_
    | (intro y; intros)
    | with_reducible refine foldl_kept ?_ (fun s x hs => ?_))

theorem bringBack_kept {s0 : State} (s : State) (b : Nat) (hs1 : Kept s0 s) :
    Kept s0 (bringBack s b) := by
  unfold bringBack
  repeat' (first
    | with_reducible assumption
    | fail_if_no_progress with_reducible refine Kept.lit ?_
    | with_reducible apply bringRows_kept
    | with_reducible refine KeptO.next ?_
    | with_reducible refine ite_keeps (P := Kept s0) ?_ ?_
    | with_reducible refine ite_keeps (P := KeptO s0) ?_ ?_
    | (intro y; intros)
    | with_reducible refine foldl_kept ?_ (fun s x hs => ?_))

theorem execKvResume_kept {s0 : State} (h : Hdr) (conv : Nat) (s : State) (hs1 : Kept s0 s) :
    KeptO s0 (execKvResume h conv s) := by
  unfold execKvResume
  repeat' (first
    | with_reducible assumption
    | fail_if_no_progress with_reducible refine Kept.lit ?_
    | with_reducible apply hostCmd_kept
    | with_reducible apply reply_kept
    | with_reducible apply setKv_kept
    | with_reducible apply settleResumes_kept
    | with_reducible apply bringBack_kept
    | with_reducible apply deferCmd_kept
    | with_reducible refine KeptO.next ?_
    | with_reducible refine ite_keeps (P := Kept s0) ?_ ?_
    | with_reducible refine ite_keeps (P := KeptO s0) ?_ ?_
    | (intro y; intros)
    | (extract_lets +onlyGivenNames z; refine both (A := Kept s0 z) ?_ (fun hz => ?_) <;> [(dsimp -zeta only [z]; clear z); clear_value z])
    | split)

theorem suspendReq_kept {s0 : State} (s : State) (b : Nat) (tag : Nat) (cause : Nat) (hs1 : Kept s0 s) :
    Kept s0 (suspendReq s b tag cause) := by
  unfold suspendReq
  repeat' (first
    | with_reducible assumption
    | fail_if_no_progress with_reducible refine Kept.lit ?_
    | with_reducible apply rowsOut_kept
    | with_reducible apply setReq_kept
    | with_reducible apply setRow_kept
    | with_reducible apply setKv_kept
    | with_reducible apply raise_kept
    | with_reducible refine KeptO.next ?_
    | with_reducible refine ite_keeps (P := Kept s0) ?_ ?_
    | with_reducible refine ite_keeps (P := KeptO s0) ?_ ?_
    | (intro y; intros)
    | with_reducible refine foldl_kept ?_ (fun s x hs => ?_)
    | (split <;> try (rename_i he; have hk := congrArg Prod.snd he; dsimp -zeta only at hk; subst hk)))

theorem resumeSuspended_kept {s0 : State} (b : Nat) (z0 : Nat) (z1 : State) (hs1 : Kept s0 z1) :
    Kept s0 (resumeSuspended b z0 z1) := by
  induction z0 generalizing b z1 with
  | zero =>
    first | rw [resumeSuspended] | (rw [resumeSuspended.eq_def]; dsimp -zeta only)
    repeat' (first
      | with_reducible assumption)
  | succ n ih =>
    first | rw [resumeSuspended] | (rw [resumeSuspended.eq_def]; dsimp -zeta only)
    repeat' (first
      | with_reducible assumption
      | with_reducible apply ih
      | fail_if_no_progress with_reducible refine Kept.lit ?_
      | with_reducible apply setReq_kept
      | with_reducible apply keepHot_kept
      | with_reducible apply moveRow_kept
      | with_reducible apply setRow_kept
      | with_reducible apply raise_kept
      | with_reducible refine KeptO.next ?_
      | with_reducible refine ite_keeps (P := Kept s0) ?_ ?_
      | with_reducible refine ite_keeps (P := KeptO s0) ?_ ?_
      | (intro y; intros)
      | with_reducible refine foldl_kept ?_ (fun s x hs => ?_)
      | (extract_lets +onlyGivenNames z; refine both (A := Kept s0 z) ?_ (fun hz => ?_) <;> [(dsimp -zeta only [z]; clear z); clear_value z])
      | (extract_lets +onlyGivenNames z; clear_value z)
      | split)

theorem stageOne_kept {s0 : State} (b : Nat) (need : Nat) (z0 : Nat) (z1 : List Nat) (z2 : State) (hs1 : Kept s0 z2) :
    Kept s0 (stageOne b need z0 z1 z2) := by
  induction z0 generalizing b need z1 z2 with
  | zero =>
    first | rw [stageOne] | (rw [stageOne.eq_def]; dsimp -zeta only)
    repeat' (first
      | with_reducible assumption)
  | succ n ih =>
    first | rw [stageOne] | (rw [stageOne.eq_def]; dsimp -zeta only)
    repeat' (first
      | with_reducible assumption
      | with_reducible apply ih
      | fail_if_no_progress with_reducible refine Kept.lit ?_
      | with_reducible apply rowsOut_kept
      | with_reducible refine KeptO.next ?_
      | with_reducible refine ite_keeps (P := Kept s0) ?_ ?_
      | with_reducible refine ite_keeps (P := KeptO s0) ?_ ?_
      | (intro y; intros)
      | (extract_lets +onlyGivenNames z; refine both (A := Kept s0 z) ?_ (fun hz => ?_) <;> [(dsimp -zeta only [z]; clear z); clear_value z])
      | (extract_lets +onlyGivenNames z; clear_value z)
      | (split <;> try (rename_i he; have hk := congrArg Prod.snd he; dsimp -zeta only at hk; subst hk)))

theorem stageTwo_kept {s0 : State} (b : Nat) (cls : Nat) (need : Nat) (z0 : Nat) (z1 : List Nat) (z2 : State) (hs1 : Kept s0 z2) :
    Kept s0 (stageTwo b cls need z0 z1 z2) := by
  induction z0 generalizing b cls need z1 z2 with
  | zero =>
    first | rw [stageTwo] | (rw [stageTwo.eq_def]; dsimp -zeta only)
    repeat' (first
      | with_reducible assumption)
  | succ n ih =>
    first | rw [stageTwo] | (rw [stageTwo.eq_def]; dsimp -zeta only)
    repeat' (first
      | with_reducible assumption
      | with_reducible apply ih
      | fail_if_no_progress with_reducible refine Kept.lit ?_
      | with_reducible apply suspendReq_kept
      | with_reducible apply setReq_kept
      | with_reducible refine KeptO.next ?_
      | with_reducible refine ite_keeps (P := Kept s0) ?_ ?_
      | with_reducible refine ite_keeps (P := KeptO s0) ?_ ?_
      | (intro y; intros)
      | (extract_lets +onlyGivenNames z; refine both (A := Kept s0 z) ?_ (fun hz => ?_) <;> [(dsimp -zeta only [z]; clear z); clear_value z])
      | (extract_lets +onlyGivenNames z; clear_value z)
      | split)

theorem makeRoom_kept {s0 : State} (s : State) (b : Nat) (need : Nat) (owed : Nat) (grower : Request) (last : Bool) (hs1 : Kept s0 s) :
    Kept s0 (makeRoom s b need owed grower last).2 := by
  unfold makeRoom
  repeat' (first
    | with_reducible assumption
    | dsimp -zeta only
    | with_reducible refine ite_keeps (P := fun p => Kept s0 p.2) ?_ ?_
    | fail_if_no_progress with_reducible refine Kept.lit ?_
    | with_reducible apply setReq_kept
    | with_reducible apply leavesFor_kept
    | with_reducible apply stageOne_kept
    | with_reducible apply stageTwo_kept
    | with_reducible apply suspendReq_kept
    | with_reducible refine KeptO.next ?_
    | with_reducible refine ite_keeps (P := Kept s0) ?_ ?_
    | with_reducible refine ite_keeps (P := KeptO s0) ?_ ?_
    | (intro y; intros)
    | (extract_lets +onlyGivenNames z; refine both (A := Kept s0 z) ?_ (fun hz => ?_) <;> [(dsimp -zeta only [z]; clear z); clear_value z])
    | (extract_lets +onlyGivenNames z; clear_value z)
    | split)

theorem pagesFit_kept {s0 : State} (s : State) (b : Nat) (n : Nat) (hs1 : Kept s0 s) :
    Kept s0 (pagesFit s b n).2 := by
  unfold pagesFit
  repeat' (first
    | with_reducible assumption
    | dsimp -zeta only
    | with_reducible refine ite_keeps (P := fun p => Kept s0 p.2) ?_ ?_
    | fail_if_no_progress with_reducible refine Kept.lit ?_
    | with_reducible apply dropRebuildable_kept
    | with_reducible refine KeptO.next ?_
    | with_reducible refine ite_keeps (P := Kept s0) ?_ ?_)

theorem allocRow_kept {s0 : State} (s : State) (b : Nat) (n : Nat) (c0 : Bool) (pad : Bool) (hs1 : Kept s0 s) :
    Kept s0 (allocRow s b n c0 pad).2 := by
  unfold allocRow
  repeat' (first
    | with_reducible assumption
    | dsimp -zeta only
    | with_reducible refine ite_keeps (P := fun p => Kept s0 p.2) ?_ ?_
    | fail_if_no_progress with_reducible refine Kept.lit ?_
    | with_reducible apply pagesFit_kept
    | with_reducible apply newRow_kept
    | with_reducible refine KeptO.next ?_
    | with_reducible refine ite_keeps (P := Kept s0) ?_ ?_
    | with_reducible refine ite_keeps (P := KeptO s0) ?_ ?_
    | (split <;> try (rename_i he; have hk := congrArg Prod.snd he; dsimp -zeta only at hk; subst hk)))

theorem growReq_kept {s0 : State} (s : State) (b : Nat) (tag : Nat) (owed : Nat) (hs1 : Kept s0 s) :
    Kept s0 (growReq s b tag owed).2 := by
  unfold growReq
  repeat' (first
    | with_reducible assumption
    | dsimp -zeta only
    | with_reducible refine ite_keeps (P := fun p => Kept s0 p.2) ?_ ?_
    | fail_if_no_progress with_reducible refine Kept.lit ?_
    | with_reducible apply makeRoom_kept
    | with_reducible apply moveRow_kept
    | with_reducible apply allocRow_kept
    | with_reducible apply setReq_kept
    | with_reducible refine KeptO.next ?_
    | with_reducible refine ite_keeps (P := Kept s0) ?_ ?_
    | with_reducible refine ite_keeps (P := KeptO s0) ?_ ?_
    | (intro y; intros)
    | with_reducible refine foldl_kept ?_ (fun s x hs => ?_)
    | (extract_lets +onlyGivenNames z; refine both (A := Kept s0 z) ?_ (fun hz => ?_) <;> [(dsimp -zeta only [z]; clear z); clear_value z])
    | (extract_lets +onlyGivenNames z; clear_value z)
    | (split <;> try (rename_i he; have hk := congrArg Prod.snd he; dsimp -zeta only at hk; subst hk)))

theorem growAll_kept {s0 : State} (b : Nat) (owed : Nat) (z0 : Nat) (z1 : List Nat) (z2 : State) (hs1 : Kept s0 z2) :
    Kept s0 (growAll b owed z0 z1 z2).2 := by
  induction z1 generalizing owed z0 z2 with
  | nil => cases z0 <;> exact hs1
  | cons tag l ih =>
    cases z0 with
    | zero => exact hs1
    | succ n =>
      rw [growAll]
      have hg := growReq_kept z2 b tag owed hs1
      split <;> (rename_i he; rw [he] at hg)
      · exact ih _ _ _ hg
      · exact ih _ _ _ hg

theorem padLists_kept {s0 : State} (s : State) (b : Nat) (gid : Nat) (layers : Nat) (heads : Nat) (hs1 : Kept s0 s) :
    Kept s0 (padLists s b gid layers heads).2 := by
  unfold padLists
  repeat' (first
    | with_reducible assumption
    | dsimp -zeta only
    | with_reducible refine ite_keeps (P := fun p => Kept s0 p.2) ?_ ?_
    | fail_if_no_progress with_reducible refine Kept.lit ?_
    | with_reducible apply setGroup_kept
    | with_reducible refine KeptO.next ?_
    | with_reducible refine ite_keeps (P := Kept s0) ?_ ?_
    | with_reducible refine ite_keeps (P := KeptO s0) ?_ ?_
    | (intro y; intros)
    | (extract_lets +onlyGivenNames z; refine both (A := Kept s0 z) ?_ (fun hz => ?_) <;> [(dsimp -zeta only [z]; clear z); clear_value z])
    | (extract_lets +onlyGivenNames z; clear_value z)
    | split)

theorem takePad_kept {s0 : State} (s : State) (b : Nat) (gid : Nat) (grower : Request) (hs1 : Kept s0 s) :
    Kept s0 (takePad s b gid grower).2 := by
  unfold takePad
  repeat' (first
    | with_reducible assumption
    | dsimp -zeta only
    | with_reducible refine ite_keeps (P := fun p => Kept s0 p.2) ?_ ?_
    | fail_if_no_progress with_reducible refine Kept.lit ?_
    | with_reducible apply padLists_kept
    | with_reducible apply dropPad_kept
    | with_reducible apply leavesFor_kept
    | with_reducible apply makeRoom_kept
    | with_reducible apply allocRow_kept
    | with_reducible apply setGroup_kept
    | with_reducible refine KeptO.next ?_
    | with_reducible refine ite_keeps (P := Kept s0) ?_ ?_
    | with_reducible refine ite_keeps (P := KeptO s0) ?_ ?_
    | (intro y; intros)
    | (extract_lets +onlyGivenNames z; refine both (A := Kept s0 z) ?_ (fun hz => ?_) <;> [(dsimp -zeta only [z]; clear z); clear_value z])
    | (extract_lets +onlyGivenNames z; clear_value z)
    | (split <;> try (rename_i he; have hk := congrArg Prod.snd he; dsimp -zeta only at hk; subst hk)))

end Sys2Proof.Laws
end

