-- ==== Sys2Proof/Laws/KeptBatch.lean ====
section
/-! SUPPORT. What the functions of Machine/Batch.lean keep: the waiting commands and memory's canonical form. -/

namespace Sys2Proof.Laws

open Sys2Proof Sys2Proof.Machine

theorem areaWrite_kept {s0 : State} (s : State) (t : Step) (a : Nat) (bs : List Byte) (hs1 : Kept s0 s) :
    Kept s0 (areaWrite s t a bs).2 := by
  unfold areaWrite
  repeat' (first
    | with_reducible apply memPut_wf
    | dsimp -zeta only
    | with_reducible refine ite_keeps (P := fun p => Kept s0 p.2) ?_ ?_
    | with_reducible apply memPuts_wf
    | with_reducible apply memClear_wf
    | with_reducible refine Kept.mem (s0 := s0) ?_
    | with_reducible assumption
    | fail_if_no_progress with_reducible refine Kept.lit ?_
    | with_reducible apply narrowWritten_kept
    | with_reducible refine KeptO.next ?_
    | with_reducible refine ite_keeps (P := Kept s0) ?_ ?_
    | with_reducible refine ite_keeps (P := KeptO s0) ?_ ?_
    | (intro y; intros)
    | with_reducible refine foldl_kept ?_ (fun s x hs => ?_)
    | (extract_lets +onlyGivenNames z; refine both (A := Kept s0 z) ?_ (fun hz => ?_) <;> [(dsimp -zeta only [z]; clear z); clear_value z])
    | (extract_lets +onlyGivenNames z; clear_value z)
    | split
    | with_reducible refine Kept.litMem ?_ ?_)

theorem areaWrites_kept {s0 : State} (t : Step) (z0 : List (Nat × List Byte)) (z1 : State) (hs1 : Kept s0 z1) :
    Kept s0 (areaWrites t z0 z1).2 := by
  induction z0 generalizing t z1 with
  | nil =>
    first | rw [areaWrites] | (rw [areaWrites.eq_def]; dsimp -zeta only)
    repeat' (first
      | with_reducible assumption)
  | cons x l ih =>
    first | rw [areaWrites] | (rw [areaWrites.eq_def]; dsimp -zeta only)
    repeat' (first
      | with_reducible assumption
      | with_reducible apply ih
      | dsimp -zeta only
      | with_reducible refine ite_keeps (P := fun p => Kept s0 p.2) ?_ ?_
      | fail_if_no_progress with_reducible refine Kept.lit ?_
      | with_reducible apply areaWrite_kept
      | with_reducible refine KeptO.next ?_
      | with_reducible refine ite_keeps (P := Kept s0) ?_ ?_
      | with_reducible refine ite_keeps (P := KeptO s0) ?_ ?_
      | (split <;> try (rename_i he; have hk := congrArg Prod.snd he; dsimp -zeta only at hk; subst hk)))

theorem writeLists_kept {s0 : State} (s : State) (b : Nat) (l : List (Nat × List Byte)) (hs1 : Kept s0 s) :
    Kept s0 (writeLists s b l) := by
  unfold writeLists
  repeat' (first
    | with_reducible assumption
    | fail_if_no_progress with_reducible refine Kept.lit ?_
    | with_reducible apply narrowWritten_kept
    | with_reducible apply tierPuts_kept
    | with_reducible refine KeptO.next ?_
    | with_reducible refine ite_keeps (P := Kept s0) ?_ ?_
    | with_reducible refine ite_keeps (P := KeptO s0) ?_ ?_
    | (intro y; intros)
    | with_reducible refine foldl_kept ?_ (fun s x hs => ?_))

theorem bindTask_kept {s0 : State} (s : State) (sid : Nat) (hs1 : Kept s0 s) :
    Kept s0 (bindTask s sid) := by
  unfold bindTask
  repeat' (first
    | with_reducible assumption
    | fail_if_no_progress with_reducible refine Kept.lit ?_
    | with_reducible apply revokeJob_kept
    | with_reducible refine KeptO.next ?_
    | with_reducible refine ite_keeps (P := Kept s0) ?_ ?_
    | with_reducible refine ite_keeps (P := KeptO s0) ?_ ?_
    | split)

theorem areaFault_kept {s0 : State} (s : State) (sid : Nat) (x : Nat × Nat) (hs1 : Kept s0 s) :
    Kept s0 (areaFault s sid x) := by
  unfold areaFault
  repeat' (first
    | with_reducible assumption
    | fail_if_no_progress with_reducible refine Kept.lit ?_
    | with_reducible apply stepFlt_kept
    | with_reducible apply stopStep_kept
    | with_reducible apply endJob_kept
    | with_reducible apply endPoisoned_kept
    | with_reducible refine KeptO.next ?_
    | with_reducible refine ite_keeps (P := Kept s0) ?_ ?_
    | with_reducible refine ite_keeps (P := KeptO s0) ?_ ?_
    | split)

theorem putSlot_kept {s0 : State} (s : State) (t : Step) (w : SlotWork) (hs1 : Kept s0 s) :
    Kept s0 (putSlot s t w) := by
  unfold putSlot
  repeat' (first
    | with_reducible assumption
    | dsimp -zeta only
    | fail_if_no_progress with_reducible refine Kept.lit ?_
    | with_reducible apply writeLists_kept
    | with_reducible apply setStep_kept
    | with_reducible apply areaWrites_kept
    | with_reducible apply areaFault_kept
    | with_reducible refine KeptO.next ?_
    | with_reducible refine ite_keeps (P := Kept s0) ?_ ?_
    | with_reducible refine ite_keeps (P := KeptO s0) ?_ ?_
    | (intro y; intros)
    | (extract_lets +onlyGivenNames z; refine both (A := Kept s0 z) ?_ (fun hz => ?_) <;> [(dsimp -zeta only [z]; clear z); clear_value z])
    | (split <;> try (rename_i he; have hk := congrArg Prod.snd he; dsimp -zeta only at hk; subst hk)))

theorem fillSlot_kept {s0 : State} (s : State) (t : Step) (reqs : List Nat) (r : Nat) (hs1 : Kept s0 s) :
    Kept s0 (fillSlot s t reqs r) := by
  unfold fillSlot
  repeat' (first
    | with_reducible assumption
    | dsimp -zeta only
    | fail_if_no_progress with_reducible refine Kept.lit ?_
    | with_reducible apply areaFault_kept
    | with_reducible apply lentRange_kept
    | with_reducible apply putSlot_kept
    | with_reducible refine KeptO.next ?_
    | with_reducible refine ite_keeps (P := Kept s0) ?_ ?_
    | with_reducible refine ite_keeps (P := KeptO s0) ?_ ?_
    | (intro y; intros)
    | (extract_lets +onlyGivenNames z; refine both (A := Kept s0 z) ?_ (fun hz => ?_) <;> [(dsimp -zeta only [z]; clear z); clear_value z])
    | (extract_lets +onlyGivenNames z; clear_value z)
    | (split <;> try (rename_i he; have hk := congrArg Prod.snd he; dsimp -zeta only at hk; subst hk)))

theorem fillSlots_kept {s0 : State} (sid : Nat) (z0 : Nat) (z1 : State) (hs1 : Kept s0 z1) :
    Kept s0 (fillSlots sid z0 z1) := by
  induction z0 generalizing sid z1 with
  | zero =>
    first | rw [fillSlots] | (rw [fillSlots.eq_def]; dsimp -zeta only)
    repeat' (first
      | with_reducible assumption)
  | succ n ih =>
    first | rw [fillSlots] | (rw [fillSlots.eq_def]; dsimp -zeta only)
    repeat' (first
      | with_reducible assumption
      | with_reducible apply ih
      | fail_if_no_progress with_reducible refine Kept.lit ?_
      | with_reducible apply setStep_kept
      | with_reducible apply fillSlot_kept
      | with_reducible refine KeptO.next ?_
      | with_reducible refine ite_keeps (P := Kept s0) ?_ ?_
      | with_reducible refine ite_keeps (P := KeptO s0) ?_ ?_
      | (intro y; intros)
      | split)

theorem fillStep_kept {s0 : State} (sid : Nat) (s : State) (hs1 : Kept s0 s) :
    Kept s0 (fillStep sid s) := by
  unfold fillStep
  repeat' (first
    | with_reducible assumption
    | fail_if_no_progress with_reducible refine Kept.lit ?_
    | with_reducible apply fillSlots_kept)

theorem voidSteps_kept {s0 : State} (s : State) (cause : Nat) (hs1 : Kept s0 s) :
    Kept s0 (voidSteps s cause) := by
  unfold voidSteps
  repeat' (first
    | with_reducible assumption
    | fail_if_no_progress with_reducible refine Kept.lit ?_)

theorem holdStep_kept {s0 : State} (s : State) (sid : Nat) (hs1 : Kept s0 s) :
    Kept s0 (holdStep s sid) := by
  unfold holdStep
  repeat' (first
    | with_reducible assumption
    | fail_if_no_progress with_reducible refine Kept.lit ?_
    | with_reducible apply setStep_kept)

theorem resumeStep_kept {s0 : State} (s : State) (sid : Nat) (hs1 : Kept s0 s) :
    Kept s0 (resumeStep s sid) := by
  unfold resumeStep
  repeat' (first
    | with_reducible assumption
    | fail_if_no_progress with_reducible refine Kept.lit ?_
    | with_reducible apply setStep_kept)

theorem placeStep_kept {s0 : State} (s : State) (t : Step) (hs1 : Kept s0 s) :
    Kept s0 (placeStep s t) := by
  unfold placeStep
  repeat' (first
    | with_reducible assumption
    | fail_if_no_progress with_reducible refine Kept.lit ?_
    | with_reducible apply holdStep_kept
    | with_reducible apply setGroup_kept
    | with_reducible refine KeptO.next ?_
    | with_reducible refine ite_keeps (P := Kept s0) ?_ ?_
    | with_reducible refine ite_keeps (P := KeptO s0) ?_ ?_
    | (intro y; intros)
    | (extract_lets +onlyGivenNames z; refine both (A := Kept s0 z) ?_ (fun hz => ?_) <;> [(dsimp -zeta only [z]; clear z); clear_value z])
    | (extract_lets +onlyGivenNames z; clear_value z)
    | split)

theorem startBatch_kept {s0 : State} (s : State) (b : Nat) (gid : Nat) (w : Work) (p : BitVec 384) (tags : List Nat) (falls : List Nat) (hs1 : Kept s0 s) :
    Kept s0 (startBatch s b gid w p tags falls) := by
  unfold startBatch
  repeat' (first
    | with_reducible assumption
    | fail_if_no_progress with_reducible refine Kept.lit ?_
    | with_reducible apply refreshJob_kept
    | with_reducible apply placeStep_kept
    | with_reducible apply setReq_kept
    | with_reducible apply fillStep_kept
    | with_reducible apply bindTask_kept
    | with_reducible apply setStep_kept
    | with_reducible refine KeptO.next ?_
    | with_reducible refine ite_keeps (P := Kept s0) ?_ ?_
    | with_reducible refine ite_keeps (P := KeptO s0) ?_ ?_
    | (intro y; intros)
    | with_reducible refine foldl_kept ?_ (fun s x hs => ?_)
    | split)

theorem startPhase_kept {s0 : State} (s : State) (b : Nat) (gid : Nat) (tid : Nat) (w : Work) (hs1 : Kept s0 s) :
    Kept s0 (startPhase s b gid tid w) := by
  unfold startPhase
  repeat' (first
    | with_reducible assumption
    | fail_if_no_progress with_reducible refine Kept.lit ?_
    | with_reducible apply refreshJob_kept
    | with_reducible apply placeStep_kept
    | with_reducible refine KeptO.next ?_
    | with_reducible refine ite_keeps (P := Kept s0) ?_ ?_
    | with_reducible refine ite_keeps (P := KeptO s0) ?_ ?_
    | split)

theorem tryBatch_kept {s0 : State} (s : State) (b : Nat) (gid : Nat) (ws : List Work) (hs1 : Kept s0 s) :
    Kept s0 (tryBatch s b gid ws).2 := by
  unfold tryBatch
  repeat' (first
    | with_reducible assumption
    | dsimp -zeta only
    | with_reducible refine ite_keeps (P := fun p => Kept s0 p.2) ?_ ?_
    | fail_if_no_progress with_reducible refine Kept.lit ?_
    | with_reducible apply refreshJob_kept
    | with_reducible apply startPhase_kept
    | with_reducible apply growAll_kept
    | with_reducible apply startBatch_kept
    | with_reducible apply takePad_kept
    | with_reducible refine KeptO.next ?_
    | with_reducible refine ite_keeps (P := Kept s0) ?_ ?_
    | with_reducible refine ite_keeps (P := KeptO s0) ?_ ?_
    | (intro y; intros)
    | (extract_lets +onlyGivenNames z; refine both (A := Kept s0 z) ?_ (fun hz => ?_) <;> [(dsimp -zeta only [z]; clear z); clear_value z])
    | (extract_lets +onlyGivenNames z; clear_value z)
    | (split <;> try (rename_i he; have hk := congrArg Prod.snd he; dsimp -zeta only at hk; subst hk)))

theorem tryBatches_kept {s0 : State} (b : Nat) (gid : Nat) (z0 : Nat) (z1 : List Work) (z2 : State) (hs1 : Kept s0 z2) :
    Kept s0 (tryBatches b gid z0 z1 z2) := by
  induction z0 generalizing b gid z1 z2 with
  | zero =>
    first | rw [tryBatches] | (rw [tryBatches.eq_def]; dsimp -zeta only)
    repeat' (first
      | with_reducible assumption)
  | succ n ih =>
    first | rw [tryBatches] | (rw [tryBatches.eq_def]; dsimp -zeta only)
    repeat' (first
      | with_reducible assumption
      | with_reducible apply ih
      | dsimp -zeta only
      | fail_if_no_progress with_reducible refine Kept.lit ?_
      | with_reducible apply tryBatch_kept
      | with_reducible refine KeptO.next ?_
      | with_reducible refine ite_keeps (P := Kept s0) ?_ ?_
      | with_reducible refine ite_keeps (P := KeptO s0) ?_ ?_
      | (intro y; intros)
      | (extract_lets +onlyGivenNames z; refine both (A := Kept s0 z) ?_ (fun hz => ?_) <;> [(dsimp -zeta only [z]; clear z); clear_value z])
      | (extract_lets +onlyGivenNames z; clear_value z)
      | (split <;> try (rename_i he; have hk := congrArg Prod.snd he; dsimp -zeta only at hk; subst hk)))

theorem formBatch_kept {s0 : State} (s : State) (b : Nat) (gid : Nat) (onlyC0 : Bool) (hs1 : Kept s0 s) :
    Kept s0 (formBatch s b gid onlyC0) := by
  unfold formBatch
  repeat' (first
    | with_reducible assumption
    | fail_if_no_progress with_reducible refine Kept.lit ?_
    | with_reducible apply tryBatches_kept
    | with_reducible refine KeptO.next ?_
    | with_reducible refine ite_keeps (P := Kept s0) ?_ ?_)

theorem nextWork_kept {s0 : State} (s : State) (b : Nat) (gid : Nat) (hs1 : Kept s0 s) :
    Kept s0 (nextWork s b gid) := by
  unfold nextWork
  repeat' (first
    | with_reducible assumption
    | fail_if_no_progress with_reducible refine Kept.lit ?_
    | with_reducible apply setGroup_kept
    | with_reducible apply resumeStep_kept
    | with_reducible apply formBatch_kept
    | with_reducible refine KeptO.next ?_
    | with_reducible refine ite_keeps (P := Kept s0) ?_ ?_
    | with_reducible refine ite_keeps (P := KeptO s0) ?_ ?_
    | (intro y; intros)
    | (extract_lets +onlyGivenNames z; refine both (A := Kept s0 z) ?_ (fun hz => ?_) <;> [(dsimp -zeta only [z]; clear z); clear_value z])
    | (extract_lets +onlyGivenNames z; clear_value z)
    | split)

theorem execBatchForm_kept {s0 : State} (basin : Nat) (gid : Nat) (s : State) (hs1 : Kept s0 s) :
    KeptO s0 (execBatchForm basin gid s) := by
  unfold execBatchForm
  repeat' (first
    | with_reducible assumption
    | fail_if_no_progress with_reducible refine Kept.lit ?_
    | with_reducible apply resumeSuspended_kept
    | with_reducible apply setGroup_kept
    | with_reducible apply nextWork_kept
    | with_reducible apply settleResumes_kept
    | with_reducible apply bringBack_kept
    | with_reducible refine KeptO.next ?_
    | with_reducible refine ite_keeps (P := Kept s0) ?_ ?_)

end Sys2Proof.Laws
end

