-- ==== Sys2Proof/Laws/KeptReach.lean ====
section
/-! SUPPORT. What the functions of Machine/Reach.lean keep: the waiting commands and memory's canonical form. -/

namespace Sys2Proof.Laws

open Sys2Proof Sys2Proof.Machine

theorem setXfer_kept {s0 : State} (s : State) (sid : Nat) (i : Nat) (f : Xfer → Xfer) (hs1 : Kept s0 s) :
    Kept s0 (setXfer s sid i f) := by
  unfold setXfer
  repeat' (first
    | with_reducible assumption
    | fail_if_no_progress with_reducible refine Kept.lit ?_
    | with_reducible apply setUnits_kept)

theorem askTransfer_kept {s0 : State} (s : State) (b : Nat) (sid : Nat) (d : BitVec 512) (i : Nat) (hs1 : Kept s0 s) :
    Kept s0 (askTransfer s b sid d i) := by
  unfold askTransfer
  repeat' (first
    | with_reducible assumption
    | fail_if_no_progress with_reducible refine Kept.lit ?_
    | with_reducible apply setXfer_kept
    | with_reducible apply sendUnits_kept)

theorem sendTransfer_kept {s0 : State} (sid : Nat) (d : BitVec 512) (i : Nat) (z0 : Nat) (z1 : State) (hs1 : Kept s0 z1) :
    Kept s0 (sendTransfer sid d i z0 z1) := by
  induction z0 generalizing sid d i z1 with
  | zero =>
    first | rw [sendTransfer] | (rw [sendTransfer.eq_def]; dsimp -zeta only)
    repeat' (first
      | with_reducible assumption)
  | succ n ih =>
    first | rw [sendTransfer] | (rw [sendTransfer.eq_def]; dsimp -zeta only)
    repeat' (first
      | with_reducible assumption
      | with_reducible apply ih
      | dsimp -zeta only [gotState_ok, gotState_stop]
      | fail_if_no_progress with_reducible refine Kept.lit ?_
      | with_reducible apply wideRead_kept
      | with_reducible apply sendUnits_kept
      | with_reducible apply setXfer_kept
      | with_reducible refine KeptO.next ?_
      | with_reducible refine ite_keeps (P := Kept s0) ?_ ?_
      | with_reducible refine ite_keeps (P := KeptO s0) ?_ ?_
      | (intro y; intros)
      | (extract_lets +onlyGivenNames z; refine both (A := Kept s0 z) ?_ (fun hz => ?_) <;> [(dsimp -zeta only [z]; clear z); clear_value z])
      | (extract_lets +onlyGivenNames z; refine both (A := Kept s0 (gotState z)) ?_ (fun hf => ?_) <;> [(dsimp -zeta only [z]; clear z); clear_value z])
      | (extract_lets +onlyGivenNames z; clear_value z)
      | (split <;> try (rename_i he; have hk := congrArg gotState he; dsimp -zeta only [gotState_ok, gotState_stop] at hk; subst hk)))

theorem serveTransfer_kept {s0 : State} (sid : Nat) (s : State) (x : Xfer) (hs1 : Kept s0 s) :
    Kept s0 (serveTransfer sid s x) := by
  unfold serveTransfer
  repeat' (first
    | with_reducible assumption
    | fail_if_no_progress with_reducible refine Kept.lit ?_
    | with_reducible apply askTransfer_kept
    | with_reducible apply sendTransfer_kept
    | with_reducible refine KeptO.next ?_
    | with_reducible refine ite_keeps (P := Kept s0) ?_ ?_
    | with_reducible refine ite_keeps (P := KeptO s0) ?_ ?_
    | split)

theorem sendTransfers_kept {s0 : State} (s : State) (sid : Nat) (hs1 : Kept s0 s) :
    Kept s0 (sendTransfers s sid) := by
  unfold sendTransfers
  repeat' (first
    | with_reducible assumption
    | fail_if_no_progress with_reducible refine Kept.lit ?_
    | with_reducible apply serveTransfer_kept
    | with_reducible refine KeptO.next ?_
    | with_reducible refine ite_keeps (P := Kept s0) ?_ ?_
    | with_reducible refine ite_keeps (P := KeptO s0) ?_ ?_
    | with_reducible refine foldl_kept ?_ (fun s x hs => ?_)
    | split)

theorem setReach_kept {s0 : State} (s : State) (sid : Nat) (p : Nat) (f : ReachCtx → ReachCtx) (hs1 : Kept s0 s) :
    Kept s0 (setReach s sid p f) := by
  unfold setReach
  repeat' (first
    | with_reducible assumption
    | fail_if_no_progress with_reducible refine Kept.lit ?_
    | with_reducible apply setUnits_kept)

theorem setMat_kept {s0 : State} (s : State) (sid : Nat) (i : Nat) (f : MatCtx → MatCtx) (hs1 : Kept s0 s) :
    Kept s0 (setMat s sid i f) := by
  unfold setMat
  repeat' (first
    | with_reducible assumption
    | fail_if_no_progress with_reducible refine Kept.lit ?_
    | with_reducible apply setUnits_kept)

theorem reachFault_kept {s0 : State} (s : State) (t : Step) (p : Nat) (i : Nat) (status : Nat) (addr : Nat) (hs1 : Kept s0 s) :
    Kept s0 (reachFault s t p i status addr) := by
  unfold reachFault
  repeat' (first
    | with_reducible assumption
    | fail_if_no_progress with_reducible refine Kept.lit ?_
    | with_reducible apply unitFault_kept)

theorem matPrologue_kept {s0 : State} (s : State) (t : Step) (r : ReachCtx) (i : Nat) (k : Nat) (hs1 : Kept s0 s) :
    Kept s0 (matPrologue s t r i k) := by
  unfold matPrologue
  repeat' (first
    | with_reducible assumption
    | dsimp -zeta only [gotState_ok, gotState_stop]
    | fail_if_no_progress with_reducible refine Kept.lit ?_
    | with_reducible apply wideMany_kept
    | with_reducible apply reachFault_kept
    | with_reducible apply setReach_kept
    | with_reducible refine KeptO.next ?_
    | with_reducible refine ite_keeps (P := Kept s0) ?_ ?_
    | with_reducible refine ite_keeps (P := KeptO s0) ?_ ?_
    | (intro y; intros)
    | (extract_lets +onlyGivenNames z; refine both (A := Kept s0 z) ?_ (fun hz => ?_) <;> [(dsimp -zeta only [z]; clear z); clear_value z])
    | (extract_lets +onlyGivenNames z; refine both (A := Kept s0 (gotState z)) ?_ (fun hf => ?_) <;> [(dsimp -zeta only [z]; clear z); clear_value z])
    | (extract_lets +onlyGivenNames z; clear_value z)
    | (split <;> try (rename_i he; have hk := congrArg gotState he; dsimp -zeta only [gotState_ok, gotState_stop] at hk; subst hk)))

theorem gradPrologue_kept {s0 : State} (s : State) (t : Step) (r : ReachCtx) (i : Nat) (k : Nat) (hs1 : Kept s0 s) :
    Kept s0 (gradPrologue s t r i k) := by
  unfold gradPrologue
  repeat' (first
    | with_reducible assumption
    | dsimp -zeta only [gotState_ok, gotState_stop]
    | fail_if_no_progress with_reducible refine Kept.lit ?_
    | with_reducible apply wideMany_kept
    | with_reducible apply reachFault_kept
    | with_reducible apply setReach_kept
    | with_reducible refine KeptO.next ?_
    | with_reducible refine ite_keeps (P := Kept s0) ?_ ?_
    | with_reducible refine ite_keeps (P := KeptO s0) ?_ ?_
    | (intro y; intros)
    | (extract_lets +onlyGivenNames z; refine both (A := Kept s0 z) ?_ (fun hz => ?_) <;> [(dsimp -zeta only [z]; clear z); clear_value z])
    | (extract_lets +onlyGivenNames z; refine both (A := Kept s0 (gotState z)) ?_ (fun hf => ?_) <;> [(dsimp -zeta only [z]; clear z); clear_value z])
    | (extract_lets +onlyGivenNames z; clear_value z)
    | (split <;> try (rename_i he; have hk := congrArg gotState he; dsimp -zeta only [gotState_ok, gotState_stop] at hk; subst hk)))

theorem execItemPrologue_kept {s0 : State} (sid : Nat) (pos : Nat) (s : State) (hs1 : Kept s0 s) :
    KeptO s0 (execItemPrologue sid pos s) := by
  unfold execItemPrologue
  repeat' (first
    | with_reducible assumption
    | fail_if_no_progress with_reducible refine Kept.lit ?_
    | with_reducible apply gradPrologue_kept
    | with_reducible apply matPrologue_kept
    | with_reducible refine KeptO.next ?_
    | with_reducible refine ite_keeps (P := Kept s0) ?_ ?_
    | with_reducible refine ite_keeps (P := KeptO s0) ?_ ?_
    | split)

theorem execWindowLoad_kept {s0 : State} (sid : Nat) (pos : Nat) (s : State) (hs1 : Kept s0 s) :
    KeptO s0 (execWindowLoad sid pos s) := by
  unfold execWindowLoad
  repeat' (first
    | with_reducible assumption
    | with_reducible apply hf
    | fail_if_no_progress with_reducible refine Kept.lit ?_
    | with_reducible apply reachFault_kept
    | with_reducible apply setReach_kept
    | with_reducible refine KeptO.next ?_
    | with_reducible refine ite_keeps (P := Kept s0) ?_ ?_
    | with_reducible refine ite_keeps (P := KeptO s0) ?_ ?_
    | (intro y; intros)
    | split)

theorem setLane_kept {s0 : State} (s : State) (sid : Nat) (p : Nat) (lane : Nat) (f : Lane → Lane) (hs1 : Kept s0 s) :
    Kept s0 (setLane s sid p lane f) := by
  unfold setLane
  repeat' (first
    | with_reducible assumption
    | fail_if_no_progress with_reducible refine Kept.lit ?_
    | with_reducible apply setReach_kept)

theorem decodeTo_kept {s0 : State} (s : State) (a : Acc3) (h : WHdr) (row : Nat) (endPos : Nat) (last : Nat) (z0 : Nat) (z1 : Nat) (z2 : Nat) (z3 : Nat) (hs1 : Kept s0 s) :
    Kept s0 (gotState (decodeTo s a h row endPos last z0 z1 z2 z3)) := by
  induction z0 generalizing s a h row endPos last z1 z2 z3 with
  | zero =>
    first | rw [decodeTo] | (rw [decodeTo.eq_def]; dsimp -zeta only)
    repeat' (first
      | with_reducible assumption
      | dsimp -zeta only [gotState_ok, gotState_stop])
  | succ n ih =>
    first | rw [decodeTo] | (rw [decodeTo.eq_def]; dsimp -zeta only)
    repeat' (first
      | with_reducible assumption
      | with_reducible apply ih
      | dsimp -zeta only [gotState_ok, gotState_stop]
      | with_reducible refine ite_keeps (P := fun g => Kept s0 (gotState g)) ?_ ?_
      | fail_if_no_progress with_reducible refine Kept.lit ?_
      | with_reducible apply wideHold_kept
      | with_reducible refine KeptO.next ?_
      | with_reducible refine ite_keeps (P := Kept s0) ?_ ?_
      | with_reducible refine ite_keeps (P := KeptO s0) ?_ ?_
      | (extract_lets +onlyGivenNames z; refine both (A := Kept s0 z) ?_ (fun hz => ?_) <;> [(dsimp -zeta only [z]; clear z); clear_value z])
      | (extract_lets +onlyGivenNames z; refine both (A := Kept s0 (gotState z)) ?_ (fun hf => ?_) <;> [(dsimp -zeta only [z]; clear z); clear_value z])
      | (extract_lets +onlyGivenNames z; clear_value z)
      | (split <;> try (rename_i he; have hk := congrArg gotState he; dsimp -zeta only [gotState_ok, gotState_stop] at hk; subst hk)))

theorem rowStart_kept {s0 : State} (s : State) (a : Acc3) (h : WHdr) (row : Nat) (hs1 : Kept s0 s) :
    Kept s0 (gotState (rowStart s a h row)) := by
  unfold rowStart
  repeat' (first
    | with_reducible assumption
    | dsimp -zeta only [gotState_ok, gotState_stop]
    | with_reducible refine ite_keeps (P := fun g => Kept s0 (gotState g)) ?_ ?_
    | fail_if_no_progress with_reducible refine Kept.lit ?_
    | with_reducible apply wideHold_kept
    | with_reducible refine KeptO.next ?_
    | with_reducible refine ite_keeps (P := Kept s0) ?_ ?_
    | with_reducible refine ite_keeps (P := KeptO s0) ?_ ?_
    | (extract_lets +onlyGivenNames z; refine both (A := Kept s0 z) ?_ (fun hz => ?_) <;> [(dsimp -zeta only [z]; clear z); clear_value z])
    | (extract_lets +onlyGivenNames z; refine both (A := Kept s0 (gotState z)) ?_ (fun hf => ?_) <;> [(dsimp -zeta only [z]; clear z); clear_value z])
    | (extract_lets +onlyGivenNames z; clear_value z)
    | (split <;> try (rename_i he; have hk := congrArg gotState he; dsimp -zeta only [gotState_ok, gotState_stop] at hk; subst hk)))

theorem decodeNext_kept {s0 : State} (s : State) (t : Step) (p : Nat) (i : Nat) (h : WHdr) (it : Item) (l : Lane) (hs1 : Kept s0 s) :
    Kept s0 (decodeNext s t p i h it l) := by
  unfold decodeNext
  repeat' (first
    | with_reducible assumption
    | dsimp -zeta only [gotState_ok, gotState_stop]
    | (dsimp -zeta only [gotState_ok, gotState_stop] at hf; with_reducible assumption)
    | with_reducible apply hf
    | fail_if_no_progress with_reducible refine Kept.lit ?_
    | with_reducible apply setLane_kept
    | with_reducible apply endPiece_kept
    | with_reducible apply rowStart_kept
    | with_reducible apply reachFault_kept
    | with_reducible apply decodeTo_kept
    | with_reducible refine KeptO.next ?_
    | with_reducible refine ite_keeps (P := Kept s0) ?_ ?_
    | with_reducible refine ite_keeps (P := KeptO s0) ?_ ?_
    | (intro y; intros)
    | (extract_lets +onlyGivenNames z; refine both (A := Kept s0 z) ?_ (fun hz => ?_) <;> [(dsimp -zeta only [z]; clear z); clear_value z])
    | (extract_lets +onlyGivenNames z; refine both (A := Kept s0 (gotState z)) ?_ (fun hf => ?_) <;> [(dsimp -zeta only [z]; clear z); clear_value z])
    | (extract_lets +onlyGivenNames z; refine both (A := ∀ a b c, Kept s0 a → Kept s0 (gotState (z a b c))) ?_ (fun hf => ?_) <;> [(dsimp -zeta only [z]; clear z); clear_value z])
    | (extract_lets +onlyGivenNames z; refine both (A := ∀ a b, Kept s0 a → Kept s0 (gotState (z a b))) ?_ (fun hf => ?_) <;> [(dsimp -zeta only [z]; clear z); clear_value z])
    | (extract_lets +onlyGivenNames z; refine both (A := ∀ a b c, Kept s0 (z a b c)) ?_ (fun hf => ?_) <;> [(dsimp -zeta only [z]; clear z); clear_value z])
    | (extract_lets +onlyGivenNames z; refine both (A := ∀ a b, Kept s0 (z a b)) ?_ (fun hf => ?_) <;> [(dsimp -zeta only [z]; clear z); clear_value z])
    | (extract_lets +onlyGivenNames z; refine both (A := ∀ a, Kept s0 (z a)) ?_ (fun hf => ?_) <;> [(dsimp -zeta only [z]; clear z); clear_value z])
    | (extract_lets +onlyGivenNames z; refine both (A := ∀ a b c d, Kept s0 a → Kept s0 (z a b c d)) ?_ (fun hf => ?_) <;> [(dsimp -zeta only [z]; clear z); clear_value z])
    | (extract_lets +onlyGivenNames z; refine both (A := ∀ a b c, Kept s0 a → Kept s0 (z a b c)) ?_ (fun hf => ?_) <;> [(dsimp -zeta only [z]; clear z); clear_value z])
    | (extract_lets +onlyGivenNames z; refine both (A := ∀ a b, Kept s0 a → Kept s0 (z a b)) ?_ (fun hf => ?_) <;> [(dsimp -zeta only [z]; clear z); clear_value z])
    | (extract_lets +onlyGivenNames z; refine both (A := ∀ a, Kept s0 a → Kept s0 (z a)) ?_ (fun hf => ?_) <;> [(dsimp -zeta only [z]; clear z); clear_value z])
    | (extract_lets +onlyGivenNames z; clear_value z)
    | (split <;> try (rename_i he; have hk := congrArg gotState he; dsimp -zeta only [gotState_ok, gotState_stop] at hk; subst hk)))

theorem execDecoderRead_kept {s0 : State} (sid : Nat) (pos : Nat) (lane : Nat) (s : State) (hs1 : Kept s0 s) :
    KeptO s0 (execDecoderRead sid pos lane s) := by
  unfold execDecoderRead
  repeat' (first
    | with_reducible assumption
    | fail_if_no_progress with_reducible refine Kept.lit ?_
    | with_reducible apply decodeNext_kept
    | with_reducible refine KeptO.next ?_
    | with_reducible refine ite_keeps (P := Kept s0) ?_ ?_
    | with_reducible refine ite_keeps (P := KeptO s0) ?_ ?_
    | (intro y; intros)
    | (extract_lets +onlyGivenNames z; refine both (A := Kept s0 z) ?_ (fun hz => ?_) <;> [(dsimp -zeta only [z]; clear z); clear_value z])
    | (extract_lets +onlyGivenNames z; clear_value z)
    | split)

theorem haltWith_kept {s0 : State} (s : State) (sid : Nat) (unit : Nat) (with_ : Nat) (hs1 : Kept s0 s) :
    Kept s0 (haltWith s sid unit with_) := by
  unfold haltWith
  repeat' (first
    | with_reducible assumption
    | fail_if_no_progress with_reducible refine Kept.lit ?_
    | with_reducible apply haltUnit_kept
    | with_reducible refine KeptO.next ?_
    | with_reducible refine ite_keeps (P := Kept s0) ?_ ?_
    | with_reducible refine ite_keeps (P := KeptO s0) ?_ ?_
    | split)

theorem foldAt_kept {s0 : State} (s : State) (t : Step) (p : Nat) (i : Nat) (h : WHdr) (l : Lane) (grp : Nat) (hs1 : Kept s0 s) :
    Kept s0 (gotState (foldAt s t p i h l grp)) := by
  unfold foldAt
  repeat' (first
    | with_reducible assumption
    | dsimp -zeta only [gotState_ok, gotState_stop]
    | with_reducible refine ite_keeps (P := fun g => Kept s0 (gotState g)) ?_ ?_
    | fail_if_no_progress with_reducible refine Kept.lit ?_
    | with_reducible apply wideNum_kept
    | with_reducible apply haltWith_kept
    | with_reducible apply unitFault_kept
    | with_reducible refine KeptO.next ?_
    | with_reducible refine ite_keeps (P := Kept s0) ?_ ?_
    | with_reducible refine ite_keeps (P := KeptO s0) ?_ ?_
    | (extract_lets +onlyGivenNames z; refine both (A := Kept s0 z) ?_ (fun hz => ?_) <;> [(dsimp -zeta only [z]; clear z); clear_value z])
    | (extract_lets +onlyGivenNames z; refine both (A := Kept s0 (gotState z)) ?_ (fun hf => ?_) <;> [(dsimp -zeta only [z]; clear z); clear_value z])
    | (extract_lets +onlyGivenNames z; clear_value z)
    | (split <;> try (rename_i he; have hk := congrArg gotState he; dsimp -zeta only [gotState_ok, gotState_stop] at hk; subst hk)))

theorem settleLane_kept {s0 : State} (s : State) (t : Step) (p : Nat) (i : Nat) (h : WHdr) (lane : Nat) (grps : Nat) (f : Nat) (z0 : Nat) (hs1 : Kept s0 s) :
    Kept s0 (settleLane s t p i h lane grps f z0) := by
  induction z0 generalizing s t p i h lane grps f with
  | zero =>
    first | rw [settleLane] | (rw [settleLane.eq_def]; dsimp -zeta only)
    repeat' (first
      | with_reducible assumption)
  | succ n ih =>
    first | rw [settleLane] | (rw [settleLane.eq_def]; dsimp -zeta only)
    repeat' (first
      | with_reducible assumption
      | with_reducible apply ih
      | dsimp -zeta only [gotState_ok, gotState_stop]
      | (dsimp -zeta only [gotState_ok, gotState_stop] at hf; with_reducible assumption)
      | fail_if_no_progress with_reducible refine Kept.lit ?_
      | with_reducible apply foldAt_kept
      | with_reducible apply setReach_kept
      | with_reducible apply setMat_kept
      | with_reducible apply count_kept
      | with_reducible refine KeptO.next ?_
      | with_reducible refine ite_keeps (P := Kept s0) ?_ ?_
      | with_reducible refine ite_keeps (P := KeptO s0) ?_ ?_
      | (intro y; intros)
      | (extract_lets +onlyGivenNames z; refine both (A := Kept s0 z) ?_ (fun hz => ?_) <;> [(dsimp -zeta only [z]; clear z); clear_value z])
      | (extract_lets +onlyGivenNames z; refine both (A := Kept s0 (gotState z)) ?_ (fun hf => ?_) <;> [(dsimp -zeta only [z]; clear z); clear_value z])
      | (extract_lets +onlyGivenNames z; clear_value z)
      | (split <;> try (rename_i he; have hk := congrArg gotState he; dsimp -zeta only [gotState_ok, gotState_stop] at hk; subst hk)))

theorem applyBeat_kept {s0 : State} (s : State) (t : Step) (p : Nat) (i : Nat) (h : WHdr) (it : Item) (l : Lane) (hs1 : Kept s0 s) :
    Kept s0 (applyBeat s t p i h it l) := by
  unfold applyBeat
  repeat' (first
    | with_reducible assumption
    | fail_if_no_progress with_reducible refine Kept.lit ?_
    | with_reducible apply setLane_kept
    | with_reducible apply setMat_kept
    | with_reducible apply count_kept
    | with_reducible refine KeptO.next ?_
    | with_reducible refine ite_keeps (P := Kept s0) ?_ ?_
    | with_reducible refine ite_keeps (P := KeptO s0) ?_ ?_
    | (intro y; intros)
    | (extract_lets +onlyGivenNames z; refine both (A := Kept s0 z) ?_ (fun hz => ?_) <;> [(dsimp -zeta only [z]; clear z); clear_value z])
    | (extract_lets +onlyGivenNames z; clear_value z)
    | split)

theorem gradBeat_kept {s0 : State} (s : State) (t : Step) (p : Nat) (it : Item) (l : Lane) (hs1 : Kept s0 s) :
    Kept s0 (gradBeat s t p it l) := by
  unfold gradBeat
  repeat' (first
    | with_reducible assumption
    | fail_if_no_progress with_reducible refine Kept.lit ?_
    | with_reducible apply setLane_kept
    | with_reducible refine KeptO.next ?_
    | with_reducible refine ite_keeps (P := Kept s0) ?_ ?_
    | with_reducible refine ite_keeps (P := KeptO s0) ?_ ?_
    | (intro y; intros)
    | (extract_lets +onlyGivenNames z; refine both (A := Kept s0 z) ?_ (fun hz => ?_) <;> [(dsimp -zeta only [z]; clear z); clear_value z])
    | (extract_lets +onlyGivenNames z; clear_value z)
    | split)

theorem execLaneBeat_kept {s0 : State} (sid : Nat) (pos : Nat) (lane : Nat) (s : State) (hs1 : Kept s0 s) :
    KeptO s0 (execLaneBeat sid pos lane s) := by
  unfold execLaneBeat
  repeat' (first
    | with_reducible assumption
    | fail_if_no_progress with_reducible refine Kept.lit ?_
    | with_reducible apply gradBeat_kept
    | with_reducible apply applyBeat_kept
    | with_reducible apply settleLane_kept
    | with_reducible refine KeptO.next ?_
    | with_reducible refine ite_keeps (P := Kept s0) ?_ ?_
    | with_reducible refine ite_keeps (P := KeptO s0) ?_ ?_
    | (intro y; intros)
    | (extract_lets +onlyGivenNames z; refine both (A := Kept s0 z) ?_ (fun hz => ?_) <;> [(dsimp -zeta only [z]; clear z); clear_value z])
    | (extract_lets +onlyGivenNames z; clear_value z)
    | split)

theorem finalFolds_kept {s0 : State} (s : State) (t : Step) (p : Nat) (i : Nat) (h : WHdr) (n : Nat) (z0 : List Lane) (hs1 : Kept s0 s) :
    Kept s0 (gotState (finalFolds s t p i h n z0)) := by
  induction z0 generalizing s t p i h n with
  | nil =>
    first | rw [finalFolds] | (rw [finalFolds.eq_def]; dsimp -zeta only)
    repeat' (first
      | with_reducible assumption
      | dsimp -zeta only [gotState_ok, gotState_stop])
  | cons x l ih =>
    first | rw [finalFolds] | (rw [finalFolds.eq_def]; dsimp -zeta only)
    repeat' (first
      | with_reducible assumption
      | with_reducible apply ih
      | dsimp -zeta only [gotState_ok, gotState_stop]
      | with_reducible refine ite_keeps (P := fun g => Kept s0 (gotState g)) ?_ ?_
      | fail_if_no_progress with_reducible refine Kept.lit ?_
      | with_reducible apply foldAt_kept
      | with_reducible refine KeptO.next ?_
      | with_reducible refine ite_keeps (P := Kept s0) ?_ ?_
      | with_reducible refine ite_keeps (P := KeptO s0) ?_ ?_
      | (split <;> try (rename_i he; have hk := congrArg gotState he; dsimp -zeta only [gotState_ok, gotState_stop] at hk; subst hk)))

theorem joined_kept {s0 : State} (s : State) (t : Step) (p : Nat) (i : Nat) (it : Item) (beats : Nat) (accs : List (Nat × List Acc)) (exps : List Nat) (products : Nat) (hs1 : Kept s0 s) :
    Kept s0 (joined s t p i it beats accs exps products) := by
  unfold joined
  repeat' (first
    | with_reducible assumption
    | fail_if_no_progress with_reducible refine Kept.lit ?_
    | with_reducible apply setReach_kept
    | with_reducible apply setMat_kept
    | with_reducible apply count_kept)

theorem execItemJoin_kept {s0 : State} (sid : Nat) (pos : Nat) (s : State) (hs1 : Kept s0 s) :
    KeptO s0 (execItemJoin sid pos s) := by
  unfold execItemJoin
  repeat' (first
    | with_reducible assumption
    | dsimp -zeta only [gotState_ok, gotState_stop]
    | fail_if_no_progress with_reducible refine Kept.lit ?_
    | with_reducible apply joined_kept
    | with_reducible apply finalFolds_kept
    | with_reducible refine KeptO.next ?_
    | with_reducible refine ite_keeps (P := Kept s0) ?_ ?_
    | with_reducible refine ite_keeps (P := KeptO s0) ?_ ?_
    | (intro y; intros)
    | with_reducible refine foldl_kept ?_ (fun s x hs => ?_)
    | (extract_lets +onlyGivenNames z; refine both (A := Kept s0 z) ?_ (fun hz => ?_) <;> [(dsimp -zeta only [z]; clear z); clear_value z])
    | (extract_lets +onlyGivenNames z; refine both (A := Kept s0 (gotState z)) ?_ (fun hf => ?_) <;> [(dsimp -zeta only [z]; clear z); clear_value z])
    | (extract_lets +onlyGivenNames z; clear_value z)
    | (split <;> try (rename_i he; have hk := congrArg gotState he; dsimp -zeta only [gotState_ok, gotState_stop] at hk; subst hk)))

theorem matFinish_kept {s0 : State} (s : State) (sid : Nat) (i : Nat) (hs1 : Kept s0 s) :
    Kept s0 (matFinish s sid i) := by
  unfold matFinish
  repeat' (first
    | with_reducible assumption
    | dsimp -zeta only [gotState_ok, gotState_stop]
    | fail_if_no_progress with_reducible refine Kept.lit ?_
    | with_reducible apply wideWrite_kept
    | with_reducible apply setMat_kept
    | with_reducible refine KeptO.next ?_
    | with_reducible refine ite_keeps (P := Kept s0) ?_ ?_
    | with_reducible refine ite_keeps (P := KeptO s0) ?_ ?_
    | (intro y; intros)
    | (extract_lets +onlyGivenNames z; refine both (A := Kept s0 z) ?_ (fun hz => ?_) <;> [(dsimp -zeta only [z]; clear z); clear_value z])
    | (extract_lets +onlyGivenNames z; refine both (A := Kept s0 (gotState z)) ?_ (fun hf => ?_) <;> [(dsimp -zeta only [z]; clear z); clear_value z])
    | (extract_lets +onlyGivenNames z; clear_value z)
    | (split <;> try (rename_i he; have hk := congrArg gotState he; dsimp -zeta only [gotState_ok, gotState_stop] at hk; subst hk)))

theorem execDrainComplete_kept {s0 : State} (sid : Nat) (pos : Nat) (s : State) (hs1 : Kept s0 s) :
    KeptO s0 (execDrainComplete sid pos s) := by
  unfold execDrainComplete
  repeat' (first
    | with_reducible assumption
    | dsimp -zeta only [gotState_ok, gotState_stop]
    | fail_if_no_progress with_reducible refine Kept.lit ?_
    | with_reducible apply wideWrite_kept
    | with_reducible apply setReach_kept
    | with_reducible apply setMat_kept
    | with_reducible apply count_kept
    | with_reducible apply matFinish_kept
    | with_reducible refine KeptO.next ?_
    | with_reducible refine ite_keeps (P := Kept s0) ?_ ?_
    | with_reducible refine ite_keeps (P := KeptO s0) ?_ ?_
    | (intro y; intros)
    | (extract_lets +onlyGivenNames z; refine both (A := Kept s0 z) ?_ (fun hz => ?_) <;> [(dsimp -zeta only [z]; clear z); clear_value z])
    | (extract_lets +onlyGivenNames z; refine both (A := Kept s0 (gotState z)) ?_ (fun hf => ?_) <;> [(dsimp -zeta only [z]; clear z); clear_value z])
    | (extract_lets +onlyGivenNames z; clear_value z)
    | (split <;> try (rename_i he; have hk := congrArg gotState he; dsimp -zeta only [gotState_ok, gotState_stop] at hk; subst hk)))

theorem raiseWeights_kept {s0 : State} (s : State) (t : Step) (hs1 : Kept s0 s) :
    Kept s0 (raiseWeights s t) := by
  unfold raiseWeights
  repeat' (first
    | with_reducible assumption
    | fail_if_no_progress with_reducible refine Kept.lit ?_
    | with_reducible apply raisePoisoned_kept
    | with_reducible refine KeptO.next ?_
    | with_reducible refine ite_keeps (P := Kept s0) ?_ ?_
    | with_reducible refine ite_keeps (P := KeptO s0) ?_ ?_
    | (intro y; intros)
    | with_reducible refine foldl_kept ?_ (fun s x hs => ?_))

theorem execStepFault_kept {s0 : State} (sid : Nat) (s : State) (hs1 : Kept s0 s) :
    KeptO s0 (execStepFault sid s) := by
  unfold execStepFault
  repeat' (first
    | with_reducible assumption
    | fail_if_no_progress with_reducible refine Kept.lit ?_
    | with_reducible apply stopStep_kept
    | with_reducible apply endPoisoned_kept
    | with_reducible apply raiseWeights_kept
    | with_reducible refine KeptO.next ?_
    | with_reducible refine ite_keeps (P := Kept s0) ?_ ?_
    | with_reducible refine ite_keeps (P := KeptO s0) ?_ ?_
    | (intro y; intros)
    | split)

end Sys2Proof.Laws
end

