-- ==== Sys2Proof/Laws/KeptEpilogue.lean ====
section
/-! SUPPORT. What the functions of Machine/Epilogue.lean keep: the waiting commands and memory's canonical form. -/

namespace Sys2Proof.Laws

open Sys2Proof Sys2Proof.Machine

theorem recordRead_kept {s0 : State} (s : State) (t : Step) (a : Acc3) (i : Nat) (psum : Nat) (k : Nat) (ready : Bool) (hs1 : Kept s0 s) :
    Kept s0 (gotState (recordRead s t a i psum k ready)) := by
  unfold recordRead
  repeat' (first
    | with_reducible assumption
    | dsimp -zeta only [gotState_ok, gotState_stop]
    | with_reducible refine ite_keeps (P := fun g => Kept s0 (gotState g)) ?_ ?_
    | fail_if_no_progress with_reducible refine Kept.lit ?_
    | with_reducible apply wideRead_kept
    | with_reducible apply setUnits_kept
    | with_reducible refine KeptO.next ?_
    | with_reducible refine ite_keeps (P := Kept s0) ?_ ?_
    | with_reducible refine ite_keeps (P := KeptO s0) ?_ ?_
    | (intro y; intros)
    | (split <;> try (rename_i he; have hk := congrArg gotState he; dsimp -zeta only [gotState_ok, gotState_stop] at hk; subst hk)))

theorem leafVal_kept {s0 : State} (s : State) (t : Step) (i : Nat) (m : BitVec 512) (low : Nat) (row : Nat) (tok : Nat) (kc : Nat) (hs1 : Kept s0 s) :
    Kept s0 (gotState (leafVal s t i m low row tok kc)) := by
  unfold leafVal
  repeat' (first
    | with_reducible assumption
    | dsimp -zeta only [gotState_ok, gotState_stop]
    | with_reducible refine ite_keeps (P := fun g => Kept s0 (gotState g)) ?_ ?_
    | fail_if_no_progress with_reducible refine Kept.lit ?_
    | with_reducible apply recordRead_kept
    | with_reducible refine KeptO.next ?_
    | with_reducible refine ite_keeps (P := Kept s0) ?_ ?_
    | with_reducible refine ite_keeps (P := KeptO s0) ?_ ?_
    | (extract_lets +onlyGivenNames z; refine both (A := Kept s0 z) ?_ (fun hz => ?_) <;> [(dsimp -zeta only [z]; clear z); clear_value z])
    | (extract_lets +onlyGivenNames z; refine both (A := Kept s0 (gotState z)) ?_ (fun hf => ?_) <;> [(dsimp -zeta only [z]; clear z); clear_value z])
    | (extract_lets +onlyGivenNames z; clear_value z)
    | (split <;> try (rename_i he; have hk := congrArg gotState he; dsimp -zeta only [gotState_ok, gotState_stop] at hk; subst hk)))

theorem putNode_kept {s0 : State} (s : State) (sid : Nat) (i : Nat) (tok : Nat) (row : Nat) (n : CNode) (v : PSum) (hs1 : Kept s0 s) :
    Kept s0 (putNode s sid i tok row n v) := by
  unfold putNode
  repeat' (first
    | with_reducible assumption
    | fail_if_no_progress with_reducible refine Kept.lit ?_
    | with_reducible apply setUnits_kept)

theorem childVal_kept {s0 : State} (t : Step) (i : Nat) (tok : Nat) (row : Nat) (stage : Nat) (x : Nat × Nat) (leaf : State → Nat → Got (Option PSum)) (s : State) (hb : ∀ s j, Kept s0 s → Kept s0 (gotState (leaf s j))) (hs1 : Kept s0 s) :
    Kept s0 (gotState (childVal t i tok row stage x leaf s)) := by
  unfold childVal
  repeat' (first
    | with_reducible assumption
    | apply hb
    | dsimp -zeta only [gotState_ok, gotState_stop]
    | with_reducible refine ite_keeps (P := fun g => Kept s0 (gotState g)) ?_ ?_)

theorem chunkRoot_kept {s0 : State} (t : Step) (i : Nat) (m : BitVec 512) (low : Nat) (row : Nat) (tok : Nat) (s : State) (hs1 : Kept s0 s) :
    Kept s0 (gotState (chunkRoot t i m low row tok s)) := by
  unfold chunkRoot
  repeat' (first
    | with_reducible assumption
    | dsimp -zeta only [gotState_ok, gotState_stop]
    | with_reducible refine ite_keeps (P := fun g => Kept s0 (gotState g)) ?_ ?_
    | fail_if_no_progress with_reducible refine Kept.lit ?_
    | with_reducible apply childVal_kept
    | with_reducible apply leafVal_kept
    | with_reducible refine KeptO.next ?_
    | with_reducible refine ite_keeps (P := Kept s0) ?_ ?_
    | with_reducible refine ite_keeps (P := KeptO s0) ?_ ?_
    | (intro y; intros))

theorem mergeRoot_kept {s0 : State} (t : Step) (i : Nat) (m : BitVec 512) (rows : List (Nat × Nat)) (o : Nat) (tok : Nat) (s : State) (hs1 : Kept s0 s) :
    Kept s0 (gotState (mergeRoot t i m rows o tok s)) := by
  unfold mergeRoot
  repeat' (first
    | with_reducible assumption
    | dsimp -zeta only [gotState_ok, gotState_stop]
    | with_reducible refine ite_keeps (P := fun g => Kept s0 (gotState g)) ?_ ?_
    | fail_if_no_progress with_reducible refine Kept.lit ?_
    | with_reducible apply childVal_kept
    | with_reducible apply chunkRoot_kept
    | with_reducible refine KeptO.next ?_
    | with_reducible refine ite_keeps (P := Kept s0) ?_ ?_
    | with_reducible refine ite_keeps (P := KeptO s0) ?_ ?_
    | (intro y; intros))

theorem axisRoot_kept {s0 : State} (t : Step) (i : Nat) (m : BitVec 512) (rows : List (Nat × Nat)) (o : Nat) (tok : Nat) (z0 : Nat) (z1 : State) (hs1 : Kept s0 z1) :
    Kept s0 (gotState (axisRoot t i m rows o tok z0 z1)) := by
  induction z0 generalizing t i m rows o tok z1 with
  | zero =>
    first | rw [axisRoot] | (rw [axisRoot.eq_def]; dsimp -zeta only)
    repeat' (first
      | with_reducible assumption
      | dsimp -zeta only [gotState_ok, gotState_stop]
      | with_reducible refine ite_keeps (P := fun g => Kept s0 (gotState g)) ?_ ?_
      | fail_if_no_progress with_reducible refine Kept.lit ?_
      | with_reducible apply mergeRoot_kept)
  | succ n ih =>
    first | rw [axisRoot] | (rw [axisRoot.eq_def]; dsimp -zeta only)
    repeat' (first
      | with_reducible assumption
      | with_reducible apply ih
      | dsimp -zeta only [gotState_ok, gotState_stop]
      | with_reducible refine ite_keeps (P := fun g => Kept s0 (gotState g)) ?_ ?_
      | fail_if_no_progress with_reducible refine Kept.lit ?_
      | with_reducible apply mergeRoot_kept
      | with_reducible apply childVal_kept
      | with_reducible refine KeptO.next ?_
      | with_reducible refine ite_keeps (P := Kept s0) ?_ ?_
      | with_reducible refine ite_keeps (P := KeptO s0) ?_ ?_
      | (intro y; intros))

theorem addNode_kept {s0 : State} (t : Step) (epi : Nat) (tok : Nat) (row : Nat) (node : CNode) (s : State) (hs1 : Kept s0 s) :
    Kept s0 (addNode t epi tok row node s) := by
  unfold addNode
  repeat' (first
    | with_reducible assumption
    | dsimp -zeta only [gotState_ok, gotState_stop]
    | with_reducible apply hf
    | fail_if_no_progress with_reducible refine Kept.lit ?_
    | with_reducible apply leafVal_kept
    | with_reducible apply chunkRoot_kept
    | with_reducible apply axisRoot_kept
    | with_reducible apply childVal_kept
    | with_reducible apply putNode_kept
    | with_reducible refine KeptO.next ?_
    | with_reducible refine ite_keeps (P := Kept s0) ?_ ?_
    | with_reducible refine ite_keeps (P := KeptO s0) ?_ ?_
    | (intro y; intros)
    | (extract_lets +onlyGivenNames z; refine both (A := Kept s0 z) ?_ (fun hz => ?_) <;> [(dsimp -zeta only [z]; clear z); clear_value z])
    | (extract_lets +onlyGivenNames z; refine both (A := Kept s0 (gotState z)) ?_ (fun hf => ?_) <;> [(dsimp -zeta only [z]; clear z); clear_value z])
    | (extract_lets +onlyGivenNames z; refine both (A := ∀ a b c, Kept s0 a → Kept s0 (gotState (z a b c))) ?_ (fun hf => ?_) <;> [(dsimp -zeta only [z]; clear z); clear_value z])
    | (extract_lets +onlyGivenNames z; refine both (A := ∀ a b, Kept s0 a → Kept s0 (gotState (z a b))) ?_ (fun hf => ?_) <;> [(dsimp -zeta only [z]; clear z); clear_value z])
    | (extract_lets +onlyGivenNames z; refine both (A := ∀ a b c, Kept s0 (z a b c)) ?_ (fun hf => ?_) <;> [(dsimp -zeta only [z]; clear z); clear_value z])
    | (extract_lets +onlyGivenNames z; refine both (A := ∀ a b, Kept s0 (z a b)) ?_ (fun hf => ?_) <;> [(dsimp -zeta only [z]; clear z); clear_value z])
    | (extract_lets +onlyGivenNames z; refine both (A := ∀ a, Kept s0 (z a)) ?_ (fun hf => ?_) <;> [(dsimp -zeta only [z]; clear z); clear_value z])
    | (extract_lets +onlyGivenNames z; refine both (A := ∀ a b c d, Kept s0 a → Kept s0 (z a b c d)) ?_ (fun hf => ?_) <;> [(dsimp -zeta only [z]; clear z); clear_value z])
    | (extract_lets +onlyGivenNames z; refine both (A := ∀ a b c, Kept s0 a → Kept s0 (z a b c)) ?_ (fun hf => ?_) <;> [(dsimp -zeta only [z]; clear z); clear_value z])
    | (extract_lets +onlyGivenNames z; refine both (A := ∀ a b, Kept s0 a → Kept s0 (z a b)) ?_ (fun hf => ?_) <;> [(dsimp -zeta only [z]; clear z); clear_value z])
    | (extract_lets +onlyGivenNames z; refine both (A := ∀ a, Kept s0 a → Kept s0 (z a)) ?_ (fun hf => ?_) <;> [(dsimp -zeta only [z]; clear z); clear_value z])
    | (extract_lets +onlyGivenNames z; clear_value z)
    | (split <;> try (rename_i he; have hk := congrArg gotState he; dsimp -zeta only [gotState_ok, gotState_stop] at hk; subst hk)))

theorem execConfluenceAdd_kept {s0 : State} (sid : Nat) (epi : Nat) (tok : Nat) (row : Nat) (node : CNode) (s : State) (hs1 : Kept s0 s) :
    KeptO s0 (execConfluenceAdd sid epi tok row node s) := by
  unfold execConfluenceAdd
  repeat' (first
    | with_reducible assumption
    | fail_if_no_progress with_reducible refine Kept.lit ?_
    | with_reducible apply byTurn_kept
    | with_reducible apply addNode_kept
    | with_reducible refine KeptO.next ?_
    | with_reducible refine ite_keeps (P := Kept s0) ?_ ?_
    | with_reducible refine ite_keeps (P := KeptO s0) ?_ ?_
    | split)

theorem setEpi_kept {s0 : State} (s : State) (sid : Nat) (i : Nat) (f : EpiCtx → EpiCtx) (hs1 : Kept s0 s) :
    Kept s0 (setEpi s sid i f) := by
  unfold setEpi
  repeat' (first
    | with_reducible assumption
    | fail_if_no_progress with_reducible refine Kept.lit ?_
    | with_reducible apply setUnits_kept)

theorem blockRoots_kept {s0 : State} (t : Step) (i : Nat) (m : BitVec 512) (rows : List (Nat × Nat)) (tok : Nat) (z0 : List Nat) (z1 : State) (hs1 : Kept s0 z1) :
    Kept s0 (gotState (blockRoots t i m rows tok z0 z1)) := by
  induction z0 generalizing t i m rows tok z1 with
  | nil =>
    first | rw [blockRoots] | (rw [blockRoots.eq_def]; dsimp -zeta only)
    repeat' (first
      | with_reducible assumption
      | dsimp -zeta only [gotState_ok, gotState_stop])
  | cons x l ih =>
    first | rw [blockRoots] | (rw [blockRoots.eq_def]; dsimp -zeta only)
    repeat' (first
      | with_reducible assumption
      | with_reducible apply ih
      | dsimp -zeta only [gotState_ok, gotState_stop]
      | with_reducible refine ite_keeps (P := fun g => Kept s0 (gotState g)) ?_ ?_
      | fail_if_no_progress with_reducible refine Kept.lit ?_
      | with_reducible apply axisRoot_kept
      | with_reducible refine KeptO.next ?_
      | with_reducible refine ite_keeps (P := Kept s0) ?_ ?_
      | with_reducible refine ite_keeps (P := KeptO s0) ?_ ?_
      | (split <;> try (rename_i he; have hk := congrArg gotState he; dsimp -zeta only [gotState_ok, gotState_stop] at hk; subst hk)))

theorem epiSide_kept {s0 : State} (s : State) (t : Step) (a : Acc3) (i : Nat) (o : Nat) (n : Nat) (hs1 : Kept s0 s) :
    Kept s0 (gotState (epiSide s t a i o n)) := by
  unfold epiSide
  repeat' (first
    | with_reducible assumption
    | dsimp -zeta only [gotState_ok, gotState_stop]
    | with_reducible refine ite_keeps (P := fun g => Kept s0 (gotState g)) ?_ ?_
    | fail_if_no_progress with_reducible refine Kept.lit ?_
    | with_reducible apply wideHold_kept
    | with_reducible refine KeptO.next ?_
    | with_reducible refine ite_keeps (P := Kept s0) ?_ ?_
    | with_reducible refine ite_keeps (P := KeptO s0) ?_ ?_
    | (extract_lets +onlyGivenNames z; refine both (A := Kept s0 z) ?_ (fun hz => ?_) <;> [(dsimp -zeta only [z]; clear z); clear_value z])
    | (extract_lets +onlyGivenNames z; refine both (A := Kept s0 (gotState z)) ?_ (fun hf => ?_) <;> [(dsimp -zeta only [z]; clear z); clear_value z])
    | (extract_lets +onlyGivenNames z; clear_value z)
    | (split <;> try (rename_i he; have hk := congrArg gotState he; dsimp -zeta only [gotState_ok, gotState_stop] at hk; subst hk)))

theorem sendResult_kept {s0 : State} (s : State) (b : Nat) (sid : Nat) (mates : List (Nat × Nat × Nat)) (desc : Nat) (area : Nat) (base : Nat) (l : List (Nat × List Byte)) (hs1 : Kept s0 s) :
    Kept s0 (sendResult s b sid mates desc area base l) := by
  unfold sendResult
  repeat' (first
    | with_reducible assumption
    | fail_if_no_progress with_reducible refine Kept.lit ?_
    | with_reducible apply sendUnits_kept)

theorem sendRoots_kept {s0 : State} (s : State) (t : Step) (i : Nat) (tok : Nat) (blk : Nat) (k : Nat) (roots : List PSum) (hs1 : Kept s0 s) :
    Kept s0 (sendRoots s t i tok blk k roots) := by
  unfold sendRoots
  repeat' (first
    | with_reducible assumption
    | fail_if_no_progress with_reducible refine Kept.lit ?_
    | with_reducible apply setEpi_kept
    | with_reducible apply sendUnits_kept)

theorem runBlock_kept {s0 : State} (s : State) (t : Step) (i : Nat) (tok : Nat) (blk : Nat) (oc : Nat) (m : BitVec 512) (roots : List PSum) (hs1 : Kept s0 s) :
    Kept s0 (runBlock s t i tok blk oc m roots) := by
  unfold runBlock
  repeat' (first
    | with_reducible assumption
    | dsimp -zeta only [gotState_ok, gotState_stop]
    | fail_if_no_progress with_reducible refine Kept.lit ?_
    | with_reducible apply epiSide_kept
    | with_reducible apply wideWriteMany_kept
    | with_reducible apply sendResult_kept
    | with_reducible apply setEpi_kept
    | with_reducible refine KeptO.next ?_
    | with_reducible refine ite_keeps (P := Kept s0) ?_ ?_
    | with_reducible refine ite_keeps (P := KeptO s0) ?_ ?_
    | (intro y; intros)
    | (extract_lets +onlyGivenNames z; refine both (A := Kept s0 z) ?_ (fun hz => ?_) <;> [(dsimp -zeta only [z]; clear z); clear_value z])
    | (extract_lets +onlyGivenNames z; refine both (A := Kept s0 (gotState z)) ?_ (fun hf => ?_) <;> [(dsimp -zeta only [z]; clear z); clear_value z])
    | (extract_lets +onlyGivenNames z; clear_value z)
    | (split <;> try (rename_i he; have hk := congrArg gotState he; dsimp -zeta only [gotState_ok, gotState_stop] at hk; subst hk)))

theorem epiBlock_kept {s0 : State} (t : Step) (e : EpiCtx) (epi : Nat) (tok : Nat) (blk : Nat) (s : State) (hs1 : Kept s0 s) :
    Kept s0 (epiBlock t e epi tok blk s) := by
  unfold epiBlock
  repeat' (first
    | with_reducible assumption
    | dsimp -zeta only [gotState_ok, gotState_stop]
    | fail_if_no_progress with_reducible refine Kept.lit ?_
    | with_reducible apply blockRoots_kept
    | with_reducible apply sendRoots_kept
    | with_reducible apply runBlock_kept
    | with_reducible refine KeptO.next ?_
    | with_reducible refine ite_keeps (P := Kept s0) ?_ ?_
    | with_reducible refine ite_keeps (P := KeptO s0) ?_ ?_
    | (extract_lets +onlyGivenNames z; refine both (A := Kept s0 z) ?_ (fun hz => ?_) <;> [(dsimp -zeta only [z]; clear z); clear_value z])
    | (extract_lets +onlyGivenNames z; refine both (A := Kept s0 (gotState z)) ?_ (fun hf => ?_) <;> [(dsimp -zeta only [z]; clear z); clear_value z])
    | (extract_lets +onlyGivenNames z; clear_value z)
    | (split <;> try (rename_i he; have hk := congrArg gotState he; dsimp -zeta only [gotState_ok, gotState_stop] at hk; subst hk)))

theorem execEpilogueBlock_kept {s0 : State} (sid : Nat) (epi : Nat) (tok : Nat) (blk : Nat) (s : State) (hs1 : Kept s0 s) :
    KeptO s0 (execEpilogueBlock sid epi tok blk s) := by
  unfold execEpilogueBlock
  repeat' (first
    | with_reducible assumption
    | fail_if_no_progress with_reducible refine Kept.lit ?_
    | with_reducible apply byTurn_kept
    | with_reducible apply epiBlock_kept
    | with_reducible refine KeptO.next ?_
    | with_reducible refine ite_keeps (P := Kept s0) ?_ ?_
    | with_reducible refine ite_keeps (P := KeptO s0) ?_ ?_
    | (intro y; intros)
    | split)

theorem execEpilogueFinish_kept {s0 : State} (sid : Nat) (epi : Nat) (s : State) (hs1 : Kept s0 s) :
    KeptO s0 (execEpilogueFinish sid epi s) := by
  unfold execEpilogueFinish
  repeat' (first
    | with_reducible assumption
    | dsimp -zeta only [gotState_ok, gotState_stop]
    | fail_if_no_progress with_reducible refine Kept.lit ?_
    | with_reducible apply setEpi_kept
    | with_reducible apply wideWriteMany_kept
    | with_reducible apply sendResult_kept
    | with_reducible apply count_kept
    | with_reducible refine KeptO.next ?_
    | with_reducible refine ite_keeps (P := Kept s0) ?_ ?_
    | with_reducible refine ite_keeps (P := KeptO s0) ?_ ?_
    | (intro y; intros)
    | (extract_lets +onlyGivenNames z; refine both (A := Kept s0 z) ?_ (fun hz => ?_) <;> [(dsimp -zeta only [z]; clear z); clear_value z])
    | (extract_lets +onlyGivenNames z; refine both (A := Kept s0 (gotState z)) ?_ (fun hf => ?_) <;> [(dsimp -zeta only [z]; clear z); clear_value z])
    | (extract_lets +onlyGivenNames z; clear_value z)
    | (split <;> try (rename_i he; have hk := congrArg gotState he; dsimp -zeta only [gotState_ok, gotState_stop] at hk; subst hk)))

theorem putSum_kept {s0 : State} (s : State) (t : Step) (i : Nat) (tok : Nat) (row : Nat) (axis : Nat) (leaf : Nat) (code : BitVec 25) (p : Nat) (hs1 : Kept s0 s) :
    Kept s0 (putSum s t i tok row axis leaf code p) := by
  unfold putSum
  repeat' (first
    | with_reducible assumption
    | fail_if_no_progress with_reducible refine Kept.lit ?_
    | with_reducible apply putNode_kept)

theorem putResult_kept {s0 : State} (s : State) (t : Step) (i : Nat) (area : Nat) (off : Nat) (data : List Byte) (hs1 : Kept s0 s) :
    Kept s0 (putResult s t i area off data) := by
  unfold putResult
  repeat' (first
    | with_reducible assumption
    | dsimp -zeta only [gotState_ok, gotState_stop]
    | fail_if_no_progress with_reducible refine Kept.lit ?_
    | with_reducible apply wideWrite_kept
    | with_reducible apply setEpi_kept
    | with_reducible refine KeptO.next ?_
    | with_reducible refine ite_keeps (P := Kept s0) ?_ ?_
    | with_reducible refine ite_keeps (P := KeptO s0) ?_ ?_
    | (intro y; intros)
    | (extract_lets +onlyGivenNames z; refine both (A := Kept s0 z) ?_ (fun hz => ?_) <;> [(dsimp -zeta only [z]; clear z); clear_value z])
    | (extract_lets +onlyGivenNames z; refine both (A := Kept s0 (gotState z)) ?_ (fun hf => ?_) <;> [(dsimp -zeta only [z]; clear z); clear_value z])
    | (extract_lets +onlyGivenNames z; clear_value z)
    | (split <;> try (rename_i he; have hk := congrArg gotState he; dsimp -zeta only [gotState_ok, gotState_stop] at hk; subst hk)))

end Sys2Proof.Laws
end

