-- ==== Sys2Proof/Laws/KeptMillrace.lean ====
section
/-! SUPPORT. What the functions of Machine/Millrace.lean keep: the waiting commands and memory's canonical form. -/

namespace Sys2Proof.Laws

open Sys2Proof Sys2Proof.Machine

theorem setAtt_kept {s0 : State} (s : State) (sid : Nat) (i : Nat) (f : AttCtx → AttCtx) (hs1 : Kept s0 s) :
    Kept s0 (setAtt s sid i f) := by
  unfold setAtt
  repeat' (first
    | with_reducible assumption
    | fail_if_no_progress with_reducible refine Kept.lit ?_
    | with_reducible apply setUnits_kept)

theorem attFinish_kept {s0 : State} (s : State) (sid : Nat) (i : Nat) (hs1 : Kept s0 s) :
    Kept s0 (attFinish s sid i) := by
  unfold attFinish
  repeat' (first
    | with_reducible assumption
    | dsimp -zeta only [gotState_ok, gotState_stop]
    | fail_if_no_progress with_reducible refine Kept.lit ?_
    | with_reducible apply wideWrite_kept
    | with_reducible apply setAtt_kept
    | with_reducible refine KeptO.next ?_
    | with_reducible refine ite_keeps (P := Kept s0) ?_ ?_
    | with_reducible refine ite_keeps (P := KeptO s0) ?_ ?_
    | (intro y; intros)
    | (extract_lets +onlyGivenNames z; refine both (A := Kept s0 z) ?_ (fun hz => ?_) <;> [(dsimp -zeta only [z]; clear z); clear_value z])
    | (extract_lets +onlyGivenNames z; refine both (A := Kept s0 (gotState z)) ?_ (fun hf => ?_) <;> [(dsimp -zeta only [z]; clear z); clear_value z])
    | (extract_lets +onlyGivenNames z; clear_value z)
    | (split <;> try (rename_i he; have hk := congrArg gotState he; dsimp -zeta only [gotState_ok, gotState_stop] at hk; subst hk)))

theorem reqFault_kept {s0 : State} (s : State) (t : Step) (src : Nat) (i : Nat) (r : Nat) (addr : Nat) (hs1 : Kept s0 s) :
    Kept s0 (reqFault s t src i r addr) := by
  unfold reqFault
  repeat' (first
    | with_reducible assumption
    | fail_if_no_progress with_reducible refine Kept.lit ?_
    | with_reducible apply stepFaultRecord_kept
    | with_reducible apply raisePoisoned_kept
    | with_reducible apply putBack_kept
    | with_reducible apply setStep_kept
    | with_reducible apply attFinish_kept
    | with_reducible refine KeptO.next ?_
    | with_reducible refine ite_keeps (P := Kept s0) ?_ ?_
    | with_reducible refine ite_keeps (P := KeptO s0) ?_ ?_
    | (intro y; intros)
    | with_reducible refine foldl_kept ?_ (fun s x hs => ?_)
    | (extract_lets +onlyGivenNames z; refine both (A := Kept s0 z) ?_ (fun hz => ?_) <;> [(dsimp -zeta only [z]; clear z); clear_value z])
    | (extract_lets +onlyGivenNames z; clear_value z)
    | split)

theorem lookFault_kept {s0 : State} (s : State) (t : Step) (src : Nat) (unit : Nat) (i : Nat) (r : Nat) (addr : Nat) (status : Nat) (hs1 : Kept s0 s) :
    Kept s0 (lookFault s t src unit i r addr status) := by
  unfold lookFault
  repeat' (first
    | with_reducible assumption
    | fail_if_no_progress with_reducible refine Kept.lit ?_
    | with_reducible apply reqFault_kept
    | with_reducible apply unitFault_kept
    | with_reducible refine KeptO.next ?_
    | with_reducible refine ite_keeps (P := Kept s0) ?_ ?_)

theorem attStream_kept {s0 : State} (s : State) (t : Step) (i : Nat) (r : Nat) (h : Nat) (k : Nat) (row : Nat) (hs1 : Kept s0 s) :
    Kept s0 (attStream s t i r h k row) := by
  unfold attStream
  repeat' (first
    | with_reducible assumption
    | dsimp -zeta only [gotState_ok, gotState_stop]
    | fail_if_no_progress with_reducible refine Kept.lit ?_
    | with_reducible apply lookFault_kept
    | with_reducible apply wideMany_kept
    | with_reducible apply unitFault_kept
    | with_reducible apply setUnits_kept
    | with_reducible refine KeptO.next ?_
    | with_reducible refine ite_keeps (P := Kept s0) ?_ ?_
    | with_reducible refine ite_keeps (P := KeptO s0) ?_ ?_
    | (intro y; intros)
    | (extract_lets +onlyGivenNames z; refine both (A := Kept s0 z) ?_ (fun hz => ?_) <;> [(dsimp -zeta only [z]; clear z); clear_value z])
    | (extract_lets +onlyGivenNames z; refine both (A := Kept s0 (gotState z)) ?_ (fun hf => ?_) <;> [(dsimp -zeta only [z]; clear z); clear_value z])
    | (extract_lets +onlyGivenNames z; clear_value z)
    | (split <;> try (rename_i he; have hk := congrArg gotState he; dsimp -zeta only [gotState_ok, gotState_stop] at hk; subst hk)))

theorem takeUnit_kept {s0 : State} (s : State) (t : Step) (i : Nat) (mill : Nat) (r : Nat) (h : Nat) (n : Nat) (pages : List Nat) (hs1 : Kept s0 s) :
    Kept s0 (takeUnit s t i mill r h n pages) := by
  unfold takeUnit
  repeat' (first
    | with_reducible assumption
    | fail_if_no_progress with_reducible refine Kept.lit ?_
    | with_reducible apply setAtt_kept
    | with_reducible apply setUnits_kept)

theorem zeroDkv_kept {s0 : State} (s : State) (t : Step) (i : Nat) (r : Nat) (hs1 : Kept s0 s) :
    Kept s0 (zeroDkv s t i r) := by
  unfold zeroDkv
  repeat' (first
    | with_reducible assumption
    | fail_if_no_progress with_reducible refine Kept.lit ?_
    | with_reducible apply putBack_kept
    | with_reducible refine KeptO.next ?_
    | with_reducible refine ite_keeps (P := Kept s0) ?_ ?_
    | with_reducible refine ite_keeps (P := KeptO s0) ?_ ?_
    | (intro y; intros)
    | with_reducible refine foldl_kept ?_ (fun s x hs => ?_))

theorem execMillraceUnitStart_kept {s0 : State} (sid : Nat) (i : Nat) (mill : Nat) (s : State) (hs1 : Kept s0 s) :
    KeptO s0 (execMillraceUnitStart sid i mill s) := by
  unfold execMillraceUnitStart
  repeat' (first
    | with_reducible assumption
    | fail_if_no_progress with_reducible refine Kept.lit ?_
    | with_reducible apply attFinish_kept
    | with_reducible apply setAtt_kept
    | with_reducible apply takeUnit_kept
    | with_reducible apply lookFault_kept
    | with_reducible apply count_kept
    | with_reducible apply zeroDkv_kept
    | with_reducible refine KeptO.next ?_
    | with_reducible refine ite_keeps (P := Kept s0) ?_ ?_
    | with_reducible refine ite_keeps (P := KeptO s0) ?_ ?_
    | (intro y; intros)
    | (extract_lets +onlyGivenNames z; refine both (A := Kept s0 z) ?_ (fun hz => ?_) <;> [(dsimp -zeta only [z]; clear z); clear_value z])
    | (extract_lets +onlyGivenNames z; clear_value z)
    | split)

theorem setMill_kept {s0 : State} (s : State) (sid : Nat) (mill : Nat) (f : Mill → Mill) (hs1 : Kept s0 s) :
    Kept s0 (setMill s sid mill f) := by
  unfold setMill
  repeat' (first
    | with_reducible assumption
    | fail_if_no_progress with_reducible refine Kept.lit ?_
    | with_reducible apply setUnits_kept)

theorem fetchPage_kept {s0 : State} (s : State) (t : Step) (m : Mill) (k : Nat) (rows : List Nat) (hs1 : Kept s0 s) :
    Kept s0 (gotState (fetchPage s t m k rows)) := by
  unfold fetchPage
  repeat' (first
    | with_reducible assumption
    | dsimp -zeta only [gotState_ok, gotState_stop]
    | with_reducible refine ite_keeps (P := fun g => Kept s0 (gotState g)) ?_ ?_
    | fail_if_no_progress with_reducible refine Kept.lit ?_
    | with_reducible apply lookFault_kept
    | with_reducible apply wideHold_kept
    | with_reducible apply unitFault_kept
    | with_reducible refine KeptO.next ?_
    | with_reducible refine ite_keeps (P := Kept s0) ?_ ?_
    | with_reducible refine ite_keeps (P := KeptO s0) ?_ ?_
    | (intro y; intros)
    | (extract_lets +onlyGivenNames z; refine both (A := Kept s0 z) ?_ (fun hz => ?_) <;> [(dsimp -zeta only [z]; clear z); clear_value z])
    | (extract_lets +onlyGivenNames z; refine both (A := Kept s0 (gotState z)) ?_ (fun hf => ?_) <;> [(dsimp -zeta only [z]; clear z); clear_value z])
    | (extract_lets +onlyGivenNames z; clear_value z)
    | (split <;> try (rename_i he; have hk := congrArg gotState he; dsimp -zeta only [gotState_ok, gotState_stop] at hk; subst hk)))

theorem tileCounts_kept {s0 : State} (s : State) (t : Step) (m : Mill) (beats : Nat) (sats : Nat) (hs1 : Kept s0 s) :
    Kept s0 (tileCounts s t m beats sats) := by
  unfold tileCounts
  repeat' (first
    | with_reducible assumption
    | fail_if_no_progress with_reducible refine Kept.lit ?_
    | with_reducible apply count_kept
    | with_reducible apply setAtt_kept)

theorem grpEnd_kept {s0 : State} (s : State) (t : Step) (m : Mill) (hs1 : Kept s0 s) :
    Kept s0 (grpEnd s t m) := by
  unfold grpEnd
  repeat' (first
    | with_reducible assumption
    | with_reducible apply hf
    | fail_if_no_progress with_reducible refine Kept.lit ?_
    | with_reducible apply setUnits_kept
    | with_reducible apply setMill_kept
    | with_reducible refine KeptO.next ?_
    | with_reducible refine ite_keeps (P := Kept s0) ?_ ?_)

theorem readRows_kept {s0 : State} (s : State) (t : Step) (m : Mill) (f : BFmt) (cuts : Nat → List (Nat × Nat)) (rows : List Nat) (hs1 : Kept s0 s) :
    Kept s0 (gotState (readRows s t m f cuts rows)) := by
  unfold readRows
  repeat' (first
    | with_reducible assumption
    | dsimp -zeta only [gotState_ok, gotState_stop]
    | with_reducible refine ite_keeps (P := fun g => Kept s0 (gotState g)) ?_ ?_
    | fail_if_no_progress with_reducible refine Kept.lit ?_
    | with_reducible apply wideHold_kept
    | with_reducible apply unitFault_kept
    | with_reducible refine KeptO.next ?_
    | with_reducible refine ite_keeps (P := Kept s0) ?_ ?_
    | with_reducible refine ite_keeps (P := KeptO s0) ?_ ?_
    | (intro y; intros)
    | (extract_lets +onlyGivenNames z; refine both (A := Kept s0 z) ?_ (fun hz => ?_) <;> [(dsimp -zeta only [z]; clear z); clear_value z])
    | (extract_lets +onlyGivenNames z; refine both (A := Kept s0 (gotState z)) ?_ (fun hf => ?_) <;> [(dsimp -zeta only [z]; clear z); clear_value z])
    | (extract_lets +onlyGivenNames z; clear_value z)
    | (split <;> try (rename_i he; have hk := congrArg gotState he; dsimp -zeta only [gotState_ok, gotState_stop] at hk; subst hk)))

theorem fwdTile_kept {s0 : State} (s : State) (t : Step) (m : Mill) (k : Nat) (hs1 : Kept s0 s) :
    Kept s0 (fwdTile s t m k) := by
  unfold fwdTile
  repeat' (first
    | with_reducible assumption
    | dsimp -zeta only [gotState_ok, gotState_stop]
    | fail_if_no_progress with_reducible refine Kept.lit ?_
    | with_reducible apply fetchPage_kept
    | with_reducible apply tileCounts_kept
    | with_reducible apply endPiece_kept
    | with_reducible apply setMill_kept
    | with_reducible apply grpEnd_kept
    | with_reducible refine KeptO.next ?_
    | with_reducible refine ite_keeps (P := Kept s0) ?_ ?_
    | with_reducible refine ite_keeps (P := KeptO s0) ?_ ?_
    | (intro y; intros)
    | (extract_lets +onlyGivenNames z; refine both (A := Kept s0 z) ?_ (fun hz => ?_) <;> [(dsimp -zeta only [z]; clear z); clear_value z])
    | (extract_lets +onlyGivenNames z; refine both (A := Kept s0 (gotState z)) ?_ (fun hf => ?_) <;> [(dsimp -zeta only [z]; clear z); clear_value z])
    | (extract_lets +onlyGivenNames z; clear_value z)
    | (split <;> try (rename_i he; have hk := congrArg gotState he; dsimp -zeta only [gotState_ok, gotState_stop] at hk; subst hk)))

theorem fwdStep_kept {s0 : State} (s : State) (t : Step) (m : Mill) (hs1 : Kept s0 s) :
    Kept s0 (fwdStep s t m) := by
  unfold fwdStep
  repeat' (first
    | with_reducible assumption
    | dsimp -zeta only [gotState_ok, gotState_stop]
    | fail_if_no_progress with_reducible refine Kept.lit ?_
    | with_reducible apply grpEnd_kept
    | with_reducible apply fwdTile_kept
    | with_reducible apply readRows_kept
    | with_reducible apply setMill_kept
    | with_reducible refine KeptO.next ?_
    | with_reducible refine ite_keeps (P := Kept s0) ?_ ?_
    | with_reducible refine ite_keeps (P := KeptO s0) ?_ ?_
    | (intro y; intros)
    | (extract_lets +onlyGivenNames z; refine both (A := Kept s0 z) ?_ (fun hz => ?_) <;> [(dsimp -zeta only [z]; clear z); clear_value z])
    | (extract_lets +onlyGivenNames z; refine both (A := Kept s0 (gotState z)) ?_ (fun hf => ?_) <;> [(dsimp -zeta only [z]; clear z); clear_value z])
    | (extract_lets +onlyGivenNames z; clear_value z)
    | (split <;> try (rename_i he; have hk := congrArg gotState he; dsimp -zeta only [gotState_ok, gotState_stop] at hk; subst hk)))

theorem backEnd_kept {s0 : State} (s : State) (t : Step) (m : Mill) (hs1 : Kept s0 s) :
    Kept s0 (backEnd s t m) := by
  unfold backEnd
  repeat' (first
    | with_reducible assumption
    | dsimp -zeta only [gotState_ok, gotState_stop]
    | fail_if_no_progress with_reducible refine Kept.lit ?_
    | with_reducible apply wideHold_kept
    | with_reducible apply wideWriteMany_kept
    | with_reducible apply setAtt_kept
    | with_reducible apply setMill_kept
    | with_reducible apply setUnits_kept
    | with_reducible apply attFinish_kept
    | with_reducible refine KeptO.next ?_
    | with_reducible refine ite_keeps (P := Kept s0) ?_ ?_
    | with_reducible refine ite_keeps (P := KeptO s0) ?_ ?_
    | (intro y; intros)
    | (extract_lets +onlyGivenNames z; refine both (A := Kept s0 z) ?_ (fun hz => ?_) <;> [(dsimp -zeta only [z]; clear z); clear_value z])
    | (extract_lets +onlyGivenNames z; refine both (A := Kept s0 (gotState z)) ?_ (fun hf => ?_) <;> [(dsimp -zeta only [z]; clear z); clear_value z])
    | (extract_lets +onlyGivenNames z; clear_value z)
    | (split <;> try (rename_i he; have hk := congrArg gotState he; dsimp -zeta only [gotState_ok, gotState_stop] at hk; subst hk)))

theorem backTile_kept {s0 : State} (s : State) (t : Step) (m : Mill) (k : Nat) (hs1 : Kept s0 s) :
    Kept s0 (backTile s t m k) := by
  unfold backTile
  repeat' (first
    | with_reducible assumption
    | dsimp -zeta only [gotState_ok, gotState_stop]
    | fail_if_no_progress with_reducible refine Kept.lit ?_
    | with_reducible apply fetchPage_kept
    | with_reducible apply setMill_kept
    | with_reducible apply tileCounts_kept
    | with_reducible apply endPiece_kept
    | with_reducible apply wideHold_kept
    | with_reducible apply wideWriteMany_kept
    | with_reducible apply backEnd_kept
    | with_reducible refine KeptO.next ?_
    | with_reducible refine ite_keeps (P := Kept s0) ?_ ?_
    | with_reducible refine ite_keeps (P := KeptO s0) ?_ ?_
    | (intro y; intros)
    | (extract_lets +onlyGivenNames z; refine both (A := Kept s0 z) ?_ (fun hz => ?_) <;> [(dsimp -zeta only [z]; clear z); clear_value z])
    | (extract_lets +onlyGivenNames z; refine both (A := Kept s0 (gotState z)) ?_ (fun hf => ?_) <;> [(dsimp -zeta only [z]; clear z); clear_value z])
    | (extract_lets +onlyGivenNames z; clear_value z)
    | (split <;> try (rename_i he; have hk := congrArg gotState he; dsimp -zeta only [gotState_ok, gotState_stop] at hk; subst hk)))

theorem backStep_kept {s0 : State} (s : State) (t : Step) (m : Mill) (hs1 : Kept s0 s) :
    Kept s0 (backStep s t m) := by
  unfold backStep
  repeat' (first
    | with_reducible assumption
    | dsimp -zeta only [gotState_ok, gotState_stop]
    | with_reducible apply hf
    | fail_if_no_progress with_reducible refine Kept.lit ?_
    | with_reducible apply backTile_kept
    | with_reducible apply backEnd_kept
    | with_reducible apply readRows_kept
    | with_reducible apply wideMany_kept
    | with_reducible apply setMill_kept
    | with_reducible refine KeptO.next ?_
    | with_reducible refine ite_keeps (P := Kept s0) ?_ ?_
    | with_reducible refine ite_keeps (P := KeptO s0) ?_ ?_
    | (intro y; intros)
    | (extract_lets +onlyGivenNames z; refine both (A := Kept s0 z) ?_ (fun hz => ?_) <;> [(dsimp -zeta only [z]; clear z); clear_value z])
    | (extract_lets +onlyGivenNames z; refine both (A := Kept s0 (gotState z)) ?_ (fun hf => ?_) <;> [(dsimp -zeta only [z]; clear z); clear_value z])
    | (extract_lets +onlyGivenNames z; refine both (A := ∀ a b c, Kept s0 a → Kept s0 (gotState (z a b c))) ?_ (fun hf => ?_) <;> [(dsimp -zeta only [z]; clear z); clear_value z])
    | (extract_lets +onlyGivenNames z; refine both (A := ∀ a b, Kept s0 a → Kept s0 (gotState (z a b))) ?_ (fun hf => ?_) <;> [(dsimp -zeta only [z]; clear z); clear_value z])
    | (extract_lets +onlyGivenNames z; refine both (A := ∀ a b c, Kept s0 (z a b c)) ?_ (fun hf => ?_) <;> [(dsimp -zeta only [z]; clear z); clear_value z])
    | (extract_lets +onlyGivenNames z; refine both (A := ∀ a b, Kept s0 (z a b)) ?_ (fun hf => ?_) <;> [(dsimp -zeta only [z]; clear z); clear_value z])
    | (extract_lets +onlyGivenNames z; refine both (A := ∀ a, Kept s0 (z a)) ?_ (fun hf => ?_) <;> [(dsimp -zeta only [z]; clear z); clear_value z])
    | (extract_lets +onlyGivenNames z; refine both (A := ∀ a b c d, Kept s0 a → Kept s0 (z a b c d)) ?_ (fun hf => ?_) <;> [(dsimp -zeta only [z]; clear z); clear_value z])
    | (extract_lets +onlyGivenNames z; refine both (A := ∀ a b c, Kept s0 a → Kept s0 (z a b c)) ?_ (fun hf => ?_) <;> [(dsimp -zeta only [z]; clear z); clear_value z])
    | (extract_lets +onlyGivenNames z; refine both (A := ∀ a b, Kept s0 a → Kept s0 (z a b)) ?_ (fun hf => ?_) <;> [(dsimp -zeta only [z]; clear z); clear_value z])
    | (extract_lets +onlyGivenNames z; refine both (A := ∀ a, Kept s0 a → Kept s0 (z a)) ?_ (fun hf => ?_) <;> [(dsimp -zeta only [z]; clear z); clear_value z])
    | (extract_lets +onlyGivenNames z; clear_value z)
    | (split <;> try (rename_i he; have hk := congrArg gotState he; dsimp -zeta only [gotState_ok, gotState_stop] at hk; subst hk)))

theorem millTile_kept {s0 : State} (t : Step) (m : Mill) (s : State) (hs1 : Kept s0 s) :
    Kept s0 (millTile t m s) := by
  unfold millTile
  repeat' (first
    | with_reducible assumption
    | fail_if_no_progress with_reducible refine Kept.lit ?_
    | with_reducible apply backStep_kept
    | with_reducible apply fwdStep_kept
    | with_reducible refine KeptO.next ?_
    | with_reducible refine ite_keeps (P := Kept s0) ?_ ?_)

theorem execMillraceTile_kept {s0 : State} (sid : Nat) (mill : Nat) (s : State) (hs1 : Kept s0 s) :
    KeptO s0 (execMillraceTile sid mill s) := by
  unfold execMillraceTile
  repeat' (first
    | with_reducible assumption
    | fail_if_no_progress with_reducible refine Kept.lit ?_
    | with_reducible apply byTurn_kept
    | with_reducible apply millTile_kept
    | with_reducible refine KeptO.next ?_
    | with_reducible refine ite_keeps (P := Kept s0) ?_ ?_
    | with_reducible refine ite_keeps (P := KeptO s0) ?_ ?_
    | (intro y; intros)
    | split)

theorem putPart_kept {s0 : State} (s : State) (sid : Nat) (i : Nat) (r : Nat) (h : Nat) (row : Nat) (n : CNode) (p : RowPart) (hs1 : Kept s0 s) :
    Kept s0 (putPart s sid i r h row n p) := by
  unfold putPart
  repeat' (first
    | with_reducible assumption
    | fail_if_no_progress with_reducible refine Kept.lit ?_
    | with_reducible apply setUnits_kept)

theorem finishRow_kept {s0 : State} (s : State) (t : Step) (i : Nat) (r : Nat) (h : Nat) (row : Nat) (mill : Nat) (p : RowPart) (hs1 : Kept s0 s) :
    Kept s0 (finishRow s t i r h row mill p) := by
  unfold finishRow
  repeat' (first
    | with_reducible assumption
    | dsimp -zeta only [gotState_ok, gotState_stop]
    | fail_if_no_progress with_reducible refine Kept.lit ?_
    | with_reducible apply setAtt_kept
    | with_reducible apply wideWriteMany_kept
    | with_reducible apply sendResult_kept
    | with_reducible apply count_kept
    | with_reducible apply attFinish_kept
    | with_reducible refine KeptO.next ?_
    | with_reducible refine ite_keeps (P := Kept s0) ?_ ?_
    | with_reducible refine ite_keeps (P := KeptO s0) ?_ ?_
    | (intro y; intros)
    | (extract_lets +onlyGivenNames z; refine both (A := Kept s0 z) ?_ (fun hz => ?_) <;> [(dsimp -zeta only [z]; clear z); clear_value z])
    | (extract_lets +onlyGivenNames z; refine both (A := Kept s0 (gotState z)) ?_ (fun hf => ?_) <;> [(dsimp -zeta only [z]; clear z); clear_value z])
    | (extract_lets +onlyGivenNames z; clear_value z)
    | (split <;> try (rename_i he; have hk := congrArg gotState he; dsimp -zeta only [gotState_ok, gotState_stop] at hk; subst hk)))

theorem sendPart_kept {s0 : State} (s : State) (t : Step) (i : Nat) (r : Nat) (h : Nat) (row : Nat) (p : RowPart) (hs1 : Kept s0 s) :
    Kept s0 (sendPart s t i r h row p) := by
  unfold sendPart
  repeat' (first
    | with_reducible assumption
    | fail_if_no_progress with_reducible refine Kept.lit ?_
    | with_reducible apply sendUnits_kept
    | with_reducible apply putPart_kept
    | with_reducible refine KeptO.next ?_
    | with_reducible refine ite_keeps (P := Kept s0) ?_ ?_)

theorem mergeNode_kept {s0 : State} (s : State) (t : Step) (i : Nat) (r : Nat) (h : Nat) (row : Nat) (ranges : Nat) (n : CNode) (hs1 : Kept s0 s) :
    Kept s0 (mergeNode s t i r h row ranges n) := by
  unfold mergeNode
  repeat' (first
    | with_reducible assumption
    | with_reducible apply hf
    | fail_if_no_progress with_reducible refine Kept.lit ?_
    | with_reducible apply putPart_kept
    | with_reducible refine KeptO.next ?_
    | with_reducible refine ite_keeps (P := Kept s0) ?_ ?_
    | with_reducible refine ite_keeps (P := KeptO s0) ?_ ?_
    | (extract_lets +onlyGivenNames z; refine both (A := Kept s0 z) ?_ (fun hz => ?_) <;> [(dsimp -zeta only [z]; clear z); clear_value z])
    | (extract_lets +onlyGivenNames z; refine both (A := ∀ a b c, Kept s0 (z a b c)) ?_ (fun hf => ?_) <;> [(dsimp -zeta only [z]; clear z); clear_value z])
    | (extract_lets +onlyGivenNames z; refine both (A := ∀ a b, Kept s0 (z a b)) ?_ (fun hf => ?_) <;> [(dsimp -zeta only [z]; clear z); clear_value z])
    | (extract_lets +onlyGivenNames z; refine both (A := ∀ a, Kept s0 (z a)) ?_ (fun hf => ?_) <;> [(dsimp -zeta only [z]; clear z); clear_value z])
    | (extract_lets +onlyGivenNames z; refine both (A := ∀ a b c d, Kept s0 a → Kept s0 (z a b c d)) ?_ (fun hf => ?_) <;> [(dsimp -zeta only [z]; clear z); clear_value z])
    | (extract_lets +onlyGivenNames z; refine both (A := ∀ a b c, Kept s0 a → Kept s0 (z a b c)) ?_ (fun hf => ?_) <;> [(dsimp -zeta only [z]; clear z); clear_value z])
    | (extract_lets +onlyGivenNames z; refine both (A := ∀ a b, Kept s0 a → Kept s0 (z a b)) ?_ (fun hf => ?_) <;> [(dsimp -zeta only [z]; clear z); clear_value z])
    | (extract_lets +onlyGivenNames z; refine both (A := ∀ a, Kept s0 a → Kept s0 (z a)) ?_ (fun hf => ?_) <;> [(dsimp -zeta only [z]; clear z); clear_value z])
    | (intro y; intros)
    | (extract_lets +onlyGivenNames z; clear_value z)
    | split)

theorem execRangeMerge_kept {s0 : State} (sid : Nat) (i : Nat) (r : Nat) (h : Nat) (row : Nat) (node : CNode) (s : State) (hs1 : Kept s0 s) :
    KeptO s0 (execRangeMerge sid i r h row node s) := by
  unfold execRangeMerge
  repeat' (first
    | with_reducible assumption
    | fail_if_no_progress with_reducible refine Kept.lit ?_
    | with_reducible apply attFinish_kept
    | with_reducible apply mergeNode_kept
    | with_reducible apply finishRow_kept
    | with_reducible apply sendPart_kept
    | with_reducible refine KeptO.next ?_
    | with_reducible refine ite_keeps (P := Kept s0) ?_ ?_
    | with_reducible refine ite_keeps (P := KeptO s0) ?_ ?_
    | (intro y; intros)
    | (extract_lets +onlyGivenNames z; refine both (A := Kept s0 z) ?_ (fun hz => ?_) <;> [(dsimp -zeta only [z]; clear z); clear_value z])
    | (extract_lets +onlyGivenNames z; clear_value z)
    | split)

theorem putAttPart_kept {s0 : State} (s : State) (t : Step) (i : Nat) (r : Nat) (h : Nat) (row : Nat) (leaf : Nat) (p : RowPart) (hs1 : Kept s0 s) :
    Kept s0 (putAttPart s t i r h row leaf p) := by
  unfold putAttPart
  repeat' (first
    | with_reducible assumption
    | fail_if_no_progress with_reducible refine Kept.lit ?_
    | with_reducible apply putPart_kept
    | with_reducible refine KeptO.next ?_
    | with_reducible refine ite_keeps (P := Kept s0) ?_ ?_)

theorem putAttRow_kept {s0 : State} (s : State) (t : Step) (i : Nat) (off : Nat) (data : List Byte) (hs1 : Kept s0 s) :
    Kept s0 (putAttRow s t i off data) := by
  unfold putAttRow
  repeat' (first
    | with_reducible assumption
    | dsimp -zeta only [gotState_ok, gotState_stop]
    | fail_if_no_progress with_reducible refine Kept.lit ?_
    | with_reducible apply wideWrite_kept
    | with_reducible apply setAtt_kept
    | with_reducible apply attFinish_kept
    | with_reducible refine KeptO.next ?_
    | with_reducible refine ite_keeps (P := Kept s0) ?_ ?_
    | with_reducible refine ite_keeps (P := KeptO s0) ?_ ?_
    | (intro y; intros)
    | (extract_lets +onlyGivenNames z; refine both (A := Kept s0 z) ?_ (fun hz => ?_) <;> [(dsimp -zeta only [z]; clear z); clear_value z])
    | (extract_lets +onlyGivenNames z; refine both (A := Kept s0 (gotState z)) ?_ (fun hf => ?_) <;> [(dsimp -zeta only [z]; clear z); clear_value z])
    | (extract_lets +onlyGivenNames z; clear_value z)
    | (split <;> try (rename_i he; have hk := congrArg gotState he; dsimp -zeta only [gotState_ok, gotState_stop] at hk; subst hk)))

end Sys2Proof.Laws
end

