-- ==== Sys2Proof/Laws/KeptWeir.lean ====
section
/-! SUPPORT. What the functions of Machine/Weir.lean keep: the waiting commands and memory's canonical form. -/

namespace Sys2Proof.Laws

open Sys2Proof Sys2Proof.Machine

theorem routerPlace_kept {s0 : State} (s : State) (a : Acc3) (h : WHdr) (e : Nat) (hs1 : Kept s0 s) :
    Kept s0 (gotState (routerPlace s a h e)) := by
  unfold routerPlace
  repeat' (first
    | with_reducible assumption
    | dsimp -zeta only [gotState_ok, gotState_stop]
    | with_reducible refine ite_keeps (P := fun g => Kept s0 (gotState g)) ?_ ?_
    | fail_if_no_progress with_reducible refine Kept.lit ?_
    | with_reducible apply wideHold_kept
    | with_reducible refine KeptO.next ?_
    | with_reducible refine ite_keeps (P := Kept s0) ?_ ?_
    | with_reducible refine ite_keeps (P := KeptO s0) ?_ ?_
    | (extract_lets +onlyGivenNames z; refine both (A := Kept s0 z) ?_ (fun hz => ?_) <;> [(dsimp -zeta only [z]; clear z); clear_value z])
    | (extract_lets +onlyGivenNames z; refine both (A := Kept s0 (gotState z)) ?_ (fun hf => ?_) <;> [(dsimp -zeta only [z]; clear z); clear_value z])
    | (extract_lets +onlyGivenNames z; clear_value z)
    | (split <;> try (rename_i he; have hk := congrArg gotState he; dsimp -zeta only [gotState_ok, gotState_stop] at hk; subst hk)))

theorem weirFault_kept {s0 : State} (s : State) (t : Step) (status : Nat) (i : Nat) (addr : Nat) (hs1 : Kept s0 s) :
    Kept s0 (weirFault s t status i addr) := by
  unfold weirFault
  repeat' (first
    | with_reducible assumption
    | fail_if_no_progress with_reducible refine Kept.lit ?_
    | with_reducible apply unitFault_kept)

theorem routerRow_kept {s0 : State} (s : State) (t : Step) (a : Acc3) (i : Nat) (h : WHdr) (e : Nat) (hs1 : Kept s0 s) :
    Kept s0 (gotState (routerRow s t a i h e)) := by
  unfold routerRow
  repeat' (first
    | with_reducible assumption
    | dsimp -zeta only [gotState_ok, gotState_stop]
    | with_reducible refine ite_keeps (P := fun g => Kept s0 (gotState g)) ?_ ?_
    | fail_if_no_progress with_reducible refine Kept.lit ?_
    | with_reducible apply routerPlace_kept
    | with_reducible apply weirFault_kept
    | with_reducible apply wideHold_kept
    | with_reducible refine KeptO.next ?_
    | with_reducible refine ite_keeps (P := Kept s0) ?_ ?_
    | with_reducible refine ite_keeps (P := KeptO s0) ?_ ?_
    | (intro y; intros)
    | (extract_lets +onlyGivenNames z; refine both (A := Kept s0 z) ?_ (fun hz => ?_) <;> [(dsimp -zeta only [z]; clear z); clear_value z])
    | (extract_lets +onlyGivenNames z; refine both (A := Kept s0 (gotState z)) ?_ (fun hf => ?_) <;> [(dsimp -zeta only [z]; clear z); clear_value z])
    | (extract_lets +onlyGivenNames z; clear_value z)
    | (split <;> try (rename_i he; have hk := congrArg gotState he; dsimp -zeta only [gotState_ok, gotState_stop] at hk; subst hk)))

theorem routerRows_kept {s0 : State} (t : Step) (a : Acc3) (i : Nat) (h : WHdr) (z0 : List Nat) (z1 : State) (hs1 : Kept s0 z1) :
    Kept s0 (gotState (routerRows t a i h z0 z1)) := by
  induction z0 generalizing t a i h z1 with
  | nil =>
    first | rw [routerRows] | (rw [routerRows.eq_def]; dsimp -zeta only)
    repeat' (first
      | with_reducible assumption
      | dsimp -zeta only [gotState_ok, gotState_stop])
  | cons x l ih =>
    first | rw [routerRows] | (rw [routerRows.eq_def]; dsimp -zeta only)
    repeat' (first
      | with_reducible assumption
      | with_reducible apply ih
      | dsimp -zeta only [gotState_ok, gotState_stop]
      | with_reducible refine ite_keeps (P := fun g => Kept s0 (gotState g)) ?_ ?_
      | fail_if_no_progress with_reducible refine Kept.lit ?_
      | with_reducible apply routerRow_kept
      | with_reducible refine KeptO.next ?_
      | with_reducible refine ite_keeps (P := Kept s0) ?_ ?_
      | with_reducible refine ite_keeps (P := KeptO s0) ?_ ?_
      | (split <;> try (rename_i he; have hk := congrArg gotState he; dsimp -zeta only [gotState_ok, gotState_stop] at hk; subst hk)))

theorem weirStream_kept {s0 : State} (s : State) (t : Step) (i : Nat) (tok : Nat) (e : Nat) (hs1 : Kept s0 s) :
    Kept s0 (weirStream s t i tok e) := by
  unfold weirStream
  repeat' (first
    | with_reducible assumption
    | dsimp -zeta only [gotState_ok, gotState_stop]
    | with_reducible apply hf
    | fail_if_no_progress with_reducible refine Kept.lit ?_
    | with_reducible apply wideHold_kept
    | with_reducible apply weirFault_kept
    | with_reducible apply setUnits_kept
    | with_reducible apply endPiece_kept
    | with_reducible apply routerRow_kept
    | with_reducible refine KeptO.next ?_
    | with_reducible refine ite_keeps (P := Kept s0) ?_ ?_
    | with_reducible refine ite_keeps (P := KeptO s0) ?_ ?_
    | (intro y; intros)
    | (extract_lets +onlyGivenNames z; refine both (A := Kept s0 z) ?_ (fun hz => ?_) <;> [(dsimp -zeta only [z]; clear z); clear_value z])
    | (extract_lets +onlyGivenNames z; refine both (A := Kept s0 (gotState z)) ?_ (fun hf => ?_) <;> [(dsimp -zeta only [z]; clear z); clear_value z])
    | (extract_lets +onlyGivenNames z; refine both (A := ∀ a b c, Kept s0 a → Kept s0 (gotState (z a b c))) ?_ (fun hf => ?_) <;> [(dsimp -zeta only [z]; clear z); clear_value z])
    | (extract_lets +onlyGivenNames z; refine both (A := ∀ a b, Kept s0 a → Kept s0 (gotState (z a b))) ?_ (fun hf => ?_) <;> [(dsimp -zeta only [z]; clear z); clear_value z])
    | (extract_lets +onlyGivenNames z; refine both (A := ∀ a b c, Kept s0 (z a b c)) ?_ (fun hf => ?_) <;> [(dsimp -zeta only [z]; clear z); clear_value z])
    | (extract_lets +onlyGivenNames z; refine both (A := ∀ a b, Kept s0 (z a b)) ?_ (fun hf => ?_) <;> [(dsimp -zeta only [z]; clear z); clear_value z])
    | (extract_lets +onlyGivenNames z; refine both (A := ∀ a, Kept s0 (z a)) ?_ (fun hf => ?_) <;> [(dsimp -zeta only [z]; clear z); clear_value z])
    | (extract_lets +onlyGivenNames z; refine both (A := ∀ a b c d, Kept s0 a → Kept s0 (z a b c d)) ?_ (fun hf => ?_) <;> [(dsimp -zeta only [z]; clear z); clear_value z])
    | (extract_lets +onlyGivenNames z; refine both (A := ∀ a b c, Kept s0 a → Kept s0 (z a b c)) ?_ (fun hf => ?_) <;> [(dsimp -zeta only [z]; clear z); clear_value z])
    | (extract_lets +onlyGivenNames z; refine both (A := ∀ a b, Kept s0 a → Kept s0 (z a b)) ?_ (fun hf => ?_) <;> [(dsimp -zeta only [z]; clear z); clear_value z])
    | (extract_lets +onlyGivenNames z; refine both (A := ∀ a, Kept s0 a → Kept s0 (z a)) ?_ (fun hf => ?_) <;> [(dsimp -zeta only [z]; clear z); clear_value z])
    | (extract_lets +onlyGivenNames z; clear_value z)
    | (split <;> try (rename_i he; have hk := congrArg gotState he; dsimp -zeta only [gotState_ok, gotState_stop] at hk; subst hk)))

theorem stream_kept {s0 : State} (t : Step) (i : Nat) (a : Nat) (b : Nat) (c : Nat) (d : Nat) (s : State) (hs1 : Kept s0 s) :
    Kept s0 (stream t i a b c d s) := by
  unfold stream
  repeat' (first
    | with_reducible assumption
    | fail_if_no_progress with_reducible refine Kept.lit ?_
    | with_reducible apply attStream_kept
    | with_reducible apply weirStream_kept
    | with_reducible refine KeptO.next ?_
    | with_reducible refine ite_keeps (P := Kept s0) ?_ ?_)

theorem execRiffleStream_kept {s0 : State} (sid : Nat) (i : Nat) (a : Nat) (b : Nat) (c : Nat) (d : Nat) (s : State) (hs1 : Kept s0 s) :
    KeptO s0 (execRiffleStream sid i a b c d s) := by
  unfold execRiffleStream
  repeat' (first
    | with_reducible assumption
    | fail_if_no_progress with_reducible refine Kept.lit ?_
    | with_reducible apply byTurn_kept
    | with_reducible apply stream_kept
    | with_reducible refine KeptO.next ?_
    | with_reducible refine ite_keeps (P := Kept s0) ?_ ?_
    | with_reducible refine ite_keeps (P := KeptO s0) ?_ ?_
    | split)

theorem tokenBytes_kept {s0 : State} (s : State) (t : Step) (i : Nat) (toks : List Nat) (hs1 : Kept s0 s) :
    Kept s0 (gotState (tokenBytes s t i toks)) := by
  unfold tokenBytes
  repeat' (first
    | with_reducible assumption
    | dsimp -zeta only [gotState_ok, gotState_stop]
    | with_reducible refine ite_keeps (P := fun g => Kept s0 (gotState g)) ?_ ?_
    | fail_if_no_progress with_reducible refine Kept.lit ?_
    | with_reducible apply wideHold_kept
    | with_reducible apply weirFault_kept
    | with_reducible refine KeptO.next ?_
    | with_reducible refine ite_keeps (P := Kept s0) ?_ ?_
    | with_reducible refine ite_keeps (P := KeptO s0) ?_ ?_
    | (intro y; intros)
    | (extract_lets +onlyGivenNames z; refine both (A := Kept s0 z) ?_ (fun hz => ?_) <;> [(dsimp -zeta only [z]; clear z); clear_value z])
    | (extract_lets +onlyGivenNames z; refine both (A := Kept s0 (gotState z)) ?_ (fun hf => ?_) <;> [(dsimp -zeta only [z]; clear z); clear_value z])
    | (extract_lets +onlyGivenNames z; clear_value z)
    | (split <;> try (rename_i he; have hk := congrArg gotState he; dsimp -zeta only [gotState_ok, gotState_stop] at hk; subst hk)))

theorem setWeir_kept {s0 : State} (s : State) (sid : Nat) (i : Nat) (f : WeirCtx → WeirCtx) (hs1 : Kept s0 s) :
    Kept s0 (setWeir s sid i f) := by
  unfold setWeir
  repeat' (first
    | with_reducible assumption
    | fail_if_no_progress with_reducible refine Kept.lit ?_
    | with_reducible apply setUnits_kept)

theorem routeScore_kept {s0 : State} (s : State) (t : Step) (i : Nat) (n : Nat) (hs1 : Kept s0 s) :
    Kept s0 (routeScore s t i n) := by
  unfold routeScore
  repeat' (first
    | with_reducible assumption
    | dsimp -zeta only [gotState_ok, gotState_stop]
    | fail_if_no_progress with_reducible refine Kept.lit ?_
    | with_reducible apply weirFault_kept
    | with_reducible apply tokenBytes_kept
    | with_reducible apply routerRows_kept
    | with_reducible apply setWeir_kept
    | with_reducible apply endPiece_kept
    | with_reducible refine KeptO.next ?_
    | with_reducible refine ite_keeps (P := Kept s0) ?_ ?_
    | with_reducible refine ite_keeps (P := KeptO s0) ?_ ?_
    | (intro y; intros)
    | (extract_lets +onlyGivenNames z; refine both (A := Kept s0 z) ?_ (fun hz => ?_) <;> [(dsimp -zeta only [z]; clear z); clear_value z])
    | (extract_lets +onlyGivenNames z; refine both (A := Kept s0 (gotState z)) ?_ (fun hf => ?_) <;> [(dsimp -zeta only [z]; clear z); clear_value z])
    | (extract_lets +onlyGivenNames z; clear_value z)
    | (split <;> try (rename_i he; have hk := congrArg gotState he; dsimp -zeta only [gotState_ok, gotState_stop] at hk; subst hk)))

theorem routeWrite_kept {s0 : State} (s : State) (t : Step) (i : Nat) (w : WeirCtx) (hs1 : Kept s0 s) :
    Kept s0 (routeWrite s t i w) := by
  unfold routeWrite
  repeat' (first
    | with_reducible assumption
    | dsimp -zeta only [gotState_ok, gotState_stop]
    | fail_if_no_progress with_reducible refine Kept.lit ?_
    | with_reducible apply wideWriteMany_kept
    | with_reducible apply setWeir_kept
    | with_reducible refine KeptO.next ?_
    | with_reducible refine ite_keeps (P := Kept s0) ?_ ?_
    | with_reducible refine ite_keeps (P := KeptO s0) ?_ ?_
    | (intro y; intros)
    | (extract_lets +onlyGivenNames z; refine both (A := Kept s0 z) ?_ (fun hz => ?_) <;> [(dsimp -zeta only [z]; clear z); clear_value z])
    | (extract_lets +onlyGivenNames z; refine both (A := Kept s0 (gotState z)) ?_ (fun hf => ?_) <;> [(dsimp -zeta only [z]; clear z); clear_value z])
    | (extract_lets +onlyGivenNames z; clear_value z)
    | (split <;> try (rename_i he; have hk := congrArg gotState he; dsimp -zeta only [gotState_ok, gotState_stop] at hk; subst hk)))

theorem routeTok_kept {s0 : State} (t : Step) (i : Nat) (w : WeirCtx) (s : State) (hs1 : Kept s0 s) :
    Kept s0 (routeTok t i w s) := by
  unfold routeTok
  repeat' (first
    | with_reducible assumption
    | fail_if_no_progress with_reducible refine Kept.lit ?_
    | with_reducible apply routeScore_kept
    | with_reducible apply routeWrite_kept
    | with_reducible refine KeptO.next ?_
    | with_reducible refine ite_keeps (P := Kept s0) ?_ ?_)

theorem combineTok_kept {s0 : State} (s : State) (t : Step) (i : Nat) (n : Nat) (r : WRoute) (hs1 : Kept s0 s) :
    Kept s0 (gotState (combineTok s t i n r)) := by
  unfold combineTok
  repeat' (first
    | with_reducible assumption
    | dsimp -zeta only [gotState_ok, gotState_stop]
    | with_reducible refine ite_keeps (P := fun g => Kept s0 (gotState g)) ?_ ?_
    | fail_if_no_progress with_reducible refine Kept.lit ?_
    | with_reducible apply tokenBytes_kept
    | with_reducible apply wideHold_kept
    | with_reducible refine KeptO.next ?_
    | with_reducible refine ite_keeps (P := Kept s0) ?_ ?_
    | with_reducible refine ite_keeps (P := KeptO s0) ?_ ?_
    | (intro y; intros)
    | (extract_lets +onlyGivenNames z; refine both (A := Kept s0 z) ?_ (fun hz => ?_) <;> [(dsimp -zeta only [z]; clear z); clear_value z])
    | (extract_lets +onlyGivenNames z; refine both (A := Kept s0 (gotState z)) ?_ (fun hf => ?_) <;> [(dsimp -zeta only [z]; clear z); clear_value z])
    | (extract_lets +onlyGivenNames z; clear_value z)
    | (split <;> try (rename_i he; have hk := congrArg gotState he; dsimp -zeta only [gotState_ok, gotState_stop] at hk; subst hk)))

theorem combineNext_kept {s0 : State} (t : Step) (i : Nat) (w : WeirCtx) (s : State) (hs1 : Kept s0 s) :
    Kept s0 (combineNext t i w s) := by
  unfold combineNext
  repeat' (first
    | with_reducible assumption
    | dsimp -zeta only [gotState_ok, gotState_stop]
    | fail_if_no_progress with_reducible refine Kept.lit ?_
    | with_reducible apply wideHold_kept
    | with_reducible apply weirFault_kept
    | with_reducible apply combineTok_kept
    | with_reducible apply wideWrite_kept
    | with_reducible apply setWeir_kept
    | with_reducible refine KeptO.next ?_
    | with_reducible refine ite_keeps (P := Kept s0) ?_ ?_
    | with_reducible refine ite_keeps (P := KeptO s0) ?_ ?_
    | (intro y; intros)
    | (extract_lets +onlyGivenNames z; refine both (A := Kept s0 z) ?_ (fun hz => ?_) <;> [(dsimp -zeta only [z]; clear z); clear_value z])
    | (extract_lets +onlyGivenNames z; refine both (A := Kept s0 (gotState z)) ?_ (fun hf => ?_) <;> [(dsimp -zeta only [z]; clear z); clear_value z])
    | (extract_lets +onlyGivenNames z; clear_value z)
    | (split <;> try (rename_i he; have hk := congrArg gotState he; dsimp -zeta only [gotState_ok, gotState_stop] at hk; subst hk)))

theorem weirTok_kept {s0 : State} (t : Step) (i : Nat) (w : WeirCtx) (s : State) (hs1 : Kept s0 s) :
    Kept s0 (weirTok t i w s) := by
  unfold weirTok
  repeat' (first
    | with_reducible assumption
    | fail_if_no_progress with_reducible refine Kept.lit ?_
    | with_reducible apply routeTok_kept
    | with_reducible apply combineNext_kept
    | with_reducible refine KeptO.next ?_
    | with_reducible refine ite_keeps (P := Kept s0) ?_ ?_)

theorem weirTurn_kept {s0 : State} (s : State) (sid : Nat) (i : Nat) (route : Bool) (hs1 : Kept s0 s) :
    Kept s0 (weirTurn s sid i route) := by
  unfold weirTurn
  repeat' (first
    | with_reducible assumption
    | fail_if_no_progress with_reducible refine Kept.lit ?_
    | with_reducible apply byTurn_kept
    | with_reducible apply weirTok_kept
    | with_reducible refine KeptO.next ?_
    | with_reducible refine ite_keeps (P := Kept s0) ?_ ?_
    | with_reducible refine ite_keeps (P := KeptO s0) ?_ ?_
    | split)

theorem execWeirRoute_kept {s0 : State} (sid : Nat) (i : Nat) (s : State) (hs1 : Kept s0 s) :
    KeptO s0 (execWeirRoute sid i s) := by
  unfold execWeirRoute
  repeat' (first
    | with_reducible assumption
    | fail_if_no_progress with_reducible refine Kept.lit ?_
    | with_reducible apply weirTurn_kept
    | with_reducible refine KeptO.next ?_)

theorem execWeirCombine_kept {s0 : State} (sid : Nat) (i : Nat) (s : State) (hs1 : Kept s0 s) :
    KeptO s0 (execWeirCombine sid i s) := by
  unfold execWeirCombine
  repeat' (first
    | with_reducible assumption
    | fail_if_no_progress with_reducible refine Kept.lit ?_
    | with_reducible apply weirTurn_kept
    | with_reducible refine KeptO.next ?_)

theorem execLossCompute_kept {s0 : State} (sid : Nat) (i : Nat) (s : State) (hs1 : Kept s0 s) :
    KeptO s0 (execLossCompute sid i s) := by
  unfold execLossCompute
  repeat' (first
    | with_reducible assumption
    | dsimp -zeta only [gotState_ok, gotState_stop]
    | fail_if_no_progress with_reducible refine Kept.lit ?_
    | with_reducible apply wideHold_kept
    | with_reducible apply unitFault_kept
    | with_reducible apply wideWriteMany_kept
    | with_reducible apply setUnits_kept
    | with_reducible refine KeptO.next ?_
    | with_reducible refine ite_keeps (P := Kept s0) ?_ ?_
    | with_reducible refine ite_keeps (P := KeptO s0) ?_ ?_
    | (intro y; intros)
    | (extract_lets +onlyGivenNames z; refine both (A := Kept s0 z) ?_ (fun hz => ?_) <;> [(dsimp -zeta only [z]; clear z); clear_value z])
    | (extract_lets +onlyGivenNames z; refine both (A := Kept s0 (gotState z)) ?_ (fun hf => ?_) <;> [(dsimp -zeta only [z]; clear z); clear_value z])
    | (extract_lets +onlyGivenNames z; clear_value z)
    | (split <;> try (rename_i he; have hk := congrArg gotState he; dsimp -zeta only [gotState_ok, gotState_stop] at hk; subst hk)))

theorem gradFinish_kept {s0 : State} (s : State) (sid : Nat) (i : Nat) (hs1 : Kept s0 s) :
    Kept s0 (gradFinish s sid i) := by
  unfold gradFinish
  repeat' (first
    | with_reducible assumption
    | dsimp -zeta only [gotState_ok, gotState_stop]
    | fail_if_no_progress with_reducible refine Kept.lit ?_
    | with_reducible apply wideWrite_kept
    | with_reducible apply setMat_kept
    | with_reducible refine KeptO.next ?_
    | with_reducible refine ite_keeps (P := Kept s0) ?_ ?_
    | with_reducible refine ite_keeps (P := KeptO s0) ?_ ?_
    | (intro y; intros)
    | (extract_lets +onlyGivenNames z; refine both (A := Kept s0 z) ?_ (fun hz => ?_) <;> [(dsimp -zeta only [z]; clear z); clear_value z])
    | (extract_lets +onlyGivenNames z; refine both (A := Kept s0 (gotState z)) ?_ (fun hf => ?_) <;> [(dsimp -zeta only [z]; clear z); clear_value z])
    | (extract_lets +onlyGivenNames z; clear_value z)
    | (split <;> try (rename_i he; have hk := congrArg gotState he; dsimp -zeta only [gotState_ok, gotState_stop] at hk; subst hk)))

theorem execGradientAccumulate_kept {s0 : State} (sid : Nat) (i : Nat) (rt : Nat) (ct : Nat) (s : State) (hs1 : Kept s0 s) :
    KeptO s0 (execGradientAccumulate sid i rt ct s) := by
  unfold execGradientAccumulate
  repeat' (first
    | with_reducible assumption
    | dsimp -zeta only [gotState_ok, gotState_stop]
    | with_reducible apply hf
    | fail_if_no_progress with_reducible refine Kept.lit ?_
    | with_reducible apply gradFinish_kept
    | with_reducible apply wideHold_kept
    | with_reducible apply setUnits_kept
    | with_reducible apply wideWriteMany_kept
    | with_reducible apply setMat_kept
    | with_reducible refine KeptO.next ?_
    | with_reducible refine ite_keeps (P := Kept s0) ?_ ?_
    | with_reducible refine ite_keeps (P := KeptO s0) ?_ ?_
    | (intro y; intros)
    | (extract_lets +onlyGivenNames z; refine both (A := Kept s0 z) ?_ (fun hz => ?_) <;> [(dsimp -zeta only [z]; clear z); clear_value z])
    | (extract_lets +onlyGivenNames z; refine both (A := Kept s0 (gotState z)) ?_ (fun hf => ?_) <;> [(dsimp -zeta only [z]; clear z); clear_value z])
    | (extract_lets +onlyGivenNames z; refine both (A := ∀ a b c, Kept s0 a → Kept s0 (gotState (z a b c))) ?_ (fun hf => ?_) <;> [(dsimp -zeta only [z]; clear z); clear_value z])
    | (extract_lets +onlyGivenNames z; refine both (A := ∀ a b, Kept s0 a → Kept s0 (gotState (z a b))) ?_ (fun hf => ?_) <;> [(dsimp -zeta only [z]; clear z); clear_value z])
    | (extract_lets +onlyGivenNames z; refine both (A := ∀ a b c, Kept s0 (z a b c)) ?_ (fun hf => ?_) <;> [(dsimp -zeta only [z]; clear z); clear_value z])
    | (extract_lets +onlyGivenNames z; refine both (A := ∀ a b, Kept s0 (z a b)) ?_ (fun hf => ?_) <;> [(dsimp -zeta only [z]; clear z); clear_value z])
    | (extract_lets +onlyGivenNames z; refine both (A := ∀ a, Kept s0 (z a)) ?_ (fun hf => ?_) <;> [(dsimp -zeta only [z]; clear z); clear_value z])
    | (extract_lets +onlyGivenNames z; refine both (A := ∀ a b c d, Kept s0 a → Kept s0 (z a b c d)) ?_ (fun hf => ?_) <;> [(dsimp -zeta only [z]; clear z); clear_value z])
    | (extract_lets +onlyGivenNames z; refine both (A := ∀ a b c, Kept s0 a → Kept s0 (z a b c)) ?_ (fun hf => ?_) <;> [(dsimp -zeta only [z]; clear z); clear_value z])
    | (extract_lets +onlyGivenNames z; refine both (A := ∀ a b, Kept s0 a → Kept s0 (z a b)) ?_ (fun hf => ?_) <;> [(dsimp -zeta only [z]; clear z); clear_value z])
    | (extract_lets +onlyGivenNames z; refine both (A := ∀ a, Kept s0 a → Kept s0 (z a)) ?_ (fun hf => ?_) <;> [(dsimp -zeta only [z]; clear z); clear_value z])
    | (extract_lets +onlyGivenNames z; refine both (A := ∀ a b c, KeptO s0 (z a b c)) ?_ (fun hf => ?_) <;> [(dsimp -zeta only [z]; clear z); clear_value z])
    | (extract_lets +onlyGivenNames z; refine both (A := ∀ a b, KeptO s0 (z a b)) ?_ (fun hf => ?_) <;> [(dsimp -zeta only [z]; clear z); clear_value z])
    | (extract_lets +onlyGivenNames z; refine both (A := ∀ a, KeptO s0 (z a)) ?_ (fun hf => ?_) <;> [(dsimp -zeta only [z]; clear z); clear_value z])
    | (extract_lets +onlyGivenNames z; refine both (A := ∀ a b, Kept s0 a → KeptO s0 (z a b)) ?_ (fun hf => ?_) <;> [(dsimp -zeta only [z]; clear z); clear_value z])
    | (extract_lets +onlyGivenNames z; refine both (A := ∀ a, Kept s0 a → KeptO s0 (z a)) ?_ (fun hf => ?_) <;> [(dsimp -zeta only [z]; clear z); clear_value z])
    | (extract_lets +onlyGivenNames z; clear_value z)
    | (split <;> try (rename_i he; have hk := congrArg gotState he; dsimp -zeta only [gotState_ok, gotState_stop] at hk; subst hk)))

end Sys2Proof.Laws
end

