-- ==== Sys2Proof/Laws/KeptEddies.lean ====
section
/-! SUPPORT. What the functions of Machine/Eddies.lean keep: the waiting commands and memory's canonical form. -/

namespace Sys2Proof.Laws

open Sys2Proof Sys2Proof.Machine

theorem eddyAccess_kept {s0 : State} (s : State) (t : Step) (e : Eddy) (unit : Nat) (off : Nat) (isWrite : Bool) (data : List Byte) (hs1 : Kept s0 s) :
    Kept s0 (eddyAccess s t e unit off isWrite data) := by
  unfold eddyAccess
  repeat' (first
    | with_reducible apply memPut_wf
    | dsimp -zeta only [gotState_ok, gotState_stop]
    | with_reducible apply memPuts_wf
    | with_reducible apply memClear_wf
    | with_reducible refine Kept.mem (s0 := s0) ?_
    | with_reducible assumption
    | fail_if_no_progress with_reducible refine Kept.lit ?_
    | with_reducible apply touchUnit_kept
    | with_reducible apply setEddy_kept
    | with_reducible refine KeptO.next ?_
    | with_reducible refine ite_keeps (P := Kept s0) ?_ ?_
    | with_reducible refine ite_keeps (P := KeptO s0) ?_ ?_
    | (intro y; intros)
    | (extract_lets +onlyGivenNames z; refine both (A := Kept s0 z) ?_ (fun hz => ?_) <;> [(dsimp -zeta only [z]; clear z); clear_value z])
    | (extract_lets +onlyGivenNames z; refine both (A := Kept s0 (gotState z)) ?_ (fun hf => ?_) <;> [(dsimp -zeta only [z]; clear z); clear_value z])
    | (extract_lets +onlyGivenNames z; clear_value z)
    | (split <;> try (rename_i he; have hk := congrArg gotState he; dsimp -zeta only [gotState_ok, gotState_stop] at hk; subst hk))
    | with_reducible refine Kept.litMem ?_ ?_)

theorem eddyCmd_kept {s0 : State} (sid : Nat) (eid : Nat) (unit : Nat) (off : Nat) (isWrite : Bool) (data : List Byte) (s : State) (hs1 : Kept s0 s) :
    KeptO s0 (eddyCmd sid eid unit off isWrite data s) := by
  unfold eddyCmd
  repeat' (first
    | with_reducible assumption
    | fail_if_no_progress with_reducible refine Kept.lit ?_
    | with_reducible apply eddyAccess_kept
    | with_reducible refine KeptO.next ?_
    | with_reducible refine ite_keeps (P := Kept s0) ?_ ?_
    | with_reducible refine ite_keeps (P := KeptO s0) ?_ ?_
    | (intro y; intros)
    | split)

theorem execEddyWrite_kept {s0 : State} (sid : Nat) (eid : Nat) (unit : Nat) (off : Nat) (data : List Byte) (s : State) (hs1 : Kept s0 s) :
    KeptO s0 (execEddyWrite sid eid unit off data s) := by
  unfold execEddyWrite
  repeat' (first
    | with_reducible assumption
    | fail_if_no_progress with_reducible refine Kept.lit ?_
    | with_reducible apply eddyCmd_kept)

theorem execEddyRead_kept {s0 : State} (sid : Nat) (eid : Nat) (unit : Nat) (off : Nat) (s : State) (hs1 : Kept s0 s) :
    KeptO s0 (execEddyRead sid eid unit off s) := by
  unfold execEddyRead
  repeat' (first
    | with_reducible assumption
    | fail_if_no_progress with_reducible refine Kept.lit ?_
    | with_reducible apply eddyCmd_kept)

theorem resumeStalls_kept {s0 : State} (sid : Nat) (eid : Nat) (z0 : List EStall) (z1 : State) (hs1 : Kept s0 z1) :
    Kept s0 (resumeStalls sid eid z0 z1) := by
  induction z0 generalizing sid eid z1 with
  | nil =>
    first | rw [resumeStalls] | (rw [resumeStalls.eq_def]; dsimp -zeta only)
    repeat' (first
      | with_reducible assumption)
  | cons x l ih =>
    first | rw [resumeStalls] | (rw [resumeStalls.eq_def]; dsimp -zeta only)
    repeat' (first
      | with_reducible assumption
      | with_reducible apply ih
      | fail_if_no_progress with_reducible refine Kept.lit ?_
      | with_reducible apply eddyAccess_kept
      | with_reducible refine KeptO.next ?_
      | with_reducible refine ite_keeps (P := Kept s0) ?_ ?_
      | with_reducible refine ite_keeps (P := KeptO s0) ?_ ?_
      | (intro y; intros)
      | split)

theorem execEddyWatchdogExpiry_kept {s0 : State} (sid : Nat) (eid : Nat) (s : State) (hs1 : Kept s0 s) :
    KeptO s0 (execEddyWatchdogExpiry sid eid s) := by
  unfold execEddyWatchdogExpiry
  repeat' (first
    | with_reducible assumption
    | fail_if_no_progress with_reducible refine Kept.lit ?_
    | with_reducible apply raise_kept
    | with_reducible apply stepFlt_kept
    | with_reducible apply setStep_kept
    | with_reducible apply endJob_kept
    | with_reducible refine KeptO.next ?_
    | with_reducible refine ite_keeps (P := Kept s0) ?_ ?_
    | with_reducible refine ite_keeps (P := KeptO s0) ?_ ?_
    | (intro y; intros)
    | split)

theorem unbindEddies_kept {s0 : State} (s : State) (t : Step) (hs1 : Kept s0 s) :
    Kept s0 (unbindEddies s t) := by
  unfold unbindEddies
  repeat' (first
    | with_reducible apply memPut_wf
    | with_reducible apply memPuts_wf
    | with_reducible apply memClear_wf
    | with_reducible refine Kept.mem (s0 := s0) ?_
    | with_reducible assumption
    | fail_if_no_progress with_reducible refine Kept.lit ?_
    | with_reducible apply setUnits_kept
    | with_reducible refine KeptO.next ?_
    | with_reducible refine ite_keeps (P := Kept s0) ?_ ?_
    | with_reducible refine ite_keeps (P := KeptO s0) ?_ ?_
    | (intro y; intros)
    | with_reducible refine foldl_kept ?_ (fun s x hs => ?_)
    | (extract_lets +onlyGivenNames z; refine both (A := Kept s0 z) ?_ (fun hz => ?_) <;> [(dsimp -zeta only [z]; clear z); clear_value z])
    | (extract_lets +onlyGivenNames z; clear_value z)
    | split
    | with_reducible refine Kept.litMem ?_ ?_)

theorem windowReply_kept {s0 : State} (s : State) (a : WinAcc) (bs : List Byte) (hs1 : Kept s0 s) :
    Kept s0 (windowReply s a bs) := by
  unfold windowReply
  repeat' (first
    | with_reducible assumption
    | fail_if_no_progress with_reducible refine Kept.lit ?_
    | with_reducible apply sendUnits_kept)

theorem idleLent_kept {s0 : State} (s : State) (a : WinAcc) (hs1 : Kept s0 s) :
    Kept s0 (idleLent s a).2 := by
  unfold idleLent
  repeat' (first
    | with_reducible assumption
    | dsimp -zeta only
    | with_reducible refine ite_keeps (P := fun p => Kept s0 p.2) ?_ ?_
    | fail_if_no_progress with_reducible refine Kept.lit ?_
    | with_reducible apply lentGet_kept
    | with_reducible refine KeptO.next ?_
    | with_reducible refine ite_keeps (P := Kept s0) ?_ ?_
    | with_reducible refine ite_keeps (P := KeptO s0) ?_ ?_
    | (split <;> try (rename_i he; have hk := congrArg Prod.snd he; dsimp -zeta only at hk; subst hk)))

theorem windowDenied_kept {s0 : State} (s : State) (a : WinAcc) (hs1 : Kept s0 s) :
    Kept s0 (windowDenied s a) := by
  unfold windowDenied
  repeat' (first
    | with_reducible assumption
    | fail_if_no_progress with_reducible refine Kept.lit ?_
    | with_reducible apply sendUnits_kept)

theorem idleDenied_kept {s0 : State} (s : State) (a : WinAcc) (st : Nat) (hs1 : Kept s0 s) :
    Kept s0 (idleDenied s a st) := by
  unfold idleDenied
  repeat' (first
    | with_reducible assumption
    | fail_if_no_progress with_reducible refine Kept.lit ?_
    | with_reducible apply stepFaultRecord_kept
    | with_reducible apply endJob_kept
    | with_reducible refine KeptO.next ?_
    | with_reducible refine ite_keeps (P := Kept s0) ?_ ?_)

theorem unitAt_kept {s0 : State} (s : State) (a : WinAcc) (p : Nat) (hs1 : Kept s0 s) :
    Kept s0 (unitAt s a p) := by
  unfold unitAt
  repeat' (first
    | with_reducible apply memPut_wf
    | with_reducible apply memPuts_wf
    | with_reducible apply memClear_wf
    | with_reducible refine Kept.mem (s0 := s0) ?_
    | with_reducible assumption
    | fail_if_no_progress with_reducible refine Kept.lit ?_
    | with_reducible apply touch_kept
    | with_reducible apply windowReply_kept
    | with_reducible apply lentTraffic_kept
    | with_reducible refine KeptO.next ?_
    | with_reducible refine ite_keeps (P := Kept s0) ?_ ?_
    | with_reducible refine ite_keeps (P := KeptO s0) ?_ ?_
    | (extract_lets +onlyGivenNames z; refine both (A := Kept s0 z) ?_ (fun hz => ?_) <;> [(dsimp -zeta only [z]; clear z); clear_value z])
    | (extract_lets +onlyGivenNames z; clear_value z)
    | split
    | with_reducible refine Kept.litMem ?_ ?_)

theorem windowStop_kept {s0 : State} (s : State) (t : Step) (a : WinAcc) (hs1 : Kept s0 s) :
    Kept s0 (windowStop s t a).2 := by
  unfold windowStop
  repeat' (first
    | with_reducible assumption
    | dsimp -zeta only
    | with_reducible refine ite_keeps (P := fun p => Kept s0 p.2) ?_ ?_
    | fail_if_no_progress with_reducible refine Kept.lit ?_
    | with_reducible apply windowDenied_kept
    | with_reducible refine KeptO.next ?_
    | with_reducible refine ite_keeps (P := Kept s0) ?_ ?_
    | with_reducible refine ite_keeps (P := KeptO s0) ?_ ?_
    | (intro y; intros)
    | split)

theorem windowUnit_kept {s0 : State} (s : State) (a : WinAcc) (hs1 : Kept s0 s) :
    Kept s0 (windowUnit s a).2 := by
  unfold windowUnit
  repeat' (first
    | with_reducible assumption
    | dsimp -zeta only [gotState_ok, gotState_stop]
    | dsimp -zeta only
    | with_reducible refine ite_keeps (P := fun p => Kept s0 p.2) ?_ ?_
    | fail_if_no_progress with_reducible refine Kept.lit ?_
    | with_reducible apply unitAt_kept
    | with_reducible apply wideRead_kept
    | with_reducible apply windowReply_kept
    | with_reducible apply windowStop_kept
    | with_reducible apply wideWrite_kept
    | with_reducible apply windowDenied_kept
    | with_reducible apply idleDenied_kept
    | with_reducible apply idleLent_kept
    | with_reducible refine KeptO.next ?_
    | with_reducible refine ite_keeps (P := Kept s0) ?_ ?_
    | with_reducible refine ite_keeps (P := KeptO s0) ?_ ?_
    | (extract_lets +onlyGivenNames z; refine both (A := Kept s0 z) ?_ (fun hz => ?_) <;> [(dsimp -zeta only [z]; clear z); clear_value z])
    | (extract_lets +onlyGivenNames z; refine both (A := Kept s0 (gotState z)) ?_ (fun hf => ?_) <;> [(dsimp -zeta only [z]; clear z); clear_value z])
    | (extract_lets +onlyGivenNames z; clear_value z)
    | (split <;> try (rename_i he; first | (have hk := congrArg Prod.snd he; dsimp -zeta only at hk; subst hk) | (have hk := congrArg gotState he; dsimp -zeta only [gotState_ok, gotState_stop] at hk; subst hk))))

theorem windowUnits_kept {s0 : State} (z0 : Nat) (z1 : WinAcc) (z2 : State) (hs1 : Kept s0 z2) :
    Kept s0 (windowUnits z0 z1 z2).2 := by
  induction z0 generalizing z1 z2 with
  | zero =>
    first | rw [windowUnits] | (rw [windowUnits.eq_def]; dsimp -zeta only)
    repeat' (first
      | with_reducible assumption)
  | succ n ih =>
    first | rw [windowUnits] | (rw [windowUnits.eq_def]; dsimp -zeta only)
    repeat' (first
      | with_reducible assumption
      | with_reducible apply ih
      | dsimp -zeta only
      | with_reducible refine ite_keeps (P := fun p => Kept s0 p.2) ?_ ?_
      | fail_if_no_progress with_reducible refine Kept.lit ?_
      | with_reducible apply windowUnit_kept
      | with_reducible refine KeptO.next ?_
      | with_reducible refine ite_keeps (P := Kept s0) ?_ ?_
      | with_reducible refine ite_keeps (P := KeptO s0) ?_ ?_
      | (split <;> try (rename_i he; have hk := congrArg Prod.snd he; dsimp -zeta only at hk; subst hk)))

theorem serveWindows_kept {s0 : State} (s : State) (hs1 : Kept s0 s) :
    Kept s0 (serveWindows s) := by
  unfold serveWindows
  repeat' (first
    | with_reducible assumption
    | dsimp -zeta only
    | fail_if_no_progress with_reducible refine Kept.lit ?_
    | with_reducible apply windowUnits_kept
    | with_reducible apply giveCredits_kept
    | with_reducible refine KeptO.next ?_
    | with_reducible refine ite_keeps (P := Kept s0) ?_ ?_
    | with_reducible refine ite_keeps (P := KeptO s0) ?_ ?_
    | (intro y; intros)
    | with_reducible refine foldl_kept ?_ (fun s x hs => ?_))

theorem acceptWindow_kept {s0 : State} (s : State) (a : WinAcc) (hs1 : Kept s0 s) :
    Kept s0 (acceptWindow s a) := by
  unfold acceptWindow
  repeat' (first
    | with_reducible assumption
    | fail_if_no_progress with_reducible refine Kept.lit ?_
    | with_reducible apply serveWindows_kept)

theorem serveTransfers_kept {s0 : State} (s : State) (hs1 : Kept s0 s) :
    Kept s0 (serveTransfers s) := by
  unfold serveTransfers
  repeat' (first
    | with_reducible assumption
    | fail_if_no_progress with_reducible refine Kept.lit ?_
    | with_reducible apply serveWindows_kept
    | with_reducible apply sendTransfers_kept
    | with_reducible refine KeptO.next ?_
    | with_reducible refine ite_keeps (P := Kept s0) ?_ ?_
    | with_reducible refine ite_keeps (P := KeptO s0) ?_ ?_
    | (intro y; intros)
    | with_reducible refine foldl_kept ?_ (fun s x hs => ?_))

theorem finishRecords_kept {s0 : State} (s : State) (sid : Nat) (hs1 : Kept s0 s) :
    Kept s0 (finishRecords s sid) := by
  unfold finishRecords
  repeat' (first
    | with_reducible assumption
    | fail_if_no_progress with_reducible refine Kept.lit ?_
    | with_reducible apply gradFinish_kept
    | with_reducible apply matFinish_kept
    | with_reducible apply attFinish_kept
    | with_reducible refine KeptO.next ?_
    | with_reducible refine ite_keeps (P := Kept s0) ?_ ?_
    | with_reducible refine ite_keeps (P := KeptO s0) ?_ ?_
    | (intro y; intros)
    | with_reducible refine foldl_kept ?_ (fun s x hs => ?_)
    | split)

theorem execEddyAccessResume_kept {s0 : State} (sid : Nat) (eid : Nat) (s : State) (hs1 : Kept s0 s) :
    KeptO s0 (execEddyAccessResume sid eid s) := by
  unfold execEddyAccessResume
  repeat' (first
    | with_reducible assumption
    | fail_if_no_progress with_reducible refine Kept.lit ?_
    | with_reducible apply finishRecords_kept
    | with_reducible apply serveTransfers_kept
    | with_reducible apply resumeStalls_kept
    | with_reducible refine KeptO.next ?_
    | with_reducible refine ite_keeps (P := Kept s0) ?_ ?_
    | with_reducible refine ite_keeps (P := KeptO s0) ?_ ?_
    | (intro y; intros)
    | split)

theorem takeTransfer_kept {s0 : State} (ford : Nat) (sx : Nat) (sy : Nat) (sz : Nat) (basin : Nat) (job : Nat) (wid : Nat) (isRead : Bool) (roff : Nat) (len : Nat) (data : List Byte) (part : Option (Nat × Nat × Nat)) (credits : List (Nat × Nat)) (s : State) (hs1 : Kept s0 s) :
    Kept s0 (takeTransfer ford sx sy sz basin job wid isRead roff len data part credits s) := by
  unfold takeTransfer
  repeat' (first
    | with_reducible assumption
    | fail_if_no_progress with_reducible refine Kept.lit ?_
    | with_reducible apply sendUnits_kept
    | with_reducible apply giveCredits_kept
    | with_reducible apply raise_kept
    | with_reducible apply acceptWindow_kept
    | with_reducible refine KeptO.next ?_
    | with_reducible refine ite_keeps (P := Kept s0) ?_ ?_
    | with_reducible refine ite_keeps (P := KeptO s0) ?_ ?_
    | (extract_lets +onlyGivenNames z; refine both (A := Kept s0 z) ?_ (fun hz => ?_) <;> [(dsimp -zeta only [z]; clear z); clear_value z])
    | split)

theorem putWindowData_kept {s0 : State} (s : State) (t : Step) (i : Nat) (idx : Nat) (data : List Byte) (hs1 : Kept s0 s) :
    Kept s0 (putWindowData s t i idx data) := by
  unfold putWindowData
  repeat' (first
    | with_reducible assumption
    | dsimp -zeta only [gotState_ok, gotState_stop]
    | fail_if_no_progress with_reducible refine Kept.lit ?_
    | with_reducible apply wideWrite_kept
    | with_reducible apply setUnits_kept
    | with_reducible refine KeptO.next ?_
    | with_reducible refine ite_keeps (P := Kept s0) ?_ ?_
    | with_reducible refine ite_keeps (P := KeptO s0) ?_ ?_
    | (intro y; intros)
    | (extract_lets +onlyGivenNames z; refine both (A := Kept s0 z) ?_ (fun hz => ?_) <;> [(dsimp -zeta only [z]; clear z); clear_value z])
    | (extract_lets +onlyGivenNames z; refine both (A := Kept s0 (gotState z)) ?_ (fun hf => ?_) <;> [(dsimp -zeta only [z]; clear z); clear_value z])
    | (extract_lets +onlyGivenNames z; clear_value z)
    | (split <;> try (rename_i he; have hk := congrArg gotState he; dsimp -zeta only [gotState_ok, gotState_stop] at hk; subst hk)))

theorem windowRefusal_kept {s0 : State} (s : State) (t : Step) (i : Nat) (hs1 : Kept s0 s) :
    Kept s0 (windowRefusal s t i) := by
  unfold windowRefusal
  repeat' (first
    | with_reducible assumption
    | fail_if_no_progress with_reducible refine Kept.lit ?_
    | with_reducible apply stepFlt_kept)

end Sys2Proof.Laws
end

