-- ==== Sys2Proof/Laws/KeptHub.lean ====
section
/-! SUPPORT. What the functions of Machine/Hub.lean keep: the waiting commands and memory's canonical form. -/

namespace Sys2Proof.Laws

open Sys2Proof Sys2Proof.Machine

theorem setSliceId_kept {s0 : State} (s : State) (id : Nat) (f : Slice → Slice) (hs1 : Kept s0 s) :
    Kept s0 (setSliceId s id f) := by
  unfold setSliceId
  repeat' (first
    | with_reducible assumption
    | fail_if_no_progress with_reducible refine Kept.lit ?_)

theorem idleFords_kept {s0 : State} (s : State) (l : List Nat) (hs1 : Kept s0 s) :
    Kept s0 (idleFords s l) := by
  unfold idleFords
  repeat' (first
    | with_reducible assumption
    | fail_if_no_progress with_reducible refine Kept.lit ?_
    | with_reducible apply setDom_kept
    | with_reducible refine KeptO.next ?_
    | with_reducible refine ite_keeps (P := Kept s0) ?_ ?_
    | with_reducible refine ite_keeps (P := KeptO s0) ?_ ?_
    | (intro y; intros)
    | with_reducible refine foldl_kept ?_ (fun s x hs => ?_))

theorem withdrawSlices_kept {s0 : State} (s : State) (b : Nat) (hs1 : Kept s0 s) :
    Kept s0 (withdrawSlices s b) := by
  unfold withdrawSlices
  repeat' (first
    | with_reducible assumption
    | with_reducible apply hf
    | fail_if_no_progress with_reducible refine Kept.lit ?_
    | with_reducible apply idleFords_kept
    | with_reducible apply sendLm_kept)

theorem setStream_kept {s0 : State} (s : State) (t : Stream) (hs1 : Kept s0 s) :
    Kept s0 (setStream s t) := by
  unfold setStream
  repeat' (first
    | with_reducible assumption
    | fail_if_no_progress with_reducible refine Kept.lit ?_)

theorem admitUnit_kept {s0 : State} (s : State) (u : OutUnit) (hs1 : Kept s0 s) :
    Kept s0 (admitUnit s u) := by
  unfold admitUnit
  repeat' (first
    | with_reducible assumption
    | fail_if_no_progress with_reducible refine Kept.lit ?_
    | with_reducible apply setStream_kept
    | with_reducible refine KeptO.next ?_
    | with_reducible refine ite_keeps (P := Kept s0) ?_ ?_
    | with_reducible refine ite_keeps (P := KeptO s0) ?_ ?_
    | (extract_lets +onlyGivenNames z; refine both (A := Kept s0 z) ?_ (fun hz => ?_) <;> [(dsimp -zeta only [z]; clear z); clear_value z])
    | (extract_lets +onlyGivenNames z; clear_value z)
    | split)

theorem countFlit_kept {s0 : State} (s : State) (n : Nat) (h : HubXfer) (hs1 : Kept s0 s) :
    Kept s0 (countFlit s n h) := by
  unfold countFlit
  repeat' (first
    | with_reducible assumption
    | fail_if_no_progress with_reducible refine Kept.lit ?_
    | with_reducible apply count_kept
    | with_reducible refine KeptO.next ?_
    | with_reducible refine ite_keeps (P := Kept s0) ?_ ?_
    | with_reducible refine ite_keeps (P := KeptO s0) ?_ ?_
    | (extract_lets +onlyGivenNames z; refine both (A := Kept s0 z) ?_ (fun hz => ?_) <;> [(dsimp -zeta only [z]; clear z); clear_value z])
    | split)

theorem countWaits_kept {s0 : State} (s : State) (hs1 : Kept s0 s) :
    Kept s0 (countWaits s) := by
  unfold countWaits
  repeat' (first
    | with_reducible assumption
    | fail_if_no_progress with_reducible refine Kept.lit ?_
    | with_reducible apply count_kept
    | with_reducible refine KeptO.next ?_
    | with_reducible refine ite_keeps (P := Kept s0) ?_ ?_
    | with_reducible refine ite_keeps (P := KeptO s0) ?_ ?_
    | (intro y; intros)
    | with_reducible refine foldl_kept ?_ (fun s x hs => ?_))

theorem sendFlit_kept {s0 : State} (s : State) (x : Slice) (h : HubXfer) (n : Nat) (hs1 : Kept s0 s) :
    Kept s0 (sendFlit s x h n) := by
  unfold sendFlit
  repeat' (first
    | with_reducible assumption
    | fail_if_no_progress with_reducible refine Kept.lit ?_
    | with_reducible apply setFord_kept
    | with_reducible apply countFlit_kept
    | with_reducible apply giveCredits_kept
    | with_reducible refine KeptO.next ?_
    | with_reducible refine ite_keeps (P := Kept s0) ?_ ?_)

theorem serveDir_kept {s0 : State} (x : Slice) (chan : Nat) (s : State) (d : Nat) (hs1 : Kept s0 s) :
    Kept s0 (serveDir x chan s d) := by
  unfold serveDir
  repeat' (first
    | with_reducible assumption
    | fail_if_no_progress with_reducible refine Kept.lit ?_
    | with_reducible apply sendFlit_kept
    | with_reducible refine KeptO.next ?_
    | with_reducible refine ite_keeps (P := Kept s0) ?_ ?_
    | with_reducible refine ite_keeps (P := KeptO s0) ?_ ?_
    | (intro y; intros)
    | (extract_lets +onlyGivenNames z; refine both (A := Kept s0 z) ?_ (fun hz => ?_) <;> [(dsimp -zeta only [z]; clear z); clear_value z])
    | (extract_lets +onlyGivenNames z; clear_value z)
    | split)

theorem dropStreams_kept {s0 : State} (s : State) (hs1 : Kept s0 s) :
    Kept s0 (dropStreams s) := by
  unfold dropStreams
  repeat' (first
    | with_reducible assumption
    | with_reducible apply hf
    | fail_if_no_progress with_reducible refine Kept.lit ?_)

theorem admitUnits_kept {s0 : State} (z0 : Bool) (z1 : List OutUnit) (z2 : State) (hs1 : Kept s0 z2) :
    Kept s0 (admitUnits z0 z1 z2) := by
  induction z1 generalizing z0 z2 with
  | nil =>
    first | rw [admitUnits] | (rw [admitUnits.eq_def]; dsimp -zeta only)
    repeat' (first
      | with_reducible assumption)
  | cons x l ih =>
    first | rw [admitUnits] | (rw [admitUnits.eq_def]; dsimp -zeta only)
    repeat' (first
      | with_reducible assumption
      | with_reducible apply ih
      | fail_if_no_progress with_reducible refine Kept.lit ?_
      | with_reducible apply admitUnit_kept
      | with_reducible refine KeptO.next ?_
      | with_reducible refine ite_keeps (P := Kept s0) ?_ ?_)

theorem hubTick_kept {s0 : State} (s : State) (hs1 : Kept s0 s) :
    Kept s0 (hubTick s) := by
  unfold hubTick
  repeat' (first
    | with_reducible assumption
    | fail_if_no_progress with_reducible refine Kept.lit ?_
    | with_reducible apply sendWaiting_kept
    | with_reducible apply dropStreams_kept
    | with_reducible apply admitUnits_kept
    | with_reducible apply countWaits_kept
    | with_reducible apply serveDir_kept
    | with_reducible refine KeptO.next ?_
    | with_reducible refine ite_keeps (P := Kept s0) ?_ ?_
    | with_reducible refine ite_keeps (P := KeptO s0) ?_ ?_
    | (intro y; intros)
    | with_reducible refine foldl_kept ?_ (fun s x hs => ?_))

theorem forwardUnit_kept {s0 : State} (s : State) (x : Slice) (from_ : Nat) (chan : Nat) (seq : Nat) (flits : Nat) (src : Nat × Nat × Nat) (dst : Nat × Nat × Nat) (job : Option (Nat × Nat × Nat)) (u : FlitUnit) (hs1 : Kept s0 s) :
    Kept s0 (forwardUnit s x from_ chan seq flits src dst job u) := by
  unfold forwardUnit
  repeat' (first
    | with_reducible assumption
    | fail_if_no_progress with_reducible refine Kept.lit ?_
    | with_reducible refine KeptO.next ?_
    | with_reducible refine ite_keeps (P := Kept s0) ?_ ?_
    | with_reducible refine ite_keeps (P := KeptO s0) ?_ ?_
    | (extract_lets +onlyGivenNames z; refine both (A := Kept s0 z) ?_ (fun hz => ?_) <;> [(dsimp -zeta only [z]; clear z); clear_value z])
    | (extract_lets +onlyGivenNames z; clear_value z)
    | split)

end Sys2Proof.Laws
end

