-- ==== Sys2Proof/Laws/KeptBoundary.lean ====
section
/-! SUPPORT. What the functions of Machine/Boundary.lean keep: the waiting commands and memory's canonical form. -/

namespace Sys2Proof.Laws

open Sys2Proof Sys2Proof.Machine

theorem slotToken_kept {s0 : State} (s : State) (t : Step) (x : Slot) (r : Request) (hs1 : Kept s0 s) :
    Kept s0 (slotToken s t x r).2 := by
  unfold slotToken
  repeat' (first
    | with_reducible assumption
    | dsimp -zeta only
    | with_reducible refine ite_keeps (P := fun p => Kept s0 p.2) ?_ ?_
    | fail_if_no_progress with_reducible refine Kept.lit ?_
    | with_reducible apply drawD1_kept
    | with_reducible apply seedDrbg_kept
    | with_reducible refine KeptO.next ?_
    | with_reducible refine ite_keeps (P := Kept s0) ?_ ?_
    | with_reducible refine ite_keeps (P := KeptO s0) ?_ ?_
    | (extract_lets +onlyGivenNames z; refine both (A := Kept s0 z) ?_ (fun hz => ?_) <;> [(dsimp -zeta only [z]; clear z); clear_value z])
    | (extract_lets +onlyGivenNames z; clear_value z)
    | (split <;> try (rename_i he; have hk := congrArg Prod.snd he; dsimp -zeta only at hk; subst hk)))

theorem slotOutc_kept {s0 : State} (s : State) (t : Step) (time : Nat) (i : Nat) (x : Slot) (r : Request) (hs1 : Kept s0 s) :
    Kept s0 (slotOutc s t time i x r).2 := by
  unfold slotOutc
  repeat' (first
    | with_reducible assumption
    | dsimp -zeta only
    | with_reducible refine ite_keeps (P := fun p => Kept s0 p.2) ?_ ?_
    | fail_if_no_progress with_reducible refine Kept.lit ?_
    | with_reducible apply slotToken_kept
    | with_reducible refine KeptO.next ?_
    | with_reducible refine ite_keeps (P := Kept s0) ?_ ?_
    | with_reducible refine ite_keeps (P := KeptO s0) ?_ ?_
    | (extract_lets +onlyGivenNames z; refine both (A := Kept s0 z) ?_ (fun hz => ?_) <;> [(dsimp -zeta only [z]; clear z); clear_value z])
    | (extract_lets +onlyGivenNames z; clear_value z)
    | (split <;> try (rename_i he; have hk := congrArg Prod.snd he; dsimp -zeta only at hk; subst hk)))

theorem goodOutcs_kept {s0 : State} (t : Step) (time : Nat) (z0 : List (Nat × Slot × Request)) (z1 : State) (hs1 : Kept s0 z1) :
    Kept s0 (goodOutcs t time z0 z1).2 := by
  induction z0 generalizing t time z1 with
  | nil =>
    first | rw [goodOutcs] | (rw [goodOutcs.eq_def]; dsimp -zeta only)
    repeat' (first
      | with_reducible assumption)
  | cons x l ih =>
    first | rw [goodOutcs] | (rw [goodOutcs.eq_def]; dsimp -zeta only)
    repeat' (first
      | with_reducible assumption
      | with_reducible apply ih
      | dsimp -zeta only
      | with_reducible refine ite_keeps (P := fun p => Kept s0 p.2) ?_ ?_
      | fail_if_no_progress with_reducible refine Kept.lit ?_
      | with_reducible apply slotOutc_kept)

theorem stepPuts_kept {s0 : State} (s : State) (t : Step) (a : Nat) (bs : List Byte) (hs1 : Kept s0 s) :
    Kept s0 (stepPuts s t a bs) := by
  unfold stepPuts
  repeat' (first
    | with_reducible apply memPut_wf
    | with_reducible apply memPuts_wf
    | with_reducible apply memClear_wf
    | with_reducible refine Kept.mem (s0 := s0) ?_
    | with_reducible assumption
    | fail_if_no_progress with_reducible refine Kept.lit ?_
    | with_reducible refine KeptO.next ?_
    | with_reducible refine ite_keeps (P := Kept s0) ?_ ?_
    | with_reducible refine ite_keeps (P := KeptO s0) ?_ ?_
    | (intro y; intros)
    | with_reducible refine foldl_kept ?_ (fun s x hs => ?_)
    | split
    | with_reducible refine Kept.litMem ?_ ?_)

theorem commitHead_kept {s0 : State} (s : State) (t : Step) (d : BitVec 512) (r : Nat) (h : Nat) (hs1 : Kept s0 s) :
    Kept s0 (commitHead s t d r h) := by
  unfold commitHead
  repeat' (first
    | with_reducible assumption
    | fail_if_no_progress with_reducible refine Kept.lit ?_
    | with_reducible apply stepPuts_kept
    | with_reducible apply narrowWritten_kept
    | with_reducible refine KeptO.next ?_
    | with_reducible refine ite_keeps (P := Kept s0) ?_ ?_
    | with_reducible refine ite_keeps (P := KeptO s0) ?_ ?_
    | (intro y; intros)
    | with_reducible refine foldl_kept ?_ (fun s x hs => ?_))

theorem commitKv_kept {s0 : State} (s : State) (t : Step) (hs1 : Kept s0 s) :
    Kept s0 (commitKv s t) := by
  unfold commitKv
  repeat' (first
    | with_reducible assumption
    | fail_if_no_progress with_reducible refine Kept.lit ?_
    | with_reducible apply commitHead_kept
    | with_reducible refine KeptO.next ?_
    | with_reducible refine ite_keeps (P := Kept s0) ?_ ?_
    | with_reducible refine ite_keeps (P := KeptO s0) ?_ ?_
    | (intro y; intros)
    | with_reducible refine foldl_kept ?_ (fun s x hs => ?_))

theorem lookSummaries_kept {s0 : State} (t : Step) (z0 : List (Nat × Nat × Nat)) (z1 : State) (hs1 : Kept s0 z1) :
    Kept s0 (lookSummaries t z0 z1).2 := by
  induction z0 generalizing t z1 with
  | nil =>
    first | rw [lookSummaries] | (rw [lookSummaries.eq_def]; dsimp -zeta only)
    repeat' (first
      | with_reducible assumption)
  | cons x l ih =>
    first | rw [lookSummaries] | (rw [lookSummaries.eq_def]; dsimp -zeta only)
    repeat' (first
      | with_reducible assumption
      | with_reducible apply ih
      | dsimp -zeta only
      | with_reducible refine ite_keeps (P := fun p => Kept s0 p.2) ?_ ?_
      | fail_if_no_progress with_reducible refine Kept.lit ?_
      | with_reducible apply reqFault_kept
      | with_reducible refine KeptO.next ?_
      | with_reducible refine ite_keeps (P := Kept s0) ?_ ?_
      | with_reducible refine ite_keeps (P := KeptO s0) ?_ ?_
      | (split <;> try (rename_i he; have hk := congrArg Prod.snd he; dsimp -zeta only at hk; subst hk)))

theorem advance_kept {s0 : State} (s : State) (t : Step) (o : Outc) (hs1 : Kept s0 s) :
    Kept s0 (advance s t o) := by
  unfold advance
  repeat' (first
    | with_reducible assumption
    | fail_if_no_progress with_reducible refine Kept.lit ?_
    | with_reducible apply setReq_kept
    | with_reducible refine KeptO.next ?_
    | with_reducible refine ite_keeps (P := Kept s0) ?_ ?_)

theorem nodeRoom_kept {s0 : State} (s : State) (b : Nat) (hs1 : Kept s0 s) :
    Kept s0 (nodeRoom s b).2 := by
  unfold nodeRoom
  repeat' (first
    | with_reducible assumption
    | dsimp -zeta only
    | with_reducible refine ite_keeps (P := fun p => Kept s0 p.2) ?_ ?_
    | with_reducible apply hf
    | fail_if_no_progress with_reducible refine Kept.lit ?_
    | with_reducible apply freeNode_kept
    | with_reducible refine KeptO.next ?_
    | with_reducible refine ite_keeps (P := Kept s0) ?_ ?_
    | with_reducible refine ite_keeps (P := KeptO s0) ?_ ?_
    | (intro y; intros)
    | (extract_lets +onlyGivenNames z; refine both (A := Kept s0 z) ?_ (fun hz => ?_) <;> [(dsimp -zeta only [z]; clear z); clear_value z])
    | (extract_lets +onlyGivenNames z; refine both (A := ∀ a b c, Kept s0 (z a b c)) ?_ (fun hf => ?_) <;> [(dsimp -zeta only [z]; clear z); clear_value z])
    | (extract_lets +onlyGivenNames z; refine both (A := ∀ a b, Kept s0 (z a b)) ?_ (fun hf => ?_) <;> [(dsimp -zeta only [z]; clear z); clear_value z])
    | (extract_lets +onlyGivenNames z; refine both (A := ∀ a, Kept s0 (z a)) ?_ (fun hf => ?_) <;> [(dsimp -zeta only [z]; clear z); clear_value z])
    | (extract_lets +onlyGivenNames z; refine both (A := ∀ a b c d, Kept s0 a → Kept s0 (z a b c d)) ?_ (fun hf => ?_) <;> [(dsimp -zeta only [z]; clear z); clear_value z])
    | (extract_lets +onlyGivenNames z; refine both (A := ∀ a b c, Kept s0 a → Kept s0 (z a b c)) ?_ (fun hf => ?_) <;> [(dsimp -zeta only [z]; clear z); clear_value z])
    | (extract_lets +onlyGivenNames z; refine both (A := ∀ a b, Kept s0 a → Kept s0 (z a b)) ?_ (fun hf => ?_) <;> [(dsimp -zeta only [z]; clear z); clear_value z])
    | (extract_lets +onlyGivenNames z; refine both (A := ∀ a, Kept s0 a → Kept s0 (z a)) ?_ (fun hf => ?_) <;> [(dsimp -zeta only [z]; clear z); clear_value z])
    | (extract_lets +onlyGivenNames z; clear_value z)
    | split)

theorem publishPage_kept {s0 : State} (s : State) (t : Step) (r : Request) (k : Nat) (parent : Option Node) (row : Row) (hs1 : Kept s0 s) :
    Kept s0 (publishPage s t r k parent row) := by
  unfold publishPage
  repeat' (first
    | with_reducible assumption
    | fail_if_no_progress with_reducible refine Kept.lit ?_
    | with_reducible apply tierPuts_kept
    | with_reducible apply setRow_kept
    | with_reducible apply setKv_kept
    | with_reducible refine KeptO.next ?_
    | with_reducible refine ite_keeps (P := Kept s0) ?_ ?_
    | with_reducible refine ite_keeps (P := KeptO s0) ?_ ?_
    | (intro y; intros)
    | with_reducible refine foldl_kept ?_ (fun s x hs => ?_)
    | (extract_lets +onlyGivenNames z; refine both (A := Kept s0 z) ?_ (fun hz => ?_) <;> [(dsimp -zeta only [z]; clear z); clear_value z])
    | (extract_lets +onlyGivenNames z; clear_value z)
    | split)

theorem publishReq_kept {s0 : State} (s : State) (t : Step) (tag : Nat) (hs1 : Kept s0 s) :
    Kept s0 (publishReq s t tag) := by
  unfold publishReq
  repeat' (first
    | with_reducible assumption
    | dsimp -zeta only
    | fail_if_no_progress with_reducible refine Kept.lit ?_
    | with_reducible apply nodeRoom_kept
    | with_reducible apply publishPage_kept
    | with_reducible refine KeptO.next ?_
    | with_reducible refine ite_keeps (P := Kept s0) ?_ ?_
    | with_reducible refine ite_keeps (P := KeptO s0) ?_ ?_
    | (intro y; intros)
    | (extract_lets +onlyGivenNames z; refine both (A := Kept s0 z) ?_ (fun hz => ?_) <;> [(dsimp -zeta only [z]; clear z); clear_value z])
    | (extract_lets +onlyGivenNames z; clear_value z)
    | (split <;> try (rename_i he; have hk := congrArg Prod.snd he; dsimp -zeta only at hk; subst hk)))

theorem settleOutc_kept {s0 : State} (s : State) (t : Step) (time : Nat) (status : Nat) (o : Outc) (hs1 : Kept s0 s) :
    Kept s0 (settleOutc s t time status o) := by
  unfold settleOutc
  repeat' (first
    | with_reducible assumption
    | fail_if_no_progress with_reducible refine Kept.lit ?_
    | with_reducible apply setReq_kept
    | with_reducible apply endReq_kept
    | with_reducible apply answerCancel_kept
    | with_reducible refine KeptO.next ?_
    | with_reducible refine ite_keeps (P := Kept s0) ?_ ?_
    | with_reducible refine ite_keeps (P := KeptO s0) ?_ ?_
    | (intro y; intros)
    | (extract_lets +onlyGivenNames z; refine both (A := Kept s0 z) ?_ (fun hz => ?_) <;> [(dsimp -zeta only [z]; clear z); clear_value z])
    | (extract_lets +onlyGivenNames z; clear_value z)
    | split)

theorem settleOut_kept {s0 : State} (s : State) (b : Nat) (time : Nat) (boundary : Bool) (gone : Bool) (hs1 : Kept s0 s) :
    Kept s0 (settleOut s b time boundary gone) := by
  unfold settleOut
  repeat' (first
    | with_reducible assumption
    | with_reducible apply hf
    | fail_if_no_progress with_reducible refine Kept.lit ?_
    | with_reducible apply endOff_kept
    | with_reducible apply answerCancel_kept
    | with_reducible refine KeptO.next ?_
    | with_reducible refine ite_keeps (P := Kept s0) ?_ ?_
    | with_reducible refine ite_keeps (P := KeptO s0) ?_ ?_
    | (intro y; intros)
    | with_reducible refine foldl_kept ?_ (fun s x hs => ?_))

theorem endConvs_kept {s0 : State} (s : State) (b : Nat) (hs1 : Kept s0 s) :
    Kept s0 (endConvs s b) := by
  unfold endConvs
  repeat' (first
    | with_reducible assumption
    | with_reducible apply hf
    | fail_if_no_progress with_reducible refine Kept.lit ?_
    | with_reducible apply endConv_kept
    | with_reducible refine KeptO.next ?_
    | with_reducible refine ite_keeps (P := Kept s0) ?_ ?_
    | with_reducible refine ite_keeps (P := KeptO s0) ?_ ?_
    | (intro y; intros)
    | with_reducible refine foldl_kept ?_ (fun s x hs => ?_))

theorem sendTok_kept {s0 : State} (s : State) (b : Nat) (flow : Nat) (gid : Nat) (rs : List StepRec) (ms : List Measure) (hs1 : Kept s0 s) :
    Kept s0 (sendTok s b flow gid rs ms).2 := by
  unfold sendTok
  repeat' (first
    | with_reducible assumption
    | dsimp -zeta only
    | with_reducible refine ite_keeps (P := fun p => Kept s0 p.2) ?_ ?_
    | fail_if_no_progress with_reducible refine Kept.lit ?_
    | with_reducible apply enqueue_kept
    | with_reducible apply setLink_kept
    | with_reducible refine KeptO.next ?_
    | with_reducible refine ite_keeps (P := Kept s0) ?_ ?_
    | with_reducible refine ite_keeps (P := KeptO s0) ?_ ?_
    | (intro y; intros)
    | (extract_lets +onlyGivenNames z; refine both (A := Kept s0 z) ?_ (fun hz => ?_) <;> [(dsimp -zeta only [z]; clear z); clear_value z])
    | (extract_lets +onlyGivenNames z; clear_value z)
    | split)

theorem dropOffends_kept {s0 : State} (s : State) (b : Nat) (hs1 : Kept s0 s) :
    Kept s0 (dropOffends s b) := by
  unfold dropOffends
  repeat' (first
    | with_reducible assumption
    | fail_if_no_progress with_reducible refine Kept.lit ?_)

theorem boundaryTok_kept {s0 : State} (s : State) (t : Step) (time : Nat) (es : List TokEntry) (hs1 : Kept s0 s) :
    Kept s0 (boundaryTok s t time es) := by
  unfold boundaryTok
  repeat' (first
    | with_reducible assumption
    | dsimp -zeta only
    | fail_if_no_progress with_reducible refine Kept.lit ?_
    | with_reducible apply sendTok_kept
    | with_reducible apply dropOffends_kept
    | with_reducible apply setGroup_kept
    | with_reducible refine KeptO.next ?_
    | with_reducible refine ite_keeps (P := Kept s0) ?_ ?_)

theorem dropStep_kept {s0 : State} (s : State) (t : Step) (hs1 : Kept s0 s) :
    Kept s0 (dropStep s t) := by
  unfold dropStep
  repeat' (first
    | with_reducible assumption
    | fail_if_no_progress with_reducible refine Kept.lit ?_
    | with_reducible apply closeWindows_kept
    | with_reducible apply idleDomains_kept
    | with_reducible apply setGroup_kept
    | with_reducible apply revokeJob_kept
    | with_reducible apply closeJob_kept
    | with_reducible apply settleUnmaps_kept
    | with_reducible apply askCopies_kept
    | with_reducible apply settleRetiring_kept
    | with_reducible apply clearUnused_kept
    | with_reducible apply dropLostDerived_kept
    | with_reducible refine KeptO.next ?_
    | with_reducible refine ite_keeps (P := Kept s0) ?_ ?_)

theorem suspendChosen_kept {s0 : State} (s : State) (b : Nat) (os : List Outc) (hs1 : Kept s0 s) :
    Kept s0 (suspendChosen s b os) := by
  unfold suspendChosen
  repeat' (first
    | with_reducible assumption
    | fail_if_no_progress with_reducible refine Kept.lit ?_
    | with_reducible apply suspendReq_kept
    | with_reducible refine KeptO.next ?_
    | with_reducible refine ite_keeps (P := Kept s0) ?_ ?_
    | with_reducible refine ite_keeps (P := KeptO s0) ?_ ?_
    | (intro y; intros)
    | with_reducible refine foldl_kept ?_ (fun s x hs => ?_)
    | split)

theorem nextStep_kept {s0 : State} (s : State) (b : Nat) (gid : Nat) (hs1 : Kept s0 s) :
    Kept s0 (nextStep s b gid) := by
  unfold nextStep
  repeat' (first
    | with_reducible assumption
    | fail_if_no_progress with_reducible refine Kept.lit ?_
    | with_reducible apply resumeSuspended_kept
    | with_reducible apply nextWork_kept
    | with_reducible apply settleResumes_kept
    | with_reducible apply bringBack_kept)

theorem startFlush_kept {s0 : State} (s : State) (b : Nat) (hs1 : Kept s0 s) :
    Kept s0 (startFlush s b) := by
  unfold startFlush
  repeat' (first
    | with_reducible assumption
    | fail_if_no_progress with_reducible refine Kept.lit ?_
    | with_reducible refine KeptO.next ?_
    | with_reducible refine ite_keeps (P := Kept s0) ?_ ?_)

theorem closeBoundary_kept {s0 : State} (s : State) (t : Step) (time : Nat) (status : Nat) (os : List Outc) (hs1 : Kept s0 s) :
    Kept s0 (closeBoundary s t time status os) := by
  unfold closeBoundary
  repeat' (first
    | with_reducible assumption
    | fail_if_no_progress with_reducible refine Kept.lit ?_
    | with_reducible apply publishReq_kept
    | with_reducible apply settleOutc_kept
    | with_reducible apply trainBoundary_kept
    | with_reducible apply settleOut_kept
    | with_reducible apply sweepKv_kept
    | with_reducible apply endConvs_kept
    | with_reducible apply publishVariants_kept
    | with_reducible apply boundaryTok_kept
    | with_reducible apply dropStep_kept
    | with_reducible apply suspendChosen_kept
    | with_reducible apply endOrphans_kept
    | with_reducible apply settleGroup_kept
    | with_reducible apply startFlush_kept
    | with_reducible apply setGroup_kept
    | with_reducible apply nextStep_kept
    | with_reducible refine KeptO.next ?_
    | with_reducible refine ite_keeps (P := Kept s0) ?_ ?_
    | with_reducible refine ite_keeps (P := KeptO s0) ?_ ?_
    | (intro y; intros)
    | with_reducible refine foldl_kept ?_ (fun s x hs => ?_)
    | (extract_lets +onlyGivenNames z; refine both (A := Kept s0 z) ?_ (fun hz => ?_) <;> [(dsimp -zeta only [z]; clear z); clear_value z])
    | (extract_lets +onlyGivenNames z; clear_value z)
    | split)

theorem boundaryReads_kept {s0 : State} (s : State) (t : Step) (hs1 : Kept s0 s) :
    Kept s0 (gotState (boundaryReads s t)) := by
  unfold boundaryReads
  repeat' (first
    | with_reducible assumption
    | dsimp -zeta only [gotState_ok, gotState_stop]
    | with_reducible refine ite_keeps (P := fun g => Kept s0 (gotState g)) ?_ ?_
    | dsimp -zeta only
    | fail_if_no_progress with_reducible refine Kept.lit ?_
    | with_reducible apply lentRanges_kept
    | with_reducible apply lookSummaries_kept
    | with_reducible refine KeptO.next ?_
    | with_reducible refine ite_keeps (P := Kept s0) ?_ ?_
    | with_reducible refine ite_keeps (P := KeptO s0) ?_ ?_
    | (split <;> try (rename_i he; have hk := congrArg Prod.snd he; dsimp -zeta only at hk; subst hk)))

theorem closeGood_kept {s0 : State} (s : State) (t : Step) (hs1 : Kept s0 s) :
    Kept s0 (closeGood s t) := by
  unfold closeGood
  repeat' (first
    | with_reducible assumption
    | dsimp -zeta only
    | fail_if_no_progress with_reducible refine Kept.lit ?_
    | with_reducible apply goodOutcs_kept
    | with_reducible apply commitKv_kept
    | with_reducible apply unbindEddies_kept
    | with_reducible apply advance_kept
    | with_reducible apply closeBoundary_kept
    | with_reducible refine KeptO.next ?_
    | with_reducible refine ite_keeps (P := Kept s0) ?_ ?_
    | with_reducible refine ite_keeps (P := KeptO s0) ?_ ?_
    | (intro y; intros)
    | with_reducible refine foldl_kept ?_ (fun s x hs => ?_)
    | (extract_lets +onlyGivenNames z; refine both (A := Kept s0 z) ?_ (fun hz => ?_) <;> [(dsimp -zeta only [z]; clear z); clear_value z])
    | (extract_lets +onlyGivenNames z; clear_value z)
    | (split <;> try (rename_i he; have hk := congrArg Prod.snd he; dsimp -zeta only at hk; subst hk)))

theorem closeStopped_kept {s0 : State} (s : State) (t : Step) (hs1 : Kept s0 s) :
    Kept s0 (closeStopped s t) := by
  unfold closeStopped
  repeat' (first
    | with_reducible assumption
    | fail_if_no_progress with_reducible refine Kept.lit ?_
    | with_reducible apply closeBoundary_kept
    | with_reducible refine KeptO.next ?_
    | with_reducible refine ite_keeps (P := Kept s0) ?_ ?_)

theorem execStepBoundary_kept {s0 : State} (sid : Nat) (s : State) (hs1 : Kept s0 s) :
    KeptO s0 (execStepBoundary sid s) := by
  unfold execStepBoundary
  split
  · exact hs1
  · rename_i t _
    refine ite_keeps (P := KeptO s0) hs1 (ite_keeps (P := KeptO s0) (closeStopped_kept _ _ hs1) ?_)
    have hr : Kept s0 (gotState (boundaryReads s t)) := boundaryReads_kept s t hs1
    split
    · rename_i he; rw [he] at hr; exact hr
    · rename_i x u he
      rw [he] at hr
      have ha := areaFault_kept u sid x hr
      dsimp only
      cases stepOf (areaFault u sid x) sid with
      | none => exact ha
      | some t => exact closeStopped_kept _ _ ha
    · rename_i u he
      rw [he] at hr
      cases stepOf u sid with
      | none => exact hr
      | some t => exact closeGood_kept _ _ hr

theorem execOffstepSettle_kept {s0 : State} (basin : Nat) (s : State) (hs1 : Kept s0 s) :
    KeptO s0 (execOffstepSettle basin s) := by
  unfold execOffstepSettle
  repeat' (first
    | with_reducible assumption
    | dsimp -zeta only
    | fail_if_no_progress with_reducible refine Kept.lit ?_
    | with_reducible apply settleOut_kept
    | with_reducible apply sweepKv_kept
    | with_reducible apply endConvs_kept
    | with_reducible apply sendTok_kept
    | with_reducible apply dropOffends_kept
    | with_reducible refine KeptO.next ?_
    | with_reducible refine ite_keeps (P := Kept s0) ?_ ?_)

end Sys2Proof.Laws
end

