-- ==== Sys2Proof/Laws/KeptBasins.lean ====
section
/-! SUPPORT. What the functions of Machine/Basins.lean keep: the waiting commands and memory's canonical form. -/

namespace Sys2Proof.Laws

open Sys2Proof Sys2Proof.Machine

theorem freshBasin_kept {s0 : State} (s : State) (b : Nat) (hs1 : Kept s0 s) :
    Kept s0 (freshBasin s b) := by
  unfold freshBasin
  repeat' (first
    | with_reducible assumption
    | fail_if_no_progress with_reducible refine Kept.lit ?_
    | with_reducible apply setLink_kept
    | with_reducible apply setKv_kept)

theorem execBasinCreate_kept {s0 : State} (h : Hdr) (rec : BitVec 1024) (s : State) (hs1 : Kept s0 s) :
    KeptO s0 (execBasinCreate h rec s) := by
  unfold execBasinCreate
  repeat' (first
    | with_reducible assumption
    | fail_if_no_progress with_reducible refine Kept.lit ?_
    | with_reducible apply hostStoreCmd_kept
    | with_reducible apply reply_kept
    | with_reducible apply freshBasin_kept
    | with_reducible apply storeWriteNow_kept
    | with_reducible apply raise_kept
    | with_reducible refine KeptO.next ?_
    | with_reducible refine ite_keeps (P := Kept s0) ?_ ?_
    | with_reducible refine ite_keeps (P := KeptO s0) ?_ ?_
    | (intro y; intros))

theorem execBasinQuota_kept {s0 : State} (h : Hdr) (rec : BitVec 1024) (s : State) (hs1 : Kept s0 s) :
    KeptO s0 (execBasinQuota h rec s) := by
  unfold execBasinQuota
  repeat' (first
    | with_reducible assumption
    | fail_if_no_progress with_reducible refine Kept.lit ?_
    | with_reducible apply hostStoreCmd_kept
    | with_reducible apply reply_kept
    | with_reducible apply storeWriteNow_kept
    | with_reducible apply raise_kept
    | with_reducible refine KeptO.next ?_
    | with_reducible refine ite_keeps (P := Kept s0) ?_ ?_
    | with_reducible refine ite_keeps (P := KeptO s0) ?_ ?_
    | (intro y; intros)
    | (extract_lets +onlyGivenNames z; refine both (A := Kept s0 z) ?_ (fun hz => ?_) <;> [(dsimp -zeta only [z]; clear z); clear_value z])
    | (extract_lets +onlyGivenNames z; clear_value z)
    | split)

theorem execBasinQuery_kept {s0 : State} (h : Hdr) (b : Nat) (s : State) (hs1 : Kept s0 s) :
    KeptO s0 (execBasinQuery h b s) := by
  unfold execBasinQuery
  repeat' (first
    | with_reducible assumption
    | fail_if_no_progress with_reducible refine Kept.lit ?_
    | with_reducible apply hostCmd_kept
    | with_reducible apply reply_kept
    | with_reducible refine KeptO.next ?_
    | with_reducible refine ite_keeps (P := Kept s0) ?_ ?_
    | with_reducible refine ite_keeps (P := KeptO s0) ?_ ?_
    | (intro y; intros)
    | split)

theorem setHosts_kept {s0 : State} (s : State) (b : Nat) (rec : List Byte) (hs1 : Kept s0 s) :
    Kept s0 (setHosts s b rec) := by
  unfold setHosts
  repeat' (first
    | with_reducible assumption
    | fail_if_no_progress with_reducible refine Kept.lit ?_
    | with_reducible apply storeWriteNow_kept
    | with_reducible apply settleMode_kept)

theorem execBasinHosts_kept {s0 : State} (h : Hdr) (b : Nat) (rec : List Byte) (s : State) (hs1 : Kept s0 s) :
    KeptO s0 (execBasinHosts h b rec s) := by
  unfold execBasinHosts
  repeat' (first
    | with_reducible assumption
    | fail_if_no_progress with_reducible refine Kept.lit ?_
    | with_reducible apply hostStoreCmd_kept
    | with_reducible apply reply_kept
    | with_reducible apply setHosts_kept
    | with_reducible refine KeptO.next ?_
    | with_reducible refine ite_keeps (P := Kept s0) ?_ ?_
    | with_reducible refine ite_keeps (P := KeptO s0) ?_ ?_
    | (intro y; intros))

theorem setTeardown_kept {s0 : State} (s : State) (b : Nat) (t : Teardown) (hs1 : Kept s0 s) :
    Kept s0 (setTeardown s b t) := by
  unfold setTeardown
  repeat' (first
    | with_reducible assumption
    | fail_if_no_progress with_reducible refine Kept.lit ?_)

theorem startTeardown_kept {s0 : State} (s : State) (b : Nat) (hs1 : Kept s0 s) :
    Kept s0 (startTeardown s b) := by
  unfold startTeardown
  repeat' (first
    | with_reducible assumption
    | dsimp -zeta only
    | fail_if_no_progress with_reducible refine Kept.lit ?_
    | with_reducible apply setTeardown_kept
    | with_reducible apply setLink_kept
    | with_reducible apply endOff_kept
    | with_reducible apply sendTok_kept
    | with_reducible apply startFlush_kept
    | with_reducible apply answerDeferred_kept
    | with_reducible apply dropOffends_kept
    | with_reducible refine KeptO.next ?_
    | with_reducible refine ite_keeps (P := Kept s0) ?_ ?_
    | with_reducible refine ite_keeps (P := KeptO s0) ?_ ?_
    | (intro y; intros)
    | with_reducible refine foldl_kept ?_ (fun s x hs => ?_))

theorem killAll_kept {s0 : State} (s : State) (b : Nat) (hs1 : Kept s0 s) :
    Kept s0 (killAll s b) := by
  unfold killAll
  repeat' (first
    | with_reducible assumption
    | fail_if_no_progress with_reducible refine Kept.lit ?_
    | with_reducible apply idleDomains_kept
    | with_reducible apply killJob_kept
    | with_reducible apply endJob_kept
    | with_reducible refine KeptO.next ?_
    | with_reducible refine ite_keeps (P := Kept s0) ?_ ?_
    | with_reducible refine ite_keeps (P := KeptO s0) ?_ ?_
    | (intro y; intros)
    | with_reducible refine foldl_kept ?_ (fun s x hs => ?_))

theorem closeBasin_kept {s0 : State} (s : State) (b : Nat) (hs1 : Kept s0 s) :
    Kept s0 (closeBasin s b) := by
  unfold closeBasin
  repeat' (first
    | with_reducible assumption
    | with_reducible apply hf
    | fail_if_no_progress with_reducible refine Kept.lit ?_
    | with_reducible apply setLink_kept
    | with_reducible apply settleMode_kept
    | with_reducible apply killAll_kept
    | with_reducible apply sendUnits_kept
    | with_reducible apply unmapPages_kept
    | with_reducible apply setKv_kept
    | with_reducible apply setTeardown_kept)

theorem execBasinDestroy_kept {s0 : State} (h : Hdr) (b : Nat) (s : State) (hs1 : Kept s0 s) :
    KeptO s0 (execBasinDestroy h b s) := by
  unfold execBasinDestroy
  repeat' (first
    | with_reducible assumption
    | fail_if_no_progress with_reducible refine Kept.lit ?_
    | with_reducible apply hostCmd_kept
    | with_reducible apply reply_kept
    | with_reducible apply startTeardown_kept
    | with_reducible apply deferCmd_kept
    | with_reducible refine KeptO.next ?_
    | with_reducible refine ite_keeps (P := Kept s0) ?_ ?_
    | with_reducible refine ite_keeps (P := KeptO s0) ?_ ?_
    | (intro y; intros))

theorem execTeardownFlushExpiry_kept {s0 : State} (b : Nat) (s : State) (hs1 : Kept s0 s) :
    KeptO s0 (execTeardownFlushExpiry b s) := by
  unfold execTeardownFlushExpiry
  repeat' (first
    | with_reducible assumption
    | fail_if_no_progress with_reducible refine Kept.lit ?_
    | with_reducible apply closeBasin_kept
    | with_reducible refine KeptO.next ?_
    | with_reducible refine ite_keeps (P := Kept s0) ?_ ?_
    | with_reducible refine ite_keeps (P := KeptO s0) ?_ ?_
    | split)

theorem execBasinTeardownComplete_kept {s0 : State} (b : Nat) (s : State) (hs1 : Kept s0 s) :
    KeptO s0 (execBasinTeardownComplete b s) := by
  unfold execBasinTeardownComplete
  repeat' (first
    | with_reducible assumption
    | with_reducible apply hf
    | fail_if_no_progress with_reducible refine Kept.lit ?_
    | with_reducible apply withdrawSlices_kept
    | with_reducible apply answerAll_kept
    | with_reducible apply storeWriteNow_kept
    | with_reducible apply freshBasin_kept
    | with_reducible apply raise_kept
    | with_reducible refine KeptO.next ?_
    | with_reducible refine ite_keeps (P := Kept s0) ?_ ?_
    | with_reducible refine ite_keeps (P := KeptO s0) ?_ ?_
    | (intro y; intros)
    | (extract_lets +onlyGivenNames z; refine both (A := Kept s0 z) ?_ (fun hz => ?_) <;> [(dsimp -zeta only [z]; clear z); clear_value z])
    | (extract_lets +onlyGivenNames z; refine both (A := ∀ a b c, Kept s0 (z a b c)) ?_ (fun hf => ?_) <;> [(dsimp -zeta only [z]; clear z); clear_value z])
    | (extract_lets +onlyGivenNames z; refine both (A := ∀ a b, Kept s0 (z a b)) ?_ (fun hf => ?_) <;> [(dsimp -zeta only [z]; clear z); clear_value z])
    | (extract_lets +onlyGivenNames z; refine both (A := ∀ a, Kept s0 (z a)) ?_ (fun hf => ?_) <;> [(dsimp -zeta only [z]; clear z); clear_value z])
    | (extract_lets +onlyGivenNames z; refine both (A := ∀ a b c d, Kept s0 a → Kept s0 (z a b c d)) ?_ (fun hf => ?_) <;> [(dsimp -zeta only [z]; clear z); clear_value z])
    | (extract_lets +onlyGivenNames z; refine both (A := ∀ a b c, Kept s0 a → Kept s0 (z a b c)) ?_ (fun hf => ?_) <;> [(dsimp -zeta only [z]; clear z); clear_value z])
    | (extract_lets +onlyGivenNames z; refine both (A := ∀ a b, Kept s0 a → Kept s0 (z a b)) ?_ (fun hf => ?_) <;> [(dsimp -zeta only [z]; clear z); clear_value z])
    | (extract_lets +onlyGivenNames z; refine both (A := ∀ a, Kept s0 a → Kept s0 (z a)) ?_ (fun hf => ?_) <;> [(dsimp -zeta only [z]; clear z); clear_value z])
    | (extract_lets +onlyGivenNames z; refine both (A := ∀ a b c, KeptO s0 (z a b c)) ?_ (fun hf => ?_) <;> [(dsimp -zeta only [z]; clear z); clear_value z])
    | (extract_lets +onlyGivenNames z; refine both (A := ∀ a b, KeptO s0 (z a b)) ?_ (fun hf => ?_) <;> [(dsimp -zeta only [z]; clear z); clear_value z])
    | (extract_lets +onlyGivenNames z; refine both (A := ∀ a, KeptO s0 (z a)) ?_ (fun hf => ?_) <;> [(dsimp -zeta only [z]; clear z); clear_value z])
    | (extract_lets +onlyGivenNames z; refine both (A := ∀ a b, Kept s0 a → KeptO s0 (z a b)) ?_ (fun hf => ?_) <;> [(dsimp -zeta only [z]; clear z); clear_value z])
    | (extract_lets +onlyGivenNames z; refine both (A := ∀ a, Kept s0 a → KeptO s0 (z a)) ?_ (fun hf => ?_) <;> [(dsimp -zeta only [z]; clear z); clear_value z])
    | (extract_lets +onlyGivenNames z; clear_value z)
    | split)

end Sys2Proof.Laws
end

