-- ==== Sys2Proof/Laws/KeptFords.lean ====
section
/-! SUPPORT. What the functions of Machine/Fords.lean keep: the waiting commands and memory's canonical form. -/

namespace Sys2Proof.Laws

open Sys2Proof Sys2Proof.Machine

theorem answerSlice_kept {s0 : State} (s : State) (id : Nat) (status : Nat) (hs1 : Kept s0 s) :
    Kept s0 (answerSlice s id status) := by
  unfold answerSlice
  repeat' (first
    | with_reducible assumption
    | fail_if_no_progress with_reducible refine Kept.lit ?_
    | with_reducible apply answerDeferred_kept
    | with_reducible refine KeptO.next ?_
    | with_reducible refine ite_keeps (P := Kept s0) ?_ ?_
    | with_reducible refine ite_keeps (P := KeptO s0) ?_ ?_
    | (intro y; intros)
    | with_reducible refine foldl_kept ?_ (fun s x hs => ?_))

theorem dropSlice_kept {s0 : State} (s : State) (id : Nat) (hs1 : Kept s0 s) :
    Kept s0 (dropSlice s id) := by
  unfold dropSlice
  repeat' (first
    | with_reducible assumption
    | fail_if_no_progress with_reducible refine Kept.lit ?_
    | with_reducible apply idleFords_kept
    | with_reducible apply answerSlice_kept)

theorem goReady_kept {s0 : State} (s : State) (id : Nat) (minor : Nat) (hs1 : Kept s0 s) :
    Kept s0 (goReady s id minor) := by
  unfold goReady
  repeat' (first
    | with_reducible assumption
    | fail_if_no_progress with_reducible refine Kept.lit ?_
    | with_reducible apply sendLm_kept
    | with_reducible apply setSliceId_kept
    | with_reducible apply answerSlice_kept
    | with_reducible apply raise_kept
    | with_reducible refine KeptO.next ?_
    | with_reducible refine ite_keeps (P := Kept s0) ?_ ?_
    | with_reducible refine ite_keeps (P := KeptO s0) ?_ ?_
    | (intro y; intros)
    | split)

theorem noteReady_kept {s0 : State} (s : State) (id : Nat) (x : Nat) (y : Nat) (z : Nat) (minor : Nat) (hs1 : Kept s0 s) :
    Kept s0 (noteReady s id x y z minor) := by
  unfold noteReady
  repeat' (first
    | with_reducible assumption
    | fail_if_no_progress with_reducible refine Kept.lit ?_
    | with_reducible apply setSliceId_kept
    | with_reducible apply goReady_kept
    | with_reducible refine KeptO.next ?_
    | with_reducible refine ite_keeps (P := Kept s0) ?_ ?_
    | with_reducible refine ite_keeps (P := KeptO s0) ?_ ?_
    | (intro y; intros)
    | (extract_lets +onlyGivenNames z; refine both (A := Kept s0 z) ?_ (fun hz => ?_) <;> [(dsimp -zeta only [z]; clear z); clear_value z])
    | split)

theorem sendReady_kept {s0 : State} (s : State) (x : Slice) (place : Nat × Nat × Nat) (minor : Nat) (hs1 : Kept s0 s) :
    Kept s0 (sendReady s x place minor) := by
  unfold sendReady
  repeat' (first
    | with_reducible assumption
    | fail_if_no_progress with_reducible refine Kept.lit ?_
    | with_reducible apply sendLm_kept
    | with_reducible apply setSliceId_kept
    | with_reducible refine KeptO.next ?_
    | with_reducible refine ite_keeps (P := Kept s0) ?_ ?_
    | with_reducible refine ite_keeps (P := KeptO s0) ?_ ?_
    | (intro y; intros)
    | split)

theorem passReady_kept {s0 : State} (s : State) (id : Nat) (hs1 : Kept s0 s) :
    Kept s0 (passReady s id) := by
  unfold passReady
  repeat' (first
    | with_reducible assumption
    | fail_if_no_progress with_reducible refine Kept.lit ?_
    | with_reducible apply sendReady_kept
    | with_reducible apply setSliceId_kept
    | with_reducible refine KeptO.next ?_
    | with_reducible refine ite_keeps (P := Kept s0) ?_ ?_
    | with_reducible refine ite_keeps (P := KeptO s0) ?_ ?_
    | (intro y; intros)
    | with_reducible refine foldl_kept ?_ (fun s x hs => ?_)
    | split)

theorem settleSlice_kept {s0 : State} (s : State) (id : Nat) (hs1 : Kept s0 s) :
    Kept s0 (settleSlice s id) := by
  unfold settleSlice
  repeat' (first
    | with_reducible assumption
    | fail_if_no_progress with_reducible refine Kept.lit ?_
    | with_reducible apply passReady_kept
    | with_reducible apply setSliceId_kept
    | with_reducible apply noteReady_kept
    | with_reducible apply sendReady_kept
    | with_reducible refine KeptO.next ?_
    | with_reducible refine ite_keeps (P := Kept s0) ?_ ?_
    | with_reducible refine ite_keeps (P := KeptO s0) ?_ ?_
    | (intro y; intros)
    | with_reducible refine foldl_kept ?_ (fun s x hs => ?_)
    | split)

theorem endPart_kept {s0 : State} (s : State) (b : Nat) (p : Part) (status : Nat) (hs1 : Kept s0 s) :
    Kept s0 (endPart s b p status) := by
  unfold endPart
  repeat' (first
    | with_reducible assumption
    | fail_if_no_progress with_reducible refine Kept.lit ?_
    | with_reducible apply endJob_kept
    | with_reducible apply stopTrain_kept
    | with_reducible refine KeptO.next ?_
    | with_reducible refine ite_keeps (P := Kept s0) ?_ ?_
    | with_reducible refine ite_keeps (P := KeptO s0) ?_ ?_
    | (intro y; intros)
    | with_reducible refine foldl_kept ?_ (fun s x hs => ?_)
    | split)

theorem loseLends_kept {s0 : State} (s : State) (b : Nat) (lost : Lend → Bool) (hs1 : Kept s0 s) :
    Kept s0 (loseLends s b lost) := by
  unfold loseLends
  repeat' (first
    | with_reducible assumption
    | fail_if_no_progress with_reducible refine Kept.lit ?_
    | with_reducible apply poisonHome_kept
    | with_reducible apply takeBack_kept
    | with_reducible refine KeptO.next ?_
    | with_reducible refine ite_keeps (P := Kept s0) ?_ ?_
    | with_reducible refine ite_keeps (P := KeptO s0) ?_ ?_
    | (intro y; intros)
    | with_reducible refine foldl_kept ?_ (fun s x hs => ?_))

theorem sliceFault_kept {s0 : State} (s : State) (x : Slice) (cause : Nat) (ford : Nat) (serial : Nat) (sentCause : Nat) (hs1 : Kept s0 s) :
    Kept s0 (sliceFault s x cause ford serial sentCause) := by
  unfold sliceFault
  repeat' (first
    | with_reducible assumption
    | fail_if_no_progress with_reducible refine Kept.lit ?_
    | with_reducible apply raise_kept
    | with_reducible apply otherFaultRecord_kept
    | with_reducible apply sendLm_kept
    | with_reducible apply setSliceId_kept
    | with_reducible apply idleFords_kept
    | with_reducible apply loseLends_kept
    | with_reducible apply endPart_kept
    | with_reducible refine KeptO.next ?_
    | with_reducible refine ite_keeps (P := Kept s0) ?_ ?_
    | with_reducible refine ite_keeps (P := KeptO s0) ?_ ?_
    | (intro y; intros)
    | with_reducible refine foldl_kept ?_ (fun s x hs => ?_))

theorem unbindFord_kept {s0 : State} (s : State) (n : Nat) (hs1 : Kept s0 s) :
    Kept s0 (unbindFord s n) := by
  unfold unbindFord
  repeat' (first
    | with_reducible assumption
    | fail_if_no_progress with_reducible refine Kept.lit ?_
    | with_reducible apply setSliceId_kept
    | with_reducible apply dropSlice_kept
    | with_reducible apply setFord_kept
    | with_reducible refine KeptO.next ?_
    | with_reducible refine ite_keeps (P := Kept s0) ?_ ?_
    | with_reducible refine ite_keeps (P := KeptO s0) ?_ ?_
    | (intro y; intros)
    | with_reducible refine foldl_kept ?_ (fun s x hs => ?_))

theorem faultAtFord_kept {s0 : State} (s : State) (n : Nat) (cause : Nat) (hs1 : Kept s0 s) :
    Kept s0 (faultAtFord s n cause) := by
  unfold faultAtFord
  repeat' (first
    | with_reducible assumption
    | fail_if_no_progress with_reducible refine Kept.lit ?_
    | with_reducible apply sliceFault_kept
    | with_reducible apply unbindFord_kept
    | with_reducible refine KeptO.next ?_
    | with_reducible refine ite_keeps (P := Kept s0) ?_ ?_
    | with_reducible refine ite_keeps (P := KeptO s0) ?_ ?_
    | split)

theorem quietFord_kept {s0 : State} (s : State) (n : Nat) (st : Nat) (hs1 : Kept s0 s) :
    Kept s0 (quietFord s n st) := by
  unfold quietFord
  repeat' (first
    | with_reducible assumption
    | fail_if_no_progress with_reducible refine Kept.lit ?_
    | with_reducible apply setFord_kept)

theorem fordDown_kept {s0 : State} (s : State) (n : Nat) (st : Nat) (cause : Nat) (hs1 : Kept s0 s) :
    Kept s0 (fordDown s n st cause) := by
  unfold fordDown
  repeat' (first
    | with_reducible assumption
    | fail_if_no_progress with_reducible refine Kept.lit ?_
    | with_reducible apply quietFord_kept
    | with_reducible apply raise_kept
    | with_reducible apply faultAtFord_kept
    | with_reducible refine KeptO.next ?_
    | with_reducible refine ite_keeps (P := Kept s0) ?_ ?_)

theorem sendIdentities_kept {s0 : State} (was : Nat) (s : State) (hs1 : Kept s0 s) :
    Kept s0 (sendIdentities was s) := by
  unfold sendIdentities
  repeat' (first
    | with_reducible assumption
    | fail_if_no_progress with_reducible refine Kept.lit ?_
    | with_reducible apply sendLm_kept
    | with_reducible refine KeptO.next ?_
    | with_reducible refine ite_keeps (P := Kept s0) ?_ ?_)

theorem trainFord_kept {s0 : State} (s : State) (n : Nat) (lane0 : Nat) (lane1 : Nat) (aligned : Bool) (laneRev : Bool) (pol0 : Bool) (pol1 : Bool) (hs1 : Kept s0 s) :
    Kept s0 (trainFord s n lane0 lane1 aligned laneRev pol0 pol1) := by
  unfold trainFord
  repeat' (first
    | with_reducible assumption
    | fail_if_no_progress with_reducible refine Kept.lit ?_
    | with_reducible apply setFord_kept
    | with_reducible apply count_kept
    | with_reducible apply fordDown_kept
    | with_reducible apply sendLm_kept
    | with_reducible refine KeptO.next ?_
    | with_reducible refine ite_keeps (P := Kept s0) ?_ ?_)

theorem execFordTrain_kept {s0 : State} (ford : Nat) (lane0 : Nat) (lane1 : Nat) (aligned : Bool) (laneRev : Bool) (pol0 : Bool) (pol1 : Bool) (s : State) (hs1 : Kept s0 s) :
    KeptO s0 (execFordTrain ford lane0 lane1 aligned laneRev pol0 pol1 s) := by
  unfold execFordTrain
  repeat' (first
    | with_reducible assumption
    | fail_if_no_progress with_reducible refine Kept.lit ?_
    | with_reducible apply trainFord_kept
    | with_reducible refine KeptO.next ?_
    | with_reducible refine ite_keeps (P := Kept s0) ?_ ?_
    | with_reducible refine ite_keeps (P := KeptO s0) ?_ ?_)

theorem execFordTrainRetry_kept {s0 : State} (ford : Nat) (lane0 : Nat) (lane1 : Nat) (aligned : Bool) (laneRev : Bool) (pol0 : Bool) (pol1 : Bool) (s : State) (hs1 : Kept s0 s) :
    KeptO s0 (execFordTrainRetry ford lane0 lane1 aligned laneRev pol0 pol1 s) := by
  unfold execFordTrainRetry
  repeat' (first
    | with_reducible assumption
    | fail_if_no_progress with_reducible refine Kept.lit ?_
    | with_reducible apply trainFord_kept
    | with_reducible refine KeptO.next ?_
    | with_reducible refine ite_keeps (P := Kept s0) ?_ ?_
    | with_reducible refine ite_keeps (P := KeptO s0) ?_ ?_)

theorem fordUp_kept {s0 : State} (s : State) (n : Nat) (fr : IdFrame) (hs1 : Kept s0 s) :
    Kept s0 (fordUp s n fr) := by
  unfold fordUp
  repeat' (first
    | with_reducible assumption
    | fail_if_no_progress with_reducible refine Kept.lit ?_
    | with_reducible apply setFord_kept
    | with_reducible apply raise_kept
    | with_reducible apply sendLm_kept)

theorem leaveUp_kept {s0 : State} (s : State) (n : Nat) (cause : Nat) (hs1 : Kept s0 s) :
    Kept s0 (leaveUp s n cause) := by
  unfold leaveUp
  repeat' (first
    | with_reducible assumption
    | fail_if_no_progress with_reducible refine Kept.lit ?_
    | with_reducible apply faultAtFord_kept
    | with_reducible apply setFord_kept
    | with_reducible refine KeptO.next ?_
    | with_reducible refine ite_keeps (P := Kept s0) ?_ ?_)

theorem identify_kept {s0 : State} (s : State) (n : Nat) (fr : IdFrame) (hs1 : Kept s0 s) :
    Kept s0 (identify s n fr) := by
  unfold identify
  repeat' (first
    | with_reducible assumption
    | fail_if_no_progress with_reducible refine Kept.lit ?_
    | with_reducible apply setFord_kept
    | with_reducible apply leaveUp_kept
    | with_reducible apply raise_kept
    | with_reducible apply fordUp_kept
    | with_reducible refine KeptO.next ?_
    | with_reducible refine ite_keeps (P := Kept s0) ?_ ?_)

theorem heardFord_kept {s0 : State} (s : State) (n : Nat) (hs1 : Kept s0 s) :
    Kept s0 (heardFord s n) := by
  unfold heardFord
  repeat' (first
    | with_reducible assumption
    | fail_if_no_progress with_reducible refine Kept.lit ?_
    | with_reducible apply setFord_kept)

theorem execIdentityFrame_kept {s0 : State} (ford : Nat) (fr : IdFrame) (s : State) (hs1 : Kept s0 s) :
    KeptO s0 (execIdentityFrame ford fr s) := by
  unfold execIdentityFrame
  repeat' (first
    | with_reducible assumption
    | fail_if_no_progress with_reducible refine Kept.lit ?_
    | with_reducible apply identify_kept
    | with_reducible apply heardFord_kept
    | with_reducible apply count_kept
    | with_reducible refine KeptO.next ?_
    | with_reducible refine ite_keeps (P := Kept s0) ?_ ?_
    | with_reducible refine ite_keeps (P := KeptO s0) ?_ ?_)

theorem execHeartbeatSend_kept {s0 : State} (ford : Nat) (s : State) (hs1 : Kept s0 s) :
    KeptO s0 (execHeartbeatSend ford s) := by
  unfold execHeartbeatSend
  repeat' (first
    | with_reducible assumption
    | fail_if_no_progress with_reducible refine Kept.lit ?_
    | with_reducible apply setFord_kept
    | with_reducible apply sendLm_kept
    | with_reducible refine KeptO.next ?_
    | with_reducible refine ite_keeps (P := Kept s0) ?_ ?_
    | with_reducible refine ite_keeps (P := KeptO s0) ?_ ?_)

theorem execFordLostTimeout_kept {s0 : State} (ford : Nat) (s : State) (hs1 : Kept s0 s) :
    KeptO s0 (execFordLostTimeout ford s) := by
  unfold execFordLostTimeout
  repeat' (first
    | with_reducible assumption
    | fail_if_no_progress with_reducible refine Kept.lit ?_
    | with_reducible apply fordDown_kept
    | with_reducible refine KeptO.next ?_
    | with_reducible refine ite_keeps (P := Kept s0) ?_ ?_
    | with_reducible refine ite_keeps (P := KeptO s0) ?_ ?_)

theorem execModuleLostTimeout_kept {s0 : State} (ford : Nat) (s : State) (hs1 : Kept s0 s) :
    KeptO s0 (execModuleLostTimeout ford s) := by
  unfold execModuleLostTimeout
  repeat' (first
    | with_reducible assumption
    | fail_if_no_progress with_reducible refine Kept.lit ?_
    | with_reducible apply faultAtFord_kept
    | with_reducible apply setFord_kept
    | with_reducible refine KeptO.next ?_
    | with_reducible refine ite_keeps (P := Kept s0) ?_ ?_
    | with_reducible refine ite_keeps (P := KeptO s0) ?_ ?_)

theorem sendGrads_kept {s0 : State} (s : State) (t : Train) (u : Nat) (hs1 : Kept s0 s) :
    Kept s0 (sendGrads s t u) := by
  unfold sendGrads
  repeat' (first
    | with_reducible assumption
    | fail_if_no_progress with_reducible refine Kept.lit ?_
    | with_reducible apply sendUnits_kept
    | with_reducible refine KeptO.next ?_
    | with_reducible refine ite_keeps (P := Kept s0) ?_ ?_
    | with_reducible refine ite_keeps (P := KeptO s0) ?_ ?_
    | (intro y; intros)
    | (extract_lets +onlyGivenNames z; refine both (A := Kept s0 z) ?_ (fun hz => ?_) <;> [(dsimp -zeta only [z]; clear z); clear_value z])
    | (extract_lets +onlyGivenNames z; clear_value z)
    | split)

theorem startReduce_kept {s0 : State} (was : Option Step) (s : State) (sid : Nat) (hs1 : Kept s0 s) :
    Kept s0 (startReduce was s sid) := by
  unfold startReduce
  repeat' (first
    | with_reducible assumption
    | fail_if_no_progress with_reducible refine Kept.lit ?_
    | with_reducible apply sendGrads_kept
    | with_reducible refine KeptO.next ?_
    | with_reducible refine ite_keeps (P := Kept s0) ?_ ?_
    | with_reducible refine ite_keeps (P := KeptO s0) ?_ ?_
    | (intro y; intros)
    | with_reducible refine foldl_kept ?_ (fun s x hs => ?_)
    | split)

theorem execStepBind_kept {s0 : State} (sid : Nat) (s : State) (hs1 : Kept s0 s) :
    KeptO s0 (execStepBind sid s) := by
  unfold execStepBind
  repeat' (first
    | with_reducible assumption
    | fail_if_no_progress with_reducible refine Kept.lit ?_
    | with_reducible apply fillStep_kept
    | with_reducible apply startReduce_kept
    | with_reducible apply bindStep_kept
    | with_reducible refine KeptO.next ?_)

theorem addGrads_kept {s0 : State} (s : State) (b : Nat) (tid : Nat) (u : Nat) (axis : Nat) (leaf : Nat) (first : Nat) (vals : List (BitVec 32)) (hs1 : Kept s0 s) :
    Kept s0 (addGrads s b tid u axis leaf first vals) := by
  unfold addGrads
  repeat' (first
    | with_reducible assumption
    | with_reducible apply hf
    | fail_if_no_progress with_reducible refine Kept.lit ?_
    | with_reducible apply tierPuts_kept
    | with_reducible apply setTrain_kept
    | with_reducible apply sendGrads_kept
    | with_reducible refine KeptO.next ?_
    | with_reducible refine ite_keeps (P := Kept s0) ?_ ?_
    | with_reducible refine ite_keeps (P := KeptO s0) ?_ ?_
    | (intro y; intros)
    | (extract_lets +onlyGivenNames z; refine both (A := Kept s0 z) ?_ (fun hz => ?_) <;> [(dsimp -zeta only [z]; clear z); clear_value z])
    | (extract_lets +onlyGivenNames z; refine both (A := ∀ a b c, Kept s0 (z a b c)) ?_ (fun hf => ?_) <;> [(dsimp -zeta only [z]; clear z); clear_value z])
    | (extract_lets +onlyGivenNames z; refine both (A := ∀ a b, Kept s0 (z a b)) ?_ (fun hf => ?_) <;> [(dsimp -zeta only [z]; clear z); clear_value z])
    | (extract_lets +onlyGivenNames z; refine both (A := ∀ a, Kept s0 (z a)) ?_ (fun hf => ?_) <;> [(dsimp -zeta only [z]; clear z); clear_value z])
    | (extract_lets +onlyGivenNames z; refine both (A := ∀ a b c d, Kept s0 a → Kept s0 (z a b c d)) ?_ (fun hf => ?_) <;> [(dsimp -zeta only [z]; clear z); clear_value z])
    | (extract_lets +onlyGivenNames z; refine both (A := ∀ a b c, Kept s0 a → Kept s0 (z a b c)) ?_ (fun hf => ?_) <;> [(dsimp -zeta only [z]; clear z); clear_value z])
    | (extract_lets +onlyGivenNames z; refine both (A := ∀ a b, Kept s0 a → Kept s0 (z a b)) ?_ (fun hf => ?_) <;> [(dsimp -zeta only [z]; clear z); clear_value z])
    | (extract_lets +onlyGivenNames z; refine both (A := ∀ a, Kept s0 a → Kept s0 (z a)) ?_ (fun hf => ?_) <;> [(dsimp -zeta only [z]; clear z); clear_value z])
    | (extract_lets +onlyGivenNames z; clear_value z)
    | split)

theorem settleGrads_kept {s0 : State} (b : Nat) (tid : Nat) (z0 : Nat) (z1 : State) (hs1 : Kept s0 z1) :
    Kept s0 (settleGrads b tid z0 z1) := by
  induction z0 generalizing b tid z1 with
  | zero =>
    first | rw [settleGrads] | (rw [settleGrads.eq_def]; dsimp -zeta only)
    repeat' (first
      | with_reducible assumption)
  | succ n ih =>
    first | rw [settleGrads] | (rw [settleGrads.eq_def]; dsimp -zeta only)
    repeat' (first
      | with_reducible assumption
      | with_reducible apply ih
      | fail_if_no_progress with_reducible refine Kept.lit ?_
      | with_reducible apply setTrain_kept
      | with_reducible apply addGrads_kept
      | with_reducible refine KeptO.next ?_
      | with_reducible refine ite_keeps (P := Kept s0) ?_ ?_
      | with_reducible refine ite_keeps (P := KeptO s0) ?_ ?_
      | (intro y; intros)
      | split)

theorem takeGrads_kept {s0 : State} (s : State) (ford : Nat) (x : Slice) (tid : Nat) (u : Nat) (first : Nat) (axis : Nat) (leaf : Nat) (data : List Byte) (hs1 : Kept s0 s) :
    Kept s0 (takeGrads s ford x tid u first axis leaf data) := by
  unfold takeGrads
  repeat' (first
    | with_reducible assumption
    | fail_if_no_progress with_reducible refine Kept.lit ?_
    | with_reducible apply faultAtFord_kept
    | with_reducible apply setTrain_kept
    | with_reducible apply settleGrads_kept
    | with_reducible refine KeptO.next ?_
    | with_reducible refine ite_keeps (P := Kept s0) ?_ ?_
    | with_reducible refine ite_keeps (P := KeptO s0) ?_ ?_
    | (intro y; intros)
    | (extract_lets +onlyGivenNames z; refine both (A := Kept s0 z) ?_ (fun hz => ?_) <;> [(dsimp -zeta only [z]; clear z); clear_value z])
    | (extract_lets +onlyGivenNames z; clear_value z)
    | split)

theorem giveUnit_kept {s0 : State} (s : State) (x : Slice) (job : Option (Nat × Nat × Nat)) (f : Step → State) (hs1 : Kept s0 s) (hb1 : ∀ x0, Kept s0 (f x0)) :
    Kept s0 (giveUnit s x job f) := by
  unfold giveUnit
  repeat' (first
    | with_reducible assumption
    | apply hb1
    | fail_if_no_progress with_reducible refine Kept.lit ?_
    | with_reducible refine KeptO.next ?_
    | with_reducible refine ite_keeps (P := Kept s0) ?_ ?_
    | with_reducible refine ite_keeps (P := KeptO s0) ?_ ?_
    | split)

theorem joinPart_kept {s0 : State} (s : State) (x : Slice) (from_ : Option Nat) (kind : Nat) (ident : Nat) (hs1 : Kept s0 s) :
    Kept s0 (joinPart s x from_ kind ident) := by
  unfold joinPart
  repeat' (first
    | with_reducible assumption
    | fail_if_no_progress with_reducible refine Kept.lit ?_
    | with_reducible apply setSliceId_kept
    | with_reducible apply joined_kept
    | with_reducible apply sendLm_kept)

theorem noteBound_kept {s0 : State} (s : State) (x : Slice) (place : Nat × Nat × Nat) (kind : Nat) (ident : Nat) (hs1 : Kept s0 s) :
    Kept s0 (noteBound s x place kind ident) := by
  unfold noteBound
  repeat' (first
    | with_reducible assumption
    | fail_if_no_progress with_reducible refine Kept.lit ?_
    | with_reducible apply setSliceId_kept
    | with_reducible apply joinPart_kept
    | with_reducible refine KeptO.next ?_
    | with_reducible refine ite_keeps (P := Kept s0) ?_ ?_)

theorem reportPart_kept {s0 : State} (s : State) (x : Slice) (place : Nat × Nat × Nat) (kind : Nat) (ident : Nat) (hs1 : Kept s0 s) :
    Kept s0 (reportPart s x place kind ident) := by
  unfold reportPart
  repeat' (first
    | with_reducible assumption
    | fail_if_no_progress with_reducible refine Kept.lit ?_
    | with_reducible apply noteBound_kept
    | with_reducible apply sendLm_kept
    | with_reducible refine KeptO.next ?_
    | with_reducible refine ite_keeps (P := Kept s0) ?_ ?_
    | with_reducible refine ite_keeps (P := KeptO s0) ?_ ?_
    | split)

theorem announceParts_kept {s0 : State} (s : State) (hs1 : Kept s0 s) :
    Kept s0 (announceParts s) := by
  unfold announceParts
  repeat' (first
    | with_reducible assumption
    | fail_if_no_progress with_reducible refine Kept.lit ?_
    | with_reducible apply setSliceId_kept
    | with_reducible apply reportPart_kept
    | with_reducible refine KeptO.next ?_
    | with_reducible refine ite_keeps (P := Kept s0) ?_ ?_
    | with_reducible refine ite_keeps (P := KeptO s0) ?_ ?_
    | (intro y; intros)
    | with_reducible refine foldl_kept ?_ (fun s x hs => ?_)
    | (extract_lets +onlyGivenNames z; refine both (A := Kept s0 z) ?_ (fun hz => ?_) <;> [(dsimp -zeta only [z]; clear z); clear_value z])
    | split)

theorem takeJoined_kept {s0 : State} (s : State) (ford : Nat) (x : Slice) (kind : Nat) (ident : Nat) (hs1 : Kept s0 s) :
    Kept s0 (takeJoined s ford x kind ident) := by
  unfold takeJoined
  repeat' (first
    | with_reducible assumption
    | fail_if_no_progress with_reducible refine Kept.lit ?_
    | with_reducible apply joinPart_kept
    | with_reducible refine KeptO.next ?_
    | with_reducible refine ite_keeps (P := Kept s0) ?_ ?_)

theorem takeLendAsk_kept {s0 : State} (s : State) (x : Slice) (px : Nat) (py : Nat) (pz : Nat) (job : Nat) (tier : Nat) (count : Nat) (hs1 : Kept s0 s) :
    Kept s0 (takeLendAsk s x px py pz job tier count) := by
  unfold takeLendAsk
  repeat' (first
    | with_reducible assumption
    | fail_if_no_progress with_reducible refine Kept.lit ?_
    | with_reducible apply askLend_kept
    | with_reducible apply count_kept
    | with_reducible refine KeptO.next ?_
    | with_reducible refine ite_keeps (P := Kept s0) ?_ ?_)

theorem takeLendReturn_kept {s0 : State} (s : State) (x : Slice) (px : Nat) (py : Nat) (pz : Nat) (index : Nat) (hs1 : Kept s0 s) :
    Kept s0 (takeLendReturn s x px py pz index) := by
  unfold takeLendReturn
  repeat' (first
    | with_reducible assumption
    | fail_if_no_progress with_reducible refine Kept.lit ?_
    | with_reducible apply takeBack_kept
    | with_reducible refine KeptO.next ?_
    | with_reducible refine ite_keeps (P := Kept s0) ?_ ?_
    | with_reducible refine ite_keeps (P := KeptO s0) ?_ ?_
    | (intro y; intros)
    | split)

theorem withSlice_kept {s0 : State} (s : State) (ford : Nat) (g : Slice → State → State) (hs1 : Kept s0 s) (hb1 : ∀ x0 s, Kept s0 s → Kept s0 (g x0 s)) :
    Kept s0 (withSlice s ford g) := by
  unfold withSlice
  repeat' (first
    | with_reducible assumption
    | apply hb1
    | fail_if_no_progress with_reducible refine Kept.lit ?_
    | with_reducible refine KeptO.next ?_
    | with_reducible refine ite_keeps (P := Kept s0) ?_ ?_
    | with_reducible refine ite_keeps (P := KeptO s0) ?_ ?_
    | split)

theorem resendFlits_kept {s0 : State} (s : State) (ford : Nat) (from_ : Nat) (hs1 : Kept s0 s) :
    Kept s0 (resendFlits s ford from_) := by
  unfold resendFlits
  repeat' (first
    | with_reducible assumption
    | fail_if_no_progress with_reducible refine Kept.lit ?_
    | with_reducible apply setFord_kept)

theorem takeLm_kept {s0 : State} (s : State) (ford : Nat) (u : FlitUnit) (hs1 : Kept s0 s) :
    Kept s0 (takeLm s ford u) := by
  unfold takeLm
  repeat' (first
    | with_reducible assumption
    | fail_if_no_progress with_reducible refine Kept.lit ?_
    | with_reducible apply fordDown_kept
    | with_reducible apply setFord_kept
    | with_reducible apply resendFlits_kept
    | with_reducible apply addCredits_kept
    | with_reducible apply withSlice_kept
    | with_reducible apply reportPart_kept
    | with_reducible apply takeJoined_kept
    | with_reducible refine KeptO.next ?_
    | with_reducible refine ite_keeps (P := Kept s0) ?_ ?_
    | with_reducible refine ite_keeps (P := KeptO s0) ?_ ?_
    | (intro y; intros)
    | (extract_lets +onlyGivenNames z; refine both (A := Kept s0 z) ?_ (fun hz => ?_) <;> [(dsimp -zeta only [z]; clear z); clear_value z])
    | (extract_lets +onlyGivenNames z; clear_value z)
    | split)

theorem takeFlitUnit_kept {s0 : State} (s : State) (ford : Nat) (x : Slice) (job : Option (Nat × Nat × Nat)) (u : FlitUnit) (hs1 : Kept s0 s) :
    Kept s0 (takeFlitUnit s ford x job u) := by
  unfold takeFlitUnit
  repeat' (first
    | with_reducible assumption
    | fail_if_no_progress with_reducible refine Kept.lit ?_
    | with_reducible apply giveUnit_kept
    | with_reducible apply putSum_kept
    | with_reducible apply putAttPart_kept
    | with_reducible apply putResult_kept
    | with_reducible apply putAttRow_kept
    | with_reducible apply takeGrads_kept
    | with_reducible apply putWindowData_kept
    | with_reducible apply windowRefusal_kept
    | with_reducible apply count_kept
    | with_reducible apply takeLendAsk_kept
    | with_reducible apply takeGrant_kept
    | with_reducible apply takeLendReturn_kept
    | with_reducible apply settleReads_kept
    | with_reducible apply serveTransfers_kept
    | with_reducible apply lentAnswer_kept
    | with_reducible refine KeptO.next ?_
    | with_reducible refine ite_keeps (P := Kept s0) ?_ ?_
    | with_reducible refine ite_keeps (P := KeptO s0) ?_ ?_
    | (intro y; intros)
    | split)

theorem takeWith_kept {s0 : State} (s : State) (chan : Nat) (cr : List (Nat × Nat)) (ford : Nat) (x : Slice) (src : Nat × Nat × Nat) (job : Option (Nat × Nat × Nat)) (u : FlitUnit) (hs1 : Kept s0 s) :
    Kept s0 (takeWith s chan cr ford x src job u) := by
  unfold takeWith
  repeat' (first
    | with_reducible assumption
    | fail_if_no_progress with_reducible refine Kept.lit ?_
    | with_reducible apply takeTransfer_kept
    | with_reducible apply takeFlitUnit_kept
    | with_reducible apply giveCredits_kept
    | with_reducible refine KeptO.next ?_
    | with_reducible refine ite_keeps (P := Kept s0) ?_ ?_
    | with_reducible refine ite_keeps (P := KeptO s0) ?_ ?_
    | split)

theorem receiveUnit_kept {s0 : State} (s : State) (x : Slice) (t : Stream) (h : HeldUnit) (hs1 : Kept s0 s) :
    Kept s0 (receiveUnit s x t h) := by
  unfold receiveUnit
  repeat' (first
    | with_reducible assumption
    | fail_if_no_progress with_reducible refine Kept.lit ?_
    | with_reducible apply takeWith_kept
    | with_reducible apply faultAtFord_kept
    | with_reducible apply giveCredits_kept
    | with_reducible refine KeptO.next ?_
    | with_reducible refine ite_keeps (P := Kept s0) ?_ ?_
    | with_reducible refine ite_keeps (P := KeptO s0) ?_ ?_
    | (extract_lets +onlyGivenNames z; refine both (A := Kept s0 z) ?_ (fun hz => ?_) <;> [(dsimp -zeta only [z]; clear z); clear_value z])
    | (extract_lets +onlyGivenNames z; clear_value z)
    | split)

theorem payOne_kept {s0 : State} (s : State) (o : Owed) (hs1 : Kept s0 s) :
    Kept s0 (payOne s o) := by
  unfold payOne
  repeat' (first
    | with_reducible assumption
    | fail_if_no_progress with_reducible refine Kept.lit ?_
    | with_reducible apply giveCredits_kept
    | with_reducible apply takeWith_kept
    | with_reducible refine KeptO.next ?_
    | with_reducible refine ite_keeps (P := Kept s0) ?_ ?_
    | with_reducible refine ite_keeps (P := KeptO s0) ?_ ?_
    | (extract_lets +onlyGivenNames z; refine both (A := Kept s0 z) ?_ (fun hz => ?_) <;> [(dsimp -zeta only [z]; clear z); clear_value z])
    | (extract_lets +onlyGivenNames z; clear_value z)
    | split)

theorem payOwed_kept {s0 : State} (s : State) (hs1 : Kept s0 s) :
    Kept s0 (payOwed s) := by
  unfold payOwed
  repeat' (first
    | with_reducible assumption
    | fail_if_no_progress with_reducible refine Kept.lit ?_
    | with_reducible apply payOne_kept
    | with_reducible refine KeptO.next ?_
    | with_reducible refine ite_keeps (P := Kept s0) ?_ ?_
    | with_reducible refine ite_keeps (P := KeptO s0) ?_ ?_
    | with_reducible refine foldl_kept ?_ (fun s x hs => ?_))

theorem deliverUnit_kept {s0 : State} (s : State) (x : Slice) (t : Stream) (h : HeldUnit) (hs1 : Kept s0 s) :
    Kept s0 (deliverUnit s x t h) := by
  unfold deliverUnit
  repeat' (first
    | with_reducible assumption
    | fail_if_no_progress with_reducible refine Kept.lit ?_
    | with_reducible apply receiveUnit_kept
    | with_reducible apply forwardUnit_kept
    | with_reducible refine KeptO.next ?_
    | with_reducible refine ite_keeps (P := Kept s0) ?_ ?_)

theorem settleStream_kept {s0 : State} (x : Slice) (chan : Nat) (src : Nat × Nat × Nat) (dst : Nat × Nat × Nat) (z0 : Nat) (z1 : State) (hs1 : Kept s0 z1) :
    Kept s0 (settleStream x chan src dst z0 z1) := by
  induction z0 generalizing x chan src dst z1 with
  | zero =>
    first | rw [settleStream] | (rw [settleStream.eq_def]; dsimp -zeta only)
    repeat' (first
      | with_reducible assumption)
  | succ n ih =>
    first | rw [settleStream] | (rw [settleStream.eq_def]; dsimp -zeta only)
    repeat' (first
      | with_reducible assumption
      | with_reducible apply ih
      | fail_if_no_progress with_reducible refine Kept.lit ?_
      | with_reducible apply setStream_kept
      | with_reducible apply deliverUnit_kept
      | with_reducible refine KeptO.next ?_
      | with_reducible refine ite_keeps (P := Kept s0) ?_ ?_
      | with_reducible refine ite_keeps (P := KeptO s0) ?_ ?_
      | (intro y; intros)
      | split)

theorem arriveUnit_kept {s0 : State} (s : State) (ford : Nat) (x : Slice) (head : FlitHead) (u : FlitUnit) (hs1 : Kept s0 s) :
    Kept s0 (arriveUnit s ford x head u) := by
  unfold arriveUnit
  repeat' (first
    | with_reducible assumption
    | fail_if_no_progress with_reducible refine Kept.lit ?_
    | with_reducible apply settleStream_kept
    | with_reducible apply setStream_kept
    | with_reducible refine KeptO.next ?_
    | with_reducible refine ite_keeps (P := Kept s0) ?_ ?_)

theorem lmCredit_kept {s0 : State} (s : State) (ford : Nat) (u : FlitUnit) (hs1 : Kept s0 s) :
    Kept s0 (lmCredit s ford u) := by
  unfold lmCredit
  repeat' (first
    | with_reducible assumption
    | fail_if_no_progress with_reducible refine Kept.lit ?_
    | with_reducible apply giveCredits_kept
    | with_reducible refine KeptO.next ?_
    | with_reducible refine ite_keeps (P := Kept s0) ?_ ?_
    | with_reducible refine ite_keeps (P := KeptO s0) ?_ ?_
    | split)

theorem takeArrival_kept {s0 : State} (s : State) (ford : Nat) (head : FlitHead) (u : FlitUnit) (hs1 : Kept s0 s) :
    Kept s0 (takeArrival s ford head u) := by
  unfold takeArrival
  repeat' (first
    | with_reducible assumption
    | fail_if_no_progress with_reducible refine Kept.lit ?_
    | with_reducible apply takeLm_kept
    | with_reducible apply lmCredit_kept
    | with_reducible apply withSlice_kept
    | with_reducible apply arriveUnit_kept
    | with_reducible refine KeptO.next ?_
    | with_reducible refine ite_keeps (P := Kept s0) ?_ ?_
    | with_reducible refine ite_keeps (P := KeptO s0) ?_ ?_
    | (intro y; intros))

theorem flitFailed_kept {s0 : State} (s : State) (ford : Nat) (head : FlitHead) (u : FlitUnit) (hs1 : Kept s0 s) :
    Kept s0 (flitFailed s ford head u) := by
  unfold flitFailed
  repeat' (first
    | with_reducible assumption
    | fail_if_no_progress with_reducible refine Kept.lit ?_
    | with_reducible apply setFord_kept
    | with_reducible apply sendLm_kept
    | with_reducible apply resend_kept
    | with_reducible apply faultAtFord_kept
    | with_reducible refine KeptO.next ?_
    | with_reducible refine ite_keeps (P := Kept s0) ?_ ?_)

theorem execFlitReceive_kept {s0 : State} (ford : Nat) (crcOk : Bool) (fecCorr : Nat) (fecUncorr : Nat) (head : FlitHead) (u : FlitUnit) (s : State) (hs1 : Kept s0 s) :
    KeptO s0 (execFlitReceive ford crcOk fecCorr fecUncorr head u s) := by
  unfold execFlitReceive
  repeat' (first
    | with_reducible assumption
    | fail_if_no_progress with_reducible refine Kept.lit ?_
    | with_reducible apply setFord_kept
    | with_reducible apply heardFord_kept
    | with_reducible apply takeArrival_kept
    | with_reducible apply count_kept
    | with_reducible apply flitFailed_kept
    | with_reducible refine KeptO.next ?_
    | with_reducible refine ite_keeps (P := Kept s0) ?_ ?_
    | with_reducible refine ite_keeps (P := KeptO s0) ?_ ?_)

theorem recheckFord_kept {s0 : State} (s : State) (n : Nat) (hs1 : Kept s0 s) :
    Kept s0 (recheckFord s n) := by
  unfold recheckFord
  repeat' (first
    | with_reducible assumption
    | fail_if_no_progress with_reducible refine Kept.lit ?_
    | with_reducible apply setFord_kept
    | with_reducible apply fordDown_kept
    | with_reducible apply identify_kept
    | with_reducible refine KeptO.next ?_
    | with_reducible refine ite_keeps (P := Kept s0) ?_ ?_
    | with_reducible refine ite_keeps (P := KeptO s0) ?_ ?_
    | (intro y; intros)
    | (extract_lets +onlyGivenNames z; refine both (A := Kept s0 z) ?_ (fun hz => ?_) <;> [(dsimp -zeta only [z]; clear z); clear_value z])
    | (extract_lets +onlyGivenNames z; clear_value z)
    | split)

theorem execLinkTopology_kept {s0 : State} (h : Hdr) (rec : BitVec 512) (s : State) (hs1 : Kept s0 s) :
    KeptO s0 (execLinkTopology h rec s) := by
  unfold execLinkTopology
  repeat' (first
    | with_reducible assumption
    | fail_if_no_progress with_reducible refine Kept.lit ?_
    | with_reducible apply hostStoreCmd_kept
    | with_reducible apply reply_kept
    | with_reducible apply storeWriteNow_kept
    | with_reducible apply recheckFord_kept
    | with_reducible refine KeptO.next ?_
    | with_reducible refine ite_keeps (P := Kept s0) ?_ ?_
    | with_reducible refine ite_keeps (P := KeptO s0) ?_ ?_
    | (intro y; intros)
    | with_reducible refine foldl_kept ?_ (fun s x hs => ?_))

theorem bindSlice_kept {s0 : State} (s : State) (h : Hdr) (w : BitVec 256) (hs1 : Kept s0 s) :
    Kept s0 (bindSlice s h w) := by
  unfold bindSlice
  repeat' (first
    | with_reducible assumption
    | fail_if_no_progress with_reducible refine Kept.lit ?_
    | with_reducible apply reply_kept
    | with_reducible apply sendLm_kept
    | with_reducible apply settleSlice_kept
    | with_reducible apply deferCmd_kept
    | with_reducible refine KeptO.next ?_
    | with_reducible refine ite_keeps (P := Kept s0) ?_ ?_)

theorem unbindSlice_kept {s0 : State} (s : State) (h : Hdr) (w : BitVec 256) (hs1 : Kept s0 s) :
    Kept s0 (unbindSlice s h w) := by
  unfold unbindSlice
  repeat' (first
    | with_reducible assumption
    | fail_if_no_progress with_reducible refine Kept.lit ?_
    | with_reducible apply reply_kept
    | with_reducible apply idleFords_kept
    | with_reducible apply loseLends_kept
    | with_reducible apply raise_kept
    | with_reducible refine KeptO.next ?_
    | with_reducible refine ite_keeps (P := Kept s0) ?_ ?_
    | with_reducible refine ite_keeps (P := KeptO s0) ?_ ?_
    | (intro y; intros)
    | split)

theorem linkSlice_kept {s0 : State} (h : Hdr) (rec : BitVec 256) (s : State) (hs1 : Kept s0 s) :
    KeptO s0 (linkSlice h rec s) := by
  unfold linkSlice
  repeat' (first
    | with_reducible assumption
    | fail_if_no_progress with_reducible refine Kept.lit ?_
    | with_reducible apply hostCmd_kept
    | with_reducible apply unbindSlice_kept
    | with_reducible apply bindSlice_kept
    | with_reducible refine KeptO.next ?_
    | with_reducible refine ite_keeps (P := Kept s0) ?_ ?_
    | with_reducible refine ite_keeps (P := KeptO s0) ?_ ?_
    | (intro y; intros))

theorem execLinkSliceBind_kept {s0 : State} (h : Hdr) (rec : BitVec 256) (s : State) (hs1 : Kept s0 s) :
    KeptO s0 (execLinkSliceBind h rec s) := by
  unfold execLinkSliceBind
  repeat' (first
    | with_reducible assumption
    | fail_if_no_progress with_reducible refine Kept.lit ?_
    | with_reducible apply linkSlice_kept)

theorem execLinkSliceUnbind_kept {s0 : State} (h : Hdr) (rec : BitVec 256) (s : State) (hs1 : Kept s0 s) :
    KeptO s0 (execLinkSliceUnbind h rec s) := by
  unfold execLinkSliceUnbind
  repeat' (first
    | with_reducible assumption
    | fail_if_no_progress with_reducible refine Kept.lit ?_
    | with_reducible apply linkSlice_kept)

theorem execLinkStatus_kept {s0 : State} (h : Hdr) (s : State) (hs1 : Kept s0 s) :
    KeptO s0 (execLinkStatus h s) := by
  unfold execLinkStatus
  repeat' (first
    | with_reducible assumption
    | fail_if_no_progress with_reducible refine Kept.lit ?_
    | with_reducible apply hostCmd_kept
    | with_reducible apply reply_kept
    | with_reducible refine KeptO.next ?_
    | with_reducible refine ite_keeps (P := Kept s0) ?_ ?_
    | with_reducible refine ite_keeps (P := KeptO s0) ?_ ?_
    | (intro y; intros))

theorem execSliceDeclareReceive_kept {s0 : State} (ford : Nat) (sliceId : Nat) (ox : Nat) (oy : Nat) (oz : Nat) (lx : Nat) (ly : Nat) (lz : Nat) (minor : Nat) (s : State) (hs1 : Kept s0 s) :
    KeptO s0 (execSliceDeclareReceive ford sliceId ox oy oz lx ly lz minor s) := by
  unfold execSliceDeclareReceive
  repeat' (first
    | with_reducible assumption
    | fail_if_no_progress with_reducible refine Kept.lit ?_
    | with_reducible apply heardFord_kept
    | with_reducible apply faultAtFord_kept
    | with_reducible apply setFord_kept
    | with_reducible apply settleSlice_kept
    | with_reducible refine KeptO.next ?_
    | with_reducible refine ite_keeps (P := Kept s0) ?_ ?_
    | with_reducible refine ite_keeps (P := KeptO s0) ?_ ?_)

theorem execSliceReadyReceive_kept {s0 : State} (sliceId : Nat) (x : Nat) (y : Nat) (z : Nat) (minor : Nat) (s : State) (hs1 : Kept s0 s) :
    KeptO s0 (execSliceReadyReceive sliceId x y z minor s) := by
  unfold execSliceReadyReceive
  repeat' (first
    | with_reducible assumption
    | fail_if_no_progress with_reducible refine Kept.lit ?_
    | with_reducible apply noteReady_kept
    | with_reducible apply sendReady_kept
    | with_reducible refine KeptO.next ?_
    | with_reducible refine ite_keeps (P := Kept s0) ?_ ?_
    | with_reducible refine ite_keeps (P := KeptO s0) ?_ ?_
    | split)

theorem execSliceGoReceive_kept {s0 : State} (sliceId : Nat) (minor : Nat) (s : State) (hs1 : Kept s0 s) :
    KeptO s0 (execSliceGoReceive sliceId minor s) := by
  unfold execSliceGoReceive
  repeat' (first
    | with_reducible assumption
    | fail_if_no_progress with_reducible refine Kept.lit ?_
    | with_reducible apply goReady_kept
    | with_reducible refine KeptO.next ?_
    | with_reducible refine ite_keeps (P := Kept s0) ?_ ?_
    | with_reducible refine ite_keeps (P := KeptO s0) ?_ ?_)

theorem execSliceBindTimeout_kept {s0 : State} (sliceId : Nat) (s : State) (hs1 : Kept s0 s) :
    KeptO s0 (execSliceBindTimeout sliceId s) := by
  unfold execSliceBindTimeout
  repeat' (first
    | with_reducible assumption
    | fail_if_no_progress with_reducible refine Kept.lit ?_
    | with_reducible apply dropSlice_kept
    | with_reducible refine KeptO.next ?_
    | with_reducible refine ite_keeps (P := Kept s0) ?_ ?_
    | with_reducible refine ite_keeps (P := KeptO s0) ?_ ?_)

theorem execSliceJoinTimeout_kept {s0 : State} (basin : Nat) (kind : Nat) (ident : Nat) (s : State) (hs1 : Kept s0 s) :
    KeptO s0 (execSliceJoinTimeout basin kind ident s) := by
  unfold execSliceJoinTimeout
  repeat' (first
    | with_reducible assumption
    | fail_if_no_progress with_reducible refine Kept.lit ?_
    | with_reducible apply setSliceId_kept
    | with_reducible apply endPart_kept
    | with_reducible refine KeptO.next ?_
    | with_reducible refine ite_keeps (P := Kept s0) ?_ ?_
    | with_reducible refine ite_keeps (P := KeptO s0) ?_ ?_
    | (intro y; intros)
    | (extract_lets +onlyGivenNames z; refine both (A := Kept s0 z) ?_ (fun hz => ?_) <;> [(dsimp -zeta only [z]; clear z); clear_value z])
    | split)

theorem execSliceStopReceive_kept {s0 : State} (ford : Nat) (sliceId : Nat) (serial : Nat) (cause : Nat) (s : State) (hs1 : Kept s0 s) :
    KeptO s0 (execSliceStopReceive ford sliceId serial cause s) := by
  unfold execSliceStopReceive
  repeat' (first
    | with_reducible assumption
    | fail_if_no_progress with_reducible refine Kept.lit ?_
    | with_reducible apply heardFord_kept
    | with_reducible apply sliceFault_kept
    | with_reducible refine KeptO.next ?_
    | with_reducible refine ite_keeps (P := Kept s0) ?_ ?_
    | with_reducible refine ite_keeps (P := KeptO s0) ?_ ?_
    | (extract_lets +onlyGivenNames z; refine both (A := Kept s0 z) ?_ (fun hz => ?_) <;> [(dsimp -zeta only [z]; clear z); clear_value z])
    | split)

theorem execWindowTransferReceive_kept {s0 : State} (ford : Nat) (sx : Nat) (sy : Nat) (sz : Nat) (basin : Nat) (job : Nat) (wid : Nat) (isRead : Bool) (roff : Nat) (len : Nat) (data : List Byte) (part : Option (Nat × Nat × Nat)) (s : State) (hs1 : Kept s0 s) :
    KeptO s0 (execWindowTransferReceive ford sx sy sz basin job wid isRead roff len data part s) := by
  unfold execWindowTransferReceive
  repeat' (first
    | with_reducible assumption
    | fail_if_no_progress with_reducible refine Kept.lit ?_
    | with_reducible apply heardFord_kept
    | with_reducible apply takeTransfer_kept
    | with_reducible apply faultAtFord_kept
    | with_reducible apply receiveUnit_kept
    | with_reducible refine KeptO.next ?_
    | with_reducible refine ite_keeps (P := Kept s0) ?_ ?_
    | with_reducible refine ite_keeps (P := KeptO s0) ?_ ?_
    | (extract_lets +onlyGivenNames z; refine both (A := Kept s0 z) ?_ (fun hz => ?_) <;> [(dsimp -zeta only [z]; clear z); clear_value z])
    | (extract_lets +onlyGivenNames z; clear_value z)
    | split)

end Sys2Proof.Laws
end

