-- ==== Sys2Proof/Laws/KeptTimebase.lean ====
section
/-! SUPPORT. What the functions of Machine/Timebase.lean keep: the waiting commands and memory's canonical form. -/

namespace Sys2Proof.Laws

open Sys2Proof Sys2Proof.Machine

theorem tick_kept {s0 : State} (s : State) (hs1 : Kept s0 s) :
    Kept s0 (tick s) := by
  unfold tick
  repeat' (first
    | with_reducible assumption
    | fail_if_no_progress with_reducible refine Kept.lit ?_
    | with_reducible apply hubTick_kept
    | with_reducible apply payOwed_kept
    | with_reducible apply announceParts_kept
    | with_reducible apply sendIdentities_kept
    | with_reducible apply serveTransfers_kept
    | with_reducible apply readEndpoints_kept
    | with_reducible apply finishSigning_kept
    | with_reducible apply answerBads_kept
    | with_reducible apply servePorts_kept)

end Sys2Proof.Laws
end

