-- ==== Sys2Proof/Laws/KeptSecurity.lean ====
section
/-! SUPPORT. What the functions of Machine/Security.lean keep: the waiting commands and memory's canonical form. -/

namespace Sys2Proof.Laws

open Sys2Proof Sys2Proof.Machine

theorem execSecAttest_kept {s0 : State} (h : Hdr) (nonce : BitVec 256) (named : Option Nat) (s : State) (hs1 : Kept s0 s) :
    KeptO s0 (execSecAttest h nonce named s) := by
  unfold execSecAttest
  repeat' (first
    | with_reducible assumption
    | fail_if_no_progress with_reducible refine Kept.lit ?_
    | with_reducible apply hostCmd_kept
    | with_reducible apply reply_kept
    | with_reducible apply setDrbg_kept
    | with_reducible refine KeptO.next ?_
    | with_reducible refine ite_keeps (P := Kept s0) ?_ ?_
    | with_reducible refine ite_keeps (P := KeptO s0) ?_ ?_
    | (intro y; intros)
    | (extract_lets +onlyGivenNames z; refine both (A := Kept s0 z) ?_ (fun hz => ?_) <;> [(dsimp -zeta only [z]; clear z); clear_value z])
    | (extract_lets +onlyGivenNames z; clear_value z)
    | split)

theorem execSecCerts_kept {s0 : State} (h : Hdr) (s : State) (hs1 : Kept s0 s) :
    KeptO s0 (execSecCerts h s) := by
  unfold execSecCerts
  repeat' (first
    | with_reducible assumption
    | with_reducible apply hf
    | fail_if_no_progress with_reducible refine Kept.lit ?_
    | with_reducible apply hostCmd_kept
    | with_reducible apply reply_kept
    | with_reducible refine KeptO.next ?_
    | with_reducible refine ite_keeps (P := Kept s0) ?_ ?_
    | with_reducible refine ite_keeps (P := KeptO s0) ?_ ?_
    | (intro y; intros))

theorem execSecFwUpdate_kept {s0 : State} (h : Hdr) (addr : Nat) (len : Nat) (s : State) (hs1 : Kept s0 s) :
    KeptO s0 (execSecFwUpdate h addr len s) := by
  unfold execSecFwUpdate
  repeat' (first
    | with_reducible assumption
    | fail_if_no_progress with_reducible refine Kept.lit ?_
    | with_reducible apply hostStoreCmd_kept
    | with_reducible apply reply_kept
    | with_reducible apply deferCmd_kept
    | with_reducible refine KeptO.next ?_
    | with_reducible refine ite_keeps (P := Kept s0) ?_ ?_
    | with_reducible refine ite_keeps (P := KeptO s0) ?_ ?_
    | (intro y; intros))

theorem putSlotImage_kept {s0 : State} (s : State) (n : Nat) (img : Image) (hs1 : Kept s0 s) :
    Kept s0 (putSlotImage s n img) := by
  unfold putSlotImage
  repeat' (first
    | with_reducible assumption
    | fail_if_no_progress with_reducible refine Kept.lit ?_)

theorem execFwSlotWriteComplete_kept {s0 : State} (s : State) (hs1 : Kept s0 s) :
    KeptO s0 (execFwSlotWriteComplete s) := by
  unfold execFwSlotWriteComplete
  repeat' (first
    | with_reducible assumption
    | fail_if_no_progress with_reducible refine Kept.lit ?_
    | with_reducible apply putSlotImage_kept
    | with_reducible apply answerAll_kept
    | with_reducible apply storeWriteNow_kept
    | with_reducible apply raise_kept
    | with_reducible refine KeptO.next ?_
    | with_reducible refine ite_keeps (P := Kept s0) ?_ ?_
    | with_reducible refine ite_keeps (P := KeptO s0) ?_ ?_
    | (intro y; intros)
    | (extract_lets +onlyGivenNames z; refine both (A := Kept s0 z) ?_ (fun hz => ?_) <;> [(dsimp -zeta only [z]; clear z); clear_value z])
    | (extract_lets +onlyGivenNames z; clear_value z)
    | split)

theorem execCakInstall_kept {s0 : State} (h : Hdr) (ports : Nat) (keyId : Nat) (ckn : BitVec 256) (ciphertext : List Byte) (wrapped : List Byte) (s : State) (hs1 : Kept s0 s) :
    KeptO s0 (execCakInstall h ports keyId ckn ciphertext wrapped s) := by
  unfold execCakInstall
  repeat' (first
    | with_reducible assumption
    | fail_if_no_progress with_reducible refine Kept.lit ?_
    | with_reducible apply hostStoreCmd_kept
    | with_reducible apply reply_kept
    | with_reducible apply storeWriteNow_kept
    | with_reducible apply settleMode_kept
    | with_reducible apply raise_kept
    | with_reducible apply measureChange_kept
    | with_reducible refine KeptO.next ?_
    | with_reducible refine ite_keeps (P := Kept s0) ?_ ?_
    | with_reducible refine ite_keeps (P := KeptO s0) ?_ ?_
    | (intro y; intros)
    | with_reducible refine foldl_kept ?_ (fun s x hs => ?_)
    | (extract_lets +onlyGivenNames z; refine both (A := Kept s0 z) ?_ (fun hz => ?_) <;> [(dsimp -zeta only [z]; clear z); clear_value z])
    | (extract_lets +onlyGivenNames z; clear_value z)
    | split)

theorem setScis_kept {s0 : State} (s : State) (l : List Sci) (hs1 : Kept s0 s) :
    Kept s0 (setScis s l) := by
  unfold setScis
  repeat' (first
    | with_reducible assumption
    | fail_if_no_progress with_reducible refine Kept.lit ?_
    | with_reducible apply settleMode_kept
    | with_reducible apply measureChange_kept
    | with_reducible apply storeWriteNow_kept)

theorem execSciBind_kept {s0 : State} (h : Hdr) (ports : Nat) (basin : Nat) (sci : Nat) (s : State) (hs1 : Kept s0 s) :
    KeptO s0 (execSciBind h ports basin sci s) := by
  unfold execSciBind
  repeat' (first
    | with_reducible assumption
    | fail_if_no_progress with_reducible refine Kept.lit ?_
    | with_reducible apply hostStoreCmd_kept
    | with_reducible apply reply_kept
    | with_reducible apply setScis_kept
    | with_reducible refine KeptO.next ?_
    | with_reducible refine ite_keeps (P := Kept s0) ?_ ?_
    | with_reducible refine ite_keeps (P := KeptO s0) ?_ ?_
    | (intro y; intros))

theorem execSciUnbind_kept {s0 : State} (h : Hdr) (ports : Nat) (basin : Nat) (sci : Nat) (s : State) (hs1 : Kept s0 s) :
    KeptO s0 (execSciUnbind h ports basin sci s) := by
  unfold execSciUnbind
  repeat' (first
    | with_reducible assumption
    | fail_if_no_progress with_reducible refine Kept.lit ?_
    | with_reducible apply hostStoreCmd_kept
    | with_reducible apply reply_kept
    | with_reducible apply setScis_kept
    | with_reducible refine KeptO.next ?_
    | with_reducible refine ite_keeps (P := Kept s0) ?_ ?_
    | with_reducible refine ite_keeps (P := KeptO s0) ?_ ?_
    | (intro y; intros))

theorem takeMka_kept {s0 : State} (s : State) (port : Nat) (ckn : Nat) (icvOk : Bool) (sak : Option Nat) (hs1 : Kept s0 s) :
    Kept s0 (takeMka s port ckn icvOk sak) := by
  unfold takeMka
  repeat' (first
    | with_reducible assumption
    | fail_if_no_progress with_reducible refine Kept.lit ?_
    | with_reducible apply sendUncontrolled_kept
    | with_reducible apply count_kept
    | with_reducible refine KeptO.next ?_
    | with_reducible refine ite_keeps (P := Kept s0) ?_ ?_
    | with_reducible refine ite_keeps (P := KeptO s0) ?_ ?_
    | (intro y; intros)
    | (extract_lets +onlyGivenNames z; refine both (A := Kept s0 z) ?_ (fun hz => ?_) <;> [(dsimp -zeta only [z]; clear z); clear_value z])
    | (extract_lets +onlyGivenNames z; clear_value z)
    | split)

theorem execMkaFrame_kept {s0 : State} (f : RxFrame) (ckn : Nat) (icvOk : Bool) (sak : Option Nat) (s : State) (hs1 : Kept s0 s) :
    KeptO s0 (execMkaFrame f ckn icvOk sak s) := by
  unfold execMkaFrame
  repeat' (first
    | with_reducible assumption
    | fail_if_no_progress with_reducible refine Kept.lit ?_
    | with_reducible apply portTakes_kept
    | with_reducible apply takeMka_kept
    | with_reducible apply count_kept
    | with_reducible refine KeptO.next ?_
    | with_reducible refine ite_keeps (P := Kept s0) ?_ ?_
    | with_reducible refine ite_keeps (P := KeptO s0) ?_ ?_
    | (intro y; intros))

theorem wipe_kept {s0 : State} (s : State) (hs1 : Kept s0 s) :
    Kept s0 (wipe s) := by
  unfold wipe
  repeat' (first
    | exact memEmpty_wf
    | with_reducible apply memPut_wf
    | with_reducible apply memPuts_wf
    | with_reducible apply memClear_wf
    | with_reducible refine Kept.mem (s0 := s0) ?_
    | with_reducible assumption
    | fail_if_no_progress with_reducible refine Kept.lit ?_
    | with_reducible apply killAll_kept
    | with_reducible apply raise_kept
    | with_reducible refine KeptO.next ?_
    | with_reducible refine ite_keeps (P := Kept s0) ?_ ?_
    | with_reducible refine ite_keeps (P := KeptO s0) ?_ ?_
    | (intro y; intros)
    | with_reducible refine foldl_kept ?_ (fun s x hs => ?_)
    | (extract_lets +onlyGivenNames z; refine both (A := Kept s0 z) ?_ (fun hz => ?_) <;> [(dsimp -zeta only [z]; clear z); clear_value z])
    | (extract_lets +onlyGivenNames z; clear_value z)
    | split
    | with_reducible refine Kept.litMem ?_ ?_)

theorem dropKeys_kept {s0 : State} (s : State) (eraseId : Bool) (hs1 : Kept s0 s) :
    Kept s0 (dropKeys s eraseId) := by
  unfold dropKeys
  repeat' (first
    | with_reducible assumption
    | fail_if_no_progress with_reducible refine Kept.lit ?_
    | with_reducible apply stopDrbg_kept
    | with_reducible apply settleMode_kept
    | with_reducible apply measureChange_kept)

theorem execSecZeroize_kept {s0 : State} (h : Hdr) (eraseId : Nat) (s : State) (hs1 : Kept s0 s) :
    KeptO s0 (execSecZeroize h eraseId s) := by
  unfold execSecZeroize
  repeat' (first
    | with_reducible assumption
    | fail_if_no_progress with_reducible refine Kept.lit ?_
    | with_reducible apply hostCmd_kept
    | with_reducible apply reply_kept
    | with_reducible apply wipe_kept
    | with_reducible apply answerAll_kept
    | with_reducible apply dropKeys_kept
    | with_reducible refine KeptO.next ?_
    | with_reducible refine ite_keeps (P := Kept s0) ?_ ?_
    | with_reducible refine ite_keeps (P := KeptO s0) ?_ ?_
    | (intro y; intros))

theorem execSelftestPeriodic_kept {s0 : State} (failed : Option Nat) (s : State) (hs1 : Kept s0 s) :
    KeptO s0 (execSelftestPeriodic failed s) := by
  unfold execSelftestPeriodic
  repeat' (first
    | with_reducible assumption
    | fail_if_no_progress with_reducible refine Kept.lit ?_
    | with_reducible apply failSec_kept
    | with_reducible refine KeptO.next ?_
    | with_reducible refine ite_keeps (P := Kept s0) ?_ ?_
    | with_reducible refine ite_keeps (P := KeptO s0) ?_ ?_
    | (extract_lets +onlyGivenNames z; refine both (A := Kept s0 z) ?_ (fun hz => ?_) <;> [(dsimp -zeta only [z]; clear z); clear_value z])
    | (extract_lets +onlyGivenNames z; clear_value z)
    | split)

theorem execEntropyHealthFail_kept {s0 : State} (s : State) (hs1 : Kept s0 s) :
    KeptO s0 (execEntropyHealthFail s) := by
  unfold execEntropyHealthFail
  repeat' (first
    | with_reducible assumption
    | fail_if_no_progress with_reducible refine Kept.lit ?_
    | with_reducible apply failSec_kept
    | with_reducible refine KeptO.next ?_
    | with_reducible refine ite_keeps (P := Kept s0) ?_ ?_
    | with_reducible refine ite_keeps (P := KeptO s0) ?_ ?_)

theorem execDrbgReseed_kept {s0 : State} (inst : Nat) (s : State) (hs1 : Kept s0 s) :
    KeptO s0 (execDrbgReseed inst s) := by
  unfold execDrbgReseed
  repeat' (first
    | with_reducible assumption
    | fail_if_no_progress with_reducible refine Kept.lit ?_
    | with_reducible apply seedDrbg_kept
    | with_reducible refine KeptO.next ?_
    | with_reducible refine ite_keeps (P := Kept s0) ?_ ?_
    | with_reducible refine ite_keeps (P := KeptO s0) ?_ ?_)

end Sys2Proof.Laws
end

