-- ==== Sys2Proof/Laws/KeptDomains.lean ====
section
/-! SUPPORT. What the functions of Machine/Domains.lean keep: the waiting commands and memory's canonical form. -/

namespace Sys2Proof.Laws

open Sys2Proof Sys2Proof.Machine

theorem dropPort_kept {s0 : State} (s : State) (n : Nat) (hs1 : Kept s0 s) :
    Kept s0 (dropPort s n) := by
  unfold dropPort
  repeat' (first
    | with_reducible assumption
    | fail_if_no_progress with_reducible refine Kept.lit ?_
    | with_reducible apply raise_kept
    | with_reducible apply portLost_kept
    | with_reducible refine KeptO.next ?_
    | with_reducible refine ite_keeps (P := Kept s0) ?_ ?_)

theorem fordsOff_kept {s0 : State} (s : State) (l : List Nat) (hs1 : Kept s0 s) :
    Kept s0 (fordsOff s l) := by
  unfold fordsOff
  repeat' (first
    | with_reducible assumption
    | fail_if_no_progress with_reducible refine Kept.lit ?_
    | with_reducible apply quietFord_kept
    | with_reducible apply raise_kept
    | with_reducible apply sliceFault_kept
    | with_reducible apply unbindFord_kept
    | with_reducible refine KeptO.next ?_
    | with_reducible refine ite_keeps (P := Kept s0) ?_ ?_
    | with_reducible refine ite_keeps (P := KeptO s0) ?_ ?_
    | (intro y; intros)
    | with_reducible refine foldl_kept ?_ (fun s x hs => ?_))

theorem sp1Off_kept {s0 : State} (s : State) (hs1 : Kept s0 s) :
    Kept s0 (sp1Off s) := by
  unfold sp1Off
  repeat' (first
    | with_reducible assumption
    | fail_if_no_progress with_reducible refine Kept.lit ?_
    | with_reducible apply stopDrbg_kept)

theorem runTests_kept {s0 : State} (s : State) (test : Nat) (causes : List Nat) (hs1 : Kept s0 s) :
    Kept s0 (runTests s test causes) := by
  unfold runTests
  repeat' (first
    | with_reducible assumption
    | fail_if_no_progress with_reducible refine Kept.lit ?_
    | with_reducible apply failSec_kept
    | with_reducible refine KeptO.next ?_
    | with_reducible refine ite_keeps (P := Kept s0) ?_ ?_
    | with_reducible refine ite_keeps (P := KeptO s0) ?_ ?_
    | (intro y; intros)
    | with_reducible refine foldl_kept ?_ (fun s x hs => ?_))

theorem sp1Start_kept {s0 : State} (s : State) (hs1 : Kept s0 s) :
    Kept s0 (sp1Start s) := by
  unfold sp1Start
  repeat' (first
    | with_reducible assumption
    | fail_if_no_progress with_reducible refine Kept.lit ?_
    | with_reducible apply runTests_kept
    | with_reducible apply failSec_kept
    | with_reducible apply seedDrbg_kept
    | with_reducible refine KeptO.next ?_
    | with_reducible refine ite_keeps (P := Kept s0) ?_ ?_)

theorem domainReady_kept {s0 : State} (s : State) (d : Nat) (hs1 : Kept s0 s) :
    Kept s0 (domainReady s d) := by
  unfold domainReady
  repeat' (first
    | with_reducible assumption
    | fail_if_no_progress with_reducible refine Kept.lit ?_
    | with_reducible apply setDom_kept
    | with_reducible apply clearPool_kept
    | with_reducible apply endpointReady_kept
    | with_reducible apply setFord_kept
    | with_reducible apply sp1Start_kept
    | with_reducible refine KeptO.next ?_
    | with_reducible refine ite_keeps (P := Kept s0) ?_ ?_
    | with_reducible refine ite_keeps (P := KeptO s0) ?_ ?_
    | (intro y; intros)
    | (extract_lets +onlyGivenNames z; refine both (A := Kept s0 z) ?_ (fun hz => ?_) <;> [(dsimp -zeta only [z]; clear z); clear_value z])
    | (extract_lets +onlyGivenNames z; clear_value z)
    | split)

theorem execDomainWake_kept {s0 : State} (domain : Nat) (s : State) (hs1 : Kept s0 s) :
    KeptO s0 (execDomainWake domain s) := by
  unfold execDomainWake
  repeat' (first
    | with_reducible assumption
    | fail_if_no_progress with_reducible refine Kept.lit ?_
    | with_reducible apply wakeDomain_kept
    | with_reducible refine KeptO.next ?_
    | with_reducible refine ite_keeps (P := Kept s0) ?_ ?_
    | with_reducible refine ite_keeps (P := KeptO s0) ?_ ?_)

theorem execDomainWakeComplete_kept {s0 : State} (domain : Nat) (s : State) (hs1 : Kept s0 s) :
    KeptO s0 (execDomainWakeComplete domain s) := by
  unfold execDomainWakeComplete
  repeat' (first
    | with_reducible assumption
    | fail_if_no_progress with_reducible refine Kept.lit ?_
    | with_reducible apply endBrown_kept
    | with_reducible apply answerDomain_kept
    | with_reducible apply domainReady_kept
    | with_reducible refine KeptO.next ?_
    | with_reducible refine ite_keeps (P := Kept s0) ?_ ?_
    | with_reducible refine ite_keeps (P := KeptO s0) ?_ ?_)

theorem domainOff_kept {s0 : State} (s : State) (d : Nat) (hs1 : Kept s0 s) :
    Kept s0 (domainOff s d) := by
  unfold domainOff
  repeat' (first
    | with_reducible assumption
    | fail_if_no_progress with_reducible refine Kept.lit ?_
    | with_reducible apply setDom_kept
    | with_reducible apply clearPool_kept
    | with_reducible apply fordsOff_kept
    | with_reducible apply dropPort_kept
    | with_reducible apply sp1Off_kept
    | with_reducible apply answerDomain_kept
    | with_reducible apply wakeDomain_kept
    | with_reducible apply raise_kept
    | with_reducible refine KeptO.next ?_
    | with_reducible refine ite_keeps (P := Kept s0) ?_ ?_
    | with_reducible refine ite_keeps (P := KeptO s0) ?_ ?_
    | (intro y; intros)
    | (extract_lets +onlyGivenNames z; refine both (A := Kept s0 z) ?_ (fun hz => ?_) <;> [(dsimp -zeta only [z]; clear z); clear_value z])
    | (extract_lets +onlyGivenNames z; clear_value z)
    | split)

theorem execDomainOffComplete_kept {s0 : State} (domain : Nat) (s : State) (hs1 : Kept s0 s) :
    KeptO s0 (execDomainOffComplete domain s) := by
  unfold execDomainOffComplete
  repeat' (first
    | with_reducible assumption
    | fail_if_no_progress with_reducible refine Kept.lit ?_
    | with_reducible apply domainOff_kept
    | with_reducible refine KeptO.next ?_
    | with_reducible refine ite_keeps (P := Kept s0) ?_ ?_
    | with_reducible refine ite_keeps (P := KeptO s0) ?_ ?_)

theorem holdTrib_kept {s0 : State} (s : State) (t : Nat) (hs1 : Kept s0 s) :
    Kept s0 (holdTrib s t) := by
  unfold holdTrib
  repeat' (first
    | with_reducible assumption
    | fail_if_no_progress with_reducible refine Kept.lit ?_
    | with_reducible apply holdDomain_kept
    | with_reducible apply fenceReach_kept
    | with_reducible refine KeptO.next ?_
    | with_reducible refine ite_keeps (P := Kept s0) ?_ ?_
    | with_reducible refine ite_keeps (P := KeptO s0) ?_ ?_
    | (intro y; intros)
    | with_reducible refine foldl_kept ?_ (fun s x hs => ?_))

theorem execDomainFault_kept {s0 : State} (domain : Nat) (s : State) (hs1 : Kept s0 s) :
    KeptO s0 (execDomainFault domain s) := by
  unfold execDomainFault
  repeat' (first
    | with_reducible assumption
    | fail_if_no_progress with_reducible refine Kept.lit ?_
    | with_reducible apply holdDomain_kept
    | with_reducible apply raise_kept
    | with_reducible apply otherFaultRecord_kept
    | with_reducible apply endBrown_kept
    | with_reducible apply fenceReach_kept
    | with_reducible apply holdTrib_kept
    | with_reducible refine KeptO.next ?_
    | with_reducible refine ite_keeps (P := Kept s0) ?_ ?_
    | with_reducible refine ite_keeps (P := KeptO s0) ?_ ?_)

theorem execAutoIdleExpiry_kept {s0 : State} (domain : Nat) (s : State) (hs1 : Kept s0 s) :
    KeptO s0 (execAutoIdleExpiry domain s) := by
  unfold execAutoIdleExpiry
  repeat' (first
    | with_reducible assumption
    | fail_if_no_progress with_reducible refine Kept.lit ?_
    | with_reducible apply setDom_kept
    | with_reducible refine KeptO.next ?_
    | with_reducible refine ite_keeps (P := Kept s0) ?_ ?_
    | with_reducible refine ite_keeps (P := KeptO s0) ?_ ?_)

theorem startDomain_kept {s0 : State} (s : State) (d : Nat) (op : Nat) (hs1 : Kept s0 s) :
    Kept s0 (startDomain s d op) := by
  unfold startDomain
  repeat' (first
    | with_reducible assumption
    | fail_if_no_progress with_reducible refine Kept.lit ?_
    | with_reducible apply setDom_kept
    | with_reducible apply answerAll_kept
    | with_reducible apply answerDomain_kept
    | with_reducible apply wakeDomain_kept
    | with_reducible refine KeptO.next ?_
    | with_reducible refine ite_keeps (P := Kept s0) ?_ ?_)

theorem execPwrDomain_kept {s0 : State} (h : Hdr) (domain : Nat) (op : Nat) (wakeS : Nat) (s : State) (hs1 : Kept s0 s) :
    KeptO s0 (execPwrDomain h domain op wakeS s) := by
  unfold execPwrDomain
  repeat' (first
    | with_reducible assumption
    | fail_if_no_progress with_reducible refine Kept.lit ?_
    | with_reducible apply hostCmd_kept
    | with_reducible apply reply_kept
    | with_reducible apply startDomain_kept
    | with_reducible apply deferCmd_kept
    | with_reducible refine KeptO.next ?_
    | with_reducible refine ite_keeps (P := Kept s0) ?_ ?_
    | with_reducible refine ite_keeps (P := KeptO s0) ?_ ?_
    | (intro y; intros))

theorem dieOff_kept {s0 : State} (s : State) (sp1 : Bool) (hs1 : Kept s0 s) :
    Kept s0 (dieOff s sp1) := by
  unfold dieOff
  repeat' (first
    | with_reducible assumption
    | with_reducible apply hf
    | fail_if_no_progress with_reducible refine Kept.lit ?_
    | with_reducible apply fordsOff_kept
    | with_reducible apply dropPort_kept
    | with_reducible apply answerDomain_kept
    | with_reducible refine KeptO.next ?_
    | with_reducible refine ite_keeps (P := Kept s0) ?_ ?_
    | with_reducible refine ite_keeps (P := KeptO s0) ?_ ?_
    | (intro y; intros)
    | with_reducible refine foldl_kept ?_ (fun s x hs => ?_))

theorem wakeFixed_kept {s0 : State} (s : State) (hs1 : Kept s0 s) :
    Kept s0 (wakeFixed s) := by
  unfold wakeFixed
  repeat' (first
    | with_reducible assumption
    | fail_if_no_progress with_reducible refine Kept.lit ?_
    | with_reducible apply wakeDomain_kept
    | with_reducible refine KeptO.next ?_
    | with_reducible refine ite_keeps (P := Kept s0) ?_ ?_
    | with_reducible refine ite_keeps (P := KeptO s0) ?_ ?_
    | (intro y; intros)
    | with_reducible refine foldl_kept ?_ (fun s x hs => ?_))

theorem execStandby_kept {s0 : State} (h : Hdr) (domain : Nat) (wakeS : Nat) (s : State) (hs1 : Kept s0 s) :
    KeptO s0 (execStandby h domain wakeS s) := by
  unfold execStandby
  repeat' (first
    | with_reducible assumption
    | fail_if_no_progress with_reducible refine Kept.lit ?_
    | with_reducible apply hostCmd_kept
    | with_reducible apply reply_kept
    | with_reducible apply sp1Off_kept
    | with_reducible apply dieOff_kept
    | with_reducible refine KeptO.next ?_
    | with_reducible refine ite_keeps (P := Kept s0) ?_ ?_
    | with_reducible refine ite_keeps (P := KeptO s0) ?_ ?_
    | (intro y; intros))

theorem leaveStandby_kept {s0 : State} (s : State) (hs1 : Kept s0 s) :
    Kept s0 (leaveStandby s) := by
  unfold leaveStandby
  repeat' (first
    | with_reducible assumption
    | fail_if_no_progress with_reducible refine Kept.lit ?_
    | with_reducible apply wakeFixed_kept)

theorem execStandbyWakeTimer_kept {s0 : State} (s : State) (hs1 : Kept s0 s) :
    KeptO s0 (execStandbyWakeTimer s) := by
  unfold execStandbyWakeTimer
  repeat' (first
    | with_reducible assumption
    | fail_if_no_progress with_reducible refine Kept.lit ?_
    | with_reducible apply leaveStandby_kept
    | with_reducible refine KeptO.next ?_
    | with_reducible refine ite_keeps (P := Kept s0) ?_ ?_
    | with_reducible refine ite_keeps (P := KeptO s0) ?_ ?_
    | split)

end Sys2Proof.Laws
end

