-- ==== Sys2Proof/Laws/KeptRestart.lean ====
section
/-! SUPPORT. What the functions of Machine/Restart.lean keep: the waiting commands and memory's canonical form. -/

namespace Sys2Proof.Laws

open Sys2Proof Sys2Proof.Machine

theorem askRestart_kept {s0 : State} (s : State) (at_ : Nat) (cause : Nat) (hs1 : Kept s0 s) :
    Kept s0 (askRestart s at_ cause) := by
  unfold askRestart
  repeat' (first
    | with_reducible assumption
    | fail_if_no_progress with_reducible refine Kept.lit ?_
    | with_reducible refine KeptO.next ?_
    | with_reducible refine ite_keeps (P := Kept s0) ?_ ?_
    | with_reducible refine ite_keeps (P := KeptO s0) ?_ ?_
    | split)

theorem loseAll_kept {s0 : State} (s : State) (hs1 : Kept s0 s) : Kept s0 (loseAll s) :=
  ⟨hs1.pending, memEmpty_wf, rfl, rfl⟩

theorem tearStore_kept {s0 : State} (s : State) (hs1 : Kept s0 s) :
    Kept s0 (tearStore s) := by
  unfold tearStore
  repeat' (first
    | with_reducible assumption
    | fail_if_no_progress with_reducible refine Kept.lit ?_
    | with_reducible apply putSlotImage_kept
    | with_reducible refine KeptO.next ?_
    | with_reducible refine ite_keeps (P := Kept s0) ?_ ?_
    | with_reducible refine ite_keeps (P := KeptO s0) ?_ ?_
    | (extract_lets +onlyGivenNames z; refine both (A := Kept s0 z) ?_ (fun hz => ?_) <;> [(dsimp -zeta only [z]; clear z); clear_value z])
    | (extract_lets +onlyGivenNames z; clear_value z)
    | split)

theorem powerOff_kept {s0 : State} (s : State) (hs1 : Kept s0 s) :
    Kept s0 (powerOff s) := by
  unfold powerOff
  repeat' (first
    | with_reducible assumption
    | fail_if_no_progress with_reducible refine Kept.lit ?_
    | with_reducible apply loseAll_kept
    | with_reducible apply tearStore_kept
    | with_reducible refine KeptO.next ?_
    | with_reducible refine ite_keeps (P := Kept s0) ?_ ?_)

end Sys2Proof.Laws
end

