-- ==== Sys2Proof/Laws/KeptStoreCmds.lean ====
section
/-! SUPPORT. What the functions of Machine/StoreCmds.lean keep: the waiting commands and memory's canonical form. -/

namespace Sys2Proof.Laws

open Sys2Proof Sys2Proof.Machine

theorem execPwrStoreQuery_kept {s0 : State} (h : Hdr) (s : State) (hs1 : Kept s0 s) :
    KeptO s0 (execPwrStoreQuery h s) := by
  unfold execPwrStoreQuery
  repeat' (first
    | with_reducible assumption
    | fail_if_no_progress with_reducible refine Kept.lit ?_
    | with_reducible apply hostCmd_kept
    | with_reducible apply reply_kept
    | with_reducible refine KeptO.next ?_
    | with_reducible refine ite_keeps (P := Kept s0) ?_ ?_
    | with_reducible refine ite_keeps (P := KeptO s0) ?_ ?_
    | (intro y; intros))

theorem answerSwap_kept {s0 : State} (s : State) (st : Nat) (hs1 : Kept s0 s) :
    Kept s0 (answerSwap s st) := by
  unfold answerSwap
  repeat' (first
    | with_reducible assumption
    | fail_if_no_progress with_reducible refine Kept.lit ?_
    | with_reducible apply answerAll_kept)

theorem startSwap_kept {s0 : State} (s : State) (hs1 : Kept s0 s) :
    Kept s0 (startSwap s) := by
  unfold startSwap
  repeat' (first
    | with_reducible assumption
    | fail_if_no_progress with_reducible refine Kept.lit ?_
    | with_reducible apply answerSwap_kept
    | with_reducible apply swapBanks_kept
    | with_reducible refine KeptO.next ?_
    | with_reducible refine ite_keeps (P := Kept s0) ?_ ?_)

theorem execPwrStoreSwap_kept {s0 : State} (h : Hdr) (s : State) (hs1 : Kept s0 s) :
    KeptO s0 (execPwrStoreSwap h s) := by
  unfold execPwrStoreSwap
  repeat' (first
    | with_reducible assumption
    | fail_if_no_progress with_reducible refine Kept.lit ?_
    | with_reducible apply hostCmd_kept
    | with_reducible apply reply_kept
    | with_reducible apply startSwap_kept
    | with_reducible apply deferCmd_kept
    | with_reducible refine KeptO.next ?_
    | with_reducible refine ite_keeps (P := Kept s0) ?_ ?_
    | with_reducible refine ite_keeps (P := KeptO s0) ?_ ?_
    | (intro y; intros))

theorem landRecord_kept {s0 : State} (s : State) (r : StoreRec) (hs1 : Kept s0 s) :
    Kept s0 (landRecord s r) := by
  unfold landRecord
  repeat' (first
    | with_reducible assumption
    | fail_if_no_progress with_reducible refine Kept.lit ?_
    | with_reducible apply storeWriteNow_kept
    | with_reducible apply answerAll_kept
    | with_reducible refine KeptO.next ?_
    | with_reducible refine ite_keeps (P := Kept s0) ?_ ?_)

theorem spoil_kept {s0 : State} (s : State) (len : Nat) (hs1 : Kept s0 s) :
    Kept s0 (spoil s len) := by
  unfold spoil
  repeat' (first
    | with_reducible assumption
    | fail_if_no_progress with_reducible refine Kept.lit ?_)

theorem storeFails_kept {s0 : State} (s : State) (hs1 : Kept s0 s) :
    Kept s0 (storeFails s) := by
  unfold storeFails
  repeat' (first
    | with_reducible assumption
    | fail_if_no_progress with_reducible refine Kept.lit ?_
    | with_reducible apply answerSwap_kept
    | with_reducible apply answerAll_kept)

theorem execStoreWrite_kept {s0 : State} (firstOk : Bool) (secondOk : Bool) (otherBankOk : Bool) (s : State) (hs1 : Kept s0 s) :
    KeptO s0 (execStoreWrite firstOk secondOk otherBankOk s) := by
  unfold execStoreWrite
  repeat' (first
    | with_reducible assumption
    | fail_if_no_progress with_reducible refine Kept.lit ?_
    | with_reducible apply landRecord_kept
    | with_reducible apply spoil_kept
    | with_reducible apply swapBanks_kept
    | with_reducible apply storeFails_kept
    | with_reducible refine KeptO.next ?_
    | with_reducible refine ite_keeps (P := Kept s0) ?_ ?_
    | with_reducible refine ite_keeps (P := KeptO s0) ?_ ?_
    | (extract_lets +onlyGivenNames z; refine both (A := Kept s0 z) ?_ (fun hz => ?_) <;> [(dsimp -zeta only [z]; clear z); clear_value z])
    | (extract_lets +onlyGivenNames z; clear_value z)
    | split)

theorem execStoreEraseComplete_kept {s0 : State} (s : State) (hs1 : Kept s0 s) :
    KeptO s0 (execStoreEraseComplete s) := by
  unfold execStoreEraseComplete
  repeat' (first
    | with_reducible assumption
    | fail_if_no_progress with_reducible refine Kept.lit ?_
    | with_reducible apply answerSwap_kept
    | with_reducible apply swapBanks_kept
    | with_reducible refine KeptO.next ?_
    | with_reducible refine ite_keeps (P := Kept s0) ?_ ?_
    | with_reducible refine ite_keeps (P := KeptO s0) ?_ ?_)

end Sys2Proof.Laws
end

