-- ==== Sys2Proof/Laws/KeptSupply.lean ====
section
/-! SUPPORT. What the functions of Machine/Supply.lean keep: the waiting commands and memory's canonical form. -/

namespace Sys2Proof.Laws

open Sys2Proof Sys2Proof.Machine

theorem regulate_kept {s0 : State} (s : State) (mv : Nat) (hs1 : Kept s0 s) :
    Kept s0 (regulate s mv) := by
  unfold regulate
  repeat' (first
    | with_reducible assumption
    | fail_if_no_progress with_reducible refine Kept.lit ?_)

theorem setLimitCfg_kept {s0 : State} (s : State) (w : BitVec 64) (hs1 : Kept s0 s) :
    Kept s0 (setLimitCfg s w) := by
  unfold setLimitCfg
  repeat' (first
    | with_reducible assumption
    | fail_if_no_progress with_reducible refine Kept.lit ?_
    | with_reducible apply regulate_kept
    | with_reducible apply raise_kept
    | with_reducible refine KeptO.next ?_
    | with_reducible refine ite_keeps (P := Kept s0) ?_ ?_)

theorem raiseThrottle_kept {s0 : State} (s : State) (cause : Nat) (on : Bool) (hs1 : Kept s0 s) :
    Kept s0 (raiseThrottle s cause on) := by
  unfold raiseThrottle
  repeat' (first
    | with_reducible assumption
    | fail_if_no_progress with_reducible refine Kept.lit ?_
    | with_reducible apply raise_kept
    | with_reducible apply voidSteps_kept
    | with_reducible refine KeptO.next ?_
    | with_reducible refine ite_keeps (P := Kept s0) ?_ ?_)

theorem latch_kept {s0 : State} (s : State) (bit : Nat) (hs1 : Kept s0 s) :
    Kept s0 (latch s bit) := by
  unfold latch
  repeat' (first
    | with_reducible assumption
    | fail_if_no_progress with_reducible refine Kept.lit ?_)

theorem setVcore_kept {s0 : State} (s : State) (point : Nat) (mv : Nat) (hs1 : Kept s0 s) :
    Kept s0 (setVcore s point mv) := by
  unfold setVcore
  repeat' (first
    | with_reducible assumption
    | fail_if_no_progress with_reducible refine Kept.lit ?_)

theorem execVcoreDip_kept {s0 : State} (point : Nat) (mv : Nat) (forNs : Nat) (s : State) (hs1 : Kept s0 s) :
    KeptO s0 (execVcoreDip point mv forNs s) := by
  unfold execVcoreDip
  repeat' (first
    | with_reducible assumption
    | fail_if_no_progress with_reducible refine Kept.lit ?_
    | with_reducible apply setVcore_kept
    | with_reducible apply voidSteps_kept
    | with_reducible apply raise_kept
    | with_reducible refine KeptO.next ?_
    | with_reducible refine ite_keeps (P := Kept s0) ?_ ?_
    | with_reducible refine ite_keeps (P := KeptO s0) ?_ ?_
    | (extract_lets +onlyGivenNames z; refine both (A := Kept s0 z) ?_ (fun hz => ?_) <;> [(dsimp -zeta only [z]; clear z); clear_value z])
    | (extract_lets +onlyGivenNames z; clear_value z)
    | split)

theorem execVcoreReturn_kept {s0 : State} (s : State) (hs1 : Kept s0 s) :
    KeptO s0 (execVcoreReturn s) := by
  unfold execVcoreReturn
  repeat' (first
    | with_reducible assumption
    | fail_if_no_progress with_reducible refine Kept.lit ?_
    | with_reducible refine KeptO.next ?_
    | with_reducible refine ite_keeps (P := Kept s0) ?_ ?_
    | with_reducible refine ite_keeps (P := KeptO s0) ?_ ?_)

theorem execPwrClear_kept {s0 : State} (s : State) (hs1 : Kept s0 s) :
    KeptO s0 (execPwrClear s) := by
  unfold execPwrClear
  repeat' (first
    | with_reducible assumption
    | fail_if_no_progress with_reducible refine Kept.lit ?_
    | with_reducible apply raise_kept
    | with_reducible refine KeptO.next ?_
    | with_reducible refine ite_keeps (P := Kept s0) ?_ ?_
    | with_reducible refine ite_keeps (P := KeptO s0) ?_ ?_
    | split)

theorem startBrown_kept {s0 : State} (s : State) (cause : Nat) (low : Nat) (hs1 : Kept s0 s) :
    Kept s0 (startBrown s cause low) := by
  unfold startBrown
  repeat' (first
    | with_reducible assumption
    | fail_if_no_progress with_reducible refine Kept.lit ?_
    | with_reducible apply dieOff_kept
    | with_reducible apply latch_kept
    | with_reducible apply endJob_kept
    | with_reducible refine KeptO.next ?_
    | with_reducible refine ite_keeps (P := Kept s0) ?_ ?_
    | with_reducible refine ite_keeps (P := KeptO s0) ?_ ?_
    | (intro y; intros)
    | with_reducible refine foldl_kept ?_ (fun s x hs => ?_)
    | (extract_lets +onlyGivenNames z; refine both (A := Kept s0 z) ?_ (fun hz => ?_) <;> [(dsimp -zeta only [z]; clear z); clear_value z])
    | (extract_lets +onlyGivenNames z; clear_value z)
    | split)

theorem execBrownout_kept {s0 : State} (cause : Nat) (point : Nat) (mv : Nat) (s : State) (hs1 : Kept s0 s) :
    KeptO s0 (execBrownout cause point mv s) := by
  unfold execBrownout
  repeat' (first
    | with_reducible assumption
    | fail_if_no_progress with_reducible refine Kept.lit ?_
    | with_reducible apply raise_kept
    | with_reducible apply latch_kept
    | with_reducible apply setVcore_kept
    | with_reducible apply startBrown_kept
    | with_reducible refine KeptO.next ?_
    | with_reducible refine ite_keeps (P := Kept s0) ?_ ?_
    | with_reducible refine ite_keeps (P := KeptO s0) ?_ ?_)

theorem execBrownoutRecovery_kept {s0 : State} (s : State) (hs1 : Kept s0 s) :
    KeptO s0 (execBrownoutRecovery s) := by
  unfold execBrownoutRecovery
  repeat' (first
    | with_reducible assumption
    | fail_if_no_progress with_reducible refine Kept.lit ?_
    | with_reducible apply endBrown_kept
    | with_reducible apply wakeDomain_kept
    | with_reducible apply wakeFixed_kept
    | with_reducible refine KeptO.next ?_
    | with_reducible refine ite_keeps (P := Kept s0) ?_ ?_
    | with_reducible refine ite_keeps (P := KeptO s0) ?_ ?_
    | (intro y; intros)
    | with_reducible refine foldl_kept ?_ (fun s x hs => ?_)
    | (extract_lets +onlyGivenNames z; refine both (A := Kept s0 z) ?_ (fun hz => ?_) <;> [(dsimp -zeta only [z]; clear z); clear_value z])
    | (extract_lets +onlyGivenNames z; clear_value z)
    | split)

theorem execRailWarn_kept {s0 : State} (rail : Nat) (mv : Nat) (s : State) (hs1 : Kept s0 s) :
    KeptO s0 (execRailWarn rail mv s) := by
  unfold execRailWarn
  repeat' (first
    | with_reducible assumption
    | fail_if_no_progress with_reducible refine Kept.lit ?_
    | with_reducible apply raise_kept
    | with_reducible refine KeptO.next ?_
    | with_reducible refine ite_keeps (P := Kept s0) ?_ ?_
    | with_reducible refine ite_keeps (P := KeptO s0) ?_ ?_)

theorem raiseNewFails_kept {s0 : State} (before : State) (s : State) (kind : Nat → Nat) (hs1 : Kept s0 before) (hs2 : Kept s0 s) :
    Kept s0 (raiseNewFails before s kind) := by
  unfold raiseNewFails
  repeat' (first
    | with_reducible assumption
    | fail_if_no_progress with_reducible refine Kept.lit ?_
    | with_reducible apply raise_kept
    | with_reducible refine KeptO.next ?_
    | with_reducible refine ite_keeps (P := Kept s0) ?_ ?_
    | with_reducible refine ite_keeps (P := KeptO s0) ?_ ?_
    | (intro y; intros)
    | with_reducible refine foldl_kept ?_ (fun s x hs => ?_))

theorem railEffect_kept {s0 : State} (s : State) (rail : Nat) (kind : Nat) (hs1 : Kept s0 s) :
    Kept s0 (railEffect s rail kind) := by
  unfold railEffect
  repeat' (first
    | with_reducible assumption
    | fail_if_no_progress with_reducible refine Kept.lit ?_
    | with_reducible apply startBrown_kept
    | with_reducible apply askRestart_kept
    | with_reducible apply dropPort_kept
    | with_reducible apply fordsOff_kept
    | with_reducible apply raiseNewFails_kept
    | with_reducible refine KeptO.next ?_
    | with_reducible refine ite_keeps (P := Kept s0) ?_ ?_)

theorem execRailFault_kept {s0 : State} (rail : Nat) (kind : Nat) (s : State) (hs1 : Kept s0 s) :
    KeptO s0 (execRailFault rail kind s) := by
  unfold execRailFault
  repeat' (first
    | with_reducible assumption
    | fail_if_no_progress with_reducible refine Kept.lit ?_
    | with_reducible apply latch_kept
    | with_reducible apply otherFaultRecord_kept
    | with_reducible apply raise_kept
    | with_reducible apply railEffect_kept
    | with_reducible refine KeptO.next ?_
    | with_reducible refine ite_keeps (P := Kept s0) ?_ ?_
    | with_reducible refine ite_keeps (P := KeptO s0) ?_ ?_)

theorem execVserRecovery_kept {s0 : State} (s : State) (hs1 : Kept s0 s) :
    KeptO s0 (execVserRecovery s) := by
  unfold execVserRecovery
  repeat' (first
    | with_reducible assumption
    | fail_if_no_progress with_reducible refine Kept.lit ?_
    | with_reducible apply setFord_kept
    | with_reducible refine KeptO.next ?_
    | with_reducible refine ite_keeps (P := Kept s0) ?_ ?_
    | with_reducible refine ite_keeps (P := KeptO s0) ?_ ?_
    | (intro y; intros)
    | with_reducible refine foldl_kept ?_ (fun s x hs => ?_)
    | (extract_lets +onlyGivenNames z; refine both (A := Kept s0 z) ?_ (fun hz => ?_) <;> [(dsimp -zeta only [z]; clear z); clear_value z])
    | (extract_lets +onlyGivenNames z; clear_value z)
    | split)

theorem execVauxRecovery_kept {s0 : State} (s : State) (hs1 : Kept s0 s) :
    KeptO s0 (execVauxRecovery s) := by
  unfold execVauxRecovery
  repeat' (first
    | with_reducible assumption
    | fail_if_no_progress with_reducible refine Kept.lit ?_
    | with_reducible apply answerSwap_kept
    | with_reducible apply swapBanks_kept
    | with_reducible refine KeptO.next ?_
    | with_reducible refine ite_keeps (P := Kept s0) ?_ ?_)

theorem startPacing_kept {s0 : State} (s : State) (hs1 : Kept s0 s) :
    Kept s0 (startPacing s) := by
  unfold startPacing
  repeat' (first
    | with_reducible assumption
    | fail_if_no_progress with_reducible refine Kept.lit ?_
    | with_reducible apply raiseThrottle_kept
    | with_reducible refine KeptO.next ?_
    | with_reducible refine ite_keeps (P := Kept s0) ?_ ?_)

theorem execPowerSample_kept {s0 : State} (watts : Nat) (vin : Nat) (s : State) (hs1 : Kept s0 s) :
    KeptO s0 (execPowerSample watts vin s) := by
  unfold execPowerSample
  repeat' (first
    | with_reducible assumption
    | fail_if_no_progress with_reducible refine Kept.lit ?_
    | with_reducible apply startPacing_kept
    | with_reducible refine KeptO.next ?_
    | with_reducible refine ite_keeps (P := Kept s0) ?_ ?_
    | with_reducible refine ite_keeps (P := KeptO s0) ?_ ?_)

theorem setSetpoint_kept {s0 : State} (s : State) (mv : Nat) (hs1 : Kept s0 s) :
    Kept s0 (setSetpoint s mv) := by
  unfold setSetpoint
  repeat' (first
    | with_reducible assumption
    | fail_if_no_progress with_reducible refine Kept.lit ?_
    | with_reducible apply regulate_kept
    | with_reducible apply raise_kept
    | with_reducible refine KeptO.next ?_
    | with_reducible refine ite_keeps (P := Kept s0) ?_ ?_)

theorem moveSetpoint_kept {s0 : State} (s : State) (hs1 : Kept s0 s) :
    Kept s0 (moveSetpoint s) := by
  unfold moveSetpoint
  repeat' (first
    | with_reducible assumption
    | fail_if_no_progress with_reducible refine Kept.lit ?_
    | with_reducible apply setSetpoint_kept
    | with_reducible refine KeptO.next ?_
    | with_reducible refine ite_keeps (P := Kept s0) ?_ ?_)

theorem execLimiterStep_kept {s0 : State} (s : State) (hs1 : Kept s0 s) :
    KeptO s0 (execLimiterStep s) := by
  unfold execLimiterStep
  repeat' (first
    | with_reducible assumption
    | fail_if_no_progress with_reducible refine Kept.lit ?_
    | with_reducible apply moveSetpoint_kept
    | with_reducible apply startPacing_kept
    | with_reducible refine KeptO.next ?_
    | with_reducible refine ite_keeps (P := Kept s0) ?_ ?_
    | with_reducible refine ite_keeps (P := KeptO s0) ?_ ?_)

theorem execThermalLoop_kept {s0 : State} (s : State) (hs1 : Kept s0 s) :
    KeptO s0 (execThermalLoop s) := by
  unfold execThermalLoop
  repeat' (first
    | with_reducible assumption
    | fail_if_no_progress with_reducible refine Kept.lit ?_
    | with_reducible apply raiseThrottle_kept
    | with_reducible refine KeptO.next ?_
    | with_reducible refine ite_keeps (P := Kept s0) ?_ ?_
    | with_reducible refine ite_keeps (P := KeptO s0) ?_ ?_)

theorem thermalTrip_kept {s0 : State} (s : State) (sensor : Nat) (t : Int) (rows : List Nat) (hs1 : Kept s0 s) :
    Kept s0 (thermalTrip s sensor t rows) := by
  unfold thermalTrip
  repeat' (first
    | with_reducible assumption
    | fail_if_no_progress with_reducible refine Kept.lit ?_
    | with_reducible apply raise_kept
    | with_reducible apply latch_kept
    | with_reducible apply startBrown_kept
    | with_reducible refine KeptO.next ?_
    | with_reducible refine ite_keeps (P := Kept s0) ?_ ?_)

theorem setHalved_kept {s0 : State} (s : State) (hbm : Bool) (n : Nat) (on : Bool) (hs1 : Kept s0 s) :
    Kept s0 (setHalved s hbm n on) := by
  unfold setHalved
  repeat' (first
    | with_reducible assumption
    | fail_if_no_progress with_reducible refine Kept.lit ?_
    | with_reducible apply raiseThrottle_kept
    | with_reducible refine KeptO.next ?_
    | with_reducible refine ite_keeps (P := Kept s0) ?_ ?_)

theorem judgeTemps_kept {s0 : State} (s : State) (hs1 : Kept s0 s) :
    Kept s0 (judgeTemps s) := by
  unfold judgeTemps
  repeat' (first
    | with_reducible assumption
    | fail_if_no_progress with_reducible refine Kept.lit ?_
    | with_reducible apply setHalved_kept
    | with_reducible apply thermalTrip_kept
    | with_reducible refine KeptO.next ?_
    | with_reducible refine ite_keeps (P := Kept s0) ?_ ?_
    | with_reducible refine ite_keeps (P := KeptO s0) ?_ ?_
    | (intro y; intros)
    | with_reducible refine foldl_kept ?_ (fun s x hs => ?_)
    | (extract_lets +onlyGivenNames z; refine both (A := Kept s0 z) ?_ (fun hz => ?_) <;> [(dsimp -zeta only [z]; clear z); clear_value z])
    | (extract_lets +onlyGivenNames z; clear_value z)
    | split)

theorem execSensorRead_kept {s0 : State} (readings : List (Nat × Int)) (lpx : List (Nat × Int)) (noAck : List Nat) (s : State) (hs1 : Kept s0 s) :
    KeptO s0 (execSensorRead readings lpx noAck s) := by
  unfold execSensorRead
  repeat' (first
    | with_reducible assumption
    | fail_if_no_progress with_reducible refine Kept.lit ?_
    | with_reducible apply judgeTemps_kept
    | with_reducible apply raiseNewFails_kept
    | with_reducible apply voidSteps_kept
    | with_reducible refine KeptO.next ?_
    | with_reducible refine ite_keeps (P := Kept s0) ?_ ?_
    | with_reducible refine ite_keeps (P := KeptO s0) ?_ ?_)

theorem execSensorCheck_kept {s0 : State} (failed : List Nat) (s : State) (hs1 : Kept s0 s) :
    KeptO s0 (execSensorCheck failed s) := by
  unfold execSensorCheck
  repeat' (first
    | with_reducible assumption
    | fail_if_no_progress with_reducible refine Kept.lit ?_
    | with_reducible apply judgeTemps_kept
    | with_reducible apply raiseNewFails_kept
    | with_reducible refine KeptO.next ?_
    | with_reducible refine ite_keeps (P := Kept s0) ?_ ?_
    | with_reducible refine ite_keeps (P := KeptO s0) ?_ ?_)

theorem execSensorBusFault_kept {s0 : State} (stillLow : Bool) (s : State) (hs1 : Kept s0 s) :
    KeptO s0 (execSensorBusFault stillLow s) := by
  unfold execSensorBusFault
  repeat' (first
    | with_reducible assumption
    | fail_if_no_progress with_reducible refine Kept.lit ?_
    | with_reducible apply latch_kept
    | with_reducible apply raiseNewFails_kept
    | with_reducible refine KeptO.next ?_
    | with_reducible refine ite_keeps (P := Kept s0) ?_ ?_
    | with_reducible refine ite_keeps (P := KeptO s0) ?_ ?_)

theorem execSensorBusRetry_kept {s0 : State} (ok : Bool) (s : State) (hs1 : Kept s0 s) :
    KeptO s0 (execSensorBusRetry ok s) := by
  unfold execSensorBusRetry
  repeat' (first
    | with_reducible assumption
    | fail_if_no_progress with_reducible refine Kept.lit ?_
    | with_reducible refine KeptO.next ?_
    | with_reducible refine ite_keeps (P := Kept s0) ?_ ?_
    | with_reducible refine ite_keeps (P := KeptO s0) ?_ ?_)

theorem inputFault_kept {s0 : State} (s : State) (cause : Nat) (vin : Nat) (bit : Nat) (hs1 : Kept s0 s) :
    Kept s0 (inputFault s cause vin bit) := by
  unfold inputFault
  repeat' (first
    | with_reducible assumption
    | fail_if_no_progress with_reducible refine Kept.lit ?_
    | with_reducible apply raise_kept
    | with_reducible apply latch_kept
    | with_reducible apply otherFaultRecord_kept)

theorem execInputReversed_kept {s0 : State} (s : State) (hs1 : Kept s0 s) :
    KeptO s0 (execInputReversed s) := by
  unfold execInputReversed
  repeat' (first
    | with_reducible assumption
    | fail_if_no_progress with_reducible refine Kept.lit ?_
    | with_reducible refine KeptO.next ?_
    | with_reducible refine ite_keeps (P := Kept s0) ?_ ?_
    | with_reducible refine ite_keeps (P := KeptO s0) ?_ ?_)

theorem execInputLow_kept {s0 : State} (vin : Nat) (s : State) (hs1 : Kept s0 s) :
    KeptO s0 (execInputLow vin s) := by
  unfold execInputLow
  repeat' (first
    | with_reducible assumption
    | fail_if_no_progress with_reducible refine Kept.lit ?_
    | with_reducible apply inputFault_kept
    | with_reducible refine KeptO.next ?_
    | with_reducible refine ite_keeps (P := Kept s0) ?_ ?_
    | with_reducible refine ite_keeps (P := KeptO s0) ?_ ?_)

theorem execInputUndervoltage_kept {s0 : State} (vin : Nat) (s : State) (hs1 : Kept s0 s) :
    KeptO s0 (execInputUndervoltage vin s) := by
  unfold execInputUndervoltage
  repeat' (first
    | with_reducible assumption
    | fail_if_no_progress with_reducible refine Kept.lit ?_
    | with_reducible apply powerOff_kept
    | with_reducible refine KeptO.next ?_
    | with_reducible refine ite_keeps (P := Kept s0) ?_ ?_
    | with_reducible refine ite_keeps (P := KeptO s0) ?_ ?_)

theorem execInputHigh_kept {s0 : State} (vin : Nat) (s : State) (hs1 : Kept s0 s) :
    KeptO s0 (execInputHigh vin s) := by
  unfold execInputHigh
  repeat' (first
    | with_reducible assumption
    | fail_if_no_progress with_reducible refine Kept.lit ?_
    | with_reducible apply inputFault_kept
    | with_reducible refine KeptO.next ?_
    | with_reducible refine ite_keeps (P := Kept s0) ?_ ?_
    | with_reducible refine ite_keeps (P := KeptO s0) ?_ ?_)

theorem execInputOvervoltage_kept {s0 : State} (vin : Nat) (s : State) (hs1 : Kept s0 s) :
    KeptO s0 (execInputOvervoltage vin s) := by
  unfold execInputOvervoltage
  repeat' (first
    | with_reducible assumption
    | fail_if_no_progress with_reducible refine Kept.lit ?_
    | with_reducible apply powerOff_kept
    | with_reducible refine KeptO.next ?_
    | with_reducible refine ite_keeps (P := Kept s0) ?_ ?_
    | with_reducible refine ite_keeps (P := KeptO s0) ?_ ?_)

theorem execSenseMate_kept {s0 : State} (s : State) (hs1 : Kept s0 s) :
    KeptO s0 (execSenseMate s) := by
  unfold execSenseMate
  repeat' (first
    | with_reducible assumption
    | fail_if_no_progress with_reducible refine Kept.lit ?_
    | with_reducible refine KeptO.next ?_
    | with_reducible refine ite_keeps (P := Kept s0) ?_ ?_
    | with_reducible refine ite_keeps (P := KeptO s0) ?_ ?_)

theorem execSenseBreak_kept {s0 : State} (s : State) (hs1 : Kept s0 s) :
    KeptO s0 (execSenseBreak s) := by
  unfold execSenseBreak
  repeat' (first
    | with_reducible assumption
    | fail_if_no_progress with_reducible refine Kept.lit ?_
    | with_reducible apply powerOff_kept
    | with_reducible refine KeptO.next ?_)

theorem execPwrStatus_kept {s0 : State} (h : Hdr) (s : State) (hs1 : Kept s0 s) :
    KeptO s0 (execPwrStatus h s) := by
  unfold execPwrStatus
  repeat' (first
    | with_reducible assumption
    | fail_if_no_progress with_reducible refine Kept.lit ?_
    | with_reducible apply hostCmd_kept
    | with_reducible apply reply_kept
    | with_reducible refine KeptO.next ?_
    | with_reducible refine ite_keeps (P := Kept s0) ?_ ?_
    | with_reducible refine ite_keeps (P := KeptO s0) ?_ ?_
    | (intro y; intros))

theorem execPwrLimit_kept {s0 : State} (h : Hdr) (mask : BitVec 64) (value : BitVec 64) (s : State) (hs1 : Kept s0 s) :
    KeptO s0 (execPwrLimit h mask value s) := by
  unfold execPwrLimit
  repeat' (first
    | with_reducible assumption
    | fail_if_no_progress with_reducible refine Kept.lit ?_
    | with_reducible apply hostCmd_kept
    | with_reducible apply reply_kept
    | with_reducible apply setLimitCfg_kept
    | with_reducible apply storeWriteNow_kept
    | with_reducible apply deferCmd_kept
    | with_reducible apply storeAsk_kept
    | with_reducible refine KeptO.next ?_
    | with_reducible refine ite_keeps (P := Kept s0) ?_ ?_
    | with_reducible refine ite_keeps (P := KeptO s0) ?_ ?_
    | (intro y; intros))

end Sys2Proof.Laws
end

