-- ==== Sys2Proof/Laws/KeptBoot.lean ====
section
/-! SUPPORT. What the functions of Machine/Boot.lean keep: the waiting commands and memory's canonical form. -/

namespace Sys2Proof.Laws

open Sys2Proof Sys2Proof.Machine

theorem loadStore_kept {s0 : State} (s : State) (hs1 : Kept s0 s) :
    Kept s0 (loadStore s) := by
  unfold loadStore
  repeat' (first
    | with_reducible assumption
    | with_reducible apply hf
    | fail_if_no_progress with_reducible refine Kept.lit ?_)

theorem putSlotState_kept {s0 : State} (s : State) (w : Nat) (hs1 : Kept s0 s) :
    Kept s0 (putSlotState s w) := by
  unfold putSlotState
  repeat' (first
    | with_reducible assumption
    | fail_if_no_progress with_reducible refine Kept.lit ?_
    | with_reducible apply storePut_kept
    | with_reducible refine KeptO.next ?_
    | with_reducible refine ite_keeps (P := Kept s0) ?_ ?_)

theorem measureFw_kept {s0 : State} (s : State) (img : Image) (hs1 : Kept s0 s) :
    Kept s0 (measureFw s img) := by
  unfold measureFw
  repeat' (first
    | with_reducible assumption
    | fail_if_no_progress with_reducible refine Kept.lit ?_
    | with_reducible apply extendMeas_kept
    | with_reducible apply runTests_kept
    | with_reducible apply storePut_kept
    | with_reducible apply measureCfg_kept
    | with_reducible refine KeptO.next ?_
    | with_reducible refine ite_keeps (P := Kept s0) ?_ ?_
    | with_reducible refine ite_keeps (P := KeptO s0) ?_ ?_
    | (intro y; intros)
    | with_reducible refine foldl_kept ?_ (fun s x hs => ?_))

theorem startFirmware_kept {s0 : State} (s : State) (n : Nat) (trial : Bool) (reverted : Bool) (hs1 : Kept s0 s) :
    Kept s0 (startFirmware s n trial reverted) := by
  unfold startFirmware
  repeat' (first
    | with_reducible assumption
    | fail_if_no_progress with_reducible refine Kept.lit ?_
    | with_reducible apply wakeFixed_kept
    | with_reducible apply measureFw_kept)

theorem reportMarks_kept {s0 : State} (s : State) (hs1 : Kept s0 s) :
    Kept s0 (reportMarks s) := by
  unfold reportMarks
  repeat' (first
    | with_reducible assumption
    | fail_if_no_progress with_reducible refine Kept.lit ?_
    | with_reducible apply inputFault_kept
    | with_reducible apply raise_kept
    | with_reducible apply latch_kept
    | with_reducible apply otherFaultRecord_kept
    | with_reducible refine KeptO.next ?_
    | with_reducible refine ite_keeps (P := Kept s0) ?_ ?_
    | with_reducible refine ite_keeps (P := KeptO s0) ?_ ?_
    | (extract_lets +onlyGivenNames z; refine both (A := Kept s0 z) ?_ (fun hz => ?_) <;> [(dsimp -zeta only [z]; clear z); clear_value z])
    | (extract_lets +onlyGivenNames z; clear_value z)
    | split)

theorem spOn_kept {s0 : State} (s : State) (l : List Nat) (hs1 : Kept s0 s) :
    Kept s0 (spOn s l) := by
  unfold spOn
  repeat' (first
    | with_reducible assumption
    | fail_if_no_progress with_reducible refine Kept.lit ?_
    | with_reducible apply setDom_kept
    | with_reducible refine KeptO.next ?_
    | with_reducible refine ite_keeps (P := Kept s0) ?_ ?_
    | with_reducible refine ite_keeps (P := KeptO s0) ?_ ?_
    | (intro y; intros)
    | with_reducible refine foldl_kept ?_ (fun s x hs => ?_))

theorem runBoot_kept {s0 : State} (s : State) (cause : Nat) (restarts : Nat) (recover : Bool) (hs1 : Kept s0 s) :
    Kept s0 (runBoot s cause restarts recover) := by
  unfold runBoot
  repeat' (first
    | with_reducible assumption
    | fail_if_no_progress with_reducible refine Kept.lit ?_
    | with_reducible apply extendMeas_kept
    | with_reducible apply spOn_kept
    | with_reducible apply loadStore_kept
    | with_reducible apply sp1Start_kept
    | with_reducible apply putSlotState_kept
    | with_reducible apply reportMarks_kept
    | with_reducible apply startFirmware_kept
    | with_reducible refine KeptO.next ?_
    | with_reducible refine ite_keeps (P := Kept s0) ?_ ?_
    | with_reducible refine ite_keeps (P := KeptO s0) ?_ ?_
    | (intro y; intros)
    | (extract_lets +onlyGivenNames z; refine both (A := Kept s0 z) ?_ (fun hz => ?_) <;> [(dsimp -zeta only [z]; clear z); clear_value z])
    | (extract_lets +onlyGivenNames z; clear_value z)
    | split)

theorem execPowerOn_kept {s0 : State} (testMode : Bool) (recover : Bool) (vin : Nat) (s : State) (hs1 : Kept s0 s) :
    KeptO s0 (execPowerOn testMode recover vin s) := by
  unfold execPowerOn
  repeat' (first
    | with_reducible assumption
    | fail_if_no_progress with_reducible refine Kept.lit ?_
    | with_reducible apply spOn_kept
    | with_reducible apply runBoot_kept
    | with_reducible refine KeptO.next ?_
    | with_reducible refine ite_keeps (P := Kept s0) ?_ ?_
    | with_reducible refine ite_keeps (P := KeptO s0) ?_ ?_)

theorem diePrepared_kept {s0 : State} (s : State) (hs1 : Kept s0 s) :
    Kept s0 (diePrepared s) := by
  unfold diePrepared
  repeat' (first
    | with_reducible assumption
    | with_reducible apply hf
    | fail_if_no_progress with_reducible refine Kept.lit ?_)

theorem execMemoryInitComplete_kept {s0 : State} (badHbm : List Nat) (badLpx : List Nat) (recs : List BistRec) (s : State) (hs1 : Kept s0 s) :
    KeptO s0 (execMemoryInitComplete badHbm badLpx recs s) := by
  unfold execMemoryInitComplete
  repeat' (first
    | with_reducible assumption
    | fail_if_no_progress with_reducible refine Kept.lit ?_
    | with_reducible apply retireFrame_kept
    | with_reducible apply failBlock_kept
    | with_reducible apply diePrepared_kept
    | with_reducible refine KeptO.next ?_
    | with_reducible refine ite_keeps (P := Kept s0) ?_ ?_
    | with_reducible refine ite_keeps (P := KeptO s0) ?_ ?_
    | (intro y; intros)
    | with_reducible refine foldl_kept ?_ (fun s x hs => ?_))

theorem execPtpWaitExpiry_kept {s0 : State} (s : State) (hs1 : Kept s0 s) :
    KeptO s0 (execPtpWaitExpiry s) := by
  unfold execPtpWaitExpiry
  repeat' (first
    | with_reducible assumption
    | fail_if_no_progress with_reducible refine Kept.lit ?_
    | with_reducible refine KeptO.next ?_
    | with_reducible refine ite_keeps (P := Kept s0) ?_ ?_
    | with_reducible refine ite_keeps (P := KeptO s0) ?_ ?_)

theorem restoreStore_kept {s0 : State} (s : State) (hs1 : Kept s0 s) :
    Kept s0 (restoreStore s) := by
  unfold restoreStore
  repeat' (first
    | with_reducible assumption
    | fail_if_no_progress with_reducible refine Kept.lit ?_
    | with_reducible apply storePut_kept
    | with_reducible apply setLimitCfg_kept
    | with_reducible refine KeptO.next ?_
    | with_reducible refine ite_keeps (P := Kept s0) ?_ ?_
    | with_reducible refine ite_keeps (P := KeptO s0) ?_ ?_
    | (intro y; intros)
    | (extract_lets +onlyGivenNames z; refine both (A := Kept s0 z) ?_ (fun hz => ?_) <;> [(dsimp -zeta only [z]; clear z); clear_value z])
    | (extract_lets +onlyGivenNames z; clear_value z)
    | split)

theorem execBootReady_kept {s0 : State} (s : State) (hs1 : Kept s0 s) :
    KeptO s0 (execBootReady s) := by
  unfold execBootReady
  repeat' (first
    | with_reducible assumption
    | fail_if_no_progress with_reducible refine Kept.lit ?_
    | with_reducible apply restoreStore_kept
    | with_reducible apply raise_kept
    | with_reducible apply deliverEvt_kept
    | with_reducible apply settleMode_kept
    | with_reducible refine KeptO.next ?_
    | with_reducible refine ite_keeps (P := Kept s0) ?_ ?_
    | with_reducible refine ite_keeps (P := KeptO s0) ?_ ?_
    | (intro y; intros)
    | with_reducible refine foldl_kept ?_ (fun s x hs => ?_))

theorem confirmFw_kept {s0 : State} (s : State) (hs1 : Kept s0 s) :
    Kept s0 (confirmFw s) := by
  unfold confirmFw
  repeat' (first
    | with_reducible assumption
    | fail_if_no_progress with_reducible refine Kept.lit ?_
    | with_reducible apply storeWriteNow_kept
    | with_reducible apply raise_kept)

theorem execConfirmTimeout_kept {s0 : State} (s : State) (hs1 : Kept s0 s) :
    KeptO s0 (execConfirmTimeout s) := by
  unfold execConfirmTimeout
  repeat' (first
    | with_reducible assumption
    | fail_if_no_progress with_reducible refine Kept.lit ?_
    | with_reducible apply confirmFw_kept
    | with_reducible refine KeptO.next ?_
    | with_reducible refine ite_keeps (P := Kept s0) ?_ ?_
    | with_reducible refine ite_keeps (P := KeptO s0) ?_ ?_)

theorem execSp0WatchdogExpiry_kept {s0 : State} (s : State) (hs1 : Kept s0 s) :
    KeptO s0 (execSp0WatchdogExpiry s) := by
  unfold execSp0WatchdogExpiry
  repeat' (first
    | with_reducible assumption
    | fail_if_no_progress with_reducible refine Kept.lit ?_
    | with_reducible apply askRestart_kept
    | with_reducible refine KeptO.next ?_
    | with_reducible refine ite_keeps (P := Kept s0) ?_ ?_
    | with_reducible refine ite_keeps (P := KeptO s0) ?_ ?_)

theorem execModReset_kept {s0 : State} (lowNs : Nat) (s : State) (hs1 : Kept s0 s) :
    KeptO s0 (execModReset lowNs s) := by
  unfold execModReset
  repeat' (first
    | with_reducible assumption
    | fail_if_no_progress with_reducible refine Kept.lit ?_
    | with_reducible apply askRestart_kept
    | with_reducible refine KeptO.next ?_
    | with_reducible refine ite_keeps (P := Kept s0) ?_ ?_
    | with_reducible refine ite_keeps (P := KeptO s0) ?_ ?_)

theorem execModuleRestart_kept {s0 : State} (s : State) (hs1 : Kept s0 s) :
    KeptO s0 (execModuleRestart s) := by
  unfold execModuleRestart
  repeat' (first
    | with_reducible assumption
    | fail_if_no_progress with_reducible refine Kept.lit ?_
    | with_reducible apply runBoot_kept
    | with_reducible apply loseAll_kept
    | with_reducible refine KeptO.next ?_
    | with_reducible refine ite_keeps (P := Kept s0) ?_ ?_
    | with_reducible refine ite_keeps (P := KeptO s0) ?_ ?_
    | split)

theorem setPtp_kept {s0 : State} (s : State) (f : Ptp → Ptp) (hs1 : Kept s0 s) :
    Kept s0 (setPtp s f) := by
  unfold setPtp
  repeat' (first
    | with_reducible assumption
    | fail_if_no_progress with_reducible refine Kept.lit ?_)

theorem ptpLose_kept {s0 : State} (s : State) (hs1 : Kept s0 s) :
    Kept s0 (ptpLose s) := by
  unfold ptpLose
  repeat' (first
    | with_reducible assumption
    | fail_if_no_progress with_reducible refine Kept.lit ?_
    | with_reducible apply setPtp_kept)

theorem stepTime_kept {s0 : State} (s : State) (d : Int) (hs1 : Kept s0 s) :
    Kept s0 (stepTime s d) := by
  unfold stepTime
  repeat' (first
    | with_reducible assumption
    | with_reducible apply hf
    | fail_if_no_progress with_reducible refine Kept.lit ?_)

theorem ptpMeasure_kept {s0 : State} (s : State) (off : Int) (hs1 : Kept s0 s) :
    Kept s0 (ptpMeasure s off) := by
  unfold ptpMeasure
  repeat' (first
    | with_reducible assumption
    | fail_if_no_progress with_reducible refine Kept.lit ?_
    | with_reducible apply setPtp_kept
    | with_reducible apply stepTime_kept
    | with_reducible apply raise_kept
    | with_reducible refine KeptO.next ?_
    | with_reducible refine ite_keeps (P := Kept s0) ?_ ?_)

theorem askDelay_kept {s0 : State} (s : State) (port : Nat) (hs1 : Kept s0 s) :
    Kept s0 (askDelay s port) := by
  unfold askDelay
  repeat' (first
    | with_reducible assumption
    | fail_if_no_progress with_reducible refine Kept.lit ?_
    | with_reducible apply sendUncontrolled_kept
    | with_reducible apply setPtp_kept)

theorem takePtp_kept {s0 : State} (s : State) (port : Nat) (m : PtpMsg) (hs1 : Kept s0 s) :
    Kept s0 (takePtp s port m) := by
  unfold takePtp
  repeat' (first
    | with_reducible assumption
    | fail_if_no_progress with_reducible refine Kept.lit ?_
    | with_reducible apply setPtp_kept
    | with_reducible apply ptpLose_kept
    | with_reducible apply askDelay_kept
    | with_reducible apply ptpMeasure_kept
    | with_reducible refine KeptO.next ?_
    | with_reducible refine ite_keeps (P := Kept s0) ?_ ?_
    | with_reducible refine ite_keeps (P := KeptO s0) ?_ ?_
    | (intro y; intros)
    | (extract_lets +onlyGivenNames z; refine both (A := Kept s0 z) ?_ (fun hz => ?_) <;> [(dsimp -zeta only [z]; clear z); clear_value z])
    | (extract_lets +onlyGivenNames z; clear_value z)
    | split)

theorem execPtpMessage_kept {s0 : State} (f : RxFrame) (m : PtpMsg) (s : State) (hs1 : Kept s0 s) :
    KeptO s0 (execPtpMessage f m s) := by
  unfold execPtpMessage
  repeat' (first
    | with_reducible assumption
    | fail_if_no_progress with_reducible refine Kept.lit ?_
    | with_reducible apply portTakes_kept
    | with_reducible apply count_kept
    | with_reducible apply takePtp_kept
    | with_reducible refine KeptO.next ?_
    | with_reducible refine ite_keeps (P := Kept s0) ?_ ?_
    | with_reducible refine ite_keeps (P := KeptO s0) ?_ ?_
    | (intro y; intros)
    | split)

theorem execPtpTransmitterLost_kept {s0 : State} (s : State) (hs1 : Kept s0 s) :
    KeptO s0 (execPtpTransmitterLost s) := by
  unfold execPtpTransmitterLost
  repeat' (first
    | with_reducible assumption
    | fail_if_no_progress with_reducible refine Kept.lit ?_
    | with_reducible apply ptpLose_kept
    | with_reducible refine KeptO.next ?_)

end Sys2Proof.Laws
end

