-- ==== Sys2Proof/Laws/KeptRegisters.lean ====
section
/-! SUPPORT. What the functions of Machine/Registers.lean keep: the waiting commands and memory's canonical form. -/

namespace Sys2Proof.Laws

open Sys2Proof Sys2Proof.Machine

theorem execRegRead_kept {s0 : State} (h : Hdr) (addr : Nat) (count : Nat) (s : State) (hs1 : Kept s0 s) :
    KeptO s0 (execRegRead h addr count s) := by
  unfold execRegRead
  repeat' (first
    | with_reducible assumption
    | fail_if_no_progress with_reducible refine Kept.lit ?_
    | with_reducible apply hostCmd_kept
    | with_reducible apply count_kept
    | with_reducible apply reply_kept
    | with_reducible refine KeptO.next ?_
    | with_reducible refine ite_keeps (P := Kept s0) ?_ ?_
    | with_reducible refine ite_keeps (P := KeptO s0) ?_ ?_
    | (intro y; intros))

theorem regReply_kept {s0 : State} (s : State) (h : Hdr) (r : Reg) (hs1 : Kept s0 s) :
    Kept s0 (regReply s h r) := by
  unfold regReply
  repeat' (first
    | with_reducible assumption
    | fail_if_no_progress with_reducible refine Kept.lit ?_
    | with_reducible apply reply_kept)

theorem writePortCtrl_kept {s0 : State} (s : State) (h : Hdr) (n : Nat) (mask : BitVec 64) (value : BitVec 64) (hs1 : Kept s0 s) :
    Kept s0 (writePortCtrl s h n mask value) := by
  unfold writePortCtrl
  repeat' (first
    | with_reducible assumption
    | fail_if_no_progress with_reducible refine Kept.lit ?_
    | with_reducible apply regReply_kept
    | with_reducible apply dropPort_kept
    | with_reducible apply measureCfg_kept
    | with_reducible apply settleMode_kept
    | with_reducible refine KeptO.next ?_
    | with_reducible refine ite_keeps (P := Kept s0) ?_ ?_)

theorem writeFrdCtrl_kept {s0 : State} (s : State) (h : Hdr) (n : Nat) (mask : BitVec 64) (value : BitVec 64) (hs1 : Kept s0 s) :
    Kept s0 (writeFrdCtrl s h n mask value) := by
  unfold writeFrdCtrl
  repeat' (first
    | with_reducible assumption
    | fail_if_no_progress with_reducible refine Kept.lit ?_
    | with_reducible apply reply_kept
    | with_reducible apply setFord_kept
    | with_reducible apply fordDown_kept
    | with_reducible apply regReply_kept
    | with_reducible refine KeptO.next ?_
    | with_reducible refine ite_keeps (P := Kept s0) ?_ ?_)

theorem writeFwCtrl_kept {s0 : State} (s : State) (h : Hdr) (mask : BitVec 64) (value : BitVec 64) (hs1 : Kept s0 s) :
    Kept s0 (writeFwCtrl s h mask value) := by
  unfold writeFwCtrl
  repeat' (first
    | with_reducible assumption
    | fail_if_no_progress with_reducible refine Kept.lit ?_
    | with_reducible apply reply_kept
    | with_reducible apply confirmFw_kept
    | with_reducible apply regReply_kept
    | with_reducible apply askRestart_kept
    | with_reducible refine KeptO.next ?_
    | with_reducible refine ite_keeps (P := Kept s0) ?_ ?_)

theorem writeBootCfg_kept {s0 : State} (s : State) (h : Hdr) (mask : BitVec 64) (value : BitVec 64) (hs1 : Kept s0 s) :
    Kept s0 (writeBootCfg s h mask value) := by
  unfold writeBootCfg
  repeat' (first
    | with_reducible assumption
    | fail_if_no_progress with_reducible refine Kept.lit ?_
    | with_reducible apply reply_kept
    | with_reducible apply storeWriteNow_kept
    | with_reducible apply regReply_kept
    | with_reducible refine KeptO.next ?_
    | with_reducible refine ite_keeps (P := Kept s0) ?_ ?_)

theorem writeReg_kept {s0 : State} (s : State) (h : Hdr) (mask : BitVec 64) (value : BitVec 64) (z0 : Reg) (hs1 : Kept s0 s) :
    Kept s0 (writeReg s h mask value z0) := by
  unfold writeReg
  repeat' (first
    | with_reducible assumption
    | fail_if_no_progress with_reducible refine Kept.lit ?_
    | with_reducible apply writeBootCfg_kept
    | with_reducible apply writeFwCtrl_kept
    | with_reducible apply regReply_kept
    | with_reducible apply setLimitCfg_kept
    | with_reducible apply writePortCtrl_kept
    | with_reducible apply ptpLose_kept
    | with_reducible apply setPtp_kept
    | with_reducible apply setLink_kept
    | with_reducible apply writeFrdCtrl_kept
    | with_reducible refine KeptO.next ?_
    | with_reducible refine ite_keeps (P := Kept s0) ?_ ?_
    | with_reducible refine ite_keeps (P := KeptO s0) ?_ ?_
    | (intro y; intros)
    | (extract_lets +onlyGivenNames z; refine both (A := Kept s0 z) ?_ (fun hz => ?_) <;> [(dsimp -zeta only [z]; clear z); clear_value z])
    | (extract_lets +onlyGivenNames z; clear_value z)
    | split)

theorem regWriteAt_kept {s0 : State} (s : State) (h : Hdr) (addr : Nat) (mask : BitVec 64) (value : BitVec 64) (hs1 : Kept s0 s) :
    KeptO s0 (regWriteAt s h addr mask value) := by
  unfold regWriteAt
  repeat' (first
    | with_reducible assumption
    | fail_if_no_progress with_reducible refine Kept.lit ?_
    | with_reducible apply hostCmd_kept
    | with_reducible apply reply_kept
    | with_reducible apply writeReg_kept
    | with_reducible refine KeptO.next ?_
    | with_reducible refine ite_keeps (P := Kept s0) ?_ ?_
    | with_reducible refine ite_keeps (P := KeptO s0) ?_ ?_
    | (intro y; intros)
    | split)

theorem execRegWrite_kept {s0 : State} (h : Hdr) (addr : Nat) (mask : BitVec 64) (value : BitVec 64) (s : State) (hs1 : Kept s0 s) :
    KeptO s0 (execRegWrite h addr mask value s) := by
  unfold execRegWrite
  repeat' (first
    | with_reducible assumption
    | fail_if_no_progress with_reducible refine Kept.lit ?_
    | with_reducible apply regWriteAt_kept)

theorem execEthPortCtrlWrite_kept {s0 : State} (h : Hdr) (n : Nat) (mask : BitVec 64) (value : BitVec 64) (s : State) (hs1 : Kept s0 s) :
    KeptO s0 (execEthPortCtrlWrite h n mask value s) := by
  unfold execEthPortCtrlWrite
  repeat' (first
    | with_reducible assumption
    | fail_if_no_progress with_reducible refine Kept.lit ?_
    | with_reducible apply regWriteAt_kept
    | with_reducible refine KeptO.next ?_
    | with_reducible refine ite_keeps (P := Kept s0) ?_ ?_
    | with_reducible refine ite_keeps (P := KeptO s0) ?_ ?_)

theorem execFrdEnableWrite_kept {s0 : State} (h : Hdr) (ford : Nat) (mask : BitVec 64) (value : BitVec 64) (s : State) (hs1 : Kept s0 s) :
    KeptO s0 (execFrdEnableWrite h ford mask value s) := by
  unfold execFrdEnableWrite
  repeat' (first
    | with_reducible assumption
    | fail_if_no_progress with_reducible refine Kept.lit ?_
    | with_reducible apply regWriteAt_kept
    | with_reducible refine KeptO.next ?_
    | with_reducible refine ite_keeps (P := Kept s0) ?_ ?_
    | with_reducible refine ite_keeps (P := KeptO s0) ?_ ?_)

theorem execFrdRetrain_kept {s0 : State} (h : Hdr) (ford : Nat) (mask : BitVec 64) (value : BitVec 64) (s : State) (hs1 : Kept s0 s) :
    KeptO s0 (execFrdRetrain h ford mask value s) := by
  unfold execFrdRetrain
  repeat' (first
    | with_reducible assumption
    | fail_if_no_progress with_reducible refine Kept.lit ?_
    | with_reducible apply regWriteAt_kept
    | with_reducible refine KeptO.next ?_
    | with_reducible refine ite_keeps (P := Kept s0) ?_ ?_
    | with_reducible refine ite_keeps (P := KeptO s0) ?_ ?_)

theorem execFrdClrCnt_kept {s0 : State} (h : Hdr) (ford : Nat) (mask : BitVec 64) (value : BitVec 64) (s : State) (hs1 : Kept s0 s) :
    KeptO s0 (execFrdClrCnt h ford mask value s) := by
  unfold execFrdClrCnt
  repeat' (first
    | with_reducible assumption
    | fail_if_no_progress with_reducible refine Kept.lit ?_
    | with_reducible apply regWriteAt_kept
    | with_reducible refine KeptO.next ?_
    | with_reducible refine ite_keeps (P := Kept s0) ?_ ?_
    | with_reducible refine ite_keeps (P := KeptO s0) ?_ ?_)

theorem execRestart_kept {s0 : State} (h : Hdr) (mask : BitVec 64) (value : BitVec 64) (s : State) (hs1 : Kept s0 s) :
    KeptO s0 (execRestart h mask value s) := by
  unfold execRestart
  repeat' (first
    | with_reducible assumption
    | fail_if_no_progress with_reducible refine Kept.lit ?_
    | with_reducible apply regWriteAt_kept)

theorem execConfirm_kept {s0 : State} (h : Hdr) (mask : BitVec 64) (value : BitVec 64) (s : State) (hs1 : Kept s0 s) :
    KeptO s0 (execConfirm h mask value s) := by
  unfold execConfirm
  repeat' (first
    | with_reducible assumption
    | fail_if_no_progress with_reducible refine Kept.lit ?_
    | with_reducible apply regWriteAt_kept)

theorem execStwBootCfgWrite_kept {s0 : State} (h : Hdr) (mask : BitVec 64) (value : BitVec 64) (s : State) (hs1 : Kept s0 s) :
    KeptO s0 (execStwBootCfgWrite h mask value s) := by
  unfold execStwBootCfgWrite
  repeat' (first
    | with_reducible assumption
    | fail_if_no_progress with_reducible refine Kept.lit ?_
    | with_reducible apply regWriteAt_kept)

theorem execPwrLimitCfgWrite_kept {s0 : State} (h : Hdr) (mask : BitVec 64) (value : BitVec 64) (s : State) (hs1 : Kept s0 s) :
    KeptO s0 (execPwrLimitCfgWrite h mask value s) := by
  unfold execPwrLimitCfgWrite
  repeat' (first
    | with_reducible assumption
    | fail_if_no_progress with_reducible refine Kept.lit ?_
    | with_reducible apply regWriteAt_kept)

end Sys2Proof.Laws
end

