-- ==== Sys2Proof/Laws/KeptMgmt.lean ====
section
/-! SUPPORT. What the functions of Machine/Mgmt.lean keep: the waiting commands and memory's canonical form. -/

namespace Sys2Proof.Laws

open Sys2Proof Sys2Proof.Machine

theorem setMgmt_kept {s0 : State} (s : State) (f : Mgmt → Mgmt) (hs1 : Kept s0 s) :
    Kept s0 (setMgmt s f) := by
  unfold setMgmt
  repeat' (first
    | with_reducible assumption
    | fail_if_no_progress with_reducible refine Kept.lit ?_)

theorem mgReply_kept {s0 : State} (s : State) (status : Nat) (data : List Byte) (hs1 : Kept s0 s) :
    Kept s0 (mgReply s status data) := by
  unfold mgReply
  repeat' (first
    | with_reducible assumption
    | fail_if_no_progress with_reducible refine Kept.lit ?_
    | with_reducible apply setMgmt_kept)

theorem pecFailed_kept {s0 : State} (s : State) (hs1 : Kept s0 s) :
    Kept s0 (pecFailed s) := by
  unfold pecFailed
  repeat' (first
    | with_reducible assumption
    | fail_if_no_progress with_reducible refine Kept.lit ?_
    | with_reducible apply raise_kept
    | with_reducible apply setMgmt_kept)

theorem mgCode_kept {s0 : State} (s : State) (pec : Bool) (stages : List Nat) (body : State → State) (hs1 : Kept s0 s) (hb : ∀ s, Kept s0 s → Kept s0 (body s)) :
    KeptO s0 (mgCode s pec stages body) := by
  unfold mgCode
  repeat' (first
    | with_reducible assumption
    | apply hb
    | fail_if_no_progress with_reducible refine Kept.lit ?_
    | with_reducible apply mgReply_kept
    | with_reducible apply pecFailed_kept
    | with_reducible refine KeptO.next ?_
    | with_reducible refine ite_keeps (P := Kept s0) ?_ ?_
    | with_reducible refine ite_keeps (P := KeptO s0) ?_ ?_)

theorem execMgStatus_kept {s0 : State} (pec : Bool) (s : State) (hs1 : Kept s0 s) :
    KeptO s0 (execMgStatus pec s) := by
  unfold execMgStatus
  repeat' (first
    | with_reducible assumption
    | fail_if_no_progress with_reducible refine Kept.lit ?_
    | with_reducible apply mgCode_kept
    | with_reducible apply mgReply_kept
    | with_reducible refine KeptO.next ?_
    | with_reducible refine ite_keeps (P := Kept s0) ?_ ?_
    | with_reducible refine ite_keeps (P := KeptO s0) ?_ ?_
    | (intro y; intros))

theorem execMgSensors_kept {s0 : State} (pec : Bool) (s : State) (hs1 : Kept s0 s) :
    KeptO s0 (execMgSensors pec s) := by
  unfold execMgSensors
  repeat' (first
    | with_reducible assumption
    | fail_if_no_progress with_reducible refine Kept.lit ?_
    | with_reducible apply mgCode_kept
    | with_reducible apply mgReply_kept
    | with_reducible refine KeptO.next ?_
    | with_reducible refine ite_keeps (P := Kept s0) ?_ ?_
    | with_reducible refine ite_keeps (P := KeptO s0) ?_ ?_
    | (intro y; intros))

theorem execMgEvents_kept {s0 : State} (pec : Bool) (start : Nat) (s : State) (hs1 : Kept s0 s) :
    KeptO s0 (execMgEvents pec start s) := by
  unfold execMgEvents
  repeat' (first
    | with_reducible assumption
    | fail_if_no_progress with_reducible refine Kept.lit ?_
    | with_reducible apply mgCode_kept
    | with_reducible apply mgReply_kept
    | with_reducible refine KeptO.next ?_
    | with_reducible refine ite_keeps (P := Kept s0) ?_ ?_
    | with_reducible refine ite_keeps (P := KeptO s0) ?_ ?_
    | (intro y; intros)
    | (extract_lets +onlyGivenNames z; refine both (A := Kept s0 z) ?_ (fun hz => ?_) <;> [(dsimp -zeta only [z]; clear z); clear_value z])
    | (extract_lets +onlyGivenNames z; clear_value z)
    | split)

theorem execMgFaults_kept {s0 : State} (pec : Bool) (start : Nat) (s : State) (hs1 : Kept s0 s) :
    KeptO s0 (execMgFaults pec start s) := by
  unfold execMgFaults
  repeat' (first
    | with_reducible assumption
    | fail_if_no_progress with_reducible refine Kept.lit ?_
    | with_reducible apply mgCode_kept
    | with_reducible apply mgReply_kept
    | with_reducible refine KeptO.next ?_
    | with_reducible refine ite_keeps (P := Kept s0) ?_ ?_
    | with_reducible refine ite_keeps (P := KeptO s0) ?_ ?_
    | (intro y; intros))

theorem execMgSelftest_kept {s0 : State} (pec : Bool) (first : Nat) (s : State) (hs1 : Kept s0 s) :
    KeptO s0 (execMgSelftest pec first s) := by
  unfold execMgSelftest
  repeat' (first
    | with_reducible assumption
    | fail_if_no_progress with_reducible refine Kept.lit ?_
    | with_reducible apply mgCode_kept
    | with_reducible apply mgReply_kept
    | with_reducible refine KeptO.next ?_
    | with_reducible refine ite_keeps (P := Kept s0) ?_ ?_
    | with_reducible refine ite_keeps (P := KeptO s0) ?_ ?_
    | (intro y; intros))

theorem execMgRestart_kept {s0 : State} (pec : Bool) (s : State) (hs1 : Kept s0 s) :
    KeptO s0 (execMgRestart pec s) := by
  unfold execMgRestart
  repeat' (first
    | with_reducible assumption
    | fail_if_no_progress with_reducible refine Kept.lit ?_
    | with_reducible apply mgCode_kept
    | with_reducible apply askRestart_kept
    | with_reducible apply mgReply_kept
    | with_reducible refine KeptO.next ?_
    | with_reducible refine ite_keeps (P := Kept s0) ?_ ?_
    | with_reducible refine ite_keeps (P := KeptO s0) ?_ ?_
    | (intro y; intros))

theorem execMgWake_kept {s0 : State} (pec : Bool) (s : State) (hs1 : Kept s0 s) :
    KeptO s0 (execMgWake pec s) := by
  unfold execMgWake
  repeat' (first
    | with_reducible assumption
    | fail_if_no_progress with_reducible refine Kept.lit ?_
    | with_reducible apply mgCode_kept
    | with_reducible apply mgReply_kept
    | with_reducible apply leaveStandby_kept
    | with_reducible refine KeptO.next ?_
    | with_reducible refine ite_keeps (P := Kept s0) ?_ ?_
    | with_reducible refine ite_keeps (P := KeptO s0) ?_ ?_
    | (intro y; intros))

theorem dropHostBuf_kept {s0 : State} (s : State) (hs1 : Kept s0 s) :
    Kept s0 (dropHostBuf s) := by
  unfold dropHostBuf
  repeat' (first
    | with_reducible assumption
    | fail_if_no_progress with_reducible refine Kept.lit ?_
    | with_reducible apply setMgmt_kept)

theorem finishHosts_kept {s0 : State} (s : State) (rec : List Byte) (hs1 : Kept s0 s) :
    Kept s0 (finishHosts s rec) := by
  unfold finishHosts
  repeat' (first
    | with_reducible assumption
    | fail_if_no_progress with_reducible refine Kept.lit ?_
    | with_reducible apply dropHostBuf_kept
    | with_reducible apply mgReply_kept
    | with_reducible apply setHosts_kept
    | with_reducible refine KeptO.next ?_
    | with_reducible refine ite_keeps (P := Kept s0) ?_ ?_)

theorem execMgAdminHosts_kept {s0 : State} (pec : Bool) (offset : Nat) (piece : List Byte) (s : State) (hs1 : Kept s0 s) :
    KeptO s0 (execMgAdminHosts pec offset piece s) := by
  unfold execMgAdminHosts
  repeat' (first
    | with_reducible assumption
    | fail_if_no_progress with_reducible refine Kept.lit ?_
    | with_reducible apply mgCode_kept
    | with_reducible apply mgReply_kept
    | with_reducible apply dropHostBuf_kept
    | with_reducible apply finishHosts_kept
    | with_reducible apply setMgmt_kept
    | with_reducible refine KeptO.next ?_
    | with_reducible refine ite_keeps (P := Kept s0) ?_ ?_
    | with_reducible refine ite_keeps (P := KeptO s0) ?_ ?_
    | (intro y; intros))

theorem execMgAdminHostsTimeout_kept {s0 : State} (s : State) (hs1 : Kept s0 s) :
    KeptO s0 (execMgAdminHostsTimeout s) := by
  unfold execMgAdminHostsTimeout
  repeat' (first
    | with_reducible assumption
    | fail_if_no_progress with_reducible refine Kept.lit ?_
    | with_reducible apply dropHostBuf_kept
    | with_reducible refine KeptO.next ?_
    | with_reducible refine ite_keeps (P := Kept s0) ?_ ?_
    | with_reducible refine ite_keeps (P := KeptO s0) ?_ ?_)

theorem setAdminBit_kept {s0 : State} (s : State) (b : Nat) (on : Bool) (hs1 : Kept s0 s) :
    Kept s0 (setAdminBit s b on) := by
  unfold setAdminBit
  repeat' (first
    | with_reducible assumption
    | fail_if_no_progress with_reducible refine Kept.lit ?_
    | with_reducible apply storeWriteNow_kept
    | with_reducible refine KeptO.next ?_
    | with_reducible refine ite_keeps (P := Kept s0) ?_ ?_
    | with_reducible refine ite_keeps (P := KeptO s0) ?_ ?_
    | (intro y; intros)
    | split)

theorem moveAdmin_kept {s0 : State} (s : State) (b : Nat) (hs1 : Kept s0 s) :
    Kept s0 (moveAdmin s b) := by
  unfold moveAdmin
  repeat' (first
    | with_reducible assumption
    | fail_if_no_progress with_reducible refine Kept.lit ?_
    | with_reducible apply setAdminBit_kept
    | with_reducible apply raise_kept
    | with_reducible refine KeptO.next ?_
    | with_reducible refine ite_keeps (P := Kept s0) ?_ ?_)

theorem execMgAdminMove_kept {s0 : State} (pec : Bool) (b : Nat) (s : State) (hs1 : Kept s0 s) :
    KeptO s0 (execMgAdminMove pec b s) := by
  unfold execMgAdminMove
  repeat' (first
    | with_reducible assumption
    | fail_if_no_progress with_reducible refine Kept.lit ?_
    | with_reducible apply mgCode_kept
    | with_reducible apply mgReply_kept
    | with_reducible apply moveAdmin_kept
    | with_reducible refine KeptO.next ?_
    | with_reducible refine ite_keeps (P := Kept s0) ?_ ?_
    | with_reducible refine ite_keeps (P := KeptO s0) ?_ ?_
    | (intro y; intros))

theorem execMgImage_kept {s0 : State} (pec : Bool) (offset : Nat) (chunk : List Byte) (s : State) (hs1 : Kept s0 s) :
    KeptO s0 (execMgImage pec offset chunk s) := by
  unfold execMgImage
  repeat' (first
    | with_reducible assumption
    | fail_if_no_progress with_reducible refine Kept.lit ?_
    | with_reducible apply mgCode_kept
    | with_reducible apply mgReply_kept
    | with_reducible apply putSlotImage_kept
    | with_reducible apply setMgmt_kept
    | with_reducible refine KeptO.next ?_
    | with_reducible refine ite_keeps (P := Kept s0) ?_ ?_
    | with_reducible refine ite_keeps (P := KeptO s0) ?_ ?_
    | (intro y; intros))

theorem execMgImageCommit_kept {s0 : State} (pec : Bool) (len : Nat) (s : State) (hs1 : Kept s0 s) :
    KeptO s0 (execMgImageCommit pec len s) := by
  unfold execMgImageCommit
  repeat' (first
    | with_reducible assumption
    | fail_if_no_progress with_reducible refine Kept.lit ?_
    | with_reducible apply mgCode_kept
    | with_reducible apply setMgmt_kept
    | with_reducible apply mgReply_kept
    | with_reducible apply putSlotImage_kept
    | with_reducible apply storeWriteNow_kept
    | with_reducible apply askRestart_kept
    | with_reducible refine KeptO.next ?_
    | with_reducible refine ite_keeps (P := Kept s0) ?_ ?_
    | with_reducible refine ite_keeps (P := KeptO s0) ?_ ?_
    | (intro y; intros))

theorem execMgBusTimeout_kept {s0 : State} (s : State) (hs1 : Kept s0 s) :
    KeptO s0 (execMgBusTimeout s) := by
  unfold execMgBusTimeout
  repeat' (first
    | with_reducible assumption
    | fail_if_no_progress with_reducible refine Kept.lit ?_
    | with_reducible apply setMgmt_kept
    | with_reducible apply raise_kept
    | with_reducible refine KeptO.next ?_
    | with_reducible refine ite_keeps (P := Kept s0) ?_ ?_
    | with_reducible refine ite_keeps (P := KeptO s0) ?_ ?_)

theorem setTap_kept {s0 : State} (s : State) (ir : TapIr) (dr : List Bool) (driven : List (Option Bool)) (hs1 : Kept s0 s) :
    Kept s0 (setTap s ir dr driven) := by
  unfold setTap
  repeat' (first
    | with_reducible assumption
    | fail_if_no_progress with_reducible refine Kept.lit ?_)

theorem execBypass_kept {s0 : State} (s : State) (hs1 : Kept s0 s) :
    KeptO s0 (execBypass s) := by
  unfold execBypass
  repeat' (first
    | with_reducible assumption
    | fail_if_no_progress with_reducible refine Kept.lit ?_
    | with_reducible apply setTap_kept
    | with_reducible refine KeptO.next ?_
    | with_reducible refine ite_keeps (P := Kept s0) ?_ ?_
    | with_reducible refine ite_keeps (P := KeptO s0) ?_ ?_)

theorem execIdcode_kept {s0 : State} (s : State) (hs1 : Kept s0 s) :
    KeptO s0 (execIdcode s) := by
  unfold execIdcode
  repeat' (first
    | with_reducible assumption
    | fail_if_no_progress with_reducible refine Kept.lit ?_
    | with_reducible apply setTap_kept
    | with_reducible refine KeptO.next ?_
    | with_reducible refine ite_keeps (P := Kept s0) ?_ ?_
    | with_reducible refine ite_keeps (P := KeptO s0) ?_ ?_)

theorem execSamplePreload_kept {s0 : State} (pins : List Bool) (shifted : List Bool) (s : State) (hs1 : Kept s0 s) :
    KeptO s0 (execSamplePreload pins shifted s) := by
  unfold execSamplePreload
  repeat' (first
    | with_reducible assumption
    | fail_if_no_progress with_reducible refine Kept.lit ?_
    | with_reducible apply setTap_kept
    | with_reducible refine KeptO.next ?_
    | with_reducible refine ite_keeps (P := Kept s0) ?_ ?_
    | with_reducible refine ite_keeps (P := KeptO s0) ?_ ?_)

theorem execExtest_kept {s0 : State} (pins : List Bool) (s : State) (hs1 : Kept s0 s) :
    KeptO s0 (execExtest pins s) := by
  unfold execExtest
  repeat' (first
    | with_reducible assumption
    | fail_if_no_progress with_reducible refine Kept.lit ?_
    | with_reducible apply setTap_kept
    | with_reducible refine KeptO.next ?_
    | with_reducible refine ite_keeps (P := Kept s0) ?_ ?_
    | with_reducible refine ite_keeps (P := KeptO s0) ?_ ?_)

theorem execClamp_kept {s0 : State} (s : State) (hs1 : Kept s0 s) :
    KeptO s0 (execClamp s) := by
  unfold execClamp
  repeat' (first
    | with_reducible assumption
    | fail_if_no_progress with_reducible refine Kept.lit ?_
    | with_reducible apply setTap_kept
    | with_reducible refine KeptO.next ?_
    | with_reducible refine ite_keeps (P := Kept s0) ?_ ?_
    | with_reducible refine ite_keeps (P := KeptO s0) ?_ ?_)

theorem execHighz_kept {s0 : State} (s : State) (hs1 : Kept s0 s) :
    KeptO s0 (execHighz s) := by
  unfold execHighz
  repeat' (first
    | with_reducible assumption
    | fail_if_no_progress with_reducible refine Kept.lit ?_
    | with_reducible apply setTap_kept
    | with_reducible refine KeptO.next ?_
    | with_reducible refine ite_keeps (P := Kept s0) ?_ ?_
    | with_reducible refine ite_keeps (P := KeptO s0) ?_ ?_)

theorem execExtestPulse_kept {s0 : State} (pins : List Bool) (s : State) (hs1 : Kept s0 s) :
    KeptO s0 (execExtestPulse pins s) := by
  unfold execExtestPulse
  repeat' (first
    | with_reducible assumption
    | fail_if_no_progress with_reducible refine Kept.lit ?_
    | with_reducible apply setTap_kept
    | with_reducible refine KeptO.next ?_
    | with_reducible refine ite_keeps (P := Kept s0) ?_ ?_
    | with_reducible refine ite_keeps (P := KeptO s0) ?_ ?_)

theorem execExtestTrain_kept {s0 : State} (pins : List Bool) (s : State) (hs1 : Kept s0 s) :
    KeptO s0 (execExtestTrain pins s) := by
  unfold execExtestTrain
  repeat' (first
    | with_reducible assumption
    | fail_if_no_progress with_reducible refine Kept.lit ?_
    | with_reducible apply setTap_kept
    | with_reducible refine KeptO.next ?_
    | with_reducible refine ite_keeps (P := Kept s0) ?_ ?_
    | with_reducible refine ite_keeps (P := KeptO s0) ?_ ?_)

end Sys2Proof.Laws
end

