-- ==== Sys2Proof/Laws/Places.lean ====
section
/-! SUPPORT. Accesses of a step in its job's pools: where every byte reached lies in a granule that the job owns, an access is done, and
it leaves the pools and the step as they were. -/

namespace Sys2Proof.Laws

open Sys2Proof Sys2Proof.Machine

/-- Two states with the same steps and pools, which alone decide where a pool access goes, and the same lends. -/
structure SamePools (s u : State) : Prop where
  steps : u.steps = s.steps
  pools : u.pools = s.pools
  lends : u.tiers.lends = s.tiers.lends

theorem SamePools.refl (s : State) : SamePools s s := ⟨rfl, rfl, rfl⟩

theorem SamePools.trans {s u v : State} (h : SamePools s u) (g : SamePools u v) : SamePools s v :=
  ⟨g.steps.trans h.steps, g.pools.trans h.pools, g.lends.trans h.lends⟩

theorem SamePools.stepOf_eq {s u : State} (h : SamePools s u) (sid : Nat) : stepOf u sid = stepOf s sid := by
  unfold stepOf; rw [h.steps]

theorem SamePools.poolPlace_eq {s u : State} (h : SamePools s u) (b n addr : Nat) : poolPlace u b n addr = poolPlace s b n addr := by
  unfold poolPlace granAtAddr granOf jobOf; rw [h.pools]

theorem countUnit_same (s : State) (place field : Nat) : SamePools s (countUnit s place field) := by
  have c (set index basin f n : Nat) : SamePools s (count s set index basin f n) := by
    unfold count; split <;> exact ⟨rfl, rfl, rfl⟩
  unfold countUnit; dsimp only; split
  · exact c ..
  · split
    · exact c ..
    · exact SamePools.refl s

theorem touch_same (s : State) (b page : Nat) : SamePools s (touch s b page) := by
  unfold touch setPage; split <;> exact ⟨rfl, rfl, rfl⟩

theorem lentTraffic_same (s : State) (place : Nat) : SamePools s (lentTraffic s place) := by
  unfold lentTraffic lentUnit sendUnits
  dsimp only
  split
  · exact SamePools.refl s
  · split
    · split <;> exact ⟨rfl, rfl, rfl⟩
    · exact SamePools.refl s

/-- The step's job owns the granule of every one of these pool addresses. -/
def inPools (s : State) (t : Step) (addr : Nat) : Prop := addr < 0x18000000 ∧ (poolPlace s t.basin t.job addr).isSome = true

theorem SamePools.inPools {s u : State} {t : Step} {addr : Nat} (h : SamePools s u) (hp : inPools s t addr) : inPools u t addr :=
  ⟨hp.1, by rw [h.poolPlace_eq]; exact hp.2⟩

theorem lentRead_pool {s : State} {t : Step} {unit page addr : Nat} (h : addr < tieredBase) : lentRead s t unit page addr = (.here, s) := by
  unfold lentRead; split
  · rw [if_pos h]
  · rfl

theorem touchUnit_pool {s : State} {a : Acc3} {t : Step} {addr : Nat} (w : Bool) (ht : stepOf s a.sid = some t)
    (he : t.units.eddies = []) (hp : inPools s t addr) : ∃ p u, touchUnit s a w addr = .ok p u ∧ SamePools s u := by
  obtain ⟨hlt, hp⟩ := hp
  obtain ⟨p, hp⟩ := Option.isSome_iff_exists.1 hp
  have hw : (if w then writePlace s t addr else readPlace s t addr) = .at_ p := by
    cases w <;> simp [writePlace, readPlace, hlt, hp]
  have hn : eddyAt t addr = none := by simp [eddyAt, he]
  have hb : addr < tieredBase := Nat.lt_trans hlt (by decide)
  have hl (page : Nat) : (if w then (LentOut.here, s) else lentRead s t a.unit page addr) = (.here, s) := by
    cases w <;> simp [lentRead_pool hb]
  refine ⟨p, _, ?_, (countUnit_same s p (b2n w)).trans (touch_same _ t.basin (if w then addr / 4096 else viewPage s t (addr / 4096)))⟩
  unfold touchUnit
  simp only [ht, hn, hw, hl]

theorem readCuts_pool {a : Acc3} {t : Step} (cuts : List (Nat × Nat)) : ∀ (l : List (Nat × Nat)) (k : Nat) (acc : List Byte) (s : State),
    stepOf s a.sid = some t → t.units.eddies = [] → (∀ x ∈ l, inPools s t x.1) →
      ∃ bs u, readCuts a cuts k acc l s = .ok bs u ∧ SamePools s u
  | [], _, acc, s, _, _, _ => ⟨acc, s, rfl, SamePools.refl s⟩
  | (addr, n) :: l, k, acc, s, ht, he, hl => by
    obtain ⟨p, u, hu, su⟩ := touchUnit_pool false ht he (hl _ List.mem_cons_self)
    obtain ⟨bs, v, hv, sv⟩ := readCuts_pool (a := a) cuts l (k + 1) (acc ++ memGets u.mem p n) u ((su.stepOf_eq _).trans ht) he
      fun x hx => su.inPools (hl x (List.mem_cons_of_mem _ hx))
    exact ⟨bs, v, by simp only [readCuts, hu]; exact hv, su.trans sv⟩

theorem writeCuts_pool {a : Acc3} {t : Step} (cuts : List (Nat × Nat)) : ∀ (l : List (Nat × Nat)) (k : Nat) (bs : List Byte) (s : State),
    stepOf s a.sid = some t → t.units.eddies = [] → (∀ x ∈ l, inPools s t x.1) → ∃ u, writeCuts a cuts k l bs s = .ok () u ∧ SamePools s u
  | [], _, _, s, _, _, _ => ⟨s, by unfold writeCuts; rfl, SamePools.refl s⟩
  | (addr, n) :: l, k, bs, s, ht, he, hl => by
    obtain ⟨p, u, hu, su⟩ := touchUnit_pool true ht he (hl _ List.mem_cons_self)
    let w : State := { u with mem := memPuts u.mem p (bs.take n) }
    have sw : SamePools s (lentTraffic w p) := (su.trans (v := w) ⟨rfl, rfl, rfl⟩).trans (lentTraffic_same w p)
    obtain ⟨v, hv, sv⟩ := writeCuts_pool (a := a) cuts l (k + 1) (bs.drop n) _ ((sw.stepOf_eq _).trans ht) he
      fun x hx => sw.inPools (hl x (List.mem_cons_of_mem _ hx))
    exact ⟨v, by simp only [writeCuts, hu]; exact hv, sw.trans sv⟩

theorem unitCuts_below {x y : Nat} : ∀ (fuel addr n : Nat), x ≤ addr → addr + n ≤ y → ∀ c ∈ unitCuts fuel addr n, x ≤ c.1 ∧ c.1 < y
  | 0, _, _, _, _, c, hc => by simp [unitCuts] at hc
  | fuel + 1, addr, n, h1, h2, c, hc => by
    unfold unitCuts at hc
    split at hc
    · simp at hc
    · rename_i hn
      rcases List.mem_cons.1 hc with rfl | hc
      · exact ⟨h1, by dsimp only; omega⟩
      · exact unitCuts_below fuel _ _ (by omega) (by omega) c hc

theorem manyCuts_pool {s : State} {t : Step} {l : List (Nat × Nat)} (hl : ∀ x ∈ l, ∀ k, x.1 ≤ k → k < x.1 + x.2 → inPools s t k) :
    ∀ c ∈ manyCuts l, inPools s t c.1 := fun c hc => by
  obtain ⟨cs, hcs, hc⟩ := List.mem_flatten.1 hc
  obtain ⟨x, hx, rfl⟩ := List.mem_map.1 hcs
  have := unitCuts_below _ _ _ (Nat.le_refl _) (Nat.le_refl _) c hc
  exact hl x hx c.1 this.1 this.2

theorem find_updW {α : Type} (p : α → Bool) (f : α → α) (hf : ∀ x, p (f x) = p x) (l : List α) :
    (updW p f l).find? p = (l.find? p).map f := by
  unfold updW
  induction l with
  | nil => rfl
  | cons x l ih => cases h : p x <;> simp [h, hf, ih]

/-- A step that keeps nothing of its accesses is as it was after one ends. -/
theorem stepOf_endPiece {s : State} {a : Acc3} {t : Step} (ht : stepOf s a.sid = some t) (hn : t.units.pieces = []) :
    stepOf (endPiece s a) a.sid = some t := by
  unfold endPiece setUnits setStep stepOf
  refine (find_updW (fun t : Step => t.sid == a.sid) _ ?_ s.steps).trans ?_
  · exact fun _ => rfl
  rw [show s.steps.find? (fun t => t.sid == a.sid) = some t from ht, Option.map_some]
  have e (q : Piece → Bool) : dropW q t.units.pieces = t.units.pieces := by rw [hn]; rfl
  simp only [e]

theorem pieceOf_none {s : State} {a : Acc3} {t : Step} (ht : stepOf s a.sid = some t) (hn : t.units.pieces = []) (w : Bool)
    (cuts : List (Nat × Nat)) : pieceOf s a w cuts = none := by simp [pieceOf, ht, hn]

/-- A read of ranges of the job's pools is done. -/
theorem wideMany_pool {s : State} {a : Acc3} {t : Step} {l : List (Nat × Nat)} (ht : stepOf s a.sid = some t)
    (he : t.units.eddies = []) (hn : t.units.pieces = []) (hl : ∀ x ∈ l, ∀ k, x.1 ≤ k → k < x.1 + x.2 → inPools s t k) :
    ∃ bs u, wideMany s a l = .ok bs u ∧ stepOf u a.sid = some t ∧ u.pools = s.pools := by
  obtain ⟨bs, u, hu, su⟩ := readCuts_pool (a := a) (manyCuts l) (manyCuts l) 0 [] s ht he (manyCuts_pool hl)
  exact ⟨cutAt (l.map (·.2)) bs, endPiece u a, by simp only [wideMany, readPieces, pieceOf_none ht hn, Option.elim_none, List.drop_zero, hu],
    stepOf_endPiece ((su.stepOf_eq _).trans ht) hn, su.pools⟩

/-- Ranges of the job's pools are read, and in a step without eddies and lent memory nothing of the access is kept. -/
theorem wideHold_pool {s : State} {a : Acc3} {t : Step} {l : List (Nat × Nat)} (ht : stepOf s a.sid = some t)
    (he : t.units.eddies = []) (hn : t.units.pieces = []) (hb : s.tiers.lends = [])
    (hl : ∀ x ∈ l, ∀ k, x.1 ≤ k → k < x.1 + x.2 → inPools s t k) :
    ∃ bs u, wideHold s a l = .ok bs u ∧ stepOf u a.sid = some t ∧ u.pools = s.pools := by
  obtain ⟨bs, u, hu, su⟩ := readCuts_pool (a := a) (manyCuts l) (manyCuts l) 0 [] s ht he (manyCuts_pool hl)
  have hs : stepOf u a.sid = some t := (su.stepOf_eq _).trans ht
  exact ⟨cutAt (l.map (·.2)) bs, u, by
    simp [wideHold, readPieces, pieceOf_none ht hn, hu, hs, he, su.lends, hb], hs, su.pools⟩

theorem writePieces_pool {s : State} {a : Acc3} {t : Step} {l : List (Nat × Nat)} {bs : List Byte} (ht : stepOf s a.sid = some t)
    (he : t.units.eddies = []) (hn : t.units.pieces = []) (hl : ∀ x ∈ l, ∀ k, x.1 ≤ k → k < x.1 + x.2 → inPools s t k) :
    ∃ u, writePieces s a (manyCuts l) bs = .ok () u ∧ stepOf u a.sid = some t ∧ u.pools = s.pools := by
  obtain ⟨u, hu, su⟩ := writeCuts_pool (a := a) (manyCuts l) (manyCuts l) 0 bs s ht he (manyCuts_pool hl)
  exact ⟨endPiece u a, by simp [writePieces, pieceOf_none ht hn, hu], stepOf_endPiece ((su.stepOf_eq _).trans ht) hn, su.pools⟩

/-- A write of a range of the job's pools is done. -/
theorem wideWrite_pool {s : State} {a : Acc3} {t : Step} {addr : Nat} {bs : List Byte} (ht : stepOf s a.sid = some t)
    (he : t.units.eddies = []) (hn : t.units.pieces = []) (hl : ∀ k, addr ≤ k → k < addr + bs.length → inPools s t k) :
    ∃ u, wideWrite s a addr bs = .ok () u ∧ stepOf u a.sid = some t ∧ u.pools = s.pools :=
  writePieces_pool ht he hn fun x hx => by cases List.mem_singleton.1 hx; exact hl

/-- Writes of several ranges of the job's pools are done. -/
theorem wideWriteMany_pool {s : State} {a : Acc3} {t : Step} {l : List (Nat × List Byte)} (ht : stepOf s a.sid = some t)
    (he : t.units.eddies = []) (hn : t.units.pieces = []) (hl : ∀ x ∈ l, ∀ k, x.1 ≤ k → k < x.1 + x.2.length → inPools s t k) :
    ∃ u, wideWriteMany s a l = .ok () u ∧ stepOf u a.sid = some t ∧ u.pools = s.pools :=
  writePieces_pool ht he hn fun x hx => by obtain ⟨y, hy, rfl⟩ := List.mem_map.1 hx; exact hl y hy

end Sys2Proof.Laws
end

