-- ==== Sys2Proof/Laws/State.lean ====
section
/-! SUPPORT. The fields of State that each update leaves alone: one simp lemma for each update, a conjunction over every
other field, so that no later proof unfolds a record update. -/

namespace Sys2Proof.Machine

/-- The link of a basin: an update leaves every field but `links` alone. -/
@[simp] theorem setLink_frame (s : State) (b : Nat) (f : Link → Link) :
    (setLink s b f).pending = s.pending ∧ (setLink s b f).now = s.now ∧ (setLink s b f).freeCtr = s.freeCtr ∧
    (setLink s b f).boot = s.boot ∧ (setLink s b f).store = s.store ∧ (setLink s b f).sec = s.sec ∧ (setLink s b f).pwr = s.pwr ∧
    (setLink s b f).eth = s.eth ∧ (setLink s b f).logs = s.logs ∧ (setLink s b f).basins = s.basins ∧ (setLink s b f).admin = s.admin ∧
    (setLink s b f).runnels = s.runnels ∧ (setLink s b f).mem = s.mem ∧ (setLink s b f).pools = s.pools ∧ (setLink s b f).tiers = s.tiers ∧
    (setLink s b f).models = s.models ∧ (setLink s b f).kvs = s.kvs ∧ (setLink s b f).serving = s.serving ∧
    (setLink s b f).steps = s.steps ∧ (setLink s b f).trains = s.trains ∧ (setLink s b f).fords = s.fords ∧ (setLink s b f).mgmt = s.mgmt ∧
    (setLink s b f).tap = s.tap :=
  ⟨rfl, rfl, rfl, rfl, rfl, rfl, rfl, rfl, rfl, rfl, rfl, rfl, rfl, rfl, rfl, rfl, rfl, rfl, rfl, rfl, rfl, rfl, rfl⟩

/-- A flow of a basin: an update leaves every field but `links` alone. -/
@[simp] theorem setFlow_frame (s : State) (b f : Nat) (g : Flow → Flow) :
    (setFlow s b f g).pending = s.pending ∧ (setFlow s b f g).now = s.now ∧ (setFlow s b f g).freeCtr = s.freeCtr ∧
    (setFlow s b f g).boot = s.boot ∧ (setFlow s b f g).store = s.store ∧ (setFlow s b f g).sec = s.sec ∧ (setFlow s b f g).pwr = s.pwr ∧
    (setFlow s b f g).eth = s.eth ∧ (setFlow s b f g).logs = s.logs ∧ (setFlow s b f g).basins = s.basins ∧
    (setFlow s b f g).admin = s.admin ∧ (setFlow s b f g).runnels = s.runnels ∧ (setFlow s b f g).mem = s.mem ∧
    (setFlow s b f g).pools = s.pools ∧ (setFlow s b f g).tiers = s.tiers ∧ (setFlow s b f g).models = s.models ∧
    (setFlow s b f g).kvs = s.kvs ∧ (setFlow s b f g).serving = s.serving ∧ (setFlow s b f g).steps = s.steps ∧
    (setFlow s b f g).trains = s.trains ∧ (setFlow s b f g).fords = s.fords ∧ (setFlow s b f g).mgmt = s.mgmt ∧
    (setFlow s b f g).tap = s.tap :=
  ⟨rfl, rfl, rfl, rfl, rfl, rfl, rfl, rfl, rfl, rfl, rfl, rfl, rfl, rfl, rfl, rfl, rfl, rfl, rfl, rfl, rfl, rfl, rfl⟩

/-- A sent segment: an update leaves every field but `links` alone. -/
@[simp] theorem setSent_frame (s : State) (b f seq : Nat) (g : SentSeg → SentSeg) :
    (setSent s b f seq g).pending = s.pending ∧ (setSent s b f seq g).now = s.now ∧ (setSent s b f seq g).freeCtr = s.freeCtr ∧
    (setSent s b f seq g).boot = s.boot ∧ (setSent s b f seq g).store = s.store ∧ (setSent s b f seq g).sec = s.sec ∧
    (setSent s b f seq g).pwr = s.pwr ∧ (setSent s b f seq g).eth = s.eth ∧ (setSent s b f seq g).logs = s.logs ∧
    (setSent s b f seq g).basins = s.basins ∧ (setSent s b f seq g).admin = s.admin ∧ (setSent s b f seq g).runnels = s.runnels ∧
    (setSent s b f seq g).mem = s.mem ∧ (setSent s b f seq g).pools = s.pools ∧ (setSent s b f seq g).tiers = s.tiers ∧
    (setSent s b f seq g).models = s.models ∧ (setSent s b f seq g).kvs = s.kvs ∧ (setSent s b f seq g).serving = s.serving ∧
    (setSent s b f seq g).steps = s.steps ∧ (setSent s b f seq g).trains = s.trains ∧ (setSent s b f seq g).fords = s.fords ∧
    (setSent s b f seq g).mgmt = s.mgmt ∧ (setSent s b f seq g).tap = s.tap :=
  ⟨rfl, rfl, rfl, rfl, rfl, rfl, rfl, rfl, rfl, rfl, rfl, rfl, rfl, rfl, rfl, rfl, rfl, rfl, rfl, rfl, rfl, rfl, rfl⟩

/-- A page's entry: an update leaves every field but `tiers` alone. -/
@[simp] theorem setPage_frame (s : State) (b p : Nat) (f : PageEnt → PageEnt) :
    (setPage s b p f).pending = s.pending ∧ (setPage s b p f).now = s.now ∧ (setPage s b p f).freeCtr = s.freeCtr ∧
    (setPage s b p f).boot = s.boot ∧ (setPage s b p f).store = s.store ∧ (setPage s b p f).sec = s.sec ∧ (setPage s b p f).pwr = s.pwr ∧
    (setPage s b p f).eth = s.eth ∧ (setPage s b p f).links = s.links ∧ (setPage s b p f).logs = s.logs ∧
    (setPage s b p f).basins = s.basins ∧ (setPage s b p f).admin = s.admin ∧ (setPage s b p f).runnels = s.runnels ∧
    (setPage s b p f).mem = s.mem ∧ (setPage s b p f).pools = s.pools ∧ (setPage s b p f).models = s.models ∧
    (setPage s b p f).kvs = s.kvs ∧ (setPage s b p f).serving = s.serving ∧ (setPage s b p f).steps = s.steps ∧
    (setPage s b p f).trains = s.trains ∧ (setPage s b p f).fords = s.fords ∧ (setPage s b p f).mgmt = s.mgmt ∧
    (setPage s b p f).tap = s.tap :=
  ⟨rfl, rfl, rfl, rfl, rfl, rfl, rfl, rfl, rfl, rfl, rfl, rfl, rfl, rfl, rfl, rfl, rfl, rfl, rfl, rfl, rfl, rfl, rfl⟩

/-- A granule: an update leaves every field but `pools` alone. -/
@[simp] theorem setGran_frame (s : State) (g : Nat) (st : GState) (b j : Nat) :
    (setGran s g st b j).pending = s.pending ∧ (setGran s g st b j).now = s.now ∧ (setGran s g st b j).freeCtr = s.freeCtr ∧
    (setGran s g st b j).boot = s.boot ∧ (setGran s g st b j).store = s.store ∧ (setGran s g st b j).sec = s.sec ∧
    (setGran s g st b j).pwr = s.pwr ∧ (setGran s g st b j).eth = s.eth ∧ (setGran s g st b j).links = s.links ∧
    (setGran s g st b j).logs = s.logs ∧ (setGran s g st b j).basins = s.basins ∧ (setGran s g st b j).admin = s.admin ∧
    (setGran s g st b j).runnels = s.runnels ∧ (setGran s g st b j).mem = s.mem ∧ (setGran s g st b j).tiers = s.tiers ∧
    (setGran s g st b j).models = s.models ∧ (setGran s g st b j).kvs = s.kvs ∧ (setGran s g st b j).serving = s.serving ∧
    (setGran s g st b j).steps = s.steps ∧ (setGran s g st b j).trains = s.trains ∧ (setGran s g st b j).fords = s.fords ∧
    (setGran s g st b j).mgmt = s.mgmt ∧ (setGran s g st b j).tap = s.tap :=
  ⟨rfl, rfl, rfl, rfl, rfl, rfl, rfl, rfl, rfl, rfl, rfl, rfl, rfl, rfl, rfl, rfl, rfl, rfl, rfl, rfl, rfl, rfl, rfl⟩

/-- A job: an update leaves every field but `pools` alone. -/
@[simp] theorem setJob_frame (s : State) (b n : Nat) (f : Job → Job) :
    (setJob s b n f).pending = s.pending ∧ (setJob s b n f).now = s.now ∧ (setJob s b n f).freeCtr = s.freeCtr ∧
    (setJob s b n f).boot = s.boot ∧ (setJob s b n f).store = s.store ∧ (setJob s b n f).sec = s.sec ∧ (setJob s b n f).pwr = s.pwr ∧
    (setJob s b n f).eth = s.eth ∧ (setJob s b n f).links = s.links ∧ (setJob s b n f).logs = s.logs ∧ (setJob s b n f).basins = s.basins ∧
    (setJob s b n f).admin = s.admin ∧ (setJob s b n f).runnels = s.runnels ∧ (setJob s b n f).mem = s.mem ∧
    (setJob s b n f).tiers = s.tiers ∧ (setJob s b n f).models = s.models ∧ (setJob s b n f).kvs = s.kvs ∧
    (setJob s b n f).serving = s.serving ∧ (setJob s b n f).steps = s.steps ∧ (setJob s b n f).trains = s.trains ∧
    (setJob s b n f).fords = s.fords ∧ (setJob s b n f).mgmt = s.mgmt ∧ (setJob s b n f).tap = s.tap :=
  ⟨rfl, rfl, rfl, rfl, rfl, rfl, rfl, rfl, rfl, rfl, rfl, rfl, rfl, rfl, rfl, rfl, rfl, rfl, rfl, rfl, rfl, rfl, rfl⟩

/-- A power domain: an update leaves every field but `pwr` alone. -/
@[simp] theorem setDom_frame (s : State) (d : Nat) (f : Dom → Dom) :
    (setDom s d f).pending = s.pending ∧ (setDom s d f).now = s.now ∧ (setDom s d f).freeCtr = s.freeCtr ∧ (setDom s d f).boot = s.boot ∧
    (setDom s d f).store = s.store ∧ (setDom s d f).sec = s.sec ∧ (setDom s d f).eth = s.eth ∧ (setDom s d f).links = s.links ∧
    (setDom s d f).logs = s.logs ∧ (setDom s d f).basins = s.basins ∧ (setDom s d f).admin = s.admin ∧ (setDom s d f).runnels = s.runnels ∧
    (setDom s d f).mem = s.mem ∧ (setDom s d f).pools = s.pools ∧ (setDom s d f).tiers = s.tiers ∧ (setDom s d f).models = s.models ∧
    (setDom s d f).kvs = s.kvs ∧ (setDom s d f).serving = s.serving ∧ (setDom s d f).steps = s.steps ∧ (setDom s d f).trains = s.trains ∧
    (setDom s d f).fords = s.fords ∧ (setDom s d f).mgmt = s.mgmt ∧ (setDom s d f).tap = s.tap :=
  ⟨rfl, rfl, rfl, rfl, rfl, rfl, rfl, rfl, rfl, rfl, rfl, rfl, rfl, rfl, rfl, rfl, rfl, rfl, rfl, rfl, rfl, rfl, rfl⟩

/-- An endpoint of the hub: an update leaves every field but `runnels` alone. -/
@[simp] theorem setEnd_frame (s : State) (n : Nat) (f : Endpoint → Endpoint) :
    (setEnd s n f).pending = s.pending ∧ (setEnd s n f).now = s.now ∧ (setEnd s n f).freeCtr = s.freeCtr ∧ (setEnd s n f).boot = s.boot ∧
    (setEnd s n f).store = s.store ∧ (setEnd s n f).sec = s.sec ∧ (setEnd s n f).pwr = s.pwr ∧ (setEnd s n f).eth = s.eth ∧
    (setEnd s n f).links = s.links ∧ (setEnd s n f).logs = s.logs ∧ (setEnd s n f).basins = s.basins ∧ (setEnd s n f).admin = s.admin ∧
    (setEnd s n f).mem = s.mem ∧ (setEnd s n f).pools = s.pools ∧ (setEnd s n f).tiers = s.tiers ∧ (setEnd s n f).models = s.models ∧
    (setEnd s n f).kvs = s.kvs ∧ (setEnd s n f).serving = s.serving ∧ (setEnd s n f).steps = s.steps ∧ (setEnd s n f).trains = s.trains ∧
    (setEnd s n f).fords = s.fords ∧ (setEnd s n f).mgmt = s.mgmt ∧ (setEnd s n f).tap = s.tap :=
  ⟨rfl, rfl, rfl, rfl, rfl, rfl, rfl, rfl, rfl, rfl, rfl, rfl, rfl, rfl, rfl, rfl, rfl, rfl, rfl, rfl, rfl, rfl, rfl⟩

/-- A model: an update leaves every field but `models` alone. -/
@[simp] theorem setModel_frame (s : State) (b m : Nat) (f : Model → Model) :
    (setModel s b m f).pending = s.pending ∧ (setModel s b m f).now = s.now ∧ (setModel s b m f).freeCtr = s.freeCtr ∧
    (setModel s b m f).boot = s.boot ∧ (setModel s b m f).store = s.store ∧ (setModel s b m f).sec = s.sec ∧
    (setModel s b m f).pwr = s.pwr ∧ (setModel s b m f).eth = s.eth ∧ (setModel s b m f).links = s.links ∧
    (setModel s b m f).logs = s.logs ∧ (setModel s b m f).basins = s.basins ∧ (setModel s b m f).admin = s.admin ∧
    (setModel s b m f).runnels = s.runnels ∧ (setModel s b m f).mem = s.mem ∧ (setModel s b m f).pools = s.pools ∧
    (setModel s b m f).tiers = s.tiers ∧ (setModel s b m f).kvs = s.kvs ∧ (setModel s b m f).serving = s.serving ∧
    (setModel s b m f).steps = s.steps ∧ (setModel s b m f).trains = s.trains ∧ (setModel s b m f).fords = s.fords ∧
    (setModel s b m f).mgmt = s.mgmt ∧ (setModel s b m f).tap = s.tap :=
  ⟨rfl, rfl, rfl, rfl, rfl, rfl, rfl, rfl, rfl, rfl, rfl, rfl, rfl, rfl, rfl, rfl, rfl, rfl, rfl, rfl, rfl, rfl, rfl⟩

/-- A variant: an update leaves every field but `models` alone. -/
@[simp] theorem setVariant_frame (s : State) (b v : Nat) (f : Variant → Variant) :
    (setVariant s b v f).pending = s.pending ∧ (setVariant s b v f).now = s.now ∧ (setVariant s b v f).freeCtr = s.freeCtr ∧
    (setVariant s b v f).boot = s.boot ∧ (setVariant s b v f).store = s.store ∧ (setVariant s b v f).sec = s.sec ∧
    (setVariant s b v f).pwr = s.pwr ∧ (setVariant s b v f).eth = s.eth ∧ (setVariant s b v f).links = s.links ∧
    (setVariant s b v f).logs = s.logs ∧ (setVariant s b v f).basins = s.basins ∧ (setVariant s b v f).admin = s.admin ∧
    (setVariant s b v f).runnels = s.runnels ∧ (setVariant s b v f).mem = s.mem ∧ (setVariant s b v f).pools = s.pools ∧
    (setVariant s b v f).tiers = s.tiers ∧ (setVariant s b v f).kvs = s.kvs ∧ (setVariant s b v f).serving = s.serving ∧
    (setVariant s b v f).steps = s.steps ∧ (setVariant s b v f).trains = s.trains ∧ (setVariant s b v f).fords = s.fords ∧
    (setVariant s b v f).mgmt = s.mgmt ∧ (setVariant s b v f).tap = s.tap :=
  ⟨rfl, rfl, rfl, rfl, rfl, rfl, rfl, rfl, rfl, rfl, rfl, rfl, rfl, rfl, rfl, rfl, rfl, rfl, rfl, rfl, rfl, rfl, rfl⟩

/-- The KV store of a basin: an update leaves every field but `kvs` alone. -/
@[simp] theorem setKv_frame (s : State) (b : Nat) (f : Kv → Kv) :
    (setKv s b f).pending = s.pending ∧ (setKv s b f).now = s.now ∧ (setKv s b f).freeCtr = s.freeCtr ∧ (setKv s b f).boot = s.boot ∧
    (setKv s b f).store = s.store ∧ (setKv s b f).sec = s.sec ∧ (setKv s b f).pwr = s.pwr ∧ (setKv s b f).eth = s.eth ∧
    (setKv s b f).links = s.links ∧ (setKv s b f).logs = s.logs ∧ (setKv s b f).basins = s.basins ∧ (setKv s b f).admin = s.admin ∧
    (setKv s b f).runnels = s.runnels ∧ (setKv s b f).mem = s.mem ∧ (setKv s b f).pools = s.pools ∧ (setKv s b f).tiers = s.tiers ∧
    (setKv s b f).models = s.models ∧ (setKv s b f).serving = s.serving ∧ (setKv s b f).steps = s.steps ∧ (setKv s b f).trains = s.trains ∧
    (setKv s b f).fords = s.fords ∧ (setKv s b f).mgmt = s.mgmt ∧ (setKv s b f).tap = s.tap :=
  ⟨rfl, rfl, rfl, rfl, rfl, rfl, rfl, rfl, rfl, rfl, rfl, rfl, rfl, rfl, rfl, rfl, rfl, rfl, rfl, rfl, rfl, rfl, rfl⟩

/-- A page row: an update leaves every field but `kvs` alone. -/
@[simp] theorem setRow_frame (s : State) (b i : Nat) (f : Row → Row) :
    (setRow s b i f).pending = s.pending ∧ (setRow s b i f).now = s.now ∧ (setRow s b i f).freeCtr = s.freeCtr ∧
    (setRow s b i f).boot = s.boot ∧ (setRow s b i f).store = s.store ∧ (setRow s b i f).sec = s.sec ∧ (setRow s b i f).pwr = s.pwr ∧
    (setRow s b i f).eth = s.eth ∧ (setRow s b i f).links = s.links ∧ (setRow s b i f).logs = s.logs ∧ (setRow s b i f).basins = s.basins ∧
    (setRow s b i f).admin = s.admin ∧ (setRow s b i f).runnels = s.runnels ∧ (setRow s b i f).mem = s.mem ∧
    (setRow s b i f).pools = s.pools ∧ (setRow s b i f).tiers = s.tiers ∧ (setRow s b i f).models = s.models ∧
    (setRow s b i f).serving = s.serving ∧ (setRow s b i f).steps = s.steps ∧ (setRow s b i f).trains = s.trains ∧
    (setRow s b i f).fords = s.fords ∧ (setRow s b i f).mgmt = s.mgmt ∧ (setRow s b i f).tap = s.tap :=
  ⟨rfl, rfl, rfl, rfl, rfl, rfl, rfl, rfl, rfl, rfl, rfl, rfl, rfl, rfl, rfl, rfl, rfl, rfl, rfl, rfl, rfl, rfl, rfl⟩

/-- A training object: an update leaves every field but `trains` alone. -/
@[simp] theorem setTrain_frame (s : State) (b t : Nat) (f : Train → Train) :
    (setTrain s b t f).pending = s.pending ∧ (setTrain s b t f).now = s.now ∧ (setTrain s b t f).freeCtr = s.freeCtr ∧
    (setTrain s b t f).boot = s.boot ∧ (setTrain s b t f).store = s.store ∧ (setTrain s b t f).sec = s.sec ∧
    (setTrain s b t f).pwr = s.pwr ∧ (setTrain s b t f).eth = s.eth ∧ (setTrain s b t f).links = s.links ∧
    (setTrain s b t f).logs = s.logs ∧ (setTrain s b t f).basins = s.basins ∧ (setTrain s b t f).admin = s.admin ∧
    (setTrain s b t f).runnels = s.runnels ∧ (setTrain s b t f).mem = s.mem ∧ (setTrain s b t f).pools = s.pools ∧
    (setTrain s b t f).tiers = s.tiers ∧ (setTrain s b t f).models = s.models ∧ (setTrain s b t f).kvs = s.kvs ∧
    (setTrain s b t f).serving = s.serving ∧ (setTrain s b t f).steps = s.steps ∧ (setTrain s b t f).fords = s.fords ∧
    (setTrain s b t f).mgmt = s.mgmt ∧ (setTrain s b t f).tap = s.tap :=
  ⟨rfl, rfl, rfl, rfl, rfl, rfl, rfl, rfl, rfl, rfl, rfl, rfl, rfl, rfl, rfl, rfl, rfl, rfl, rfl, rfl, rfl, rfl, rfl⟩

/-- A request: an update leaves every field but `serving` alone. -/
@[simp] theorem setReq_frame (s : State) (b t : Nat) (f : Request → Request) :
    (setReq s b t f).pending = s.pending ∧ (setReq s b t f).now = s.now ∧ (setReq s b t f).freeCtr = s.freeCtr ∧
    (setReq s b t f).boot = s.boot ∧ (setReq s b t f).store = s.store ∧ (setReq s b t f).sec = s.sec ∧ (setReq s b t f).pwr = s.pwr ∧
    (setReq s b t f).eth = s.eth ∧ (setReq s b t f).links = s.links ∧ (setReq s b t f).logs = s.logs ∧ (setReq s b t f).basins = s.basins ∧
    (setReq s b t f).admin = s.admin ∧ (setReq s b t f).runnels = s.runnels ∧ (setReq s b t f).mem = s.mem ∧
    (setReq s b t f).pools = s.pools ∧ (setReq s b t f).tiers = s.tiers ∧ (setReq s b t f).models = s.models ∧
    (setReq s b t f).kvs = s.kvs ∧ (setReq s b t f).steps = s.steps ∧ (setReq s b t f).trains = s.trains ∧
    (setReq s b t f).fords = s.fords ∧ (setReq s b t f).mgmt = s.mgmt ∧ (setReq s b t f).tap = s.tap :=
  ⟨rfl, rfl, rfl, rfl, rfl, rfl, rfl, rfl, rfl, rfl, rfl, rfl, rfl, rfl, rfl, rfl, rfl, rfl, rfl, rfl, rfl, rfl, rfl⟩

/-- A group: an update leaves every field but `serving` alone. -/
@[simp] theorem setGroup_frame (s : State) (b g : Nat) (f : Group → Group) :
    (setGroup s b g f).pending = s.pending ∧ (setGroup s b g f).now = s.now ∧ (setGroup s b g f).freeCtr = s.freeCtr ∧
    (setGroup s b g f).boot = s.boot ∧ (setGroup s b g f).store = s.store ∧ (setGroup s b g f).sec = s.sec ∧
    (setGroup s b g f).pwr = s.pwr ∧ (setGroup s b g f).eth = s.eth ∧ (setGroup s b g f).links = s.links ∧
    (setGroup s b g f).logs = s.logs ∧ (setGroup s b g f).basins = s.basins ∧ (setGroup s b g f).admin = s.admin ∧
    (setGroup s b g f).runnels = s.runnels ∧ (setGroup s b g f).mem = s.mem ∧ (setGroup s b g f).pools = s.pools ∧
    (setGroup s b g f).tiers = s.tiers ∧ (setGroup s b g f).models = s.models ∧ (setGroup s b g f).kvs = s.kvs ∧
    (setGroup s b g f).steps = s.steps ∧ (setGroup s b g f).trains = s.trains ∧ (setGroup s b g f).fords = s.fords ∧
    (setGroup s b g f).mgmt = s.mgmt ∧ (setGroup s b g f).tap = s.tap :=
  ⟨rfl, rfl, rfl, rfl, rfl, rfl, rfl, rfl, rfl, rfl, rfl, rfl, rfl, rfl, rfl, rfl, rfl, rfl, rfl, rfl, rfl, rfl, rfl⟩

/-- A step: an update leaves every field but `steps` alone. -/
@[simp] theorem setStep_frame (s : State) (n : Nat) (f : Step → Step) :
    (setStep s n f).pending = s.pending ∧ (setStep s n f).now = s.now ∧ (setStep s n f).freeCtr = s.freeCtr ∧
    (setStep s n f).boot = s.boot ∧ (setStep s n f).store = s.store ∧ (setStep s n f).sec = s.sec ∧ (setStep s n f).pwr = s.pwr ∧
    (setStep s n f).eth = s.eth ∧ (setStep s n f).links = s.links ∧ (setStep s n f).logs = s.logs ∧ (setStep s n f).basins = s.basins ∧
    (setStep s n f).admin = s.admin ∧ (setStep s n f).runnels = s.runnels ∧ (setStep s n f).mem = s.mem ∧ (setStep s n f).pools = s.pools ∧
    (setStep s n f).tiers = s.tiers ∧ (setStep s n f).models = s.models ∧ (setStep s n f).kvs = s.kvs ∧
    (setStep s n f).serving = s.serving ∧ (setStep s n f).trains = s.trains ∧ (setStep s n f).fords = s.fords ∧
    (setStep s n f).mgmt = s.mgmt ∧ (setStep s n f).tap = s.tap :=
  ⟨rfl, rfl, rfl, rfl, rfl, rfl, rfl, rfl, rfl, rfl, rfl, rfl, rfl, rfl, rfl, rfl, rfl, rfl, rfl, rfl, rfl, rfl, rfl⟩

/-- The units of a step: an update leaves every field but `steps` alone. -/
@[simp] theorem setUnits_frame (s : State) (n : Nat) (f : Units → Units) :
    (setUnits s n f).pending = s.pending ∧ (setUnits s n f).now = s.now ∧ (setUnits s n f).freeCtr = s.freeCtr ∧
    (setUnits s n f).boot = s.boot ∧ (setUnits s n f).store = s.store ∧ (setUnits s n f).sec = s.sec ∧ (setUnits s n f).pwr = s.pwr ∧
    (setUnits s n f).eth = s.eth ∧ (setUnits s n f).links = s.links ∧ (setUnits s n f).logs = s.logs ∧ (setUnits s n f).basins = s.basins ∧
    (setUnits s n f).admin = s.admin ∧ (setUnits s n f).runnels = s.runnels ∧ (setUnits s n f).mem = s.mem ∧
    (setUnits s n f).pools = s.pools ∧ (setUnits s n f).tiers = s.tiers ∧ (setUnits s n f).models = s.models ∧
    (setUnits s n f).kvs = s.kvs ∧ (setUnits s n f).serving = s.serving ∧ (setUnits s n f).trains = s.trains ∧
    (setUnits s n f).fords = s.fords ∧ (setUnits s n f).mgmt = s.mgmt ∧ (setUnits s n f).tap = s.tap :=
  ⟨rfl, rfl, rfl, rfl, rfl, rfl, rfl, rfl, rfl, rfl, rfl, rfl, rfl, rfl, rfl, rfl, rfl, rfl, rfl, rfl, rfl, rfl, rfl⟩

/-- A reach of a step: an update leaves every field but `steps` alone. -/
@[simp] theorem setReach_frame (s : State) (n p : Nat) (f : ReachCtx → ReachCtx) :
    (setReach s n p f).pending = s.pending ∧ (setReach s n p f).now = s.now ∧ (setReach s n p f).freeCtr = s.freeCtr ∧
    (setReach s n p f).boot = s.boot ∧ (setReach s n p f).store = s.store ∧ (setReach s n p f).sec = s.sec ∧
    (setReach s n p f).pwr = s.pwr ∧ (setReach s n p f).eth = s.eth ∧ (setReach s n p f).links = s.links ∧
    (setReach s n p f).logs = s.logs ∧ (setReach s n p f).basins = s.basins ∧ (setReach s n p f).admin = s.admin ∧
    (setReach s n p f).runnels = s.runnels ∧ (setReach s n p f).mem = s.mem ∧ (setReach s n p f).pools = s.pools ∧
    (setReach s n p f).tiers = s.tiers ∧ (setReach s n p f).models = s.models ∧ (setReach s n p f).kvs = s.kvs ∧
    (setReach s n p f).serving = s.serving ∧ (setReach s n p f).trains = s.trains ∧ (setReach s n p f).fords = s.fords ∧
    (setReach s n p f).mgmt = s.mgmt ∧ (setReach s n p f).tap = s.tap :=
  ⟨rfl, rfl, rfl, rfl, rfl, rfl, rfl, rfl, rfl, rfl, rfl, rfl, rfl, rfl, rfl, rfl, rfl, rfl, rfl, rfl, rfl, rfl, rfl⟩

/-- The counts of a matrix descriptor: an update leaves every field but `steps` alone. -/
@[simp] theorem setMat_frame (s : State) (n i : Nat) (f : MatCtx → MatCtx) :
    (setMat s n i f).pending = s.pending ∧ (setMat s n i f).now = s.now ∧ (setMat s n i f).freeCtr = s.freeCtr ∧
    (setMat s n i f).boot = s.boot ∧ (setMat s n i f).store = s.store ∧ (setMat s n i f).sec = s.sec ∧ (setMat s n i f).pwr = s.pwr ∧
    (setMat s n i f).eth = s.eth ∧ (setMat s n i f).links = s.links ∧ (setMat s n i f).logs = s.logs ∧ (setMat s n i f).basins = s.basins ∧
    (setMat s n i f).admin = s.admin ∧ (setMat s n i f).runnels = s.runnels ∧ (setMat s n i f).mem = s.mem ∧
    (setMat s n i f).pools = s.pools ∧ (setMat s n i f).tiers = s.tiers ∧ (setMat s n i f).models = s.models ∧
    (setMat s n i f).kvs = s.kvs ∧ (setMat s n i f).serving = s.serving ∧ (setMat s n i f).trains = s.trains ∧
    (setMat s n i f).fords = s.fords ∧ (setMat s n i f).mgmt = s.mgmt ∧ (setMat s n i f).tap = s.tap :=
  ⟨rfl, rfl, rfl, rfl, rfl, rfl, rfl, rfl, rfl, rfl, rfl, rfl, rfl, rfl, rfl, rfl, rfl, rfl, rfl, rfl, rfl, rfl, rfl⟩

/-- A lane: an update leaves every field but `steps` alone. -/
@[simp] theorem setLane_frame (s : State) (n p l : Nat) (f : Lane → Lane) :
    (setLane s n p l f).pending = s.pending ∧ (setLane s n p l f).now = s.now ∧ (setLane s n p l f).freeCtr = s.freeCtr ∧
    (setLane s n p l f).boot = s.boot ∧ (setLane s n p l f).store = s.store ∧ (setLane s n p l f).sec = s.sec ∧
    (setLane s n p l f).pwr = s.pwr ∧ (setLane s n p l f).eth = s.eth ∧ (setLane s n p l f).links = s.links ∧
    (setLane s n p l f).logs = s.logs ∧ (setLane s n p l f).basins = s.basins ∧ (setLane s n p l f).admin = s.admin ∧
    (setLane s n p l f).runnels = s.runnels ∧ (setLane s n p l f).mem = s.mem ∧ (setLane s n p l f).pools = s.pools ∧
    (setLane s n p l f).tiers = s.tiers ∧ (setLane s n p l f).models = s.models ∧ (setLane s n p l f).kvs = s.kvs ∧
    (setLane s n p l f).serving = s.serving ∧ (setLane s n p l f).trains = s.trains ∧ (setLane s n p l f).fords = s.fords ∧
    (setLane s n p l f).mgmt = s.mgmt ∧ (setLane s n p l f).tap = s.tap :=
  ⟨rfl, rfl, rfl, rfl, rfl, rfl, rfl, rfl, rfl, rfl, rfl, rfl, rfl, rfl, rfl, rfl, rfl, rfl, rfl, rfl, rfl, rfl, rfl⟩

/-- The counts of an epilogue descriptor: an update leaves every field but `steps` alone. -/
@[simp] theorem setEpi_frame (s : State) (n i : Nat) (f : EpiCtx → EpiCtx) :
    (setEpi s n i f).pending = s.pending ∧ (setEpi s n i f).now = s.now ∧ (setEpi s n i f).freeCtr = s.freeCtr ∧
    (setEpi s n i f).boot = s.boot ∧ (setEpi s n i f).store = s.store ∧ (setEpi s n i f).sec = s.sec ∧ (setEpi s n i f).pwr = s.pwr ∧
    (setEpi s n i f).eth = s.eth ∧ (setEpi s n i f).links = s.links ∧ (setEpi s n i f).logs = s.logs ∧ (setEpi s n i f).basins = s.basins ∧
    (setEpi s n i f).admin = s.admin ∧ (setEpi s n i f).runnels = s.runnels ∧ (setEpi s n i f).mem = s.mem ∧
    (setEpi s n i f).pools = s.pools ∧ (setEpi s n i f).tiers = s.tiers ∧ (setEpi s n i f).models = s.models ∧
    (setEpi s n i f).kvs = s.kvs ∧ (setEpi s n i f).serving = s.serving ∧ (setEpi s n i f).trains = s.trains ∧
    (setEpi s n i f).fords = s.fords ∧ (setEpi s n i f).mgmt = s.mgmt ∧ (setEpi s n i f).tap = s.tap :=
  ⟨rfl, rfl, rfl, rfl, rfl, rfl, rfl, rfl, rfl, rfl, rfl, rfl, rfl, rfl, rfl, rfl, rfl, rfl, rfl, rfl, rfl, rfl, rfl⟩

/-- A millrace: an update leaves every field but `steps` alone. -/
@[simp] theorem setMill_frame (s : State) (n m : Nat) (f : Mill → Mill) :
    (setMill s n m f).pending = s.pending ∧ (setMill s n m f).now = s.now ∧ (setMill s n m f).freeCtr = s.freeCtr ∧
    (setMill s n m f).boot = s.boot ∧ (setMill s n m f).store = s.store ∧ (setMill s n m f).sec = s.sec ∧ (setMill s n m f).pwr = s.pwr ∧
    (setMill s n m f).eth = s.eth ∧ (setMill s n m f).links = s.links ∧ (setMill s n m f).logs = s.logs ∧
    (setMill s n m f).basins = s.basins ∧ (setMill s n m f).admin = s.admin ∧ (setMill s n m f).runnels = s.runnels ∧
    (setMill s n m f).mem = s.mem ∧ (setMill s n m f).pools = s.pools ∧ (setMill s n m f).tiers = s.tiers ∧
    (setMill s n m f).models = s.models ∧ (setMill s n m f).kvs = s.kvs ∧ (setMill s n m f).serving = s.serving ∧
    (setMill s n m f).trains = s.trains ∧ (setMill s n m f).fords = s.fords ∧ (setMill s n m f).mgmt = s.mgmt ∧
    (setMill s n m f).tap = s.tap :=
  ⟨rfl, rfl, rfl, rfl, rfl, rfl, rfl, rfl, rfl, rfl, rfl, rfl, rfl, rfl, rfl, rfl, rfl, rfl, rfl, rfl, rfl, rfl, rfl⟩

/-- The counts of an attention descriptor: an update leaves every field but `steps` alone. -/
@[simp] theorem setAtt_frame (s : State) (n i : Nat) (f : AttCtx → AttCtx) :
    (setAtt s n i f).pending = s.pending ∧ (setAtt s n i f).now = s.now ∧ (setAtt s n i f).freeCtr = s.freeCtr ∧
    (setAtt s n i f).boot = s.boot ∧ (setAtt s n i f).store = s.store ∧ (setAtt s n i f).sec = s.sec ∧ (setAtt s n i f).pwr = s.pwr ∧
    (setAtt s n i f).eth = s.eth ∧ (setAtt s n i f).links = s.links ∧ (setAtt s n i f).logs = s.logs ∧ (setAtt s n i f).basins = s.basins ∧
    (setAtt s n i f).admin = s.admin ∧ (setAtt s n i f).runnels = s.runnels ∧ (setAtt s n i f).mem = s.mem ∧
    (setAtt s n i f).pools = s.pools ∧ (setAtt s n i f).tiers = s.tiers ∧ (setAtt s n i f).models = s.models ∧
    (setAtt s n i f).kvs = s.kvs ∧ (setAtt s n i f).serving = s.serving ∧ (setAtt s n i f).trains = s.trains ∧
    (setAtt s n i f).fords = s.fords ∧ (setAtt s n i f).mgmt = s.mgmt ∧ (setAtt s n i f).tap = s.tap :=
  ⟨rfl, rfl, rfl, rfl, rfl, rfl, rfl, rfl, rfl, rfl, rfl, rfl, rfl, rfl, rfl, rfl, rfl, rfl, rfl, rfl, rfl, rfl, rfl⟩

/-- An eddy: an update leaves every field but `steps` alone. -/
@[simp] theorem setEddy_frame (s : State) (n e : Nat) (f : Eddy → Eddy) :
    (setEddy s n e f).pending = s.pending ∧ (setEddy s n e f).now = s.now ∧ (setEddy s n e f).freeCtr = s.freeCtr ∧
    (setEddy s n e f).boot = s.boot ∧ (setEddy s n e f).store = s.store ∧ (setEddy s n e f).sec = s.sec ∧ (setEddy s n e f).pwr = s.pwr ∧
    (setEddy s n e f).eth = s.eth ∧ (setEddy s n e f).links = s.links ∧ (setEddy s n e f).logs = s.logs ∧
    (setEddy s n e f).basins = s.basins ∧ (setEddy s n e f).admin = s.admin ∧ (setEddy s n e f).runnels = s.runnels ∧
    (setEddy s n e f).mem = s.mem ∧ (setEddy s n e f).pools = s.pools ∧ (setEddy s n e f).tiers = s.tiers ∧
    (setEddy s n e f).models = s.models ∧ (setEddy s n e f).kvs = s.kvs ∧ (setEddy s n e f).serving = s.serving ∧
    (setEddy s n e f).trains = s.trains ∧ (setEddy s n e f).fords = s.fords ∧ (setEddy s n e f).mgmt = s.mgmt ∧
    (setEddy s n e f).tap = s.tap :=
  ⟨rfl, rfl, rfl, rfl, rfl, rfl, rfl, rfl, rfl, rfl, rfl, rfl, rfl, rfl, rfl, rfl, rfl, rfl, rfl, rfl, rfl, rfl, rfl⟩

/-- A ford: an update leaves every field but `fords` alone. -/
@[simp] theorem setFord_frame (s : State) (n : Nat) (f : Ford → Ford) :
    (setFord s n f).pending = s.pending ∧ (setFord s n f).now = s.now ∧ (setFord s n f).freeCtr = s.freeCtr ∧
    (setFord s n f).boot = s.boot ∧ (setFord s n f).store = s.store ∧ (setFord s n f).sec = s.sec ∧ (setFord s n f).pwr = s.pwr ∧
    (setFord s n f).eth = s.eth ∧ (setFord s n f).links = s.links ∧ (setFord s n f).logs = s.logs ∧ (setFord s n f).basins = s.basins ∧
    (setFord s n f).admin = s.admin ∧ (setFord s n f).runnels = s.runnels ∧ (setFord s n f).mem = s.mem ∧ (setFord s n f).pools = s.pools ∧
    (setFord s n f).tiers = s.tiers ∧ (setFord s n f).models = s.models ∧ (setFord s n f).kvs = s.kvs ∧
    (setFord s n f).serving = s.serving ∧ (setFord s n f).steps = s.steps ∧ (setFord s n f).trains = s.trains ∧
    (setFord s n f).mgmt = s.mgmt ∧ (setFord s n f).tap = s.tap :=
  ⟨rfl, rfl, rfl, rfl, rfl, rfl, rfl, rfl, rfl, rfl, rfl, rfl, rfl, rfl, rfl, rfl, rfl, rfl, rfl, rfl, rfl, rfl, rfl⟩

/-- A slice, by its SLICE_ID: an update leaves every field but `fords` alone. -/
@[simp] theorem setSliceId_frame (s : State) (n : Nat) (f : Slice → Slice) :
    (setSliceId s n f).pending = s.pending ∧ (setSliceId s n f).now = s.now ∧ (setSliceId s n f).freeCtr = s.freeCtr ∧
    (setSliceId s n f).boot = s.boot ∧ (setSliceId s n f).store = s.store ∧ (setSliceId s n f).sec = s.sec ∧
    (setSliceId s n f).pwr = s.pwr ∧ (setSliceId s n f).eth = s.eth ∧ (setSliceId s n f).links = s.links ∧
    (setSliceId s n f).logs = s.logs ∧ (setSliceId s n f).basins = s.basins ∧ (setSliceId s n f).admin = s.admin ∧
    (setSliceId s n f).runnels = s.runnels ∧ (setSliceId s n f).mem = s.mem ∧ (setSliceId s n f).pools = s.pools ∧
    (setSliceId s n f).tiers = s.tiers ∧ (setSliceId s n f).models = s.models ∧ (setSliceId s n f).kvs = s.kvs ∧
    (setSliceId s n f).serving = s.serving ∧ (setSliceId s n f).steps = s.steps ∧ (setSliceId s n f).trains = s.trains ∧
    (setSliceId s n f).mgmt = s.mgmt ∧ (setSliceId s n f).tap = s.tap :=
  ⟨rfl, rfl, rfl, rfl, rfl, rfl, rfl, rfl, rfl, rfl, rfl, rfl, rfl, rfl, rfl, rfl, rfl, rfl, rfl, rfl, rfl, rfl, rfl⟩

/-- A slice, by its basin: an update leaves every field but `fords` alone. -/
@[simp] theorem setSlice_frame (s : State) (b : Nat) (f : Slice → Slice) :
    (setSlice s b f).pending = s.pending ∧ (setSlice s b f).now = s.now ∧ (setSlice s b f).freeCtr = s.freeCtr ∧
    (setSlice s b f).boot = s.boot ∧ (setSlice s b f).store = s.store ∧ (setSlice s b f).sec = s.sec ∧ (setSlice s b f).pwr = s.pwr ∧
    (setSlice s b f).eth = s.eth ∧ (setSlice s b f).links = s.links ∧ (setSlice s b f).logs = s.logs ∧ (setSlice s b f).basins = s.basins ∧
    (setSlice s b f).admin = s.admin ∧ (setSlice s b f).runnels = s.runnels ∧ (setSlice s b f).mem = s.mem ∧
    (setSlice s b f).pools = s.pools ∧ (setSlice s b f).tiers = s.tiers ∧ (setSlice s b f).models = s.models ∧
    (setSlice s b f).kvs = s.kvs ∧ (setSlice s b f).serving = s.serving ∧ (setSlice s b f).steps = s.steps ∧
    (setSlice s b f).trains = s.trains ∧ (setSlice s b f).mgmt = s.mgmt ∧ (setSlice s b f).tap = s.tap :=
  ⟨rfl, rfl, rfl, rfl, rfl, rfl, rfl, rfl, rfl, rfl, rfl, rfl, rfl, rfl, rfl, rfl, rfl, rfl, rfl, rfl, rfl, rfl, rfl⟩

/-- Units that wait for the hubs: an update leaves every field but `fords` alone. -/
@[simp] theorem sendUnits_frame (s : State) (b : Nat) (j : Option (Nat × Nat × Nat)) (l : List LmFrame) :
    (sendUnits s b j l).pending = s.pending ∧ (sendUnits s b j l).now = s.now ∧ (sendUnits s b j l).freeCtr = s.freeCtr ∧
    (sendUnits s b j l).boot = s.boot ∧ (sendUnits s b j l).store = s.store ∧ (sendUnits s b j l).sec = s.sec ∧
    (sendUnits s b j l).pwr = s.pwr ∧ (sendUnits s b j l).eth = s.eth ∧ (sendUnits s b j l).links = s.links ∧
    (sendUnits s b j l).logs = s.logs ∧ (sendUnits s b j l).basins = s.basins ∧ (sendUnits s b j l).admin = s.admin ∧
    (sendUnits s b j l).runnels = s.runnels ∧ (sendUnits s b j l).mem = s.mem ∧ (sendUnits s b j l).pools = s.pools ∧
    (sendUnits s b j l).tiers = s.tiers ∧ (sendUnits s b j l).models = s.models ∧ (sendUnits s b j l).kvs = s.kvs ∧
    (sendUnits s b j l).serving = s.serving ∧ (sendUnits s b j l).steps = s.steps ∧ (sendUnits s b j l).trains = s.trains ∧
    (sendUnits s b j l).mgmt = s.mgmt ∧ (sendUnits s b j l).tap = s.tap :=
  ⟨rfl, rfl, rfl, rfl, rfl, rfl, rfl, rfl, rfl, rfl, rfl, rfl, rfl, rfl, rfl, rfl, rfl, rfl, rfl, rfl, rfl, rfl, rfl⟩

/-- The PTP exchange: an update leaves every field but `eth` alone. -/
@[simp] theorem setPtp_frame (s : State) (f : Ptp → Ptp) :
    (setPtp s f).pending = s.pending ∧ (setPtp s f).now = s.now ∧ (setPtp s f).freeCtr = s.freeCtr ∧ (setPtp s f).boot = s.boot ∧
    (setPtp s f).store = s.store ∧ (setPtp s f).sec = s.sec ∧ (setPtp s f).pwr = s.pwr ∧ (setPtp s f).links = s.links ∧
    (setPtp s f).logs = s.logs ∧ (setPtp s f).basins = s.basins ∧ (setPtp s f).admin = s.admin ∧ (setPtp s f).runnels = s.runnels ∧
    (setPtp s f).mem = s.mem ∧ (setPtp s f).pools = s.pools ∧ (setPtp s f).tiers = s.tiers ∧ (setPtp s f).models = s.models ∧
    (setPtp s f).kvs = s.kvs ∧ (setPtp s f).serving = s.serving ∧ (setPtp s f).steps = s.steps ∧ (setPtp s f).trains = s.trains ∧
    (setPtp s f).fords = s.fords ∧ (setPtp s f).mgmt = s.mgmt ∧ (setPtp s f).tap = s.tap :=
  ⟨rfl, rfl, rfl, rfl, rfl, rfl, rfl, rfl, rfl, rfl, rfl, rfl, rfl, rfl, rfl, rfl, rfl, rfl, rfl, rfl, rfl, rfl, rfl⟩

/-- The management port: an update leaves every field but `mgmt` alone. -/
@[simp] theorem setMgmt_frame (s : State) (f : Mgmt → Mgmt) :
    (setMgmt s f).pending = s.pending ∧ (setMgmt s f).now = s.now ∧ (setMgmt s f).freeCtr = s.freeCtr ∧ (setMgmt s f).boot = s.boot ∧
    (setMgmt s f).store = s.store ∧ (setMgmt s f).sec = s.sec ∧ (setMgmt s f).pwr = s.pwr ∧ (setMgmt s f).eth = s.eth ∧
    (setMgmt s f).links = s.links ∧ (setMgmt s f).logs = s.logs ∧ (setMgmt s f).basins = s.basins ∧ (setMgmt s f).admin = s.admin ∧
    (setMgmt s f).runnels = s.runnels ∧ (setMgmt s f).mem = s.mem ∧ (setMgmt s f).pools = s.pools ∧ (setMgmt s f).tiers = s.tiers ∧
    (setMgmt s f).models = s.models ∧ (setMgmt s f).kvs = s.kvs ∧ (setMgmt s f).serving = s.serving ∧ (setMgmt s f).steps = s.steps ∧
    (setMgmt s f).trains = s.trains ∧ (setMgmt s f).fords = s.fords ∧ (setMgmt s f).tap = s.tap :=
  ⟨rfl, rfl, rfl, rfl, rfl, rfl, rfl, rfl, rfl, rfl, rfl, rfl, rfl, rfl, rfl, rfl, rfl, rfl, rfl, rfl, rfl, rfl, rfl⟩

/-- The TAP: an update leaves every field but `tap` alone. -/
@[simp] theorem setTap_frame (s : State) (i : TapIr) (d : List Bool) (v : List (Option Bool)) :
    (setTap s i d v).pending = s.pending ∧ (setTap s i d v).now = s.now ∧ (setTap s i d v).freeCtr = s.freeCtr ∧
    (setTap s i d v).boot = s.boot ∧ (setTap s i d v).store = s.store ∧ (setTap s i d v).sec = s.sec ∧ (setTap s i d v).pwr = s.pwr ∧
    (setTap s i d v).eth = s.eth ∧ (setTap s i d v).links = s.links ∧ (setTap s i d v).logs = s.logs ∧ (setTap s i d v).basins = s.basins ∧
    (setTap s i d v).admin = s.admin ∧ (setTap s i d v).runnels = s.runnels ∧ (setTap s i d v).mem = s.mem ∧
    (setTap s i d v).pools = s.pools ∧ (setTap s i d v).tiers = s.tiers ∧ (setTap s i d v).models = s.models ∧
    (setTap s i d v).kvs = s.kvs ∧ (setTap s i d v).serving = s.serving ∧ (setTap s i d v).steps = s.steps ∧
    (setTap s i d v).trains = s.trains ∧ (setTap s i d v).fords = s.fords ∧ (setTap s i d v).mgmt = s.mgmt :=
  ⟨rfl, rfl, rfl, rfl, rfl, rfl, rfl, rfl, rfl, rfl, rfl, rfl, rfl, rfl, rfl, rfl, rfl, rfl, rfl, rfl, rfl, rfl, rfl⟩

/-- A teardown: an update leaves every field but `basins` alone. -/
@[simp] theorem setTeardown_frame (s : State) (b : Nat) (t : Teardown) :
    (setTeardown s b t).pending = s.pending ∧ (setTeardown s b t).now = s.now ∧ (setTeardown s b t).freeCtr = s.freeCtr ∧
    (setTeardown s b t).boot = s.boot ∧ (setTeardown s b t).store = s.store ∧ (setTeardown s b t).sec = s.sec ∧
    (setTeardown s b t).pwr = s.pwr ∧ (setTeardown s b t).eth = s.eth ∧ (setTeardown s b t).links = s.links ∧
    (setTeardown s b t).logs = s.logs ∧ (setTeardown s b t).admin = s.admin ∧ (setTeardown s b t).runnels = s.runnels ∧
    (setTeardown s b t).mem = s.mem ∧ (setTeardown s b t).pools = s.pools ∧ (setTeardown s b t).tiers = s.tiers ∧
    (setTeardown s b t).models = s.models ∧ (setTeardown s b t).kvs = s.kvs ∧ (setTeardown s b t).serving = s.serving ∧
    (setTeardown s b t).steps = s.steps ∧ (setTeardown s b t).trains = s.trains ∧ (setTeardown s b t).fords = s.fords ∧
    (setTeardown s b t).mgmt = s.mgmt ∧ (setTeardown s b t).tap = s.tap :=
  ⟨rfl, rfl, rfl, rfl, rfl, rfl, rfl, rfl, rfl, rfl, rfl, rfl, rfl, rfl, rfl, rfl, rfl, rfl, rfl, rfl, rfl, rfl, rfl⟩

end Sys2Proof.Machine
end

