-- ==== Sys2Proof/Laws/Traffic.lean ====
section
/-! SUPPORT. What the traffic of the module does: a reply, an event, a count or a fault record leaves the core of the state as it
was; a reply comes last among what its basin has been answered; an event stands among the events. -/

namespace Sys2Proof.Laws

open Sys2Proof Sys2Proof.Machine

/-! ### The core -/

/-- An update of the links that leaves each link's core. -/
theorem setLink_core {s : State} {b : Nat} {f : Link → Link} (hf : ∀ l, (f l).core = l.core) :
    (setLink s b f).core = s.core := by
  have : (s.links.modify b f).map Link.core = s.links.map Link.core := by
    apply List.ext_getElem?
    intro i
    simp only [List.getElem?_map, List.getElem?_modify]
    cases s.links[i]? with
    | none => rfl
    | some l => simp only [Option.map_some]; split <;> simp [hf]
  simp [setLink, State.core, this]

theorem setFlow_core (s : State) (b f : Nat) (g : Flow → Flow) : (setFlow s b f g).core = s.core :=
  setLink_core fun l => by split <;> rfl

theorem count_core (s : State) (set index basin field n : Nat) : (count s set index basin field n).core = s.core := by
  unfold count; split <;> rfl

theorem emitSegment_core (s : State) (b f kind seq : Nat) (syn more retx : Bool) (maxpay port ip : Nat)
    (payload : List Byte) : (emitSegment s b f kind seq syn more retx maxpay port ip payload).core = s.core := by
  simp only [emitSegment, setFlow_core]
  rfl

theorem sendAck_core (s : State) (b f : Nat) : (sendAck s b f).core = s.core := by
  unfold sendAck
  dsimp only
  split
  · exact emitSegment_core ..
  · rfl

theorem noteFinals_core (s : State) (b : Nat) (m : Msg) : (noteFinals s b m).core = s.core := by
  unfold noteFinals
  dsimp only
  split
  · rfl
  · simp only [State.core, updW, List.map_map]
    congr 2
    apply List.map_congr_left
    intro r _
    simp only [Function.comp_apply]
    split <;> rfl

theorem sendNext_core (s : State) (b f : Nat) : (sendNext s b f).core = s.core := by
  unfold sendNext
  dsimp only
  split
  · rfl
  · split
    · rfl
    · rw [setFlow_core]
      split
      · exact emitSegment_core ..
      · rw [noteFinals_core, emitSegment_core]

theorem sendSome_core (s : State) (b f n : Nat) : (sendSome s b f n).core = s.core := by
  induction n generalizing s with
  | zero => rfl
  | succ n ih => rw [sendSome, ih, sendNext_core]

theorem loseEgress_core (s : State) (b : Nat) (p : QMsg → Bool) : (loseEgress s b p).core = s.core := by
  have he : ∀ q : Step → Bool, (updW q (fun t => { t with egress := false }) s.steps).map Step.core = s.steps.map Step.core := by
    intro q
    simp only [updW, List.map_map]
    apply List.map_congr_left
    intro t _
    simp only [Function.comp_apply]
    split <;> rfl
  unfold loseEgress
  rw [setFlow_core]
  simp only [State.core, he]

theorem markBlocked_core (s : State) (b f : Nat) : (markBlocked s b f).core = s.core := by
  unfold markBlocked
  dsimp only
  split
  · exact loseEgress_core ..
  · rfl

theorem pump_core (s : State) (b f : Nat) : (pump s b f).core = s.core := by
  unfold pump
  dsimp only
  split
  · rw [markBlocked_core, sendSome_core]
  · rfl

theorem enqueue_core (s : State) (b f : Nat) (m : Msg) (ms : List Measure) : (enqueue s b f m ms).core = s.core := by
  simp only [enqueue, enqueueAs, pump_core, setFlow_core]

theorem queueRsp_core (s : State) (b : Nat) (m : Msg) : (queueRsp s b m).core = s.core := by
  unfold queueRsp
  split
  · exact enqueue_core ..
  · exact setLink_core (by intro _; rfl)

@[simp] theorem reply_core (s : State) (h : Hdr) (op st : Nat) (d : List Field) : (reply s h op st d).core = s.core :=
  queueRsp_core ..

theorem gatherEvt_core (s : State) (b : Nat) (e : EvtRec) : (gatherEvt s b e).core = s.core := setLink_core fun _ => rfl

theorem deliverEvt_core (s : State) (own : List Nat) (e : EvtRec) : (deliverEvt s own e).core = s.core := by
  have (l : List Nat) (s : State) : (l.foldl (fun s b => gatherEvt s b e) s).core = s.core := by
    induction l generalizing s with
    | nil => rfl
    | cons b l ih => rw [List.foldl_cons, ih, gatherEvt_core]
  simp only [deliverEvt, this]
  rfl

@[simp] theorem raise_core (s : State) (src code : Nat) (payload own : List Nat) : (raise s src code payload own).core = s.core := by
  unfold raise
  dsimp only
  split
  · rw [deliverEvt_core]; rfl
  · rfl

@[simp] theorem raiseTrunk_core (s : State) (code : Nat) (payload own : List Nat) : (raiseTrunk s code payload own).core = s.core := by
  simp only [raiseTrunk, drawPick, raise_core]; rfl

theorem loseEvents_core (s : State) (b : Nat) (l : List EvtRec) : (loseEvents s b l).core = s.core := by
  unfold loseEvents
  exact setLink_core (by intro _; rfl)

theorem sendEvents_core (b n : Nat) (l : List EvtRec) (s : State) : (sendEvents b n l s).core = s.core := by
  induction n generalizing l s with
  | zero => rfl
  | succ n ih =>
    unfold sendEvents
    dsimp only
    split
    · rfl
    · split
      · exact loseEvents_core ..
      · rw [ih, enqueue_core]

theorem flushEvents_core (s : State) (b : Nat) : (flushEvents s b).core = s.core := by
  unfold flushEvents
  dsimp only
  split
  · rfl
  · split
    · rw [sendEvents_core]; exact setLink_core (by intro _; rfl)
    · rw [loseEvents_core]; exact setLink_core (by intro _; rfl)

@[simp] theorem storeAsk_core (s : State) (r : StoreRec) : (storeAsk s r).core = s.core := by
  unfold storeAsk; split <;> rfl

@[simp] theorem faultRecord_core (s : State) (f : FaultRec) : (faultRecord s f).core = s.core := by
  unfold faultRecord
  split
  · rfl
  · dsimp only
    repeat' split
    all_goals first | rfl | exact storeAsk_core s _

@[simp] theorem otherFaultRecord_core (s : State) (kind src status : Nat) (b : Option Nat) (job aux addr arg0 arg1 : Nat) :
    (otherFaultRecord s kind src status b job aux addr arg0 arg1).core = s.core := faultRecord_core ..

@[simp] theorem stepFaultRecord_core (s : State) (b job : Nat) (f : Flt) : (stepFaultRecord s b job f).core = s.core := by
  simp only [stepFaultRecord, faultRecord_core, raise_core]

/-! ### What a basin has been answered -/

theorem linkOf_setLink (s : State) (b c : Nat) (f : Link → Link) :
    linkOf (setLink s b f) c = if b = c ∧ c < s.links.length then f (linkOf s c) else linkOf s c := by
  simp only [linkOf, setLink, List.getD_eq_getElem?_getD, List.getElem?_modify]
  by_cases hc : c < s.links.length
  · by_cases hb : b = c <;> simp [hc, hb]
  · simp [hc]

/-- The messages of flow 0's queue. -/
def flow0Msgs (s : State) (b : Nat) : List Msg := (flowOf s b 0).queue.map (·.msg)

theorem setFlow_flow0Msgs {s : State} {b f : Nat} {g : Flow → Flow} (hg : ∀ x, (g x).queue.map (·.msg) = x.queue.map (·.msg))
    (c : Nat) : flow0Msgs (setFlow s b f g) c = flow0Msgs s c ∧ (linkOf (setFlow s b f g) c).rspWait = (linkOf s c).rspWait := by
  simp only [flow0Msgs, flowOf, setFlow, linkOf_setLink]
  by_cases hb : b = c ∧ c < s.links.length
  · by_cases hf : f = 1 <;> simp [hb, hf, hg]
  · simp [hb]

/-- A state with the same links has been answered the same. -/
theorem answers_of_links {s t : State} (h : t.links = s.links) (c : Nat) : t.answers c = s.answers c := by
  simp [State.answers, flowOf, linkOf, h]

theorem setFlow_answers {s : State} {b f : Nat} {g : Flow → Flow} (hg : ∀ x, (g x).queue.map (·.msg) = x.queue.map (·.msg))
    (c : Nat) : (setFlow s b f g).answers c = s.answers c := by
  have := setFlow_flow0Msgs (s := s) (b := b) (f := f) hg c
  simp only [flow0Msgs] at this
  simp only [State.answers, this]

theorem emitSegment_answers (s : State) (b f kind seq : Nat) (syn more retx : Bool) (maxpay port ip : Nat)
    (payload : List Byte) (c : Nat) :
    (emitSegment s b f kind seq syn more retx maxpay port ip payload).answers c = s.answers c := by
  rw [emitSegment]
  refine (setFlow_answers (by intro _; rfl) c).trans ?_
  exact answers_of_links rfl c

theorem noteFinals_links (s : State) (b : Nat) (m : Msg) : (noteFinals s b m).links = s.links := by
  unfold noteFinals
  dsimp only
  split <;> rfl

theorem updW_map_msg (p : QMsg → Bool) (f : QMsg → QMsg) (hf : ∀ q, (f q).msg = q.msg) (l : List QMsg) :
    (updW p f l).map (·.msg) = l.map (·.msg) := by
  simp only [updW, List.map_map]
  apply List.map_congr_left
  intro q _
  simp only [Function.comp_apply]
  split
  · exact hf q
  · rfl

theorem sendNext_answers (s : State) (b f c : Nat) : (sendNext s b f).answers c = s.answers c := by
  unfold sendNext
  dsimp only
  split
  · rfl
  · split
    · rfl
    · refine (setFlow_answers (by intro x; exact updW_map_msg _ _ (by intro _; rfl) _) c).trans ?_
      split
      · exact emitSegment_answers ..
      · rw [answers_of_links (noteFinals_links ..), emitSegment_answers]

theorem sendSome_answers (s : State) (b f n c : Nat) : (sendSome s b f n).answers c = s.answers c := by
  induction n generalizing s with
  | zero => rfl
  | succ n ih => rw [sendSome, ih, sendNext_answers]

theorem pump_answers (s : State) (b f c : Nat) : (pump s b f).answers c = s.answers c := by
  unfold pump markBlocked
  dsimp only
  split
  · split
    · refine (setFlow_answers (by intro x; exact updW_map_msg _ _ (by intro _; rfl) _) c).trans ?_
      exact sendSome_answers ..
    · exact sendSome_answers ..
  · rfl

/-- A reply comes last in what its basin has been answered, and no other basin is answered. -/
theorem queueRsp_answers (s : State) (b : Nat) (m : Msg) (hb : b < s.links.length) (c : Nat) :
    (queueRsp s b m).answers c = if c = b then s.answers c ++ [m] else s.answers c := by
  unfold queueRsp
  split
  · rename_i h
    have hw : (linkOf s b).rspWait = [] := List.isEmpty_iff.1 (Bool.and_eq_true _ _ ▸ h).1
    rw [enqueue, enqueueAs, pump_answers]
    simp only [State.answers, flowOf, setFlow, linkOf_setLink]
    by_cases hc : c = b
    · subst hc; simp [hb, hw]
    · simp [hc, Ne.symm hc]
  · simp only [State.answers, flowOf, linkOf_setLink]
    by_cases hc : c = b
    · subst hc; simp [hb]
    · simp [hc, Ne.symm hc]

theorem reply_answers (s : State) (h : Hdr) (op st : Nat) (d : List Field) (hb : h.basin < s.links.length) (c : Nat) :
    (reply s h op st d).answers c = if c = h.basin then s.answers c ++ [.rsp op st h.ctag d] else s.answers c :=
  queueRsp_answers s h.basin _ hb c

/-- Taking a command out of the inbox changes neither the core nor what has been answered. -/
theorem setLink_answers {s : State} {b : Nat} {f : Link → Link} (hq : ∀ l, (f l).flow0 = l.flow0) (hr : ∀ l, (f l).rspWait = l.rspWait)
    (c : Nat) : (setLink s b f).answers c = s.answers c := by
  simp only [State.answers, flowOf, linkOf_setLink]
  by_cases hb : b = c ∧ c < s.links.length <;> simp [hb, hq, hr]

theorem setLink_links_length (s : State) (b : Nat) (f : Link → Link) : (setLink s b f).links.length = s.links.length := by
  simp [setLink]

/-! ### Events -/

theorem gatherEvt_events (s : State) (b : Nat) (e : EvtRec) : (gatherEvt s b e).events = s.events := rfl

theorem raise_answers (s : State) (src code : Nat) (payload own : List Nat) (c : Nat) :
    (raise s src code payload own).answers c = s.answers c := by
  have (l : List Nat) (e : EvtRec) (s : State) : (l.foldl (fun s b => gatherEvt s b e) s).answers c = s.answers c := by
    induction l generalizing s with
    | nil => rfl
    | cons b l ih => rw [List.foldl_cons, ih]; exact setLink_answers (by intro _; rfl) (by intro _; rfl) c
  unfold raise
  dsimp only
  split
  · simp only [deliverEvt, this]; rfl
  · rfl

theorem deliverEvt_events (s : State) (own : List Nat) (e : EvtRec) :
    (deliverEvt s own e).events =
      (logPut s.logs (basinsMask (evtTargets s e.code own)) e).ring.map (·.evt) ++ s.boot.heldEvents.map (·.2) := by
  have ev (l : List Nat) (s : State) : (l.foldl (fun s b => gatherEvt s b e) s).events = s.events := by
    induction l generalizing s with
    | nil => rfl
    | cons b l ih => rw [List.foldl_cons, ih, gatherEvt_events]
  rw [deliverEvt, ev]
  rfl

theorem mem_logPut (lg : Logs) (mask : Nat) (e : EvtRec) : e ∈ (logPut lg mask e).ring.map (·.evt) := by
  unfold logPut
  dsimp only
  split
  · rename_i hl
    rw [List.drop_append_of_le_length (by simp only [List.length_append, List.length_cons, List.length_nil] at hl; omega)]
    simp
  · simp

/-- The event raised stands among the events. -/
theorem raise_raised (s : State) (src code : Nat) (payload own : List Nat) :
    s.raised (raise s src code payload own) src code payload := by
  unfold State.raised raise State.nextSseq
  dsimp only
  split
  · rw [deliverEvt_events]
    exact List.mem_append_left _ (mem_logPut _ _ _)
  · simp [State.events]

/-! ### Taking a host command, and answering deferred ones -/

theorem took_core (s : State) (h : Hdr) (op : Nat) : (s.took h op).core = s.core := setLink_core (by intro _; rfl)

theorem took_answers (s : State) (h : Hdr) (op c : Nat) : (s.took h op).answers c = s.answers c :=
  setLink_answers (by intro _; rfl) (by intro _; rfl) c

theorem took_links (s : State) (h : Hdr) (op : Nat) : (s.took h op).links.map Link.core = s.links.map Link.core :=
  congrArg State.links (took_core s h op)

theorem took_links_length (s : State) (h : Hdr) (op : Nat) : (s.took h op).links.length = s.links.length :=
  setLink_links_length ..

/-- Two states that differ at most in their links, and there by no core, have the same core. -/
theorem core_of_links {u e : State} (hl : u.links.map Link.core = e.links.map Link.core) (h : { u with links := e.links } = e) :
    u.core = e.core := by
  have hu : u.core = ({ u with links := e.links } : State).core := by
    show ({ u.core with links := u.links.map Link.core } : State) = { u.core with links := e.links.map Link.core }
    rw [hl]
  rw [hu, h]

theorem took_objBusy (s : State) (h : Hdr) (op b : Nat) (o : Obj) : objBusy (s.took h op) b o = objBusy s b o := by
  simp only [objBusy, State.took, linkOf_setLink]
  by_cases hb : h.basin = b ∧ b < s.links.length <;> simp [hb]

/-- A host command that is taken, by its operator and from a basin that may send it, runs its body when no reply to its object waits. -/
theorem hostCmd_body {s : State} {h : Hdr} {op : Nat} {adm : Bool} {obj : Option Obj} {c : Instr} {body : State → State}
    (ht : taken s h op c.params = true) (hr : roleHeld s h op = true) (ho : ∀ o ∈ obj, objBusy s h.basin o = false)
    (hp : adm = true → isAdmin s h.basin = true) : hostCmd s h op adm obj c body = .next (body (s.took h op)) := by
  have hadm : (adm && !isAdmin (s.took h op) h.basin) = false := by
    cases adm with
    | false => rfl
    | true => show (!isAdmin s h.basin) = false; rw [hp rfl]; rfl
  unfold hostCmd
  rw [if_neg (by rw [ht]; decide)]
  show (if (adm && !isAdmin (s.took h op) h.basin || !roleHeld s h op) = true then _ else _) = _
  rw [hadm, hr, if_neg (by decide)]
  cases obj with
  | none => rfl
  | some o =>
    show (if objBusy (s.took h op) h.basin o = true then _ else _) = _
    rw [took_objBusy, ho o rfl, if_neg Bool.false_ne_true]
    rfl

/-- What is known of a host command that is accepted. -/
theorem State.accepts.spec {s : State} {c : Instr} {h : Hdr} {op : Nat} {adm : Bool} {obj : Option Obj} (ha : s.accepts c)
    (hk : c.call = some ⟨h, op, adm, obj⟩) :
    taken s h op c.params = true ∧ h.basin < s.links.length ∧ roleHeld s h op = true ∧ ∀ o ∈ obj, objBusy s h.basin o = false := by
  obtain ⟨k, hk', h1, h2, h3, h4⟩ := ha
  cases hk.symm.trans hk'
  exact ⟨h1, h2, h3, h4⟩

/-- A host command that is accepted runs its body on the state with the command taken from the inbox. -/
theorem hostCmd_runs {s : State} {c : Instr} {h : Hdr} {op : Nat} {adm : Bool} {obj : Option Obj} {body : State → State}
    (ha : s.accepts c) (hk : c.call = some ⟨h, op, adm, obj⟩) (hp : adm = true → isAdmin s h.basin = true) :
    hostCmd s h op adm obj c body = .next (body (s.took h op)) :=
  hostCmd_body (State.accepts.spec ha hk).1 (State.accepts.spec ha hk).2.2.1 (State.accepts.spec ha hk).2.2.2 hp

/-- A host command that writes the store, accepted while the store can be written and has not failed. -/
theorem hostStoreCmd_runs {s : State} {c : Instr} {h : Hdr} {op : Nat} {adm : Bool} {obj : Option Obj} {body : State → State}
    (ha : s.accepts c) (hk : c.call = some ⟨h, op, adm, obj⟩) (hp : adm = true → isAdmin s h.basin = true)
    (hr : storeReady s = true) (hf : s.store.faulted = false) :
    hostStoreCmd s h op adm obj c body = .next (body (s.took h op)) := by
  unfold hostStoreCmd
  rw [if_neg (by rw [hr]; decide), hostCmd_runs ha hk hp]
  show Host.Outcome.next (if s.store.faulted = true then _ else _) = _
  rw [hf, if_neg Bool.false_ne_true]

/-- A command whose step ends in one reply runs to the core of what is replied from. -/
theorem RunsTo.of_reply {c : Instr} {s u e : State} {h : Hdr} {op st : Nat} {d : List Field}
    (hx : exec c s = .next (reply u h op st d)) (hc : u.core = e.core) (ha : ∀ b, u.answers b = s.answers b)
    (hl : h.basin < u.links.length) : RunsTo c s e (only h.basin [.rsp op st h.ctag d]) := by
  refine ⟨_, hx, by rw [reply_core, hc], fun b => ?_⟩
  rw [reply_answers _ _ _ _ _ hl, ha, only]
  split <;> simp

/-- A command that changes no link's core and answers nothing. -/
theorem BecomesCore.of_next {c : Instr} {s u e : State} (hx : exec c s = .next u) (hc : u.core = e.core)
    (ha : ∀ b, u.answers b = s.answers b) : BecomesCore c s e :=
  ⟨_, hx, hc, fun b => by rw [ha, List.append_nil]⟩

theorem reply_links_length (s : State) (h : Hdr) (op st : Nat) (d : List Field) :
    (reply s h op st d).links.length = s.links.length := by
  have hc : (reply s h op st d).core.links.length = s.core.links.length := by rw [reply_core]
  simpa [State.core] using hc

/-- Answering deferred commands of a basin: they wait no longer, and each is answered in order. -/
theorem answerDeferred_spec (s : State) (b : Nat) (p : Deferred → Bool) (status : Nat) (data : List Field) :
    (answerDeferred s b p status data).core = (s.settled b p).core ∧
      ∀ c, (answerDeferred s b p status data).answers c = s.answers c ++ s.settleMsgs b p status data c := by
  have key : ∀ (l : List Deferred) (s : State),
      (l.foldl (fun s d => reply s d.h d.opcode status data) s).core = s.core ∧
        ∀ c, (l.foldl (fun s d => reply s d.h d.opcode status data) s).answers c = s.answers c ++
          (if c < s.links.length then (l.filter fun d => d.h.basin == c).map fun d => .rsp d.opcode status d.h.ctag data else []) := by
    intro l
    induction l with
    | nil => intro s; simp
    | cons d l ih =>
      intro s
      obtain ⟨h1, h2⟩ := ih (reply s d.h d.opcode status data)
      refine ⟨by rw [List.foldl_cons, h1, reply_core], fun c => ?_⟩
      rw [List.foldl_cons, h2, reply_links_length]
      by_cases hb : d.h.basin < s.links.length
      · rw [reply_answers _ _ _ _ _ hb]
        by_cases hc : c < s.links.length
        · by_cases hd : c = d.h.basin
          · subst hd; simp [hb]
          · have : (d.h.basin == c) = false := by simpa using Ne.symm hd
            simp [hc, hd, this]
        · have : c ≠ d.h.basin := fun he => hc (he ▸ hb)
          simp [hc, this]
      · have hq : ∀ c, (reply s d.h d.opcode status data).answers c = s.answers c := by
          intro c
          have hm : ∀ (s : State) (f : Link → Link), ¬ d.h.basin < s.links.length → setLink s d.h.basin f = s := by
            intro s f hs
            simp [setLink, List.modify_eq_self (Nat.not_lt.1 hs)]
          unfold reply queueRsp
          split
          · rw [enqueue, enqueueAs, pump_answers, setFlow, hm s _ hb]
          · rw [hm s _ hb]
        rw [hq c]
        by_cases hc : c < s.links.length
        · have : (d.h.basin == c) = false := by
            simp only [beq_eq_false_iff_ne, ne_eq]
            exact fun he => hb (he ▸ hc)
          simp [hc, this]
        · simp [hc]
  obtain ⟨h1, h2⟩ := key ((linkOf s b).deferred.filter p) (s.settled b p)
  refine ⟨h1, fun c => ?_⟩
  refine (h2 c).trans ?_
  rw [State.settled, setLink_links_length, setLink_answers (by intro _; rfl) (by intro _; rfl)]
  rfl

end Sys2Proof.Laws
end

