-- ==== Sys2Proof/Laws/Took.lean ====
section
/-! SUPPORT. Taking a command from the inbox changes no answer of the lookups: each reads nothing that it touches. -/

namespace Sys2Proof.Laws

open Sys2Proof Sys2Proof.Machine

@[simp] theorem took_now_field (s : State) (h : Hdr) (op : Nat) : (s.took h op).now = s.now := rfl

@[simp] theorem took_boot_field (s : State) (h : Hdr) (op : Nat) : (s.took h op).boot = s.boot := rfl

@[simp] theorem took_store_field (s : State) (h : Hdr) (op : Nat) : (s.took h op).store = s.store := rfl

@[simp] theorem took_sec_field (s : State) (h : Hdr) (op : Nat) : (s.took h op).sec = s.sec := rfl

@[simp] theorem took_pwr_field (s : State) (h : Hdr) (op : Nat) : (s.took h op).pwr = s.pwr := rfl

@[simp] theorem took_eth_field (s : State) (h : Hdr) (op : Nat) : (s.took h op).eth = s.eth := rfl

@[simp] theorem took_logs_field (s : State) (h : Hdr) (op : Nat) : (s.took h op).logs = s.logs := rfl

@[simp] theorem took_basins_field (s : State) (h : Hdr) (op : Nat) : (s.took h op).basins = s.basins := rfl

@[simp] theorem took_admin_field (s : State) (h : Hdr) (op : Nat) : (s.took h op).admin = s.admin := rfl

@[simp] theorem took_runnels_field (s : State) (h : Hdr) (op : Nat) : (s.took h op).runnels = s.runnels := rfl

@[simp] theorem took_mem_field (s : State) (h : Hdr) (op : Nat) : (s.took h op).mem = s.mem := rfl

@[simp] theorem took_pools_field (s : State) (h : Hdr) (op : Nat) : (s.took h op).pools = s.pools := rfl

@[simp] theorem took_tiers_field (s : State) (h : Hdr) (op : Nat) : (s.took h op).tiers = s.tiers := rfl

@[simp] theorem took_models_field (s : State) (h : Hdr) (op : Nat) : (s.took h op).models = s.models := rfl

@[simp] theorem took_kvs_field (s : State) (h : Hdr) (op : Nat) : (s.took h op).kvs = s.kvs := rfl

@[simp] theorem took_serving_field (s : State) (h : Hdr) (op : Nat) : (s.took h op).serving = s.serving := rfl

@[simp] theorem took_steps_field (s : State) (h : Hdr) (op : Nat) : (s.took h op).steps = s.steps := rfl

@[simp] theorem took_trains_field (s : State) (h : Hdr) (op : Nat) : (s.took h op).trains = s.trains := rfl

@[simp] theorem took_fords_field (s : State) (h : Hdr) (op : Nat) : (s.took h op).fords = s.fords := rfl

@[simp] theorem took_mgmt_field (s : State) (h : Hdr) (op : Nat) : (s.took h op).mgmt = s.mgmt := rfl

@[simp] theorem took_tap_field (s : State) (h : Hdr) (op : Nat) : (s.took h op).tap = s.tap := rfl

@[simp] theorem took_basinOf (s : State) (b : Nat) (h : Hdr) (op : Nat) : basinOf (s.took h op) b = basinOf s b := rfl

@[simp] theorem took_basinLive (s : State) (b : Nat) (h : Hdr) (op : Nat) : basinLive (s.took h op) b = basinLive s b := rfl

@[simp] theorem took_inTeardown (s : State) (b : Nat) (h : Hdr) (op : Nat) : inTeardown (s.took h op) b = inTeardown s b := rfl

@[simp] theorem took_isAdmin (s : State) (b : Nat) (h : Hdr) (op : Nat) : isAdmin (s.took h op) b = isAdmin s b := rfl

@[simp] theorem took_fordOf (s : State) (n : Nat) (h : Hdr) (op : Nat) : fordOf (s.took h op) n = fordOf s n := rfl

@[simp] theorem took_portLink (s : State) (n : Nat) (h : Hdr) (op : Nat) : portLink (s.took h op) n = portLink s n := rfl

@[simp] theorem took_portCtrl (s : State) (n : Nat) (h : Hdr) (op : Nat) : portCtrl (s.took h op) n = portCtrl s n := rfl

@[simp] theorem took_hasSak (s : State) (n : Nat) (h : Hdr) (op : Nat) : hasSak (s.took h op) n = hasSak s n := rfl

@[simp] theorem took_portUp (s : State) (n : Nat) (h : Hdr) (op : Nat) : portUp (s.took h op) n = portUp s n := rfl

@[simp] theorem took_domOf (s : State) (d : Nat) (h : Hdr) (op : Nat) : domOf (s.took h op) d = domOf s d := rfl

@[simp] theorem took_storeReady (s : State) (h : Hdr) (op : Nat) : storeReady (s.took h op) = storeReady s := rfl

@[simp] theorem took_pageOf (s : State) (b : Nat) (p : Nat) (h : Hdr) (op : Nat) : pageOf (s.took h op) b p = pageOf s b p := rfl

@[simp] theorem took_pageMapped (s : State) (b : Nat) (p : Nat) (h : Hdr) (op : Nat) : pageMapped (s.took h op) b p = pageMapped s b p := rfl

@[simp] theorem took_pinned (s : State) (b : Nat) (p : Nat) (h : Hdr) (op : Nat) : pinned (s.took h op) b p = pinned s b p := rfl

@[simp] theorem took_frameUsed (s : State) (tier : Nat) (f : Nat) (h : Hdr) (op : Nat) : frameUsed (s.took h op) tier f = frameUsed s tier f := rfl

@[simp] theorem took_framesFree (s : State) (tier : Nat) (h : Hdr) (op : Nat) : framesFree (s.took h op) tier = framesFree s tier := rfl

@[simp] theorem took_retireCause (s : State) (tier : Nat) (f : Nat) (h : Hdr) (op : Nat) : retireCause (s.took h op) tier f = retireCause s tier f := rfl

@[simp] theorem took_quotaOk (s : State) (b : Nat) (tier : Nat) (n : Nat) (h : Hdr) (op : Nat) : quotaOk (s.took h op) b tier n = quotaOk s b tier n := rfl

@[simp] theorem took_tierBytes (s : State) (b : Nat) (addr : Nat) (n : Nat) (h : Hdr) (op : Nat) : tierBytes (s.took h op) b addr n = tierBytes s b addr n := rfl

@[simp] theorem took_tierNum (s : State) (b : Nat) (addr : Nat) (n : Nat) (h : Hdr) (op : Nat) : tierNum (s.took h op) b addr n = tierNum s b addr n := rfl

@[simp] theorem took_ofSealed (s : State) (b : Nat) (p : Nat) (h : Hdr) (op : Nat) : ofSealed (s.took h op) b p = ofSealed s b p := rfl

@[simp] theorem took_ofSet (s : State) (b : Nat) (p : Nat) (h : Hdr) (op : Nat) : ofSet (s.took h op) b p = ofSet s b p := rfl

@[simp] theorem took_ownerOf (s : State) (port : Nat) (ip : Nat) (h : Hdr) (op : Nat) : ownerOf (s.took h op) port ip = ownerOf s port ip := rfl

@[simp] theorem took_ownAddr (s : State) (port : Nat) (ip : Nat) (h : Hdr) (op : Nat) : ownAddr (s.took h op) port ip = ownAddr s port ip := rfl

@[simp] theorem took_vlanOk (s : State) (x : RxFrame) (h : Hdr) (op : Nat) : vlanOk (s.took h op) x = vlanOk s x := rfl

@[simp] theorem took_protectedOk (s : State) (x : RxFrame) (h : Hdr) (op : Nat) : protectedOk (s.took h op) x = protectedOk s x := rfl

@[simp] theorem took_secStatus (s : State) (h : Hdr) (op : Nat) : secStatus (s.took h op) = secStatus s := rfl

@[simp] theorem took_granOf (s : State) (g : Nat) (h : Hdr) (op : Nat) : granOf (s.took h op) g = granOf s g := rfl

@[simp] theorem took_jobOf (s : State) (b : Nat) (n : Nat) (h : Hdr) (op : Nat) : jobOf (s.took h op) b n = jobOf s b n := rfl

@[simp] theorem took_jobHeld (s : State) (b : Nat) (n : Nat) (h : Hdr) (op : Nat) : jobHeld (s.took h op) b n = jobHeld s b n := rfl

@[simp] theorem took_jobWindows (s : State) (b : Nat) (n : Nat) (h : Hdr) (op : Nat) : jobWindows (s.took h op) b n = jobWindows s b n := rfl

@[simp] theorem took_windowBusy (s : State) (b : Nat) (n : Nat) (wid : Nat) (h : Hdr) (op : Nat) : windowBusy (s.took h op) b n wid = windowBusy s b n wid := rfl

@[simp] theorem took_domOn (s : State) (d : Nat) (h : Hdr) (op : Nat) : domOn (s.took h op) d = domOn s d := rfl

@[simp] theorem took_reserved (s : State) (h : Hdr) (op : Nat) : reserved (s.took h op) = reserved s := rfl

@[simp] theorem took_endOf (s : State) (n : Nat) (h : Hdr) (op : Nat) : endOf (s.took h op) n = endOf s n := rfl

@[simp] theorem took_faultWords (s : State) (h : Hdr) (op : Nat) : faultWords (s.took h op) = faultWords s := rfl

@[simp] theorem took_maySee (s : State) (b : Nat) (set : Nat) (index : Nat) (h : Hdr) (op : Nat) : maySee (s.took h op) b set index = maySee s b set index := rfl

@[simp] theorem took_openCounts (s : State) (h : Hdr) (op : Nat) : openCounts (s.took h op) = openCounts s := rfl

@[simp] theorem took_kvOf (s : State) (b : Nat) (h : Hdr) (op : Nat) : kvOf (s.took h op) b = kvOf s b := rfl

@[simp] theorem took_rowRefs (s : State) (b : Nat) (id : Nat) (h : Hdr) (op : Nat) : rowRefs (s.took h op) b id = rowRefs s b id := rfl

@[simp] theorem took_ttlNow (s : State) (h : Hdr) (op : Nat) : ttlNow (s.took h op) = ttlNow s := rfl

@[simp] theorem took_convDue (s : State) (c : Conv) (h : Hdr) (op : Nat) : convDue (s.took h op) c = convDue s c := rfl

@[simp] theorem took_convLeft (s : State) (c : Conv) (h : Hdr) (op : Nat) : convLeft (s.took h op) c = convLeft s c := rfl

@[simp] theorem took_convOf (s : State) (b : Nat) (c : Nat) (h : Hdr) (op : Nat) : convOf (s.took h op) b c = convOf s b c := rfl

@[simp] theorem took_convTaken (s : State) (b : Nat) (c : Nat) (h : Hdr) (op : Nat) : convTaken (s.took h op) b c = convTaken s b c := rfl

@[simp] theorem took_bookings (s : State) (b : Nat) (skip : Nat) (h : Hdr) (op : Nat) : bookings (s.took h op) b skip = bookings s b skip := rfl

@[simp] theorem took_kvCfgCheck (s : State) (b : Nat) (rec : BitVec 384) (h : Hdr) (op : Nat) : kvCfgCheck (s.took h op) b rec = kvCfgCheck s b rec := rfl

@[simp] theorem took_convMissing (s : State) (b : Nat) (c : Nat) (h : Hdr) (op : Nat) : convMissing (s.took h op) b c = convMissing s b c := rfl

@[simp] theorem took_kvStatsWord (s : State) (b : Nat) (h : Hdr) (op : Nat) : kvStatsWord (s.took h op) b = kvStatsWord s b := rfl

@[simp] theorem took_modelOf (s : State) (b : Nat) (mid : Nat) (h : Hdr) (op : Nat) : modelOf (s.took h op) b mid = modelOf s b mid := rfl

@[simp] theorem took_sealedOf (s : State) (b : Nat) (mid : Nat) (h : Hdr) (op : Nat) : sealedOf (s.took h op) b mid = sealedOf s b mid := rfl

@[simp] theorem took_variantOf (s : State) (b : Nat) (vid : Nat) (h : Hdr) (op : Nat) : variantOf (s.took h op) b vid = variantOf s b vid := rfl

@[simp] theorem took_idLive (s : State) (b : Nat) (id : Nat) (h : Hdr) (op : Nat) : idLive (s.took h op) b id = idLive s b id := rfl

@[simp] theorem took_rdB (s : State) (b : Nat) (a : Nat) (n : Nat) (h : Hdr) (op : Nat) : rdB (s.took h op) b a n = rdB s b a n := rfl

@[simp] theorem took_mapCheck (s : State) (b : Nat) (addr : Nat) (pages : Nat) (tier : Nat) (h : Hdr) (op : Nat) : mapCheck (s.took h op) b addr pages tier = mapCheck s b addr pages tier := rfl

@[simp] theorem took_lendShort (s : State) (b : Nat) (addr : Nat) (pages : Nat) (tier : Nat) (h : Hdr) (op : Nat) : lendShort (s.took h op) b addr pages tier = lendShort s b addr pages tier := rfl

@[simp] theorem took_crcListBreach (s : State) (b : Nat) (crcs : Nat) (n : Nat) (h : Hdr) (op : Nat) : crcListBreach (s.took h op) b crcs n = crcListBreach s b crcs n := rfl

@[simp] theorem took_setBreach (s : State) (b : Nat) (setPages : Nat) (set : Nat) (crcs : Nat) (daddr : Nat) (dlen : Nat) (h : Hdr) (op : Nat) : setBreach (s.took h op) b setPages set crcs daddr dlen = setBreach s b setPages set crcs daddr dlen := rfl

@[simp] theorem took_stepsOfVariant (s : State) (b : Nat) (vid : Nat) (h : Hdr) (op : Nat) : stepsOfVariant (s.took h op) b vid = stepsOfVariant s b vid := rfl

@[simp] theorem took_reqsOf (s : State) (b : Nat) (vid : Nat) (h : Hdr) (op : Nat) : reqsOf (s.took h op) b vid = reqsOf s b vid := rfl

@[simp] theorem took_derivedMapped (s : State) (b : Nat) (g : GenSet) (h : Hdr) (op : Nat) : derivedMapped (s.took h op) b g = derivedMapped s b g := rfl

@[simp] theorem took_variantWord (s : State) (v : Variant) (h : Hdr) (op : Nat) : variantWord (s.took h op) v = variantWord s v := rfl

@[simp] theorem took_badPage (s : State) (b : Nat) (p : Nat) (h : Hdr) (op : Nat) : badPage (s.took h op) b p = badPage s b p := rfl

@[simp] theorem took_crcGood (s : State) (e : PageEnt) (at_ : Nat) (h : Hdr) (op : Nat) : crcGood (s.took h op) e at_ = crcGood s e at_ := rfl

@[simp] theorem took_badSource (s : State) (m : Model) (g : GenSet) (h : Hdr) (op : Nat) : badSource (s.took h op) m g = badSource s m g := rfl

@[simp] theorem took_failingSource (s : State) (m : Model) (g : GenSet) (h : Hdr) (op : Nat) : failingSource (s.took h op) m g = failingSource s m g := rfl

@[simp] theorem took_modelCreateCheck (s : State) (b : Nat) (mid : Nat) (ntensor : Nat) (addr : Nat) (hdrs : Nat) (pages : Nat) (h : Hdr) (op : Nat) : modelCreateCheck (s.took h op) b mid ntensor addr hdrs pages = modelCreateCheck s b mid ntensor addr hdrs pages := rfl

@[simp] theorem took_crcsAgree (s : State) (b : Nat) (crcs : Nat) (ps : List Nat) (h : Hdr) (op : Nat) : crcsAgree (s.took h op) b crcs ps = crcsAgree s b crcs ps := rfl

@[simp] theorem took_modelInUse (s : State) (b : Nat) (mid : Nat) (h : Hdr) (op : Nat) : modelInUse (s.took h op) b mid = modelInUse s b mid := rfl

@[simp] theorem took_pageOfId (s : State) (b : Nat) (id : Nat) (p : Nat) (h : Hdr) (op : Nat) : pageOfId (s.took h op) b id p = pageOfId s b id p := rfl

@[simp] theorem took_freeIndex (s : State) (h : Hdr) (op : Nat) : freeIndex (s.took h op) = freeIndex s := rfl

@[simp] theorem took_verifyStatus (s : State) (x : Verify) (h : Hdr) (op : Nat) : verifyStatus (s.took h op) x = verifyStatus s x := rfl

@[simp] theorem took_genFits (s : State) (m : Model) (g : GenSet) (h : Hdr) (op : Nat) : genFits (s.took h op) m g = genFits s m g := rfl

@[simp] theorem took_stepOf (s : State) (sid : Nat) (h : Hdr) (op : Nat) : stepOf (s.took h op) sid = stepOf s sid := rfl

@[simp] theorem took_runsDesc (s : State) (sid : Nat) (i : Nat) (kind : Nat) (h : Hdr) (op : Nat) : runsDesc (s.took h op) sid i kind = runsDesc s sid i kind := rfl

@[simp] theorem took_stepSteward (s : State) (t : Step) (h : Hdr) (op : Nat) : stepSteward (s.took h op) t = stepSteward s t := rfl

@[simp] theorem took_regionCheck (s : State) (b : Nat) (addr : Nat) (pages : Nat) (place : Bool) (h : Hdr) (op : Nat) : regionCheck (s.took h op) b addr pages place = regionCheck s b addr pages place := rfl

@[simp] theorem took_rangeMoving (s : State) (b : Nat) (addr : Nat) (len : Nat) (h : Hdr) (op : Nat) : rangeMoving (s.took h op) b addr len = rangeMoving s b addr len := rfl

@[simp] theorem took_sliceOf (s : State) (b : Nat) (h : Hdr) (op : Nat) : sliceOf (s.took h op) b = sliceOf s b := rfl

@[simp] theorem took_sliceCoord (s : State) (x : Slice) (axis : Nat) (h : Hdr) (op : Nat) : sliceCoord (s.took h op) x axis = sliceCoord s x axis := rfl

@[simp] theorem took_headerAt (s : State) (t : Step) (a : Nat) (h : Hdr) (op : Nat) : headerAt (s.took h op) t a = headerAt s t a := rfl

@[simp] theorem took_matOf (s : State) (t : Step) (d : BitVec 512) (h : Hdr) (op : Nat) : matOf (s.took h op) t d = matOf s t d := rfl

@[simp] theorem took_reqEnt (s : State) (t : Step) (d : BitVec 512) (r : Nat) (h : Hdr) (op : Nat) : reqEnt (s.took h op) t d r = reqEnt s t d r := rfl

@[simp] theorem took_d1Waits (s : State) (h : Hdr) (op : Nat) : d1Waits (s.took h op) = d1Waits s := rfl

@[simp] theorem took_pinsOf (s : State) (t : Step) (h : Hdr) (op : Nat) : pinsOf (s.took h op) t = pinsOf s t := rfl

@[simp] theorem took_bindStatus (s : State) (t : Step) (i : Nat) (h : Hdr) (op : Nat) : bindStatus (s.took h op) t i = bindStatus s t i := rfl

@[simp] theorem took_readDescs (s : State) (t : Step) (h : Hdr) (op : Nat) : readDescs (s.took h op) t = readDescs s t := rfl

@[simp] theorem took_stepReach (s : State) (t : Step) (p : Nat) (h : Hdr) (op : Nat) : stepReach (s.took h op) t p = stepReach s t p := rfl

@[simp] theorem took_stepTribs (s : State) (t : Step) (h : Hdr) (op : Nat) : stepTribs (s.took h op) t = stepTribs s t := rfl

@[simp] theorem took_stepDomains (s : State) (t : Step) (h : Hdr) (op : Nat) : stepDomains (s.took h op) t = stepDomains s t := rfl

@[simp] theorem took_sliceBound (s : State) (t : Step) (h : Hdr) (op : Nat) : sliceBound (s.took h op) t = sliceBound s t := rfl

@[simp] theorem took_heldQuiet (s : State) (t : Step) (h : Hdr) (op : Nat) : heldQuiet (s.took h op) t = heldQuiet s t := rfl

@[simp] theorem took_jobClearing (s : State) (b : Nat) (n : Nat) (h : Hdr) (op : Nat) : jobClearing (s.took h op) b n = jobClearing s b n := rfl

@[simp] theorem took_programOk (s : State) (b : Nat) (r : BitVec 384) (h : Hdr) (op : Nat) : programOk (s.took h op) b r = programOk s b r := rfl

@[simp] theorem took_pageAtFrame (s : State) (tier : Nat) (f : Nat) (h : Hdr) (op : Nat) : pageAtFrame (s.took h op) tier f = pageAtFrame s tier f := rfl

@[simp] theorem took_reqOf (s : State) (b : Nat) (tag : Nat) (h : Hdr) (op : Nat) : reqOf (s.took h op) b tag = reqOf s b tag := rfl

@[simp] theorem took_groupOf (s : State) (b : Nat) (gid : Nat) (h : Hdr) (op : Nat) : groupOf (s.took h op) b gid = groupOf s b gid := rfl

@[simp] theorem took_sizedReq (s : State) (b : Nat) (r : Request) (h : Hdr) (op : Nat) : sizedReq (s.took h op) b r = sizedReq s b r := rfl

@[simp] theorem took_submitCheck (s : State) (b : Nat) (r : Request) (h : Hdr) (op : Nat) : submitCheck (s.took h op) b r = submitCheck s b r := rfl

@[simp] theorem took_waitReason (s : State) (r : Request) (h : Hdr) (op : Nat) : waitReason (s.took h op) r = waitReason s r := rfl

@[simp] theorem took_groupOk (s : State) (b : Nat) (w : BitVec 64) (h : Hdr) (op : Nat) : groupOk (s.took h op) b w = groupOk s b w := rfl

@[simp] theorem took_trainOf (s : State) (b : Nat) (tid : Nat) (h : Hdr) (op : Nat) : trainOf (s.took h op) b tid = trainOf s b tid := rfl

@[simp] theorem took_areaKind (s : State) (b : Nat) (k : PKind) (addr : Nat) (len : Nat) (h : Hdr) (op : Nat) : areaKind (s.took h op) b k addr len = areaKind s b k addr len := rfl

@[simp] theorem took_trainCheck (s : State) (t : Train) (h : Hdr) (op : Nat) : trainCheck (s.took h op) t = trainCheck s t := rfl

@[simp] theorem took_feedsWaiting (s : State) (t : Train) (h : Hdr) (op : Nat) : feedsWaiting (s.took h op) t = feedsWaiting s t := rfl

@[simp] theorem took_trainBusy (s : State) (t : Train) (h : Hdr) (op : Nat) : trainBusy (s.took h op) t = trainBusy s t := rfl

@[simp] theorem took_throttled (s : State) (h : Hdr) (op : Nat) : throttled (s.took h op) = throttled s := rfl

@[simp] theorem took_outOfConditions (s : State) (h : Hdr) (op : Nat) : outOfConditions (s.took h op) = outOfConditions s := rfl

@[simp] theorem took_descReady (s : State) (t : Step) (i : Nat) (h : Hdr) (op : Nat) : descReady (s.took h op) t i = descReady s t i := rfl

@[simp] theorem took_reachAcc (s : State) (t : Step) (p : Nat) (i : Nat) (h : Hdr) (op : Nat) : reachAcc (s.took h op) t p i = reachAcc s t p i := rfl

@[simp] theorem took_stewAcc (s : State) (t : Step) (i : Nat) (h : Hdr) (op : Nat) : stewAcc (s.took h op) t i = stewAcc s t i := rfl

@[simp] theorem took_ownPool (s : State) (t : Step) (p : Nat) (addr : Nat) (n : Nat) (h : Hdr) (op : Nat) : ownPool (s.took h op) t p addr n = ownPool s t p addr n := rfl

@[simp] theorem took_loadTime (s : State) (t : Step) (p : Nat) (d : BitVec 512) (h : Hdr) (op : Nat) : loadTime (s.took h op) t p d = loadTime s t p d := rfl

@[simp] theorem took_gradBeats (s : State) (t : Step) (p : Nat) (d : BitVec 512) (toks : Nat) (h : Hdr) (op : Nat) : gradBeats (s.took h op) t p d toks = gradBeats s t p d toks := rfl

@[simp] theorem took_bytesBefore (s : State) (t : Step) (l : List (Nat × List Byte)) (h : Hdr) (op : Nat) : bytesBefore (s.took h op) t l = bytesBefore s t l := rfl

@[simp] theorem took_adderAcc (s : State) (t : Step) (m : BitVec 512) (i : Nat) (low : Nat) (h : Hdr) (op : Nat) : adderAcc (s.took h op) t m i low = adderAcc s t m i low := rfl

@[simp] theorem took_epiAcc (s : State) (t : Step) (i : Nat) (h : Hdr) (op : Nat) : epiAcc (s.took h op) t i = epiAcc s t i := rfl

@[simp] theorem took_epiRows (s : State) (t : Step) (i : Nat) (h : Hdr) (op : Nat) : epiRows (s.took h op) t i = epiRows s t i := rfl

@[simp] theorem took_axisLen (s : State) (b : Nat) (axes : Nat) (k : Nat) (h : Hdr) (op : Nat) : axisLen (s.took h op) b axes k = axisLen s b axes k := rfl

@[simp] theorem took_axisPos (s : State) (b : Nat) (axes : Nat) (k : Nat) (h : Hdr) (op : Nat) : axisPos (s.took h op) b axes k = axisPos s b axes k := rfl

@[simp] theorem took_stopAxis (s : State) (b : Nat) (axes : Nat) (h : Hdr) (op : Nat) : stopAxis (s.took h op) b axes = stopAxis s b axes := rfl

@[simp] theorem took_groupMates (s : State) (b : Nat) (axes : Nat) (h : Hdr) (op : Nat) : groupMates (s.took h op) b axes = groupMates s b axes := rfl

@[simp] theorem took_millTrib (s : State) (t : Step) (m : Nat) (h : Hdr) (op : Nat) : millTrib (s.took h op) t m = millTrib s t m := rfl

@[simp] theorem took_candPages (s : State) (t : Step) (d : BitVec 512) (e : ReqEnt) (h1 : Nat) (h : Hdr) (op : Nat) : candPages (s.took h op) t d e h1 = candPages s t d e h1 := rfl

@[simp] theorem took_selectedPages (s : State) (t : Step) (d : BitVec 512) (e : ReqEnt) (h1 : Nat) (chosen : List Nat) (h : Hdr) (op : Nat) : selectedPages (s.took h op) t d e h1 chosen = selectedPages s t d e h1 chosen := rfl

@[simp] theorem took_listFault (s : State) (t : Step) (d : BitVec 512) (e : ReqEnt) (h1 : Nat) (h : Hdr) (op : Nat) : listFault (s.took h op) t d e h1 = listFault s t d e h1 := rfl

@[simp] theorem took_ownPart (s : State) (t : Step) (i : Nat) (r : Nat) (h1 : Nat) (row : Nat) (n : Nat) (h : Hdr) (op : Nat) : ownPart (s.took h op) t i r h1 row n = ownPart s t i r h1 row n := rfl

@[simp] theorem took_weirAcc (s : State) (t : Step) (i : Nat) (h : Hdr) (op : Nat) : weirAcc (s.took h op) t i = weirAcc s t i := rfl

@[simp] theorem took_readyDesc (s : State) (sid : Nat) (i : Nat) (kind : Nat) (h : Hdr) (op : Nat) : readyDesc (s.took h op) sid i kind = readyDesc s sid i kind := rfl

@[simp] theorem took_weirReady (s : State) (sid : Nat) (i : Nat) (h : Hdr) (op : Nat) : weirReady (s.took h op) sid i = weirReady s sid i := rfl

@[simp] theorem took_lossOut (s : State) (t : Step) (i : Nat) (sl : List (List Byte)) (tl : List (List Byte)) (labels : List Nat) (h : Hdr) (op : Nat) : lossOut (s.took h op) t i sl tl labels = lossOut s t i sl tl labels := rfl

@[simp] theorem took_windowCheck (s : State) (sx : Nat) (sy : Nat) (sz : Nat) (basin : Nat) (job : Nat) (wid : Nat) (part : Option (Nat × Nat × Nat)) (isRead : Bool) (roff : Nat) (len : Nat) (h : Hdr) (op : Nat) : windowCheck (s.took h op) sx sy sz basin job wid part isRead roff len = windowCheck s sx sy sz basin job wid part isRead roff len := rfl

@[simp] theorem took_topoLen (s : State) (a : Nat) (h : Hdr) (op : Nat) : topoLen (s.took h op) a = topoLen s a := rfl

@[simp] theorem took_fordLive (s : State) (n : Nat) (h : Hdr) (op : Nat) : fordLive (s.took h op) n = fordLive s n := rfl

@[simp] theorem took_offered (s : State) (x : Slice) (h : Hdr) (op : Nat) : offered (s.took h op) x = offered s x := rfl

@[simp] theorem took_slicePlace (s : State) (x : Slice) (h : Hdr) (op : Nat) : slicePlace (s.took h op) x = slicePlace s x := rfl

@[simp] theorem took_sliceById (s : State) (id : Nat) (h : Hdr) (op : Nat) : sliceById (s.took h op) id = sliceById s id := rfl

@[simp] theorem took_sliceAtFord (s : State) (n : Nat) (h : Hdr) (op : Nat) : sliceAtFord (s.took h op) n = sliceAtFord s n := rfl

@[simp] theorem took_nextDir (s : State) (x : Slice) (dst : Nat × Nat × Nat) (h : Hdr) (op : Nat) : nextDir (s.took h op) x dst = nextDir s x dst := rfl

@[simp] theorem took_stepSlots (s : State) (t : Step) (h : Hdr) (op : Nat) : stepSlots (s.took h op) t = stepSlots s t := rfl

@[simp] theorem took_badOutcs (s : State) (t : Step) (status : Nat) (h : Hdr) (op : Nat) : badOutcs (s.took h op) t status = badOutcs s t status := rfl

@[simp] theorem took_offRecs (s : State) (b : Nat) (cs : List Nat) (h : Hdr) (op : Nat) : offRecs (s.took h op) b cs = offRecs s b cs := rfl

@[simp] theorem took_boundaryRefusal (s : State) (t : Step) (h : Hdr) (op : Nat) : boundaryRefusal (s.took h op) t = boundaryRefusal s t := rfl

@[simp] theorem took_unitsStopped (s : State) (t : Step) (h : Hdr) (op : Nat) : unitsStopped (s.took h op) t = unitsStopped s t := rfl

@[simp] theorem took_drawWaits (s : State) (t : Step) (h : Hdr) (op : Nat) : drawWaits (s.took h op) t = drawWaits s t := rfl

@[simp] theorem took_createCheck (s : State) (w : BitVec 1024) (h : Hdr) (op : Nat) : createCheck (s.took h op) w = createCheck s w := rfl

@[simp] theorem took_quotaCheck (s : State) (w : BitVec 1024) (h : Hdr) (op : Nat) : quotaCheck (s.took h op) w = quotaCheck s w := rfl

@[simp] theorem took_usageWord (s : State) (b : Nat) (h : Hdr) (op : Nat) : usageWord (s.took h op) b = usageWord s b := rfl

@[simp] theorem took_hostsCheck (s : State) (b : Nat) (rec : List Byte) (h : Hdr) (op : Nat) : hostsCheck (s.took h op) b rec = hostsCheck s b rec := rfl

@[simp] theorem took_teardownOf (s : State) (b : Nat) (h : Hdr) (op : Nat) : teardownOf (s.took h op) b = teardownOf s b := rfl

@[simp] theorem took_basinClear (s : State) (b : Nat) (h : Hdr) (op : Nat) : basinClear (s.took h op) b = basinClear s b := rfl

@[simp] theorem took_lentHere (s : State) (l : Lend) (h : Hdr) (op : Nat) : lentHere (s.took h op) l = lentHere s l := rfl

@[simp] theorem took_copySource (s : State) (b : Nat) (job : Nat) (p : Nat) (h : Hdr) (op : Nat) : copySource (s.took h op) b job p = copySource s b job p := rfl

@[simp] theorem took_hbmLow (s : State) (h : Hdr) (op : Nat) : hbmLow (s.took h op) = hbmLow s := rfl

@[simp] theorem took_hbmHigh (s : State) (h : Hdr) (op : Nat) : hbmHigh (s.took h op) = hbmHigh s := rfl

@[simp] theorem took_hbmShort (s : State) (h : Hdr) (op : Nat) : hbmShort (s.took h op) = hbmShort s := rfl

@[simp] theorem took_homeTier (s : State) (e : PageEnt) (h : Hdr) (op : Nat) : homeTier (s.took h op) e = homeTier s e := rfl

@[simp] theorem took_sliceCheck (s : State) (w : BitVec 256) (h : Hdr) (op : Nat) : sliceCheck (s.took h op) w = sliceCheck s w := rfl

@[simp] theorem took_partLive (s : State) (b : Nat) (p : Part) (h : Hdr) (op : Nat) : partLive (s.took h op) b p = partLive s b p := rfl

@[simp] theorem took_slotWord (s : State) (h : Hdr) (op : Nat) : slotWord (s.took h op) = slotWord s := rfl

@[simp] theorem took_fwCheck (s : State) (img : Image) (h : Hdr) (op : Nat) : fwCheck (s.took h op) img = fwCheck s img := rfl

@[simp] theorem took_secRefused (s : State) (h : Hdr) (op : Nat) : secRefused (s.took h op) = secRefused s := rfl

@[simp] theorem took_reportWord (s : State) (x : Basin) (nonce : BitVec 256) (h : Hdr) (op : Nat) : reportWord (s.took h op) x nonce = reportWord s x nonce := rfl

@[simp] theorem took_certSubject (s : State) (k : Nat) (h : Hdr) (op : Nat) : certSubject (s.took h op) k = certSubject s k := rfl

@[simp] theorem took_imageBreach (s : State) (b : Nat) (addr : Nat) (len : Nat) (h : Hdr) (op : Nat) : imageBreach (s.took h op) b addr len = imageBreach s b addr len := rfl

@[simp] theorem took_cakRec (s : State) (k : Cak) (h : Hdr) (op : Nat) : cakRec (s.took h op) k = cakRec s k := rfl

@[simp] theorem took_curAn (s : State) (port : Nat) (h : Hdr) (op : Nat) : curAn (s.took h op) port = curAn s port := rfl

@[simp] theorem took_sp1On (s : State) (h : Hdr) (op : Nat) : sp1On (s.took h op) = sp1On s := rfl

@[simp] theorem took_domainBound (s : State) (d : Nat) (h : Hdr) (op : Nat) : domainBound (s.took h op) d = domainBound s d := rfl

@[simp] theorem took_dependantPowered (s : State) (d : Nat) (h : Hdr) (op : Nat) : dependantPowered (s.took h op) d = dependantPowered s d := rfl

@[simp] theorem took_autoIdle (s : State) (h : Hdr) (op : Nat) : autoIdle (s.took h op) = autoIdle s := rfl

@[simp] theorem took_domainCheck (s : State) (d : Nat) (op1 : Nat) (h : Hdr) (op : Nat) : domainCheck (s.took h op) d op1 = domainCheck s d op1 := rfl

@[simp] theorem took_moduleBusy (s : State) (h : Hdr) (op : Nat) : moduleBusy (s.took h op) = moduleBusy s := rfl

@[simp] theorem took_storeData (s : State) (h : Hdr) (op : Nat) : storeData (s.took h op) = storeData s := rfl

@[simp] theorem took_plimit (s : State) (h : Hdr) (op : Nat) : plimit (s.took h op) = plimit s := rfl

@[simp] theorem took_tjThr (s : State) (h : Hdr) (op : Nat) : tjThr (s.took h op) = tjThr s := rfl

@[simp] theorem took_meanAbove (s : State) (n : Nat) (w : Nat) (h : Hdr) (op : Nat) : meanAbove (s.took h op) n w = meanAbove s n w := rfl

@[simp] theorem took_pinW (s : State) (h : Hdr) (op : Nat) : pinW (s.took h op) = pinW s := rfl

@[simp] theorem took_tjMax (s : State) (h : Hdr) (op : Nat) : tjMax (s.took h op) = tjMax s := rfl

@[simp] theorem took_pwrHealth (s : State) (h : Hdr) (op : Nat) : pwrHealth (s.took h op) = pwrHealth s := rfl

@[simp] theorem took_pwrStatusReg (s : State) (h : Hdr) (op : Nat) : pwrStatusReg (s.took h op) = pwrStatusReg s := rfl

@[simp] theorem took_dieRuns (s : State) (h : Hdr) (op : Nat) : dieRuns (s.took h op) = dieRuns s := rfl

@[simp] theorem took_tripRecovered (s : State) (h : Hdr) (op : Nat) : tripRecovered (s.took h op) = tripRecovered s := rfl

@[simp] theorem took_mustPace (s : State) (h : Hdr) (op : Nat) : mustPace (s.took h op) = mustPace s := rfl

@[simp] theorem took_tempByte (s : State) (n : Nat) (h : Hdr) (op : Nat) : tempByte (s.took h op) n = tempByte s n := rfl

@[simp] theorem took_limitRec (s : State) (h : Hdr) (op : Nat) : limitRec (s.took h op) = limitRec s := rfl

@[simp] theorem took_bistCheck (s : State) (port : Nat) (scope : Nat) (target : Nat) (h : Hdr) (op : Nat) : bistCheck (s.took h op) port scope target = bistCheck s port scope target := rfl

@[simp] theorem took_tierLost (s : State) (tier : Nat) (h : Hdr) (op : Nat) : tierLost (s.took h op) tier = tierLost s tier := rfl

@[simp] theorem took_memoryUp (s : State) (h : Hdr) (op : Nat) : memoryUp (s.took h op) = memoryUp s := rfl

@[simp] theorem took_ptpWaits (s : State) (h : Hdr) (op : Nat) : ptpWaits (s.took h op) = ptpWaits s := rfl

@[simp] theorem took_ptpWaitNs (s : State) (h : Hdr) (op : Nat) : ptpWaitNs (s.took h op) = ptpWaitNs s := rfl

@[simp] theorem took_confirmNs (s : State) (h : Hdr) (op : Nat) : confirmNs (s.took h op) = confirmNs s := rfl

@[simp] theorem took_restartRuns (s : State) (h : Hdr) (op : Nat) : restartRuns (s.took h op) = restartRuns s := rfl

@[simp] theorem took_ptpFld (s : State) (lo : Nat) (hi : Nat) (h : Hdr) (op : Nat) : ptpFld (s.took h op) lo hi = ptpFld s lo hi := rfl

@[simp] theorem took_ptpTransport (s : State) (h : Hdr) (op : Nat) : ptpTransport (s.took h op) = ptpTransport s := rfl

@[simp] theorem took_bootStatus (s : State) (h : Hdr) (op : Nat) : bootStatus (s.took h op) = bootStatus s := rfl

@[simp] theorem took_mgMayAdmin (s : State) (h : Hdr) (op : Nat) : mgMayAdmin (s.took h op) = mgMayAdmin s := rfl

@[simp] theorem took_programmed (s : State) (len : Nat) (h : Hdr) (op : Nat) : programmed (s.took h op) len = programmed s len := rfl

end Sys2Proof.Laws
end

