-- ==== Sys2Proof/WellFormed.lean ====
section
/-! DEFINITION. Well-formed commands: every operand lies within the width its rule gives it. A meaning answers ill-formed
operands too; well-formedness is what a message or a pin can carry. -/

namespace Sys2Proof

/-- A host command's stamp: a basin of 0 to 15, a 32-bit CTAG, port E0 or E1 (R362, R373). -/
def Hdr.wf (h : Hdr) : Bool := h.basin < 16 && h.ctag < 2 ^ 32 && h.port < 2

/-- A number of a message field of so many bits (R374). -/
def inBits (n k : Nat) : Bool := n < 2 ^ k

/-- A received frame: port E0 or E1, a SecTAG of 16 bytes (R359, R365). -/
def RxFrame.wf (f : RxFrame) : Bool := f.port < 2 && f.secTag.all fun l => l.length == 16

/-- The fields of an identity frame (R427 step 3): the declared lengths minus 1 and coordinates have 4 bits, and the
states are those of R431. -/
def IdFrame.wf (f : IdFrame) : Bool :=
  inBits f.serial 64 && f.ford < 48 && f.verMaj < 256 && f.verMin < 256 && f.dxM1 < 16 && f.dyM1 < 16 && f.dzM1 < 16 &&
    f.cx < 16 && f.cy < 16 && f.cz < 16 && f.state < 10

/-- A node of a confluence tree covers some leaves (R103): stages 0 to 4. -/
def CNode.wf (c : CNode) : Bool := c.stage < 5 && 0 < c.n

/-- A memory place of the module: a frame of a tier, or a granule of a pool. -/
def Place.wf : Place → Bool
  | .hbm f => f < 2 ^ 28
  | .lpx f => f < 2 ^ 29 - 2 ^ 22
  | .pool g => g < 6144

/-- A record of a self-test (R511). -/
def BistRec.wf (r : BistRec) : Bool := inBits r.block 16 && inBits r.fails 32 && inBits r.misr 64 && inBits r.expect 64

/-- A register write's address is a 32-bit byte address (R390). -/
def regAddrWf (a : Nat) : Bool := inBits a 32

/-- The widths of the operands of each command. -/
def Instr.wf : Instr → Bool
  | .modelCreate h mid nt a hd pg => h.wf && inBits mid 32 && inBits nt 32 && inBits a 64 && inBits hd 64 && inBits pg 32
  | .modelSeal h mid crcs => h.wf && inBits mid 32 && inBits crcs 64
  | .sealVerifyComplete b mid => b < 16 && inBits mid 32
  | .modelDelete h mid => h.wf && inBits mid 32
  | .modelQuery h mid => h.wf && inBits mid 32
  | .modelProgram h _ => h.wf
  | .modelRepair h mid pg crc data => h.wf && inBits mid 32 && inBits pg 64 && inBits crc 64 && data.length == 4096
  | .variantCreate h vid sp set crcs da dl =>
    h.wf && inBits vid 32 && inBits sp 32 && inBits set 64 && inBits crcs 64 && inBits da 64 && inBits dl 32
  | .variantUpdate h vid sp set crcs da dl =>
    h.wf && inBits vid 32 && inBits sp 32 && inBits set 64 && inBits crcs 64 && inBits da 64 && inBits dl 32
  | .deltaVerifyComplete b vid => b < 16 && inBits vid 32
  | .variantDelete h vid => h.wf && inBits vid 32
  | .variantRetireComplete b vid => b < 16 && inBits vid 32
  | .variantPin h vid pin => h.wf && inBits vid 32 && pin < 256
  | .variantQuery h vid => h.wf && inBits vid 32
  | .variantPrefetch h vid => h.wf && inBits vid 32
  | .materialisationStart b vid => b < 16 && inBits vid 32
  | .materialisationComplete b vid => b < 16 && inBits vid 32
  | .reqSubmit h _ toks => h.wf && toks.all (inBits · 32)
  | .reqCancel h tag => h.wf && inBits tag 32
  | .reqQuery h tag => h.wf && inBits tag 32
  | .reqGroup h _ => h.wf
  | .kvConfigure h _ => h.wf
  | .kvQuery h conv => h.wf && inBits conv 64
  | .kvResume h conv => h.wf && inBits conv 64
  | .kvDrop h conv => h.wf && inBits conv 64
  | .kvPrefixFlush h vid => h.wf && inBits vid 32
  | .kvStats h => h.wf
  | .trainCreate h _ => h.wf
  | .trainFeed h tid a => h.wf && inBits tid 32 && inBits a 64
  | .trainStart h tid => h.wf && inBits tid 32
  | .trainStop h tid => h.wf && inBits tid 32
  | .trainQuery h tid => h.wf && inBits tid 32
  | .trainExport h tid => h.wf && inBits tid 32
  | .trainDelete h tid => h.wf && inBits tid 32
  | .basinCreate h _ => h.wf
  | .basinDestroy h b => h.wf && b < 256
  | .basinTeardownComplete b => b < 16
  | .teardownFlushExpiry b => b < 16
  | .basinQuery h b => h.wf && b < 256
  | .basinQuota h _ => h.wf
  | .basinHosts h b rec => h.wf && b < 256 && 8 ≤ rec.length
  | .basinMap h a pg kind tier => h.wf && inBits a 64 && inBits pg 32 && kind < 256 && tier < 256
  | .basinUnmap h a pg => h.wf && inBits a 64 && inBits pg 32
  | .basinPlace h a pg tier => h.wf && inBits a 64 && inBits pg 32 && tier < 256
  | .basinPageq h a => h.wf && inBits a 64
  | .basinRead h a len xid => h.wf && inBits a 64 && inBits len 32 && inBits xid 32
  | .regRead h a n => h.wf && regAddrWf a && inBits n 16
  | .regWrite h a _ _ => h.wf && regAddrWf a
  | .ethPortCtrlWrite h n _ _ => h.wf && n < 2
  | .frdEnableWrite h f _ _ => h.wf && f < 48
  | .frdRetrain h f _ _ => h.wf && f < 48
  | .frdClrCnt h f _ _ => h.wf && f < 48
  | .restart h _ _ => h.wf
  | .confirm h _ _ => h.wf
  | .stwBootCfgWrite h _ _ => h.wf
  | .pwrLimitCfgWrite h _ _ => h.wf
  | .testBist h scope target => h.wf && scope < 256 && inBits target 16
  | .bistComplete recs => recs.all (·.wf)
  | .testResult h run => h.wf && inBits run 32
  | .testEcho h _ => h.wf
  | .secAttest h _ named => h.wf && (match named with | some b => b < 256 | none => true)
  | .secCerts h => h.wf
  | .secFwUpdate h a len => h.wf && inBits a 64 && inBits len 32
  | .cakInstall h ports kid _ ct wr => h.wf && ports < 256 && inBits kid 32 && ct.length == 1088 && wr.length == 40
  | .sciBind h ports b sci => h.wf && ports < 256 && b < 256 && inBits sci 64
  | .sciUnbind h ports b sci => h.wf && ports < 256 && b < 256 && inBits sci 64
  | .secZeroize h e => h.wf && e < 256
  | .pwrStatus h => h.wf
  | .pwrDomain h d op w => h.wf && inBits d 16 && op < 256 && inBits w 32
  | .standby h d w => h.wf && inBits d 16 && inBits w 32
  | .pwrLimit h _ _ => h.wf
  | .pwrStoreQuery h => h.wf
  | .pwrStoreSwap h => h.wf
  | .linkTopology h _ => h.wf
  | .linkSliceBind h _ => h.wf
  | .linkSliceUnbind h _ => h.wf
  | .linkStatus h => h.wf
  | .logRead h start max => h.wf && inBits start 32 && inBits max 16
  | .logFaults h start max => h.wf && inBits start 32 && inBits max 16
  | .logCounters h set index => h.wf && set < 256 && inBits index 16
  | .logSubscribe h _ => h.wf
  | .woreoSegmentReceive f => f.wf
  | .syn f => f.wf
  | .rtoExpiry b f seq => b < 16 && f < 2 && inBits seq 32
  | .ackDelayExpiry b f => b < 16 && f < 2
  | .evtCoalesceExpiry b => b < 16
  | .dataWriteResume b => b < 16
  | .queueRoomReturn b f => b < 16 && f < 2
  | .tokSent b f => b < 16 && f < 2
  | .arpRequest f => f.wf
  | .neighbourSolicitation f => f.wf
  | .icmpEcho f => f.wf
  | .ptpMessage f _ => f.wf
  | .mkaFrame f _ _ _ => f.wf
  | .ethLink p _ _ _ => p < 2
  | .batchForm b g => b < 16 && g < 16
  | .stepBind _ => true
  | .stepBoundary _ => true
  | .offstepSettle b => b < 16
  | .itemPrologue _ _ => true
  | .windowLoad _ _ => true
  | .decoderRead _ _ lane => lane < 512
  | .laneBeat _ _ lane => lane < 512
  | .itemJoin _ _ => true
  | .drainComplete _ _ => true
  | .stepFault _ => true
  | .confluenceAdd _ _ _ _ node => node.wf
  | .epilogueBlock _ _ _ _ => true
  | .epilogueFinish _ _ => true
  | .millraceUnitStart _ _ mill => mill < 32
  | .riffleStream _ _ _ _ _ _ => true
  | .millraceTile _ mill => mill < 32
  | .rangeMerge _ _ _ _ _ node => node.wf
  | .weirRoute _ _ => true
  | .weirCombine _ _ => true
  | .lossCompute _ _ => true
  | .gradientAccumulate _ _ _ _ => true
  | .eddyWrite _ eid _ _ _ => inBits eid 16
  | .eddyRead _ eid _ _ => inBits eid 16
  | .eddyAccessResume _ eid => inBits eid 16
  | .eddyWatchdogExpiry _ eid => inBits eid 16
  | .windowTransferReceive f x y z b job wid _ roff len _ _ =>
    f < 48 && x < 16 && y < 16 && z < 16 && b < 16 && inBits job 16 && inBits wid 16 && inBits roff 48 && inBits len 32
  | .jobKill b job => b < 16 && inBits job 16
  | .granuleClearComplete _ _ => true
  | .jobCleared b job => b < 16 && inBits job 16
  | .pageMoveStart b _ => b < 16
  | .pageMoveComplete b _ _ => b < 16
  | .pageCopy b _ _ => b < 16
  | .hbmReclaim => true
  | .uncorrectableError p _ => p.wf
  | .modelHomeRepair b _ => b < 16
  | .refetchTimer b _ => b < 16
  | .correctedError p => p.wf
  | .scrubRead p _ => p.wf
  | .memLendReclaim _ => true
  | .lendReclaimExpiry _ => true
  | .kvTtlCheck => true
  | .runnelMessage snd b job e ty len _ =>
    inBits snd 16 && b < 16 && inBits job 16 && inBits e 16 && inBits ty 16 && len < 45
  | .doorbellRing snd b job e _ => inBits snd 16 && b < 16 && inBits job 16 && inBits e 16
  | .runnelHoldExpiry e => inBits e 16
  | .domainWake d => d < 372
  | .domainWakeComplete d => d < 372
  | .domainFault d => d < 372
  | .autoIdleExpiry d => d < 372
  | .standbyWakeTimer => true
  | .fordTrain f l0 l1 _ _ _ _ => f < 48 && l0 < 8 && l1 < 8
  | .fordTrainRetry f l0 l1 _ _ _ _ => f < 48 && l0 < 8 && l1 < 8
  | .identityFrame f fr => f < 48 && fr.wf
  | .heartbeatSend f => f < 48
  | .flitReceive f _ _ _ h u => f < 48 && h.chan < 3 && 1 ≤ h.flits && u.chan.all (· == h.chan)
  | .fordLostTimeout f => f < 48
  | .moduleLostTimeout f => f < 48
  | .sliceReadyReceive id x y z mi => inBits id 64 && x < 16 && y < 16 && z < 16 && mi < 256
  | .sliceGoReceive id mi => inBits id 64 && mi < 256
  | .sliceBindTimeout id => inBits id 64
  | .sliceJoinTimeout b kind id => b < 16 && kind < 2 && inBits id 32
  | .sliceStopReceive f id serial cause => f < 48 && inBits id 64 && inBits serial 64 && cause < 256
  | .vcoreDip p mv _ => p < 20 && mv < 680
  | .pwrClear => true
  | .brownout cause p _ => cause < 2 && p < 20
  | .brownoutRecovery => true
  | .railFault rail kind => rail < 6 && kind < 4
  | .railWarn rail _ => rail < 6
  | .vserRecovery => true
  | .powerSample _ _ => true
  | .limiterStep => true
  | .thermalLoop => true
  | .sensorRead r l n => r.all (·.1 < 32) && l.all (·.1 < 16) && n.all (· < 32)
  | .sensorCheck l => l.all (· < 32)
  | .sensorBusFault _ => true
  | .sensorBusRetry _ => true
  | .inputReversed => true
  | .inputLow _ => true
  | .inputUndervoltage _ => true
  | .inputHigh _ => true
  | .inputOvervoltage _ => true
  | .senseMate => true
  | .senseBreak => true
  | .powerOn _ _ _ => true
  | .memoryInitComplete _ _ recs => recs.all (·.wf)
  | .ptpWaitExpiry => true
  | .bootReady => true
  | .confirmTimeout => true
  | .sp0WatchdogExpiry => true
  | .moduleRestart => true
  | .modReset _ => true
  | .storeWrite _ _ _ => true
  | .storeEraseComplete => true
  | .selftestPeriodic f => (match f with | some c => c < 256 | none => true)
  | .entropyHealthFail => true
  | .drbgReseed n => n < 2
  | .counterFold => true
  | .mgStatus _ => true
  | .mgSensors _ => true
  | .mgEvents _ start => inBits start 32
  | .mgFaults _ start => inBits start 32
  | .mgSelftest _ first => inBits first 16
  | .mgRestart _ => true
  | .mgWake _ => true
  | .mgAdminHosts _ off piece => inBits off 16 && 1 ≤ piece.length && piece.length ≤ 240
  | .mgAdminHostsTimeout => true
  | .mgAdminMove _ b => b < 256
  | .mgImage _ off chunk => inBits off 32 && chunk.length == 240
  | .mgImageCommit _ len => inBits len 32
  | .mgBusTimeout => true
  | .bypass => true
  | .idcode => true
  | .samplePreload _ _ => true
  | .extest _ => true
  | .clamp => true
  | .highz => true
  | .extestPulse _ => true
  | .extestTrain _ => true
  | .tagExpiry b tag => b < 16 && inBits tag 32
  | .tierPageClearComplete p _ => p.wf
  | .windowCloseComplete b job wid => b < 16 && inBits job 16 && inBits wid 16
  | .ptpTransmitterLost => true
  | .domainOffComplete d => d < 372
  | .vcoreReturn => true
  | .vauxRecovery => true
  | .sliceDeclareReceive f id ox oy oz lx ly lz mi =>
    f < 48 && inBits id 64 && ox < 16 && oy < 16 && oz < 16 && lx < 16 && ly < 16 && lz < 16 && mi < 256
  | .shadowStateSet b tid => b < 16 && inBits tid 32
  | .fwSlotWriteComplete => true
  | .addressResolutionReply f => f.wf

end Sys2Proof
end

