-- ==== Sys2Proof/Tests/Slice0.lean ====
section
/-! SUPPORT. Tests: terms that the well-formedness check refuses, single steps, and for each statement a state and operands that
meet its hypotheses. -/

namespace Sys2Proof.Tests

open Sys2Proof Sys2Proof.Machine

set_option Elab.async false
set_option maxRecDepth 20000
set_option exponentiation.threshold 1100

/-! ### States -/

/-- A word whose fields start at the given bits. -/
def fields (n : Nat) (l : List (Nat × Nat)) : BitVec n := BitVec.ofNat n (l.map fun x => x.2 <<< x.1).sum

/-- A header of basin 1, port E0. -/
def h1 : Hdr := { basin := 1, ctag := 7, port := 0 }

/-- The record of basin 1: tributary 0, 16 request entries, 16 variants, 4,096 pages of each quota, pool granules. -/
def word1 : BitVec 1024 := fields 1024 [(0, 1), (4, 1), (8, 1), (32, 16), (64, 16), (128, 1), (480, 64),
  (512, 4096), (544, 4096)]

/-- A module in READY whose domains are on, with basin 1 as administration basin. -/
def ready : State := { State.reset with
  now := 50000000000
  boot := { State.reset.boot with stage := 6 }
  basins := [{ id := 1, word := word1, host := { local0 := [10], local1 := [], hosts := [20] } }]
  admin := 1
  pwr := { State.reset.pwr with doms := List.replicate 372 { state := 2 } } }

/-- The first page of the tiered range. -/
def p0 : Nat := 0x40000

/-- A WORK page of basin 1 homed in LPDDR5X. -/
def workPage : PageEnt := { basin := 1, page := p0, kind := .work, homeT := 2, homeLoc := 5 }

/-- The state with pages mapped. -/
def withPages (s : State) (l : List PageEnt) : State := { s with tiers := { s.tiers with pages := l } }

/-- The state with one step. -/
def withStep (s : State) (t : Step) : State := { s with steps := [t] }

/-- A link of a basin with some deferred commands. -/
def withDeferred (s : State) (b : Nat) (l : List Deferred) : State := setLink s b fun x => { x with deferred := l }

/-! ### Smoke: an ill-formed term for each check, refused; the well-formed one accepted -/

def hdr0 : Hdr := { basin := 0, ctag := 0, port := 0 }
def hdrBad : Hdr := { basin := 16, ctag := 0, port := 0 }
def idf0 : IdFrame := { serial := 0, ford := 0, verMaj := 0, verMin := 0, dxM1 := 0, dyM1 := 0, dzM1 := 0, cx := 0, cy := 0, cz := 0, valid := true, state := 9 }
def idfBad : IdFrame := { idf0 with ford := 48 }
def bist0 : BistRec := { block := 0, part := 0, result := 0, fails := 0, time := 0, misr := 0, expect := 0 }
def bistBad : BistRec := { bist0 with block := 2 ^ 16 }
def rx0 : RxFrame := { port := 0, fcsOk := true, secTag := none, bufferRoom := true, bytes := [] }
def fh0 : FlitHead := { chan := 0, seq := 0, flits := 1, src := none, dst := (0, 0, 0) }
def rxBad : RxFrame := { rx0 with port := 2 }

theorem smoke_records :
    [{ hdr0 with basin := 16 }, { hdr0 with ctag := 2 ^ 32 }, { hdr0 with port := 2 }].all (fun h => !h.wf) = true ∧
    [{ idf0 with serial := 2 ^ 64 }, { idf0 with ford := 48 }, { idf0 with verMaj := 256 }, { idf0 with verMin := 256 }, { idf0 with dxM1 := 16 },
      { idf0 with dyM1 := 16 }, { idf0 with dzM1 := 16 }, { idf0 with cx := 16 }, { idf0 with cy := 16 }, { idf0 with cz := 16 },
      { idf0 with state := 10 }].all
        (fun f => !f.wf) = true ∧
    [{ bist0 with block := 2 ^ 16 }, { bist0 with fails := 2 ^ 32 }, { bist0 with misr := 2 ^ 64 }, { bist0 with expect := 2 ^ 64 }].all
        (fun r => !r.wf) = true ∧
    [({ stage := 5, lo := 0, n := 1 } : CNode), { stage := 0, lo := 0, n := 0 }].all (fun c => !c.wf) = true ∧
    [Place.hbm (2 ^ 28), .lpx (2 ^ 29 - 2 ^ 22), .pool 6144].all (fun p => !p.wf) = true ∧
    hdr0.wf = true ∧ idf0.wf = true ∧ bist0.wf = true ∧ (Place.hbm 0).wf = true ∧ rx0.wf = true := by decide +kernel

theorem smoke_frame : [{ rx0 with port := 2 }, { rx0 with secTag := some [] }, { rx0 with secTag := some (List.replicate 17 0) }].all
      (fun f => !f.wf) = true ∧ ({ rx0 with secTag := some (List.replicate 16 0) } : RxFrame).wf = true ∧
    [Instr.flitReceive 0 true 0 0 { fh0 with chan := 3 } .other, .flitReceive 0 true 0 0 { fh0 with flits := 0 } .other].all
      (fun i => !i.wf) = true := by decide +kernel

theorem smoke_refused_0 : ([
    .modelCreate hdr0 (2 ^ 32) 0 0 0 0,
    .modelCreate hdr0 0 (2 ^ 32) 0 0 0,
    .modelCreate hdr0 0 0 (2 ^ 64) 0 0,
    .modelCreate hdr0 0 0 0 (2 ^ 64) 0,
    .modelCreate hdr0 0 0 0 0 (2 ^ 32),
    .modelCreate hdrBad 0 0 0 0 0,
    .modelSeal hdr0 (2 ^ 32) 0,
    .modelSeal hdr0 0 (2 ^ 64),
    .modelSeal hdrBad 0 0,
    .sealVerifyComplete 0 (2 ^ 32),
    .sealVerifyComplete 16 0,
    .modelDelete hdr0 (2 ^ 32),
    .modelDelete hdrBad 0,
    .modelQuery hdr0 (2 ^ 32),
    .modelQuery hdrBad 0,
    .modelProgram hdrBad 0,
    .modelRepair hdr0 (2 ^ 32) 0 0 (List.replicate 4096 0),
    .modelRepair hdr0 0 (2 ^ 64) 0 (List.replicate 4096 0),
    .modelRepair hdr0 0 0 (2 ^ 64) (List.replicate 4096 0),
    .modelRepair hdr0 0 0 0 (List.replicate 4095 0),
    .modelRepair hdrBad 0 0 0 (List.replicate 4096 0),
    .variantCreate hdr0 (2 ^ 32) 0 0 0 0 0,
    .variantCreate hdr0 0 (2 ^ 32) 0 0 0 0,
    .variantCreate hdr0 0 0 (2 ^ 64) 0 0 0,
    .variantCreate hdr0 0 0 0 (2 ^ 64) 0 0,
    .variantCreate hdr0 0 0 0 0 (2 ^ 64) 0,
    .variantCreate hdr0 0 0 0 0 0 (2 ^ 32),
    .variantCreate hdrBad 0 0 0 0 0 0,
    .variantUpdate hdr0 (2 ^ 32) 0 0 0 0 0,
    .variantUpdate hdr0 0 (2 ^ 32) 0 0 0 0] : List Instr).all (fun i => !i.wf) = true := by decide +kernel

theorem smoke_refused_1 : ([
    .variantUpdate hdr0 0 0 (2 ^ 64) 0 0 0,
    .variantUpdate hdr0 0 0 0 (2 ^ 64) 0 0,
    .variantUpdate hdr0 0 0 0 0 (2 ^ 64) 0,
    .variantUpdate hdr0 0 0 0 0 0 (2 ^ 32),
    .variantUpdate hdrBad 0 0 0 0 0 0,
    .deltaVerifyComplete 0 (2 ^ 32),
    .deltaVerifyComplete 16 0,
    .variantDelete hdr0 (2 ^ 32),
    .variantDelete hdrBad 0,
    .variantRetireComplete 0 (2 ^ 32),
    .variantRetireComplete 16 0,
    .variantPin hdr0 (2 ^ 32) 0,
    .variantPin hdr0 0 256,
    .variantPin hdrBad 0 0,
    .variantQuery hdr0 (2 ^ 32),
    .variantQuery hdrBad 0,
    .variantPrefetch hdr0 (2 ^ 32),
    .variantPrefetch hdrBad 0,
    .materialisationStart 0 (2 ^ 32),
    .materialisationStart 16 0,
    .materialisationComplete 0 (2 ^ 32),
    .materialisationComplete 16 0,
    .reqSubmit hdrBad 0 [],
    .reqSubmit hdr0 0 [2 ^ 32],
    .reqCancel hdr0 (2 ^ 32),
    .reqCancel hdrBad 0,
    .reqQuery hdr0 (2 ^ 32),
    .reqQuery hdrBad 0,
    .reqGroup hdrBad 0,
    .kvConfigure hdrBad 0] : List Instr).all (fun i => !i.wf) = true := by decide +kernel

theorem smoke_refused_2 : ([
    .kvQuery hdr0 (2 ^ 64),
    .kvQuery hdrBad 0,
    .kvResume hdr0 (2 ^ 64),
    .kvResume hdrBad 0,
    .kvDrop hdr0 (2 ^ 64),
    .kvDrop hdrBad 0,
    .kvPrefixFlush hdr0 (2 ^ 32),
    .kvPrefixFlush hdrBad 0,
    .kvStats hdrBad,
    .trainCreate hdrBad 0,
    .trainFeed hdr0 (2 ^ 32) 0,
    .trainFeed hdr0 0 (2 ^ 64),
    .trainFeed hdrBad 0 0,
    .trainStart hdr0 (2 ^ 32),
    .trainStart hdrBad 0,
    .trainStop hdr0 (2 ^ 32),
    .trainStop hdrBad 0,
    .trainQuery hdr0 (2 ^ 32),
    .trainQuery hdrBad 0,
    .trainExport hdr0 (2 ^ 32),
    .trainExport hdrBad 0,
    .trainDelete hdr0 (2 ^ 32),
    .trainDelete hdrBad 0,
    .basinCreate hdrBad 0,
    .basinDestroy hdr0 256,
    .basinDestroy hdrBad 0,
    .basinTeardownComplete 16,
    .teardownFlushExpiry 16,
    .basinQuery hdr0 256,
    .basinQuery hdrBad 0] : List Instr).all (fun i => !i.wf) = true := by decide +kernel

theorem smoke_refused_3 : ([
    .basinQuota hdrBad 0,
    .basinHosts hdr0 256 (List.replicate 8 0),
    .basinHosts hdr0 0 (List.replicate 7 0),
    .basinHosts hdrBad 0 (List.replicate 8 0),
    .basinMap hdr0 (2 ^ 64) 0 0 0,
    .basinMap hdr0 0 (2 ^ 32) 0 0,
    .basinMap hdr0 0 0 256 0,
    .basinMap hdr0 0 0 0 256,
    .basinMap hdrBad 0 0 0 0,
    .basinUnmap hdr0 (2 ^ 64) 0,
    .basinUnmap hdr0 0 (2 ^ 32),
    .basinUnmap hdrBad 0 0,
    .basinPlace hdr0 (2 ^ 64) 0 0,
    .basinPlace hdr0 0 (2 ^ 32) 0,
    .basinPlace hdr0 0 0 256,
    .basinPlace hdrBad 0 0 0,
    .basinPageq hdr0 (2 ^ 64),
    .basinPageq hdrBad 0,
    .basinRead hdr0 (2 ^ 64) 0 0,
    .basinRead hdr0 0 (2 ^ 32) 0,
    .basinRead hdr0 0 0 (2 ^ 32),
    .basinRead hdrBad 0 0 0,
    .regRead hdr0 0 (2 ^ 16),
    .regRead hdr0 (2 ^ 32) 0,
    .regRead hdrBad 0 0,
    .regWrite hdr0 (2 ^ 32) 0 0,
    .regWrite hdrBad 0 0 0,
    .ethPortCtrlWrite hdr0 2 0 0,
    .ethPortCtrlWrite hdrBad 0 0 0,
    .frdEnableWrite hdr0 48 0 0] : List Instr).all (fun i => !i.wf) = true := by decide +kernel

theorem smoke_refused_4 : ([
    .frdEnableWrite hdrBad 0 0 0,
    .frdRetrain hdr0 48 0 0,
    .frdRetrain hdrBad 0 0 0,
    .frdClrCnt hdr0 48 0 0,
    .frdClrCnt hdrBad 0 0 0,
    .restart hdrBad 0 0,
    .confirm hdrBad 0 0,
    .stwBootCfgWrite hdrBad 0 0,
    .pwrLimitCfgWrite hdrBad 0 0,
    .testBist hdr0 0 (2 ^ 16),
    .testBist hdr0 256 0,
    .testBist hdrBad 0 0,
    .bistComplete [bistBad],
    .testResult hdr0 (2 ^ 32),
    .testResult hdrBad 0,
    .testEcho hdrBad [],
    .secAttest hdrBad 0 none,
    .secAttest hdr0 0 (some 256),
    .secCerts hdrBad,
    .secFwUpdate hdr0 (2 ^ 64) 0,
    .secFwUpdate hdr0 0 (2 ^ 32),
    .secFwUpdate hdrBad 0 0,
    .cakInstall hdr0 0 (2 ^ 32) 0 (List.replicate 1088 0) (List.replicate 40 0),
    .cakInstall hdr0 256 0 0 (List.replicate 1088 0) (List.replicate 40 0),
    .cakInstall hdr0 0 0 0 (List.replicate 1087 0) (List.replicate 40 0),
    .cakInstall hdr0 0 0 0 (List.replicate 1088 0) (List.replicate 39 0),
    .cakInstall hdrBad 0 0 0 (List.replicate 1088 0) (List.replicate 40 0),
    .sciBind hdr0 0 0 (2 ^ 64),
    .sciBind hdr0 256 0 0,
    .sciBind hdr0 0 256 0] : List Instr).all (fun i => !i.wf) = true := by decide +kernel

theorem smoke_refused_5 : ([
    .sciBind hdrBad 0 0 0,
    .sciUnbind hdr0 0 0 (2 ^ 64),
    .sciUnbind hdr0 256 0 0,
    .sciUnbind hdr0 0 256 0,
    .sciUnbind hdrBad 0 0 0,
    .secZeroize hdr0 256,
    .secZeroize hdrBad 0,
    .pwrStatus hdrBad,
    .pwrDomain hdr0 (2 ^ 16) 0 0,
    .pwrDomain hdr0 0 0 (2 ^ 32),
    .pwrDomain hdr0 0 256 0,
    .pwrDomain hdrBad 0 0 0,
    .standby hdr0 (2 ^ 16) 0,
    .standby hdr0 0 (2 ^ 32),
    .standby hdrBad 0 0,
    .pwrLimit hdrBad 0 0,
    .pwrStoreQuery hdrBad,
    .pwrStoreSwap hdrBad,
    .linkTopology hdrBad 0,
    .linkSliceBind hdrBad 0,
    .linkSliceUnbind hdrBad 0,
    .linkStatus hdrBad,
    .logRead hdr0 (2 ^ 32) 0,
    .logRead hdr0 0 (2 ^ 16),
    .logRead hdrBad 0 0,
    .logFaults hdr0 (2 ^ 32) 0,
    .logFaults hdr0 0 (2 ^ 16),
    .logFaults hdrBad 0 0,
    .logCounters hdr0 0 (2 ^ 16),
    .logCounters hdr0 256 0] : List Instr).all (fun i => !i.wf) = true := by decide +kernel

theorem smoke_refused_6 : ([
    .logCounters hdrBad 0 0,
    .logSubscribe hdrBad 0,
    .woreoSegmentReceive rxBad,
    .syn rxBad,
    .rtoExpiry 0 0 (2 ^ 32),
    .rtoExpiry 16 0 0,
    .rtoExpiry 0 2 0,
    .ackDelayExpiry 16 0,
    .ackDelayExpiry 0 2,
    .evtCoalesceExpiry 16,
    .dataWriteResume 16,
    .queueRoomReturn 16 0,
    .queueRoomReturn 0 2,
    .tokSent 16 0,
    .tokSent 0 2,
    .arpRequest rxBad,
    .neighbourSolicitation rxBad,
    .icmpEcho rxBad,
    .ptpMessage rxBad (.followUp 0 0),
    .mkaFrame rxBad 0 true none,
    .ethLink 2 true [] 0,
    .batchForm 16 0,
    .batchForm 0 16,
    .offstepSettle 16,
    .decoderRead 0 0 512,
    .laneBeat 0 0 512,
    .confluenceAdd 0 0 0 0 { stage := 5, lo := 0, n := 1 },
    .millraceUnitStart 0 0 32,
    .millraceTile 0 32,
    .rangeMerge 0 0 0 0 0 { stage := 5, lo := 0, n := 1 }] : List Instr).all (fun i => !i.wf) = true := by decide +kernel

theorem smoke_refused_7 : ([
    .eddyWrite 0 (2 ^ 16) 0 0 [],
    .eddyRead 0 (2 ^ 16) 0 0,
    .eddyAccessResume 0 (2 ^ 16),
    .eddyWatchdogExpiry 0 (2 ^ 16),
    .windowTransferReceive 0 0 0 0 0 (2 ^ 16) 0 true 0 0 [] none,
    .windowTransferReceive 0 0 0 0 0 0 (2 ^ 16) true 0 0 [] none,
    .windowTransferReceive 0 0 0 0 0 0 0 true (2 ^ 48) 0 [] none,
    .windowTransferReceive 0 0 0 0 0 0 0 true 0 (2 ^ 32) [] none,
    .windowTransferReceive 48 0 0 0 0 0 0 true 0 0 [] none,
    .windowTransferReceive 0 16 0 0 0 0 0 true 0 0 [] none,
    .windowTransferReceive 0 0 16 0 0 0 0 true 0 0 [] none,
    .windowTransferReceive 0 0 0 16 0 0 0 true 0 0 [] none,
    .windowTransferReceive 0 0 0 0 16 0 0 true 0 0 [] none,
    .jobKill 0 (2 ^ 16),
    .jobKill 16 0,
    .jobCleared 0 (2 ^ 16),
    .jobCleared 16 0,
    .pageMoveStart 16 0,
    .pageMoveComplete 16 0 true,
    .pageCopy 16 0 none,
    .uncorrectableError (.pool 6144) .host,
    .modelHomeRepair 16 0,
    .refetchTimer 16 0,
    .correctedError (.pool 6144),
    .scrubRead (.pool 6144) .clean,
    .runnelMessage (2 ^ 16) 0 0 0 0 0 0,
    .runnelMessage 0 0 (2 ^ 16) 0 0 0 0,
    .runnelMessage 0 0 0 (2 ^ 16) 0 0 0,
    .runnelMessage 0 0 0 0 (2 ^ 16) 0 0,
    .runnelMessage 0 16 0 0 0 0 0] : List Instr).all (fun i => !i.wf) = true := by decide +kernel

theorem smoke_refused_8 : ([
    .runnelMessage 0 0 0 0 0 45 0,
    .doorbellRing (2 ^ 16) 0 0 0 0,
    .doorbellRing 0 0 (2 ^ 16) 0 0,
    .doorbellRing 0 0 0 (2 ^ 16) 0,
    .doorbellRing 0 16 0 0 0,
    .runnelHoldExpiry (2 ^ 16),
    .domainWake 372,
    .domainWakeComplete 372,
    .domainFault 372,
    .autoIdleExpiry 372,
    .fordTrain 48 0 0 true true true true,
    .fordTrain 0 8 0 true true true true,
    .fordTrain 0 0 8 true true true true,
    .fordTrainRetry 48 0 0 true true true true,
    .fordTrainRetry 0 8 0 true true true true,
    .fordTrainRetry 0 0 8 true true true true,
    .identityFrame 48 idf0,
    .identityFrame 0 idfBad,
    .heartbeatSend 48,
    .flitReceive 48 true 0 0 fh0 .other,
    .fordLostTimeout 48,
    .moduleLostTimeout 48,
    .sliceReadyReceive (2 ^ 64) 0 0 0 0,
    .sliceReadyReceive 0 16 0 0 0,
    .sliceReadyReceive 0 0 16 0 0,
    .sliceReadyReceive 0 0 0 16 0,
    .sliceReadyReceive 0 0 0 0 256,
    .sliceGoReceive (2 ^ 64) 0,
    .sliceGoReceive 0 256,
    .sliceBindTimeout (2 ^ 64)] : List Instr).all (fun i => !i.wf) = true := by decide +kernel

theorem smoke_refused_9 : ([
    .sliceJoinTimeout 0 0 (2 ^ 32),
    .sliceJoinTimeout 16 0 0,
    .sliceJoinTimeout 0 2 0,
    .sliceStopReceive 0 (2 ^ 64) 0 0,
    .sliceStopReceive 0 0 (2 ^ 64) 0,
    .sliceStopReceive 48 0 0 0,
    .sliceStopReceive 0 0 0 256,
    .vcoreDip 20 0 0,
    .vcoreDip 0 680 0,
    .brownout 2 0 0,
    .brownout 0 20 0,
    .railFault 6 0,
    .railFault 0 4,
    .railWarn 6 0,
    .sensorRead [(32, 0)] [] [],
    .sensorRead [] [(16, 0)] [],
    .sensorRead [] [] [32],
    .sensorCheck [32],
    .memoryInitComplete [] [] [bistBad],
    .selftestPeriodic (some 256),
    .drbgReseed 2,
    .mgEvents true (2 ^ 32),
    .mgFaults true (2 ^ 32),
    .mgSelftest true (2 ^ 16),
    .mgAdminHosts true (2 ^ 16) (List.replicate 1 0),
    .mgAdminHosts true 0 (List.replicate 0 0),
    .mgAdminHosts true 0 (List.replicate 241 0),
    .mgAdminMove true 256,
    .mgImage true (2 ^ 32) (List.replicate 240 0),
    .mgImage true 0 (List.replicate 239 0)] : List Instr).all (fun i => !i.wf) = true := by decide +kernel

theorem smoke_refused_10 : ([
    .mgImageCommit true (2 ^ 32),
    .tagExpiry 0 (2 ^ 32),
    .tagExpiry 16 0,
    .tierPageClearComplete (.pool 6144) true,
    .windowCloseComplete 0 (2 ^ 16) 0,
    .windowCloseComplete 0 0 (2 ^ 16),
    .windowCloseComplete 16 0 0,
    .domainOffComplete 372,
    .sliceDeclareReceive 0 (2 ^ 64) 0 0 0 0 0 0 0,
    .sliceDeclareReceive 48 0 0 0 0 0 0 0 0,
    .sliceDeclareReceive 0 0 16 0 0 0 0 0 0,
    .sliceDeclareReceive 0 0 0 16 0 0 0 0 0,
    .sliceDeclareReceive 0 0 0 0 16 0 0 0 0,
    .sliceDeclareReceive 0 0 0 0 0 16 0 0 0,
    .sliceDeclareReceive 0 0 0 0 0 0 16 0 0,
    .sliceDeclareReceive 0 0 0 0 0 0 0 16 0,
    .sliceDeclareReceive 0 0 0 0 0 0 0 0 256,
    .shadowStateSet 0 (2 ^ 32),
    .shadowStateSet 16 0,
    .addressResolutionReply rxBad] : List Instr).all (fun i => !i.wf) = true := by decide +kernel

theorem smoke_accepted_0 : ([
    .modelCreate hdr0 0 0 0 0 0,
    .modelSeal hdr0 0 0,
    .sealVerifyComplete 0 0,
    .modelDelete hdr0 0,
    .modelQuery hdr0 0,
    .modelProgram hdr0 0,
    .modelRepair hdr0 0 0 0 (List.replicate 4096 0),
    .variantCreate hdr0 0 0 0 0 0 0,
    .variantUpdate hdr0 0 0 0 0 0 0,
    .deltaVerifyComplete 0 0,
    .variantDelete hdr0 0,
    .variantRetireComplete 0 0,
    .variantPin hdr0 0 0,
    .variantQuery hdr0 0,
    .variantPrefetch hdr0 0,
    .materialisationStart 0 0,
    .materialisationComplete 0 0,
    .reqSubmit hdr0 0 [],
    .reqCancel hdr0 0,
    .reqQuery hdr0 0,
    .reqGroup hdr0 0,
    .kvConfigure hdr0 0,
    .kvQuery hdr0 0,
    .kvResume hdr0 0,
    .kvDrop hdr0 0,
    .kvPrefixFlush hdr0 0,
    .kvStats hdr0,
    .trainCreate hdr0 0,
    .trainFeed hdr0 0 0,
    .trainStart hdr0 0,
    .trainStop hdr0 0,
    .trainQuery hdr0 0,
    .trainExport hdr0 0,
    .trainDelete hdr0 0,
    .basinCreate hdr0 0,
    .basinDestroy hdr0 0,
    .basinTeardownComplete 0,
    .teardownFlushExpiry 0,
    .basinQuery hdr0 0,
    .basinQuota hdr0 0] : List Instr).all Instr.wf = true := by decide +kernel

theorem smoke_accepted_1 : ([
    .basinHosts hdr0 0 (List.replicate 8 0),
    .basinMap hdr0 0 0 0 0,
    .basinUnmap hdr0 0 0,
    .basinPlace hdr0 0 0 0,
    .basinPageq hdr0 0,
    .basinRead hdr0 0 0 0,
    .regRead hdr0 0 0,
    .regWrite hdr0 0 0 0,
    .ethPortCtrlWrite hdr0 0 0 0,
    .frdEnableWrite hdr0 0 0 0,
    .frdRetrain hdr0 0 0 0,
    .frdClrCnt hdr0 0 0 0,
    .restart hdr0 0 0,
    .confirm hdr0 0 0,
    .stwBootCfgWrite hdr0 0 0,
    .pwrLimitCfgWrite hdr0 0 0,
    .testBist hdr0 0 0,
    .bistComplete [],
    .testResult hdr0 0,
    .testEcho hdr0 [],
    .secAttest hdr0 0 none,
    .secCerts hdr0,
    .secFwUpdate hdr0 0 0,
    .cakInstall hdr0 0 0 0 (List.replicate 1088 0) (List.replicate 40 0),
    .sciBind hdr0 0 0 0,
    .sciUnbind hdr0 0 0 0,
    .secZeroize hdr0 0,
    .pwrStatus hdr0,
    .pwrDomain hdr0 0 0 0,
    .standby hdr0 0 0,
    .pwrLimit hdr0 0 0,
    .pwrStoreQuery hdr0,
    .pwrStoreSwap hdr0,
    .linkTopology hdr0 0,
    .linkSliceBind hdr0 0,
    .linkSliceUnbind hdr0 0,
    .linkStatus hdr0,
    .logRead hdr0 0 0,
    .logFaults hdr0 0 0,
    .logCounters hdr0 0 0] : List Instr).all Instr.wf = true := by decide +kernel

theorem smoke_accepted_2 : ([
    .logSubscribe hdr0 0,
    .woreoSegmentReceive rx0,
    .syn rx0,
    .rtoExpiry 0 0 0,
    .ackDelayExpiry 0 0,
    .evtCoalesceExpiry 0,
    .dataWriteResume 0,
    .queueRoomReturn 0 0,
    .tokSent 0 0,
    .arpRequest rx0,
    .neighbourSolicitation rx0,
    .icmpEcho rx0,
    .ptpMessage rx0 (.followUp 0 0),
    .mkaFrame rx0 0 true none,
    .ethLink 0 true [] 0,
    .batchForm 0 0,
    .offstepSettle 0,
    .decoderRead 0 0 0,
    .laneBeat 0 0 0,
    .confluenceAdd 0 0 0 0 { stage := 0, lo := 0, n := 1 },
    .millraceUnitStart 0 0 0,
    .millraceTile 0 0,
    .rangeMerge 0 0 0 0 0 { stage := 0, lo := 0, n := 1 },
    .eddyWrite 0 0 0 0 [],
    .eddyRead 0 0 0 0,
    .eddyAccessResume 0 0,
    .eddyWatchdogExpiry 0 0,
    .windowTransferReceive 0 0 0 0 0 0 0 true 0 0 [] none,
    .jobKill 0 0,
    .jobCleared 0 0,
    .pageMoveStart 0 0,
    .pageMoveComplete 0 0 true,
    .pageCopy 0 0 none,
    .uncorrectableError (.hbm 0) .host,
    .modelHomeRepair 0 0,
    .refetchTimer 0 0,
    .correctedError (.hbm 0),
    .scrubRead (.hbm 0) .clean,
    .runnelMessage 0 0 0 0 0 0 0,
    .doorbellRing 0 0 0 0 0] : List Instr).all Instr.wf = true := by decide +kernel

theorem smoke_accepted_3 : ([
    .runnelHoldExpiry 0,
    .domainWake 0,
    .domainWakeComplete 0,
    .domainFault 0,
    .autoIdleExpiry 0,
    .fordTrain 0 0 0 true true true true,
    .fordTrainRetry 0 0 0 true true true true,
    .identityFrame 0 idf0,
    .heartbeatSend 0,
    .flitReceive 0 true 0 0 fh0 .other,
    .fordLostTimeout 0,
    .moduleLostTimeout 0,
    .sliceReadyReceive 0 0 0 0 0,
    .sliceGoReceive 0 0,
    .sliceBindTimeout 0,
    .sliceJoinTimeout 0 0 0,
    .sliceStopReceive 0 0 0 0,
    .vcoreDip 0 0 0,
    .brownout 0 0 0,
    .railFault 0 0,
    .railWarn 0 0,
    .sensorRead [] [] [],
    .sensorCheck [],
    .memoryInitComplete [] [] [],
    .selftestPeriodic none,
    .drbgReseed 0,
    .mgEvents true 0,
    .mgFaults true 0,
    .mgSelftest true 0,
    .mgAdminHosts true 0 (List.replicate 1 0),
    .mgAdminMove true 0,
    .mgImage true 0 (List.replicate 240 0),
    .mgImageCommit true 0,
    .tagExpiry 0 0,
    .tierPageClearComplete (.hbm 0) true,
    .windowCloseComplete 0 0 0,
    .domainOffComplete 0,
    .sliceDeclareReceive 0 0 0 0 0 0 0 0 0,
    .shadowStateSet 0 0,
    .addressResolutionReply rx0] : List Instr).all Instr.wf = true := by decide +kernel

/-! ### The spec's worked examples -/

/-- The row of the example of file 02: its trits by column. -/
def rowNz : List (Nat × Int) := [(0, 1), (3, -1), (7, 1), (13, -1), (15, 1), (16, -1), (17, -1), (19, 1), (22, 1), (25, -1), (30, 1), (41, 1), (44, -1)]
def row64 : List Int := (List.range 64).map fun c => ((rowNz.find? fun x => x.1 == c).map (·.2)).getD 0
def row64T5 : List Byte := [0x37, 0x09, 0x36, 0x6A, 0x09, 0x02, 0x01, 0x00, 0xA5, 0x00, 0x00, 0x00, 0x00]
def row64Tz : List Byte := [0xA0, 0xD3, 0x81, 0x18, 0xA2, 0xF4, 0x27, 0xFA, 0x0F]

/-- File 02, "one 64-weight row": the T5 bytes and the TZ bytes, read and written (R38 to R43, R262). -/
theorem test_row_t5 : t5Row 64 row64T5 = some row64 ∧ t5Pack 13 row64 = row64T5 := by decide +kernel

theorem test_row_tz : tzRow 64 64 (nibbles row64Tz) = some row64 ∧ packNibbles (tzRowSyms 64 row64) = row64Tz := by decide +kernel

/-- File 02: S8 code 0x0313 with E_BASE -9 is 2^-6 - 2^-8 = 3 x 2^-8 (R46). -/
theorem test_scale_code : s8Valid (-9) 0x0313 = true ∧ s8A 0x0313 = 3 ∧ s8C 0x0313 = 1 ∧ s8D 0x0313 = true ∧ s8N 0x0313 = true ∧
    toF32 (.fin false (s8Val (-9) 0x0313).1.natAbs (s8Val (-9) 0x0313).2) = toF32 (.fin false 3 (-8)) := by decide +kernel

/-- File 02, "a 32-value activation block": the values in hundredths or thousandths, to 2^-30. -/
def thou (x : Int) : FVal := .fin (x < 0) ((x.natAbs * 2 ^ 30 + 500) / 1000) (-30)
def block32 : List FVal :=
  ([0, 400, -1300, 2700, 100, -550, 260, 1250, -200, 750, 0, -2100, 1600, 50, -900, 330, 0, 0, 125, 375, -125, 0, 1750, -625, 2900, -450, 0, 0, 950,
    -2700, 600, 0] : List Int).map thou

theorem test_block_f4 : fitBlock .f4 block32 =
    ([0, 2, 0xD, 7, 0, 0xA, 1, 4, 9, 3, 0, 0xE, 5, 0, 0xC, 1, 0, 0, 0, 2, 0, 0, 6, 0xA, 7, 0xA, 0, 0, 4, 0xF, 2, 0], 126) := by decide +kernel

/-- File 03: aligned operands with X_ref 126 (R75), and the fold 592 with code 0x0313 (R77). -/
theorem test_fold : ([(126, 7), (126, 4), (126, 1), (126, 0xA), (124, 5), (124, 0xB)] : List (Nat × Nat)).map (fun x => alignF4 126 x.1 x.2) =
      [.fin 768, .fin 256, .fin 64, .fin (-128), .fin 96, .fin (-48)] ∧ foldCell 0x0313 (.fin 592) (.fin 0) = .fin 3552 := by decide +kernel

/-- File 03: the eight non-zeros of lane 1's group with k = 6: the seventh event is the spill entry, the last two apply columns 27 and 29 (R85). -/
theorem test_spill : (tzGroup 16 0 [0, 1, 8, 1, 9, 0, 2, 9, 15]).map (·.1) =
      some [(0, false), (2, false), (3, true), (5, false), (7, true), (8, false), (11, false), (13, true)] ∧
    groupEvents 6 8 = 9 ∧
    tritAt 6 [(0, false), (2, false), (3, true), (5, false), (7, true), (8, false), (11, false), (13, true)] 6 = none ∧
    tritAt 6 [(0, false), (2, false), (3, true), (5, false), (7, true), (8, false), (11, false), (13, true)] 7 = some (11, false) := by
  decide +kernel

/-- File 04, "one value from four chunks to F4": the tree of R103 and R104 over the four records. -/
theorem test_chunks : confFold confAdd (fun k => ([⟨.fin 3552, 144⟩, ⟨.fin (-1200), 142⟩, ⟨.fin 0, 145⟩, ⟨.fin 10000, 143⟩] : List PSum).getD k ⟨.fin 0, 0⟩) 4 0 4 =
    { v := .fin 8252, p := 144 } := by decide +kernel

/-- File 04: the block trips on saturation and is replayed at 122 (R117): the codes, one replay, no escape. -/
theorem test_replay : (narrowBlock .f4 (some 120) 2 4 ([.fin false 16444 (-17), .fin false 7 (-7), .fin false 7 (-7), .fin false 7 (-7), .fin false 7 (-7),
      thou 5, thou 3] ++ List.replicate 25 (.fin false 0 0)) (List.replicate 32 none)).1.codes.head? = some 6 ∧
    (narrowBlock .f4 (some 120) 2 4 ([.fin false 16444 (-17), .fin false 7 (-7), .fin false 7 (-7), .fin false 7 (-7), .fin false 7 (-7),
      thou 5, thou 3] ++ List.replicate 25 (.fin false 0 0)) (List.replicate 32 none)).1.x = 122 ∧
    (narrowBlock .f4 (some 120) 2 4 ([.fin false 16444 (-17), .fin false 7 (-7), .fin false 7 (-7), .fin false 7 (-7), .fin false 7 (-7),
      thou 5, thou 3] ++ List.replicate 25 (.fin false 0 0)) (List.replicate 32 none)).1.nzero = 2 ∧
    (narrowBlock .f4 (some 120) 2 4 ([.fin false 16444 (-17), .fin false 7 (-7), .fin false 7 (-7), .fin false 7 (-7), .fin false 7 (-7),
      thou 5, thou 3] ++ List.replicate 25 (.fin false 0 0)) (List.replicate 32 none)).2 = (true, false) := by decide +kernel

/-- File 12, "one group re-quantised and coded": column 17 up and column 20 down give the symbols 0x7, 0xA, 0x0, 0xA (R70). -/
theorem test_row_record : packNibbles (deltaRowSyms 64 0 [(17, false), (20, true)]) = [0xA7, 0xA0] ∧
    deltaRow 64 4 0 [7, 0xA, 0, 0xA] = some [(17, false), (20, true)] := by decide +kernel

/-- File 13, R390's example: TRK_MEM_CTRL at its reset value 0x18_010A_0540; a write of 0x60 under mask 0xFF reads back 0x18_010A_0560. -/
theorem test_mig_share : regValue (writeReg ready h1 0xFF 0x60 .memCtrl) 1 .memCtrl = 0x18010A0560 ∧ regAt 0x30000 = some .memCtrl := by decide +kernel

/-! ### A step with its job's pools -/

/-- Sixteen granules of reach 0's pool, owned by job 1 of basin 1. -/
def pools1 : Pools where
  grans := (List.range 16).map fun g => { g := g, state := .owned, basin := 1, job := 1 }
  jobs := [{ basin := 1, num := 1, cls := 0, gid := 0, slots := [(0, List.range 16)] }]

def poolReady : State := { ready with pools := pools1 }

/-- Every address of the first MiB lies in a granule of the job. -/
theorem pools_open {s : State} {t : Step} (hs : s.pools = pools1) (hb : t.basin = 1) (hj : t.job = 1) {k : Nat} (hk : k < 0x100000) :
    Laws.inPools s t k := by
  have hg : ∀ g < 16, (pools1.grans.find? fun x => x.g == g) = some { g := g, state := .owned, basin := 1, job := 1 } := by decide +kernel
  have hl : ∀ g < 16, (List.range 16)[g]? = some g := by decide +kernel
  refine ⟨by omega, ?_⟩
  have e0 : k / 0x100000 = 0 := by omega
  have e1 : k % 0x100000 = k := by omega
  have e2 : k / 65536 < 16 := by omega
  have e3 : k < 0x10000000 := by omega
  have : granAtAddr s 1 1 k = some (k / 65536) := by
    simp only [granAtAddr, slotOf, jobOf, hs, e0, e1, e3, if_true]
    simp [pools1, hl _ e2]
  simp only [poolPlace, hb, hj, this, granOf, jobOf, hs, hg _ e2]
  rfl

def gotOk {α : Type} : Got α → Bool
  | .ok _ _ => true
  | .stop _ => false

theorem of_gotOk {α : Type} {g : Got α} (h : gotOk g = true) : ∃ a u, g = .ok a u := by
  cases g with
  | ok a u => exact ⟨a, u, rfl⟩
  | stop u => cases h

/-- A matrix descriptor of one row, one token and 32 columns, its records at 0x20000 and its status at 0xF0000. -/
def mat1 : BitVec 512 := fields 512 [(0, 0x10), (32, 1), (192, 0x20000), (448, 0xF0000)]

/-- A weight-gradient descriptor of one row, one token and 32 columns. -/
def grad1 : BitVec 512 := fields 512 [(0, 0x11), (10, 1), (32, 1), (192, 0x20000), (384, 0x80000), (432, 1)]

def lane1 : Lane := { lane := 0, row := 0, u := [.fin 0], acc := [.fin 0] }
def item1 : Item := { idx := 0, refs := [127], lanes := [lane1], acts := [(List.replicate 32 0, [127])] }
def gradItem : Item := { item1 with saved := [(List.replicate 32 0, [127])] }

/-- A step of basin 1 with one descriptor. -/
def stepWith (d : BitVec 512) (u : Units) : Step :=
  { sid := 1, basin := 1, gid := 0, kind := .serve false, cls := 0, job := 1, vid := 5, base := 5, gen := 0, descs := [d], bound := true,
    formT := 0, units := u }

/-- A state with such a step. -/
def unitState (d : BitVec 512) (u : Units) : State := withStep poolReady (stepWith d u)

def free0 : Units := { reaches := [{ pos := 0 }], mats := [{ desc := 0 }] }
def busy0 (it : Item) : Units := { reaches := [{ pos := 0, item := some it }], mats := [{ desc := 0 }] }
def drain0 : Units := { reaches := [{ pos := 0, drain := some { idx := 0, desc := 0, accs := [(0, [.fin 3])], exps := [145] } }], mats := [{ desc := 0 }] }

theorem witness_item_prologue (d : BitVec 512) (hd : d = mat1 ∨ d = grad1) : stepOf (unitState d free0) 1 = some (stepWith d free0) ∧
    reachOf (stepWith d free0) 0 = some { pos := 0 } ∧ stepRuns (stepWith d free0) = true ∧ unitGoes (stepWith d free0) (uReach 0) = true ∧
      nextItem (stepWith d free0) { pos := 0 } = some (0, 0) ∧ descReady (unitState d free0) (stepWith d free0) 0 = true := by
  rcases hd with rfl | rfl <;> exact ⟨rfl, rfl, rfl, by decide +kernel, by decide +kernel, by decide +kernel⟩

theorem witness_window_load : stepOf (unitState mat1 (busy0 item1)) 1 = some (stepWith mat1 (busy0 item1)) ∧
    reachOf (stepWith mat1 (busy0 item1)) 0 = some { pos := 0, item := some item1 } ∧ reachWorks (stepWith mat1 (busy0 item1)) 0 = true ∧
      kindOf mat1 = 0x10 ∧ 0 < (geoOf mat1 0).grps ∧ mMode1 mat1 = false :=
  ⟨rfl, rfl, by decide +kernel, by decide +kernel, by decide +kernel, by decide +kernel⟩

theorem witness_lanes : (item1.lanes.find? fun l => l.lane == 0) = some lane1 ∧ lane1.rdGrp < (geoOf mat1 0).grps ∧ lane1.rdGrp ≤ lane1.grp + 2 ∧
    kindOf grad1 = 0x11 ∧ reachWorks (stepWith grad1 (busy0 gradItem)) 0 = true := by decide +kernel

/-- The lanes after their last group. -/
def joinItem (it : Item) : Item := { it with lanes := [{ lane1 with grp := 2 }] }

theorem witness_item_join : reachWorks (stepWith mat1 (busy0 (joinItem item1))) 0 = true ∧ reachWorks (stepWith grad1 (busy0 (joinItem gradItem))) 0 = true ∧
    (∀ l ∈ (joinItem item1).lanes, (geoOf mat1 0).grps ≤ l.grp) ∧ (∀ l ∈ (joinItem gradItem).lanes, (geoOf grad1 0).toks ≤ l.grp) ∧
    gotOk (finalFolds (unitState mat1 (busy0 (joinItem item1))) (stepWith mat1 (busy0 (joinItem item1))) 0 0
      (headerAt (unitState mat1 (busy0 (joinItem item1))) (stepWith mat1 (busy0 (joinItem item1))) 0) 1 (joinItem item1).lanes) = true := by decide +kernel

theorem le_length (n w : Nat) : (le n w).length = n := by
  induction n generalizing w with
  | zero => rfl
  | succ n ih => simp [le, ih]

theorem recordBytes_length (nl c : Nat) (x : Drain) : (recordBytes nl c x).length = nl * (c * 4) + 256 := by
  simp [recordBytes, List.length_flatten, Function.comp_def, le_length]

theorem witness_drain_complete : let t := stepWith mat1 drain0
    (reachOf t 0).isSome = true ∧ reachWorks t 0 = true ∧
    ∃ u, wideWrite (unitState mat1 drain0) { reachAcc (unitState mat1 drain0) t 0 0 with task := [3] } 0x20000
      (recordBytes (tileNL (mCw mat1)) (tileC (mCw mat1)) { idx := 0, desc := 0, accs := [(0, [.fin 3])], exps := [145] }) = .ok () u := by
  refine ⟨by decide +kernel, by decide +kernel, ?_⟩
  obtain ⟨u, hu, _⟩ := Laws.wideWrite_pool (s := unitState mat1 drain0) (a := { reachAcc (unitState mat1 drain0) (stepWith mat1 drain0) 0 0 with task := [3] })
    (t := stepWith mat1 drain0) (addr := 0x20000)
    (bs := recordBytes (tileNL (mCw mat1)) (tileC (mCw mat1)) { idx := 0, desc := 0, accs := [(0, [.fin 3])], exps := [145] })
    rfl rfl rfl fun k _ hk => pools_open rfl rfl rfl (by
      rw [recordBytes_length] at hk
      have e : tileNL (mCw mat1) * (tileC (mCw mat1) * 4) + 256 = 65792 := by decide +kernel
      rw [e] at hk; omega)
  exact ⟨u, hu⟩

/-- A step in which faults have been found. -/
def faulted (st : Nat) : Step := { stepWith mat1 {} with faults := [{ status := st, src := 0, desc := 0, tag := 0, aux := 0 }] }

theorem witness_step_fault : (faulted stIndexRange).faults ≠ [] ∧ (faulted stIndexRange).stopped = false ∧
    worstStatus (faulted stIndexRange).faults ≠ stDataPoisoned ∧ worstStatus (faulted stIndexRange).faults ≠ stWeightPoisoned ∧
    worstStatus (faulted stWeightPoisoned).faults = stWeightPoisoned ∧ worstStatus (faulted stDataPoisoned).faults = stDataPoisoned ∧
    (stepOf (withStep poolReady (faulted stIndexRange)) 1).isSome = true := by decide +kernel

/-! ### What every step does -/

/-- What the core asks of a command before it takes it, as a test. -/
def takesNow (s : State) (c : Instr) : Bool := c.call.any fun k => taken s k.h k.op c.params && decide (k.h.basin < s.links.length)

/-- What it asks before it runs one, as a test. -/
def runsNow (s : State) (c : Instr) : Bool := takesNow s c && c.call.any fun k => roleHeld s k.h k.op && k.obj.all fun o => !objBusy s k.h.basin o

theorem of_takesNow {s : State} {c : Instr} (h : takesNow s c = true) : s.takes c := by
  unfold takesNow at h
  cases hc : c.call with
  | none => simp [hc] at h
  | some k => simp [hc] at h; exact ⟨k, hc, h.1, h.2⟩

theorem of_runsNow {s : State} {c : Instr} (h : runsNow s c = true) : s.accepts c := by
  unfold runsNow takesNow at h
  cases hc : c.call with
  | none => simp [hc] at h
  | some k =>
    simp [hc] at h
    refine ⟨k, hc, h.1.1, h.1.2, h.2.1, fun o ho => ?_⟩
    have := h.2.2; rw [Option.mem_def.1 ho] at this; simpa using this

/-- The module with basin 1 live and another basin as administration basin. -/
def guest : State := { ready with admin := 2 }

/-- The module at reset while a PTP offset of `slew` nanoseconds is slewed out. -/
def slewing (slew : Int) (ctr : Nat) : State := { State.reset with eth := { State.reset.eth with ptp := { State.reset.eth.ptp with slew := slew, slewCtr := ctr } } }

theorem witness_idle : State.reset.pending = [] ∧ State.reset.eth.ptp.slew = 0 ∧
    ((slewing 1 9998).eth.ptp.slew ≠ 0 ∧ (slewing 1 9998).eth.ptp.slewCtr < 9999) ∧
    (0 < (slewing 1 9999).eth.ptp.slew ∧ 9999 ≤ (slewing 1 9999).eth.ptp.slewCtr) ∧
    ((slewing (-1) 9999).eth.ptp.slew < 0 ∧ 9999 ≤ (slewing (-1) 9999).eth.ptp.slewCtr) ∧
    State.reset.steps = [] ∧ State.reset.pools.accepted = [] ∧ State.reset.eth.waits = [] ∧ State.reset.fords.slices = [] ∧
    (∀ n < 48, (fordOf State.reset n).trained = false) ∧ State.reset.fords.out = [] ∧ State.reset.fords.hub = [] ∧
    State.reset.fords.owed = [] ∧ State.reset.fords.streams = [] ∧ State.reset.fords.turns = [] ∧ State.reset.fords.lmWait = [] ∧
    State.reset.sec.signing = none ∧ (∀ b < 16, (linkOf State.reset b).inbox.head?.all (·.bad == 0) = true) ∧
    State.reset.runnels.ends.all (fun e => !domOn State.reset (endDomain e.num) || (e.queue.isEmpty && e.held.isEmpty && e.bell == 0)) = true := by
  decide +kernel

theorem witness_kept : ∃ t, State.reset.memOk ∧ State.reset.banked ∧ step State.reset = .next t := by
  unfold State.memOk State.banked
  exact ⟨_, by decide +kernel, by decide +kernel, rfl⟩

def query1 : HostCall := ⟨h1, 0x0103, false, some (.model 5)⟩

theorem witness_not_taken : (Instr.modelQuery h1 5).call = some query1 ∧ State.reset.boot.stage ≠ 6 ∧
    ({ ready with pwr := { ready.pwr with standbyUntil := some none } } : State).pwr.standbyUntil.isSome = true ∧
    basinLive { ready with basins := [] } 1 = false ∧
    inTeardown { ready with basins := ready.basins.map fun x => { x with teardown := some { start := 0, step := 3 } } } 1 = true ∧
    (linkOf (setLink ready 1 fun l => { l with rspWait := [.rsp 0x0103 0 1 []] }) 1).rspWait ≠ [] ∧
    256 ≤ (linkOf (withDeferred ready 1 (List.replicate 256 { h := h1, opcode := 0x0101, obj := .model 5 })) 1).deferred.length := by
  decide +kernel

theorem witness_admin_refused : (Instr.basinDestroy h1 3).call = some ⟨h1, 0x0601, true, some (.basin 3)⟩ ∧ isAdmin guest 1 = false ∧
    storeReady guest = true ∧ guest.takes (.basinDestroy h1 3) ∧ (Instr.secAttest h1 1 none).call = some ⟨h1, 0x0900, false, none⟩ ∧
    roleHeld ready h1 0x0900 = false ∧ storeReady ready = true ∧ reportWaits ready = false ∧ ready.takes (.secAttest h1 1 none) :=
  ⟨rfl, by decide +kernel, by decide +kernel, of_takesNow (by decide +kernel), by decide +kernel, by decide +kernel, by decide +kernel,
    by decide +kernel, of_takesNow (by decide +kernel)⟩

theorem witness_busy : (Instr.modelQuery h1 5).call = some query1 ∧
    objBusy (withDeferred ready 1 [{ h := h1, opcode := 0x0101, obj := .model 5 }]) 1 (.model 5) = true ∧
    roleHeld (withDeferred ready 1 [{ h := h1, opcode := 0x0101, obj := .model 5 }]) h1 0x0103 = true ∧
    storeReady (withDeferred ready 1 [{ h := h1, opcode := 0x0101, obj := .model 5 }]) = true ∧
    (withDeferred ready 1 [{ h := h1, opcode := 0x0101, obj := .model 5 }]).takes (.modelQuery h1 5) :=
  ⟨rfl, by decide +kernel, by decide +kernel, by decide +kernel, of_takesNow (by decide +kernel)⟩

/-- A CMD message of an opcode with CTAG 7 and some parameter bytes. -/
def cmdOf (op n : Nat) : List Byte := le 2 op ++ le 2 0 ++ le 4 7 ++ List.replicate n 0

theorem witness_delivered : 1 < ready.links.length ∧ opcodeKnown (ofLe ((cmdOf 0xFFFF 0).take 2)) = false ∧
    opcodeKnown (ofLe ((cmdOf 0x0103 4).take 2)) = true ∧ lengthOk 0x0103 (cmdOf 0x0103 4) = true ∧
    lengthOk 0x0103 (cmdOf 0x0103 12) = false ∧ (linkOf ready 1).inbox = [] ∧ (linkOf ready 1).rspWait = [] ∧
    (linkOf (setLink ready 1 fun l => { l with rspWait := [.rsp 0x0103 0 1 []] }) 1).rspWait ≠ [] ∧
    (linkOf (setLink ready 1 fun l => { l with inbox := [{ opcode := 0x0103, ctag := 1, bytes := [] }] }) 1).inbox.head?.any (·.bad == 0) = true := by
  decide +kernel

theorem witness_registers : guest.takes (.regWrite h1 0x30000 0xFF 0x60) ∧ storeReady guest = true ∧ regAt 0x30000 = some .memCtrl ∧
    isAdmin guest 1 = false ∧ guest.takes (.regWrite h1 0x4 0xFF 0x60) ∧ regAt 0x4 = none ∧ guest.takes (.regRead h1 0x30000 128) ∧
    regAt (0x30000 + 8 * 127) = none :=
  ⟨of_takesNow (by decide +kernel), by decide +kernel, by decide +kernel, by decide +kernel, of_takesNow (by decide +kernel), by decide +kernel,
    of_takesNow (by decide +kernel), by decide +kernel⟩

theorem witness_memctrl : ready.takes (.regWrite h1 0x30000 0xFF 0x60) ∧ isAdmin ready 1 = true ∧
    ready.tiers.memCtrl = 0x00000018010A0540 := ⟨of_takesNow (by decide +kernel), by decide +kernel⟩

theorem witness_nan : ofF32 0x7FC00000 = .nan ∧ ofF32 0xFF800001 = .nan := by decide +kernel

theorem witness_status_rank : ([{ status := stFormatInvalid, src := 0, desc := 0, tag := 0, aux := 0 },
      { status := stKvReadonly, src := 0, desc := 0, tag := 0, aux := 0 }] : List Flt).all
    (fun f => [stIndexRange, stKvReadonly, stFormatInvalid, stCapViolation].contains f.status) = true := by decide +kernel

theorem witness_dom_state : ready.takes (.regWrite h1 0x10158 1 1) ∧ isAdmin ready 1 = true ∧ guest.takes (.regWrite h1 0x10100 1 1) ∧
    isAdmin guest 1 = false :=
  ⟨of_takesNow (by decide +kernel), by decide +kernel, of_takesNow (by decide +kernel), by decide +kernel⟩

theorem witness_doorbell : endOf ready 0x160 = some { num := 0x160 } ∧ ready.pending = [] ∧ (domOf ready (endDomain 0x160)).state ≠ 3 ∧
    domOn ready (endDomain 0x160) = true := by decide +kernel

/-! ### The key-value store, the logs and the queries -/

/-- A paused conversation 9 with two committed tokens. -/
def conv9 : Conv where
  conv := 9
  rows := []
  committed := 2
  toks := [1, 2]
  pauseSec := 50
  ttl := 3600
  vid := 5
  base := 5
  cleanGen := none
  layers := 1
  heads := 1
  dh := 64
  book := []

def withConv (c : Conv) : State := setKv ready 1 fun k => { k with convs := [c] }

theorem conv_accepts (c : Conv) : c = conv9 ∨ c = { conv9 with resuming := true } →
    (withConv c).accepts (.kvDrop h1 9) ∧ (withConv c).takes (.kvDrop h1 9) ∧ (withConv c).takes (.kvResume h1 9) := by
  rintro (rfl | rfl) <;>
    exact ⟨of_runsNow (by decide +kernel), of_takesNow (by decide +kernel), of_takesNow (by decide +kernel)⟩

theorem witness_kv_busy : (withConv conv9).takes (.kvDrop h1 9) ∧ convOf (withConv conv9) 1 9 = some conv9 ∧ convTaken (withConv conv9) 1 9 = none ∧
    objBusy (withConv conv9) 1 (.conv 9) = false ∧ (withConv { conv9 with resuming := true }).takes (.kvDrop h1 9) ∧
    (withConv { conv9 with resuming := true }).takes (.kvResume h1 9) ∧
    (convOf (withConv { conv9 with resuming := true }) 1 9).any (·.resuming) = true :=
  ⟨(conv_accepts _ (.inl rfl)).2.1, by decide +kernel, by decide +kernel, by decide +kernel, (conv_accepts _ (.inr rfl)).2.1,
    (conv_accepts _ (.inr rfl)).2.2, by decide +kernel⟩

/-- The record of reset with another TTL_S. -/
def kvTtl : BitVec 384 := fields 384 [(0, 1), (2, 1), (32, 604800)]

/-- A record with a list area of one page. -/
def kvList : BitVec 384 := fields 384 [(0, 1), (2, 1), (32, 1), (256, 4096 * p0), (320, 1)]

theorem witness_kv_ttl : ready.takes (.kvConfigure h1 kvTtl) ∧ 1 < ready.kvs.length ∧
    (List.range 384).all (fun i => decide (32 ≤ i ∧ i < 64) || kvTtl.getLsbD i == (kvOf ready 1).cfg.getLsbD i) = true ∧
    kvCfgCheck ready 1 kvTtl = stOk := ⟨of_takesNow (by decide +kernel), by decide +kernel⟩

theorem witness_fw_ctrl : ready.takes (.regWrite h1 0x10 3 3) ∧ ready.storeOpen ∧ isAdmin ready 1 = true ∧
    guest.takes (.regWrite h1 0x10 3 3) ∧ guest.storeOpen ∧ isAdmin guest 1 = false ∧
    ready.boot.restartDue = none ∧ ({ ready with sec := { ready.sec with revoke0 := true } } : State).sec.revoke0 = true :=
  ⟨of_takesNow (by decide +kernel), by unfold State.storeOpen; decide +kernel, by decide +kernel, of_takesNow (by decide +kernel),
    by unfold State.storeOpen; decide +kernel, by decide +kernel⟩

theorem witness_queries : ∃ t, (Instr.kvStats h1).call = some ⟨h1, 0x0405, false, none⟩ ∧
    0x0405 ∈ [0x0103, 0x0204, 0x0312, 0x0401, 0x0405, 0x0504, 0x0602, 0x0613, 0x0700, 0x0801, 0x0802, 0x0901, 0x0A00, 0x0B02,
      0x0C00, 0x0C01, 0x0C02] ∧ exec (.kvStats h1) ready = .next t := ⟨_, rfl, by decide, rfl⟩

/-! ### Memory, events, domains and ports -/

/-- A state with granule 0 of reach 0's pool being cleared. -/
def clearingGran : State := { ready with pools := { pools1 with
  grans := { g := 0, state := .clearing, basin := 1, job := 1 } :: pools1.grans.tail } }

/-- A state with HBM3E frame 5 being cleared. -/
def clearingFrame : State := { ready with tiers := { ready.tiers with clearing := [{ tier := 1, frame := 5, basin := 1 }] } }

theorem witness_clearing : (granOf clearingGran 0).state = .clearing ∧
    (clearingGran.pwr.doms.getD (poolDomain (poolOf 0)) {}).state = 2 ∧
    (clearingFrame.tiers.clearing.any fun c => c.tier == 1 && c.frame == 5) = true ∧
    (clearingFrame.tiers.pages.find? fun e => e.kind == .kv && e.homeT == 1 && e.homeLoc == 5) = none := by decide +kernel

/-- A page that moves from LPDDR5X to HBM3E frame 9. -/
def movingPage : PageEnt := { workPage with moving := some (1, 9) }

theorem witness_page_move : (withPages ready [movingPage]).memOk ∧ pageOf (withPages ready [movingPage]) 1 p0 = some movingPage ∧
    movingPage.moving = some (1, 9) ∧ movingPage.homeT ≠ 3 ∧ (withPages ready [movingPage]).tiers.retiring.contains (1, 9) = false ∧ rowAtPage (kvOf (withPages ready [movingPage]) 1) p0 = none := by
  unfold State.memOk; decide +kernel

/-- A DATA segment of three bytes that ends at the end of the page. -/
def seg1 : DataSeg := { addr := 4096 * p0 + 4093, xid := 3, bytes := [1, 2, 3] }

theorem witness_data : (withPages ready [workPage]).memOk ∧ dataMustWait (withPages ready [workPage]) 1 [] seg1 = false ∧
    (linkOf (withPages ready [workPage]) 1).dataWait = [] ∧ dataRefusal (withPages ready [workPage]) 1 seg1 = none ∧
    pageOf (withPages ready [workPage]) 1 (seg1.addr / 4096) = some workPage ∧ seg1.addr % 4096 + seg1.bytes.length ≤ 4096 ∧
    dataMustWait ready 1 (linkOf ready 1).dataWait seg1 = false ∧ (dataRefusal ready 1 seg1).isSome = true := by
  unfold State.memOk; decide +kernel

/-- A state whose domain of reach 0 wakes. -/
def wakingReach : State := setDom poolReady 0 fun x => { x with state := 1 }

theorem witness_waking : (domOf wakingReach 0).state = 1 ∧ 0 < wakingReach.pwr.doms.length ∧ (needs wakingReach 0).all (domOn wakingReach) = true ∧
    domainPool 0 = some 0 ∧ granOf wakingReach 0 = { g := 0, state := .owned, basin := 1, job := 1 } := by decide +kernel

/-! ### Ports, submissions and the epilogue -/

/-- A port state with MACSEC_REQ. -/
def macPort : State := { ready with eth := { ready.eth with ports := [{ ctrl := 0x21, linkUp := true, rateNow := 1, lanes := 4 }] } }

/-- The header of an acknowledgement of basin 1's flow 0. -/
def hdr6 : WoreoHdr := { kind := 6, flow := 0, basin := 1, seq := 0, ack := 0, sack := 0, rwnd := 10, len := 0, time := 0, maxpay := 0 }

/-- A datagram with this header from basin 1's host, its addresses those of IPv6. -/
def rxOf (h : WoreoHdr) : RxFrame where
  port := 0
  fcsOk := true
  secTag := none
  bufferRoom := true
  bytes := frameBytes (List.replicate 6 2)
    { port := 0, vid := none, pcp := 0, toMac := some 1, sec := none, body := .woreo h 20 10 47077 [] }

def rx1 : RxFrame := rxOf hdr6

/-- The same frame under association 0 of channel 4. -/
def rxTag : RxFrame := { rx1 with secTag := some [0x88, 0xE5, 0x2C, 0, 0, 0, 0, 1, 0, 0, 0, 0, 0, 0, 0, 4] }

def macSak : State := { macPort with sec := { macPort.sec with saks := [{ port := 0, an := 0, key := 3 }] } }

theorem witness_unprotected : portLink macPort 0 = true ∧ macPort.boot.stage = 6 ∧ vlanOk macPort rx1 = true ∧
    bitAt (portCtrl macPort 0) 5 = true ∧ rx1.sec = none ∧ protectedOk macPort rx1 = false ∧ hasSak macPort 0 = false ∧ rx1.linkOk = true ∧ rx1.uncontrolled = false ∧
    rxTag.linkOk = true ∧ rx1.udpOk = true ∧ rx1.dstPort = 47077 ∧ rx1.dstIp = 10 ∧ portLink macSak 0 = true ∧ protectedOk macSak rxTag = true ∧
    vlanOk macSak rxTag = true ∧ ownerOf macSak 0 10 = some 1 ∧
    (macSak.sec.scis.any fun k => k.port == 0 && some k.sci == rxTag.sci && k.basin == 1) = false := by decide +kernel

/-- A submission of one greedy token under variant 5. -/
def blk1 : BitVec 512 := fields 512 [(0, 77), (32, 5), (64, 1), (96, 1), (256, 1)]

theorem witness_submit_refused : ready.takes (.reqSubmit h1 blk1 [1]) ∧ objBusy ready 1 (.tag (fld blk1.toNat 0 31)) = false ∧
    submitCheck ready 1 (sizedReq ready 1 { basin := 1, tag := fld blk1.toNat 0 31, blk := blk1, prompt := [1] }) ≠ stOk ∧
    submitFieldsOk (sizedReq ready 1 { basin := 1, tag := fld blk1.toNat 0 31, blk := blk1, prompt := [1] }) = true ∧
    submitFieldsOk { basin := 1, tag := 0, blk := 0, prompt := [] } = false :=
  ⟨of_takesNow (by decide +kernel), by decide +kernel⟩

/-- A matrix of two rows whose epilogue is descriptor 1, which merges them. -/
def mat2 : BitVec 512 := fields 512 [(0, 0x10), (32, 1), (192, 0x20000), (288, 1), (384, 64), (448, 0xF0000)]
def epi2 : BitVec 512 := fields 512 [(0, 0x20), (80, 1), (192, 0x50000), (240, 1), (304, 0x40000), (400, 0x60000)]

/-- The step with the record read, so that every leaf is 0. -/
def units2 : Units := { mats := [{ desc := 0, drained := 1 }], records := [(1, 0, [])], epis := [{ desc := 1 }] }

def node2 : CNode := { stage := 1, lo := 0, n := 2 }

def merged : Units := { units2 with sums := [{ epi := 1, tok := 0, row := 0, node := node2, sum := { v := .fin 0, p := 0 } }] }

def step2 (u : Units) : Step := { stepWith mat2 u with descs := [mat2, epi2] }
def state2 (u : Units) : State := withStep { poolReady with mem := memPuts [] (granAt 4) (le 4 0 ++ le 2 2 ++ le 2 0) } (step2 u)

theorem witness_confluence : stepOf (state2 units2) 1 = some (step2 units2) ∧ stepRuns (step2 units2) = true ∧ kindOf epi2 = 0x20 ∧
    epiRows (state2 units2) (step2 units2) 1 = [(0, 2)] ∧ confNode 3 0 2 0 2 = true ∧ 0 < mTok (matOf (state2 units2) (step2 units2) epi2) ∧
    nodeVal (step2 units2) 1 0 0 node2 = none ∧ childVal (step2 units2) 1 0 0 1 (confSplit 0 2).1
      (fun s j => chunkRoot (step2 units2) 1 (matOf (state2 units2) (step2 units2) epi2) (leafItem (matOf (state2 units2) (step2 units2) epi2) 0 0 0)
        (0 + j) 0 s) (state2 units2) = .ok (some { v := .fin 0, p := 0 }) (state2 units2) ∧ childVal (step2 units2) 1 0 0 1 (confSplit 0 2).2
      (fun s j => chunkRoot (step2 units2) 1 (matOf (state2 units2) (step2 units2) epi2) (leafItem (matOf (state2 units2) (step2 units2) epi2) 0 0 0)
        (0 + j) 0 s) (state2 units2) = .ok (some { v := .fin 0, p := 0 }) (state2 units2) ∧ unitGoes (step2 units2) uAdder = true :=
  ⟨rfl, by decide +kernel, by decide +kernel, by decide +kernel, by decide +kernel, by decide +kernel, by decide +kernel, rfl, rfl, rfl⟩

theorem witness_epilogue_block : epiOf (step2 merged) 1 = some { desc := 1 } ∧ 0 < cdiv 1 32 ∧
    stepRuns (step2 merged) = true ∧ unitGoes (step2 merged) uEpi = true ∧ 0 < mTok (matOf (state2 merged) (step2 merged) epi2) ∧
    descReady (state2 merged) (step2 merged) 1 = true ∧
    blockRoots (step2 merged) 1 (matOf (state2 merged) (step2 merged) epi2) (epiRows (state2 merged) (step2 merged) 1) 0 [0] (state2 merged) =
      .ok (some [{ v := .fin 0, p := 0 }]) (state2 merged) := ⟨rfl, by decide, by decide +kernel, by decide +kernel, by decide +kernel, by decide +kernel, rfl⟩

/-- The epilogue with its one block through. -/
def through : EpiCtx := { desc := 1, done := [(0, 0)] }
def endUnits : Units := { merged with epis := [through] }

theorem witness_epilogue_finish : epiOf (step2 endUnits) 1 = some through ∧ stepWorks (step2 endUnits) = true ∧
    mTok mat2 * cdiv 1 32 ≤ through.done.length ∧ stopAxis (state2 endUnits) 1 (eAxes epi2) = none ∧ bitAt epi2.toNat 19 = false ∧
    gotOk (wideWriteMany (state2 endUnits) (epiAcc (state2 endUnits) (step2 endUnits) 1)
      ([] ++ [(dfld epi2 400 447, cntBytes through (dfld mat2 368 383) 0 1)])) = true := by decide +kernel

/-- The same epilogue with the x axis reduced, on the second module of a slice of two along x. -/
def epiX : BitVec 512 := epi2 ||| fields 512 [(20, 1)]
def stepX : Step := { step2 endUnits with descs := [mat2, epiX] }
def stateX : State := { withStep { poolReady with mem := (state2 endUnits).mem } stepX with
  fords := { ready.fords with topo := fields 512 [(0, 1), (16, 1)], slices := [{ word := fields 256 [(64, 1), (84, 1)], state := 2 }] } }

theorem witness_epilogue_elsewhere : epiOf stepX 1 = some through ∧ stepWorks stepX = true ∧
    mTok (matOf stateX stepX epiX) * cdiv (epiRows stateX stepX 1).length 32 ≤ through.done.length ∧
    (stopAxis stateX 1 (eAxes epiX)).isSome = true ∧ bitAt epiX.toNat 19 = false := by decide +kernel

/-! ### Attention, the weir, the loss and the weight gradients -/

/-- An attention descriptor of one request with one page: query rows at 0x10000, table at 0x40000, output at 0x50000. -/
def att1 : BitVec 512 := fields 512 [(0, 0x30), (56, 1), (128, 0x10000), (176, 1), (192, 0x40000), (240, 4), (256, 0x50000), (448, 0xF0000)]

/-- The table entry (page list at 0x41000, one page) and the list entry (the page at 0x42000 with one key). -/
def attMem : List Host.Cell :=
  memPuts (memPuts [] (granAt 4) (le 6 0x41000 ++ le 2 1)) (granAt 4 + 0x1000) (le 6 0x42000 ++ le 2 0 ++ le 1 1)

def attStep (u : Units) : Step := { stepWith att1 u with prog := fields 384 [(40, 1)] }
def attState (u : Units) : State := withStep { poolReady with mem := attMem } (attStep u)

def att0 : AttCtx := { desc := 0 }
def attSel : AttCtx := { att0 with sel := [(0, 0, 0, [0])] }

theorem witness_unit_start : stepOf (attState { atts := [attSel] }) 1 = some (attStep { atts := [attSel] }) ∧
    attOf (attStep { atts := [attSel] }) 0 = some attSel ∧ stepRuns (attStep { atts := [attSel] }) = true ∧
    unitGoes (attStep { atts := [attSel] }) (uMill 0) = true ∧ (attSel.poisoned.contains 0) = false ∧
    ((attStep { atts := [attSel] }).units.mills.any fun m => m.mill == 0) = false ∧
    0 < (stepTribs (attState { atts := [attSel] }) (attStep { atts := [attSel] })).length ∧ 0 < aReqs att1 ∧
    descReady (attState { atts := [attSel] }) (attStep { atts := [attSel] }) 0 = true ∧
    (attSel.sel.find? fun x => x.1 == 0 && x.2.1 == 0) = some (0, 0, 0, [0]) :=
  ⟨rfl, rfl, rfl, rfl, rfl, rfl, by decide +kernel, by decide +kernel, by decide +kernel, rfl⟩

theorem witness_unit_select : attOf (attStep { atts := [att0] }) 0 = some att0 ∧ stepRuns (attStep { atts := [att0] }) = true ∧
    unitGoes (attStep { atts := [att0] }) (uMill 0) = true ∧ (att0.poisoned.contains 0) = false ∧
    ((attStep { atts := [att0] }).units.mills.any fun m => m.mill == 0) = false ∧
    0 < (stepTribs (attState { atts := [att0] }) (attStep { atts := [att0] })).length ∧
    descReady (attState { atts := [att0] }) (attStep { atts := [att0] }) 0 = true ∧ (att0.sel.find? fun x => x.1 == 0 && x.2.1 == 0) = none ∧
    listFault (attState { atts := [att0] }) (attStep { atts := [att0] }) att1
      (reqEnt (attState { atts := [att0] }) (attStep { atts := [att0] }) att1 0) 0 = none ∧
    chosenPages (attStep { atts := [att0] }) att1 0 0 0 (candPages (attState { atts := [att0] }) (attStep { atts := [att0] }) att1
      (reqEnt (attState { atts := [att0] }) (attStep { atts := [att0] }) att1 0) 0) = some [] := by decide +kernel

def mill0 : Mill := { mill := 0, desc := 0, r := 0, head := 0, range := 0, pages := [0] }

/-- The only range of a head has been worked. -/
def part0 : RowPart := { m := some 0, l := 0x3F800000, o := List.replicate 64 0 }
def mergeUnits : Units := { atts := [attSel], parts := [{ desc := 0, r := 0, head := 0, row := 0, node := { stage := 0, lo := 0, n := 1 }, part := part0 }] }

theorem witness_tile_and_merge : stepRuns (attStep { mills := [mill0] }) = true ∧ unitGoes (attStep { mills := [mill0] }) (uMill 0) = true ∧
    unitGoes (attStep mergeUnits) (uMill 0) = true ∧ ((attStep { mills := [mill0] }).units.mills.find? fun m => m.mill == 0) = some mill0 ∧
    stepRuns (attStep mergeUnits) = true ∧ headRanges (attStep mergeUnits) 0 0 0 = some (0, 1) ∧ kindOf att1 = 0x30 ∧
    attOf (attStep mergeUnits) 0 = some attSel ∧ attSel.poisoned.contains 0 = false ∧ attSel.statusDone = false ∧
    attSel.rowsDone.contains (0, 0, 0) = false ∧
    ownPart (mergeNode (attState mergeUnits) (attStep mergeUnits) 0 0 0 0 1 { stage := 0, lo := 0, n := 2 }) (attStep mergeUnits) 0 0 0 0 1 =
      some part0 := ⟨rfl, rfl, rfl, rfl, rfl, by decide +kernel, by decide +kernel, rfl, rfl, rfl, rfl, by decide +kernel⟩

/-- A weir of one token and one expert: header at 0x30000, tokens at 0x10000, slots at 0x50000, routing area at 0x60000. -/
def weir1 (pass : Nat) : BitVec 512 := fields 512 [(0, 0x50), (8, pass), (80, 1), (160, 1), (176, 2), (192, 0x30000), (256, 0x10000), (320, 0x50000),
  (368, 1), (384, 0x60000), (448, 0x70000)]

def weirUnits : Units := { weirs := [{ desc := 0 }] }

/-- The pass with its one token scored, and the state with that token's record marked SKIPPED. -/
def scored : Units := { weirs := [{ desc := 0, scored := [{ row := zeroRow (weir1 0), sig := [(0, 0, false)] }] }] }
def skipState : State := { unitState (weir1 1) weirUnits with mem := memPuts [] (granAt 6) [0, 8] }

theorem witness_route : kindOf (weir1 0) = 0x50 ∧ weirReady (unitState (weir1 0) weirUnits) 1 0 = some (stepWith (weir1 0) weirUnits, { desc := 0 }) ∧ wRoute (weir1 0) = true ∧
    0 < wToks (weir1 0) ∧ shortlist (stepWith (weir1 0) weirUnits) 0 (weir1 0) 0 = some [0] ∧ s8At (weir1 0) 96 112 = true ∧
    (∃ rows u, tokenBytes (unitState (weir1 0) weirUnits) (stepWith (weir1 0) weirUnits) 0 [0] = .ok rows u ∧
      ∃ rs v, routerRows (stepWith (weir1 0) weirUnits) (weirAcc u (stepWith (weir1 0) weirUnits) 0) 0 (headerAt (unitState (weir1 0) weirUnits) (stepWith (weir1 0) weirUnits) 0x30000)
        ([0] ++ (wFall (weir1 0)).toList).eraseDups u = .ok rs v) :=
  ⟨rfl, rfl, by decide +kernel, by decide +kernel, by decide +kernel, by decide +kernel, _, _, rfl, _, _, rfl⟩

theorem witness_route_write : (weirReady (unitState (weir1 0) scored) 1 0).isSome = true ∧ wToks (weir1 0) ≤ 1 ∧
    gotOk (wideWriteMany (unitState (weir1 0) scored) (weirAcc (unitState (weir1 0) scored) (stepWith (weir1 0) scored) 0)
      (tokenOut (weir1 0) [{ row := zeroRow (weir1 0), sig := [(0, 0, false)] }]
        (routePlan (weir1 0) [{ row := zeroRow (weir1 0), sig := [(0, 0, false)] }]) 0 ++
        routeEnd (weir1 0) (routePlan (weir1 0) [{ row := zeroRow (weir1 0), sig := [(0, 0, false)] }]) 0)) = true := by decide +kernel

theorem witness_combine : weirReady (unitState (weir1 1) weirUnits) 1 0 = some (stepWith (weir1 1) weirUnits, { desc := 0 }) ∧ wRoute (weir1 1) = false ∧
    (∃ l u, wideHold (unitState (weir1 1) weirUnits) (weirAcc (unitState (weir1 1) weirUnits) (stepWith (weir1 1) weirUnits) 0) [(0x60000, 32)] = .ok [l] u ∧
      recordFault (weir1 1) l = none ∧ (routeOf (weir1 1) l).skipped = false ∧
      ∃ ys v, wideHold u (weirAcc u (stepWith (weir1 1) weirUnits) 0)
          ((routeOf (weir1 1) l).items.map fun x => (slotPlace (weir1 1) (dfld (weir1 1) 176 191) x.1 x.2.1, wYbytes (weir1 1))) = .ok ys v ∧
        gotOk (wideWrite v (weirAcc v (stepWith (weir1 1) weirUnits) 0) 0x70000 (combineRow (weir1 1) (combineSum (weir1 1) []))) = true) :=
  ⟨rfl, by decide +kernel, _, _, rfl, by decide +kernel, by decide +kernel, _, _, rfl, by decide +kernel⟩

theorem witness_combine_skipped : (weirReady skipState 1 0).isSome = true ∧
    (∃ l u, wideHold skipState (weirAcc skipState (stepWith (weir1 1) weirUnits) 0) [(0x60000, 32)] = .ok [l] u ∧
      recordFault (weir1 1) l = none ∧ (routeOf (weir1 1) l).skipped = true ∧
      ∃ own v, tokenBytes u (stepWith (weir1 1) weirUnits) 0 [0] = .ok own v ∧
        gotOk (wideWrite v (weirAcc v (stepWith (weir1 1) weirUnits) 0) 0x70000 (skippedRow (weir1 1) (own.headD []))) = true) :=
  ⟨by decide +kernel, _, _, rfl, by decide +kernel, by decide +kernel, _, _, rfl, by decide +kernel⟩

/-- A loss over one position and a vocabulary of one. -/
def loss1 : BitVec 512 := fields 512 [(0, 0x70), (64, 1), (128, 0x10000), (176, 1), (192, 0x20000), (240, 1), (256, 0x30000), (304, 1), (384, 0x40000)]

theorem witness_loss : unitGoes (stepWith loss1 {}) uSteward = true ∧ readyDesc (unitState loss1 {}) 1 0 0x70 = some (stepWith loss1 {}) ∧
    ∃ ls u, wideHold (unitState loss1 {}) (stewAcc (unitState loss1 {}) (stepWith loss1 {}) 0) [(0x10000, 4), (0x20000, 4)] = .ok ls u ∧
      gotOk (wideWriteMany u (stewAcc (unitState loss1 {}) (stepWith loss1 {}) 0)
        (lossOut u (stepWith loss1 {}) 0 (ls.take 1) ((ls.drop 1).take 1) [])) = true :=
  ⟨rfl, rfl, _, _, rfl, by decide +kernel⟩

/-- The weight gradient of descriptor `grad1` with its one item drained. -/
def gradUnits : Units := { reaches := [{ pos := 0, doneItems := [(0, 1)] }], mats := [{ desc := 0 }] }

/-- The adder as it accesses memory for the first tile. -/
def tileAcc : Acc3 := { adderAcc (unitState grad1 gradUnits) (stepWith grad1 gradUnits) grad1 0 0 with task := [0, 0] }

theorem witness_gradient : runsDesc (unitState grad1 gradUnits) 1 0 0x11 = some (stepWith grad1 gradUnits) ∧
    (gradUnits.mats.find? fun m => m.desc == 0) = some { desc := 0 } ∧ unitGoes (stepWith grad1 gradUnits) uAdder = true ∧
    0 < mNrt grad1 ∧ 0 < mNtt grad1 ∧
    ((List.range (mNk grad1)).map fun kc => (0 * mNtt grad1 + 0) * mNk grad1 + kc).all (itemDrained (stepWith grad1 gradUnits) 0) = true ∧
    ∃ ls u, wideHold (unitState grad1 gradUnits) tileAcc [(0x20000, recSize)] = .ok ls u ∧
      ∀ vs : List (BitVec 32), vs.length ≤ 32 → ∀ old, ∃ v,
        wideWriteMany (setUnits u 1 fun x => { x with before := x.before ++ old }) tileAcc [(0x80000, f32Bytes vs)] = .ok () v := by
  refine ⟨rfl, rfl, rfl, by decide +kernel, by decide +kernel, by decide +kernel, ?_⟩
  obtain ⟨ls, u, hu, ht, hp⟩ := Laws.wideHold_pool (s := unitState grad1 gradUnits) (t := stepWith grad1 gradUnits)
    (a := tileAcc) (l := [(0x20000, recSize)]) rfl rfl rfl rfl (by
      intro x hx k _ hk
      cases List.mem_singleton.1 hx
      exact pools_open rfl rfl rfl (by simp only [recSize] at hk; omega))
  refine ⟨ls, u, hu, fun vs hv old => ?_⟩
  have hs : stepOf (setUnits u 1 fun x => { x with before := x.before ++ old }) 1 =
      some (stepWith grad1 { gradUnits with before := old }) := by
    unfold setUnits setStep stepOf
    refine (Laws.find_updW (fun t : Step => t.sid == 1) _ ?_ u.steps).trans ?_
    · exact fun _ => rfl
    · rw [show u.steps.find? (fun t => t.sid == 1) = some (stepWith grad1 gradUnits) from ht]; rfl
  obtain ⟨v, hv, _⟩ := Laws.wideWriteMany_pool (a := tileAcc) (l := [(0x80000, f32Bytes vs)]) hs rfl rfl (by
      intro x hx k _ hk
      cases List.mem_singleton.1 hx
      have e : (f32Bytes vs).length = 4 * vs.length := by
        simp [f32Bytes, List.length_flatten, Function.comp_def, le_length, Nat.mul_comm]
      simp only [e] at hk
      exact pools_open hp rfl rfl (by omega))
  exact ⟨v, hv⟩

/-! ### Eddies, windows, memory and pools -/

/-- An eddy of two slots of 64 bytes with a consumer that waits since time 0. -/
def eddyDesc : BitVec 512 := fields 512 [(0, 0x60), (32, 1), (48, 2), (64, 0x80000), (128, 0x90000), (192, 4), (224, 1)]

def eddy1 : Eddy := { eid := 0, desc := 0, slots := [{ gen := 0 }, { gen := 1 }] }
def eddyWaits : Eddy := { eddy1 with stalls := [{ unit := 3, isWrite := false, off := 0, data := [], since := 0 }], wdogSince := some 0 }

theorem witness_eddy : stepOf (unitState eddyDesc { eddies := [eddy1] }) 1 = some (stepWith eddyDesc { eddies := [eddy1] }) ∧
    eddyOf (stepWith eddyDesc { eddies := [eddy1] }) 0 = some eddy1 ∧ stepWorks (stepWith eddyDesc { eddies := [eddy1] }) = true ∧
    0 < eddySpan eddyDesc ∧ (eddy1.stalls.any fun y => y.unit == 3 && y.off == 0 && y.isWrite == true) = false ∧
    stepWorks (stepWith eddyDesc { eddies := [eddyWaits] }) = true ∧ (stepWith eddyDesc { eddies := [eddyWaits] }).held = false ∧
    eddyWaits.stalls ≠ [] ∧ wdogLimit eddyDesc < wdogCount ready.now eddyWaits ∧
    eddyOf (stepWith eddyDesc { eddies := [eddyWaits] }) 0 = some eddyWaits := by decide +kernel

/-- An open window of job 1 for any module, of 128 bytes. -/
def window1 : Window where
  basin := 1
  job := 1
  sid := 1
  wid := 9
  rd := true
  wr := true
  any := true
  life := 0
  px := 0
  py := 0
  pz := 0
  lbase := 0x10000
  len := 128
  tag := 0

/-- A trained ford. -/
def upFord : Ford := { state := 9, trained := true }

/-- A slice of basin 1 that has bound ford 0, its part bound for step 1 and joined. -/
def boundSlice : Slice where
  word := fields 256 [(0, 4), (64, 1)]
  state := 2
  bound := [0]
  parts := [{ kind := 0, ident := 0, boundAt := 0, joined := true, stepNo := 1 }]

def windowState : State := { poolReady with
  pools := { pools1 with windows := [window1] }
  fords := { ready.fords with fords := upFord :: ready.fords.fords.tail, slices := [boundSlice] } }

theorem witness_window : (fordOf windowState 0).state = 9 ∧ sliceAtFord (heardFord windowState 0) 0 = some boundSlice ∧
    turnOf boundSlice none (.transfer 1 9 false 64 64 []) = .now ∧
    turnOf boundSlice (some (0, 0, 2)) (.transfer 1 9 false 64 64 []) = .later ∧
    turnOf boundSlice (some (0, 0, 9)) (.transfer 1 9 false 64 64 []) = .bad ∧
    windowCheck (heardFord windowState 0) 0 0 0 1 1 9 none false 64 64 = none ∧
    windowNamed (heardFord windowState 0) 1 1 9 none = some window1 ∧
    windowCheck (heardFord windowState 0) 0 0 0 1 1 9 none false 65 64 = some 4 := by decide +kernel

/-- A model page of basin 1. -/
def modelPage : PageEnt := { workPage with kind := .model, crc := crc64 (List.replicate 4096 0) }

theorem memGets_empty (a n : Nat) : memGets [] a n = List.replicate n 0 := by
  rw [List.eq_replicate_iff]
  exact ⟨by simp [memGets], fun b hb => by
    obtain ⟨k, _, rfl⟩ := List.mem_map.1 hb
    rfl⟩

/-- A sealed base model of one page. -/
def model1 : Model := { basin := 1, mid := 5, sealed_ := true, ntensor := 1, addr := 4096 * p0, pages := 1, hdrs := 4096 * p0 }

def withModels (s : State) (l : List Model) : State := { s with models := { s.models with models := l } }

/-- A request under identifier 5. -/
def req1 : Request := { basin := 1, tag := 77, blk := blk1, prompt := [1] }

def copyState : State := { withModels (withPages poolReady [modelPage]) [model1] with serving := { requests := [req1] } }

theorem witness_page_copy : pageOf copyState 1 p0 = some modelPage ∧ modelPage.kind.readOnly = true ∧ copySource copyState 1 1 p0 = p0 ∧
    (granOf copyState 0).job = 1 ∧ poolTurn copyState 1 1 = true ∧ modelPage.crcLost = false ∧ copyNeeded copyState 1 p0 = true ∧
    quotaOk copyState 1 1 1 = true ∧ 0 < framesFree copyState 1 ∧ crc64 (memGets copyState.mem (homeAt modelPage) 4096) = modelPage.crc ∧
    (granOf copyState 0).state = .owned ∧ (granOf copyState 0).basin = 1 ∧ ofSealed copyState 1 p0 = true ∧
    crc64 (memGets copyState.mem (readAt modelPage) 4096) = modelPage.crc :=
  ⟨rfl, rfl, rfl, rfl, by decide +kernel, rfl, by decide +kernel, by decide +kernel, by decide +kernel, congrArg crc64 (memGets_empty _ _), by decide +kernel, by decide +kernel,
    by decide +kernel, congrArg crc64 (memGets_empty _ _)⟩

def move1 : MoveReq := { basin := 1, page := p0, tier := 1, since := 0 }
def moveState : State := { ready with tiers := { ready.tiers with pages := [workPage], moves := [move1] } }

/-- The page waits for a copy, and a copy for another one because its HBM3E frame retires. -/
def askedCopy : State := { copyState with tiers := { copyState.tiers with moves := [{ move1 with copy := true }] } }
def againCopy : State := { copyState with tiers := { copyState.tiers with
  pages := [{ modelPage with copy := some 8 }], retiring := [(1, 8)], moves := [{ move1 with copy := true, again := true }] } }

theorem witness_move_start : nextOp moveState = some move1 ∧ (∃ f u, takePlace moveState 1 p0 1 = (some f, u)) ∧
    nextOp askedCopy = some { move1 with copy := true } ∧ nextOp againCopy = some { move1 with copy := true, again := true } ∧
    pageOf againCopy 1 p0 = some { modelPage with copy := some 8 } :=
  ⟨by decide +kernel, ⟨_, _, rfl⟩, by decide +kernel, by decide +kernel, by decide +kernel⟩

theorem witness_move_complete : pageOf (withPages ready [movingPage]) 1 p0 = some movingPage ∧ movingPage.moving = some (1, 9) ∧
    ∃ ask u, lentRange (withPages ready [movingPage]) 1 0 0 0 0 = (ask, u) ∧ ask ≠ .wait :=
  ⟨rfl, rfl, _, _, rfl, by decide⟩

theorem witness_reclaim : ({ ready with tiers := { ready.tiers with reclaiming := true } } : State).tiers.reclaiming = true := rfl

/-- A poisoned model page with a clean copy, and one without. -/
def poisonedCopied : PageEnt := { modelPage with poison := true, copy := some 8 }
def poisoned : PageEnt := { modelPage with poison := true }

theorem witness_home_repair : pageOf (withPages ready [poisonedCopied]) 1 p0 = some poisonedCopied ∧ poisonedCopied.kind = .model ∧
    crc64 (memGets (withPages ready [poisonedCopied]).mem (frameAt 1 8) 4096) = poisonedCopied.crc ∧
    framesFree (withPages ready [poisonedCopied]) 2 ≠ 0 ∧ pageOf (withPages ready [poisoned]) 1 p0 = some poisoned ∧ poisoned.copy = none ∧
    ((withPages ready [poisoned]).tiers.refetch.any fun r => r.basin == 1 && r.page == p0) = false :=
  ⟨rfl, rfl, congrArg crc64 (memGets_empty _ _), by decide +kernel, rfl, rfl, rfl⟩

theorem witness_home_lost : pageOf (withPages ready [{ poisonedCopied with crcLost := true }]) 1 p0 = some { poisonedCopied with crcLost := true } ∧
    crcGood (withPages ready [{ poisonedCopied with crcLost := true }]) { poisonedCopied with crcLost := true } (frameAt 1 8) = false := ⟨rfl, rfl⟩

def refetch1 : Refetch := { basin := 1, page := p0, next := 50000000000 }
def refetchState : State := { withPages ready [poisoned] with tiers := { (withPages ready [poisoned]).tiers with refetch := [refetch1] } }

theorem witness_refetch : (refetchState.tiers.refetch.find? fun r => r.basin == 1 && r.page == p0) = some refetch1 ∧
    pageOf refetchState 1 p0 = some poisoned ∧ poisoned.poison = true ∧ refetch1.next ≤ refetchState.now := ⟨rfl, rfl, rfl, by decide⟩

theorem witness_errors : 2 ^ 28 - 1 < frameCount 1 ∧ 2 ^ 29 - 2 ^ 22 - 1 < frameCount 2 ∧ (granOf poolReady 15).state = .owned ∧
    bitAt ready.tiers.memCtrl.toNat 24 = true ∧ pageAtFrame (withPages ready [workPage]) 2 5 = some (workPage, false) ∧
    (scrubPass (withPages ready [workPage])).tiers.scrubSeen.contains (2, 5) = false ∧
    clearingFrame.tiers.clearing.find? (fun c => c.tier == 1 && c.frame == 5) = some { tier := 1, frame := 5, basin := 1 } := by decide +kernel

/-- A lend record that the basin holds as borrower, before and after its reclaim has been asked. -/
def lend1 : Lend where
  index := 3
  basin := 1
  asLender := false
  x := 1
  y := 0
  z := 0
  tier := 1
  first := 0
  count := 4
  wid := 9

def withLend (l : Lend) : State := { ready with tiers := { ready.tiers with lends := [l] } }

theorem witness_lend : ((withLend lend1).tiers.lends.find? fun l => !l.asLender && l.index == 3) = some lend1 ∧ lend1.reclaimDue = none ∧
    ((withLend { lend1 with reclaimDue := some 9 }).tiers.lends.find? fun l => !l.asLender && l.index == 3) =
      some { lend1 with reclaimDue := some 9 } ∧ 9 ≤ ready.now := by decide +kernel

/-- The state once a granule of job 1 has been cleared. -/
def lastClear (s : State) : State := setJob s 1 1 fun j => { j with lastClear := s.now }

theorem witness_granule_clear : (granOf clearingGran 0).basin = 1 ∧ (granOf clearingGran 0).job = 1 ∧
    ((lastClear clearingGran).pools.jobs.find? fun j => jobLive j && (jobGrans j).contains 0) =
      some { basin := 1, num := 1, cls := 0, gid := 0, slots := [(0, List.range 16)], lastClear := 50000000000 } ∧
    ((lastClear { clearingGran with pools := { clearingGran.pools with jobs := [] } }).pools.jobs.find? fun j =>
      jobLive j && (jobGrans j).contains 0) = none := by decide +kernel

def askedJob : Job := { basin := 1, num := 1, cls := 0, gid := 0, killAsked := true }
def killedJob : Job := { askedJob with killed := some 7 }
def withJob (j : Job) : State := { ready with pools := { jobs := [j] } }

theorem witness_job_end : jobOf (withJob askedJob) 1 1 = some askedJob ∧ askedJob.killed = none ∧ jobOf (withJob killedJob) 1 1 = some killedJob ∧
    jobHeld (withJob killedJob) 1 1 = [] ∧ jobWindows (withJob killedJob) 1 1 = [] ∧ killedJob.poisoned = [] := by decide +kernel

def closingWindow : State := { poolReady with pools := { pools1 with windows := [{ window1 with closing := some 0 }] } }

theorem witness_window_close : (closingWindow.pools.windows.any fun w => (w.basin == 1 && w.job == 1 && w.wid == 9) &&
      w.closing.any fun t => !windowBusy closingWindow 1 1 9 || t + 10000 ≤ closingWindow.now) = true := by decide +kernel

/-- A message held at the endpoint of tributary 0. -/
def msg1 : RMsg := { sender := 1, basin := 1, job := 1, rseq := 0, time := 0, type := 1, len := 0, data := 0 }
def heldEnd : Endpoint := { num := 0x100, held := [(msg1, 0)] }
def heldState : State := { ready with runnels := { ready.runnels with ends := [heldEnd] } }

theorem witness_hold : endOf heldState 0x100 = some heldEnd ∧ heldEnd.held = (msg1, 0) :: [] ∧ domOn heldState (endDomain 0x100) = true ∧
    0 + 10000 ≤ heldState.now := by decide +kernel

/-- A port's message held at the management core. -/
def portHeld : State := { ready with runnels := { ready.runnels with ends := [{ num := 0x160, held := [({ msg1 with sender := 0x150 }, 0)] }] } }

theorem witness_core_hold : endOf portHeld 0x160 = some { num := 0x160, held := [({ msg1 with sender := 0x150 }, 0)] } ∧
    fromPort { msg1 with sender := 0x150 } = true ∧ domOn portHeld (endDomain 0x160) = true := by decide +kernel

/-- The state with an endpoint's domain HELD. -/
def heldDomain (e : Nat) : State := setDom ready (endDomain e) fun x => { x with state := 3 }

theorem witness_message : endOf (takeRseq ready 1).2 0x100 = some { num := 0x100 } ∧ (domOf (takeRseq ready 1).2 (endDomain 0x100)).state ≠ 3 ∧
    endOf (takeRseq (heldDomain 0x100) 1).2 0x100 = some { num := 0x100 } ∧
    (domOf (takeRseq (heldDomain 0x100) 1).2 (endDomain 0x100)).state = 3 ∧ endOf (takeRseq ready 1).2 0x1000 = none := by decide +kernel

/-! ### Models, variants and the key-value store -/

/-- The address of the first page. -/
def a0 : Nat := 4096 * p0

theorem witness_model_create : ready.accepts (.modelCreate h1 5 1 a0 a0 1) ∧ modelCreateCheck ready 1 5 1 a0 a0 1 = stOk :=
  ⟨of_runsNow (by decide +kernel), by decide +kernel⟩

/-- Every LPDDR5X frame is lent. -/
def lentState : State := withLend { lend1 with asLender := true, tier := 2, count := frameCount 2 }

theorem witness_model_create_waits : lentState.accepts (.modelCreate h1 5 1 a0 a0 1) ∧
    modelCreateCheck lentState 1 5 1 a0 a0 1 = stMemQuota ∧ lendShort lentState 1 a0 1 2 = true :=
  ⟨of_runsNow (by decide +kernel), by decide +kernel⟩

/-- A model that is loading, its page, and a WORK page behind it for the CRC list. -/
def loading : Model := { model1 with sealed_ := false }
def workNext : PageEnt := { workPage with page := p0 + 1, homeLoc := 6 }
def loadState : State := withModels (withPages ready [modelPage, workNext]) [loading]

theorem witness_model_seal : loadState.accepts (.modelSeal h1 5 (a0 + 4096)) ∧ modelOf loadState 1 5 = some loading ∧
    crcListBreach loadState 1 (a0 + 4096) 1 = stOk ∧ loading.sealed_ = false :=
  ⟨of_runsNow (by decide +kernel), by decide +kernel⟩

def sealing : Model := { loading with sealing := some (a0 + 4096) }

theorem witness_seal_verify : modelOf (withModels loadState [sealing]) 1 5 = some sealing ∧ sealing.sealing = some (a0 + 4096) := by decide +kernel

/-- The module with the sealed model. -/
def modelState : State := withModels (withPages ready [modelPage]) [model1]

theorem witness_model_delete : modelState.accepts (.modelDelete h1 5) ∧ modelOf modelState 1 5 = some model1 ∧ modelInUse modelState 1 5 = false :=
  ⟨of_runsNow (by decide +kernel), by decide +kernel⟩

def poisonState : State := withModels (withPages ready [poisoned]) [model1]

theorem witness_model_repair : poisonState.accepts (.modelRepair h1 5 a0 poisoned.crc (List.replicate 4096 0)) ∧ pageOf poisonState 1 (a0 / 4096) = some poisoned ∧
    a0 % 4096 = 0 ∧ ((modelOf poisonState 1 5).isSome || (variantOf poisonState 1 5).isSome) = true ∧ pageOfId poisonState 1 5 p0 = true ∧
    crc64 (List.replicate 4096 0) = (if ofSealed poisonState 1 p0 || ofSet poisonState 1 p0 then poisoned.crc else 0) ∧
    poisoned.poison = true ∧ 0 < framesFree poisonState 2 :=
  ⟨of_runsNow (by decide +kernel), rfl, by decide +kernel, by decide +kernel, by decide +kernel,
    (if_pos (show (ofSealed poisonState 1 p0 || ofSet poisonState 1 p0) = true by decide +kernel)).symm, rfl, by decide +kernel⟩

/-- A generation whose set is the page behind the model, in a derived window of one page. -/
def set1 : GenSet := { set := a0 + 4096, setPages := 1, daddr := a0 + 0x10000, dlen := 1 }

def setPage1 : PageEnt := { modelPage with page := p0 + 1, homeLoc := 6 }
def crcPage : PageEnt := { workPage with page := p0 + 2, homeLoc := 7 }
def setState : State := withModels (withPages ready [modelPage, setPage1, crcPage]) [model1]

theorem witness_variant_create : setState.accepts (.variantCreate h1 6 1 (a0 + 4096) (a0 + 8192) (a0 + 0x10000) 1) ∧
    setBreach setState 1 1 (a0 + 4096) (a0 + 8192) (a0 + 0x10000) 1 = stOk ∧ idLive setState 1 6 = false :=
  ⟨of_runsNow (by decide +kernel), by decide +kernel⟩

/-- A variant of the model, in a state of residency, over a set elsewhere. -/
def variant1 (v : VState) : Variant := { basin := 1, vid := 6, index := 0, base := 5, state := v, cur := { set1 with set := a0 + 0x20000 } }

def withVariant (s : State) (v : Variant) : State := { s with models := { s.models with variants := [v] } }

theorem witness_variant_update : (withVariant setState (variant1 .resident)).accepts
      (.variantUpdate h1 6 1 (a0 + 4096) (a0 + 8192) (a0 + 0x10000) 1) ∧
    setBreach (withVariant setState (variant1 .resident)) 1 1 (a0 + 4096) (a0 + 8192) (a0 + 0x10000) 1 = stOk ∧
    ((variantOf (withVariant setState (variant1 .resident)) 1 6).any fun v => v.state.serves) = true ∧
    ((withVariant setState (variant1 .resident)).trains.any fun t => t.basin == 1 && fld t.word.toNat 32 63 == 6) = false :=
  ⟨of_runsNow (by decide +kernel), by decide +kernel⟩

/-- The bytes of a delta set over base 5 with one empty tensor delta in T5, its length 40; at 2,048 the header of a T5 tensor without rows. -/
def setBytes : List Byte := le 4 5 ++ le 2 1 ++ le 2 0 ++ le 4 40 ++ le 4 0 ++ (le 4 0 ++ le 4 1 ++ le 16 0)

def verifying : Variant := { variant1 .verifying with cur := set1 }
def verify1 : Verify := { basin := 1, vid := 6, update := false, crcs := a0 + 8192, gs := set1 }

/-- The set in its page, and the CRC list in its own. -/
def verifyState : State :=
  let m : Model := { model1 with hdrs := a0 + 4096 + 2048 }
  let s := withVariant (withModels (withPages ready [modelPage, setPage1, crcPage]) [m]) verifying
  { s with
    models := { s.models with verifies := [verify1] }
    mem := memPuts (memPuts (memPuts [] (frameAt 2 6) setBytes) (frameAt 2 6 + 2048) [1]) (frameAt 2 7) (le 8 8451089788004449172) }

theorem witness_delta_verify : (verifyState.models.verifies.find? fun x => x.basin == 1 && x.vid == 6) = some verify1 ∧ verify1.tid = none ∧
    verify1.update = false ∧ verifyStatus verifyState verify1 = (stOk, set1) := by decide +kernel

theorem witness_variant_delete : (withVariant modelState (variant1 .cold)).accepts (.variantDelete h1 6) ∧
    ((linkOf (withVariant modelState (variant1 .cold)) 1).deferred.any fun d => d.obj == .model 6 && d.opcode != 0x0205) = false ∧
    variantOf (withVariant modelState (variant1 .cold)) 1 6 = some (variant1 .cold) ∧
    ((withVariant modelState (variant1 .cold)).trains.any fun t => t.basin == 1 && fld t.word.toNat 64 95 == 6) = false :=
  ⟨of_runsNow (by decide +kernel), by decide +kernel⟩

def gone1 : Variant := { variant1 .retiring with unmapped := true }
def retiring1 : State := withVariant modelState gone1

theorem witness_variant_retired : variantOf retiring1 1 6 = some gone1 ∧ gone1.state = .retiring ∧ stepsOfVariant retiring1 1 6 = false ∧
    reqsOf retiring1 1 6 = [] ∧ (retiring1.tiers.clearing.any fun c => c.basin == 1 && c.obj == 6) = false ∧
    gone1.unmapped = true ∧ ((kvOf retiring1 1).convs.any fun c => c.vid == 6) = false ∧ (retiring1.trains.any fun t => t.basin == 1 && fld t.word.toNat 32 63 == 6) = false := by
  decide +kernel

theorem witness_variant_pin : (withVariant modelState (variant1 .resident)).accepts (.variantPin h1 6 1) ∧
    variantOf (withVariant modelState (variant1 .resident)) 1 6 = some (variant1 .resident) ∧
    variantOf modelState 1 5 = none ∧ sealedOf modelState 1 5 = some model1 ∧ modelState.accepts (.variantPin h1 5 1) :=
  ⟨of_runsNow (by decide +kernel), by decide +kernel, by decide +kernel, by decide +kernel,
    of_runsNow (by decide +kernel)⟩

theorem witness_prefetch : (withVariant modelState (variant1 .resident)).accepts (.variantPrefetch h1 6) ∧
    (withVariant modelState (variant1 .cold)).accepts (.variantPrefetch h1 6) ∧ (variant1 .cold).blocked = false ∧
    variantOf (withVariant modelState (variant1 .cold)) 1 6 = some (variant1 .cold) :=
  ⟨of_runsNow (by decide +kernel), of_runsNow (by decide +kernel), by decide +kernel⟩

/-- A cold variant that an unanswered VARIANT.PREFETCH needs. -/
def neededState : State := withVariant (withModels (withDeferred (withPages ready [modelPage]) 1 [{ h := h1, opcode := 0x0205, obj := .model 6 }]) [model1])
  (variant1 .cold)

/-- A resident variant whose pending generation is being built; the generation's set is not mapped, so it makes no page. -/
def building : Variant := { variant1 .resident with pend := some set1, building := 2 }

/-- The module with the sealed model copied into HBM3E, and a variant of it whose build runs. -/
def builtState (v : Variant) : State := withVariant (withModels (withPages ready [{ modelPage with copy := some 8 }]) [model1]) v

def making : Variant := { variant1 .materialising with building := 1 }

theorem witness_materialise : variantOf neededState 1 6 = some (variant1 .cold) ∧ (variant1 .cold).building = 0 ∧
    variantNeeded neededState 1 6 = true ∧ badSource neededState model1 (variant1 .cold).cur = none ∧
    variantOf (builtState building) 1 6 = some building ∧ modelOf (builtState building) 1 building.base = some model1 ∧
    building.state = .resident ∧ building.building = 2 ∧ building.pend = some set1 ∧ badSource (builtState building) model1 set1 = none ∧
    failingSource (builtState building) model1 set1 = none ∧ genFits (builtState building) model1 set1 = true := by decide +kernel

theorem witness_materialising : variantOf (builtState making) 1 6 = some making ∧ making.state = .materialising ∧
    let u := dropBadDerived (builtState making) 1 making.cur
    badSource u model1 making.cur = none ∧ failingSource u model1 making.cur = none ∧
      (derivedMapped u 1 making.cur).any (badPage u 1) = false ∧ genFits u model1 making.cur = true := by decide +kernel

theorem witness_kv_configure : ready.accepts (.kvConfigure h1 kvTtl) ∧ ready.accepts (.kvConfigure h1 kvList) ∧ kvCfgCheck ready 1 kvTtl = stOk ∧ kvMoreThanTtl (kvOf ready 1).cfg kvTtl = false ∧
    kvCfgCheck ready 1 kvList = stOk ∧ kvMoreThanTtl (kvOf ready 1).cfg kvList = true := ⟨of_runsNow (by decide +kernel), of_runsNow (by decide +kernel), by decide +kernel⟩

theorem witness_kv_conv : (withConv conv9).accepts (.kvDrop h1 9) ∧ (withConv conv9).accepts (.kvResume h1 9) ∧
    (withConv conv9).accepts (.kvQuery h1 9) ∧ objBusy (withConv conv9) 1 (.conv 9) = false ∧ convOf (withConv conv9) 1 9 = some conv9 ∧
    convTaken (withConv conv9) 1 9 = none ∧ conv9.resuming = false := 
  ⟨(conv_accepts _ (.inl rfl)).1, of_runsNow (by decide +kernel), of_runsNow (by decide +kernel), by decide +kernel⟩

theorem witness_kv_flush : ready.accepts (.kvPrefixFlush h1 0) ∧ ready.accepts (.kvStats h1) ∧ ready.now % 1000000000 = 0 :=
  ⟨of_runsNow (by decide +kernel), of_runsNow (by decide +kernel), by decide⟩

/-- An idle node of variant 5 with its row. -/
def node1 : Node := { id := 1, vid := 5, gen := 0, parent := none, key := 0, tokens := [], row := 3, adopted := 0, order := 0 }

theorem witness_flush_waits : (setKv ready 1 fun k => { k with nodes := [node1] }).accepts (.kvPrefixFlush h1 0) ∧
    (((kvOf (setKv ready 1 fun k => { k with nodes := [node1] }) 1).nodes.filter fun n =>
      (0 == 0 || n.vid == 0) && rowRefs (setKv ready 1 fun k => { k with nodes := [node1] }) 1 n.row == 0) ≠ []) ∧
    (kvOf ready 1).nodes = [] := ⟨of_runsNow (by decide +kernel), by decide +kernel⟩

theorem witness_conv_end : convOf (withConv conv9) 1 9 = some conv9 ∧ 1 < (withConv conv9).kvs.length ∧ 4 < 5 := by decide +kernel

/-! ### Requests, steps, training and the logs -/

/-- Group 0 of basin 1: class 1 on the sixteen positions of tributary 0. -/
def gword : BitVec 64 := fields 64 [(4, 2), (16, 16)]
def group1 : Group := { basin := 1, word := gword }

def prog1 (prefill : Nat) : BitVec 384 := fields 384 [(0, 5), (32, prefill), (40, 16), (64, 8), (80, 8), (96, 4096)]

/-- The sealed model with a decode and a prefill program and a group that serves it. -/
def serveState : State :=
  let s := withModels (withPages ready [modelPage]) [model1]
  { s with
    models := { s.models with programs := [{ basin := 1, word := prog1 0 }, { basin := 1, word := prog1 1 }] }
    serving := { groups := [group1] } }

theorem witness_submit : fld blk1.toNat 0 31 = 77 ∧ serveState.accepts (.reqSubmit h1 blk1 [1]) ∧
    submitCheck serveState 1 (sizedReq serveState 1 { basin := 1, tag := 77, blk := blk1, prompt := [1] }) = stOk :=
  ⟨by decide +kernel, of_runsNow (by decide +kernel), by decide +kernel⟩

/-- The request as queued, and as ended long ago. -/
def ended1 : Request := { req1 with state := .ended, endStatus := stCancelled, finalAt := some 40000000000 }

def withReq (r : Request) : State := { serveState with serving := { serveState.serving with requests := [r] } }

theorem witness_request : (withReq req1).accepts (.reqCancel h1 77) ∧ (withReq req1).accepts (.reqQuery h1 77) ∧ reqOf (withReq req1) 1 77 = some req1 ∧ req1.state ≠ .ended ∧
    (withReq ended1).accepts (.reqCancel h1 77) ∧ reqOf (withReq ended1) 1 77 = some ended1 ∧ ended1.state = .ended ∧
    (ended1.finalAt.any fun t => t + 10000000000 ≤ (withReq ended1).now) = true :=
  ⟨of_runsNow (by decide +kernel), of_runsNow (by decide +kernel), rfl, by decide,
    of_runsNow (by decide +kernel), rfl, rfl, by decide +kernel⟩

def busyGroup : Group := { group1 with run := some 1 }
def groupState (g : Group) : State := { serveState with serving := { groups := [g] } }

theorem witness_group : (groupState group1).accepts (.reqGroup h1 gword) ∧ groupOk (groupState group1) 1 gword = true ∧
    groupOf (groupState group1) 1 (gGid gword) = some group1 ∧ groupIdle group1 = true ∧ groupIdle busyGroup = false ∧
    groupOk (groupState busyGroup) 1 gword = true ∧ (groupState busyGroup).accepts (.reqGroup h1 gword) ∧ groupOf (groupState busyGroup) 1 (gGid gword) = some busyGroup ∧
    ready.accepts (.reqGroup h1 gword) ∧ groupOk ready 1 gword = true ∧ groupOf ready 1 (gGid gword) = none ∧ gClasses gword ≠ 0 :=
  ⟨of_runsNow (by decide +kernel), by decide +kernel, by decide +kernel, by decide +kernel, by decide +kernel, by decide +kernel,
    of_runsNow (by decide +kernel), by decide +kernel, of_runsNow (by decide +kernel), by decide +kernel, by decide +kernel,
    by decide +kernel⟩

/-- A step of the group of class 1, without descriptors. -/
def bareStep : Step where
  sid := 1
  basin := 1
  gid := 0
  kind := .serve false
  cls := 1
  job := 1
  vid := 5
  base := 5
  gen := 0
  formT := 0

def heldGroup : Group := { group1 with heldStep := some 1 }

theorem witness_batch : groupOf (settleResumes (bringBack (groupState group1) 1) 1) 1 0 = some group1 ∧ group1.tokWaiting = false ∧
    (settleResumes (bringBack (groupState group1) 1) 1).boot.stage = 6 ∧ (settleResumes (bringBack (groupState group1) 1) 1).pwr.brown = none ∧
    inTeardown (settleResumes (bringBack (groupState group1) 1) 1) 1 = false ∧
    groupOf (settleResumes (bringBack (withStep (groupState busyGroup) bareStep) 1) 1) 1 0 = some busyGroup ∧
    stepOf (settleResumes (bringBack (withStep (groupState busyGroup) bareStep) 1) 1) 1 = some bareStep ∧ bareStep.cls ≠ 0 ∧
    groupOf (settleResumes (bringBack (withStep (groupState heldGroup) { bareStep with held := true }) 1) 1) 1 0 = some heldGroup ∧
    ((groupOf (formBatch (settleResumes (bringBack (withStep (groupState heldGroup) { bareStep with held := true }) 1) 1) 1 0 true) 1 0).bind (·.run)) =
      none := by decide +kernel

def bindState : State := withStep (groupState busyGroup) bareStep

/-- The state once firmware has filled the step's slots. -/
def filled : State := fillStep 1 bindState

theorem witness_bind : stepOf filled 1 = some bareStep ∧ bareStep.bound = false ∧ bareStep.stopped = false ∧ bareStep.held = false ∧
    bareStep.fill = none ∧ heldQuiet filled bareStep = true ∧ filled.boot.stage = 6 ∧ jobClearing filled 1 1 = false ∧
    readDescs (saveHeld filled bareStep) bareStep = [] ∧
    (∀ d ∈ stepDomains (saveHeld filled bareStep) bareStep, d ∉ reserved (saveHeld filled bareStep) ∧ domOn (saveHeld filled bareStep) d = true) ∧
    ((riffleOf bareStep).any fun r => !rSeedm r) = false ∧ sliceBound (saveHeld filled bareStep) bareStep = false ∧
    ((pinsOf (saveHeld filled bareStep) bareStep).any fun p => ((pageOf (saveHeld filled bareStep) 1 p).bind (·.moving)).isSome) = false ∧
    seedCount bareStep ≤ (stepSeeds (saveHeld filled bareStep) bareStep).1.length := by decide +kernel

def boundStep : Step := { bareStep with bound := true }
def stoppedStep : Step := { boundStep with stopped := true, status := stIndexRange }
def trainStep : Step := { boundStep with kind := .train 9 1 }

/-- The state with one step of the group. -/
def stepping (t : Step) : State := withStep (groupState busyGroup) t

/-- A boundary whose reads meet nothing. -/
def boundaryOpen (t : Step) : Bool :=
  !t.held && unitsStopped (stepping t) t && !drawWaits (stepping t) t &&
    match boundaryReads (stepping t) t with
    | .ok none u => stepOf u t.sid == some t
    | _ => false

theorem witness_boundary : boundaryOpen boundStep = true ∧ boundaryOpen trainStep = true ∧ boundStep.kind = .serve false ∧
    trainStep.kind = .train 9 1 ∧ stoppedStep.stopped = true ∧ stoppedStep.held = false ∧ unitsStopped (stepping stoppedStep) stoppedStep = true ∧
    drawWaits (stepping stoppedStep) stoppedStep = false := by decide +kernel

/-- A training record: object 9, student variant 6, teacher 5, class 1, one accumulation, one update entry, table in the WORK page. -/
def trainWord : BitVec 512 := fields 512 [(0, 9), (32, 6), (64, 5), (96, 1), (112, 1), (152, 1), (156, 1), (192, a0 + 4096), (240, 1)]
def train1 : Train := { basin := 1, word := trainWord }

/-- Its table: three programs of one position, one entry whose copies have their header at offset 0x400. -/
def trainTable : List Byte :=
  let p := le 12 0 ++ le 2 1 ++ le 2 0
  p ++ p ++ p ++ (le 4 0 ++ le 4 0 ++ le 24 0 ++ le 8 (a0 + 4096 + 0x400) ++ le 8 (a0 + 4096 + 0x400))

def copyHeader : List Byte := le 12 0 ++ le 6 (a0 + 4096) ++ le 6 0 ++ le 6 (a0 + 4096)

def trainState : State :=
  let s := withVariant (withModels (withPages ready [modelPage, workNext]) [model1]) (variant1 .resident)
  { s with
    mem := memPuts (memPuts [] (frameAt 2 6) trainTable) (frameAt 2 6 + 0x400) copyHeader
    serving := { groups := [group1] } }

theorem witness_train_create : fld trainWord.toNat 0 31 = 9 ∧ trainState.accepts (.trainCreate h1 trainWord) ∧ trainCheck trainState train1 = stOk :=
  ⟨by decide +kernel, of_runsNow (by decide +kernel), by decide +kernel⟩

def withTrain (t : Train) : State := { trainState with trains := [t] }
def trainIn (st : TState) : Train := { train1 with state := st }
def trainInPhase : Train := { trainIn .running with phase := 1 }

theorem witness_train_objects : (withTrain (trainIn .idle)).accepts (.trainStart h1 9) ∧ (withTrain (trainIn .running)).accepts (.trainStop h1 9) ∧
    (withTrain trainInPhase).accepts (.trainStop h1 9) ∧ (withTrain (trainIn .idle)).accepts (.trainQuery h1 9) ∧
    (withTrain (trainIn .idle)).accepts (.trainExport h1 9) ∧ (withTrain (trainIn .idle)).accepts (.trainDelete h1 9) ∧ trainOf (withTrain (trainIn .idle)) 1 9 = some (trainIn .idle) ∧
    trainOf (withTrain (trainIn .creating)) 1 9 = some (trainIn .creating) ∧ trainBusy (withTrain (trainIn .running)) (trainIn .running) = false ∧
    trainBusy (withTrain trainInPhase) trainInPhase = true ∧ trainOf (withTrain trainInPhase) 1 9 = some trainInPhase ∧
    variantOf (withTrain (trainIn .idle)) 1 (tnVid (trainIn .idle)) = some (variant1 .resident) ∧ tnXtable (trainIn .idle) = 0 :=
  ⟨of_runsNow (by decide +kernel), of_runsNow (by decide +kernel), of_runsNow (by decide +kernel), of_runsNow (by decide +kernel),
    of_runsNow (by decide +kernel), of_runsNow (by decide +kernel), by decide +kernel⟩

/-- An update step of the object, with a tensor of one element whose shadow array is no page of the basin. -/
def updateStep : Step := { boundStep with kind := .train 9 3 }
def updateState : State :=
  let s := withStep (withTrain (trainIn .running)) updateStep
  { s with mem := memPuts s.mem (frameAt 2 5) (le 4 1 ++ le 4 1 ++ le 4 1) }

theorem witness_boundary_refused : stepOf updateState 1 = some updateStep ∧ unitsStopped updateState updateStep = true ∧
    drawWaits updateState updateStep = false ∧ updateStep.stopped = false ∧
    ∃ x u, boundaryReads updateState updateStep = .ok (some x) u ∧ (stepOf (areaFault u 1 x) 1).isSome = true :=
  ⟨rfl, by decide +kernel, by decide +kernel, rfl, _, _, by
    unfold boundaryReads; rw [show boundaryRefusal updateState updateStep = some (0, stIndexRange) by decide +kernel], by decide +kernel⟩

/-- A batch of no sequences in the WORK page, at its offset 0x800. -/
theorem witness_train_feed : (withTrain (trainIn .idle)).accepts (.trainFeed h1 9 (a0 + 4096 + 0x800)) ∧ (a0 + 4096 + 0x800) % 8 = 0 ∧
    areaKind (withTrain (trainIn .idle)) 1 .work (a0 + 4096 + 0x800) 8 = true ∧ rdB (withTrain (trainIn .idle)) 1 (a0 + 4096 + 0x804) 4 = 0 ∧
    feedOk (withTrain (trainIn .idle)) 1 (rdB (withTrain (trainIn .idle)) 1 (a0 + 4096 + 0x800) 4) (a0 + 4096 + 0x808) = true ∧
    feedsWaiting (withTrain (trainIn .idle)) (trainIn .idle) < 16 :=
  ⟨of_runsNow (by decide +kernel), by decide +kernel⟩

theorem witness_logs : ready.accepts (.logRead h1 0 128) ∧ ready.accepts (.logFaults h1 0 64) ∧ ready.accepts (.logCounters h1 6 65535) ∧
    guest.accepts (.logCounters h1 6 0) ∧ ready.accepts (.logSubscribe h1 1) ∧ ready.accepts (.testEcho h1 [1]) ∧ setSize 6 = some 65536 ∧ maySee ready 1 6 65535 = true ∧ maySee guest 1 6 0 = true :=
  ⟨of_runsNow (by decide +kernel), of_runsNow (by decide +kernel), of_runsNow (by decide +kernel), of_runsNow (by decide +kernel),
    of_runsNow (by decide +kernel), of_runsNow (by decide +kernel), by decide +kernel⟩

/-! ### The network, the basins and the registers -/

/-- The module with port E0 up. -/
def linkUp : State := { ready with eth := { ready.eth with ports := [{ ctrl := 0x11, linkUp := true, rateNow := 1, lanes := 4 }, { ctrl := 0x11 }] } }

theorem witness_receive : portLink linkUp 0 = true ∧ linkUp.boot.stage = 6 ∧ rx1.linkOk = true ∧ vlanOk linkUp rx1 = true ∧
    bitAt (portCtrl linkUp 0) 5 = false ∧ rx1.udpOk = true ∧ rx1.dstPort = 47077 ∧ ownerOf linkUp 0 rx1.dstIp = some 1 ∧
    rx1.basin = 1 ∧ headerOk rx1 = true ∧ inTeardown linkUp 1 = false ∧
    (((basinOf linkUp 1).map (·.host.hosts)).getD []).contains rx1.srcIp = true ∧ rx1.kind = 6 ∧ rx1.synBit = false ∧
    headerOk (rxOf { hdr6 with kind := 1 }) = true ∧ headerOk (rxOf { hdr6 with synBit := true, maxpay := 1024 }) = true ∧
    (flowOf (count (setFlow linkUp 1 0 fun fl => { fl with opened := true }) 5 0 0 0 1) 1 0).opened = true := by decide +kernel

/-- The port with MACSEC_REQ, an association and a channel bound to basin 1. -/
def macBound : State := { macSak with sec := { macSak.sec with scis := [{ port := 0, sci := 4, basin := 1 }] } }

theorem witness_receive_protected : portLink macBound 0 = true ∧ protectedOk macBound rxTag = true ∧ ownerOf macBound 0 rx1.dstIp = some 1 ∧
    (macBound.sec.scis.any fun k => k.port == 0 && some k.sci == rxTag.sci && k.basin == 1) = true ∧
    headerOk rxTag = true := by decide +kernel

/-- Flow 0 of basin 1 with one segment out, an acknowledgement due, and a whole TOK message whose latency is measured on flow 1. -/
def sentState : State :=
  let g : SentSeg := { seq := 5, ident := 0, part := 0, timer := 1000, due := 2000 }
  let q : QMsg := { msg := .tok [], ident := 0, segsSent := 1, measure := [{ gid := 0, stepSeq := 0, formT := 0, bound := 1, guar := true }] }
  let s := setFlow linkUp 1 0 fun fl => { fl with opened := true, sent := [g], ackDue := some 9 }
  setLink (setFlow s 1 1 fun fl => { fl with maxpay := 1024, queue := [q] }) 1 fun l => { l with gatherSince := some 9 }

theorem witness_flow_timers : ((flowOf sentState 1 0).sent.find? fun g => g.seq == 5).any (fun g => g.due ≤ sentState.now) = true ∧
    (flowOf sentState 1 0).stalled = false ∧ (flowOf sentState 1 0).ackDue = some 9 ∧ 9 ≤ sentState.now ∧ (linkOf sentState 1).gatherSince = some 9 ∧
    9 + evtCoalesce sentState 1 ≤ sentState.now ∧
    ((flowOf sentState 1 1).queue.find? fun q => !q.measure.isEmpty && q.segsSent == segCount (flowOf sentState 1 1).maxpay q.msg &&
      !waitsForPort sentState 1 1 q).isSome = true := by
  decide +kernel

/-- Addresses of IPv4, 192.0.2.n, in their mapped form (R406). -/
def ip4 (n : Byte) : Nat := ofLe (List.replicate 10 0 ++ [255, 255, 192, 0, 2, n])

/-- A frame from MAC address 02-00-00-00-00-09, filled up to 64 bytes with its FCS. -/
def etherOf (type : Nat) (l : List Byte) : RxFrame where
  port := 0
  fcsOk := true
  secTag := none
  bufferRoom := true
  bytes := List.replicate 6 2 ++ [2, 0, 0, 0, 0, 9] ++ [BitVec.ofNat 8 (type / 256), BitVec.ofNat 8 type] ++ l ++ List.replicate (46 - l.length) 0

/-- ARP for Ethernet and IPv4 as RFC 826 lays it out: 192.0.2.20 at 02-00-00-00-00-09 and 192.0.2.1. -/
def arpOf (op : Byte) : RxFrame :=
  etherOf 0x0806 ([0, 1, 8, 0, 6, 4, 0, op, 2, 0, 0, 0, 0, 9, 192, 0, 2, 20, 0, 0, 0, 0, 0, 0, 192, 0, 2, 1])

def nsol : RxFrame := etherOf 0x86DD (ipPacket 0 20 10 58 (icmpMessage 20 10 135 ([0, 0, 0, 0] ++ ipBytes 10)))
def nadv : RxFrame := etherOf 0x86DD (ipPacket 0 20 10 58 (icmpMessage 20 10 136 ([0, 0, 0, 0] ++ ipBytes 20 ++ [2, 1, 2, 0, 0, 0, 0, 9])))
def ping : RxFrame := etherOf 0x86DD (ipPacket 0 20 10 58 (icmpMessage 20 10 128 [0, 1, 0, 2, 7]))

/-- Port E0 up, with an address of IPv4 too, while it resolves two addresses. -/
def answers : State := { linkUp with
  basins := [{ id := 1, word := word1, host := { local0 := [10, ip4 1], local1 := [], hosts := [20] } }]
  eth := { linkUp.eth with ports := [{ ctrl := 0x11, linkUp := true, rateNow := 1, lanes := 4, resolving := [20, ip4 20] }] } }

theorem witness_port : portLink answers 0 = true ∧ (arpOf 1).bufferRoom = true ∧ ((arpOf 1).sec.isSome || bitAt (portCtrl answers 0) 5) = false ∧
    (ping.sec.isSome || bitAt (portCtrl answers 0) 5) = false ∧ (arpOf 1).linkOk = true ∧ vlanOk answers (arpOf 1) = true ∧ (arpOf 1).arp 1 = true ∧
    ownAddr answers 0 (arpOf 1).arpTarget = true ∧ nsol.linkOk = true ∧ nsol.icmp6 135 24 = true ∧ ownAddr answers 0 nsol.ndTarget = true ∧
    ping.linkOk = true ∧ ping.echo = true ∧ ownAddr answers 0 ping.dstIp = true ∧ (arpOf 2).arp 2 = true ∧ nadv.icmp6 136 24 = true ∧
    nadv.arp 2 = false ∧ nadv.linkOk = true ∧ (answers.eth.ports[0]?).any (fun p => p.resolving.contains nadv.ndTarget &&
      p.resolving.contains (arpOf 2).arpSender) = true := by decide +kernel

theorem witness_link : (linkUp.eth.ports[0]?).any (·.linkUp) = true ∧
    (linkUp.eth.ports[1]?).any (fun p => !p.linkUp && bitAt p.ctrl.toNat 0 && fld p.ctrl.toNat 1 2 == 0 && fld p.ctrl.toNat 3 3 == 0) = true ∧
    linkUp.pwr.serHeld = false ∧ (linkUp.pwr.doms.getD 365 {}).state = 2 ∧
    [(1, 0), (2, 0)].contains (1, 0) = true ∧ ¬[(2, 0)].contains (1, 0) = true := by decide +kernel

/-- The frames that a state has sent. -/
def sent (r : Host.Outcome State Fault Refusal) : List OutBody :=
  match r with
  | .next s => s.eth.out.map (·.body)
  | _ => []

theorem test_arp_answered : sent (execArpRequest (arpOf 1) answers) = [.arpReply (ip4 20) (ip4 1)] ∧
    sent (execArpRequest (arpOf 2) answers) = [] := by decide +kernel

theorem test_echo_returns_its_data : (sent (execIcmpEcho ping linkUp)).getLast? = some (.echoReply 20 10 [0, 1, 0, 2, 7]) := by decide +kernel

theorem test_resolution : (match execAddressResolutionReply (arpOf 2) answers with
    | .next s => (s.eth.ports[0]?).map fun p => (p.neighbours, p.resolving)
    | _ => none) = some ([(ip4 20, 0x020000000009)], [20]) := by decide +kernel

theorem witness_basin_map : ready.accepts (.basinMap h1 a0 1 1 1) ∧ ready.accepts (.basinMap h1 a0 1 0 0) ∧
    lentState.accepts (.basinMap h1 a0 1 0 0) ∧ mapCheck lentState 1 a0 1 2 = stMemQuota ∧ lendShort lentState 1 a0 1 2 = true ∧ a0 / 4096 = p0 ∧ mapCheck ready 1 a0 1 1 = stOk ∧
    mapCheck ready 1 a0 1 2 = stOk :=
  ⟨of_runsNow (by decide +kernel), of_runsNow (by decide +kernel), of_runsNow (by decide +kernel), by decide +kernel⟩

theorem witness_basin_region : (withPages ready [workPage]).accepts (.basinUnmap h1 a0 1) ∧ (withPages ready [workPage]).accepts (.basinPlace h1 a0 1 1) ∧
    regionCheck (withPages ready [workPage]) 1 a0 1 false = stOk ∧ regionCheck (withPages ready [workPage]) 1 a0 1 true = stOk ∧
    quotaOk (withPages ready [workPage]) 1 1 1 = true ∧ 1 ≤ framesFree (withPages ready [workPage]) 1 ∧
    (withPages ready [workPage]).accepts (.basinPageq h1 a0) ∧ inTiered a0 1 = true :=
  ⟨of_runsNow (by decide +kernel), of_runsNow (by decide +kernel), by decide +kernel, by decide +kernel, by decide +kernel, by decide +kernel,
    of_runsNow (by decide +kernel), by decide +kernel⟩

theorem witness_basin_read : (withPages ready [workPage]).accepts (.basinRead h1 a0 4096 3) ∧ inTiered a0 4096 = true ∧
    (∀ p ∈ pageRange a0 4096, pageMapped (withPages ready [workPage]) 1 p = true) ∧ rangeMoving (withPages ready [workPage]) 1 a0 4096 = false ∧
    (withPages ready [movingPage]).accepts (.basinRead h1 a0 4096 3) ∧ rangeMoving (withPages ready [movingPage]) 1 a0 4096 = true :=
  ⟨of_runsNow (by decide +kernel), by decide +kernel, by decide +kernel, by decide +kernel,
    of_runsNow (by decide +kernel), by decide +kernel⟩

/-- The record of basin 2 on tributary 1. -/
def word2 (admin : Nat) : BitVec 1024 := fields 1024 [(0, 2), (4, admin), (8, 1), (32, 16), (64, 16), (128, 2), (480, 64), (512, 4096), (544, 4096)]

def twoBasins : State := { ready with basins := ready.basins ++ [{ id := 2, word := word2 0 }] }

theorem ready_store : ready.storeOpen := by unfold State.storeOpen; decide +kernel

theorem witness_basin_create : bwId (word2 0) = 2 ∧ ready.accepts (.basinCreate h1 (word2 0)) ∧ isAdmin ready 1 = true ∧ ready.storeOpen ∧
    createCheck ready (word2 0) = stOk :=
  ⟨by decide +kernel, of_runsNow (by decide +kernel), by decide +kernel, ready_store, by decide +kernel⟩

theorem witness_basin_quota : twoBasins.accepts (.basinQuota h1 (word2 0)) ∧ twoBasins.accepts (.basinQuota h1 (word2 1)) ∧ isAdmin twoBasins 1 = true ∧ twoBasins.storeOpen ∧
    quotaCheck twoBasins (word2 0) = stOk ∧ bitAt (word2 0).toNat 4 = false ∧ quotaCheck twoBasins (word2 1) = stOk ∧
    bitAt (word2 1).toNat 4 = true ∧ twoBasins.admin ≠ 2 ∧ (basinOf twoBasins twoBasins.admin).isSome = true := by
  refine ⟨of_runsNow (by decide +kernel), of_runsNow (by decide +kernel), by decide +kernel, ?_, by decide +kernel⟩
  unfold State.storeOpen; decide +kernel

theorem witness_basin_hosts : twoBasins.accepts (.basinHosts h1 2 (List.replicate 8 0)) ∧ twoBasins.storeOpen ∧
    twoBasins.accepts (.basinQuery h1 2) ∧ twoBasins.accepts (.basinDestroy h1 2) ∧ isAdmin twoBasins 1 = true ∧ twoBasins.store.faulted = false ∧ basinLive twoBasins 2 = true ∧ inTeardown twoBasins 2 = false ∧
    hostsCheck twoBasins 2 (List.replicate 8 0) = stOk ∧ isAdmin twoBasins 2 = false ∧ (basinOf twoBasins 2).isSome = true :=
  ⟨of_runsNow (by decide +kernel), by unfold State.storeOpen; decide +kernel, of_runsNow (by decide +kernel), of_runsNow (by decide +kernel),
    by decide +kernel⟩

def tearing (step : Nat) : State :=
  { ready with basins := ready.basins ++ [{ id := 2, word := word2 0, teardown := some { start := 0, flushAt := 0, step := step } }] }

theorem witness_teardown : teardownOf (tearing 3) 2 = some { start := 0, flushAt := 0, step := 3 } ∧ flushed (tearing 3) 2 = true ∧
    teardownOf (tearing 6) 2 = some { start := 0, flushAt := 0, step := 6 } ∧ basinClear (tearing 6) 2 = true ∧ (tearing 6).storeOpen ∧
    let s : State := { tearing 6 with store := { ready.store with faulted := true } }
    basinClear s 2 = true ∧ storeReady s = true := by
  unfold State.storeOpen; decide +kernel

theorem witness_register_commands : ready.accepts (.regRead h1 0x10100 12) ∧ ready.accepts (.regWrite h1 0x30000 1 1) ∧
    ready.accepts (.ethPortCtrlWrite h1 0 1 1) ∧ ready.accepts (.frdEnableWrite h1 47 1 1) ∧ ready.accepts (.frdRetrain h1 47 1 1) ∧
    ready.accepts (.frdClrCnt h1 47 1 1) ∧ ready.accepts (.pwrLimitCfgWrite h1 1 1) ∧ ready.accepts (.restart h1 1 1) ∧
    ready.accepts (.confirm h1 1 1) ∧ ready.accepts (.stwBootCfgWrite h1 1 1) ∧ (List.range 12).all (fun k => (regAt (0x10100 + 8 * k)).isSome) = true ∧
    regAt 0x30000 = some .memCtrl ∧ isAdmin ready 1 = true ∧ storeReady ready = true ∧ ready.storeOpen :=
  ⟨of_runsNow (by decide +kernel), of_runsNow (by decide +kernel), of_runsNow (by decide +kernel), of_runsNow (by decide +kernel),
    of_runsNow (by decide +kernel), of_runsNow (by decide +kernel), of_runsNow (by decide +kernel), of_runsNow (by decide +kernel),
    of_runsNow (by decide +kernel), of_runsNow (by decide +kernel), by decide +kernel, by decide +kernel, by decide +kernel, by decide +kernel, ready_store⟩

/-! ### Fords, slices, programs and security -/

/-- Ford 0 in a state, the last flit long ago; the others UP and fresh. -/
def fordIn (f : Ford) : State := { ready with fords := { ready.fords with fords := f :: ready.fords.fords.tail } }

theorem witness_ford_training : fordLive (fordIn { state := 3 }) 0 = true ∧ (fordOf (fordIn { state := 3 }) 0).trained = false ∧
    fordLive (fordIn { state := 1, retryAt := some 9 }) 0 = true ∧ (fordOf (fordIn { state := 1, retryAt := some 9 }) 0).retryAt.any (· ≤ ready.now) = true ∧
    fordLive (fordIn { state := 3, trained := true }) 0 = true ∧ (fordOf (fordIn { state := 3, trained := true }) 0).trained = true := by decide +kernel

/-- The head of a transfer from the origin. -/
def head0 : FlitHead := { chan := 1, seq := 0, flits := 0, src := some (0, 0, 0), dst := (0, 0, 0) }

def fordUp : State := fordIn { state := 9, trained := true, lastFlit := 50000000000 - 1000000 + 1 }

theorem witness_ford_up : (fordOf fordUp 0).state = 9 ∧ (fordOf fordUp 0).awaited = none ∧
    (fordOf (fordIn { state := 9, awaited := some (head0, .other) }) 0).awaited = some (head0, .other) ∧ head0 ≠ { head0 with src := some (1, 0, 0) } ∧ (fordOf fordUp 0).failRun + 1 ≠ 8 ∧
    (fordOf (fordIn { state := 9, failRun := 7 }) 0).failRun + 1 = 8 ∧ (fordOf (fordIn { state := 9 }) 0).lastFlit + 1000000 ≤ ready.now ∧
    (fordOf fordUp 0).peerLost = false ∧ (fordOf fordUp 0).peerCtrAt + 1000000 ≤ fordUp.now ∧ fordUp.now < (fordOf fordUp 0).lastFlit + 1000000 := by
  decide +kernel

/-- A slice of basin 1 over this module alone, declared at time 0, with one part bound long ago. -/
def sliceWord : BitVec 256 := fields 256 [(0, 4), (64, 1)]
def slice1 : Slice := { word := sliceWord, bindAt := 0, parts := [{ kind := 1, ident := 0, boundAt := 0 }] }
def withSlice (x : Slice) : State := { ready with fords := { ready.fords with topo := fields 512 [(31, 1)], slices := [x] } }

theorem witness_slice : sliceById (withSlice slice1) 4 = some slice1 ∧ slice1.state = 1 ∧ slice1.bindAt + 10000000000 ≤ ready.now ∧
    sliceById (withSlice { slice1 with sentReady := true }) 4 = some { slice1 with sentReady := true } ∧
    sliceById (withSlice { slice1 with state := 2 }) 4 = some { slice1 with state := 2 } ∧ slicePlace (withSlice slice1) slice1 = 0 ∧
    sliceOf (withSlice { slice1 with state := 2 }) 1 = some { slice1 with state := 2 } ∧
    (slice1.parts.find? fun p => p.kind == 1 && p.ident == 0 && !p.joined && decide (p.boundAt + 1000000000 ≤ ready.now)) =
      some { kind := 1, ident := 0, boundAt := 0 } := by decide +kernel

def progWord : BitVec 384 := fields 384 [(0, 5), (40, 16), (64, 1), (80, 1), (320, 1)]

theorem witness_program : modelState.accepts (.modelProgram h1 progWord) ∧
    programOk modelState 1 progWord = true := ⟨of_runsNow (by decide +kernel), by decide +kernel⟩

theorem or_bit63 (x : Nat) : (x ||| 2 ^ 63) ≠ 0 := by
  intro h
  have t : (x ||| 2 ^ 63).testBit 63 = true := by
    rw [Nat.testBit_or, show Nat.testBit (2 ^ 63) 63 = true from by decide +kernel, Bool.or_true]
  rw [h] at t
  simp at t

theorem withBit63_ne (x : Nat) : withBit63 x ≠ 0 := or_bit63 x

theorem serial_pos : moduleSerial ≠ 0 := withBit63_ne _

theorem witness_topology : ready.accepts (.linkTopology h1 0) ∧ ready.accepts (.linkStatus h1) ∧ isAdmin ready 1 = true ∧ ready.storeOpen ∧ topologyOk 0 = true ∧ ready.fords.slices = [] := by
  refine ⟨of_runsNow (by decide +kernel), of_runsNow (by decide +kernel), by decide +kernel, ready_store, ?_, rfl⟩
  have e : ∀ l : List Nat, (l.all fun d => fld (0 : BitVec 512).toNat (64 + 64 * d) (127 + 64 * d) != moduleSerial) = true := by
    intro l
    rw [List.all_eq_true]
    intro d _
    have : fld (0 : BitVec 512).toNat (64 + 64 * d) (127 + 64 * d) = 0 := by simp [fld]
    rw [this]
    simpa using serial_pos.symm
  unfold topologyOk
  simp only [e, Bool.and_true]
  decide +kernel

def topoState : State := { ready with fords := { ready.fords with topo := fields 512 [(31, 1)] } }
def unbindWord : BitVec 256 := fields 256 [(0, 4), (64, 1), (68, 1)]
def idleSlice : Slice := { slice1 with parts := [] }

theorem witness_link_slice : topoState.accepts (.linkSliceBind h1 sliceWord) ∧ isAdmin topoState 1 = true ∧ bitAt sliceWord.toNat 68 = false ∧
    sliceCheck topoState sliceWord = stOk ∧ (withSlice idleSlice).accepts (.linkSliceUnbind h1 unbindWord) ∧ isAdmin (withSlice idleSlice) 1 = true ∧ bitAt unbindWord.toNat 68 = true ∧
    ((withSlice idleSlice).fords.slices.find? fun x => swId x.word == swId unbindWord && swBasin x.word == swBasin unbindWord) = some idleSlice ∧
    idleSlice.parts.any (partLive (withSlice idleSlice) (swBasin unbindWord)) = false :=
  ⟨of_runsNow (by decide +kernel), by decide +kernel, by decide +kernel, by decide +kernel,
    of_runsNow (by decide +kernel), by decide +kernel, by decide +kernel⟩

/-- The module whose port E0 carries basin 1's secure channel: its operator is known by it (R450). -/
def secured (s : State) : State := { s with sec := { s.sec with
  saks := [{ port := 0, an := 0, key := 3 }], scis := [{ port := 0, sci := 4, basin := 1 }], d0 := { s.sec.d0 with ok := true } } }

theorem witness_security : (secured ready).accepts (.secAttest h1 1 none) ∧ secRefused (secured ready) = false ∧
    (basinOf (secured ready) ((none : Option Nat).getD 1)).isSome = true ∧ (secured ready).sec.d0.ok = true ∧ reportWaits (secured ready) = false ∧
    (secured ready).accepts (.secCerts h1) ∧ isAdmin (secured ready) 1 = true ∧ (secured ready).storeOpen ∧
    (secured (withPages ready [workPage])).accepts (.secFwUpdate h1 a0 16) ∧ slotTrial (slotWord (secured (withPages ready [workPage]))) = false ∧
    imageBreach (secured (withPages ready [workPage])) 1 a0 16 = stOk ∧ (secured ready).accepts (.cakInstall h1 3 1 1 [] []) ∧
    (secured ready).accepts (.sciBind h1 3 1 4) ∧ (secured ready).accepts (.sciUnbind h1 3 1 4) ∧ (secured ready).accepts (.secZeroize h1 1) :=
  ⟨of_runsNow (by decide +kernel), by decide +kernel, by decide +kernel, by decide +kernel, by decide +kernel, of_runsNow (by decide +kernel),
    by decide +kernel, by unfold State.storeOpen; decide +kernel, of_runsNow (by decide +kernel), by decide +kernel, by decide +kernel,
    of_runsNow (by decide +kernel), of_runsNow (by decide +kernel), of_runsNow (by decide +kernel), of_runsNow (by decide +kernel)⟩

/-- A report is being signed. -/
def signing1 : Signing := { h := h1, word := 1 }
def signingState : State := { ready with sec := { ready.sec with signing := some signing1 } }

theorem witness_signing : signingState.sec.signing = some signing1 := rfl

def stagedState : State := { ready with sec := { ready.sec with staging := some (1, [1]) } }

theorem witness_security_writes : stagedState.sec.staging = some (1, [1]) ∧ stagedState.storeOpen ∧ basinLive ready 1 = true ∧
    (portsOf 3).all (fun n => decide (((([] : List Sci) ++ (portsOf 3).map fun n => ({ port := n, sci := 4, basin := 1 } : Sci)).filter (fun k => k.port == n)).length ≤ 16)) =
      true := by
  unfold State.storeOpen; decide +kernel

/-- A module with keys whose port E0 has a CAK of name 9. -/
def keyed : State := { linkUp with now := 90000000000000, sec := { linkUp.sec with keysLive := true, caks := [{ port := 0, keyId := 1, ckn := 9, key := 2 }] } }
def worn (d : Drbg) : State := { keyed with sec := { keyed.sec with d0 := d, d1 := d } }

theorem witness_security_events : portLink keyed 0 = true ∧ (keyed.sec.caks.any fun k => k.port == 0 && k.ckn.toNat == 9) = true ∧ keyed.sec.keysLive = true ∧
    keyed.sec.failedCauses.contains 2 = false ∧ sp1On keyed = true ∧ keyed.sec.lastSelftest + selftestPeriod ≤ keyed.now ∧
    sp1On (worn { keyed.sec.d0 with ok := true, gens := 2 ^ 20 }) = true ∧ (worn { keyed.sec.d0 with ok := true, gens := 2 ^ 20 }).sec.d0.ok = true ∧
    2 ^ 20 ≤ (worn { keyed.sec.d0 with ok := true, gens := 2 ^ 20 }).sec.d0.gens ∧ 2 ^ 20 ≤ (worn { keyed.sec.d0 with ok := true, gens := 2 ^ 20 }).sec.d1.gens := by decide +kernel

/-! ### Power, boot, time and the service ports -/

def warn1 : Warn := { start := 0, low := 650, point := 3, returned := some 1 }
def brown1 : Brown := { start := 0, begun := 0, low := 500, cause := 0, good := some 0 }
def withPwr (f : Power → Power) : State := { ready with pwr := f ready.pwr }

/-- A brown-out in which the die wakes, port E0 having been up. -/
def waking1 : Brown := { brown1 with waking := true, ports := [0] }
def wakingState : State := { linkUp with pwr := { linkUp.pwr with brown := some waking1 } }

theorem witness_core_supply : 3 ≤ ready.boot.stage ∧ ready.boot.stage ≤ 6 ∧ ready.pwr.brown = none ∧ ready.pwr.warn = none ∧
    (withPwr fun p => { p with warn := some warn1 }).pwr.warn = some warn1 ∧ warn1.returned = some 1 ∧ 1 + 100000 ≤ ready.now ∧ dieRuns ready = true ∧
    (withPwr fun p => { p with brown := some brown1 }).pwr.brown = some brown1 ∧ brown1.waking = false ∧
    brown1.good.any (· + 100000 ≤ ready.now) = true ∧ tripRecovered ready = true ∧ wakingState.pwr.brown = some waking1 ∧ waking1.waking = true ∧
    (∀ x ∈ wakingState.pwr.doms, x.state ≠ 1) ∧ (∀ n ∈ waking1.ports, portLink wakingState n = true) ∧ wakingState.boot.stage = 6 ∧
    ready.pwr.pacing = false ∧ ready.pwr.lastLoop + 1000000 ≤ ready.now := by decide +kernel

/-- What a step of the limiter leaves before it paces (R478). -/
def limited (s : State) : State :=
  let u := moveSetpoint s
  { u with pwr := { u.pwr with
    atFloorSince := if u.pwr.setpoint ≤ 700 && meanAbove u 100 (plimit u) then u.pwr.atFloorSince.orElse fun _ => some u.now else none
    metSince := if meanAbove u 100 (plimit u) || overMean u then none else u.pwr.metSince.orElse fun _ => some u.now } }

def hotState : State := withPwr fun p => { p with samples := List.replicate 10 1451 }

theorem witness_limiter : dieRuns ready = true ∧ mustPace (limited ready) = false ∧ dieRuns hotState = true ∧ mustPace (limited hotState) = true ∧
    (limited hotState).pwr.pacing = false := by decide +kernel

def powered : State := withPwr fun p => { p with inputOn := true }

theorem witness_rails : powered.pwr.inputOn = true ∧ 2 ∉ powered.pwr.railWarn ∧ 100 < railWarnMv 2 ∧ railWarnMv 2 ≤ 5000000 ∧ powered.pwr.railPend = none ∧
    3 ≤ powered.boot.stage ∧ powered.pwr.busFaulted = false ∧ powered.pwr.inputLow = false ∧ powered.pwr.inputHigh = false ∧ ready.pwr.inputOn = false ∧
    (withPwr fun p => { p with serHeld := true }).pwr.serGood = none ∧ (withPwr fun p => { p with serHeld := true, serGood := some 0 }).pwr.serGood = some 0 ∧
    0 + 10000000 ≤ ready.now ∧ (withPwr fun p => { p with busFaulted := true }).pwr.busRetryAt ≤ ready.now ∧ ready.pwr.senseMated = none := by decide +kernel

def idleReach : State := setDom ready 5 fun x => { x with mode := 2 }

theorem witness_domains : 3 ≤ ready.boot.stage ∧ (domOf wakingReach 0).state = 1 ∧ (∀ x ∈ needs wakingReach 0, domOn wakingReach x = true) ∧
    (domOf (setDom ready 5 fun x => { x with switchingOff := true }) 5).switchingOff = true ∧
    (domOf (setDom ready 5 fun x => { x with switchingOff := true }) 5).state = 2 ∧ (domOf wakingReach 0).wakeAt + 2 * wakeTime 0 ≤ wakingReach.now ∧
    (domOf idleReach 5).mode = 2 ∧ domOn idleReach 5 = true ∧ (domOf idleReach 5).idleSince + autoIdle idleReach ≤ idleReach.now ∧
    domainBound idleReach 5 = false ∧ dependantPowered idleReach 5 = false ∧ 5 ∉ reserved idleReach ∧ fordBound idleReach 5 = false ∧ phyBusy idleReach 5 = false ∧
    (∀ d ∈ [256, 292, 315, 366], let s := setDom ready d fun x => { x with state := 1 }
      (domOf s d).state = 1 ∧ (domOf s d).wakeAt + 2 * wakeTime d ≤ s.now) ∧
    (withPwr fun p => { p with standbyUntil := some (some 9) }).pwr.standbyUntil = some (some 9) := by decide +kernel

theorem witness_power_commands : ready.accepts (.pwrStatus h1) ∧ ready.accepts (.pwrDomain h1 5 1 0) ∧ domainCheck ready 5 1 = stOk ∧
    ready.accepts (.standby h1 0xFFFF 0) ∧ moduleBusy ready = false ∧ ready.boot.testing = none ∧
    (ready.fords.slices.any fun x => !x.bound.isEmpty) = false ∧ isAdmin ready 1 = true ∧ ready.accepts (.pwrLimit h1 1 1) ∧
    ready.store.faulted = false ∧ storeReady ready = true ∧ (withPwr fun p => { p with auxBad := true }).accepts (.pwrLimit h1 1 1) ∧
    storeReady (withPwr fun p => { p with auxBad := true }) = false ∧ ready.accepts (.pwrStoreQuery h1) ∧ ready.accepts (.pwrStoreSwap h1) :=
  ⟨of_runsNow (by decide +kernel), of_runsNow (by decide +kernel), by decide +kernel, of_runsNow (by decide +kernel), by decide +kernel,
    by decide +kernel, by decide +kernel, by decide +kernel, of_runsNow (by decide +kernel), by decide +kernel, by decide +kernel,
    of_runsNow (by decide +kernel), by decide +kernel, of_runsNow (by decide +kernel), of_runsNow (by decide +kernel)⟩

def storeRec1 : StoreRec := { type := 0x40, index := 0, len := 8, seq := 0 }
def waitingStore : State := { ready with store := { ready.store with waiting := [storeRec1] } }
def wornStore (swapping : Bool) : State := { ready with store := { ready.store with swapping := swapping, bankB := { erased := false } } }

theorem witness_store : waitingStore.store.waiting = storeRec1 :: [] ∧ waitingStore.pwr.auxBad = false ∧ waitingStore.store.swapping = false ∧ waitingStore.store.faulted = false ∧ (wornStore false).pwr.auxBad = false ∧
    needsSwap waitingStore.store storeRec1.len = false ∧ (otherBank (spoil (spoil waitingStore 8) 8).store).erased = true ∧
    (otherBank (wornStore false).store).erased = false ∧ (wornStore false).store.swapping = false ∧ (otherBank (wornStore true).store).erased = false ∧ (wornStore true).store.swapping = true := by decide +kernel

/-- The module without input power, its SENSE contact mated; in MEMORY; in LINKS; in READY on a trial image. -/
def unpowered : State := { State.reset with now := 50000000, pwr := { State.reset.pwr with senseMated := some 0 } }
def inStage (n : Nat) : State := { ready with boot := { ready.boot with stage := n, linksAt := some 0, readyAt := some 0 } }
def trialState : State := { ready with now := 600000000000, boot := { ready.boot with trial := true, readyAt := some 0 } }
def restarting : State := { powered with boot := { powered.boot with restartDue := some (0, 2) } }

theorem witness_boot : (inStage 5).pwr.brown = none ∧ 380 < 480 ∧ trialState.storeOpen ∧ unpowered.pwr.inputOn = false ∧ unpowered.pwr.senseMated.any (· + 50000000 ≤ unpowered.now) = true ∧
    (inStage 3).boot.stage = 3 ∧ memoryUp (inStage 3) = true ∧ (diePrepared (inStage 3)).boot.stage ≠ 8 ∧ tierLost (inStage 3) 1 = false ∧
    tierLost (inStage 3) 2 = false ∧ failedBlocks [] = [] ∧ (inStage 5).boot.timeSync = false ∧ 0 + ptpWaitNs (inStage 5) ≤ (inStage 5).now ∧
    ({ inStage 5 with boot := { (inStage 5).boot with waitOver := true } } : State).boot.waitOver = true ∧ trialState.boot.trial = true ∧
    0 + confirmNs trialState ≤ trialState.now ∧ storeReady trialState = true ∧ trialState.store.faulted = false ∧ restartRuns restarting = some 2 := by
  unfold State.storeOpen; decide +kernel

/-- A module that exchanges PTP messages over Ethernet on port E0 with a time transmitter of identity 4. -/
def ptpState (p : Ptp) : State := { linkUp with eth := { linkUp.eth with ptp := p } }
def sourced : Ptp := { linkUp.eth.ptp with cfg := 9, source := some 4 }

/-- A PTP message over Ethernet from identity 4, its timestamp 1 s and 2 ns. -/
def ptpOf (type flags : Byte) : RxFrame :=
  etherOf 0x88F7 ([type, 2, 0, 64, 0, 0, flags] ++ List.replicate 22 0 ++ [4, 0, 0, 0, 0] ++ [0, 0, 0, 0, 0, 1] ++ [0, 0, 0, 2] ++ List.replicate 20 0)

theorem witness_ptp : ptpFld (ptpState sourced) 0 0 = 1 ∧ 0 = ptpFld (ptpState sourced) 1 1 ∧ portLink (ptpState sourced) 0 = true ∧
    (∀ f ∈ [ptpOf 11 0, ptpOf 0 2, ptpOf 0 0, ptpOf 8 0, ptpOf 9 0], f.port = ptpFld (ptpState sourced) 1 1 ∧ f.linkOk = true ∧
      vlanOk (ptpState sourced) f = true ∧ f.bufferRoom = true ∧ f.ptpTransport = some (ptpTransport (ptpState sourced)) ∧
      f.ptpDomain = ptpFld (ptpState sourced) 8 15) ∧
    (ptpOf 11 0).ptp (.announce 0 true) = some (.announce 4 true) ∧ (ptpState { sourced with source := none }).eth.ptp.source ≠ some 4 ∧
    (ptpState sourced).eth.ptp.source = some 4 ∧ (ptpOf 0 2).ptp (.sync 0 false 0 7) = some (.sync 4 true 1000000002 7) ∧
    (ptpOf 0 0).ptp (.sync 0 false 0 7) = some (.sync 4 false 1000000002 7) ∧
    (ptpOf 8 0).ptp (.followUp 0 0) = some (.followUp 4 1000000002) ∧ (ptpState { sourced with waitFollow := true }).eth.ptp.waitFollow = true ∧
    (ptpOf 9 0).ptp (.delayResp 0 3 0) = some (.delayResp 4 3 1000000002) ∧
    (ptpState { sourced with t1 := some 1, t2 := some 2, t3 := some 3 }).eth.ptp.t3 = some 3 := by decide +kernel

def run1 : BistRun := { run := 6, scope := 0, target := 5 }

/-- The module with run 6 kept, and with run 6 under way. -/
def testedState : State := { ready with boot := { ready.boot with runs := [run1] } }

theorem witness_selftest : ready.accepts (.testBist h1 0 5) ∧ ready.accepts (.testBist h1 3 1) ∧ isAdmin ready 1 = true ∧
    bistCheck ready 0 0 5 = stOk ∧ bistCheck ready 0 3 1 = stOk ∧
    ({ ready with boot := { ready.boot with testing := some (6, 0, 5) } } : State).boot.testing = some (6, 0, 5) ∧
    ready.accepts (.testResult h1 0) ∧ testedState.accepts (.testResult h1 6) ∧
    (testedState.boot.runs.find? fun r => r.run == 6) = some run1 ∧ testedState.accepts (.testResult h1 7) ∧ ∀ r ∈ testedState.boot.runs, r.run ≠ 7 :=
  ⟨of_runsNow (by decide +kernel), of_runsNow (by decide +kernel), by decide +kernel, by decide +kernel, by decide +kernel, rfl,
    of_runsNow (by decide +kernel), of_runsNow (by decide +kernel), by decide +kernel, of_runsNow (by decide +kernel), by decide +kernel⟩

theorem witness_tap : powered.pwr.inputOn = true ∧ (inStage 9).boot.stage = 9 ∧ ready.boot.stage ≠ 9 := by decide +kernel

/-- The powered module whose administration basin has no address. -/
def recovering : State := { powered with basins := [{ id := 1, word := word1 }] }

theorem witness_management : powered.pwr.inputOn = true ∧ powered.boot.stage = 6 ∧ (ringFrom powered.logs.mgRing 0).take 2 = [] ∧
    mgMayAdmin recovering = true ∧ recovering.mgmt.hostBuf = [] ∧ (List.replicate 8 (0 : Byte)).length = hostRecLen (List.replicate 8 0) ∧
    hostsCheck recovering recovering.admin (List.replicate 8 0) = stOk ∧ recovering.storeOpen ∧ basinLive recovering 1 = true ∧
    ({ recovering with mgmt := { hostAt := some 0 } } : State).mgmt.hostAt.any (· + 10000000000 ≤ recovering.now) = true ∧
    (withPwr fun p => { p with inputOn := true, standbyUntil := some none }).pwr.standbyUntil = some none := by
  unfold State.storeOpen; decide +kernel

def logEntry1 : LogEntry := { lseq := 0, basins := 0, evt := { code := 1, src := 0 } }
def logged : State := { powered with logs := { mgRing := [logEntry1], mgLseq := 1 } }

theorem witness_management_events : ((ringFrom logged.logs.mgRing 0).take 2).getLast? = some logEntry1 ∧ seqBefore logEntry1.lseq logged.logs.mgRead = false ∧
    ({ powered with boot := { powered.boot with stage := 7 } } : State).storeOpen ∧ (List.replicate 240 (0 : Byte)).length = 240 ∧
    ({ State.reset with boot := { State.reset.boot with stage := 9 } } : State).boot.stage = 9 := by
  unfold State.storeOpen; decide +kernel

/-! ### Frames of the uncontrolled port, flits and what reads back -/

/-- A frame of the key agreement. -/
def eapol : RxFrame := etherOf 0x888E [3, 5]

theorem witness_uncontrolled : eapol.linkOk = true ∧ vlanOk keyed eapol = true ∧ eapol.bufferRoom = true ∧ eapol.etherType = 0x888E := by
  decide +kernel

theorem witness_reads_back : isV4 20 = isV4 10 ∧ isV4 (ip4 20) = isV4 (ip4 1) ∧ isV4 (ip4 1) = true ∧ hdr6.kind < 256 ∧ hdr6.basin < 16 ∧
    segCodeOk (expLengths [0x3F800000, 0x3F800000, 0x40000000]) = true ∧ segCodeOk (expLengths [0x3F800000]) = true := by decide +kernel

/-- The checksum over the header of RFC 1071's kind: an IPv4 header that carries its own adds up. -/
theorem test_ip_checksum : sumsUp ([0x45, 0, 0, 0x73, 0, 0, 0x40, 0, 0x40, 0x11, 0xB8, 0x61, 0xC0, 0xA8, 0, 1, 0xC0, 0xA8, 0, 0xC7] : List Byte) = true := by
  decide +kernel

/-- Three values of two exponents: codes of one bit each, then the sign and 23 bits of the value (R348). -/
theorem test_coded_segment : (codeSegment [0x3F800000, 0xBF800000, 0x40000000]).length = 4 + 128 + 10 ∧
    decodeSegment (codeSegment [0x3F800000, 0xBF800000, 0x40000000]) = some [0x3F800000, 0xBF800000, 0x40000000] := by decide +kernel

/-- A slice of 2 by 1 by 1 modules in a torus of 4: from x = 0 its other module lies in direction + of x. -/
def lineState : State := { ready with fords := { ready.fords with topo := BitVec.ofNat 512 3 } }
def line : Slice := { word := fields 256 [(0, 9), (64, 1), (84, 1)], bindAt := 0 }

theorem test_route : nextDir lineState line (1, 0, 0) = some 0 ∧ nextDir lineState line (0, 0, 0) = none := by decide +kernel

/-- A READY slice on ford 0 whose group 0 is at its third step. -/
def sliceThree : Slice where
  word := 1
  state := 2
  bindAt := 0
  bound := [0]
  parts := [{ kind := 1, ident := 0, boundAt := 0, joined := true, stepNo := 3 }]

def unitXfer : FlitUnit := .transfer 1 9 false 64 1 []

theorem witness_turns : sliceAtFord { ready with fords := { ready.fords with slices := [sliceThree] } } 0 = some sliceThree ∧
    turnOf sliceThree (some (1, 0, 3)) unitXfer = .now ∧ turnOf sliceThree none unitXfer = .now ∧
    turnOf sliceThree (some (1, 0, 4)) unitXfer = .later ∧ turnOf sliceThree (some (1, 0, 5)) unitXfer = .bad ∧
    turnOf sliceThree (some (1, 1, 3)) unitXfer = .bad := by decide +kernel

/-- A packet number at most 63 behind the highest of its association is taken, and no older one (R359). -/
theorem test_replay_window :
    let seen : State := { macSak with sec := { macSak.sec with rxScs := [{ port := 0, sci := 4, an := 0, top := 64 }] } }
    protectedOk seen rxTag = true ∧ (let s := { seen with sec := { seen.sec with rxScs := [{ port := 0, sci := 4, an := 0, top := 65 }] } }
    protectedOk s rxTag) = false ∧ (notePn seen { rx1 with secTag := some [0x88, 0xE5, 0x2C, 0, 0, 0, 0, 70, 0, 0, 0, 0, 0, 0, 0, 4] }).sec.rxScs =
      [{ port := 0, sci := 4, an := 0, top := 70 }] := by decide +kernel

/-- Of what waits for a port, flow 1 leaves before flow 0, and the basin after the one served last leads (R371). -/
theorem test_port_order :
    let seg (flow basin : Nat) : PortSeg := { port := 0, ip := 20, src := 10, dport := 47077, pcp := 0, hdr := { hdr6 with flow := flow, basin := basin }, payload := [] }
    let s : State := { linkUp with eth := { linkUp.eth with
      waits := [seg 0 0, seg 1 1, seg 1 3]
      ports := [{ ctrl := 0x11, linkUp := true, rateNow := 1, lanes := 4, served := [15, 2] }] } }
    nextSeg s 0 = some (seg 1 3) ∧ nextSeg s 1 = none := by decide +kernel

/-! ### Published examples of the algorithms that file 16 names -/

/-- FIPS 180-4's example: SHA-256 of "abc". -/
theorem test_sha256 : ofLe (sha256 (asciiBytes "abc")).reverse = 0xba7816bf8f01cfea414140de5dae2223b00361a396177a9cb410ff61f20015ad := by
  decide +kernel

/-- FIPS 197: the substitution of 0x53, and appendix B's first round of rows moved and columns mixed. -/
theorem test_aes_steps : subByte 0x53 = 0xED ∧ unsubByte 0xED = 0x53 ∧
    mixColumns [2, 3, 1, 1] (shiftRows false [0xD4, 0x27, 0x11, 0xAE, 0xE0, 0xBF, 0x98, 0xF1, 0xB8, 0xB4, 0x5D, 0xE5, 0x1E, 0x41, 0x52, 0x30]) =
      [0x04, 0x66, 0x81, 0xE5, 0xE0, 0xCB, 0x19, 0x9A, 0x48, 0xF8, 0xD3, 0x7A, 0x28, 0x06, 0x26, 0x4C] := by decide +kernel

end Sys2Proof.Tests
end

section
namespace Sys2Proof.Proofs
open Machine

/-! ### Bytes (R10, R361) -/

@[simp] theorem length_le (n w : Nat) : (le n w).length = n := by
  induction n generalizing w with
  | zero => rfl
  | succ n ih => simp [le, ih]

@[simp] theorem length_be (n w : Nat) : (be n w).length = n := by simp [be]

@[simp] theorem length_portMac (n : Nat) : (portMac n).length = 6 := by simp [portMac]

theorem ofLe_le (n w : Nat) : ofLe (le n w) = w % 256 ^ n := by
  induction n generalizing w with
  | zero => simp [le, ofLe, Nat.mod_one]
  | succ n ih => rw [le, ofLe, ih, pow_succ', Nat.mod_mul, BitVec.toNat_ofNat]

theorem ofLe_le_of_lt {n w : Nat} (h : w < 2 ^ (8 * n)) : ofLe (le n w) = w := by
  rw [ofLe_le, Nat.mod_eq_of_lt]
  rwa [pow_mul] at h

theorem ofBe_be (n w : Nat) : ofBe (be n w) = w % 256 ^ n := by
  rw [← ofLe_le, ofBe, be, List.foldl_reverse]
  induction le n w with
  | nil => rfl
  | cons b l ih => rw [List.foldr_cons, ih, ofLe, Nat.add_comm]

theorem be_two (w : Nat) : be 2 w = [BitVec.ofNat 8 (w / 256), BitVec.ofNat 8 w] := by simp [be, le]

theorem be_four (w : Nat) : be 4 w = be 2 (w / 65536) ++ be 2 w := by simp [be, le, Nat.div_div_eq_div_mul]

theorem be16At_of_split {l a c : List Byte} {n w : Nat} (h : l = a ++ (be 2 w ++ c)) (hn : a.length = n) :
    be16At l n = w % 65536 := by
  simp [be16At, h, List.drop_left' hn, List.take_left', ofBe_be]

/-! ### Sums of 16-bit words (R358) -/

theorem wordSum_append_of_even (a b : List Byte) (h : a.length % 2 = 0) : wordSum (a ++ b) = wordSum a + wordSum b := by
  induction a using wordSum.induct with
  | case1 x y l ih =>
    have hl : l.length % 2 = 0 := by simp at h; omega
    simp [wordSum, ih hl, Nat.add_assoc]
  | case2 x => simp at h
  | case3 => simp [wordSum]

theorem wordSum_be_two (w : Nat) : wordSum (be 2 w) = w % 65536 := by
  simp [be_two, wordSum]; omega

/-- The words before and after the field of a checksum: with the checksum of the whole in the field they add up. -/
theorem sumsUp_with_sum (a b : List Byte) (ha : a.length % 2 = 0) :
    sumsUp (a ++ (be 2 (sumOf (a ++ (be 2 0 ++ b))) ++ b)) = true := by
  simp only [sumsUp, sumOf, wordSum_append_of_even a _ ha, wordSum_append_of_even (be 2 _) _ (by simp), wordSum_be_two]
  simp
  omega

/-- In ones' complement 65535 is a second 0: sent for a checksum of 0, it adds up too. -/
theorem sumsUp_with_udp_sum (a b : List Byte) (ha : a.length % 2 = 0) :
    let sum := sumOf (a ++ (be 2 0 ++ b))
    sumsUp (a ++ (be 2 (if sum = 0 then 65535 else sum) ++ b)) = true := by
  intro sum
  have h := sumsUp_with_sum a b ha
  by_cases h0 : sum = 0
  · rw [if_pos h0]
    rw [show sumOf _ = 0 from h0] at h
    simp only [sumsUp, wordSum_append_of_even a _ ha, wordSum_append_of_even (be 2 _) _ (by simp), wordSum_be_two] at h ⊢
    simp at h ⊢
    omega
  · simpa [h0] using h

/-! ### Addresses (R358, R406) -/

@[simp] theorem length_ipBytes (ip : Nat) : (ipBytes ip).length = 16 := by simp [ipBytes]

theorem length_hdrAddr (ip : Nat) : (hdrAddr ip).length = if isV4 ip then 4 else 16 := by
  cases h : isV4 ip <;> simp [hdrAddr, h]

theorem ofLe_ipBytes {ip : Nat} (h : ip < 2 ^ 128) : ofLe (ipBytes ip) = ip := ofLe_le_of_lt h

theorem ipOf_hdrAddr {ip : Nat} (h : ip < 2 ^ 128) : ipOf (hdrAddr ip) = ip := by
  cases hv : isV4 ip with
  | false => simp [ipOf, hdrAddr, hv, ofLe_ipBytes h]
  | true =>
    have hp : (ipBytes ip).take 12 = mappedPrefix := by simpa [isV4] using hv
    simp [ipOf, hdrAddr, hv, ← hp, ofLe_ipBytes h]

/-! ### What a receiver finds in a datagram of IP (R355, R358) -/

/-- The header of IPv4 before its checksum: DF set, a TTL of 64 (R358). -/
def v4Head (pcp len proto : Nat) : List Byte :=
  [0x45, BitVec.ofNat 8 (32 * pcp)] ++ be 2 len ++ [0, 0, 0x40, 0, 64, BitVec.ofNat 8 proto]

/-- The header of IPv6 before its addresses: a hop limit of 64 (R358). -/
def v6Head (pcp len proto : Nat) : List Byte :=
  be 4 (6 * 2 ^ 28 + 32 * pcp * 2 ^ 20) ++ be 2 len ++ [BitVec.ofNat 8 proto, 64]

@[simp] theorem length_v4Head (pcp len proto : Nat) : (v4Head pcp len proto).length = 10 := by simp [v4Head]

@[simp] theorem length_v6Head (pcp len proto : Nat) : (v6Head pcp len proto).length = 8 := by simp [v6Head]

theorem ipPacket_v4 {src dst : Nat} (h : isV4 dst = true) (pcp proto : Nat) (body : List Byte) :
    let head := v4Head pcp (20 + body.length) proto
    let addrs := hdrAddr src ++ hdrAddr dst
    ipPacket pcp src dst proto body = head ++ (be 2 (sumOf (head ++ (be 2 0 ++ addrs))) ++ addrs) ++ body := by
  simp [ipPacket, h, v4Head]

theorem ipPacket_v6 {src dst : Nat} (h : isV4 dst = false) (pcp proto : Nat) (body : List Byte) :
    ipPacket pcp src dst proto body = v6Head pcp body.length proto ++ (hdrAddr src ++ hdrAddr dst ++ body) := by
  simp [ipPacket, h, v6Head]

/-- What the header of IP says, when a frame carries a datagram. -/
structure CarriesIp (f : RxFrame) (src dst proto : Nat) (body : List Byte) : Prop where
  v4 : f.v4 = isV4 dst
  ok : f.ipOk = true
  proto : f.proto = proto
  srcField : f.srcField = hdrAddr src
  dstField : f.dstField = hdrAddr dst
  body : f.ipBody = body

section Ip

variable {f : RxFrame} {pcp src dst proto : Nat} {body : List Byte}

theorem carriesIp_of_v4 (h4 : isV4 dst = true) (hsame : isV4 src = isV4 dst) (htype : f.etherType = ipType dst)
    (hnet : f.net = ipPacket pcp src dst proto body) (hproto : proto < 256) (hlen : 20 + body.length < 65536) :
    CarriesIp f src dst proto body := by
  have hsrc : (hdrAddr src).length = 4 := by simp [length_hdrAddr, hsame, h4]
  have hdst : (hdrAddr dst).length = 4 := by simp [length_hdrAddr, h4]
  have hv : f.v4 = true := by simp [RxFrame.v4, htype, ipType, h4]
  rw [ipPacket_v4 h4] at hnet
  have hsum : sumsUp (f.net.take 20) = true := by
    rw [hnet, List.take_left' (by simp [hsrc, hdst])]
    exact sumsUp_with_sum _ _ (by simp)
  have h0 : byteAt f.net 0 = 0x45 := by simp [hnet, v4Head, byteAt]
  have hl : be16At f.net 2 = 20 + body.length := by
    simp [hnet, v4Head, be_two, be16At, ofBe]; omega
  have hfrag : be16At f.net 6 = 0x4000 := by simp [hnet, v4Head, be_two, be16At, ofBe]
  have hlong : 20 + body.length ≤ f.net.length := by simp [hnet, hsrc, hdst]; omega
  exact {
    v4 := by rw [hv, h4]
    ok := by simp [RxFrame.ipOk, hv, h0, hl, hfrag, hsum, hlong]
    proto := by simp [RxFrame.proto, hv, hnet, v4Head, be_two, byteAt]; omega
    srcField := by simp [RxFrame.srcField, hv, hnet, List.drop_append, List.drop_of_length_le, hsrc]
    dstField := by simp [RxFrame.dstField, hv, hnet, List.drop_append, List.drop_of_length_le, hsrc, hdst]
    body := by
      simp only [RxFrame.ipBody, hv, hl, if_true]
      rw [List.take_of_length_le (by simp [hnet, hsrc, hdst]; omega), hnet, List.drop_left' (by simp [hsrc, hdst])] }

theorem carriesIp_of_v6 (h6 : isV4 dst = false) (hsame : isV4 src = isV4 dst) (htype : f.etherType = ipType dst)
    (hnet : f.net = ipPacket pcp src dst proto body) (hpcp : pcp < 8) (hproto : proto < 256) (hlen : body.length < 65536) :
    CarriesIp f src dst proto body := by
  have hsrc : (hdrAddr src).length = 16 := by simp [length_hdrAddr, hsame, h6]
  have hdst : (hdrAddr dst).length = 16 := by simp [length_hdrAddr, h6]
  have hv : f.v4 = false := by simp [RxFrame.v4, htype, ipType, h6]
  rw [ipPacket_v6 h6] at hnet
  have h0 : byteAt f.net 0 / 16 = 6 := by simp [hnet, v6Head, be_two, be_four, byteAt]; omega
  have hl : be16At f.net 4 = body.length := by
    simp [hnet, v6Head, be_two, be_four, be16At, ofBe]; omega
  have hlong : 40 + body.length ≤ f.net.length := by simp [hnet, hsrc, hdst]; omega
  exact {
    v4 := by rw [hv, h6]
    ok := by simp [RxFrame.ipOk, hv, h0, hl, hlong, htype, ipType, h6]
    proto := by simp [RxFrame.proto, hv, hnet, v6Head, be_two, be_four, byteAt]; omega
    srcField := by simp [RxFrame.srcField, hv, hnet, hsrc]
    dstField := by simp [RxFrame.dstField, hv, hnet, List.drop_append, List.take_append, hsrc, hdst]
    body := by
      simp only [RxFrame.ipBody, hv, hl]
      simp [hnet, List.drop_append, List.drop_of_length_le, hsrc, hdst] }

theorem carriesIp_of_ipPacket (hsame : isV4 src = isV4 dst) (htype : f.etherType = ipType dst)
    (hnet : f.net = ipPacket pcp src dst proto body) (hpcp : pcp < 8) (hproto : proto < 256) (hlen : 20 + body.length < 65536) :
    CarriesIp f src dst proto body := by
  cases h : isV4 dst with
  | true => exact carriesIp_of_v4 h hsame htype hnet hproto hlen
  | false => exact carriesIp_of_v6 h hsame htype hnet hpcp hproto (by omega)

end Ip

/-! ### What a receiver finds in a UDP datagram (R355, R358) -/

/-- What the header of UDP says, when a frame carries a datagram of UDP. -/
structure CarriesUdp (f : RxFrame) (src dst sport dport : Nat) (data : List Byte) : Prop where
  ok : f.udpOk = true
  srcIp : f.srcIp = src
  dstIp : f.dstIp = dst
  srcPort : f.srcPort = sport
  dstPort : f.dstPort = dport
  data : f.data = data

/-- The ports and the length, which the checksum of UDP follows. -/
def udpHead (sport dport len : Nat) : List Byte := be 2 sport ++ be 2 dport ++ be 2 len

@[simp] theorem length_udpHead (sport dport len : Nat) : (udpHead sport dport len).length = 6 := by simp [udpHead]

theorem udpDatagram_eq (src dst sport dport : Nat) (data : List Byte) :
    let n := 8 + data.length
    let covered := pseudo (hdrAddr src) (hdrAddr dst) 17 n ++ udpHead sport dport n
    let sum := sumOf (covered ++ (be 2 0 ++ data))
    udpDatagram src dst sport dport data = udpHead sport dport n ++ (be 2 (if sum = 0 then 65535 else sum) ++ data) := by
  simp [udpDatagram, udpHead]

@[simp] theorem length_udpDatagram (src dst sport dport : Nat) (data : List Byte) :
    (udpDatagram src dst sport dport data).length = 8 + data.length := by
  simp [udpDatagram_eq]; omega

theorem length_pseudo_even (src dst proto len : Nat) : (pseudo (hdrAddr src) (hdrAddr dst) proto len).length % 2 = 0 := by
  simp [pseudo, length_hdrAddr]
  split <;> split <;> rfl

theorem carriesUdp_of_carriesIp {f : RxFrame} {src dst sport dport : Nat} {data : List Byte}
    (hip : CarriesIp f src dst 17 (udpDatagram src dst sport dport data)) (hsrc : src < 2 ^ 128) (hdst : dst < 2 ^ 128)
    (hsport : sport < 2 ^ 16) (hdport : dport < 2 ^ 16) (hlen : 8 + data.length < 65536) :
    CarriesUdp f src dst sport dport data := by
  obtain ⟨-, hok, hproto, hsf, hdf, hbody⟩ := hip
  have hl : f.udpLen = 8 + data.length := by
    simp [RxFrame.udpLen, hbody, udpDatagram_eq, udpHead, be_two, be16At, ofBe]; omega
  have hfits : 8 + data.length ≤ f.ipBody.length := by simp [hbody]
  have hall : f.ipBody.take f.udpLen = udpDatagram src dst sport dport data := by
    rw [hbody, List.take_of_length_le (by simp [hl])]
  have hsum : sumsUp (f.summed (f.ipBody.take f.udpLen)) = true := by
    rw [hall, RxFrame.summed, hsf, hdf, hproto, length_udpDatagram, udpDatagram_eq, ← List.append_assoc]
    exact sumsUp_with_udp_sum _ _ (by simp [Nat.add_mod, length_pseudo_even])
  exact {
    ok := by simp [RxFrame.udpOk, hok, hproto, hl, hfits, hl ▸ hsum]
    srcIp := by rw [RxFrame.srcIp, hsf, ipOf_hdrAddr hsrc]
    dstIp := by rw [RxFrame.dstIp, hdf, ipOf_hdrAddr hdst]
    srcPort := by simp [RxFrame.srcPort, hbody, udpDatagram_eq, udpHead, be_two, be16At, ofBe]; omega
    dstPort := by simp [RxFrame.dstPort, hbody, udpDatagram_eq, udpHead, be_two, be16At, ofBe]; omega
    data := by rw [RxFrame.data, hall, udpDatagram_eq, ← List.append_assoc, List.drop_left' (by simp)] }

/-! ### What a receiver finds in the Woreo header (R361, R364) -/

/-- The widths of the fields of a header (R364). -/
structure HdrFits (h : WoreoHdr) : Prop where
  kind : h.kind < 256
  flow : h.flow < 2
  basin : h.basin < 16
  seq : h.seq < 2 ^ 32
  ack : h.ack < 2 ^ 32
  sack : h.sack < 2 ^ 64
  rwnd : h.rwnd < 2 ^ 16
  len : h.len < 2 ^ 16
  time : h.time < 2 ^ 64
  maxpay : h.maxpay < 2 ^ 16

/-- Byte 2 of the header: SYN, MORE, RETX and the flow (R364). -/
def flagByte (syn more retx : Bool) (flow : Nat) : Nat :=
  (if syn then 1 else 0) + (if more then 2 else 0) + (if retx then 4 else 0) + 8 * flow

theorem flagByte_bits : ∀ (syn more retx : Bool) (flow : Fin 2), let w := flagByte syn more retx flow
    w < 256 ∧ bitAt w 0 = syn ∧ bitAt w 1 = more ∧ bitAt w 2 = retx ∧ w / 8 % 2 = flow ∧ w / 16 = 0 := by decide

@[simp] theorem length_woreoHeader (h : WoreoHdr) : (woreoHeader h).length = 40 := by simp [woreoHeader]

/-- The fields that a receiver reads in the header of a segment are those sent (R364). -/
structure ReadsHeader (f : RxFrame) (h : WoreoHdr) : Prop where
  ver : f.ver = 1
  kind : f.kind = h.kind
  synBit : f.synBit = h.synBit
  more : f.more = h.more
  retx : f.retx = h.retx
  flow : f.flow = h.flow
  basin : f.basin = h.basin
  seq : f.seq = h.seq
  ack : f.ack = h.ack
  sack : f.sack = h.sack
  rwnd : f.rwnd = h.rwnd
  len : f.len = h.len
  time : f.time = h.time
  maxpay : f.maxpay = h.maxpay
  reserved : f.reservedSet = false

section Header

variable {f : RxFrame} {h : WoreoHdr} {payload : List Byte}

theorem hdr_bytes (hdata : f.data = woreoHeader h ++ payload) :
    f.hdr 0 1 = 1 ∧ f.hdr 1 1 = h.kind % 256 ∧ f.hdr 2 1 = flagByte h.synBit h.more h.retx h.flow % 256 ∧ f.hdr 3 1 = h.basin % 256 := by
  simp [RxFrame.hdr, hdata, woreoHeader, ofLe, flagByte]

theorem hdr_words (hdata : f.data = woreoHeader h ++ payload) :
    f.seq = ofLe (le 4 h.seq) ∧ f.ack = ofLe (le 4 h.ack) ∧ f.sack = ofLe (le 8 h.sack) ∧ f.rwnd = ofLe (le 2 h.rwnd) ∧
      f.len = ofLe (le 2 h.len) ∧ f.time = ofLe (le 8 h.time) ∧ f.maxpay = ofLe (le 2 h.maxpay) ∧ f.hdr 34 6 = 0 := by
  simp [RxFrame.seq, RxFrame.ack, RxFrame.sack, RxFrame.rwnd, RxFrame.len, RxFrame.time, RxFrame.maxpay, RxFrame.hdr, hdata,
    woreoHeader, List.drop_append, List.drop_of_length_le, ofLe_le 6 0]

theorem readsHeader_of_data (hdata : f.data = woreoHeader h ++ payload) (hfit : HdrFits h) : ReadsHeader f h := by
  obtain ⟨h0, h1, h2, h3⟩ := hdr_bytes hdata
  obtain ⟨hseq, hack, hsack, hrwnd, hlen, htime, hmaxpay, hzero⟩ := hdr_words hdata
  obtain ⟨hbyte, hsyn, hmore, hretx, hflow, hhigh⟩ := flagByte_bits h.synBit h.more h.retx ⟨h.flow, hfit.flow⟩
  have hkind := hfit.kind
  have hbasin := hfit.basin
  rw [Nat.mod_eq_of_lt hbyte] at h2
  exact {
    ver := by rw [RxFrame.ver, h0]
    kind := by rw [RxFrame.kind, h1, Nat.mod_eq_of_lt hkind]
    synBit := by rw [RxFrame.synBit, h2, hsyn]
    more := by rw [RxFrame.more, h2, hmore]
    retx := by rw [RxFrame.retx, h2, hretx]
    flow := by rw [RxFrame.flow, h2, hflow]
    basin := by rw [RxFrame.basin, h3]; omega
    seq := hseq.trans (ofLe_le_of_lt hfit.seq)
    ack := hack.trans (ofLe_le_of_lt hfit.ack)
    sack := hsack.trans (ofLe_le_of_lt hfit.sack)
    rwnd := hrwnd.trans (ofLe_le_of_lt hfit.rwnd)
    len := hlen.trans (ofLe_le_of_lt hfit.len)
    time := htime.trans (ofLe_le_of_lt hfit.time)
    maxpay := hmaxpay.trans (ofLe_le_of_lt hfit.maxpay)
    reserved := by
      have hb : h.basin % 256 / 16 = 0 := by omega
      simp [RxFrame.reservedSet, h0, h2, h3, hzero, hhigh, hb] }

end Header

/-! ### What a receiver finds in the frame (R355, R357) -/

/-- The tag of a frame that leaves, when it has one (R357). -/
def tagBytes (x : OutFrame) : List Byte :=
  match x.vid with
  | some v => be 2 0x8100 ++ be 2 (8192 * x.pcp + v)
  | none => []

/-- A Woreo segment whose fields have the widths of the wire. -/
structure SegmentFits (x : OutFrame) (h : WoreoHdr) (src dst dport : Nat) (payload : List Byte) : Prop where
  body : x.body = .woreo h src dst dport payload
  pcp : x.pcp < 8
  vid : ∀ v, x.vid = some v → v < 4096
  same : isV4 src = isV4 dst
  src : src < 2 ^ 128
  dst : dst < 2 ^ 128
  dport : dport < 2 ^ 16
  payload : payload.length ≤ 8256
  hdr : HdrFits h

/-- The datagram of a segment. -/
def segmentDatagram (h : WoreoHdr) (src dst dport : Nat) (payload : List Byte) : List Byte :=
  udpDatagram src dst 47077 dport (woreoHeader h ++ payload)

theorem length_ipPacket {src dst : Nat} (hsame : isV4 src = isV4 dst) (pcp proto : Nat) (body : List Byte) :
    (ipPacket pcp src dst proto body).length = (if isV4 dst then 20 else 40) + body.length := by
  cases h : isV4 dst <;> simp [ipPacket, h, length_hdrAddr, hsame] <;> omega

theorem frameBytes_clear {ourMac toMac net : List Byte} {type : Nat} {x : OutFrame} (hsec : x.sec = none)
    (hbody : bodyBytes ourMac x = (toMac, type, net)) (hlong : 46 ≤ net.length) (hmacs : (toMac ++ ourMac).length = 12) :
    frameBytes ourMac x = (toMac ++ ourMac) ++ (tagBytes x ++ (be 2 type ++ net)) := by
  simp at hmacs
  cases hv : x.vid <;> simp [frameBytes, tagBytes, hsec, hbody, hv] <;> omega

section Frame

variable {x : OutFrame} {h : WoreoHdr} {src dst dport : Nat} {payload : List Byte}

theorem wireBytes_clear (hfit : SegmentFits x h src dst dport payload) : ∃ macs : List Byte, macs.length = 12 ∧
    wireBytes { x with sec := none } =
      macs ++ (tagBytes x ++ (be 2 (ipType dst) ++ ipPacket x.pcp src dst 17 (segmentDatagram h src dst dport payload))) := by
  have hlen := length_ipPacket hfit.same x.pcp 17 (segmentDatagram h src dst dport payload)
  have hlong : 48 ≤ (segmentDatagram h src dst dport payload).length := by simp [segmentDatagram]; omega
  refine ⟨be 6 (x.toMac.getD 0) ++ portMac x.port, by simp, frameBytes_clear rfl ?_ (by rw [hlen]; omega) (by simp)⟩
  simp [bodyBytes, hfit.body, segmentDatagram]

theorem ipType_cases (ip : Nat) : ipType ip = 0x0800 ∨ ipType ip = 0x86DD := by
  cases h : isV4 ip <;> simp [ipType, h]

theorem readsUntagged {f : RxFrame} {macs net : List Byte} {type : Nat} (hmacs : macs.length = 12)
    (hbytes : f.bytes = macs ++ (be 2 type ++ net)) (htype : type < 65536) (hno : type ≠ 0x8100) :
    f.vlan = none ∧ f.etherType = type ∧ f.net = net := by
  have h12 : be16At f.bytes 12 = type := by rw [be16At_of_split hbytes hmacs, Nat.mod_eq_of_lt htype]
  have ht : f.tagged = false := by simp [RxFrame.tagged, h12, hno]
  refine ⟨by simp [RxFrame.vlan, ht], by simp [RxFrame.etherType, ht, h12], ?_⟩
  simp [RxFrame.net, ht, hbytes, List.drop_append, List.drop_of_length_le, hmacs]

theorem readsTagged {f : RxFrame} {macs net : List Byte} {tci type : Nat} (hmacs : macs.length = 12)
    (hbytes : f.bytes = macs ++ (be 2 0x8100 ++ (be 2 tci ++ (be 2 type ++ net)))) (htci : tci < 65536) (htype : type < 65536) :
    f.vlan = some (tci % 4096) ∧ f.etherType = type ∧ f.net = net := by
  have h12 : be16At f.bytes 12 = 0x8100 := be16At_of_split hbytes hmacs
  have h14 : be16At f.bytes 14 = tci := by
    rw [be16At_of_split (a := macs ++ be 2 0x8100) (by simpa using hbytes) (by simp [hmacs]), Nat.mod_eq_of_lt htci]
  have h16 : be16At f.bytes 16 = type := by
    rw [be16At_of_split (a := macs ++ be 2 0x8100 ++ be 2 tci) (by simpa using hbytes) (by simp [hmacs]), Nat.mod_eq_of_lt htype]
  have ht : f.tagged = true := by simp [RxFrame.tagged, h12]
  refine ⟨by simp [RxFrame.vlan, ht, h14], by simp [RxFrame.etherType, ht, h16], ?_⟩
  simp [RxFrame.net, ht, hbytes, List.drop_append, List.drop_of_length_le, hmacs]

variable {f : RxFrame}

theorem readsLink_of_wireBytes (hfit : SegmentFits x h src dst dport payload) (hbytes : f.bytes = wireBytes { x with sec := none }) :
    f.vlan = x.vid ∧ f.etherType = ipType dst ∧ f.net = ipPacket x.pcp src dst 17 (segmentDatagram h src dst dport payload) := by
  obtain ⟨macs, hmacs, hwire⟩ := wireBytes_clear hfit
  rw [hwire] at hbytes
  have htype : ipType dst < 65536 ∧ ipType dst ≠ 0x8100 := by
    obtain h | h := ipType_cases dst <;> simp [h]
  cases hv : x.vid with
  | none => exact readsUntagged hmacs (by simpa [tagBytes, hv] using hbytes) htype.1 htype.2
  | some v =>
    have hvid := hfit.vid v hv
    have hpcp := hfit.pcp
    obtain ⟨hvlan, hrest⟩ := readsTagged (tci := 8192 * x.pcp + v) hmacs (by simpa [tagBytes, hv] using hbytes) (by omega) htype.1
    exact ⟨by rw [hvlan]; congr 1; omega, hrest⟩

theorem length_of_wireBytes (hfit : SegmentFits x h src dst dport payload) (hbytes : f.bytes = wireBytes { x with sec := none }) :
    60 ≤ f.bytes.length ∧ f.bytes.length ≤ 8362 := by
  obtain ⟨macs, hmacs, hwire⟩ := wireBytes_clear hfit
  have hlen := length_ipPacket hfit.same x.pcp 17 (segmentDatagram h src dst dport payload)
  have hdata : (segmentDatagram h src dst dport payload).length = 48 + payload.length := by simp [segmentDatagram]; omega
  have htag : (tagBytes x).length ≤ 4 := by cases hv : x.vid <;> simp [tagBytes, hv]
  have hpayload := hfit.payload
  simp only [hbytes, hwire, List.length_append, length_be, hlen, hdata, hmacs]
  split <;> omega

theorem linkOk_of_wireBytes (hfit : SegmentFits x h src dst dport payload) (hbytes : f.bytes = wireBytes { x with sec := none })
    (hfcs : f.fcsOk = true) : f.linkOk = true := by
  obtain ⟨-, htype, -⟩ := readsLink_of_wireBytes hfit hbytes
  obtain ⟨hmin, hmax⟩ := length_of_wireBytes hfit hbytes
  have hshort : 64 ≤ f.length := by rw [RxFrame.length]; omega
  have hlong : f.length ≤ 9216 := by rw [RxFrame.length]; split <;> omega
  obtain h | h := ipType_cases dst <;> simp [RxFrame.linkOk, hfcs, hshort, hlong, htype, h]

theorem carriesUdp_of_wireBytes (hfit : SegmentFits x h src dst dport payload) (hbytes : f.bytes = wireBytes { x with sec := none }) :
    CarriesUdp f src dst 47077 dport (woreoHeader h ++ payload) := by
  obtain ⟨-, htype, hnet⟩ := readsLink_of_wireBytes hfit hbytes
  have hpayload := hfit.payload
  have hip := carriesIp_of_ipPacket hfit.same htype hnet hfit.pcp (by omega) (by simp [segmentDatagram]; omega)
  exact carriesUdp_of_carriesIp hip hfit.src hfit.dst (by omega) hfit.dport (by simp; omega)

theorem uncontrolled_of_wireBytes (hfit : SegmentFits x h src dst dport payload) (hbytes : f.bytes = wireBytes { x with sec := none }) :
    f.uncontrolled = decide (dport = 319 ∨ dport = 320) := by
  obtain ⟨-, htype, -⟩ := readsLink_of_wireBytes hfit hbytes
  obtain ⟨hudp, -, -, -, hport, -⟩ := carriesUdp_of_wireBytes hfit hbytes
  have hno : ipType dst ≠ 0x888E ∧ ipType dst ≠ 0x88F7 := by
    obtain h | h := ipType_cases dst <;> simp [h]
  by_cases hp : dport = 319 ∨ dport = 320 <;>
    simp [RxFrame.uncontrolled, RxFrame.ptpTransport, htype, hno.1, hno.2, hudp, hport, hp]

/-- What O30 asks of the frame that a receiver takes. -/
structure SegmentReadsBack (f : RxFrame) (x : OutFrame) (h : WoreoHdr) (src dst dport : Nat) (payload : List Byte) : Prop where
  linkOk : f.linkOk = true
  vlan : f.vlan = x.vid
  uncontrolled : f.uncontrolled = decide (dport = 319 ∨ dport = 320)
  udp : CarriesUdp f src dst 47077 dport (woreoHeader h ++ payload)
  header : ReadsHeader f h
  payload : f.payload = payload

/-- A segment reads back from the bytes without SecTAG and ICV: as it left a port without a secure association, or as a receiver has it
once it has taken the protection off (R359, R365). -/
theorem segmentReadsBack_of_wireBytes (hfit : SegmentFits x h src dst dport payload)
    (hbytes : f.bytes = wireBytes { x with sec := none }) (hfcs : f.fcsOk = true) : SegmentReadsBack f x h src dst dport payload := by
  obtain ⟨hvlan, -, -⟩ := readsLink_of_wireBytes hfit hbytes
  have hudp := carriesUdp_of_wireBytes hfit hbytes
  exact {
    linkOk := linkOk_of_wireBytes hfit hbytes hfcs
    vlan := hvlan
    uncontrolled := uncontrolled_of_wireBytes hfit hbytes
    udp := hudp
    header := readsHeader_of_data hudp.data hfit.hdr
    payload := by rw [RxFrame.payload, hudp.data, List.drop_left' (length_woreoHeader h)] }

end Frame

/-! ### A segment under a secure association (R359) -/

/-- The frame of O30: the bytes on the wire with nothing taken off them. -/
def readUnopened (x : OutFrame) : RxFrame :=
  { port := x.port, fcsOk := true, secTag := none, bufferRoom := true, bytes := wireBytes x }

section Unopened

variable {x : OutFrame} {h : WoreoHdr} {src dst dport : Nat} {payload : List Byte} {t : SecTag}

/-- The EtherType of a SecTAG stands where an unprotected frame has its own. -/
theorem readUnopened_etherType_of_sealed (hbody : x.body = .woreo h src dst dport payload) (hsec : x.sec = some t) :
    (readUnopened x).etherType = 0x88E5 := by
  obtain ⟨c, hc⟩ : ∃ c, wireBytes x = (be 6 (x.toMac.getD 0) ++ portMac x.port) ++ (be 2 0x88E5 ++ c) := by
    simp [wireBytes, frameBytes, bodyBytes, hbody, hsec, secTagBytes]
  have h12 : be16At (wireBytes x) 12 = 0x88E5 := be16At_of_split hc (by simp)
  simp [RxFrame.etherType, RxFrame.tagged, readUnopened, h12]

theorem readUnopened_udpOk_of_sealed (hbody : x.body = .woreo h src dst dport payload) (hsec : x.sec = some t) :
    (readUnopened x).udpOk = false := by
  simp [RxFrame.udpOk, RxFrame.ipOk, RxFrame.v4, readUnopened_etherType_of_sealed hbody hsec]

/-- O30's conclusion holds of a segment exactly when it leaves without a SecTAG. -/
theorem readUnopened_readsBack_iff (hfit : SegmentFits x h src dst dport payload) :
    SegmentReadsBack (readUnopened x) x h src dst dport payload ↔ x.sec = none := by
  constructor
  · intro hreads
    cases hsec : x.sec with
    | none => rfl
    | some t => exact absurd hreads.udp.ok (by simp [readUnopened_udpOk_of_sealed hfit.body hsec])
  · intro hsec
    have hx : { x with sec := none } = x := by rw [← hsec]
    exact segmentReadsBack_of_wireBytes hfit (by rw [hx, readUnopened]) rfl

end Unopened

/-- An acknowledgement from basin 1's address 20 to a host at address 10. -/
def ackHdr : WoreoHdr := { kind := 6, flow := 0, basin := 1, seq := 0, ack := 0, sack := 0, rwnd := 10, len := 0, time := 0 }

/-- The acknowledgement as it leaves under association 0 of channel 4, with packet number 1. -/
def sealedAck : OutFrame where
  port := 0
  vid := none
  pcp := 0
  toMac := some 1
  sec := some { sci := 4, an := 0, pn := 1 }
  body := .woreo ackHdr 20 10 47077 []

theorem ackHdr_fits : HdrFits ackHdr := by constructor <;> decide

theorem sealedAck_fits : SegmentFits sealedAck ackHdr 20 10 47077 [] where
  body := rfl
  pcp := by decide
  vid := by simp [sealedAck]
  same := by decide
  src := by decide
  dst := by decide
  dport := by decide
  payload := by decide
  hdr := ackHdr_fits

/-- Refutes O30: its statement also speaks of a frame that leaves under a secure association (`sec` is not none). There the SecTAG
follows the addresses (R359), and the frame of the statement, from which nothing has been taken off, has EtherType 0x88E5 and carries no
UDP datagram. Without a SecTAG the conclusion holds (`readUnopened_readsBack_iff`). -/
theorem not_sentSegmentReadsBack : ¬ Obligations.SentSegmentReadsBack := by
  unfold Obligations.SentSegmentReadsBack
  intro hall
  have hfit := sealedAck_fits
  have hhdr := hfit.hdr
  obtain ⟨-, -, -, hudp, -⟩ := hall sealedAck ackHdr 20 10 47077 [] hfit.body hfit.pcp hfit.vid hfit.src hfit.dst hfit.same hfit.dport
    hfit.payload hhdr.kind hhdr.flow hhdr.basin hhdr.seq hhdr.ack hhdr.sack hhdr.rwnd hhdr.len hhdr.time hhdr.maxpay
  have hyes : (readUnopened sealedAck).udpOk = true := hudp
  have hno : (readUnopened sealedAck).udpOk = false := readUnopened_udpOk_of_sealed hfit.body rfl
  exact absurd hyes (by simp [hno])

end Sys2Proof.Proofs
end

section
namespace Sys2Proof.Proofs
open Machine Laws

/-! ### The zero runs of the shoal coder (R20, R117, log entry 141) -/

theorem expandRuns_cons (n : Nat) (b : Byte) (r : List (Nat × Byte)) (k : Nat) :
    expandRuns ((n, b) :: r, k) = List.replicate n 0 ++ b :: expandRuns (r, k) := by
  simp [expandRuns]

/-- The zeros counted so far stand before what is still to be coded. -/
theorem expandRuns_zeroRuns (n : Nat) (l : List Byte) : expandRuns (zeroRuns n l) = List.replicate n 0 ++ l := by
  induction l generalizing n with
  | nil => simp [zeroRuns, expandRuns]
  | cons b l ih =>
    by_cases hb : b = 0
    · rw [zeroRuns, if_pos hb, ih, hb, List.replicate_succ', List.append_assoc, List.singleton_append]
    · rw [zeroRuns, if_neg hb, expandRuns_cons, Prod.mk.eta, ih, List.replicate_zero, List.nil_append]

/-- Settles O31, by induction on the bytes with the zeros counted so far in front of them. -/
theorem shoalRunsAreLossless : Obligations.ShoalRunsAreLossless := by
  unfold Obligations.ShoalRunsAreLossless
  intro l
  simpa using expandRuns_zeroRuns 0 l

/-! ### The clearing of a pool (R185, R203, R209) -/

theorem granOf_setGran_of_ne {g g' : Nat} (hne : g' ≠ g) (s : State) (st : GState) (b j : Nat) :
    granOf (setGran s g st b j) g' = granOf s g' := by
  have hrest : (dropW (fun x => x.g == g) s.pools.grans).find? (fun x => x.g == g') = s.pools.grans.find? fun x => x.g == g' := by
    rw [dropW, List.find?_filter]
    congr 1
    funext x
    by_cases hx : x.g = g' <;> simp [hx, hne]
  have hlast : (g == g') = false := by simpa using hne.symm
  cases hst : st == .free <;> simp [granOf, setGran, List.find?_append, hst, hrest, hlast]

theorem granOf_setGran_same (s : State) (g : Nat) (st : GState) (b j : Nat) : (granOf (setGran s g st b j) g).state = st := by
  have hrest : (dropW (fun x => x.g == g) s.pools.grans).find? (fun x => x.g == g) = none := by simp [dropW]
  cases st <;> simp [granOf, setGran, List.find?_append, hrest]

/-- The windows of a job stay its windows while they close. -/
theorem jobWindows_closeWindows (s : State) (p : Window → Bool) (b n : Nat) :
    (jobWindows (closeWindows s p) b n).isEmpty = (jobWindows s b n).isEmpty := by
  have hsame : (fun w : Window => w.basin == b && w.job == n) ∘
      (fun w => if p w && w.closing.isNone then { w with closing := some s.now } else w) = fun w => w.basin == b && w.job == n := by
    funext w
    rw [Function.comp_apply]
    split <;> rfl
  rw [jobWindows, closeWindows, updW, List.filter_map, hsame, List.isEmpty_map, jobWindows]

/-- A granule that windows of its job keep OWNED until they have closed (R203). -/
def keptByWindow (s : State) (g : Nat) : Bool :=
  (granOf s g).state == .owned && !(jobWindows s (granOf s g).basin (granOf s g).job).isEmpty

/-- The windows keep a granule exactly where `clearSoon` does not clear it at once. -/
theorem keptByWindow_eq_not (s : State) (g : Nat) : keptByWindow s g =
    !((granOf s g).state != .owned || (jobWindows s (granOf s g).basin (granOf s g).job).isEmpty) := by
  simp [keptByWindow, bne]

/-- The state of a granule whose pool is cleared: CLEARING, unless it is fenced (R208) or windows keep it OWNED (R203). -/
def clearedState (s : State) (g : Nat) : GState :=
  if keptByWindow s g then .owned else if (granOf s g).state = .fenced then .fenced else .clearing

theorem clearGran_state (s : State) (g : Nat) :
    (granOf (clearGran s g) g).state = if (granOf s g).state = .fenced then .fenced else .clearing := by
  cases hst : (granOf s g).state <;> simp [clearGran, hst, granOf_setGran_same]

theorem clearGran_granOf_of_ne {g g' : Nat} (hne : g' ≠ g) (s : State) : granOf (clearGran s g) g' = granOf s g' := by
  unfold clearGran
  dsimp only
  split
  · rfl
  · exact granOf_setGran_of_ne hne ..

theorem clearGran_jobWindows (s : State) (g b n : Nat) : jobWindows (clearGran s g) b n = jobWindows s b n := by
  unfold clearGran
  dsimp only
  split <;> rfl

/-- A granule clears at once, or its windows begin to close and it stays as it is. -/
theorem clearSoon_cases (s : State) (g : Nat) :
    (keptByWindow s g = false ∧ clearSoon s g = clearGran s g) ∨
    (keptByWindow s g = true ∧ (∀ g', granOf (clearSoon s g) g' = granOf s g') ∧
      ∀ b n, (jobWindows (clearSoon s g) b n).isEmpty = (jobWindows s b n).isEmpty) := by
  unfold clearSoon
  dsimp only
  split
  · next h => exact .inl ⟨by rw [keptByWindow_eq_not, h]; rfl, rfl⟩
  · next h =>
    exact .inr ⟨by rw [keptByWindow_eq_not, Bool.eq_false_of_not_eq_true h]; rfl, fun _ => rfl, jobWindows_closeWindows s _⟩

theorem clearSoon_state (s : State) (g : Nat) : (granOf (clearSoon s g) g).state = clearedState s g := by
  obtain ⟨hkept, heq⟩ | ⟨hkept, hgran, -⟩ := clearSoon_cases s g
  · simp [clearedState, hkept, heq, clearGran_state]
  · have howned : (granOf s g).state = .owned := by simp [keptByWindow] at hkept; exact hkept.1
    simp [clearedState, hkept, hgran, howned]

theorem clearSoon_granOf_of_ne {g g' : Nat} (hne : g' ≠ g) (s : State) : granOf (clearSoon s g) g' = granOf s g' := by
  obtain ⟨-, heq⟩ | ⟨-, hgran, -⟩ := clearSoon_cases s g
  · rw [heq, clearGran_granOf_of_ne hne]
  · exact hgran g'

theorem clearSoon_jobWindows (s : State) (g b n : Nat) : (jobWindows (clearSoon s g) b n).isEmpty = (jobWindows s b n).isEmpty := by
  obtain ⟨-, heq⟩ | ⟨-, -, hwin⟩ := clearSoon_cases s g
  · rw [heq, clearGran_jobWindows]
  · exact hwin b n

theorem clearSoon_clearedState_of_ne {g g' : Nat} (hne : g' ≠ g) (s : State) : clearedState (clearSoon s g) g' = clearedState s g' := by
  rw [clearedState, keptByWindow, clearSoon_granOf_of_ne hne, clearSoon_jobWindows, clearedState, keptByWindow]

theorem foldl_clearSoon_granOf_of_notMem {l : List Nat} {g : Nat} (hg : g ∉ l) (s : State) :
    granOf (l.foldl clearSoon s) g = granOf s g := by
  induction l generalizing s with
  | nil => rfl
  | cons x l ih =>
    obtain ⟨hne, hrest⟩ := List.ne_and_not_mem_of_not_mem_cons hg
    rw [List.foldl_cons, ih hrest, clearSoon_granOf_of_ne hne]

theorem foldl_clearSoon_state_of_mem {l : List Nat} {g : Nat} (hl : l.Nodup) (hg : g ∈ l) (s : State) :
    (granOf (l.foldl clearSoon s) g).state = clearedState s g := by
  induction l generalizing s with
  | nil => simp at hg
  | cons x l ih =>
    obtain ⟨hx, hl⟩ := List.nodup_cons.1 hl
    obtain rfl | hmem := List.mem_cons.1 hg
    · rw [List.foldl_cons, foldl_clearSoon_granOf_of_notMem hx, clearSoon_state]
    · rw [List.foldl_cons, ih hl hmem, clearSoon_clearedState_of_ne (ne_of_mem_of_not_mem hmem hx)]

theorem poolGrans_nodup (p : Nat) : (poolGrans p).Nodup := by
  unfold poolGrans
  split_ifs <;> exact List.nodup_range.map (add_left_injective _)

theorem clearPool_state_of_mem {p g : Nat} (hg : g ∈ poolGrans p) (s : State) :
    (granOf (clearPool s p true) g).state = clearedState s g := by
  simp [clearPool, foldl_clearSoon_state_of_mem (poolGrans_nodup p) hg]

theorem clearPool_granOf_of_notMem {p g : Nat} (hg : g ∉ poolGrans p) (s : State) (all_ : Bool) :
    granOf (clearPool s p all_) g = granOf s g :=
  foldl_clearSoon_granOf_of_notMem (fun h => hg (List.mem_of_mem_filter h)) s

theorem clearSoon_pwr (s : State) (g : Nat) : (clearSoon s g).pwr = s.pwr := by
  simp only [clearSoon, clearGran]
  split_ifs <;> rfl

theorem clearPool_pwr (s : State) (p : Nat) (all_ : Bool) : (clearPool s p all_).pwr = s.pwr := by
  unfold clearPool
  induction (poolGrans p).filter _ generalizing s with
  | nil => rfl
  | cons g l ih => rw [List.foldl_cons, ih, clearSoon_pwr]

/-! ### What a woken domain does to its pool (R185, R209, R486) -/

theorem answerDeferred_pools (s : State) (b : Nat) (p : Deferred → Bool) (status : Nat) (data : List Field) :
    (answerDeferred s b p status data).pools = s.pools := by
  have hcore := congrArg State.pools (answerDeferred_spec s b p status data).1
  exact hcore

theorem answerDeferred_pwr (s : State) (b : Nat) (p : Deferred → Bool) (status : Nat) (data : List Field) :
    (answerDeferred s b p status data).pwr = s.pwr := by
  have hcore := congrArg State.pwr (answerDeferred_spec s b p status data).1
  exact hcore

/-- What answering the deferred commands of one basin leaves as it is, answering those of all basins does. -/
theorem answerAll_keeps {α : Type} {f : State → α} (hf : ∀ s b p status data, f (answerDeferred s b p status data) = f s)
    (s : State) (p : Deferred → Bool) (status : Nat) (data : List Field) : f (answerAll s p status data) = f s := by
  unfold answerAll
  induction List.range 16 generalizing s with
  | nil => rfl
  | cons b bs ih => rw [List.foldl_cons, ih, hf]

theorem answerDomain_pools (s : State) (d : Nat) (on : Bool) (status : Nat) : (answerDomain s d on status).pools = s.pools :=
  answerAll_keeps answerDeferred_pools ..

theorem answerDomain_pwr (s : State) (d : Nat) (on : Bool) (status : Nat) : (answerDomain s d on status).pwr = s.pwr :=
  answerAll_keeps answerDeferred_pwr ..

theorem endBrown_of_none {s : State} (h : s.pwr.brown = none) : endBrown s = s := by simp [endBrown, h]

/-- The domain of a pool that is ready: the pool is cleared, and a tributary's steward may start to read. -/
theorem domainReady_of_pool {d p : Nat} (hp : domainPool d = some p) (s : State) :
    let u := clearPool (setDom s d fun x => { x with state := 2, idleSince := s.now }) p true
    domainReady s d = u ∨ domainReady s d = endpointReady u d := by
  have hd : d < 272 ∨ 366 ≤ d ∧ d ≤ 369 := by
    unfold domainPool at hp
    split_ifs at hp with h1 h2
    · exact .inl h1
    · exact .inr (by simpa using h2)
  have hford : (decide (316 ≤ d) && decide (d < 364)) = false := by simp; omega
  have hsp1 : d ≠ 371 := by omega
  simp only [domainReady, hp, hford, hsp1, Bool.false_eq_true, if_false]
  split
  · exact .inr rfl
  · exact .inl rfl

/-- A woken domain, but for the end of a brown-out: each granule of its pool that is not fenced is CLEARING, except those that open
windows keep OWNED until they have closed (R203), and no granule of another pool changes. -/
theorem wokenDomain_granules {s : State} {d p : Nat} (hp : domainPool d = some p) (hbrown : s.pwr.brown = none) :
    let t := endBrown (answerDomain (domainReady s d) d true stOk)
    (∀ g ∈ poolGrans p, (granOf t g).state = clearedState s g) ∧ ∀ g, g ∉ poolGrans p → granOf t g = granOf s g := by
  intro t
  let u := clearPool (setDom s d fun x => { x with state := 2, idleSince := s.now }) p true
  have hready : (domainReady s d).pools = u.pools ∧ (domainReady s d).pwr = u.pwr := by
    obtain h | h := domainReady_of_pool hp s <;> rw [h] <;> exact ⟨rfl, rfl⟩
  have ht : t = answerDomain (domainReady s d) d true stOk :=
    endBrown_of_none (by rw [answerDomain_pwr, hready.2, clearPool_pwr]; exact hbrown)
  have hgran : ∀ g, granOf t g = granOf u g := fun g => by rw [ht, granOf, answerDomain_pools, hready.1, granOf]
  exact ⟨fun g hg => by rw [hgran]; exact clearPool_state_of_mem hg _,
    fun g hg => by rw [hgran]; exact clearPool_granOf_of_notMem hg _ _⟩

/-- Reach 0 wakes, its tributary's common being on; its first granule is OWNED by job 1 of basin 1, which has a window open. -/
def wakingWithWindow : State :=
  let s : State := { State.reset with pools := {
    grans := [{ g := 0, state := .owned, basin := 1, job := 1 }]
    windows := [{ basin := 1, job := 1, sid := 1, wid := 0, rd := true, wr := true, any := true, life := 0, px := 0, py := 0, pz := 0,
                  lbase := 0, len := 1, tag := 0 }] } }
  setDom (setDom s 256 fun x => { x with state := 2 }) 0 fun x => { x with state := 1 }

theorem wakingWithWindow_wakes : (domOf wakingWithWindow 0).state = 1 ∧ 0 < wakingWithWindow.pwr.doms.length ∧
    (needs wakingWithWindow 0).all (domOn wakingWithWindow) = true ∧ wakingWithWindow.pwr.brown = none := by decide +kernel

theorem wakingWithWindow_granule : (granOf wakingWithWindow 0).state = .owned ∧ clearedState wakingWithWindow 0 = .owned := by
  decide +kernel

/-! ### The events of the power domains (R28, R209, R486 to R489) -/

section DomainEvents

variable {s : State} {d : Nat}

theorem exec_domainWake (hd : d < 372) (hfrom : 3 ≤ s.boot.stage) (hto : s.boot.stage ≤ 6) :
    exec (.domainWake d) s = .next (wakeDomain s d) := by
  have hrun : exec (.domainWake d) s = execDomainWake d s := rfl
  simp [hrun, execDomainWake, hd, hfrom, hto]

theorem exec_domainWakeComplete (hst : (domOf s d).state = 1) (hup : ∀ x ∈ needs s d, domOn s x = true) :
    exec (.domainWakeComplete d) s = .next (endBrown (answerDomain (domainReady s d) d true stOk)) := by
  have hrun : exec (.domainWakeComplete d) s = execDomainWakeComplete d s := rfl
  simp [hrun, execDomainWakeComplete, hst, List.all_eq_true.2 hup]

theorem exec_domainOffComplete (hoff : (domOf s d).switchingOff = true) (hst : (domOf s d).state = 1 ∨ (domOf s d).state = 2) :
    exec (.domainOffComplete d) s = .next (domainOff s d) := by
  have hrun : exec (.domainOffComplete d) s = execDomainOffComplete d s := rfl
  simp [hrun, execDomainOffComplete, hoff, hst]

/-- The state after a domain fault, before what the fault takes with it. -/
def faultedDomain (s : State) (d : Nat) : State :=
  otherFaultRecord (raise (holdDomain s d) srcStewipen evPwrDomainFault [d] []) 3 srcStewipen 0 none 0 d 0 0 0

/-- A fault of a waking domain, by the kind of domain. -/
theorem exec_domainFault (hst : (domOf s d).state = 1) (hlate : (domOf s d).wakeAt + 2 * wakeTime d ≤ s.now) :
    exec (.domainFault d) s = .next (
      let u := faultedDomain s d
      if d < 256 then endBrown (fenceReach u d 2)
      else if d < 272 then endBrown (holdTrib u (d - 256))
      else if (292 ≤ d && d < 316) || (366 ≤ d && d < 370) then { u with boot := { u.boot with restartDue := some (u.now, 5) } }
      else endBrown u) := by
  have hrun : exec (.domainFault d) s = execDomainFault d s := rfl
  have hgo : ((domOf s d).state != 1 || decide (s.now < (domOf s d).wakeAt + 2 * wakeTime d)) = false := by
    simp [hst, hlate]
  rw [hrun, execDomainFault]
  simp only [hgo, faultedDomain, Bool.false_eq_true, if_false]
  split_ifs <;> rfl

theorem exec_autoIdleExpiry (hd : d < 370) (hmode : (domOf s d).mode = 2) (hon : domOn s d = true)
    (hidle : (domOf s d).idleSince + autoIdle s ≤ s.now) (hjob : domainBound s d = false) (hdep : dependantPowered s d = false)
    (htest : d ∉ reserved s) (hford : fordBound s d = false) (hphy : phyBusy s d = false) :
    exec (.autoIdleExpiry d) s = .next (setDom s d fun x => { x with switchingOff := true }) := by
  have hrun : exec (.autoIdleExpiry d) s = execAutoIdleExpiry d s := rfl
  simp [hrun, execAutoIdleExpiry, hd, hmode, hon, hidle, hjob, hdep, htest, hford, hphy]

theorem exec_standbyWakeTimer {t : Nat} (huntil : s.pwr.standbyUntil = some (some t)) (hnow : t ≤ s.now) :
    exec .standbyWakeTimer s = .next (leaveStandby s) := by
  have hrun : exec .standbyWakeTimer s = execStandbyWakeTimer s := rfl
  simp [hrun, execStandbyWakeTimer, huntil, hnow]

end DomainEvents

/-- Settles O56: each event's own lemma, and a fault's by the kind of domain. -/
theorem domainEventsComplete : Obligations.DomainEventsComplete := by
  unfold Obligations.DomainEventsComplete
  intro s d
  refine ⟨exec_domainWake, exec_domainWakeComplete, exec_domainOffComplete, fun hst hlate => ?_, exec_autoIdleExpiry,
    fun _ => exec_standbyWakeTimer⟩
  have hfault := exec_domainFault hst hlate
  intro v w u
  have hu : faultedDomain s d = u := rfl
  rw [hu] at hfault
  clear_value u
  refine ⟨fun h => ?_, fun hlow hhigh => ?_, fun h => ?_⟩
  · rw [hfault, if_pos h]
  · rw [hfault, if_neg (by omega), if_pos hhigh]
  · rw [hfault, if_neg (by omega), if_neg (by omega), if_pos (by simpa using h)]

/-- Refutes O27: a granule that a job with an open window owns is not cleared when its domain is ready. Its windows begin to close first
(R203), and until they have closed it stays OWNED; `wokenDomain_granules` says what becomes of every granule. -/
theorem not_wokenDomainClearsItsGranules : ¬ Obligations.WokenDomainClearsItsGranules := by
  unfold Obligations.WokenDomainClearsItsGranules
  intro hall
  obtain ⟨hst, hdoms, hup, hbrown⟩ := wakingWithWindow_wakes
  obtain ⟨howned, hkept⟩ := wakingWithWindow_granule
  have hmem : 0 ∈ poolGrans 0 := by decide
  obtain ⟨t, hexec, -, hclears, -⟩ := hall wakingWithWindow 0 0 hst hdoms hup rfl
  rw [exec_domainWakeComplete hst (List.all_eq_true.1 hup)] at hexec
  obtain rfl := Host.Outcome.next.inj hexec
  have hstays := (wokenDomain_granules (d := 0) (p := 0) rfl hbrown).1 0 hmem
  have hclear := hclears 0 hmem
  rw [hstays, hkept, howned] at hclear
  exact absurd hclear (by decide)

/-! ### A step on an empty queue (R32, R504, log entry 2) -/

theorem step_of_no_command {s : State} (h : s.pending = []) : step s = .next (tick s) := by simp [step, h]

section TickStep

variable {p : Ptp}

theorem tickStep_of_no_slew (h : p.slew = 0) : tickStep p = (1, p) := by simp [tickStep, h]

theorem tickStep_between (h : p.slew ≠ 0) (hctr : p.slewCtr < 9999) : tickStep p = (1, { p with slewCtr := p.slewCtr + 1 }) := by
  simp [tickStep, h, hctr]

theorem tickStep_of_pos (h : 0 < p.slew) (hctr : 9999 ≤ p.slewCtr) :
    tickStep p = (0, { p with slewCtr := 0, slew := p.slew - 1 }) := by
  simp [tickStep, h, h.ne', hctr]

theorem tickStep_of_neg (h : p.slew < 0) (hctr : 9999 ≤ p.slewCtr) :
    tickStep p = (2, { p with slewCtr := 0, slew := p.slew + 1 }) := by
  rw [tickStep, if_neg h.ne, if_neg (by omega), if_neg (by omega)]

end TickStep

/-- Nothing is at the ports, the hubs and the core's inboxes, and no step, window access, slice, report or trained ford goes on. -/
structure Idle (s : State) : Prop where
  steps : s.steps = []
  accepted : s.pools.accepted = []
  waits : s.eth.waits = []
  slices : s.fords.slices = []
  untrained : ∀ n < 48, (fordOf s n).trained = false
  out : s.fords.out = []
  hub : s.fords.hub = []
  owed : s.fords.owed = []
  streams : s.fords.streams = []
  turns : s.fords.turns = []
  lmWait : s.fords.lmWait = []
  signing : s.sec.signing = none
  inboxes : ∀ b < 16, (linkOf s b).inbox.head?.all (·.bad == 0) = true

/-- The state in which the timebase and the PTP slew have moved and the awake endpoints have read their runnels. -/
def timePassed (s : State) (n : Nat) (p : Ptp) : State :=
  readEndpoints { s with now := (s.now + n) % 2 ^ 64, eth := { s.eth with ptp := p } }

namespace Idle

variable {s : State}

theorem withTime (h : Idle s) (n : Nat) (p : Ptp) : Idle { s with now := n, eth := { s.eth with ptp := p } } :=
  { h with }

theorem withReads (h : Idle s) : Idle (readEndpoints s) := { h with }

theorem servePorts_eq (h : Idle s) : servePorts s = s := by simp [servePorts, servePort, h.waits]

theorem answerBad_eq (h : Idle s) {b : Nat} (hb : b < 16) (n : Nat) : answerBad b n s = s := by
  have hgood := h.inboxes b hb
  cases n with
  | zero => rfl
  | succ n =>
    cases hin : (linkOf s b).inbox with
    | nil => simp [answerBad, hin]
    | cons c l =>
      rw [hin] at hgood
      have hc : c.bad = 0 := by simpa using hgood
      simp [answerBad, hin, hc]

theorem answerBads_eq (h : Idle s) : answerBads s = s := by
  rw [answerBads]
  refine List.foldlRecOn (motive := fun t => t = s) (List.range 16) _ rfl fun t ht b hb => ?_
  rw [ht]
  exact h.answerBad_eq (List.mem_range.1 hb) _

theorem finishSigning_eq (h : Idle s) : finishSigning s = s := by simp [finishSigning, h.signing]

theorem serveTransfers_eq (h : Idle s) : serveTransfers s = s := by simp [serveTransfers, h.accepted, h.steps]

theorem sendIdentities_eq (h : Idle s) (was : Nat) : sendIdentities was s = s := by
  have hnone : (List.range 48).filter (fun n => (fordOf s n).trained) = [] := by
    simpa using h.untrained
  simp [sendIdentities, hnone, sendLm]

theorem announceParts_eq (h : Idle s) : announceParts s = s := by simp [announceParts, h.slices]

theorem payOwed_eq (h : Idle s) : payOwed s = s := by simp [payOwed, h.owed]

theorem dropStreams_eq (h : Idle s) : dropStreams s = s := by
  have hsame : { s with fords := { s.fords with hub := [], streams := [], turns := [] } } = s := by
    rw [← h.hub, ← h.streams, ← h.turns]
  rw [dropStreams, h.hub, h.streams, h.turns]
  exact hsame

theorem sendWaiting_eq (h : Idle s) : sendWaiting s = s := by
  have hsame : { s with fords := { s.fords with lmWait := [] } } = s := by rw [← h.lmWait]
  rw [sendWaiting, h.lmWait, hsame, sendLm, List.foldl_nil]

theorem admitUnits_eq (h : Idle s) : admitUnits false s.fords.out { s with fords := { s.fords with out := [] } } = s := by
  have hsame : { s with fords := { s.fords with out := [] } } = s := by rw [← h.out]
  rw [h.out, admitUnits, hsame]

theorem countWaits_eq (h : Idle s) : countWaits s = s := by simp [countWaits, h.hub]

theorem hubTick_eq (h : Idle s) : hubTick s = s := by
  rw [hubTick]
  dsimp only
  rw [h.dropStreams_eq, h.sendWaiting_eq, h.admitUnits_eq, h.countWaits_eq, h.slices, List.filter_nil, List.foldl_nil]

/-- In an idle machine a nanosecond moves only the timebase, the PTP slew and the runnels. -/
theorem tick_eq (h : Idle s) : tick s = timePassed s (tickStep s.eth.ptp).1 (tickStep s.eth.ptp).2 := by
  have ht := h.withTime ((s.now + (tickStep s.eth.ptp).1) % 2 ^ 64) (tickStep s.eth.ptp).2
  have hr := ht.withReads
  rw [tick]
  dsimp only
  rw [ht.servePorts_eq, ht.answerBads_eq, ht.finishSigning_eq, hr.serveTransfers_eq, hr.sendIdentities_eq, hr.announceParts_eq,
    hr.payOwed_eq, hr.hubTick_eq, timePassed]

end Idle

theorem readEndpoint_eq {s : State} {e : Endpoint}
    (h : (!domOn s (endDomain e.num) || (e.queue.isEmpty && e.held.isEmpty && e.bell == 0)) = true) : readEndpoint s e = e := by
  cases hon : domOn s (endDomain e.num) with
  | false => simp [readEndpoint, hon]
  | true =>
    obtain ⟨⟨hqueue, hheld⟩, hbell⟩ : (e.queue = [] ∧ e.held = []) ∧ e.bell = 0 := by simpa [hon] using h
    rw [readEndpoint, if_pos hon, ← hqueue, ← hheld, ← hbell]

/-- Where no message and no doorbell waits at an endpoint that is awake, the endpoints find nothing to read. -/
theorem readEndpoints_runnels_eq {s : State}
    (h : (s.runnels.ends.all fun e => !domOn s (endDomain e.num) || (e.queue.isEmpty && e.held.isEmpty && e.bell == 0)) = true) :
    (readEndpoints s).runnels = s.runnels := by
  have hends : s.runnels.ends.map (readEndpoint s) = s.runnels.ends :=
    List.map_congr_left (fun e he => readEndpoint_eq (List.all_eq_true.1 h e he)) |>.trans (List.map_id _)
  rw [readEndpoints, hends]

/-- Settles O2: a step on an empty queue is a tick, by the cases of `tickStep`; in an idle machine each thing that a tick does, but for the
reading of the runnels, leaves the state as it is (`Idle.tick_eq`). -/
theorem idleStepCountsOneNanosecond : Obligations.IdleStepCountsOneNanosecond := by
  unfold Obligations.IdleStepCountsOneNanosecond
  intro s hnone
  rw [step_of_no_command hnone]
  refine ⟨⟨fun h => ?_, fun h hctr => ?_, fun h hctr => ?_, fun h hctr => ?_⟩, ?_⟩
  · rw [tick, tickStep_of_no_slew h]
  · rw [tick, tickStep_between h hctr]
  · rw [tick, tickStep_of_pos h hctr]
  · rw [tick, tickStep_of_neg h hctr]
  · intro steps accepted waits slices untrained out hub owed streams turns lmWait signing inboxes
    have hidle : Idle s :=
      { steps, accepted, waits, slices, untrained, out, hub, owed, streams, turns, lmWait, signing, inboxes }
    refine ⟨tick s, rfl, ?_, fun hread => ?_⟩
    · rw [hidle.tick_eq]; rfl
    · rw [hidle.tick_eq]; exact readEndpoints_runnels_eq hread

end Sys2Proof.Proofs
end

section
namespace Sys2Proof.Proofs
open Machine

/-! ### Trits (R38, R66) -/

theorem t5Trits_of_le {b : Nat} (h : b ≤ 242) :
    t5Trits b = some [tritOf (b % 3), tritOf (b / 3 % 3), tritOf (b / 9 % 3), tritOf (b / 27 % 3), tritOf (b / 81 % 3)] :=
  if_neg h.not_gt

theorem t5Trits_of_gt {b : Nat} (h : 242 < b) : t5Trits b = none := if_pos h

theorem isSome_t5Trits_iff {b : Nat} : (t5Trits b).isSome = true ↔ b ≤ 242 := by
  rcases Nat.lt_or_ge 242 b with h | h
  · simp [t5Trits_of_gt h, h]
  · simp [t5Trits_of_le h, h]

section Digits

variable {d0 d1 d2 d3 d4 : Nat} (h0 : d0 < 3) (h1 : d1 < 3) (h2 : d2 < 3) (h3 : d3 < 3) (h4 : d4 < 3)
include h0 h1 h2 h3 h4

theorem digits_le : d0 + 3 * d1 + 9 * d2 + 27 * d3 + 81 * d4 ≤ 242 := by omega

/-- Division by a place's weight and the rest by 3 give back the digit of that place. -/
theorem t5Trits_digits :
    t5Trits (d0 + 3 * d1 + 9 * d2 + 27 * d3 + 81 * d4) = some [tritOf d0, tritOf d1, tritOf d2, tritOf d3, tritOf d4] := by
  have p0 : (d0 + 3 * d1 + 9 * d2 + 27 * d3 + 81 * d4) % 3 = d0 := by omega
  have p1 : (d0 + 3 * d1 + 9 * d2 + 27 * d3 + 81 * d4) / 3 % 3 = d1 := by omega
  have p2 : (d0 + 3 * d1 + 9 * d2 + 27 * d3 + 81 * d4) / 9 % 3 = d2 := by omega
  have p3 : (d0 + 3 * d1 + 9 * d2 + 27 * d3 + 81 * d4) / 27 % 3 = d3 := by omega
  have p4 : (d0 + 3 * d1 + 9 * d2 + 27 * d3 + 81 * d4) / 81 % 3 = d4 := by omega
  rw [t5Trits_of_le (digits_le h0 h1 h2 h3 h4), p0, p1, p2, p3, p4]

end Digits

/-- Settles O14: the digits of a sum of weighted digits are those digits (`t5Trits_digits`), and 242 is the largest such sum. -/
theorem t5ByteHoldsFiveTrits : Obligations.T5ByteHoldsFiveTrits := by
  unfold Obligations.T5ByteHoldsFiveTrits
  refine ⟨fun d0 d1 d2 d3 d4 h0 h1 h2 h3 h4 => ⟨digits_le h0 h1 h2 h3 h4, t5Trits_digits h0 h1 h2 h3 h4⟩, fun b => ⟨?_, ?_⟩⟩
  · exact isSome_t5Trits_iff.symm
  · exact t5Trits_of_gt

theorem rotate_ne_self (down : Bool) (t : Int) : rotate down t ≠ t := by
  cases down with
  | false =>
    by_cases h : t = 1
    · subst h; decide
    · simp [rotate, h]
  | true =>
    by_cases h : t = -1
    · subst h; decide
    · simp [rotate, h]

/-- Settles O15: the six places of the cycle by computation, and no rotation leaves its trit (`rotate_ne_self`). -/
theorem tritRotation : Obligations.TritRotation := by
  unfold Obligations.TritRotation
  refine ⟨by decide, by decide, fun t ht => ⟨rotate_ne_self true t, rotate_ne_self false t, ?_⟩⟩
  rcases ht with rfl | rfl | rfl <;> decide

/-! ### The codes of NaN (R62) -/

/-- A mask over the bits of a field leaves that field in its place. -/
theorem and_fieldMask (w lo hi : Nat) : w &&& (2 ^ (hi + 1 - lo) - 1) * 2 ^ lo = fld w lo hi * 2 ^ lo := by
  rw [← Nat.shiftLeft_eq, ← Nat.shiftLeft_eq]
  refine Nat.eq_of_testBit_eq fun i => ?_
  rcases Nat.lt_or_ge i lo with h | h
  · simp [fld, h.not_ge]
  · simp [fld, h, Nat.testBit_shiftRight, Bool.and_comm]

theorem exponentMask_iff (w : BitVec 32) : w &&& 0x7F800000 = 0x7F800000 ↔ fld w.toNat 23 30 = 255 := by
  have h : (w &&& 0x7F800000).toNat = fld w.toNat 23 30 * 2 ^ 23 := and_fieldMask w.toNat 23 30
  rw [← BitVec.toNat_inj, h]
  exact Nat.mul_left_inj (c := 255) (Nat.two_pow_pos 23).ne'

theorem fractionMask_iff (w : BitVec 32) : w &&& 0x007FFFFF = 0 ↔ fld w.toNat 0 22 = 0 := by
  have h : (w &&& 0x007FFFFF).toNat = fld w.toNat 0 22 * 2 ^ 0 := and_fieldMask w.toNat 0 22
  rw [← BitVec.toNat_inj, h, pow_zero, mul_one]
  exact Iff.rfl

theorem ofF32_eq_nan_iff (w : BitVec 32) : ofF32 w = .nan ↔ fld w.toNat 23 30 = 255 ∧ fld w.toNat 0 22 ≠ 0 := by
  by_cases hex : fld w.toNat 23 30 = 255
  · by_cases hfr : fld w.toNat 0 22 = 0
    · simp [ofF32, hex, hfr]
    · simp [ofF32, hex, hfr]
  · by_cases hzero : fld w.toNat 23 30 = 0
    · simp [ofF32, hzero]
    · simp [ofF32, hex, hzero]

/-- A BF16 code is the upper half of an F32 code, so its fields are those of the F32 code. -/
theorem ofBf16_eq_nan_iff {n : Nat} (hn : n < 65536) : ofBf16 n = .nan ↔ n / 128 % 256 = 255 ∧ n % 128 ≠ 0 := by
  have hw : (BitVec.ofNat 32 (n * 65536)).toNat = n * 65536 := by
    rw [BitVec.toNat_ofNat, Nat.mod_eq_of_lt (by omega)]
  have hex : fld (n * 65536) 23 30 = n / 128 % 256 := by
    rw [fld, Nat.shiftRight_eq_div_pow]; omega
  have hfr : fld (n * 65536) 0 22 = n % 128 * 65536 := by
    rw [fld, Nat.shiftRight_zero]; omega
  rw [ofBf16, ofF32_eq_nan_iff, hw, hex, hfr]
  omega

@[simp] theorem toF32_nan : toF32 .nan = 0x7FC00000 := rfl

@[simp] theorem addV_nan_left (v : FVal) : addV .nan v = .nan := rfl

@[simp] theorem addV_nan_right (v : FVal) : addV v .nan = .nan := by cases v <;> rfl

@[simp] theorem negV_eq_nan_iff {v : FVal} : negV v = .nan ↔ v = .nan := by cases v <;> simp [negV]

@[simp] theorem mulV_nan_left (v : FVal) : mulV .nan v = .nan := rfl

@[simp] theorem mulV_nan_right (v : FVal) : mulV v .nan = .nan := by cases v <;> rfl

section NanOperand

variable {a b : BitVec 32} (h : ofF32 a = .nan ∨ ofF32 b = .nan)
include h

theorem f32Add_of_nan : f32Add a b = 0x7FC00000 := by
  rcases h with h | h <;> simp [f32Add, h]

theorem f32Sub_of_nan : f32Sub a b = 0x7FC00000 := by
  rcases h with h | h
  · simp [f32Sub, h]
  · simp [f32Sub, negV_eq_nan_iff.2 h]

theorem f32Mul_of_nan : f32Mul a b = 0x7FC00000 := by
  rcases h with h | h <;> simp [f32Mul, h]

theorem f32Div_of_nan : f32Div a b = 0x7FC00000 := by
  rcases h with h | h
  · rw [f32Div, h]
  · rw [f32Div, h]
    cases ofF32 a <;> rfl

end NanOperand

/-- Settles O13: a code is NaN by its exponent and fraction fields, which the two masks of F32 select, and a NaN operand makes each
operation's value NaN. -/
theorem nanCodes : Obligations.NanCodes := by
  unfold Obligations.NanCodes
  refine ⟨toF32_nan, rfl, fun w => ?_, fun n hn => ofBf16_eq_nan_iff hn,
    fun a b h => ⟨f32Add_of_nan h, f32Sub_of_nan h, f32Mul_of_nan h, f32Div_of_nan h⟩⟩
  rw [ofF32_eq_nan_iff, exponentMask_iff, Ne, Ne, fractionMask_iff]

end Sys2Proof.Proofs
end

section
namespace Sys2Proof.Proofs
open Machine

/-! ### The events of the reaches (R78 to R92, R99, R345, R346) -/

/-- The group of the next window that an item loads (R83). -/
def nextGroup (it : Item) : Nat := (it.wins.getLast?.map fun w => w.grp + 1).getD it.firstGrp

/-- Column `j` of group `n` lies below COLS. -/
def liveCol (h : WHdr) (n j : Nat) : Bool := decide (16 * n + j < h.cols)

/-- A G8 element of group `n` below COLS has no valid code (R78). -/
def badG8 (d : BitVec 512) (h : WHdr) (it : Item) (n : Nat) : Bool :=
  mMode1 d && it.acts.any fun x => (List.range 16).any fun j =>
    liveCol h n j && 0x7C < x.1.getD (16 * (n - it.firstGrp) + j) 0 % 128

/-- The operands of a token for the 16 columns of group `n` (R75, R76, R83). -/
def windowRow (d : BitVec 512) (h : WHdr) (first n : Nat) (x : (List Nat × List Nat) × Nat) : List Opnd :=
  (List.range 16).map fun j =>
    if !liveCol h n j then Opnd.fin 0
    else if mMode1 d then alignG8 x.2 (x.1.2.getD ((16 * (n - first) + j) / 32) 0) (x.1.1.getD (16 * (n - first) + j) 0)
    else alignF4 x.2 (x.1.2.getD ((16 * (n - first) + j) / 32) 0) (x.1.1.getD (16 * (n - first) + j) 0)

/-- The item with the window of group `n` loaded; the window four groups before it gives up its place (R83). -/
def withWindow (d : BitVec 512) (h : WHdr) (it : Item) (n : Nat) : Item :=
  { it with wins := dropW (fun w => w.grp + 4 ≤ n) it.wins ++
      [{ grp := n, rows := (it.acts.zip it.refs).map (windowRow d h it.firstGrp n) }] }

section FreeReach

variable {s : State} {sid pos i k : Nat} {t : Step} {r : ReachCtx}

/-- A free reach that goes takes its next item, a weight-gradient item or one of a matrix operation. -/
theorem exec_itemPrologue (ht : stepOf s sid = some t) (hr : reachOf t pos = some r) (hruns : stepRuns t = true)
    (hgo : unitGoes t (uReach pos) = true) (hfree : r.item = none) (hnext : nextItem t r = some (i, k))
    (hready : descReady s t i = true) :
    exec (.itemPrologue sid pos) s =
      .next (if kindOf (descOf t i) = 0x11 then gradPrologue s t r i k else matPrologue s t r i k) := by
  have hrun : exec (.itemPrologue sid pos) s = execItemPrologue sid pos s := rfl
  have hgoes : (!stepRuns t || !unitGoes t (uReach pos) || r.item.isSome) = false := by simp [hruns, hgo, hfree]
  rw [hrun, execItemPrologue]
  simp only [ht, hr, hgoes, hnext, hready, Bool.not_true, Bool.false_eq_true, if_false]
  split <;> rfl

end FreeReach

/-- The reach at a position of a step works on an item. -/
structure WorksOn (s : State) (sid pos : Nat) (t : Step) (r : ReachCtx) (it : Item) : Prop where
  step : stepOf s sid = some t
  reach : reachOf t pos = some r
  item : r.item = some it
  works : reachWorks t pos = true

namespace WorksOn

variable {s : State} {sid pos lane : Nat} {t : Step} {r : ReachCtx} {it : Item} {l : Lane} (h : WorksOn s sid pos t r it)
include h

/-- What every event of a working reach looks up first. -/
theorem lookup : ((stepOf s sid).bind fun t => (reachOf t pos).bind fun r => r.item.map fun it => (t, r, it)) = some (t, r, it) := by
  simp [h.step, h.reach, h.item]

theorem exec_windowLoad (hkind : kindOf (descOf t r.desc) = 0x10)
    (hmore : nextGroup it < it.firstGrp + (geoOf (descOf t r.desc) it.idx).grps)
    (hroom : nextGroup it < it.firstGrp + 4 ∨ groupFinished it (nextGroup it - 4) = true)
    (hgood : badG8 (descOf t r.desc) (headerAt s t (dfld (descOf t r.desc) 64 111)) it (nextGroup it) = false) :
    exec (.windowLoad sid pos) s = .next (setReach s sid pos fun r' => { r' with
      item := some (withWindow (descOf t r.desc) (headerAt s t (dfld (descOf t r.desc) 64 111)) it (nextGroup it)) }) := by
  have hrun : exec (.windowLoad sid pos) s = execWindowLoad sid pos s := rfl
  have hloads : (!reachWorks t pos || kindOf (descOf t r.desc) != 0x10 ||
      it.firstGrp + (geoOf (descOf t r.desc) it.idx).grps ≤ nextGroup it ||
      !(nextGroup it < it.firstGrp + 4 || groupFinished it (nextGroup it - 4))) = false := by
    simpa [h.works, hkind, hmore] using fun hfull : it.firstGrp + 4 ≤ nextGroup it => hroom.resolve_left hfull.not_gt
  rw [hrun, execWindowLoad, h.lookup]
  exact (if_neg (Bool.eq_false_iff.1 hloads)).trans (if_neg (Bool.eq_false_iff.1 hgood))

theorem exec_decoderRead (hl : (it.lanes.find? fun l => l.lane == lane) = some l) (hkind : kindOf (descOf t r.desc) = 0x10)
    (hmore : l.rdGrp < (geoOf (descOf t r.desc) it.idx).grps) (hahead : l.rdGrp ≤ l.grp + 2) :
    exec (.decoderRead sid pos lane) s =
      .next (decodeNext s t pos r.desc (headerAt s t (dfld (descOf t r.desc) 64 111)) it l) := by
  have hrun : exec (.decoderRead sid pos lane) s = execDecoderRead sid pos lane s := rfl
  have hreads : (!reachWorks t pos || kindOf (descOf t r.desc) != 0x10 ||
      (geoOf (descOf t r.desc) it.idx).grps ≤ l.rdGrp || l.grp + 2 < l.rdGrp) = false := by
    simp [h.works, hkind, hmore, hahead]
  simp only [hrun, execDecoderRead, h.lookup, hl, hreads, Bool.false_eq_true, if_false]

theorem exec_laneBeat_of_grad (hl : (it.lanes.find? fun l => l.lane == lane) = some l) (hkind : kindOf (descOf t r.desc) = 0x11) :
    exec (.laneBeat sid pos lane) s = .next (gradBeat s t pos it l) := by
  have hrun : exec (.laneBeat sid pos lane) s = execLaneBeat sid pos lane s := rfl
  simp [hrun, execLaneBeat, h.lookup, hl, h.works, hkind]

theorem exec_laneBeat_of_mat (hl : (it.lanes.find? fun l => l.lane == lane) = some l) (hkind : kindOf (descOf t r.desc) ≠ 0x11) :
    let d := descOf t r.desc
    let hdr := headerAt s t (dfld d 64 111)
    let u := applyBeat s t pos r.desc hdr it l
    exec (.laneBeat sid pos lane) s =
      .next (settleLane u t pos r.desc hdr lane (geoOf d it.idx).grps (loadTime u t pos d) ((geoOf d it.idx).grps + 1)) := by
  have hrun : exec (.laneBeat sid pos lane) s = execLaneBeat sid pos lane s := rfl
  simp [hrun, execLaneBeat, h.lookup, hl, h.works, hkind]

/-- The item of a weight-gradient descriptor ends when each lane has taken its last token. -/
theorem exec_itemJoin_of_grad (hdrain : r.drain = none) (hkind : kindOf (descOf t r.desc) = 0x11)
    (hlast : ∀ l ∈ it.lanes, (geoOf (descOf t r.desc) it.idx).toks ≤ l.grp) :
    let g := geoOf (descOf t r.desc) it.idx
    exec (.itemJoin sid pos) s = .next (joined s t pos r.desc it (gradBeats s t pos (descOf t r.desc) g.toks)
      (it.lanes.map fun l => (l.lane, l.u)) it.refs (g.rows * g.cols * g.toks)) := by
  have hrun : exec (.itemJoin sid pos) s = execItemJoin sid pos s := rfl
  have hlanes : (it.lanes.any fun l => l.grp < (geoOf (descOf t r.desc) it.idx).toks) = false := by simpa using hlast
  simp [hrun, execItemJoin, h.lookup, h.works, hdrain, hkind, hlanes]

/-- The item of a matrix operation ends when each lane has finished its last group, and the lanes fold once more. -/
theorem exec_itemJoin_of_mat {ls : List Lane} {u : State} (hdrain : r.drain = none) (hkind : kindOf (descOf t r.desc) ≠ 0x11)
    (hlast : ∀ l ∈ it.lanes, (geoOf (descOf t r.desc) it.idx).grps ≤ l.grp)
    (hfolds : finalFolds s t pos r.desc (headerAt s t (dfld (descOf t r.desc) 64 111))
      (it.firstGrp + (geoOf (descOf t r.desc) it.idx).grps - 1) it.lanes = .ok ls u) :
    exec (.itemJoin sid pos) s = .next (joined u t pos r.desc it ((ls.map (·.clock)).foldl max 0)
      (ls.map fun l => (l.lane, l.acc)) (it.refs.map fun x => if mMode1 (descOf t r.desc) then x else x + 18) 0) := by
  have hrun : exec (.itemJoin sid pos) s = execItemJoin sid pos s := rfl
  have hlanes : (it.lanes.any fun l => l.grp < (geoOf (descOf t r.desc) it.idx).grps) = false := by simpa using hlast
  simp [hrun, execItemJoin, h.lookup, h.works, hdrain, hkind, hlanes, hfolds]

end WorksOn

/-- The record of a position's drained item is in memory: the drain is free, the item and the reach's beats are counted, and the descriptor
finishes if this item was its last (R84, R99). -/
def recordDrained (s : State) (sid pos : Nat) (t : Step) (x : Drain) : State :=
  let s := setMat (setReach s sid pos fun r => { r with drain := none }) sid x.desc fun m => { m with drained := m.drained + 1 }
  let s := count (count s 0 (stepReach s t pos) 0 4 1) 0 (stepReach s t pos) 0 0
    (if ownPool s t pos (mPsum (descOf t x.desc) + x.idx * recSize) recSize then 65 else 1028)
  matFinish (count s 6 (tagOfDesc t x.desc) t.basin 0 1) sid x.desc

theorem exec_drainComplete {s u : State} {sid pos : Nat} {t : Step} {r : ReachCtx} {x : Drain} {k : Unit} (ht : stepOf s sid = some t)
    (hr : reachOf t pos = some r) (hx : r.drain = some x) (hworks : reachWorks t pos = true)
    (hwrite : wideWrite s { reachAcc s t pos x.desc with task := [3] } (mPsum (descOf t x.desc) + x.idx * recSize)
      (recordBytes (tileNL (mCw (descOf t x.desc))) (tileC (mCw (descOf t x.desc))) x) = .ok k u) :
    exec (.drainComplete sid pos) s = .next (recordDrained u sid pos t x) := by
  have hrun : exec (.drainComplete sid pos) s = execDrainComplete sid pos s := rfl
  simp only [hrun, execDrainComplete, ht, hr, hx, hworks, hwrite, Option.bind_some, Option.map_some, Bool.not_true,
    Bool.false_eq_true, if_false, recordDrained]

/-! ### The stop of a faulting step (R71, R90, R236, R237) -/

/-- A step stops with the status that ranks first; what else follows depends on the kind of data that was poisoned. -/
theorem exec_stepFault {s : State} {sid : Nat} {t : Step} (ht : stepOf s sid = some t) (hfaults : t.faults ≠ [])
    (hstop : t.stopped = false) :
    exec (.stepFault sid) s = .next (
      let u := stopStep s t (worstStatus t.faults)
      if worstStatus t.faults = stDataPoisoned then
        endPoisoned u t ((t.faults.filter fun f => f.status == stDataPoisoned).map fun f => f.addr / 4096)
      else if worstStatus t.faults = stWeightPoisoned then raiseWeights u t
      else u) := by
  have hrun : exec (.stepFault sid) s = execStepFault sid s := rfl
  have hgo : (t.faults.isEmpty || t.stopped) = false := by simp [hfaults, hstop]
  simp only [hrun, execStepFault, ht, hgo, Bool.false_eq_true, if_false]
  split_ifs <;> rfl

@[simp] theorem putBack_steps (t : Step) (s : State) (x : Nat × List Byte) : (putBack t s x).steps = s.steps := by
  unfold putBack
  refine List.foldlRecOn (motive := fun u : State => u.steps = s.steps) _ _ rfl fun u hu y _ => ?_
  split <;> exact hu

@[simp] theorem foldl_putBack_steps (t : Step) (l : List (Nat × List Byte)) (s : State) :
    (l.foldl (putBack t) s).steps = s.steps :=
  List.foldlRecOn (motive := fun u : State => u.steps = s.steps) l _ rfl fun u hu x _ => (putBack_steps t u x).trans hu

@[simp] theorem clearGran_steps (s : State) (g : Nat) : (clearGran s g).steps = s.steps := by
  unfold clearGran
  dsimp only
  split <;> rfl

@[simp] theorem clearJob_steps (s : State) (b n : Nat) : (clearJob s b n).steps = s.steps := by
  unfold clearJob
  split
  · exact List.foldlRecOn (motive := fun u : State => u.steps = s.steps) _ _ rfl fun u hu (x : Gran) _ => (clearGran_steps u x.g).trans hu
  · rfl

/-- Changing the elements that satisfy a test in two ways gives the same exactly where the ways agree on them. -/
theorem updW_eq_updW_iff {α : Type} {p : α → Bool} {f g : α → α} {l : List α} :
    updW p f l = updW p g l ↔ ∀ x ∈ l, p x = true → f x = g x := by
  rw [updW, updW, List.map_inj_left]
  refine forall₂_congr fun x _ => ?_
  cases hx : p x <;> simp

/-- A stopped step: its units are gone and nothing is filled in. -/
def stoppedStep (status : Nat) (t : Step) : Step := { t with stopped := true, status := status, fill := none, units := {} }

/-- The stop of a step when every step of its number takes the new form `f`. -/
def stopAs (f : Step → Step) (s : State) (t : Step) : State :=
  let s := setStep (t.units.before.reverse.foldl (putBack t) s) t.sid f
  let s := revokeJob s t.basin t.job
  clearJob (closeWindows s fun w => w.basin == t.basin && w.job == t.job) t.basin t.job

theorem stopStep_eq_stopAs (s : State) (t : Step) (status : Nat) : stopStep s t status = stopAs (stoppedStep status) s t := rfl

theorem stopAs_steps (f : Step → Step) (s : State) (t : Step) : (stopAs f s t).steps = updW (fun x => x.sid == t.sid) f s.steps := by
  simp only [stopAs, clearJob_steps, closeWindows, revokeJob, setStep, foldl_putBack_steps]

theorem stopAs_eq_iff {f g : Step → Step} {s : State} {t : Step} :
    stopAs f s t = stopAs g s t ↔ ∀ x ∈ s.steps, x.sid = t.sid → f x = g x := by
  constructor
  · intro h x hx hsid
    have hsteps := congrArg State.steps h
    rw [stopAs_steps, stopAs_steps] at hsteps
    exact updW_eq_updW_iff.1 hsteps x hx (beq_iff_eq.2 hsid)
  · intro h
    have hsteps : updW (fun x => x.sid == t.sid) f s.steps = updW (fun x => x.sid == t.sid) g s.steps :=
      updW_eq_updW_iff.2 fun x hx hsid => h x hx (beq_iff_eq.1 hsid)
    simp only [stopAs, setStep, foldl_putBack_steps, hsteps]

/-- O34 says that each step of the number stops with the status of its own faults, where the model gives each of them the status of the
step that `stepOf` finds. The two agree exactly where those statuses do, so wherever no other step bears the number. -/
theorem stopStep_eq_stopAs_own_iff {s : State} {t : Step} :
    stopStep s t (worstStatus t.faults) = stopAs (fun x => stoppedStep (worstStatus x.faults) x) s t ↔
      ∀ x ∈ s.steps, x.sid = t.sid → worstStatus x.faults = worstStatus t.faults := by
  rw [stopStep_eq_stopAs, stopAs_eq_iff]
  exact forall₃_congr fun x _ _ => ⟨fun h => (congrArg Step.status h).symm, fun h => by rw [h]⟩

/-- A step of basin 1 in which a range fault has been found. -/
def rangeFaulted : Step :=
  { sid := 1, basin := 1, gid := 0, kind := .serve false, cls := 0, job := 1, vid := 5, base := 5, gen := 0, descs := [], bound := true,
    formT := 0, faults := [{ status := stIndexRange, src := 0, desc := 0, tag := 0, aux := 0 }] }

/-- A second step of the same number has found no fault. -/
def twoOfANumber : State := { State.reset with steps := [rangeFaulted, { rangeFaulted with faults := [] }] }

theorem rangeFaulted_worst : worstStatus rangeFaulted.faults = stIndexRange ∧ stIndexRange ≠ stDataPoisoned ∧
    stIndexRange ≠ stWeightPoisoned ∧ worstStatus [] ≠ stIndexRange := by decide

/-- Refutes O34: its last clause gives every step of the number `sid` the status of its own faults, and it speaks of every state, also of
one in which two steps bear one number. There a second step without faults would get status 0, but the model gives it the status of the
faults that were found (`stopStep_eq_stopAs_own_iff`). What STEP_FAULT does is `exec_stepFault`; the other clauses hold as they stand:
`exec_itemPrologue`, the lemmas of `WorksOn`, and `exec_drainComplete`. -/
theorem not_reachEventsComplete : ¬ Obligations.ReachEventsComplete := by
  unfold Obligations.ReachEventsComplete
  intro hall
  obtain ⟨hworst, hdata, hweight, hnone⟩ := rangeFaulted_worst
  obtain ⟨-, -, -, hfault⟩ := hall twoOfANumber 1 rangeFaulted rfl
  have hstated : exec (.stepFault 1) twoOfANumber =
      .next (stopAs (fun x => stoppedStep (worstStatus x.faults) x) twoOfANumber rangeFaulted) :=
    (hfault (by decide) rfl).1 (by rwa [hworst]) (by rwa [hworst])
  have hmodel : exec (.stepFault 1) twoOfANumber = .next (stopStep twoOfANumber rangeFaulted (worstStatus rangeFaulted.faults)) := by
    simp [exec_stepFault (s := twoOfANumber) (sid := 1) (t := rangeFaulted) rfl (by decide) rfl, hworst, hdata, hweight]
  have hsame := stopStep_eq_stopAs_own_iff.1 (Host.Outcome.next.inj (hmodel.symm.trans hstated))
  have hsecond := hsame { rangeFaulted with faults := [] } (by simp [twoOfANumber]) rfl
  exact hnone (hsecond.trans hworst)

end Sys2Proof.Proofs
end

section
namespace Sys2Proof.Proofs
open Machine

/-! ### The events of the confluence and of the epilogues (R102 to R108, R117 to R120, R399) -/

theorem sid_of_stepOf {s : State} {sid : Nat} {t : Step} (ht : stepOf s sid = some t) : t.sid = sid := by
  simpa using List.find?_some ht

/-- A unit that basins share asks of a tile only what it makes of the present state. -/
theorem byTurn_congr {s : State} {op op' : State → State} (h : op s = op' s) (t : Step) (trib unit : Nat)
    (tiles : Step → List (State → State)) : byTurn s t trib unit tiles op = byTurn s t trib unit tiles op' := by
  simp only [byTurn, h]

/-! #### The confluence (R103 to R108) -/

/-- Leaf `j` of a node's tree, read in state `u`: a chunk's record, a sub-row's root, or a module's value on an axis (R100, R107, R108). -/
def nodeLeaf (s : State) (t : Step) (epi tok row : Nat) (node : CNode) (u : State) (j : Nat) : Got (Option PSum) :=
  let m := matOf s t (descOf t epi)
  let rows := epiRows s t epi
  let low := nodeItem s t epi tok row node
  if node.stage = 0 then leafVal u ((stepOf u t.sid).getD t) epi m low row tok j
  else if node.stage = 1 then chunkRoot t epi m low ((rows.getD row (0, 1)).1 + j) tok u
  else if j = node.lo then axisRoot t epi m rows row tok (node.stage - 2) u
  else .ok (nodeVal t epi tok row { stage := node.stage, lo := j, n := 1 }) u

/-- This module forms the node: along axis `node.stage - 2` the module at the node's lowest leaf does, where the axes below are summed
(R108). -/
def FormedHere (s : State) (t : Step) (epi : Nat) (node : CNode) : Prop :=
  let axes := eAxes (descOf t epi)
  2 ≤ node.stage → node.lo = axisPos s t.basin axes (node.stage - 2) ∧ ∀ j < node.stage - 2, axisPos s t.basin axes j = 0

/-- A node that the adders of a step still have to compute. -/
structure NodeDue (s : State) (t : Step) (epi tok row : Nat) (node : CNode) : Prop where
  goes : unitGoes t uAdder = true
  kind : kindOf (descOf t epi) = 0x20
  inRows : row < stageRows s t epi node.stage
  inToks : tok < mTok (matOf s t (descOf t epi))
  stage : node.stage ≤ 4
  inner : 1 < node.n
  tree : confNode (stageLen s t epi row node.stage + 1) node.lo node.n 0 (stageLen s t epi row node.stage) = true
  here : FormedHere s t epi node
  missing : nodeVal t epi tok row node = none

theorem formedHere_iff {s : State} {t : Step} {epi : Nat} {node : CNode} : FormedHere s t epi node ↔
    (node.stage < 2 || (node.lo == axisPos s t.basin (eAxes (descOf t epi)) (node.stage - 2) &&
      (List.range (node.stage - 2)).all fun j => axisPos s t.basin (eAxes (descOf t epi)) j == 0)) = true := by
  rw [FormedHere, ← not_lt, ← or_iff_not_imp_left]
  simp

/-- A node whose children are known is their sum, in the state that reading the second child leaves. -/
theorem NodeDue.addNode_eq {s u v : State} {t : Step} {epi tok row : Nat} {node : CNode} {x y : PSum} (h : NodeDue s t epi tok row node)
    (hx : childVal t epi tok row node.stage (confSplit node.lo node.n).1 (nodeLeaf s t epi tok row node) s = .ok (some x) u)
    (hy : childVal t epi tok row node.stage (confSplit node.lo node.n).2 (nodeLeaf s t epi tok row node) u = .ok (some y) v) :
    addNode t epi tok row node s = putNode v t.sid epi tok row node (confAdd x y) := by
  have hadds : (!unitGoes t uAdder || kindOf (descOf t epi) != 0x20 ||
      !(row < stageRows s t epi node.stage && tok < mTok (matOf s t (descOf t epi)) && node.stage ≤ 4) || node.n < 2 ||
      !confNode (stageLen s t epi row node.stage + 1) node.lo node.n 0 (stageLen s t epi row node.stage) ||
      !(node.stage < 2 || (node.lo == axisPos s t.basin (eAxes (descOf t epi)) (node.stage - 2) &&
        (List.range (node.stage - 2)).all fun j => axisPos s t.basin (eAxes (descOf t epi)) j == 0)) ||
      (nodeVal t epi tok row node).isSome) = false := by
    rw [formedHere_iff.1 h.here]
    simp [h.goes, h.kind, h.inRows, h.inToks, h.stage, h.inner, h.tree, h.missing]
  rw [addNode]
  refine (if_neg (Bool.eq_false_iff.1 hadds)).trans ?_
  unfold nodeLeaf at hx hy
  simp only [hx, hy]

theorem exec_confluenceAdd {s : State} {sid epi tok row : Nat} {t : Step} {node : CNode} (ht : stepOf s sid = some t)
    (hruns : stepRuns t = true) :
    exec (.confluenceAdd sid epi tok row node) s = .next (byTurn s t (adderTrib s t epi tok row node) 4
      (addTiles s (adderTrib s t epi tok row node)) (addNode t epi tok row node)) := by
  have hrun : exec (.confluenceAdd sid epi tok row node) s = execConfluenceAdd sid epi tok row node s := rfl
  simp only [hrun, execConfluenceAdd, ht, Option.filter_some_pos hruns]

/-! #### The blocks of an epilogue (R108, R110, R117) -/

/-- The output rows of a block (R110). -/
def blockRows (oc blk : Nat) : List Nat := (List.range (min 32 (oc - 32 * blk))).map (· + 32 * blk)

/-- What a module does with a block's roots: the root of the slice tree runs the block, another sends them on (R108, log entry 33). -/
def passBlock (u : State) (t : Step) (epi tok blk oc : Nat) (m : BitVec 512) (roots : List PSum) : State :=
  match stopAxis u t.basin (eAxes (descOf t epi)) with
  | some k => sendRoots u t epi tok blk k roots
  | none => runBlock u t epi tok blk oc m roots

/-- A block that the epilogue unit of a step still has to take. -/
structure BlockDue (s : State) (t : Step) (e : EpiCtx) (epi tok blk : Nat) : Prop where
  goes : unitGoes t uEpi = true
  unfinished : e.finished = false
  inToks : tok < mTok (matOf s t (descOf t epi))
  inBlks : blk < cdiv (epiRows s t epi).length 32
  missing : e.done.contains (tok, blk) = false
  ready : descReady s t epi = true

theorem BlockDue.epiBlock_eq {s u : State} {t : Step} {e : EpiCtx} {epi tok blk : Nat} {roots : List PSum}
    (h : BlockDue s t e epi tok blk)
    (hroots : blockRoots t epi (matOf s t (descOf t epi)) (epiRows s t epi) tok (blockRows (epiRows s t epi).length blk) s =
      .ok (some roots) u) :
    epiBlock t e epi tok blk s = passBlock u t epi tok blk (epiRows s t epi).length (matOf s t (descOf t epi)) roots := by
  have htakes : (!unitGoes t uEpi || e.finished || mTok (matOf s t (descOf t epi)) ≤ tok || cdiv (epiRows s t epi).length 32 ≤ blk ||
      e.done.contains (tok, blk) || !descReady s t epi) = false := by
    rw [h.missing]
    simp [h.goes, h.unfinished, h.inToks, h.inBlks, h.ready]
  rw [blockRows] at hroots
  rw [epiBlock]
  refine (if_neg (Bool.eq_false_iff.1 htakes)).trans ?_
  simp only [hroots]
  rfl

theorem exec_epilogueBlock {s : State} {sid epi : Nat} {t : Step} {e : EpiCtx} (ht : stepOf s sid = some t) (he : epiOf t epi = some e)
    (hruns : stepRuns t = true) (tok blk : Nat) :
    exec (.epilogueBlock sid epi tok blk) s =
      .next (byTurn s t (unitTrib s t) 2 (epiTiles s (unitTrib s t)) (epiBlock t e epi tok blk)) := by
  have hrun : exec (.epilogueBlock sid epi tok blk) s = execEpilogueBlock sid epi tok blk s := rfl
  simp only [hrun, execEpilogueBlock, ht, Option.filter_some_pos hruns, he, Option.bind_some, Option.map_some]

/-! #### The end of an epilogue (R118, R119) -/

/-- Every block of an epilogue descriptor is through, no fault has been found, and the descriptor has not finished. -/
structure AllThrough (s : State) (sid epi : Nat) (t : Step) (e : EpiCtx) : Prop where
  step : stepOf s sid = some t
  ctx : epiOf t epi = some e
  works : stepWorks t = true
  noFault : t.faults = []
  unfinished : e.finished = false
  through : mTok (matOf s t (descOf t epi)) * cdiv (epiRows s t epi).length 32 ≤ e.done.length

/-- The escapes that leave a record, in order (R118). -/
def escapesInOrder (e : EpiCtx) : List Escape := escapeOrder (e.escapes.filter (·.record))

/-- The escape records for which the area has room, each at its address (R118). -/
def escapeRecords (d : BitVec 512) (e : EpiCtx) : List (Nat × List Byte) :=
  ((escapesInOrder e).take (dfld d 448 463)).zipIdx.map fun x => (dfld d 352 399 + 48 * x.2, escapeBytes x.1)

/-- The counter area at its address (R119). -/
def counterArea (d m : BitVec 512) (e : EpiCtx) (oc : Nat) : Nat × List Byte :=
  (dfld d 400 447, cntBytes e (dfld m 368 383) ((escapesInOrder e).length - ((escapesInOrder e).take (dfld d 448 463)).length) (cdiv oc 32))

/-- The module at the root sends what it has written to the other modules of its group, where the descriptor says so (R108). -/
def sendEnd (u : State) (t : Step) (epi : Nat) (esc cnt : List (Nat × List Byte)) : State :=
  let d := descOf t epi
  let ms := groupMates u t.basin (eAxes d)
  if bitAt d.toNat 19 then
    sendResult (sendResult u t.basin t.sid ms epi 1 (dfld d 352 399) esc) t.basin t.sid ms epi 2 (dfld d 400 447) cnt
  else u

/-- The descriptor has finished. -/
def markFinished (s : State) (sid epi : Nat) : State := setEpi s sid epi fun e => { e with finished := true }

namespace AllThrough

variable {s u : State} {sid epi : Nat} {t : Step} {e : EpiCtx} (h : AllThrough s sid epi t e)
include h

theorem finishes : (!stepWorks t || !t.faults.isEmpty || e.finished ||
    e.done.length < mTok (matOf s t (descOf t epi)) * cdiv (epiRows s t epi).length 32) = false := by
  simp [h.works, h.noFault, h.unfinished, h.through]

/-- The root writes the escape records and the counter area and counts the replays and the escapes. -/
theorem exec_epilogueFinish_of_root {k : Unit} (hroot : stopAxis s t.basin (eAxes (descOf t epi)) = none)
    (hwrite : wideWriteMany s (epiAcc s t epi) (escapeRecords (descOf t epi) e ++
      [counterArea (descOf t epi) (matOf s t (descOf t epi)) e (epiRows s t epi).length]) = .ok k u) :
    let tag := dfld (matOf s t (descOf t epi)) 368 383
    let v := sendEnd u t epi (escapeRecords (descOf t epi) e)
      [counterArea (descOf t epi) (matOf s t (descOf t epi)) e (epiRows s t epi).length]
    exec (.epilogueFinish sid epi) s =
      .next (markFinished (count (count v 6 tag t.basin 4 e.replays) 6 tag t.basin 5 e.escapes.length) sid epi) := by
  have hrun : exec (.epilogueFinish sid epi) s = execEpilogueFinish sid epi s := rfl
  simp only [escapeRecords, counterArea, escapesInOrder] at hwrite
  simp only [hrun, execEpilogueFinish, h.step, h.ctx, Option.bind_some, Option.map_some, h.finishes, hroot, Option.isSome_none,
    Bool.false_eq_true, if_false, hwrite]
  rfl

/-- A module that is not the root writes nothing, and the descriptor finishes where no result is to arrive (log entry 33). -/
theorem exec_epilogueFinish_elsewhere (haxis : (stopAxis s t.basin (eAxes (descOf t epi))).isSome = true)
    (hno : bitAt (descOf t epi).toNat 19 = false) :
    exec (.epilogueFinish sid epi) s = .next (markFinished s sid epi) := by
  have hrun : exec (.epilogueFinish sid epi) s = execEpilogueFinish sid epi s := rfl
  simp only [hrun, execEpilogueFinish, h.step, h.ctx, Option.bind_some, Option.map_some, h.finishes, haxis, hno,
    Bool.false_eq_true, if_false, if_true, markFinished]

end AllThrough

/-- Settles O35: a node due in a unit's turn is the sum of its children, a block due there passes its roots on or runs, and an epilogue
with all its blocks through ends as its place in the slice tree says. -/
theorem epilogueEventsComplete : Obligations.EpilogueEventsComplete := by
  unfold Obligations.EpilogueEventsComplete
  intro s sid t ht
  obtain rfl := sid_of_stepOf ht
  refine ⟨fun epi tok row node x y u v => ?_, fun epi e he hunfinished => ⟨fun tok blk roots u => ?_, fun u k => ?_, ?_⟩⟩
  · intro _ _ _ _ _ _ _ _ hruns hgo hkind hrow htok hstage hinner htree hhere hmissing hx hy
    have hdue : NodeDue s t epi tok row node := ⟨hgo, hkind, hrow, htok, hstage, hinner, htree, hhere, hmissing⟩
    rw [exec_confluenceAdd ht hruns]
    exact congrArg _ (byTurn_congr (hdue.addNode_eq hx hy) ..)
  · intro hruns hgo htok hblk hmissing hready hroots
    have hdue : BlockDue s t e epi tok blk := ⟨hgo, hunfinished, htok, hblk, hmissing, hready⟩
    rw [exec_epilogueBlock ht he hruns]
    exact congrArg _ (byTurn_congr (hdue.epiBlock_eq hroots) ..)
  · intro hworks hnoFault hthrough hroot _ _ _ _ _ hwrite
    exact AllThrough.exec_epilogueFinish_of_root ⟨ht, he, hworks, hnoFault, hunfinished, hthrough⟩ hroot hwrite
  · intro hworks hnoFault hthrough haxis hno
    exact AllThrough.exec_epilogueFinish_elsewhere ⟨ht, he, hworks, hnoFault, hunfinished, hthrough⟩ haxis hno

end Sys2Proof.Proofs
end

section
namespace Sys2Proof.Proofs
open Machine

/-! ### The status of a faulting step (R72, R150) -/

/-- Of the first two faults of a list, the later one goes on where it ranks before the other. -/
theorem worstStatus_cons_cons (f g : Flt) (l : List Flt) :
    worstStatus (f :: g :: l) = worstStatus ((if statusRank g.status < statusRank f.status then g else f) :: l) := by
  simp only [worstStatus, List.foldl_cons]
  split <;> rfl

theorem worstStatus_mem_and_first (f : Flt) (l : List Flt) : worstStatus (f :: l) ∈ (f :: l).map (·.status) ∧
    ∀ g ∈ f :: l, statusRank (worstStatus (f :: l)) ≤ statusRank g.status := by
  induction l generalizing f with
  | nil => simp [worstStatus]
  | cons g l ih =>
    rw [worstStatus_cons_cons]
    split
    case isTrue hlt =>
      obtain ⟨hmem, hfirst⟩ := ih g
      have hg := hfirst g List.mem_cons_self
      exact ⟨List.mem_cons_of_mem _ hmem, List.forall_mem_cons.2 ⟨hg.trans hlt.le, hfirst⟩⟩
    case isFalse hge =>
      obtain ⟨hmem, hfirst⟩ := ih f
      obtain ⟨hf, hl⟩ := List.forall_mem_cons.1 hfirst
      have hsub : (f :: l).map (·.status) ⊆ (f :: g :: l).map (·.status) :=
        List.map_subset _ (List.cons_subset_cons f (List.subset_cons_self g l))
      exact ⟨hsub hmem, List.forall_mem_cons.2 ⟨hf, List.forall_mem_cons.2 ⟨hf.trans (not_lt.1 hge), hl⟩⟩⟩

/-- The statuses that R150 orders, the first first. -/
def orderedStatuses : List Nat := [stIndexRange, stKvReadonly, stFormatInvalid, stCapViolation]

/-- The ranks of the whole machine keep the order of R150. -/
theorem idxOf_le_of_statusRank_le : ∀ x ∈ orderedStatuses, ∀ y ∈ orderedStatuses, statusRank x ≤ statusRank y →
    orderedStatuses.idxOf x ≤ orderedStatuses.idxOf y := by decide

/-- Settles O16: the status reported is one of those found and ranks first, by induction on the faults; and on the four statuses the
machine's ranks keep the order of R150. -/
theorem reportedStatusRanksFirst : Obligations.ReportedStatusRanksFirst := by
  unfold Obligations.ReportedStatusRanksFirst
  intro order l hne hin
  obtain ⟨f, l, rfl⟩ := List.exists_cons_of_ne_nil hne
  obtain ⟨hmem, hfirst⟩ := worstStatus_mem_and_first f l
  obtain ⟨w, hw, hstatus⟩ := List.mem_map.1 hmem
  have hworst : worstStatus (f :: l) ∈ orderedStatuses := hstatus ▸ hin w hw
  exact ⟨hmem, fun g hg => idxOf_le_of_statusRank_le _ hworst _ (hin g hg) (hfirst g hg)⟩

/-! ### The events of the millraces (R130 to R138, R146, R148) -/

/-- A free millrace of a step may take the attention descriptor's next unit: its request goes on. -/
structure UnitDue (s : State) (sid i mill : Nat) (t : Step) (a : AttCtx) : Prop where
  step : stepOf s sid = some t
  ctx : attOf t i = some a
  runs : stepRuns t = true
  goes : unitGoes t (uMill mill) = true
  inTribs : mill < (stepTribs s t).length
  free : (t.units.mills.any fun m => m.mill == mill) = false
  more : a.nextR < aReqs (descOf t i)
  ready : descReady s t i = true
  goesOn : a.poisoned.contains a.nextR = false

/-- The first unit of a head notes the pages selected for it, and counts the candidates and the chosen; that of a request sets its dKV
area to zero where no descriptor has added to it (R138 to R141, R343). -/
def selectHead (s : State) (t : Step) (sid i mill : Nat) (a : AttCtx) (cands chosen : Nat) (pages : List Nat) : State :=
  let u := setAtt s sid i fun a' => { a' with
    sel := a'.sel ++ [(a.nextR, a.nextH, mill, pages)], cands := a'.cands + cands, chosen := a'.chosen + chosen }
  let u := count (count u 1 (millTrib u t mill) 0 2 cands) 1 (millTrib u t mill) 0 3 chosen
  if a.nextH = 0 then zeroDkv u t i a.nextR else u

namespace UnitDue

variable {s : State} {sid i mill : Nat} {t : Step} {a : AttCtx} (h : UnitDue s sid i mill t a)
include h

theorem lookup : ((stepOf s sid).bind fun t => (attOf t i).map fun a => (t, a)) = some (t, a) := by
  simp [h.step, h.ctx]

theorem starts : (!stepRuns t || !unitGoes t (uMill mill) || (stepTribs s t).length ≤ mill ||
    (t.units.mills.any fun m => m.mill == mill) || aReqs (descOf t i) ≤ a.nextR || !descReady s t i) = false := by
  rw [h.free]
  simp [h.runs, h.goes, h.inTribs, h.more, h.ready]

theorem exec_millraceUnitStart_of_selected {x : Nat × Nat × Nat × List Nat}
    (hx : (a.sel.find? fun x => x.1 == a.nextR && x.2.1 == a.nextH) = some x) :
    exec (.millraceUnitStart sid i mill) s = .next (takeUnit s t i mill a.nextR a.nextH a.nextI x.2.2.2) := by
  have hrun : exec (.millraceUnitStart sid i mill) s = execMillraceUnitStart sid i mill s := rfl
  simp only [hrun, execMillraceUnitStart, h.lookup, h.starts, h.goesOn, hx, Bool.false_eq_true, if_false]

theorem exec_millraceUnitStart_of_unselected {ch : List Nat}
    (hx : (a.sel.find? fun x => x.1 == a.nextR && x.2.1 == a.nextH) = none)
    (hlist : listFault s t (descOf t i) (reqEnt s t (descOf t i) a.nextR) a.nextH = none)
    (hch : chosenPages t (descOf t i) i a.nextR a.nextH
      (candPages s t (descOf t i) (reqEnt s t (descOf t i) a.nextR) a.nextH) = some ch) :
    let e := reqEnt s t (descOf t i) a.nextR
    let pages := selectedPages s t (descOf t i) e a.nextH ch
    let u := selectHead s t sid i mill a (candPages s t (descOf t i) e a.nextH).length ch.length pages
    exec (.millraceUnitStart sid i mill) s =
      .next (takeUnit u ((stepOf u sid).getD t) i mill a.nextR a.nextH a.nextI pages) := by
  have hrun : exec (.millraceUnitStart sid i mill) s = execMillraceUnitStart sid i mill s := rfl
  simp only [hrun, execMillraceUnitStart, h.lookup, h.starts, h.goesOn, hx, hlist, hch, selectHead, Bool.false_eq_true, if_false]

end UnitDue

theorem exec_millraceTile {s : State} {sid mill : Nat} {t : Step} {m : Mill} (ht : stepOf s sid = some t)
    (hm : (t.units.mills.find? fun m => m.mill == mill) = some m) (hruns : stepRuns t = true)
    (hgo : unitGoes t (uMill mill) = true) :
    exec (.millraceTile sid mill) s = .next (byTurn s t ((stepTribs s t).getD mill 0) 0
      (millTiles s ((stepTribs s t).getD mill 0)) (millTile t m)) := by
  have hrun : exec (.millraceTile sid mill) s = execMillraceTile sid mill s := rfl
  simp [hrun, execMillraceTile, ht, hm, hruns, hgo]

/-- A row of a head whose pages are selected, not yet written, of a request that goes on: millrace `mill` merges its `n` ranges. -/
structure RowDue (s : State) (sid i r h row mill n : Nat) (t : Step) : Prop where
  step : stepOf s sid = some t
  ranges : headRanges t i r h = some (mill, n)
  runs : stepRuns t = true
  goes : unitGoes t (uMill mill) = true
  kind : kindOf (descOf t i) = 0x30
  unwritten : ((attOf t i).map fun a => a.poisoned.contains r || a.rowsDone.contains (r, h, row)) = some false

/-- A module with its value of a row: the first of the axis writes the row, another sends its value on (R146). -/
def passRow (u : State) (t : Step) (i axes axis r h row mill : Nat) (p : RowPart) : State :=
  if axisPos u t.basin axes axis = 0 then finishRow u t i r h row mill p else sendPart u t i r h row p

theorem RowDue.exec_rangeMerge {s : State} {sid i r h row mill n : Nat} {t : Step} (hdue : RowDue s sid i r h row mill n t)
    (node : CNode) {p : RowPart} :
    let u := mergeNode s t i r h row n node
    let t' := (stepOf u sid).getD t
    ownPart u t' i r h row n = some p →
    exec (.rangeMerge sid i r h row node) s =
      .next (passRow u t' i (attAxes (descOf t i)) (attAxis (descOf t i)) r h row mill p) := by
  intro u t' hp
  have hrun : exec (.rangeMerge sid i r h row node) s = execRangeMerge sid i r h row node s := rfl
  have hmerges : (!stepRuns t || kindOf (descOf t i) != 0x30 || !unitGoes t (uMill mill)) = false := by
    simp [hdue.runs, hdue.goes, hdue.kind]
  simp only [hrun, execRangeMerge, hdue.step, hdue.ranges, hdue.unwritten, hmerges, hp, passRow, u, t',
    Option.bind_some, Option.map_some, Option.getD_some, Bool.false_eq_true, if_false]
  split <;> rfl

/-! ### The streams of the riffle units (R163, R166) -/

theorem exec_riffleStream {s : State} {sid : Nat} {t : Step} (ht : stepOf s sid = some t) (hruns : stepRuns t = true)
    (i a b c d : Nat) :
    exec (.riffleStream sid i a b c d) s =
      .next (byTurn s t (unitTrib s t) 3 (streamTiles s (unitTrib s t)) (stream t i a b c d)) := by
  have hrun : exec (.riffleStream sid i a b c d) s = execRiffleStream sid i a b c d s := rfl
  simp only [hrun, execRiffleStream, ht, Option.filter_some_pos hruns]

theorem stream_of_attention {t : Step} {i : Nat} (hkind : kindOf (descOf t i) = 0x30) (a b c d : Nat) :
    stream t i a b c d = fun s => attStream s t i a b c d := by
  funext s
  exact if_pos hkind

theorem stream_of_weir {t : Step} {i : Nat} (hkind : kindOf (descOf t i) = 0x50) (a b c d : Nat) :
    stream t i a b c d = fun s => weirStream s t i a b := by
  funext s
  simp [stream, hkind]

/-! ### The passes of the weir (R169 to R181) -/

section Weir

variable {s u v z : State} {sid i : Nat} {t : Step} {w : WeirCtx}

theorem exec_weirRoute (hw : weirReady s sid i = some (t, w)) (hpass : wRoute (descOf t i) = true) :
    exec (.weirRoute sid i) s =
      .next (byTurn s t (unitTrib s t) 1 (weirTiles s (unitTrib s t)) (routeTok t i w)) := by
  have hrun : exec (.weirRoute sid i) s = .next (weirTurn s sid i true) := rfl
  have htok : weirTok t i w = routeTok t i w := by
    funext u
    exact if_pos hpass
  simp [hrun, weirTurn, hw, hpass, htok]

theorem exec_weirCombine (hw : weirReady s sid i = some (t, w)) (hpass : wRoute (descOf t i) = false) :
    exec (.weirCombine sid i) s =
      .next (byTurn s t (unitTrib s t) 1 (weirTiles s (unitTrib s t)) (combineNext t i w)) := by
  have hrun : exec (.weirCombine sid i) s = .next (weirTurn s sid i false) := rfl
  have htok : weirTok t i w = combineNext t i w := by
    funext u
    simp [weirTok, hpass]
  simp [hrun, weirTurn, hw, hpass, htok]

/-- The experts whose router rows a token reads: its shortlist, and the fallback with it (log entry 37). -/
def scoredExperts (d : BitVec 512) (short : List Nat) : List Nat := (short ++ (wFall d).toList).eraseDups

/-- A token whose shortlist is in is scored once its own row and the router's rows have been read. -/
theorem routeTok_of_unscored {short : List Nat} {rows : List (List Byte)} {rs : List (Nat × List Int × List Nat)}
    (hmore : w.scored.length < wToks (descOf t i)) (hshort : shortlist t i (descOf t i) w.scored.length = some short)
    (hscale : s8At (descOf t i) 96 112 = true) (hrows : tokenBytes s t i [w.scored.length] = .ok rows u)
    (hrouter : routerRows t (weirAcc u t i) i (headerAt s t (dfld (descOf t i) 192 239))
      (scoredExperts (descOf t i) short) u = .ok rs v) :
    routeTok t i w s = setWeir (endPiece v (weirAcc v t i)) t.sid i fun w => { w with
      scored := w.scored ++
        [scoreTok (descOf t i) (headerAt s t (dfld (descOf t i) 192 239)) rs (rows.headD []) short] } := by
  rw [scoredExperts] at hrouter
  simp only [routeTok, hmore, routeScore, hshort, hscale, hrows, hrouter, Bool.not_true, Bool.false_eq_true, if_true, if_false]

/-- With every token scored, the next token's outputs are written; the last one's take the end of the pass with them. -/
theorem routeTok_of_scored {k : Unit} (hall : wToks (descOf t i) ≤ w.scored.length) :
    let d := descOf t i
    let p := routePlan d w.scored
    let last := w.tok + 1 == wToks d
    wideWriteMany s (weirAcc s t i)
      (tokenOut d w.scored p w.tok ++ (if last then routeEnd d p w.estimated else [])) = .ok k u →
    routeTok t i w s = setWeir u t.sid i fun w => { w with tok := w.tok + 1, done := last } := by
  intro d p last hwrite
  have hno : ¬ w.scored.length < wToks d := hall.not_gt
  simp only [d, p, last] at hwrite hno ⊢
  simp only [routeTok, hno, routeWrite, hwrite, if_false]

/-- The place of a token's output row (R176). -/
def outRowAt (d : BitVec 512) (tok : Nat) : Nat := dfld d 448 495 + tok * dfld d 368 383 * 64

/-- The token of a combine pass is through. -/
def passToken (z : State) (t : Step) (i : Nat) (w : WeirCtx) : State :=
  setWeir z t.sid i fun x => { x with tok := w.tok + 1, done := w.tok + 1 = wToks (descOf t i) }

/-- The next token of a combine pass takes the row that its record tells, where the record names no fault. -/
theorem combineNext_of_row {ls : List (List Byte)} {row : List Byte} {k : Unit}
    (hread : wideHold s (weirAcc s t i) [(dfld (descOf t i) 384 431 + 32 * w.tok, 32)] = .ok ls u)
    (hnoFault : recordFault (descOf t i) (ls.headD []) = none)
    (hrow : combineTok u t i w.tok (routeOf (descOf t i) (ls.headD [])) = .ok row v)
    (hwrite : wideWrite v (weirAcc v t i) (outRowAt (descOf t i) w.tok) row = .ok k z) :
    combineNext t i w s = passToken z t i w := by
  rw [outRowAt] at hwrite
  simp only [combineNext, hread, hnoFault, hrow, hwrite, passToken]

theorem combineTok_of_skipped {r : WRoute} {n : Nat} {own : List (List Byte)} (hskip : r.skipped = true)
    (hown : tokenBytes u t i [n] = .ok own v) :
    combineTok u t i n r = .ok (skippedRow (descOf t i) (own.headD [])) v := by
  simp only [combineTok, hskip, hown, if_true]

theorem combineTok_of_held {r : WRoute} {ys : List (List Byte)} (hskip : r.skipped = false)
    (hys : wideHold u (weirAcc u t i) (r.items.map fun x =>
      (slotPlace (descOf t i) (dfld (descOf t i) 176 191) x.1 x.2.1, wYbytes (descOf t i))) = .ok ys v) (n : Nat) :
    combineTok u t i n r =
      .ok (combineRow (descOf t i) (combineSum (descOf t i) ((r.items.map (·.2.2)).zip ys))) v := by
  simp only [combineTok, hskip, hys, Bool.false_eq_true, if_false]

end Weir

/-! ### The loss gradient (R338, R339) -/

/-- What a loss descriptor reads: the student's logits and the teacher's at each position, and the labels where it has them. -/
def lossCuts (d : BitVec 512) : List (Nat × Nat) :=
  let toks := List.range (lToks d)
  toks.map (fun n => (dfld d 128 175 + n * dfld d 176 191 * 64, 4 * lVocab d)) ++
    toks.map (fun n => (dfld d 192 239 + n * dfld d 240 255 * 64, 4 * lVocab d)) ++
    (if bitAt d.toNat 9 then [(dfld d 320 367, 4 * lToks d)] else [])

/-- The labels among the bytes read, the last of them, where the descriptor has labels. -/
def lossLabels (d : BitVec 512) (ls : List (List Byte)) : List Nat :=
  if bitAt d.toNat 9 then (List.range (lToks d)).map fun n => ofLe (((ls.getLastD []).drop (4 * n)).take 4) else []

theorem exec_lossCompute {s u v : State} {sid i : Nat} {t : Step} {ls : List (List Byte)} {k : Unit}
    (ht : readyDesc s sid i 0x70 = some t) (hgo : unitGoes t uSteward = true)
    (hread : wideHold s (stewAcc s t i) (lossCuts (descOf t i)) = .ok ls u)
    (hlabels : ((lossLabels (descOf t i) ls).findIdx? fun x => lVocab (descOf t i) ≤ x) = none)
    (hwrite : wideWriteMany u (stewAcc s t i) (lossOut u t i (ls.take (lToks (descOf t i)))
      ((ls.drop (lToks (descOf t i))).take (lToks (descOf t i))) (lossLabels (descOf t i) ls)) = .ok k v) :
    exec (.lossCompute sid i) s = .next (setUnits v sid fun u => { u with losses := u.losses ++ [i] }) := by
  have hrun : exec (.lossCompute sid i) s = execLossCompute sid i s := rfl
  have hstep : ((readyDesc s sid i 0x70).filter fun t => unitGoes t uSteward) = some t := by
    rw [ht]
    exact Option.filter_some_pos hgo
  rw [lossCuts] at hread
  rw [lossLabels] at hlabels hwrite
  simp only [hrun, execLossCompute, hstep, hread, hlabels, hwrite]

/-! ### The accumulation of weight gradients (R346) -/

/-- The items whose records a tile adds up: those of its chunks of tokens. -/
def tileItems (d : BitVec 512) (rt ct : Nat) : List Nat := (List.range (mNk d)).map fun kc => (rt * mNtt d + ct) * mNk d + kc

/-- The rows of a tile, and its columns. -/
def tileRows (d : BitVec 512) (rt : Nat) : List Nat := List.range (min (tileNL (mCw d)) (mRows d - rt * tileNL (mCw d)))
def tileCols (d : BitVec 512) (ct : Nat) : Nat := min (tileC (mCw d)) (32 * mKlen d - ct * tileC (mCw d))

/-- The place of a tile's row in the area at GACC. -/
def gaccAt (d : BitVec 512) (rt ct l : Nat) : Nat :=
  dfld d 384 431 + (rt * tileNL (mCw d) + l) * dfld d 432 447 * 64 + 4 * (ct * tileC (mCw d))

/-- What a tile reads: its items' records, and what stands in GACC unless INIT is set. -/
def tileCuts (d : BitVec 512) (rt ct : Nat) : List (Nat × Nat) :=
  (tileItems d rt ct).map (fun k => (mPsum d + k * recSize, recSize)) ++
    (if bitAt d.toNat 10 then [] else (tileRows d rt).map fun l => (gaccAt d rt ct l, 4 * tileCols d ct))

/-- The adder at a tile. -/
def tileAccess (s : State) (t : Step) (d : BitVec 512) (i rt ct : Nat) : Acc3 :=
  { adderAcc s t d i ((tileItems d rt ct).headD 0) with task := [rt, ct] }

/-- A tile's new rows, each at its place, from what has been read. -/
def tileSums (d : BitVec 512) (rt ct : Nat) (ls : List (List Byte)) : List (Nat × List (BitVec 32)) :=
  (tileRows d rt).map fun l => (gaccAt d rt ct l, (List.range (tileCols d ct)).map fun k =>
    gradElem (tileC (mCw d)) l k (if bitAt d.toNat 10 then 0 else (f32sOf ((ls.drop (mNk d)).getD l [])).getD k 0) (ls.take (mNk d)))

/-- The bytes of a tile's new rows. -/
def tileBytes (d : BitVec 512) (rt ct : Nat) (ls : List (List Byte)) : List (Nat × List Byte) :=
  (tileSums d rt ct ls).map fun x => (x.1, f32Bytes x.2)

/-- A step keeps what a tile replaces, until the writing of the tile has begun (log entry 96). -/
def keepReplaced (u : State) (t : Step) (sid i : Nat) (a : Acc3) (out : List (Nat × List Byte)) : State :=
  let begun := t.units.pieces.any fun p => p.unit == a.unit && p.desc == i && p.task == a.task && p.isWrite
  setUnits u sid fun x => { x with before := x.before ++ (if begun then [] else bytesBefore u t out) }

/-- A tile is in GACC: it is noted with its infinities and NaNs, and the last one's status record follows. -/
def tileAdded (v : State) (sid i rt ct nonfinite : Nat) : State :=
  gradFinish (setMat v sid i fun m => { m with accDone := m.accDone ++ [(rt, ct)], nonfinite := m.nonfinite + nonfinite }) sid i

/-- A tile of a weight-gradient descriptor whose items have drained, not yet added. -/
structure TileDue (s : State) (sid i rt ct : Nat) (t : Step) (m : MatCtx) : Prop where
  step : runsDesc s sid i 0x11 = some t
  ctx : (t.units.mats.find? fun m => m.desc == i) = some m
  goes : unitGoes t uAdder = true
  inRows : rt < mNrt (descOf t i)
  inCols : ct < mNtt (descOf t i)
  drained : (tileItems (descOf t i) rt ct).all (itemDrained t i) = true
  missing : m.accDone.contains (rt, ct) = false

theorem TileDue.exec_gradientAccumulate {s u v : State} {sid i rt ct : Nat} {t : Step} {m : MatCtx} {ls : List (List Byte)} {k : Unit}
    (h : TileDue s sid i rt ct t m)
    (hread : wideHold s (tileAccess s t (descOf t i) i rt ct) (tileCuts (descOf t i) rt ct) = .ok ls u)
    (hwrite : wideWriteMany (keepReplaced u t sid i (tileAccess s t (descOf t i) i rt ct) (tileBytes (descOf t i) rt ct ls))
      (tileAccess s t (descOf t i) i rt ct) (tileBytes (descOf t i) rt ct ls) = .ok k v) :
    exec (.gradientAccumulate sid i rt ct) s =
      .next (tileAdded v sid i rt ct ((tileSums (descOf t i) rt ct ls).map fun x => (x.2.filter nonFinite).length).sum) := by
  have hrun : exec (.gradientAccumulate sid i rt ct) s = execGradientAccumulate sid i rt ct s := rfl
  have hadds : (!unitGoes t uAdder || mNrt (descOf t i) ≤ rt || mNtt (descOf t i) ≤ ct ||
      !(tileItems (descOf t i) rt ct).all (itemDrained t i)) = false := by
    rw [h.drained]
    simp [h.goes, h.inRows, h.inCols]
  rw [hrun, execGradientAccumulate]
  simp only [h.step, h.ctx, Option.bind_some, Option.map_some]
  refine (if_neg (Bool.eq_false_iff.1 hadds)).trans ((if_neg (Bool.eq_false_iff.1 h.missing)).trans ?_)
  split
  case h_1 hstop => cases hstop.symm.trans hread
  case h_2 hok =>
    cases hok.symm.trans hread
    split
    case h_1 hstop => cases hstop.symm.trans hwrite
    case h_2 hok' =>
      cases hok'.symm.trans hwrite
      rfl

/-- Settles O36: each event that is due does what its unit's function says, a tile, a stream and a token of the weir in the basin's
turn (`byTurn_congr` takes what the unit makes of the present state). -/
theorem attentionAndWeirEventsComplete : Obligations.AttentionAndWeirEventsComplete := by
  unfold Obligations.AttentionAndWeirEventsComplete
  intro s sid i t ht
  refine ⟨fun mill a x => ?_, fun mill a ch => ?_, fun mill m => ?_, fun r h row node a mill n p => ?_, fun a b c d hruns => ?_,
    fun w hw => ?_, fun ls u v k => ?_, fun rt ct m ls u v k => ?_⟩
  · intro hctx hruns hgo hin hfree hmore hready hgoesOn hsel
    exact UnitDue.exec_millraceUnitStart_of_selected ⟨ht, hctx, hruns, hgo, hin, hfree, hmore, hready, hgoesOn⟩ hsel
  · intro hctx hruns hgo hin hfree hmore hready hgoesOn hsel _ _ hlist hch
    exact UnitDue.exec_millraceUnitStart_of_unselected ⟨ht, hctx, hruns, hgo, hin, hfree, hmore, hready, hgoesOn⟩ hsel hlist hch
  · exact exec_millraceTile ht
  · intro hranges hruns hgo hkind hctx hgoesOn hmissing
    have hunwritten : ((attOf t i).map fun a => a.poisoned.contains r || a.rowsDone.contains (r, h, row)) = some false := by
      rw [hctx, Option.map_some, hgoesOn, hmissing, Bool.or_self]
    exact RowDue.exec_rangeMerge ⟨ht, hranges, hruns, hgo, hkind, hunwritten⟩ node
  · rw [exec_riffleStream ht hruns]
    exact ⟨fun hkind => by rw [stream_of_attention hkind], fun hkind => by rw [stream_of_weir hkind]⟩
  · refine ⟨fun short rows rs u v hpass hmore hshort hscale hrows hrouter => ?_, fun u k hpass hall hwrite => ?_,
      fun ls u hpass hread hnoFault => ?_⟩
    · rw [exec_weirRoute hw hpass]
      exact congrArg _ (byTurn_congr (routeTok_of_unscored hmore hshort hscale hrows hrouter) ..)
    · rw [exec_weirRoute hw hpass]
      exact congrArg _ (byTurn_congr (routeTok_of_scored hall hwrite) ..)
    · rw [exec_weirCombine hw hpass]
      refine ⟨fun own v k z hskip hown hput => ?_, fun ys v k z hskip hys hput => ?_⟩
      · exact congrArg _ (byTurn_congr (combineNext_of_row hread hnoFault (combineTok_of_skipped hskip hown) hput) ..)
      · exact congrArg _ (byTurn_congr (combineNext_of_row hread hnoFault (combineTok_of_held hskip hys w.tok) hput) ..)
  · intro hready hgo _ _ hread _ hlabels hwrite
    exact exec_lossCompute hready hgo hread hlabels hwrite
  · intro hruns hctx _ _ hgo hrt hct hdrained hmissing _ _ _ _ _ hread _ hwrite
    exact TileDue.exec_gradientAccumulate ⟨hruns, hctx, hgo, hrt, hct, hdrained, hmissing⟩ hread hwrite

end Sys2Proof.Proofs
end

section
namespace Sys2Proof.Proofs
open Machine Laws

/-! ### What every step keeps (R205, R206, R278, R363, R410) -/

/-- The state after reset is banked and its memory canonical: nothing is listed, and the banks by basin hold sixteen each. -/
theorem reset_kept : Kept State.reset State.reset where
  pending := rfl
  mem := memEmpty_wf
  links := List.length_replicate
  kvs := List.length_replicate

theorem kept_iff {s : State} : Kept s s ↔ s.memOk ∧ s.banked :=
  ⟨fun h => ⟨h.mem, h.links, h.kvs⟩, fun ⟨hmem, hlinks, hkvs⟩ => ⟨rfl, hmem, hlinks, hkvs⟩⟩

/-- Every command keeps the rest of the queue, the form of memory and the banks, by the law of its own meaning. -/
theorem exec_kept {s0 s : State} (c : Instr) (h : Kept s0 s) : KeptO s0 (exec c s) := by
  cases c with
  | modelCreate => exact execModelCreate_kept (hs1 := h) ..
  | modelSeal => exact execModelSeal_kept (hs1 := h) ..
  | sealVerifyComplete => exact execSealVerifyComplete_kept (hs1 := h) ..
  | modelDelete => exact execModelDelete_kept (hs1 := h) ..
  | modelQuery => exact execModelQuery_kept (hs1 := h) ..
  | modelProgram => exact execModelProgram_kept (hs1 := h) ..
  | modelRepair => exact execModelRepair_kept (hs1 := h) ..
  | variantCreate => exact execVariantCreate_kept (hs1 := h) ..
  | variantUpdate => exact execVariantUpdate_kept (hs1 := h) ..
  | deltaVerifyComplete => exact execDeltaVerifyComplete_kept (hs1 := h) ..
  | variantDelete => exact execVariantDelete_kept (hs1 := h) ..
  | variantRetireComplete => exact execVariantRetireComplete_kept (hs1 := h) ..
  | variantPin => exact execVariantPin_kept (hs1 := h) ..
  | variantQuery => exact execVariantQuery_kept (hs1 := h) ..
  | variantPrefetch => exact execVariantPrefetch_kept (hs1 := h) ..
  | materialisationStart => exact execMaterialisationStart_kept (hs1 := h) ..
  | materialisationComplete => exact execMaterialisationComplete_kept (hs1 := h) ..
  | reqSubmit => exact execReqSubmit_kept (hs1 := h) ..
  | reqCancel => exact execReqCancel_kept (hs1 := h) ..
  | reqQuery => exact execReqQuery_kept (hs1 := h) ..
  | reqGroup => exact execReqGroup_kept (hs1 := h) ..
  | kvConfigure => exact execKvConfigure_kept (hs1 := h) ..
  | kvQuery => exact execKvQuery_kept (hs1 := h) ..
  | kvResume => exact execKvResume_kept (hs1 := h) ..
  | kvDrop => exact execKvDrop_kept (hs1 := h) ..
  | kvPrefixFlush => exact execKvPrefixFlush_kept (hs1 := h) ..
  | kvStats => exact execKvStats_kept (hs1 := h) ..
  | trainCreate => exact execTrainCreate_kept (hs1 := h) ..
  | trainFeed => exact execTrainFeed_kept (hs1 := h) ..
  | trainStart => exact execTrainStart_kept (hs1 := h) ..
  | trainStop => exact execTrainStop_kept (hs1 := h) ..
  | trainQuery => exact execTrainQuery_kept (hs1 := h) ..
  | trainExport => exact execTrainExport_kept (hs1 := h) ..
  | trainDelete => exact execTrainDelete_kept (hs1 := h) ..
  | basinCreate => exact execBasinCreate_kept (hs1 := h) ..
  | basinDestroy => exact execBasinDestroy_kept (hs1 := h) ..
  | basinTeardownComplete => exact execBasinTeardownComplete_kept (hs1 := h) ..
  | teardownFlushExpiry => exact execTeardownFlushExpiry_kept (hs1 := h) ..
  | basinQuery => exact execBasinQuery_kept (hs1 := h) ..
  | basinQuota => exact execBasinQuota_kept (hs1 := h) ..
  | basinHosts => exact execBasinHosts_kept (hs1 := h) ..
  | basinMap => exact execBasinMap_kept (hs1 := h) ..
  | basinUnmap => exact execBasinUnmap_kept (hs1 := h) ..
  | basinPlace => exact execBasinPlace_kept (hs1 := h) ..
  | basinPageq => exact execBasinPageq_kept (hs1 := h) ..
  | basinRead => exact execBasinRead_kept (hs1 := h) ..
  | regRead => exact execRegRead_kept (hs1 := h) ..
  | regWrite => exact execRegWrite_kept (hs1 := h) ..
  | ethPortCtrlWrite => exact execEthPortCtrlWrite_kept (hs1 := h) ..
  | frdEnableWrite => exact execFrdEnableWrite_kept (hs1 := h) ..
  | frdRetrain => exact execFrdRetrain_kept (hs1 := h) ..
  | frdClrCnt => exact execFrdClrCnt_kept (hs1 := h) ..
  | restart => exact execRestart_kept (hs1 := h) ..
  | confirm => exact execConfirm_kept (hs1 := h) ..
  | stwBootCfgWrite => exact execStwBootCfgWrite_kept (hs1 := h) ..
  | pwrLimitCfgWrite => exact execPwrLimitCfgWrite_kept (hs1 := h) ..
  | testBist => exact execTestBist_kept (hs1 := h) ..
  | bistComplete => exact execBistComplete_kept (hs1 := h) ..
  | testResult => exact execTestResult_kept (hs1 := h) ..
  | testEcho => exact execTestEcho_kept (hs1 := h) ..
  | secAttest => exact execSecAttest_kept (hs1 := h) ..
  | secCerts => exact execSecCerts_kept (hs1 := h) ..
  | secFwUpdate => exact execSecFwUpdate_kept (hs1 := h) ..
  | cakInstall => exact execCakInstall_kept (hs1 := h) ..
  | sciBind => exact execSciBind_kept (hs1 := h) ..
  | sciUnbind => exact execSciUnbind_kept (hs1 := h) ..
  | secZeroize => exact execSecZeroize_kept (hs1 := h) ..
  | pwrStatus => exact execPwrStatus_kept (hs1 := h) ..
  | pwrDomain => exact execPwrDomain_kept (hs1 := h) ..
  | standby => exact execStandby_kept (hs1 := h) ..
  | pwrLimit => exact execPwrLimit_kept (hs1 := h) ..
  | pwrStoreQuery => exact execPwrStoreQuery_kept (hs1 := h) ..
  | pwrStoreSwap => exact execPwrStoreSwap_kept (hs1 := h) ..
  | linkTopology => exact execLinkTopology_kept (hs1 := h) ..
  | linkSliceBind => exact execLinkSliceBind_kept (hs1 := h) ..
  | linkSliceUnbind => exact execLinkSliceUnbind_kept (hs1 := h) ..
  | linkStatus => exact execLinkStatus_kept (hs1 := h) ..
  | logRead => exact execLogRead_kept (hs1 := h) ..
  | logFaults => exact execLogFaults_kept (hs1 := h) ..
  | logCounters => exact execLogCounters_kept (hs1 := h) ..
  | logSubscribe => exact execLogSubscribe_kept (hs1 := h) ..
  | woreoSegmentReceive => exact execWoreoSegmentReceive_kept (hs1 := h) ..
  | syn => exact execSyn_kept (hs1 := h) ..
  | rtoExpiry => exact execRtoExpiry_kept (hs1 := h) ..
  | ackDelayExpiry => exact execAckDelayExpiry_kept (hs1 := h) ..
  | evtCoalesceExpiry => exact execEvtCoalesceExpiry_kept (hs1 := h) ..
  | dataWriteResume => exact execDataWriteResume_kept (hs1 := h) ..
  | queueRoomReturn => exact execQueueRoomReturn_kept (hs1 := h) ..
  | tokSent => exact execTokSent_kept (hs1 := h) ..
  | arpRequest => exact execArpRequest_kept (hs1 := h) ..
  | neighbourSolicitation => exact execNeighbourSolicitation_kept (hs1 := h) ..
  | icmpEcho => exact execIcmpEcho_kept (hs1 := h) ..
  | ptpMessage => exact execPtpMessage_kept (hs1 := h) ..
  | mkaFrame => exact execMkaFrame_kept (hs1 := h) ..
  | ethLink => exact execEthLink_kept (hs1 := h) ..
  | batchForm => exact execBatchForm_kept (hs1 := h) ..
  | stepBind => exact execStepBind_kept (hs1 := h) ..
  | stepBoundary => exact execStepBoundary_kept (hs1 := h) ..
  | offstepSettle => exact execOffstepSettle_kept (hs1 := h) ..
  | itemPrologue => exact execItemPrologue_kept (hs1 := h) ..
  | windowLoad => exact execWindowLoad_kept (hs1 := h) ..
  | decoderRead => exact execDecoderRead_kept (hs1 := h) ..
  | laneBeat => exact execLaneBeat_kept (hs1 := h) ..
  | itemJoin => exact execItemJoin_kept (hs1 := h) ..
  | drainComplete => exact execDrainComplete_kept (hs1 := h) ..
  | stepFault => exact execStepFault_kept (hs1 := h) ..
  | confluenceAdd => exact execConfluenceAdd_kept (hs1 := h) ..
  | epilogueBlock => exact execEpilogueBlock_kept (hs1 := h) ..
  | epilogueFinish => exact execEpilogueFinish_kept (hs1 := h) ..
  | millraceUnitStart => exact execMillraceUnitStart_kept (hs1 := h) ..
  | riffleStream => exact execRiffleStream_kept (hs1 := h) ..
  | millraceTile => exact execMillraceTile_kept (hs1 := h) ..
  | rangeMerge => exact execRangeMerge_kept (hs1 := h) ..
  | weirRoute => exact execWeirRoute_kept (hs1 := h) ..
  | weirCombine => exact execWeirCombine_kept (hs1 := h) ..
  | lossCompute => exact execLossCompute_kept (hs1 := h) ..
  | gradientAccumulate => exact execGradientAccumulate_kept (hs1 := h) ..
  | eddyWrite => exact execEddyWrite_kept (hs1 := h) ..
  | eddyRead => exact execEddyRead_kept (hs1 := h) ..
  | eddyAccessResume => exact execEddyAccessResume_kept (hs1 := h) ..
  | eddyWatchdogExpiry => exact execEddyWatchdogExpiry_kept (hs1 := h) ..
  | windowTransferReceive => exact execWindowTransferReceive_kept (hs1 := h) ..
  | jobKill => exact execJobKill_kept (hs1 := h) ..
  | granuleClearComplete => exact execGranuleClearComplete_kept (hs1 := h) ..
  | jobCleared => exact execJobCleared_kept (hs1 := h) ..
  | pageMoveStart => exact execPageMoveStart_kept (hs1 := h) ..
  | pageMoveComplete => exact execPageMoveComplete_kept (hs1 := h) ..
  | pageCopy => exact execPageCopy_kept (hs1 := h) ..
  | hbmReclaim => exact execHbmReclaim_kept (hs1 := h) ..
  | uncorrectableError => exact execUncorrectableError_kept (hs1 := h) ..
  | modelHomeRepair => exact execModelHomeRepair_kept (hs1 := h) ..
  | refetchTimer => exact execRefetchTimer_kept (hs1 := h) ..
  | correctedError => exact execCorrectedError_kept (hs1 := h) ..
  | scrubRead => exact execScrubRead_kept (hs1 := h) ..
  | memLendReclaim => exact execMemLendReclaim_kept (hs1 := h) ..
  | lendReclaimExpiry => exact execLendReclaimExpiry_kept (hs1 := h) ..
  | kvTtlCheck => exact execKvTtlCheck_kept (hs1 := h) ..
  | runnelMessage => exact execRunnelMessage_kept (hs1 := h) ..
  | doorbellRing sender basin job endpoint mask => exact execDoorbellRing_kept sender basin job endpoint mask s h
  | runnelHoldExpiry => exact execRunnelHoldExpiry_kept (hs1 := h) ..
  | domainWake => exact execDomainWake_kept (hs1 := h) ..
  | domainWakeComplete => exact execDomainWakeComplete_kept (hs1 := h) ..
  | domainFault => exact execDomainFault_kept (hs1 := h) ..
  | autoIdleExpiry => exact execAutoIdleExpiry_kept (hs1 := h) ..
  | standbyWakeTimer => exact execStandbyWakeTimer_kept (hs1 := h) ..
  | fordTrain => exact execFordTrain_kept (hs1 := h) ..
  | fordTrainRetry => exact execFordTrainRetry_kept (hs1 := h) ..
  | identityFrame => exact execIdentityFrame_kept (hs1 := h) ..
  | heartbeatSend => exact execHeartbeatSend_kept (hs1 := h) ..
  | flitReceive => exact execFlitReceive_kept (hs1 := h) ..
  | fordLostTimeout => exact execFordLostTimeout_kept (hs1 := h) ..
  | moduleLostTimeout => exact execModuleLostTimeout_kept (hs1 := h) ..
  | sliceReadyReceive => exact execSliceReadyReceive_kept (hs1 := h) ..
  | sliceGoReceive => exact execSliceGoReceive_kept (hs1 := h) ..
  | sliceBindTimeout => exact execSliceBindTimeout_kept (hs1 := h) ..
  | sliceJoinTimeout => exact execSliceJoinTimeout_kept (hs1 := h) ..
  | sliceStopReceive => exact execSliceStopReceive_kept (hs1 := h) ..
  | vcoreDip => exact execVcoreDip_kept (hs1 := h) ..
  | pwrClear => exact execPwrClear_kept (hs1 := h) ..
  | brownout => exact execBrownout_kept (hs1 := h) ..
  | brownoutRecovery => exact execBrownoutRecovery_kept (hs1 := h) ..
  | railFault => exact execRailFault_kept (hs1 := h) ..
  | railWarn => exact execRailWarn_kept (hs1 := h) ..
  | vserRecovery => exact execVserRecovery_kept (hs1 := h) ..
  | powerSample => exact execPowerSample_kept (hs1 := h) ..
  | limiterStep => exact execLimiterStep_kept (hs1 := h) ..
  | thermalLoop => exact execThermalLoop_kept (hs1 := h) ..
  | sensorRead => exact execSensorRead_kept (hs1 := h) ..
  | sensorCheck => exact execSensorCheck_kept (hs1 := h) ..
  | sensorBusFault => exact execSensorBusFault_kept (hs1 := h) ..
  | sensorBusRetry => exact execSensorBusRetry_kept (hs1 := h) ..
  | inputReversed => exact execInputReversed_kept (hs1 := h) ..
  | inputLow => exact execInputLow_kept (hs1 := h) ..
  | inputUndervoltage => exact execInputUndervoltage_kept (hs1 := h) ..
  | inputHigh => exact execInputHigh_kept (hs1 := h) ..
  | inputOvervoltage => exact execInputOvervoltage_kept (hs1 := h) ..
  | senseMate => exact execSenseMate_kept (hs1 := h) ..
  | senseBreak => exact execSenseBreak_kept (hs1 := h) ..
  | powerOn => exact execPowerOn_kept (hs1 := h) ..
  | memoryInitComplete => exact execMemoryInitComplete_kept (hs1 := h) ..
  | ptpWaitExpiry => exact execPtpWaitExpiry_kept (hs1 := h) ..
  | bootReady => exact execBootReady_kept (hs1 := h) ..
  | confirmTimeout => exact execConfirmTimeout_kept (hs1 := h) ..
  | sp0WatchdogExpiry => exact execSp0WatchdogExpiry_kept (hs1 := h) ..
  | moduleRestart => exact execModuleRestart_kept (hs1 := h) ..
  | modReset => exact execModReset_kept (hs1 := h) ..
  | storeWrite => exact execStoreWrite_kept (hs1 := h) ..
  | storeEraseComplete => exact execStoreEraseComplete_kept (hs1 := h) ..
  | selftestPeriodic => exact execSelftestPeriodic_kept (hs1 := h) ..
  | entropyHealthFail => exact execEntropyHealthFail_kept (hs1 := h) ..
  | drbgReseed => exact execDrbgReseed_kept (hs1 := h) ..
  | counterFold => exact execCounterFold_kept (hs1 := h) ..
  | mgStatus => exact execMgStatus_kept (hs1 := h) ..
  | mgSensors => exact execMgSensors_kept (hs1 := h) ..
  | mgEvents => exact execMgEvents_kept (hs1 := h) ..
  | mgFaults => exact execMgFaults_kept (hs1 := h) ..
  | mgSelftest => exact execMgSelftest_kept (hs1 := h) ..
  | mgRestart => exact execMgRestart_kept (hs1 := h) ..
  | mgWake => exact execMgWake_kept (hs1 := h) ..
  | mgAdminHosts => exact execMgAdminHosts_kept (hs1 := h) ..
  | mgAdminHostsTimeout => exact execMgAdminHostsTimeout_kept (hs1 := h) ..
  | mgAdminMove => exact execMgAdminMove_kept (hs1 := h) ..
  | mgImage => exact execMgImage_kept (hs1 := h) ..
  | mgImageCommit => exact execMgImageCommit_kept (hs1 := h) ..
  | mgBusTimeout => exact execMgBusTimeout_kept (hs1 := h) ..
  | bypass => exact execBypass_kept (hs1 := h) ..
  | idcode => exact execIdcode_kept (hs1 := h) ..
  | samplePreload => exact execSamplePreload_kept (hs1 := h) ..
  | extest => exact execExtest_kept (hs1 := h) ..
  | clamp => exact execClamp_kept (hs1 := h) ..
  | highz => exact execHighz_kept (hs1 := h) ..
  | extestPulse => exact execExtestPulse_kept (hs1 := h) ..
  | extestTrain => exact execExtestTrain_kept (hs1 := h) ..
  | tagExpiry => exact execTagExpiry_kept (hs1 := h) ..
  | tierPageClearComplete => exact execTierPageClearComplete_kept (hs1 := h) ..
  | windowCloseComplete => exact execWindowCloseComplete_kept (hs1 := h) ..
  | ptpTransmitterLost => exact execPtpTransmitterLost_kept (hs1 := h) ..
  | domainOffComplete => exact execDomainOffComplete_kept (hs1 := h) ..
  | vcoreReturn => exact execVcoreReturn_kept (hs1 := h) ..
  | vauxRecovery => exact execVauxRecovery_kept (hs1 := h) ..
  | sliceDeclareReceive ford sliceId ox oy oz lx ly lz minor =>
    exact execSliceDeclareReceive_kept ford sliceId ox oy oz lx ly lz minor s h
  | shadowStateSet => exact execShadowStateSet_kept (hs1 := h) ..
  | fwSlotWriteComplete => exact execFwSlotWriteComplete_kept (hs1 := h) ..
  | addressResolutionReply => exact execAddressResolutionReply_kept (hs1 := h) ..

theorem step_of_command {s : State} {c : Instr} {rest : List Instr} (hqueue : s.pending = c :: rest) :
    step s = exec c { s with pending := rest } := by
  simp [step, hqueue]

/-- A step keeps, of the state whose front command is taken, what its command keeps, or the tick. -/
theorem step_kept {s : State} (h : Kept s s) : KeptO { s with pending := s.pending.tail } (step s) := by
  cases hqueue : s.pending with
  | nil =>
    rw [step_of_no_command hqueue]
    exact tick_kept s { h with pending := hqueue }
  | cons c rest =>
    rw [step_of_command hqueue]
    exact exec_kept c { h with pending := rfl }

/-- Settles O4. -/
theorem resetKeepsInvariants : Obligations.ResetKeepsInvariants := kept_iff.1 reset_kept

/-- Settles O5, by cases on the queue: each command and the tick keep their invariants (`exec_kept`, `tick_kept`). -/
theorem everyStepKeepsMemoryAndBanks : Obligations.EveryStepKeepsMemoryAndBanks := by
  unfold Obligations.EveryStepKeepsMemoryAndBanks
  intro s t hmem hbanked hstep
  have hkept := step_kept (kept_iff.2 ⟨hmem, hbanked⟩)
  rw [hstep] at hkept
  obtain ⟨hpending, hwf, hlinks, hkvs⟩ := hkept
  exact ⟨hwf, ⟨hlinks, hkvs⟩, hpending⟩

end Sys2Proof.Proofs
end

section
namespace Sys2Proof.Proofs
open Machine

/-! ### The events of the eddies (R189, R190, R197, R198) -/

section EddyEvents

variable {s : State} {sid eid unit off : Nat} {t : Step} {e : Eddy} (ht : stepOf s sid = some t) (he : eddyOf t eid = some e)
include ht he

/-- What every event of an eddy looks up first. -/
theorem eddyLookup : ((stepOf s sid).bind fun t => (eddyOf t eid).map fun e => (t, e)) = some (t, e) := by simp [ht, he]

/-- A unit that does not wait there already has its access to a slot. -/
theorem eddyCmd_eq {isWrite : Bool} {data : List Byte} (hworks : stepWorks t = true) (hin : off < eddySpan (descOf t e.desc))
    (hfree : (e.stalls.any fun y => y.unit == unit && y.off == off / 64 && y.isWrite == isWrite) = false) :
    eddyCmd sid eid unit off isWrite data s = .next (eddyAccess s t e unit off isWrite data) := by
  have hgoes : (!stepWorks t || eddySpan (descOf t e.desc) ≤ off ||
      e.stalls.any fun y => y.unit == unit && y.off == off / 64 && y.isWrite == isWrite) = false := by
    rw [hworks, hfree, decide_eq_false hin.not_ge]
    rfl
  simp only [eddyCmd, eddyLookup ht he, hgoes, Bool.false_eq_true, if_false]

theorem exec_eddyAccessResume :
    exec (.eddyAccessResume sid eid) s = .next (finishRecords (serveTransfers (resumeStalls sid eid e.stalls s)) sid) := by
  have hrun : exec (.eddyAccessResume sid eid) s = execEddyAccessResume sid eid s := rfl
  simp only [hrun, execEddyAccessResume, eddyLookup ht he]

/-- The watchdog has counted to its limit: the step takes the fault that EDDY.STALL reports, and its job ends. -/
theorem exec_eddyWatchdogExpiry (hworks : stepWorks t = true) (hheld : t.held = false) (hstalls : e.stalls ≠ [])
    (hdue : wdogLimit (descOf t e.desc) < wdogCount s.now e) :
    let d := descOf t e.desc
    let src := stepSteward s t
    let u := raise s src evEddyStall
      [e.eid, dfld d 304 319, eddyHead e, eddyTail e, (e.stalls.head?.map fun y => y.unit % 16).getD 0] [t.basin]
    let f : Flt := { status := stEddyStall, src := src, desc := e.desc, tag := dfld d 304 319, aux := e.eid,
                     arg0 := eddyHead e, arg1 := eddyTail e }
    exec (.eddyWatchdogExpiry sid eid) s = .next (endJob (setStep (stepFlt u t f) sid fun t => { t with
      status := worstStatus t.faults }) t.basin t.job stEddyStall) := by
  have hrun : exec (.eddyWatchdogExpiry sid eid) s = execEddyWatchdogExpiry sid eid s := rfl
  have hgoes : (!stepWorks t || t.held || e.stalls.isEmpty || wdogCount s.now e ≤ wdogLimit (descOf t e.desc)) = false := by
    simp [hworks, hheld, hstalls, hdue]
  simp only [hrun, execEddyWatchdogExpiry, eddyLookup ht he, hgoes, Bool.false_eq_true, if_false]

end EddyEvents

/-! ### A transfer at a window (R201, R202, R437) -/

section WindowTransfer

variable {s : State} {ford sx sy sz b job wid roff len : Nat} {isRead : Bool} {data : List Byte}
  {part : Option (Nat × Nat × Nat)} {credits : List (Nat × Nat)}

/-- A transfer that fails a check answers its sender and is reported. -/
theorem takeTransfer_of_refused {c : Nat} (hcheck : windowCheck s sx sy sz b job wid part isRead roff len = some c) :
    takeTransfer ford sx sy sz b job wid isRead roff len data part credits s =
      raise (sendUnits (giveCredits s 2 credits) b part [.refuse sx sy sz wid]) (srcFord ford) evWindowRefused
        [wid, sx + 16 * sy + 256 * sz, c] [b] := by
  simp only [takeTransfer, hcheck]

/-- A transfer that passes the checks is accepted at the window that it names. -/
theorem takeTransfer_of_passed {w : Window} (hcheck : windowCheck s sx sy sz b job wid part isRead roff len = none)
    (hnamed : windowNamed s b job wid part = some w) :
    takeTransfer ford sx sy sz b job wid isRead roff len data part credits s = acceptWindow s
      { basin := b, job := w.job, wid := wid, x := sx, y := sy, z := sz, isRead := isRead, addr := w.lbase + 64 * roff, roff := roff,
        left := len, data := data.take (64 * len), part := part, chan := 2, credits := credits } := by
  simp only [takeTransfer, hcheck, hnamed]

/-- What a transfer does in its turn (R437): it is taken, kept for the next step, or a link error. -/
def inTurn (u : State) (ford : Nat) (taken kept : State) : UnitTurn → State
  | .now => taken
  | .later => kept
  | .bad => faultAtFord u ford 3

variable (hford : ford < 48) (hup : (fordOf s ford).state = 9)
include hford hup

/-- A transfer over a ford that is up is taken at once without a slice, else in its turn. -/
theorem exec_windowTransferReceive :
    exec (.windowTransferReceive ford sx sy sz b job wid isRead roff len data part) s =
      let u := heardFord s ford
      let taken := takeTransfer ford sx sy sz b job wid isRead roff len data part [] u
      .next ((sliceAtFord u ford).elim taken fun x => inTurn u ford taken
        (receiveUnit u x { slice := swId x.word, chan := 2, src := (sx, sy, sz), dst := ownPlace u x }
          { seq := 0, flits := 0, ford := ford, job := part, unit := .transfer job wid isRead roff len data })
        (turnOf x part (.transfer job wid isRead roff len data))) := by
  have hrun : exec (.windowTransferReceive ford sx sy sz b job wid isRead roff len data part) s =
    execWindowTransferReceive ford sx sy sz b job wid isRead roff len data part s := rfl
  have hgoes : (!decide (ford < 48) || (fordOf s ford).state != 9) = false := by simp [hford, hup]
  rw [hrun, execWindowTransferReceive, hgoes]
  dsimp only
  cases sliceAtFord (heardFord s ford) ford with
  | none => rfl
  | some x =>
    dsimp only [Option.elim_some]
    cases turnOf x part (.transfer job wid isRead roff len data) <;> rfl

/-- A transfer that belongs to no slice, or whose turn it is, is taken at once. -/
theorem exec_windowTransferReceive_of_now
    (hnow : ∀ x, sliceAtFord (heardFord s ford) ford = some x → turnOf x part (.transfer job wid isRead roff len data) = .now) :
    exec (.windowTransferReceive ford sx sy sz b job wid isRead roff len data part) s =
      .next (takeTransfer ford sx sy sz b job wid isRead roff len data part [] (heardFord s ford)) := by
  simp only [exec_windowTransferReceive hford hup]
  cases hslice : sliceAtFord (heardFord s ford) ford with
  | none => rfl
  | some x => simp only [Option.elim_some, hnow x hslice, inTurn]

end WindowTransfer

/-- Settles O37: the accesses, the resumption and the watchdog of an eddy by their own lemmas, and a transfer by its turn and its checks. -/
theorem eddyAndWindowEventsComplete : Obligations.EddyAndWindowEventsComplete := by
  unfold Obligations.EddyAndWindowEventsComplete
  intro s sid eid t e ht he
  refine ⟨fun unit off data hworks hin => ⟨eddyCmd_eq ht he hworks hin, eddyCmd_eq ht he hworks hin⟩, exec_eddyAccessResume ht he,
    exec_eddyWatchdogExpiry ht he, fun ford sx sy sz b job wid isRead roff len data part hford hup =>
      ⟨fun x hslice hturn => ?_, fun x hslice hturn => ?_, fun hnow => ⟨fun c hcheck => ?_, fun w hcheck hnamed => ?_⟩⟩⟩
  · simp only [exec_windowTransferReceive hford hup, hslice, Option.elim_some, hturn, inTurn]
  · simp only [exec_windowTransferReceive hford hup, hslice, Option.elim_some, hturn, inTurn]
  · rw [exec_windowTransferReceive_of_now hford hup hnow, takeTransfer_of_refused hcheck]
  · rw [exec_windowTransferReceive_of_now hford hup hnow, takeTransfer_of_passed hcheck hnamed]

end Sys2Proof.Proofs
end

section
namespace Sys2Proof.Proofs
open Machine

/-! ### The clearing of a granule (R185, R205, R206, R208) -/

/-- The time at which a granule is through, at the job that it was cleared for (R210 step 7). -/
def clearNoted (s : State) (g : Nat) : State :=
  setJob s (granOf s g).basin (granOf s g).job fun j => { j with lastClear := s.now }

/-- The granule's bytes are erased (R206). -/
def granErased (s : State) (g : Nat) : State := { clearNoted s g with mem := memClear s.mem (granAt g) 65536 }

/-- The live job that holds a granule, or that it was assigned to while it was cleared (R185). -/
def granHolder (s : State) (g : Nat) : Option Job :=
  (clearNoted s g).pools.jobs.find? fun j => jobLive j && (jobGrans j).contains g

/-- A cleared granule is OWNED by the job that holds it, else FREE (R185). -/
def granHanded (s : State) (g : Nat) : Option Job → State
  | some j => setGran (granErased s g) g .owned j.basin j.num
  | none => setGran (granErased s g) g .free 0 0

/-- A granule that fails its verification is FENCED, reported and recorded (R208). -/
def granFailed (s : State) (g : Nat) : State :=
  let own := if (granOf s g).job = 0 then [] else [(granOf s g).basin]
  let f := raise (fenceGran (clearNoted s g) g) (poolSrc (poolOf g)) evPoolClearFail [poolOf g, g - (poolGrans (poolOf g)).headD 0] own
  otherFaultRecord f 2 (poolSrc (poolOf g)) 0 own.head? (granOf s g).job (poolDomain (poolOf g)) g 0 0

section GranuleClearing

variable {s : State} {g : Nat} (hst : (granOf s g).state = .clearing) (hon : (s.pwr.doms.getD (poolDomain (poolOf g)) {}).state = 2)
include hst hon

theorem exec_granuleClearComplete_verified : exec (.granuleClearComplete g true) s =
    .next (dropClosedJob (granHanded s g (granHolder s g)) (granOf s g).basin (granOf s g).job) := by
  have hrun : exec (.granuleClearComplete g true) s = execGranuleClearComplete g true s := rfl
  have hgoes : ((granOf s g).state != .clearing || (s.pwr.doms.getD (poolDomain (poolOf g)) {}).state != 2) = false := by
    rw [hst, hon]; rfl
  rw [hrun, execGranuleClearComplete, hgoes]
  change (match granHolder s g with | some j => _ | none => _) = _
  cases granHolder s g <;> rfl

theorem exec_granuleClearComplete_failed : exec (.granuleClearComplete g false) s =
    .next (dropClosedJob (if poolOf g < 256 then fenceReach (granFailed s g) (poolOf g) 1 else storeFences (granFailed s g))
      (granOf s g).basin (granOf s g).job) := by
  have hrun : exec (.granuleClearComplete g false) s = execGranuleClearComplete g false s := rfl
  have hgoes : ((granOf s g).state != .clearing || (s.pwr.doms.getD (poolDomain (poolOf g)) {}).state != 2) = false := by
    rw [hst, hon]; rfl
  rw [hrun, execGranuleClearComplete, hgoes]
  rfl

end GranuleClearing

/-! ### The bytes that a clearing erases (R205, R206) -/

/-- States with one core have one memory: the core leaves out traffic only. -/
theorem mem_of_core {s t : State} (h : t.core = s.core) : t.mem = s.mem := by
  have hmem := congrArg State.mem h
  exact hmem

theorem foldl_mem {α : Type} {f : State → α → State} (hf : ∀ s x, (f s x).mem = s.mem) (l : List α) (s : State) :
    (l.foldl f s).mem = s.mem := by
  induction l generalizing s with
  | nil => rfl
  | cons x l ih => rw [List.foldl_cons, ih, hf]

theorem countRetired_mem (s : State) (tier : Nat) : (countRetired s tier).mem = s.mem := by
  unfold countRetired
  split <;> exact foldl_mem (fun s i => mem_of_core (Laws.count_core ..)) ..

theorem retireFrame_mem (s : State) (tier f cause : Nat) : (retireFrame s tier f cause).mem = s.mem := by
  unfold retireFrame
  split
  · rfl
  · rw [mem_of_core (Laws.otherFaultRecord_core ..), mem_of_core (Laws.raiseTrunk_core ..), countRetired_mem,
      mem_of_core (Laws.storeAsk_core ..)]

theorem retireFree_mem (s : State) : (retireFree s).mem = s.mem :=
  foldl_mem (fun s x => by split; exacts [rfl, retireFrame_mem ..]) ..

theorem lendCleared_mem (s : State) : (lendCleared s).mem = s.mem :=
  foldl_mem (fun s l => by split; exacts [rfl, by simp]) ..

/-- A frame of no KV page that has been cleared is free, whichever page it held, unless it is to be retired. -/
theorem exec_tierPageClearComplete_of_frame {s : State} {tier f : Nat} {pl : Place} {c : FrameClear}
    (hpl : (tier = 1 ∧ pl = .hbm f) ∨ (tier = 2 ∧ pl = .lpx f))
    (hc : (s.tiers.clearing.find? fun c => c.tier == tier && c.frame == f) = some c)
    (hkv : (s.tiers.pages.find? fun e => e.kind == .kv && e.homeT == tier && e.homeLoc == f) = none) :
    exec (.tierPageClearComplete pl true) s = .next (retireFree (lendCleared (dropDeleted { s with
      tiers := { s.tiers with clearing := dropW (fun c => c.tier == tier && c.frame == f) s.tiers.clearing }
      mem := memClear s.mem (frameAt tier f) 4096 }))) := by
  have hrun : exec (.tierPageClearComplete pl true) s = execTierPageClearComplete pl true s := rfl
  obtain ⟨rfl, rfl⟩ | ⟨rfl, rfl⟩ := hpl <;> cases hpage : c.page <;> simp [hrun, execTierPageClearComplete, hc, hkv, hpage]

/-- The clearing of a frame of no KV page erases the frame's bytes and no others. -/
theorem memGet_exec_tierPageClearComplete {s : State} {tier f : Nat} (htier : tier = 1 ∨ tier = 2)
    (hc : (s.tiers.clearing.any fun c => c.tier == tier && c.frame == f) = true)
    (hkv : (s.tiers.pages.find? fun e => e.kind == .kv && e.homeT == tier && e.homeLoc == f) = none) :
    ∃ t, exec (.tierPageClearComplete (if tier = 1 then .hbm f else .lpx f) true) s = .next t ∧
      ∀ a, memGet t.mem a = if frameAt tier f ≤ a ∧ a < frameAt tier f + 4096 then 0 else memGet s.mem a := by
  obtain ⟨c, hc⟩ := Option.isSome_iff_exists.1 (List.find?_isSome.2 (List.any_eq_true.1 hc))
  refine ⟨_, exec_tierPageClearComplete_of_frame (htier.imp ?_ ?_) hc hkv, fun a => ?_⟩
  · rintro rfl
    exact ⟨rfl, rfl⟩
  · rintro rfl
    exact ⟨rfl, rfl⟩
  · rw [retireFree_mem, lendCleared_mem]
    exact Laws.memGet_memClear ..

/-- Before the job that a granule was cleared for gives up its number, the granule's bytes are erased and no others. -/
theorem memGet_granHanded (s : State) (g : Nat) (j : Option Job) (a : Nat) :
    memGet (granHanded s g j).mem a = if granAt g ≤ a ∧ a < granAt g + 65536 then 0 else memGet s.mem a := by
  cases j <;> exact Laws.memGet_memClear ..

/-- A closed job of basin 1 whose last granule is cleared. It has named a poisoned page that is homed in lent memory, whose first byte
is 1. -/
def lastGranuleOfClosedJob : State :=
  setDom { State.reset with
    pools := { grans := [{ g := 0, state := .clearing, basin := 1, job := 1 }]
               jobs := [{ basin := 1, num := 1, cls := 0, gid := 0, closed := true, named := [0x40000] }] }
    tiers := { State.reset.tiers with pages := [{ basin := 1, page := 0x40000, kind := .work, homeT := 3, homeLoc := 0, poison := true }] }
    mem := [(placeAt 1 0x40000 3 0, 1)] } 0 fun x => { x with state := 2 }

theorem lastGranuleOfClosedJob_clears : (granOf lastGranuleOfClosedJob 0).state = .clearing ∧
    (lastGranuleOfClosedJob.pwr.doms.getD (poolDomain (poolOf 0)) {}).state = 2 := by decide +kernel

/-- The page lies outside the granule; its byte is 1 before the clearing completes, and 0 after. -/
theorem lentByte_erased : granAt 0 + 65536 ≤ placeAt 1 0x40000 3 0 ∧
    memGet lastGranuleOfClosedJob.mem (placeAt 1 0x40000 3 0) = 1 ∧
    memGet (dropClosedJob (granHanded lastGranuleOfClosedJob 0 (granHolder lastGranuleOfClosedJob 0))
      (granOf lastGranuleOfClosedJob 0).basin (granOf lastGranuleOfClosedJob 0).job).mem (placeAt 1 0x40000 3 0) = 0 := by
  decide +kernel

/-- Refutes O23: the clearing of the last granule of a closed job gives up the job's number (R562) and frees the poisoned pages that the
job named (R236). Such a page homed in lent memory is erased with that, in the same step, and it lies outside the granule. The clearing of
a frame is as stated (`memGet_exec_tierPageClearComplete`), and so is that of a granule before its job is dropped (`memGet_granHanded`). -/
theorem not_clearingErasesExactlyItsBytes : ¬ Obligations.ClearingErasesExactlyItsBytes := by
  unfold Obligations.ClearingErasesExactlyItsBytes
  intro hall
  obtain ⟨hst, hon⟩ := lastGranuleOfClosedJob_clears
  obtain ⟨hoff, hbefore, hafter⟩ := lentByte_erased
  obtain ⟨t, hexec, hbytes⟩ := (hall lastGranuleOfClosedJob).1 0 hst hon
  rw [exec_granuleClearComplete_verified hst hon] at hexec
  obtain rfl := Host.Outcome.next.inj hexec
  have hbyte := hbytes (placeAt 1 0x40000 3 0)
  rw [if_neg fun hin => absurd hin.2 hoff.not_gt, hbefore, hafter] at hbyte
  exact absurd hbyte (by decide)

/-! ### The events of the jobs (R203, R210, R236, R562) -/

section JobEvents

variable {s : State} {b n : Nat} {j : Job} (hj : jobOf s b n = some j)
include hj

theorem exec_jobKill (hasked : j.killAsked = true) (hkilled : j.killed = none) : exec (.jobKill b n) s = .next (killJob s b n) := by
  have hrun : exec (.jobKill b n) s = execJobKill b n s := rfl
  simp [hrun, execJobKill, hj, hasked, hkilled]

theorem exec_jobCleared {t : Nat} (hkilled : j.killed = some t) (hheld : jobHeld s b n = []) (hwins : jobWindows s b n = []) :
    let u := freeNamed s j
    exec (.jobCleared b n) s = .next (raise { u with pools := { u.pools with
      jobs := dropW (fun j => j.basin == b && j.num == n) u.pools.jobs } } srcCore evJobCleared [n, max t j.lastClear - t] [b]) := by
  have hrun : exec (.jobCleared b n) s = execJobCleared b n s := rfl
  simp [hrun, execJobCleared, hj, hkilled, hheld, hwins]

end JobEvents

/-- A window that has closed is gone with the units that it has accepted, whose credits are returned (R203). -/
def windowGone (s : State) (b n wid : Nat) : State :=
  let unit (a : WinAcc) : Bool := a.basin == b && a.job == n && a.wid == wid
  let u := (s.pools.accepted.filter unit).foldl (fun s a => giveCredits s a.chan a.credits) s
  { u with pools := { u.pools with
    windows := dropW (fun w => w.basin == b && w.job == n && w.wid == wid && w.closing.isSome) s.pools.windows
    accepted := dropW unit u.pools.accepted } }

/-- A job with whose windows all its granules go: it is killed or closed, or a step of it has faulted. -/
def leavesAll (u : State) (b n : Nat) (j : Job) : Bool :=
  j.killed.isSome || j.closed || u.steps.any fun t => t.basin == b && t.job == n && t.stopped && !t.faults.isEmpty

/-- A window of a job is gone: what of the job's granules waited for that is cleared (R203). -/
def clearWaiting (u : State) (b n : Nat) (j : Job) : State :=
  if leavesAll u b n j then dropClosedJob (clearJob u b n) b n
  else if jobWindows u b n = [] then j.toClear.foldl clearGran (setJob u b n fun j => { j with toClear := [] })
  else u

theorem exec_windowCloseComplete {s : State} {b n wid : Nat}
    (hthrough : (s.pools.windows.any fun w => w.basin == b && w.job == n && w.wid == wid &&
      w.closing.any fun t => !windowBusy s b n wid || t + 10000 ≤ s.now) = true) :
    exec (.windowCloseComplete b n wid) s =
      .next ((jobOf (windowGone s b n wid) b n).elim (windowGone s b n wid) (clearWaiting (windowGone s b n wid) b n)) := by
  have hrun : exec (.windowCloseComplete b n wid) s = execWindowCloseComplete b n wid s := rfl
  rw [hrun, execWindowCloseComplete, hthrough, if_pos rfl]
  change (match jobOf (windowGone s b n wid) b n with | some j => _ | none => _) = _
  cases jobOf (windowGone s b n wid) b n with
  | none => rfl
  | some j =>
    change (if leavesAll (windowGone s b n wid) b n j = true then _
      else if (jobWindows (windowGone s b n wid) b n).isEmpty = true then _ else _) = _
    simp only [Option.elim_some, clearWaiting, List.isEmpty_iff]
    split_ifs <;> rfl

/-! ### The events of the runnels (R410 to R414) -/

section Arrival

variable {s : State} {sender b n : Nat} {x : Endpoint} {put : State → State}

theorem arriveAt_of_no_endpoint (h : endOf s n = none) : arriveAt s sender b n put = addRefused s := by simp [arriveAt, h]

theorem arriveAt_of_held (h : endOf s n = some x) (hheld : (domOf s (endDomain n)).state = 3) :
    arriveAt s sender b n put = addDropped s n := by
  simp [arriveAt, h, hheld]

theorem arriveAt_of_served (h : endOf s n = some x) (hserved : (domOf s (endDomain n)).state ≠ 3) :
    arriveAt s sender b n put = wakeEndpoint (put s) n sender b := by
  simp [arriveAt, h, hserved]

end Arrival

section RunnelEvents

variable {s : State} {sender b job e type len : Nat} {data : BitVec 352} {mask : BitVec 64}

/-- The endpoints of the hosts are 0x170 to 0x17F (R409). -/
theorem not_hostEnd_of_onDie (h : e < 0x170 ∨ 0x180 ≤ e) : (0x170 ≤ e && e < 0x180) = false := by
  simp; omega

theorem stampMsg_type (s : State) (sender b job type len : Nat) (data : BitVec 352) :
    (stampMsg s sender b job type len data).1.type = type := rfl

/-- What an endpoint on the die takes of a stamped message: TYPE 0xFFFF rings its doorbell (R413), else it is queued or held (R412). -/
def putStamped (m : RMsg) (e : Nat) (s : State) : State :=
  if m.type = 0xFFFF then ringBell s e (BitVec.ofNat 64 m.data.toNat) else putMsg s e m

theorem exec_runnelMessage_of_onDie (hend : e < 0x170 ∨ 0x180 ≤ e) :
    exec (.runnelMessage sender b job e type len data) s = .next (arriveAt (takeRseq s sender).2 sender b e
      (putStamped (stampMsg s sender b job type len data).1 e)) := by
  have hrun : exec (.runnelMessage sender b job e type len data) s = execRunnelMessage sender b job e type len data s := rfl
  rw [hrun, execRunnelMessage, stampMsg, not_hostEnd_of_onDie hend]
  by_cases hring : type = 0xFFFF <;> simp [arriveAt, putStamped, hring]

/-- A message for the host of its own basin is raised to that host. -/
theorem exec_runnelMessage_of_ownHost (hb : b < 16) (hmsg : type ≠ 0xFFFF) :
    exec (.runnelMessage sender b job (0x170 + b) type len data) s = .next (raise (takeRseq s sender).2 sender evRunnelMessage
      (msgWords (stampMsg s sender b job type len data).1) [b]) := by
  have hrun : exec (.runnelMessage sender b job (0x170 + b) type len data) s =
    execRunnelMessage sender b job (0x170 + b) type len data s := rfl
  have hhost : (0x170 ≤ 0x170 + b && 0x170 + b < 0x180) = true := by simp; omega
  rw [hrun, execRunnelMessage, stampMsg, hhost]
  simp [hmsg]

theorem exec_doorbellRing_of_onDie (hend : e < 0x170 ∨ 0x180 ≤ e) :
    exec (.doorbellRing sender b job e mask) s = .next (arriveAt (takeRseq s sender).2 sender b e fun s' => ringBell s' e mask) := by
  have hrun : exec (.doorbellRing sender b job e mask) s = execDoorbellRing sender b job e mask s := rfl
  rw [hrun, execDoorbellRing, stampMsg, not_hostEnd_of_onDie hend]
  rfl

theorem exec_doorbellRing_of_host (hend : 0x170 ≤ e ∧ e < 0x180) :
    exec (.doorbellRing sender b job e mask) s = .next (addRefused (takeRseq s sender).2) := by
  have hrun : exec (.doorbellRing sender b job e mask) s = execDoorbellRing sender b job e mask s := rfl
  have hhost : (0x170 ≤ e && e < 0x180) = true := by simpa using hend
  rw [hrun, execDoorbellRing, stampMsg, hhost]
  rfl

/-- A held message's time is up: it is dropped, except a port's message at the management core (R412). -/
theorem exec_runnelHoldExpiry {x : Endpoint} {m : RMsg} {t : Nat} {rest : List (RMsg × Nat)} (hx : endOf s e = some x)
    (hheld : x.held = (m, t) :: rest) (hon : domOn s (endDomain e) = true) (hdue : t + 10000 ≤ s.now) :
    exec (.runnelHoldExpiry e) s = .next (if e = 0x160 ∧ fromPort m = true then s
      else addDropped (setEnd s e fun x => { x with held := rest }) e) := by
  have hrun : exec (.runnelHoldExpiry e) s = execRunnelHoldExpiry e s := rfl
  simp only [hrun, execRunnelHoldExpiry, hx, hheld, hon, hdue]
  by_cases hport : e = 0x160 ∧ fromPort m = true <;> simp [hport]

end RunnelEvents

/-- Settles O39: each event by its own lemma; a message or a ring first arrives under its stamp, and then finds its endpoint served, HELD or
missing. -/
theorem poolAndRunnelEventsComplete : Obligations.PoolAndRunnelEventsComplete := by
  unfold Obligations.PoolAndRunnelEventsComplete
  intro s
  refine ⟨fun g hst hon => ⟨fun j hj => ?_, fun hj => ?_, exec_granuleClearComplete_failed hst hon⟩,
    fun b job j hj => exec_jobKill hj, fun b job j t hj => exec_jobCleared hj, fun b job wid hthrough => ?_,
    fun sender b job type len data => ⟨fun e x hend hx hserved => ⟨fun hmsg => ?_, ?_⟩, fun e x hend hx hheld => ?_,
      fun e hend hx => ?_, exec_runnelMessage_of_ownHost⟩,
    fun sender b job mask => ⟨fun e x hend hx hserved => ?_, fun e x hend hx hheld => ?_, fun e hrefused => ?_⟩,
    fun e x m t rest hx hheld hon hdue => ⟨fun hdrops => ?_, fun hcore hport => ?_⟩⟩
  · have hholder : granHolder s g = some j := hj
    rw [exec_granuleClearComplete_verified hst hon, hholder]
    rfl
  · have hholder : granHolder s g = none := hj
    rw [exec_granuleClearComplete_verified hst hon, hholder]
    rfl
  · rw [exec_windowCloseComplete hthrough]
    change _ = Host.Outcome.next (match jobOf (windowGone s b job wid) b job with | none => _ | some j => _)
    cases jobOf (windowGone s b job wid) b job <;> rfl
  · rw [exec_runnelMessage_of_onDie hend, arriveAt_of_served hx hserved, putStamped, stampMsg_type, if_neg hmsg]
    rfl
  · intro hring
    rw [exec_runnelMessage_of_onDie hend, arriveAt_of_served hx hserved, putStamped, stampMsg_type, if_pos hring]
    rfl
  · rw [exec_runnelMessage_of_onDie hend, arriveAt_of_held hx hheld]
  · rw [exec_runnelMessage_of_onDie hend, arriveAt_of_no_endpoint hx]
  · rw [exec_doorbellRing_of_onDie hend, arriveAt_of_served hx hserved]
    rfl
  · rw [exec_doorbellRing_of_onDie hend, arriveAt_of_held hx hheld]
  · by_cases hhost : 0x170 ≤ e ∧ e < 0x180
    · exact exec_doorbellRing_of_host hhost
    · rw [exec_doorbellRing_of_onDie (by omega), arriveAt_of_no_endpoint (hrefused.resolve_left hhost)]
  · rw [exec_runnelHoldExpiry hx hheld hon hdue, if_neg fun h => by simp [h.1, h.2] at hdrops]
  · rw [exec_runnelHoldExpiry hx hheld hon hdue, if_pos ⟨hcore, hport⟩]

end Sys2Proof.Proofs
end

section
namespace Sys2Proof.Proofs
open Machine Laws

/-! ### The registers at reset (R230, R279, R372, R392, R394, R496, R498, R501, R517) -/

theorem regValue_reset_woreoCfg : ∀ b < 16, regValue State.reset b .woreoCfg = 0x050A050C00640032 := by decide

theorem kvOf_reset {b : Nat} (hb : b < 16) : kvOf State.reset b = { cfg := kvCfgReset } :=
  List.getD_replicate _ hb

/-- Every power domain is OFF at reset (R498). -/
theorem domOf_reset_state (d : Nat) : (domOf State.reset d).state = 0 := by
  by_cases hd : d < 372 <;> simp [domOf, State.reset, domsReset, List.getD_eq_getElem?_getD, hd]

theorem domStateReg_reset (n : Nat) : domStateReg State.reset n = 0 := by simp [domStateReg, domOf_reset_state]

theorem bootStatus_reset : bootStatus State.reset % 16 = 0 := by decide

/-- Settles O3: the plain registers by their reset values, those of a basin or of many domains by their own lemmas. -/
theorem resetValuesOfTheTables : Obligations.ResetValuesOfTheTables := by
  unfold Obligations.ResetValuesOfTheTables
  intro b hb
  exact ⟨rfl, rfl, rfl, regValue_reset_woreoCfg b hb, rfl, rfl, rfl, fun n _ => domStateReg_reset n,
    congrArg Kv.cfg (kvOf_reset hb), bootStatus_reset, rfl, rfl, rfl⟩

/-! ### A write of TRK_MEM_CTRL (R230, R390) -/

theorem getLsbD_maskWrite (old mask value rw : BitVec 64) (i : Nat) : (maskWrite old mask value rw).getLsbD i =
    if mask.getLsbD i && rw.getLsbD i then value.getLsbD i else old.getLsbD i := by
  by_cases hi : i < 64
  · simp only [maskWrite, BitVec.getLsbD_or, BitVec.getLsbD_and, BitVec.getLsbD_not, hi, decide_true, Bool.true_and]
    cases mask.getLsbD i <;> cases rw.getLsbD i <;> simp
  · simp [BitVec.getLsbD_of_ge, Nat.not_lt.1 hi]

theorem exec_regWrite_memCtrl {s : State} {h : Hdr} {mask value : BitVec 64} (ht : s.takes (.regWrite h 0x30000 mask value))
    (hadmin : isAdmin s h.basin = true) : exec (.regWrite h 0x30000 mask value) s =
      .next (writeReg (s.took h 0x0701) h mask value .memCtrl) := by
  obtain ⟨k, hk, htaken, -⟩ := ht
  cases hk
  have hrun : exec (.regWrite h 0x30000 mask value) s = hostCmd s h 0x0701 false none (.regWrite h 0x30000 mask value) fun s =>
      if !isAdmin s h.basin then reply s h 0x0701 stNotPermitted [] else writeReg s h mask value .memCtrl := rfl
  rw [hrun, hostCmd_body htaken (by simp [roleHeld]) (by simp) (by simp), took_isAdmin, hadmin]
  rfl

/-- Settles O12: the value written is the masked write's, whose bits `getLsbD_maskWrite` gives. -/
theorem memCtrlWriteIsMasked : Obligations.MemCtrlWriteIsMasked := by
  unfold Obligations.MemCtrlWriteIsMasked
  intro s h mask value ht hadmin
  refine ⟨maskWrite s.tiers.memCtrl mask value memCtrlMask, getLsbD_maskWrite _ _ _ _, ?_, ?_⟩
  · intro hold hmask hvalue
    rw [hold, hmask, hvalue]
    decide
  · obtain ⟨k, hk, -, hlink⟩ := id ht
    cases hk
    exact RunsTo.of_reply (exec_regWrite_memCtrl ht hadmin) (core_of_links (took_links s h 0x0701) rfl)
      (took_answers s h 0x0701) (by rwa [took_links_length])

end Sys2Proof.Proofs
end

section
namespace Sys2Proof.Proofs
open Machine Laws

/-! ### The commands over a basin's pages (R228, R377 to R379, R382) -/

/-- The tier in which BASIN.MAP homes its pages: the one named for WORK pages, LPDDR5X for the other kinds (R378). -/
def mapTier (kind tier : Nat) : Nat := if kind = 1 then tier else 2

/-- The kind of the pages that BASIN.MAP maps (R378). -/
def mapKind (kind : Nat) : PKind := if kind = 0 then .model else if kind = 1 then .work else .train

/-- KIND and TIER go together (R378). -/
def MapNamed (kind tier : Nat) : Prop := (kind = 1 ∧ (tier = 1 ∨ tier = 2)) ∨ ((kind = 0 ∨ kind = 2) ∧ tier = 0)

theorem basinMapCheck_of_named {kind tier : Nat} (hnamed : MapNamed kind tier) (s : State) (b addr pages : Nat) :
    basinMapCheck s b addr pages kind tier = mapCheck s b addr pages (mapTier kind tier) := by
  have hpass : ((kind = 1 && (tier = 1 || tier = 2)) || ((kind = 0 || kind = 2) && tier = 0)) = true := by
    simpa [MapNamed] using hnamed
  rw [basinMapCheck, if_pos hpass, mapTier]

section BasinMap
variable {s : State} {h : Hdr} {addr pages kind tier : Nat}

theorem exec_basinMap_of_lendShort (ha : s.accepts (.basinMap h addr pages kind tier)) (hnamed : MapNamed kind tier)
    (hquota : mapCheck s h.basin addr pages (mapTier kind tier) = stMemQuota)
    (hshort : lendShort s h.basin addr pages (mapTier kind tier) = true) :
    exec (.basinMap h addr pages kind tier) s = .next (reclaimLends s (mapTier kind tier)) := by
  obtain ⟨htaken, -, -, hfree⟩ := State.accepts.spec ha rfl
  have hwaits : waitsForLent s h 0x0610 (.basinMap h addr pages kind tier) (.region (addr / 4096) pages)
      (basinMapCheck s h.basin addr pages kind tier) addr pages (mapTier kind tier) = true := by
    simp [waitsForLent, htaken, hfree _ rfl, basinMapCheck_of_named hnamed, hquota, hshort]
  have hrun : exec (.basinMap h addr pages kind tier) s = execBasinMap h addr pages kind tier s := rfl
  rw [hrun, execBasinMap, ← mapTier, if_pos hwaits]

theorem exec_basinMap_of_ok (ha : s.accepts (.basinMap h addr pages kind tier)) (hnamed : MapNamed kind tier)
    (hcheck : mapCheck s h.basin addr pages (mapTier kind tier) = stOk) :
    exec (.basinMap h addr pages kind tier) s = .next (reply (mapPages (s.took h 0x0610) h.basin (mapKind kind) (mapTier kind tier)
      (regionPages addr pages)) h 0x0610 stOk []) := by
  have hwaits : waitsForLent s h 0x0610 (.basinMap h addr pages kind tier) (.region (addr / 4096) pages)
      (basinMapCheck s h.basin addr pages kind tier) addr pages (mapTier kind tier) = false := by
    simp [waitsForLent, basinMapCheck_of_named hnamed, hcheck, stOk, stMemQuota]
  have hrun : exec (.basinMap h addr pages kind tier) s = execBasinMap h addr pages kind tier s := rfl
  rw [hrun, execBasinMap, ← mapTier, hwaits, if_neg Bool.false_ne_true, hostCmd_runs ha rfl (by simp)]
  simp [basinMapCheck_of_named hnamed, hcheck, mapKind]

end BasinMap

theorem exec_basinUnmap {s : State} {h : Hdr} {addr pages : Nat} (ha : s.accepts (.basinUnmap h addr pages))
    (hcheck : regionCheck s h.basin addr pages false = stOk) : exec (.basinUnmap h addr pages) s =
      .next (settleUnmaps (deferCmd (s.took h 0x0611) { h := h, opcode := 0x0611, obj := .region (addr / 4096) pages }) h.basin) := by
  have hrun : exec (.basinUnmap h addr pages) s = execBasinUnmap h addr pages s := rfl
  rw [hrun, execBasinUnmap, hostCmd_runs ha rfl (by simp)]
  simp [hcheck]

/-- The pages of a region that have not their home in a tier yet, or are on their way. -/
def pagesAway (s : State) (b addr pages tier : Nat) : List Nat :=
  (regionPages addr pages).filter fun p => !((pageOf s b p).any fun e => e.homeT == tier && e.moving.isNone)

theorem exec_basinPlace {s : State} {h : Hdr} {addr pages tier : Nat} (ha : s.accepts (.basinPlace h addr pages tier))
    (htier : tier = 1 ∨ tier = 2) (hcheck : regionCheck s h.basin addr pages true = stOk)
    (hquota : quotaOk s h.basin tier (pagesAway s h.basin addr pages tier).length = true)
    (hroom : (pagesAway s h.basin addr pages tier).length ≤ framesFree s tier) : exec (.basinPlace h addr pages tier) s =
      .next (settlePlaces (deferCmd ((pagesAway s h.basin addr pages tier).foldl (fun s p => askMove s h.basin p tier 1) (s.took h 0x0612))
        { h := h, opcode := 0x0612, obj := .region (addr / 4096) pages, arg := tier }) h.basin) := by
  have hrun : exec (.basinPlace h addr pages tier) s = execBasinPlace h addr pages tier s := rfl
  have hnamed : (tier != 1 && tier != 2) = false := by
    obtain rfl | rfl := htier <;> rfl
  rw [pagesAway] at hquota hroom
  rw [hrun, execBasinPlace, hostCmd_runs ha rfl (by simp)]
  simp [hnamed, hcheck, hquota, Nat.not_lt.2 hroom, pagesAway]

/-- The entry that BASIN.PAGEQ answers from: the page's own, else the one kept 2^36 pages above (log entry 23). -/
def entryFor (s : State) (b p : Nat) : Option PageEnt := (pageOf s b p).orElse fun _ => pageOf s b (p + 2 ^ 36)

theorem runsTo_basinPageq {s : State} {h : Hdr} {addr : Nat} (ha : s.accepts (.basinPageq h addr)) (hin : inTiered addr 1 = true) :
    RunsTo (.basinPageq h addr) s s
      (only h.basin [.rsp 0x0613 stOk h.ctag [.record 16 ((entryFor s h.basin (addr / 4096)).elim 0 pageWord)]]) := by
  have hrun : exec (.basinPageq h addr) s = execBasinPageq h addr s := rfl
  refine RunsTo.of_reply (u := s.took h 0x0613) ?_ (took_core ..) (took_answers s h _) ?_
  · rw [hrun, execBasinPageq, hostCmd_runs ha rfl (by simp)]
    simp [hin, entryFor]
  · rw [took_links_length]
    exact (State.accepts.spec ha rfl).2.1

/-! ### A command whose reply is deferred (R375) -/

/-- An update of a link that reads and writes only its core does the same on two states of one core. -/
theorem setLink_core_congr {s t : State} (h : s.core = t.core) {f : Link → Link}
    (hf : ∀ l m, l.core = m.core → (f l).core = (f m).core) (b : Nat) : (setLink s b f).core = (setLink t b f).core := by
  have hlinks : s.links.map Link.core = t.links.map Link.core := congrArg State.links h
  have hmodify : (s.links.modify b f).map Link.core = (t.links.modify b f).map Link.core := by
    refine List.ext_getElem? fun i => ?_
    have hi := congrArg (·[i]?) hlinks
    simp only [List.getElem?_map, List.getElem?_modify] at hi ⊢
    cases hs : s.links[i]? <;> cases ht : t.links[i]? <;> simp only [hs, ht, Option.map_some, Option.map_none, reduceCtorEq,
      Option.some.injEq] at hi ⊢
    split
    · exact congrArg some (hf _ _ hi)
    · exact congrArg some hi
  calc (setLink s b f).core = { s.core with links := (s.links.modify b f).map Link.core } := rfl
    _ = { t.core with links := (t.links.modify b f).map Link.core } := by rw [h, hmodify]

theorem deferCmd_core_congr {s t : State} (h : s.core = t.core) (d : Deferred) : (deferCmd s d).core = (deferCmd t d).core :=
  setLink_core_congr h (fun l m hlm => by
    change ({ l.core with deferred := l.core.deferred ++ [d] } : Link) = { m.core with deferred := m.core.deferred ++ [d] }
    rw [hlm]) _

theorem deferCmd_answers (s : State) (d : Deferred) (b : Nat) : (deferCmd s d).answers b = s.answers b :=
  setLink_answers (f := fun l => { l with deferred := l.deferred ++ [d] }) (fun _ => rfl) (fun _ => rfl) b

/-- The checks of BASIN.READ pass (R382): it waits for a page that moves, else it is served. -/
theorem exec_basinRead {s : State} {h : Hdr} {addr len xid : Nat} (ha : s.accepts (.basinRead h addr len xid)) (hlo : 1 ≤ len)
    (hhi : len ≤ 16777216) (hin : inTiered addr len = true)
    (hmapped : ∀ p ∈ pageRange addr len, pageMapped s h.basin p = true) :
    exec (.basinRead h addr len xid) s = .next (if rangeMoving s h.basin addr len
      then deferCmd (s.took h 0x0614) { h := h, opcode := 0x0614, obj := .read xid, arg := addr, at_ := len }
      else readOrWait (s.took h 0x0614) h addr len xid) := by
  have hrun : exec (.basinRead h addr len xid) s = execBasinRead h addr len xid s := rfl
  have hsize : (len < 1 || 16777216 < len) = false := by simp; omega
  have hrange : (!inTiered addr len || (pageRange addr len).any fun p => !pageMapped s h.basin p) = false := by
    simpa [hin] using hmapped
  rw [hrun, execBasinRead, hostCmd_runs ha rfl (by simp)]
  simp only [took_pageMapped, took_rangeMoving, hsize, hrange]
  rfl

/-- Settles O49: each command by its own lemma; the deferred BASIN.READ has the core of the command deferred before it was taken. -/
theorem basinMemoryCommandsComplete : Obligations.BasinMemoryCommandsComplete := by
  unfold Obligations.BasinMemoryCommandsComplete
  intro s h addr pages
  refine ⟨fun kind tier ha hnamed => ⟨exec_basinMap_of_lendShort ha hnamed, exec_basinMap_of_ok ha hnamed⟩, exec_basinUnmap,
    fun tier ha => exec_basinPlace ha, runsTo_basinPageq, fun len xid ha hlo hhi hin hmapped => ⟨fun hmoves => ?_, fun hstays => ?_⟩⟩
  · refine BecomesCore.of_next (exec_basinRead ha hlo hhi hin hmapped) ?_ fun b => ?_
    · rw [if_pos hmoves]
      exact deferCmd_core_congr (took_core ..) _
    · rw [if_pos hmoves, deferCmd_answers, took_answers]
  · rw [exec_basinRead ha hlo hhi hin hmapped, hstays, if_neg Bool.false_ne_true]

end Sys2Proof.Proofs
end

section
namespace Sys2Proof.Proofs
open Machine Laws

/-! ### Moves of pages (R225 to R228, R233, R247) -/

theorem exec_pageMoveStart {s u : State} {m : MoveReq} {f : Nat} (hnext : nextOp s = some m) (hcopy : m.copy = false)
    (hplace : takePlace s m.basin m.page m.tier = (some f, u)) : exec (.pageMoveStart m.basin m.page) s =
      .next (setPage (dropOp u m) m.basin m.page fun e => { e with moving := some (m.tier, f) }) := by
  have hrun : exec (.pageMoveStart m.basin m.page) s = execPageMoveStart m.basin m.page s := rfl
  rw [hrun, execPageMoveStart]
  simp [hnext, hcopy, hplace]

/-- The entry of a page that moves names its new home (R227 step 3). -/
def switchHome (s : State) (b page tier f : Nat) : State :=
  setPage s b page fun e => { e with homeT := tier, homeLoc := f, moving := none }

/-- The old place of a page that has moved is given up: a frame is cleared, a lender's loses the page's bytes at once (R227, R247). -/
def leaveHome (b page : Nat) (e : PageEnt) (s : State) : State :=
  if e.homeT = 3 then leaveLend { s with mem := memClear s.mem (homeAt e) 4096 } b page else releaseFrame s b 0 e.homeT e.homeLoc

/-- The new place of a page that has moved: lent memory gets the bytes over its window (R247), and a frame that is to be retired is left
again (R233). -/
def reachHome (e : PageEnt) (tier f : Nat) (s : State) : State :=
  if tier = 3 then lentPage s { e with homeT := 3, homeLoc := f } true
  else if s.tiers.retiring.contains (tier, f) then leaveFrame s tier f else s

/-- What waited for the move of a page goes on (R228, R248, R275). -/
def moveSettled (b page : Nat) (s : State) : State := settleMoved (returnLends (kvPageMoved s b page)) b

/-- What a read in lent memory has come to that a move makes of its page's old home, if it lies there (R247). -/
def moveReads (s : State) (b page : Nat) (e : PageEnt) : LentOut × State :=
  lentRange s b (if e.homeT = 3 then 4096 * page else 0) (if e.homeT = 3 then 4096 else 0) 0 0

/-- A page whose bytes a move found uncorrectable is poisoned, if it was not before (R228, R236). -/
def moveFound (b page : Nat) (e : PageEnt) (v : State) : State :=
  if e.poison then v else (pageOf v b page).elim v fun e => poisonHome v e 2 false

theorem moveFound_eq (b page : Nat) (e : PageEnt) (v : State) : moveFound b page e v =
    if true && !e.poison then match pageOf v b page with
      | some e => poisonHome v e 2 false
      | none => v
    else v := by
  cases hpoison : e.poison <;> cases hpage : pageOf v b page <;> simp [moveFound, hpoison, hpage]

section PageMove
variable {s u : State} {b page tier f : Nat} {e : PageEnt} {ask : LentOut} (he : pageOf s b page = some e)
  (hmoving : e.moving = some (tier, f)) (hreads : moveReads s b page e = (ask, u)) (hcome : ask ≠ .wait)
include he hmoving hreads hcome

theorem exec_pageMoveComplete_of_clean : exec (.pageMoveComplete b page false) s =
    .next (moveSettled b page (reachHome e tier f (leaveHome b page e
      (switchHome (copyFrame u (homeAt e) (placeAt b page tier f)) b page tier f)))) := by
  have hrun : exec (.pageMoveComplete b page false) s = execPageMoveComplete b page false s := rfl
  rw [moveReads] at hreads
  rw [hrun, execPageMoveComplete]
  simp -zeta only [he, hmoving, hreads]
  cases ask with
  | wait => exact absurd rfl hcome
  | here => rfl
  | refused => rfl

theorem exec_pageMoveComplete_of_bad : exec (.pageMoveComplete b page true) s =
    .next (moveSettled b page (moveFound b page e (reachHome e tier f (leaveHome b page e
      (markRetiring (switchHome (copyFrame u (homeAt e) (placeAt b page tier f)) b page tier f) e.homeT e.homeLoc))))) := by
  have hrun : exec (.pageMoveComplete b page true) s = execPageMoveComplete b page true s := rfl
  rw [moveReads] at hreads
  rw [hrun, execPageMoveComplete]
  simp -zeta only [he, hmoving, hreads]
  cases ask with
  | wait => exact absurd rfl hcome
  | here => exact congrArg (fun v => Host.Outcome.next (moveSettled b page v)) (moveFound_eq ..).symm
  | refused => exact congrArg (fun v => Host.Outcome.next (moveSettled b page v)) (moveFound_eq ..).symm

end PageMove

/-! ### Copies (R218, R219, R225) -/

section PageCopy
variable {s : State} {m : MoveReq} (hnext : nextOp s = some m) (hcopy : m.copy = true)
include hnext hcopy

theorem exec_pageCopy_of_new (hagain : m.again = false) :
    exec (.pageCopy m.basin m.page none) s = .next (makeCopy (dropOp s m) m.basin m.page) := by
  have hrun : exec (.pageCopy m.basin m.page none) s = execPageCopy m.basin m.page none s := rfl
  rw [hrun, execPageCopy]
  simp [hnext, hcopy, hagain]

theorem exec_pageCopy_of_again {e : PageEnt} (hagain : m.again = true) (he : pageOf s m.basin m.page = some e) :
    exec (.pageCopy m.basin m.page none) s = .next (recopy (dropOp s m) e (e.copy.getD 0)) := by
  have hrun : exec (.pageCopy m.basin m.page none) s = execPageCopy m.basin m.page none s := rfl
  rw [hrun, execPageCopy]
  simp [hnext, hcopy, hagain, he]

end PageCopy

/-- The copy of a page into a granule is due (R219, R226, R263, R267): the page selected is of a read-only kind and can be read, the granule
is its job's, the place is one of a whole page in it, and it is the job's turn. -/
structure PoolCopyDue (s : State) (b page g off : Nat) (e : PageEnt) : Prop where
  entry : pageOf s b (copySource s b (granOf s g).job page) = some e
  readOnly : e.kind.readOnly = true
  served : e.poison = false ∨ e.copy.isSome = true
  owned : (granOf s g).state = .owned
  basin : (granOf s g).basin = b
  aligned : off % 4096 = 0
  inside : off + 4096 ≤ 65536
  turn : poolTurn s b (granOf s g).job = true
  known : (ofSealed s b (copySource s b (granOf s g).job page) || ofSet s b (copySource s b (granOf s g).job page) ||
    e.kind == .derived) = true

theorem PoolCopyDue.exec_pageCopy {s : State} {b page g off : Nat} {e : PageEnt} (h : PoolCopyDue s b page g off e)
    (hgood : crcGood s e (readAt e) = true) : exec (.pageCopy b page (some (g, off))) s =
      .next (putPoolCopy s b page (copySource s b (granOf s g).job page) g off (readAt e)) := by
  have hrun : exec (.pageCopy b page (some (g, off))) s = execPageCopy b page (some (g, off)) s := rfl
  have hserved : (e.poison && e.copy.isNone) = false := by
    obtain h | h := h.served
    · simp [h]
    · simp [Option.isNone_eq_false_iff.2 h]
  rw [hrun, execPageCopy]
  simp [h.entry, h.readOnly, hserved, h.owned, h.basin, h.aligned, h.turn, h.known, hgood, Nat.not_lt.2 h.inside, -Bool.or_eq_true]

/-! ### Reclaim, repair and refetch (R231, R239, R240) -/

/-- The stages of R231: rebuildable pages, WORK pages, KV rows, and then the frames that are lent. -/
def hbmReclaimed (s : State) : State :=
  let u := moveKv hbmShort (moveWork (fun _ => true) hbmShort (dropRebuildable s (fun _ => true) hbmShort).tiers.pages.length
    (dropRebuildable s (fun _ => true) hbmShort))
  if hbmShort u then reclaimLends u 1 else u

theorem exec_hbmReclaim {s : State} (hlow : s.tiers.reclaiming = true ∨ framesFree s 1 < hbmLow s) : exec .hbmReclaim s =
    .next { hbmReclaimed s with tiers := { (hbmReclaimed s).tiers with
      reclaiming := decide (framesFree (hbmReclaimed s) 1 < hbmHigh (hbmReclaimed s)) } } := by
  have hrun : exec .hbmReclaim s = execHbmReclaim s := rfl
  have hgoes : (!s.tiers.reclaiming && decide (hbmLow s ≤ framesFree s 1)) = false := by
    obtain h | h := hlow <;> simp [h]
  rw [hrun, execHbmReclaim, if_neg (by simp only [hgoes]; decide)]
  rfl

section Repair
variable {s : State} {b page : Nat} {e : PageEnt} (he : pageOf s b page = some e) (hkind : e.kind = .model) (hpoison : e.poison = true)
  (hasked : (s.tiers.refetch.any fun r => r.basin == b && r.page == page) = false)
include he hkind hpoison hasked

/-- A poisoned model page that the host has not been asked for is repaired from a good copy, else the host is asked for it. -/
theorem exec_modelHomeRepair : exec (.modelHomeRepair b page) s =
    (e.copy.filter fun f => crcGood s e (frameAt 1 f)).elim (.next (askRefetch s e)) fun f =>
      if framesFree s 2 = 0 then .next s else .next (repairPage s e (memGets s.mem (frameAt 1 f) 4096) e.crc 0) := by
  have hrun : exec (.modelHomeRepair b page) s = execModelHomeRepair b page s := rfl
  rw [hrun, execModelHomeRepair]
  simp only [he, hkind, hpoison, hasked]
  cases e.copy.filter fun f => crcGood s e (frameAt 1 f) <;> rfl

theorem exec_modelHomeRepair_of_good {f : Nat} (hcopy : e.copy = some f) (hgood : crcGood s e (frameAt 1 f) = true)
    (hroom : framesFree s 2 ≠ 0) : exec (.modelHomeRepair b page) s =
      .next (repairPage s e (memGets s.mem (frameAt 1 f) 4096) e.crc 0) := by
  rw [exec_modelHomeRepair he hkind hpoison hasked]
  simp [hcopy, hgood, hroom, Option.filter]

theorem exec_modelHomeRepair_of_failing {f : Nat} (hcopy : e.copy = some f) (hbad : crcGood s e (frameAt 1 f) = false) :
    exec (.modelHomeRepair b page) s = .next (askRefetch s e) := by
  rw [exec_modelHomeRepair he hkind hpoison hasked]
  simp [hcopy, hbad, Option.filter]

theorem exec_modelHomeRepair_of_uncopied (hcopy : e.copy = none) : exec (.modelHomeRepair b page) s = .next (askRefetch s e) := by
  rw [exec_modelHomeRepair he hkind hpoison hasked, hcopy]
  rfl

end Repair

/-- The host is to be asked again for a page 10 s after the last time (R240). -/
def refetchAgain (s : State) (b page : Nat) : State :=
  { s with tiers := { s.tiers with
    refetch := updW (fun r => r.basin == b && r.page == page) (fun r => { r with next := r.next + 10000000000 }) s.tiers.refetch } }

theorem exec_refetchTimer {s : State} {b page : Nat} {r : Refetch} {e : PageEnt}
    (hr : s.tiers.refetch.find? (fun r => r.basin == b && r.page == page) = some r) (he : pageOf s b page = some e)
    (hpoison : e.poison = true) (hdue : r.next ≤ s.now) : exec (.refetchTimer b page) s =
      .next (raiseRefetch (refetchAgain s b page) e) := by
  have hrun : exec (.refetchTimer b page) s = execRefetchTimer b page s := rfl
  rw [hrun, execRefetchTimer]
  simp [hr, he, hpoison, Nat.not_lt.2 hdue, refetchAgain]

/-! ### Errors and scrubbing (R232 to R236) -/

/-- The place of a frame in a tier (R232). -/
def FramePlace (tier f : Nat) (pl : Place) : Prop := (tier = 1 ∧ pl = .hbm f) ∨ (tier = 2 ∧ pl = .lpx f)

/-- A frame is noted as read in the scrub pass that is in progress (R234). -/
def scrubNoted (s : State) (tier f : Nat) : State :=
  { scrubPass s with tiers := { (scrubPass s).tiers with scrubSeen := (scrubPass s).tiers.scrubSeen ++ [(tier, f)] } }

/-- What a scrub read does about what it has found in a frame (R234). -/
def scrubFound (u : State) (tier f : Nat) : ScrubResult → State
  | .clean => u
  | .corrected => correctedIn u tier f
  | .uncorrectable => frameError u tier f .scrub

theorem scrubPass_pageAtFrame (s : State) (tier f : Nat) : pageAtFrame (scrubPass s) tier f = pageAtFrame s tier f := by
  unfold scrubPass
  split <;> rfl

theorem scrubPass_memCtrl (s : State) : (scrubPass s).tiers.memCtrl = s.tiers.memCtrl := by
  unfold scrubPass
  split <;> rfl

theorem exec_scrubRead {s : State} {tier f : Nat} {pl : Place} {x : PageEnt × Bool} (hpl : FramePlace tier f pl)
    (hon : bitAt s.tiers.memCtrl.toNat 24 = true) (hpage : pageAtFrame s tier f = some x)
    (hfirst : (scrubPass s).tiers.scrubSeen.contains (tier, f) = false) (found : ScrubResult) :
    exec (.scrubRead pl found) s = .next (scrubFound (scrubNoted s tier f) tier f found) := by
  have hgoes : (!bitAt (scrubPass s).tiers.memCtrl.toNat 24 || (pageAtFrame (scrubPass s) tier f).isNone ||
      (scrubPass s).tiers.scrubSeen.contains (tier, f)) = false := by
    rw [scrubPass_memCtrl, scrubPass_pageAtFrame, hon, hpage, hfirst]
    rfl
  have hrun : exec (.scrubRead pl found) s = execScrubRead pl found s := rfl
  obtain ⟨rfl, rfl⟩ | ⟨rfl, rfl⟩ := hpl <;> simp only [hrun, execScrubRead, hgoes] <;> cases found <;> rfl

/-! ### A lender's reclaim (R247, R248) -/

/-- The lend record that a lender names. -/
def borrowed (s : State) (rec : Nat) : Option Lend := s.tiers.lends.find? fun l => !l.asLender && l.index == rec

/-- The reclaim of a record is noted with its term, and reported (R248, R250). -/
def reclaimNoted (s : State) (rec : Nat) (l : Lend) : State :=
  raiseTrunk
    { s with tiers := { s.tiers with
      lends := updW (fun l => !l.asLender && l.index == rec) (fun l => { l with reclaimDue := some (s.now + 5000000000) }) s.tiers.lends } }
    evMemLendReclaim [rec, l.x + 16 * l.y + 256 * l.z, l.count, s.now + 5000000000] [l.basin]

/-- Neither tier takes the pages that come home (R248). -/
def lacksRoom (b n : Nat) (s : State) : Bool :=
  let lacks (t : Nat) : Bool := !quotaOk s b t n || framesFree s t + tierComing s t < n
  lacks 1 && lacks 2

/-- A borrower that lacks room for the pages that come home frees HBM3E (R231, R248). -/
def roomMade (u : State) (l : Lend) : State :=
  let short := lacksRoom l.basin (lentHere u l).length
  if short u then moveKv short (moveWork (fun b => b == l.basin) short u.tiers.pages.length
    (dropRebuildable u (fun b => b == l.basin) short)) else u

/-- The pages of a record are asked home (R248). -/
def askHome (v : State) (l : Lend) : State := (lentHere v l).foldl (fun s e => askMove s e.basin e.page (homeTier s e) 1) v

section LendReclaim
variable {s : State} {rec : Nat} {l : Lend} (hl : borrowed s rec = some l)
include hl

theorem exec_memLendReclaim (hfirst : l.reclaimDue = none) :
    exec (.memLendReclaim rec) s = .next (returnLends (askHome (roomMade (reclaimNoted s rec l) l) l)) := by
  have hrun : exec (.memLendReclaim rec) s = execMemLendReclaim rec s := rfl
  rw [hrun, execMemLendReclaim, ← borrowed]
  simp only [hl, hfirst]
  rfl

theorem exec_lendReclaimExpiry {t : Nat} (hdue : l.reclaimDue = some t) (hnow : t ≤ s.now) : exec (.lendReclaimExpiry rec) s =
    .next (returnLends (loseLent (endJob s l.basin l.job stBorrowReclaimed) l stBorrowReclaimed)) := by
  have hrun : exec (.lendReclaimExpiry rec) s = execLendReclaimExpiry rec s := rfl
  rw [hrun, execLendReclaimExpiry, ← borrowed]
  simp [hl, hdue, hnow]

end LendReclaim

/-! ### The clearing of a frame (R205, R208, R233, R280) -/

/-- A frame has been cleared: its bytes read as zero, and the clearing is over (R205). -/
def frameErased (s : State) (tier f : Nat) : State :=
  { s with
    tiers := { s.tiers with clearing := dropW (fun c => c.tier == tier && c.frame == f) s.tiers.clearing }
    mem := memClear s.mem (frameAt tier f) 4096 }

/-- The KV page that a frame is the home of. -/
def kvPageAt (s : State) (tier f : Nat) : Option PageEnt :=
  s.tiers.pages.find? fun e => e.kind == .kv && e.homeT == tier && e.homeLoc == f

/-- A KV page whose frame has been cleared is unmapped, if its row is in CLEARING (R280). -/
def kvPageGone (s : State) (e : PageEnt) : State :=
  if (rowAtPage (kvOf s e.basin) e.page).any (·.state == .clearing) then kvPageCleared s e.basin e.page else s

/-- After a clearing, deleted objects, lends and frames to be retired that waited for it go on (R208, R233, R246). -/
def clearSettled (s : State) : State := retireFree (lendCleared (dropDeleted s))

/-- What becomes of the page whose frame `c` has been cleared in `u`: one that failed is poisoned, and its frame is to be retired (R208,
R233, log entry 55). -/
def clearFound (u : State) (tier f : Nat) (c : FrameClear) (ok : Bool) : State :=
  let v := if ok then u else noteRetiring u tier f
  match kvPageAt v tier f with
  | some e => kvPageGone (if ok then v else raisePoisoned (poisonPage v e.basin e.page) e 1) e
  | none => match c.page with
    | some e => if ok then v else raisePoisoned v e 1
    | none => v

theorem clearFound_verified (u : State) (tier f : Nat) (c : FrameClear) :
    clearFound u tier f c true = (kvPageAt u tier f).elim u (kvPageGone u) := by
  cases hkv : kvPageAt u tier f <;> cases hpage : c.page <;> simp [clearFound, hkv, hpage]

theorem clearFound_failed (u : State) (tier f : Nat) (c : FrameClear) : clearFound u tier f c false =
    (kvPageAt (noteRetiring u tier f) tier f).elim
      (c.page.elim (noteRetiring u tier f) fun e => raisePoisoned (noteRetiring u tier f) e 1)
      fun e => kvPageGone (raisePoisoned (poisonPage (noteRetiring u tier f) e.basin e.page) e 1) e := by
  cases hkv : kvPageAt (noteRetiring u tier f) tier f <;> cases hpage : c.page <;> simp [clearFound, hkv, hpage]

theorem exec_tierPageClearComplete {s : State} {tier f : Nat} {pl : Place} {c : FrameClear} (hpl : FramePlace tier f pl)
    (hc : (s.tiers.clearing.find? fun c => c.tier == tier && c.frame == f) = some c) (ok : Bool) :
    exec (.tierPageClearComplete pl ok) s = .next (clearSettled (clearFound (frameErased s tier f) tier f c ok)) := by
  have hrun : exec (.tierPageClearComplete pl ok) s = execTierPageClearComplete pl ok s := rfl
  obtain ⟨rfl, rfl⟩ | ⟨rfl, rfl⟩ := hpl <;> simp only [hrun, execTierPageClearComplete, hc] <;> rfl

/-- Settles O38: each event by its own lemma, a scrub read by what it finds and a clearing by whether it was verified. -/
theorem memoryEventsComplete : Obligations.MemoryEventsComplete := by
  unfold Obligations.MemoryEventsComplete
  intro s b page
  refine ⟨fun m f u hnext hcopy hb hp hplace => ?_, fun e tier f ask u he hmoving hreads hcome =>
      ⟨exec_pageMoveComplete_of_clean he hmoving hreads hcome, exec_pageMoveComplete_of_bad he hmoving hreads hcome⟩,
    fun m hnext hcopy hb hp => ?_,
    fun e g off he hread hserved howned hbasin halign hinside hturn hknown =>
      PoolCopyDue.exec_pageCopy ⟨he, hread, hserved, howned, hbasin, halign, hinside, hturn, hknown⟩,
    exec_hbmReclaim, fun e he hkind hpoison hasked => ⟨fun f => exec_modelHomeRepair_of_good he hkind hpoison hasked,
      fun f => exec_modelHomeRepair_of_failing he hkind hpoison hasked, exec_modelHomeRepair_of_uncopied he hkind hpoison hasked⟩,
    fun r e hr he => exec_refetchTimer hr he, fun f hf => if_pos hf, fun f hf => if_pos hf, fun f reader => ⟨rfl, rfl⟩,
    fun g reader => rfl, fun f e tier pl hpl hon hpage hfirst => ?_,
    fun rec l hl => ⟨exec_memLendReclaim hl, fun t => exec_lendReclaimExpiry hl⟩,
    fun f tier pl hpl c hc => ⟨?_, ?_⟩⟩
  · subst hb hp
    exact exec_pageMoveStart hnext hcopy hplace
  · subst hb hp
    exact ⟨exec_pageCopy_of_new hnext hcopy, fun e => exec_pageCopy_of_again hnext hcopy⟩
  · have hscrub := exec_scrubRead hpl hon hpage hfirst
    exact ⟨hscrub .clean, hscrub .corrected, hscrub .uncorrectable⟩
  · rw [exec_tierPageClearComplete hpl hc, clearFound_verified]
    rfl
  · rw [exec_tierPageClearComplete hpl hc, clearFound_failed]
    rfl

end Sys2Proof.Proofs
end

section
namespace Sys2Proof.Proofs
open Machine Laws

/-- An operation that a fold repeats keeps what each of its steps keeps. -/
theorem foldl_keeps {α β : Type} {g : State → β} {f : State → α → State} (hf : ∀ s x, g (f s x) = g s) (l : List α)
    (s : State) : g (l.foldl f s) = g s := by
  induction l generalizing s with
  | nil => rfl
  | cons x l ih => rw [List.foldl_cons, ih, hf]

/-! ### Entries and bytes after an operation (R215, R227) -/

/-- A changed entry is found where it was, as a change leaves a page's basin and number. -/
theorem pageOf_setPage {g : PageEnt → PageEnt} (hg : ∀ e, (g e).basin = e.basin ∧ (g e).page = e.page) (s : State) (b p c q : Nat) :
    pageOf (setPage s c q g) b p = (pageOf s b p).map fun e => if e.basin == c && e.page == q then g e else e := by
  have hkey : ((fun e : PageEnt => e.basin == b && e.page == p) ∘ fun e => if e.basin == c && e.page == q then g e else e) =
      fun e => e.basin == b && e.page == p := by
    funext e
    simp only [Function.comp_apply]
    split
    · rw [(hg e).1, (hg e).2]
    · rfl
  rw [pageOf, setPage, updW, List.find?_map, hkey]
  rfl

theorem pageOf_key {s : State} {b p : Nat} {e : PageEnt} (he : pageOf s b p = some e) : (e.basin == b && e.page == p) = true :=
  List.find?_some (p := fun e : PageEnt => e.basin == b && e.page == p) he

theorem pageOf_setPage_same {s : State} {b p : Nat} {e : PageEnt} {g : PageEnt → PageEnt}
    (hg : ∀ e, (g e).basin = e.basin ∧ (g e).page = e.page) (he : pageOf s b p = some e) :
    pageOf (setPage s b p g) b p = some (g e) := by
  rw [pageOf_setPage hg, he, Option.map_some, if_pos (pageOf_key he)]

@[simp] theorem length_memGets (m : List Host.Cell) (a n : Nat) : (memGets m a n).length = n := by simp [memGets]

theorem getElem_memGets (m : List Host.Cell) (a n k : Nat) (hk : k < (memGets m a n).length) :
    (memGets m a n)[k] = memGet m (a + k) := by simp [memGets]

theorem frame_of_otherBytes (s : State) (m : List Host.Cell) :
    ({ s with mem := m } : State).tiers = s.tiers ∧ ({ s with mem := m } : State).kvs = s.kvs := ⟨rfl, rfl⟩

/-- Copying a frame changes bytes only. -/
theorem copyFrame_frame (s : State) (src dst : Nat) : (copyFrame s src dst).tiers = s.tiers ∧ (copyFrame s src dst).kvs = s.kvs :=
  frame_of_otherBytes s _

theorem copyFrame_mem (s : State) (src dst : Nat) :
    (copyFrame s src dst).mem = memPuts (memClear s.mem dst 4096) dst (memGets s.mem src 4096) := by rw [copyFrame]

theorem memGet_copyFrame_of_mem {s : State} (hmem : s.memOk) (src dst : Nat) {k : Nat} (hk : k < 4096) :
    memGet (copyFrame s src dst).mem (dst + k) = memGet s.mem (src + k) := by
  have hlen : k < (memGets s.mem src 4096).length := hk.trans_eq (length_memGets ..).symm
  rw [copyFrame_mem, memGet_memPuts_of_mem (memClear_wf hmem dst 4096) dst k _ hlen, getElem_memGets]

theorem memGet_copyFrame_of_notMem {s : State} (hmem : s.memOk) (src : Nat) {dst a : Nat} (ha : a < dst ∨ dst + 4096 ≤ a) :
    memGet (copyFrame s src dst).mem a = memGet s.mem a := by
  rw [copyFrame_mem, memGet_memPuts_of_notMem (memClear_wf hmem dst 4096) dst a _ (by rwa [length_memGets]), memGet_memClear,
    if_neg (by omega)]

/-! ### Frames that are left or retired (R205, R233) -/

theorem countRetired_core (s : State) (tier : Nat) : (countRetired s tier).core = s.core := by
  unfold countRetired
  split <;> exact foldl_keeps (fun s i => count_core ..) ..

/-- A frame is retired, and no longer one that is to be. -/
def frameRetired (s : State) (tier f : Nat) : State :=
  { s with tiers := { s.tiers with
    retired := s.tiers.retired ++ [(tier, f)]
    retiring := dropW (fun r => r == (tier, f)) s.tiers.retiring
    errs := dropW (fun x => x.tier == tier && x.frame == f) s.tiers.errs } }

theorem retireFrame_core (s : State) (tier f cause : Nat) : (retireFrame s tier f cause).core =
    (if s.tiers.retired.contains (tier, f) then s else frameRetired s tier f).core := by
  unfold retireFrame
  split
  · rfl
  · rw [otherFaultRecord_core, raiseTrunk_core, countRetired_core, storeAsk_core]
    rfl

/-- What is no page's place: memory, the pages' entries and the KV stores. Giving up an old place of a page, reporting it and sending its
bytes to a lender leave them alone. -/
def contents (s : State) : List Host.Cell × List PageEnt × List Kv := (s.mem, s.tiers.pages, s.kvs)

theorem contents_of_core {s t : State} (h : t.core = s.core) : contents t = contents s := by
  have hcontents := congrArg contents h
  exact hcontents

theorem retireFrame_contents (s : State) (tier f cause : Nat) : contents (retireFrame s tier f cause) = contents s := by
  rw [contents_of_core (retireFrame_core s tier f cause)]
  split <;> rfl

theorem mem_retiring_of_retireFrame {s : State} {tier f cause : Nat} {x : Nat × Nat}
    (hx : x ∈ (retireFrame s tier f cause).tiers.retiring) : x ∈ s.tiers.retiring := by
  have hretiring := congrArg (fun u : State => u.tiers.retiring) (retireFrame_core s tier f cause)
  have hmem : x ∈ (if s.tiers.retired.contains (tier, f) then s else frameRetired s tier f).tiers.retiring := hretiring ▸ hx
  split at hmem
  · exact hmem
  · exact List.mem_of_mem_filter hmem

theorem releaseFrame_contents (s : State) (b obj tier f : Nat) : contents (releaseFrame s b obj tier f) = contents s := by
  unfold releaseFrame releasePage
  split
  · rfl
  · dsimp only
    split
    · rw [retireFrame_contents]
      rfl
    · rfl

theorem mem_retiring_of_releaseFrame {s : State} {b obj tier f : Nat} {x : Nat × Nat}
    (hx : x ∈ (releaseFrame s b obj tier f).tiers.retiring) : x ∈ s.tiers.retiring := by
  unfold releaseFrame releasePage at hx
  split at hx
  · exact hx
  · dsimp only at hx
    split at hx
    · have hretiring := mem_retiring_of_retireFrame hx
      exact hretiring
    · exact hx

/-! ### Units of lent memory (R201, R247) -/

theorem lentUnit_contents (s : State) (e : PageEnt) (isWrite : Bool) (k : Nat) : contents (lentUnit s e isWrite k) = contents s := by
  unfold lentUnit
  split <;> rfl

theorem lentPage_contents (s : State) (e : PageEnt) (isWrite : Bool) : contents (lentPage s e isWrite) = contents s := by
  unfold lentPage
  split
  · exact foldl_keeps (fun s k => lentUnit_contents ..) ..
  · rfl

theorem lentGet_contents (s : State) (e : PageEnt) (who unit addr : Nat) : contents (lentGet s e who unit addr).2 = contents s := by
  unfold lentGet
  split
  · rfl
  · dsimp only
    split
    · exact lentUnit_contents ..
    · split <;> rfl

theorem lentRange_contents (s : State) (b addr len who unit : Nat) : contents (lentRange s b addr len who unit).2 = contents s := by
  have hasked (asked : PageEnt × Nat → Bool) (us : List (PageEnt × Nat)) :
      contents (us.foldl (fun s u => if asked u then s else (lentGet s u.1 who unit u.2).2) s) = contents s :=
    foldl_keeps (fun s u => by split; exacts [rfl, lentGet_contents ..]) us s
  unfold lentRange lentRanges
  dsimp only
  split
  · exact hasked _ _
  · exact hasked _ _

/-- A range without a byte has no unit to wait for. -/
theorem lentRange_empty (s : State) (b addr who unit : Nat) : lentRange s b addr 0 who unit = (.here, s) := by
  simp [lentRange, lentRanges, lentUnits, dropW]

/-! ### What waited for a move goes on (R228, R248, R299) -/

/-- An operation leaves memory as it is, and of a page's entry all but the time of its last use (R231). -/
structure KeepsPage (b page : Nat) (s t : State) : Prop where
  mem : t.mem = s.mem
  entry : ∀ e, pageOf s b page = some e → ∃ lastUse, pageOf t b page = some { e with lastUse := lastUse }

namespace KeepsPage
variable {b page : Nat} {s t u : State}

theorem of_contents (hmem : t.mem = s.mem) (hpages : t.tiers.pages = s.tiers.pages) : KeepsPage b page s t :=
  ⟨hmem, fun e he => ⟨e.lastUse, by rw [pageOf, hpages]; exact he⟩⟩

theorem of_core (h : t.core = s.core) : KeepsPage b page s t := by
  have hcontents := contents_of_core h
  simp only [contents, Prod.mk.injEq] at hcontents
  exact of_contents hcontents.1 hcontents.2.1

theorem refl (s : State) : KeepsPage b page s s := of_contents rfl rfl

theorem trans (hst : KeepsPage b page s t) (htu : KeepsPage b page t u) : KeepsPage b page s u where
  mem := htu.mem.trans hst.mem
  entry e he := by
    obtain ⟨n, hn⟩ := hst.entry e he
    obtain ⟨m, hm⟩ := htu.entry _ hn
    exact ⟨m, hm⟩

theorem foldl {α : Type} {f : State → α → State} (hf : ∀ s x, KeepsPage b page s (f s x)) (l : List α) (s : State) :
    KeepsPage b page s (l.foldl f s) := by
  induction l generalizing s with
  | nil => exact refl s
  | cons x l ih => exact (hf s x).trans (ih _)

theorem lastUse (s : State) (c q n : Nat) : KeepsPage b page s (setPage s c q fun e => { e with lastUse := n }) where
  mem := rfl
  entry e he := by
    rw [pageOf_setPage (g := fun e => { e with lastUse := n }) (fun _ => ⟨rfl, rfl⟩), he, Option.map_some]
    split
    · exact ⟨n, rfl⟩
    · exact ⟨e.lastUse, rfl⟩

theorem answerDeferred (s : State) (c : Nat) (p : Deferred → Bool) (status : Nat) (data : List Field) :
    KeepsPage b page s (answerDeferred s c p status data) :=
  (of_contents (s := s) (t := s.settled c p) rfl rfl).trans (of_core (answerDeferred_spec s c p status data).1)

theorem settleResumes (s : State) (c : Nat) : KeepsPage b page s (settleResumes s c) := by
  refine foldl (fun s x => ?_) ..
  have hback : KeepsPage b page s (setKv s c fun k => { k with
      convs := updW (fun y => y.conv == x.conv) (fun y => { y with resuming := false }) k.convs }) := of_contents rfl rfl
  exact hback.trans (answerDeferred ..)

theorem settlePlaces (s : State) (c : Nat) : KeepsPage b page s (settlePlaces s c) :=
  foldl (fun _ _ => answerDeferred ..) ..

theorem sendData (s : State) (c addr xid : Nat) (bs : List Byte) : KeepsPage b page s (sendData s c addr xid bs) :=
  foldl (fun _ _ => of_core (queueRsp_core ..)) ..

theorem runRead (s : State) (h : Hdr) (addr len xid : Nat) : KeepsPage b page s (runRead s h addr len xid) :=
  ((foldl (fun _ _ => lastUse ..) ..).trans (sendData ..)).trans (of_core (reply_core ..))

theorem lentRange (s : State) (c addr len who unit : Nat) : KeepsPage b page s (lentRange s c addr len who unit).2 := by
  have hcontents := lentRange_contents s c addr len who unit
  simp only [contents, Prod.mk.injEq] at hcontents
  exact of_contents hcontents.1 hcontents.2.1

theorem readOrWait (s : State) (h : Hdr) (addr len xid : Nat) : KeepsPage b page s (readOrWait s h addr len xid) := by
  have hrange := lentRange (b := b) (page := page) s h.basin addr (readable s h.basin addr len) 0 (16 * xid + 7)
  unfold Machine.readOrWait
  split
  next u hu => exact (hu ▸ hrange).trans (runRead ..)
  next u hu => exact (hu ▸ hrange).trans (of_contents rfl rfl)
  next u hu => exact (hu ▸ hrange).trans (of_core (reply_core ..))

theorem settleReads (s : State) (c : Nat) : KeepsPage b page s (settleReads s c) := by
  refine foldl (fun s d => ?_) ..
  have hleft : KeepsPage b page s (setLink s c fun l => { l with deferred := dropW (fun x => x == d) l.deferred }) := of_contents rfl rfl
  dsimp only
  split
  · exact hleft.trans (readOrWait ..)
  · exact hleft

theorem settleMoved (s : State) (c : Nat) : KeepsPage b page s (settleMoved s c) :=
  ((settleResumes ..).trans (settlePlaces ..)).trans (settleReads ..)

theorem returnLends (s : State) : KeepsPage b page s (returnLends s) := by
  have hsent (s : State) (l : Lend) : KeepsPage b page s (sendUnits s l.basin none [.lendReturn l.x l.y l.z l.index]) :=
    of_contents rfl rfl
  exact (foldl hsent ..).trans (of_contents rfl rfl)

end KeepsPage

theorem kvPageMoved_of_no_row {s : State} {b page : Nat} (hrow : rowAtPage (kvOf s b) page = none) : kvPageMoved s b page = s := by
  simp [kvPageMoved, hrow]

theorem leaveHome_contents {e : PageEnt} (hhome : e.homeT ≠ 3) (b page : Nat) (s : State) :
    contents (leaveHome b page e s) = contents s := by
  rw [leaveHome, if_neg hhome, releaseFrame_contents]

theorem mem_retiring_of_leaveHome {e : PageEnt} (hhome : e.homeT ≠ 3) {b page : Nat} {s : State} {x : Nat × Nat}
    (hx : x ∈ (leaveHome b page e s).tiers.retiring) : x ∈ s.tiers.retiring := by
  rw [leaveHome, if_neg hhome] at hx
  exact mem_retiring_of_releaseFrame hx

theorem reachHome_contents {e : PageEnt} {tier f : Nat} {s : State} (hstays : tier = 3 ∨ (tier, f) ∉ s.tiers.retiring) :
    contents (reachHome e tier f s) = contents s := by
  unfold reachHome
  split
  · exact lentPage_contents ..
  next hframe =>
    rw [if_neg]
    simpa using hstays.resolve_left hframe

/-- The move of a page of no KV row, out of a frame and to a place where it stays: what follows the switch of its home leaves the page. -/
theorem keepsPage_moveSettled {s : State} {b page tier f : Nat} {e : PageEnt} (hhome : e.homeT ≠ 3)
    (hstays : tier = 3 ∨ (tier, f) ∉ s.tiers.retiring) (hrow : rowAtPage (kvOf s b) page = none) :
    KeepsPage b page s (moveSettled b page (reachHome e tier f (leaveHome b page e s))) := by
  have hcontents : contents (reachHome e tier f (leaveHome b page e s)) = contents s :=
    (reachHome_contents (hstays.imp_right fun hno hx => hno (mem_retiring_of_leaveHome hhome hx))).trans
      (leaveHome_contents hhome b page s)
  simp only [contents, Prod.mk.injEq] at hcontents
  obtain ⟨hmem, hpages, hkvs⟩ := hcontents
  rw [moveSettled, kvPageMoved_of_no_row (by rw [kvOf, hkvs]; exact hrow)]
  exact ((KeepsPage.of_contents hmem hpages).trans (KeepsPage.returnLends ..)).trans (KeepsPage.settleMoved ..)

/-- A page of no KV row leaves a frame for a place where it stays: its entry names that place, and memory is as it was before the
switch. -/
theorem moveSettled_of_switch {u : State} {b page tier f : Nat} {e : PageEnt} (he : pageOf u b page = some e) (hhome : e.homeT ≠ 3)
    (hstays : tier = 3 ∨ (tier, f) ∉ u.tiers.retiring) (hrow : rowAtPage (kvOf u b) page = none) :
    let t := moveSettled b page (reachHome e tier f (leaveHome b page e (switchHome u b page tier f)))
    t.mem = u.mem ∧
      ∃ lastUse, pageOf t b page = some { e with homeT := tier, homeLoc := f, moving := none, lastUse := lastUse } := by
  have hkeeps := keepsPage_moveSettled (s := switchHome u b page tier f) (b := b) (page := page) hhome hstays hrow
  have hentry : pageOf (switchHome u b page tier f) b page = some { e with homeT := tier, homeLoc := f, moving := none } :=
    pageOf_setPage_same (fun _ => ⟨rfl, rfl⟩) he
  exact ⟨hkeeps.mem, hkeeps.entry _ hentry⟩

/-- Settles O24: the copy of the frame reads as the page did and leaves every other byte (`memGet_copyFrame_of_mem`,
`memGet_copyFrame_of_notMem`), and what follows the switch of the page's home keeps both (`moveSettled_of_switch`). -/
theorem pageMoveKeepsContents : Obligations.PageMoveKeepsContents := by
  unfold Obligations.PageMoveKeepsContents
  intro s b page tier f e hmem he hmoving hhome hstays hrow
  have hreads : moveReads s b page e = (.here, s) := by rw [moveReads, if_neg hhome, if_neg hhome, lentRange_empty]
  obtain ⟨htiers, hkvs⟩ := copyFrame_frame s (homeAt e) (placeAt b page tier f)
  obtain ⟨hbytes, lastUse, hpage⟩ := moveSettled_of_switch (u := copyFrame s (homeAt e) (placeAt b page tier f)) (tier := tier) (f := f)
    (by rw [pageOf, htiers]; exact he) hhome (by rw [htiers]; simpa using hstays) (by rw [kvOf, hkvs]; exact hrow)
  refine ⟨_, lastUse, exec_pageMoveComplete_of_clean he hmoving hreads nofun, hpage, fun k hk => ?_, fun a ha => ?_⟩
  · rw [hbytes, memGet_copyFrame_of_mem hmem _ _ hk]
  · rw [hbytes, memGet_copyFrame_of_notMem hmem _ ha]

end Sys2Proof.Proofs
end

section
namespace Sys2Proof.Proofs
open Machine Laws

/-! ### Answers and deferrals of a command that changes nothing else (R375, R377) -/

/-- A query: the command is taken, and answered from the state as it is. -/
theorem runsTo_of_answer {s : State} {c : Instr} {h : Hdr} {op st : Nat} {adm : Bool} {obj : Option Obj} {d : List Field}
    (ha : s.accepts c) (hk : c.call = some ⟨h, op, adm, obj⟩) (hx : exec c s = .next (reply (s.took h op) h op st d)) :
    RunsTo c s s (only h.basin [.rsp op st h.ctag d]) :=
  RunsTo.of_reply hx (took_core ..) (took_answers s h op) ((State.accepts.spec ha hk).2.1.trans_eq (took_links_length ..).symm)

/-- The command is taken, and waits for its reply. -/
theorem becomesCore_of_defer {s : State} {c : Instr} {h : Hdr} {op : Nat} {d : Deferred}
    (hx : exec c s = .next (deferCmd (s.took h op) d)) : BecomesCore c s (deferCmd s d) :=
  BecomesCore.of_next hx (deferCmd_core_congr (took_core ..) d) fun b => by rw [deferCmd_answers, took_answers]

/-! ### The commands of base models (R240, R254, R256, R308) -/

section ModelCreate
variable {s : State} {h : Hdr} {mid ntensor addr hdrs pages : Nat}

/-- The model that MODEL.CREATE enters: LOADING, neither sealed nor pinned (R256). -/
def createdModel (h : Hdr) (mid ntensor addr hdrs pages : Nat) : Model :=
  { basin := h.basin, mid := mid, sealed_ := false, ntensor := ntensor, addr := addr, pages := pages, hdrs := hdrs }

/-- A model's region is mapped and the model entered. -/
def enterModel (s : State) (m : Model) : State :=
  let u := mapPages s m.basin .model 2 (modelPages m)
  { u with models := { u.models with models := u.models.models ++ [m] } }

theorem exec_modelCreate_of_lendShort (ha : s.accepts (.modelCreate h mid ntensor addr hdrs pages))
    (hquota : modelCreateCheck s h.basin mid ntensor addr hdrs pages = stMemQuota)
    (hshort : lendShort s h.basin addr pages 2 = true) :
    exec (.modelCreate h mid ntensor addr hdrs pages) s = .next (reclaimLends s 2) := by
  obtain ⟨htaken, -, -, hfree⟩ := State.accepts.spec ha rfl
  have hrun : exec (.modelCreate h mid ntensor addr hdrs pages) s = execModelCreate h mid ntensor addr hdrs pages s := rfl
  rw [hrun, execModelCreate, if_pos (by simp [waitsForLent, htaken, hfree _ rfl, hquota, hshort])]

theorem exec_modelCreate_of_ok (ha : s.accepts (.modelCreate h mid ntensor addr hdrs pages))
    (hcheck : modelCreateCheck s h.basin mid ntensor addr hdrs pages = stOk) :
    exec (.modelCreate h mid ntensor addr hdrs pages) s =
      .next (reply (enterModel (s.took h 0x0100) (createdModel h mid ntensor addr hdrs pages)) h 0x0100 stOk []) := by
  have hrun : exec (.modelCreate h mid ntensor addr hdrs pages) s = execModelCreate h mid ntensor addr hdrs pages s := rfl
  rw [hrun, execModelCreate, if_neg (by simp [waitsForLent, hcheck, stOk, stMemQuota]), hostCmd_runs ha rfl (by simp)]
  simp only [took_modelCreateCheck, hcheck]
  rfl

end ModelCreate

theorem exec_modelSeal {s : State} {h : Hdr} {mid crcs : Nat} {m : Model} (ha : s.accepts (.modelSeal h mid crcs))
    (hm : modelOf s h.basin mid = some m) (hlist : crcListBreach s h.basin crcs m.pages = stOk) (hloading : m.sealed_ = false) :
    exec (.modelSeal h mid crcs) s =
      .next (deferCmd (setModel (s.took h 0x0101) h.basin mid fun m => { m with sealing := some crcs })
        { h := h, opcode := 0x0101, obj := .model mid }) := by
  have hrun : exec (.modelSeal h mid crcs) s = execModelSeal h mid crcs s := rfl
  rw [hrun, execModelSeal, hostCmd_runs ha rfl (by simp)]
  simp [hm, hlist, hloading]

/-- What verification finds (R255, R256): the page CRCs, then the tensor headers. -/
def sealStatus (s : State) (b crcs : Nat) (m : Model) : Nat :=
  if crcsAgree s b crcs (modelPages m) then modelBreach (rdB s b) m.addr (4096 * m.pages) m.hdrs m.ntensor else stCrcMismatch

/-- The model is sealed with its page CRCs recorded, or stays LOADING (R256). -/
def sealEnded (s : State) (b mid st : Nat) (m : Model) : State :=
  setModel (if st = stOk then recordCrcs s b (modelPages m) else s) b mid fun m => { m with sealing := none, sealed_ := st == stOk }

theorem exec_sealVerifyComplete {s : State} {b mid crcs : Nat} {m : Model} (hm : modelOf s b mid = some m)
    (hsealing : m.sealing = some crcs) : exec (.sealVerifyComplete b mid) s =
      .next (answerDeferred (sealEnded s b mid (sealStatus s b crcs m) m) b
        (fun d => d.opcode == 0x0101 && d.obj == .model mid) (sealStatus s b crcs m) []) := by
  have hrun : exec (.sealVerifyComplete b mid) s = execSealVerifyComplete b mid s := rfl
  rw [hrun, execSealVerifyComplete]
  simp only [hm, hsealing]
  cases hcrcs : crcsAgree s b crcs (modelPages m) <;> simp [sealEnded, sealStatus, hcrcs, stOk]

/-- The model goes with its programs, and its end is noted for the requests that name it (R254, R308). -/
def modelEnded (s : State) (b mid : Nat) : State :=
  let u := setModel s b mid fun m => { m with deleted := true, pinned := false }
  { u with
    models := { u.models with programs := dropW (fun p => p.basin == b && fld p.word.toNat 0 31 == mid) u.models.programs }
    serving := { u.serving with modelEnds := u.serving.modelEnds ++ [(b, mid)] } }

theorem exec_modelDelete {s : State} {h : Hdr} {mid : Nat} {m : Model} (ha : s.accepts (.modelDelete h mid))
    (hm : modelOf s h.basin mid = some m) (hfree : modelInUse s h.basin mid = false) : exec (.modelDelete h mid) s =
      .next (reply (dropDeleted (clearDeleted (sweepKv (closeTrees (modelEnded (s.took h 0x0102) h.basin mid) h.basin mid) h.basin)
        h.basin mid)) h 0x0102 stOk []) := by
  have hrun : exec (.modelDelete h mid) s = execModelDelete h mid s := rfl
  rw [hrun, execModelDelete, hostCmd_runs ha rfl (by simp)]
  simp only [took_modelOf, hm, took_modelInUse, hfree]
  rfl

/-- What MODEL.QUERY answers (R254). -/
def modelAnswer (s : State) (b mid : Nat) : Option Model → Nat × List Field
  | none => (stModelUnknown, [])
  | some m => (stOk, [.u8 (b2n m.sealed_), .u32 m.ntensor, .u32 m.pages,
      .u32 (s.models.variants.filter fun v => v.basin == b && v.base == mid && v.state != .free).length, .u8 (b2n m.pinned)])

theorem exec_modelQuery {s : State} {h : Hdr} {mid : Nat} (ha : s.accepts (.modelQuery h mid)) : exec (.modelQuery h mid) s =
    .next (reply (s.took h 0x0103) h 0x0103 (modelAnswer s h.basin mid (modelOf s h.basin mid)).1
      (modelAnswer s h.basin mid (modelOf s h.basin mid)).2) := by
  have hrun : exec (.modelQuery h mid) s = execModelQuery h mid s := rfl
  rw [hrun, execModelQuery, hostCmd_runs ha rfl (by simp), took_modelOf]
  cases modelOf s h.basin mid <;> rfl

/-- The CRC-64 that a repaired page must have: that of its entry, or the host's where the entry has none (R240). -/
def wantedCrc (s : State) (b crc : Nat) (e : PageEnt) : Nat :=
  if (ofSealed s b e.page || ofSet s b e.page) && !e.crcLost then e.crc else crc

theorem exec_modelRepair {s : State} {h : Hdr} {mid page crc : Nat} {data : List Byte} {e : PageEnt}
    (ha : s.accepts (.modelRepair h mid page crc data)) (he : pageOf s h.basin (page / 4096) = some e) (halign : page % 4096 = 0)
    (hnamed : ((modelOf s h.basin mid).isSome || (variantOf s h.basin mid).isSome) = true)
    (hof : pageOfId s h.basin mid e.page = true) (hcrc : crc64 data = wantedCrc s h.basin crc e) (hpoison : e.poison = true)
    (hroom : 0 < framesFree s 2) : exec (.modelRepair h mid page crc data) s =
      .next (reply (repairPage (s.took h 0x0105) e data (wantedCrc s h.basin crc e) 1) h 0x0105 stOk []) := by
  have hrun : exec (.modelRepair h mid page crc data) s = execModelRepair h mid page crc data s := rfl
  have hknown : ((modelOf s h.basin mid).isNone && (variantOf s h.basin mid).isNone) = false := by
    rw [← Option.not_isSome, ← Option.not_isSome, ← Bool.not_or, hnamed, Bool.not_true]
  rw [wantedCrc] at hcrc ⊢
  rw [hrun, execModelRepair, hostCmd_runs ha rfl (by simp)]
  simp only [took_modelOf, took_variantOf, took_pageOf, hknown, he]
  simp [halign, hof, hcrc, hpoison, Nat.ne_of_gt hroom]

/-- Settles O40: each command by its own lemma. -/
theorem baseModelCommandsComplete : Obligations.BaseModelCommandsComplete := by
  unfold Obligations.BaseModelCommandsComplete
  intro s h mid
  refine ⟨fun ntensor addr hdrs pages ha => ⟨exec_modelCreate_of_lendShort ha, exec_modelCreate_of_ok ha⟩,
    fun crcs m => exec_modelSeal, fun b m crcs => exec_sealVerifyComplete, fun m => exec_modelDelete, fun ha => ?_,
    fun page crc data e => exec_modelRepair⟩
  have hanswer := runsTo_of_answer ha rfl (exec_modelQuery ha)
  cases hm : modelOf s h.basin mid <;> rw [hm] at hanswer <;> exact hanswer

end Sys2Proof.Proofs
end

section
namespace Sys2Proof.Proofs
open Machine Laws

/-! ### Delta sets put forward for verification (R258, R268, R559) -/

/-- The generation that a command puts forward, not yet sized. -/
def offeredGen (setPages set crcs daddr dlen : Nat) : GenSet :=
  { set := set, setPages := setPages, daddr := daddr, dlen := dlen, crcs := crcs }

/-- The variant that VARIANT.CREATE enters: VERIFYING, its base as the delta set names it (R258). -/
def createdVariant (s : State) (b vid : Nat) (g : GenSet) : Variant :=
  { basin := b, vid := vid, index := freeIndex s, base := tierNum s b g.set 4, state := .verifying, cur := g }

section OfferedSet
variable {s : State} {h : Hdr} {vid setPages set crcs daddr dlen : Nat} (hvid : vid ≠ 0)
  (hset : setBreach s h.basin setPages set crcs daddr dlen = stOk)
include hvid hset

theorem exec_variantCreate (ha : s.accepts (.variantCreate h vid setPages set crcs daddr dlen)) (hnew : idLive s h.basin vid = false) :
    let u := s.took h 0x0200
    let g := offeredGen setPages set crcs daddr dlen
    exec (.variantCreate h vid setPages set crcs daddr dlen) s = .next (deferCmd
      (addVerify { u with models := { u.models with variants := u.models.variants ++ [createdVariant s h.basin vid g] } }
        { basin := h.basin, vid := vid, update := false, crcs := crcs, gs := g }) { h := h, opcode := 0x0200, obj := .model vid }) := by
  intro u g
  have hrun : exec (.variantCreate h vid setPages set crcs daddr dlen) s = execVariantCreate h vid setPages set crcs daddr dlen s := rfl
  rw [hrun, execVariantCreate, hostCmd_runs ha rfl (by simp)]
  simp only [took_idLive, took_setBreach, took_freeIndex, took_tierNum, if_neg hvid, hnew, hset]
  rfl

theorem exec_variantUpdate (ha : s.accepts (.variantUpdate h vid setPages set crcs daddr dlen))
    (hserves : ((variantOf s h.basin vid).any fun v => v.state.serves) = true)
    (huntrained : (s.trains.any fun t => t.basin == h.basin && fld t.word.toNat 32 63 == vid) = false) :
    exec (.variantUpdate h vid setPages set crcs daddr dlen) s = .next (deferCmd (addVerify (s.took h 0x0201)
      { basin := h.basin, vid := vid, update := true, crcs := crcs, gs := offeredGen setPages set crcs daddr dlen })
        { h := h, opcode := 0x0201, obj := .model vid }) := by
  have hrun : exec (.variantUpdate h vid setPages set crcs daddr dlen) s = execVariantUpdate h vid setPages set crcs daddr dlen s := rfl
  rw [hrun, execVariantUpdate, hostCmd_runs ha rfl (by simp)]
  simp only [took_variantOf, took_trains_field, took_setBreach, if_neg hvid, hserves, huntrained, hset]
  rfl

end OfferedSet

/-- The verification of a variant's set is over. -/
def verifyEnded (s : State) (b vid : Nat) : State :=
  { s with models := { s.models with verifies := dropFirst (fun y => y.basin == b && y.vid == vid) s.models.verifies } }

/-- A new variant whose set has passed: its page CRCs are recorded, and it is COLD (R258). -/
def variantPassed (s : State) (b vid : Nat) (g : GenSet) : State :=
  let w := recordCrcs s b (setPagesOf g)
  setVariant w b vid fun v => { v with cur := g, state := .cold, base := tierNum w b g.set 4 }

theorem exec_deltaVerifyComplete_of_created {s : State} {b vid : Nat} {x : Verify} {g : GenSet}
    (hx : (s.models.verifies.find? fun x => x.basin == b && x.vid == vid) = some x) (hhost : x.tid = none) (hnew : x.update = false)
    (hpass : verifyStatus s x = (stOk, g)) : exec (.deltaVerifyComplete b vid) s =
      .next (answerDeferred (resetBlocked (variantPassed (verifyEnded s b vid) b vid g) b vid) b
        (fun d => d.opcode == 0x0200 && d.obj == .model vid) stOk []) := by
  have hrun : exec (.deltaVerifyComplete b vid) s = execDeltaVerifyComplete b vid s := rfl
  rw [hrun, execDeltaVerifyComplete]
  simp only [hx, hhost, hnew, hpass]
  rfl

/-! ### The end of a variant (R270, R271, R287) -/

/-- Commands still find a variant that has not been deleted (R270). -/
theorem filter_variantOf_of_ne_retiring {s : State} {b vid : Nat} {v : Variant} (hv : variantOf s b vid = some v)
    (hlive : v.state ≠ .retiring) : (variantOf s b vid).filter (fun v => v.state != .retiring) = some v := by
  simp [hv, hlive]

/-- A variant retires: its prefetch is answered, its build stops, C0 steps lose its pin, and no set of it is verified any more (R270). -/
def variantRetired (s : State) (b vid : Nat) : State :=
  let u := answerDeferred s b (fun d => d.opcode == 0x0205 && d.obj == .model vid) stVariantDeleted []
  let u := setVariant u b vid fun v => { v with state := .retiring, building := 0, blocked := false, pinned := false }
  let u := voidVids u b [vid]
  { u with models := { u.models with verifies := dropW (fun x => x.basin == b && x.vid == vid) u.models.verifies } }

theorem exec_variantDelete {s : State} {h : Hdr} {vid : Nat} {v : Variant} (ha : s.accepts (.variantDelete h vid))
    (hfree : ((linkOf s h.basin).deferred.any fun d => d.obj == .model vid && d.opcode != 0x0205) = false)
    (hv : variantOf s h.basin vid = some v) (hlive : v.state ≠ .retiring)
    (huntaught : (s.trains.any fun t => t.basin == h.basin && fld t.word.toNat 64 95 == vid) = false) :
    exec (.variantDelete h vid) s = .next (reply (clearRetiring
      (sweepKv (closeTrees (variantRetired (s.took h 0x0202) h.basin vid) h.basin vid) h.basin) h.basin vid) h 0x0202 stOk []) := by
  have hrun : exec (.variantDelete h vid) s = execVariantDelete h vid s := rfl
  rw [hrun, execVariantDelete]
  simp only [hfree, if_neg Bool.false_ne_true]
  rw [hostCmd_runs ha rfl (by simp)]
  simp only [took_variantOf, took_trains_field, filter_variantOf_of_ne_retiring hv hlive, huntaught]
  rfl

theorem exec_variantRetireComplete {s : State} {b vid : Nat} {v : Variant} (hv : variantOf s b vid = some v)
    (hretiring : v.state = .retiring) (hsteps : stepsOfVariant s b vid = false) (hreqs : reqsOf s b vid = [])
    (hconvs : ((kvOf s b).convs.any fun c => c.vid == vid) = false)
    (hcleared : (s.tiers.clearing.any fun c => c.basin == b && c.obj == vid) = false) (hunmapped : v.unmapped = true)
    (htrains : (s.trains.any fun t => t.basin == b && fld t.word.toNat 32 63 == vid) = false) :
    exec (.variantRetireComplete b vid) s = .next { s with models := { s.models with
      variants := dropW (fun v => v.basin == b && v.vid == vid) s.models.variants } } := by
  have hrun : exec (.variantRetireComplete b vid) s = execVariantRetireComplete b vid s := rfl
  rw [hrun, execVariantRetireComplete]
  simp only [hv, hretiring, hsteps, hreqs, hconvs, hcleared, hunmapped, htrains]
  rfl

/-! ### Pins, queries and prefetches (R259, R264, R266, R560) -/

section Pin
variable {s : State} {h : Hdr} {vid pin : Nat} (ha : s.accepts (.variantPin h vid pin))
include ha

theorem exec_variantPin_of_variant {v : Variant} (hv : variantOf s h.basin vid = some v) (hlive : v.state ≠ .retiring) :
    exec (.variantPin h vid pin) s = .next (reply
      (unpinVoid (setVariant (s.took h 0x0203) h.basin vid fun v => { v with pinned := pin != 0 }) h.basin vid pin) h 0x0203 stOk []) := by
  have hrun : exec (.variantPin h vid pin) s = execVariantPin h vid pin s := rfl
  rw [hrun, execVariantPin, hostCmd_runs ha rfl (by simp)]
  simp only [took_variantOf, filter_variantOf_of_ne_retiring hv hlive]

theorem exec_variantPin_of_model {m : Model} (hnone : variantOf s h.basin vid = none) (hm : sealedOf s h.basin vid = some m) :
    exec (.variantPin h vid pin) s = .next (reply (askCopies
      (unpinVoid (setModel (s.took h 0x0203) h.basin vid fun m => { m with pinned := pin != 0 }) h.basin vid pin) h.basin)
      h 0x0203 stOk []) := by
  have hrun : exec (.variantPin h vid pin) s = execVariantPin h vid pin s := rfl
  rw [hrun, execVariantPin, hostCmd_runs ha rfl (by simp)]
  simp only [took_variantOf, took_sealedOf, hnone, hm, Option.filter_none]

end Pin

/-- What VARIANT.QUERY answers (R259). -/
def variantAnswer (s : State) : Option Variant → Nat × List Field
  | none => (stVariantUnknown, [])
  | some v => (stOk, [.record 64 (variantWord s v)])

theorem exec_variantQuery {s : State} {h : Hdr} {vid : Nat} (ha : s.accepts (.variantQuery h vid)) : exec (.variantQuery h vid) s =
    .next (reply (s.took h 0x0204) h 0x0204 (variantAnswer s (variantOf s h.basin vid)).1
      (variantAnswer s (variantOf s h.basin vid)).2) := by
  have hrun : exec (.variantQuery h vid) s = execVariantQuery h vid s := rfl
  rw [hrun, execVariantQuery, hostCmd_runs ha rfl (by simp), took_variantOf]
  cases variantOf s h.basin vid <;> rfl

section Prefetch
variable {s : State} {h : Hdr} {vid : Nat} {v : Variant} (ha : s.accepts (.variantPrefetch h vid))
  (hv : variantOf s h.basin vid = some v)
include ha hv

theorem exec_variantPrefetch_of_resident (hresident : v.state = .resident) :
    exec (.variantPrefetch h vid) s = .next (reply (s.took h 0x0205) h 0x0205 stOk []) := by
  have hrun : exec (.variantPrefetch h vid) s = execVariantPrefetch h vid s := rfl
  have hlive := filter_variantOf_of_ne_retiring hv (by rw [hresident]; decide)
  rw [hrun, execVariantPrefetch, hostCmd_runs ha rfl (by simp)]
  simp only [took_variantOf, hlive, hresident]
  rfl

theorem exec_variantPrefetch_of_waiting (hlive : v.state ≠ .retiring) (haway : v.state ≠ .resident) (hclean : v.blocked = false) :
    exec (.variantPrefetch h vid) s =
      .next (deferCmd (s.took h 0x0205) { h := h, opcode := 0x0205, obj := .model vid }) := by
  have hrun : exec (.variantPrefetch h vid) s = execVariantPrefetch h vid s := rfl
  rw [hrun, execVariantPrefetch, hostCmd_runs ha rfl (by simp)]
  simp only [took_variantOf, filter_variantOf_of_ne_retiring hv hlive, beq_false_of_ne haway, hclean]
  rfl

end Prefetch

/-! ### Materialisation (R260 to R264, R268) -/

section Build
variable {s : State} {b vid : Nat} {v : Variant} {m : Model} (hv : variantOf s b vid = some v) (hm : modelOf s b v.base = some m)
include hv hm

theorem exec_materialisationStart_of_cold (hcold : v.state = .cold) (hidle : v.building = 0) (hclean : v.blocked = false)
    (hneeded : variantNeeded s b vid = true) (hsource : badSource s m v.cur = none) : exec (.materialisationStart b vid) s =
      .next (askCopies (setVariant s b vid fun v => { v with state := .materialising, building := 1 }) b) := by
  have hrun : exec (.materialisationStart b vid) s = execMaterialisationStart b vid s := rfl
  rw [hrun, execMaterialisationStart]
  simp only [hv, hm, hcold, hidle, hclean, hneeded, hsource]
  rfl

theorem exec_materialisationComplete_of_current (hmaking : v.state = .materialising) (hbuilds : v.building = 1)
    (hbad : badSource (dropBadDerived s b v.cur) m v.cur = none) (hfails : failingSource (dropBadDerived s b v.cur) m v.cur = none)
    (hkept : (derivedMapped (dropBadDerived s b v.cur) b v.cur).any (badPage (dropBadDerived s b v.cur) b) = false)
    (hfits : genFits (dropBadDerived s b v.cur) m v.cur = true) : exec (.materialisationComplete b vid) s =
      .next (answerDeferred (setVariant (makeGen (dropBadDerived s b v.cur) m v.cur) b vid fun v => { v with
        state := .resident, building := 0, mats := sat 32 (v.mats + 1) }) b
        (fun d => d.opcode == 0x0205 && d.obj == .model vid) stOk []) := by
  have hrun : exec (.materialisationComplete b vid) s = execMaterialisationComplete b vid s := rfl
  rw [hrun, execMaterialisationComplete]
  simp only [hv, hm, hmaking, hbuilds, hbad, hfails, hkept, hfits]
  rfl

theorem exec_materialisationComplete_of_pending {g : GenSet} (hresident : v.state = .resident) (hbuilds : v.building = 2)
    (hpend : v.pend = some g) (hbad : badSource s m g = none) (hfails : failingSource s m g = none) (hfits : genFits s m g = true) :
    exec (.materialisationComplete b vid) s = .next (setVariant (makeGen s m g) b vid fun v => { v with
      pendBuilt := true, building := 0, mats := sat 32 (v.mats + 1) }) := by
  have hrun : exec (.materialisationComplete b vid) s = execMaterialisationComplete b vid s := rfl
  rw [hrun, execMaterialisationComplete]
  simp only [hv, hm, hresident, hbuilds, hpend, hbad, hfails, hfits]
  rfl

end Build

/-- Settles O41: each command and event by its own lemma. -/
theorem variantCommandsComplete : Obligations.VariantCommandsComplete := by
  unfold Obligations.VariantCommandsComplete
  intro s h vid
  refine ⟨fun setPages set crcs daddr dlen hvid hset => ⟨exec_variantCreate hvid hset, exec_variantUpdate hvid hset⟩,
    fun b x g => exec_deltaVerifyComplete_of_created, fun v => exec_variantDelete, ?retired, fun pin v ha => exec_variantPin_of_variant ha,
    fun pin m ha => exec_variantPin_of_model ha, fun ha => ?query, ?prefetched, ?prefetch, fun b v m => exec_materialisationStart_of_cold,
    fun b v m => exec_materialisationComplete_of_current,
    fun b v m g hv hm => exec_materialisationComplete_of_pending hv hm⟩
  case retired =>
    intro b v hv hretiring hsteps hreqs hconvs hcleared hunmapped htrains
    exact BecomesCore.of_next
      (exec_variantRetireComplete hv hretiring hsteps hreqs hconvs hcleared hunmapped htrains) rfl fun _ => rfl
  case query =>
    have hanswer := runsTo_of_answer ha rfl (exec_variantQuery ha)
    cases hv : variantOf s h.basin vid <;> rw [hv] at hanswer <;> exact hanswer
  case prefetched =>
    exact fun v ha hv hresident => runsTo_of_answer ha rfl (exec_variantPrefetch_of_resident ha hv hresident)
  case prefetch =>
    exact fun v ha hv hlive haway hclean => becomesCore_of_defer (exec_variantPrefetch_of_waiting ha hv hlive haway hclean)

end Sys2Proof.Proofs
end


section
namespace Sys2Proof.Proofs
open Machine Laws

/-! ### A command that is taken (R370, R376) -/

/-- What is known of a host command that the core takes. -/
theorem State.takes.spec {s : State} {c : Instr} {h : Hdr} {op : Nat} {adm : Bool} {obj : Option Obj} (ht : s.takes c)
    (hk : c.call = some ⟨h, op, adm, obj⟩) : taken s h op c.params = true ∧ h.basin < s.links.length := by
  obtain ⟨k, hk', htaken, hlink⟩ := ht
  cases hk.symm.trans hk'
  exact ⟨htaken, hlink⟩

theorem State.accepts.takes {s : State} {c : Instr} (ha : s.accepts c) : s.takes c := by
  obtain ⟨k, hk, htaken, hlink, -⟩ := ha
  exact ⟨k, hk, htaken, hlink⟩

/-- Only security commands need a role (R450): any other that is taken, without the mark (A), runs when no reply to its object waits. -/
theorem hostCmd_of_takes {s : State} {c : Instr} {h : Hdr} {op : Nat} {callObj obj : Option Obj} {body : State → State} (ht : s.takes c)
    (hk : c.call = some ⟨h, op, false, callObj⟩) (hop : op / 256 ≠ 9) (hfree : ∀ o ∈ obj, objBusy s h.basin o = false) :
    hostCmd s h op false obj c body = .next (body (s.took h op)) :=
  hostCmd_body (State.takes.spec ht hk).1 (by simp [roleHeld, hop]) hfree (by simp)

/-- The command is taken, what it does is done without a change to the links, and one reply follows: it runs to what was done. -/
theorem runsTo_of_takes {s u e : State} {c : Instr} {h : Hdr} {op st : Nat} {adm : Bool} {obj : Option Obj} {d : List Field}
    (ht : s.takes c) (hk : c.call = some ⟨h, op, adm, obj⟩) (hx : exec c s = .next (reply u h op st d))
    (hlinks : u.links = (s.took h op).links) (hrest : { u with links := e.links } = e) (he : e.links = s.links) :
    RunsTo c s e (only h.basin [.rsp op st h.ctag d]) := by
  refine RunsTo.of_reply hx (core_of_links ?_ hrest) (fun b => ?_) ?_
  · rw [hlinks, took_links, he]
  · rw [answers_of_links hlinks, took_answers]
  · rw [hlinks, took_links_length]
    exact (State.takes.spec ht hk).2

/-! ### The store after an update (R278) -/

theorem kvOf_setKv (s : State) (b c : Nat) (f : Kv → Kv) :
    kvOf (setKv s b f) c = if b = c ∧ c < s.kvs.length then f (kvOf s c) else kvOf s c := by
  simp only [kvOf, setKv, List.getD_eq_getElem?_getD, List.getElem?_modify]
  by_cases hc : c < s.kvs.length
  · by_cases hb : b = c <;> simp [hc, hb]
  · simp [hc]

theorem kvOf_setKv_same {s : State} {b : Nat} (hb : b < s.kvs.length) (f : Kv → Kv) : kvOf (setKv s b f) b = f (kvOf s b) := by
  rw [kvOf_setKv, if_pos ⟨rfl, hb⟩]

theorem setKv_setKv (s : State) (b : Nat) (f g : Kv → Kv) : setKv (setKv s b f) b g = setKv s b (g ∘ f) := by
  simp only [setKv, List.modify_modify_eq]

/-! ### KV.CONFIGURE (R279, R303) -/

/-- The bits of TTL_S in a configuration record. -/
theorem getLsbD_ttlMask (i : Nat) : (BitVec.ofNat 384 (0xFFFFFFFF * 2 ^ 32)).getLsbD i = (decide (32 ≤ i) && decide (i < 64)) := by
  rw [BitVec.getLsbD_ofNat, Nat.testBit_mul_two_pow, show 0xFFFFFFFF = 2 ^ 32 - 1 from rfl, Nat.testBit_two_pow_sub_one]
  by_cases hlo : 32 ≤ i <;> by_cases hhi : i < 64 <;> simp [hlo, hhi] <;> omega

/-- A record that agrees with the one in force outside TTL_S asks for nothing more. -/
theorem kvMoreThanTtl_of_agree {old new : BitVec 384} (hagree : ∀ i, i < 32 ∨ 64 ≤ i → new.getLsbD i = old.getLsbD i) :
    kvMoreThanTtl old new = false := by
  have hmasked : old &&& ~~~(BitVec.ofNat 384 (0xFFFFFFFF * 2 ^ 32)) = new &&& ~~~(BitVec.ofNat 384 (0xFFFFFFFF * 2 ^ 32)) := by
    refine BitVec.eq_of_getLsbD_eq fun i hi => ?_
    simp only [BitVec.getLsbD_and, BitVec.getLsbD_not, getLsbD_ttlMask]
    by_cases hout : i < 32 ∨ 64 ≤ i
    · rw [hagree i hout]
    · have hin : 32 ≤ i ∧ i < 64 := by omega
      simp [hin]
  simpa [kvMoreThanTtl] using hmasked

/-- Rows in use stand in the way of more than a new TTL_S only. -/
theorem kvCfgCheck_of_ttl {s : State} {b : Nat} {rec : BitVec 384} (hb : b < s.kvs.length)
    (hmore : kvMoreThanTtl (kvOf s b).cfg rec = false) :
    kvCfgCheck s b rec = kvCfgCheck (setKv s b fun k => { k with rows := [] }) b rec := by
  unfold kvCfgCheck
  rw [kvOf_setKv_same hb]
  simp only [hmore, Bool.false_and]
  rfl

/-- More than a new TTL_S: the pages of the store and the pad rows go, and the new list area is mapped and booked (R279, R309, R561). -/
def storeLaidOut (s : State) (b : Nat) (rec : BitVec 384) : State :=
  let u := unmapPages s b ((s.tiers.pages.filter fun e => e.basin == b && e.kind == .kv).map (·.page))
  let u := { u with serving := { u.serving with
    groups := updW (fun g => g.basin == b) (fun g => { g with padRow := none, padBook := [] }) u.serving.groups } }
  let u := setKv u b fun k => { k with cfg := rec, rows := [], nodes := [] }
  rebook (mapPages u b .kv 1 ((List.range (kvFld (kvOf u b) 320 351)).map (· + kvFld (kvOf u b) 256 303 / 4096))) b

theorem exec_kvConfigure {s : State} {h : Hdr} {rec : BitVec 384} (ht : s.takes (.kvConfigure h rec))
    (hcheck : kvCfgCheck s h.basin rec = stOk) : exec (.kvConfigure h rec) s = .next (reply (setKv
      (if kvMoreThanTtl (kvOf s h.basin).cfg rec then storeLaidOut (s.took h 0x0400) h.basin rec
        else setKv (s.took h 0x0400) h.basin fun k => { k with cfg := rec })
      h.basin fun k => { k with stats := {} }) h 0x0400 stOk []) := by
  have hrun : exec (.kvConfigure h rec) s = execKvConfigure h rec s := rfl
  rw [hrun, execKvConfigure, hostCmd_of_takes ht rfl (by decide) (by simp)]
  simp only [took_kvCfgCheck, hcheck]
  rfl

/-- TTL_S alone: the record is in force, and the counts start again at zero. -/
theorem runsTo_kvConfigure_of_ttl {s : State} {h : Hdr} {rec : BitVec 384} (ht : s.takes (.kvConfigure h rec))
    (hcheck : kvCfgCheck s h.basin rec = stOk) (hmore : kvMoreThanTtl (kvOf s h.basin).cfg rec = false) :
    RunsTo (.kvConfigure h rec) s
      (setKv (setKv s h.basin fun k => { k with cfg := rec }) h.basin fun k => { k with stats := {} })
      (only h.basin [.rsp 0x0400 stOk h.ctag []]) := by
  refine runsTo_of_takes ht rfl (exec_kvConfigure ht hcheck) ?_ ?_ rfl <;> rw [hmore, if_neg Bool.false_ne_true] <;> rfl

/-! ### The accounting record (R303) -/

/-- The current values of the record. -/
def kvGauges (s : State) (b : Nat) : Nat :=
  let k := kvOf s b
  slotsOf (fun r => r.tier == 1) k + 2 ^ 32 * c0Booked s b + 2 ^ 64 * slotsOf (fun r => r.tier == 2) k +
    2 ^ 96 * (k.rows.filter fun r => r.state == .shared).length +
    2 ^ 128 * (k.nodes.filter fun n => rowRefs s b n.row == 0).length + 2 ^ 160 * k.convs.length +
    2 ^ 192 * sat 16 ((liveReqs s b).filter fun r => r.state == .suspended).length

/-- The counts of the record, above its current values. -/
def kvCounts (k : Kv) : Nat :=
  k.stats.hits + 2 ^ 64 * k.stats.misses + 2 ^ 96 * k.stats.collisions + 2 ^ 128 * k.stats.expiredTtl +
    2 ^ 160 * k.stats.expiredReclaim + 2 ^ 192 * k.stats.cacheWaits

theorem kvStatsWord_eq (s : State) (b : Nat) : kvStatsWord s b = kvGauges s b + 2 ^ 256 * kvCounts (kvOf s b) := by
  simp only [kvStatsWord, kvGauges, kvCounts]
  omega

theorem fld_kvStatsWord_gauges (s : State) (b : Nat) : fld (kvStatsWord s b) 0 255 = kvGauges s b % 2 ^ 256 := by
  rw [kvStatsWord_eq, fld, Nat.shiftRight_zero, Nat.add_mul_mod_self_left]

/-- The current values read the rows, the nodes and the conversations only. -/
theorem kvGauges_setKv {s : State} {b : Nat} {f : Kv → Kv} (hb : b < s.kvs.length) (hrows : ∀ k, (f k).rows = k.rows)
    (hnodes : ∀ k, (f k).nodes = k.nodes) (hconvs : ∀ k, (f k).convs = k.convs) : kvGauges (setKv s b f) b = kvGauges s b := by
  have hrefs (id : Nat) : rowRefs (setKv s b f) b id = rowRefs s b id := by
    rw [rowRefs, kvOf_setKv_same hb, hconvs]
    rfl
  simp only [kvGauges, slotsOf, kvOf_setKv_same hb, hrows, hnodes, hconvs, hrefs]
  rfl

/-- Settles O20: TTL_S alone keeps rows, nodes and conversations, so the check does not ask for free rows and the gauges stay. -/
theorem kvConfigureOfTtlKeepsRows : Obligations.KvConfigureOfTtlKeepsRows := by
  unfold Obligations.KvConfigureOfTtlKeepsRows
  intro s h rec ht hb hagree
  have hmore := kvMoreThanTtl_of_agree hagree
  refine ⟨kvCfgCheck_of_ttl hb hmore, fun hcheck => ⟨?_, ?_, ?_⟩⟩
  · have hruns := runsTo_kvConfigure_of_ttl ht hcheck hmore
    rwa [setKv_setKv] at hruns
  · rw [fld_kvStatsWord_gauges, fld_kvStatsWord_gauges]
    exact congrArg (· % 2 ^ 256) (kvGauges_setKv hb (fun _ => rfl) (fun _ => rfl) fun _ => rfl)
  · rw [kvOf_setKv_same hb]

/-! ### KV.RESUME and KV.DROP (R299, R300) -/

/-- The conversation is being resumed, or a request has taken it over (R300). -/
def convBusy (s : State) (b conv : Nat) : Bool := (convOf s b conv).any (·.resuming) || (convTaken s b conv).isSome

theorem convBusy_of_paused {s : State} {b conv : Nat} {c : Conv} (hc : convOf s b conv = some c) (hstays : c.resuming = false)
    (hfree : convTaken s b conv = none) : convBusy s b conv = false := by
  simp [convBusy, hc, hstays, hfree]

section Conversation
variable {s : State} {h : Hdr} {conv : Nat}

theorem exec_kvDrop_of_busy (ht : s.takes (.kvDrop h conv)) (hbusy : convBusy s h.basin conv = true) :
    exec (.kvDrop h conv) s = .next (reply (s.took h 0x0403) h 0x0403 stKvBusy []) := by
  have hrun : exec (.kvDrop h conv) s = execKvDrop h conv s := rfl
  rw [convBusy] at hbusy
  rw [hrun, execKvDrop]
  simp only [hbusy, if_true]
  exact hostCmd_of_takes ht rfl (by decide) (by simp)

theorem exec_kvResume_of_busy (ht : s.takes (.kvResume h conv)) (hbusy : convBusy s h.basin conv = true) :
    exec (.kvResume h conv) s = .next (reply (s.took h 0x0402) h 0x0402 stKvBusy []) := by
  have hrun : exec (.kvResume h conv) s = execKvResume h conv s := rfl
  rw [convBusy] at hbusy
  rw [hrun, execKvResume]
  simp only [hbusy, if_true]
  exact hostCmd_of_takes ht rfl (by decide) (by simp)

section Paused
variable {c : Conv} (hobj : objBusy s h.basin (.conv conv) = false) (hc : convOf s h.basin conv = some c) (hstays : c.resuming = false)
  (hfree : convTaken s h.basin conv = none)
include hobj hc hstays hfree

theorem exec_kvDrop_of_paused (ht : s.takes (.kvDrop h conv)) :
    exec (.kvDrop h conv) s = .next (reply (endConv (s.took h 0x0403) h.basin conv 3) h 0x0403 stOk []) := by
  have hrun : exec (.kvDrop h conv) s = execKvDrop h conv s := rfl
  have hidle := convBusy_of_paused hc hstays hfree
  rw [convBusy] at hidle
  rw [hrun, execKvDrop]
  simp only [hidle, if_neg Bool.false_ne_true]
  rw [hostCmd_of_takes ht rfl (by decide) (by simp [hobj]), took_convOf, hc]

/-- The conversation is marked as being resumed, its time to live starts again, and its rows come back before the reply (R298, R299). -/
theorem exec_kvResume_of_paused (ht : s.takes (.kvResume h conv)) : exec (.kvResume h conv) s =
    .next (settleResumes (bringBack (deferCmd (setKv (s.took h 0x0402) h.basin fun k => { k with
      convs := updW (fun c => c.conv == conv) (fun c => { c with resuming := true, pauseSec := ttlNow s }) k.convs })
        { h := h, opcode := 0x0402, obj := .conv conv }) h.basin) h.basin) := by
  have hrun : exec (.kvResume h conv) s = execKvResume h conv s := rfl
  have hidle := convBusy_of_paused hc hstays hfree
  rw [convBusy] at hidle
  rw [hrun, execKvResume]
  simp only [hidle, if_neg Bool.false_ne_true]
  rw [hostCmd_of_takes ht rfl (by decide) (by simp [hobj]), took_convOf, hc]
  rfl

end Paused
end Conversation

/-- Settles O19: a busy conversation refuses both commands, whatever waits on it; a paused one is ended. -/
theorem kvDropAndResumeRefusedWhenBusy : Obligations.KvDropAndResumeRefusedWhenBusy := by
  unfold Obligations.KvDropAndResumeRefusedWhenBusy
  intro s h conv
  refine ⟨fun c ht hc hstays hfree hobj => exec_kvDrop_of_paused hobj hc hstays hfree ht, fun hbusy => ?_⟩
  have hbusy : convBusy s h.basin conv = true := by simpa [convBusy] using hbusy
  exact ⟨fun ht => runsTo_of_takes ht rfl (exec_kvDrop_of_busy ht hbusy) rfl rfl rfl,
    fun ht => runsTo_of_takes ht rfl (exec_kvResume_of_busy ht hbusy) rfl rfl rfl⟩

/-! ### KV.QUERY, KV.PREFIX_FLUSH, KV.STATS and the check of the times to live (R278, R287, R298, R303) -/

/-- What KV.QUERY answers: of a conversation that is kept, else of the request that took it over, whose rows may be on their way (R278). -/
def kvAnswer (s : State) (b conv : Nat) : Option Conv → Option Request → Nat × List Field
  | some c, _ =>
    let n := rowCounts (kvOf s b) c.rows
    (stOk, [.u8 (b2n c.resuming), .u32 n.1, .u32 n.2.1, .u32 n.2.2, .u32 (convLeft s c)])
  | none, some r =>
    let n := rowCounts (kvOf s b) r.rows
    let back := r.rows.all fun id => (rowOf (kvOf s b) id).any fun w => w.tier == 1 && w.moving.isNone
    (stOk, [.u8 (if r.state == .queued && !back then 1 else 2), .u32 n.1, .u32 n.2.1, .u32 n.2.2, .u32 0])
  | none, none => (convMissing s b conv, [])

theorem exec_kvQuery {s : State} {h : Hdr} {conv : Nat} (ht : s.takes (.kvQuery h conv)) : exec (.kvQuery h conv) s =
    .next (reply (s.took h 0x0401) h 0x0401 (kvAnswer s h.basin conv (convOf s h.basin conv) (convTaken s h.basin conv)).1
      (kvAnswer s h.basin conv (convOf s h.basin conv) (convTaken s h.basin conv)).2) := by
  have hrun : exec (.kvQuery h conv) s = execKvQuery h conv s := rfl
  rw [hrun, execKvQuery, hostCmd_of_takes ht rfl (by decide) (by simp), took_convOf, took_convTaken]
  cases convOf s h.basin conv <;> cases convTaken s h.basin conv <;> rfl

/-- The idle nodes that a flush frees (R287). -/
def idleNodes (s : State) (b vid : Nat) : List Node :=
  (kvOf s b).nodes.filter fun n => (vid == 0 || n.vid == vid) && rowRefs s b n.row == 0

section Flush
variable {s : State} {h : Hdr} {vid : Nat} (ha : s.accepts (.kvPrefixFlush h vid))
include ha

theorem exec_kvPrefixFlush_of_none (hnone : idleNodes s h.basin vid = []) :
    exec (.kvPrefixFlush h vid) s = .next (reply (s.took h 0x0404) h 0x0404 stOk [.u32 0]) := by
  have hrun : exec (.kvPrefixFlush h vid) s = execKvPrefixFlush h vid s := rfl
  rw [idleNodes] at hnone
  rw [hrun, execKvPrefixFlush, hostCmd_runs ha rfl (by simp)]
  simp only [took_kvOf, took_rowRefs, hnone]
  rfl

theorem exec_kvPrefixFlush_of_some (hsome : idleNodes s h.basin vid ≠ []) : exec (.kvPrefixFlush h vid) s =
    .next (settleFlush (deferCmd (setKv
      ((idleNodes s h.basin vid).foldl (fun s n => freeNode s h.basin n) (s.took h 0x0404)) h.basin fun k => { k with
        flushing := k.flushing ++ [(vid, (idleNodes s h.basin vid).length, (idleNodes s h.basin vid).map (·.row))] })
      { h := h, opcode := 0x0404, obj := .ptree vid }) h.basin) := by
  have hrun : exec (.kvPrefixFlush h vid) s = execKvPrefixFlush h vid s := rfl
  have hwork := List.isEmpty_eq_false_iff.2 hsome
  rw [idleNodes] at hwork
  rw [hrun, execKvPrefixFlush, hostCmd_runs ha rfl (by simp)]
  simp only [took_kvOf, took_rowRefs, hwork]
  rfl

end Flush

theorem exec_kvStats {s : State} {h : Hdr} (ha : s.accepts (.kvStats h)) : exec (.kvStats h) s =
    .next (reply (s.took h 0x0405) h 0x0405 stOk [.record 64 (kvStatsWord s h.basin)]) := by
  have hrun : exec (.kvStats h) s = execKvStats h s := rfl
  rw [hrun, execKvStats, hostCmd_runs ha rfl (by simp), took_kvStatsWord]

theorem exec_kvTtlCheck {s : State} (hsecond : s.now % 1000000000 = 0) : exec .kvTtlCheck s =
    .next ((List.range 16).foldl (fun s b => ((kvOf s b).convs.filter (convDue s)).foldl (fun s c => endConv s b c.conv 0) s) s) := by
  have hrun : exec .kvTtlCheck s = execKvTtlCheck s := rfl
  rw [hrun, execKvTtlCheck, if_neg (by simp [hsecond])]

/-- Settles O42: each command and the check of the times to live by its own lemma. -/
theorem kvCommandsComplete : Obligations.KvCommandsComplete := by
  unfold Obligations.KvCommandsComplete
  intro s h
  refine ⟨fun rec ha => runsTo_kvConfigure_of_ttl (State.accepts.takes ha), ?more, ?query,
    fun conv c ha hobj hc hstays hfree => exec_kvResume_of_paused hobj hc hstays hfree (State.accepts.takes ha),
    fun conv c ha hobj hc hstays hfree => exec_kvDrop_of_paused hobj hc hstays hfree (State.accepts.takes ha), ?flush,
    fun ha => runsTo_of_answer ha rfl (exec_kvStats ha), exec_kvTtlCheck⟩
  case more =>
    intro rec ha hcheck hmore
    have hrun := exec_kvConfigure (State.accepts.takes ha) hcheck
    rw [if_pos hmore] at hrun
    exact hrun
  case query =>
    intro conv ha
    have hanswer := runsTo_of_answer ha rfl (exec_kvQuery (State.accepts.takes ha))
    cases hc : convOf s h.basin conv <;> cases hr : convTaken s h.basin conv <;> rw [hc, hr] at hanswer <;> exact hanswer
  case flush =>
    exact fun vid ha => ⟨fun hnone => runsTo_of_answer ha rfl (exec_kvPrefixFlush_of_none ha hnone),
      exec_kvPrefixFlush_of_some ha⟩

end Sys2Proof.Proofs
end

section
namespace Sys2Proof.Proofs
open Machine Laws

/-! ### What the clearing of rows leaves of a store (R280, R297 to R300) -/

/-- What the end of a conversation reads again once its rows are cleared: the time, the basins, and the conversations of a store, those
paused and those that have ended. -/
def convView (b : Nat) (s : State) : Nat × List Basin × List Conv × List Nat :=
  (s.now, s.basins, (kvOf s b).convs, (kvOf s b).gone)

theorem convView_of_core {s t : State} (h : t.core = s.core) (b : Nat) : convView b t = convView b s := by
  have hview := congrArg (convView b) h
  exact hview

theorem convView_setKv {f : Kv → Kv} (hconvs : ∀ k, (f k).convs = k.convs) (hgone : ∀ k, (f k).gone = k.gone) (s : State) (b c : Nat) :
    convView c (setKv s b f) = convView c s := by
  simp only [convView, kvOf_setKv]
  split
  · rw [hconvs, hgone]
    rfl
  · rfl

theorem releasePage_convView (s : State) (b obj tier f : Nat) (page : Option PageEnt) (c : Nat) :
    convView c (releasePage s b obj tier f page) = convView c s := by
  unfold releasePage
  split
  · rfl
  · dsimp only
    split
    · rw [convView_of_core (retireFrame_core ..)]
      split <;> rfl
    · rfl

theorem unmapPage_convView (s : State) (b p c : Nat) : convView c (unmapPage s b p) = convView c s := by
  unfold unmapPage unmapObj
  split
  · rfl
  · rename_i e _
    dsimp only
    generalize hu : leaveLend _ b p = u
    have hleft : convView c u = convView c s := by
      rw [← hu]
      split
      · rfl
      · exact releasePage_convView ..
    cases e.copy <;> cases e.moving <;> simp only [releaseFrame, releasePage_convView, hleft]

theorem clearRowPage_convView (s : State) (b p c : Nat) : convView c (clearRowPage s b p) = convView c s := by
  unfold clearRowPage
  split
  · rfl
  · split
    · rfl
    · exact releasePage_convView ..

theorem clearRow_convView (s : State) (b id c : Nat) : convView c (clearRow s b id) = convView c s := by
  unfold clearRow
  split
  · rfl
  · split
    · rfl
    · refine (foldl_keeps (g := convView c) (fun s p => ?_) ..).trans (convView_setKv (by intro _; rfl) (by intro _; rfl) ..)
      split
      · exact unmapPage_convView ..
      · exact clearRowPage_convView ..

theorem freeNode_convView (s : State) (b : Nat) (n : Node) (c : Nat) : convView c (freeNode s b n) = convView c s :=
  (clearRow_convView ..).trans (convView_setKv (by intro _; rfl) (by intro _; rfl) ..)

theorem sweepKv_convView (s : State) (b c : Nat) : convView c (sweepKv s b) = convView c s :=
  (foldl_keeps (g := convView c) (fun _ _ => clearRow_convView ..) ..).trans
    (foldl_keeps (g := convView c) (fun _ _ => freeNode_convView ..) ..)

theorem answerDeferred_convView (s : State) (b : Nat) (p : Deferred → Bool) (st : Nat) (d : List Field) (c : Nat) :
    convView c (answerDeferred s b p st d) = convView c s :=
  (convView_of_core (answerDeferred_spec s b p st d).1 c).trans rfl

/-! ### The end of a conversation (R297 to R300, R302, R304) -/

/-- The rows of a conversation that are its own (R304). -/
def ownPaused (s : State) (b : Nat) (x : Conv) : List Nat := x.rows.filter fun id => (rowOf (kvOf s b) id).any fun r => r.state == .paused

/-- The conversation is off the list, remembered as ended and counted (R299, R303). -/
def convTakenOff (s : State) (b c reason : Nat) : State :=
  setKv s b fun k => { k with
    convs := dropW (fun y => y.conv == c) k.convs
    gone := c :: dropW (· == c) k.gone
    stats := { k.stats with
      expiredTtl := if reason = 0 then sat 32 (k.stats.expiredTtl + 1) else k.stats.expiredTtl
      expiredReclaim := if reason = 1 then sat 32 (k.stats.expiredReclaim + 1) else k.stats.expiredReclaim } }

theorem convTakenOff_convView {s : State} {b : Nat} (hb : b < s.kvs.length) (c reason : Nat) : convView b (convTakenOff s b c reason) =
    (s.now, s.basins, dropW (fun y => y.conv == c) (kvOf s b).convs, c :: dropW (· == c) (kvOf s b).gone) := by
  rw [convTakenOff, convView, kvOf_setKv_same hb]
  rfl

/-- Its own rows are cleared, with those that nobody names any more, and a KV.RESUME that waits for it is answered (R299, R301). -/
def convCleared (s : State) (b c : Nat) (mine : List Nat) : State :=
  answerDeferred (sweepKv (mine.foldl (fun s id => clearRow s b id) s) b) b
    (fun d => d.opcode == 0x0402 && d.obj == .conv c) stKvExpired []

theorem convCleared_convView (s : State) (b c : Nat) (mine : List Nat) (d : Nat) :
    convView d (convCleared s b c mine) = convView d s := by
  rw [convCleared, answerDeferred_convView, sweepKv_convView]
  exact foldl_keeps (g := convView d) (fun _ _ => clearRow_convView ..) ..

/-- The state in which a conversation has ended, before its event. -/
def convEnded (s : State) (b c reason : Nat) (x : Conv) : State := convCleared (convTakenOff s b c reason) b c (ownPaused s b x)

theorem convEnded_convView {s : State} {b : Nat} (hb : b < s.kvs.length) (c reason : Nat) (x : Conv) :
    convView b (convEnded s b c reason x) =
      (s.now, s.basins, dropW (fun y => y.conv == c) (kvOf s b).convs, c :: dropW (· == c) (kvOf s b).gone) := by
  rw [convEnded, convCleared_convView, convTakenOff_convView hb]

/-- A conversation ends, and KV.EXPIRED tells of it unless its basin is in teardown. -/
theorem endConv_eq {s : State} {b c reason : Nat} {x : Conv} (hx : convOf s b c = some x) (hb : b < s.kvs.length) :
    endConv s b c reason = if inTeardown s b then convEnded s b c reason x
      else raise (convEnded s b c reason x) srcCore evKvExpired [c, reason, (ownPaused s b x).length] [b] := by
  have hteardown : inTeardown (convEnded s b c reason x) b = inTeardown s b := by
    have hbasins : (convEnded s b c reason x).basins = s.basins := congrArg (fun v => v.2.1) (convEnded_convView hb c reason x)
    rw [inTeardown, hbasins, inTeardown]
  rw [← hteardown, endConv, hx]
  rfl

theorem endConv_convView {s : State} {b c reason : Nat} {x : Conv} (hx : convOf s b c = some x) (hb : b < s.kvs.length) :
    convView b (endConv s b c reason) =
      (s.now, s.basins, dropW (fun y => y.conv == c) (kvOf s b).convs, c :: dropW (· == c) (kvOf s b).gone) := by
  rw [endConv_eq hx hb]
  split
  · exact convEnded_convView hb ..
  · rw [convView_of_core (raise_core ..), convEnded_convView hb]

/-- Settles O43: the store's conversations and endings by `endConv_convView`, the event by the last step of the end. -/
theorem endedConversationIsGone : Obligations.EndedConversationIsGone := by
  unfold Obligations.EndedConversationIsGone
  intro s b c reason x hx hb hreason
  have hview := endConv_convView (reason := reason) hx hb
  have hconvs : (kvOf (endConv s b c reason) b).convs = dropW (fun y => y.conv == c) (kvOf s b).convs := congrArg (fun v => v.2.2.1) hview
  have hgone : (kvOf (endConv s b c reason) b).gone = c :: dropW (· == c) (kvOf s b).gone := congrArg (fun v => v.2.2.2) hview
  refine ⟨?_, ?_, fun hlive => ?_⟩
  · rw [convOf, hconvs, List.find?_eq_none]
    simp [dropW]
  · simp [convMissing, hgone]
  · have hnow : (convEnded s b c reason x).now = s.now := congrArg (fun v => v.1) (convEnded_convView hb c reason x)
    have hraised : (convEnded s b c reason x).raised (endConv s b c reason) srcCore evKvExpired [c, reason, (ownPaused s b x).length] := by
      rw [endConv_eq hx hb, hlive, if_neg Bool.false_ne_true]
      exact raise_raised ..
    refine ⟨_, hraised, rfl, rfl, hnow, ?_⟩
    have hsmall : reason % 2 ^ 64 = reason := Nat.mod_eq_of_lt (by omega)
    simp only [List.map_cons, List.map_nil, hsmall]
    rfl

end Sys2Proof.Proofs
end

section
namespace Sys2Proof.Proofs
open Machine Laws

/-! ### Commands that only ask (R303, R390, R405, R453, R494, R511, R526, R528, R529) -/

/-- A host command whose body leaves the core of the state leaves it whatever its checks say. -/
theorem hostCmd_core {s t : State} {h : Hdr} {op : Nat} {adm : Bool} {obj : Option Obj} {c : Instr} {body : State → State}
    (hbody : ∀ u, (body u).core = u.core) (hx : hostCmd s h op adm obj c body = .next t) : t.core = s.core := by
  unfold hostCmd at hx
  split at hx
  · cases hx
    rfl
  · dsimp only at hx
    split at hx
    · cases hx
      exact (reply_core ..).trans (took_core s h op)
    · split at hx
      · split at hx <;> cases hx
        · exact (reply_core ..).trans (took_core s h op)
        · exact (hbody _).trans (took_core s h op)
      · cases hx
        exact (hbody _).trans (took_core s h op)

/-- The opcodes that only ask. -/
def askOps : List Nat := [0x0103, 0x0204, 0x0312, 0x0401, 0x0405, 0x0504, 0x0602, 0x0613, 0x0700, 0x0801, 0x0802, 0x0901, 0x0A00, 0x0B02,
  0x0C00, 0x0C01, 0x0C02]

/-- Each branch of a command that only asks is a reply. -/
theorem exec_core_of_asks {c : Instr} {s t : State} {k : HostCall} (hk : c.call = some k) (hop : k.op ∈ askOps)
    (hx : exec c s = .next t) : t.core = s.core := by
  cases c
  case testEcho | kvStats | pwrStatus | linkStatus =>
    unfold exec at hx
    exact hostCmd_core (fun _ => reply_core ..) hx
  case modelQuery | variantQuery | reqQuery | trainQuery | kvQuery | basinPageq | secCerts | logRead | logFaults =>
    unfold exec at hx
    refine hostCmd_core (fun _ => ?_) hx
    split <;> exact reply_core ..
  case basinQuery | testResult =>
    unfold exec at hx
    refine hostCmd_core (fun _ => ?_) hx
    split
    · exact reply_core ..
    · split <;> exact reply_core ..
  case regRead =>
    unfold exec at hx
    refine hostCmd_core (fun _ => ?_) hx
    dsimp only
    split
    · exact reply_core ..
    · split <;> exact reply_core ..
  case logCounters =>
    unfold exec at hx
    refine hostCmd_core (fun _ => ?_) hx
    split
    · exact reply_core ..
    · split
      · exact reply_core ..
      · split <;> exact reply_core ..
  all_goals cases hk <;> simp [askOps] at hop

/-- Settles O22: memory is part of the core that `exec_core_of_asks` keeps. -/
theorem queriesChangeOnlyTraffic : Obligations.QueriesChangeOnlyTraffic := by
  unfold Obligations.QueriesChangeOnlyTraffic
  intro c s t k hk hop hx
  have hcore := exec_core_of_asks hk hop hx
  have hmem := congrArg State.mem hcore
  exact ⟨hcore, fun a => congrArg (memGet · a) hmem⟩

end Sys2Proof.Proofs
end

section
namespace Sys2Proof.Proofs
open Machine Laws

/-! ### REQ.SUBMIT (R310, R311) -/

/-- The request that a REQ.SUBMIT brings, with what its programs and its conversation give it (R310). -/
def submittedReq (s : State) (b : Nat) (blk : BitVec 512) (tokens : List Nat) : Request :=
  sizedReq s b { basin := b, tag := fld blk.toNat 0 31, blk := blk, prompt := tokens }

theorem submitCheck_of_badFields {s : State} {b : Nat} {r : Request} (hfields : submitFieldsOk r = false) :
    submitCheck s b r = stReqInvalid := by
  simp [submitCheck, hfields]

theorem submitCheck_of_tagKnown {s : State} {b : Nat} {r : Request} (hfields : submitFieldsOk r = true)
    (hknown : (reqOf s b r.tag).isSome = true) : submitCheck s b r = stTagInUse := by
  simp [submitCheck, hfields, hknown]

/-- The checks alone decide between the two outcomes. -/
theorem exec_reqSubmit {s : State} {h : Hdr} {blk : BitVec 512} {tokens : List Nat} (ht : s.takes (.reqSubmit h blk tokens))
    (hfree : objBusy s h.basin (.tag (fld blk.toNat 0 31)) = false) :
    let r := submittedReq s h.basin blk tokens
    exec (.reqSubmit h blk tokens) s = .next (if submitCheck s h.basin r = stOk
      then reply (takeIn (s.took h 0x0310) h.basin r) h 0x0310 stOk []
      else reply (s.took h 0x0310) h 0x0310 (submitCheck s h.basin r) []) := by
  intro r
  have hrun : exec (.reqSubmit h blk tokens) s = execReqSubmit h blk tokens s := rfl
  rw [hrun, execReqSubmit]
  dsimp only
  rw [hostCmd_of_takes ht rfl (by decide) (by simp [hfree])]
  simp only [took_sizedReq, took_submitCheck, bne_iff_ne, ite_not]
  rfl

/-- Settles O29: the refused command replies from the state as it was taken; the first two checks by their own lemmas. -/
theorem refusedSubmitAdmitsNothing : Obligations.RefusedSubmitAdmitsNothing := by
  unfold Obligations.RefusedSubmitAdmitsNothing
  intro s h blk tokens r ht hfree hrefused
  have hrun := exec_reqSubmit ht hfree
  simp only [if_neg (show submitCheck s h.basin (submittedReq s h.basin blk tokens) ≠ stOk from hrefused)] at hrun
  exact ⟨runsTo_of_takes ht rfl hrun rfl rfl rfl, submitCheck_of_badFields, submitCheck_of_tagKnown⟩

/-! ### REQ.CANCEL, REQ.QUERY and the end of a tag (R312, R313, R332) -/

section Request
variable {s : State} {h : Hdr} {tag : Nat} {r : Request}

theorem exec_reqCancel_of_live (ha : s.accepts (.reqCancel h tag)) (hr : reqOf s h.basin tag = some r) (hlive : r.state ≠ .ended) :
    exec (.reqCancel h tag) s =
      .next (deferCmd (s.took h 0x0311) { h := h, opcode := 0x0311, obj := .tag tag, arg := s.now, at_ := s.now }) := by
  have hrun : exec (.reqCancel h tag) s = execReqCancel h tag s := rfl
  rw [hrun, execReqCancel, hostCmd_runs ha rfl (by simp)]
  simp only [took_reqOf, hr, beq_false_of_ne hlive]
  rfl

theorem exec_reqCancel_of_ended (ha : s.accepts (.reqCancel h tag)) (hr : reqOf s h.basin tag = some r) (hended : r.state = .ended) :
    exec (.reqCancel h tag) s = .next (reply (s.took h 0x0311) h 0x0311 stAlreadyComplete [.u16 r.endStatus]) := by
  have hrun : exec (.reqCancel h tag) s = execReqCancel h tag s := rfl
  rw [hrun, execReqCancel, hostCmd_runs ha rfl (by simp)]
  simp only [took_reqOf, hr, hended]
  rfl

/-- What REQ.QUERY answers of a request that is known (R312). -/
def reqAnswer (s : State) (r : Request) : List Field :=
  [.u8 r.state.num, .u8 (if r.state = .queued then waitReason s r else 0), .u8 (rCls r), .u8 r.lastGid,
    .u16 (if r.state = .ended then r.endStatus else r.lastStatus), .u32 r.newTok, .u32 r.committed, .u64 (rDeadline r)]

theorem exec_reqQuery (ha : s.accepts (.reqQuery h tag)) (hr : reqOf s h.basin tag = some r) :
    exec (.reqQuery h tag) s = .next (reply (s.took h 0x0312) h 0x0312 stOk (reqAnswer s r)) := by
  have hrun : exec (.reqQuery h tag) s = execReqQuery h tag s := rfl
  rw [hrun, execReqQuery, hostCmd_runs ha rfl (by simp)]
  simp only [took_reqOf, took_waitReason, hr, reqAnswer, beq_iff_eq]

theorem exec_tagExpiry {b : Nat} (hr : reqOf s b tag = some r) (hended : r.state = .ended)
    (hlate : (r.finalAt.any fun t => t + 10000000000 ≤ s.now) = true) :
    exec (.tagExpiry b tag) s = .next { s with serving := { s.serving with
      requests := dropW (fun r => r.basin == b && r.tag == tag) s.serving.requests } } := by
  have hrun : exec (.tagExpiry b tag) s = execTagExpiry b tag s := rfl
  rw [hrun, execTagExpiry]
  simp only [hr, hended, hlate]
  rfl

end Request

/-! ### REQ.GROUP (R305, R306) -/

/-- What a group record does at once: it takes effect on a group that is idle and on one that is new, and waits for the next boundary of
any other; the removal of a group that is not known does nothing (R306). -/
def groupRecorded (s : State) (b : Nat) (rec : BitVec 64) : Option Group → State
  | none => if gClasses rec = 0 then s else applyGroup s b (gGid rec) rec
  | some g => if groupIdle g then applyGroup s b (gGid rec) rec else setGroup s b (gGid rec) fun g => { g with next := some rec }

theorem exec_reqGroup {s : State} {h : Hdr} {rec : BitVec 64} (ha : s.accepts (.reqGroup h rec)) (hrec : groupOk s h.basin rec = true) :
    exec (.reqGroup h rec) s =
      .next (reply (groupRecorded (s.took h 0x0313) h.basin rec (groupOf s h.basin (gGid rec))) h 0x0313 stOk []) := by
  have hrun : exec (.reqGroup h rec) s = execReqGroup h rec s := rfl
  rw [hrun, execReqGroup, hostCmd_runs ha rfl (by simp)]
  simp only [took_groupOk, took_groupOf, hrec]
  cases groupOf s h.basin (gGid rec) <;> rfl

/-- Settles O44: each command and the expiry of a tag by its own lemma. -/
theorem requestCommandsComplete : Obligations.RequestCommandsComplete := by
  unfold Obligations.RequestCommandsComplete
  intro s h tag
  refine ⟨?submit, fun r ha hr hlive => becomesCore_of_defer (exec_reqCancel_of_live ha hr hlive),
    fun r ha hr hended => runsTo_of_answer ha rfl (exec_reqCancel_of_ended ha hr hended),
    fun r ha hr => runsTo_of_answer ha rfl (exec_reqQuery ha hr), ?known, ?new, fun b r => exec_tagExpiry⟩
  case submit =>
    rintro blk tokens rfl ha r hcheck
    obtain ⟨-, -, -, hfree⟩ := State.accepts.spec ha rfl
    have hrun := exec_reqSubmit (State.accepts.takes ha) (hfree _ rfl)
    simp only [if_pos (show submitCheck s h.basin (submittedReq s h.basin blk tokens) = stOk from hcheck)] at hrun
    exact hrun
  case known =>
    intro rec g ha hrec hg
    have hrun := exec_reqGroup ha hrec
    rw [hg, groupRecorded] at hrun
    refine ⟨fun hidle => ?_, fun hbusy => ?_⟩
    · rwa [if_pos hidle] at hrun
    · rw [if_neg (by simp [hbusy])] at hrun
      exact runsTo_of_takes (State.accepts.takes ha) rfl hrun rfl rfl rfl
  case new =>
    intro rec ha hrec hnone hclasses
    have hrun := exec_reqGroup ha hrec
    rwa [hnone, groupRecorded, if_neg hclasses] at hrun

end Sys2Proof.Proofs
end

section
namespace Sys2Proof.Proofs
open Machine Laws

/-! ### The work that a group takes next (R315, R316) -/

/-- Step 12 of R319 where it has waited for room, and the rows that are on their way back: what precedes a group's next work. -/
def batchReady (s : State) (b gid : Nat) : State :=
  let goes := (groupOf s b gid).any fun g => g.twelve && !g.tokWaiting
  let v := if goes then resumeSuspended b (liveReqs s b).length (setGroup s b gid fun g => { g with twelve := false }) else s
  settleResumes (bringBack v b) b

theorem exec_batchForm (s : State) (b gid : Nat) : exec (.batchForm b gid) s = .next (nextWork (batchReady s b gid) b gid) := rfl

/-- A group takes work: no TOK message of it waits, and the module is READY, without a brown-out or a teardown of the basin. -/
structure GroupWorks (s : State) (b gid : Nat) (g : Group) : Prop where
  known : groupOf s b gid = some g
  sent : g.tokWaiting = false
  ready : s.boot.stage = 6
  powered : s.pwr.brown = none
  live : inTeardown s b = false

section Work
variable {s : State} {b gid sid : Nat} {g : Group} (hw : GroupWorks s b gid g)
include hw

theorem GroupWorks.nextWork_of_free (hrun : g.run = none) (hheld : g.heldStep = none) : nextWork s b gid = formBatch s b gid false := by
  simp [nextWork, hw.known, hw.sent, hw.ready, hw.powered, hw.live, hrun, hheld]

theorem GroupWorks.nextWork_of_running {t : Step} (hrun : g.run = some sid) (hheld : g.heldStep = none) (ht : stepOf s sid = some t)
    (hlower : t.cls ≠ 0) (hgoes : t.stopped = false) : nextWork s b gid = formBatch s b gid true := by
  simp [nextWork, hw.known, hw.sent, hw.ready, hw.powered, hw.live, hrun, hheld, ht, hlower, hgoes]

theorem GroupWorks.nextWork_of_held (hrun : g.run = none) (hheld : g.heldStep = some sid)
    (hnone : (groupOf (formBatch s b gid true) b gid).bind (·.run) = none) : nextWork s b gid =
      setGroup (resumeStep (formBatch s b gid true) sid) b gid fun g => { g with run := some sid, heldStep := none } := by
  simp [nextWork, hw.known, hw.sent, hw.ready, hw.powered, hw.live, hrun, hheld, hnone]

end Work

/-! ### The bind of a step (R158, R207, R322, R437, R461, R488, R555) -/

/-- A step can be bound: it runs and is not bound yet, firmware has filled its slots, the steps held under it are quiet, the module is READY
and its job's granules are its own. -/
structure BindOpen (s : State) (t : Step) : Prop where
  unbound : t.bound = false
  goes : t.stopped = false
  released : t.held = false
  filled : t.fill = none
  quiet : heldQuiet s t = true
  ready : s.boot.stage = 6
  cleared : jobClearing s t.basin t.job = false

/-- Nothing makes the bind fail or wait: the descriptors pass, the domains are on and not kept for a test, D1 can draw, no pinned page moves,
and no other part of a slice is needed. -/
structure BindPasses (s : State) (t : Step) : Prop where
  descs : ∀ i < t.descs.length, bindStatus s t i = 0
  domains : ∀ d ∈ stepDomains s t, d ∉ reserved s ∧ domOn s d = true
  draws : (((riffleOf t).any fun r => !rSeedm r) && d1Waits s) = false
  settled : ((pinsOf s t).any fun p => ((pageOf s t.basin p).bind (·.moving)).isSome) = false
  alone : sliceBound s t = false

/-- The step with its descriptors as they are read once the steps held under it are saved. -/
def withDescs (s : State) (t : Step) : Step := { t with descs := readDescs (saveHeld s t) t }

theorem bindStep_of_passes {s : State} {sid : Nat} {t : Step} (ht : stepOf s sid = some t) (hopen : BindOpen s t)
    (hpass : BindPasses (saveHeld s t) (withDescs s t)) : bindStep sid s = bindSeeded (saveHeld s t) (withDescs s t) := by
  obtain ⟨hunbound, hgoes, hreleased, hfilled, hquiet, hready, hcleared⟩ := hopen
  obtain ⟨hdescs, hdomains, hdraws, hsettled, halone⟩ := hpass
  have hclean : ((List.range (withDescs s t).descs.length).find?
      fun i => bindStatus (saveHeld s t) (withDescs s t) i != 0) = none := by
    simpa [List.find?_eq_none] using hdescs
  have hfree : (stepDomains (saveHeld s t) (withDescs s t)).any (reserved (saveHeld s t)).contains = false := by
    simpa using fun d hd => (hdomains d hd).1
  have hon : ((stepDomains (saveHeld s t) (withDescs s t)).any fun d => !domOn (saveHeld s t) d) = false := by
    simpa using fun d hd => (hdomains d hd).2
  have hstarts : (t.bound || t.stopped || t.held || t.fill.isSome || !heldQuiet s t || s.boot.stage != 6 || jobClearing s t.basin t.job)
      = false := by
    simp [hunbound, hgoes, hreleased, hfilled, hquiet, hready, hcleared]
  unfold withDescs at *
  rw [bindStep, ht]
  simp only [hstarts, hclean, hfree, hon, hdraws, hsettled, halone, Bool.false_and, Bool.or_false, if_neg Bool.false_ne_true]

theorem bindSeeded_of_drawn {s : State} {t : Step} (hseeds : seedCount t ≤ (stepSeeds s t).1.length) :
    bindSeeded s t = bindDone (stepSeeds s t).2 t (stepSeeds s t).1 := if_neg (Nat.not_lt.2 hseeds)

theorem exec_stepBind {s : State} {sid : Nat} {t : Step} (ht : stepOf (fillStep sid s) sid = some t) (hopen : BindOpen (fillStep sid s) t)
    (hpass : BindPasses (saveHeld (fillStep sid s) t) (withDescs (fillStep sid s) t)) :
    let u := saveHeld (fillStep sid s) t
    let x := withDescs (fillStep sid s) t
    seedCount x ≤ (stepSeeds u x).1.length →
      exec (.stepBind sid) s = .next (startReduce (some t) (bindDone (stepSeeds u x).2 x (stepSeeds u x).1) sid) := by
  intro u x hseeds
  have hrun : exec (.stepBind sid) s = .next (startReduce (stepOf (fillStep sid s) sid) (bindStep sid (fillStep sid s)) sid) := rfl
  rw [hrun, bindStep_of_passes ht hopen hpass, bindSeeded_of_drawn hseeds, ht]

/-! ### The boundary of a step (R319, R320) -/

section Boundary
variable {s : State} {sid : Nat} {t : Step} (ht : stepOf s sid = some t) (hreleased : t.held = false)
  (hquiet : unitsStopped s t = true) (hdraws : drawWaits s t = false)
include ht hreleased hquiet hdraws

theorem exec_stepBoundary_of_stopped (hstopped : t.stopped = true) :
    exec (.stepBoundary sid) s = .next (closeBoundary s t s.now t.status (badOutcs s t t.status)) := by
  have hrun : exec (.stepBoundary sid) s = execStepBoundary sid s := rfl
  rw [hrun, execStepBoundary, ht]
  simp [hreleased, hquiet, hdraws, hstopped, closeStopped]

variable (hgoes : t.stopped = false)
include hgoes

theorem exec_stepBoundary_of_read {u : State} {w : Step} (hreads : boundaryReads s t = .ok none u) (hw : stepOf u sid = some w) :
    exec (.stepBoundary sid) s = .next (closeGood u w) := by
  have hrun : exec (.stepBoundary sid) s = execStepBoundary sid s := rfl
  rw [hrun, execStepBoundary, ht]
  simp [hreleased, hquiet, hdraws, hgoes, hreads, hw]

theorem exec_stepBoundary_of_refused {u : State} {w : Step} {x : Nat × Nat} (hreads : boundaryReads s t = .ok (some x) u)
    (hw : stepOf (areaFault u sid x) sid = some w) :
    let v := areaFault u sid x
    exec (.stepBoundary sid) s =
      .next (if unitsStopped v w then closeBoundary v w v.now w.status (badOutcs v w w.status) else v) := by
  intro v
  have hrun : exec (.stepBoundary sid) s = execStepBoundary sid s := rfl
  rw [hrun, execStepBoundary, ht]
  simp [hreleased, hquiet, hdraws, hgoes, hreads, hw, closeStopped, v]

end Boundary

theorem closeGood_of_serve {s : State} {t : Step} {p : Bool} (hkind : t.kind = .serve p) : closeGood s t =
    let (os, v) := goodOutcs t s.now (stepSlots s t) s
    closeBoundary (os.foldl (fun s o => advance s t o) (unbindEddies (commitKv v t) t)) t s.now 0 os := by
  rw [closeGood, hkind]

theorem closeGood_of_train {s : State} {t : Step} {tid phase : Nat} (hkind : t.kind = .train tid phase) :
    closeGood s t = closeBoundary (unbindEddies (commitKv s t) t) t s.now 0 [] := by
  rw [closeGood, hkind]
  rfl

/-! ### The endings outside any step (R270, R321, R328) -/

/-- The endings of a basin's requests outside any step; with no step in the basin those of a retiring variant too, with its conversations
and the rows that nobody names any more (R270, R288, R321). -/
def offSettled (s : State) (b : Nat) : State :=
  let idle := !(s.steps.any fun t => t.basin == b)
  if idle then sweepKv (endConvs (settleOut s b s.now false idle) b) b else settleOut s b s.now false idle

/-- The records of the endings go out, those of class 0 on flow 1, and are forgotten (R321, R328). -/
def offSent (s : State) (b : Nat) : State :=
  let v := (sendTok s b 1 255 (offRecs s b [0]) []).2
  dropOffends (sendTok v b 0 255 (offRecs v b [1, 2, 3]) []).2 b

theorem exec_offstepSettle (s : State) (b : Nat) : exec (.offstepSettle b) s = .next (offSent (offSettled s b) b) := rfl

/-- Settles O45: a lemma for each kind of next work, for the bind, and for each way in which a boundary closes. -/
theorem stepEventsComplete : Obligations.StepEventsComplete := by
  unfold Obligations.StepEventsComplete
  intro s sid
  refine ⟨?form, ?bind, ?boundary, ?settle⟩
  case form =>
    intro b gid g goes v u hknown hsent hready hpowered hlive
    have hw : GroupWorks u b gid g := ⟨hknown, hsent, hready, hpowered, hlive⟩
    have hexec : exec (.batchForm b gid) s = .next (nextWork u b gid) := exec_batchForm s b gid
    rw [hexec]
    refine ⟨fun hrun hheld => ?_, fun x t hrun hheld ht hlower hgoes => ?_, fun x hrun hheld hnone => ?_⟩
    · rw [hw.nextWork_of_free hrun hheld]
    · rw [hw.nextWork_of_running hrun hheld ht hlower hgoes]
    · rw [hw.nextWork_of_held hrun hheld hnone]
  case bind =>
    intro w t ht hunbound hgoes hreleased hfilled hquiet hready hcleared u x hdescs hdomains hdraws hsettled halone hseeds
    exact exec_stepBind ht ⟨hunbound, hgoes, hreleased, hfilled, hquiet, hready, hcleared⟩
      ⟨hdescs, hdomains, hdraws, hsettled, halone⟩ hseeds
  case settle => exact exec_offstepSettle s
  case boundary =>
    intro t ht hreleased hquiet hdraws
    refine ⟨exec_stepBoundary_of_stopped ht hreleased hquiet hdraws, ?read, ?refused⟩
    case read =>
      intro u w hgoes hreads hw
      have hrun := exec_stepBoundary_of_read ht hreleased hquiet hdraws hgoes hreads hw
      refine ⟨fun p hkind => ?_, fun tid phase hkind => ?_⟩
      · rw [hrun, closeGood_of_serve hkind]
      · rw [hrun, closeGood_of_train hkind]
    case refused => exact fun x u w hgoes => exec_stepBoundary_of_refused ht hreleased hquiet hdraws hgoes

end Sys2Proof.Proofs
end

section
namespace Sys2Proof.Proofs
open Machine Laws

/-! ### Replacing a program (R308) -/

/-- The same base, kind and number of positions (R308). -/
def replaces (b : Nat) (word : BitVec 384) (p : Program) : Bool :=
  p.basin == b && fld p.word.toNat 0 32 == fld word.toNat 0 32 && fld p.word.toNat 40 48 == fld word.toNat 40 48

/-- The program is entered in place of the one that it replaces. -/
def programEntered (s : State) (b : Nat) (word : BitVec 384) : State :=
  { s with models := { s.models with programs := dropW (replaces b word) s.models.programs ++
      [{ basin := b, word := word, held := heldProgs s b (s.models.programs.find? (replaces b word)) }] } }

theorem exec_modelProgram {s : State} {h : Hdr} {word : BitVec 384} (ha : s.accepts (.modelProgram h word))
    (hword : programOk s h.basin word = true) : exec (.modelProgram h word) s =
      .next (reply (programEntered (s.took h 0x0104) h.basin word) h 0x0104 stOk []) := by
  have hrun : exec (.modelProgram h word) s = execModelProgram h word s := rfl
  rw [hrun, execModelProgram]
  dsimp only
  rw [hostCmd_runs ha rfl (by simp)]
  simp only [took_programOk, hword]
  rfl

/-! ### The link commands (R425, R426, R434 to R436, R442) -/

theorem exec_linkTopology {s : State} {h : Hdr} {word : BitVec 512} (ha : s.accepts (.linkTopology h word))
    (hadmin : isAdmin s h.basin = true) (hopen : s.storeOpen) (hword : topologyOk word = true) (hfree : s.fords.slices = []) :
    let u := storeWriteNow (s.took h 0x0B00) { type := 0x30, index := 0, len := 64, seq := 0, payload := [word.toNat] }
    exec (.linkTopology h word) s =
      .next (reply ((List.range 48).foldl recheckFord { u with fords := { u.fords with topo := word } }) h 0x0B00 stOk []) := by
  intro u
  obtain ⟨hready, hsound⟩ := hopen
  have hrun : exec (.linkTopology h word) s = execLinkTopology h word s := rfl
  rw [hrun, execLinkTopology, hostStoreCmd_runs ha rfl (fun _ => hadmin) hready hsound]
  simp only [took_fords_field, hword, hfree, List.isEmpty_nil, Bool.not_true, if_neg Bool.false_ne_true]
  rfl

/-- A slice is declared, to the far ends too, and its reply waits for the agreement (R435, R436). -/
def sliceDeclared (s : State) (h : Hdr) (word : BitVec 256) : State :=
  let x : Slice := { word := word, bindAt := s.now }
  let u := { s with fords := { s.fords with slices := s.fords.slices ++ [x] } }
  let u := sendLm u (((offered u x).filter fun n => (fordOf u n).state == 9).map fun n => LmFrame.declare n (swId word) (swBlock word))
  settleSlice (deferCmd u { h := h, opcode := 0x0B01, obj := .slice (swId word), at_ := u.now }) (swId word)

theorem bindSlice_of_ok {s : State} {h : Hdr} {word : BitVec 256} (hcheck : sliceCheck s word = stOk) :
    bindSlice s h word = sliceDeclared s h word := by
  rw [bindSlice, hcheck]
  rfl

/-- What the modules of a slice have lent has ended, and the slice is off the list, with what was declared of it (R246, R435). -/
def sliceUnbound (s : State) (word : BitVec 256) (x : Slice) : State :=
  let clear (f : Ford) : Ford := if f.decl.any fun d => d.1 == swId word then { f with decl := none } else f
  let u := idleFords (loseLends s (swBasin word) fun _ => true) x.bound
  { u with fords := { u.fords with
    slices := dropW (fun x => swId x.word == swId word) u.fords.slices, fords := u.fords.fords.map clear } }

theorem unbindSlice_of_idle {s : State} {h : Hdr} {word : BitVec 256} {x : Slice}
    (hx : (s.fords.slices.find? fun x => swId x.word == swId word && swBasin x.word == swBasin word) = some x)
    (hidle : x.parts.any (partLive s (swBasin word)) = false) : unbindSlice s h word =
      reply (raise (sliceUnbound s word x) srcCore evSliceUnbound [swId word] [swBasin word]) h 0x0B01 stOk [] := by
  rw [unbindSlice, hx]
  dsimp only
  rw [hidle]
  rfl

/-- Of the instruction itself a host command sees only the parameters. -/
theorem hostCmd_congr_params {c d : Instr} (hparams : c.params = d.params) (s : State) (h : Hdr) (op : Nat) (adm : Bool) (obj : Option Obj)
    (body : State → State) : hostCmd s h op adm obj c body = hostCmd s h op adm obj d body := by
  unfold hostCmd
  rw [hparams]

section Slice
variable {s : State} {h : Hdr} {word : BitVec 256} (hadmin : isAdmin s h.basin = true)
include hadmin

theorem exec_linkSliceBind (ha : s.accepts (.linkSliceBind h word)) (hop : bitAt word.toNat 68 = false)
    (hcheck : sliceCheck s word = stOk) :
    exec (.linkSliceBind h word) s = .next (sliceDeclared (s.took h 0x0B01) h word) := by
  have hrun : exec (.linkSliceBind h word) s = linkSlice h word s := rfl
  rw [hrun, linkSlice, hostCmd_runs ha rfl fun _ => hadmin, if_neg (by simp [hop]), bindSlice_of_ok (by rwa [took_sliceCheck])]

theorem exec_linkSliceUnbind {x : Slice} (ha : s.accepts (.linkSliceUnbind h word)) (hop : bitAt word.toNat 68 = true)
    (hx : (s.fords.slices.find? fun x => swId x.word == swId word && swBasin x.word == swBasin word) = some x)
    (hidle : x.parts.any (partLive s (swBasin word)) = false) : exec (.linkSliceUnbind h word) s =
      .next (reply (raise (sliceUnbound (s.took h 0x0B01) word x) srcCore evSliceUnbound [swId word] [swBasin word]) h 0x0B01 stOk []) := by
  have hrun : exec (.linkSliceUnbind h word) s = linkSlice h word s := rfl
  rw [hrun, linkSlice, hostCmd_congr_params (c := .linkSliceBind h word) (d := .linkSliceUnbind h word) rfl,
    hostCmd_runs ha rfl fun _ => hadmin, if_pos hop, unbindSlice_of_idle (s := s.took h 0x0B01) hx hidle]

end Slice

/-- What LINK.STATUS answers: the topology, the basin's slice and every ford (R442). -/
def linkAnswer (s : State) (b : Nat) : List Field :=
  let x : Option Slice := s.fords.slices.find? fun x => swBasin x.word == b
  [Field.record 64 s.fords.topo.toNat, .record 32 (x.elim 0 (·.word.toNat)), .u8 (x.elim 0 (·.state)), .u8 (x.elim 0 (·.minor))] ++
    (s.fords.fords.map fun f => [Field.u64 f.serial, .u64 (frdStatus f), .u64 (frdErrA f), .u64 (frdErrB f)]).flatten

theorem exec_linkStatus {s : State} {h : Hdr} (ha : s.accepts (.linkStatus h)) :
    exec (.linkStatus h) s = .next (reply (s.took h 0x0B02) h 0x0B02 stOk (linkAnswer s h.basin)) := by
  have hrun : exec (.linkStatus h) s = execLinkStatus h s := rfl
  rw [hrun, execLinkStatus, hostCmd_runs ha rfl (by simp)]
  rfl

/-- Settles O53: each command by its own lemma. -/
theorem linkAndProgramCommandsComplete : Obligations.LinkAndProgramCommandsComplete := by
  unfold Obligations.LinkAndProgramCommandsComplete
  intro s h
  exact ⟨fun word ha hword => runsTo_of_takes (State.accepts.takes ha) rfl (exec_modelProgram ha hword) rfl rfl rfl,
    fun word => exec_linkTopology, fun word hadmin => ⟨exec_linkSliceBind hadmin, fun x => exec_linkSliceUnbind hadmin⟩,
    fun ha => runsTo_of_answer ha rfl (exec_linkStatus ha)⟩

end Sys2Proof.Proofs
end

section
namespace Sys2Proof.Proofs
open Machine

/-! ### Bits and numbers -/

/-- The number that bits spell, the lowest first. -/
def bitsNum (l : List Bool) : Nat := l.zipIdx.foldl (fun n y => n + b2n y.1 * 2 ^ y.2) 0

theorem foldl_bits (l : List Bool) (i n : Nat) :
    (l.zipIdx i).foldl (fun n y => n + b2n y.1 * 2 ^ y.2) n = n + 2 ^ i * bitsNum l := by
  have key (l : List Bool) : ∀ i n, (l.zipIdx i).foldl (fun n y => n + b2n y.1 * 2 ^ y.2) n =
      n + 2 ^ i * l.foldr (fun b m => b2n b + 2 * m) 0 := by
    induction l with
    | nil => simp
    | cons b l ih =>
      intro i n
      rw [List.zipIdx_cons, List.foldl_cons, ih, List.foldr_cons, pow_succ]
      ring
  rw [bitsNum, key, key]
  ring

@[simp] theorem bitsNum_nil : bitsNum [] = 0 := rfl

theorem bitsNum_cons (b : Bool) (l : List Bool) : bitsNum (b :: l) = b2n b + 2 * bitsNum l := by
  rw [bitsNum, List.zipIdx_cons, List.foldl_cons, foldl_bits]
  ring

theorem bitAt_eq_testBit (w n : Nat) : bitAt w n = w.testBit n := by
  rw [bitAt, Nat.testBit_eq_decide_div_mod_eq, Nat.shiftRight_eq_div_pow]
  rfl

theorem b2n_bitAt (w n : Nat) : b2n (bitAt w n) = w / 2 ^ n % 2 := by
  rw [bitAt, Nat.shiftRight_eq_div_pow, b2n]
  rcases Nat.mod_two_eq_zero_or_one (w / 2 ^ n) with h | h <;> simp [h]

/-- The low bits of a number spell its rest modulo their power of two. -/
theorem bitsNum_range (w n : Nat) : bitsNum ((List.range n).map fun k => bitAt w k) = w % 2 ^ n := by
  induction n generalizing w with
  | zero => simp [Nat.mod_one]
  | succ n ih =>
    have htail : (List.range n).map (fun k => bitAt w (k + 1)) = (List.range n).map fun k => bitAt (w / 2) k := by
      simp [bitAt_eq_testBit, Nat.testBit_succ]
    have hmod := Nat.mod_mul (x := w) (a := 2) (b := 2 ^ n)
    rw [List.range_succ_eq_map, List.map_cons, List.map_map, bitsNum_cons, b2n_bitAt]
    simp only [Function.comp_def]
    rw [htail, ih, pow_succ', hmod, pow_zero, Nat.div_one]

/-- Each bit of the number that bits spell; the bits beyond them are 0. -/
theorem bitAt_bitsNum (l : List Bool) (k : Nat) : bitAt (bitsNum l) k = l.getD k false := by
  induction l generalizing k with
  | nil => simp [bitAt_eq_testBit]
  | cons b l ih =>
    rw [bitsNum_cons, bitAt_eq_testBit]
    cases k with
    | zero => cases b <;> simp [b2n, Nat.testBit_zero, Nat.add_mod]
    | succ k =>
      have hhalf : (b2n b + 2 * bitsNum l) / 2 = bitsNum l := by cases b <;> simp [b2n]; omega
      rw [Nat.testBit_succ, hhalf, ← bitAt_eq_testBit, ih]
      rfl

/-- The eight bits of a byte that up to eight bits are packed in are these, filled up with zeros. -/
theorem bits_of_packed {l : List Bool} (hl : l.length ≤ 8) :
    (List.range 8).map (fun k => bitAt (BitVec.ofNat 8 (bitsNum l)).toNat k) = l ++ List.replicate (8 - l.length) false := by
  apply List.ext_getElem
  · simp; omega
  · intro k hk _
    have hk8 : k < 8 := by simpa using hk
    have hbit : bitAt (BitVec.ofNat 8 (bitsNum l)).toNat k = bitAt (bitsNum l) k := by
      rw [bitAt_eq_testBit, bitAt_eq_testBit, BitVec.toNat_ofNat, Nat.testBit_mod_two_pow]
      simp [hk8]
    rw [List.getElem_map, List.getElem_range, hbit, bitAt_bitsNum, List.getElem_append]
    split
    · rename_i h; simp [h]
    · rename_i h; simp [List.getElem?_eq_none (Nat.not_lt.1 h)]

theorem pieces_nil {α : Type} (n fuel : Nat) : pieces n fuel ([] : List α) = [] := by cases fuel <;> rfl

theorem byteBits_cons (b : Byte) (l : List Byte) : byteBits (b :: l) = (List.range 8).map (fun k => bitAt b.toNat k) ++ byteBits l := rfl

/-- The bits of packed bits: the bits themselves, filled up with zeros to a whole byte. -/
theorem byteBits_packBits (l : List Bool) : ∃ pad < 8, byteBits (packBits l) = l ++ List.replicate pad false := by
  have key : ∀ (fuel : Nat) (l : List Bool), l.length ≤ fuel → ∃ pad < 8,
      byteBits ((pieces 8 fuel l).map fun x => BitVec.ofNat 8 (bitsNum x)) = l ++ List.replicate pad false := by
    intro fuel
    induction fuel with
    | zero =>
      intro l hl
      exact ⟨0, by decide, by simp [pieces, byteBits, List.length_eq_zero_iff.1 (Nat.le_zero.1 hl)]⟩
    | succ fuel ih =>
      intro l hl
      by_cases hnil : l = []
      · exact ⟨0, by decide, by simp [hnil, pieces_nil, byteBits]⟩
      have hcut : pieces 8 (fuel + 1) l = l.take 8 :: pieces 8 fuel (l.drop 8) := by simp [pieces, hnil]
      have hpos := List.length_pos_of_ne_nil hnil
      rw [hcut, List.map_cons, byteBits_cons, bits_of_packed (List.length_take_le 8 l)]
      by_cases hfull : 8 ≤ l.length
      · obtain ⟨pad, hpad, hrest⟩ := ih (l.drop 8) (by rw [List.length_drop]; omega)
        refine ⟨pad, hpad, ?_⟩
        rw [hrest, List.length_take_of_le hfull, Nat.sub_self, List.replicate_zero, List.append_nil, ← List.append_assoc,
          List.take_append_drop]
      · have hshort : l.length ≤ 8 := by omega
        refine ⟨8 - l.length, by omega, ?_⟩
        rw [List.drop_of_length_le hshort, pieces_nil, List.take_of_length_le hshort]
        exact List.append_nil _
  exact key l.length l le_rfl

/-! ### Canonical codes (R348) -/

/-- The first code of a length, and the first that the length no longer takes. -/
def firstCode (ls : List Nat) (n : Nat) : Nat := (ls.map fun m => if 0 < m && m < n then 2 ^ (n - m) else 0).sum

def endCode (ls : List Nat) (n : Nat) : Nat := firstCode ls n + ls.count n

theorem canonCode_eq {ls : List Nat} {k n : Nat} (hk : ls[k]? = some n) :
    canonCode ls k = firstCode ls n + (ls.take k).count n := by
  simp only [canonCode, List.getD_eq_getElem?_getD, hk, Option.getD_some, firstCode, ← List.countP_eq_length_filter]
  rfl

/-- Of two symbols of one length the lower has the lower code. -/
theorem count_take_lt {ls : List Nat} {j k n : Nat} (hj : ls[j]? = some n) (hjk : j < k) :
    (ls.take j).count n < (ls.take k).count n := by
  have hstep : (ls.take (j + 1)).count n = (ls.take j).count n + 1 := by
    rw [List.take_add_one, hj]
    simp
  have hsub : (ls.take (j + 1)).Sublist (ls.take k) := List.take_sublist_take_left hjk
  have := hsub.count_le n
  omega

theorem canonCode_lt_endCode {ls : List Nat} {k n : Nat} (hk : ls[k]? = some n) : canonCode ls k < endCode ls n := by
  have hlen : k < ls.length := (List.getElem?_eq_some_iff.1 hk).1
  have hlt := count_take_lt hk hlen
  rw [List.take_length] at hlt
  rw [canonCode_eq hk, endCode]
  omega

theorem eq_of_canonCode_eq {ls : List Nat} {j k n : Nat} (hj : ls[j]? = some n) (hk : ls[k]? = some n)
    (heq : canonCode ls j = canonCode ls k) : j = k := by
  rw [canonCode_eq hj, canonCode_eq hk] at heq
  rcases Nat.lt_trichotomy j k with h | h | h
  · have := count_take_lt hj h; omega
  · exact h
  · have := count_take_lt hk h; omega

/-- The codes of a length, lengthened, come before those of every greater length. -/
theorem endCode_mul_le_firstCode {m n : Nat} (hm : 0 < m) (hmn : m < n) (ls : List Nat) :
    endCode ls m * 2 ^ (n - m) ≤ firstCode ls n := by
  induction ls with
  | nil => simp [endCode, firstCode]
  | cons x ls ih =>
    have hhead : ((if 0 < x && x < m then 2 ^ (m - x) else 0) + if x = m then 1 else 0) * 2 ^ (n - m) ≤
        if 0 < x && x < n then 2 ^ (n - x) else 0 := by
      rcases Nat.lt_trichotomy x m with h | h | h
      · by_cases hx : 0 < x
        · have : n - x = (m - x) + (n - m) := by omega
          simp [hx, h, Nat.ne_of_lt h, Nat.lt_trans h hmn, this, pow_add]
        · simp [hx, Nat.ne_of_lt h]
      · subst h
        simp [hm, hmn]
      · simp [Nat.not_lt.2 h.le, Nat.ne_of_gt h]
    simp only [endCode, firstCode, List.map_cons, List.sum_cons, List.count_cons, beq_iff_eq] at ih ⊢
    calc _ = ((if 0 < x && x < m then 2 ^ (m - x) else 0) + if x = m then 1 else 0) * 2 ^ (n - m) +
          ((ls.map fun x => if 0 < x && x < m then 2 ^ (m - x) else 0).sum + ls.count m) * 2 ^ (n - m) := by ring
      _ ≤ _ := Nat.add_le_add hhead ih

/-- What the codes take of the whole, in parts of 2 ^ 15 (Kraft's sum). -/
def kraft (ls : List Nat) : Nat := ((ls.filter (· != 0)).map fun n => 2 ^ (15 - n)).sum

theorem endCode_mul_le_kraft {n : Nat} (hn : 0 < n) (h15 : n ≤ 15) (ls : List Nat) : endCode ls n * 2 ^ (15 - n) ≤ kraft ls := by
  induction ls with
  | nil => simp [endCode, firstCode]
  | cons x ls ih =>
    have hhead : ((if 0 < x && x < n then 2 ^ (n - x) else 0) + if x = n then 1 else 0) * 2 ^ (15 - n) ≤
        if x = 0 then 0 else 2 ^ (15 - x) := by
      rcases Nat.lt_trichotomy x n with h | h | h
      · by_cases hx : x = 0
        · simp [hx, Nat.ne_of_lt hn]
        · have : 15 - x = (n - x) + (15 - n) := by omega
          simp [hx, Nat.pos_of_ne_zero hx, h, Nat.ne_of_lt h, this, pow_add]
      · subst h
        simp [Nat.ne_of_gt hn]
      · simp [Nat.not_lt.2 h.le, Nat.ne_of_gt h]
    have hkraft : kraft (x :: ls) = (if x = 0 then 0 else 2 ^ (15 - x)) + kraft ls := by
      by_cases hx : x = 0 <;> simp [kraft, hx]
    rw [hkraft]
    simp only [endCode, firstCode, List.map_cons, List.sum_cons, List.count_cons, beq_iff_eq] at ih ⊢
    calc _ = ((if 0 < x && x < n then 2 ^ (n - x) else 0) + if x = n then 1 else 0) * 2 ^ (15 - n) +
          ((ls.map fun x => if 0 < x && x < n then 2 ^ (n - x) else 0).sum + ls.count n) * 2 ^ (15 - n) := by ring
      _ ≤ _ := Nat.add_le_add hhead ih

/-- A code that a receiver accepts takes at most the whole. -/
theorem kraft_le_of_segCodeOk {ls : List Nat} (hok : segCodeOk ls = true) : kraft ls ≤ 2 ^ 15 := by
  simp only [segCodeOk, Bool.or_eq_true, beq_iff_eq] at hok
  rcases hok with hone | hwhole
  · simp [kraft, hone]
  · exact hwhole.le

theorem canonCode_lt {ls : List Nat} {k n : Nat} (hkraft : kraft ls ≤ 2 ^ 15) (hk : ls[k]? = some n) (hn : 0 < n) (h15 : n ≤ 15) :
    canonCode ls k < 2 ^ n := by
  have hall : endCode ls n * 2 ^ (15 - n) ≤ 2 ^ n * 2 ^ (15 - n) := by
    rw [← pow_add, Nat.add_sub_cancel' h15]
    exact (endCode_mul_le_kraft hn h15 ls).trans hkraft
  exact (canonCode_lt_endCode hk).trans_le (Nat.le_of_mul_le_mul_right hall (Nat.two_pow_pos _))

/-- No code begins with another symbol's code. -/
theorem canonCode_ne_start {ls : List Nat} {j k m n : Nat} (hj : ls[j]? = some m) (hk : ls[k]? = some n) (hm : 0 < m) (hmn : m < n) :
    canonCode ls j ≠ canonCode ls k / 2 ^ (n - m) := by
  have hend : endCode ls m ≤ canonCode ls k / 2 ^ (n - m) := by
    rw [Nat.le_div_iff_mul_le (Nat.two_pow_pos _), canonCode_eq hk]
    exact (endCode_mul_le_firstCode hm hmn ls).trans (Nat.le_add_right _ _)
  exact Nat.ne_of_lt ((canonCode_lt_endCode hj).trans_le hend)

/-! ### Reading a symbol (R348) -/

theorem mem_segCodes {ls : List Nat} {n c k : Nat} :
    (n, c, k) ∈ segCodes ls ↔ ls[k]? = some n ∧ n ≠ 0 ∧ c = canonCode ls k := by
  simp only [segCodes, List.mem_map, List.mem_filter, Prod.exists, Prod.mk.injEq, bne_iff_ne, List.mem_zipIdx_iff_getElem?]
  constructor
  · rintro ⟨n', k', ⟨hk, hn⟩, rfl, rfl, rfl⟩
    exact ⟨hk, hn, rfl⟩
  · rintro ⟨hk, hn, rfl⟩
    exact ⟨n, k, ⟨hk, hn⟩, rfl, rfl, rfl⟩

/-- The codes that a search for a length and a code can find. -/
theorem find_segCodes_some {ls : List Nat} {n k : Nat} (hk : ls[k]? = some n) (hn : n ≠ 0) :
    (segCodes ls).find? (fun x => x.1 == n && x.2.1 == canonCode ls k) = some (n, canonCode ls k, k) := by
  have hmem := mem_segCodes.2 ⟨hk, hn, rfl⟩
  obtain ⟨⟨n', c', k'⟩, hfind⟩ := Option.isSome_iff_exists.1
    (List.find?_isSome (p := fun x : Nat × Nat × Nat => x.1 == n && x.2.1 == canonCode ls k).2 ⟨_, hmem, by simp⟩)
  have hhit := List.find?_some hfind
  obtain ⟨hk', -, hcode⟩ := mem_segCodes.1 (List.mem_of_find?_eq_some hfind)
  simp only [Bool.and_eq_true, beq_iff_eq] at hhit
  obtain ⟨rfl, hc⟩ := hhit
  rw [hfind, hc, eq_of_canonCode_eq hk' hk (hcode.symm.trans hc)]

theorem find_segCodes_none {ls : List Nat} {m n k : Nat} (hk : ls[k]? = some n) (hmn : m < n) :
    (segCodes ls).find? (fun x => x.1 == m && x.2.1 == canonCode ls k / 2 ^ (n - m)) = none := by
  rw [List.find?_eq_none]
  rintro ⟨m', c, j⟩ hmem
  obtain ⟨hj, hm, rfl⟩ := mem_segCodes.1 hmem
  simp only [Bool.and_eq_true, beq_iff_eq, not_and]
  rintro rfl
  exact canonCode_ne_start hj hk (Nat.pos_of_ne_zero hm) hmn

/-- The rest of a symbol's code is read after its start, bit by bit: no start is a code of its length, and the whole is the symbol's. -/
theorem readSymbol_rest {ls : List Nat} {k n : Nat} (hk : ls[k]? = some n) (rest : List Bool) :
    ∀ d fuel, 0 < d → d ≤ n → d ≤ fuel →
      readSymbol (segCodes ls) fuel (n - d) (canonCode ls k / 2 ^ d)
        ((List.range d).map (fun i => bitAt (canonCode ls k) (d - 1 - i)) ++ rest) = some (k, rest) := by
  intro d
  induction d with
  | zero => intro fuel h; omega
  | succ d ih =>
    intro fuel _ hdn hfuel
    obtain ⟨fuel, rfl⟩ : ∃ f, fuel = f + 1 := ⟨fuel - 1, by omega⟩
    have hbits : (List.range (d + 1)).map (fun i => bitAt (canonCode ls k) (d + 1 - 1 - i)) =
        bitAt (canonCode ls k) d :: (List.range d).map fun i => bitAt (canonCode ls k) (d - 1 - i) := by
      rw [List.range_succ_eq_map, List.map_cons, List.map_map]
      simp [Function.comp_def, Nat.sub_sub, Nat.add_comm]
    have hcode : 2 * (canonCode ls k / 2 ^ (d + 1)) + b2n (bitAt (canonCode ls k) d) = canonCode ls k / 2 ^ d := by
      rw [b2n_bitAt, pow_succ, ← Nat.div_div_eq_div_mul]
      omega
    have hlen : n - (d + 1) + 1 = n - d := by omega
    rw [hbits, List.cons_append, readSymbol]
    simp only [hcode, hlen]
    rcases Nat.eq_zero_or_pos d with rfl | hd
    · simp only [pow_zero, Nat.div_one, Nat.sub_zero, find_segCodes_some hk (by omega), List.range_zero, List.map_nil, List.nil_append]
    · have hnone := find_segCodes_none (m := n - d) hk (by omega)
      rw [Nat.sub_sub_self (by omega)] at hnone
      rw [hnone]
      exact ih fuel hd (by omega) (by omega)

theorem readSymbol_codeBits {ls : List Nat} {k n : Nat} (hkraft : kraft ls ≤ 2 ^ 15) (hk : ls[k]? = some n) (hn : 0 < n) (h15 : n ≤ 15)
    (rest : List Bool) : readSymbol (segCodes ls) 15 0 0 (codeBits ls k ++ rest) = some (k, rest) := by
  have hread := readSymbol_rest hk rest n 15 hn le_rfl h15
  rw [Nat.sub_self, Nat.div_eq_of_lt (canonCode_lt hkraft hk hn h15)] at hread
  simpa [codeBits, hk] using hread

/-! ### Reading the values of a stream (R348) -/

/-- A value is put together from its exponent, its sign and its fraction. -/
theorem value_of_parts (v : BitVec 32) :
    BitVec.ofNat 32 (b2n (bitAt v.toNat 31) * 2 ^ 31 + expByte v * 2 ^ 23 + v.toNat % 2 ^ 23) = v := by
  have hlt := v.isLt
  apply BitVec.eq_of_toNat_eq
  rw [BitVec.toNat_ofNat, b2n_bitAt, expByte]
  omega

/-- Every value's exponent has a code, of at most 15 bits. -/
def Coded (ls : List Nat) (vs : List (BitVec 32)) : Prop := ∀ v ∈ vs, ∃ n, ls[expByte v]? = some n ∧ 0 < n ∧ n ≤ 15

theorem readValues_valueBits {ls : List Nat} (hkraft : kraft ls ≤ 2 ^ 15) {pad : Nat} (hpad : pad < 8) (vs : List (BitVec 32))
    (hcoded : Coded ls vs) : readValues (segCodes ls) vs.length ((vs.map (valueBits ls)).flatten ++ List.replicate pad false) = some vs := by
  induction vs with
  | nil => simp [readValues, hpad]
  | cons v vs ih =>
    obtain ⟨n, hk, hn, h15⟩ := hcoded v List.mem_cons_self
    have hrest := ih fun w hw => hcoded w (List.mem_cons_of_mem v hw)
    have hfraction := bitsNum_range v.toNat 23
    rw [bitsNum] at hfraction
    rw [List.map_cons, List.flatten_cons, valueBits, List.append_assoc, List.append_assoc, List.length_cons, readValues,
      readSymbol_codeBits hkraft hk hn h15]
    simpa [List.drop_left', List.take_left', hfraction, hrest] using value_of_parts v

/-! ### A coded segment (R348) -/

/-- The table of lengths of a coded segment: two to a byte. -/
def lengthTable (ls : List Nat) : List Byte := (List.range 128).map fun k => BitVec.ofNat 8 (ls.getD (2 * k) 0 + 16 * ls.getD (2 * k + 1) 0)

@[simp] theorem length_lengthTable (ls : List Nat) : (lengthTable ls).length = 128 := by simp [lengthTable]

theorem byteAt_lengthTable {ls : List Nat} (hle : ∀ k, ls.getD k 0 < 16) {j : Nat} (hj : j < 128) (l : List Byte) :
    byteAt (lengthTable ls ++ l) j = ls.getD (2 * j) 0 + 16 * ls.getD (2 * j + 1) 0 := by
  have hin : j < (lengthTable ls).length := by rwa [length_lengthTable]
  have heven := hle (2 * j)
  have hodd := hle (2 * j + 1)
  rw [byteAt, List.getD_append _ _ _ _ hin, List.getD_eq_getElem _ _ hin]
  simp only [lengthTable, List.getElem_map, List.getElem_range, BitVec.toNat_ofNat]
  exact Nat.mod_eq_of_lt (by omega)

theorem segLens_lengthTable {ls : List Nat} (hlen : ls.length = 256) (h15 : ∀ n ∈ ls, n ≤ 15) (l : List Byte) :
    segLens (lengthTable ls ++ l) = ls := by
  have hle (k : Nat) : ls.getD k 0 < 16 := by
    rw [List.getD_eq_getElem?_getD]
    cases hk : ls[k]? with
    | none => simp
    | some n => exact Nat.lt_succ_of_le (h15 n (List.mem_of_getElem? hk))
  apply List.ext_getElem
  · simp [segLens, hlen]
  · intro k hk hk'
    rw [← List.getD_eq_getElem ls 0 hk']
    simp only [segLens, List.getElem_map, List.getElem_range]
    rw [byteAt_lengthTable hle (show k / 2 < 128 by omega)]
    obtain ⟨j, rfl | rfl⟩ : ∃ j, k = 2 * j ∨ k = 2 * j + 1 := ⟨k / 2, by omega⟩
    · have heven := hle (2 * j)
      rw [Nat.mul_div_cancel_left j (by decide), if_pos (by omega), Nat.div_one]
      omega
    · have heven := hle (2 * j)
      have hodd := hle (2 * j + 1)
      rw [show (2 * j + 1) / 2 = j by omega, if_neg (by omega)]
      omega

theorem decodeSegment_codeSegment {vs : List (BitVec 32)} (hmany : vs.length ≤ 262144) (hlen : (expLengths vs).length = 256)
    (h15 : ∀ n ∈ expLengths vs, n ≤ 15) (hcoded : Coded (expLengths vs) vs) (hok : segCodeOk (expLengths vs) = true) :
    decodeSegment (codeSegment vs) = some vs := by
  obtain ⟨pad, hpad, hbits⟩ := byteBits_packBits ((vs.map (valueBits (expLengths vs))).flatten)
  have hsegment : codeSegment vs = le 4 vs.length ++ (lengthTable (expLengths vs) ++ packBits ((vs.map (valueBits (expLengths vs))).flatten)) :=
    List.append_assoc ..
  have hcount : ofLe ((codeSegment vs).take 4) = vs.length := by
    rw [hsegment, List.take_left' (length_le ..), ofLe_le_of_lt (by omega)]
  have hlens : segLens ((codeSegment vs).drop 4) = expLengths vs := by
    rw [hsegment, List.drop_left' (length_le ..), segLens_lengthTable hlen h15]
  have hstream : byteBits ((codeSegment vs).drop 132) = (vs.map (valueBits (expLengths vs))).flatten ++ List.replicate pad false := by
    rw [hsegment, ← List.append_assoc, List.drop_left' (by simp), hbits]
  have hlong : ¬(codeSegment vs).length < 132 := by
    rw [hsegment]
    simp
    omega
  have hread := readValues_valueBits (kraft_le_of_segCodeOk hok) hpad vs hcoded
  simp [decodeSegment, hcount, hlens, hstream, hlong, hok, hread, Nat.not_lt.2 hmany]

/-! ### A plain segment (R430) -/

theorem drop_flatten_of_length {α : Type} {n : Nat} (L : List (List α)) (hL : ∀ l ∈ L, l.length = n) (k : Nat) :
    L.flatten.drop (n * k) = (L.drop k).flatten := by
  induction k generalizing L with
  | zero => simp
  | succ k ih =>
    cases L with
    | nil => simp
    | cons l L =>
      rw [List.flatten_cons, Nat.mul_succ, Nat.add_comm, ← List.drop_drop, List.drop_left' (hL l List.mem_cons_self),
        ih L fun x hx => hL x (List.mem_cons_of_mem l hx), List.drop_succ_cons]

theorem segmentValues_plain {vs : List (BitVec 32)} (hmany : vs.length ≤ 262144) :
    segmentValues false (segmentBytes false vs) = some vs := by
  have hwords : ∀ l ∈ vs.map fun v => le 4 v.toNat, l.length = 4 := by simp
  have hlen : ((vs.map fun v => le 4 v.toNat).flatten).length = 4 * vs.length := by
    simp [List.length_flatten, Function.comp_def, Nat.mul_comm]
  have hread : (List.range vs.length).map (fun k => BitVec.ofNat 32 (ofLe ((((vs.map fun v => le 4 v.toNat).flatten).drop (4 * k)).take 4))) = vs := by
    apply List.ext_getElem
    · simp
    · intro k hk hk'
      rw [List.getElem_map, List.getElem_range, drop_flatten_of_length _ hwords, ← List.map_drop, List.drop_eq_getElem_cons hk',
        List.map_cons, List.flatten_cons, List.take_left' (length_le ..), ofLe_le_of_lt vs[k].isLt, BitVec.ofNat_toNat, BitVec.setWidth_eq]
  simp only [segmentValues, segmentBytes, if_neg Bool.false_ne_true, hlen]
  rw [Nat.mul_div_cancel_left _ (by decide), hread]
  simp
  omega

/-! ### Counts of symbols -/

theorem length_foldl_bump (l : List Nat) (t : List Nat) : (l.foldl (fun t k => t.modify k (· + 1)) t).length = t.length := by
  induction l generalizing t with
  | nil => rfl
  | cons k l ih => rw [List.foldl_cons, ih, List.length_modify]

/-- A table that counts the symbols of a list. -/
theorem getElem?_foldl_bump (l : List Nat) (t : List Nat) (k : Nat) :
    (l.foldl (fun t k => t.modify k (· + 1)) t)[k]? = t[k]?.map (· + l.count k) := by
  induction l generalizing t with
  | nil => simp
  | cons j l ih =>
    rw [List.foldl_cons, ih, List.getElem?_modify]
    cases t[k]? with
    | none => simp
    | some n =>
      by_cases h : j = k
      · simp [h, Nat.add_assoc, Nat.add_comm 1]
      · simp [h]

/-- How often each of the 256 symbols stands in a list. -/
theorem getElem?_countTable (l : List Nat) {k : Nat} (hk : k < 256) :
    (l.foldl (fun t k => t.modify k (· + 1)) (List.replicate 256 0))[k]? = some (l.count k) := by
  rw [getElem?_foldl_bump, List.getElem?_replicate, if_pos hk, Option.map_some, Nat.zero_add]

theorem expByte_lt (v : BitVec 32) : expByte v < 256 := Nat.mod_lt _ (by decide)

theorem mem_expCounts {vs : List (BitVec 32)} {c : Nat × Nat} :
    c ∈ expCounts vs ↔ c.1 < 256 ∧ c.2 = (vs.map expByte).count c.1 ∧ c.2 ≠ 0 := by
  obtain ⟨k, n⟩ := c
  have htable : vs.foldl (fun l v => l.modify (expByte v) (· + 1)) (List.replicate 256 0) =
      (vs.map expByte).foldl (fun t k => t.modify k (· + 1)) (List.replicate 256 0) := by rw [List.foldl_map]
  have hlen := length_foldl_bump (vs.map expByte) (List.replicate 256 0)
  rw [List.length_replicate] at hlen
  simp only [expCounts, htable, List.mem_filterMap, Prod.exists, List.mem_zipIdx_iff_getElem?]
  constructor
  · rintro ⟨m, j, hget, hsome⟩
    have hj : j < 256 := hlen ▸ (List.getElem?_eq_some_iff.1 hget).1
    rw [getElem?_countTable _ hj] at hget
    split at hsome
    · cases hsome
    · rename_i hm
      cases hget
      cases hsome
      exact ⟨hj, rfl, hm⟩
  · rintro ⟨hk, rfl, hn⟩
    exact ⟨_, k, getElem?_countTable _ hk, if_neg hn⟩

/-- Each exponent is counted once. -/
theorem nodup_expCounts (vs : List (BitVec 32)) : ((expCounts vs).map (·.1)).Nodup ∧ (expCounts vs).length ≤ 256 := by
  have hsub : ((expCounts vs).map (·.1)).Sublist (List.range 256) := by
    have hlen := length_foldl_bump (vs.map expByte) (List.replicate 256 0)
    rw [List.length_replicate, List.foldl_map] at hlen
    have hfst (l : List (Nat × Nat)) : ((l.filterMap fun c => if c.1 = 0 then none else some (c.2, c.1)).map (·.1)).Sublist (l.map (·.2)) := by
      induction l with
      | nil => exact List.Sublist.slnil
      | cons c l ih =>
        by_cases hc : c.1 = 0
        · simpa [hc] using ih.cons c.2
        · simpa [hc] using ih
    have hsnd := hfst (vs.foldl (fun l v => l.modify (expByte v) (· + 1)) (List.replicate 256 0)).zipIdx
    rwa [List.zipIdx_map_snd, hlen, ← List.range_eq_range'] at hsnd
  exact ⟨hsub.nodup List.nodup_range, by simpa using hsub.length_le⟩

/-! ### Coins of the length-limited code (R348) -/

theorem insertCoin_eq (x : Coin) (l : List Coin) : insertCoin x l = l.orderedInsert (fun a b => a.1 ≤ b.1) x := by
  induction l with
  | nil => rfl
  | cons y l ih => rw [insertCoin, List.orderedInsert_cons, ih]

theorem sortCoins_eq (l : List Coin) : sortCoins l = l.insertionSort fun a b => a.1 ≤ b.1 := by
  induction l with
  | nil => rfl
  | cons x l ih => rw [List.insertionSort_cons, ← ih, ← insertCoin_eq]; rfl

theorem sortCoins_perm (l : List Coin) : (sortCoins l).Perm l := sortCoins_eq l ▸ List.perm_insertionSort _ l

theorem sortCoins_sorted (l : List Coin) : (sortCoins l).Pairwise fun a b => a.1 ≤ b.1 := by
  have htotal : Std.Total fun a b : Coin => a.1 ≤ b.1 := ⟨fun a b => Nat.le_total a.1 b.1⟩
  have htrans : IsTrans Coin fun a b => a.1 ≤ b.1 := ⟨fun _ _ _ => Nat.le_trans⟩
  exact sortCoins_eq l ▸ List.pairwise_insertionSort _ l

theorem length_pairCoins : ∀ l : List Coin, (pairCoins l).length = l.length / 2
  | [] => rfl
  | [_] => by simp [pairCoins]
  | _ :: _ :: l => by
    simp only [pairCoins, List.length_cons, length_pairCoins l]
    omega

/-- The symbols of some coins. -/
def coinSyms (l : List Coin) : List Nat := (l.map (·.2)).flatten

theorem coinSyms_pairCoins : ∀ l : List Coin, (coinSyms (pairCoins l)).Sublist (coinSyms l)
  | [] => List.Sublist.refl _
  | [_] => List.nil_sublist _
  | _ :: _ :: l => by
    simpa [coinSyms, pairCoins] using coinSyms_pairCoins l

theorem coinSyms_perm {l l' : List Coin} (h : l.Perm l') : (coinSyms l).Perm (coinSyms l') := (h.map _).flatten

/-- Each denomination holds a symbol at most once more than the one before. -/
theorem count_coinRounds {own : List Coin} (hown : (coinSyms own).Nodup) (k n : Nat) : (coinSyms (coinRounds own n)).count k ≤ n := by
  induction n with
  | zero => simp [coinRounds, coinSyms]
  | succ n ih =>
    have hpair := (coinSyms_pairCoins (coinRounds own n)).count_le k
    have hone := List.nodup_iff_count_le_one.1 hown k
    rw [coinRounds, (coinSyms_perm (sortCoins_perm _)).count_eq]
    simp only [coinSyms, List.map_append, List.flatten_append, List.count_append] at *
    omega

/-- The number of coins of a denomination: one fewer than twice the symbols is nearly reached, and never passed. -/
theorem length_coinRounds {own : List Coin} {m : Nat} (hlen : own.length = m + 1) (n : Nat) :
    (coinRounds own (n + 1)).length + m / 2 ^ n = 2 * m + 1 := by
  induction n with
  | zero =>
    simp [coinRounds, (sortCoins_perm _).length_eq, pairCoins, hlen]
    omega
  | succ n ih =>
    rw [coinRounds, (sortCoins_perm _).length_eq, List.length_append, length_pairCoins, hlen, pow_succ, ← Nat.div_div_eq_div_mul]
    omega

/-- Of positive coins, a coin that gets into a pair is lighter than the pair. -/
theorem exists_heavier_pair : ∀ {l : List Coin}, (∀ c ∈ l, 0 < c.1) → ∀ {i : Nat} {x : Coin}, l[i]? = some x → i < 2 * (l.length / 2) →
    ∃ p ∈ pairCoins l, x.1 < p.1
  | [], _, i, x, hx, _ => by simp at hx
  | [_], _, i, x, _, hi => by simp at hi
  | a :: b :: l, hpos, 0, x, hx, _ => by
    cases hx
    have := hpos b (by simp)
    exact ⟨_, List.mem_cons_self, by dsimp only; omega⟩
  | a :: b :: l, hpos, 1, x, hx, _ => by
    cases hx
    have := hpos a (by simp)
    exact ⟨_, List.mem_cons_self, by dsimp only; omega⟩
  | a :: b :: l, hpos, i + 2, x, hx, hi => by
    obtain ⟨p, hp, hlt⟩ := exists_heavier_pair (l := l) (fun c hc => hpos c (by simp [hc])) (i := i) (x := x) hx (by
      simp only [List.length_cons] at hi
      omega)
    exact ⟨p, List.mem_cons_of_mem _ hp, hlt⟩

theorem pos_pairCoins : ∀ {l : List Coin}, (∀ c ∈ l, 0 < c.1) → ∀ c ∈ pairCoins l, 0 < c.1
  | [], _, _, hc => by simp [pairCoins] at hc
  | [_], _, _, hc => by simp [pairCoins] at hc
  | a :: b :: l, hpos, c, hc => by
    rcases List.mem_cons.1 hc with rfl | hc
    · exact Nat.add_pos_left (hpos a (by simp)) _
    · exact pos_pairCoins (fun c hc => hpos c (by simp [hc])) c hc

/-- A lighter coin of a sorted list stands before a heavier one. -/
theorem exists_index_lt {l : List Coin} (hsort : l.Pairwise fun a b => a.1 ≤ b.1) {x c : Coin} (hx : x ∈ l) (hc : c ∈ l) (hlt : x.1 < c.1) :
    ∃ i, l[i]? = some x ∧ i + 1 < l.length := by
  obtain ⟨i, hi, rfl⟩ := List.getElem_of_mem hx
  obtain ⟨j, hj, rfl⟩ := List.getElem_of_mem hc
  refine ⟨i, List.getElem?_eq_getElem hi, ?_⟩
  by_contra hlast
  rcases Nat.lt_trichotomy i j with h | h | h
  · omega
  · subst h; exact Nat.lt_irrefl _ hlt
  · exact Nat.not_le.2 hlt (List.pairwise_iff_getElem.1 hsort j i hj hi h)

section Coins
variable {own : List Coin} {x : Coin} (hpos : ∀ c ∈ own, 0 < c.1) (hx : x ∈ own)
include hpos

theorem pos_coinRounds (n : Nat) : ∀ c ∈ coinRounds own n, 0 < c.1 := by
  induction n with
  | zero => simp [coinRounds]
  | succ n ih =>
    intro c hc
    rcases List.mem_append.1 ((sortCoins_perm _).mem_iff.1 hc) with hc | hc
    · exact hpos c hc
    · exact pos_pairCoins ih c hc

include hx

omit hpos in
theorem own_mem_coinRounds (n : Nat) : x ∈ coinRounds own (n + 1) := (sortCoins_perm _).mem_iff.2 (List.mem_append_left _ hx)

/-- Once a denomination holds a coin heavier than an own one, every later one does: one of the two gets into a pair. -/
theorem heavier_coin_stays {n k : Nat} (hheavy : ∃ c ∈ coinRounds own (n + 1), x.1 < c.1) : ∃ c ∈ coinRounds own (n + 1 + k), x.1 < c.1 := by
  induction k with
  | zero => exact hheavy
  | succ k ih =>
    obtain ⟨c, hc, hlt⟩ := ih
    rw [show n + 1 + k = n + k + 1 by omega] at hc
    obtain ⟨i, hget, hi⟩ := exists_index_lt (sortCoins_sorted _) (own_mem_coinRounds hx (n + k)) hc hlt
    change (coinRounds own (n + k + 1))[i]? = some x at hget
    change i + 1 < (coinRounds own (n + k + 1)).length at hi
    obtain ⟨p, hp, hlt⟩ := exists_heavier_pair (pos_coinRounds hpos (n + k + 1)) hget (by omega)
    rw [show n + 1 + (k + 1) = n + k + 1 + 1 by omega]
    exact ⟨p, (sortCoins_perm _).mem_iff.2 (List.mem_append_right _ hp), hlt⟩

/-- Of at most 256 symbols, each one's coin of the last denomination is among those taken: within eight denominations the count of coins
is even, and then every coin gets into a pair that is heavier. -/
theorem own_mem_taken (htwo : 2 ≤ own.length) (hmany : own.length ≤ 256) : x ∈ (coinRounds own 15).take (2 * own.length - 2) := by
  obtain ⟨m, hm⟩ : ∃ m, own.length = m + 1 := ⟨own.length - 1, by omega⟩
  have hm0 : m ≠ 0 := by omega
  have hlog : m.log2 < 8 := (Nat.log2_lt hm0).2 (by omega)
  have heven := length_coinRounds hm m.log2
  have hone : m / 2 ^ m.log2 = 1 := by
    have hlow : 2 ^ m.log2 ≤ m := Nat.log2_self_le hm0
    have hhigh := Nat.lt_log2_self (n := m)
    rw [pow_succ] at hhigh
    exact Nat.div_eq_of_lt_le (by omega) (by omega)
  obtain ⟨i, hi, hget⟩ := List.getElem_of_mem (own_mem_coinRounds hx m.log2)
  obtain ⟨p, hp, hlt⟩ := exists_heavier_pair (pos_coinRounds hpos (m.log2 + 1)) (hget ▸ List.getElem?_eq_getElem hi) (by omega)
  obtain ⟨c, hc, hlt⟩ := heavier_coin_stays (n := m.log2 + 1) (k := 15 - (m.log2 + 2)) hpos hx
    ⟨p, (sortCoins_perm _).mem_iff.2 (List.mem_append_right _ hp), hlt⟩
  rw [show m.log2 + 1 + 1 + (15 - (m.log2 + 2)) = 15 by omega] at hc
  obtain ⟨i, hget, hi⟩ := exists_index_lt (sortCoins_sorted _) (own_mem_coinRounds hx 14) hc hlt
  have hlen := length_coinRounds hm 14
  change (coinRounds own 15).length + _ = _ at hlen
  change i + 1 < (coinRounds own 15).length at hi
  exact List.mem_of_getElem? ((List.getElem?_take_of_lt (by omega)).trans hget)

end Coins

/-! ### The lengths of the exponents' codes (R348) -/

/-- A table of 256 lengths, none above 15, in which the exponent of every value has one. -/
def LengthsFor (ls : List Nat) (vs : List (BitVec 32)) : Prop := ls.length = 256 ∧ (∀ n ∈ ls, n ≤ 15) ∧ ∀ v ∈ vs, ∃ n, ls[expByte v]? = some n ∧ 0 < n

theorem mem_expCounts_expByte {vs : List (BitVec 32)} {v : BitVec 32} (hv : v ∈ vs) :
    (expByte v, (vs.map expByte).count (expByte v)) ∈ expCounts vs :=
  mem_expCounts.2 ⟨expByte_lt v, rfl, (List.count_pos_iff.2 (List.mem_map_of_mem hv)).ne'⟩

theorem lengthsFor_of_none {vs : List (BitVec 32)} (hcounts : expCounts vs = []) : LengthsFor (expLengths vs) vs := by
  rw [expLengths, hcounts]
  refine ⟨List.length_replicate, fun n hn => by rw [List.eq_of_mem_replicate hn]; decide, fun v hv => ?_⟩
  have := mem_expCounts_expByte hv
  rw [hcounts] at this
  cases this

theorem lengthsFor_of_one {vs : List (BitVec 32)} {c : Nat × Nat} (hcounts : expCounts vs = [c]) : LengthsFor (expLengths vs) vs := by
  rw [expLengths, hcounts]
  refine ⟨by simp, fun n hn => ?_, fun v hv => ⟨1, ?_, Nat.one_pos⟩⟩
  · obtain ⟨k, -, rfl⟩ := List.mem_map.1 hn
    split <;> decide
  · have hmem := mem_expCounts_expByte hv
    rw [hcounts, List.mem_singleton] at hmem
    rw [← hmem, List.getElem?_map, List.getElem?_range (expByte_lt v), Option.map_some, if_pos rfl]

/-- The coins of the symbols themselves. -/
def ownCoins (vs : List (BitVec 32)) : List Coin := sortCoins ((expCounts vs).map fun c => (c.2, [c.1]))

/-- The symbols of the coins that the construction takes. -/
def takenSyms (vs : List (BitVec 32)) : List Nat := coinSyms ((coinRounds (ownCoins vs) 15).take (2 * (expCounts vs).length - 2))

theorem ownCoins_perm (vs : List (BitVec 32)) : (ownCoins vs).Perm ((expCounts vs).map fun c => (c.2, [c.1])) := sortCoins_perm _

theorem length_ownCoins (vs : List (BitVec 32)) : (ownCoins vs).length = (expCounts vs).length :=
  (ownCoins_perm vs).length_eq.trans (List.length_map _)

theorem nodup_coinSyms_ownCoins (vs : List (BitVec 32)) : (coinSyms (ownCoins vs)).Nodup := by
  have hsyms : coinSyms ((expCounts vs).map fun c => (c.2, [c.1])) = (expCounts vs).map (·.1) := by
    rw [coinSyms, List.map_map, ← List.flatMap_def]
    exact (List.map_eq_flatMap).symm
  exact (coinSyms_perm (ownCoins_perm vs)).nodup_iff.2 (hsyms ▸ (nodup_expCounts vs).1)

theorem pos_ownCoins (vs : List (BitVec 32)) : ∀ c ∈ ownCoins vs, 0 < c.1 := by
  intro c hc
  obtain ⟨e, he, rfl⟩ := List.mem_map.1 ((ownCoins_perm vs).mem_iff.1 hc)
  exact Nat.pos_of_ne_zero (mem_expCounts.1 he).2.2

theorem lengthsFor_of_many {vs : List (BitVec 32)} (hmany : 2 ≤ (expCounts vs).length) : LengthsFor (expLengths vs) vs := by
  have htable : expLengths vs = (takenSyms vs).foldl (fun l k => l.modify k (· + 1)) (List.replicate 256 0) := by
    rw [expLengths, takenSyms, ownCoins]
    match expCounts vs, hmany with
    | _ :: _ :: _, _ => rfl
  rw [htable]
  have hlen := length_foldl_bump (takenSyms vs) (List.replicate 256 0)
  rw [List.length_replicate] at hlen
  refine ⟨hlen, fun n hn => ?_, fun v hv => ⟨_, getElem?_countTable _ (expByte_lt v), ?_⟩⟩
  · obtain ⟨k, hk⟩ := List.mem_iff_getElem?.1 hn
    rw [getElem?_countTable _ (hlen ▸ (List.getElem?_eq_some_iff.1 hk).1)] at hk
    cases hk
    have hsub : (takenSyms vs).Sublist (coinSyms (coinRounds (ownCoins vs) 15)) := ((List.take_sublist _ _).map _).flatten
    exact (hsub.count_le k).trans (count_coinRounds (nodup_coinSyms_ownCoins vs) k 15)
  · have hown : ((vs.map expByte).count (expByte v), [expByte v]) ∈ ownCoins vs :=
      (ownCoins_perm vs).mem_iff.2 (List.mem_map.2 ⟨_, mem_expCounts_expByte hv, rfl⟩)
    have htaken := own_mem_taken (pos_ownCoins vs) hown (by rwa [length_ownCoins]) ((length_ownCoins vs).trans_le (nodup_expCounts vs).2)
    rw [length_ownCoins] at htaken
    exact List.count_pos_iff.2 (List.mem_flatten.2 ⟨_, List.mem_map_of_mem htaken, List.mem_singleton_self _⟩)

/-- The code built for any values' exponents has a length from 1 to 15 for each of them. -/
theorem lengthsFor_expLengths (vs : List (BitVec 32)) : LengthsFor (expLengths vs) vs := by
  match hcounts : expCounts vs with
  | [] => exact lengthsFor_of_none hcounts
  | [c] => exact lengthsFor_of_one hcounts
  | _ :: _ :: _ => exact lengthsFor_of_many (by simp [hcounts])

/-- Settles O32: plain words are read one by one; coded values by the canonical code, in which no code begins with another and the construction of
R348 gives each exponent a length. -/
theorem gradientSegmentReadsBack : Obligations.GradientSegmentReadsBack := by
  unfold Obligations.GradientSegmentReadsBack
  intro vs hmany
  refine ⟨segmentValues_plain hmany, fun hok => ?_⟩
  obtain ⟨hlen, h15, hhas⟩ := lengthsFor_expLengths vs
  have hcoded : Coded (expLengths vs) vs := fun v hv => by
    obtain ⟨n, hget, hpos⟩ := hhas v hv
    exact ⟨n, hget, hpos, h15 n (List.mem_of_getElem? hget)⟩
  have hread := decodeSegment_codeSegment hmany hlen h15 hcoded hok
  rw [segmentValues, segmentBytes, if_pos rfl, if_pos rfl, hread]

end Sys2Proof.Proofs
end

section
namespace Sys2Proof.Proofs
open Machine Laws

/-! ### The forms of a host command (R373 to R376) -/

/-- A host command that needs the store, the report before it or its register's turn waits, and the state stays. -/
def WaitsFirst (c : Instr) (s : State) (k : HostCall) : Prop :=
  exec c s = .next s ∧ (storeReady s = false ∨ (k.op = 0x0900 ∧ k.obj = none ∧ reportWaits s = true) ∨
    (k.op = 0x0701 ∧ k.admin = false ∧ k.obj = none))

/-- A host command that could run asks for lent frames first; it is none of those that a right or a role may refuse. -/
def AsksForLent (c : Instr) (s : State) (k : HostCall) : Prop :=
  taken s k.h k.op c.params = true ∧ k.admin = false ∧ k.op / 256 ≠ 9 ∧ (∀ o ∈ k.obj, objBusy s k.h.basin o = false) ∧
    ∃ t, exec c s = .next t

/-- A host command is checked and run under the parameters, the mark (A) and the object of its call. -/
def RunsChecked (c : Instr) (s : State) (k : HostCall) : Prop :=
  ∃ d obj body, d.params = c.params ∧ (∀ o, k.obj = some o → obj = some o) ∧ exec c s = hostCmd s k.h k.op k.admin obj d body

/-- One of the three. -/
def CallForm (c : Instr) (s : State) (k : HostCall) : Prop := WaitsFirst c s k ∨ AsksForLent c s k ∨ RunsChecked c s k

section Forms
variable {c : Instr} {s : State} {h : Hdr} {op : Nat} {body : State → State}

theorem callForm_of_lent {o : Obj} {st addr pages tier : Nat} {t : State} (hop : op / 256 ≠ 9)
    (hx : exec c s = if waitsForLent s h op c o st addr pages tier = true then .next t else hostCmd s h op false (some o) c body) :
    CallForm c s ⟨h, op, false, some o⟩ := by
  by_cases hwaits : waitsForLent s h op c o st addr pages tier = true
  · rw [if_pos hwaits] at hx
    simp only [waitsForLent, Bool.and_eq_true, Bool.not_eq_true'] at hwaits
    obtain ⟨⟨⟨htaken, hfree⟩, -⟩, -⟩ := hwaits
    exact .inr (.inl ⟨htaken, rfl, hop, fun o ho => by cases ho; exact hfree, t, hx⟩)
  · rw [if_neg hwaits] at hx
    exact .inr (.inr ⟨c, some o, body, rfl, fun _ => id, hx⟩)

theorem callForm_of_store {adm : Bool} {obj : Option Obj} (hx : exec c s = hostStoreCmd s h op adm obj c body) :
    CallForm c s ⟨h, op, adm, obj⟩ := by
  rw [hostStoreCmd] at hx
  cases hready : storeReady s with
  | false => exact .inl ⟨by simpa [hready] using hx, .inl hready⟩
  | true => exact .inr (.inr ⟨c, obj, _, rfl, fun _ => id, by simpa [hready] using hx⟩)

theorem callForm_of_report (hx : exec c s = if reportWaits s = true then .next s else hostCmd s h 0x0900 false none c body) :
    CallForm c s ⟨h, 0x0900, false, none⟩ := by
  cases hwaits : reportWaits s with
  | true => exact .inl ⟨by simpa [hwaits] using hx, .inr (.inl ⟨rfl, rfl, hwaits⟩)⟩
  | false => exact .inr (.inr ⟨c, none, body, rfl, fun _ => id, by simpa [hwaits] using hx⟩)

theorem callForm_of_wait (hx : exec c s = .next s) : CallForm c s ⟨h, 0x0701, false, none⟩ := .inl ⟨hx, .inr (.inr ⟨rfl, rfl, rfl⟩)⟩

theorem callForm_of_write {addr : Nat} {mask value : BitVec 64} (hparams : c.params = writeParams addr mask value)
    (hx : exec c s = regWriteAt s h addr mask value) : CallForm c s ⟨h, 0x0701, false, none⟩ := by
  rw [regWriteAt] at hx
  by_cases hwaits : (regAt addr).any (writeWaits s mask value) = true
  · exact callForm_of_wait (hx.trans (if_pos hwaits))
  · exact .inr (.inr ⟨.regWrite h addr mask value, none, _, hparams.symm, fun _ => id, hx.trans (if_neg hwaits)⟩)

/-- A write of a register of one of several banks: there is none beyond the last. -/
theorem callForm_of_bankWrite {n banks addr : Nat} {mask value : BitVec 64} (hparams : c.params = writeParams addr mask value)
    (hx : exec c s = if n < banks then regWriteAt s h addr mask value else .next s) : CallForm c s ⟨h, 0x0701, false, none⟩ := by
  by_cases hn : n < banks
  · exact callForm_of_write hparams (hx.trans (if_pos hn))
  · exact callForm_of_wait (hx.trans (if_neg hn))

end Forms

/-- Every host command has one of the three forms. -/
theorem callForm_of_call {c : Instr} {k : HostCall} (hk : c.call = some k) (s : State) : CallForm c s k := by
  cases c
  case modelCreate | basinMap =>
    cases hk
    exact callForm_of_lent (by decide) (by unfold exec; rfl)
  case basinCreate | basinQuota | basinHosts | linkTopology | secFwUpdate | cakInstall | sciBind | sciUnbind =>
    cases hk
    exact callForm_of_store (by unfold exec; rfl)
  case secAttest =>
    cases hk
    exact callForm_of_report (by unfold exec; rfl)
  case regWrite | restart | confirm | stwBootCfgWrite | pwrLimitCfgWrite =>
    cases hk
    exact callForm_of_write rfl (by unfold exec; rfl)
  case ethPortCtrlWrite | frdEnableWrite | frdRetrain | frdClrCnt =>
    cases hk
    exact callForm_of_bankWrite rfl (by unfold exec; rfl)
  case modelProgram | variantDelete | reqSubmit | kvResume | kvDrop | trainCreate | basinUnmap | basinPlace | basinRead | linkSliceBind |
    linkSliceUnbind =>
    cases hk
    refine .inr (.inr ⟨_, _, _, ?params, ?obj, by
      simp only [exec, execModelProgram, execVariantDelete, execReqSubmit, execKvResume, execKvDrop, execTrainCreate, execBasinUnmap,
        execBasinPlace, execBasinRead, execLinkSliceBind, execLinkSliceUnbind, linkSlice]
      rfl⟩)
    case params => rfl
    case obj => simp
  case modelSeal | modelDelete | modelQuery | modelRepair | variantCreate | variantUpdate | variantPin | variantQuery | variantPrefetch |
    reqCancel | reqQuery | reqGroup | kvConfigure | kvQuery | kvPrefixFlush | kvStats | trainFeed | trainStart | trainStop | trainQuery |
    trainExport | trainDelete | basinDestroy | basinQuery | basinPageq | regRead | testBist | testResult | testEcho | secCerts |
    secZeroize | pwrStatus | pwrDomain | standby | pwrLimit | pwrStoreQuery | pwrStoreSwap | linkStatus | logRead | logFaults |
    logCounters | logSubscribe =>
    cases hk
    refine .inr (.inr ⟨_, _, _, ?params, ?obj, by unfold exec; rfl⟩)
    case params => rfl
    case obj => simp
  all_goals cases hk

/-! ### Every command answers a next state (R373, R376; log entry 14) -/

/-- The outcome is a next state. -/
def Answers (r : Res) : Prop := ∃ t, r = .next t

theorem answers_next (t : State) : Answers (.next t) := ⟨t, rfl⟩

theorem answers_ite {c : Prop} [Decidable c] {a b : Res} (ha : Answers a) (hb : Answers b) : Answers (if c then a else b) := ite_keeps ha hb

/-- A host command is not taken, refused, or run. -/
theorem hostCmd_answers (s : State) (h : Hdr) (op : Nat) (adm : Bool) (obj : Option Obj) (c : Instr) (body : State → State) :
    Answers (hostCmd s h op adm obj c body) := by
  refine answers_ite (answers_next _) (answers_ite (answers_next _) ?_)
  cases obj with
  | none => exact answers_next _
  | some o => exact answers_ite (answers_next _) (answers_next _)

theorem exec_answers_of_call {c : Instr} {k : HostCall} (hk : c.call = some k) (s : State) : Answers (exec c s) := by
  rcases callForm_of_call hk s with ⟨hx, -⟩ | ⟨-, -, -, -, t, hx⟩ | ⟨d, obj, body, -, -, hx⟩
  · exact ⟨s, hx⟩
  · exact ⟨t, hx⟩
  · exact hx ▸ hostCmd_answers ..

theorem onPort_answers (s : State) (f : RxFrame) (is : Bool) (go : State → State) : Answers (onPort s f is go) :=
  answers_ite (answers_next _) (answers_next _)

theorem mgCode_answers (s : State) (pec : Bool) (stages : List Nat) (body : State → State) : Answers (mgCode s pec stages body) :=
  answers_ite (answers_next _) (answers_ite (answers_next _) (answers_ite (answers_next _) (answers_next _)))

theorem eddyCmd_answers (sid eid unit off : Nat) (isWrite : Bool) (data : List Byte) (s : State) :
    Answers (eddyCmd sid eid unit off isWrite data s) := by
  unfold eddyCmd
  split
  · exact answers_next _
  · exact answers_ite (answers_next _) (answers_next _)

/-- Every branch of an event is a next state. -/
theorem exec_answers_of_event {c : Instr} (hc : c.call = none) (s : State) : Answers (exec c s) := by
  cases c
  case arpRequest | neighbourSolicitation | icmpEcho | addressResolutionReply =>
    unfold exec
    exact onPort_answers ..
  case eddyWrite | eddyRead =>
    unfold exec
    exact eddyCmd_answers ..
  case mgStatus | mgSensors | mgEvents | mgFaults | mgSelftest | mgRestart | mgWake | mgImage =>
    unfold exec
    exact mgCode_answers ..
  case mgAdminHosts | mgAdminMove | mgImageCommit =>
    unfold exec
    exact answers_ite (answers_next _) (mgCode_answers ..)
  all_goals cases hc
  all_goals simp only [exec, execKvTtlCheck, execGranuleClearComplete, execJobKill, execJobCleared, execWindowCloseComplete,
      execSealVerifyComplete, execDeltaVerifyComplete, execVariantRetireComplete, execMaterialisationStart, execMaterialisationComplete,
      execRunnelMessage, execDoorbellRing, execRunnelHoldExpiry, execDataWriteResume, execWoreoSegmentReceive, execSyn, execRtoExpiry,
      execAckDelayExpiry, execEvtCoalesceExpiry, execQueueRoomReturn, execTokSent, execEthLink, execTagExpiry, execShadowStateSet,
      execBatchForm, execItemPrologue, execWindowLoad, execDecoderRead, execLaneBeat, execItemJoin, execDrainComplete, execStepFault,
      execConfluenceAdd, execEpilogueBlock, execEpilogueFinish, execMillraceUnitStart, execMillraceTile, execRangeMerge, execRiffleStream,
      execWeirRoute, execWeirCombine, execLossCompute, execGradientAccumulate, execEddyWatchdogExpiry, execEddyAccessResume,
      execStepBoundary, execOffstepSettle, execTeardownFlushExpiry, execBasinTeardownComplete, execPageMoveStart, execUncorrectableError,
      execPageMoveComplete, execPageCopy, execHbmReclaim, execModelHomeRepair, execRefetchTimer, execCorrectedError, execScrubRead,
      execMemLendReclaim, execLendReclaimExpiry, execTierPageClearComplete, execFordTrain, execFordTrainRetry, execIdentityFrame,
      execHeartbeatSend, execFordLostTimeout, execModuleLostTimeout, execStepBind, execFlitReceive, execSliceDeclareReceive,
      execSliceReadyReceive, execSliceGoReceive, execSliceBindTimeout, execSliceJoinTimeout, execSliceStopReceive,
      execWindowTransferReceive, execFwSlotWriteComplete, execMkaFrame, execSelftestPeriodic, execEntropyHealthFail, execDrbgReseed,
      execDomainWake, execDomainWakeComplete, execDomainOffComplete, execDomainFault, execAutoIdleExpiry, execStandbyWakeTimer,
      execStoreWrite, execStoreEraseComplete, execVcoreDip, execVcoreReturn, execPwrClear, execBrownout, execBrownoutRecovery,
      execRailWarn, execRailFault, execVserRecovery, execVauxRecovery, execPowerSample, execLimiterStep, execThermalLoop, execSensorRead,
      execSensorCheck, execSensorBusFault, execSensorBusRetry, execInputReversed, execInputLow, execInputUndervoltage, execInputHigh,
      execInputOvervoltage, execSenseMate, execSenseBreak, execBistComplete, execPowerOn, execMemoryInitComplete, execPtpWaitExpiry,
      execBootReady, execConfirmTimeout, execSp0WatchdogExpiry, execModReset, execModuleRestart, execPtpMessage, execPtpTransmitterLost,
      execCounterFold, execMgAdminHostsTimeout, execMgBusTimeout, execBypass, execIdcode, execSamplePreload, execExtest, execClamp,
      execHighz, execExtestPulse, execExtestTrain]
  all_goals repeat' (first | with_reducible exact answers_next _ | with_reducible refine answers_ite ?_ ?_ | split)

/-- Settles O6: a host command has one of the three forms of `callForm_of_call`, and every branch of an event is a next state. -/
theorem everyCommandAnswersANextState : Obligations.EveryCommandAnswersANextState := by
  unfold Obligations.EveryCommandAnswersANextState
  intro c s
  cases hc : c.call with
  | some k => exact exec_answers_of_call hc s
  | none => exact exec_answers_of_event hc s

end Sys2Proof.Proofs
end

section
namespace Sys2Proof.Proofs
open Machine Laws

/-- Settles O1: the queue's rest, put back in place of the queue, is the state itself. -/
theorem stepRunsFrontCommand : Obligations.StepRunsFrontCommand := by
  unfold Obligations.StepRunsFrontCommand
  intro c s
  exact step_of_command rfl

/-! ### The checks that every host command passes first (R370, R375, R376, R415, R501) -/

section HostChecks
variable {s : State} {h : Hdr} {op : Nat} {adm : Bool} {obj : Option Obj} {c d : Instr} {body : State → State}

/-- What must hold of the module and of the basin for a host command to be taken. -/
theorem taken_needs {ps : List Field} (htaken : taken s h op ps = true) :
    s.boot.stage = 6 ∧ s.pwr.standbyUntil.isSome = false ∧ basinLive s h.basin = true ∧ inTeardown s h.basin = false ∧
      (linkOf s h.basin).rspWait = [] ∧ (linkOf s h.basin).deferred.length < 256 := by
  simp only [taken, Bool.and_eq_true, beq_iff_eq, Bool.not_eq_true', decide_eq_true_eq, List.isEmpty_iff] at htaken
  obtain ⟨⟨⟨⟨⟨⟨⟨⟨⟨⟨⟨hstage, hstandby⟩, -⟩, hlive⟩, hteardown⟩, hroom⟩, hfew⟩, -⟩, -⟩, -⟩, -⟩, -⟩ := htaken
  exact ⟨hstage, by simpa using hstandby, hlive, hteardown, hroom, hfew⟩

theorem hostCmd_of_not_taken (htaken : taken s h op d.params = false) : hostCmd s h op adm obj d body = .next s := by
  rw [hostCmd, htaken]
  rfl

theorem hostCmd_of_refused (htaken : taken s h op d.params = true)
    (hrefused : (adm = true ∧ isAdmin s h.basin = false) ∨ roleHeld s h op = false) :
    hostCmd s h op adm obj d body = .next (reply (s.took h op) h op stNotPermitted []) := by
  have hfails : (adm && !isAdmin s h.basin || !roleHeld s h op) = true := by
    rcases hrefused with ⟨hadm, hright⟩ | hrole
    · simp [hadm, hright]
    · simp [hrole]
  rw [hostCmd, if_neg (by simp [htaken])]
  exact if_pos hfails

theorem hostCmd_of_busy {o : Obj} (htaken : taken s h op d.params = true) (hright : adm = true → isAdmin s h.basin = true)
    (hrole : roleHeld s h op = true) (hobj : obj = some o) (hbusy : objBusy s h.basin o = true) :
    hostCmd s h op adm obj d body = .next (reply (s.took h op) h op stBusy []) := by
  have hpasses : (adm && !isAdmin s h.basin || !roleHeld s h op) = false := by
    cases adm with
    | false => simp [hrole]
    | true => simp [hrole, hright rfl]
  subst hobj
  rw [hostCmd, if_neg (by simp [htaken])]
  refine (if_neg (ne_true_of_eq_false hpasses)).trans (if_pos ?_)
  exact (took_objBusy s h op h.basin o).trans hbusy

end HostChecks

/-- Settles O7: a command that waits leaves the state, and one that asks for lent frames could be taken. -/
theorem commandNotTakenChangesNothing : Obligations.CommandNotTakenChangesNothing := by
  unfold Obligations.CommandNotTakenChangesNothing
  intro c s k hk hblocked
  have hnot : taken s k.h k.op c.params = false := by
    by_contra htaken
    obtain ⟨hstage, hstandby, hlive, hteardown, hroom, hfew⟩ := taken_needs (Bool.not_eq_false _ ▸ htaken)
    simp only [hstage, hstandby, hlive, hteardown, hroom] at hblocked
    simp at hblocked
    omega
  rcases callForm_of_call hk s with ⟨hx, -⟩ | ⟨htaken, -⟩ | ⟨d, obj, body, hparams, -, hx⟩
  · exact hx
  · exact absurd htaken (by simp [hnot])
  · rw [hx]
    exact hostCmd_of_not_taken (hparams ▸ hnot)

/-- Only the security commands have a role. -/
theorem roleHeld_of_other {s : State} {h : Hdr} {op : Nat} (hop : op / 256 ≠ 9) : roleHeld s h op = true := by simp [roleHeld, hop]

/-- Settles O8: neither a command that waits nor one that asks for lent frames is one that the right or the role refuses. -/
theorem adminCommandsRefusedWithoutRight : Obligations.AdminCommandsRefusedWithoutRight := by
  unfold Obligations.AdminCommandsRefusedWithoutRight
  intro c s k hk hrefused hready hreport htakes
  obtain ⟨h, op, adm, kobj⟩ := k
  have hmay : ¬(adm = false ∧ op / 256 ≠ 9) := by
    rintro ⟨hadm, hop⟩
    rcases hrefused with ⟨hmark, -⟩ | hrole
    · exact Bool.false_ne_true (hadm.symm.trans hmark)
    · exact Bool.false_ne_true (hrole.symm.trans (roleHeld_of_other hop))
  rcases callForm_of_call hk s with ⟨-, hstore | ⟨hop, -, hwaits⟩ | ⟨hop, hadm, -⟩⟩ | ⟨-, hadm, hop, -⟩ | ⟨d, obj, body, hparams, -, hx⟩
  · exact absurd hready (by simp [hstore])
  · exact absurd hwaits (by simp [hreport hop])
  · exact absurd ⟨hadm, by rw [show op = 0x0701 from hop]; decide⟩ hmay
  · exact absurd ⟨hadm, hop⟩ hmay
  · have htaken := (State.takes.spec htakes hk).1
    exact runsTo_of_takes htakes hk (hx.trans (hostCmd_of_refused (hparams ▸ htaken) hrefused)) rfl rfl rfl

/-- Settles O9: a command that waits first names no object unless it needs the store, and one that asks for lent frames found its object
free. -/
theorem commandsOnBusyObjectsRefused : Obligations.CommandsOnBusyObjectsRefused := by
  unfold Obligations.CommandsOnBusyObjectsRefused
  intro c s k o hk ho hright hrole hbusy hready htakes
  obtain ⟨h, op, adm, kobj⟩ := k
  have hnamed : ∀ {P : Prop}, kobj = none → P := fun hnone => nomatch hnone.symm.trans ho
  rcases callForm_of_call hk s with ⟨-, hstore | ⟨-, hnone, -⟩ | ⟨-, -, hnone⟩⟩ | ⟨-, -, -, hfree, -⟩ | ⟨d, obj, body, hparams, hobj, hx⟩
  · exact absurd hready (by simp [hstore])
  · exact hnamed hnone
  · exact hnamed hnone
  · exact absurd hbusy (by simp [hfree o ho])
  · have htaken := (State.takes.spec htakes hk).1
    exact runsTo_of_takes htakes hk (hx.trans (hostCmd_of_busy (hparams ▸ htaken) hright hrole (hobj o ho) hbusy)) rfl rfl rfl

end Sys2Proof.Proofs
end

section
namespace Sys2Proof.Proofs
open Machine Laws

/-! ### The inboxes, which no message to a host touches (R370, R410) -/

theorem setLink_inbox {f : Link → Link} (hf : ∀ l, (f l).inbox = l.inbox) (s : State) (b c : Nat) :
    (linkOf (setLink s b f) c).inbox = (linkOf s c).inbox := by
  rw [linkOf_setLink]
  split
  · exact hf _
  · rfl

theorem setFlow_inbox (s : State) (b f : Nat) (g : Flow → Flow) (c : Nat) : (linkOf (setFlow s b f g) c).inbox = (linkOf s c).inbox :=
  setLink_inbox (fun l => by split <;> rfl) s b c

theorem noteFinals_inbox (s : State) (b : Nat) (m : Msg) (c : Nat) : (linkOf (noteFinals s b m) c).inbox = (linkOf s c).inbox := by
  rw [linkOf, noteFinals_links, ← linkOf]

theorem sendNext_inbox (s : State) (b f c : Nat) : (linkOf (sendNext s b f) c).inbox = (linkOf s c).inbox := by
  unfold sendNext
  dsimp only
  split
  · rfl
  · split
    · rfl
    · rw [setFlow_inbox]
      split
      · exact setFlow_inbox ..
      · rw [noteFinals_inbox]
        exact setFlow_inbox ..

theorem sendSome_inbox (s : State) (b f n c : Nat) : (linkOf (sendSome s b f n) c).inbox = (linkOf s c).inbox := by
  induction n generalizing s with
  | zero => rfl
  | succ n ih => rw [sendSome, ih, sendNext_inbox]

theorem pump_inbox (s : State) (b f c : Nat) : (linkOf (pump s b f) c).inbox = (linkOf s c).inbox := by
  unfold pump markBlocked
  dsimp only
  split
  · split
    · exact (setFlow_inbox ..).trans (sendSome_inbox ..)
    · exact sendSome_inbox ..
  · rfl

theorem reply_inbox (s : State) (h : Hdr) (op st : Nat) (d : List Field) (c : Nat) :
    (linkOf (reply s h op st d) c).inbox = (linkOf s c).inbox := by
  unfold reply queueRsp
  split
  · rw [enqueue, enqueueAs, pump_inbox, setFlow_inbox]
  · exact setLink_inbox (by intro _; rfl) s h.basin c

/-! ### A delivered message (R365, R376, R410) -/

/-- The first two checks, as R376 orders them. -/
theorem cmdBad_eq (op : Nat) (m : List Byte) :
    cmdBad op m = if opcodeKnown op = false then 0x0001 else if 16777216 < m.length ∨ lengthOk op m = false then 0x0002 else 0 := by
  rw [cmdBad]
  cases opcodeKnown op with
  | false => rfl
  | true =>
    by_cases hlong : messageMax < m.length
    · simp [hlong, show 16777216 < m.length from hlong, stBadLength]
    · simp [hlong, show ¬16777216 < m.length from hlong, stBadLength]

theorem answerBad_core (b n : Nat) (s : State) : (answerBad b n s).core = s.core := by
  induction n generalizing s with
  | zero => rfl
  | succ n ih =>
    rw [answerBad]
    split
    · split
      · rfl
      · rw [ih, reply_core]
        exact setLink_core (by intro _; rfl)
    · rfl

/-- A message that passes at the front, or a reply that waits, holds every answer back. -/
theorem answerBad_of_held {b : Nat} {s : State}
    (hheld : (linkOf s b).inbox.head?.all (·.bad == 0) = true ∨ (linkOf s b).rspWait ≠ []) (n : Nat) : answerBad b n s = s := by
  cases n with
  | zero => rfl
  | succ n =>
    rw [answerBad]
    split
    · rename_i c rest hinbox
      refine if_pos ?_
      simpa [hinbox] using hheld
    · rfl

/-- The message as the management core's inbox holds it, at its place in the order of arrival. -/
def stampedCmd (s : State) (port : Nat) (auth : Bool) (m : List Byte) (order : Nat) : CmdMsg :=
  let n := (takeRseq s (0x150 + port)).1
  { opcode := ofLe (m.take 2), ctag := ofLe ((m.drop 4).take 4), bytes := m, bad := cmdBad (ofLe (m.take 2)) m, auth := auth,
    order := order, sender := 0x150 + port, rseq := n, time := s.now, type := (Config.cmdBuffer n).1,
    len := (Config.cmdBuffer n).2.1, data := (Config.cmdBuffer n).2.2 }

/-- The state with the message in the inbox, before malformed messages at the front are answered. -/
def withCmd (s : State) (b port : Nat) (auth : Bool) (m : List Byte) : State :=
  setLink (takeRseq s (0x150 + port)).2 b fun l => { l with
    arrived := l.arrived + 1, inbox := l.inbox ++ [stampedCmd s port auth m l.arrived] }

theorem deliverCmd_eq (s : State) (b port : Nat) (auth : Bool) (m : List Byte) : deliverCmd s b port auth m =
    answerBad b (linkOf (withCmd s b port auth m) b).inbox.length (withCmd s b port auth m) := rfl

theorem withCmd_answers (s : State) (b port : Nat) (auth : Bool) (m : List Byte) (c : Nat) :
    (withCmd s b port auth m).answers c = s.answers c :=
  (setLink_answers (by intro _; rfl) (by intro _; rfl) c).trans (answers_of_links rfl c)

theorem withCmd_core (s : State) (b port : Nat) (auth : Bool) (m : List Byte) : (withCmd s b port auth m).core =
    (setLink (takeRseq s (0x150 + port)).2 b fun l => { l with arrived := l.arrived + 1 }).core := by
  refine core_of_links ?_ rfl
  apply List.ext_getElem?
  intro i
  simp only [withCmd, setLink, List.getElem?_map, List.getElem?_modify]
  cases (takeRseq s (0x150 + port)).2.links[i]? with
  | none => rfl
  | some l => by_cases hi : b = i <;> simp [hi, Link.core]

section Delivered
variable {s : State} {b : Nat} (hb : b < s.links.length) (port : Nat) (auth : Bool) (m : List Byte)
include hb

theorem linkOf_withCmd : linkOf (withCmd s b port auth m) b = { linkOf s b with
    arrived := (linkOf s b).arrived + 1, inbox := (linkOf s b).inbox ++ [stampedCmd s port auth m (linkOf s b).arrived] } := by
  rw [withCmd, linkOf_setLink, if_pos ⟨rfl, hb⟩]
  rfl

/-- Alone at the front and malformed, the message is answered at once. -/
theorem deliverCmd_of_bad (hempty : (linkOf s b).inbox = []) (hroom : (linkOf s b).rspWait = [])
    (hbad : cmdBad (ofLe (m.take 2)) m ≠ 0) :
    let t := deliverCmd s b port auth m
    (linkOf t b).inbox = [] ∧
      ∀ a, t.answers a = s.answers a ++ only b [.rsp (ofLe (m.take 2)) (cmdBad (ofLe (m.take 2)) m) (ofLe ((m.drop 4).take 4)) []] a := by
  intro t
  have hlink := linkOf_withCmd hb port auth m
  rw [hempty, List.nil_append] at hlink
  let x := stampedCmd s port auth m (linkOf s b).arrived
  let u := setLink (withCmd s b port auth m) b fun l => { l with inbox := [] }
  have ht : t = reply u { basin := b, ctag := x.ctag, port := x.sender - 0x150 } x.opcode x.bad [] := by
    have hcond : ¬((decide (x.bad = 0) || !(linkOf (withCmd s b port auth m) b).rspWait.isEmpty) = true) := by
      rw [hlink]
      simpa [hroom, x, stampedCmd] using hbad
    have hstart : t = answerBad b 1 (withCmd s b port auth m) := by
      rw [show t = deliverCmd s b port auth m from rfl, deliverCmd_eq, hlink]
      rfl
    rw [hstart, answerBad, hlink]
    rw [hlink] at hcond
    exact if_neg (by simpa using hcond)
  have hwith : b < (withCmd s b port auth m).links.length := by
    rw [withCmd, setLink_links_length]
    exact hb
  have hu : b < u.links.length := hwith.trans_eq (setLink_links_length ..).symm
  refine ⟨?_, fun a => ?_⟩
  · rw [ht, reply_inbox, linkOf_setLink, if_pos ⟨rfl, hwith⟩]
  · rw [ht, reply_answers _ _ _ _ _ hu, setLink_answers (by intro _; rfl) (by intro _; rfl), withCmd_answers, only]
    split <;> simp [x, stampedCmd]

/-- With a message that passes or a waiting reply before it, or passing itself, it waits in the inbox. -/
theorem deliverCmd_of_held (hheld : ((linkOf s b).inbox = [] ∧ cmdBad (ofLe (m.take 2)) m = 0) ∨ (linkOf s b).rspWait ≠ [] ∨
    (linkOf s b).inbox.head?.any (·.bad == 0) = true) :
    deliverCmd s b port auth m = withCmd s b port auth m := by
  rw [deliverCmd_eq]
  refine answerBad_of_held ?_ _
  rw [linkOf_withCmd hb]
  rcases hheld with ⟨hempty, hok⟩ | hwait | hfirst
  · exact .inl (by simp [hempty, stampedCmd, hok])
  · exact .inr hwait
  · left
    cases hinbox : (linkOf s b).inbox with
    | nil => simp [hinbox] at hfirst
    | cons c rest => simpa [hinbox] using hfirst

end Delivered

/-- Settles O10: the message is put in the inbox, from where malformed messages at the front are answered. -/
theorem deliveredMessageChecked : Obligations.DeliveredMessageChecked := by
  unfold Obligations.DeliveredMessageChecked
  intro s b port auth m hb
  dsimp only
  rw [← cmdBad_eq]
  refine ⟨?_, fun hempty hroom hbad => deliverCmd_of_bad hb port auth m hempty hroom hbad, fun hheld => ?_⟩
  · rw [deliverCmd_eq, answerBad_core, withCmd_core]
  · rw [deliverCmd_of_held hb port auth m hheld, linkOf_withCmd hb]
    exact ⟨rfl, withCmd_answers s b port auth m⟩

end Sys2Proof.Proofs
end

section
namespace Sys2Proof.Proofs
open Machine Laws

/-! ### Writes of registers (R390, R391) -/

section RegWrite
variable {s : State} {h : Hdr} {addr : Nat} {mask value : BitVec 64} {r : Reg}

/-- A write that is taken and need not wait for the store runs its checks. -/
theorem regWriteAt_of_taken (htaken : taken s h 0x0701 (writeParams addr mask value) = true)
    (hwait : (regAt addr).any (writeWaits s mask value) = false) :
    regWriteAt s h addr mask value = .next (match regAt addr with
      | none => reply (s.took h 0x0701) h 0x0701 stRegInvalid []
      | some r => if r != .woreoCfg && !isAdmin s h.basin then reply (s.took h 0x0701) h 0x0701 stNotPermitted []
          else writeReg (s.took h 0x0701) h mask value r) := by
  rw [regWriteAt, if_neg (by simp [hwait]), hostCmd_body (c := .regWrite h addr mask value) htaken (roleHeld_of_other (by decide)) (by simp)
    (by simp)]
  rfl

theorem regWriteAt_of_no_register (htaken : taken s h 0x0701 (writeParams addr mask value) = true) (hnone : regAt addr = none) :
    regWriteAt s h addr mask value = .next (reply (s.took h 0x0701) h 0x0701 stRegInvalid []) := by
  rw [regWriteAt_of_taken htaken (by simp [hnone]), hnone]

/-- A write that stores nothing, or that finds the store ready, does not wait. -/
theorem writeWaits_eq_false (hstore : writeStores r = true → storeReady s = true) : writeWaits s mask value r = false := by
  rw [writeWaits]
  cases hw : writeStores r with
  | false => rfl
  | true => simp [hstore hw]

theorem regWriteAt_of_no_right (htaken : taken s h 0x0701 (writeParams addr mask value) = true)
    (hstore : writeStores r = true → storeReady s = true) (hr : regAt addr = some r) (hmodule : r ≠ .woreoCfg)
    (hright : isAdmin s h.basin = false) : regWriteAt s h addr mask value = .next (reply (s.took h 0x0701) h 0x0701 stNotPermitted []) := by
  rw [regWriteAt_of_taken htaken (by simp [hr, writeWaits_eq_false hstore]), hr]
  simp [hmodule, hright]

theorem regWriteAt_runs (htaken : taken s h 0x0701 (writeParams addr mask value) = true)
    (hstore : writeStores r = true → storeReady s = true) (hr : regAt addr = some r) (hmay : r = .woreoCfg ∨ isAdmin s h.basin = true) :
    regWriteAt s h addr mask value = .next (writeReg (s.took h 0x0701) h mask value r) := by
  rw [regWriteAt_of_taken htaken (by simp [hr, writeWaits_eq_false hstore]), hr]
  rcases hmay with rfl | hright
  · simp
  · simp [hright]

theorem exec_regWrite : exec (.regWrite h addr mask value) s = regWriteAt s h addr mask value := rfl

end RegWrite

/-! ### Reads of registers (R390) -/

section RegRead
variable {s : State} {h : Hdr} {addr count : Nat} (ht : s.takes (.regRead h addr count)) (hone : 1 ≤ count) (hmost : count ≤ 128)
include ht hone hmost

theorem exec_regRead_of_gap {k : Nat} (hk : k < count) (hnone : regAt (addr + 8 * k) = none) :
    exec (.regRead h addr count) s = .next (reply (s.took h 0x0700) h 0x0700 stRegInvalid []) := by
  have hrun : exec (.regRead h addr count) s = execRegRead h addr count s := rfl
  have hgap : ((List.range count).map fun k => regAt (addr + 8 * k)).any (·.isNone) = true :=
    List.any_eq_true.2 ⟨none, List.mem_map.2 ⟨k, List.mem_range.2 hk, hnone⟩, rfl⟩
  rw [hrun, execRegRead, hostCmd_of_takes ht rfl (by decide) (by simp), if_neg (by simp; omega)]
  exact congrArg _ (if_pos hgap)

theorem exec_regRead_of_all (hall : ∀ k < count, (regAt (addr + 8 * k)).isSome = true) :
    exec (.regRead h addr count) s = .next (reply (s.took h 0x0700) h 0x0700 stOk
      ((List.range count).filterMap fun k => (regAt (addr + 8 * k)).map fun r => .u64 (regValue s h.basin r))) := by
  have hrun : exec (.regRead h addr count) s = execRegRead h addr count s := rfl
  have hnogap : ¬(((List.range count).map fun k => regAt (addr + 8 * k)).any (·.isNone) = true) := by
    simpa [Option.isSome_iff_ne_none] using hall
  have hvalue (r : Reg) : regValue (s.took h 0x0700) h.basin r = regValue s h.basin r := by
    have hcfg : cfgOf (s.took h 0x0700) h.basin = cfgOf s h.basin := by
      rw [cfgOf, State.took, linkOf_setLink]
      split <;> rfl
    cases r
    case woreoCfg => exact hcfg
    all_goals rfl
  rw [hrun, execRegRead, hostCmd_of_takes ht rfl (by decide) (by simp), if_neg (by simp; omega)]
  refine congrArg _ ((if_neg hnogap).trans ?_)
  rw [List.filterMap_map]
  simp only [hvalue]
  rfl

end RegRead

/-- Settles O11: each refusal by its own lemma. -/
theorem registerAccessRefused : Obligations.RegisterAccessRefused := by
  unfold Obligations.RegisterAccessRefused
  intro s h addr mask value
  refine ⟨fun r ht hstore hr hmodule hright => ?_, fun ht hnone => ?_, fun count k ht hone hmost hk hnone => ?_⟩
  · exact runsTo_of_takes ht rfl (regWriteAt_of_no_right (State.takes.spec ht rfl).1 hstore hr hmodule hright) rfl rfl rfl
  · exact runsTo_of_takes ht rfl (regWriteAt_of_no_register (State.takes.spec ht rfl).1 hnone) rfl rfl rfl
  · exact runsTo_of_takes ht rfl (exec_regRead_of_gap ht hone hmost hk hnone) rfl rfl rfl

/-! ### Where the registers lie (R391, R443, R498) -/

theorem regAt_portCtrl : ∀ n < 2, regAt (0x40000 + 0x1000 * n) = some (.portCtrl n) := by decide

theorem regAt_frdCtrl : ∀ n < 48, regAt (0x50000 + 0x400 * n) = some (.frdCtrl n) := by decide

theorem regAt_domState : ∀ n < 12, regAt (0x10100 + 8 * n) = some (.domState n) := by decide

/-- Settles O51: a read answers what it finds; each write is that of its register. -/
theorem registerCommandsComplete : Obligations.RegisterCommandsComplete := by
  unfold Obligations.RegisterCommandsComplete
  intro s h mask value
  have hwrites {c : Instr} {addr : Nat} {r : Reg} (ha : s.accepts c) (hk : c.call = some ⟨h, 0x0701, false, none⟩)
      (hparams : c.params = writeParams addr mask value) (hstore : writeStores r = true → storeReady s = true)
      (hr : regAt addr = some r) (hright : isAdmin s h.basin = true) :
      regWriteAt s h addr mask value = .next (writeReg (s.took h 0x0701) h mask value r) :=
    regWriteAt_runs (hparams ▸ (State.accepts.spec ha hk).1) hstore hr (.inr hright)
  refine ⟨fun addr count ha hone hmost hall => ?read, fun addr r ha hr hmay hstore => ?write, fun hright => ⟨fun n hn ha => ?port,
    fun n hn => ⟨fun ha => ?_, fun ha => ?_, fun ha => ?_⟩, fun ha => ?limit, fun hopen => ⟨fun ha => ?_, fun ha => ?_, fun ha => ?_⟩⟩⟩
  case read => exact runsTo_of_answer ha rfl (exec_regRead_of_all (State.accepts.takes ha) hone hmost hall)
  case write => exact regWriteAt_runs (State.accepts.spec ha rfl).1 hstore hr hmay
  case port => exact (if_pos hn).trans (hwrites ha rfl rfl (by nofun) (regAt_portCtrl n hn) hright)
  case limit => exact hwrites ha rfl rfl (by nofun) rfl hright
  · exact (if_pos hn).trans (hwrites ha rfl rfl (by nofun) (regAt_frdCtrl n hn) hright)
  · exact (if_pos hn).trans (hwrites ha rfl rfl (by nofun) (regAt_frdCtrl n hn) hright)
  · exact (if_pos hn).trans (hwrites ha rfl rfl (by nofun) (regAt_frdCtrl n hn) hright)
  · exact hwrites ha rfl rfl (fun _ => hopen.1) rfl hright
  · exact hwrites ha rfl rfl (fun _ => hopen.1) rfl hright
  · exact hwrites ha rfl rfl (fun _ => hopen.1) rfl hright

/-! ### The states of the domains (R498) -/

/-- A number of base 4 by its digits, the lowest first. -/
def num4 (d : Nat → Nat) (n : Nat) : Nat := ((List.range n).map fun k => d k * 4 ^ k).sum

theorem num4_succ (d : Nat → Nat) (n : Nat) : num4 d (n + 1) = num4 d n + d n * 4 ^ n := by
  simp [num4, List.range_succ]

section Digits4
variable {d : Nat → Nat} (hd : ∀ k, d k < 4)
include hd

theorem num4_lt (n : Nat) : num4 d n < 4 ^ n := by
  induction n with
  | zero => simp [num4]
  | succ n ih =>
    have hdigit := Nat.mul_le_mul_right (4 ^ n) (Nat.le_of_lt_succ (hd n))
    rw [num4_succ, pow_succ]
    omega

theorem num4_digit {n k : Nat} (hk : k < n) : num4 d n / 4 ^ k % 4 = d k := by
  induction n with
  | zero => omega
  | succ n ih =>
    rw [num4_succ]
    rcases Nat.lt_succ_iff_lt_or_eq.1 hk with hlt | rfl
    · have hsplit : 4 ^ n = 4 ^ k * (4 * 4 ^ (n - k - 1)) := by
        rw [← pow_succ', ← pow_add]
        congr 1
        omega
      rw [hsplit, Nat.mul_left_comm, Nat.add_mul_div_left _ _ (by positivity), Nat.mul_left_comm, Nat.add_mul_mod_self_left, ih hlt]
    · rw [Nat.add_mul_div_right _ _ (by positivity), Nat.div_eq_of_lt (num4_lt hd k), Nat.zero_add, Nat.mod_eq_of_lt (hd k)]

end Digits4

/-- What a PWR_DOM_STATE register holds of its k-th domain: 0 beyond domain 371. -/
def domDigit (s : State) (n k : Nat) : Nat := if 32 * n + k ≤ 371 then (domOf s (32 * n + k)).state % 4 else 0

theorem domDigit_lt (s : State) (n k : Nat) : domDigit s n k < 4 := by
  unfold domDigit
  split <;> omega

theorem domStateReg_eq (s : State) (n : Nat) : domStateReg s n = num4 (domDigit s n) 32 := by
  unfold domStateReg num4 domDigit
  congr 2
  funext k
  by_cases hk : 32 * n + k ≤ 371
  · rw [if_pos hk, if_pos (by omega)]
  · rw [if_neg hk, if_neg (by omega), Nat.zero_mul]

/-- Settles O17: the register is a number of base 4 whose digits are the domains' states. -/
theorem domainStateRegisters : Obligations.DomainStateRegisters := by
  unfold Obligations.DomainStateRegisters
  intro s n hn
  have hvalue (b : Nat) : regValue s b (.domState n) = num4 (domDigit s n) 32 := domStateReg_eq s n
  refine ⟨regAt_domState n hn, fun b k hk => ?digit, fun b => ⟨?_, domStateReg_reset n⟩, fun h mask value ht hright => ?_,
    fun h mask value ht hright => ?_⟩
  case digit => rw [hvalue, pow_mul, show 2 ^ 2 = 4 from rfl, num4_digit (domDigit_lt s n) hk, domDigit]
  · exact hvalue b ▸ num4_lt (domDigit_lt s n) 32
  · exact runsTo_of_takes ht rfl
      (regWriteAt_runs (State.takes.spec ht rfl).1 (by nofun) (regAt_domState n hn) (.inr hright)) rfl rfl rfl
  · exact runsTo_of_takes ht rfl
      (regWriteAt_of_no_right (State.takes.spec ht rfl).1 (by nofun) (regAt_domState n hn) nofun hright) rfl rfl rfl

/-! ### STW_FW_CTRL (R507, R518) -/

/-- The event changes neither the time nor the security state, nor of the boot state anything but the events held. -/
theorem raise_parts (s : State) (src code : Nat) (payload own : List Nat) :
    (raise s src code payload own).now = s.now ∧ (raise s src code payload own).sec = s.sec ∧
      { (raise s src code payload own).boot with heldEvents := [] } = { s.boot with heldEvents := [] } :=
  have hcore := raise_core s src code payload own
  ⟨(congrArg State.now hcore :), (congrArg State.sec hcore :), (congrArg State.boot hcore :)⟩

/-- So does a record's write, with the swap that may come before it. -/
theorem storeWriteNow_parts (s : State) (r : StoreRec) :
    (storeWriteNow s r).now = s.now ∧ (storeWriteNow s r).sec = s.sec ∧
      { (storeWriteNow s r).boot with heldEvents := [] } = { s.boot with heldEvents := [] } := by
  unfold storeWriteNow swapBanks
  dsimp only
  split
  · exact raise_parts ..
  · exact ⟨rfl, rfl, rfl⟩

/-- CONFIRM ends the trial, raises the least version to that of the image, and revokes key 0 where the image says so (R507). -/
theorem confirmFw_parts (s : State) : (confirmFw s).now = s.now ∧ (confirmFw s).boot.trial = false ∧ (confirmFw s).sec =
    { s.sec with minSvn := s.sec.svn, key0Revoked := s.sec.key0Revoked || s.sec.revoke0 } := by
  unfold confirmFw
  dsimp only
  refine ⟨?_, ?_, ?_⟩
  · rw [(raise_parts ..).1, (storeWriteNow_parts ..).1, (storeWriteNow_parts ..).1]
  · refine (congrArg Boot.trial (raise_parts ..).2.2).trans ((congrArg Boot.trial (storeWriteNow_parts ..).2.2).trans ?_)
    exact congrArg Boot.trial (storeWriteNow_parts ..).2.2
  · rw [(raise_parts ..).2.1, (storeWriteNow_parts ..).2.1, (storeWriteNow_parts ..).2.1]

theorem reply_now (s : State) (h : Hdr) (op st : Nat) (d : List Field) : (reply s h op st d).now = s.now :=
  (congrArg State.now (reply_core s h op st d) :)

theorem askRestart_of_none {s : State} (hnone : s.boot.restartDue = none) (at_ cause : Nat) :
    askRestart s at_ cause = { s with boot := { s.boot with restartDue := some (at_, cause) } } := by
  rw [askRestart, hnone]

theorem bitAt_setBits (mask value : BitVec 64) (k : Nat) : bitAt (setBits mask value) k = (mask &&& value).getLsbD k :=
  bitAt_eq_testBit _ _

/-- With a store that has not failed, CONFIRM and RESTART are done as their bits ask, and the register reads 0. -/
theorem writeFwCtrl_eq {s : State} (hsound : s.store.faulted = false) (h : Hdr) (mask value : BitVec 64) :
    writeFwCtrl s h mask value =
      let u := reply (if (mask &&& value).getLsbD 1 && s.boot.trial then confirmFw s else s) h 0x0701 stOk [.u64 0]
      if (mask &&& value).getLsbD 0 then askRestart u (s.now + 10000000) 2 else u := by
  have hnow : (reply (if (mask &&& value).getLsbD 1 && s.boot.trial then confirmFw s else s) h 0x0701 stOk [.u64 0]).now = s.now := by
    rw [reply_now]
    split
    · exact (confirmFw_parts s).1
    · rfl
  dsimp only
  rw [← hnow]
  simp only [writeFwCtrl, bitAt_setBits, hsound, Bool.and_false, Bool.false_eq_true, if_false]
  rfl

/-- Settles O21: a write of the register, what CONFIRM changes and when the restart is due, each by its own lemma. -/
theorem fwCtrlWrites : Obligations.FwCtrlWrites := by
  unfold Obligations.FwCtrlWrites
  intro s h mask value ht hopen
  have htaken := (State.takes.spec ht rfl).1
  obtain ⟨hready, hsound⟩ := hopen
  obtain ⟨-, htrial, hsec⟩ := confirmFw_parts s
  refine ⟨rfl, rfl, fun hright => ?_, fun hright => ?_, fun hnone => askRestart_of_none hnone _ _, htrial, by rw [hsec], fun hrevoke => ?_⟩
  · exact runsTo_of_takes ht rfl (regWriteAt_of_no_right htaken (fun _ => hready) rfl nofun hright) rfl rfl rfl
  · exact (regWriteAt_runs htaken (fun _ => hready) rfl (.inr hright)).trans (congrArg _ (writeFwCtrl_eq (s := s.took h 0x0701) hsound h mask value))
  · rw [hsec, hrevoke]
    exact Bool.or_true _

end Sys2Proof.Proofs
end

section
namespace Sys2Proof.Proofs
open Machine Laws

/-! ### The numbers of events (R384) -/

theorem foldl_gatherEvt_logs (l : List Nat) (e : EvtRec) (s : State) : (l.foldl (fun s b => gatherEvt s b e) s).logs = s.logs :=
  foldl_keeps (g := State.logs) (f := fun s b => gatherEvt s b e) (by intro _ _; rfl) l s

theorem logPut_sseq (lg : Logs) (mask : Nat) (e : EvtRec) : (logPut lg mask e).sseq = lg.sseq := rfl

theorem mgPut_sseq (lg : Logs) (mask : Nat) (e : EvtRec) : (mgPut lg mask e).sseq = lg.sseq := by
  unfold mgPut
  split <;> rfl

/-- The event's source comes first in the list of numbers, with the next one. -/
theorem raise_sseq (s : State) (src code : Nat) (payload own : List Nat) :
    (raise s src code payload own).logs.sseq = (src, wrap 32 (s.nextSseq src + 1)) :: dropW (fun x => x.1 == src) s.logs.sseq := by
  unfold raise
  dsimp only
  split
  · rw [deliverEvt, foldl_gatherEvt_logs, logPut_sseq, mgPut_sseq]
    rfl
  · exact mgPut_sseq ..

theorem find_dropW_of_ne {l : List (Nat × Nat)} {k k' : Nat} (hne : k' ≠ k) :
    (dropW (fun x => x.1 == k) l).find? (fun x => x.1 == k') = l.find? fun x => x.1 == k' := by
  rw [dropW, List.find?_filter]
  congr 1
  funext x
  by_cases hx : x.1 = k'
  · simp [hx, hne]
  · simp [hx]

/-- Settles O26: the number taken is the source's, which then counts on; no other source's entry is touched. -/
theorem eventsNumberedBySource : Obligations.EventsNumberedBySource := by
  unfold Obligations.EventsNumberedBySource
  intro s src code payload own
  refine ⟨raise_raised .., ?own, fun src' hne => ?other⟩
  case own => simp [State.nextSseq, raise_sseq, wrap]
  case other => simp [State.nextSseq, raise_sseq, find_dropW_of_ne hne, Ne.symm hne]

end Sys2Proof.Proofs
end

section
namespace Sys2Proof.Proofs
open Machine Laws

/-! ### Routes by dimension order (R423) -/

/-- What a unit bound for `dst` does on axis `a`: nothing where the coordinates agree, else one of the axis's two directions. -/
def axisDir (s : State) (x : Slice) (dst : Nat × Nat × Nat) (a : Nat) : Option Nat :=
  let n := sliceLen x a
  let c := sliceCoord s x a
  let t := axisOf dst a
  if c = t then none
  else if n < topoLen s a then some (if c < t then 2 * a else 2 * a + 1)
  else some (if 2 * ((t + n - c) % n) ≤ n then 2 * a else 2 * a + 1)

theorem nextDir_eq (s : State) (x : Slice) (dst : Nat × Nat × Nat) :
    nextDir s x dst = (List.range 3).findSome? (axisDir s x dst) := rfl

theorem axisDir_eq_none_iff (s : State) (x : Slice) (dst : Nat × Nat × Nat) (a : Nat) :
    axisDir s x dst a = none ↔ sliceCoord s x a = axisOf dst a := by
  dsimp only [axisDir]
  split_ifs with h <;> simp [h]

/-- On a line the sign follows the coordinates; on a ring it is + where that way is not the longer one. -/
theorem axisDir_sign {s : State} {x : Slice} {dst : Nat × Nat × Nat} {a d : Nat} (h : axisDir s x dst a = some d) :
    let n := sliceLen x a
    let c := sliceCoord s x a
    let t := axisOf dst a
    d / 2 = a ∧ c ≠ t ∧ (n < topoLen s a → (d % 2 = 0 ↔ c < t)) ∧
      (topoLen s a ≤ n → (d % 2 = 0 ↔ (t + n - c) % n ≤ n - (t + n - c) % n)) := by
  have hpos : 0 < sliceLen x a := Nat.succ_pos _
  have hmod := Nat.mod_lt (axisOf dst a + sliceLen x a - sliceCoord s x a) hpos
  dsimp only [axisDir] at h
  dsimp only
  generalize (axisOf dst a + sliceLen x a - sliceCoord s x a) % sliceLen x a = m at *
  split_ifs at h <;> simp only [Option.some.injEq] at h <;> subst h <;> refine ⟨?_, ?_, ?_, ?_⟩ <;> omega

/-- The axis of the direction taken is the first on which the coordinates differ. -/
theorem axisDir_of_nextDir {s : State} {x : Slice} {dst : Nat × Nat × Nat} {d : Nat} (h : nextDir s x dst = some d) :
    ∃ a < 3, axisDir s x dst a = some d ∧ ∀ k < a, sliceCoord s x k = axisOf dst k := by
  rw [nextDir_eq, List.findSome?_eq_some_iff] at h
  obtain ⟨before, a, rest, hsplit, ha, hbefore⟩ := h
  have hrange : (List.range 3)[before.length]? = some a := by simp [hsplit]
  obtain ⟨hlt, hval⟩ := List.getElem?_eq_some_iff.mp hrange
  rw [List.getElem_range] at hval
  rw [List.length_range] at hlt
  refine ⟨a, hval ▸ hlt, ha, fun k hk => (axisDir_eq_none_iff ..).mp (hbefore k ?_)⟩
  have hk' : (List.range 3)[k]? = some k := List.getElem?_range (by omega)
  rw [hsplit, List.getElem?_append_left (by omega)] at hk'
  exact List.mem_of_getElem? hk'

/-- Settles O33: the route is the direction of the first axis, of the three, whose coordinates differ. -/
theorem routesFollowDimensionOrder : Obligations.RoutesFollowDimensionOrder := by
  unfold Obligations.RoutesFollowDimensionOrder
  intro s x dst
  refine ⟨?nowhere, fun d hd => ?direction⟩
  case nowhere =>
    rw [nextDir_eq, List.findSome?_eq_none_iff]
    simp only [List.mem_range, axisDir_eq_none_iff]
  case direction =>
    obtain ⟨a, ha, haxis, hbefore⟩ := axisDir_of_nextDir hd
    obtain ⟨rfl, hne, hline, hring⟩ := axisDir_sign haxis
    exact ⟨ha, hne, hbefore, hline, hring⟩

end Sys2Proof.Proofs
end

section
namespace Sys2Proof.Proofs
open Machine Laws

/-! ### Frames on a protected port (R359, R463) -/

section ProtectedFrame

variable {s : State} {x : RxFrame}

theorem protectedOk_of_no_tag (h : x.sec = none) : protectedOk s x = false := by simp [protectedOk, h]

theorem protectedOk_of_no_sak (h : hasSak s x.port = false) : protectedOk s x = false := by
  have hnone : ∀ an, (s.sec.saks.any fun k => k.port == x.port && k.an == an) = false := fun an =>
    List.any_eq_false.2 fun k hk => by simp [List.any_eq_false.1 h k hk]
  unfold protectedOk
  cases x.sec with
  | none => rfl
  | some t => simp [hnone]

theorem exec_woreoSegmentReceive (hlink : portLink s x.port = true) (hready : s.boot.stage = 6) :
    exec (.woreoSegmentReceive x) s = .next (receiveWoreo s x) := by
  have hrun : exec (.woreoSegmentReceive x) s = execWoreoSegmentReceive x s := rfl
  simp [hrun, execWoreoSegmentReceive, hlink, hready]

theorem notePn_eth (s : State) (x : RxFrame) : (notePn s x).eth = s.eth := by
  unfold notePn
  split
  · rfl
  · dsimp only
    split <;> rfl

theorem notePn_basins (s : State) (x : RxFrame) : (notePn s x).basins = s.basins := by
  unfold notePn
  split
  · rfl
  · dsimp only
    split <;> rfl

theorem notePn_scis (s : State) (x : RxFrame) : (notePn s x).sec.scis = s.sec.scis := by
  unfold notePn
  split
  · rfl
  · dsimp only
    split <;> rfl

/-! A port that has taken a frame and noted its packet number has its registers, bindings and addresses as they were. -/

theorem portCtrl_noted (s : State) (x : RxFrame) (n : Nat) : portCtrl (usePort (notePn s x) n) n = portCtrl s n := by
  simp only [portCtrl, usePort, setDom_frame, notePn_eth]

theorem scis_noted (s : State) (x : RxFrame) (n : Nat) : (usePort (notePn s x) n).sec.scis = s.sec.scis := by
  simp only [usePort, setDom_frame, notePn_scis]

theorem ownerOf_noted (s : State) (x : RxFrame) (n p ip : Nat) : ownerOf (usePort (notePn s x) n) p ip = ownerOf s p ip := by
  simp only [ownerOf, usePort, setDom_frame, notePn_basins]

/-- Past the checks of its line, its tag and its room, a frame of the controlled port is taken only with valid protection, where the
port asks for it. -/
theorem portTakes_of_required (hline : x.linkOk = true) (hvlan : vlanOk s x = true) (hroom : x.bufferRoom = true)
    (hreq : bitAt (portCtrl s x.port) 5 = true) (hctrl : x.uncontrolled = false) (go : State → State) :
    portTakes s x go = if protectedOk s x then go (usePort (notePn s x) x.port) else count s 5 x.port 0 4 1 := by
  cases hok : protectedOk s x <;> simp [portTakes, hline, hvlan, hroom, hreq, hctrl, hok]

/-- On a channel that is not bound to the basin of its address, a datagram is dropped. -/
theorem takeDatagram_of_unbound {b : Nat} (hreq : bitAt (portCtrl s x.port) 5 = true)
    (hunbound : (s.sec.scis.any fun k => k.port == x.port && some k.sci == x.sci && k.basin == b) = false) :
    takeDatagram s x b = count s 5 x.port 0 4 1 := by
  simp only [takeDatagram, hreq, hunbound, Bool.not_false, Bool.and_self, if_true]

end ProtectedFrame

/-- Settles O28: the two drops by the two places that look at the protection; what is noted in between touches neither the port's
registers nor the bindings. -/
theorem unprotectedFramesDropped : Obligations.UnprotectedFramesDropped := by
  unfold Obligations.UnprotectedFramesDropped
  intro s x hlink hready hline hvlan hroom hreq hctrl
  have htakes := portTakes_of_required hline hvlan hroom hreq hctrl
  refine ⟨fun hbad => ?unprotected, protectedOk_of_no_tag, protectedOk_of_no_sak, fun b hok hudp hport howner hunbound => ?unbound⟩
  case unprotected => rw [exec_woreoSegmentReceive hlink hready, receiveWoreo, htakes, hbad]; rfl
  case unbound =>
    have hdrop : takeDatagram (usePort (notePn s x) x.port) x b = count (usePort (notePn s x) x.port) 5 x.port 0 4 1 :=
      takeDatagram_of_unbound (by rw [portCtrl_noted, hreq]) (by rw [scis_noted, hunbound])
    rw [exec_woreoSegmentReceive hlink hready, receiveWoreo, htakes, if_pos hok]
    simp [hudp, hport, ownerOf_noted, howner, hdrop]

end Sys2Proof.Proofs
end

section
namespace Sys2Proof.Proofs
open Machine Laws

/-! ### Host writes of tiered memory (R381) -/

/-- Reading after a run of bytes was written, wherever the byte lies. -/
theorem memGet_memPuts {m : List Host.Cell} (h : Memory.wf m = true) (p a : Nat) (l : List Byte) :
    memGet (memPuts m p l) a = if p ≤ a ∧ a < p + l.length then l.getD (a - p) 0 else memGet m a := by
  split_ifs with ha
  · obtain ⟨k, rfl⟩ := Nat.exists_eq_add_of_le ha.1
    have hk : k < l.length := by omega
    rw [memGet_memPuts_of_mem h p k l hk, Nat.add_sub_cancel_left, List.getD_eq_getElem _ _ hk]
  · exact memGet_memPuts_of_notMem h p a l (by omega)

theorem tierPut_of_mapped {s : State} {b addr : Nat} {e : PageEnt} (he : pageOf s b (addr / 4096) = some e) (v : Byte) :
    tierPut s b addr v = { s with mem := memPut s.mem (homeAt e + addr % 4096) v } := by simp [tierPut, he]

/-- Bytes that stay within one page are written in a run from their place in its home. -/
theorem tierPuts_mem {b addr : Nat} {e : PageEnt} {l : List Byte} (hin : addr % 4096 + l.length ≤ 4096) {s : State}
    (he : pageOf s b (addr / 4096) = some e) : (tierPuts s b addr l).mem = memPuts s.mem (homeAt e + addr % 4096) l := by
  induction l generalizing s addr with
  | nil => rfl
  | cons v l ih =>
    rw [tierPuts, tierPut_of_mapped he, memPuts]
    cases l with
    | nil => rfl
    | cons w l =>
      simp only [List.length_cons] at hin ih
      have hpage : (addr + 1) / 4096 = addr / 4096 := by omega
      have hplace : (addr + 1) % 4096 = addr % 4096 + 1 := by omega
      rw [ih (by omega) (by rw [hpage]; exact he), hplace]
      rfl

theorem narrowWritten_mem (s : State) (b addr len : Nat) : (narrowWritten s b addr len).mem = s.mem := by
  have hsent : (((lentUnits s b addr len).foldl (fun s u => lentUnit s u.1 true (u.2 % 4096 / 64)) s)).mem = s.mem :=
    foldl_keeps (g := State.mem) (fun s u => congrArg Prod.fst (lentUnit_contents s ..)) ..
  rw [narrowWritten, ← hsent]
  exact foldl_keeps (g := State.mem) (by intro _ _; rfl) ..

theorem takeData_of_now {s : State} {b : Nat} {d : DataSeg} (h : dataMustWait s b (linkOf s b).dataWait d = false) :
    takeData s b d = applyData s b d := by simp [takeData, h]

/-- Settles O25: a segment that is written is one run of bytes in its page's home; one that is refused is an event and nothing more. -/
theorem dataSegmentStoresExactlyItsBytes : Obligations.DataSegmentStoresExactlyItsBytes := by
  unfold Obligations.DataSegmentStoresExactlyItsBytes
  intro s b d hmem hnow
  rw [takeData_of_now hnow]
  refine ⟨fun e hok he hin a => ?stored, fun st hst => ?refused⟩
  case stored =>
    rw [applyData, hok]
    dsimp only
    rw [narrowWritten_mem, tierPuts_mem hin he, memGet_memPuts hmem]
  case refused =>
    rw [applyData, hst]
    exact ⟨(congrArg State.mem (raise_core s srcCore evDataRefused [d.xid, d.addr, st] [b]) :), raise_raised ..⟩

end Sys2Proof.Proofs
end

section
namespace Sys2Proof.Proofs
open Machine Laws

/-! ### The commands of training objects (R333, R334, R336, R337, R348, R352) -/

theorem took_feedOk (s : State) (h : Hdr) (op b n a : Nat) : feedOk (s.took h op) b n a = feedOk s b n a := by
  induction n generalizing a with
  | zero => rfl
  | succ n ih =>
    rw [feedOk, feedOk, ih]
    rfl

section TrainingCommands

variable {s : State} {h : Hdr} {tid : Nat} {t : Train}

theorem exec_trainCreate {word : BitVec 512} (ha : s.accepts (.trainCreate h word))
    (hcheck : trainCheck s { basin := h.basin, word := word } = stOk) : exec (.trainCreate h word) s =
      .next (deferCmd (askCopies { s.took h 0x0500 with trains := s.trains ++ [{ basin := h.basin, word := word }] } h.basin)
        { h := h, opcode := 0x0500, obj := .train (fld word.toNat 0 31) }) := by
  have hrun : exec (.trainCreate h word) s = execTrainCreate h word s := rfl
  rw [hrun, execTrainCreate, hostCmd_runs ha rfl (by simp)]
  simp only [took_trainCheck, hcheck]
  rfl

theorem exec_shadowStateSet {b : Nat} (ht : trainOf s b tid = some t) (hnew : t.state = .creating) :
    exec (.shadowStateSet b tid) s = .next (answerDeferred (setTrain (setShadow s t) b tid fun t => { t with state := .idle }) b
      (fun d => d.opcode == 0x0500 && d.obj == .train tid) stOk []) := by
  have hrun : exec (.shadowStateSet b tid) s = execShadowStateSet b tid s := rfl
  simp [hrun, execShadowStateSet, ht, hnew]

/-- A feed joins the object's queue; the first of an object at rest is what makes it ready (R334). -/
def queueFeed (s : State) (b tid addr : Nat) : State :=
  setTrain s b tid fun t => { t with
    feeds := t.feeds ++ [addr], readyAt := if t.feeds.isEmpty && t.phase = 0 then s.now else t.readyAt }

theorem exec_trainFeed {addr : Nat} (ha : s.accepts (.trainFeed h tid addr)) (ht : trainOf s h.basin tid = some t)
    (hgood : t.state ≠ .failed) (hmade : t.state ≠ .creating) (halign : addr % 8 = 0)
    (harea : areaKind s h.basin .work addr 8 = true) (hflags : rdB s h.basin (addr + 4) 4 = 0)
    (hfeed : feedOk s h.basin (rdB s h.basin addr 4) (addr + 8) = true) (hroom : feedsWaiting s t < 16) :
    exec (.trainFeed h tid addr) s = .next (reply (queueFeed (s.took h 0x0501) h.basin tid addr) h 0x0501 stOk []) := by
  have hrun : exec (.trainFeed h tid addr) s = execTrainFeed h tid addr s := rfl
  rw [hrun, execTrainFeed, hostCmd_runs ha rfl (by simp)]
  simp [ht, hgood, hmade, halign, harea, hflags, took_feedOk, hfeed, Nat.not_le.2 hroom, queueFeed]

variable (ht : trainOf s h.basin tid = some t)
include ht

theorem exec_trainStart (ha : s.accepts (.trainStart h tid)) (hrest : t.state = .idle ∨ t.state = .stopped) :
    exec (.trainStart h tid) s = .next (reply (setTrain (s.took h 0x0502) h.basin tid fun t => { t with
      state := .running, stopping := false, readyAt := s.now }) h 0x0502 stOk []) := by
  have hrun : exec (.trainStart h tid) s = execTrainStart h tid s := rfl
  rw [hrun, execTrainStart, hostCmd_runs ha rfl (by simp)]
  simp [ht, hrest]

theorem exec_trainStop_of_busy (ha : s.accepts (.trainStop h tid)) (hruns : t.state = .running) (hbusy : trainBusy s t = true) :
    exec (.trainStop h tid) s = .next (setTrain (deferCmd (s.took h 0x0503) { h := h, opcode := 0x0503, obj := .train tid })
      h.basin tid fun t => { t with stopping := true }) := by
  have hrun : exec (.trainStop h tid) s = execTrainStop h tid s := rfl
  rw [hrun, execTrainStop, hostCmd_runs ha rfl (by simp)]
  simp [ht, hruns, hbusy]

theorem exec_trainStop_of_idle (ha : s.accepts (.trainStop h tid)) (hruns : t.state = .running) (hidle : trainBusy s t = false) :
    exec (.trainStop h tid) s = .next (stopTrain (deferCmd (s.took h 0x0503) { h := h, opcode := 0x0503, obj := .train tid }) t 0) := by
  have hrun : exec (.trainStop h tid) s = execTrainStop h tid s := rfl
  rw [hrun, execTrainStop, hostCmd_runs ha rfl (by simp)]
  simp [ht, hruns, hidle]

theorem exec_trainQuery (ha : s.accepts (.trainQuery h tid)) : exec (.trainQuery h tid) s =
    .next (reply (s.took h 0x0504) h 0x0504 stOk [.u8 t.state.num, .u16 t.last, .u32 t.micro, .u32 t.updates, .u32 t.pubs,
      .u32 t.nonfinite, .u32 t.empty, .u32 t.match_]) := by
  have hrun : exec (.trainQuery h tid) s = execTrainQuery h tid s := rfl
  rw [hrun, execTrainQuery, hostCmd_runs ha rfl (by simp)]
  simp [ht]

/-- The bytes that TRAIN.EXPORT sends of a published set, coded where the object has a code (R352). -/
def exportBytes (s : State) (b : Nat) (t : Train) (v : Variant) : Option (List Byte) :=
  exportSet (if tnXtable t = 0 then none else some (codeLens (tierBytes s b (tnXtable t) 8)))
    (tierBytes s b v.cur.set (min (tierNum s b (v.cur.set + 8) 4) (4096 * v.cur.setPages)))

theorem exec_trainExport {v : Variant} {l : List Byte} (ha : s.accepts (.trainExport h tid)) (hgood : t.state ≠ .failed)
    (hv : variantOf s h.basin (tnVid t) = some v) (hset : exportBytes s h.basin t v = some l) : exec (.trainExport h tid) s =
      .next (reply (sendData (s.took h 0x0505) h.basin 0 h.ctag l) h 0x0505 stOk [.u32 l.length]) := by
  have hrun : exec (.trainExport h tid) s = execTrainExport h tid s := rfl
  rw [exportBytes] at hset
  rw [hrun, execTrainExport, hostCmd_runs ha rfl (by simp)]
  simp only [took_trainOf, ht, took_variantOf, hv, took_tierNum, took_tierBytes, hset]
  simp [hgood]

theorem exec_trainDelete (ha : s.accepts (.trainDelete h tid)) (hrest : t.state ≠ .running) : exec (.trainDelete h tid) s =
    .next (reply (dropTrain (s.took h 0x0506) t stOk) h 0x0506 stOk []) := by
  have hrun : exec (.trainDelete h tid) s = execTrainDelete h tid s := rfl
  rw [hrun, execTrainDelete, hostCmd_runs ha rfl (by simp)]
  simp [ht, hrest]

end TrainingCommands

theorem setTrain_core_congr {s u : State} (hcore : s.core = u.core) (b tid : Nat) (f : Train → Train) :
    (setTrain s b tid f).core = (setTrain u b tid f).core :=
  congrArg (fun s => setTrain s b tid f) hcore

/-- A command that changes its training object and answers at once runs to that change. -/
theorem runsTo_of_setTrain {s : State} {c : Instr} {h : Hdr} {op st tid : Nat} {obj : Option Obj} {d : List Field} {f : Train → Train}
    (ha : s.accepts c) (hk : c.call = some ⟨h, op, false, obj⟩)
    (hx : exec c s = .next (reply (setTrain (s.took h op) h.basin tid f) h op st d)) :
    RunsTo c s (setTrain s h.basin tid f) (only h.basin [.rsp op st h.ctag d]) :=
  RunsTo.of_reply hx (setTrain_core_congr (took_core ..) ..) (took_answers s h op)
    ((State.accepts.spec ha hk).2.1.trans_eq (took_links_length ..).symm)

/-- Settles O46: each command by its own lemma; TRAIN.STOP waits where a step of the object runs, and else stops it at once. -/
theorem trainingCommandsComplete : Obligations.TrainingCommandsComplete := by
  unfold Obligations.TrainingCommandsComplete
  intro s h tid
  refine ⟨fun word htid ha hcheck => ?create, fun b t => exec_shadowStateSet, fun addr t ha ht hgood hmade halign harea hflags hfeed
    hroom => ?feed, fun t ht => ⟨fun ha hrest => ?start, fun ha hruns hbusy => ?waits, fun ha hruns hidle => ?stops, fun ha => ?query,
      fun v l ha hgood hv hset => exec_trainExport ht ha hgood hv hset, exec_trainDelete ht⟩⟩
  case create =>
    subst htid
    exact exec_trainCreate ha hcheck
  case feed => exact runsTo_of_setTrain ha rfl (exec_trainFeed ha ht hgood hmade halign harea hflags hfeed hroom)
  case start => exact runsTo_of_setTrain ha rfl (exec_trainStart ht ha hrest)
  case waits =>
    exact BecomesCore.of_next (exec_trainStop_of_busy ht ha hruns hbusy)
      (setTrain_core_congr (deferCmd_core_congr (took_core ..) _) ..) fun b => (deferCmd_answers ..).trans (took_answers s h 0x0503 b)
  case stops => exact exec_trainStop_of_idle ht ha hruns hidle
  case query => exact runsTo_of_answer ha rfl (exec_trainQuery ht ha)

end Sys2Proof.Proofs
end

section
namespace Sys2Proof.Proofs
open Machine Laws

/-! ### The commands over the logs and the counters (R522, R526, R528, R529) -/

section LogCommands

variable {s : State} {h : Hdr}

/-- The entries of the log from a number on that a basin may read (R522): all for the administration basin, else those addressed to it. -/
def readableEntries (s : State) (b start : Nat) : List LogEntry :=
  (ringFrom s.logs.ring start).filter fun e => isAdmin s b || bitAt e.basins b

/-- The fault records from a number on that a basin may read (R526). -/
def readableFaults (s : State) (b start : Nat) : List Nat :=
  (faultWords s).filter fun w => (fld w 0 31 == start || seqBefore start (fld w 0 31)) &&
    (isAdmin s b || (fld w 128 131 == b && !bitAt w 132))

theorem exec_logRead {start max : Nat} (ha : s.accepts (.logRead h start max)) (hlo : 1 ≤ max) (hhi : max ≤ 128) :
    exec (.logRead h start max) s = .next (reply (s.took h 0x0C00) h 0x0C00 stOk
      ([.u32 (ringOldest s.logs.ring s.logs.lseq), .u32 s.logs.lseq, .u32 s.logs.lost,
        .u16 ((readableEntries s h.basin start).take max).length] ++
        ((readableEntries s h.basin start).take max).map fun e => .record 96 (logEntryWord e))) := by
  have hrun : exec (.logRead h start max) s = execLogRead h start max s := rfl
  have hsize : (max < 1 || 128 < max) = false := by simp; omega
  rw [hrun, execLogRead, hostCmd_runs ha rfl (by simp)]
  simp only [hsize]
  rfl

theorem exec_logFaults {start max : Nat} (ha : s.accepts (.logFaults h start max)) (hlo : 1 ≤ max) (hhi : max ≤ 64) :
    exec (.logFaults h start max) s = .next (reply (s.took h 0x0C01) h 0x0C01 stOk
      ([.u32 (((faultWords s).head?.map (fld · 0 31)).getD s.logs.fseq), .u32 s.logs.fseq,
        .u16 ((readableFaults s h.basin start).take max).length] ++
        ((readableFaults s h.basin start).take max).map fun w => .record 64 w)) := by
  have hrun : exec (.logFaults h start max) s = execLogFaults h start max s := rfl
  have hsize : (max < 1 || 64 < max) = false := by simp; omega
  rw [hrun, execLogFaults, hostCmd_runs ha rfl (by simp)]
  simp only [hsize]
  rfl

theorem exec_logCounters {set index n : Nat} (ha : s.accepts (.logCounters h set index)) (hset : setSize set = some n)
    (hindex : index < n) (hsee : maySee s h.basin set index = true) : exec (.logCounters h set index) s =
      .next (reply (s.took h 0x0C02) h 0x0C02 stOk
        (.u64 s.now :: (ctrVals s.logs.ctrs set index (if set = 6 then h.basin else 0)).map .u64)) := by
  have hrun : exec (.logCounters h set index) s = execLogCounters h set index s := rfl
  rw [hrun, execLogCounters, hostCmd_runs ha rfl (by simp)]
  simp [hset, Nat.not_le.2 hindex, hsee]

theorem exec_logSubscribe {mask : BitVec 64} (ha : s.accepts (.logSubscribe h mask)) : exec (.logSubscribe h mask) s =
    .next (reply (setLink (s.took h 0x0C03) h.basin fun l => { l with subs := mask }) h 0x0C03 stOk []) := by
  have hrun : exec (.logSubscribe h mask) s = execLogSubscribe h mask s := rfl
  rw [hrun, execLogSubscribe, hostCmd_runs ha rfl (by simp)]

theorem exec_testEcho {bytes : List Byte} (ha : s.accepts (.testEcho h bytes)) : exec (.testEcho h bytes) s =
    .next (reply (s.took h 0x0802) h 0x0802 stOk [.bytes bytes]) := by
  have hrun : exec (.testEcho h bytes) s = execTestEcho h bytes s := rfl
  rw [hrun, execTestEcho, hostCmd_runs ha rfl (by simp)]

/-- LOG.SUBSCRIBE changes its basin's mask alone. -/
theorem runsTo_logSubscribe {mask : BitVec 64} (ha : s.accepts (.logSubscribe h mask)) : RunsTo (.logSubscribe h mask) s
    (setLink s h.basin fun l => { l with subs := mask }) (only h.basin [.rsp 0x0C03 stOk h.ctag []]) := by
  refine RunsTo.of_reply (exec_logSubscribe ha) (setLink_core_congr (took_core ..) (fun l m hlm => ?_) _) (fun b => ?_) ?_
  · change ({ l.core with subs := mask } : Link) = { m.core with subs := mask }
    rw [hlm]
  · exact (setLink_answers (f := fun l => { l with subs := mask }) (by intro _; rfl) (by intro _; rfl) b).trans (took_answers s h 0x0C03 b)
  · exact (State.accepts.spec ha rfl).2.1.trans_eq ((List.length_modify ..).trans (took_links_length ..)).symm

end LogCommands

/-- Settles O47: each command by its own lemma; the folding is the model's own. -/
theorem logCommandsComplete : Obligations.LogCommandsComplete := by
  unfold Obligations.LogCommandsComplete
  intro s h
  exact ⟨fun start max ha hlo hhi => runsTo_of_answer ha rfl (exec_logRead ha hlo hhi),
    fun start max ha hlo hhi => runsTo_of_answer ha rfl (exec_logFaults ha hlo hhi),
    fun set index n ha hset hindex hsee => runsTo_of_answer ha rfl (exec_logCounters ha hset hindex hsee),
    fun mask => runsTo_logSubscribe, fun bytes ha => runsTo_of_answer ha rfl (exec_testEcho ha), rfl⟩

end Sys2Proof.Proofs
end

section
namespace Sys2Proof.Proofs
open Machine Laws

/-! ### The commands over basins (R402 to R407) -/

/-- A basin's definition takes the place of the one that it had (R405). -/
def putWord (s : State) (b : Nat) (word : BitVec 1024) : State :=
  { s with basins := updW (fun x => x.id == b) (fun x => { x with word := word }) s.basins }

/-- The administration right moves to another basin: the definition of the one that held it is stored and kept without it (R405). -/
def passAdmin (s : State) (b : Nat) (old : BitVec 1024) : State :=
  { putWord (storeWriteNow s (basinRec old)) (bwId old) old with admin := b }

section BasinCommands

variable {s : State} {h : Hdr} {b : Nat} {word : BitVec 1024}

theorem exec_basinCreate (hadmin : isAdmin s h.basin = true) (hopen : s.storeOpen) (ha : s.accepts (.basinCreate h word))
    (hcheck : createCheck s word = stOk) :
    let u := freshBasin (storeWriteNow (s.took h 0x0600) (basinRec word)) (bwId word)
    exec (.basinCreate h word) s = .next (reply (raise { u with basins := u.basins ++ [{ id := bwId word, word := word }] } srcCore
      evBasinCreated [bwId word] [bwId word]) h 0x0600 stOk []) := by
  have hrun : exec (.basinCreate h word) s = execBasinCreate h word s := rfl
  rw [hrun, execBasinCreate, hostStoreCmd_runs ha rfl (fun _ => hadmin) hopen.1 hopen.2]
  simp only [took_createCheck, hcheck]
  rfl

/-- A BASIN.QUOTA whose checks pass: its definition is stored and kept, and where it asks for the right of another basin that moves. -/
theorem exec_basinQuota (hadmin : isAdmin s h.basin = true) (hopen : s.storeOpen) (ha : s.accepts (.basinQuota h word))
    (hcheck : quotaCheck s word = stOk) :
    let moved := bitAt word.toNat 4 && s.admin != bwId word
    let u := putWord (storeWriteNow (s.took h 0x0603) (basinRec word)) (bwId word) word
    let v := match moved, (basinOf s s.admin).map fun x => noAdmin x.word with
      | true, some w => passAdmin u (bwId word) w
      | _, _ => u
    exec (.basinQuota h word) s = .next (reply (raise v srcCore evBasinChanged [bwId word, b2n moved] [bwId word]) h 0x0603 stOk []) := by
  have hrun : exec (.basinQuota h word) s = execBasinQuota h word s := rfl
  rw [hrun, execBasinQuota, hostStoreCmd_runs ha rfl (fun _ => hadmin) hopen.1 hopen.2]
  simp only [took_quotaCheck, hcheck]
  rfl

theorem exec_basinHosts {l : List Byte} (hadmin : isAdmin s h.basin = true) (hopen : s.storeOpen) (ha : s.accepts (.basinHosts h b l))
    (hlive : basinLive s b = true) (hstays : inTeardown s b = false) (hcheck : hostsCheck s b l = stOk) :
    exec (.basinHosts h b l) s = .next (reply (setHosts (s.took h 0x0604) b l) h 0x0604 stOk []) := by
  have hrun : exec (.basinHosts h b l) s = execBasinHosts h b l s := rfl
  rw [hrun, execBasinHosts, hostStoreCmd_runs ha rfl (fun _ => hadmin) hopen.1 hopen.2]
  simp [hlive, hstays, hcheck]

theorem exec_basinQuery {x : Basin} (ha : s.accepts (.basinQuery h b)) (hmay : b = h.basin ∨ isAdmin s h.basin = true)
    (hx : basinOf s b = some x) : exec (.basinQuery h b) s =
      .next (reply (s.took h 0x0602) h 0x0602 stOk [.record 128 x.word.toNat, .record 64 (usageWord s b)]) := by
  have hrun : exec (.basinQuery h b) s = execBasinQuery h b s := rfl
  have hrefused : (b != h.basin && !isAdmin s h.basin) = false := by
    obtain h | h := hmay <;> simp [h]
  rw [hrun, execBasinQuery, hostCmd_runs ha rfl (by simp)]
  simp only [took_isAdmin, hrefused, took_basinOf, hx]
  rfl

theorem exec_basinDestroy (ha : s.accepts (.basinDestroy h b)) (hadmin : isAdmin s h.basin = true) (hlive : basinLive s b = true)
    (hstays : inTeardown s b = false) (hother : isAdmin s b = false) (hgood : s.store.faulted = false) : exec (.basinDestroy h b) s =
      .next (startTeardown (deferCmd (s.took h 0x0601) { h := h, opcode := 0x0601, obj := .basin b }) b) := by
  have hrun : exec (.basinDestroy h b) s = execBasinDestroy h b s := rfl
  rw [hrun, execBasinDestroy, hostCmd_runs ha rfl fun _ => hadmin]
  simp [hlive, hstays, hother, hgood]

end BasinCommands

/-! ### Frames of LM (R421) -/

section SendLm

variable {β : Type} {g : State → β} (hg : ∀ s f l, g { s with fords := f, logs := l } = g s)
include hg

/-- A frame of LM touches the fords and the counts of their flits alone. -/
theorem sendOne_keeps (s : State) (fr : LmFrame) : g (sendOne s fr) = g s := by
  unfold sendOne
  split
  · exact hg s _ s.logs
  · split
    · exact hg s _ s.logs
    · exact hg s _ _

theorem sendLm_keeps (s : State) (l : List LmFrame) : g (sendLm s l) = g s := foldl_keeps (sendOne_keeps hg) l s

end SendLm

/-! ### The end of a teardown (R415) -/

/-- The commands that wait for a basin's end. -/
def asksDestroy (b : Nat) (d : Deferred) : Bool := d.opcode == 0x0601 && d.obj == .basin b

section Teardown

variable {s : State} {b : Nat} {t : Teardown}

theorem idleFords_store (s : State) (l : List Nat) : (idleFords s l).store = s.store :=
  foldl_keeps (g := State.store) (by intro _ _; rfl) l s

theorem withdrawSlices_store (s : State) (b : Nat) : (withdrawSlices s b).store = s.store :=
  (idleFords_store ..).trans (sendLm_keeps (g := State.store) (by intro _ _ _; rfl) ..)

theorem exec_teardownFlushExpiry (ht : teardownOf s b = some t) (hstep : t.step = 3)
    (hdue : flushed s b = true ∨ t.flushAt + 100000000 ≤ s.now) : exec (.teardownFlushExpiry b) s = .next (closeBasin s b) := by
  have hrun : exec (.teardownFlushExpiry b) s = execTeardownFlushExpiry b s := rfl
  simp [hrun, execTeardownFlushExpiry, ht, hstep, hdue]

/-- The definition of a basin and its hosts leave the store, and its slot is as new (R402). -/
def basinGone (s : State) (b : Nat) : State :=
  let tomb (ty : Nat) : StoreRec := { type := ty, index := b, len := 0, seq := 0, tomb := true }
  let u := storeWriteNow (storeWriteNow (withdrawSlices s b) (tomb 0x20)) (tomb 0x21)
  freshBasin { u with basins := dropW (fun x => x.id == b) u.basins } b

theorem exec_basinTeardownComplete (ht : teardownOf s b = some t) (hstep : t.step = 6) (hclear : basinClear s b = true)
    (hopen : s.storeOpen) :
    let ns := (basinGone s b).now - t.start
    exec (.basinTeardownComplete b) s =
      .next (answerAll (raise (basinGone s b) srcCore evBasinDestroyed [b, ns] []) (asksDestroy b) stOk [.u64 ns]) := by
  have hrun : exec (.basinTeardownComplete b) s = execBasinTeardownComplete b s := rfl
  rw [hrun, execBasinTeardownComplete]
  simp only [ht, hstep, hclear, hopen.1, withdrawSlices_store, hopen.2]
  rfl

theorem exec_basinTeardownComplete_of_fault (ht : teardownOf s b = some t) (hstep : t.step = 6) (hclear : basinClear s b = true)
    (hready : storeReady s = true) (hbad : s.store.faulted = true) :
    let u := withdrawSlices s b
    exec (.basinTeardownComplete b) s = .next (answerAll
      { u with basins := updW (fun x => x.id == b) (fun x => { x with teardown := none }) u.basins } (asksDestroy b) stStoreFault []) := by
  have hrun : exec (.basinTeardownComplete b) s = execBasinTeardownComplete b s := rfl
  rw [hrun, execBasinTeardownComplete]
  simp only [ht, hstep, hclear, hready, withdrawSlices_store, hbad]
  rfl

end Teardown

/-- Settles O50: each command and each event by its own lemma; BASIN.QUOTA by whether it moves the administration right. -/
theorem basinCommandsComplete : Obligations.BasinCommandsComplete := by
  unfold Obligations.BasinCommandsComplete
  intro s h b
  refine ⟨fun word hid hadmin hopen => ⟨fun ha hcheck => ?create, fun ha hcheck hstays => ?quota, fun x ha hcheck hright hother hx => ?passes⟩,
    fun l ha hadmin hopen => exec_basinHosts hadmin hopen ha, fun x ha hmay hx => runsTo_of_answer ha rfl (exec_basinQuery ha hmay hx),
    exec_basinDestroy, fun t => exec_teardownFlushExpiry, fun t => exec_basinTeardownComplete,
    fun t => exec_basinTeardownComplete_of_fault⟩
  case create =>
    subst hid
    exact exec_basinCreate hadmin hopen ha hcheck
  case quota =>
    subst hid
    have hmoved : (bitAt word.toNat 4 && s.admin != bwId word) = false := by
      obtain h | h := hstays <;> simp [h]
    have hx := exec_basinQuota hadmin hopen ha hcheck
    rw [hmoved] at hx
    exact hx
  case passes =>
    subst hid
    have hmoved : (bitAt word.toNat 4 && s.admin != bwId word) = true := by simp [hright, hother]
    have hrun := exec_basinQuota hadmin hopen ha hcheck
    rw [hmoved, hx] at hrun
    exact hrun

end Sys2Proof.Proofs
end

section
namespace Sys2Proof.Proofs
open Machine Laws

/-! ### Training of a ford (R427, R428) -/

section Training

variable {s : State} {n l0 l1 : Nat} {al rev p0 p1 : Bool} (hlive : fordLive s n = true)
include hlive

theorem exec_fordTrain (hstate : (fordOf s n).state = 3) (hnew : (fordOf s n).trained = false) :
    exec (.fordTrain n l0 l1 al rev p0 p1) s = .next (trainFord s n l0 l1 al rev p0 p1) := by
  have hrun : exec (.fordTrain n l0 l1 al rev p0 p1) s = execFordTrain n l0 l1 al rev p0 p1 s := rfl
  simp [hrun, execFordTrain, hlive, hstate, hnew]

theorem exec_fordTrainRetry (hstate : (fordOf s n).state = 1 ∨ (fordOf s n).state = 2)
    (hdue : (fordOf s n).retryAt.any (· ≤ s.now) = true) :
    exec (.fordTrainRetry n l0 l1 al rev p0 p1) s = .next (trainFord s n l0 l1 al rev p0 p1) := by
  have hrun : exec (.fordTrainRetry n l0 l1 al rev p0 p1) s = execFordTrainRetry n l0 l1 al rev p0 p1 s := rfl
  have hdown : ((fordOf s n).state == 1 || (fordOf s n).state == 2) = true := by simpa using hstate
  simp only [hrun, execFordTrainRetry, hlive, hdown, hdue]
  rfl

theorem exec_identityFrame {fr : IdFrame} (htrained : (fordOf s n).trained = true) :
    exec (.identityFrame n fr) s = .next (identify (heardFord (count s 4 n 0 1 1) n) n fr) := by
  have hrun : exec (.identityFrame n fr) s = execIdentityFrame n fr s := rfl
  simp [hrun, execIdentityFrame, hlive, htrained]

end Training

/-- What an update of a ford keeps, the ford found there keeps. -/
theorem fordOf_setFord_keeps {β : Type} {g : Ford → β} {f : Ford → Ford} (hf : ∀ x, g (f x) = g x) (s : State) (n : Nat) :
    g (fordOf (setFord s n f) n) = g (fordOf s n) := by
  simp only [fordOf, setFord, List.getD_eq_getElem?_getD, List.getElem?_modify_eq]
  cases s.fords.fords[n]? with
  | none => rfl
  | some x => exact hf x

/-! ### A ford that is UP (R420, R421, R429, R440) -/

/-- The ford has been heard, and its counts of corrected and of uncorrected words have grown (R429). -/
def heardFec (s : State) (n fc fu : Nat) : State :=
  setFord (heardFord s n) n fun f => { f with fecCorr := sat 32 (f.fecCorr + fc), fecUncorr := sat 32 (f.fecUncorr + fu) }

/-- The flit was the one awaited: the run of failures ends (R429). -/
def flitTaken (s : State) (n : Nat) : State :=
  count (setFord s n fun f => { f with failRun := 0, awaited := none, rxCount := f.rxCount + 1 }) 4 n 0 1 1

/-- A ford that hears a flit keeps its run of failures and its count of the flits that it has taken. -/
theorem fordOf_heardFec (s : State) (n fc fu : Nat) : (fordOf (heardFec s n fc fu) n).failRun = (fordOf s n).failRun ∧
    (fordOf (heardFec s n fc fu) n).rxCount = (fordOf s n).rxCount := by
  constructor <;> exact (fordOf_setFord_keeps (by intro _; rfl) ..).trans (fordOf_setFord_keeps (by intro _; rfl) ..)

/-- A flit whose CRC fails is asked for again; the eighth in a row is a fault at its ford (R429, R440). -/
theorem flitFailed_heardFec (s : State) (n fc fu : Nat) (head : FlitHead) (u : FlitUnit) :
    let w := sendLm (setFord (heardFec s n fc fu) n fun f => { f with
        crcErr := sat 32 (f.crcErr + 1), failRun := (f.failRun + 1) % 8, awaited := some (f.awaited.getD (head, u)) })
      [.resend n (fordOf s n).rxCount]
    flitFailed (heardFec s n fc fu) n head u = if (fordOf s n).failRun + 1 = 8 then faultAtFord w n 3 else w := by
  simp only [flitFailed, fordOf_heardFec]

section FordUp

variable {s : State} {n fc fu : Nat} {head : FlitHead} {u : FlitUnit} (hn : n < 48) (hup : (fordOf s n).state = 9)
include hn hup

theorem exec_heartbeatSend : exec (.heartbeatSend n) s = .next (sendLm (setFord s n fun f => { f with ctr := f.ctr + 1 })
    [.heartbeat n moduleSerial ((fordOf s n).ctr + 1)]) := by
  have hrun : exec (.heartbeatSend n) s = execHeartbeatSend n s := rfl
  simp [hrun, execHeartbeatSend, hn, hup]

/-- A ford that awaits no flit, or this one, takes it: its contents go on, or it is asked for again. -/
theorem exec_flitReceive_of_due (hdue : (fordOf s n).awaited.all (fun a => a == (head, u)) = true) (ok : Bool) :
    exec (.flitReceive n ok fc fu head u) s = .next (if ok then takeArrival (flitTaken (heardFec s n fc fu) n) n head u
      else flitFailed (heardFec s n fc fu) n head u) := by
  have hrun : exec (.flitReceive n ok fc fu head u) s = execFlitReceive n ok fc fu head u s := rfl
  simp only [hrun, execFlitReceive, hn, hup, hdue]
  cases ok <;> rfl

/-- A flit that is not the one awaited is heard, and no more. -/
theorem exec_flitReceive_of_other {a : FlitHead × FlitUnit} (hawaited : (fordOf s n).awaited = some a) (hother : a ≠ (head, u))
    (ok : Bool) : exec (.flitReceive n ok fc fu head u) s = .next (heardFec s n fc fu) := by
  have hrun : exec (.flitReceive n ok fc fu head u) s = execFlitReceive n ok fc fu head u s := rfl
  simp [hrun, execFlitReceive, hn, hup, hawaited, hother, heardFec]

theorem exec_fordLostTimeout (hdue : (fordOf s n).lastFlit + 1000000 ≤ s.now) :
    exec (.fordLostTimeout n) s = .next (fordDown s n 1 0) := by
  have hrun : exec (.fordLostTimeout n) s = execFordLostTimeout n s := rfl
  simp [hrun, execFordLostTimeout, hn, hup, hdue]

theorem exec_moduleLostTimeout (hfirst : (fordOf s n).peerLost = false) (hdue : (fordOf s n).peerCtrAt + 1000000 ≤ s.now)
    (hheard : s.now < (fordOf s n).lastFlit + 1000000) :
    exec (.moduleLostTimeout n) s = .next (faultAtFord (setFord s n fun f => { f with peerLost := true }) n 2) := by
  have hrun : exec (.moduleLostTimeout n) s = execModuleLostTimeout n s := rfl
  simp [hrun, execModuleLostTimeout, hn, hup, hfirst, hdue, hheard]

theorem exec_sliceDeclareReceive {id ox oy oz lx ly lz minor : Nat} :
    let block := ox % 16 + 16 * (oy % 16) + 256 * (oz % 16) + 4096 * (lx % 16) + 65536 * (ly % 16) + 1048576 * (lz % 16)
    exec (.sliceDeclareReceive n id ox oy oz lx ly lz minor) s =
      .next (if id = 0 then faultAtFord (setFord (heardFord s n) n fun f => { f with decl := none }) n 2
        else settleSlice (setFord (heardFord s n) n fun f => { f with decl := some (id, block) }) id) := by
  have hrun : exec (.sliceDeclareReceive n id ox oy oz lx ly lz minor) s =
    execSliceDeclareReceive n id ox oy oz lx ly lz minor s := rfl
  rw [hrun, execSliceDeclareReceive]
  by_cases hnone : id = 0 <;> simp [hn, hup, hnone]

theorem exec_sliceStopReceive {id serial cause : Nat} {q : Slice} (hq : sliceById s id = some q) (hready : q.state = 2) :
    exec (.sliceStopReceive n id serial cause) s = .next (sliceFault (heardFord s n) q 5 n serial cause) := by
  have hrun : exec (.sliceStopReceive n id serial cause) s = execSliceStopReceive n id serial cause s := rfl
  have hq' : sliceById (heardFord s n) id = some q := hq
  simp [hrun, execSliceStopReceive, hn, hup, hq', hready]

end FordUp

/-! ### The agreement of a slice and the joins of its parts (R436, R437) -/

section Agreement

variable {s : State} {id : Nat} {q : Slice} (hq : sliceById s id = some q)
include hq

theorem exec_sliceReadyReceive {x y z minor : Nat} (hbinds : q.state = 1) : exec (.sliceReadyReceive id x y z minor) s =
    .next (if slicePlace s q = 0 then noteReady s id x y z minor else sendReady s q (x, y, z) minor) := by
  have hrun : exec (.sliceReadyReceive id x y z minor) s = execSliceReadyReceive id x y z minor s := rfl
  by_cases horigin : slicePlace s q = 0 <;> simp [hrun, execSliceReadyReceive, hq, hbinds, horigin]

theorem exec_sliceGoReceive {minor : Nat} (hsent : q.sentReady = true) :
    exec (.sliceGoReceive id minor) s = .next (goReady s id minor) := by
  have hrun : exec (.sliceGoReceive id minor) s = execSliceGoReceive id minor s := rfl
  simp [hrun, execSliceGoReceive, hq, hsent]

theorem exec_sliceBindTimeout (hbinds : q.state = 1) (hdue : q.bindAt + 10000000000 ≤ s.now) :
    exec (.sliceBindTimeout id) s = .next (dropSlice s id) := by
  have hrun : exec (.sliceBindTimeout id) s = execSliceBindTimeout id s := rfl
  simp [hrun, execSliceBindTimeout, hq, hbinds, hdue]

end Agreement

theorem exec_sliceJoinTimeout {s : State} {b kind ident : Nat} {x : Slice} {p : Part} (hx : sliceOf s b = some x)
    (hp : (x.parts.find? fun p => p.kind == kind && p.ident == ident && !p.joined && decide (p.boundAt + 1000000000 ≤ s.now)) = some p) :
    exec (.sliceJoinTimeout b kind ident) s = .next (endPart (setSliceId s (swId x.word) fun x => { x with
      parts := dropW (fun q => q.kind == kind && q.ident == ident) x.parts
      joins := dropW (fun j => j.1 == kind && j.2.1 == ident) x.joins }) b p stSliceJoinTimeout) := by
  have hrun : exec (.sliceJoinTimeout b kind ident) s = execSliceJoinTimeout b kind ident s := rfl
  simp only [hrun, execSliceJoinTimeout, hx, hp]

/-- Settles O52: each event by its own lemma; a flit that is due by whether its CRC holds. -/
theorem fordEventsComplete : Obligations.FordEventsComplete := by
  unfold Obligations.FordEventsComplete
  intro s
  refine ⟨fun n l0 l1 al rev p0 p1 hlive => ⟨exec_fordTrain hlive, exec_fordTrainRetry hlive⟩, fun n fr hlive => exec_identityFrame hlive,
    fun n hn hup => ⟨exec_heartbeatSend hn hup, fun fc fu head u => ⟨fun hdue => ⟨?taken, ?failed⟩, fun a ok hawaited hother =>
      exec_flitReceive_of_other hn hup hawaited hother ok⟩, exec_fordLostTimeout hn hup, exec_moduleLostTimeout hn hup,
      fun id ox oy oz lx ly lz minor => exec_sliceDeclareReceive hn hup, fun id q serial cause => exec_sliceStopReceive hn hup⟩,
    fun id q hq => ⟨fun x y z minor => exec_sliceReadyReceive hq, fun minor => exec_sliceGoReceive hq, exec_sliceBindTimeout hq⟩,
    fun b kind ident x p => exec_sliceJoinTimeout⟩
  case taken => exact exec_flitReceive_of_due hn hup hdue true
  case failed => exact (exec_flitReceive_of_due hn hup hdue false).trans (congrArg Host.Outcome.next (flitFailed_heardFec ..))

end Sys2Proof.Proofs
end

section
namespace Sys2Proof.Proofs
open Machine Laws

/-! ### The security commands (R453, R458, R459, R462, R466) -/

theorem portsOf_nonempty {ports : Nat} (hlo : 1 ≤ ports) (hhi : ports ≤ 3) : ((portsOf ports).isEmpty || decide (3 < ports)) = false := by
  interval_cases ports <;> decide

theorem sciFields_ok {ports basin : Nat} (hlo : 1 ≤ ports) (hhi : ports ≤ 3) (hbasin : basin ≤ 15) :
    ((portsOf ports).isEmpty || decide (3 < ports) || decide (15 < basin)) = false := by
  rw [portsOf_nonempty hlo hhi]
  simpa using hbasin

section SecurityCommands

variable {s : State} {h : Hdr}

theorem exec_secAttest {nonce : BitVec 256} {named : Option Nat} {x : Basin} (ha : s.accepts (.secAttest h nonce named))
    (hmay : named.getD h.basin = h.basin ∨ isAdmin s h.basin = true) (hserves : secRefused s = false)
    (hx : basinOf s (named.getD h.basin) = some x) (hd0 : s.sec.d0.ok = true) (hfree : reportWaits s = false) :
    let u := setDrbg (s.took h 0x0900) 0 s.sec.d0.draw.2
    exec (.secAttest h nonce named) s =
      .next { u with sec := { u.sec with signing := some { h := h, word := reportWord u x nonce } } } := by
  have hrun : exec (.secAttest h nonce named) s = execSecAttest h nonce named s := rfl
  have hown : (named.getD h.basin != h.basin && !isAdmin s h.basin) = false := by
    obtain h | h := hmay <;> simp [h]
  rw [hrun, execSecAttest, hfree, if_neg Bool.false_ne_true, hostCmd_runs ha rfl (by simp)]
  simp only [took_isAdmin, hown, took_secRefused, hserves, took_basinOf, hx, took_sec_field, hd0]
  rfl

theorem exec_secCerts (ha : s.accepts (.secCerts h)) (hserves : secRefused s = false) : exec (.secCerts h) s =
    .next (reply (s.took h 0x0901) h 0x0901 stOk (.u32 5 :: ((List.range 5).map fun k =>
      [.u32 (Config.certificate k (certSubject s k)).length, .bytes (Config.certificate k (certSubject s k))]).flatten)) := by
  have hrun : exec (.secCerts h) s = execSecCerts h s := rfl
  rw [hrun, execSecCerts, hostCmd_runs ha rfl (by simp)]
  simp only [took_secRefused, hserves]
  rfl

theorem exec_secFwUpdate {addr len : Nat} (ha : s.accepts (.secFwUpdate h addr len)) (hadmin : isAdmin s h.basin = true)
    (hopen : s.storeOpen) (htrial : slotTrial (slotWord s) = false) (hserves : secRefused s = false)
    (himage : imageBreach s h.basin addr len = stOk) :
    let u := s.took h 0x0902
    let img := tierBytes s h.basin addr len
    exec (.secFwUpdate h addr len) s = .next (if fwCheck s img = stOk
      then deferCmd { u with sec := { u.sec with staging := some (1 - s.boot.slot, img) } } { h := h, opcode := 0x0902, obj := .fwSlot }
      else reply u h 0x0902 (fwCheck s img) []) := by
  have hrun : exec (.secFwUpdate h addr len) s = execSecFwUpdate h addr len s := rfl
  rw [hrun, execSecFwUpdate, hostStoreCmd_runs ha rfl (fun _ => hadmin) hopen.1 hopen.2]
  have hcheck (img : Image) : fwCheck (s.took h 0x0902) img = fwCheck s img := rfl
  by_cases hok : fwCheck s (tierBytes s h.basin addr len) = stOk
    <;> simp [htrial, hserves, himage, hcheck, hok]

theorem exec_fwSlotWriteComplete {n : Nat} {img : Image} (hstaged : s.sec.staging = some (n, img)) (hopen : s.storeOpen) :
    let u := putSlotImage { s with sec := { s.sec with staging := none } } n img
    let u := storeWriteNow u (slotRecord (slotWith (slotWord u) n true 2 (some (n, imgFld img 32 63))))
    exec .fwSlotWriteComplete s =
      .next (answerAll (raise u srcStewipen evSecFwStaged [n, imgFld img 32 63, imgFld img 96 127] []) (fun d => d.obj == .fwSlot) stOk []) := by
  have hrun : exec .fwSlotWriteComplete s = execFwSlotWriteComplete s := rfl
  have hgood : (putSlotImage { s with sec := { s.sec with staging := none } } n img).store.faulted = false := by
    rw [putSlotImage, ← hopen.2]
    split <;> rfl
  rw [hrun, execFwSlotWriteComplete]
  simp only [hstaged, hopen.1, hgood]
  rfl

theorem exec_secZeroize {eraseId : Nat} (hid : eraseId ≤ 1) (ha : s.accepts (.secZeroize h eraseId)) (hadmin : isAdmin s h.basin = true) :
    let u := dropKeys (reply (wipe (answerAll (s.took h 0x0904) (fun _ => true) stSecError [])) h 0x0904 stOk []) (eraseId == 1)
    exec (.secZeroize h eraseId) s = .next { u with boot := { u.boot with restartDue := some (u.now, 3) } } := by
  have hrun : exec (.secZeroize h eraseId) s = execSecZeroize h eraseId s := rfl
  rw [hrun, execSecZeroize, hostCmd_runs ha rfl fun _ => hadmin]
  simp only [Nat.not_lt.2 hid]
  rfl

end SecurityCommands

/-- The CAK of the ports that a command names is installed: each is stored, and they take the place of those ports' (R462). -/
def cakInstalled (u : State) (ports keyId : Nat) (ckn key : BitVec 256) : State :=
  let ks : List Cak := (portsOf ports).map fun n => { port := n, keyId := keyId, ckn := ckn, key := key }
  let v := ks.foldl (fun s k => storeWriteNow s (cakRec s k)) u
  { v with sec := { v.sec with caks := dropW (fun k => bitAt ports k.port) v.sec.caks ++ ks } }

/-- The bindings once a receive SCI is bound to a basin on the named ports, in place of what it was bound to there (R462). -/
def boundScis (s : State) (ports basin sci : Nat) : List Sci :=
  dropW (fun k => bitAt ports k.port && k.sci == sci) s.sec.scis ++ (portsOf ports).map fun n => { port := n, sci := sci, basin := basin }

section KeyCommands

variable {s : State} {h : Hdr} {ports : Nat} (hadmin : isAdmin s h.basin = true) (hopen : s.storeOpen) (hserves : secRefused s = false)
  (hlo : 1 ≤ ports) (hhi : ports ≤ 3)
include hadmin hopen hserves hlo hhi

theorem exec_cakInstall {keyId : Nat} {ckn : BitVec 256} {ct wrapped : List Byte}
    (ha : s.accepts (.cakInstall h ports keyId ckn ct wrapped)) :
    let u := s.took h 0x0903
    exec (.cakInstall h ports keyId ckn ct wrapped) s =
      .next ((openCak keyId ct wrapped).elim (reply u h 0x0903 stKeyInvalid []) fun key =>
        reply (settleMode (raise (measureChange u (cakInstalled u ports keyId ckn key)) srcStewipen evSecCak [ports, keyId] []))
          h 0x0903 stOk []) := by
  have hrun : exec (.cakInstall h ports keyId ckn ct wrapped) s = execCakInstall h ports keyId ckn ct wrapped s := rfl
  rw [hrun, execCakInstall, hostStoreCmd_runs ha rfl (fun _ => hadmin) hopen.1 hopen.2]
  simp only [took_secRefused, hserves, portsOf_nonempty hlo hhi]
  cases openCak keyId ct wrapped <;> rfl

variable {basin sci : Nat} (hbasin : basin ≤ 15)
include hbasin

theorem exec_sciBind (ha : s.accepts (.sciBind h ports basin sci)) (hlive : basinLive s basin = true)
    (hroom : ∀ n ∈ portsOf ports, ((boundScis s ports basin sci).filter fun k => k.port == n).length ≤ 16) :
    exec (.sciBind h ports basin sci) s = .next (reply (setScis (s.took h 0x0903) (boundScis s ports basin sci)) h 0x0903 stOk []) := by
  have hrun : exec (.sciBind h ports basin sci) s = execSciBind h ports basin sci s := rfl
  have hfits : ((portsOf ports).any fun n => decide (16 < ((boundScis s ports basin sci).filter fun k => k.port == n).length)) = false := by
    simpa using hroom
  rw [hrun, execSciBind, hostStoreCmd_runs ha rfl (fun _ => hadmin) hopen.1 hopen.2]
  change Host.Outcome.next (if secRefused s then _ else if (portsOf ports).isEmpty || decide (3 < ports) || decide (15 < basin) then _
    else if !basinLive s basin then _
    else if (portsOf ports).any fun n => decide (16 < ((boundScis s ports basin sci).filter fun k => k.port == n).length) then _
    else _) = _
  rw [hserves, sciFields_ok hlo hhi hbasin, hlive, hfits]
  rfl

theorem exec_sciUnbind (ha : s.accepts (.sciUnbind h ports basin sci)) :
    exec (.sciUnbind h ports basin sci) s = .next (reply (setScis (s.took h 0x0903)
      (dropW (fun k => bitAt ports k.port && k.sci == sci && k.basin == basin) s.sec.scis)) h 0x0903 stOk []) := by
  have hrun : exec (.sciUnbind h ports basin sci) s = execSciUnbind h ports basin sci s := rfl
  rw [hrun, execSciUnbind, hostStoreCmd_runs ha rfl (fun _ => hadmin) hopen.1 hopen.2]
  simp only [took_secRefused, hserves, sciFields_ok hlo hhi hbasin, took_sec_field]
  rfl

end KeyCommands

/-! ### The security events (R359, R461, R462, R464, R465) -/

section SecurityEvents

variable {s : State}

/-- The SAK of a frame of the key server joins the one in use; an older one goes, with its channels (R359). -/
def sakTaken (v : State) (port : Nat) (sak : Option Nat) : State :=
  sak.elim v fun k => { v with sec := { v.sec with
    saks := (v.sec.saks.filter fun x => x.port != port || x.an == curAn v port) ++ [{ port := port, an := 1 - curAn v port, key := k }]
    rxScs := v.sec.rxScs.filter fun r => r.port != port || r.an == curAn v port } }

/-- A frame of the key agreement is one of the uncontrolled port: no protection is asked of it, and none noted. -/
theorem portTakes_of_uncontrolled {f : RxFrame} (hline : f.linkOk = true) (hvlan : vlanOk s f = true) (hroom : f.bufferRoom = true)
    (hctrl : f.uncontrolled = true) (go : State → State) : portTakes s f go = go (usePort s f.port) := by
  have hnote : notePn s f = s := by
    unfold notePn
    cases f.sec with
    | none => rfl
    | some t => simp [hctrl]
  simp [portTakes, hline, hvlan, hroom, hctrl, hnote]

theorem takeMka_of_known {port ckn : Nat} (hknown : (s.sec.caks.any fun k => k.port == port && k.ckn.toNat == ckn) = true)
    (hkeys : s.sec.keysLive = true) (hgood : s.sec.failedCauses.contains 2 = false) (sak : Option Nat) :
    takeMka s port ckn true sak = sendUncontrolled (count (sakTaken s port sak) 5 port 0 0 1) port (.mka 255) := by
  unfold takeMka
  dsimp only
  rw [if_neg (by rw [hknown, hkeys, hgood]; decide)]
  cases sak <;> rfl

theorem exec_mkaFrame {f : RxFrame} {ckn : Nat} (hlink : portLink s f.port = true) (hline : f.linkOk = true) (hvlan : vlanOk s f = true)
    (hroom : f.bufferRoom = true) (htype : f.etherType = 0x888E)
    (hknown : (s.sec.caks.any fun k => k.port == f.port && k.ckn.toNat == ckn) = true) (hkeys : s.sec.keysLive = true)
    (hgood : s.sec.failedCauses.contains 2 = false) (sak : Option Nat) : exec (.mkaFrame f ckn true sak) s =
      .next (sendUncontrolled (count (sakTaken (usePort s f.port) f.port sak) 5 f.port 0 0 1) f.port (.mka 255)) := by
  have hrun : exec (.mkaFrame f ckn true sak) s = execMkaFrame f ckn true sak s := rfl
  have hctrl : f.uncontrolled = true := by simp [RxFrame.uncontrolled, htype]
  rw [hrun, execMkaFrame, portTakes_of_uncontrolled hline hvlan hroom hctrl, htype]
  simp [hlink, takeMka_of_known (s := usePort s f.port) hknown hkeys hgood]

variable (hon : sp1On s = true)
include hon

theorem exec_selftestPeriodic_passed (hdue : s.sec.lastSelftest + selftestPeriod ≤ s.now) :
    exec (.selftestPeriodic none) s = .next { s with sec := { s.sec with lastSelftest := s.now } } := by
  have hrun : exec (.selftestPeriodic none) s = execSelftestPeriodic none s := rfl
  simp [hrun, execSelftestPeriodic, hon, Nat.not_lt.2 hdue]

theorem exec_selftestPeriodic_failed (hdue : s.sec.lastSelftest + selftestPeriod ≤ s.now) {c : Nat} (hc : c ∈ [2, 4, 5, 6, 7]) :
    exec (.selftestPeriodic (some c)) s = .next (failSec { s with sec := { s.sec with lastSelftest := s.now } } (some 1) c) := by
  have hrun : exec (.selftestPeriodic (some c)) s = execSelftestPeriodic (some c) s := rfl
  have hc' : [2, 4, 5, 6, 7].contains c = true := List.contains_iff_mem.2 hc
  simp only [hrun, execSelftestPeriodic, hon, Nat.not_lt.2 hdue, hc']
  rfl

theorem exec_entropyHealthFail : exec .entropyHealthFail s = .next (failSec s (some 2) 3) := by
  have hrun : exec .entropyHealthFail s = execEntropyHealthFail s := rfl
  simp [hrun, execEntropyHealthFail, hon]

theorem exec_drbgReseed {n : Nat} (hn : n < 2) (hok : (drbgOf s n).ok = true) (hspent : 2 ^ 20 ≤ (drbgOf s n).gens) :
    exec (.drbgReseed n) s = .next (seedDrbg s n false) := by
  have hrun : exec (.drbgReseed n) s = execDrbgReseed n s := rfl
  rw [drbgOf] at hok hspent
  have hdue : ¬(if n = 0 then s.sec.d0 else s.sec.d1).gens < 1048576 := Nat.not_lt.2 hspent
  simp [hrun, execDrbgReseed, hon, hok, hdue, Nat.not_lt.2 (Nat.le_of_lt_succ hn)]

end SecurityEvents

/-- Settles O54: each command and each event by its own lemma. -/
theorem securityCommandsAndEventsComplete : Obligations.SecurityCommandsAndEventsComplete := by
  unfold Obligations.SecurityCommandsAndEventsComplete
  refine ⟨fun s h => ⟨fun nonce named x => exec_secAttest, fun g hg => by rw [finishSigning, hg],
    fun ha hserves => runsTo_of_answer ha rfl (exec_secCerts ha hserves), fun addr len => exec_secFwUpdate,
    fun n img => exec_fwSlotWriteComplete, fun hadmin hopen hserves => ⟨fun ports keyId ckn ct wrapped ha hlo hhi => ?cak,
      fun ports basin sci hlo hhi hbasin => ⟨exec_sciBind hadmin hopen hserves hlo hhi hbasin,
        exec_sciUnbind hadmin hopen hserves hlo hhi hbasin⟩⟩, fun eraseId => exec_secZeroize⟩,
    fun s => ⟨fun f ckn sak hlink hline hvlan hroom htype hknown hkeys hgood => ⟨?key, ?noKey⟩,
      fun hon hdue => ⟨exec_selftestPeriodic_passed hon hdue, fun c => exec_selftestPeriodic_failed hon hdue⟩, exec_entropyHealthFail,
      fun hon => exec_drbgReseed (n := 0) hon (by decide), fun hon => exec_drbgReseed (n := 1) hon (by decide)⟩⟩
  case cak => exact exec_cakInstall hadmin hopen hserves hlo hhi ha
  case key => exact exec_mkaFrame hlink hline hvlan hroom htype hknown hkeys hgood (some sak)
  case noKey => exact exec_mkaFrame hlink hline hvlan hroom htype hknown hkeys hgood none

end Sys2Proof.Proofs
end

section
namespace Sys2Proof.Proofs
open Machine Laws

/-! ### The power commands (R489, R490, R494, R500) -/

section PowerCommands

variable {s : State} {h : Hdr}

theorem exec_pwrStatus (ha : s.accepts (.pwrStatus h)) : exec (.pwrStatus h) s = .next (reply (s.took h 0x0A00) h 0x0A00 stOk
    ([.u64 (pwrStatusReg s), .u64 s.pwr.limitCfg.toNat, .u64 (pwrHealth s), .bytes ((List.range 32).map (tempByte s))] ++
      s.pwr.vcore.map .u16)) := by
  have hrun : exec (.pwrStatus h) s = execPwrStatus h s := rfl
  rw [hrun, execPwrStatus, hostCmd_runs ha rfl (by simp)]
  rfl

theorem exec_pwrStoreQuery (ha : s.accepts (.pwrStoreQuery h)) (hadmin : isAdmin s h.basin = true) :
    exec (.pwrStoreQuery h) s = .next (reply (s.took h 0x0A03) h 0x0A03 stOk (storeData s)) := by
  have hrun : exec (.pwrStoreQuery h) s = execPwrStoreQuery h s := rfl
  rw [hrun, execPwrStoreQuery, hostCmd_runs ha rfl fun _ => hadmin]
  rfl

theorem exec_pwrDomain {d op wakeS : Nat} (ha : s.accepts (.pwrDomain h d op wakeS)) (hadmin : isAdmin s h.basin = true)
    (hcheck : domainCheck s d op = stOk) : exec (.pwrDomain h d op wakeS) s =
      .next (startDomain (deferCmd (s.took h 0x0A01) { h := h, opcode := 0x0A01, obj := .domain d, arg := op }) d op) := by
  have hrun : exec (.pwrDomain h d op wakeS) s = execPwrDomain h d op wakeS s := rfl
  rw [hrun, execPwrDomain, hostCmd_runs ha rfl fun _ => hadmin]
  simp [hcheck]

/-- The module goes off for a standby: the reply is sent first, and DRAM is kept (R489, log entry 71). -/
theorem exec_standby {wakeS : Nat} (ha : s.accepts (.standby h 0xFFFF wakeS)) (hadmin : isAdmin s h.basin = true)
    (hidle : moduleBusy s = false) (huntested : s.boot.testing = none)
    (hunbound : (s.fords.slices.any fun x => !x.bound.isEmpty) = false) :
    let u := sp1Off (dieOff (reply (s.took h 0x0A01) h 0x0A01 stOk []) true)
    exec (.standby h 0xFFFF wakeS) s = .next { u with pwr := { u.pwr with
      standbyUntil := some (if wakeS = 0 then none else some (u.now + 1000000000 * wakeS)) } } := by
  have hrun : exec (.standby h 0xFFFF wakeS) s = execStandby h 0xFFFF wakeS s := rfl
  rw [hrun, execStandby, hostCmd_runs ha rfl fun _ => hadmin]
  simp only [took_moduleBusy, hidle, took_boot_field, huntested, took_fords_field, hunbound]
  rfl

theorem exec_pwrLimit {mask value : BitVec 64} (ha : s.accepts (.pwrLimit h mask value)) (hadmin : isAdmin s h.basin = true)
    (hgood : s.store.faulted = false) :
    let u := setLimitCfg (s.took h 0x0A02) (maskWrite s.pwr.limitCfg mask value limitMask)
    exec (.pwrLimit h mask value) s =
      .next (if storeReady s then reply (storeWriteNow u (limitRec u)) h 0x0A02 stOk [.u64 u.pwr.limitCfg.toNat]
        else deferCmd (storeAsk u (limitRec u)) { h := h, opcode := 0x0A02, obj := .store }) := by
  have hrun : exec (.pwrLimit h mask value) s = execPwrLimit h mask value s := rfl
  rw [hrun, execPwrLimit, hostCmd_runs ha rfl fun _ => hadmin]
  simp only [took_store_field, hgood]
  rfl

theorem exec_pwrStoreSwap (ha : s.accepts (.pwrStoreSwap h)) (hadmin : isAdmin s h.basin = true) (hgood : s.store.faulted = false) :
    exec (.pwrStoreSwap h) s = .next (startSwap (deferCmd (s.took h 0x0A03) { h := h, opcode := 0x0A03, obj := .store })) := by
  have hrun : exec (.pwrStoreSwap h) s = execPwrStoreSwap h s := rfl
  rw [hrun, execPwrStoreSwap, hostCmd_runs ha rfl fun _ => hadmin]
  simp [hgood]

end PowerCommands

/-! ### The writing of the configuration store (R493) -/

section StoreWriting

variable {s : State}

/-- The first waiting record is due to be written: the flash has power, no swap waits, and there is room or a bank for it. -/
theorem exec_storeWrite {r : StoreRec} {rest : List StoreRec} (hfirst : s.store.waiting = r :: rest) (hpower : s.pwr.auxBad = false)
    (hswaps : s.store.swapping = false) (hgood : s.store.faulted = false)
    (hroom : needsSwap s.store r.len = false ∨ (otherBank s.store).erased = true) (first second third : Bool) :
    let u := spoil (spoil s r.len) r.len
    exec (.storeWrite first second third) s =
      .next (if first then landRecord s r else if second then landRecord (spoil s r.len) r
        else if !(otherBank u.store).erased then { u with store := { u.store with swapping := true } }
        else if third then landRecord (swapBanks u) r else storeFails u) := by
  have hrun : exec (.storeWrite first second third) s = execStoreWrite first second third s := rfl
  have hnow : (needsSwap s.store r.len && !(otherBank s.store).erased) = false := by
    obtain h | h := hroom <;> simp [h]
  simp only [hrun, execStoreWrite, hfirst, hpower, hswaps, hgood, hnow]
  cases first <;> cases second <;> cases third <;> cases (otherBank (spoil (spoil s r.len) r.len).store).erased <;> rfl

theorem exec_storeEraseComplete (hdirty : (otherBank s.store).erased = false) (hpower : s.pwr.auxBad = false) :
    let u := { s with store := setOther s.store { erased := true, erases := (otherBank s.store).erases + 1 } }
    exec .storeEraseComplete s = .next (if s.store.swapping then answerSwap (swapBanks u) stOk else u) := by
  have hrun : exec .storeEraseComplete s = execStoreEraseComplete s := rfl
  have hkeeps : (setOther s.store { erased := true, erases := (otherBank s.store).erases + 1 }).swapping = s.store.swapping := by
    unfold setOther
    split <;> rfl
  simp only [hrun, execStoreEraseComplete, hdirty, hpower, hkeeps]
  cases s.store.swapping <;> rfl

end StoreWriting

/-- Settles O57: each command by its own lemma; the writing of a record by its attempts. -/
theorem powerCommandsComplete : Obligations.PowerCommandsComplete := by
  unfold Obligations.PowerCommandsComplete
  intro s h
  refine ⟨fun ha => runsTo_of_answer ha rfl (exec_pwrStatus ha), fun d op wakeS => exec_pwrDomain, fun wakeS => exec_standby,
    fun mask value ha hadmin hgood => ⟨fun hready => ?now, fun hwaits => ?later⟩,
    fun ha hadmin => runsTo_of_answer ha rfl (exec_pwrStoreQuery ha hadmin), exec_pwrStoreSwap,
    fun r rest hfirst hpower hswaps hgood hroom => ?writes, fun hdirty hpower => ⟨fun hidle => ?erased, fun hswaps => ?swapped⟩⟩
  case now => simpa only [hready, if_true] using exec_pwrLimit ha hadmin hgood
  case later => simpa only [hwaits, Bool.false_eq_true, if_false] using exec_pwrLimit ha hadmin hgood
  case writes =>
    have hwrite := exec_storeWrite hfirst hpower hswaps hgood hroom
    exact ⟨hwrite true, hwrite false true, fun herased => ⟨by simpa [herased] using hwrite false false true,
      by simpa [herased] using hwrite false false false⟩⟩
  case erased => simpa only [hidle, Bool.false_eq_true, if_false] using exec_storeEraseComplete hdirty hpower
  case swapped => simpa only [hswaps, if_true] using exec_storeEraseComplete hdirty hpower

end Sys2Proof.Proofs
end

section
namespace Sys2Proof.Proofs
open Machine Laws

/-! ### The return of VCORE (R475, R482) -/

/-- With VCORE on and no brown-out, a return puts every point that reads below 0.68 V or above 0.90 V at the setpoint, and is noted in the
warning in force. -/
theorem exec_vcoreReturn {s : State} {w : Warn} (hlo : 3 ≤ s.boot.stage) (hhi : s.boot.stage ≤ 6) (hbrown : s.pwr.brown = none)
    (hwarn : s.pwr.warn = some w) : exec .vcoreReturn s = .next { s with pwr := { s.pwr with
      vcore := s.pwr.vcore.map fun v => if v < 680 || 900 < v then s.pwr.setpoint else v
      warn := some { w with returned := w.returned.orElse fun _ => some s.now } } } := by
  have hrun : exec .vcoreReturn s = execVcoreReturn s := rfl
  simp only [hrun, execVcoreReturn, vcoreOff, hbrown, hwarn, Nat.not_lt.2 hlo, Nat.not_lt.2 hhi]
  rfl

/-- A sense point reads 0.95 V while the warning of an earlier dip is in force. -/
def overReading : State :=
  { State.reset with
    boot := { State.reset.boot with stage := 6 }
    pwr := { State.reset.pwr with setpoint := 750, vcore := [950], warn := some { start := 0, low := 670, point := 0 } } }

/-- The return sets that point too, which its words leave. -/
theorem vcore_of_return_overReading : ∃ t, exec .vcoreReturn overReading = .next t ∧ t.pwr.vcore = [750] :=
  ⟨_, exec_vcoreReturn (s := overReading) (by decide) (by decide) rfl rfl, rfl⟩

/-- Refutes O55: VCORE_RETURN sets a sense point that reads above 0.90 V to the setpoint, and not only one below 0.68 V. In `overReading`
the point that reads 0.95 V ends at 0.75 V, where the statement keeps it. -/
theorem not_supplyAndSensorEventsComplete : ¬ Obligations.SupplyAndSensorEventsComplete := by
  unfold Obligations.SupplyAndSensorEventsComplete
  rintro ⟨hall, -⟩
  obtain ⟨-, -, hreturn, -⟩ := hall overReading
  have hstated := hreturn { start := 0, low := 670, point := 0 } (by decide) (by decide) rfl rfl
  obtain ⟨t, hmodel, hvcore⟩ := vcore_of_return_overReading
  obtain rfl := Host.Outcome.next.inj (hmodel.symm.trans hstated)
  exact absurd hvcore (by decide)

end Sys2Proof.Proofs
end

section
namespace Sys2Proof.Proofs
open Machine Laws

/-! ### Boot, restart and confirmation (R502, R503, R507, R508, R518, R520, R538, R541) -/

section Boot

variable {s : State}

theorem exec_powerOn {testMode recover : Bool} {vin : Nat} (hoff : s.pwr.inputOn = false) (hlo : 380 < vin) (hhi : vin ≤ 640)
    (hsense : s.pwr.senseReady = true ∨ s.pwr.senseMated.any (· + 50000000 ≤ s.now) = true) :
    let u := { s with pwr := { s.pwr with inputOn := true, senseReady := true, vin := vin } }
    exec (.powerOn testMode recover vin) s = .next (if testMode = true
      then spOn { u with now := 0, boot := { u.boot with stage := 9, recover := recover } } [370] else runBoot u 0 0 recover) := by
  have hrun : exec (.powerOn testMode recover vin) s = execPowerOn testMode recover vin s := rfl
  have hstays : (s.pwr.inputOn || decide (vin ≤ 380) || decide (640 < vin) ||
      !(s.pwr.senseReady || s.pwr.senseMated.any (· + 50000000 ≤ s.now))) = false := by
    rw [hoff, Bool.or_eq_true_iff.2 hsense]
    simp [Nat.not_le.2 hlo, hhi]
  rw [hrun, execPowerOn, hstays]
  cases testMode <;> rfl

/-- The frames that failed are retired and the blocks that failed fenced, on a die that is on and clean (R502 steps 7, 8 and 10). -/
def memoryInitialised (s : State) (badHbm badLpx : List Nat) (recs : List BistRec) : State :=
  let rs := recs.map judged
  let u := { s with boot := { s.boot with stage := 4, bootRecs := rs } }
  let u := (badHbm.filter (· < frameCount 1)).foldl (fun s f => retireFrame s 1 f 1) u
  let u := (badLpx.filter (· < frameCount 2)).foldl (fun s f => retireFrame s 2 f 1) u
  (failedBlocks rs).foldl (fun s d => failBlock s d none) (diePrepared u)

theorem exec_memoryInitComplete (hstage : s.boot.stage = 3) (hup : memoryUp s = true) (badHbm badLpx : List Nat)
    (recs : List BistRec) :
    let u := memoryInitialised s badHbm badLpx recs
    exec (.memoryInitComplete badHbm badLpx recs) s =
      if u.boot.stage = 8 || tierLost u 1 || tierLost u 2 then .next { u with boot := { u.boot with stage := 8 } }
      else .next { u with boot := { u.boot with stage := 5, linksAt := some u.now } } := by
  have hrun : exec (.memoryInitComplete badHbm badLpx recs) s = execMemoryInitComplete badHbm badLpx recs s := rfl
  have hgoes : (s.boot.stage != 3 || !memoryUp s) = false := by simp [hstage, hup]
  rw [hrun, execMemoryInitComplete, hgoes]
  rfl

theorem exec_memoryInitComplete_of_good (hstage : s.boot.stage = 3) (hup : memoryUp s = true) {badHbm badLpx : List Nat}
    {recs : List BistRec} (hgood : (memoryInitialised s badHbm badLpx recs).boot.stage ≠ 8)
    (hhbm : tierLost (memoryInitialised s badHbm badLpx recs) 1 = false)
    (hlpx : tierLost (memoryInitialised s badHbm badLpx recs) 2 = false) :
    let u := memoryInitialised s badHbm badLpx recs
    exec (.memoryInitComplete badHbm badLpx recs) s = .next { u with boot := { u.boot with stage := 5, linksAt := some u.now } } :=
  (exec_memoryInitComplete hstage hup badHbm badLpx recs).trans (if_neg (by simp [hgood, hhbm, hlpx]))

theorem exec_memoryInitComplete_of_lost (hstage : s.boot.stage = 3) (hup : memoryUp s = true) {badHbm badLpx : List Nat}
    {recs : List BistRec} (hbad : (memoryInitialised s badHbm badLpx recs).boot.stage = 8 ∨
      tierLost (memoryInitialised s badHbm badLpx recs) 1 = true ∨ tierLost (memoryInitialised s badHbm badLpx recs) 2 = true) :
    let u := memoryInitialised s badHbm badLpx recs
    exec (.memoryInitComplete badHbm badLpx recs) s = .next { u with boot := { u.boot with stage := 8 } } :=
  (exec_memoryInitComplete hstage hup badHbm badLpx recs).trans (if_pos (by simpa [or_assoc] using hbad))

theorem exec_ptpWaitExpiry {t : Nat} (hstage : s.boot.stage = 5) (hsync : s.boot.timeSync = false) (hlinks : s.boot.linksAt = some t)
    (hdue : t + ptpWaitNs s ≤ s.now) : exec .ptpWaitExpiry s = .next { s with boot := { s.boot with waitOver := true } } := by
  have hrun : exec .ptpWaitExpiry s = execPtpWaitExpiry s := rfl
  simp [hrun, execPtpWaitExpiry, hstage, hsync, hlinks, hdue]

theorem exec_bootReady (hstage : s.boot.stage = 5) (hbrown : s.pwr.brown = none)
    (htime : ptpWaits s = false ∨ s.boot.timeSync = true ∨ s.boot.waitOver = true) :
    let ms := sat 16 ((s.now + 2 ^ 64 - s.boot.timeStep % 2 ^ 64) % 2 ^ 64 / 1000000)
    let u := restoreStore s
    let u := { u with boot := { u.boot with stage := 6, readyAt := some u.now, bootMs := ms, heldEvents := [] } }
    let u := raise u srcCore evBootReady [u.boot.slot, u.sec.svn, u.boot.cause, ms, u.boot.fenced.length, u.boot.timeStep] []
    let u := s.boot.heldEvents.foldl (fun s x => deliverEvt s (maskBasins x.1) x.2) u
    exec .bootReady s = .next (settleMode
      (if u.boot.reverted = true then raise u srcCore evFwReverted [u.boot.slot, u.boot.abandoned] [] else u)) := by
  have hrun : exec .bootReady s = execBootReady s := rfl
  have hgoes : (s.boot.stage != 5 || s.pwr.brown.isSome || (ptpWaits s && !s.boot.timeSync && !s.boot.waitOver)) = false := by
    obtain h | h | h := htime <;> simp [hstage, hbrown, h]
  rw [hrun, execBootReady, hgoes]
  rfl

theorem exec_confirmTimeout {t : Nat} (hstage : s.boot.stage = 6) (htrial : s.boot.trial = true) (hready : s.boot.readyAt = some t)
    (hdue : t + confirmNs s ≤ s.now) (hopen : s.storeOpen) : exec .confirmTimeout s = .next (confirmFw s) := by
  have hrun : exec .confirmTimeout s = execConfirmTimeout s := rfl
  simp [hrun, execConfirmTimeout, hstage, htrial, hready, hdue, hopen.1, hopen.2]

theorem exec_sp0WatchdogExpiry (hlo : 3 ≤ s.boot.stage) (hhi : s.boot.stage ≤ 6) :
    exec .sp0WatchdogExpiry s = .next (askRestart s s.now 4) := by
  have hrun : exec .sp0WatchdogExpiry s = execSp0WatchdogExpiry s := rfl
  simp [hrun, execSp0WatchdogExpiry, hlo, hhi]

theorem exec_modReset {lowNs : Nat} (hon : s.pwr.inputOn = true) (hstage : s.boot.stage ≠ 9) (hheld : 10000000 ≤ lowNs) :
    exec (.modReset lowNs) s = .next (askRestart s s.now 6) := by
  have hrun : exec (.modReset lowNs) s = execModReset lowNs s := rfl
  simp [hrun, execModReset, hon, hstage, hheld]

theorem exec_moduleRestart {c : Nat} (hruns : restartRuns s = some c) :
    exec .moduleRestart s = .next (runBoot (loseAll s) c (sat 16 (s.boot.restarts + 1)) s.boot.recover) := by
  have hrun : exec .moduleRestart s = execModuleRestart s := rfl
  simp only [hrun, execModuleRestart, hruns]

end Boot

/-! ### PTP (R360, R504) -/

/-- A message of the selected port, transport and domain is counted, and does what its bytes spell. -/
theorem exec_ptpMessage {s : State} {f : RxFrame} (hen : ptpFld s 0 0 = 1) (hport : f.port = ptpFld s 1 1)
    (hlink : portLink s f.port = true) (hline : f.linkOk = true) (hvlan : vlanOk s f = true) (hroom : f.bufferRoom = true)
    (htransport : f.ptpTransport = some (ptpTransport s)) (hdomain : f.ptpDomain = ptpFld s 8 15) {m x : PtpMsg} (hm : f.ptp m = some x) :
    exec (.ptpMessage f m) s = .next (takePtp (count (usePort s f.port) 5 f.port 0 0 1) f.port x) := by
  have hrun : exec (.ptpMessage f m) s = execPtpMessage f m s := rfl
  have hctrl : f.uncontrolled = true := by simp [RxFrame.uncontrolled, htransport]
  have hstays : (ptpFld s 0 0 != 1 || f.port != ptpFld s 1 1 || !portLink s f.port) = false := by simp [hen, ← hport, hlink]
  have htransport' : f.ptpTransport = some (ptpTransport (usePort s f.port)) := htransport
  have hdomain' : f.ptpDomain = ptpFld (usePort s f.port) 8 15 := hdomain
  rw [hrun, execPtpMessage, hstays, if_neg Bool.false_ne_true, portTakes_of_uncontrolled hline hvlan hroom hctrl]
  simp [htransport', hdomain', hm]

section PtpMessages

variable {u : State} {port src : Nat}

theorem takePtp_announce (hother : u.eth.ptp.source ≠ some src) :
    takePtp u port (.announce src true) = setPtp (ptpLose u) fun p => { p with source := some src } := by
  simp [takePtp, hother]

variable (hsrc : u.eth.ptp.source = some src)
include hsrc

theorem takePtp_sync_twoStep {t1 t2 : Nat} : takePtp u port (.sync src true t1 t2) =
    setPtp u fun p => { p with t1 := none, t2 := some t2, t3 := none, waitFollow := true } := by
  simp [takePtp, hsrc]

theorem takePtp_sync_oneStep {t1 t2 : Nat} : takePtp u port (.sync src false t1 t2) =
    askDelay (setPtp u fun p => { p with t1 := some t1, t2 := some t2 }) port := by
  simp [takePtp, hsrc]

theorem takePtp_followUp {t1 : Nat} (hwaits : u.eth.ptp.waitFollow = true) : takePtp u port (.followUp src t1) =
    askDelay (setPtp u fun p => { p with t1 := some t1 }) port := by
  simp [takePtp, hsrc, hwaits]

theorem takePtp_delayResp {t1 t2 t3 t4 : Nat} (h1 : u.eth.ptp.t1 = some t1) (h2 : u.eth.ptp.t2 = some t2) (h3 : u.eth.ptp.t3 = some t3) :
    takePtp u port (.delayResp src t3 t4) =
      ptpMeasure (setPtp u fun p => { p with t3 := none }) (half (((t2 : Int) - t1) - ((t4 : Int) - t3))) := by
  simp [takePtp, hsrc, h1, h2, h3]

end PtpMessages

/-- A message that is counted at its port finds PTP as it was. -/
theorem ptp_counted (s : State) (port : Nat) : (count (usePort s port) 5 port 0 0 1).eth.ptp = s.eth.ptp := rfl

/-- Settles O58: each event by its own lemma; a PTP message is counted and then does what `takePtp` says of it. -/
theorem bootAndPtpEventsComplete : Obligations.BootAndPtpEventsComplete := by
  unfold Obligations.BootAndPtpEventsComplete
  refine ⟨fun s => ⟨fun testMode recover vin => exec_powerOn, fun badHbm badLpx recs hstage hup =>
      ⟨exec_memoryInitComplete_of_good hstage hup, exec_memoryInitComplete_of_lost hstage hup⟩, fun t => exec_ptpWaitExpiry,
    exec_bootReady, fun t => exec_confirmTimeout, exec_sp0WatchdogExpiry, fun lowNs => exec_modReset, fun c => exec_moduleRestart⟩,
    fun s f src => ⟨fun hen hport hlink hline hvlan hroom htransport hdomain => ?ptp, rfl⟩⟩
  case ptp =>
    have hx {m x : PtpMsg} (hm : f.ptp m = some x) := exec_ptpMessage hen hport hlink hline hvlan hroom htransport hdomain hm
    have hptp := ptp_counted s f.port
    refine ⟨fun hother m hm => ?_, fun hsrc => ⟨fun t1 t2 m hm => ?_, fun t1 t2 m hm => ?_, fun t1 hwaits m hm => ?_,
      fun t1 t2 t3 t4 h1 h2 h3 m hm => ?_⟩⟩
    · rw [hx hm, takePtp_announce (by rwa [hptp])]
    · rw [hx hm, takePtp_sync_twoStep (by rwa [hptp])]
    · rw [hx hm, takePtp_sync_oneStep (by rwa [hptp])]
    · rw [hx hm, takePtp_followUp (by rwa [hptp]) (by rwa [hptp])]
    · rw [hx hm, takePtp_delayResp (by rwa [hptp]) (by rwa [hptp]) (by rwa [hptp]) (by rwa [hptp])]

end Sys2Proof.Proofs
end

section
namespace Sys2Proof.Proofs
open Machine Laws

/-! ### A frame that its port takes (R355, R357, R359) -/

section PortTakes

variable {s : State} {x : RxFrame}

/-- What a port has done once it has taken a frame: it is in use, and the packet number of a valid protection is noted. -/
def portTaken (s : State) (x : RxFrame) : State := usePort (notePn s x) x.port

/-- To take a frame touches the protection's channels and the port's domain alone. -/
theorem portTaken_keeps {β : Type} {g : State → β} (hsec : ∀ s x, g { s with sec := x } = g s)
    (hpwr : ∀ s x, g { s with pwr := x } = g s) (s : State) (x : RxFrame) : g (portTaken s x) = g s := by
  refine (hpwr _ _).trans ?_
  unfold notePn
  split
  · rfl
  · dsimp only
    split
    · rfl
    · exact hsec ..

variable (hline : x.linkOk = true) (hvlan : vlanOk s x = true) (hroom : x.bufferRoom = true)
  (hprot : x.uncontrolled = false → (x.sec.isSome || bitAt (portCtrl s x.port) 5) = true → protectedOk s x = true)
include hline hvlan hroom hprot

theorem portTakes_of_valid (go : State → State) : portTakes s x go = go (portTaken s x) := by
  have hpass : (!x.uncontrolled && (x.sec.isSome || bitAt (portCtrl s x.port) 5) && !protectedOk s x) = false := by
    cases hctrl : x.uncontrolled
    · cases hasked : x.sec.isSome || bitAt (portCtrl s x.port) 5
      · rfl
      · simp [hprot hctrl hasked]
    · rfl
  simp only [portTakes, hline, hvlan, hroom, hpass]
  rfl

theorem onPort_of_valid (hlink : portLink s x.port = true) (go : State → State) : onPort s x true go = .next (go (portTaken s x)) := by
  simp [onPort, hlink, portTakes_of_valid hline hvlan hroom hprot]

end PortTakes

/-! ### Datagrams (R362 to R367) -/

section Datagram

variable {s : State} {x : RxFrame} {b : Nat}

/-- The flow of a datagram notes where its sender is, and the acknowledgement is taken. -/
def ackTaken (u : State) (x : RxFrame) (b : Nat) : State :=
  takeAck (setFlow u b x.flow fun fl => { fl with
    peerIp := x.srcIp, peerPort := x.port, peerUdp := x.srcPort, ownIp := x.dstIp }) b x.flow x.ack x.sack x.rwnd

/-- What a counted datagram does: with SYN it opens its flow; in an open flow its acknowledgement is taken and its segment passed on. -/
def datagramTaken (u : State) (x : RxFrame) (b : Nat) : State :=
  if x.synBit then openFlow u b x.flow x
  else if !(flowOf u b x.flow).opened then u
  else if x.kind = 6 then ackTaken u x b else takeSegment (ackTaken u x b) b x.flow x

theorem datagramTaken_of_syn {u : State} (hsyn : x.synBit = true) : datagramTaken u x b = openFlow u b x.flow x := by
  rw [datagramTaken, hsyn, if_pos rfl]

theorem datagramTaken_of_opened {u : State} (hsyn : x.synBit = false) (hopened : (flowOf u b x.flow).opened = true) :
    datagramTaken u x b = if x.kind = 6 then ackTaken u x b else takeSegment (ackTaken u x b) b x.flow x := by
  rw [datagramTaken, hsyn, if_neg Bool.false_ne_true, hopened, Bool.not_true, if_neg Bool.false_ne_true]

/-- A datagram of a basin in READY that its header and its sender allow is counted, and opens its flow or is taken in it. -/
theorem takeDatagram_of_ok (hbound : bitAt (portCtrl s x.port) 5 = true →
      (s.sec.scis.any fun k => k.port == x.port && some k.sci == x.sci && k.basin == b) = true)
    (hbasin : x.basin = b) (hheader : headerOk x = true) (hlive : inTeardown s b = false)
    (hhost : (((basinOf s b).map (·.host.hosts)).getD []).contains x.srcIp = true) :
    takeDatagram s x b = datagramTaken (count s 5 x.port 0 0 1) x b := by
  have hchannel : (bitAt (portCtrl s x.port) 5 &&
      !(s.sec.scis.any fun k => k.port == x.port && some k.sci == x.sci && k.basin == b)) = false := by
    cases hreq : bitAt (portCtrl s x.port) 5
    · rfl
    · rw [hbound hreq]
      rfl
  have hpass : (!(((basinOf s b).map (·.host.hosts)).getD []).contains x.srcIp || x.basin != b || !headerOk x) = false := by
    rw [hhost, hbasin, hheader]
    simp
  unfold takeDatagram
  dsimp only
  rw [hchannel, hpass, hlive, if_neg Bool.false_ne_true, if_neg Bool.false_ne_true, if_neg Bool.false_ne_true]
  rfl

end Datagram

/-- A frame whose datagram belongs to a basin in READY: it passes the checks of its port, of its basin's channel and of its header. -/
structure DatagramFor (s : State) (x : RxFrame) (b : Nat) : Prop where
  link : portLink s x.port = true
  ready : s.boot.stage = 6
  line : x.linkOk = true
  vlan : vlanOk s x = true
  room : x.bufferRoom = true
  prot : x.uncontrolled = false → (x.sec.isSome || bitAt (portCtrl s x.port) 5) = true → protectedOk s x = true
  bound : bitAt (portCtrl s x.port) 5 = true → (s.sec.scis.any fun k => k.port == x.port && some k.sci == x.sci && k.basin == b) = true
  udp : x.udpOk = true
  dstPort : x.dstPort = 47077
  owner : ownerOf s x.port x.dstIp = some b
  basin : x.basin = b
  header : headerOk x = true
  live : inTeardown s b = false
  host : (((basinOf s b).map (·.host.hosts)).getD []).contains x.srcIp = true

namespace DatagramFor

variable {s : State} {x : RxFrame} {b : Nat} (h : DatagramFor s x b)
include h

theorem receiveWoreo_eq : receiveWoreo s x = datagramTaken (count (portTaken s x) 5 x.port 0 0 1) x b := by
  have howner : ownerOf (portTaken s x) x.port x.dstIp = some b := (ownerOf_noted s x x.port ..).trans h.owner
  have hctrl : portCtrl (portTaken s x) x.port = portCtrl s x.port := portCtrl_noted s x x.port
  have hscis : (portTaken s x).sec.scis = s.sec.scis := scis_noted s x x.port
  have hbasins : (portTaken s x).basins = s.basins :=
    portTaken_keeps (g := State.basins) (by intro _ _; rfl) (by intro _ _; rfl) s x
  have hlive : inTeardown (portTaken s x) b = false := by rw [inTeardown, hbasins]; exact h.live
  have hhost : (((basinOf (portTaken s x) b).map (·.host.hosts)).getD []).contains x.srcIp = true := by
    rw [basinOf, hbasins]; exact h.host
  rw [receiveWoreo, portTakes_of_valid h.line h.vlan h.room h.prot]
  simp only [h.udp, h.dstPort, howner, Bool.not_true, bne_self_eq_false, Bool.false_eq_true, if_false]
  exact takeDatagram_of_ok (by rw [hctrl, hscis]; exact h.bound) h.basin h.header hlive hhost

theorem exec_segment : exec (.woreoSegmentReceive x) s = .next (receiveWoreo s x) := exec_woreoSegmentReceive h.link h.ready

theorem exec_syn (hsyn : x.synBit = true) : exec (.syn x) s = .next (receiveWoreo s x) := by
  have hrun : exec (.syn x) s = execSyn x s := rfl
  simp [hrun, execSyn, h.link, h.ready, hsyn]

end DatagramFor

/-! ### Timers and queues (R367, R368, R370 to R372) -/

section Timers

variable {s : State} {b f : Nat}

theorem exec_rtoExpiry {seq : Nat} {g : SentSeg} (hg : ((flowOf s b f).sent.find? fun g => g.seq == seq) = some g) (hdue : g.due ≤ s.now)
    (hgoes : (flowOf s b f).stalled = false) :
    let t := if maxRetry s b ≤ g.sends + 1 then rtoMax s b else min (2 * g.timer) (rtoMax s b)
    let v := resend s b f (retxPort s b f (g.exps + 1)) g
    let w := setSent v b f seq fun x => { x with timer := t, due := v.now + t, sends := x.sends + 1, exps := x.exps + 1 }
    exec (.rtoExpiry b f seq) s = .next (stallIfSpent w b f (g.sends + 1)) := by
  have hrun : exec (.rtoExpiry b f seq) s = execRtoExpiry b f seq s := rfl
  simp [hrun, execRtoExpiry, hg, Nat.not_lt.2 hdue, hgoes]

theorem exec_ackDelayExpiry {t : Nat} (hack : (flowOf s b f).ackDue = some t) (hdue : t ≤ s.now) :
    exec (.ackDelayExpiry b f) s = .next (sendAck s b f) := by
  have hrun : exec (.ackDelayExpiry b f) s = execAckDelayExpiry b f s := rfl
  simp [hrun, execAckDelayExpiry, hack, hdue]

theorem exec_evtCoalesceExpiry {t : Nat} (hsince : (linkOf s b).gatherSince = some t) (hdue : t + evtCoalesce s b ≤ s.now) :
    exec (.evtCoalesceExpiry b) s = .next (flushEvents s b) := by
  have hrun : exec (.evtCoalesceExpiry b) s = execEvtCoalesceExpiry b s := rfl
  simp [hrun, execEvtCoalesceExpiry, hsince, hdue]

theorem exec_tokSent {q : QMsg} (hq : ((flowOf s b f).queue.find? fun q => !q.measure.isEmpty &&
      q.segsSent == segCount (flowOf s b f).maxpay q.msg && !waitsForPort s b f q) = some q) :
    let port := (flowOf s b f).peerPort
    let u := setFlow s b f fun fl => { fl with queue := updW (fun x => x.ident == q.ident) (fun x => { x with measure := [] }) fl.queue }
    exec (.tokSent b f) s = .next (q.measure.foldl (fun s m =>
      if m.guar && !q.blocked && portUp s port && m.bound < s.now - m.formT then
        raise s srcCore evReqC0Overrun [m.gid, m.stepSeq, s.now - m.formT] [b]
      else s) u) := by
  have hrun : exec (.tokSent b f) s = execTokSent b f s := rfl
  simp only [hrun, execTokSent, hq]

end Timers

/-! ### Addresses (R358) -/

theorem ownAddr_portTaken (s : State) (x : RxFrame) (port ip : Nat) : ownAddr (portTaken s x) port ip = ownAddr s port ip :=
  portTaken_keeps (g := fun s => ownAddr s port ip) (by intro _ _; rfl) (by intro _ _; rfl) s x

theorem ports_portTaken (s : State) (x : RxFrame) : (portTaken s x).eth.ports = s.eth.ports :=
  portTaken_keeps (g := fun s => s.eth.ports) (by intro _ _; rfl) (by intro _ _; rfl) s x

/-- A frame for one of the device's own addresses is counted and answered. -/
theorem answerFor_portTaken {s : State} {x : RxFrame} {ip : Nat} (hown : ownAddr s x.port ip = true) (go : State → State) :
    answerFor (portTaken s x) x.port ip go = go (count (portTaken s x) 5 x.port 0 0 1) := by
  rw [answerFor, ownAddr_portTaken, hown, if_pos rfl]

section Addresses

variable {s : State} {f : RxFrame} (hlink : portLink s f.port = true) (hline : f.linkOk = true) (hvlan : vlanOk s f = true)
  (hroom : f.bufferRoom = true)
  (hprot : f.uncontrolled = false → (f.sec.isSome || bitAt (portCtrl s f.port) 5) = true → protectedOk s f = true)
include hlink hline hvlan hroom hprot

theorem exec_arpRequest (his : f.arp 1 = true) (hown : ownAddr s f.port f.arpTarget = true) :
    let u := count (portTaken s f) 5 f.port 0 0 1
    exec (.arpRequest f) s = .next
      (sendFrame u f.port (pcpAt u f.port f.arpTarget) (some f.arpMac) (.arpReply f.arpSender f.arpTarget)) := by
  have hrun : exec (.arpRequest f) s = execArpRequest f s := rfl
  rw [hrun, execArpRequest, his, onPort_of_valid hline hvlan hroom hprot hlink, answerFor_portTaken hown]

theorem exec_neighbourSolicitation (his : f.icmp6 135 24 = true) (hown : ownAddr s f.port f.ndTarget = true) :
    let u := count (portTaken s f) 5 f.port 0 0 1
    exec (.neighbourSolicitation f) s = .next
      (sendFrame u f.port (pcpAt u f.port f.ndTarget) (some f.srcMac) (.neighbourAdvert f.srcIp f.ndTarget)) := by
  have hrun : exec (.neighbourSolicitation f) s = execNeighbourSolicitation f s := rfl
  rw [hrun, execNeighbourSolicitation, his, onPort_of_valid hline hvlan hroom hprot hlink, answerFor_portTaken hown]

theorem exec_icmpEcho (his : f.echo = true) (hown : ownAddr s f.port f.dstIp = true) :
    let u := count (portTaken s f) 5 f.port 0 0 1
    exec (.icmpEcho f) s = .next
      (sendTo u f.port f.srcIp f.dstIp (pcpAt u f.port f.dstIp) (.echoReply f.srcIp f.dstIp f.echoed)) := by
  have hrun : exec (.icmpEcho f) s = execIcmpEcho f s := rfl
  rw [hrun, execIcmpEcho, his, onPort_of_valid hline hvlan hroom hprot hlink, answerFor_portTaken hown]

/-- An address that is being resolved gets its entry. -/
theorem exec_addressResolutionReply {ip mac : Nat} {p : Port} (hp : s.eth.ports[f.port]? = some p)
    (hasked : p.resolving.contains ip = true) (hgives : resolved f = some (ip, mac)) :
    let u := count (portTaken s f) 5 f.port 0 0 1
    exec (.addressResolutionReply f) s = .next { u with eth := { u.eth with ports := u.eth.ports.modify f.port fun q => { q with
      resolving := dropW (· == ip) q.resolving
      neighbours := (ip, mac) :: dropW (fun n => n.1 == ip) q.neighbours } } } := by
  have hrun : exec (.addressResolutionReply f) s = execAddressResolutionReply f s := rfl
  have hfill : fillNeighbour (portTaken s f) f.port ip mac =
      let u := count (portTaken s f) 5 f.port 0 0 1
      { u with eth := { u.eth with ports := u.eth.ports.modify f.port fun q => { q with
        resolving := dropW (· == ip) q.resolving
        neighbours := (ip, mac) :: dropW (fun n => n.1 == ip) q.neighbours } } } := by
    simp only [fillNeighbour, ports_portTaken, hp, hasked, if_true]
  rw [hrun, execAddressResolutionReply, hgives, Option.isSome_some, onPort_of_valid hline hvlan hroom hprot hlink]
  exact congrArg Host.Outcome.next hfill

end Addresses

/-! ### The link of a port (R356, R392) -/

section Link

variable {s : State} {port lanes : Nat} {partner : List (Nat × Nat)} {p : Port} (hp : s.eth.ports[port]? = some p)

/-- Both ends offer a rate for the port's medium. -/
def RateShared (ctrl : Nat) (partner : List (Nat × Nat)) (rate : Nat) : Prop :=
  partner.contains (rate, fld ctrl 3 3) = true ∧ (fld ctrl 1 2 = 0 ∨ fld ctrl 1 2 = 3 ∨ fld ctrl 1 2 = rate)

/-- The first of the two rates that is shared is the one at which the port comes up. -/
theorem sharedRate_eq_some {ctrl rate : Nat} (hfirst : rate = 1 ∨ rate = 2 ∧ ¬RateShared ctrl partner 1)
    (hshared : RateShared ctrl partner rate) : sharedRate ctrl partner = some rate := by
  have hoffer (r : Nat) : RateShared ctrl partner r ↔
      decide ((fld ctrl 1 2 == 0 || fld ctrl 1 2 == 3 || fld ctrl 1 2 == r) = true ∧ partner.contains (r, fld ctrl 3 3) = true) = true := by
    simp [RateShared, or_assoc, and_comm]
  rw [hoffer] at hshared hfirst
  unfold sharedRate ownRates
  dsimp only
  rw [List.find?_filter]
  obtain rfl | ⟨rfl, hnot⟩ := hfirst
  · simp only [List.find?_cons, hshared]
  · simp only [List.find?_cons, eq_false_of_ne_true hnot, hshared]

include hp

theorem exec_ethLink_down (hup : p.linkUp = true) : exec (.ethLink port false partner lanes) s = .next (endBrown (raise (portLost
    { s with
      eth := { s.eth with ports := s.eth.ports.modify port fun q => { q with linkUp := false, rateNow := 0, lanes := 0 } }
      sec := { s.sec with saks := dropW (fun k => k.port == port) s.sec.saks } } port) (srcPort port) evEthLink [port, 0, 0] [])) := by
  have hrun : exec (.ethLink port false partner lanes) s = execEthLink port false partner lanes s := rfl
  simp only [hrun, execEthLink, hp, hup]
  rfl

theorem exec_ethLink_up {rate : Nat} (hdown : p.linkUp = false) (hen : bitAt p.ctrl.toNat 0 = true) (hser : s.pwr.serHeld = false)
    (hon : (s.pwr.doms.getD (364 + port) {}).state = 2) (hlo : 2 ≤ s.boot.stage) (hhi : s.boot.stage ≤ 6)
    (hrate : sharedRate p.ctrl.toNat partner = some rate) (hreal : rate ≠ 0) :
    exec (.ethLink port true partner lanes) s = .next (endBrown (raise { s with eth := { s.eth with ports := s.eth.ports.modify port fun q => { q with
        linkUp := true, rateNow := rate, lanes := lanes % 16 } } } (srcPort port) evEthLink [port, 1, rate] [])) := by
  have hrun : exec (.ethLink port true partner lanes) s = execEthLink port true partner lanes s := rfl
  have hen' : p.ctrl.toNat % 2 = 1 := by simpa [bitAt] using hen
  have hallowed : (p.ctrl.toNat % 2 == 1 && !s.pwr.serHeld && rate != 0 && (s.pwr.doms.getD (364 + port) {}).state == 2 &&
      decide (2 ≤ s.boot.stage) && decide (s.boot.stage ≤ 6)) = true := by
    simp only [hen', hser, bne_iff_ne.2 hreal, hon, hlo, hhi]
    rfl
  simp only [hrun, execEthLink, hp, hdown, hrate, Option.getD_some, hallowed]
  rfl

end Link

/-- Settles O48: a datagram by `DatagramFor.receiveWoreo_eq`, which says what one that passes every check does; each other event by its own
lemma. -/
theorem networkEventsComplete : Obligations.NetworkEventsComplete := by
  unfold Obligations.NetworkEventsComplete
  intro s
  refine ⟨fun x b hlink hready hline hvlan hroom hprot hbound hudp hport howner hbasin hheader hlive hhost => ?datagram, fun b => rfl,
    fun b f seq g => exec_rtoExpiry, fun b f t => exec_ackDelayExpiry, fun b t => exec_evtCoalesceExpiry, fun b => rfl, fun b => rfl,
    fun b f q => exec_tokSent, fun f hlink hline hvlan hroom hprot => ⟨exec_arpRequest hlink hline hvlan hroom hprot,
      exec_neighbourSolicitation hlink hline hvlan hroom hprot, exec_icmpEcho hlink hline hvlan hroom hprot,
      fun ip mac p hp hasked hgives => exec_addressResolutionReply hlink hline hvlan hroom hprot hp hasked ?gives⟩,
    fun port partner lanes p hp => ⟨exec_ethLink_down hp, fun hdown hen hser hon hlo hhi rate hfirst hshared => ?up⟩⟩
  case datagram =>
    have h : DatagramFor s x b :=
      ⟨hlink, hready, hline, hvlan, hroom, hprot, hbound, hudp, hport, howner, hbasin, hheader, hlive, hhost⟩
    refine ⟨fun hsyn => ⟨?_, ?_⟩, fun hsyn hopened => ⟨fun hkind => ?_, fun hkind => ?_⟩⟩
    · rw [h.exec_segment, h.receiveWoreo_eq, portTaken, datagramTaken_of_syn hsyn]
    · rw [h.exec_syn hsyn, h.receiveWoreo_eq, portTaken, datagramTaken_of_syn hsyn]
    · rw [h.exec_segment, h.receiveWoreo_eq, portTaken, datagramTaken_of_opened hsyn hopened, if_pos hkind, ackTaken]
    · rw [h.exec_segment, h.receiveWoreo_eq, portTaken, datagramTaken_of_opened hsyn hopened, if_neg hkind, ackTaken]
  case gives =>
    obtain ⟨harp, rfl, rfl⟩ | ⟨harp, hnd, rfl, rfl⟩ := hgives
    · simp [resolved, harp]
    · simp [resolved, harp, hnd]
  case up =>
    refine exec_ethLink_up hp hdown hen hser hon hlo hhi (sharedRate_eq_some hfirst hshared) ?_
    obtain rfl | ⟨rfl, -⟩ := hfirst <;> decide

end Sys2Proof.Proofs
end

section
namespace Sys2Proof.Proofs
open Machine Laws

/-! ### The self-test commands (R510 to R512) -/

section SelfTest

variable {s : State} {h : Hdr}

/-- A test begins: its run number is taken, and its target's domains wake (R510). -/
def bistBegun (s : State) (scope target : Nat) : State :=
  (testDomains scope target).foldl wakeDomain { s with boot := { s.boot with
    testing := some (s.boot.nextRun, scope, target), testAborted := false, nextRun := wrap 32 (s.boot.nextRun + 1) } }

theorem exec_testBist {scope target : Nat} (ha : s.accepts (.testBist h scope target)) (hadmin : isAdmin s h.basin = true)
    (hcheck : bistCheck s h.port scope target = stOk) :
    let u := bistBegun (s.took h 0x0800) scope target
    exec (.testBist h scope target) s = .next (deferCmd
      (if scope = 2 then fordsOff u [target] else if scope = 3 then dropPort u target else u)
      { h := h, opcode := 0x0800, obj := .test, arg := s.boot.nextRun }) := by
  have hrun : exec (.testBist h scope target) s = execTestBist h scope target s := rfl
  rw [hrun, execTestBist, hostCmd_runs ha rfl fun _ => hadmin]
  simp only [took_bistCheck, hcheck]
  rfl

/-- A test is complete: its run is kept with the 15 before it, and the blocks that failed are treated (R511, R512). -/
def bistEnded (s : State) (run scope target : Nat) (rs : List BistRec) : State :=
  let x : BistRun := { run := run, scope := scope, target := target, recs := rs }
  (failedBlocks rs).foldl (fun s d => failBlock s d (if scope = 1 then some target else none)) { s with boot := { s.boot with
    testing := none, testAborted := false, runs := (s.boot.runs ++ [x]).drop (s.boot.runs.length + 1 - 16) } }

theorem exec_bistComplete {run scope target : Nat} (htests : s.boot.testing = some (run, scope, target)) (recs : List BistRec) :
    let rs := recs.map (bistJudged s)
    let fails := (rs.filter fun r => r.result == 1).length
    exec (.bistComplete recs) s =
      .next (answerAll (raise (afterTest (bistEnded s run scope target rs) scope target) srcCore evTestDone [run, rs.length, fails] [])
        (fun d => d.opcode == 0x0800) stOk [.u32 run, .u16 rs.length, .u16 fails]) := by
  have hrun : exec (.bistComplete recs) s = execBistComplete recs s := rfl
  rw [hrun, execBistComplete, htests]
  rfl

/-- What TEST.RESULT answers of a run (R511). -/
def resultData (run scope target : Nat) (recs : List BistRec) : List Field :=
  [.u32 run, .u8 scope, .u16 target, .u16 recs.length] ++ recs.map fun r => .record 48 (bistWord r)

theorem exec_testResult_boot (ha : s.accepts (.testResult h 0)) :
    exec (.testResult h 0) s = .next (reply (s.took h 0x0801) h 0x0801 stOk (resultData 0 0xFF 0 s.boot.bootRecs)) := by
  have hrun : exec (.testResult h 0) s = execTestResult h 0 s := rfl
  rw [hrun, execTestResult, hostCmd_runs ha rfl (by simp)]
  rfl

variable {run : Nat} (hreal : run ≠ 0) (ha : s.accepts (.testResult h run))
include hreal ha

theorem exec_testResult_run {r : BistRun} (hr : (s.boot.runs.find? fun r => r.run == run) = some r) :
    exec (.testResult h run) s = .next (reply (s.took h 0x0801) h 0x0801 stOk (resultData run r.scope r.target r.recs)) := by
  have hrun : exec (.testResult h run) s = execTestResult h run s := rfl
  rw [hrun, execTestResult, hostCmd_runs ha rfl (by simp)]
  simp [hreal, hr, resultData]

theorem exec_testResult_unknown (hnone : ∀ r ∈ s.boot.runs, r.run ≠ run) :
    exec (.testResult h run) s = .next (reply (s.took h 0x0801) h 0x0801 stTestUnknown []) := by
  have hrun : exec (.testResult h run) s = execTestResult h run s := rfl
  have hnot : (s.boot.runs.find? fun r => r.run == run) = none := by simpa using hnone
  rw [hrun, execTestResult, hostCmd_runs ha rfl (by simp)]
  simp [hreal, hnot]

end SelfTest

/-! ### The test access port (R514, R515) -/

section TestPort

variable {s : State} {pins : List Bool}

/-- With the input within range the port serves; these instructions drive no pin. -/
theorem exec_tap_quiet (hon : s.pwr.inputOn = true) :
    exec .bypass s = .next (setTap s .bypass [false] []) ∧
    exec .idcode s = .next (setTap s .idcode ((List.range 32).map fun k => tapIdcode.getLsbD k) []) ∧
    ∀ shifted, exec (.samplePreload pins shifted) s =
      .next { setTap s .sample (fit pins) [] with tap := { (setTap s .sample (fit pins) []).tap with boundary := fit shifted } } := by
  have hbypass : exec .bypass s = execBypass s := rfl
  have hidcode : exec .idcode s = execIdcode s := rfl
  have hsample (shifted : List Bool) : exec (.samplePreload pins shifted) s = execSamplePreload pins shifted s := rfl
  simp only [hbypass, hidcode, hsample, execBypass, execIdcode, execSamplePreload, hon, if_true, and_self, implies_true]

/-- The instructions that drive pins do so in TEST_HOLD, and change nothing elsewhere. -/
theorem exec_tap_driving (s : State) (pins : List Bool) :
    exec (.extest pins) s = .next (if inTestHold s then setTap s .extest (fit pins) (driveAll s) else s) ∧
    exec .clamp s = .next (if inTestHold s then setTap s .clamp [false] (driveAll s) else s) ∧
    exec .highz s = .next (if inTestHold s then setTap s .highz [false] (List.replicate Config.boundaryLen none) else s) ∧
    exec (.extestPulse pins) s = .next (if inTestHold s then setTap s .extestPulse (fit pins) (driveAll s) else s) ∧
    exec (.extestTrain pins) s = .next (if inTestHold s then setTap s .extestTrain (fit pins) (driveAll s) else s) := by
  have hextest : exec (.extest pins) s = execExtest pins s := rfl
  have hclamp : exec .clamp s = execClamp s := rfl
  have hhighz : exec .highz s = execHighz s := rfl
  have hpulse : exec (.extestPulse pins) s = execExtestPulse pins s := rfl
  have htrain : exec (.extestTrain pins) s = execExtestTrain pins s := rfl
  rw [hextest, hclamp, hhighz, hpulse, htrain, execExtest, execClamp, execHighz, execExtestPulse, execExtestTrain]
  cases inTestHold s
  · exact ⟨rfl, rfl, rfl, rfl, rfl⟩
  · exact ⟨rfl, rfl, rfl, rfl, rfl⟩

end TestPort

/-- Settles O59: each command by its own lemma; an instruction that drives pins by whether the stage is TEST_HOLD. -/
theorem testCommandsAndPortComplete : Obligations.TestCommandsAndPortComplete := by
  unfold Obligations.TestCommandsAndPortComplete
  refine ⟨fun s h => ⟨fun scope target => exec_testBist, fun run scope target recs htests => exec_bistComplete htests recs,
    fun ha => runsTo_of_answer ha rfl (exec_testResult_boot ha), fun run hreal ha =>
      ⟨fun r hr => runsTo_of_answer ha rfl (exec_testResult_run hreal ha hr),
        fun hnone => runsTo_of_answer ha rfl (exec_testResult_unknown hreal ha hnone)⟩⟩,
    fun s pins => ⟨exec_tap_quiet, fun hhold => ?hold, fun hother => ?other⟩⟩
  case hold =>
    have hin : inTestHold s = true := by simpa [inTestHold] using hhold
    have hdrives := exec_tap_driving s pins
    simp only [hin, if_true] at hdrives
    exact hdrives
  case other =>
    have hout : inTestHold s = false := by simpa [inTestHold] using hother
    have hstays := exec_tap_driving s pins
    simp only [hout, Bool.false_eq_true, if_false] at hstays
    exact hstays

end Sys2Proof.Proofs
end

section
namespace Sys2Proof.Proofs
open Machine Laws

/-! ### The management port (R508, R544 to R549) -/

section Management

variable {s : State} (hon : s.pwr.inputOn = true)
include hon

/-- In a stage that serves its code, a request whose PEC is right does what its code says. -/
theorem mgCode_of_served {stages : List Nat} (hstage : s.boot.stage ∈ stages) (body : State → State) :
    mgCode s true stages body = .next (body s) := by
  have hserved : stages.contains s.boot.stage = true := List.contains_iff_mem.2 hstage
  rw [mgCode, hon, hserved]
  rfl

theorem mgCode_of_badPec (stages : List Nat) (body : State → State) :
    mgCode s false stages body = .next (mgReply (pecFailed s) mgPec []) := by
  rw [mgCode, hon]
  rfl

/-! What is read (R546). -/

theorem exec_mgStatus (hstage : s.boot.stage < 10) : exec (.mgStatus true) s =
    .next (mgReply s mgOk (le 1 s.boot.stage ++ le 8 (bootStatus s) ++ le 8 (pwrStatusReg s) ++ le 8 (secStatus s))) := by
  have hrun : exec (.mgStatus true) s = execMgStatus true s := rfl
  rw [hrun, execMgStatus, mgCode_of_served hon (List.mem_range.2 hstage)]

theorem exec_mgSensors (hlo : 3 ≤ s.boot.stage) (hhi : s.boot.stage ≤ 8) : exec (.mgSensors true) s =
    .next (mgReply s mgOk ((List.range 32).map (tempByte s) ++ le 2 s.pwr.vin ++ le 2 (pinW s))) := by
  have hrun : exec (.mgSensors true) s = execMgSensors true s := rfl
  rw [hrun, execMgSensors, mgCode_of_served hon (by simp only [List.mem_cons, List.not_mem_nil]; omega)]

theorem exec_mgFaults (hlo : 3 ≤ s.boot.stage) (hhi : s.boot.stage ≤ 8) (start : Nat) : exec (.mgFaults true start) s =
    .next (mgReply s mgOk (le 4 (((faultWords s).head?.map (fld · 0 31)).getD s.logs.fseq) ++ le 4 s.logs.fseq ++
      ((((faultWords s).filter fun w => fld w 0 31 == start || seqBefore start (fld w 0 31)).take 3).map (le 64)).flatten)) := by
  have hrun : exec (.mgFaults true start) s = execMgFaults true start s := rfl
  rw [hrun, execMgFaults, mgCode_of_served hon (by simp only [List.mem_cons, List.not_mem_nil]; omega)]

/-- The reply to MG_EVENTS: the bounds of the port's ring, and two entries of it at most. -/
def mgEventsReply (s : State) (start : Nat) : State :=
  mgReply s mgOk (le 4 (ringOldest s.logs.mgRing s.logs.mgLseq) ++ le 4 s.logs.mgLseq ++
    (((ringFrom s.logs.mgRing start).take 2).map fun e => le 96 (logEntryWord e)).flatten)

theorem exec_mgEvents (hstage : s.boot.stage ∈ [3, 4, 5, 6, 8]) (start : Nat) : exec (.mgEvents true start) s =
    .next (match ((ringFrom s.logs.mgRing start).take 2).getLast? with
      | some e => if seqBefore e.lseq s.logs.mgRead then mgEventsReply s start
        else { mgEventsReply s start with logs := { s.logs with mgRead := wrap 32 (e.lseq + 1) } }
      | none => mgEventsReply s start) := by
  have hrun : exec (.mgEvents true start) s = execMgEvents true start s := rfl
  rw [hrun, execMgEvents, mgCode_of_served hon hstage]
  rfl

theorem exec_mgSelftest (hlo : 4 ≤ s.boot.stage) (hhi : s.boot.stage ≤ 8) (first : Nat) : exec (.mgSelftest true first) s =
    .next (mgReply s mgOk (((s.boot.bootRecs.drop first).take 5).map fun r => le 48 (bistWord r)).flatten) := by
  have hrun : exec (.mgSelftest true first) s = execMgSelftest true first s := rfl
  rw [hrun, execMgSelftest, mgCode_of_served hon (by simp only [List.mem_cons, List.not_mem_nil]; omega)]

/-! What acts on the module (R489, R548). -/

theorem exec_mgRestart (hstage : s.boot.stage ≤ 8) : exec (.mgRestart true) s = .next (askRestart (mgReply s mgOk []) s.now 6) := by
  have hrun : exec (.mgRestart true) s = execMgRestart true s := rfl
  rw [hrun, execMgRestart, mgCode_of_served hon (by simp only [List.mem_cons, List.not_mem_nil]; omega)]

theorem exec_mgWake {t : Option Nat} (hstage : s.boot.stage = 6) (hstandby : s.pwr.standbyUntil = some t) :
    exec (.mgWake true) s = .next (mgReply (leaveStandby s) mgOk []) := by
  have hrun : exec (.mgWake true) s = execMgWake true s := rfl
  rw [hrun, execMgWake, mgCode_of_served hon (by simp [hstage]), hstandby]
  rfl

theorem exec_mgAdminMove {b : Nat} (hstage : s.boot.stage = 6) (hmay : mgMayAdmin s = true) (hopen : s.storeOpen)
    (hlive : basinLive s b = true) (hstays : inTeardown s b = false) :
    exec (.mgAdminMove true b) s = .next (mgReply (moveAdmin s b) mgOk []) := by
  have hrun : exec (.mgAdminMove true b) s = execMgAdminMove true b s := rfl
  rw [hrun, execMgAdminMove, mgCode_of_served hon (by simp [hstage])]
  simp [hmay, hopen.1, hopen.2, hlive, hstays]

/-! The host record of the administration basin, in pieces (R547). -/

section AdminHosts

variable {offset : Nat} {piece buf : List Byte} (hstage : s.boot.stage = 6) (hmay : mgMayAdmin s = true) (hlo : 1 ≤ piece.length)
  (hhi : piece.length ≤ 240) (hbuf : (if offset = 0 then [] else s.mgmt.hostBuf) = buf) (hnext : offset = buf.length)
include hstage hmay hlo hhi hbuf hnext

theorem exec_mgAdminHosts_of_part (hpart : (buf ++ piece).length < 8 ∨ (buf ++ piece).length < hostRecLen (buf ++ piece)) :
    exec (.mgAdminHosts true offset piece) s =
      .next (mgReply (setMgmt s fun m => { m with hostBuf := buf ++ piece, hostAt := some s.now }) mgOk []) := by
  have hrun : exec (.mgAdminHosts true offset piece) s = execMgAdminHosts true offset piece s := rfl
  have hfull : (decide (8 ≤ (buf ++ piece).length) && (buf ++ piece).length == hostRecLen (buf ++ piece)) = false := by
    rw [Bool.and_eq_false_iff, decide_eq_false_iff_not, beq_eq_false_iff_ne]
    omega
  have hlong : (decide (8 ≤ (buf ++ piece).length) && decide (hostRecLen (buf ++ piece) < (buf ++ piece).length)) = false := by
    rw [Bool.and_eq_false_iff, decide_eq_false_iff_not, decide_eq_false_iff_not]
    omega
  have hpiece : (piece.isEmpty || decide (240 < piece.length)) = false := by
    cases piece with
    | nil => simp at hlo
    | cons c l => simpa using hhi
  rw [hrun, execMgAdminHosts]
  simp only [hbuf, mgCode_of_served hon (stages := [6]) (by simp [hstage]), hmay, hfull, hlong, hpiece, ← hnext, bne_self_eq_false]
  rfl

theorem exec_mgAdminHosts_of_whole (hsize : 8 ≤ (buf ++ piece).length) (hwhole : (buf ++ piece).length = hostRecLen (buf ++ piece))
    (hopen : s.storeOpen) (hcheck : hostsCheck s s.admin (buf ++ piece) = stOk) : exec (.mgAdminHosts true offset piece) s =
      .next (mgReply (setHosts (dropHostBuf s) s.admin (buf ++ piece)) mgOk []) := by
  have hrun : exec (.mgAdminHosts true offset piece) s = execMgAdminHosts true offset piece s := rfl
  have hfull : (decide (8 ≤ (buf ++ piece).length) && (buf ++ piece).length == hostRecLen (buf ++ piece)) = true := by
    rw [← hwhole, decide_eq_true hsize, beq_self_eq_true]
    rfl
  have hlong : (decide (8 ≤ (buf ++ piece).length) && decide (hostRecLen (buf ++ piece) < (buf ++ piece).length)) = false := by
    rw [← hwhole]
    simp
  have hpiece : (piece.isEmpty || decide (240 < piece.length)) = false := by
    cases piece with
    | nil => simp at hlo
    | cons c l => simpa using hhi
  have hends : finishHosts s (buf ++ piece) = mgReply (setHosts (dropHostBuf s) s.admin (buf ++ piece)) mgOk [] := by
    have hgood : (dropHostBuf s).store.faulted = false := hopen.2
    have hcheck' : hostsCheck (dropHostBuf s) s.admin (buf ++ piece) = stOk := hcheck
    have hadmin : (dropHostBuf s).admin = s.admin := rfl
    simp [finishHosts, hgood, hadmin, hcheck']
  rw [hrun, execMgAdminHosts]
  simp only [hbuf, mgCode_of_served hon (stages := [6]) (by simp [hstage]), hmay, hfull, hlong, hpiece, ← hnext, bne_self_eq_false,
    hopen.1, Bool.not_true, Bool.and_false, Bool.false_eq_true, if_false, Bool.or_false, if_true, hends]

end AdminHosts

omit hon in
theorem exec_mgAdminHostsTimeout (hdue : s.mgmt.hostAt.any (· + 10000000000 ≤ s.now) = true) :
    exec .mgAdminHostsTimeout s = .next (dropHostBuf s) := by
  have hrun : exec .mgAdminHostsTimeout s = execMgAdminHostsTimeout s := rfl
  rw [hrun, execMgAdminHostsTimeout, hdue, if_pos rfl]

/-! The recovery of an image (R508). -/

theorem exec_mgImage {offset : Nat} {chunk : List Byte} (hstage : s.boot.stage = 7) (halign : offset % 240 = 0)
    (hin : offset < 67108864) (hlen : chunk.length = 240) : exec (.mgImage true offset chunk) s =
      .next (mgReply (setMgmt (putSlotImage s 0 []) fun m => { m with
        imageChunks := dropW (fun c => c.1 == offset) m.imageChunks ++ [(offset, chunk)] }) mgOk []) := by
  have hrun : exec (.mgImage true offset chunk) s = execMgImage true offset chunk s := rfl
  rw [hrun, execMgImage, mgCode_of_served hon (by simp [hstage])]
  simp [halign, Nat.not_le.2 hin, hlen]

theorem exec_mgImageCommit {len : Nat} (hstage : s.boot.stage = 7) (hlen : len ≤ 67108864) (hopen : s.storeOpen) :
    let img := programmed s len
    let u := setMgmt s fun m => { m with imageChunks := [] }
    let v := putSlotImage u 0 img
    let v := storeWriteNow v (slotRecord (slotWith (slotWord v) 0 false 0 (some (0, imgFld img 32 63))))
    exec (.mgImageCommit true len) s = .next (if fwCheck u img = stOk then askRestart (mgReply v mgOk []) v.now 6
      else mgReply (putSlotImage u 0 []) mgInvalid []) := by
  have hrun : exec (.mgImageCommit true len) s = execMgImageCommit true len s := rfl
  rw [hrun, execMgImageCommit, mgCode_of_served hon (by simp [hstage])]
  by_cases hok : fwCheck (setMgmt s fun m => { m with imageChunks := [] }) (programmed s len) = stOk
  · simp [hopen.1, hlen, hopen.2, hok]
  · simp [hopen.1, hlen, hopen.2, hok]

/-! A wrong PEC and a bus that hangs (R549, R554). -/

theorem exec_of_badPec (n : Nat) (l : List Byte) {c : Instr} (hc : c ∈ [Instr.mgStatus false, .mgSensors false, .mgEvents false n,
      .mgFaults false n, .mgSelftest false n, .mgRestart false, .mgWake false, .mgAdminHosts false n l, .mgAdminMove false n,
      .mgImage false n l, .mgImageCommit false n]) : exec c s = .next (mgReply (pecFailed s) mgPec []) := by
  simp only [List.mem_cons, List.not_mem_nil, or_false] at hc
  obtain rfl | rfl | rfl | rfl | rfl | rfl | rfl | rfl | rfl | rfl | rfl := hc <;>
    simp only [exec, execMgStatus, execMgSensors, execMgEvents, execMgFaults, execMgSelftest, execMgRestart, execMgWake, execMgAdminHosts,
      execMgAdminMove, execMgImage, execMgImageCommit, mgCode_of_badPec hon, Bool.false_and, Bool.false_eq_true, if_false]

theorem exec_mgBusTimeout : exec .mgBusTimeout s =
    .next (raise (setMgmt s fun m => { m with busResets := m.busResets + 1 }) srcStewipen evPwrSensorFail [0xFF, 3] []) := by
  have hrun : exec .mgBusTimeout s = execMgBusTimeout s := rfl
  rw [hrun, execMgBusTimeout, hon]
  rfl

end Management

/-- Settles O60: each code by its own lemma. -/
theorem managementCodesComplete : Obligations.ManagementCodesComplete := by
  unfold Obligations.ManagementCodesComplete
  intro s hon
  refine ⟨exec_mgStatus hon, fun hlo hhi => ⟨exec_mgSensors hon hlo hhi, exec_mgFaults hon hlo hhi⟩, fun start hstage => ?events,
    fun first hlo hhi => exec_mgSelftest hon hlo hhi first, exec_mgRestart hon, fun t => exec_mgWake hon,
    fun offset piece hstage hmay hlo hhi hnext => ⟨exec_mgAdminHosts_of_part hon hstage hmay hlo hhi rfl hnext,
      exec_mgAdminHosts_of_whole hon hstage hmay hlo hhi rfl hnext⟩,
    exec_mgAdminHostsTimeout, fun b => exec_mgAdminMove hon, fun offset chunk => exec_mgImage hon, fun len => exec_mgImageCommit hon,
    fun n l c => exec_of_badPec hon n l, exec_mgBusTimeout hon⟩
  case events =>
    have hx := exec_mgEvents hon hstage start
    refine ⟨fun hnone => ?_, fun e hlast hnew => ?_⟩
    · rw [hx, hnone, mgEventsReply, hnone]
      rfl
    · rw [hx, hlast]
      simp only [hnew, Bool.false_eq_true, if_false]
      rfl

end Sys2Proof.Proofs
end

section
namespace Sys2Proof.Proofs
open Machine Laws

/-! ### The runnels on the way of a step

Of the parts of a step on an empty queue only `readEndpoints` changes `runnels` (R413). One equation per function that the other parts
call, in the order of their definitions. -/

theorem runnels_of_core {s t : State} (h : t.core = s.core) : t.runnels = s.runnels := (congrArg State.runnels h :)

@[simp] theorem foldl_runnels {α : Type} {f : State → α → State} (hf : ∀ s x, (f s x).runnels = s.runnels) (l : List α) (s : State) :
    (l.foldl f s).runnels = s.runnels := foldl_keeps hf l s

@[simp] theorem ite_runnels {c : Prop} [Decidable c] (s t : State) :
    (if c then s else t).runnels = if c then s.runnels else t.runnels := apply_ite ..

/-- What a pair's second state keeps, kept by the state taken out of the pair. -/
theorem runnels_of_snd {α : Type} {p : α × State} {a : α} {s t : State} (h : p = (a, t)) (hp : p.2.runnels = s.runnels) :
    t.runnels = s.runnels := by
  subst h; exact hp

@[simp] theorem gotState_ok_runnels {α : Type} (a : α) (s : State) : (gotState (.ok a s)).runnels = s.runnels := rfl

@[simp] theorem gotState_stop_runnels {α : Type} (s : State) : (gotState (.stop s : Got α)).runnels = s.runnels := rfl

/-- The same for the state that an access leaves which was done, and for the one that a stopped access leaves. -/
theorem runnels_of_ok {α : Type} {g : Got α} {a : α} {s t : State} (h : g = .ok a t) (hg : (gotState g).runnels = s.runnels) :
    t.runnels = s.runnels := by
  subst h; exact hg

theorem runnels_of_stop {α : Type} {g : Got α} {s t : State} (h : g = .stop t) (hg : (gotState g).runnels = s.runnels) :
    t.runnels = s.runnels := by
  subst h; exact hg

@[simp] theorem drawPick_runnels (s : State) : (drawPick s).2.runnels = s.runnels := rfl

@[simp] theorem setLink_runnels (s : State) (b : Nat) (f : Link → Link) : (setLink s b f).runnels = s.runnels := rfl

@[simp] theorem setFlow_runnels (s : State) (b f : Nat) (g : Flow → Flow) :
    (setFlow s b f g).runnels = s.runnels := runnels_of_core (setFlow_core ..)

@[simp] theorem count_runnels (s : State) (set index basin field n : Nat) :
    (count s set index basin field n).runnels = s.runnels := runnels_of_core (count_core ..)

@[simp] theorem setFord_runnels (s : State) (n : Nat) (f : Ford → Ford) : (setFord s n f).runnels = s.runnels := rfl

@[simp] theorem putLm_runnels (s : State) (n : Nat) (fr : LmFrame) : (putLm s n fr).runnels = s.runnels := rfl

@[simp] theorem sendOne_runnels (s : State) (fr : LmFrame) : (sendOne s fr).runnels = s.runnels := by
  unfold sendOne; split <;> simp

@[simp] theorem sendLm_runnels (s : State) (l : List LmFrame) : (sendLm s l).runnels = s.runnels := by
  simp [sendLm]

@[simp] theorem sendWaiting_runnels (s : State) : (sendWaiting s).runnels = s.runnels := by
  simp [sendWaiting]

@[simp] theorem giveCredits_runnels (s : State) (chan : Nat) (l : List (Nat × Nat)) : (giveCredits s chan l).runnels = s.runnels := by
  simp [giveCredits]

@[simp] theorem setDom_runnels (s : State) (d : Nat) (f : Dom → Dom) : (setDom s d f).runnels = s.runnels := rfl

@[simp] theorem emitSegment_runnels (s : State) (b f kind seq : Nat) (syn more retx : Bool) (maxpay port ip : Nat)
    (payload : List Byte) :
    (emitSegment s b f kind seq syn more retx maxpay port ip payload).runnels = s.runnels := runnels_of_core (emitSegment_core ..)

@[simp] theorem noteFinals_runnels (s : State) (b : Nat) (m : Msg) :
    (noteFinals s b m).runnels = s.runnels := runnels_of_core (noteFinals_core ..)

@[simp] theorem sendNext_runnels (s : State) (b f : Nat) : (sendNext s b f).runnels = s.runnels := runnels_of_core (sendNext_core ..)

@[simp] theorem sendSome_runnels (s : State) (b f fuel : Nat) :
    (sendSome s b f fuel).runnels = s.runnels := runnels_of_core (sendSome_core ..)

@[simp] theorem loseEgress_runnels (s : State) (b : Nat) (p : QMsg → Bool) :
    (loseEgress s b p).runnels = s.runnels := runnels_of_core (loseEgress_core ..)

@[simp] theorem markBlocked_runnels (s : State) (b f : Nat) :
    (markBlocked s b f).runnels = s.runnels := runnels_of_core (markBlocked_core ..)

@[simp] theorem pump_runnels (s : State) (b f : Nat) : (pump s b f).runnels = s.runnels := runnels_of_core (pump_core ..)

@[simp] theorem sendUnits_runnels (s : State) (b : Nat) (job : Option (Nat × Nat × Nat)) (l : List LmFrame) :
    (sendUnits s b job l).runnels = s.runnels := rfl

@[simp] theorem enqueueAs_runnels (s : State) (b f : Nat) (m : Msg) (measure : List Measure) (blocked : Bool) :
    (enqueueAs s b f m measure blocked).runnels = s.runnels := by
  simp [enqueueAs]

@[simp] theorem enqueue_runnels (s : State) (b f : Nat) (m : Msg) (measure : List Measure) :
    (enqueue s b f m measure).runnels = s.runnels := runnels_of_core (enqueue_core ..)

@[simp] theorem queueRsp_runnels (s : State) (b : Nat) (m : Msg) :
    (queueRsp s b m).runnels = s.runnels := runnels_of_core (queueRsp_core ..)

@[simp] theorem queueData_runnels (s : State) (b : Nat) (m : Msg) : (queueData s b m).runnels = s.runnels := by
  simp [queueData]

@[simp] theorem reply_runnels (s : State) (h : Hdr) (opcode status : Nat) (data : List Field) :
    (reply s h opcode status data).runnels = s.runnels := runnels_of_core (reply_core ..)

@[simp] theorem gatherEvt_runnels (s : State) (b : Nat) (e : EvtRec) :
    (gatherEvt s b e).runnels = s.runnels := runnels_of_core (gatherEvt_core ..)

@[simp] theorem deliverEvt_runnels (s : State) (own : List Nat) (e : EvtRec) :
    (deliverEvt s own e).runnels = s.runnels := runnels_of_core (deliverEvt_core ..)

@[simp] theorem raise_runnels (s : State) (src code : Nat) (payload own : List Nat) :
    (raise s src code payload own).runnels = s.runnels := runnels_of_core (raise_core ..)

@[simp] theorem storeAsk_runnels (s : State) (r : StoreRec) : (storeAsk s r).runnels = s.runnels := runnels_of_core (storeAsk_core ..)

@[simp] theorem faultRecord_runnels (s : State) (f : FaultRec) :
    (faultRecord s f).runnels = s.runnels := runnels_of_core (faultRecord_core ..)

@[simp] theorem stepFaultRecord_runnels (s : State) (basin job : Nat) (f : Flt) :
    (stepFaultRecord s basin job f).runnels = s.runnels := runnels_of_core (stepFaultRecord_core ..)

@[simp] theorem otherFaultRecord_runnels (s : State) (kind src status : Nat) (basin : Option Nat) (job aux addr arg0 arg1 : Nat) :
    (otherFaultRecord s kind src status basin job aux addr arg0 arg1).runnels = s.runnels := runnels_of_core (otherFaultRecord_core ..)

@[simp] theorem sendData_runnels (s : State) (b addr xid : Nat) (bs : List Byte) : (sendData s b addr xid bs).runnels = s.runnels := by
  simp [sendData]

@[simp] theorem deferCmd_runnels (s : State) (d : Deferred) : (deferCmd s d).runnels = s.runnels := rfl

@[simp] theorem answerDeferred_runnels (s : State) (b : Nat) (p : Deferred → Bool) (status : Nat) (data : List Field) :
    (answerDeferred s b p status data).runnels = s.runnels := by
  simp [answerDeferred]

@[simp] theorem setPage_runnels (s : State) (b p : Nat) (f : PageEnt → PageEnt) : (setPage s b p f).runnels = s.runnels := rfl

@[simp] theorem takeFrame_runnels (s : State) (tier : Nat) : (takeFrame s tier).2.runnels = s.runnels := by
  unfold takeFrame; dsimp only; split <;> simp

@[simp] theorem raiseTrunk_runnels (s : State) (code : Nat) (payload own : List Nat) :
    (raiseTrunk s code payload own).runnels = s.runnels := runnels_of_core (raiseTrunk_core ..)

@[simp] theorem countError_runnels (s : State) (tier field rereads : Nat) : (countError s tier field rereads).runnels = s.runnels := by
  simp [countError]

@[simp] theorem countRetired_runnels (s : State) (tier : Nat) : (countRetired s tier).runnels = s.runnels := by
  simp [countRetired]

@[simp] theorem retireFrame_runnels (s : State) (tier f cause : Nat) : (retireFrame s tier f cause).runnels = s.runnels := by
  simp [retireFrame]

@[simp] theorem noteRetiring_runnels (s : State) (tier f : Nat) : (noteRetiring s tier f).runnels = s.runnels := by
  simp [noteRetiring]

@[simp] theorem markRetiring_runnels (s : State) (tier f : Nat) : (markRetiring s tier f).runnels = s.runnels := by
  simp [markRetiring]

@[simp] theorem releasePage_runnels (s : State) (b obj tier f : Nat) (page : Option PageEnt) :
    (releasePage s b obj tier f page).runnels = s.runnels := by
  simp [releasePage]

@[simp] theorem releaseFrame_runnels (s : State) (b obj tier f : Nat) : (releaseFrame s b obj tier f).runnels = s.runnels := by
  simp [releaseFrame]

@[simp] theorem leaveLend_runnels (s : State) (b p : Nat) : (leaveLend s b p).runnels = s.runnels := rfl

@[simp] theorem unmapObj_runnels (s : State) (b obj p : Nat) : (unmapObj s b obj p).runnels = s.runnels := by
  unfold unmapObj; dsimp only; (repeat' split) <;> simp

@[simp] theorem unmapPage_runnels (s : State) (b p : Nat) : (unmapPage s b p).runnels = s.runnels := by
  simp [unmapPage]

@[simp] theorem tierPut_runnels (s : State) (b addr : Nat) (v : Byte) : (tierPut s b addr v).runnels = s.runnels := by
  unfold tierPut; split <;> rfl

@[simp] theorem tierPuts_runnels (s : State) (b addr : Nat) (bs : List Byte) : (tierPuts s b addr bs).runnels = s.runnels := by
  induction bs generalizing s b addr with
  | nil => rfl
  | cons z zs ih => simp [tierPuts, ih]

@[simp] theorem lentUnit_runnels (s : State) (e : PageEnt) (isWrite : Bool) (k : Nat) :
    (lentUnit s e isWrite k).runnels = s.runnels := by
  unfold lentUnit; split <;> rfl

@[simp] theorem lentGet_runnels (s : State) (e : PageEnt) (who unit addr : Nat) :
    (lentGet s e who unit addr).2.runnels = s.runnels := by
  unfold lentGet; dsimp only; (repeat' split) <;> simp

@[simp] theorem lentRanges_runnels (s : State) (b : Nat) (l : List (Nat × Nat)) (who unit : Nat) :
    (lentRanges s b l who unit).2.runnels = s.runnels := by
  unfold lentRanges; dsimp only; split <;> simp

@[simp] theorem lentRange_runnels (s : State) (b addr len who unit : Nat) :
    (lentRange s b addr len who unit).2.runnels = s.runnels := by
  simp [lentRange]

@[simp] theorem lentAnswer_runnels (s : State) (b index off : Nat) (data : Option (List Byte)) :
    (lentAnswer s b index off data).runnels = s.runnels := by
  unfold lentAnswer; dsimp only; (repeat' split) <;> simp

@[simp] theorem askMove_runnels (s : State) (b p tier rank : Nat) : (askMove s b p tier rank).runnels = s.runnels := rfl

@[simp] theorem poisonPage_runnels (s : State) (b p : Nat) : (poisonPage s b p).runnels = s.runnels := rfl

@[simp] theorem raisePoisoned_runnels (s : State) (e : PageEnt) (reader : Nat) : (raisePoisoned s e reader).runnels = s.runnels := by
  simp [raisePoisoned]

@[simp] theorem setJob_runnels (s : State) (b n : Nat) (f : Job → Job) : (setJob s b n f).runnels = s.runnels := rfl

@[simp] theorem endJob_runnels (s : State) (b n status : Nat) : (endJob s b n status).runnels = s.runnels := by
  unfold endJob; split <;> simp

@[simp] theorem setKv_runnels (s : State) (b : Nat) (f : Kv → Kv) : (setKv s b f).runnels = s.runnels := rfl

@[simp] theorem setRow_runnels (s : State) (b id : Nat) (f : Row → Row) : (setRow s b id f).runnels = s.runnels := rfl

@[simp] theorem clearRowPage_runnels (s : State) (b p : Nat) : (clearRowPage s b p).runnels = s.runnels := by
  unfold clearRowPage; split <;> simp

@[simp] theorem clearRow_runnels (s : State) (b id : Nat) : (clearRow s b id).runnels = s.runnels := by
  unfold clearRow; split <;> simp

@[simp] theorem rowSettled_runnels (s : State) (b id : Nat) : (rowSettled s b id).runnels = s.runnels := by
  unfold rowSettled; repeat' split
  all_goals simp

@[simp] theorem moveRow_runnels (s : State) (b id tier rank : Nat) : (moveRow s b id tier rank).runnels = s.runnels := by
  unfold moveRow; split <;> simp

@[simp] theorem freeNode_runnels (s : State) (b : Nat) (n : Node) : (freeNode s b n).runnels = s.runnels := by
  simp [freeNode]

@[simp] theorem freeLeaves_runnels (s : State) (b tier : Nat) (more : State → Bool) (fuel : Nat) :
    (freeLeaves s b tier more fuel).runnels = s.runnels := by
  induction fuel generalizing s with
  | zero => rfl
  | succ n ih =>
    rw [freeLeaves]; repeat' split
    all_goals simp [ih]

@[simp] theorem sweepKv_runnels (s : State) (b : Nat) : (sweepKv s b).runnels = s.runnels := by
  simp [sweepKv]

@[simp] theorem endConv_runnels (s : State) (b c reason : Nat) : (endConv s b c reason).runnels = s.runnels := by
  unfold endConv; split
  · rfl
  · dsimp only; split <;> simp

@[simp] theorem endForRoom_runnels (s : State) (b : Nat) (more : State → Bool) (fuel : Nat) :
    (endForRoom s b more fuel).runnels = s.runnels := by
  induction fuel generalizing s with
  | zero => rfl
  | succ n ih =>
    rw [endForRoom]; repeat' split
    all_goals simp [ih]

@[simp] theorem bwRoom_runnels (s : State) (b n : Nat) : (bwRoom s b n).2.runnels = s.runnels := by
  unfold bwRoom; dsimp only; (repeat' split) <;> simp

@[simp] theorem rowsOut_runnels (s : State) (b rank : Nat) (ids : List Nat) : (rowsOut s b rank ids).2.runnels = s.runnels := by
  unfold rowsOut; dsimp only; split
  case h_1 h => exact runnels_of_snd h (bwRoom_runnels ..)
  case h_2 h => simp [runnels_of_snd h (bwRoom_runnels ..)]

@[simp] theorem setVariant_runnels (s : State) (b vid : Nat) (f : Variant → Variant) : (setVariant s b vid f).runnels = s.runnels := rfl

@[simp] theorem blockVariant_runnels (s : State) (v : Variant) (p : Nat) : (blockVariant s v p).runnels = s.runnels := by
  simp [blockVariant]

@[simp] theorem blockVariants_runnels (s : State) (b p : Nat) : (blockVariants s b p).runnels = s.runnels := by
  simp [blockVariants]

@[simp] theorem poisonModel_runnels (s : State) (e : PageEnt) (reader : Nat) (mark : Bool) :
    (poisonModel s e reader mark).runnels = s.runnels := by
  simp [poisonModel]

@[simp] theorem setStep_runnels (s : State) (sid : Nat) (f : Step → Step) : (setStep s sid f).runnels = s.runnels := rfl

@[simp] theorem setUnits_runnels (s : State) (sid : Nat) (f : Units → Units) : (setUnits s sid f).runnels = s.runnels := rfl

@[simp] theorem haltUnit_runnels (s : State) (sid unit : Nat) : (haltUnit s sid unit).runnels = s.runnels := rfl

@[simp] theorem stepFlt_runnels (s : State) (t : Step) (f : Flt) : (stepFlt s t f).runnels = s.runnels := by
  simp [stepFlt]

@[simp] theorem descFault_runnels (s : State) (t : Step) (src status i addr : Nat) :
    (descFault s t src status i addr).runnels = s.runnels := by
  simp [descFault]

@[simp] theorem countUnit_runnels (s : State) (place field : Nat) : (countUnit s place field).runnels = s.runnels := by
  simp [countUnit]

@[simp] theorem setEddy_runnels (s : State) (sid eid : Nat) (f : Eddy → Eddy) : (setEddy s sid eid f).runnels = s.runnels := rfl

@[simp] theorem touch_runnels (s : State) (b page : Nat) : (touch s b page).runnels = s.runnels := by
  simp [touch]

@[simp] theorem lentRead_runnels (s : State) (t : Step) (unit page addr : Nat) :
    (lentRead s t unit page addr).2.runnels = s.runnels := by
  unfold lentRead; repeat' split
  all_goals simp

@[simp] theorem touchUnit_runnels (s : State) (a : Acc3) (isWrite : Bool) (addr : Nat) :
    (gotState (touchUnit s a isWrite addr)).runnels = s.runnels := by
  unfold touchUnit; split
  · rfl
  extract_lets fin
  have hlent (s : State) (t : Step) (page addr : Nat) :
      (if isWrite then (LentOut.here, s) else lentRead s t a.unit page addr).2.runnels = s.runnels := by
    split <;> simp
  have hfin (s : State) (t : Step) (addr : Nat) : (gotState (fin s t addr)).runnels = s.runnels := by
    simp only [fin]; split
    · dsimp only [gotState_stop]; split <;> simp
    · split
      case h_1 h => simp [runnels_of_snd h (hlent ..)]
      case h_2 h => exact runnels_of_snd h (hlent ..)
      case h_3 h => simp [runnels_of_snd h (hlent ..)]
  have hcount (o : Option Nat) : (match o with
      | some x => if a.unit % 16 = 0 then count s 0 a.src 0 5 (s.now - x) else s
      | none => s).runnels = s.runnels := by
    repeat' split
    all_goals simp
  split
  · exact hfin ..
  · extract_lets d
    split
    · rw [hfin, setEddy_runnels]; exact hcount _
    · simp
    · simp

@[simp] theorem lentTraffic_runnels (s : State) (place : Nat) : (lentTraffic s place).runnels = s.runnels := by
  unfold lentTraffic; dsimp only; (repeat' split) <;> simp

@[simp] theorem keepPiece_runnels (s : State) (a : Acc3) (isWrite : Bool) (cuts : List (Nat × Nat)) (done : Nat) (bytes : List Byte) :
    (keepPiece s a isWrite cuts done bytes).runnels = s.runnels := rfl

@[simp] theorem endPiece_runnels (s : State) (a : Acc3) : (endPiece s a).runnels = s.runnels := rfl

@[simp] theorem readCuts_runnels (a : Acc3) (cuts : List (Nat × Nat)) (k : Nat) (acc : List Byte) (todo : List (Nat × Nat))
    (s : State) :
    (gotState (readCuts a cuts k acc todo s)).runnels = s.runnels := by
  induction todo generalizing k acc s with
  | nil => simp [readCuts]
  | cons c l ih =>
    obtain ⟨addr, n⟩ := c
    rw [readCuts]; split
    case h_1 h => simp [runnels_of_stop h (touchUnit_runnels ..)]
    case h_2 h => rw [ih]; exact runnels_of_ok h (touchUnit_runnels ..)

@[simp] theorem writeCuts_runnels (a : Acc3) (cuts : List (Nat × Nat)) (k : Nat) (todo : List (Nat × Nat)) (bs : List Byte)
    (s : State) :
    (gotState (writeCuts a cuts k todo bs s)).runnels = s.runnels := by
  induction todo generalizing k bs s with
  | nil => simp [writeCuts]
  | cons c l ih =>
    obtain ⟨addr, n⟩ := c
    rw [writeCuts]; split
    case h_1 h => simp [runnels_of_stop h (touchUnit_runnels ..)]
    case h_2 h => simp [ih, runnels_of_ok h (touchUnit_runnels ..)]

@[simp] theorem readPieces_runnels (s : State) (a : Acc3) (cuts : List (Nat × Nat)) :
    (gotState (readPieces s a cuts)).runnels = s.runnels := by
  simp [readPieces]

@[simp] theorem writePieces_runnels (s : State) (a : Acc3) (cuts : List (Nat × Nat)) (bs : List Byte) :
    (gotState (writePieces s a cuts bs)).runnels = s.runnels := by
  unfold writePieces; dsimp only; split
  case h_1 h => simp [runnels_of_ok h (writeCuts_runnels ..)]
  case h_2 h => exact runnels_of_stop h (writeCuts_runnels ..)

@[simp] theorem wideRead_runnels (s : State) (a : Acc3) (addr n : Nat) : (gotState (wideRead s a addr n)).runnels = s.runnels := by
  unfold wideRead; split
  case h_1 h => simp [runnels_of_ok h (readPieces_runnels ..)]
  case h_2 h => exact runnels_of_stop h (readPieces_runnels ..)

@[simp] theorem wideWrite_runnels (s : State) (a : Acc3) (addr : Nat) (bs : List Byte) :
    (gotState (wideWrite s a addr bs)).runnels = s.runnels := by
  simp [wideWrite]

@[simp] theorem runRead_runnels (s : State) (h : Hdr) (addr len xid : Nat) : (runRead s h addr len xid).runnels = s.runnels := by
  simp [runRead]

@[simp] theorem readOrWait_runnels (s : State) (h : Hdr) (addr len xid : Nat) : (readOrWait s h addr len xid).runnels = s.runnels := by
  unfold readOrWait; split
  case h_1 h => simp [runnels_of_snd h (lentRange_runnels ..)]
  case h_2 h => simp [runnels_of_snd h (lentRange_runnels ..)]
  case h_3 h => simp [runnels_of_snd h (lentRange_runnels ..)]

@[simp] theorem settleReads_runnels (s : State) (b : Nat) : (settleReads s b).runnels = s.runnels := by
  refine foldl_runnels (fun s d => ?_) _ s
  dsimp only; split <;> simp

@[simp] theorem setReq_runnels (s : State) (b tag : Nat) (f : Request → Request) : (setReq s b tag f).runnels = s.runnels := rfl

@[simp] theorem pauseConv_runnels (s : State) (b : Nat) (r : Request) : (pauseConv s b r).runnels = s.runnels := by
  simp [pauseConv]

@[simp] theorem markEnded_runnels (s : State) (b tag status : Nat) : (markEnded s b tag status).runnels = s.runnels := rfl

@[simp] theorem endReq_runnels (s : State) (b tag status : Nat) (release : Bool) :
    (endReq s b tag status release).runnels = s.runnels := by
  unfold endReq; split <;> simp

@[simp] theorem endOff_runnels (s : State) (b tag status : Nat) (release : Bool) :
    (endOff s b tag status release).runnels = s.runnels := by
  unfold endOff; split <;> simp

@[simp] theorem setTrain_runnels (s : State) (b tid : Nat) (f : Train → Train) : (setTrain s b tid f).runnels = s.runnels := rfl

@[simp] theorem zeroF32_runnels (s : State) (b addr n : Nat) : (zeroF32 s b addr n).runnels = s.runnels := by
  simp [zeroF32]

@[simp] theorem eachUpd_runnels (s : State) (t : Train) (f : Model → Variant → Upd → WHdr → State → State)
    (hf : ∀ x y z w s, (f x y z w s).runnels = s.runnels) :
    (eachUpd s t f).runnels = s.runnels := by
  unfold eachUpd; split
  · refine foldl_runnels (fun s u => ?_) _ s
    split <;> simp [hf]
  · rfl

@[simp] theorem clearGacc_runnels (s : State) (t : Train) : (clearGacc s t).runnels = s.runnels := by
  simp [clearGacc]

@[simp] theorem stopTrain_runnels (s : State) (t : Train) (status : Nat) : (stopTrain s t status).runnels = s.runnels := by
  simp [stopTrain]

@[simp] theorem setXfer_runnels (s : State) (sid i : Nat) (f : Xfer → Xfer) : (setXfer s sid i f).runnels = s.runnels := rfl

@[simp] theorem askTransfer_runnels (s : State) (b sid : Nat) (d : BitVec 512) (i : Nat) :
    (askTransfer s b sid d i).runnels = s.runnels := rfl

@[simp] theorem sendTransfer_runnels (sid : Nat) (d : BitVec 512) (i fuel : Nat) (s : State) :
    (sendTransfer sid d i fuel s).runnels = s.runnels := by
  induction fuel generalizing s with
  | zero => rfl
  | succ n ih =>
    rw [sendTransfer]; split
    · rfl
    split
    · rfl
    split
    · rfl
    dsimp only; split
    case h_1 h => exact runnels_of_stop h (wideRead_runnels ..)
    case h_2 h => simp [ih, runnels_of_ok h (wideRead_runnels ..)]

@[simp] theorem serveTransfer_runnels (sid : Nat) (s : State) (x : Xfer) : (serveTransfer sid s x).runnels = s.runnels := by
  unfold serveTransfer; split <;> simp

@[simp] theorem sendTransfers_runnels (s : State) (sid : Nat) : (sendTransfers s sid).runnels = s.runnels := by
  unfold sendTransfers; split <;> simp

@[simp] theorem setReach_runnels (s : State) (sid p : Nat) (f : ReachCtx → ReachCtx) : (setReach s sid p f).runnels = s.runnels := rfl

@[simp] theorem setMat_runnels (s : State) (sid i : Nat) (f : MatCtx → MatCtx) : (setMat s sid i f).runnels = s.runnels := rfl

@[simp] theorem joined_runnels (s : State) (t : Step) (p i : Nat) (it : Item) (beats : Nat) (accs : List (Nat × List Acc))
    (exps : List Nat) (products : Nat) :
    (joined s t p i it beats accs exps products).runnels = s.runnels := by
  simp [joined]

@[simp] theorem putNode_runnels (s : State) (sid i tok row : Nat) (n : CNode) (v : PSum) :
    (putNode s sid i tok row n v).runnels = s.runnels := rfl

@[simp] theorem setEpi_runnels (s : State) (sid i : Nat) (f : EpiCtx → EpiCtx) : (setEpi s sid i f).runnels = s.runnels := rfl

@[simp] theorem putSum_runnels (s : State) (t : Step) (i tok row axis leaf : Nat) (code : BitVec 25) (p : Nat) :
    (putSum s t i tok row axis leaf code p).runnels = s.runnels := rfl

@[simp] theorem putResult_runnels (s : State) (t : Step) (i area off : Nat) (data : List Byte) :
    (putResult s t i area off data).runnels = s.runnels := by
  unfold putResult; dsimp only; split
  case h_1 h => exact runnels_of_stop h (wideWrite_runnels ..)
  case h_2 h => simp [runnels_of_ok h (wideWrite_runnels ..)]

@[simp] theorem setAtt_runnels (s : State) (sid i : Nat) (f : AttCtx → AttCtx) : (setAtt s sid i f).runnels = s.runnels := rfl

@[simp] theorem attFinish_runnels (s : State) (sid i : Nat) : (attFinish s sid i).runnels = s.runnels := by
  unfold attFinish; split
  · rfl
  dsimp only; split
  · rfl
  split
  case h_1 h => exact runnels_of_stop h (wideWrite_runnels ..)
  case h_2 h => simp [runnels_of_ok h (wideWrite_runnels ..)]

@[simp] theorem putPart_runnels (s : State) (sid i r h row : Nat) (n : CNode) (p : RowPart) :
    (putPart s sid i r h row n p).runnels = s.runnels := rfl

@[simp] theorem putAttPart_runnels (s : State) (t : Step) (i r h row leaf : Nat) (p : RowPart) :
    (putAttPart s t i r h row leaf p).runnels = s.runnels := by
  simp [putAttPart]

@[simp] theorem putAttRow_runnels (s : State) (t : Step) (i off : Nat) (data : List Byte) :
    (putAttRow s t i off data).runnels = s.runnels := by
  unfold putAttRow; dsimp only; split
  case h_1 h => exact runnels_of_stop h (wideWrite_runnels ..)
  case h_2 h => simp [runnels_of_ok h (wideWrite_runnels ..)]

@[simp] theorem windowReply_runnels (s : State) (a : WinAcc) (bs : List Byte) : (windowReply s a bs).runnels = s.runnels := rfl

@[simp] theorem idleLent_runnels (s : State) (a : WinAcc) : (idleLent s a).2.runnels = s.runnels := by
  unfold idleLent; split <;> simp

@[simp] theorem windowDenied_runnels (s : State) (a : WinAcc) : (windowDenied s a).runnels = s.runnels := rfl

@[simp] theorem idleDenied_runnels (s : State) (a : WinAcc) (st : Nat) : (idleDenied s a st).runnels = s.runnels := by
  simp [idleDenied]

@[simp] theorem unitAt_runnels (s : State) (a : WinAcc) (p : Nat) : (unitAt s a p).runnels = s.runnels := by
  simp [unitAt]

@[simp] theorem windowStop_runnels (s : State) (t : Step) (a : WinAcc) : (windowStop s t a).2.runnels = s.runnels := by
  unfold windowStop; split <;> rfl

@[simp] theorem windowUnit_runnels (s : State) (a : WinAcc) : (windowUnit s a).2.runnels = s.runnels := by
  unfold windowUnit; split
  · simp
  split
  · rfl
  split
  · dsimp only; split
    · split
      case h_1 h => simp [runnels_of_ok h (wideRead_runnels ..)]
      case h_2 h => simp [runnels_of_stop h (wideRead_runnels ..)]
    · split
      case h_1 h => simp [runnels_of_ok h (wideWrite_runnels ..)]
      case h_2 h => simp [runnels_of_stop h (wideWrite_runnels ..)]
  split
  · simp
  split
  case h_1 h => simp [runnels_of_snd h (idleLent_runnels ..)]
  case h_2 h => exact runnels_of_snd h (idleLent_runnels ..)
  case h_3 h => simp [runnels_of_snd h (idleLent_runnels ..)]

@[simp] theorem windowUnits_runnels (k : Nat) (a : WinAcc) (s : State) : (windowUnits k a s).2.runnels = s.runnels := by
  induction k generalizing a s with
  | zero => rfl
  | succ n ih =>
    rw [windowUnits]; split
    case h_1 h => rw [ih]; exact runnels_of_snd h (windowUnit_runnels ..)
    case h_2 h => exact runnels_of_snd h (windowUnit_runnels ..)
    case h_3 h => exact runnels_of_snd h (windowUnit_runnels ..)

@[simp] theorem serveWindows_runnels (s : State) : (serveWindows s).runnels = s.runnels := by
  simp [serveWindows]

@[simp] theorem acceptWindow_runnels (s : State) (a : WinAcc) : (acceptWindow s a).runnels = s.runnels := by
  simp [acceptWindow]

@[simp] theorem serveTransfers_runnels (s : State) : (serveTransfers s).runnels = s.runnels := by
  simp [serveTransfers]

@[simp] theorem takeTransfer_runnels (ford sx sy sz basin job wid : Nat) (isRead : Bool) (roff len : Nat) (data : List Byte)
    (part : Option (Nat × Nat × Nat)) (credits : List (Nat × Nat)) (s : State) :
    (takeTransfer ford sx sy sz basin job wid isRead roff len data part credits s).runnels = s.runnels := by
  unfold takeTransfer; dsimp only; (repeat' split) <;> simp

@[simp] theorem putWindowData_runnels (s : State) (t : Step) (i idx : Nat) (data : List Byte) :
    (putWindowData s t i idx data).runnels = s.runnels := by
  unfold putWindowData; dsimp only; split
  case h_1 h => exact runnels_of_stop h (wideWrite_runnels ..)
  case h_2 h => simp [runnels_of_ok h (wideWrite_runnels ..)]

@[simp] theorem windowRefusal_runnels (s : State) (t : Step) (i : Nat) : (windowRefusal s t i).runnels = s.runnels := by
  simp [windowRefusal]

@[simp] theorem setSliceId_runnels (s : State) (id : Nat) (f : Slice → Slice) : (setSliceId s id f).runnels = s.runnels := rfl

@[simp] theorem idleFords_runnels (s : State) (l : List Nat) : (idleFords s l).runnels = s.runnels := by
  simp [idleFords]

@[simp] theorem setStream_runnels (s : State) (t : Stream) : (setStream s t).runnels = s.runnels := rfl

@[simp] theorem admitUnit_runnels (s : State) (u : OutUnit) : (admitUnit s u).runnels = s.runnels := by
  unfold admitUnit; dsimp only; (repeat' split) <;> simp

@[simp] theorem countFlit_runnels (s : State) (n : Nat) (h : HubXfer) : (countFlit s n h).runnels = s.runnels := by
  unfold countFlit; split <;> simp

@[simp] theorem countWaits_runnels (s : State) : (countWaits s).runnels = s.runnels := by
  simp [countWaits]

@[simp] theorem sendFlit_runnels (s : State) (x : Slice) (h : HubXfer) (n : Nat) : (sendFlit s x h n).runnels = s.runnels := by
  simp [sendFlit]

@[simp] theorem serveDir_runnels (x : Slice) (chan : Nat) (s : State) (d : Nat) : (serveDir x chan s d).runnels = s.runnels := by
  unfold serveDir; dsimp only; split <;> simp

@[simp] theorem dropStreams_runnels (s : State) : (dropStreams s).runnels = s.runnels := rfl

@[simp] theorem admitUnits_runnels (held : Bool) (us : List OutUnit) (s : State) : (admitUnits held us s).runnels = s.runnels := by
  induction us generalizing held s with
  | nil => rfl
  | cons z zs ih => simp [admitUnits, ih]

@[simp] theorem hubTick_runnels (s : State) : (hubTick s).runnels = s.runnels := by
  simp [hubTick]

@[simp] theorem takePlace_runnels (s : State) (b p tier : Nat) : (takePlace s b p tier).2.runnels = s.runnels := by
  unfold takePlace; dsimp only; (repeat' split) <;> simp

@[simp] theorem loseReq_runnels (s : State) (b tag status : Nat) : (loseReq s b tag status).runnels = s.runnels := by
  unfold loseReq; split <;> simp

@[simp] theorem dropSubtree_runnels (s : State) (b row : Nat) : (dropSubtree s b row).runnels = s.runnels := by
  unfold dropSubtree; dsimp only; split <;> simp

@[simp] theorem loseRow_runnels (s : State) (b row status : Nat) : (loseRow s b row status).runnels = s.runnels := by
  unfold loseRow; dsimp only
  rw [sweepKv_runnels, foldl_runnels (fun _ _ => endConv_runnels ..), foldl_runnels (fun _ _ => loseReq_runnels ..),
    dropSubtree_runnels]

@[simp] theorem loseKvPage_runnels (s : State) (b p status : Nat) : (loseKvPage s b p status).runnels = s.runnels := by
  unfold loseKvPage; split <;> simp

@[simp] theorem loseDerived_runnels (s : State) (b p : Nat) : (loseDerived s b p).runnels = s.runnels := by
  unfold loseDerived; dsimp only; (repeat' split) <;> simp

@[simp] theorem poisonHome_runnels (s : State) (e : PageEnt) (reader : Nat) (mark : Bool) :
    (poisonHome s e reader mark).runnels = s.runnels := by
  unfold poisonHome; dsimp only; (repeat' split) <;> simp

@[simp] theorem askLend_runnels (s : State) (x y z basin job tier count : Nat) :
    (askLend s x y z basin job tier count).runnels = s.runnels := by
  unfold askLend; dsimp only; (repeat' split) <;> simp

@[simp] theorem takeBack_runnels (s : State) (l : Lend) : (takeBack s l).runnels = s.runnels := rfl

@[simp] theorem homeLent_runnels (s : State) (b p : Nat) : (homeLent s b p).runnels = s.runnels := by
  unfold homeLent; split
  · rfl
  split
  · rfl
  split
  case h_1 h => exact runnels_of_snd h (takePlace_runnels ..)
  case h_2 h => simp [runnels_of_snd h (takePlace_runnels ..)]

@[simp] theorem takeGrant_runnels (s : State) (l : Lend) (ps : List Nat) : (takeGrant s l ps).runnels = s.runnels := by
  simp [takeGrant]

@[simp] theorem answerSlice_runnels (s : State) (id status : Nat) :
    (answerSlice s id status).runnels = s.runnels := foldl_runnels (fun _ _ => answerDeferred_runnels ..) _ s

@[simp] theorem dropSlice_runnels (s : State) (id : Nat) : (dropSlice s id).runnels = s.runnels := by
  unfold dropSlice
  rw [answerSlice_runnels]
  exact idleFords_runnels ..

@[simp] theorem endPart_runnels (s : State) (b : Nat) (p : Part) (status : Nat) : (endPart s b p status).runnels = s.runnels := by
  unfold endPart; split
  · split
    · simp
    · split
      · split <;> simp
      · rfl
  · exact foldl_runnels (fun _ _ => endJob_runnels ..) _ s

@[simp] theorem loseLends_runnels (s : State) (b : Nat) (lost : Lend → Bool) : (loseLends s b lost).runnels = s.runnels := by
  unfold loseLends; dsimp only
  rw [foldl_runnels (fun _ _ => takeBack_runnels ..),
    foldl_runnels (fun _ _ => foldl_runnels (fun _ _ => poisonHome_runnels ..) _ _)]

@[simp] theorem sliceFault_runnels (s : State) (x : Slice) (cause ford serial sentCause : Nat) :
    (sliceFault s x cause ford serial sentCause).runnels = s.runnels := by
  simp [sliceFault]

@[simp] theorem unbindFord_runnels (s : State) (n : Nat) : (unbindFord s n).runnels = s.runnels := by
  simp [unbindFord]

@[simp] theorem faultAtFord_runnels (s : State) (n cause : Nat) : (faultAtFord s n cause).runnels = s.runnels := by
  unfold faultAtFord; split <;> simp

@[simp] theorem sendIdentities_runnels (was : Nat) (s : State) : (sendIdentities was s).runnels = s.runnels := by
  simp [sendIdentities]

@[simp] theorem sendGrads_runnels (s : State) (t : Train) (u : Nat) : (sendGrads s t u).runnels = s.runnels := by
  unfold sendGrads; dsimp only; (repeat' split) <;> simp

@[simp] theorem addGrads_runnels (s : State) (b tid u axis leaf first : Nat) (vals : List (BitVec 32)) :
    (addGrads s b tid u axis leaf first vals).runnels = s.runnels := by
  unfold addGrads; dsimp only; (repeat' split) <;> simp

@[simp] theorem settleGrads_runnels (b tid fuel : Nat) (s : State) : (settleGrads b tid fuel s).runnels = s.runnels := by
  induction fuel generalizing s with
  | zero => rfl
  | succ n ih =>
    rw [settleGrads]; split
    · rfl
    split
    · rfl
    · simp [ih]

@[simp] theorem takeGrads_runnels (s : State) (ford : Nat) (x : Slice) (tid u first axis leaf : Nat) (data : List Byte) :
    (takeGrads s ford x tid u first axis leaf data).runnels = s.runnels := by
  unfold takeGrads; dsimp only; split <;> simp

@[simp] theorem giveUnit_runnels (s : State) (x : Slice) (job : Option (Nat × Nat × Nat)) (f : Step → State)
    (hf : ∀ x, (f x).runnels = s.runnels) :
    (giveUnit s x job f).runnels = s.runnels := by
  unfold giveUnit; split <;> simp [hf]

@[simp] theorem joinPart_runnels (s : State) (x : Slice) (from_ : Option Nat) (kind ident : Nat) :
    (joinPart s x from_ kind ident).runnels = s.runnels := by
  simp [joinPart]

@[simp] theorem noteBound_runnels (s : State) (x : Slice) (place : Nat × Nat × Nat) (kind ident : Nat) :
    (noteBound s x place kind ident).runnels = s.runnels := by
  simp [noteBound]

@[simp] theorem reportPart_runnels (s : State) (x : Slice) (place : Nat × Nat × Nat) (kind ident : Nat) :
    (reportPart s x place kind ident).runnels = s.runnels := by
  unfold reportPart; split <;> simp

@[simp] theorem announceParts_runnels (s : State) : (announceParts s).runnels = s.runnels := by
  refine foldl_runnels (fun s x => foldl_runnels (fun s p => ?_) _ s) _ s
  dsimp only; split <;> simp

@[simp] theorem takeLendAsk_runnels (s : State) (x : Slice) (px py pz job tier count : Nat) :
    (takeLendAsk s x px py pz job tier count).runnels = s.runnels := by
  simp [takeLendAsk]

@[simp] theorem takeLendReturn_runnels (s : State) (x : Slice) (px py pz index : Nat) :
    (takeLendReturn s x px py pz index).runnels = s.runnels := by
  unfold takeLendReturn; split <;> rfl

@[simp] theorem takeFlitUnit_runnels (s : State) (ford : Nat) (x : Slice) (job : Option (Nat × Nat × Nat)) (u : FlitUnit) :
    (takeFlitUnit s ford x job u).runnels = s.runnels := by
  unfold takeFlitUnit; split
  case h_1 => exact giveUnit_runnels _ _ _ _ fun t => putSum_runnels ..
  all_goals simp

@[simp] theorem takeWith_runnels (s : State) (chan : Nat) (cr : List (Nat × Nat)) (ford : Nat) (x : Slice) (src : Nat × Nat × Nat)
    (job : Option (Nat × Nat × Nat)) (u : FlitUnit) :
    (takeWith s chan cr ford x src job u).runnels = s.runnels := by
  unfold takeWith; split <;> simp

@[simp] theorem payOne_runnels (s : State) (o : Owed) : (payOne s o).runnels = s.runnels := by
  unfold payOne; split <;> simp

@[simp] theorem payOwed_runnels (s : State) : (payOwed s).runnels = s.runnels := by
  simp [payOwed]


/-! ### What the ports, the answers and a report leave of the domains and the runnels -/

theorem domOn_of_core {s t : State} (h : t.core = s.core) (d : Nat) : domOn t d = domOn s d := by
  have hpwr : t.pwr = s.pwr := (congrArg State.pwr h :)
  simp only [domOn, domOf, hpwr]

/-- A change of a domain's record that leaves STATE and its switching off as they are leaves it awake or asleep. -/
theorem domOn_setDom {f : Dom → Dom} (hf : ∀ x, (f x).state = x.state ∧ (f x).switchingOff = x.switchingOff) (s : State) (k d : Nat) :
    domOn (setDom s k f) d = domOn s d := by
  simp only [domOn, domOf, setDom, List.getD_eq_getElem?_getD, List.getElem?_modify]
  by_cases hk : k = d
  · cases s.pwr.doms[d]? <;> simp [hk, hf]
  · simp [hk]

@[simp] theorem usePort_runnels (s : State) (n : Nat) : (usePort s n).runnels = s.runnels := rfl

@[simp] theorem domOn_usePort (s : State) (n d : Nat) : domOn (usePort s n) d = domOn s d := 
  domOn_setDom (f := fun x => { x with idleSince := s.now }) (fun _ => ⟨rfl, rfl⟩) s _ d

@[simp] theorem useTag_runnels (s : State) (n : Nat) (tag : Option SecTag) : (useTag s n tag).runnels = s.runnels := by
  unfold useTag; split <;> rfl

@[simp] theorem domOn_useTag (s : State) (n : Nat) (tag : Option SecTag) (d : Nat) : domOn (useTag s n tag) d = domOn s d := by
  unfold useTag; split <;> rfl

@[simp] theorem putFrame_runnels (s : State) (n pcp : Nat) (mac : Option Nat) (tag : Option SecTag) (x : OutBody) :
    (putFrame s n pcp mac tag x).runnels = s.runnels := count_runnels s 5 n 0 1 1

@[simp] theorem domOn_putFrame (s : State) (n pcp : Nat) (mac : Option Nat) (tag : Option SecTag) (x : OutBody) (d : Nat) :
    domOn (putFrame s n pcp mac tag x) d = domOn s d := domOn_of_core (count_core s 5 n 0 1 1) d

@[simp] theorem sendFrame_runnels (s : State) (n pcp : Nat) (mac : Option Nat) (x : OutBody) : (sendFrame s n pcp mac x).runnels = s.runnels := by
  simp [sendFrame]

@[simp] theorem domOn_sendFrame (s : State) (n pcp : Nat) (mac : Option Nat) (x : OutBody) (d : Nat) :
    domOn (sendFrame s n pcp mac x) d = domOn s d := by
  unfold sendFrame; split <;> simp

theorem sendTo_runnels (s : State) (n ip ours pcp : Nat) (x : OutBody) : (sendTo s n ip ours pcp x).runnels = s.runnels := by
  rw [sendTo, sendFrame_runnels, resolveFor]
  split
  · rfl
  · dsimp only; split
    · rfl
    · exact sendFrame_runnels ..

theorem domOn_sendTo (s : State) (n ip ours pcp : Nat) (x : OutBody) (d : Nat) : domOn (sendTo s n ip ours pcp x) d = domOn s d := by
  rw [sendTo, domOn_sendFrame, resolveFor]
  split
  · rfl
  · dsimp only; split
    · rfl
    · exact domOn_sendFrame ..

theorem servePort_runnels (s : State) (n : Nat) : (servePort s n).runnels = s.runnels := by
  unfold servePort; split
  · rfl
  split
  · rfl
  split
  · rfl
  · exact sendTo_runnels ..

theorem domOn_servePort (s : State) (n d : Nat) : domOn (servePort s n) d = domOn s d := by
  unfold servePort; split
  · rfl
  split
  · rfl
  split
  · rfl
  · exact domOn_sendTo ..

theorem servePorts_runnels (s : State) : (servePorts s).runnels = s.runnels := by
  rw [servePorts, servePort_runnels, servePort_runnels]

theorem domOn_servePorts (s : State) (d : Nat) : domOn (servePorts s) d = domOn s d := by
  rw [servePorts, domOn_servePort, domOn_servePort]

theorem answerBads_core (s : State) : (answerBads s).core = s.core := foldl_keeps (fun s b => answerBad_core b _ s) _ s

theorem finishSigning_runnels (s : State) : (finishSigning s).runnels = s.runnels := by
  unfold finishSigning; split
  · rfl
  · exact reply_runnels ..

theorem domOn_finishSigning (s : State) (d : Nat) : domOn (finishSigning s) d = domOn s d := by
  unfold finishSigning; split
  · rfl
  · dsimp only
    rw [domOn_of_core (reply_core ..)]; rfl

/-! ### The doorbell word -/

/-- The endpoints after a step on an empty queue: each as `readEndpoint` leaves it. -/
theorem tick_ends (s : State) : ∃ u : State, (∀ d, domOn u d = domOn s d) ∧ (tick s).runnels.ends = s.runnels.ends.map (readEndpoint u) := by
  refine ⟨finishSigning (answerBads (servePorts { s with
    now := (s.now + (tickStep s.eth.ptp).1) % 2 ^ 64, eth := { s.eth with ptp := (tickStep s.eth.ptp).2 } })), fun d => ?_, ?_⟩
  · rw [domOn_finishSigning, domOn_of_core (answerBads_core _), domOn_servePorts]; rfl
  · rw [tick]; dsimp only
    rw [hubTick_runnels, payOwed_runnels, announceParts_runnels, sendIdentities_runnels, serveTransfers_runnels]
    dsimp only [readEndpoints]
    rw [finishSigning_runnels, runnels_of_core (answerBads_core _), servePorts_runnels]

theorem readEndpoint_num (s : State) (x : Endpoint) : (readEndpoint s x).num = x.num := by
  unfold readEndpoint; split <;> rfl

theorem readEndpoint_bell_of_on {s : State} {x : Endpoint} (h : domOn s (endDomain x.num) = true) : (readEndpoint s x).bell = 0 := by
  rw [readEndpoint, if_pos h]

theorem wakeDomain_runnels (s : State) (d : Nat) : (wakeDomain s d).runnels = s.runnels := by
  unfold wakeDomain; dsimp only; split
  · rfl
  · refine foldl_runnels (fun s d => ?_) _ s
    unfold wakeOne; dsimp only; repeat' split
    all_goals rfl

theorem wakeEndpoint_runnels (s : State) (n sender b : Nat) : (wakeEndpoint s n sender b).runnels = s.runnels := by
  unfold wakeEndpoint; dsimp only; repeat' split
  all_goals simp [wakeDomain_runnels]

theorem endOf_setEnd_self (s : State) (n : Nat) {f : Endpoint → Endpoint} (hf : ∀ x, (f x).num = x.num) :
    endOf (setEnd s n f) n = (endOf s n).map f := find_updW _ f (fun x => by rw [hf]) _

theorem endOf_setEnd_other (s : State) {n e : Nat} (he : e ≠ n) {f : Endpoint → Endpoint} (hf : ∀ x, (f x).num = x.num) :
    endOf (setEnd s n f) e = endOf s e := by
  have hkeep : ((fun x : Endpoint => x.num == e) ∘ fun x => if x.num == n then f x else x) = fun x => x.num == e := by
    funext x
    by_cases hx : x.num = n <;> simp [hx, hf]
  unfold endOf setEnd updW
  dsimp only
  rw [List.find?_map, hkeep]
  cases h : s.runnels.ends.find? fun x => x.num == e with
  | none => rfl
  | some x =>
    have hx : x.num ≠ n := by
      have : x.num = e := by simpa using List.find?_some h
      omega
    simp [hx]

theorem endOf_of_runnels {s t : State} (h : t.runnels = s.runnels) (n : Nat) : endOf t n = endOf s n := by
  simp only [endOf, h]

theorem num_of_endOf {s : State} {n : Nat} {x : Endpoint} (h : endOf s n = some x) : x.num = n := by
  simpa using List.find?_some h

theorem stampMsg_data (s : State) (sender b job type len : Nat) (data : BitVec 352) :
    (stampMsg s sender b job type len data).1.data = data := rfl

/-- Settles O18: a ring is `ringBell` at an endpoint that is served, a message of TYPE 0xFFFF is put there by the same ring, and a step on
an empty queue reads every endpoint that is awake. -/
theorem doorbellRing : Obligations.DoorbellRing := by
  unfold Obligations.DoorbellRing
  intro s sender basin job mask
  refine ⟨fun e x hend hx hserved => ?ring, fun e len hend => ?message, fun e x hidle hx hon => ?read, fun e hlo hhi => ?host⟩
  case ring =>
    have hbell : ∀ y : Endpoint, ({ y with bell := y.bell ||| mask } : Endpoint).num = y.num := fun _ => rfl
    have hends (n : Nat) : endOf (takeRseq s sender).2 n = endOf s n := rfl
    refine ⟨_, (exec_doorbellRing_of_onDie hend).trans (congrArg _ (arriveAt_of_served hx hserved)), ?_, fun e' he => ?_⟩
    · rw [endOf_of_runnels (wakeEndpoint_runnels ..), ringBell, endOf_setEnd_self _ _ hbell, hends, hx]
      rfl
    · rw [endOf_of_runnels (wakeEndpoint_runnels ..), ringBell, endOf_setEnd_other _ he hbell, hends]
  case message =>
    have hmask : BitVec.ofNat 64 (BitVec.ofNat 352 mask.toNat).toNat = mask := by
      apply BitVec.eq_of_toNat_eq
      have := mask.isLt
      simp only [BitVec.toNat_ofNat]
      omega
    rw [exec_runnelMessage_of_onDie hend, exec_doorbellRing_of_onDie hend]
    unfold putStamped
    simp only [stampMsg_type, if_pos, stampMsg_data, hmask]
  case read =>
    obtain ⟨u, hu, hends⟩ := tick_ends s
    refine ⟨_, readEndpoint u x, step_of_no_command hidle, ?_, readEndpoint_bell_of_on ?_⟩
    · have hnum : ((fun x : Endpoint => x.num == e) ∘ readEndpoint u) = fun x => x.num == e := by
        funext y
        simp [readEndpoint_num]
      rw [endOf, hends, List.find?_map, hnum]
      exact congrArg (Option.map _) hx
    · rw [num_of_endOf hx, hu, hon]
  case host =>
    exact ⟨exec_doorbellRing_of_host ⟨hlo, hhi⟩, rfl⟩

end Sys2Proof.Proofs
end
